-- ==== Sys2Proof/Word.lean ====
section
/-! DEFINITION. The word types of the GQ-KX8 and the names of its places: bytes, 64-bit words,
512-bit vector rows, cells and elements (spec/01 R9-R12, R18; spec/14 R264). -/

namespace Sys2Proof

/-- A 64-bit token, register or memory word. -/
abbrev Word := BitVec 64
/-- A byte of memory. -/
abbrev Byte := BitVec 8
/-- A 512-bit vector register or ring row. -/
abbrev Row := BitVec 512

/-- A cell: package region number 0-79 and cell index 0-15 (R12). -/
structure CellId where
  region : Nat
  cell : Nat
  deriving DecidableEq, Repr

/-- An element or node of a cell. `sub` is the number e of R264: 0-15 GE, 16 SPE, 17 VN, 18 MN,
19 MPE, 20 AGE0, 21 AGE1, 22 CVE, 23 XPE. -/
structure UnitId where
  region : Nat
  cell : Nat
  sub : Nat
  deriving DecidableEq, Repr

/-- The kinds of element and node (R18). -/
inductive UnitKind where
  | ge | spe | mpe | age | cve | xpe | vn | mn
  deriving DecidableEq, Repr

/-- The kind that an element number of R264 names; numbers 24 and above name none. -/
def UnitId.kind? (u : UnitId) : Option UnitKind :=
  if u.sub < 16 then some .ge
  else match u.sub with
    | 16 => some .spe | 17 => some .vn | 18 => some .mn | 19 => some .mpe
    | 20 => some .age | 21 => some .age | 22 => some .cve | 23 => some .xpe
    | _ => none

/-- The cell an element or node stands in. -/
def UnitId.cellId (u : UnitId) : CellId := ⟨u.region, u.cell⟩

/-- A memory door: a port element, or a region's control core (R287). -/
inductive Door where
  | port (u : UnitId)
  | core (region : Nat)
  deriving DecidableEq, Repr

end Sys2Proof
end

