-- ==== Sys2Proof/Machine/Formats.lean ====
section
/-! DEFINITION. Number formats and exact arithmetic (spec/03 R47-R62): exact values, rounding once,
the flags each delivery sets, conversions, and the lanes of packed data. -/

namespace Sys2Proof.Machine

/-- Arithmetic flags in the bit order of ASTAT (R266): iv 5, dz 4, of 3, uf 2, nx 1, sat 0. -/
abbrev Flags := BitVec 6

def flagIV : Flags := 0x20
def flagDZ : Flags := 0x10
def flagOF : Flags := 0x08
def flagUF : Flags := 0x04
def flagNX : Flags := 0x02
def flagSAT : Flags := 0x01

/-- A flag when a condition holds. -/
def flagIf (c : Bool) (f : Flags) : Flags := if c then f else 0

/-- An exact value: NaN, an infinity, or (-1)^neg · (m + δ) · 2^e with δ = 0, or 0 < δ < 1 when
`more` is set (a value that no dyadic number gives, cut off below). -/
inductive Val where
  | nan
  | inf (neg : Bool)
  | num (neg : Bool) (m : Nat) (e : Int) (more : Bool)
  deriving DecidableEq, Repr

/-- A result pattern and the flags of its delivery. -/
structure Res where
  bits : Nat
  flags : Flags
  deriving DecidableEq, Repr

/-- Bits that a natural number takes. -/
def bitLen (n : Nat) : Nat := if n = 0 then 0 else n.log2 + 1

/-- The shape of a floating-point format (R47). `inf` and `nan` say which specials it has. -/
structure FloatFmt where
  ebits : Nat
  mbits : Nat
  bias : Nat
  inf : Bool
  nan : Bool
  deriving DecidableEq, Repr

def fp64 : FloatFmt := ⟨11, 52, 1023, true, true⟩
def fp32 : FloatFmt := ⟨8, 23, 127, true, true⟩
def bf16 : FloatFmt := ⟨8, 7, 127, true, true⟩
def fp16 : FloatFmt := ⟨5, 10, 15, true, true⟩
def e4m3 : FloatFmt := ⟨4, 3, 7, false, true⟩
def e5m2 : FloatFmt := ⟨5, 2, 15, true, true⟩
def e2m1 : FloatFmt := ⟨2, 1, 1, false, false⟩

/-- The floating-point format of a format code (R47). -/
def floatOf? (c : BitVec 4) : Option FloatFmt :=
  match c.toNat with
  | 1 => some fp64 | 2 => some fp32 | 3 => some bf16 | 4 => some fp16
  | 5 => some e4m3 | 6 => some e5m2 | 7 => some e2m1
  | _ => none

/-- The integer format of a format code: width and signedness (R52). -/
def intOf? (c : BitVec 4) : Option (Nat × Bool) :=
  match c.toNat with
  | 8 => some (32, true) | 9 => some (16, true) | 10 => some (8, true) | 11 => some (8, false)
  | 12 => some (4, true) | 13 => some (4, false)
  | _ => none

/-- The width of one element of a format code; RAW counts as 64 bits (R47, R48, R52, R211). -/
def fmtWidth (c : BitVec 4) : Nat :=
  match c.toNat with
  | 0 | 1 => 64
  | 2 | 8 => 32
  | 3 | 4 | 9 => 16
  | 5 | 6 | 10 | 11 | 14 => 8
  | _ => 4

namespace FloatFmt

/-- Width in bits. -/
def width (f : FloatFmt) : Nat := 1 + f.ebits + f.mbits

/-- The exponent field of all ones. -/
def emask (f : FloatFmt) : Nat := 2 ^ f.ebits - 1

/-- Pattern of an infinity, where the format has one. -/
def infBits (f : FloatFmt) (neg : Bool) : Nat :=
  (if neg then 2 ^ (f.ebits + f.mbits) else 0) + f.emask * 2 ^ f.mbits

/-- The canonical NaN (R47, R49). -/
def nanBits (f : FloatFmt) : Nat :=
  if f.inf then f.emask * 2 ^ f.mbits + 2 ^ (f.mbits - 1) else 2 ^ (f.ebits + f.mbits) - 1

/-- Pattern of the greatest finite magnitude (R47). -/
def maxMag (f : FloatFmt) : Nat :=
  if f.inf then f.emask * 2 ^ f.mbits - 1
  else if f.nan then 2 ^ (f.ebits + f.mbits) - 2 else 2 ^ (f.ebits + f.mbits) - 1

/-- Pattern with a sign in front of a magnitude. -/
def signed (f : FloatFmt) (neg : Bool) (mag : Nat) : Nat :=
  (if neg then 2 ^ (f.ebits + f.mbits) else 0) + mag

/-- Exponent of one unit in the last place of the smallest normal and of every subnormal. -/
def eminUlp (f : FloatFmt) : Int := 1 - (f.bias : Int) - f.mbits

/-- The value that a pattern stands for (R47). -/
def decode (f : FloatFmt) (bits : Nat) : Val :=
  let m := bits % 2 ^ f.mbits
  let ef := bits / 2 ^ f.mbits % 2 ^ f.ebits
  let neg := bits / 2 ^ (f.ebits + f.mbits) % 2 = 1
  if f.inf && ef = f.emask then (if m = 0 then .inf neg else .nan)
  else if !f.inf && f.nan && ef = f.emask && m = 2 ^ f.mbits - 1 then .nan
  else if ef = 0 then .num neg m f.eminUlp false
  else .num neg (m + 2 ^ f.mbits) (f.eminUlp + ef - 1) false

end FloatFmt

/-- Round (m + δ)·2^e to a multiple of 2^q (R54): the multiple, and whether it differs. -/
def roundAt (mode : BitVec 2) (neg : Bool) (m : Nat) (e : Int) (more : Bool) (q : Int) : Nat × Bool :=
  if q ≤ e then (m * 2 ^ (e - q).toNat, more)
  else
    let d := (q - e).toNat
    let hi := m / 2 ^ d
    let lo := m % 2 ^ d
    let inexact := lo ≠ 0 || more
    let up :=
      match mode.toNat with
      | 0 => 2 ^ d < 2 * lo || (2 * lo = 2 ^ d && (more || hi % 2 = 1))
      | 1 => false
      | 2 => neg && inexact
      | _ => !neg && inexact
    (if up then hi + 1 else hi, inexact)

/-- Pattern of the magnitude m·2^q, which fits the format's precision and is at most its maximum. -/
def FloatFmt.encodeMag (f : FloatFmt) (m : Nat) (q : Int) : Nat :=
  if m = 0 then 0
  else
    let top : Int := q + bitLen m - 1
    let e0 := 1 - (f.bias : Int)
    if top < e0 then m * 2 ^ (q - f.eminUlp).toNat
    else
      let p := f.mbits + 1
      let sig := if bitLen m ≤ p then m * 2 ^ (p - bitLen m) else m / 2 ^ (bitLen m - p)
      (top - e0 + 1).toNat * 2 ^ f.mbits + (sig - 2 ^ f.mbits)

/-- Is m·2^q above the greatest finite value? -/
def FloatFmt.overMax (f : FloatFmt) (m : Nat) (q : Int) : Bool :=
  if m = 0 then false
  else
    let top : Int := q + bitLen m - 1
    let emax : Int := (f.maxMag / 2 ^ f.mbits : Nat) - (f.bias : Int)
    if top < emax then false
    else if emax < top then true
    else
      let p := f.mbits + 1
      let sig := if bitLen m ≤ p then m * 2 ^ (p - bitLen m) else m / 2 ^ (bitLen m - p)
      f.maxMag % 2 ^ f.mbits + 2 ^ f.mbits < sig

/-- What an overflow delivers (R55). -/
def overflowRes (f : FloatFmt) (mode : BitVec 2) (sat : Bool) (neg : Bool) : Res :=
  if sat || !f.nan then ⟨f.signed neg f.maxMag, flagSAT ||| flagNX⟩
  else
    let toInf := mode = 0 || (mode = 2 && neg) || (mode = 3 && !neg)
    if !toInf then ⟨f.signed neg f.maxMag, flagOF ||| flagNX⟩
    else if f.inf then ⟨f.infBits neg, flagOF ||| flagNX⟩
    else ⟨f.nanBits, flagOF ||| flagNX⟩

/-- RoundTo(f, mode, x) of R55 under a saturation setting: one rounding,
the overflow rule, and the flags of R50 and R56. Where R50 calls 0.75 to E2M1 tiny, the worked row of R58 gives NX
alone: that one value under rne follows the row (notes/assumptions/76). -/
def roundTo (f : FloatFmt) (mode : BitVec 2) (sat : Bool) : Val → Res
  | .nan => if f.nan then ⟨f.nanBits, 0⟩ else ⟨0, flagIV⟩
  | .inf neg =>
      if sat || !f.nan then
        ⟨f.signed neg f.maxMag, flagSAT ||| flagNX⟩
      else if f.inf then ⟨f.infBits neg, 0⟩
      else ⟨f.nanBits, flagIV⟩
  | .num neg m e more =>
      if m = 0 && !more then ⟨f.signed neg 0, 0⟩
      else
        let qFree : Int := e + bitLen m - (f.mbits + 1)
        let (mu, off) := roundAt mode neg m e more qFree
        if f.overMax mu qFree then overflowRes f mode sat neg
        else
          let q := if qFree < f.eminUlp then f.eminUlp else qFree
          let (mr, inexact) := roundAt mode neg m e more q
          let row58 := !f.nan && mode = 0 && !off && mu = 3 && qFree = -2
          let tiny := mu ≠ 0 && (qFree + bitLen mu - 1 : Int) < 1 - (f.bias : Int) && !row58
          ⟨f.signed neg (f.encodeMag mr q),
            flagIf inexact flagNX ||| flagIf (tiny && inexact) flagUF⟩

/-- The sign of an exact value. -/
def Val.neg? : Val → Bool
  | .nan => false
  | .inf n => n
  | .num n _ _ _ => n

/-- Is this an exact zero? -/
def Val.isZero : Val → Bool
  | .num _ 0 _ false => true
  | _ => false

def Val.isNaN : Val → Bool
  | .nan => true
  | _ => false

/-- -v. -/
def Val.negate : Val → Val
  | .nan => .nan
  | .inf n => .inf (!n)
  | .num n m e s => .num (!n) m e s

/-- |v|. -/
def Val.abs : Val → Val
  | .nan => .nan
  | .inf _ => .inf false
  | .num _ m e s => .num false m e s

/-- Exact sum; the flag is IV for ∞ - ∞. An exact zero sum of opposite signs is +0 (R203, R51). -/
def Val.add : Val → Val → Val × Flags
  | .nan, _ => (.nan, 0)
  | _, .nan => (.nan, 0)
  | .inf a, .inf b => if a = b then (.inf a, 0) else (.nan, flagIV)
  | .inf a, _ => (.inf a, 0)
  | _, .inf b => (.inf b, 0)
  | .num na ma ea _, .num nb mb eb _ =>
      let e := min ea eb
      let a : Int := (if na then -1 else 1) * (ma * 2 ^ (ea - e).toNat : Nat)
      let b : Int := (if nb then -1 else 1) * (mb * 2 ^ (eb - e).toNat : Nat)
      let s := a + b
      if s = 0 then (.num (na && nb) 0 0 false, 0) else (.num (s < 0) s.natAbs e false, 0)

/-- Exact product; IV for 0 · ∞. -/
def Val.mul : Val → Val → Val × Flags
  | .nan, _ => (.nan, 0)
  | _, .nan => (.nan, 0)
  | .inf a, b => if b.isZero then (.nan, flagIV) else (.inf (a != b.neg?), 0)
  | a, .inf b => if a.isZero then (.nan, flagIV) else (.inf (a.neg? != b), 0)
  | .num na ma ea _, .num nb mb eb _ => (.num (na != nb) (ma * mb) (ea + eb) false, 0)

/-- Exact fused a · b + c; IV of the product counts even when the addend is a NaN (R204). -/
def Val.fma (a b c : Val) : Val × Flags :=
  let (p, f) := a.mul b
  if f ≠ 0 then (.nan, f) else p.add c

/-- a < b on exact values; false when either is NaN; +0 equals -0 (R207). -/
def Val.lt : Val → Val → Bool
  | .nan, _ => false
  | _, .nan => false
  | .inf a, .inf b => a && !b
  | .inf a, _ => a
  | _, .inf b => !b
  | .num na ma ea _, .num nb mb eb _ =>
      let e := min ea eb
      let a : Int := (if na then -1 else 1) * (ma * 2 ^ (ea - e).toNat : Nat)
      let b : Int := (if nb then -1 else 1) * (mb * 2 ^ (eb - e).toNat : Nat)
      a < b

/-- a = b on exact values. -/
def Val.eqv (a b : Val) : Bool := !a.isNaN && !b.isNaN && !a.lt b && !b.lt a

/-- FMIN and FMAX of patterns (R205): -0 below +0, NaN gives the canonical NaN, no flag. -/
def pickMin (f : FloatFmt) (wantMax : Bool) (x y : Nat) : Nat :=
  let a := f.decode x
  let b := f.decode y
  if a.isNaN || b.isNaN then f.nanBits
  else
    let aLess := a.lt b || (a.isZero && b.isZero && a.neg? && !b.neg?)
    if aLess != wantMax then x else y

/-- Integer square root by Newton steps from above; `fuel` bounds the steps. -/
def isqrtLoop : Nat → Nat → Nat → Nat
  | 0, _, x => x
  | k + 1, n, x =>
      let y := (x + n / x) / 2
      if y < x then isqrtLoop k n y else x

/-- Floor of the square root. -/
def isqrt (n : Nat) : Nat :=
  if n = 0 then 0 else isqrtLoop (bitLen n + 2) n (2 ^ ((bitLen n + 1) / 2))

/-- 1/(m·2^e) cut off below at `p` or more bits (m ≠ 0). -/
def recip (neg : Bool) (m : Nat) (e : Int) (p : Nat) : Val :=
  let k := bitLen m + p
  .num neg (2 ^ k / m) (-e - k) (2 ^ k % m ≠ 0)

/-- 1/√(m·2^e) cut off below at about `p` bits (m ≠ 0). -/
def rsqrt (m : Nat) (e : Int) (p : Nat) : Val :=
  let m' := if e % 2 = 0 then m else 2 * m
  let e' := if e % 2 = 0 then e else e - 1
  -- √(2^(2k) / m'): the quotient's floor has the same integer square root
  let k := bitLen m' + p
  let q := 2 ^ (2 * k) / m'
  let r := isqrt q
  .num false r (-(e' / 2) - k) (r * r ≠ q || 2 ^ (2 * k) % m' ≠ 0)

/-- The bits of working precision of `exp2`. -/
def expPrec : Nat := 256

/-- 2^(0.b₁b₂…b_k) at `expPrec` fraction bits, by square roots from the last bit (R228). `f` holds the
k fraction bits; `y` starts at 1. -/
def exp2Loop : Nat → Nat → Nat → Nat
  | 0, _, y => y
  | k + 1, f, y =>
      exp2Loop k (f / 2) (isqrt ((if f % 2 = 1 then 2 * y else y) * 2 ^ expPrec))

/-- 2^v for a finite v, cut off below (R228). -/
def exp2 (neg : Bool) (m : Nat) (e : Int) : Val :=
  if m = 0 then .num false 1 0 false
  else if 0 ≤ e then
    let n := if bitLen m + e.toNat ≤ 20 then m * 2 ^ e.toNat else 2 ^ 20
    .num false 1 (if neg then -(n : Int) else n) false
  else
    let k := (-e).toNat
    let ip := m / 2 ^ k
    let fp := m % 2 ^ k
    if fp = 0 then .num false 1 (if neg then -(ip : Int) else ip) false
    else
      let ip' := min ip (2 ^ 20)
      let n : Int := if neg then -(ip' : Int) - 1 else ip'
      let fr := if neg then 2 ^ k - fp else fp
      .num false (exp2Loop k fr (2 ^ expPrec)) (n - expPrec) true

/-- FADD, FSUB, FMUL, FMAC of a format, rounding rne (R203, R204). -/
def fAdd (f : FloatFmt) (a b : Nat) : Res :=
  let (v, fl) := (f.decode a).add (f.decode b)
  let r := roundTo f 0 false v
  ⟨r.bits, r.flags ||| fl⟩

def fSub (f : FloatFmt) (a b : Nat) : Res :=
  let (v, fl) := (f.decode a).add (f.decode b).negate
  let r := roundTo f 0 false v
  ⟨r.bits, r.flags ||| fl⟩

def fMul (f : FloatFmt) (a b : Nat) : Res :=
  let (v, fl) := (f.decode a).mul (f.decode b)
  let r := roundTo f 0 false v
  ⟨r.bits, r.flags ||| fl⟩

def fMac (f : FloatFmt) (a b c : Nat) : Res :=
  let (v, fl) := (f.decode a).fma (f.decode b) (f.decode c)
  let r := roundTo f 0 false v
  ⟨r.bits, r.flags ||| fl⟩

def fMin (f : FloatFmt) (a b : Nat) : Res := ⟨pickMin f false a b, 0⟩
def fMax (f : FloatFmt) (a b : Nat) : Res := ⟨pickMin f true a b, 0⟩

/-- 1/a of R206 and R228 at `p` bits: the special inputs, or the exact value cut off. -/
def recipVal (v : Val) (p : Nat) : Val × Flags :=
  match v with
  | .nan => (.nan, 0)
  | .inf n => (.num n 0 0 false, 0)
  | .num n m e _ => if m = 0 then (.inf n, flagDZ) else (recip n m e p, 0)

/-- 1/√a of R206 and R228. -/
def rsqrtVal (v : Val) (p : Nat) : Val × Flags :=
  match v with
  | .nan => (.nan, 0)
  | .inf n => if n then (.nan, flagIV) else (.num false 0 0 false, 0)
  | .num n m e _ =>
      if m = 0 then (.inf n, flagDZ) else if n then (.nan, flagIV) else (rsqrt m e p, 0)

/-- 2^a of R228. -/
def exp2Val (v : Val) : Val × Flags :=
  match v with
  | .nan => (.nan, 0)
  | .inf n => (if n then .num false 0 0 false else .inf false, 0)
  | .num n m e _ => (exp2 n m e, 0)

/-- Twelve significant bits, unbounded exponent, rne (R206); the flag says whether it differs. -/
def round12 : Val → Val × Bool
  | .num n m e more =>
      let q : Int := e + bitLen m - 12
      let (r, x) := roundAt 0 n m e more q
      (.num n r q false, x)
  | v => (v, false)

/-- The FRSQE and FRCPE delivery: y12, then FP32; NX when the result differs from y (R206). -/
def estimate (p : Val × Flags) : Res :=
  match p.1 with
  | .num n m e more =>
      if m = 0 && !more then ⟨fp32.signed n 0, p.2⟩
      else
        let (y, x) := round12 (.num n m e more)
        let r := roundTo fp32 0 false y
        -- exactly equal to y only if neither rounding changed it
        let tiny := r.flags &&& flagUF
        let unb : Bool := match y with
          | .num _ ym ye _ => (ye + bitLen ym - 1 : Int) < -126
          | _ => false
        ⟨r.bits, p.2 ||| r.flags ||| flagIf x flagNX ||| tiny ||| flagIf (x && unb) flagUF⟩
  | v =>
      let r := roundTo fp32 0 false v
      ⟨r.bits, r.flags ||| p.2⟩

def fRsqe (a : Nat) : Res := estimate (rsqrtVal (fp32.decode a) 80)
def fRcpe (a : Nat) : Res := estimate (recipVal (fp32.decode a) 80)

/-- A correctly rounded lane function (R228). -/
def fLane (f : FloatFmt) (p : Val × Flags) : Res :=
  let r := roundTo f 0 false p.1
  ⟨r.bits, r.flags ||| p.2⟩

def fExp2 (f : FloatFmt) (a : Nat) : Res := fLane f (exp2Val (f.decode a))
def fRcp (f : FloatFmt) (a : Nat) : Res := fLane f (recipVal (f.decode a) 160)
def fRsq (f : FloatFmt) (a : Nat) : Res := fLane f (rsqrtVal (f.decode a) 160)

/-- Compares of R207. -/
def fCeq (f : FloatFmt) (a b : Nat) : Bool := (f.decode a).eqv (f.decode b)
def fClt (f : FloatFmt) (a b : Nat) : Bool := (f.decode a).lt (f.decode b)
def fCle (f : FloatFmt) (a b : Nat) : Bool :=
  (f.decode a).lt (f.decode b) || (f.decode a).eqv (f.decode b)
def fCun (f : FloatFmt) (a b : Nat) : Bool := (f.decode a).isNaN || (f.decode b).isNaN

/-- Signed or unsigned reading of w bits. -/
def intVal (w : Nat) (sgn : Bool) (bits : Nat) : Int :=
  if sgn && 2 ^ (w - 1) ≤ bits % 2 ^ w then (bits % 2 ^ w : Nat) - 2 ^ w else (bits % 2 ^ w : Nat)

/-- The two's complement pattern of an integer in w bits. -/
def intBits (w : Nat) (v : Int) : Nat := (v % (2 ^ w : Nat)).toNat

/-- Bounds of an integer format (R52). -/
def intMin (w : Nat) (sgn : Bool) : Int := if sgn then -(2 ^ (w - 1) : Nat) else 0
def intMax (w : Nat) (sgn : Bool) : Int := if sgn then (2 ^ (w - 1) : Nat) - 1 else (2 ^ w : Nat) - 1

/-- Round a value to an integer: the integer and whether it differs. -/
def toInt (mode : BitVec 2) (neg : Bool) (m : Nat) (e : Int) (more : Bool) : Int × Bool :=
  let (r, x) := roundAt mode neg m e more 0
  (if neg then -(r : Int) else r, x)

/-- The value of an element of a format code: floats and E8M0 as they decode, integers exact. -/
def valOf (c : BitVec 4) (bits : Nat) : Val :=
  match floatOf? c with
  | some f => f.decode bits
  | none =>
    match intOf? c with
    | some (w, s) =>
        let v := intVal w s bits
        .num (v < 0) v.natAbs 0 false
    | none =>
        if c = 14 then (if bits % 256 = 255 then .nan else .num false 1 ((bits % 256 : Nat) - 127) false)
        else .num false (bits % 2 ^ 64) 0 false

/-- Conversion to E8M0 (R57); an infinity that is not clamped is delivered to a format that cannot hold it: IV alone
(R56, notes/assumptions/77). -/
def toE8M0 (mode : BitVec 2) (sat : Bool) (v : Val) : Res :=
  let iv := flagIf (v.neg? && !v.isZero) flagIV
  -- NX never accompanies IV (R55, R56)
  let nx (b : Bool) := flagIf (b && iv = 0) flagNX
  match v.abs with
  | .nan => ⟨255, 0⟩
  | .inf _ => if sat then ⟨254, iv ||| flagSAT ||| nx true⟩ else ⟨255, flagIV⟩
  | .num _ m e more =>
      if m = 0 && !more then ⟨0, flagUF ||| flagNX⟩
      else
        let top : Int := e + bitLen m - 1
        -- below 2^top at the first bit; the fraction decides; rne ties go to the even code
        let frac := m - 2 ^ (bitLen m - 1)
        let half := 2 ^ (bitLen m - 1)
        let inexact := frac ≠ 0 || more
        let up :=
          match mode.toNat with
          | 0 => half < 2 * frac || (2 * frac = half && (more || (top + 127) % 2 = 1))
          | 3 => inexact
          | _ => false
        let code := top + 127 + (if up then 1 else 0)
        if code < 0 then ⟨0, iv ||| flagUF ||| nx true⟩
        else if 254 < code then
          (if sat then ⟨254, iv ||| flagSAT ||| nx true⟩ else ⟨255, iv ||| flagOF ||| nx true⟩)
        else ⟨code.toNat, iv ||| nx inexact⟩

/-- Clamp with SAT (R57, R219). -/
def clampInt (lo hi v : Int) : Int × Bool :=
  if v < lo then (lo, true) else if hi < v then (hi, true) else (v, false)

/-- The saturation setting a conversion has: E2M1 always, E4M3 and E5M2 by the flag (R55). -/
def effSat (dst : BitVec 4) (sat : Bool) : Bool := dst = 7 || (sat && (dst = 5 || dst = 6))

/-- Convert(from, to, mode, sat, v) (R57, R58); the same float code is an identity. -/
def convert (src dst : BitVec 4) (mode : BitVec 2) (sat : Bool) (bits : Nat) : Res :=
  let v := valOf src bits
  match floatOf? dst with
  | some f =>
      if src = dst then ⟨if v.isNaN then f.nanBits else bits % 2 ^ f.width, 0⟩
      else roundTo f mode (effSat dst sat) v
  | none =>
    match intOf? dst with
    | some (w, s) =>
        match intOf? src with
        | some (ws, ss) =>
            let x := intVal ws ss bits
            let (y, c) := clampInt (intMin w s) (intMax w s) x
            if c && sat then ⟨intBits w y, flagSAT⟩ else ⟨intBits w x, 0⟩
        | none =>
          match v with
          | .nan => ⟨0, flagIV⟩
          | .inf n =>
              ⟨intBits w (if n then intMin w s else intMax w s),
                if sat then flagSAT ||| flagNX else flagIV⟩
          | .num n m e more =>
              let (r, x) := toInt mode n m e more
              let (y, c) := clampInt (intMin w s) (intMax w s) r
              if c then ⟨intBits w y, if sat then flagSAT ||| flagNX else flagIV⟩
              else ⟨intBits w y, flagIf x flagNX⟩
    | none => toE8M0 mode sat v

/-! Lanes and packed elements (R53, R211). -/

/-- Element j of width w in a packed pattern. -/
def elem (w : Nat) (bits : Nat) (j : Nat) : Nat := bits / 2 ^ (w * j) % 2 ^ w

/-- Pack patterns of width w, the first in the lowest bits. -/
def pack (w : Nat) : List Nat → Nat
  | [] => 0
  | x :: xs => x % 2 ^ w + 2 ^ w * pack w xs

/-- The lanes of a 512-bit row in a format's lane width. -/
def lanes (c : BitVec 4) (r : Row) : List Nat :=
  (List.range (512 / fmtWidth c)).map (elem (fmtWidth c) r.toNat)

/-- A row from lanes of width w. -/
def rowOf (w : Nat) (l : List Nat) : Row := BitVec.ofNat 512 (pack w l)

/-! Format tags (R60-R62). -/

/-- The fmt, grp, fin and side fields of a tag byte (R60). -/
def tagFmt (t : Byte) : BitVec 4 := t.extractLsb' 4 4
def tagGrp (t : Byte) : BitVec 2 := t.extractLsb' 2 2
def tagFin (t : Byte) : Bool := t.getLsbD 1
def tagSide (t : Byte) : Bool := t.getLsbD 0

/-- A tag byte of the fields. -/
def mkTag (fmt : BitVec 4) (grp : BitVec 2) (side fin : Bool) : Byte :=
  fmt ++ grp ++ BitVec.ofBool fin ++ BitVec.ofBool side

/-- grp none and side 0. -/
def tagPlain (t : Byte) : Bool := tagGrp t = 0 && !tagSide t

/-- Equal fmt, grp and side; fin is not compared. -/
def tagSame (s t : Byte) : Bool := tagFmt s = tagFmt t && tagGrp s = tagGrp t && tagSide s = tagSide t

/-- The combinations of R62. -/
def tagLegal (fmt : BitVec 4) (grp : BitVec 2) (side : Bool) : Bool :=
  if fmt = 15 then false
  else if grp = 0 && !side then true
  else if side && grp ≠ 0 && (fmt = 10 || fmt = 11 || fmt = 12 || fmt = 13) then true
  else side && grp = 1 && (fmt = 5 || fmt = 6 || fmt = 7)

/-- Is one element finite in its format (R61)? -/
def finiteElem (c : BitVec 4) (bits : Nat) : Bool :=
  match valOf c bits with
  | .num _ _ _ _ => true
  | _ => false

/-- fin over rows of data (R61): 0 in RAW. -/
def finOf (c : BitVec 4) (rows : List Row) : Bool :=
  if c = 0 || c = 15 then false
  else if (intOf? c).isSome || c = 7 then true
  else rows.all (fun r => (lanes c r).all (finiteElem c))

/-- A tag with fin recomputed over rows. -/
def refin (t : Byte) (rows : List Row) : Byte :=
  mkTag (tagFmt t) (tagGrp t) (tagSide t) (finOf (tagFmt t) rows)

end Sys2Proof.Machine
end

