-- ==== Sys2Proof/Syntax.lean ====
section
/-! DEFINITION. The instruction type of the GQ-KX8: one constructor for each row of
spec/opcode_table.json, that is the E, V, M and C words of spec/04 (R81, R86, R87, R90) with their
operands, and the hardware's own steps (spec/95) with the place each acts on. -/

namespace Sys2Proof

/-- The trigger field of E and V words: context, guard predicate, required value (R78, R85). -/
structure Trig where
  ctx : BitVec 2
  pred : BitVec 3
  req : Bool
  deriving DecidableEq, Repr

/-- A source operand a or b of an E word (R35). -/
inductive Src where
  | x (r : BitVec 3)
  | take (i : BitVec 3)
  | keep (i : BitVec 3)
  | zero
  | one
  | ones
  | elid
  deriving DecidableEq, Repr

/-- A destination operand d of an E word (R35). -/
inductive Dst where
  | x (r : BitVec 3)
  | out (o : BitVec 3)
  | both (r : BitVec 3)
  | discard
  deriving DecidableEq, Repr

/-- A destination that is also read, 0-7 or 16-23 (R202, R204, R305): the register, and whether the
result also goes to the output channel of the same number. -/
structure RegDst where
  r : BitVec 3
  copy : Bool
  deriving DecidableEq, Repr

/-- The predicate-write field pw (R36): none, or p0-p6. -/
inductive PredW where
  | none
  | to (j : BitVec 3)
  deriving DecidableEq, Repr

/-- Scopes 0-4 (R126). -/
inductive Scope where
  | cell | reg | die | pkg | sys
  deriving DecidableEq, Repr

/-- Ordering of a memory word (R82): unordered, or ordered at a scope. -/
inductive MemOrder where
  | plain
  | ordered (s : Scope)
  deriving DecidableEq, Repr

/-- Access widths of 1, 2, 4 and 8 bytes. -/
inductive Width where
  | b | h | w | d
  deriving DecidableEq, Repr

/-- The literal of SEXT and ZEXT: 8, 16 or 32 bits (R196). -/
inductive ExtWidth where
  | n8 | n16 | n32
  deriving DecidableEq, Repr

/-- FENCE kinds (R129). -/
inductive FenceKind where
  | full | acq | rel
  deriving DecidableEq, Repr

/-- The operand fields shared by the multiplying M words (R87, R249). -/
structure MacFields where
  ringA : BitVec 4
  ringB : BitVec 4
  acc : BitVec 3
  count : BitVec 12
  popA : Bool
  popB : Bool
  clr : Bool
  zskip : Bool
  rounding : BitVec 2
  deriving DecidableEq, Repr

/-- Power states that a request names (R446). -/
inductive PowerTarget where
  | p0
  | p1 (regions : List Nat)
  | p2
  deriving DecidableEq, Repr

/-- Dvori port states (R436). -/
inductive DvoriState where
  | down | training | up
  deriving DecidableEq, Repr

/-- An ingest descriptor (R438): addresses, shape, format codes (grouped and MX are named by group
and target), zero elision and status address. -/
structure IngestDesc where
  src : Nat
  dst : Nat
  rows : Nat
  k : Nat
  srcFmt : BitVec 4
  dstFmt : BitVec 4
  group : Nat
  elide : Bool
  status : Nat
  deriving DecidableEq, Repr

/-- A checkpoint descriptor (R440): ranges as base and size, target, cut stamp, scope. -/
structure CheckpointDesc where
  ranges : List (Nat × Nat)
  toHost : Bool
  target : Nat
  cut : Nat
  scope : Scope
  deriving DecidableEq, Repr

/-- A debug token as received (R444); `body` is its 128 bytes, `sig` its signature. -/
structure DebugTok where
  level : BitVec 64
  devid : BitVec 18
  nonce : BitVec 256
  flags : BitVec 64
  rest : Bool
  body : List Byte
  sig : List Byte
  deriving DecidableEq, Repr

/-- What a setup message carries beside class and addressing: the target, the shape's extents and strides, the element size (R134). -/
structure CtxShape where
  target : Nat
  ext : List Nat
  str : List (BitVec 64)
  esz : Nat
  deriving DecidableEq, Repr

/-- What a remote device's traffic carries (R436, R161): a plain write of bytes, or one element of a
link collective toward a scratchpad locator. -/
inductive RemotePayload where
  | bytes (bs : List Byte)
  | reduce (op : BitVec 3) (fmt : BitVec 4) (elem : Word)
  deriving DecidableEq, Repr

/-- What arrives through one of the module's two host functions, each the physical function of one host link (R431). -/
structure Via (α : Type) where
  fn : Nat
  arg : α
  deriving DecidableEq, Repr

/-- Where a host's register access reaches: the offset in BAR0, and its size in bytes; or, where `config` stands, the
configuration space's size field of the resizable BAR2 (R431). -/
structure BarPlace where
  off : Nat
  size : Nat
  config : Bool
  deriving DecidableEq, Repr

/-- The instructions: one constructor per row of the opcode table. -/
inductive Instr where
  -- E words (R81)
  | mov (t : Trig) (d : Dst) (a : Src) (p : PredW)
  | add (t : Trig) (d : Dst) (a b : Src) (p : PredW)
  | sub (t : Trig) (d : Dst) (a b : Src) (p : PredW)
  | mul (t : Trig) (d : Dst) (a b : Src) (p : PredW)
  | mulhs (t : Trig) (d : Dst) (a b : Src) (p : PredW)
  | mulhu (t : Trig) (d : Dst) (a b : Src) (p : PredW)
  | and (t : Trig) (d : Dst) (a b : Src) (p : PredW)
  | or (t : Trig) (d : Dst) (a b : Src) (p : PredW)
  | xor (t : Trig) (d : Dst) (a b : Src) (p : PredW)
  | andn (t : Trig) (d : Dst) (a b : Src) (p : PredW)
  | shl (t : Trig) (d : Dst) (a b : Src) (p : PredW)
  | shr (t : Trig) (d : Dst) (a b : Src) (p : PredW)
  | sar (t : Trig) (d : Dst) (a b : Src) (p : PredW)
  | min (t : Trig) (d : Dst) (a b : Src) (p : PredW)
  | max (t : Trig) (d : Dst) (a b : Src) (p : PredW)
  | minu (t : Trig) (d : Dst) (a b : Src) (p : PredW)
  | maxu (t : Trig) (d : Dst) (a b : Src) (p : PredW)
  | adds (t : Trig) (d : Dst) (a b : Src) (p : PredW)
  | subs (t : Trig) (d : Dst) (a b : Src) (p : PredW)
  | clz (t : Trig) (d : Dst) (a : Src) (p : PredW)
  | popc (t : Trig) (d : Dst) (a : Src) (p : PredW)
  | sext (t : Trig) (d : Dst) (a : Src) (n : ExtWidth) (p : PredW)
  | zext (t : Trig) (d : Dst) (a : Src) (n : ExtWidth) (p : PredW)
  | ceq (t : Trig) (d : Dst) (a b : Src) (p : PredW)
  | cne (t : Trig) (d : Dst) (a b : Src) (p : PredW)
  | clt (t : Trig) (d : Dst) (a b : Src) (p : PredW)
  | cle (t : Trig) (d : Dst) (a b : Src) (p : PredW)
  | cltu (t : Trig) (d : Dst) (a b : Src) (p : PredW)
  | cleu (t : Trig) (d : Dst) (a b : Src) (p : PredW)
  | ctst (t : Trig) (d : Dst) (a b : Src) (p : PredW)
  | addi (t : Trig) (d : Dst) (a : Src) (imm : BitVec 9)
  | andi (t : Trig) (d : Dst) (a : Src) (imm : BitVec 9)
  | ori (t : Trig) (d : Dst) (a : Src) (imm : BitVec 9)
  | xori (t : Trig) (d : Dst) (a : Src) (imm : BitVec 9)
  | shli (t : Trig) (d : Dst) (a : Src) (c : BitVec 6)
  | shri (t : Trig) (d : Dst) (a : Src) (c : BitVec 6)
  | sari (t : Trig) (d : Dst) (a : Src) (c : BitVec 6)
  | ceqi (t : Trig) (j : BitVec 3) (a : Src) (imm : BitVec 9)
  | clti (t : Trig) (j : BitVec 3) (a : Src) (imm : BitVec 9)
  | cltui (t : Trig) (j : BitVec 3) (a : Src) (imm : BitVec 9)
  | movi (t : Trig) (d : Dst) (imm : BitVec 14)
  | shin (t : Trig) (d : RegDst) (imm : BitVec 14)
  | faddS (t : Trig) (d : Dst) (a b : Src) (p : PredW)
  | fsubS (t : Trig) (d : Dst) (a b : Src) (p : PredW)
  | fmulS (t : Trig) (d : Dst) (a b : Src) (p : PredW)
  | fmacS (t : Trig) (d : RegDst) (a b : Src) (p : PredW)
  | fminS (t : Trig) (d : Dst) (a b : Src) (p : PredW)
  | fmaxS (t : Trig) (d : Dst) (a b : Src) (p : PredW)
  | frsqeS (t : Trig) (d : Dst) (a : Src) (p : PredW)
  | frcpeS (t : Trig) (d : Dst) (a : Src) (p : PredW)
  | fceqS (t : Trig) (d : Dst) (a b : Src) (p : PredW)
  | fcltS (t : Trig) (d : Dst) (a b : Src) (p : PredW)
  | fcleS (t : Trig) (d : Dst) (a b : Src) (p : PredW)
  | fcunS (t : Trig) (d : Dst) (a b : Src) (p : PredW)
  | faddD (t : Trig) (d : Dst) (a b : Src) (p : PredW)
  | fsubD (t : Trig) (d : Dst) (a b : Src) (p : PredW)
  | fmulD (t : Trig) (d : Dst) (a b : Src) (p : PredW)
  | fmacD (t : Trig) (d : RegDst) (a b : Src) (p : PredW)
  | fminD (t : Trig) (d : Dst) (a b : Src) (p : PredW)
  | fmaxD (t : Trig) (d : Dst) (a b : Src) (p : PredW)
  | fceqD (t : Trig) (d : Dst) (a b : Src) (p : PredW)
  | fcltD (t : Trig) (d : Dst) (a b : Src) (p : PredW)
  | fcleD (t : Trig) (d : Dst) (a b : Src) (p : PredW)
  | fcunD (t : Trig) (d : Dst) (a b : Src) (p : PredW)
  | steer (t : Trig) (o : BitVec 2) (a b : Src)
  | mergec (t : Trig) (d : Dst) (iT iF iC : BitVec 3)
  | dup (t : Trig) (o : BitVec 2) (a : Src)
  | gate (t : Trig) (d : Dst) (a b : Src)
  | join (t : Trig) (d : Dst) (a b : Src)
  | kind (t : Trig) (d : Dst) (i : BitVec 3) (kept : Bool) (p : PredW)
  | marki (t : Trig) (o : BitVec 3) (code : BitVec 14)
  | emitd (t : Trig) (o : BitVec 3) (a : Src)
  | ld (t : Trig) (d : Dst) (a : Src) (w : Width) (sx : Bool) (o : MemOrder)
  | ldas (t : Trig) (d : Dst) (a b : Src) (sys : Bool)
  | st (t : Trig) (d : Dst) (a b : Src) (o : MemOrder)
  | stw (t : Trig) (d : Dst) (a b : Src) (o : MemOrder)
  | sth (t : Trig) (d : Dst) (a b : Src) (o : MemOrder)
  | stb (t : Trig) (d : Dst) (a b : Src) (o : MemOrder)
  | stsc (t : Trig) (d : Dst) (a b : Src) (sys : Bool)
  | stsp (t : Trig) (d : Dst) (a b : Src) (sys : Bool)
  | aadd (t : Trig) (d : Dst) (a b : Src) (o : MemOrder)
  | amin (t : Trig) (d : Dst) (a b : Src) (o : MemOrder)
  | amax (t : Trig) (d : Dst) (a b : Src) (o : MemOrder)
  | aand (t : Trig) (d : Dst) (a b : Src) (o : MemOrder)
  | aor (t : Trig) (d : Dst) (a b : Src) (o : MemOrder)
  | axor (t : Trig) (d : Dst) (a b : Src) (o : MemOrder)
  | axchg (t : Trig) (d : Dst) (a b : Src) (o : MemOrder)
  | acas (t : Trig) (d : RegDst) (a b : Src) (o : MemOrder)
  | aadds (t : Trig) (d : Dst) (a b : Src) (o : MemOrder)
  | xgrant (t : Trig) (o : BitVec 2) (a : Src)
  | xsend (t : Trig) (o : BitVec 3) (iS iP : BitVec 3)
  | xrecv (t : Trig) (o : BitVec 2) (i : BitVec 3)
  | agen (t : Trig) (g : BitVec 3) (b : Src)
  | agset (t : Trig) (g : BitVec 3) (a : Src) (imm : BitVec 9)
  | agrst (t : Trig) (g : BitVec 3)
  | cvtRne (t : Trig) (d : Dst) (a : Src) (src dst : BitVec 4) (sat : Bool)
  | cvtRtz (t : Trig) (d : Dst) (a : Src) (src dst : BitVec 4) (sat : Bool)
  | cvtRdn (t : Trig) (d : Dst) (a : Src) (src dst : BitVec 4) (sat : Bool)
  | cvtRup (t : Trig) (d : Dst) (a : Src) (src dst : BitVec 4) (sat : Bool)
  -- V words (R86)
  | vmov (t : Trig) (vd va : BitVec 4) (m : BitVec 3)
  | vadd (t : Trig) (vd va vb : BitVec 4) (m : BitVec 3)
  | vsub (t : Trig) (vd va vb : BitVec 4) (m : BitVec 3)
  | vmul (t : Trig) (vd va vb : BitVec 4) (m : BitVec 3)
  | vfma (t : Trig) (vd va vb : BitVec 4) (m : BitVec 3)
  | vmin (t : Trig) (vd va vb : BitVec 4) (m : BitVec 3)
  | vmax (t : Trig) (vd va vb : BitVec 4) (m : BitVec 3)
  | vabs (t : Trig) (vd va : BitVec 4) (m : BitVec 3)
  | vand (t : Trig) (vd va vb : BitVec 4) (m : BitVec 3)
  | vor (t : Trig) (vd va vb : BitVec 4) (m : BitVec 3)
  | vxor (t : Trig) (vd va vb : BitVec 4) (m : BitVec 3)
  | vshl (t : Trig) (vd va vb : BitVec 4) (m : BitVec 3)
  | vshr (t : Trig) (vd va vb : BitVec 4) (m : BitVec 3)
  | vqshr (t : Trig) (vd va : BitVec 4) (m : BitVec 3) (s : BitVec 5)
  | vnarrow (t : Trig) (vd va : BitVec 4) (round : BitVec 2) (m : BitVec 3) (fmt : BitVec 4) (sat : Bool)
  | vwiden (t : Trig) (vp : BitVec 3) (va : BitVec 4) (m : BitVec 3) (fmt : BitVec 4)
  | vwmac (t : Trig) (vp : BitVec 3) (va vb : BitVec 4) (m : BitVec 3)
  | vcmpeq (t : Trig) (mk : BitVec 3) (va vb : BitVec 4) (m : BitVec 3)
  | vcmplt (t : Trig) (mk : BitVec 3) (va vb : BitVec 4) (m : BitVec 3)
  | vcmple (t : Trig) (mk : BitVec 3) (va vb : BitVec 4) (m : BitVec 3)
  | vsel (t : Trig) (vd va vb : BitVec 4) (m : BitVec 3)
  | vredadd (t : Trig) (vd va : BitVec 4) (m : BitVec 3)
  | vredmax (t : Trig) (vd va : BitVec 4) (m : BitVec 3)
  | vbcast (t : Trig) (vd va : BitVec 4) (m : BitVec 3) (i : BitVec 5)
  | vexp2 (t : Trig) (vd va : BitVec 4) (m : BitVec 3)
  | vrcp (t : Trig) (vd va : BitVec 4) (m : BitVec 3)
  | vrsq (t : Trig) (vd va : BitVec 4) (m : BitVec 3)
  | vshuf (t : Trig) (vd va vb : BitVec 4) (m : BitVec 3)
  | vslide (t : Trig) (vd va vb : BitVec 4) (m : BitVec 3) (s : BitVec 5)
  | vtag (t : Trig) (vd : BitVec 4) (fmt : BitVec 4) (grp : BitVec 2) (bit1 : Bool) (side : Bool)
  | vsetp (t : Trig) (j : BitVec 3)
  | vldr (t : Trig) (vd : BitVec 4) (ring : BitVec 4) (pop : Bool)
  | vstr (t : Trig) (va : BitVec 4) (ring : BitVec 4) (commit : Bool)
  | vlds (t : Trig) (vd : BitVec 4) (i : BitVec 2)
  | vsts (t : Trig) (va : BitVec 4) (o : BitVec 2)
  -- M words (R87)
  | tmma (f : MacFields)
  | tmmag (f : MacFields) (sideA sideB : BitVec 4)
  | tmmax (f : MacFields) (sideA sideB : BitVec 4)
  | tzero (acc : BitVec 3)
  | tdrain (acc : BitVec 3) (clr : Bool) (outRing outFmt : BitVec 4) (rounding : BitVec 2) (shift : BitVec 5)
  | tload (acc : BitVec 3) (ring : BitVec 4) (pop : Bool)
  | taddr (acc : BitVec 3) (ring : BitVec 4) (pop : Bool)
  | ttrans (ring : BitVec 4) (pop : Bool) (outRing : BitVec 4)
  -- C words (R90)
  | coreAdd (d a b : BitVec 5)
  | coreSub (d a b : BitVec 5)
  | coreAnd (d a b : BitVec 5)
  | coreOr (d a b : BitVec 5)
  | coreXor (d a b : BitVec 5)
  | coreShl (d a b : BitVec 5)
  | coreShr (d a b : BitVec 5)
  | coreSar (d a b : BitVec 5)
  | coreMul (d a b : BitVec 5)
  | coreMulhs (d a b : BitVec 5)
  | coreMulhu (d a b : BitVec 5)
  | divu (d a b : BitVec 5)
  | remu (d a b : BitVec 5)
  | slt (d a b : BitVec 5)
  | sltu (d a b : BitVec 5)
  | coreMin (d a b : BitVec 5)
  | coreMax (d a b : BitVec 5)
  | coreAddi (d a : BitVec 5) (imm : BitVec 16)
  | coreAndi (d a : BitVec 5) (imm : BitVec 16)
  | coreOri (d a : BitVec 5) (imm : BitVec 16)
  | coreXori (d a : BitVec 5) (imm : BitVec 16)
  | slti (d a : BitVec 5) (imm : BitVec 16)
  | sltui (d a : BitVec 5) (imm : BitVec 16)
  | coreShli (d a : BitVec 5) (c : BitVec 6)
  | coreShri (d a : BitVec 5) (c : BitVec 6)
  | coreSari (d a : BitVec 5) (c : BitVec 6)
  | lih (d : BitVec 5) (imm : BitVec 16)
  | shi16 (d a : BitVec 5) (imm : BitVec 16)
  | ldd (d a : BitVec 5) (off : BitVec 16)
  | ldw (d a : BitVec 5) (off : BitVec 16)
  | ldwu (d a : BitVec 5) (off : BitVec 16)
  | ldh (d a : BitVec 5) (off : BitVec 16)
  | ldhu (d a : BitVec 5) (off : BitVec 16)
  | ldb (d a : BitVec 5) (off : BitVec 16)
  | ldbu (d a : BitVec 5) (off : BitVec 16)
  | std (d a : BitVec 5) (off : BitVec 16)
  | coreStw (d a : BitVec 5) (off : BitVec 16)
  | coreSth (d a : BitVec 5) (off : BitVec 16)
  | coreStb (d a : BitVec 5) (off : BitVec 16)
  | lda (d a : BitVec 5) (s : Scope)
  | stl (a b : BitVec 5) (s : Scope)
  | amoadd (d a b : BitVec 5) (o : MemOrder)
  | amomin (d a b : BitVec 5) (o : MemOrder)
  | amomax (d a b : BitVec 5) (o : MemOrder)
  | amoand (d a b : BitVec 5) (o : MemOrder)
  | amoor (d a b : BitVec 5) (o : MemOrder)
  | amoxor (d a b : BitVec 5) (o : MemOrder)
  | amoxchg (d a b : BitVec 5) (o : MemOrder)
  | amocas (d a b : BitVec 5) (o : MemOrder)
  | amoadds (d a b : BitVec 5) (o : MemOrder)
  | fence (k : FenceKind) (s : Scope)
  | beq (a b : BitVec 5) (off : BitVec 16)
  | bne (a b : BitVec 5) (off : BitVec 16)
  | blt (a b : BitVec 5) (off : BitVec 16)
  | bge (a b : BitVec 5) (off : BitVec 16)
  | bltu (a b : BitVec 5) (off : BitVec 16)
  | bgeu (a b : BitVec 5) (off : BitVec 16)
  | jmp (off : BitVec 26)
  | jr (a : BitVec 5)
  | call (off : BitVec 26)
  | callr (a : BitVec 5)
  | ret
  | clkrd (p : BitVec 4)
  | cyc (d : BitVec 5)
  | sleepu (a : BitVec 5)
  | waits (a : BitVec 5) (sys : Bool)
  | floor (d : BitVec 5) (sys : Bool)
  | sts (d a b : BitVec 5) (sys posted : Bool)
  | coreLdas (d a b : BitVec 5) (sys : Bool)
  | sbind (d a b : BitVec 5) (h : BitVec 8) (watch fenced : Bool)
  | hwait (h : BitVec 8)
  | hqry (d : BitVec 5) (h : BitVec 8)
  | hdrain (h : BitVec 8)
  | hfree (h : BitVec 8)
  | hcancel (h : BitVec 8)
  | launch (d a : BitVec 5) (prio : BitVec 2)
  | phase (a : BitVec 5) (mask : BitVec 4)
  | msend (d a b : BitVec 5) (nak : Bool)
  | mrecv (d a : BitVec 5) (wait : Bool)
  | tlook (d a : BitVec 5)
  | tfill (a b : BitVec 5)
  | tevict (a : BitVec 5)
  | sqrd (d a : BitVec 5)
  | sqset (d a b : BitVec 5)
  | sqadmit (d a b : BitVec 5)
  | sqretire (d a : BitVec 5)
  | cntrd (d a : BitVec 5)
  | cntcfg (d a b : BitVec 5)
  | cntclr (a : BitVec 5)
  | csrrd (d b : BitVec 5)
  | csrwr (a b : BitVec 5)
  | trap (a : BitVec 5)
  | eret
  | halt
  | freeze (a : BitVec 5)
  | thaw (a : BitVec 5)
  | resume (a : BitVec 5)
  | brk
  -- the hardware's own steps (95)
  | writeBack (u : UnitId)
  | tokenArrival (u : UnitId) (i : Nat)
  | multiTokenPlace (u : UnitId)
  | vldsTokenTake (u : UnitId) (i : Nat)
  | vstsTokenPlace (u : UnitId) (o : Nat)
  | bankFetch (u : UnitId) (b : Nat)
  | bankFill (u : UnitId) (b : Nat)
  | tilePairStart (u : UnitId)
  | tilePairRetire (u : UnitId)
  | mWordRetire (u : UnitId)
  | phaseEnd (r : Nat)
  | placementComplete (id : Nat)
  | completionRecordWrite (id : Nat)
  | scheduleDecision
  | agelimPromotion (id : Nat)
  | preemption
  | watchdogExpiry (r : Nat)
  | pflimitFreeze (r port : Nat)
  | promiseMissed (r h : Nat)
  | trapEntry (r : Nat)
  | waitComplete (r : Nat)
  | memoryAccessComplete (d : Door) (k : Nat)
  | pageWalkComplete (r port : Nat)
  | stampedInstall (k : Nat)
  | stampedVisible (k : Nat)
  | ldasReturn (k : Nat)
  | floorBroadcast
  | systemFloorUpdate (f : Nat)
  | widenedStateEntry (d : Nat)
  | widenedStateExit (d : Nat)
  | systemFloorStall
  | clockSync (d e l : Nat)
  | streamCommandStart (r port : Nat)
  | streamElementPerform (r port : Nat)
  | streamCommandComplete (r port : Nat)
  | kvHalfWrite (k : Nat)
  | kvSegmentSwitch (c : CellId) (n : Nat)
  | kvSegmentResume (c : CellId) (n : Nat)
  | exchangeSendToken (p : Nat)
  | exchangeReceiveToken (p : Nat)
  | exchangeRelease (p : Nat)
  | stepBuilderMicrobatch
  | squashReport
  | noticeApplyStage (r : Nat)
  | noticeApplySegment (r : Nat)
  | stageAcknowledge (id slot : Nat)
  | settle (slot : Nat)
  | establishNoticeApply (r : Nat)
  | slotActivate (slot : Nat)
  | slotFree (slot : Nat)
  | reportPortTake (id k : Nat)
  | kvPortTake (id k : Nat)
  | messageRoute
  | parkedMessageDeliver (id : Nat)
  | freezeWave (r : Nat)
  | freezeReadoutComplete (r : Nat)
  | hubRestore (addr r : Nat)
  | drainStart (r : Nat)
  | drainComplete (r : Nat)
  | drainTimeout (r : Nat)
  | traceRecordWrite
  | traceAnchor
  | flitArrival (l : Nat) (dir : Bool) (c : Nat)
  | flitCheckFail (l : Nat) (dir : Bool)
  | creditReturn (l : Nat) (dir : Bool) (c : Nat)
  | contextSetup (l : Nat) (dir : Bool) (c cls : Nat) (phys : Bool) (target : CtxShape)
  | contextTeardown (l : Nat) (dir : Bool) (c : Nat)
  | linkDown (l : Nat)
  | dvoriPortStateChange (p : Nat) (st : DvoriState) (lanes : BitVec 4)
  | dramUncorrectableError (a : Nat)
  | scrub (a : Nat)
  | hostLaunchWrite (prio : Via Nat) (wellFormed : Bool) (record idAddr : Nat)
  | launchCancel (wellFormed : Bool) (id : Via Nat)
  | hostMessageWrite (msg : List Word) (dest : Via Nat) (status : Nat)
  | hostBar2Access (write : Bool) (off : Via Nat) (size : Nat) (data : List Byte)
  | portResumeWrite (r : Via Nat) (n : Nat)
  | translationInvalidate (r : Via Nat)
  | registerWrite (off : Via BarPlace) (v : Word)
  | ingestDescriptor (d : Via IngestDesc)
  | ingestComplete
  | checkpointDescriptor (d : Via CheckpointDesc)
  | checkpointCopy
  | functionLevelReset
  | powerOn
  | bringupPhaseComplete
  | powerStateRequest (target : PowerTarget)
  | powerRemoval
  | debugToken (t : DebugTok)
  | debugLevelLower
  | lifecycleTransfer (digest : BitVec 256) (sig : List Byte)
  | lifecycleRelease (ownerSig vendorSig : List Byte)
  | getMeasurements (nonce : BitVec 256)
  | getCertificate
  | ideKm (fn : Nat) (key : BitVec 256)
  | enclaveUncorrectableError
  | illegalWord (w : BitVec 32)
  | fetchOutsideCodeArea
  | remoteWrite (addr : Nat) (p : RemotePayload)
  | spdmSession (fn : Nat)
  deriving DecidableEq, Repr

end Sys2Proof
end

