-- ==== Sys2Proof/Config.lean ====
section
/-! DEFINITION. What an implementation fixes and the spec leaves open: the configuration image as pmld lays
it out, and the free values. Every `opaque` constant here has no body, so no proof can see a value of it
(notes/assumptions/6 and 7). -/

namespace Sys2Proof

/-- A primed token's value (K9). -/
inductive PrimeVal where
  | data (w : Word)
  | param (k : Nat)
  | done
  | mark (code : BitVec 14)
  deriving DecidableEq, Repr

/-- A unit's section in one phase: offsets of its general element or of its cell's north-west one, the
kind and number e of R264, slots with their 32-bit words as they stand from the lower address up, primed inputs, vector
predicates, converter split mode. -/
structure ImgUnit where
  dx : Nat
  dy : Nat
  sub : Nat
  phase : Nat
  raw : List (Nat × List (BitVec 32))
  primes : List (Nat × List PrimeVal)
  vpreds : List (BitVec 2 × BitVec 3)
  split : Bool
  deriving DecidableEq, Repr

/-- A word from its 32-bit words, bits 31:0 at the lower address (R45). -/
def joinHalves : List (BitVec 32) → Word
  | [] => 0
  | [w] => w.setWidth 64
  | lo :: hi :: _ => hi ++ lo

/-- The words of a section by slot: an E or V word is one 32-bit word, an M word two (R45, R73). -/
def ImgUnit.words (u : ImgUnit) : List (Nat × Word) := u.raw.map (fun e => (e.1, joinHalves e.2))

/-- An end of a channel: image offsets, e of R264 (for a general element 0), channel. -/
structure ImgEnd where
  dx : Nat
  dy : Nat
  sub : Nat
  ch : Nat
  deriving DecidableEq, Repr

/-- A `.chan` of a phase: a source output and up to four destinations (R37, R119). -/
structure ImgChan where
  phase : Nat
  src : ImgEnd
  dests : List ImgEnd
  deriving DecidableEq, Repr

/-- A `.ring`: cell offsets, number, slots, tag, label (a data offset) (R40). -/
structure ImgRing where
  dx : Nat
  dy : Nat
  ring : Nat
  slots : Nat
  tag : Byte
  label : Option Nat
  deriving DecidableEq, Repr

/-- A phase's successor rule (K26); a predicate chooses between two phases, none being `stop`. -/
inductive PhaseRule where
  | stop
  | goto (n : Nat)
  | pred (k : Nat) (n1 n2 : Option Nat)
  deriving DecidableEq, Repr

/-- A range entry as it stands in the image (R351): the unit is port 0-3 for an MPE of west-edge row
p of the region at (rx, ry) of the rectangle, 4-19 for its stream ports (R379). -/
structure ImgRange where
  rx : Nat
  ry : Nat
  port : Nat
  idx : Nat
  vbase : Word
  size : Word
  phys : Word
  attr : Word
  vparam : Option Nat
  sparam : Option Nat
  deriving DecidableEq, Repr

/-- A `.xpair` (R329): sender and receiver cells, channels, buffer places and size. -/
structure ImgPair where
  sx : Nat
  sy : Nat
  out : Nat
  rx : Nat
  ry : Nat
  inp : Nat
  rel : Nat
  permitOut : Nat
  pingSpad : Bool
  pingOff : Nat
  pongSpad : Bool
  pongOff : Nat
  size : Nat
  deriving DecidableEq, Repr

/-- A report point: a guess point 1-3, or the final sampler. -/
inductive Point where
  | guess (k : Nat)
  | final
  deriving DecidableEq, Repr

/-- The pipeline ports (R418). -/
structure ImgPipes where
  start : Option (ImgEnd × ImgEnd × ImgEnd × Nat)
  reports : List (Point × ImgEnd × ImgEnd)
  kvs : List (Nat × ImgEnd × ImgEnd)
  deriving DecidableEq, Repr

/-- A node map entry (R365). -/
structure ImgNode where
  dx : Nat
  dy : Nat
  sub : Nat
  slot : Nat
  node : Nat
  xreg : Option (BitVec 3)
  deriving DecidableEq, Repr

/-- A configuration image, read as pmld lays it out. Addresses of the code and data areas are virtual
with their physical places; `shapes` are the 64-byte records laid in the region store from offset 0. -/
structure Image where
  w : Nat
  h : Nat
  cfgtag : Byte
  spadKib : Nat
  rcapKib : Nat
  phases : List (Nat × PhaseRule)
  units : List ImgUnit
  chans : List ImgChan
  rings : List ImgRing
  ranges : List ImgRange
  shapes : List (List Byte)
  shapeParams : List (Nat × Nat × Nat)
  spill : Nat
  codeV : Word
  codeP : Nat
  codeSize : Nat
  entry : Word
  rest : Word
  dataV : Word
  dataP : Nat
  dataSize : Nat
  pairs : List ImgPair
  pipes : ImgPipes
  nodes : List ImgNode
  deriving DecidableEq, Repr

namespace Config

/-- The rank of agent k among its like in a cycle: the order in which agents move within a cycle is not given (R2). -/
opaque order : Nat → Nat → Nat

/-- Does agent k of the memory system or of a link stand still in a cycle: how long accesses take is not given (R2, R97). -/
opaque waits : Nat → Nat → Bool

/-- What word 3 of a heat entry reads as in a cycle (R380). -/
opaque heatFree : Nat → Word

/-- How many bytes an image at a physical address takes (notes/assumptions/6). -/
opaque imageSpan : Nat → Nat

/-- The image that stands at a physical address, given the listed bytes of the addresses it takes; none where the bytes are
no image as pmld lays it out (R130). The byte layout is not given (notes/assumptions/6). -/
opaque imageAt : Nat → List Host.Cell → Option Image

/-- True time's advance in stamp units at a cycle (nominally 20/3, R368). -/
opaque clockStep : Nat → Nat

/-- The time domain of the device at the far end of a Dvori port in a cycle, and whether that device is its root: a device's own
registers name its own domain alone (R437, notes/assumptions/13). -/
opaque portDomain : Nat → Nat → BitVec 16
opaque portRoot : Nat → Nat → Bool

/-- Which Dvori port the traffic to a device's target takes: no routing among devices is given (R436, notes/assumptions/60). -/
opaque remotePort : Nat → Fin 16

/-- What a die's clock would read as E and L at a cycle, before the bracketing of R144. -/
opaque clockE : Nat → Nat → Nat
opaque clockL : Nat → Nat → Nat

/-- The dispatcher's forecast of a command's cycle (R157). -/
opaque promise : Nat → Word

/-- Does a remote device take a write of n bytes at an address or locator (R436)? -/
opaque remoteAccepts : Nat → Nat → Nat → Bool

/-- The base of the stamped page that system software has declared around a physical address and that no range entry
has shown yet (R296). -/
opaque stampedBase : Nat → Option Nat

/-- A byte of host memory as a device read finds it, per read. -/
opaque hostByte : Nat → Nat → Byte

/-- What an ingest writes where no result is stated (R438, R439): a group or block with a value that is not finite, and the
places of a tile beyond K. -/
opaque ingestFree : Nat → Nat → Nat

/-- The retry limit of a link (R137). -/
opaque retryLimit : Nat

/-- Did the payload of a remote write reach its destination memory with an uncorrectable error (R137)? -/
opaque payloadBad : Nat → Bool

/-- Was a remote store or atomic performed whose link went down, and what data a remote atomic's poisoned
completion carries (R410)? -/
opaque lostStore : Nat → Bool
opaque lostData : Nat → Word

/-- The length of a section of a freeze image, in 64-byte lines: which image, which section of the contents table
(R401, R402). -/
opaque freezeLines : Nat → Nat → BitVec 20

/-- A byte of a freeze image beyond its header: which image, offset (R402). -/
opaque freezeByte : Nat → Nat → Byte

/-- Firmware as found in a FIRMWARE phase: the hub image, the others, and each image's signature, the hub's being image 0
(R449, R450). -/
opaque hubFirmware : Nat → List Byte
opaque otherFirmware : Nat → List (List Byte)
opaque firmwareSig : Nat → Nat → List Byte

/-- The security version that an image holds (R450): no place of it is given. -/
opaque imageVersion : List Byte → Nat

/-- Does a bring-up phase (LINKS, MEMORY) finish without failure, and with which cause? -/
opaque bringupCause : Nat → Nat → Byte

/-- SLH-DSA-SHAKE-256s: does a signature of a message verify under the key with a digest (R443, R444, R450)? -/
opaque slhVerify : BitVec 256 → List Byte → List Byte → Bool

/-- The vendor key digest in fuses (R450). -/
opaque vendorDigest : BitVec 256

/-- The attestation key that the fused device secret, M0 and M2 derive, and its SLH-DSA-SHAKE-256f signature (R451). -/
opaque attestKey : BitVec 512 → BitVec 512 → List Byte
opaque attestSign : List Byte → List Byte → Vector Byte 49856

/-- The vendor-signed identity certificate, and the identity key's certificate of an attestation key (R451). -/
opaque certificate : List Byte
opaque attestCert : List Byte → List Byte

/-- Fuse contents as M2 is extended with them (R449). -/
opaque fuses : List Byte

/-- The fused rollback counter at manufacture (R450). -/
opaque rollbackFuse : Nat

/-- The region whose store holds the grammars (R182, R367). -/
opaque grammarRegion : Nat

/-- The epoch that a domain's root takes from the host at bring-up (R437). -/
opaque epoch : Nat

/-- Which of the conditions that a firing met in one cycle counts as met last, by cycle and element (R390). -/
opaque walkLast : Nat → Nat → Nat

end Config

end Sys2Proof
end

