-- ==== Sys2Proof/Machine/Memory.lean ====
section
/-! DEFINITION. Sparse tables and the byte memory (spec/15 R287, R300, spec/00 R5): one flat address
space for DRAM, scratchpads and region stores, canonical lists, poison per 64-bit word. -/

namespace Sys2Proof.Machine

/-- A sparse table: an absent key holds the table's default. -/
abbrev Map (κ ν : Type) := List (κ × ν)

/-- The value of a key, or the default. -/
def Map.get {κ ν : Type} [DecidableEq κ] : Map κ ν → κ → ν → ν
  | [], _, d => d
  | (k', v) :: m, k, d => if k' = k then v else Map.get m k d

/-- The value of a key, if listed. -/
def Map.get? {κ ν : Type} [DecidableEq κ] : Map κ ν → κ → Option ν
  | [], _ => none
  | (k', v) :: m, k => if k' = k then some v else Map.get? m k

/-- Remove a key. -/
def Map.del {κ ν : Type} [DecidableEq κ] : Map κ ν → κ → Map κ ν
  | [], _ => []
  | (k', v) :: m, k => if k' = k then Map.del m k else (k', v) :: Map.del m k

/-- Give a key a value, in its place if it is listed, at the end otherwise. -/
def Map.set {κ ν : Type} [DecidableEq κ] : Map κ ν → κ → ν → Map κ ν
  | [], k, v => [(k, v)]
  | (k', v') :: m, k, v => if k' = k then (k, v) :: m else (k', v') :: Map.set m k v

/-- The byte memory: listed bytes, addresses strictly rising, none equal to `blank`; and the word
indexes (address / 8) that are poisoned, strictly rising. -/
structure Memory where
  cells : List Host.Cell
  poison : List Nat
  deriving DecidableEq, Repr

/-- What an unlisted address reads as: 0. DESIGN CHOICE for SRAM (notes/assumptions/5); DRAM is zeroed by
bring-up (R441). -/
def blank : Byte := 0

/-- The byte at an address of a list of cells. -/
def cellAt : List Host.Cell → Nat → Byte
  | [], _ => blank
  | (a', b) :: cs, a => if a' = a then b else cellAt cs a

/-- Remove an address. -/
def dropCell : List Host.Cell → Nat → List Host.Cell
  | [], _ => []
  | (a', b) :: cs, a => if a' = a then cs else if a < a' then (a', b) :: cs else (a', b) :: dropCell cs a

/-- Put a byte that is not `blank` at an address, keeping the order. -/
def insCell : List Host.Cell → Nat → Byte → List Host.Cell
  | [], a, b => [(a, b)]
  | (a', b') :: cs, a, b =>
      if a < a' then (a, b) :: (a', b') :: cs
      else if a = a' then (a, b) :: cs
      else (a', b') :: insCell cs a b

/-- Write one byte; writing `blank` removes the entry. -/
def putCell (cs : List Host.Cell) (a : Nat) (b : Byte) : List Host.Cell :=
  if b = blank then dropCell cs a else insCell cs a b

/-- Cells in canonical form: rising from a bound, none blank. -/
def cellsWf : Nat → List Host.Cell → Bool
  | _, [] => true
  | lo, (a, b) :: cs => decide (lo ≤ a) && b != blank && cellsWf (a + 1) cs

/-- Insert into, and remove from, a rising list of indexes. -/
def insIdx : List Nat → Nat → List Nat
  | [], a => [a]
  | x :: xs, a => if a < x then a :: x :: xs else if a = x then x :: xs else x :: insIdx xs a

def dropIdx : List Nat → Nat → List Nat
  | [], _ => []
  | x :: xs, a => if a = x then xs else if a < x then x :: xs else x :: dropIdx xs a

def idxWf : Nat → List Nat → Bool
  | _, [] => true
  | lo, x :: xs => decide (lo ≤ x) && idxWf (x + 1) xs

namespace Memory

/-- Nothing listed. -/
def empty : Memory := ⟨[], []⟩

/-- The canonical form. -/
def wf (m : Memory) : Bool := cellsWf 0 m.cells && idxWf 0 m.poison

/-- Read one byte. -/
def byte (m : Memory) (a : Nat) : Byte := cellAt m.cells a

/-- Write one byte. -/
def setByte (m : Memory) (a : Nat) (b : Byte) : Memory := { m with cells := putCell m.cells a b }

/-- Is the 64-bit word of an address poisoned (R300)? -/
def poisoned (m : Memory) (a : Nat) : Bool := m.poison.contains (a / 8)

/-- Set or clear the poison of the word of an address. -/
def setPoison (m : Memory) (a : Nat) (p : Bool) : Memory :=
  { m with poison := if p then insIdx m.poison (a / 8) else dropIdx m.poison (a / 8) }

/-- n bytes from an address, little-endian (R5). -/
def readNat (m : Memory) (a : Nat) : Nat → Nat
  | 0 => 0
  | n + 1 => (m.byte a).toNat + 256 * readNat m (a + 1) n

/-- Write the low n bytes of a number, little-endian. -/
def writeNat (m : Memory) (a : Nat) : Nat → Nat → Memory
  | 0, _ => m
  | n + 1, v => writeNat (m.setByte a (BitVec.ofNat 8 v)) (a + 1) n (v / 256)

/-- A list of bytes at an address. -/
def writeBytes (m : Memory) (a : Nat) : List Byte → Memory
  | [] => m
  | b :: bs => writeBytes (m.setByte a b) (a + 1) bs

def readBytes (m : Memory) (a : Nat) : Nat → List Byte
  | 0 => []
  | n + 1 => m.byte a :: readBytes m (a + 1) n

/-- A 64-bit word. -/
def word (m : Memory) (a : Nat) : Word := BitVec.ofNat 64 (m.readNat a 8)

/-- Store the low n bytes of data with its poison (R300, R304): poisoned data poisons the word, a full
clean word clears it, a narrower clean store leaves it. -/
def store (m : Memory) (a n : Nat) (v : Word) (p : Bool) : Memory :=
  let m1 := m.writeNat a n v.toNat
  if p then m1.setPoison a true else if n = 8 then m1.setPoison a false else m1

/-- Set the poison of `n` successive 64-bit words. -/
def poisonWords (m : Memory) (a : Nat) (p : Bool) : Nat → Memory
  | 0 => m
  | n + 1 => poisonWords (m.setPoison a p) (a + 8) p n

/-- A 64-byte row (R115): its bits, and whether any of its words is poisoned. -/
def row (m : Memory) (a : Nat) : Row := BitVec.ofNat 512 (m.readNat a 64)

def rowPoisoned (m : Memory) (a : Nat) : Bool :=
  (List.range 8).any (fun k => m.poisoned (a + 8 * k))

/-- Write a row with one poison bit for its eight words. -/
def writeRow (m : Memory) (a : Nat) (r : Row) (p : Bool) : Memory :=
  (m.writeNat a 64 r.toNat).poisonWords a p 8

/-- Poison `n` words with their bits read as 0 (R300). -/
def strike (m : Memory) (a : Nat) : Nat → Memory
  | 0 => m
  | n + 1 => strike ((m.writeNat a 8 0).setPoison a true) (a + 8) n

end Memory

/-! Where each store stands in the flat space (notes/assumptions/5). -/

/-- Base of a cell's scratchpad. -/
def spadBase (c : CellId) : Nat := 2 ^ 52 + (c.region * 16 + c.cell) * 2 ^ 20

/-- Base of a region's store. -/
def rstoreBase (r : Nat) : Nat := 2 ^ 53 + r * 2 ^ 23

/-- DRAM capacity of a die (R10, R296). -/
def dramCap (d : Nat) : Nat := if d < 4 then 2 ^ 35 else 3 * 2 ^ 35

/-- Does a physical address name DRAM (R296)? -/
def isDram (a : Nat) : Bool := a / 2 ^ 40 < 8 && a % 2 ^ 40 < dramCap (a / 2 ^ 40)

/-- The home die of a physical address. -/
def homeDie (a : Nat) : Nat := a / 2 ^ 40

/-! Geometry of the package (R11, R12, R118, R383). -/

/-- The die of a package region. -/
def regionDie (r : Nat) : Nat := if r < 64 then r / 16 else 4 + (r - 64) / 4

/-- Column and row of a region within its die. -/
def regionCol (r : Nat) : Nat := if r < 64 then r % 16 % 4 else (r - 64) % 4 % 2
def regionRow (r : Nat) : Nat := if r < 64 then r % 16 / 4 else (r - 64) % 4 / 2

/-- Region column X and row Y of a die's north-west region (R11, R118). -/
def dieXY (d : Nat) : Nat × Nat :=
  match d with
  | 0 => (2, 0) | 1 => (6, 0) | 2 => (2, 4) | 3 => (6, 4)
  | 4 => (0, 1) | 5 => (10, 1) | 6 => (0, 5) | _ => (10, 5)

/-- Region grid position. -/
def regionXY (r : Nat) : Nat × Nat :=
  ((dieXY (regionDie r)).1 + regionCol r, (dieXY (regionDie r)).2 + regionRow r)

/-- The region at a grid position. -/
def regionAt (x y : Nat) : Option Nat := (List.range 80).find? (fun r => regionXY r = (x, y))

/-- Cell grid position of a cell (R11). -/
def cellXY (c : CellId) : Nat × Nat :=
  (4 * (regionXY c.region).1 + c.cell % 4, 4 * (regionXY c.region).2 + c.cell / 4)

/-- The cell at a grid position. -/
def cellAtXY (x y : Nat) : Option CellId :=
  (regionAt (x / 4) (y / 4)).map (fun r => ⟨r, 4 * (y % 4) + x % 4⟩)

/-- The die-to-die link between two dies and the direction from the first (R383). -/
def linkBetween (a b : Nat) : Option (Nat × Bool) :=
  let fwd : List (Nat × Nat) :=
    [(0, 1), (2, 3), (0, 2), (1, 3), (4, 0), (5, 1), (6, 2), (7, 3),
     (8, 0), (8, 1), (8, 2), (8, 3), (8, 4), (8, 5), (8, 6), (8, 7)]
  match (List.range 16).find? (fun k => fwd[k]? = some (a, b)) with
  | some k => some (k, false)
  | none =>
    match (List.range 16).find? (fun k => fwd[k]? = some (b, a)) with
    | some k => some (k, true)
    | none => none

/-- The dies that remote-memory traffic passes from one die to another (R15), both included. -/
def dieRoute (a b : Nat) : List Nat :=
  if a = b then [a]
  else
    let ca := if 4 ≤ a && a < 8 then a - 4 else a
    let cb := if 4 ≤ b && b < 8 then b - 4 else b
    let mid : List Nat :=
      if ca = 8 || cb = 8 then []
      else if ca = cb then [ca]
      else if ca + cb = 3 then
        -- first along x, then along y
        [ca, if ca % 2 = 0 then ca + 1 else ca - 1, cb]
      else [ca, cb]
    if a = 8 || b = 8 then [a, b]
    else (if a = ca then [] else [a]) ++ mid ++ (if b = cb then [] else [b])

/-- The links, with direction, along a list of dies. -/
def linksAlong : List Nat → List (Nat × Bool)
  | a :: b :: ds =>
      (match linkBetween a b with
        | some l => [l]
        | none => []) ++ linksAlong (b :: ds)
  | _ => []

/-- Cells passed by a branch: first along x, then along y (R109), as grid positions. -/
def routeCells (a b : Nat × Nat) : List (Nat × Nat) :=
  let xs := if a.1 ≤ b.1 then (List.range (b.1 - a.1 + 1)).map (a.1 + ·)
    else (List.range (a.1 - b.1 + 1)).map (a.1 - ·)
  let ys := if a.2 ≤ b.2 then (List.range (b.2 - a.2)).map (a.2 + 1 + ·)
    else (List.range (a.2 - b.2)).map (a.2 - 1 - ·)
  xs.map (fun x => (x, a.2)) ++ ys.map (fun y => (b.1, y))

/-- The dies, without repeats in a row, of a list of cells. -/
def diesOf (ps : List (Nat × Nat)) : List Nat :=
  (ps.filterMap (fun p => (cellAtXY p.1 p.2).map (fun c => regionDie c.region))).foldr
    (fun d acc => if acc.head? = some d then acc else d :: acc) []

/-- Does a route cross a region edge? -/
def crossesRegion (ps : List (Nat × Nat)) : Bool :=
  match ps with
  | [] => false
  | p :: _ => ps.any (fun q => q.1 / 4 ≠ p.1 / 4 || q.2 / 4 ≠ p.2 / 4)

/-- Is an XPE in this cell (R18)? Boundary cells of even row, one column each side. -/
def cellHasXpe (c : CellId) : Bool :=
  let (x, y) := cellXY c
  let inRows := (4 ≤ y && y ≤ 11) || (20 ≤ y && y ≤ 27)
  y % 2 = 0 && inRows && (x = 7 || x = 8 || x = 39 || x = 40)

end Sys2Proof.Machine
end

