-- ==== Sys2Proof/Machine/State.lean ====
section
/-! DEFINITION. The machine's state (spec/05-19, 25, 26): every register, memory, queue and table the
spec names, as plain data; the model's own bookkeeping fields are marked so. -/

namespace Sys2Proof.Machine

/-- Why the model stops. The spec never stops the machine, so one reason is left. -/
inductive Fault where
  /-- Raised by step when the agenda names a region, cell or element number that the package does not
  have (R9-R12, R18). Safe: no such agent exists. -/
  | noSuchAgent
  deriving DecidableEq, Repr

/-- Why the model has no meaning. -/
inductive Refusal where
  /-- Raised only by an arm of exec whose instruction has no meaning yet. Safe: the run ends. -/
  | notModelled (mnemonic : String)
  deriving DecidableEq, Repr

/-- What put a token on its channel, in the hidden bits of R390: nothing of the configuration, priming, a memory port's completion,
or the firing of a ticket; `lost` stands for a producer that no note names. -/
inductive Origin where
  | outside
  | primed
  | memory
  | lost
  | firing (u : UnitId) (tick : Nat)
  deriving DecidableEq, Repr

/-- A token with its sideband (R100, R135). `origin` is R390's hidden bits. `stray` is the model's mark of a token that an
earlier branch of its input brought, which does not count in the present branch's window (R109). -/
structure Tok where
  data : Word
  kind : BitVec 2 := 0
  poison : Bool := false
  tag : Byte
  utag : BitVec 2 := 0
  last : Bool := false
  stray : Bool := false
  origin : Origin := .outside
  deriving DecidableEq, Repr

/-- Where a channel ends: an input of an element or node, or the header or data branch of pipeline port
k of a launch (R418). -/
inductive Sink where
  | inp (u : UnitId) (i : Nat)
  | pipe (id k : Nat) (isData : Bool)
  deriving DecidableEq, Repr

/-- A die edge on a branch's route: link, direction, boundary context; tokens waiting at the link, the
tokens of the flit under way, and the cycle in which it was sent (R133-R136). -/
structure Hop where
  link : Nat
  dir : Bool
  ctx : Nat
  waiting : List Tok := []
  wire : List Tok := []
  sentAt : Nat := 0
  deriving DecidableEq, Repr

/-- A channel at its destination (R109, R316): producer, capacity and window limit, places reserved in
order (by ticket, filled or not), die edges, tokens at the input, and dequeued tokens the producer has not
been credited for. `shut` stands while tokens wait outside behind a drain MARK, `drained` once a drain MARK
was placed on it (R404). -/
structure Chan where
  src : Option (UnitId × Nat) := none
  cap : Nat := 4
  limit : Nat := 6
  places : List (Nat × Option Tok) := []
  hops : List Hop := []
  inq : List Tok := []
  owed : Nat := 0
  primedN : Nat := 0
  shut : Bool := false
  drained : Bool := false
  deriving DecidableEq, Repr

/-- A trigger context (R93): registers, their poison bits, predicates p0-p6, scoreboard. -/
structure Ctx where
  x : Vector Word 8 := Vector.replicate 8 0
  px : BitVec 8 := 0
  p : BitVec 8 := 0
  pendX : BitVec 8 := 0
  pendP : BitVec 8 := 0
  deriving DecidableEq, Repr

/-- A row that a VSTR writes at its write-back, and whether it commits the slot (R232). -/
structure RowWrite where
  ring : Nat
  slot : Nat
  row : Nat
  data : Row
  poison : Bool
  commit : Bool
  deriving DecidableEq, Repr

/-- What a word's write-back does: register written, pending register cleared, predicate, reserved places
by output (filled, or released), vector registers, mask, ring rows written, addresses of rows whose banks a VLDR's read
must have been served by, flags, the buffer of an exchange pair it grants with its parity (R96-R98, R101, R231, R232, R330); `rot` is the output on which a rotation
MARK follows its token (R382). -/
structure Landing where
  reg : Option (BitVec 3 × Word × Bool) := none
  regPend : Option (BitVec 3) := none
  pred : Option (BitVec 3 × Bool) := none
  toks : List (Nat × Option Tok) := []
  vregs : List (BitVec 4 × Row × Byte × Bool) := []
  vmask : Option (BitVec 3 × Word) := none
  rows : List RowWrite := []
  reads : List Nat := []
  flags : BitVec 6 := 0
  grant : Option (Nat × Bool) := none
  rot : Option Nat := none
  deriving DecidableEq, Repr

/-- A word in flight (R96): ticket in issue order, cycle it is due, context, slot. -/
structure Flight where
  tick : Nat
  due : Nat
  ctx : Nat
  slot : Nat
  land : Landing
  deriving DecidableEq, Repr

/-- The tokens a multi-token firing still places: listed, or generated addresses base + k·stride for
k below count (R318, R326, R328). -/
inductive MultiSrc where
  | toks (l : List (Nat × Tok))
  | gen (base stride : Word) (k count : Nat)
  deriving DecidableEq, Repr

/-- A multi-token firing in progress: it holds the issue slot; `finish` lands with its last token; `mark` is
the output where a rotation MARK comes next (R382). -/
structure Multi where
  tick : Nat
  due : Nat
  ctx : Nat
  slot : Nat
  src : MultiSrc
  reserved : Bool
  finish : Landing
  mark : Option Nat := none
  deriving DecidableEq, Repr

/-- A memory word's operation (R302-R308). Atomics are numbered as R312. -/
inductive MemOp where
  | load (n : Nat) (sx : Bool)
  | store (n : Nat)
  | amo (k : Nat)
  | stsc (sys : Bool)
  | stsp (sys : Bool)
  | ldas (sys : Bool)
  deriving DecidableEq, Repr

/-- Where a port request stands: accepted; its page being walked; withheld; a store whose DONE left and
which is not performed; a stamped access under way. -/
inductive ReqStage where
  | accepted
  | walking
  | withheld
  | posted
  | stamped
  deriving DecidableEq, Repr

/-- A stream context in use on a link: link, direction, number (R134). -/
abbrev CtxRef := Nat × Bool × Nat

/-- A request at a port element (R117, R302); `ctxs` are the contexts it holds on the links of its route (R134), `rot` the
output on which a rotation MARK follows its token (R382). -/
structure PortReq where
  tick : Nat
  ctx : Nat
  slot : Nat
  op : MemOp
  addr : Word
  data : Word := 0
  poison : Bool := false
  exp : Word := 0
  ord : MemOrder := .plain
  reg : Option (BitVec 3) := none
  outs : List Nat := []
  utag : BitVec 2 := 0
  last : Bool := false
  stage : ReqStage := .accepted
  passed : Nat := 0
  ctxs : List CtxRef := []
  rot : Option Nat := none
  deriving DecidableEq, Repr

/-- A VLDS filling a register: input, register, tokens taken, poison so far, issue ticket (R234). -/
structure VLoad where
  ctx : Nat
  slot : Nat
  inp : Nat
  vd : BitVec 4
  got : List Word
  poison : Bool
  tick : Nat := 0
  deriving DecidableEq, Repr

/-- A VSTS sending a register: output, tokens left, issue ticket (R235). -/
structure VSend where
  ctx : Nat
  out : Nat
  left : List Word
  poison : Bool
  due : Nat
  tick : Nat
  deriving DecidableEq, Repr

/-- The vector node's registers, tags, poison, masks, predicates and scoreboard (R210). -/
structure Vec where
  v : Vector Row 16 := Vector.replicate 16 0
  tag : Vector Byte 16 := Vector.replicate 16 0
  pv : BitVec 16 := 0
  m : Vector Word 8 := Vector.replicate 8 0
  pendV : BitVec 16 := 0
  pendM : BitVec 8 := 0
  loads : List VLoad := []
  sends : List VSend := []
  deriving DecidableEq, Repr

/-- Accumulator states (R237). -/
inductive AccState where
  | empty | active | full
  deriving DecidableEq, Repr

/-- Accumulator formats (R237). -/
inductive AccFmt where
  | none | fp64 | fp32 | int32
  deriving DecidableEq, Repr

/-- An accumulator: entries row by row, an empty list standing for +0 everywhere (R237, R238). -/
structure Acc where
  st : AccState := .empty
  fmt : AccFmt := .none
  ents : List Word := []
  deriving DecidableEq, Repr

/-- The macro-operation sequencer's word: slot, word, tile pair k and chunk c, whether it has started, ring heads at
firing (A, B, sidecars), claimed out slots, the exact sums of a group that spans two tiles, and source rows
read at firing (R237, R241, R250, R69, R255). `left` are the addresses of operand rows still to be read through their
banks, `out` the out-ring rows still to be written through theirs (R292). -/
structure Seq where
  slot : Nat
  word : Instr
  k : Nat := 0
  started : Bool := false
  hA : Nat := 0
  hB : Nat := 0
  hSA : Nat := 0
  hSB : Nat := 0
  claims : List Nat := []
  part : List Int := []
  hold : List Row := []
  chunk : Nat := 0
  left : List Nat := []
  out : List (Nat × Row) := []
  deriving DecidableEq, Repr

/-- The matrix node (R237). -/
structure Mat where
  acc : Map (BitVec 3) Acc := []
  seq : Option Seq := none
  deriving DecidableEq, Repr

/-- An exchange send holding a row-stream input (R331): pair, parity, context, slot, issue ticket. -/
structure XSend where
  pair : Nat
  parity : Bool
  inp : Nat
  ctx : Nat
  slot : Nat
  tick : Nat := 0
  deriving DecidableEq, Repr

/-- A physical bank (R120): tag, phase whose image bank it holds, words by slot. -/
structure Bank where
  tag : Byte := 0
  words : List (Nat × Word) := []
  deriving DecidableEq, Repr

/-- What a firing notes (R390): its ticket (for a matrix word its cycle), its node and the second word of its record, the condition
that was met last and its producer, whether its results come from a memory port, and the registers it writes, by their keys. -/
structure FNote where
  tick : Nat
  node : Nat
  word : Word
  last : Nat
  by_ : Origin
  mem : Bool
  writes : List Nat
  deriving DecidableEq, Repr

/-- An element's notes: those of its latest firings, newest first; by slot and condition the last cycle in which it was not met;
by slot the registers that the word then waited for (R390). -/
structure Notes where
  held : List FNote := []
  failed : Map (Nat × Nat) Nat := []
  waits : Map Nat (List Nat) := []
  deriving DecidableEq, Repr

/-- An element or node. Strides stand by context and register (R328). `marks` are rotation MARKs to be placed: cycle from
which, ticket of the token they follow, output (R382). `faultAt` is the order in which its cause was recorded, `faultCyc`
and `faultTick` the cycle and the issue ticket of the firing that caused it (R190). -/
structure EUnit where
  banks : Map Nat Bank := []
  ctx : Map Nat Ctx := []
  efault : Word := 0
  lastCtx : Nat := 3
  issued : Bool := false
  flights : List Flight := []
  multi : Option Multi := none
  reqs : List PortReq := []
  stride : Map (Nat × BitVec 3) Word := []
  packBuf : Word := 0
  packN : Nat := 0
  packUtag : BitVec 2 := 0
  split : Bool := false
  vec : Vec := {}
  mat : Mat := {}
  sends : List XSend := []
  marks : List (Nat × Nat × Nat) := []
  faultAt : Nat := 0
  faultCyc : Nat := 0
  faultTick : Nat := 0
  deriving DecidableEq, Repr

/-- Ring slot states (R294). -/
inductive SlotSt where
  | empty | claimed | full
  deriving DecidableEq, Repr

/-- Who holds a claimed slot: the vector node, the matrix node, or a stream command by ticket. -/
inductive ClaimBy where
  | nobody | vector | matrix
  | stream (tick : Nat)
  deriving DecidableEq, Repr

/-- A ring slot: state, format tag, claimant. -/
structure RSlot where
  st : SlotSt
  tag : Byte
  by_ : ClaimBy := .nobody
  deriving DecidableEq, Repr

/-- A ring (R294): offset of its base in the scratchpad, declared tag, head, tail, slots, cursors. -/
structure Ring where
  base : Nat
  decl : Byte
  head : Nat := 0
  tail : Nat := 0
  slots : List RSlot
  rd : Nat := 0
  wr : Nat := 0
  deriving DecidableEq, Repr

/-- A general register of the core: value, poison bit, parity bit (R257). -/
structure Reg where
  val : Word := 0
  poison : Bool := false
  par : Bool := false
  deriving DecidableEq, Repr

/-- Pending asynchronous causes (R273), each with its EVAL. -/
structure Pend where
  watchdog : Option Word := none
  link : Option Word := none
  fabric : Option Word := none
  page : Option Word := none
  wide : Option Word := none
  preempt : Option Word := none
  promises : List Nat := []
  deriving DecidableEq, Repr

/-- What a core waits on (R275). -/
inductive Wait where
  | sleepu (a : Word)
  | hwait (h : Nat)
  | waits (a : Word) (sys : Bool)
  | mrecv (d : BitVec 5) (a : Word)
  | freeze
  | halt
  deriving DecidableEq, Repr

/-- A shape record (R334): base, extents, strides, control word. -/
structure Shape where
  base : Word
  ext : List Nat
  str : List Word
  ctl : Word
  deriving DecidableEq, Repr

/-- Stalls that are no waits of R275: the instruction is tried again; an SBIND awaits the core's own stores on its record; an SBIND
that passed its checks awaits room for its command, its record and peer as read at issue (R336); an STS, an LDAS or an MSEND.nak awaits its completion and then
writes d. -/
inductive Stall where
  | retry
  | record
  | sbind (rec_ : Shape) (peer : Option Shape)
  | sts (tick : Nat) (d : BitVec 5)
  | ldas (tick : Nat) (d : BitVec 5)
  | nak (d : BitVec 5)
  deriving DecidableEq, Repr

/-- STATE.run (R271). -/
inductive Run where
  | running | waiting | halted | doubleFault
  deriving DecidableEq, Repr

/-- A core store accepted and not yet performed (R309): flat or physical address, bytes, data. -/
structure CoreStore where
  tick : Nat
  addr : Nat
  n : Nat
  data : Word
  poison : Bool
  rel : Option Scope := none
  deriving DecidableEq, Repr

/-- A control core (R256-R276). `ask` is the region-store address whose bank an access of its still waits for (R295). -/
structure Core where
  g : Vector Reg 8 := Vector.replicate 8 {}
  p : Vector Reg 128 := Vector.replicate 128 {}
  pc : Word := 0
  wptr : Nat := 0
  wbot : Nat := 0
  wspill : Word := 0
  wlim : Word := 0
  wovf : Word := 0
  wovlim : Word := 0
  evec : Word := 0
  ecause : Word := 0
  epc : Word := 0
  eval : Word := 0
  estat : Word := 0
  run : Run := .running
  handler : Bool := false
  pend : Pend := {}
  wait : Option Wait := none
  stall : Option Stall := none
  stores : List CoreStore := []
  codeV : Word := 0
  codeP : Nat := 0
  codeSize : Nat := 0
  dataV : Word := 0
  dataP : Nat := 0
  dataSize : Nat := 0
  ask : Option Nat := none
  deriving DecidableEq, Repr

/-- Handle states (R345). -/
inductive HState where
  | free | filling | full | draining
  deriving DecidableEq, Repr

/-- A handle record (R345) with its promise (R157). -/
structure Handle where
  st : HState := .free
  watch : Bool := false
  held : Bool := false
  port : Nat := 0
  cause : Byte := 0
  progress : Nat := 0
  promise : Word := 0
  missed : Bool := false
  deriving DecidableEq, Repr

/-- A KV half being gathered: header, words so far, words it takes in all. -/
structure HalfBuf where
  header : Word
  words : List (Word × Bool)
  need : Nat
  deriving DecidableEq, Repr

/-- A stream command at its port (R336, R337): handle, record and peer as read at SBIND, what a fenced one's
start waits for, elements performed, claimed slots, row or half being gathered; `home` names the region whose
buffer table holds the handle where a restore moved it (R403), `owner` the launch that bound it (R156), `line` a stamped
line read whole, with its address (R299), `ctxs` the contexts it holds on links (R134), `asked` how many elements its port has
accepted (R379), `split` stands while a row moves by elements up to one that is withheld (R406). -/
structure Cmd where
  tick : Nat
  h : Nat
  port : Nat
  rec_ : Shape
  peer : Option Shape
  needStores : List Nat
  needCmds : List Nat
  started : Bool := false
  done : Nat := 0
  claimed : List (CellId × Nat) := []
  row : List Word := []
  rowPoison : List Bool := []
  half : Option HalfBuf := none
  held : Bool := false
  walked : Bool := false
  waitKv : Bool := false
  stop : Option Byte := none
  home : Option Nat := none
  owner : Option Nat := none
  line : Option (Nat × List (Word × Bool)) := none
  ctxs : List CtxRef := []
  asked : Nat := 0
  split : Bool := false
  deriving DecidableEq, Repr

/-- A range entry of a port (R351). -/
structure RangeEnt where
  vbase : Word
  size : Word
  phys : Word
  attr : Word
  deriving DecidableEq, Repr

/-- A translation a port keeps (R354): 64 KiB window of the virtual address, physical base of that window,
or of the backing of a stamped page, whether stamped. -/
structure Kept where
  port : Nat
  window : Word
  base : Nat
  stamped : Bool
  deriving DecidableEq, Repr

/-- A heat entry (R380). -/
structure Heat where
  valid : Bool := false
  tag : Word := 0
  delivered : Nat := 0
  starved : Nat := 0
  deriving DecidableEq, Repr

/-- A notice in a region's queue (R173, R178): squash from f at generation g, for the stage and for the segments that
have still to apply it there; or establish q. -/
inductive Notice where
  | squash (slot f g : Nat) (stage : Option Nat) (segs : Bool)
  | establish (slot q : Nat)
  deriving DecidableEq, Repr

/-- A drain in progress (R404). -/
structure DrainSt where
  area : Nat
  since : Nat
  deriving DecidableEq, Repr

/-- A freeze in progress, or done: image address, kind (R401), whether the header is written and
whether the sections are taken, and the image of a fabric freeze that stood before and stands again once this one is
restored. -/
structure FreezeSt where
  area : Nat
  kind : Nat
  read : Bool
  taken : Bool
  under : Option Nat := none
  deriving DecidableEq, Repr

/-- What a region emits to the trace network: an instruction that issued (its cycle, PC and issue port, and whether a sync record
goes before it), or the words of another record (R388, R389). -/
inductive TraceEv where
  | core (cyc : Nat) (pc : Word) (port : Nat) (sync : Bool)
  | words (ws : List Word)
  deriving DecidableEq, Repr

/-- A bank fetch in progress (R120): unit, bank, whether it missed the cache. -/
structure Fetch where
  u : UnitId
  bank : Nat
  miss : Bool
  deriving DecidableEq, Repr

/-- A region: `tag` is the bound cfgtag, `tags_` the placed tags of all phases, `busy` the activity of this
cycle, `astatSet` and `astatOld` this cycle's sets and the value at its start, `ctrNow` this cycle's counts, `rx` and `ry`
the offsets from the placement's origin of the region its configuration was laid for, `devid` the DEVID when it came here (R32, R188),
`pfTold` the ports whose withheld access has passed PFLIMIT (R399) (R118-R124, R264-R267, R344, R375, R387, R396). -/
structure Region where
  present : Bool := true
  half : Bool := false
  gated : Bool := false
  launch : Option Nat := none
  origin : Bool := false
  phase : Nat := 0
  tag : Byte := 0
  tags_ : List Byte := []
  stop : Bool := false
  rp : BitVec 4 := 0
  wr : BitVec 4 := 0
  astat : BitVec 6 := 0
  astatSet : BitVec 6 := 0
  astatOld : BitVec 6 := 0
  amode : Word := 0
  amodeNext : Option Word := none
  wdlim : Word := 0x1000000
  quiet : Nat := 0
  idle : Nat := 0
  busy : Bool := false
  frozen : Option FreezeSt := none
  drain : Option DrainSt := none
  faultArea : Option Nat := none
  core : Core := {}
  handles : Map Nat Handle := []
  tags : Map Nat Word := []
  cmds : List Cmd := []
  ranges : Map (Nat × Nat) RangeEnt := []
  kept : List Kept := []
  heldSince : Map Nat Nat := []
  pfTold : List Nat := []
  pflimit : Word := 200000
  ctr : Map Nat Nat := []
  ctrNow : Map Nat Nat := []
  prog : Map Nat Word := []
  rotCfg : Word := 0
  rotPasses : Nat := 0
  rotCount : Nat := 0
  traceCfg : Word := 0
  heat : Map (Nat × Nat) Heat := []
  cache : Map (UnitId × Nat × Nat) (List (Nat × Word)) := []
  fetches : List Fetch := []
  rx : Nat := 0
  ry : Nat := 0
  devid : BitVec 18 := 0
  notices : List Notice := []
  traceCyc : Nat := 0
  tracePc : Word := 0
  traceN : Nat := 0
  traceSync : Bool := true
  tracePend : List TraceEv := []
  traceDrop : Nat := 0
  traceWalks : Nat := 0
  deriving DecidableEq, Repr

/-- A KV half-write on its way to a segment (R176, R361, R362): layer, slot, position, generation, half,
words with poison so far and how many it takes, the segment reached, whether withheld, the region, command or stage
(a placement's id and port) that issued it, and its ticket. -/
structure KvHalf where
  layer : Nat
  slot : Nat
  pos : Nat
  gen : Nat
  isV : Bool
  words : List (Word × Bool)
  need : Nat
  at_ : Option (CellId × Nat)
  held : Bool
  region : Nat
  cmd : Option Nat
  stage : Option (Nat × Nat)
  tick : Nat := 0
  deriving DecidableEq, Repr

/-- A pipeline kv or report port in mid-pulse (R421, R422): data tokens still to discard, the slot, position
and generation of a report whose header was taken, whether it has stopped. -/
structure PipePort where
  drop : Nat := 0
  report : Option (Nat × Nat × Nat) := none
  stopped : Bool := false
  deriving DecidableEq, Repr

/-- Exchange buffer states (R164). -/
inductive BufSt where
  | free | granted | filling | full
  deriving DecidableEq, Repr

/-- A receive buffer: state, flat address, tokens written, closing mark seen, overrun. -/
structure XBuf where
  st : BufSt := .free
  addr : Nat := 0
  n : Nat := 0
  closed : Bool := false
  overrun : Bool := false
  deriving DecidableEq, Repr

/-- An exchange pair of a placement (R329): sender, receiver, channels, buffers, tokens on the lane with
their parity, order in which buffers became FILLING, and its lane: link, direction and context (R134). -/
structure Pair where
  launch : Nat
  tx : UnitId
  out : Nat
  rx : UnitId
  inp : Nat
  rel : Nat
  permitOut : Nat
  size : Nat
  ping : XBuf
  pong : XBuf
  order : List Bool := []
  lane : List (Bool × Tok) := []
  link : Nat
  dir : Bool := false
  ctx : Nat := 240
  deriving DecidableEq, Repr

/-- A stream context record (R364), with the shape and element size it was opened for (R134) and the placement it stands
with. -/
structure Context where
  st : Nat := 0
  cls : Nat := 0
  phys : Bool := false
  target : Nat := 0
  flits : Nat := 0
  credits : Nat := 0
  launch : Option Nat := none
  ext : List Nat := []
  str : List Word := []
  esz : Nat := 8
  deriving DecidableEq, Repr

/-- A die-to-die link (R137, R383). -/
structure Link where
  down : Bool := false
  retries : Nat := 0
  ctxs : Map (Bool × Nat) Context := []
  deriving DecidableEq, Repr

/-- A die's interval clock, stamps, floors (R144-R152). -/
structure DieTime where
  e : Nat := 0
  l : Nat := 0
  last : Nat := 0
  floor : Nat := 0
  sysFloor : Nat := 0
  wide : Bool := false
  narrow : Nat := 0
  deriving DecidableEq, Repr

/-- Who awaits a stamped store's visibility: nobody, a port's request, a region's core. -/
inductive StampWait where
  | nobody
  | port (u : UnitId) (tick : Nat)
  | core (r : Nat)
  deriving DecidableEq, Repr

/-- A stamped store accepted (R145-R148, R307), the region that issued it, its issue ticket, whether the core issued
it, the port element that accepted it otherwise, and how many younger ones of that port have been installed before it (R117). -/
structure Stamped where
  phys : Nat
  data : Word
  poison : Bool
  sys : Bool
  stamp : Nat
  die : Nat
  installed : Bool
  wait : StampWait
  region : Nat
  tick : Nat := 0
  byCore : Bool := false
  port : Option UnitId := none
  passed : Nat := 0
  deriving DecidableEq, Repr

/-- An LDAS under way (R308, R315). -/
structure LdasReq where
  phys : Nat
  t : Nat
  sys : Bool
  wait : StampWait
  va : Word
  deriving DecidableEq, Repr

/-- A dependence of a launch (R130), with the placement a kind-2 one is bound to. -/
structure Dep where
  word : Word
  bound : Option Nat
  met : Bool
  deriving DecidableEq, Repr

/-- A launch record as enqueued (R130). -/
structure LaunchRec where
  image : Word
  record : Word
  w : Nat
  h : Nat
  mask : Nat
  flags : BitVec 32
  deps : List Word
  params : List Word
  reservedOk : Bool
  deriving DecidableEq, Repr

/-- Where a launch stands. -/
inductive LaunchSt where
  | queued | placed | swapped | done
  deriving DecidableEq, Repr

/-- A launch (R131, R132, R338, R339). -/
structure Launch where
  rec_ : LaunchRec
  prio : Nat
  st : LaunchSt := .queued
  since : Nat
  deps : List Dep
  region : Option Nat := none
  needStores : List Nat := []
  needCmds : List Nat := []
  readySince : Option Nat := none
  checked : Bool := false
  deriving DecidableEq, Repr

/-- A message: sender, 64 bytes (R340). -/
structure Msg where
  sender : Nat
  body : List Byte
  deriving DecidableEq, Repr

/-- The route of a branch as placement lays it (R109, R134): its ends, figures and boundary contexts. -/
structure Route where
  src : UnitId × Nat
  dst : UnitId × Nat
  cap : Nat
  limit : Nat
  hops : List (Nat × Bool × Nat)
  deriving DecidableEq, Repr

/-- A placement (R118, R124, R340); as a stage, its latest notice of each slot and the ticket at which it applied
it (R173, R174). -/
structure Placement where
  img : Image
  origin : Nat
  regions : List Nat
  base : Byte
  params : List Word
  start : Nat
  inbox : List Msg := []
  dropped : Nat := 0
  pipes : Map Nat PipePort := []
  notice : Map Nat (Nat × Nat) := []
  ackAt : Map Nat Nat := []
  routes : List Route := []
  deriving DecidableEq, Repr

/-- A completion record waiting to be written, with the hub's L at completion (R163, R350). -/
structure Completion where
  id : Nat
  addr : Nat
  cause : Byte
  sub : Byte
  place : Nat
  dropped : Nat
  cycles : Nat
  l : Nat := 0
  deriving DecidableEq, Repr

/-- Message outstanding at the hub: message, destination, the core awaiting a NAK status, the host address
of a status. -/
structure OutMsg where
  msg : Msg
  dest : Nat
  nak : Option (Nat × BitVec 5)
  hostAddr : Nat
  deriving DecidableEq, Repr

/-- A pulse start queued for the step builder (R171, R180); `dead` once a notice has killed it in its micro-batch (R173). -/
structure PStart where
  pos : Nat
  sym : Nat
  basis : Nat
  gen : Nat
  dead : Bool := false
  deriving DecidableEq, Repr

/-- A speculation-window entry (R169). -/
structure WinEnt where
  pos : Nat
  sym : Nat
  basis : Nat
  gen : Nat
  deriving DecidableEq, Repr

/-- A report (R169). -/
structure Report where
  slot : Nat
  pos : Nat
  gen : Nat
  point : Point
  sym : Nat
  deriving DecidableEq, Repr

/-- Slot states (R357). -/
inductive QState where
  | free | waiting | prefill | decode | paused | swapped | draining
  deriving DecidableEq, Repr

/-- A sequence slot: the fields of R357; prompt, directory and scope (R360); the killed pulses counted; window (R169),
starts queued (R171), latest notice, whether it is unsettled, the regions of stages, the stages and the regions of segments
that have not applied or acknowledged it, the relaunch that waits for settle, a retirement's squash that waits for it (R183),
the grammar's active states (R182), whether the drain MARK has left, and the policy given to each pulse in flight, by position
and generation (R181, R366). -/
structure Slot where
  st : QState := .free
  resume : QState := .free
  admitted : Nat := 0
  position : Nat := 0
  gen : Nat := 0
  wver : BitVec 16 := 0
  policy : BitVec 3 := 0
  exhausted : Bool := false
  grammar : BitVec 4 := 15
  kvhead : Word := 0
  commit : Nat := 0
  inflight : Nat := 0
  limit : Nat := 0
  retire : Nat := 0
  reject : Nat := 0
  kills : Nat := 0
  late : Nat := 0
  miss : Nat := 0
  endsym : Word := 0
  prompt : Nat := 0
  wdir : Word := 0
  sys : Bool := false
  killed : List (Nat × Nat) := []
  window : List WinEnt := []
  starts : List PStart := []
  notice : Option (Nat × Nat) := none
  unsettled : Bool := false
  ackRegions : List (Nat × Nat) := []
  ackStages : List Nat := []
  ackSegs : List Nat := []
  relaunch : Option PStart := none
  cut : Bool := false
  active : BitVec 1024 := 0
  left : Bool := false
  policies : List (Nat × Nat × BitVec 3) := []
  deriving DecidableEq, Repr

/-- The hub (R130-R132, R338-R343, R357, R366, R383); `batch` are the starts of the micro-batch in hand, each with its
slot and whether it is a prompt's, `idsAround` whether launch ids have run out once and begun again, `marks` and `marksOut` the drain MARKs to place and placed, by slot. -/
structure Hub where
  queues : Map Nat (List Nat) := []
  nextId : Nat := 1
  idsAround : Bool := false
  launches : Map Nat Launch := []
  doneIds : List Nat := []
  placements : Map Nat Placement := []
  completions : List Completion := []
  agelim : Word := 0x100000
  preemptWait : Word := 0x10000
  preempting : Option (Nat × Nat) := none
  parked : List (Nat × Msg) := []
  outbox : List OutMsg := []
  slots : Map Nat Slot := []
  reports : List Report := []
  heldNotices : List (Nat × Notice) := []
  parity : Bool := false
  batch : List (Nat × PStart × Bool) := []
  batchParity : Bool := false
  marks : List Nat := []
  marksOut : List Nat := []
  samplers : Map Nat (Bool × BitVec 32) := []
  pkg : Map Nat Nat := []
  stall152 : Bool := false
  hubEAt : Nat := 0
  hostRing : List (List Byte) := []
  events : List (List Word) := []
  deriving DecidableEq, Repr

/-- A freeze image (R401, R402): kind, region frozen, its record, units, channels, rings, exchange
pairs, bytes and poison of its scratchpads and store, launch, notices held, restored yet. -/
structure FImage where
  kind : Nat
  region : Nat
  launch : Nat
  rec_ : Region
  units : List (UnitId × EUnit)
  chans : List (Sink × Chan)
  rings : List ((CellId × Nat) × Ring)
  pairs : List (Nat × Pair)
  cells : List Host.Cell
  poison : List Nat
  notices : List Notice
  restored : Bool := false
  deriving DecidableEq, Repr

/-- Dvori port status (R436). -/
structure Dvori where
  st : DvoriState := .down
  lanes : BitVec 4 := 0
  retries : Nat := 0
  deriving DecidableEq, Repr

/-- The queued ingests and checkpoints, and how many lines of the oldest checkpoint are copied (R438, R440). -/
structure HostIo where
  ingest : List IngestDesc := []
  checkpoint : List CheckpointDesc := []
  copied : Nat := 0
  deriving DecidableEq, Repr

/-- The module's own registers and rings (R431-R442, R386). `out` are the writes that left for the host,
`reads` the answers to its reads, `remote` what left for other devices, newest first; `off` stands while the module has no
power; BAR2 has 2^`barBits` bytes; `heatSel` selects, for each region, the word of a heat entry that its block shows. -/
structure Device where
  devid : BitVec 18 := 0
  revid : BitVec 16 := 1
  iwlim : Word := 64000
  winbase : Word := 0
  hosterr : Word := 0
  domain : Word := 0x10000
  phase : BitVec 4 := 0
  cause : Byte := 0
  inbound : Map Nat (Word × Word × Bool) := []
  dvori : Map Nat Dvori := []
  io : HostIo := {}
  traceBase : Word := 0
  traceSize : Word := 0
  traceRead : Word := 0
  traceWrite : Nat := 0
  heatSel : Map Nat Nat := []
  hostRingBase : Word := 0
  hostRingSize : Word := 0
  off : Bool := false
  barBits : Nat := 28
  out : List (Nat × List Byte) := []
  reads : List (Nat × List Byte) := []
  remote : List (Nat × Nat × RemotePayload) := []
  deriving DecidableEq, Repr

/-- Lifecycle states (R443). -/
inductive Lifecycle where
  | manufacture | owned | returned
  deriving DecidableEq, Repr

/-- Debug levels (R444). -/
inductive Level where
  | none | owner | vendor
  deriving DecidableEq, Repr

/-- Power states (R446). -/
inductive Power where
  | p0 | p1 | p2 | p3
  deriving DecidableEq, Repr

/-- The security enclave (R443-R453); `mOld` are the measurements before the first extend of cycle `mAt` (R449), `reports`
what it answered, newest first. -/
structure Enclave where
  life : Lifecycle := .manufacture
  ownerDigest : Option (BitVec 256) := none
  level : Level := .vendor
  routeBrk : Bool := false
  openTrace : Bool := false
  power : Power := .p3
  m : Vector (BitVec 512) 8 := Vector.replicate 8 0
  mOld : Vector (BitVec 512) 8 := Vector.replicate 8 0
  mAt : Option Nat := none
  rollback : Option Nat := none
  nonce : Option (BitVec 256) := none
  spent : List (BitVec 256) := []
  attest : List Byte := []
  spdm : Map Nat Bool := []
  keys : Map Nat (BitVec 256) := []
  reports : List (List Byte) := []
  deriving DecidableEq, Repr

/-- The hardware's own steps as the agenda names them (model's own; the place each acts on as in Instr). -/
inductive Own where
  | writeBack (u : UnitId)
  | tokenArrival (u : UnitId) (i : Nat)
  | multiTokenPlace (u : UnitId)
  | vldsTokenTake (u : UnitId) (i : Nat)
  | vstsTokenPlace (u : UnitId) (o : Nat)
  | bankFetch (u : UnitId) (b : Nat)
  | bankFill (u : UnitId) (b : Nat)
  | tilePairStart (u : UnitId)
  | tilePairRetire (u : UnitId)
  | mWordRetire (u : UnitId)
  | phaseEnd (r : Nat)
  | placementComplete (id : Nat)
  | completionRecordWrite (id : Nat)
  | scheduleDecision
  | agelimPromotion (id : Nat)
  | preemption
  | watchdogExpiry (r : Nat)
  | pflimitFreeze (r port : Nat)
  | promiseMissed (r h : Nat)
  | trapEntry (r : Nat)
  | waitComplete (r : Nat)
  | memoryAccessComplete (d : Door) (k : Nat)
  | pageWalkComplete (r port : Nat)
  | stampedInstall (k : Nat)
  | stampedVisible (k : Nat)
  | ldasReturn (k : Nat)
  | floorBroadcast
  | widenedStateEntry (d : Nat)
  | widenedStateExit (d : Nat)
  | systemFloorStall
  | streamCommandStart (r port : Nat)
  | streamElementPerform (r port : Nat)
  | streamCommandComplete (r port : Nat)
  | kvHalfWrite (k : Nat)
  | exchangeSendToken (p : Nat)
  | exchangeReceiveToken (p : Nat)
  | exchangeRelease (p : Nat)
  | stepBuilderMicrobatch
  | squashReport
  | noticeApplyStage (r : Nat)
  | noticeApplySegment (r : Nat)
  | stageAcknowledge (id slot : Nat)
  | settle (slot : Nat)
  | establishNoticeApply (r : Nat)
  | slotActivate (slot : Nat)
  | slotFree (slot : Nat)
  | reportPortTake (id k : Nat)
  | kvPortTake (id k : Nat)
  | messageRoute
  | parkedMessageDeliver (id : Nat)
  | freezeWave (r : Nat)
  | freezeReadoutComplete (r : Nat)
  | drainStart (r : Nat)
  | drainComplete (r : Nat)
  | drainTimeout (r : Nat)
  | traceRecordWrite
  | traceAnchor
  | flitArrival (l : Nat) (dir : Bool) (c : Nat)
  | creditReturn (l : Nat) (dir : Bool) (c : Nat)
  | linkDown (l : Nat)
  | ingestComplete
  | checkpointCopy
  | illegalWord (w : BitVec 32)
  | fetchOutsideCodeArea
  deriving DecidableEq, Repr

/-- A turn of the agenda: a core's, an element's issue cycle, one of the hardware's own steps, or a step of the environment
(model's own). -/
inductive Turn where
  | core (r : Nat)
  | unit (u : UnitId)
  | own (o : Own)
  | event (i : Instr)
  deriving DecidableEq, Repr

/-- The agent whose step is in hand (model's own). -/
structure Site where
  unit : UnitId := ⟨0, 0, 0⟩
  slot : Nat := 0
  region : Nat := 0
  deriving DecidableEq, Repr

/-- The machine. `pages` are the backings that a stamped store has reached (R296). `agenda` and `inputs` hold the
steps still to move in this cycle and the environment's steps with their cycles, `inHand` is the input in hand and
`again` asks that it arrive again; `site`, `ticket`, `freeCtr` are the model's own bookkeeping. `banksBusy` are the banks
taken in this cycle, `bankLast` the requester each bank served last, `bankWant` the requesters of this cycle and
`bankTried` those that came (R292). -/
structure State where
  agenda : List Turn := []
  inputs : List (Nat × Instr) := []
  inHand : Option Instr := none
  again : Bool := false
  site : Site := {}
  ticket : Nat := 0
  freeCtr : Nat := 0
  cyc : Nat := 0
  now : Nat := 0
  dies : Map Nat DieTime := []
  mem : Memory := Memory.empty
  banksBusy : List (Nat × Nat) := []
  bankLast : Map (Nat × Nat) Nat := []
  bankWant : List ((Nat × Nat) × Nat) := []
  bankTried : List ((Nat × Nat) × Nat) := []
  regions : Map Nat Region := []
  units : Map UnitId EUnit := []
  notes : Map UnitId Notes := []
  chans : Map Sink Chan := []
  wires : Map (UnitId × Nat) (List Sink) := []
  rings : Map (CellId × Nat) Ring := []
  pairs : Map Nat Pair := []
  links : Map Nat Link := []
  stamped : List Stamped := []
  pages : List Nat := []
  ldas : List LdasReq := []
  kv : List KvHalf := []
  hub : Hub := {}
  images : Map Nat FImage := []
  dev : Device := {}
  enc : Enclave := {}
  deriving DecidableEq, Repr

/-- The machine right after reset: every table empty, so every register holds its reset value; the bring-up
phase is RESET (R441). -/
def State.reset : State := {}

end Sys2Proof.Machine
end

