-- ==== Sys2Proof/Machine/Ops.lean ====
section
/-! DEFINITION. Named operations over the state: accessors, counters, channels, the core's registers and
windows, translation, taking an exception and returning from one (spec/06, 07, 14, 15, 19). -/

namespace Sys2Proof.Machine

/-- Set or clear bit i. -/
def setBit {n : Nat} (v : BitVec n) (i : Nat) (b : Bool) : BitVec n :=
  if b then v ||| BitVec.twoPow n i else v &&& ~~~(BitVec.twoPow n i)

/-- Clear bit i of the list's bits. -/
def clearBits {n : Nat} (v : BitVec n) : List Nat → BitVec n
  | [] => v
  | i :: is => clearBits (setBit v i false) is

/-- Bits hi to lo of a word, as a number. -/
def bitsOf (w : Word) (lo n : Nat) : Nat := w.toNat / 2 ^ lo % 2 ^ n

/-- All ones in 64 bits. -/
def allOnes : Word := BitVec.allOnes 64

/-- A Boolean as a 64-bit value. -/
def bool64 (b : Bool) : Word := if b then 1 else 0

/-! ## Accessors -/

def State.region (s : State) (r : Nat) : Region := s.regions.get r {}
def State.setRegion (s : State) (r : Nat) (R : Region) : State := { s with regions := s.regions.set r R }
def State.modRegion (s : State) (r : Nat) (f : Region → Region) : State := s.setRegion r (f (s.region r))

def State.core (s : State) (r : Nat) : Core := (s.region r).core
def State.modCore (s : State) (r : Nat) (f : Core → Core) : State :=
  s.modRegion r (fun R => { R with core := f R.core })

def State.unit (s : State) (u : UnitId) : EUnit := s.units.get u {}
def State.setUnit (s : State) (u : UnitId) (x : EUnit) : State := { s with units := s.units.set u x }
def State.modUnit (s : State) (u : UnitId) (f : EUnit → EUnit) : State := s.setUnit u (f (s.unit u))

def EUnit.context (x : EUnit) (c : Nat) : Ctx := x.ctx.get c {}
def EUnit.modCtx (x : EUnit) (c : Nat) (f : Ctx → Ctx) : EUnit :=
  { x with ctx := x.ctx.set c (f (x.context c)) }

def State.chan (s : State) (k : Sink) : Chan := s.chans.get k {}
def State.modChan (s : State) (k : Sink) (f : Chan → Chan) : State :=
  { s with chans := s.chans.set k (f (s.chan k)) }

def State.die (s : State) (d : Nat) : DieTime := s.dies.get d {}
def State.modDie (s : State) (d : Nat) (f : DieTime → DieTime) : State :=
  { s with dies := s.dies.set d (f (s.die d)) }

def State.link (s : State) (l : Nat) : Link := s.links.get l {}
def State.modLink (s : State) (l : Nat) (f : Link → Link) : State :=
  { s with links := s.links.set l (f (s.link l)) }

/-- The lowest FREE context of a range on a link's direction, and how many are FREE (R134). -/
def Link.freeCtx (L : Link) (dir : Bool) (lo n : Nat) : Option Nat :=
  ((List.range n).map (lo + ·)).find? (fun c => (L.ctxs.get (dir, c) {}).st = 0)
def Link.freeCount (L : Link) (dir : Bool) (lo n : Nat) : Nat :=
  (((List.range n).map (lo + ·)).filter (fun c => (L.ctxs.get (dir, c) {}).st = 0)).length

/-- Rewrite a context record (R364). -/
def Link.modCtx (L : Link) (dir : Bool) (c : Nat) (f : Context → Context) : Link :=
  { L with ctxs := L.ctxs.set (dir, c) (f (L.ctxs.get (dir, c) {})) }

/-- Count a flit delivered on a context (R364). -/
def State.countFlit (s : State) (l : Nat) (dir : Bool) (c : Nat) : State :=
  s.modLink l (fun L => L.modCtx dir c (fun x => { x with flits := x.flits + 1 }))
def State.countFlits (s : State) (cs : List CtxRef) : State := cs.foldl (fun s k => s.countFlit k.1 k.2.1 k.2.2) s

/-- Tear contexts down: their requests have joined (R364). -/
def State.closeCtxs (s : State) (cs : List CtxRef) : State :=
  cs.foldl (fun s k => s.modLink k.1 (fun L => { L with ctxs := L.ctxs.del (k.2.1, k.2.2) })) s

/-- Set one context up on every link of a route, out of the n from lo; none while one of them is exhausted (R134). -/
def State.openOn (s : State) (x : Context) (lo n : Nat) : List (Nat × Bool) → Option (List CtxRef × State)
  | [] => some ([], s)
  | (l, d) :: ls =>
    match (s.link l).freeCtx d lo n with
    | none => none
    | some c =>
      match (s.modLink l (fun L => { L with ctxs := L.ctxs.set (d, c) x })).openOn x lo n ls with
      | some (cs, s) => some ((l, d, c) :: cs, s)
      | none => none

def State.pair? (s : State) (p : Nat) : Option Pair := s.pairs.get? p
def State.setPair (s : State) (p : Nat) (x : Pair) : State := { s with pairs := s.pairs.set p x }

/-- The buffer of a parity, and a pair with it changed: parity 0 is ping. -/
def Pair.buf (p : Pair) (par : Bool) : XBuf := if par then p.pong else p.ping
def Pair.setBuf (p : Pair) (par : Bool) (b : XBuf) : Pair :=
  if par then { p with pong := b } else { p with ping := b }

def State.ring? (s : State) (c : CellId) (n : Nat) : Option Ring := s.rings.get? (c, n)
def State.setRing (s : State) (c : CellId) (n : Nat) (x : Ring) : State :=
  { s with rings := s.rings.set (c, n) x }

def State.handle (s : State) (r h : Nat) : Handle := (s.region r).handles.get h {}
def State.setHandle (s : State) (r h : Nat) (x : Handle) : State :=
  s.modRegion r (fun R => { R with handles := R.handles.set h x })

def State.slot (s : State) (n : Nat) : Slot := s.hub.slots.get n {}
def State.modHub (s : State) (f : Hub → Hub) : State := { s with hub := f s.hub }
def State.setSlot (s : State) (n : Nat) (x : Slot) : State :=
  s.modHub (fun h => { h with slots := h.slots.set n x })

def State.placement? (s : State) (id : Nat) : Option Placement := s.hub.placements.get? id
def State.setPlacement (s : State) (id : Nat) (x : Placement) : State :=
  s.modHub (fun h => { h with placements := h.placements.set id x })

def State.launch? (s : State) (id : Nat) : Option Launch := s.hub.launches.get? id
def State.setLaunch (s : State) (id : Nat) (x : Launch) : State :=
  s.modHub (fun h => { h with launches := h.launches.set id x })

def State.modDev (s : State) (f : Device → Device) : State := { s with dev := f s.dev }
def State.modEnc (s : State) (f : Enclave → Enclave) : State := { s with enc := f s.enc }

/-- The capacity in bytes of region r's scratchpads and of its store: a C-die region may be half-size, an A-die region
never is (R20-R22). -/
def Region.isHalf (R : Region) (r : Nat) : Bool := R.half && decide (r < 64)
def Region.scap (R : Region) (r : Nat) : Nat := if R.isHalf r then 2 ^ 19 else 2 ^ 20
def Region.rcap (R : Region) (r : Nat) : Nat := if R.isHalf r then 2 ^ 22 else 2 ^ 23
def State.scap (s : State) (r : Nat) : Nat := (s.region r).scap r
def State.rcap (s : State) (r : Nat) : Nat := (s.region r).rcap r

/-- The die an element stands on. -/
def unitDie (u : UnitId) : Nat := regionDie u.region

/-- The port number of an MPE (R379). -/
def unitPort (u : UnitId) : Nat := u.cell / 4

/-- The element at image offsets, for an origin region (R118). -/
def atOffset (o dx dy sub : Nat) : Option UnitId :=
  let (ox, oy) := regionXY o
  (cellAtXY (4 * ox + dx / 4) (4 * oy + dy / 4)).map (fun c =>
    ⟨c.region, c.cell, if sub < 16 then dy % 4 * 4 + dx % 4 else sub⟩)

def unitAt (o dx dy sub : Nat) : UnitId := (atOffset o dx dy sub).getD ⟨o, 0, sub⟩
def endAt (o : Nat) (e : ImgEnd) : UnitId := unitAt o e.dx e.dy e.sub

/-- A fresh ticket. -/
def State.takeTicket (s : State) : Nat × State := (s.ticket, { s with ticket := s.ticket + 1 })

/-- A fresh index of a free value. -/
def State.takeFree (s : State) : Nat × State := (s.freeCtr, { s with freeCtr := s.freeCtr + 1 })

/-! ## Counters (R375) -/

/-- Count `n` events of a region counter; counters saturate at all ones. -/
def State.count (s : State) (r num n : Nat) : State :=
  s.modRegion r (fun R => { R with
    ctr := R.ctr.set num (min (R.ctr.get num 0 + n) (2 ^ 64 - 1)), ctrNow := R.ctrNow.set num (R.ctrNow.get num 0 + n) })

/-- Does a programmable counter's configuration select an event of a cfgtag (R381)? -/
def eventOn (cfg : Word) (ev : Nat) (tag : Byte) : Bool :=
  bitsOf cfg 0 8 = ev && (!cfg.getLsbD 16 || BitVec.ofNat 8 (bitsOf cfg 8 8) = tag)

/-- Count an event that no word names at the region's programmable counters. -/
def State.countEvent (s : State) (r ev : Nat) (tag : Byte) (n : Nat) : State :=
  (s.region r).prog.foldl (fun s (k, cfg) => if eventOn cfg ev tag then s.count r (0x20 + k) n else s) s

/-- Count at port p of a region (R379). -/
def State.countPort (s : State) (r p k n : Nat) : State := s.count r (0x100 + 16 * p + k) n

/-- Count at the hub (R383). -/
def State.countPkg (s : State) (num n : Nat) : State :=
  s.modHub (fun h => { h with pkg := h.pkg.set num (min (h.pkg.get num 0 + n) (2 ^ 64 - 1)) })

/-- Mark a region's cycle as not quiet (R396). -/
def State.stir (s : State) (r : Nat) : State := s.modRegion r (fun R => { R with busy := true })

/-! ## Flags (R192, R266) -/

/-- OR flags into a region's ASTAT. -/
def State.orFlags (s : State) (r : Nat) (f : BitVec 6) : State :=
  s.modRegion r (fun R => { R with astat := R.astat ||| f, astatSet := R.astatSet ||| f })

/-- Is one of the flags enabled to trap (R267)? -/
def State.trapsOn (s : State) (r : Nat) (f : BitVec 6) : Bool :=
  ((s.region r).amode.extractLsb' 0 6 &&& f) ≠ 0

/-- Does INT32 accumulation clamp (R68, R267)? -/
def State.isat (s : State) (r : Nat) : Bool := (s.region r).amode.getLsbD 8

/-! ## Causes (R269) -/

def cILLEGAL : Byte := 0x01
def cMISALIGNED : Byte := 0x02
def cPAGE : Byte := 0x03
def cPROT : Byte := 0x04
def cFORMAT : Byte := 0x05
def cPOISON : Byte := 0x06
def cPROMISE : Byte := 0x07
def cWIDE : Byte := 0x08
def cTOOOLD : Byte := 0x09
def cWINDOW : Byte := 0x0A
def cREJECT : Byte := 0x0C
def cCHANNEL : Byte := 0x0D
def cHANDLE : Byte := 0x0E
def cARITH : Byte := 0x0F
def cBREAK : Byte := 0x10
def cTRAP : Byte := 0x11
def cPREEMPT : Byte := 0x12
def cWATCHDOG : Byte := 0x13
def cPERMIT : Byte := 0x14
def cLINK : Byte := 0x15
def cFABRIC : Byte := 0x16

/-- Asynchronous causes, by the priority of R273. -/
inductive Async where
  | watchdog | link | fabric | page | wide | preempt | promise
  deriving DecidableEq, Repr

/-- The cause code of an asynchronous cause. -/
def Async.code : Async → Byte
  | .watchdog => cWATCHDOG | .link => cLINK | .fabric => cFABRIC | .page => cPAGE
  | .wide => cWIDE | .preempt => cPREEMPT | .promise => cPROMISE

/-- Hold a cause; one of its kind already pending absorbs it, except missed promises (R273). -/
def Pend.add (p : Pend) (c : Async) (v : Word) : Pend :=
  match c with
  | .watchdog => { p with watchdog := some (p.watchdog.getD v) }
  | .link => { p with link := some (p.link.getD v) }
  | .fabric => { p with fabric := some (p.fabric.getD v) }
  | .page => { p with page := some (p.page.getD v) }
  | .wide => { p with wide := some (p.wide.getD v) }
  | .preempt => { p with preempt := some (p.preempt.getD v) }
  | .promise =>
      if p.promises.contains v.toNat then p
      else { p with promises := insIdx p.promises v.toNat }

/-- The pending cause of highest priority, and what is pending without it. -/
def Pend.take? (p : Pend) : Option (Async × Word × Pend) :=
  match p.watchdog with
  | some v => some (.watchdog, v, { p with watchdog := none })
  | none => match p.link with
    | some v => some (.link, v, { p with link := none })
    | none => match p.fabric with
      | some v => some (.fabric, v, { p with fabric := none })
      | none => match p.page with
        | some v => some (.page, v, { p with page := none })
        | none => match p.wide with
          | some v => some (.wide, v, { p with wide := none })
          | none => match p.preempt with
            | some v => some (.preempt, v, { p with preempt := none })
            | none => match p.promises with
              | h :: hs => some (.promise, BitVec.ofNat 64 h, { p with promises := hs })
              | [] => none

/-- Does a core handle a FABRIC_FAULT now? A further one merges into it (R393). -/
def Core.handlesFabric (k : Core) : Bool := k.handler && k.estat.getLsbD 1 && k.ecause.extractLsb' 0 8 = cFABRIC

/-- A core with a cause held, or merged (R273, R393). -/
def Core.hold (k : Core) (c : Async) (v : Word) : Core :=
  if c = .fabric && k.handlesFabric then k else { k with pend := k.pend.add c v }

/-- Raise an asynchronous cause at a region's core; a region without a placement drops it (R273). -/
def State.raise (s : State) (r : Nat) (c : Async) (v : Word) : State :=
  if (s.region r).launch.isSome then s.modCore r (fun k => k.hold c v) else s

/-- Raise a cause at every core of a die; of the package for the hub's (R151). -/
def State.raiseDie (s : State) (d : Nat) (c : Async) (v : Word) : State :=
  (List.range 80).foldl (fun s r => if d = 8 || regionDie r = d then s.raise r c v else s) s

/-! ## EFAULT (R189, R190) -/

/-- The number of an element's EFAULT (R264). -/
def efaultNum (u : UnitId) : Word := BitVec.ofNat 64 (0x400 + 32 * u.cell + u.sub)

/-- The 14-bit sideband of a token (R135). -/
def Tok.sideband (t : Tok) : BitVec 14 := BitVec.ofBool t.last ++ t.utag ++ t.tag ++ BitVec.ofBool t.poison ++ t.kind

/-- An EFAULT value (R189). -/
def efaultWord (cause : Byte) (word ctx : Nat) (tag : Byte) (chan : Option Nat) (sb : BitVec 14)
    (flags : BitVec 6) : Word :=
  1#1 ++ 0#1 ++ 0#6 ++ cause ++ BitVec.ofNat 5 word ++ BitVec.ofNat 2 ctx ++ tag ++
    BitVec.ofNat 4 (chan.getD 15) ++ sb ++ flags ++ 0#9

/-- Has the element recorded a cause? -/
def EUnit.stopped (x : EUnit) : Bool := x.efault.getLsbD 63

/-- Record a cause of the firing of an issue ticket at an element: the first writes every field and raises FABRIC_FAULT
at its region's core; a later one sets `more`. Of several causes in one cycle the earliest-issued word's stands in the
fields (R190, R393). -/
def State.recordFaultOf (s : State) (u : UnitId) (tick : Nat) (cause : Byte) (word ctx : Nat)
    (chan : Option Nat) (sb : BitVec 14) (flags : BitVec 6) : State :=
  let x := s.unit u
  let w := efaultWord cause word ctx (s.region u.region).tag chan sb flags
  if x.stopped then
    if x.faultCyc = s.cyc && tick < x.faultTick then s.setUnit u { x with efault := setBit w 62 true, faultTick := tick }
    else s.setUnit u { x with efault := setBit x.efault 62 true }
  else
    let s1 := s.setUnit u { x with efault := w, faultAt := s.ticket, faultCyc := s.cyc, faultTick := tick }
    State.raise { s1 with ticket := s1.ticket + 1 } u.region .fabric (efaultNum u)

/-- Record a cause at issue, or of no word: it comes after every write-back cause of its cycle. -/
def State.recordFault (s : State) (u : UnitId) (cause : Byte) (word ctx : Nat)
    (chan : Option Nat) (sb : BitVec 14) (flags : BitVec 6) : State :=
  s.recordFaultOf u s.ticket cause word ctx chan sb flags

/-! ## Channels (R94, R96, R108-R110, R316) -/

/-- Tokens reserved or placed on a branch and not yet dequeued, credits under way included; primed tokens are placed
ones, tokens of an earlier branch of the input are not this one's (R109, R123). -/
def Chan.window (c : Chan) : Nat :=
  c.places.length + (c.hops.map (fun h => h.waiting.length + h.wire.length)).sum +
    (c.inq.filter (fun t => !t.stray)).length + c.owed

/-- Has the branch room for one token? -/
def Chan.room (c : Chan) : Bool := c.window < c.limit

/-- The branches of an output. -/
def State.branches (s : State) (u : UnitId) (o : Nat) : List Sink := s.wires.get (u, o) []

/-- Reports queued, and those whose header a report port has taken (R343, R421). -/
def State.reportsDue (s : State) : Nat :=
  s.hub.reports.length + (s.hub.placements.map (fun e => (e.2.pipes.filter (fun q => q.2.report.isSome)).length)).sum

/-- Is a sink the header branch of a report port? -/
def State.reportSink (s : State) : Sink → Bool
  | .inp _ _ => false
  | .pipe id k isData => !isData && (s.placement? id).any (fun p => decide (k < p.img.pipes.reports.length))

/-- Tokens reserved or placed on the header branches of report ports: each may be a report's (R343). -/
def State.reportsComing (s : State) : Nat :=
  ((s.chans.filter (fun e => s.reportSink e.1)).map (fun e => e.2.places.length + e.2.inq.length)).sum

/-- Have the reports queued, due and on their way to a port taken every place of the report queue (R316)? -/
def State.reportsFull (s : State) : Bool := 1024 ≤ s.reportsDue + s.reportsComing

/-- Does a branch take tokens? The header branch of a report port does not while the report queue is full, so that a pulse is placed
onward only with its report (R343, notes/assumptions/54). -/
def State.branchOpen (s : State) (k : Sink) : Bool := !(s.reportSink k && s.reportsFull)

/-- R94 condition 6: every branch of the output has room. -/
def State.outRoom (s : State) (u : UnitId) (o : Nat) : Bool :=
  (s.branches u o).all (fun k => (s.chan k).room && s.branchOpen k)

/-- Room for n more tokens on every branch. -/
def State.outRoomN (s : State) (u : UnitId) (o n : Nat) : Bool :=
  (s.branches u o).all (fun k => (s.chan k).window + n ≤ (s.chan k).limit && s.branchOpen k)

/-- Reserve a place on every branch of an output (R96). -/
def State.reserve (s : State) (u : UnitId) (o tick : Nat) : State :=
  (s.branches u o).foldl (fun s k => s.modChan k (fun c => { c with places := c.places ++ [(tick, none)] })) s

/-- Fill the first open place of a ticket. -/
def fillPlace : List (Nat × Option Tok) → Nat → Tok → List (Nat × Option Tok)
  | [], _, _ => []
  | (k, v) :: ps, tick, t =>
      if k = tick && v.isNone then (k, some t) :: ps else (k, v) :: fillPlace ps tick t

/-- Give up the first open place of a ticket (R323). -/
def dropPlace : List (Nat × Option Tok) → Nat → List (Nat × Option Tok)
  | [], _ => []
  | (k, v) :: ps, tick => if k = tick && v.isNone then ps else (k, v) :: dropPlace ps tick

/-- Leading filled places, and the rest. -/
def splitFilled : List (Nat × Option Tok) → List Tok × List (Nat × Option Tok)
  | (_, some t) :: ps => let (a, b) := splitFilled ps; (t :: a, b)
  | ps => ([], ps)

/-- A pipeline port's branch lies within a cell: what was placed stands at the port with the next cycle, as far as its input has
room (R109, R418). -/
def Chan.settlePipe (c : Chan) : Chan :=
  let ts := (splitFilled c.places).1.take (c.cap - c.inq.length)
  { c with inq := c.inq ++ ts, places := c.places.drop ts.length }

/-- Slot, position and generation of a header (R167). -/
def headerSlot (w : Word) : Nat := bitsOf w 51 13
def headerPos (w : Word) : Nat := bitsOf w 19 32
def headerGen (w : Word) : Nat := bitsOf w 3 16

/-- Does a notice (f, g) kill a header (R173)? -/
def killedBy (n : Option (Nat × Nat)) (w : Word) : Bool :=
  match n with
  | some (f, g) => f ≤ headerPos w && headerGen w < g
  | none => false

/-- A header as its stage's latest notice leaves it (R173, R419), and whether it was marked. -/
def markHeader (p : Placement) (t : Tok) : Tok × Bool :=
  if t.kind = 0 && t.utag = 1 && killedBy (p.notice.get? (headerSlot t.data)) t.data then
    ({ t with utag := 2 }, true)
  else (t, false)

/-- Is a placement a stage (R419)? -/
def Placement.isStage (p : Placement) : Bool :=
  p.img.pipes.start.isSome || !p.img.pipes.reports.isEmpty || !p.img.pipes.kvs.isEmpty

/-- Count a killed pulse, once (R173, R184, R383). -/
def State.countKill (s : State) (r : Nat) (w : Word) : State :=
  let x := s.slot (headerSlot w)
  if x.killed.contains (headerPos w, headerGen w) then s
  else
    ((s.setSlot (headerSlot w) { x with
      killed := (headerPos w, headerGen w) :: x.killed, kills := min (x.kills + 1) (2 ^ 64 - 1) }).countPkg 0xC01 1).count r 0x0F 1

/-- A token as it is placed by an element of a stage: checked against the stage's notice (R419). -/
def State.checkHeader (s : State) (r : Nat) (t : Tok) : State × Tok :=
  match (s.region r).launch with
  | none => (s, t)
  | some id =>
    match s.placement? id with
    | none => (s, t)
    | some p =>
      if p.isStage then
        let (t', k) := markHeader p t
        (if k then s.countKill r t.data else s, t')
      else (s, t)

/-- Is this output the rotation counter's (R382)? -/
def Region.rotates (R : Region) (u : UnitId) (o : Nat) : Bool :=
  bitsOf R.rotCfg 16 32 ≠ 0 && bitsOf R.rotCfg 0 9 = 32 * u.cell + u.sub && bitsOf R.rotCfg 9 3 = o

/-- Does the completion of an operation carry DATA (R302)? -/
def MemOp.givesData : MemOp → Bool
  | .load _ _ | .amo _ | .ldas _ => true
  | _ => false

/-- Does a landing place a DATA token on an output? -/
def Landing.dataOn (l : Landing) (o : Nat) : Bool := l.toks.any (fun e => e.1 = o && e.2.any (fun t => t.kind = 0))

/-- The DATA tokens of words in flight that have their place on an output and are still to be placed. -/
def EUnit.pendingData (x : EUnit) (o : Nat) : Nat :=
  (x.flights.filter (fun f => f.land.dataOn o)).length + (x.reqs.filter (fun q => q.outs.contains o && q.op.givesData)).length

/-- Does the k-th DATA token from here on, k from 1, end a pass of the rotation counter: the count stands at rotCount, and a
pass that has its length or more ends with the next token (R382)? -/
def Region.rotEnds (R : Region) (k : Nat) : Bool :=
  let len := bitsOf R.rotCfg 16 32
  let need := max 1 (len - R.rotCount)
  decide (need ≤ k) && decide ((k - need) % len = 0)

/-- Is the next DATA token that takes a place on an output the last of a pass, tokens counted in the order of their places
(R108, R382, notes/assumptions/78)? -/
def State.passEnds (s : State) (u : UnitId) (o : Nat) : Bool :=
  let R := s.region u.region
  R.rotates u o && R.rotEnds ((s.unit u).pendingData o + 1)

/-- The output, of those on which a word places DATA, where its token ends a pass. -/
def State.rotOf (s : State) (u : UnitId) (os : List Nat) : Option Nat := os.find? (s.passEnds u)

/-- A place, filled, next after the places of a ticket. -/
def placeAfter : List (Nat × Option Tok) → Nat → Tok → List (Nat × Option Tok)
  | [], tick, t => [(tick, some t)]
  | (k, v) :: ps, tick, t =>
      if k = tick && !(ps.any (fun q => q.1 = tick)) then (k, v) :: (tick, some t) :: ps
      else (k, v) :: placeAfter ps tick t

/-- The MARK's place: after the ticket's token, or first where that token has moved on. -/
def markPlace (ps : List (Nat × Option Tok)) (tick : Nat) (t : Tok) : List (Nat × Option Tok) :=
  if ps.any (fun q => q.1 = tick) then placeAfter ps tick t else (tick, some t) :: ps

/-- What a token on a branch means for its region: one whose consumer lies in another region makes the cycle not quiet
(R396), and one that leaves over a die edge counts as a token on a boundary channel (R14, R135, R381). -/
def State.leaves (s : State) (u : UnitId) (k : Sink) (t : Tok) : State :=
  match k with
  | .pipe _ _ _ => s.stir u.region
  | .inp v _ =>
      if v.region = u.region then s
      else if (s.chan k).hops.isEmpty then s.stir u.region
      else (s.stir u.region).countEvent u.region 5 t.tag 1

/-- Put a token into its reserved place on every branch (R96, R110). -/
def State.placeRaw (s : State) (u : UnitId) (o tick : Nat) (t : Tok) : State :=
  (s.branches u o).foldl (fun s k =>
    (s.modChan k (fun c => { c with
      places := fillPlace c.places tick t, drained := c.drained || (t.kind = 2 && t.data = 1) })).leaves u k t) s

/-- A DATA token placed on the rotation counter's output is counted; a pass that is full is counted and starts anew
(R382). -/
def Region.countRot (R : Region) : Region :=
  if R.rotEnds 1 then { R with rotCount := 0, rotPasses := min (R.rotPasses + 1) (2 ^ 32 - 1) }
  else { R with rotCount := R.rotCount + 1 }

/-- A token as an element places it for a ticket: its hidden bits name that firing, where they name nothing yet (R390). -/
def Tok.madeBy (t : Tok) (u : UnitId) (tick : Nat) : Tok :=
  if t.origin = .outside then { t with origin := .firing u tick } else t

/-- Place a token: the stage's notice is applied, and the rotation counter counts (R382, R390, R419). -/
def State.place (s : State) (u : UnitId) (o tick : Nat) (t : Tok) : State :=
  let (s, t) := s.checkHeader u.region (t.madeBy u tick)
  let s := s.placeRaw u o tick t
  if (s.region u.region).rotates u o && t.kind = 0 then s.modRegion u.region Region.countRot else s

/-- The rotation MARK (R382). -/
def rotationMark (tag : Byte) : Tok := { data := 2, kind := 2, tag := tag }

/-- Place the rotation MARK that follows a ticket's token on every branch of an output (R382, R390). -/
def State.placeMark (s : State) (u : UnitId) (o tick : Nat) : State :=
  let t := (rotationMark (s.region u.region).tag).madeBy u tick
  (s.branches u o).foldl (fun s k =>
    (s.modChan k (fun c => { c with places := markPlace c.places tick t })).leaves u k t) s

/-- Release a reserved place on every branch. -/
def State.release (s : State) (u : UnitId) (o tick : Nat) : State :=
  (s.branches u o).foldl (fun s k => s.modChan k (fun c => { c with places := dropPlace c.places tick })) s

/-- The head of an input. -/
def State.head? (s : State) (u : UnitId) (i : Nat) : Option Tok := (s.chan (.inp u i)).inq.head?

/-- Dequeue the head; the producer is credited later (R109). -/
def Chan.pop (c : Chan) : Chan :=
  match c.inq with
  | [] => c
  | t :: ts => { c with inq := ts, owed := if t.stray then c.owed else c.owed + 1 }

def State.dequeue (s : State) (u : UnitId) (i : Nat) : State := s.modChan (.inp u i) Chan.pop

/-- Does the region hold a phase of this tag (R123)? -/
def Region.knowsTag (R : Region) (t : Byte) : Bool := R.launch.isSome && R.tags_.contains t

/-- A token reaches an input: a tag of no phase of the placement is discarded and credited (R123); one from outside
the region makes its cycle not quiet (R396). -/
def State.arrive (s : State) (u : UnitId) (i : Nat) (t : Tok) : State :=
  let R := s.region u.region
  let s := if (s.chan (.inp u i)).src.any (fun p => p.1.region = u.region) then s else s.stir u.region
  if R.knowsTag t.tag then s.modChan (.inp u i) (fun c => { c with inq := c.inq ++ [t] })
  else
    let s := s.modChan (.inp u i) (fun c => { c with owed := c.owed + 1 })
    match R.launch with
    | some id =>
      match s.placement? id with
      | some p => s.setPlacement id { p with dropped := p.dropped + 1 }
      | none => s
    | none => s

/-! ## The core's registers (R256, R257) -/

/-- The parity of 64 bits. -/
def parity (w : Word) : Bool := (List.range 64).foldl (fun b i => b != w.getLsbD i) false

/-- A register as written. -/
def Reg.of (v : Word) (p : Bool) : Reg := ⟨v, p, parity v⟩

/-- The poison a read sees: a failed parity check poisons (R257). -/
def Reg.bad (x : Reg) : Bool := x.poison || x.par != parity x.val

/-- The physical register of a windowed selector 8-31 (R256). -/
def physReg (wptr : Nat) (sel : BitVec 5) : Fin 128 := ⟨(wptr + (sel.toNat - 8)) % 128, Nat.mod_lt _ (by decide)⟩

/-- Read a visible register; g0 reads 0. -/
def Core.read (k : Core) (sel : BitVec 5) : Reg :=
  if sel = 0 then {}
  else if sel.toNat < 8 then k.g.get (Fin.ofNat 8 sel.toNat)
  else k.p.get (physReg k.wptr sel)

/-- Write a visible register; a write to g0 is discarded. -/
def Core.write (k : Core) (sel : BitVec 5) (v : Word) (p : Bool) : Core :=
  if sel = 0 then k
  else if sel.toNat < 8 then { k with g := k.g.set (Fin.ofNat 8 sel.toNat) (Reg.of v p) }
  else { k with p := k.p.set (physReg k.wptr sel) (Reg.of v p) }

/-- The value of a register in a region's core. -/
def State.greg (s : State) (r : Nat) (sel : BitVec 5) : Word := ((s.core r).read sel).val

/-- Write a register and advance the PC. -/
def Core.step4 (k : Core) : Core := { k with pc := k.pc + 4, stall := none, ask := none }

/-- The effect of an ordinary core instruction: d := v with poison 0, PC + 4. -/
def State.retire (s : State) (r : Nat) (d : BitVec 5) (v : Word) : State :=
  s.modCore r (fun k => (k.write d v false).step4)

/-- PC + 4 alone. -/
def State.advance (s : State) (r : Nat) : State := s.modCore r Core.step4

/-- The instruction tries again at the core's next turn; it is no wait of R275. -/
def State.tryAgain (s : State) (r : Nat) : State := s.modCore r (fun k => { k with stall := some .retry })

/-- An SBIND whose record the core still has stores on tries again; it completes before a freeze by the hub stops the core (R400). -/
def State.awaitRecord (s : State) (r : Nat) : State := s.modCore r (fun k => { k with stall := some .record })

/-! ## Address translation (R288-R290, R351-R354) -/

/-- What an access is, for the permission and page checks of R290. -/
inductive Access where
  | load | store | atomic | stampedStore | stampedLoad
  deriving DecidableEq, Repr

/-- Where a translated access lands: a flat address, or byte `off` of the stamped page backed at `base`. -/
inductive Target where
  | plain (a : Nat)
  | stamped (base off : Nat)
  deriving DecidableEq, Repr

/-- The outcomes of R290. -/
inductive Xlat where
  | ok (t : Target)
  | prot
  | absent
  deriving DecidableEq, Repr

/-- Canonical: bits 63:56 equal bit 55 (R288). -/
def canonical (va : Word) : Bool := va.sshiftRight 55 = 0 || va.sshiftRight 55 = allOnes

/-- In the region-store aperture (R289)? -/
def inAperture (va : Word) : Bool := va.extractLsb' 23 41 = BitVec.allOnes 41

/-- Does an entry cover an address? -/
def RangeEnt.covers (e : RangeEnt) (va : Word) : Bool :=
  e.attr.getLsbD 7 && e.vbase.toNat ≤ va.toNat && va.toNat < e.vbase.toNat + e.size.toNat

/-- Does the entry give the permission of an access? -/
def RangeEnt.permits (e : RangeEnt) : Access → Bool
  | .load | .stampedLoad => e.attr.getLsbD 0
  | .store | .stampedStore => e.attr.getLsbD 1
  | .atomic => e.attr.getLsbD 0 && e.attr.getLsbD 1

/-- The pin of an entry. -/
def RangeEnt.pin? (e : RangeEnt) : Option Nat :=
  if e.attr.getLsbD 3 then some (bitsOf e.attr 4 3) else none

/-- The last check of R290: an ordinary store or atomic to a stamped page, or a stamped access to a plain
one, is refused. -/
def stampCheck (acc : Access) (t : Target) : Xlat :=
  match t, acc with
  | .stamped _ _, .store => .prot
  | .stamped _ _, .atomic => .prot
  | .plain _, .stampedStore => .prot
  | .plain _, .stampedLoad => .prot
  | t, _ => .ok t

/-- The page walk of a paged entry (R353): descriptor, group table, pin. -/
def walk (m : Memory) (e : RangeEnt) (va : Word) : Xlat :=
  let o := va.toNat - e.vbase.toNat
  let da := e.phys.toNat + 8 * (o / 2 ^ 21)
  let pinOk (a : Nat) := e.pin?.all (fun d => homeDie a = d)
  if !isDram da then .prot
  else if m.poisoned da || !(m.word da).getLsbD 0 then .absent
  else
    let d := m.word da
    if !d.getLsbD 1 then
      if bitsOf d 2 19 ≠ 0 || bitsOf d 52 12 ≠ 0 then .prot
      else
        let b := bitsOf d 21 31 * 2 ^ 21
        if !pinOk b then .absent
        else if !isDram (b + o % 2 ^ 21) then .prot else .ok (.plain (b + o % 2 ^ 21))
    else if bitsOf d 2 6 ≠ 0 || bitsOf d 52 12 ≠ 0 then .prot
    else
      let ga := bitsOf d 8 44 * 256 + 8 * (o % 2 ^ 21 / 2 ^ 16)
      if !isDram ga then .prot
      else if m.poisoned ga || !(m.word ga).getLsbD 0 then .absent
      else
        let g := m.word ga
        if bitsOf g 1 15 ≠ 0 || bitsOf g 52 12 ≠ 0 then .prot
        else
          let b := bitsOf g 16 36 * 2 ^ 16
          if !pinOk b then .absent
          else if !isDram b || !isDram (b + 393215) then .prot else .ok (.stamped b (o % 2 ^ 16))

/-- Translate through one entry, with the order of R290. -/
def RangeEnt.translate (e : RangeEnt) (m : Memory) (va : Word) (acc : Access) : Xlat :=
  if !e.permits acc then .prot
  else
    let t : Xlat :=
      if e.attr.getLsbD 2 then walk m e va
      else
        let a := e.phys.toNat + (va.toNat - e.vbase.toNat)
        if isDram a && e.pin?.all (fun d => homeDie a = d) then .ok (.plain a) else .prot
    match t with
    | .ok t => stampCheck acc t
    | x => x

/-- The entries of a port in ascending index. -/
def Region.entries (R : Region) (port : Nat) : List RangeEnt :=
  (List.range 16).filterMap (fun i => R.ranges.get? (port, i))

/-- The aperture (R289, R290): an offset at or above the capacity is refused. -/
def apertureTarget (R : Region) (r : Nat) (va : Word) (acc : Access) : Xlat :=
  let off := bitsOf va 0 23
  if R.rcap r ≤ off then .prot else stampCheck acc (.plain (rstoreBase r + off))

/-- Translation of a virtual address through the entries listed (R289, R290). -/
def State.translateBy (s : State) (r : Nat) (es : List RangeEnt) (va : Word) (acc : Access) : Xlat :=
  if !canonical va then .prot
  else if inAperture va then apertureTarget (s.region r) r va acc
  else match es.find? (fun e => e.covers va) with
    | none => .prot
    | some e => e.translate s.mem va acc

/-- The image's code and data areas as implicit entries (R289). -/
def Core.areas (k : Core) : List RangeEnt :=
  [⟨k.codeV, BitVec.ofNat 64 k.codeSize, BitVec.ofNat 64 k.codeP, 0x81⟩,
   ⟨k.dataV, BitVec.ofNat 64 k.dataSize, BitVec.ofNat 64 k.dataP, 0x83⟩]

/-- A core's translation. -/
def State.translateCore (s : State) (r : Nat) (va : Word) (acc : Access) : Xlat :=
  let R := s.region r
  s.translateBy r (R.core.areas ++ ((List.range 16).flatMap (fun p => R.entries (4 + p)))) va acc

/-- A port's translation: MPE 0-3, stream port 4-19. -/
def State.translatePort (s : State) (r port : Nat) (va : Word) (acc : Access) : Xlat :=
  s.translateBy r ((s.region r).entries port) va acc

/-- The entry that a port's address falls to, if it is paged (R290). -/
def State.pagedEntry (s : State) (r port : Nat) (va : Word) : Option RangeEnt :=
  if !canonical va || inAperture va then none
  else match ((s.region r).entries port).find? (fun e => e.covers va) with
    | some e => if e.attr.getLsbD 2 then some e else none
    | none => none


/-- The links, with direction, that an access of a die to a flat address crosses (R15). -/
def remoteRoute (die a : Nat) : List (Nat × Bool) := if a < 2 ^ 51 then linksAlong (dieRoute die (homeDie a)) else []

/-- Does an access to a flat address of DRAM cross a link that is down (R15, R410)? -/
def State.routeDown (s : State) (die a : Nat) : Bool := (remoteRoute die a).any (fun l => (s.link l.1).down)

/-- The poison that a payload carries to its destination: one that crosses a link may arrive with an error that cannot be
corrected (R137). -/
def State.carried (s : State) (die a : Nat) (p : Bool) : Bool × State :=
  if (remoteRoute die a).isEmpty then (p, s)
  else
    let (n, s) := s.takeFree
    (p || Config.payloadBad n, s)

/-! ## Stamped lines (R149, R150, R297-R299) -/

/-- A kept version: slot 1-4, stamp, scope, word mask, die, DEVID. -/
structure Ver where
  slot : Nat
  stamp : Nat
  sys : Bool
  mask : Nat
  die : Nat
  devid : Nat
  deriving DecidableEq, Repr

/-- Key order of R145. -/
def Ver.below (a b : Ver) : Bool :=
  a.stamp < b.stamp || (a.stamp = b.stamp && (a.devid < b.devid || (a.devid = b.devid && a.die < b.die)))

def lineMeta (base line : Nat) : Nat := base + 327680 + 64 * line
def lineSlot (base line slot : Nat) : Nat := base + 320 * line + 64 * slot

/-- The version that a key word of the metadata block describes. -/
def verOf (m : Memory) (base line slot : Nat) : Option Ver :=
  let k := m.readNat (lineMeta base line + 32 + 4 * (slot - 1)) 4
  if k / 2 ^ 31 % 2 = 1 then
    some ⟨slot, m.readNat (lineMeta base line + 8 * (slot - 1)) 8, k / 2 ^ 30 % 2 = 1, k / 2 ^ 22 % 256,
      k / 2 ^ 18 % 16, k % 2 ^ 18⟩
  else none

/-- The kept versions of a line. -/
def versions (m : Memory) (base line : Nat) : List Ver :=
  [1, 2, 3, 4].filterMap (verOf m base line)

def horizon (m : Memory) (base line : Nat) : Nat := m.readNat (lineMeta base line + 48) 8

/-- The greatest, and the smallest, version of a list. -/
def greatest : List Ver → Option Ver
  | [] => none
  | v :: vs => match greatest vs with
    | none => some v
    | some w => if w.below v then some v else some w

def smallest : List Ver → Option Ver
  | [] => none
  | v :: vs => match smallest vs with
    | none => some v
    | some w => if v.below w then some v else some w

/-- Write a version's stamp and key word. -/
def putVer (m : Memory) (base line : Nat) (v : Ver) : Memory :=
  let m := m.writeNat (lineMeta base line + 8 * (v.slot - 1)) 8 v.stamp
  m.writeNat (lineMeta base line + 32 + 4 * (v.slot - 1)) 4
    (2 ^ 31 + (if v.sys then 2 ^ 30 else 0) + v.mask * 2 ^ 22 + v.die * 2 ^ 18 + v.devid)

/-- Copy the eight words of a slot, with poison. -/
def copySlot (m : Memory) (src dst : Nat) : Memory :=
  (List.range 8).foldl (fun m' k => m'.store (dst + 8 * k) 8 (m.word (src + 8 * k)) (m.poisoned (src + 8 * k))) m

/-- Later versions inherit word k up to the next that wrote it (R298). -/
def inheritWord (m : Memory) (base line k : Nat) (x : Word) (p : Bool) (kept : List Ver) (new : Ver) : Memory :=
  kept.foldl (fun m v =>
    if new.below v && !(kept.any (fun u => new.below u && !v.below u && u.mask / 2 ^ k % 2 = 1)) then
      m.store (lineSlot base line v.slot + 8 * k) 8 x p
    else m) m

/-- Install a stamped store (R298): one event at the home line. -/
def install (m : Memory) (base line k : Nat) (x : Word) (p : Bool) (stamp : Nat) (sys : Bool)
    (die devid : Nat) : Memory :=
  let kept := versions m base line
  let new0 : Ver := ⟨0, stamp, sys, 2 ^ k, die, devid⟩
  let src := match greatest (kept.filter (fun v => v.below new0)) with
    | some v => lineSlot base line v.slot
    | none => lineSlot base line 0
  let freeSlot := [1, 2, 3, 4].find? (fun i => !(kept.any (fun v => v.slot = i)))
  match freeSlot with
  | some i =>
      let new := { new0 with slot := i }
      let m1 := copySlot m src (lineSlot base line i)
      let m2 := m1.store (lineSlot base line i + 8 * k) 8 x p
      putVer (inheritWord m2 base line k x p kept new) base line new
  | none =>
    match smallest kept with
    | none => m
    | some d =>
      if new0.below d then
        -- the new version is the smallest of five: discarded after its word was inherited
        (inheritWord m base line k x p kept new0).writeNat (lineMeta base line + 48) 8
          (max (horizon m base line) stamp)
      else
        let new := { new0 with slot := d.slot }
        -- the base is read before the discarded version's slot is reused
        let old := kept.filter (fun v => v.slot ≠ d.slot)
        let m1 := copySlot m src (lineSlot base line d.slot)
        let m2 := m1.store (lineSlot base line d.slot + 8 * k) 8 x p
        let m3 := inheritWord m2 base line k x p old new
        (putVer m3 base line new).writeNat (lineMeta base line + 48) 8
          (max (horizon m base line) d.stamp)

/-- The floor at a scope as a die holds it (R146, R147); a domain of one follows the package floor, and the
device's copy of the system floor is what it was last given (R437). -/
def State.floorAt (s : State) (sys : Bool) (d : Nat) : Nat :=
  if sys then (s.die d).sysFloor else (s.die d).floor

/-- Is a version visible at its home die (R147)? -/
def State.verVisible (s : State) (home : Nat) (v : Ver) : Bool := v.stamp < s.floorAt v.sys home

/-- The slot an ordinary load of a stamped line reads, or none while it must wait (R149). -/
def State.loadSlot (s : State) (base line : Nat) : Option Nat :=
  match greatest ((versions s.mem base line).filter (s.verVisible (homeDie base))) with
  | some v => some v.slot
  | none => if horizon s.mem base line = 0 then some 0 else none

/-- What an LDAS selects (R150): a slot, or none for STAMP_TOO_OLD. -/
def ldasSlot (m : Memory) (base line t : Nat) : Option Nat :=
  match greatest ((versions m base line).filter (fun v => v.stamp ≤ t)) with
  | some v => some v.slot
  | none => if horizon m base line = 0 then some 0 else none

/-- Read n bytes of a target: value and poison; none while a stamped line makes the load wait. -/
def State.readTarget (s : State) (t : Target) (n : Nat) : Option (Nat × Bool) :=
  match t with
  | .plain a => some (s.mem.readNat a n, s.mem.poisoned a)
  | .stamped base off =>
    match s.loadSlot base (off / 64) with
    | some k =>
        let a := lineSlot base (off / 64) k + off % 64
        some (s.mem.readNat a n, s.mem.poisoned a)
    | none => none

/-- The address that names a target in the flat space. -/
def Target.addr : Target → Nat
  | .plain a => a
  | .stamped base off => base + off

/-- Write to a plain target. -/
def State.writeTarget (s : State) (t : Target) (n : Nat) (v : Word) (p : Bool) : State :=
  match t with
  | .plain a => { s with mem := s.mem.store a n v p }
  | .stamped _ _ => s

/-- Assign a stamp on a die (R145). -/
def State.assignStamp (s : State) (d : Nat) : Nat × State :=
  let D := s.die d
  let st := if D.last < D.l then D.l else D.last + 1
  (st, s.modDie d (fun D => { D with last := st }))

/-- Is the die widened for stamped work; a widened hub widens every die (R151)? -/
def State.dieWide (s : State) (d : Nat) : Bool := (s.die d).wide || (s.die 8).wide

/-- Does a stamped operation at a scope fault at issue (R151, R152)? -/
def State.stampBlocked (s : State) (d : Nat) (sys : Bool) : Bool :=
  s.dieWide d || (sys && s.hub.stall152)

/-- The width of a die's interval. -/
def State.width (s : State) (d : Nat) : Word := BitVec.ofNat 64 ((s.die d).l - (s.die d).e)

/-! ## Banks and their arbitration (R292, R295) -/

/-- The bank of a flat address: scratchpads and region stores have banks, DRAM is not arbitrated here. -/
def bankOf (a : Nat) : Option (Nat × Nat) :=
  if 2 ^ 53 ≤ a then some (10000 + (a - 2 ^ 53) / 2 ^ 23, a % 2 ^ 23 / 64 % 16)
  else if 2 ^ 52 ≤ a then some ((a - 2 ^ 52) / 2 ^ 20, a % 2 ^ 20 / 64 % 8)
  else none

/-- The requesters of a bank in the order that rotates (notes/assumptions/80). A scratchpad's: 0 the SPE, 1 vector ring
reads, 2 vector ring writes, 3 matrix operand reads, 4 out-ring writes, 5 + p stream port p; a region store's: 0-3 the
MPEs, 4 the core, 5 + p stream port p. -/
def requesters : Nat := 21

/-- How far after the requester served last a requester's turn stands. -/
def State.bankTurn (s : State) (b : Nat × Nat) (who : Nat) : Nat :=
  (who + requesters - 1 - s.bankLast.get b (requesters - 1)) % requesters

/-- Does a bank serve a requester now: it is free in this cycle, and no other requester of the cycle stands before it in
the order that starts after the one served last (R292)? -/
def State.bankServes (s : State) (a who : Nat) : Bool :=
  match bankOf a with
  | some b => !s.banksBusy.contains b &&
      s.bankWant.all (fun w => w.1 ≠ b || w.2 = who || s.bankTurn b who < s.bankTurn b w.2)
  | none => true

/-- Is the bank of an address free in this cycle? -/
def State.bankFree (s : State) (a : Nat) : Bool :=
  match bankOf a with
  | some b => !s.banksBusy.contains b
  | none => true

/-- Take the bank of an address for this cycle. -/
def State.takeBank (s : State) (a who : Nat) : State :=
  match bankOf a with
  | some b => { s with banksBusy := b :: s.banksBusy, bankTried := (b, who) :: s.bankTried, bankLast := s.bankLast.set b who }
  | none => s

/-- Take the banks of several addresses. -/
def State.takeBanks (s : State) (as : List Nat) (who : Nat) : State := as.foldl (fun s a => s.takeBank a who) s

/-- Count a lost arbitration: a scratchpad bank stall of the cell's region, or a region-store bank stall. -/
def State.bankLost (s : State) (a who : Nat) : State :=
  let s : State := match bankOf a with
    | some b => { s with bankTried := (b, who) :: s.bankTried }
    | none => s
  if 2 ^ 53 ≤ a then s.count ((a - 2 ^ 53) / 2 ^ 23) 0x08 1
  else if 2 ^ 52 ≤ a then s.count ((a - 2 ^ 52) / 2 ^ 24) 0x07 1
  else s

/-- Every address of a list whose bank does not serve the requester counts as lost. -/
def State.banksLost (s : State) (as : List Nat) (who : Nat) : State :=
  (as.filter (fun a => !s.bankServes a who)).foldl (fun s a => s.bankLost a who) s

/-! ## Windows and the spill engine (R259-R263) -/

/-- Translate the 16 words of a frame, or the cause (R263). -/
def State.frameTargets (s : State) (r : Nat) (va : Word) (acc : Access) : List Nat → Except (Byte × Word) (List Target)
  | [] => .ok []
  | i :: is =>
    match s.translateCore r (va + BitVec.ofNat 64 (8 * i)) acc with
    | .ok t => match s.frameTargets r va acc is with
      | .ok ts => .ok (t :: ts)
      | .error e => .error e
    | .absent => .error (cPAGE, va)
    | .prot => .error (cPROT, va)

/-- Where the 16 words of spill slot f of a core lie, the whole frame translated, or the cause: a carve-out frame beyond
the store's capacity is refused (R22, R260, R263). -/
def State.spillPlace (s : State) (r f : Nat) (write : Bool) : Except (Byte × Word) (List Target) :=
  let k := s.core r
  if f < k.wlim.toNat / 128 then
    let o := k.wspill.toNat + 128 * f
    if s.rcap r < o + 128 then .error (cPROT, BitVec.ofNat 64 o)
    else .ok ((List.range 16).map (fun i => .plain (rstoreBase r + o + 8 * i)))
  else
    s.frameTargets r (k.wovf + BitVec.ofNat 64 (128 * (f - k.wlim.toNat / 128))) (if write then .store else .load)
      (List.range 16)

/-- The physical register of frame word k at window value w. -/
def frameReg (w k : Nat) : Fin 128 := ⟨(w + k) % 128, Nat.mod_lt _ (by decide)⟩

/-- One store of a core to a translated place; across a link that is down it may be lost (R410). -/
def State.coreWrite (s : State) (r : Nat) (t : Target) (v : Word) (p : Bool) : State :=
  if s.routeDown (regionDie r) t.addr then
    let (n, s) := s.takeFree
    if Config.lostStore n then s.writeTarget t 8 v p else s
  else
    let (p, s) := s.carried (regionDie r) t.addr p
    s.writeTarget t 8 v p

/-- One read of a core from a translated place: a poisoned 0 across a link that is down (R410); none while a stamped line
makes it wait (R149). -/
def State.coreRead (s : State) (r : Nat) (t : Target) : Option (Word × Bool) :=
  if s.routeDown (regionDie r) t.addr then some (0, true)
  else (s.readTarget t 8).map (fun v => (BitVec.ofNat 64 v.1, v.2))

/-- The bank accesses of a frame in the carve-out, a 64-byte line each (R295, notes/assumptions/79). -/
def frameLines (ts : List Target) : List Nat :=
  [ts.head?, (ts.drop 8).head?].filterMap (fun t => match t with
    | some (.plain a) => some a
    | _ => none)

/-- The spill engine takes the banks of a frame. -/
def State.spillBanks (s : State) (ts : List Target) : State := (frameLines ts).foldl (fun s a => s.takeBank a 4) s

/-- How a window move can fail: WINDOW_OVERFLOW with a subcode, a spill or fill fault, or no slot at a
trap entry; or it waits: for earlier stores of the core or a stamped line (R149, R262), or for the banks of addresses that it lost
(R295). -/
inductive WinFail where
  | window (sub : Byte)
  | spill (cause : Byte) (eval : Word)
  | noSlot
  | later
  | busy (lost : List Nat)
  deriving DecidableEq, Repr

/-- What keeps a frame from being moved now: the core's accesses before it come first (R262), then its banks (R295). -/
def State.spillWaits (s : State) (r : Nat) (ts : List Target) : Option WinFail :=
  let lost := (frameLines ts).filter (fun a => !s.bankServes a 4)
  if !(s.core r).stores.isEmpty then some WinFail.later
  else if lost.isEmpty then none
  else some (WinFail.busy lost)

/-- Write the 16 registers of the frame at window value w. -/
def State.spillFrame (s : State) (r w : Nat) (ts : List Target) : State :=
  let k := s.core r
  (ts.zipIdx).foldl (fun s (t, i) =>
    let x := k.p.get (frameReg w i)
    s.coreWrite r t x.val x.bad) (s.spillBanks ts)

/-- The words of a frame read back; none while one must wait. -/
def State.frameWords (s : State) (r : Nat) : List Target → Option (List (Word × Bool))
  | [] => some []
  | t :: ts =>
    match s.coreRead r t, s.frameWords r ts with
    | some x, some xs => some (x :: xs)
    | _, _ => none

/-- Registers of the frame at window value w filled from words. -/
def Core.fillFrame (k : Core) (w : Nat) (xs : List (Word × Bool)) : Core :=
  xs.zipIdx.foldl (fun k (x, i) => { k with p := k.p.set (frameReg w i) (Reg.of x.1 x.2) }) k

/-- Perform one store of region r's core. -/
def State.performStore (s : State) (r : Nat) (c : CoreStore) : State :=
  let (p, s) := s.carried (regionDie r) c.addr c.poison
  { s with mem := s.mem.store c.addr c.n c.data p }

/-- The number of spill slots (R260). -/
def Core.slots (k : Core) : Nat := k.wlim.toNat / 128 + k.wovlim.toNat / 128

/-- Open a window (R261): CALL, CALLR and trap entry. -/
def State.openWindow (s : State) (r : Nat) (trapEntry : Bool) : Except WinFail State :=
  let k := s.core r
  if k.wptr + 40 ≤ k.wbot + 128 then .ok (s.modCore r (fun k => { k with wptr := k.wptr + 16 }))
  else
    let f := k.wbot / 16
    if k.slots ≤ f + 1 && !trapEntry then .error (.window 0)
    else if k.slots ≤ f then .error .noSlot
    else match s.spillPlace r f true with
      | .error (c, v) => .error (.spill c v)
      | .ok a =>
        match s.spillWaits r a with
        | some w => .error w
        | none => .ok ((s.spillFrame r k.wbot a).modCore r (fun k => { k with wbot := k.wbot + 16, wptr := k.wptr + 16 }))

/-- Close a window (R261): RET and ERET. -/
def State.closeWindow (s : State) (r : Nat) : Except WinFail State :=
  let k := s.core r
  if k.wptr = 0 then .error (.window 1)
  else if k.wbot = k.wptr then
    match s.spillPlace r ((k.wbot - 16) / 16) false with
    | .error (c, v) => .error (.spill c v)
    | .ok a =>
        match s.spillWaits r a, s.frameWords r a with
        | some w, _ => .error w
        | none, none => .error .later
        | none, some xs => .ok ((s.spillBanks a).modCore r (fun k =>
          { k.fillFrame (k.wbot - 16) xs with wbot := k.wbot - 16, wptr := k.wptr - 16 }))
  else .ok (s.modCore r (fun k => { k with wptr := k.wptr - 16 }))

/-! ## Taking an exception (R268, R270, R272-R276) and returning from one (R284) -/

/-- An event for system software's ring (R433): kept with the hub. -/
def State.notify (s : State) (e : List Word) : State := s.modHub (fun h => { h with events := e :: h.events })

/-- The freeze that begins at a region: none while one of the same reach stands; a freeze by the hub takes the place of a fabric
freeze, which is tried again after the restore, or stands again if its image was written (R400, R403). -/
def FreezeSt.begin_ (old : Option FreezeSt) (area kind : Nat) (held : Bool) : FreezeSt :=
  match old with
  | none => ⟨area, kind, false, false, none⟩
  | some f =>
    if kind = 0 then f
    else if f.kind = 0 then ⟨area, kind, false, false, if f.read then some f.area else none⟩
    else if f.read && !held then ⟨area, kind, false, false, f.under⟩
    else f

/-- A freeze of a region begins: its ports drop the translations they keep (R354, R400). -/
def State.beginFreeze (s : State) (r area kind : Nat) : State :=
  s.modRegion r (fun R => { R with
    frozen := some (FreezeSt.begin_ R.frozen area kind (R.frozen.any (fun f => (s.images.get? f.area).isSome)))
    kept := [] })

/-- Does a freeze by the hub stop the core? -/
def Region.coreFrozen (R : Region) : Bool :=
  match R.frozen with
  | some f => f.kind ≠ 0
  | none => false

/-- DOUBLE_FAULT (R276): the core stops, the trap registers keep their values, the hub freezes the region
to its fault image area and notifies system software. -/
def State.doubleFault (s : State) (r : Nat) : State :=
  let s := s.modCore r (fun k => { k with run := .doubleFault, wait := none, stall := none })
  let s := s.notify [1, BitVec.ofNat 64 r]
  match (s.region r).faultArea with
  | some a => s.beginFreeze r a 1
  | none => s.modRegion r (fun R => { R with frozen := some (R.frozen.getD ⟨0, 1, true, true, none⟩), kept := [] })

/-- ESTAT (R270). -/
def estatWord (wcut async handler : Bool) : Word :=
  BitVec.ofNat 64 (4 * wcut.toNat + 2 * async.toNat + handler.toNat)

/-- The trap registers and the mode as trap entry writes them (R274). -/
def Core.trapped (k : Core) (cause sub : Byte) (eval epc : Word) (wcut async : Bool) : Core :=
  { k with
    ecause := (0#48 ++ sub ++ cause), eval := eval, epc := epc, estat := estatWord wcut async k.handler, handler := true }

/-- A window move that waits is tried again in the next cycle; the banks it lost are counted (R295). -/
def State.windowLater (s : State) (r : Nat) (lost : List Nat) : State := (lost.foldl (fun s a => s.bankLost a 4) s).tryAgain r

/-- Trap entry (R274): saved cause, value, address and status; handler mode; a window; PC := EVEC. No slot
or a fault of the spill puts the core in DOUBLE_FAULT; while the spill waits nothing is entered. -/
def State.enterTrap (s : State) (r : Nat) (cause sub : Byte) (eval epc : Word) (wcut async : Bool) : State :=
  let t := s.modCore r (fun k => k.trapped cause sub eval epc wcut async)
  match t.openWindow r true with
  | .error .later => s.windowLater r []
  | .error (.busy lost) => s.windowLater r lost
  | .error _ => t.doubleFault r
  | .ok s1 => s1.modCore r (fun k => { k with pc := k.evec, run := .running, wait := none, stall := none })

/-- A synchronous cause (R272): a trap in user mode, DOUBLE_FAULT in handler mode. -/
def State.trapSync (s : State) (r : Nat) (cause sub : Byte) (eval epc : Word) : State :=
  if (s.core r).handler then s.doubleFault r else s.enterTrap r cause sub eval epc false false

/-- A precise cause: EPC holds the instruction's own address. -/
def State.trapHere (s : State) (r : Nat) (cause : Byte) (eval : Word) : State :=
  s.trapSync r cause 0 eval (s.core r).pc

/-- A failed window move as a cause at the instruction (R261, R263): EVAL holds WPTR, or the frame's
address. -/
def State.windowTrap (s : State) (r : Nat) (f : WinFail) : State :=
  match f with
  | .window sub => s.trapSync r cWINDOW sub (BitVec.ofNat 64 (s.core r).wptr) (s.core r).pc
  | .spill c v => s.trapSync r c 0 v (s.core r).pc
  | .noSlot => s.doubleFault r
  | .later => s.windowLater r []
  | .busy lost => s.windowLater r lost

/-- Does a trap entry of the core wait for its window? -/
def State.entryWaits (s : State) (r : Nat) : Bool :=
  match s.openWindow r true with
  | .error .later | .error (.busy _) => true
  | _ => false

/-- Take the pending asynchronous cause of highest priority (R273): only in user mode. A wait is cut, and
EPC holds the waiting instruction. -/
def State.takeAsync (s : State) (r : Nat) : State :=
  let k := s.core r
  if k.handler || k.run = .doubleFault || s.entryWaits r then s
  else match k.pend.take? with
    | none => s
    | some (c, v, rest) =>
        (s.modCore r (fun k => { k with pend := rest })).enterTrap r c.code 0 v k.pc k.wait.isSome true

/-- The launch's code area (R258). -/
def Core.inCode (k : Core) (a : Word) : Bool :=
  k.codeV.toNat ≤ a.toNat && a.toNat + 4 ≤ k.codeV.toNat + k.codeSize

/-- A transfer to a target (R258, R457 item 4): outside the code area it raises PROTECTION at the transferring
instruction, with nothing of the given state kept. -/
def State.transfer (old new : State) (r : Nat) (target : Word) : State :=
  if (old.core r).inCode target then new.modCore r (fun k => { k with pc := target, stall := none })
  else old.trapHere r cPROT target

/-- The return from an exception (R284, R457): window, mode, PC, then a pending cause. -/
def State.exitTrap (s : State) (r : Nat) : State :=
  let k := s.core r
  match s.closeWindow r with
  | .error f => s.windowTrap r f
  | .ok s1 =>
    if k.inCode k.epc then
      (s1.modCore r (fun k => { k with handler := k.estat.getLsbD 0, pc := k.epc, stall := none })).takeAsync r
    else s.trapHere r cPROT k.epc

end Sys2Proof.Machine
end

