-- ==== Sys2Proof/Machine/Flags.lean ====
section
/-! DEFINITION. Integer results with their flags and predicates: the arithmetic shared by element words,
vector lanes, atomics and the control core (spec/11 R195-R202, spec/12 R218, spec/14 R277-R278, spec/15
R305, spec/03 R68). -/

namespace Sys2Proof.Machine

/-- The predicate test of R98: the low `n` bits are not all zero. -/
def testBits (n : Nat) (v : Word) : Bool := v.toNat % 2 ^ n ≠ 0

/-- Sign extension of the low n bits. -/
def signExt (n : Nat) (v : Word) : Word := BitVec.ofInt 64 (intVal n true v.toNat)

/-- The low n bits, zero above. -/
def zeroExt (n : Nat) (v : Word) : Word := BitVec.ofNat 64 (v.toNat % 2 ^ n)

/-- (SA × SB)<127:64>. -/
def mulHighS (a b : Word) : Word := BitVec.ofInt 64 (a.toInt * b.toInt / 2 ^ 64)

/-- (UA × UB)<127:64>. -/
def mulHighU (a b : Word) : Word := BitVec.ofNat 64 (a.toNat * b.toNat / 2 ^ 64)

/-- Shifts by B<5:0> (R195, R277). -/
def shiftL (a b : Word) : Word := a <<< (b.toNat % 64)
def shiftR (a b : Word) : Word := a >>> (b.toNat % 64)
def shiftA (a b : Word) : Word := a.sshiftRight (b.toNat % 64)

/-- The operand with the smaller or larger value. -/
def minS (a b : Word) : Word := if a.sle b then a else b
def maxS (a b : Word) : Word := if b.sle a then a else b
def minU (a b : Word) : Word := if a ≤ b then a else b
def maxU (a b : Word) : Word := if b ≤ a then a else b

/-- Clamp to 64 signed bits; the flag is SAT. -/
def clamp64 (v : Int) : Word × Flags :=
  let (y, c) := clampInt (intMin 64 true) (intMax 64 true) v
  (BitVec.ofInt 64 y, flagIf c flagSAT)

def addSat (a b : Word) : Word × Flags := clamp64 (a.toInt + b.toInt)
def subSat (a b : Word) : Word × Flags := clamp64 (a.toInt - b.toInt)

/-- Leading zero bits; 64 for 0 (R196). -/
def clz64 (a : Word) : Word := BitVec.ofNat 64 (64 - bitLen a.toNat)

/-- One bits (R196). -/
def popc64 (a : Word) : Word :=
  BitVec.ofNat 64 ((List.range 64).filter (fun i => a.getLsbD i)).length

/-- The atomics in the order of R305 and R312: the new value, whether one is written, SAT. -/
def amoResult (k : Nat) (old b exp : Word) : Option Word × Flags :=
  match k with
  | 0 => (some (old + b), 0)
  | 1 => (some (minS old b), 0)
  | 2 => (some (maxS old b), 0)
  | 3 => (some (old &&& b), 0)
  | 4 => (some (old ||| b), 0)
  | 5 => (some (old ^^^ b), 0)
  | 6 => (some b, 0)
  | 7 => (if old = exp then some b else none, 0)
  | _ => let (v, f) := addSat old b; (some v, f)

/-- Is the operand of an atomic a use of poison (R305)? -/
def amoUses (k : Nat) : Bool := k ≠ 6 && k ≠ 7

/-- IntAcc (R68): wrap modulo 2^32, or clamp and set SAT, on 32-bit patterns. -/
def intAcc (isat : Bool) (acc : Nat) (s : Int) : Nat × Flags :=
  let v := intVal 32 true acc + s
  if isat then
    let (y, c) := clampInt (intMin 32 true) (intMax 32 true) v
    (intBits 32 y, flagIf c flagSAT)
  else (intBits 32 v, 0)

/-- The low 32 bits of an FP32 operand (R185). -/
def lo32 (a : Word) : Nat := a.toNat % 2 ^ 32

/-- What a computing word delivers: value, flags, and the predicate it would write (R98). -/
structure ERes where
  val : Word
  flags : Flags := 0
  pred : Bool
  deriving DecidableEq, Repr

/-- An integer result: the predicate tests all 64 bits. -/
def ERes.int (v : Word) : ERes := ⟨v, 0, testBits 64 v⟩

/-- A result with flags. -/
def ERes.sat (p : Word × Flags) : ERes := ⟨p.1, p.2, testBits 64 p.1⟩

/-- A compare: 0 or 1, and the same boolean. -/
def ERes.bool (b : Bool) : ERes := ⟨bool64 b, 0, b⟩

/-- An FP32 result: bits 63:32 zero, the predicate tests bits 31:0 (R98, R185). -/
def ERes.single (r : Res) : ERes :=
  ⟨BitVec.ofNat 64 (r.bits % 2 ^ 32), r.flags, testBits 32 (BitVec.ofNat 64 r.bits)⟩

/-- An FP64 result. -/
def ERes.double (r : Res) : ERes := ⟨BitVec.ofNat 64 r.bits, r.flags, testBits 64 (BitVec.ofNat 64 r.bits)⟩

end Sys2Proof.Machine
end

