-- ==== Sys2Proof/Machine/Rings.lean ====
section
/-! DEFINITION. Rings and banks: slots, claims, rows, tags
(spec/15 R293, R294, spec/12 R231, R232, spec/13 R243, spec/03 R61). -/

namespace Sys2Proof.Machine

/-- The flat address of a row of a ring slot (R293). -/
def ringAddr (c : CellId) (g : Ring) (slot row : Nat) : Nat := spadBase c + g.base + 2048 * slot + 64 * row

/-- The slot of a number. -/
def Ring.slotOf (g : Ring) (i : Nat) : RSlot := g.slots.getD i ⟨.empty, g.decl, .nobody⟩
def Ring.setSlot (g : Ring) (i : Nat) (x : RSlot) : Ring := { g with slots := g.slots.set i x }

/-- The head and tail slots. -/
def Ring.headSlot (g : Ring) : RSlot := g.slotOf g.head
def Ring.tailSlot (g : Ring) : RSlot := g.slotOf g.tail

/-- The next slot number. -/
def Ring.after (g : Ring) (i : Nat) : Nat := (i + 1) % g.slots.length

/-- Pop the head slot: EMPTY, the head advances. -/
def Ring.pop (g : Ring) : Ring :=
  { g.setSlot g.head { g.headSlot with st := .empty, by_ := .nobody } with head := g.after g.head }

/-- Claim the tail slot for a claimant; the tail advances (R243, R294). -/
def Ring.claim (g : Ring) (by_ : ClaimBy) : Ring :=
  { g.setSlot g.tail { g.tailSlot with st := .claimed, by_ := by_ } with tail := g.after g.tail }

/-- The slot that a claimant holds. -/
def Ring.claimed (g : Ring) (by_ : ClaimBy) : Option Nat :=
  (List.range g.slots.length).find? (fun i => (g.slotOf i).st = .claimed && (g.slotOf i).by_ = by_)

/-- The 32 rows of a slot. -/
def slotRows (m : Memory) (c : CellId) (g : Ring) (slot : Nat) : List Row :=
  (List.range 32).map (fun r => m.row (ringAddr c g slot r))

/-- Is any row of a slot poisoned? -/
def slotPoisoned (m : Memory) (c : CellId) (g : Ring) (slot : Nat) : Bool :=
  (List.range 32).any (fun r => m.rowPoisoned (ringAddr c g slot r))

/-- Tag a slot FULL with a format tag, fin computed over its rows (R61). -/
def State.fillSlot (s : State) (c : CellId) (n slot : Nat) (tag : Byte) : State :=
  match s.ring? c n with
  | none => s
  | some g => s.setRing c n (g.setSlot slot ⟨.full, refin tag (slotRows s.mem c g slot), .nobody⟩)

/-- Write one row of a ring slot, one event (R115). -/
def State.writeRingRow (s : State) (c : CellId) (n slot row : Nat) (r : Row) (p : Bool) : State :=
  match s.ring? c n with
  | none => s
  | some g => { s with mem := s.mem.writeRow (ringAddr c g slot row) r p }

/-- The rows that a VSTR's write-back writes, and its commit (R232). -/
def State.landRows (s : State) (c : CellId) : List RowWrite → State
  | [] => s
  | w :: ws =>
      let s := s.writeRingRow c w.ring w.slot w.row w.data w.poison
      let s := if w.commit then
          s.fillSlot c w.ring w.slot (match s.ring? c w.ring with | some g => g.decl | none => 0)
        else s
      s.landRows c ws

end Sys2Proof.Machine
end

