-- ==== Sys2Proof/WellFormed.lean ====
section
/-! DEFINITION. The operand view of E words and the limits that spec/04 puts on every word's fields
(R74-R92): what the loader refuses as CONFIG_REJECT subcode 0x03, per word and per element kind. -/

namespace Sys2Proof

/-- What an E word names (R78, R81): guard, operands in the order of R456, further registers read,
destination register, output channels whose room it needs, written predicate. -/
structure EView where
  trig : Trig
  ins : List Src
  reads : List (BitVec 3) := []
  regDst : Option (BitVec 3) := none
  outs : List (BitVec 3) := []
  predDst : Option (BitVec 3) := none
  deriving DecidableEq, Repr

/-- The register a destination writes. -/
def Dst.reg? : Dst → Option (BitVec 3)
  | .x r => some r
  | .both r => some r
  | _ => none

/-- The output channels a destination names. -/
def Dst.outs : Dst → List (BitVec 3)
  | .out o => [o]
  | .both r => [r]
  | _ => []

/-- The predicate a pw field writes. -/
def PredW.pred? : PredW → Option (BitVec 3)
  | .none => Option.none
  | .to j => some j

/-- The input channel a source names, consumed or kept. -/
def Src.chan? : Src → Option (BitVec 3)
  | .take i => some i
  | .keep i => some i
  | _ => none

/-- The register a source names. -/
def Src.reg? : Src → Option (BitVec 3)
  | .x r => some r
  | _ => none

/-- The output channels of a register-and-channel destination. -/
def RegDst.outs (d : RegDst) : List (BitVec 3) := if d.copy then [d.r] else []

/-- The even output 2·o of STEER and DUP, and its odd neighbour. -/
def pairOut (o : BitVec 2) (odd : Bool) : BitVec 3 := o ++ (if odd then 1#1 else 0#1)

/-- View of a word with one ordinary destination. -/
def EView.std (t : Trig) (d : Dst) (ins : List Src) (p : PredW) : EView :=
  { trig := t, ins := ins, regDst := d.reg?, outs := d.outs, predDst := p.pred? }

/-- View of a word that reads its destination register (R202, R204, R305). -/
def EView.rmw (t : Trig) (d : RegDst) (ins : List Src) (p : PredW) : EView :=
  { trig := t, ins := ins, reads := [d.r], regDst := some d.r, outs := d.outs, predDst := p.pred? }

/-- The operand view of every E word; `none` for words of the other classes and for events.
STEER's output and MERGEC's data side depend on tokens (R321, R322) and are left to readiness. -/
def Instr.eview : Instr → Option EView
  | .mov t d a p => some (.std t d [a] p)
  | .add t d a b p => some (.std t d [a, b] p)
  | .sub t d a b p => some (.std t d [a, b] p)
  | .mul t d a b p => some (.std t d [a, b] p)
  | .mulhs t d a b p => some (.std t d [a, b] p)
  | .mulhu t d a b p => some (.std t d [a, b] p)
  | .and t d a b p => some (.std t d [a, b] p)
  | .or t d a b p => some (.std t d [a, b] p)
  | .xor t d a b p => some (.std t d [a, b] p)
  | .andn t d a b p => some (.std t d [a, b] p)
  | .shl t d a b p => some (.std t d [a, b] p)
  | .shr t d a b p => some (.std t d [a, b] p)
  | .sar t d a b p => some (.std t d [a, b] p)
  | .min t d a b p => some (.std t d [a, b] p)
  | .max t d a b p => some (.std t d [a, b] p)
  | .minu t d a b p => some (.std t d [a, b] p)
  | .maxu t d a b p => some (.std t d [a, b] p)
  | .adds t d a b p => some (.std t d [a, b] p)
  | .subs t d a b p => some (.std t d [a, b] p)
  | .clz t d a p => some (.std t d [a] p)
  | .popc t d a p => some (.std t d [a] p)
  | .sext t d a _ p => some (.std t d [a] p)
  | .zext t d a _ p => some (.std t d [a] p)
  | .ceq t d a b p => some (.std t d [a, b] p)
  | .cne t d a b p => some (.std t d [a, b] p)
  | .clt t d a b p => some (.std t d [a, b] p)
  | .cle t d a b p => some (.std t d [a, b] p)
  | .cltu t d a b p => some (.std t d [a, b] p)
  | .cleu t d a b p => some (.std t d [a, b] p)
  | .ctst t d a b p => some (.std t d [a, b] p)
  | .addi t d a _ => some (.std t d [a] .none)
  | .andi t d a _ => some (.std t d [a] .none)
  | .ori t d a _ => some (.std t d [a] .none)
  | .xori t d a _ => some (.std t d [a] .none)
  | .shli t d a _ => some (.std t d [a] .none)
  | .shri t d a _ => some (.std t d [a] .none)
  | .sari t d a _ => some (.std t d [a] .none)
  | .ceqi t j a _ => some (.std t .discard [a] (.to j))
  | .clti t j a _ => some (.std t .discard [a] (.to j))
  | .cltui t j a _ => some (.std t .discard [a] (.to j))
  | .movi t d _ => some (.std t d [] .none)
  | .shin t d _ => some (.rmw t d [] .none)
  | .faddS t d a b p => some (.std t d [a, b] p)
  | .fsubS t d a b p => some (.std t d [a, b] p)
  | .fmulS t d a b p => some (.std t d [a, b] p)
  | .fmacS t d a b p => some (.rmw t d [a, b] p)
  | .fminS t d a b p => some (.std t d [a, b] p)
  | .fmaxS t d a b p => some (.std t d [a, b] p)
  | .frsqeS t d a p => some (.std t d [a] p)
  | .frcpeS t d a p => some (.std t d [a] p)
  | .fceqS t d a b p => some (.std t d [a, b] p)
  | .fcltS t d a b p => some (.std t d [a, b] p)
  | .fcleS t d a b p => some (.std t d [a, b] p)
  | .fcunS t d a b p => some (.std t d [a, b] p)
  | .faddD t d a b p => some (.std t d [a, b] p)
  | .fsubD t d a b p => some (.std t d [a, b] p)
  | .fmulD t d a b p => some (.std t d [a, b] p)
  | .fmacD t d a b p => some (.rmw t d [a, b] p)
  | .fminD t d a b p => some (.std t d [a, b] p)
  | .fmaxD t d a b p => some (.std t d [a, b] p)
  | .fceqD t d a b p => some (.std t d [a, b] p)
  | .fcltD t d a b p => some (.std t d [a, b] p)
  | .fcleD t d a b p => some (.std t d [a, b] p)
  | .fcunD t d a b p => some (.std t d [a, b] p)
  | .steer t _ a b => some { trig := t, ins := [a, b] }
  | .mergec t d _ _ iC => some (.std t d [.take iC] .none)
  | .dup t o a => some { trig := t, ins := [a], outs := [pairOut o false] }
  | .gate t d a b => some (.std t d [a, b] .none)
  | .join t d a b => some (.std t d [a, b] .none)
  | .kind t d i k p => some (.std t d [if k then .keep i else .take i] p)
  | .marki t o _ => some { trig := t, ins := [], outs := [o] }
  | .emitd t o a => some { trig := t, ins := [a], outs := [o] }
  | .ld t d a _ _ _ => some (.std t d [a] .none)
  | .ldas t d a b _ => some (.std t d [a, b] .none)
  | .st t d a b _ => some (.std t d [a, b] .none)
  | .stw t d a b _ => some (.std t d [a, b] .none)
  | .sth t d a b _ => some (.std t d [a, b] .none)
  | .stb t d a b _ => some (.std t d [a, b] .none)
  | .stsc t d a b _ => some (.std t d [a, b] .none)
  | .stsp t d a b _ => some (.std t d [a, b] .none)
  | .aadd t d a b _ => some (.std t d [a, b] .none)
  | .amin t d a b _ => some (.std t d [a, b] .none)
  | .amax t d a b _ => some (.std t d [a, b] .none)
  | .aand t d a b _ => some (.std t d [a, b] .none)
  | .aor t d a b _ => some (.std t d [a, b] .none)
  | .axor t d a b _ => some (.std t d [a, b] .none)
  | .axchg t d a b _ => some (.std t d [a, b] .none)
  | .acas t d a b _ => some (.rmw t d [a, b] .none)
  | .aadds t d a b _ => some (.std t d [a, b] .none)
  | .xgrant t o a => some { trig := t, ins := [a], outs := [o.setWidth 3] }
  | .xsend t _ iS iP => some { trig := t, ins := [.take iS, .take iP] }
  | .xrecv t o _ => some { trig := t, ins := [], outs := [o.setWidth 3] }
  | .agen t g b => some { trig := t, ins := [.x g, b], regDst := some g, outs := [0] }
  | .agset t g a _ => some { trig := t, ins := [a], regDst := some g }
  | .agrst t g => some { trig := t, ins := [], regDst := some g }
  | .cvtRne t d a _ _ _ => some (.std t d [a] .none)
  | .cvtRtz t d a _ _ _ => some (.std t d [a] .none)
  | .cvtRdn t d a _ _ _ => some (.std t d [a] .none)
  | .cvtRup t d a _ _ _ => some (.std t d [a] .none)
  | _ => none

/-- The trigger of a V word. -/
def Instr.vtrig : Instr → Option Trig
  | .vmov t _ _ _ | .vabs t _ _ _ | .vexp2 t _ _ _ | .vrcp t _ _ _ | .vrsq t _ _ _
  | .vredadd t _ _ _ | .vredmax t _ _ _ => some t
  | .vadd t _ _ _ _ | .vsub t _ _ _ _ | .vmul t _ _ _ _ | .vfma t _ _ _ _ | .vmin t _ _ _ _
  | .vmax t _ _ _ _ | .vand t _ _ _ _ | .vor t _ _ _ _ | .vxor t _ _ _ _ | .vshl t _ _ _ _
  | .vshr t _ _ _ _ | .vwmac t _ _ _ _ | .vcmpeq t _ _ _ _ | .vcmplt t _ _ _ _
  | .vcmple t _ _ _ _ | .vsel t _ _ _ _ | .vshuf t _ _ _ _ => some t
  | .vqshr t _ _ _ _ | .vbcast t _ _ _ _ | .vwiden t _ _ _ _ => some t
  | .vnarrow t _ _ _ _ _ _ | .vslide t _ _ _ _ _ | .vtag t _ _ _ _ _ => some t
  | .vsetp t _ | .vldr t _ _ _ | .vstr t _ _ _ | .vlds t _ _ | .vsts t _ _ => some t
  | _ => none

/-- Is this a matrix word (R87)? -/
def Instr.isM : Instr → Bool
  | .tmma _ | .tmmag _ _ _ | .tmmax _ _ _ | .tzero _ | .tdrain _ _ _ _ _ _ | .tload _ _ _
  | .taddr _ _ _ | .ttrans _ _ _ => true
  | _ => false

/-- MARKI codes that a program may place (R319, R324). -/
def markCodeOk (c : BitVec 14) : Bool := c = 4 || 0x100 ≤ c.toNat

/-- Scopes of STSC, STSP, LDAS, STS, WAITS, FLOOR are 3 or 4. -/
def stampScope (sys : Bool) : Scope := if sys then .sys else .pkg

/-- A stream or vector format code that conversions accept, 0x1-0xE (R59). -/
def fmtConvertible (c : BitVec 4) : Bool := c ≠ 0 && c ≠ 15

/-- No input channel is named twice among the operands (R35, R78). -/
def chansDistinct : List Src → Bool
  | [a, b] => a.chan?.isNone || a.chan? ≠ b.chan?
  | _ => true

/-- Field limits of a word beyond its operands' ranges (R78-R91). -/
def Instr.fieldsOk : Instr → Bool
  | .mergec _ _ iT iF iC => iT ≠ iF && iC ≠ iT && iC ≠ iF
  | .marki _ _ code => markCodeOk code
  | .ld _ _ _ w sx _ => !(w = .d && sx)
  | .agen _ _ b => b.chan?.all (· < 2)
  | .agset _ _ a _ => a.chan?.all (· < 2)
  | .xsend _ _ iS iP => iS ≠ iP
  | .cvtRne _ _ _ f g _ | .cvtRtz _ _ _ f g _ | .cvtRdn _ _ _ f g _ | .cvtRup _ _ _ f g _ =>
      fmtConvertible f && fmtConvertible g
  | .vnarrow _ _ _ _ _ f _ => fmtConvertible f
  | .vwiden _ _ _ _ f => fmtConvertible f
  | .vcmpeq _ k _ _ _ | .vcmplt _ k _ _ _ | .vcmple _ k _ _ _ => k ≠ 0
  | .vsetp _ j => j ≠ 7
  | .tmma f => !(f.ringA = f.ringB && f.popA && f.popB)
  | .tmmag f sa sb | .tmmax f sa sb =>
      !(f.ringA = f.ringB && f.popA && f.popB) && sa ≠ f.ringA && sb ≠ f.ringB
  | .tdrain _ _ _ f _ s => f = 10 || ((f = 3 || f = 4) && s = 0)
  | _ => true

/-- A word as its class admits it: no channel named twice, no write of p7, field limits met. For an
event: the place it names exists. -/
def Instr.wf (i : Instr) : Bool :=
  i.fieldsOk && match i.eview with
    | some v => chansDistinct v.ins && v.predDst.all (· ≠ 7)
    | none => true

/-- The number of inputs and outputs of each kind (R80); the vector node has i0-i3 and o0-o3 (R86). -/
def UnitKind.channels : UnitKind → Nat × Nat
  | .ge => (8, 8)
  | .spe | .mpe | .xpe | .vn => (4, 4)
  | .age => (2, 1)
  | .cve => (1, 1)
  | .mn => (0, 0)

/-- The E opcodes each kind accepts (R84), by E opcode number. -/
def UnitKind.acceptsOp (k : UnitKind) (op : Nat) : Bool :=
  match k with
  | .ge => op ≤ 0x57
  | .mpe => op = 0 || op = 0x54 || (0x60 ≤ op && op ≤ 0x72)
  | .spe => op = 0 || op = 0x54 || op = 0x60 || (0x64 ≤ op && op ≤ 0x67) || (0x6A ≤ op && op ≤ 0x72)
  | .age => op = 0 || (0x78 ≤ op && op ≤ 0x7A)
  | .cve => op = 0 || (0x7C ≤ op && op ≤ 0x7F)
  | .xpe => op = 0 || (0x74 ≤ op && op ≤ 0x76)
  | .vn | .mn => false

/-- Every channel a word names is one its kind has (R80). -/
def Instr.chansExist (k : UnitKind) (i : Instr) : Bool :=
  let (ni, no) := k.channels
  match i with
  | .mergec _ d iT iF iC =>
      iT.toNat < ni && iF.toNat < ni && iC.toNat < ni && d.outs.all (·.toNat < no)
  | .steer _ o a b =>
      (pairOut o true).toNat < no && [a, b].all (fun s => s.chan?.all (·.toNat < ni))
  | .dup _ o a => (pairOut o true).toNat < no && a.chan?.all (·.toNat < ni)
  | .xsend _ o iS iP => o.toNat < no && iS.toNat < ni && iP.toNat < ni
  | .xrecv _ _ iM => iM.toNat < ni
  | i => match i.eview with
    | some v => v.ins.all (fun s => s.chan?.all (·.toNat < ni)) && v.outs.all (·.toNat < no)
    | none => true

/-- CVT stands only as o0 from consumed i0 (R325). -/
def Instr.cvtPlaceOk : Instr → Bool
  | .cvtRne _ d a _ _ _ | .cvtRtz _ d a _ _ _ | .cvtRdn _ d a _ _ _ | .cvtRup _ d a _ _ _ =>
      d = .out 0 && a = .take 0
  | _ => true

end Sys2Proof
end

