-- ==== Sys2Proof/Machine/Operands.lean ====
section
/-! DEFINITION. Operands of element words: readiness, the checks at issue in their order, what issuing
does, and what landing does (spec/05 R94-R103, R456; spec/06 R105-R108; spec/11 R186-R191). -/

namespace Sys2Proof.Machine

/-- An operand as read at issue: value, poison, the token and channel it came from. -/
structure Opnd where
  val : Word
  poison : Bool := false
  tok : Option Tok := none
  chan : Option Nat := none
  deriving DecidableEq, Repr

/-- How a word treats an operand: takes MARKs, uses poison, needs alignment to `align` bytes. -/
structure Pol where
  marks : Bool := false
  use : Bool := true
  align : Nat := 1
  deriving DecidableEq, Repr

/-- The image offsets dx, dy of an element (R32, R187): those of its region in the rectangle its configuration was laid for,
and of the element in its region; a restore elsewhere does not change them (R188, R403). -/
def State.offsets (s : State) (u : UnitId) : Nat × Nat :=
  let R := s.region u.region
  let (x, y) := regionXY u.region
  let (cx, cy) := cellXY u.cellId
  (16 * R.rx + 4 * (cx - 4 * x) + (if u.sub < 16 then u.sub % 4 else 0),
   16 * R.ry + 4 * (cy - 4 * y) + (if u.sub < 16 then u.sub / 4 else 0))

/-- ELID (R187): the identity of the element and the reading context. -/
def State.elid (s : State) (u : UnitId) (ctx : BitVec 2) : Word :=
  let (elem, kind) : BitVec 4 × BitVec 3 :=
    match u.kind? with
    | some .ge => (BitVec.ofNat 4 u.sub, 0)
    | some .spe => (0, 1)
    | some .mpe => (0, 2)
    | some .age => (BitVec.ofNat 4 (u.sub - 20), 3)
    | some .cve => (0, 4)
    | some .xpe => (0, 5)
    | _ => (0, 0)
  let (dx, dy) := s.offsets u
  (s.region u.region).devid ++ BitVec.ofNat 4 (regionDie u.region) ++ BitVec.ofNat 7 u.region ++
    BitVec.ofNat 4 u.cell ++ elem ++ kind ++ 0#6 ++ ctx ++ BitVec.ofNat 8 dy ++ BitVec.ofNat 8 dx

/-- The entry of the node map for a slot of a unit (R365). -/
def State.nodeEntry (s : State) (u : UnitId) (slot : Nat) : Option ImgNode :=
  match (s.region u.region).launch with
  | none => none
  | some id => match s.placement? id with
    | none => none
    | some p =>
      let (dx, dy) := s.offsets u
      p.img.nodes.find? (fun n => n.dx = dx && n.dy = dy && n.slot = slot &&
        (if u.sub < 16 then n.sub < 16 else n.sub = u.sub))

/-- The graph node that the node map names for a slot of a unit (R365). -/
def State.nodeOf (s : State) (u : UnitId) (slot : Nat) : Option Nat := (s.nodeEntry u slot).map ImgNode.node

/-- Does a programmable counter's configuration select an event of a word (R381)? -/
def selects (cfg : Word) (ev : Nat) (tag : Byte) (node : Option Nat) : Bool :=
  eventOn cfg ev tag && (!cfg.getLsbD 48 || node = some (bitsOf cfg 32 16))

/-- Count an event of a word at the region's programmable counters (R381). -/
def State.countProg (s : State) (u : UnitId) (slot ev n : Nat) : State :=
  let R := s.region u.region
  R.prog.foldl (fun s (k, cfg) =>
    if selects cfg ev R.tag (s.nodeOf u slot) then s.count u.region (0x20 + k) n else s) s

/-- Count a word issued or fired: the fixed counter (R377) and the programmable ones. -/
def State.countIssue (s : State) (u : UnitId) (slot num : Nat) : State :=
  (s.count u.region num 1).countProg u slot 1 1

/-- The head of an input that a word of the bound cfgtag may take (R94 condition 5): the exchange engine
does not hold the input (R331). -/
def State.ownHead (s : State) (u : UnitId) (i : Nat) : Option Tok :=
  if (s.unit u).sends.any (fun x => x.inp = i) then none
  else match s.head? u i with
    | some t => if t.tag = (s.region u.region).tag then some t else none
    | none => none

/-- Read a source (R96, R186); none where its channel has no token for the context. -/
def State.readSrc (s : State) (u : UnitId) (ctx : BitVec 2) : Src → Option Opnd
  | .x r =>
      let c := (s.unit u).context ctx.toNat
      some ⟨c.x.get r.toFin, c.px.getLsbD r.toNat, none, none⟩
  | .take i => (s.ownHead u i.toNat).map (fun t => ⟨t.data, t.poison, some t, some i.toNat⟩)
  | .keep i => (s.ownHead u i.toNat).map (fun t => ⟨t.data, t.poison, some t, some i.toNat⟩)
  | .zero => some ⟨0, false, none, none⟩
  | .one => some ⟨1, false, none, none⟩
  | .ones => some ⟨allOnes, false, none, none⟩
  | .elid => some ⟨s.elid u ctx, false, none, none⟩

/-- Read every source of a list. -/
def State.readSrcs (s : State) (u : UnitId) (ctx : BitVec 2) : List Src → Option (List Opnd)
  | [] => some []
  | a :: as =>
    match s.readSrc u ctx a with
    | none => none
    | some o => match s.readSrcs u ctx as with
      | none => none
      | some os => some (o :: os)

/-- Does a firing of several tokens hold the issue slot: one in progress, or one whose rotation MARK is still to come (R107,
R318, R382)? -/
def EUnit.slotHeld (x : EUnit) : Bool :=
  x.multi.isSome || !x.marks.isEmpty || x.flights.any (fun f => f.land.rot.isSome) || x.reqs.any (fun q => q.rot.isSome)

/-- Does the region run a phase, and is it not frozen (R124, R400)? -/
def Region.runs (R : Region) : Bool := R.launch.isSome && !R.stop && R.frozen.isNone

/-- May the element issue at all: its region runs, no cause is recorded, no multi-token firing holds the slot (R124, R190,
R318, R400). -/
def State.alive (s : State) (u : UnitId) : Bool :=
  (s.region u.region).runs && !(s.unit u).stopped && !(s.unit u).slotHeld

/-- R94 condition 1: the slot's bank carries the bound cfgtag. -/
def State.bankOk (s : State) (u : UnitId) (slot : Nat) : Bool :=
  ((s.unit u).banks.get (slot / 8) {}).tag = (s.region u.region).tag

/-- R94 condition 2 on a guard. -/
def Ctx.guardMet (c : Ctx) (t : Trig) : Bool :=
  if t.pred = 7 then t.req else !c.pendP.getLsbD t.pred.toNat && c.p.getLsbD t.pred.toNat == t.req

/-- R94 conditions 3 and 4 on the scoreboard. -/
def Ctx.scoreOk (c : Ctx) (v : EView) : Bool :=
  (v.ins.filterMap Src.reg?).all (fun r => !c.pendX.getLsbD r.toNat) &&
  v.reads.all (fun r => !c.pendX.getLsbD r.toNat) &&
  v.regDst.all (fun r => !c.pendX.getLsbD r.toNat) &&
  v.predDst.all (fun j => !c.pendP.getLsbD j.toNat)

/-- A cause at issue: code, input channel, sideband (R103, R456). -/
structure IssueFault where
  cause : Byte
  chan : Option Nat := none
  sb : BitVec 14 := 0
  deriving DecidableEq, Repr

/-- The checks of one operand in their order (R100, R102, R115, R456). -/
def Opnd.check (o : Opnd) (p : Pol) : Option IssueFault :=
  let at_ (c : Byte) : Option IssueFault :=
    some ⟨c, o.chan, match o.tok with | some t => t.sideband | none => 0⟩
  let k : BitVec 2 := match o.tok with | some t => t.kind | none => 0
  if k = 3 || (k = 2 && !p.marks) then at_ cCHANNEL
  else if p.use && o.poison then at_ cPOISON
  else if o.val.toNat % p.align ≠ 0 then at_ cMISALIGNED
  else none

/-- The first operand whose check fails. -/
def checkOpnds : List Opnd → List Pol → Option IssueFault
  | o :: os, p :: ps => match o.check p with
    | some f => some f
    | none => checkOpnds os ps
  | o :: os, [] => match o.check {} with
    | some f => some f
    | none => checkOpnds os []
  | [], _ => none

/-- What the issue gate decides: the word waits, raises a cause, or issues with its operands. -/
inductive Gate where
  | wait
  | raises (f : IssueFault)
  | go (ops : List Opnd)
  deriving DecidableEq, Repr

/-- Readiness of R94 in the hands of the word at the site. `outs` are the outputs that need room. -/
def State.ready (s : State) (v : EView) : Bool :=
  let u := s.site.unit
  let c := (s.unit u).context v.trig.ctx.toNat
  s.alive u && s.bankOk u s.site.slot && c.guardMet v.trig && c.scoreOk v &&
    v.outs.all (fun o => s.outRoom u o.toNat)

/-- The gate of a word: readiness, then the operand checks of R456, then a register it also reads. -/
def State.gate (s : State) (v : EView) (pols : List Pol) : Gate :=
  let u := s.site.unit
  if !s.ready v then .wait
  else match s.readSrcs u v.trig.ctx v.ins with
    | none => .wait
    | some ops =>
      match checkOpnds ops pols with
      | some f => .raises f
      | none =>
        if v.reads.any (fun r => ((s.unit u).context v.trig.ctx.toNat).px.getLsbD r.toNat) then
          .raises ⟨cPOISON, none, 0⟩
        else .go ops

/-- A cause at issue (R103): nothing is performed, EFAULT records, the element stops. -/
def State.issueFault (s : State) (ctx : BitVec 2) (f : IssueFault) : State :=
  s.recordFault s.site.unit f.cause s.site.slot ctx.toNat f.chan f.sb 0

/-- Dequeue the consumed inputs of a list of sources. -/
def State.consume (s : State) (u : UnitId) : List Src → State
  | [] => s
  | .take i :: as => (s.dequeue u i.toNat).consume u as
  | _ :: as => s.consume u as

/-- Reserve a place on each of a list of outputs. -/
def State.reserveAll (s : State) (u : UnitId) (tick : Nat) : List Nat → State
  | [] => s
  | o :: os => (s.reserve u o tick).reserveAll u tick os

/-- Set the pending bits of the destination register and predicate. -/
def Ctx.pend (c : Ctx) (v : EView) : Ctx :=
  { c with
    pendX := match v.regDst with | some r => setBit c.pendX r.toNat true | none => c.pendX
    pendP := match v.predDst with | some j => setBit c.pendP j.toNat true | none => c.pendP }

/-- Issue (R96) without the flight: inputs dequeued, places reserved under a fresh ticket, pending bits set,
the arbiter's turn moved, the word counted. The ticket is the state's `ticket` before. -/
def State.issue (s : State) (v : EView) : State :=
  let u := s.site.unit
  let tick := s.ticket
  let s := { s with ticket := tick + 1 }
  let s := s.consume u v.ins
  let s := s.reserveAll u tick (v.outs.map BitVec.toNat)
  let s := s.modUnit u (fun x =>
    { x.modCtx v.trig.ctx.toNat (fun c => c.pend v) with issued := true, lastCtx := v.trig.ctx.toNat })
  (s.countIssue u s.site.slot 0x01).stir u.region

/-- The outputs on which a landing places DATA. -/
def Landing.dataOuts (l : Landing) : List Nat := (l.toks.filter (fun e => e.2.any (fun t => t.kind = 0))).map Prod.fst

/-- Put a word in flight, due L cycles after issue; a token that ends a pass is known now (R382). -/
def State.fly (s : State) (u : UnitId) (tick : Nat) (ctx : BitVec 2) (slot lat : Nat) (l : Landing) : State :=
  let l := { l with rot := s.rotOf u l.dataOuts }
  s.modUnit u (fun x => { x with flights := x.flights ++ [⟨tick, s.cyc + lat, ctx.toNat, slot, l⟩] })

/-- utag and last of a computing word's token (R101): from a where it names a channel, otherwise from b. -/
def sideOf (ops : List Opnd) : BitVec 2 × Bool :=
  match ops.filterMap Opnd.tok with
  | t :: _ => (t.utag, t.last)
  | [] => (0, false)

/-- The token of a computing word (R101). -/
def dataTok (tag : Byte) (ops : List Opnd) (v : Word) : Tok :=
  { data := v, tag := tag, utag := (sideOf ops).1, last := (sideOf ops).2 }

/-- The landing of a word with one ordinary destination. -/
def landingOf (v : EView) (val : Word) (poison pred : Bool) (flags : Flags) (t : Tok) : Landing :=
  { reg := v.regDst.map (fun r => (r, val, poison)), regPend := v.regDst,
    pred := v.predDst.map (fun j => (j, pred)), toks := v.outs.map (fun o => (o.toNat, some t)),
    flags := flags }

/-- A computing word of R193: gate, issue, and a flight that lands `f` of the operands after `lat`
cycles. -/
def execPlain (v : EView) (lat : Nat) (f : List Word → ERes) (s : State) : Host.Outcome State Fault Refusal :=
  match s.gate v [] with
  | .wait => .next s
  | .raises e => .next (s.issueFault v.trig.ctx e)
  | .go ops =>
      let r := f (ops.map Opnd.val)
      .next ((s.issue v).fly s.site.unit s.ticket v.trig.ctx s.site.slot lat
        (landingOf v r.val false r.pred r.flags (dataTok (s.region s.site.unit.region).tag ops r.val)))

/-- The value of a register the word also reads (R202, R204, R305). -/
def State.dValue (s : State) (ctx : BitVec 2) (d : RegDst) : Word :=
  ((s.unit s.site.unit).context ctx.toNat).x.get d.r.toFin

/-! ## Landing (R96, R98, R192) -/

/-- Write a landing's register, predicate and clear its pending bits. -/
def Ctx.land (c : Ctx) (l : Landing) : Ctx :=
  let c1 : Ctx := match l.reg with
    | some (r, v, p) => { c with x := c.x.set r.toFin v, px := setBit c.px r.toNat p }
    | none => c
  let c2 : Ctx := match l.regPend with
    | some r => { c1 with pendX := setBit c1.pendX r.toNat false }
    | none => c1
  match l.pred with
  | some (j, b) => { c2 with p := setBit c2.p j.toNat b, pendP := setBit c2.pendP j.toNat false }
  | none => c2

/-- Write one vector register with its tag and poison, and clear its pending bit (R210, R216). -/
def Vec.put (x : Vec) (d : BitVec 4) (r : Row) (t : Byte) (p : Bool) : Vec :=
  { x with v := x.v.set d.toFin r, tag := x.tag.set d.toFin t, pv := setBit x.pv d.toNat p,
           pendV := setBit x.pendV d.toNat false }

def Vec.putAll (x : Vec) : List (BitVec 4 × Row × Byte × Bool) → Vec
  | [] => x
  | (d, r, t, p) :: l => (x.put d r t p).putAll l

/-- Write the vector results and mask of a landing. -/
def Vec.land (x : Vec) (l : Landing) : Vec :=
  let x := x.putAll l.vregs
  match l.vmask with
  | some (k, w) => { x with m := x.m.set k.toFin w, pendM := setBit x.pendM k.toNat false }
  | none => x

/-- Place or release the reserved places of a landing. -/
def State.landToks (s : State) (u : UnitId) (tick : Nat) : List (Nat × Option Tok) → State
  | [] => s
  | (o, some t) :: l => (s.place u o tick t).landToks u tick l
  | (o, none) :: l => (s.release u o tick).landToks u tick l

/-- The buffer that an XGRANT grants becomes GRANTED with its permit (R97, R330). -/
def State.landGrant (s : State) : Option (Nat × Bool) → State
  | some (k, par) => match s.pair? k with
    | some p => s.setPair k (p.setBuf par { p.buf par with st := .granted })
    | none => s
  | none => s

/-- Raise ARITH_TRAP where a flag is enabled (R192): EFAULT records every flag the word set. -/
def State.arithTrap (s : State) (u : UnitId) (tick slot ctx : Nat) (f : Flags) : State :=
  if s.trapsOn u.region f then s.recordFaultOf u tick cARITH slot ctx none 0 f else s

/-- A rotation MARK is to follow a ticket's token, from the next cycle (R318, R382). -/
def State.oweMark (s : State) (u : UnitId) (tick : Nat) : Option Nat → State
  | some o => s.modUnit u (fun x => { x with marks := x.marks ++ [(s.cyc + 1, tick, o)] })
  | none => s

/-- A word's results land (R96): register and predicate, ring rows, tokens, a grant, flags, then the trap. A rotation MARK
that follows holds the issue slot until it is placed (R318, R382). -/
def State.land (s : State) (u : UnitId) (f : Flight) : State :=
  let s := s.modUnit u (fun x =>
    { x.modCtx f.ctx (fun c => c.land f.land) with vec := x.vec.land f.land })
  let s := ((s.landRows u.cellId f.land.rows).landToks u f.tick f.land.toks).landGrant f.land.grant
  let s := (s.orFlags u.region f.land.flags).oweMark u f.tick f.land.rot
  s.arithTrap u f.tick f.slot f.ctx f.land.flags

/-! ## Core operands -/

/-- The first register of a list whose read is poisoned (R257): its selector. -/
def Core.badReg (k : Core) : List (BitVec 5) → Option (BitVec 5)
  | [] => none
  | a :: as => if (k.read a).bad then some a else k.badReg as

/-- An instruction that works on registers alone (R257, R277, R278): POISON of its sources precisely, else
d := f and PC + 4. -/
def execAlu (reads : List (BitVec 5)) (d : BitVec 5) (f : (BitVec 5 → Word) → Word) (s : State) :
    Host.Outcome State Fault Refusal :=
  let r := s.site.region
  match (s.core r).badReg reads with
  | some a => .next (s.trapHere r cPOISON (a.setWidth 64))
  | none => .next (s.retire r d (f (s.greg r)))

end Sys2Proof.Machine
end

