-- ==== Sys2Proof/Machine/Matrix.lean ====
section
/-! DEFINITION. The matrix node (spec/13 R237-R255, spec/03 R63-R72): which word is able to fire, its checks,
firing, tile pairs, and the effect of each word at its retirement. -/

namespace Sys2Proof.Machine

/-! ## Exact sums (R64-R66) -/

/-- The accumulator format of an operand pair (R64). -/
def accFmtOf (a b : BitVec 4) : Option AccFmt :=
  if a = 1 && b = 1 then some .fp64
  else if (a = 2 || a = 3 || a = 4 || a = 7) && b = a then some .fp32
  else if (a = 5 || a = 6) && (b = 5 || b = 6) then some .fp32
  else if (a = 10 || a = 11) && (b = 10 || b = 11) then some .int32
  else if (a = 12 || a = 13) && (b = 12 || b = 13) then some .int32
  else none

/-- Chunk size by element width (R64). -/
def chunkOf (w : Nat) : Nat := if w = 64 then 1 else if w = 32 then 2 else if w = 16 then 8 else if w = 8 then 16 else 32

/-- The float format of an accumulator. -/
def accFloat : AccFmt → FloatFmt
  | .fp64 => fp64
  | _ => fp32

/-- A list in pieces of n (n > 0); `fuel` bounds the pieces. -/
def piecesOf (n : Nat) : Nat → List α → List (List α)
  | 0, _ => []
  | k + 1, l => if l.isEmpty then [] else l.take n :: piecesOf n k (l.drop n)

/-- Is a value infinite with a sign? -/
def isInfOf (neg : Bool) : Val → Bool
  | .inf s => s == neg
  | _ => false

/-- ExactSum of the products of two chunks, with IV (R66). -/
def exactSum (a b : List Val) : Val × Flags :=
  let ps := (a.zip b).map (fun (x, y) => x.mul y)
  let vs := ps.map Prod.fst
  let iv := ps.any (fun p => p.2 &&& flagIV ≠ 0) || (vs.any (isInfOf true) && vs.any (isInfOf false))
  if iv then (.nan, flagIV)
  else if vs.any Val.isNaN then (.nan, 0)
  else match vs with
    | [] => (.num false 0 0 false, 0)
    | v :: l => (l.foldl (fun acc x => (acc.add x).1) v, 0)

/-- AccWrite (R67): −0 becomes +0. -/
def accWrite (f : FloatFmt) (r : Res) : Res := if r.bits = f.signed true 0 then { r with bits := 0 } else r

/-- Add a sum to a float entry with one rounding (R65). -/
def accAdd (f : FloatFmt) (acc : Nat) (s : Val × Flags) : Nat × Flags :=
  let (v, fl) := (f.decode acc).add s.1
  let r := accWrite f (roundTo f 0 false v)
  (r.bits, r.flags ||| fl ||| s.2)

/-- The exact sum of integer products. -/
def intDot (a b : List Int) : Int := ((a.zip b).map (fun (x, y) => x * y)).sum

/-- Scale a value by 2^k exactly. -/
def Val.scale (k : Int) : Val → Val
  | .num s m e x => .num s m (e + k) x
  | v => v

/-! ## Operand tiles -/

/-- The values of a row, and the integers of a row. -/
def rowVals (c : BitVec 4) (r : Row) : List Val := (lanes c r).map (valOf c)
def rowInts (c : BitVec 4) (r : Row) : List Int :=
  match intOf? c with
  | some (w, sg) => (lanes c r).map (intVal w sg)
  | none => []

/-- Entries of an accumulator, row by row. -/
def Acc.entries (a : Acc) : List Word := if a.ents.isEmpty then List.replicate 1024 0 else a.ents

/-- Update every entry (i, j), collecting flags; entries stay lists of 1,024. -/
def mapEntries (es : List Word) (f : Nat → Nat → Nat → Nat × Flags) : List Word × Flags :=
  let rs := es.zipIdx.map (fun (w, k) => f (k / 32) (k % 32) w.toNat)
  (rs.map (fun r => BitVec.ofNat 64 r.1), rs.foldl (fun g r => g ||| r.2) 0)

/-- One tile pair of TMMA on one entry (R65). -/
def entryTmma (af : AccFmt) (isat : Bool) (ca cb : BitVec 4) (n : Nat) (a b : Row) (acc : Nat) : Nat × Flags :=
  if af = .int32 then
    ((piecesOf n 512 (rowInts ca a)).zip (piecesOf n 512 (rowInts cb b))).foldl
      (fun (x, g) (p, q) => let (y, h) := intAcc isat x (intDot p q); (y, g ||| h)) (acc, 0)
  else
    ((piecesOf n 512 (rowVals ca a)).zip (piecesOf n 512 (rowVals cb b))).foldl
      (fun (x, g) (p, q) => let (y, h) := accAdd (accFloat af) x (exactSum p q); (y, g ||| h)) (acc, 0)

/-- The sidecar entry of a row for group g: scale and zero point (R69); no sidecar gives 1 and 0. -/
def groupScale (side : Option Row) (g : Nat) : Val × Int :=
  match side with
  | some r =>
      let e := elem 32 r.toNat (g % 16)
      (fp16.decode (e % 2 ^ 16), intVal 16 true (e / 2 ^ 16))
  | none => (.num false 1 0 false, 0)

/-- The product of two scales and an exact integer, with IV (R70). -/
def groupSum (sa sb : Val) (d : Int) : Val × Flags :=
  let (p, f) := sa.mul sb
  let (v, g) := p.mul (.num (d < 0) d.natAbs 0 false)
  (v, f ||| g)

/-- One tile pair of TMMAG on one entry (R69, R70): groups of size gs, of which the tile may hold a half; the
integer carried in and out belongs to an unfinished group, which `close` ends. -/
def entryTmmag (ca cb : BitVec 4) (gs k : Nat) (close : Bool) (a b : Row) (sa sb : Option Row) (part : Int)
    (acc : Nat) : Nat × Flags × Int :=
  let w := fmtWidth ca
  let kt := 512 / w
  let ia := rowInts ca a
  let ib := rowInts cb b
  let step := min gs kt
  let groups := List.range (kt / step)
  groups.foldl (fun (x, f, d0) q =>
    let g := (k * kt + q * step) / gs
    let (va, za) := groupScale sa g
    let (vb, zb) := groupScale sb g
    let d := d0 + intDot (((ia.drop (q * step)).take step).map (fun v => v - za))
      (((ib.drop (q * step)).take step).map (fun v => v - zb))
    if ((k * kt + (q + 1) * step) % gs = 0) || close then
      let (y, h) := accAdd fp32 x (groupSum va vb d)
      (y, f ||| h, 0)
    else (x, f, d)) (acc, 0, part)

/-- One tile pair of TMMAX on one entry (R71). -/
def entryTmmax (ca cb : BitVec 4) (k : Nat) (a b : Row) (sa sb : Row) (acc : Nat) : Nat × Flags :=
  let w := fmtWidth ca
  let kt := 512 / w
  let n := chunkOf w
  (((piecesOf n 512 (rowVals ca a)).zip (piecesOf n 512 (rowVals cb b))).zipIdx).foldl
    (fun (x, f) ((p, q), c) =>
      let blk := (k * kt + c * n) / 32 % 64
      let ea := elem 8 sa.toNat blk
      let eb := elem 8 sb.toNat blk
      let s : Val × Flags :=
        if ea = 255 || eb = 255 then (.nan, 0)
        else
          let (v, g) := exactSum p q
          (v.scale ((ea : Int) + eb - 254), g)
      let (y, h) := accAdd fp32 x s
      (y, f ||| h)) (acc, 0)

/-! ## Words and their rings -/

/-- The multiplying fields of a word, with its sidecar rings. -/
def macOf : Instr → Option (MacFields × Nat × Nat)
  | .tmma f => some (f, 0, 0)
  | .tmmag f a b => some (f, a.toNat, b.toNat)
  | .tmmax f a b => some (f, a.toNat, b.toNat)
  | _ => none

/-- The count of tile pairs: 0 stands for 4,096 (R88). -/
def tileCount (f : MacFields) : Nat := if f.count = 0 then 4096 else f.count.toNat

/-- Slot h + k of a ring. -/
def Ring.at_ (g : Ring) (h k : Nat) : Nat := (h + k) % g.slots.length

/-- Is slot h + k FULL? -/
def Ring.fullAt (g : Ring) (h k : Nat) : Bool := (g.slotOf (g.at_ h k)).st = .full

/-- The tag of slot h + k. -/
def Ring.tagAt (g : Ring) (h k : Nat) : Byte := (g.slotOf (g.at_ h k)).tag

/-- Does an operand tag name a sidecar? Only TMMAG and TMMAX read one. -/
def usesSide (i : Instr) (t : Byte) : Bool :=
  match i with
  | .tmma _ => false
  | _ => tagSide t

/-- The group size of a tag: 32, 64 or 128 (R60). -/
def groupSize (t : Byte) : Nat := if tagGrp t = 0 then 0 else 16 * 2 ^ (tagGrp t).toNat

/-- The group size of a TMMAG pair. -/
def pairGroup (ta tb : Byte) : Nat := if tagSide ta then groupSize ta else groupSize tb

/-- The sidecar slot that serves tile pair k (R250). -/
def sideSlot (i : Instr) (ta tb : Byte) (k : Nat) : Nat :=
  let kt := 512 / fmtWidth (tagFmt ta)
  match i with
  | .tmmag _ _ _ => k * kt / pairGroup ta tb / 16
  | _ => k * kt / 32 / 64

/-- Does tile pair k complete the last group or block of its sidecar slot? -/
def sideDone (i : Instr) (ta tb : Byte) (k : Nat) : Bool :=
  let kt := 512 / fmtWidth (tagFmt ta)
  match i with
  | .tmmag _ _ _ => (k + 1) * kt % (16 * pairGroup ta tb) = 0
  | _ => (k + 1) * kt % (64 * 32) = 0

/-- Operand tags of the three multiplying words (R249), A's alone and then the pair. -/
def macTagA (i : Instr) (ta : Byte) : Bool :=
  let c := tagFmt ta
  match i with
  | .tmma _ => tagPlain ta && (accFmtOf c c).isSome
  | .tmmag _ _ _ => (c = 10 || c = 11 || c = 12 || c = 13) && (tagPlain ta || (tagSide ta && tagGrp ta ≠ 0))
  | _ => (c = 5 || c = 6 || c = 7) && tagGrp ta = 1 && tagSide ta

def macTagB (i : Instr) (ta tb : Byte) : Bool :=
  let c := tagFmt tb
  match i with
  | .tmma _ => tagPlain tb && (accFmtOf (tagFmt ta) c).isSome
  | .tmmag _ _ _ =>
      (c = 10 || c = 11 || c = 12 || c = 13) && (tagPlain tb || (tagSide tb && tagGrp tb ≠ 0)) &&
        fmtWidth c = fmtWidth (tagFmt ta) && (tagSide ta || tagSide tb) &&
        (!(tagSide ta && tagSide tb) || tagGrp ta = tagGrp tb)
  | _ => (c = 5 || c = 6 || c = 7) && tagGrp tb = 1 && tagSide tb && fmtWidth c = fmtWidth (tagFmt ta)

/-- A sidecar ring's tag: RAW for grouped, E8M0 for MX (R63). -/
def sideTagOk (i : Instr) (t : Byte) : Bool :=
  tagPlain t && (match i with | .tmmag _ _ _ => tagFmt t = 0 | _ => tagFmt t = 14)

/-- The accumulator format a multiplying word adopts. -/
def macAccFmt (i : Instr) (ta tb : Byte) : AccFmt :=
  match i with
  | .tmma _ => (accFmtOf (tagFmt ta) (tagFmt tb)).getD .fp32
  | _ => .fp32

/-- The matrix state of the node. -/
def State.mat (s : State) (u : UnitId) : Mat := (s.unit u).mat
def Mat.accOf (x : Mat) (n : BitVec 3) : Acc := x.acc.get n {}
def State.modMat (s : State) (u : UnitId) (f : Mat → Mat) : State := s.modUnit u (fun x => { x with mat := f x.mat })
def Mat.setAcc (x : Mat) (n : BitVec 3) (a : Acc) : Mat := { x with acc := x.acc.set n a }

/-- A check of one operand slot: the tag, then the poison of its rows (R245, R456). -/
def State.slotCheck (s : State) (c : CellId) (g : Ring) (h k : Nat) (ok : Bool) : Option Byte :=
  if !ok then some cFORMAT
  else if slotPoisoned s.mem c g (g.at_ h k) then some cPOISON
  else none

/-- The first cause of a list of checks. -/
def firstCause : List (Option Byte) → Option Byte
  | [] => none
  | some c :: _ => some c
  | none :: l => firstCause l

/-- The four rings of a multiplying word. -/
def State.macRings (s : State) (c : CellId) (i : Instr) : Option (MacFields × Ring × Ring × Option Ring × Option Ring) :=
  match macOf i with
  | none => none
  | some (f, sa, sb) =>
    match s.ring? c f.ringA.toNat, s.ring? c f.ringB.toNat with
    | some a, some b => some (f, a, b, s.ring? c sa, s.ring? c sb)
    | _, _ => none

/-- Are the slots of tile pair k, sidecars included, FULL (R240, R241, R250)? -/
def macFull (i : Instr) (a b : Ring) (sa sb : Option Ring) (hA hB hSA hSB k : Nat) : Bool :=
  let ta := a.tagAt hA k
  let tb := b.tagAt hB k
  let t := sideSlot i ta tb k
  a.fullAt hA k && b.fullAt hB k &&
    (!usesSide i ta || sa.any (fun g => g.fullAt hSA t)) && (!usesSide i tb || sb.any (fun g => g.fullAt hSB t))

/-- The checks of tile pair k in the order of R456. -/
def State.macCheck (s : State) (c : CellId) (i : Instr) (a b : Ring) (sa sb : Option Ring)
    (hA hB hSA hSB k : Nat) : Option Byte :=
  let ta := a.tagAt hA k
  let tb := b.tagAt hB k
  let t := sideSlot i ta tb k
  let side (use : Bool) (g? : Option Ring) (h : Nat) : Option Byte :=
    if use then match g? with
      | some g => s.slotCheck c g h t (sideTagOk i (g.tagAt h t))
      | none => some cFORMAT
    else none
  firstCause [s.slotCheck c a hA k (macTagA i ta), s.slotCheck c b hB k (macTagB i ta tb),
    side (usesSide i ta) sa hSA, side (usesSide i tb) sb hSB]

/-! ## The gate (R239, R240, R245) -/

/-- What the firing rule decides: not able to fire, a cause, or firing. -/
inductive MGate where
  | wait
  | raises (cause : Byte)
  | fires
  deriving DecidableEq, Repr

/-- The common conditions of R240: an idle sequencer, the bank of the active phase. -/
def State.mready (s : State) : Bool :=
  let u := s.site.unit
  s.alive u && s.bankOk u s.site.slot && (s.mat u).seq.isNone && !(s.unit u).issued

/-- A cause, or firing. -/
def mgateOf : Option Byte → MGate
  | some c => .raises c
  | none => .fires

/-- May a word adopt a format: none, or equal (R239)? -/
def fmtOk (have_ want : AccFmt) : Bool := have_ = .none || have_ = want

/-- The gate of the multiplying words. -/
def State.gateMac (s : State) (i : Instr) : MGate :=
  let u := s.site.unit
  let c := u.cellId
  match s.macRings c i with
  | none => .wait
  | some (f, a, b, sa, sb) =>
    let x := (s.mat u).accOf f.acc
    let hSA := match sa with | some g => g.head | none => 0
    let hSB := match sb with | some g => g.head | none => 0
    if !s.mready || !(x.st = .empty || (!f.clr && x.st = .full)) || !macFull i a b sa sb a.head b.head hSA hSB 0 then
      .wait
    else match s.macCheck c i a b sa sb a.head b.head hSA hSB 0 with
      | some e => .raises e
      | none =>
        if f.clr || fmtOk x.fmt (macAccFmt i (a.tagAt a.head 0) (b.tagAt b.head 0)) then .fires else .raises cFORMAT

/-- The addresses of the rows of a slot. -/
def slotAddrs (c : CellId) (g : Ring) (slot : Nat) : List Nat := (List.range 32).map (ringAddr c g slot)

/-- The addresses of the rows of a run of slots from h. -/
def runAddrs (c : CellId) (g : Ring) (h w : Nat) : List Nat := (List.range w).flatMap (fun k => slotAddrs c g (g.at_ h k))

/-- Firing: the sequencer takes the word, the count rises. -/
def State.fireM (s : State) (q : Seq) : State :=
  let u := s.site.unit
  let s := s.modUnit u (fun x => { x with mat := { x.mat with seq := some q }, issued := true })
  (s.countIssue u s.site.slot 0x03).stir u.region

/-- A multiplying word (R249). -/
def execMac (i : Instr) (s : State) : Host.Outcome State Fault Refusal :=
  let u := s.site.unit
  match s.gateMac i with
  | .wait => .next s
  | .raises e => .next (s.recordFault u e s.site.slot 0 none 0 0)
  | .fires =>
    match s.macRings u.cellId i with
    | none => .next s
    | some (f, a, b, sa, sb) =>
      let x := (s.mat u).accOf f.acc
      let af := macAccFmt i (a.tagAt a.head 0) (b.tagAt b.head 0)
      let y : Acc := if f.clr then { st := .active, fmt := af, ents := [] } else { x with st := .active, fmt := af }
      .next ((s.modMat u (fun m => m.setAcc f.acc y)).fireM
        { slot := s.site.slot, word := i, hA := a.head, hB := b.head,
          hSA := match sa with | some g => g.head | none => 0,
          hSB := match sb with | some g => g.head | none => 0 })

/-- TMMA (R249, R65). -/
def execTmma (f : MacFields) (s : State) : Host.Outcome State Fault Refusal := execMac (.tmma f) s

/-- TMMAG (R249, R70). -/
def execTmmag (f : MacFields) (a b : BitVec 4) (s : State) : Host.Outcome State Fault Refusal := execMac (.tmmag f a b) s

/-- TMMAX (R249, R71). -/
def execTmmax (f : MacFields) (a b : BitVec 4) (s : State) : Host.Outcome State Fault Refusal := execMac (.tmmax f a b) s

/-- TZERO's gate (R239, R251). -/
def State.gateTzero (s : State) (n : BitVec 3) : MGate :=
  if s.mready && ((s.mat s.site.unit).accOf n).st ≠ .active then .fires else .wait

/-- TZERO (R251): its effect comes at its retirement. -/
def execTzero (n : BitVec 3) (s : State) : Host.Outcome State Fault Refusal :=
  let u := s.site.unit
  match s.gateTzero n with
  | .fires => .next ((s.modMat u (fun m => m.setAcc n { m.accOf n with st := .active })).fireM
      { slot := s.site.slot, word := .tzero n })
  | _ => .next s

/-- The pairing of accumulator and out format, and the out ring's tag (R252). -/
def drainOk (af : AccFmt) (outFmt : BitVec 4) (decl : Byte) : Bool :=
  tagPlain decl && tagFmt decl = outFmt &&
    (if outFmt = 10 then af = .int32 else (outFmt = 3 || outFmt = 4) && (af = .fp32 || af = .fp64))

/-- TDRAIN's gate (R240, R252). -/
def State.gateTdrain (s : State) (n : BitVec 3) (outRing outFmt : BitVec 4) : MGate :=
  let u := s.site.unit
  let x := (s.mat u).accOf n
  match s.ring? u.cellId outRing.toNat with
  | none => .wait
  | some g =>
    if !s.mready || x.st ≠ .full || g.tailSlot.st ≠ .empty then .wait
    else if drainOk x.fmt outFmt g.decl then .fires else .raises cFORMAT

/-- TDRAIN (R252): claims its slot at firing (R243); the rest comes at its retirement. -/
def execTdrain (n : BitVec 3) (clr : Bool) (outRing outFmt : BitVec 4) (rounding : BitVec 2) (shift : BitVec 5)
    (s : State) : Host.Outcome State Fault Refusal :=
  let u := s.site.unit
  match s.gateTdrain n outRing outFmt with
  | .wait => .next s
  | .raises e => .next (s.recordFault u e s.site.slot 0 none 0 0)
  | .fires =>
    match s.ring? u.cellId outRing.toNat with
    | none => .next s
    | some g =>
      .next (((s.setRing u.cellId outRing.toNat (g.claim .matrix)).modMat u
        (fun m => m.setAcc n { m.accOf n with st := .active })).fireM
          { slot := s.site.slot, word := .tdrain n clr outRing outFmt rounding shift, claims := [g.tail] })

/-- The slots that TLOAD, TADDR and TTRANS read, by the head slot's format (R253-R255). -/
def loadSlots (c : BitVec 4) : Nat := if c = 2 || c = 8 then 2 else if c = 1 then 4 else 1
def transSlots (c : BitVec 4) : Nat := if fmtWidth c = 32 then 2 else if fmtWidth c = 64 then 4 else 1

/-- Are slots 0 to w − 1 from the head FULL? -/
def Ring.fullRun (g : Ring) (w : Nat) : Bool := (List.range w).all (fun k => g.fullAt g.head k)

/-- The tag and poison checks of a run of slots: each carries the head's tag. -/
def State.runCheck (s : State) (c : CellId) (g : Ring) (w : Nat) (ok : Byte → Bool) : Option Byte :=
  firstCause ((List.range w).map (fun k =>
    s.slotCheck c g g.head k (ok (g.tagAt g.head k) && tagSame (g.tagAt g.head k) (g.tagAt g.head 0))))

/-- TLOAD's accumulator format (R253). -/
def loadFmt (c : BitVec 4) : Option AccFmt :=
  if c = 2 || c = 3 || c = 4 then some .fp32
  else if c = 8 || c = 10 then some .int32
  else if c = 1 then some .fp64
  else none

/-- TLOAD's gate (R240, R253): an EMPTY accumulator, its W slots FULL. -/
def State.gateTload (s : State) (n : BitVec 3) (ring : BitVec 4) : MGate :=
  let u := s.site.unit
  match s.ring? u.cellId ring.toNat with
  | none => .wait
  | some g =>
    let w := loadSlots (tagFmt (g.tagAt g.head 0))
    if !s.mready || ((s.mat u).accOf n).st ≠ .empty || !g.fullRun w then .wait
    else mgateOf (s.runCheck u.cellId g w (fun t => tagPlain t && (loadFmt (tagFmt t)).isSome))

/-- TLOAD (R253). -/
def execTload (n : BitVec 3) (ring : BitVec 4) (pop : Bool) (s : State) : Host.Outcome State Fault Refusal :=
  let u := s.site.unit
  match s.gateTload n ring with
  | .wait => .next s
  | .raises e => .next (s.recordFault u e s.site.slot 0 none 0 0)
  | .fires =>
    match s.ring? u.cellId ring.toNat with
    | none => .next s
    | some g =>
      .next ((s.modMat u (fun m => m.setAcc n { m.accOf n with st := .active })).fireM
        { slot := s.site.slot, word := .tload n ring pop, hA := g.head,
          left := runAddrs u.cellId g g.head (loadSlots (tagFmt (g.tagAt g.head 0))) })

/-- TADDR's gate (R239, R254). -/
def State.gateTaddr (s : State) (n : BitVec 3) (ring : BitVec 4) : MGate :=
  let u := s.site.unit
  let x := (s.mat u).accOf n
  match s.ring? u.cellId ring.toNat with
  | none => .wait
  | some g =>
    if !s.mready || x.st = .active || !g.fullAt g.head 0 then .wait
    else mgateOf (s.slotCheck u.cellId g g.head 0 (tagPlain (g.tagAt g.head 0) &&
      (match loadFmt (tagFmt (g.tagAt g.head 0)) with | some f => fmtOk x.fmt f | none => false)))

/-- TADDR (R254): the format is adopted at firing. -/
def execTaddr (n : BitVec 3) (ring : BitVec 4) (pop : Bool) (s : State) : Host.Outcome State Fault Refusal :=
  let u := s.site.unit
  match s.gateTaddr n ring with
  | .wait => .next s
  | .raises e => .next (s.recordFault u e s.site.slot 0 none 0 0)
  | .fires =>
    match s.ring? u.cellId ring.toNat with
    | none => .next s
    | some g =>
      .next ((s.modMat u (fun m => m.setAcc n { m.accOf n with
          st := .active, fmt := (loadFmt (tagFmt (g.tagAt g.head 0))).getD (m.accOf n).fmt })).fireM
        { slot := s.site.slot, word := .taddr n ring pop, hA := g.head, left := slotAddrs u.cellId g g.head })

/-- Pop a ring n times. -/
def Ring.popN (g : Ring) : Nat → Ring
  | 0 => g
  | n + 1 => (g.pop).popN n

/-- Claim n slots from the tail: their numbers and the ring; none where one is not EMPTY. -/
def Ring.claimN (g : Ring) (by_ : ClaimBy) : Nat → Option (List Nat × Ring)
  | 0 => some ([], g)
  | n + 1 =>
    if g.tailSlot.st ≠ .empty then none
    else match (g.claim by_).claimN by_ n with
      | some (l, g') => some (g.tail :: l, g')
      | none => none

/-- Does TTRANS work within one ring and pop (R255)? Then its sources are read and popped at firing. -/
def transSame (ring outRing : BitVec 4) (pop : Bool) : Bool := ring = outRing && pop

/-- TTRANS's gate (R240, R255). -/
def State.gateTtrans (s : State) (ring : BitVec 4) (pop : Bool) (outRing : BitVec 4) : MGate :=
  let u := s.site.unit
  match s.ring? u.cellId ring.toNat, s.ring? u.cellId outRing.toNat with
  | some g, some k =>
    let w := transSlots (tagFmt (g.tagAt g.head 0))
    let k' := if transSame ring outRing pop then g.popN w else k
    if !s.mready || !g.fullRun w || (k'.claimN .matrix w).isNone then .wait
    else mgateOf (s.runCheck u.cellId g w (fun t => tagPlain t && 16 ≤ fmtWidth (tagFmt t) && tagSame t k.decl))
  | _, _ => .wait

/-- The rows of a run of slots. -/
def runRows (m : Memory) (c : CellId) (g : Ring) (h w : Nat) : List Row :=
  (List.range w).flatMap (fun k => slotRows m c g (g.at_ h k))

/-- TTRANS (R255). -/
def execTtrans (ring : BitVec 4) (pop : Bool) (outRing : BitVec 4) (s : State) : Host.Outcome State Fault Refusal :=
  let u := s.site.unit
  match s.gateTtrans ring pop outRing with
  | .wait => .next s
  | .raises e => .next (s.recordFault u e s.site.slot 0 none 0 0)
  | .fires =>
    match s.ring? u.cellId ring.toNat, s.ring? u.cellId outRing.toNat with
    | some g, some k =>
      let w := transSlots (tagFmt (g.tagAt g.head 0))
      let same := transSame ring outRing pop
      match (if same then g.popN w else k).claimN .matrix w with
      | some (l, k') =>
          .next ((s.setRing u.cellId outRing.toNat k').fireM
            { slot := s.site.slot, word := .ttrans ring pop outRing, hA := g.head, claims := l,
              hold := if same then runRows s.mem u.cellId g g.head w else []
              left := runAddrs u.cellId g g.head w })
      | none => .next s
    | _, _ => .next s

/-! ## Banks (R292) -/

/-- The first address of each bank in a list. -/
def perBank : List Nat → List Nat
  | [] => []
  | a :: as => a :: (perBank as).filter (fun b => bankOf b ≠ bankOf a)

/-- The operand rows still to be read compete for their banks; those served are read (R242, R292). -/
def State.readOperands (s : State) (u : UnitId) (q : Seq) : State :=
  let now := perBank q.left
  let ok := now.filter (fun a => s.bankServes a 3)
  ((s.banksLost now 3).takeBanks ok 3).modMat u (fun m => { m with seq := some { q with left := q.left.filter (fun a => !ok.contains a) } })

/-- The out-ring rows still to be written compete for their banks; those served are written, each as one event (R115,
R292). -/
def State.writeOut (s : State) (u : UnitId) (q : Seq) : State :=
  let now := perBank (q.out.map Prod.fst)
  let ok := now.filter (fun a => s.bankServes a 4)
  let s := (s.banksLost now 4).takeBanks ok 4
  let m := (q.out.filter (fun e => ok.contains e.1)).foldl (fun (m : Memory) e => m.writeRow e.1 e.2 false) s.mem
  State.modMat { s with mem := m } u (fun x => { x with seq := some { q with out := q.out.filter (fun e => !ok.contains e.1) } })

/-- Has the sequencer nothing left in its banks, its region's image not being read out? -/
def State.seqFree (s : State) (u : UnitId) : Bool :=
  (s.mat u).seq.all (fun q => q.left.isEmpty && q.out.isEmpty) && (s.region u.region).frozen.all (fun z => !z.taken)

/-! ## Tile pairs and retirement (R241-R246, R250) -/

/-- The rows of the slots of tile pair k, sidecars included. -/
def pairRows (c : CellId) (i : Instr) (a b : Ring) (sa sb : Option Ring) (hA hB hSA hSB k : Nat) : List Nat :=
  let ta := a.tagAt hA k
  let tb := b.tagAt hB k
  let t := sideSlot i ta tb k
  let side (use : Bool) (g? : Option Ring) (h : Nat) : List Nat :=
    if use then (g?.map (fun g => slotAddrs c g (g.at_ h t))).getD [] else []
  slotAddrs c a (a.at_ hA k) ++ slotAddrs c b (b.at_ hB k) ++ side (usesSide i ta) sa hSA ++ side (usesSide i tb) sb hSB

/-- The checks at the start of tile pair k > 0: those of its slots, and the format that its sums would have against the ACTIVE
accumulator's (R64, R239, R245). -/
def State.pairCheck (s : State) (u : UnitId) (q : Seq) (f : MacFields) (a b : Ring) (sa sb : Option Ring) : Option Byte :=
  firstCause [s.macCheck u.cellId q.word a b sa sb q.hA q.hB q.hSA q.hSB q.k,
    if ((s.mat u).accOf f.acc).fmt = macAccFmt q.word (a.tagAt q.hA q.k) (b.tagAt q.hB q.k) then none else some cFORMAT]

/-- TILE_PAIR_START (R241, R245): the slots are FULL, and from the second pair on the checks run. -/
def execTilePairStart (u : UnitId) (s : State) : Host.Outcome State Fault Refusal :=
  let c := u.cellId
  match (s.mat u).seq with
  | none => .next s
  | some q =>
    match s.macRings c q.word with
    | none => .next s
    | some (f, a, b, sa, sb) =>
      if !s.alive u || q.started || tileCount f ≤ q.k || !macFull q.word a b sa sb q.hA q.hB q.hSA q.hSB q.k then .next s
      else match (if q.k = 0 then none else s.pairCheck u q f a b sa sb) with
        | some e => .next (s.recordFault u e q.slot 0 none 0 0)
        | none => .next ((s.modMat u (fun m => { m with seq := some { q with
            started := true, left := pairRows c q.word a b sa sb q.hA q.hB q.hSA q.hSB q.k } })))

/-- The sums of tile pair k on an accumulator: entries, flags, and the open group's integers. -/
def State.tileSums (s : State) (u : UnitId) (q : Seq) (f : MacFields) (a b : Ring) (sa sb : Option Ring)
    (acc : Acc) : List Word × Flags × List Int :=
  let c := u.cellId
  let ta := a.tagAt q.hA q.k
  let tb := b.tagAt q.hB q.k
  let ra := slotRows s.mem c a (a.at_ q.hA q.k)
  let rb := slotRows s.mem c b (b.at_ q.hB q.k)
  let t := sideSlot q.word ta tb q.k
  let side (use : Bool) (g? : Option Ring) (h i : Nat) : Option Row :=
    if use then g?.map (fun g => s.mem.row (ringAddr c g (g.at_ h t) i)) else none
  let ca := tagFmt ta
  let cb := tagFmt tb
  match q.word with
  | .tmmag _ _ _ =>
      let gs := pairGroup ta tb
      let close := q.k + 1 = tileCount f
      let part := if q.part.isEmpty then List.replicate 1024 0 else q.part
      let rs := ((acc.entries).zip part).zipIdx.map (fun ((w, p), n) =>
        entryTmmag ca cb gs q.k close (ra.getD (n / 32) 0) (rb.getD (n % 32) 0)
          (side (usesSide q.word ta) sa q.hSA (n / 32)) (side (usesSide q.word tb) sb q.hSB (n % 32)) p w.toNat)
      (rs.map (fun r => BitVec.ofNat 64 r.1), rs.foldl (fun g r => g ||| r.2.1) 0, rs.map (fun r => r.2.2))
  | .tmmax _ _ _ =>
      let (es, fl) := mapEntries acc.entries (fun i j w =>
        entryTmmax ca cb q.k (ra.getD i 0) (rb.getD j 0) ((side true sa q.hSA i).getD 0) ((side true sb q.hSB j).getD 0) w)
      (es, fl, [])
  | _ =>
      let (es, fl) := mapEntries acc.entries (fun i j w =>
        entryTmma acc.fmt (s.isat u.region) ca cb (chunkOf (fmtWidth ca)) (ra.getD i 0) (rb.getD j 0) w)
      (es, fl, [])

/-- Pop a ring of a cell. -/
def State.popRing (s : State) (c : CellId) (n : Nat) (yes : Bool) : State :=
  if yes then match s.ring? c n with
    | some g => s.setRing c n g.pop
    | none => s
  else s

/-- The flags of a node's word: ORed into ASTAT, then the trap (R246). -/
def State.nodeFlags (s : State) (u : UnitId) (slot : Nat) (f : Flags) : State :=
  (s.orFlags u.region f).arithTrap u 0 slot 0 f

/-- TILE_PAIR_RETIRE (R242, R246, R250): once every row has been read, sums, pops, flags; a slot read in both roles is popped once. -/
def execTilePairRetire (u : UnitId) (s : State) : Host.Outcome State Fault Refusal :=
  let c := u.cellId
  match (s.mat u).seq with
  | none => .next s
  | some q =>
    match s.macRings c q.word with
    | none => .next s
    | some (f, a, b, sa, sb) =>
      if !q.started then .next s
      else if !s.seqFree u then .next (s.readOperands u q)
      else
        let x := (s.mat u).accOf f.acc
        let (es, fl, part) := s.tileSums u q f a b sa sb x
        let ta := a.tagAt q.hA q.k
        let tb := b.tagAt q.hB q.k
        let fin := sideDone q.word ta tb q.k || q.k + 1 = tileCount f
        let (na, nb) := match macOf q.word with | some (_, n, m) => (n, m) | none => (0, 0)
        let s := s.modMat u (fun m => { (m.setAcc f.acc { x with ents := es }) with
          seq := some { q with k := q.k + 1, started := false, part := part } })
        let s := s.popRing c f.ringA.toNat f.popA
        let s := s.popRing c f.ringB.toNat (f.popB && !(f.popA && f.ringA = f.ringB))
        let sideA := f.popA && usesSide q.word ta && fin
        let s := s.popRing c na sideA
        let s := s.popRing c nb (f.popB && usesSide q.word tb && fin && !(sideA && na = nb))
        .next (s.nodeFlags u q.slot fl)

/-- TDRAIN's element (R252). -/
def drainElem (af : AccFmt) (outFmt : BitVec 4) (rounding : BitVec 2) (shift : Nat) (w : Word) : Res :=
  if af = .int32 then
    let v := intVal 32 true w.toNat
    let (y, x) := toInt rounding (v < 0) v.natAbs (-(shift : Int)) false
    let (z, k) := clampInt (-128) 127 y
    -- NX is set when y, as clamped, differs from the quotient
    ⟨intBits 8 z, flagIf k flagSAT ||| flagIf (x || k) flagNX⟩
  else convert (if af = .fp64 then 1 else 2) outFmt rounding false w.toNat

/-- The rows of a drained slot: 32 values a row; an INT8 row fills bytes 0-31. -/
def drainRows (w : Nat) (vs : List Nat) : List Row := (piecesOf 32 32 vs).map (rowOf w)

/-- The rows of a slot with their addresses, in ascending order. -/
def slotWrites (c : CellId) (g : Ring) (slot : Nat) (rows : List Row) : List (Nat × Row) :=
  rows.zipIdx.map (fun e => (ringAddr c g slot e.2, e.1))

/-- TLOAD's entries (R253): value (i, j) from slot j / cols of the run. -/
def loadEntry (c : BitVec 4) (rows : List Row) (i j : Nat) : Word :=
  let cols := 32 / loadSlots c
  let bits := elem (fmtWidth c) (rows.getD (32 * (j / cols) + i) 0).toNat (j % cols)
  match loadFmt c with
  | some .int32 => BitVec.ofNat 64 (intBits 32 (match intOf? c with | some (w, sg) => intVal w sg bits | none => 0))
  | some f => BitVec.ofNat 64 (accWrite (accFloat f) (roundTo (accFloat f) 0 false (valOf c bits))).bits
  | none => 0

/-- TADDR's value j (R254). -/
def biasBits (c : BitVec 4) (rows : List Row) (j : Nat) : Nat :=
  let w := fmtWidth c
  let per := if w = 32 then 16 else if w = 64 then 8 else 32
  elem w (rows.getD (j / per) 0).toNat (j % per)

/-- TTRANS's out value: out slot q, row i, element e takes source value (q·C + e, i). -/
def transBits (c : BitVec 4) (rows : List Row) (r col : Nat) : Nat :=
  let cols := 32 / transSlots c
  elem (fmtWidth c) (rows.getD (32 * (col / cols) + r) 0).toNat (col % cols)

/-- The rows of TTRANS's out slot q. -/
def transRows (c : BitVec 4) (rows : List Row) (q : Nat) : List Row :=
  let cols := 32 / transSlots c
  (List.range 32).map (fun i => rowOf (fmtWidth c) ((List.range cols).map (fun e => transBits c rows (q * cols + e) i)))

/-- Give the sequencer back; the node fires no word in this cycle (R240). -/
def State.freeSeq (s : State) (u : UnitId) : State :=
  (s.modUnit u (fun x => { x with mat := { x.mat with seq := none }, issued := true }))

/-- The out-ring rows of a TDRAIN or TTRANS (R252, R255). -/
def State.outRows (s : State) (u : UnitId) (q : Seq) : List (Nat × Row) :=
  let c := u.cellId
  match q.word with
  | .tdrain n _ outRing outFmt rounding shift =>
    match s.ring? c outRing.toNat with
    | some g =>
        let x := (s.mat u).accOf n
        let rs := x.entries.map (drainElem x.fmt outFmt rounding shift.toNat)
        slotWrites c g (q.claims.headD 0) (drainRows (if outFmt = 10 then 8 else 16) (rs.map Res.bits))
    | none => []
  | .ttrans ring _ outRing =>
    match s.ring? c ring.toNat, s.ring? c outRing.toNat with
    | some g, some k =>
        let f := tagFmt k.decl
        let rows := if q.hold.isEmpty then runRows s.mem c g q.hA (transSlots f) else q.hold
        q.claims.zipIdx.flatMap (fun e => slotWrites c k e.1 (transRows f rows e.2))
    | _, _ => []
  | _ => []

/-- A TDRAIN's end, its rows written: the slot is tagged FULL, the accumulator left, flags (R252). -/
def State.endTdrain (s : State) (u : UnitId) (q : Seq) (n : BitVec 3) (clr : Bool) (outRing outFmt : BitVec 4)
    (rounding : BitVec 2) (shift : BitVec 5) : State :=
  let x := (s.mat u).accOf n
  let fl := (x.entries.map (drainElem x.fmt outFmt rounding shift.toNat)).foldl (fun f r => f ||| r.flags) 0
  let s := s.fillSlot u.cellId outRing.toNat (q.claims.headD 0) (mkTag outFmt 0 false false)
  let s := s.modMat u (fun m => m.setAcc n (if clr then {} else { x with st := .empty }))
  (s.freeSeq u).nodeFlags u q.slot fl

/-- A TTRANS's end, its rows written: its slots are tagged FULL, and its sources popped where it says so (R255). -/
def State.endTtrans (s : State) (u : UnitId) (q : Seq) (ring : BitVec 4) (pop : Bool) (outRing : BitVec 4) : State :=
  let c := u.cellId
  let decl := match s.ring? c outRing.toNat with | some k => k.decl | none => 0
  let s := q.claims.foldl (fun s slot => s.fillSlot c outRing.toNat slot decl) s
  let s := if pop && q.hold.isEmpty then
      match s.ring? c ring.toNat with
      | some g => s.setRing c ring.toNat (g.popN (transSlots (tagFmt decl)))
      | none => s
    else s
  s.freeSeq u

/-- TLOAD's retirement (R253). -/
def State.endTload (s : State) (u : UnitId) (q : Seq) (n : BitVec 3) (ring : BitVec 4) (pop : Bool) : State :=
  let c := u.cellId
  match s.ring? c ring.toNat with
  | none => s.freeSeq u
  | some g =>
    let f := tagFmt (g.tagAt q.hA 0)
    let rows := runRows s.mem c g q.hA (loadSlots f)
    let es := (List.range 1024).map (fun k => loadEntry f rows (k / 32) (k % 32))
    let s := s.modMat u (fun m => m.setAcc n { st := .full, fmt := (loadFmt f).getD .none, ents := es })
    let s := if pop then s.setRing c ring.toNat (g.popN (loadSlots f)) else s
    s.freeSeq u

/-- TADDR's retirement (R254). -/
def State.endTaddr (s : State) (u : UnitId) (q : Seq) (n : BitVec 3) (ring : BitVec 4) (pop : Bool) : State :=
  let c := u.cellId
  match s.ring? c ring.toNat with
  | none => s.freeSeq u
  | some g =>
    let f := tagFmt (g.tagAt q.hA 0)
    let x := (s.mat u).accOf n
    let rows := slotRows s.mem c g (g.at_ q.hA 0)
    let (es, fl) := mapEntries x.entries (fun _ j w =>
      if x.fmt = .int32 then
        intAcc (s.isat u.region) w (match intOf? f with | some (n, sg) => intVal n sg (biasBits f rows j) | none => 0)
      else accAdd (accFloat x.fmt) w (valOf f (biasBits f rows j), 0))
    let s := s.modMat u (fun m => m.setAcc n { x with st := .full, ents := es })
    let s := s.popRing c ring.toNat pop
    (s.freeSeq u).nodeFlags u q.slot fl

/-- M_WORD_RETIRE: the effect of a word that is no multiplication, or a multiplication's end (R242, R249-R255). Source rows are
read first, then a word with an out ring writes its rows, each through its bank, and then the word retires. -/
def execMWordRetire (u : UnitId) (s : State) : Host.Outcome State Fault Refusal :=
  match (s.mat u).seq with
  | none => .next s
  | some q =>
    match q.word with
    | .tmma f | .tmmag f _ _ | .tmmax f _ _ =>
        if q.started || q.k < tileCount f then .next s
        else .next ((s.modMat u (fun m => m.setAcc f.acc { m.accOf f.acc with st := .full })).freeSeq u)
    | w =>
        if !q.left.isEmpty then .next (s.readOperands u q)
        else if !q.out.isEmpty then .next (s.writeOut u q)
        else if !s.seqFree u then .next s
        else
          let rows := if q.started then [] else s.outRows u q
          if !rows.isEmpty then .next ((s.modMat u (fun m => { m with seq := some { q with started := true, out := rows } })).writeOut u
            { q with started := true, out := rows })
          else match w with
            | .tzero n => .next ((s.modMat u (fun m => m.setAcc n {})).freeSeq u)
            | .tdrain n clr outRing outFmt rounding shift => .next (s.endTdrain u q n clr outRing outFmt rounding shift)
            | .tload n ring pop => .next (s.endTload u q n ring pop)
            | .taddr n ring pop => .next (s.endTaddr u q n ring pop)
            | .ttrans ring pop outRing => .next (s.endTtrans u q ring pop outRing)
            | _ => .next (s.freeSeq u)

end Sys2Proof.Machine
end

