-- ==== Sys2Proof/Machine/Engine.lean ====
section
/-! DEFINITION. Engine operations that run on while their forking region is frozen or swapped out (spec/09 R155, R156, spec/17
R348, spec/19 R403, R406). -/

namespace Sys2Proof.Machine

/-- Is a flat address in the stores of a region? -/
def inStores (r a : Nat) : Bool :=
  (2 ^ 52 + r * 2 ^ 24 ≤ a && a < 2 ^ 52 + (r + 1) * 2 ^ 24) || (rstoreBase r ≤ a && a < rstoreBase (r + 1))

/-- Memory with the stores of region r as another memory holds them. -/
def Memory.withStores (m : Memory) (r : Nat) (src : Memory) : Memory :=
  let base : Memory := ⟨m.cells.filter (fun c => !inStores r c.1), m.poison.filter (fun w => !inStores r (8 * w))⟩
  let m := (src.cells.filter (fun c => inStores r c.1)).foldl (fun (m : Memory) c => m.setByte c.1 c.2) base
  (src.poison.filter (fun w => inStores r (8 * w))).foldl (fun (m : Memory) w => m.setPoison (8 * w) true) m

/-- The stores that an image holds, as memory. -/
def FImage.mem (f : FImage) : Memory := ⟨f.cells, f.poison⟩

/-- An image with the stores of its region as a memory holds them. -/
def FImage.withMem (f : FImage) (m : Memory) : FImage :=
  { f with cells := m.cells.filter (fun c => inStores f.region c.1), poison := m.poison.filter (fun w => inStores f.region (8 * w)) }

/-- The images of a frozen region whose sections have been read out, with their addresses: of the freeze that stands, and of a
fabric freeze before it. -/
def State.heldImages (s : State) (r : Nat) : List (Nat × FImage) :=
  match (s.region r).frozen with
  | some z =>
      ((if z.taken then [z.area] else []) ++ z.under.toList).filterMap (fun a =>
        ((s.images.get? a).filter (fun f => f.region = r)).map (fun f => (a, f)))
  | none => []

/-- Rewrite the images of a frozen region. -/
def State.modHeld (s : State) (r : Nat) (g : FImage → FImage) : State :=
  { s with images := (s.heldImages r).foldl (fun im (a, f) => im.set a (g f)) s.images }

/-- A write to a region's stores that an engine makes: what was read out of a frozen region is written as well (R155). -/
def State.onStores (s : State) (r : Nat) (g : Memory → Memory) : State :=
  State.modHeld { s with mem := g s.mem } r (fun f => f.withMem (g f.mem))

/-- Words of a region's stores as they stand now go into its image. -/
def State.echoWords (s : State) (r : Nat) (as : List Nat) : State :=
  s.modHeld r (fun f => f.withMem (as.foldl (fun (m : Memory) w => m.store w 8 (s.mem.word w) (s.mem.poisoned w)) f.mem))

/-- After an engine's step on a region that stands: its rings, and in a hub freeze its flags, counts and heat, as the image of the
region shows them. -/
def State.echo (s : State) (r : Nat) : State :=
  let R := s.region r
  s.modHeld r (fun f => { f with
    rings := s.rings.filter (fun e => e.1.1.region = r)
    rec_ := if f.kind = 0 then f.rec_ else { f.rec_ with astat := R.astat, ctr := R.ctr, heat := R.heat } })

/-- After a step of the send engine: the stream's input and what is left of the sends, as the image of a frozen sender shows them
(R156). -/
def State.echoSend (s : State) (u : UnitId) (i : Nat) : State :=
  let x := s.unit u
  s.modHeld u.region (fun f => { f with
    chans := f.chans.map (fun e => if e.1 = .inp u i then (e.1, s.chan e.1) else e)
    units := f.units.map (fun e => if e.1 = u then
      (u, { e.2 with sends := x.sends, efault := x.efault, faultAt := x.faultAt }) else e) })

/-- A region, its rings and its stores put in place. -/
def State.putRegion (s : State) (r : Nat) (R : Region) (rings : Map (CellId × Nat) Ring) (m : Memory) : State :=
  { s.setRegion r R with
    rings := s.rings.filter (fun e => e.1.1.region ≠ r) ++ rings
    mem := s.mem.withStores r m }

/-- The image that holds the region of a command whose launch was swapped out. -/
def State.awayOf (s : State) (r : Nat) (c : Cmd) : Option (Nat × FImage) :=
  if c.owner = (s.region r).launch then none
  else s.images.find? (fun e => some e.2.launch = c.owner && e.2.region = r && !e.2.restored && e.2.kind ≠ 0)

/-- The machine with region r as an image holds it, its commands at the ports as they stand. -/
def State.viewOf (s : State) (r : Nat) (f : FImage) : State :=
  s.putRegion r { f.rec_ with cmds := (s.region r).cmds, launch := some f.launch } f.rings f.mem

/-- What a step made of a view goes back into the image; region r stands as before, its commands apart. -/
def State.unview (t s : State) (r a : Nat) (f : FImage) : State :=
  let R := t.region r
  let f1 : FImage := { f.withMem t.mem with rec_ := { R with cmds := [] }, rings := t.rings.filter (fun e => e.1.1.region = r) }
  { t.putRegion r { s.region r with cmds := R.cmds } (s.rings.filter (fun e => e.1.1.region = r)) s.mem with
    images := t.images.set a f1 }

/-- A step of a command of region r: it acts on the region as it stands, and on what a freeze has read out of it; where its
launch was swapped out, on the region as the launch's image holds it (R156). -/
def State.forCmd (s : State) (r : Nat) (c : Cmd) (go : State → State) : State :=
  match s.awayOf r c with
  | none => (go s).echo r
  | some (a, f) => (go (s.viewOf r f)).unview s r a f

/-- The oldest command of each launch in a list. -/
def oldestEach : List Cmd → List Cmd
  | [] => []
  | c :: cs => c :: (oldestEach cs).filter (fun d => d.owner ≠ c.owner)

/-- The commands in hand at a stream port: the oldest, of each launch that has some there (R337). -/
def State.portCmds (s : State) (r p : Nat) : List Cmd := oldestEach ((s.region r).cmds.filter (fun c => c.port = p))

/-- A step for each command in hand at a port. -/
def State.atPort (s : State) (r p : Nat) (go : State → Cmd → State) : State :=
  (s.portCmds r p).foldl (fun s c => s.forCmd r c (fun t => go t c)) s

/-- The commands whose handle stands in the buffer table of region r, each with the region that runs it (R403). -/
def State.cmdsOf (s : State) (r : Nat) : List (Nat × Cmd) :=
  s.regions.flatMap (fun (q, R) => (R.cmds.filter (fun c => c.home.getD q = r && (c.home.isSome || c.owner = (s.region r).launch))).map (fun c => (q, c)))

/-- Rewrite a command of a region. -/
def State.modCmd (s : State) (r tick : Nat) (f : Cmd → Cmd) : State :=
  s.modRegion r (fun R => { R with cmds := R.cmds.map (fun c => if c.tick = tick then f c else c) })

/-- Rewrite the handle of a command, in the buffer table that holds it (R403). -/
def State.modHandleOf (s : State) (r : Nat) (c : Cmd) (f : Handle → Handle) : State :=
  s.setHandle (c.home.getD r) c.h (f (s.handle (c.home.getD r) c.h))

/-- The command of a ticket. -/
def State.cmdOfTick (s : State) (r tick : Nat) : Option Cmd := (s.region r).cmds.find? (fun c => c.tick = tick)

/-- What is owed before a fenced start: the accesses of the core not performed, and the commands whose handles stand in the
region's buffer table (R129, R154). -/
def State.cmdTicks (s : State) (r : Nat) : List Nat := (s.cmdsOf r).map (fun e => e.2.tick)

/-- Does a command with a ticket still stand at a port? -/
def State.cmdStands (s : State) (tick : Nat) : Bool := s.regions.any (fun e => e.2.cmds.any (fun c => c.tick = tick))

end Sys2Proof.Machine
end

