-- ==== Sys2Proof/Decode.lean ====
section
/-! DEFINITION. Decoding and encoding of E, V, M and C words (spec/04): total on every bit pattern,
rejecting by name (R74-R92), and the encoder written from the same layouts. -/

namespace Sys2Proof

/-- Why a word is refused: CONFIG_REJECT subcodes 0x01-0x03 (R75). -/
inductive Reject where
  | opcode
  | kind
  | selector
  deriving DecidableEq, Repr

/-- The subcode that a refusal is reported with (R75). -/
def Reject.subcode : Reject → BitVec 8
  | .opcode => 1
  | .kind => 2
  | .selector => 3

/-- Bits lo+n-1 down to lo of a word (R78). -/
def fld (w : BitVec 32) (lo n : Nat) : BitVec n := w.extractLsb' lo n

/-- The trigger field, bits 31:26. -/
def trigOf (w : BitVec 32) : Trig := ⟨fld w 30 2, fld w 27 3, w.getLsbD 26⟩

/-- A source selector (R35); 28-31 are reserved. -/
def srcOf (v : BitVec 5) : Except Reject Src :=
  match v.extractLsb' 3 2 with
  | 0 => .ok (.x (v.extractLsb' 0 3))
  | 1 => .ok (.take (v.extractLsb' 0 3))
  | 2 => .ok (.keep (v.extractLsb' 0 3))
  | _ => match v.extractLsb' 0 3 with
    | 0 => .ok .zero
    | 1 => .ok .one
    | 2 => .ok .ones
    | 3 => .ok .elid
    | _ => .error .selector

/-- A destination selector (R35); 25-31 are reserved. -/
def dstOf (v : BitVec 5) : Except Reject Dst :=
  match v.extractLsb' 3 2 with
  | 0 => .ok (.x (v.extractLsb' 0 3))
  | 1 => .ok (.out (v.extractLsb' 0 3))
  | 2 => .ok (.both (v.extractLsb' 0 3))
  | _ => if v.extractLsb' 0 3 = 0 then .ok .discard else .error .selector

/-- A destination that is also read: 0-7 or 16-23. -/
def regDstOf (v : BitVec 5) : Except Reject RegDst :=
  match v.extractLsb' 3 2 with
  | 0 => .ok ⟨v.extractLsb' 0 3, false⟩
  | 2 => .ok ⟨v.extractLsb' 0 3, true⟩
  | _ => .error .selector

/-- A consumed input, 8-15. -/
def takeOf (v : BitVec 5) : Except Reject (BitVec 3) :=
  if v.extractLsb' 3 2 = 1 then .ok (v.extractLsb' 0 3) else .error .selector

/-- A register, 0-7. -/
def regOf (v : BitVec 5) : Except Reject (BitVec 3) :=
  if v.extractLsb' 3 2 = 0 then .ok (v.extractLsb' 0 3) else .error .selector

/-- The predicate-write field (R36, R79). -/
def predOf (v : BitVec 4) : Except Reject PredW :=
  if v.getLsbD 3 then
    if v.extractLsb' 0 3 = 7 then .error .selector else .ok (.to (v.extractLsb' 0 3))
  else if v = 0 then .ok .none else .error .selector

/-- A scope code 0-4 (R38). -/
def scopeOf (v : BitVec 3) : Except Reject Scope :=
  match v with
  | 0 => .ok .cell
  | 1 => .ok .reg
  | 2 => .ok .die
  | 3 => .ok .pkg
  | 4 => .ok .sys
  | _ => .error .selector

/-- The ordering field of LD, ST and the atomics (R82). -/
def orderOf (v : BitVec 4) : Except Reject MemOrder :=
  if v.getLsbD 3 then (scopeOf (v.extractLsb' 0 3)).map .ordered
  else if v = 0 then .ok .plain else .error .selector

/-- The scope field of LDAS, STSC, STSP: 3 or 4 with pw<3> = 0 (R82). -/
def stampOf (v : BitVec 4) : Except Reject Bool :=
  match v with
  | 3 => .ok false
  | 4 => .ok true
  | _ => .error .selector

/-- Width codes 0-3. -/
def widthOf (v : BitVec 2) : Width :=
  match v with
  | 0 => .b
  | 1 => .h
  | 2 => .w
  | _ => .d

/-- The literal of SEXT and ZEXT (R196). -/
def extOf (v : BitVec 5) : Except Reject ExtWidth :=
  match v with
  | 0 => .ok .n8
  | 1 => .ok .n16
  | 2 => .ok .n32
  | _ => .error .selector

/-- A field that must hold a fixed value (R79, R85, R87). -/
def must (b : Bool) : Except Reject Unit := if b then .ok () else .error .selector

/-- The unused a or b selector, 24 (R79). -/
def unusedSel (v : BitVec 5) : Except Reject Unit := must (v = 24)

/-- Keep an instruction only where its field limits hold. -/
def checked (i : Instr) : Except Reject Instr := if i.wf then .ok i else .error .selector

/-- An ER word with two operands and a predicate write. -/
def er2 (mk : Trig → Dst → Src → Src → PredW → Instr) (w : BitVec 32) : Except Reject Instr := do
  checked (mk (trigOf w) (← dstOf (fld w 14 5)) (← srcOf (fld w 9 5)) (← srcOf (fld w 4 5)) (← predOf (fld w 0 4)))

/-- An ER word with one operand and a predicate write. -/
def er1 (mk : Trig → Dst → Src → PredW → Instr) (w : BitVec 32) : Except Reject Instr := do
  unusedSel (fld w 4 5)
  checked (mk (trigOf w) (← dstOf (fld w 14 5)) (← srcOf (fld w 9 5)) (← predOf (fld w 0 4)))

/-- An ER word that reads its destination register. -/
def erm (mk : Trig → RegDst → Src → Src → PredW → Instr) (w : BitVec 32) : Except Reject Instr := do
  checked (mk (trigOf w) (← regDstOf (fld w 14 5)) (← srcOf (fld w 9 5)) (← srcOf (fld w 4 5)) (← predOf (fld w 0 4)))

/-- An ER word with two operands and pw = 0. -/
def er2z (mk : Trig → Dst → Src → Src → Instr) (w : BitVec 32) : Except Reject Instr := do
  must (fld w 0 4 = 0)
  checked (mk (trigOf w) (← dstOf (fld w 14 5)) (← srcOf (fld w 9 5)) (← srcOf (fld w 4 5)))

/-- A memory word with two operands and an ordering field. -/
def erOrd (mk : Trig → Dst → Src → Src → MemOrder → Instr) (w : BitVec 32) : Except Reject Instr := do
  checked (mk (trigOf w) (← dstOf (fld w 14 5)) (← srcOf (fld w 9 5)) (← srcOf (fld w 4 5)) (← orderOf (fld w 0 4)))

/-- A stamped memory word. -/
def erStamp (mk : Trig → Dst → Src → Src → Bool → Instr) (w : BitVec 32) : Except Reject Instr := do
  checked (mk (trigOf w) (← dstOf (fld w 14 5)) (← srcOf (fld w 9 5)) (← srcOf (fld w 4 5)) (← stampOf (fld w 0 4)))

/-- An EI word with a signed immediate. -/
def ei (mk : Trig → Dst → Src → BitVec 9 → Instr) (w : BitVec 32) : Except Reject Instr := do
  checked (mk (trigOf w) (← dstOf (fld w 14 5)) (← srcOf (fld w 9 5)) (fld w 0 9))

/-- An EI shift. -/
def eiShift (mk : Trig → Dst → Src → BitVec 6 → Instr) (w : BitVec 32) : Except Reject Instr := do
  must (fld w 6 3 = 0)
  checked (mk (trigOf w) (← dstOf (fld w 14 5)) (← srcOf (fld w 9 5)) (fld w 0 6))

/-- A compare-immediate: d is a predicate 0-6 (R200). -/
def eiPred (mk : Trig → BitVec 3 → Src → BitVec 9 → Instr) (w : BitVec 32) : Except Reject Instr := do
  must (fld w 17 2 = 0)
  checked (mk (trigOf w) (fld w 14 3) (← srcOf (fld w 9 5)) (fld w 0 9))

/-- SEXT or ZEXT. -/
def erExt (mk : Trig → Dst → Src → ExtWidth → PredW → Instr) (w : BitVec 32) : Except Reject Instr := do
  checked (mk (trigOf w) (← dstOf (fld w 14 5)) (← srcOf (fld w 9 5)) (← extOf (fld w 4 5)) (← predOf (fld w 0 4)))

/-- A CVT word (R83). -/
def erCvt (mk : Trig → Dst → Src → BitVec 4 → BitVec 4 → Bool → Instr) (w : BitVec 32) : Except Reject Instr := do
  checked (mk (trigOf w) (← dstOf (fld w 14 5)) (← srcOf (fld w 9 5)) (fld w 0 4) (fld w 4 4) (w.getLsbD 8))

/-- The even output pair of STEER and DUP: d is 8, 10, 12 or 14. -/
def evenOut (w : BitVec 32) : Except Reject (BitVec 2) := do
  must (fld w 17 2 = 1 && fld w 14 1 = 0)
  .ok (fld w 15 2)

/-- The E opcode, bits 25:19. -/
def opE (w : BitVec 32) : Nat := (fld w 19 7).toNat

/-- Decode an E word by R81, whatever the kind of its element. -/
def decodeE (w : BitVec 32) : Except Reject Instr :=
  let t := trigOf w
  match opE w with
  | 0x00 => er1 .mov w
  | 0x01 => er2 .add w
  | 0x02 => er2 .sub w
  | 0x03 => er2 .mul w
  | 0x04 => er2 .mulhs w
  | 0x05 => er2 .mulhu w
  | 0x06 => er2 .and w
  | 0x07 => er2 .or w
  | 0x08 => er2 .xor w
  | 0x09 => er2 .andn w
  | 0x0A => er2 .shl w
  | 0x0B => er2 .shr w
  | 0x0C => er2 .sar w
  | 0x0D => er2 .min w
  | 0x0E => er2 .max w
  | 0x0F => er2 .minu w
  | 0x10 => er2 .maxu w
  | 0x11 => er2 .adds w
  | 0x12 => er2 .subs w
  | 0x13 => er1 .clz w
  | 0x14 => er1 .popc w
  | 0x15 => erExt .sext w
  | 0x16 => erExt .zext w
  | 0x18 => er2 .ceq w
  | 0x19 => er2 .cne w
  | 0x1A => er2 .clt w
  | 0x1B => er2 .cle w
  | 0x1C => er2 .cltu w
  | 0x1D => er2 .cleu w
  | 0x1E => er2 .ctst w
  | 0x20 => ei .addi w
  | 0x21 => ei .andi w
  | 0x22 => ei .ori w
  | 0x23 => ei .xori w
  | 0x24 => eiShift .shli w
  | 0x25 => eiShift .shri w
  | 0x26 => eiShift .sari w
  | 0x27 => eiPred .ceqi w
  | 0x28 => eiPred .clti w
  | 0x29 => eiPred .cltui w
  | 0x2C => do checked (.movi t (← dstOf (fld w 14 5)) (fld w 0 14))
  | 0x2D => do checked (.shin t (← regDstOf (fld w 14 5)) (fld w 0 14))
  | 0x30 => er2 .faddS w
  | 0x31 => er2 .fsubS w
  | 0x32 => er2 .fmulS w
  | 0x33 => erm .fmacS w
  | 0x34 => er2 .fminS w
  | 0x35 => er2 .fmaxS w
  | 0x36 => er1 .frsqeS w
  | 0x37 => er1 .frcpeS w
  | 0x38 => er2 .fceqS w
  | 0x39 => er2 .fcltS w
  | 0x3A => er2 .fcleS w
  | 0x3B => er2 .fcunS w
  | 0x40 => er2 .faddD w
  | 0x41 => er2 .fsubD w
  | 0x42 => er2 .fmulD w
  | 0x43 => erm .fmacD w
  | 0x44 => er2 .fminD w
  | 0x45 => er2 .fmaxD w
  | 0x46 => er2 .fceqD w
  | 0x47 => er2 .fcltD w
  | 0x48 => er2 .fcleD w
  | 0x49 => er2 .fcunD w
  | 0x50 => do
    must (fld w 0 4 = 0)
    checked (.steer t (← evenOut w) (← srcOf (fld w 9 5)) (← srcOf (fld w 4 5)))
  | 0x51 => do
    must (w.getLsbD 3)
    checked (.mergec t (← dstOf (fld w 14 5)) (← takeOf (fld w 9 5)) (← takeOf (fld w 4 5)) (fld w 0 3))
  | 0x52 => do
    must (fld w 0 4 = 0)
    unusedSel (fld w 4 5)
    checked (.dup t (← evenOut w) (← srcOf (fld w 9 5)))
  | 0x53 => er2z .gate w
  | 0x54 => er2z .join w
  | 0x55 => do
    unusedSel (fld w 4 5)
    must (fld w 12 2 = 1 || fld w 12 2 = 2)
    checked (.kind t (← dstOf (fld w 14 5)) (fld w 9 3) (fld w 12 2 = 2) (← predOf (fld w 0 4)))
  | 0x56 => do checked (.marki t (← takeOf (fld w 14 5)) (fld w 0 14))
  | 0x57 => do
    must (fld w 0 4 = 0)
    unusedSel (fld w 4 5)
    checked (.emitd t (← takeOf (fld w 14 5)) (← srcOf (fld w 9 5)))
  | 0x60 => do
    must (fld w 7 2 = 0)
    checked (.ld t (← dstOf (fld w 14 5)) (← srcOf (fld w 9 5)) (widthOf (fld w 4 2)) (w.getLsbD 6) (← orderOf (fld w 0 4)))
  | 0x61 => erStamp .ldas w
  | 0x64 => erOrd .st w
  | 0x65 => erOrd .stw w
  | 0x66 => erOrd .sth w
  | 0x67 => erOrd .stb w
  | 0x68 => erStamp .stsc w
  | 0x69 => erStamp .stsp w
  | 0x6A => erOrd .aadd w
  | 0x6B => erOrd .amin w
  | 0x6C => erOrd .amax w
  | 0x6D => erOrd .aand w
  | 0x6E => erOrd .aor w
  | 0x6F => erOrd .axor w
  | 0x70 => erOrd .axchg w
  | 0x71 => do
    checked (.acas t (← regDstOf (fld w 14 5)) (← srcOf (fld w 9 5)) (← srcOf (fld w 4 5)) (← orderOf (fld w 0 4)))
  | 0x72 => erOrd .aadds w
  | 0x74 => do
    must (fld w 0 4 = 0 && fld w 16 3 = 2)
    unusedSel (fld w 4 5)
    checked (.xgrant t (fld w 14 2) (← srcOf (fld w 9 5)))
  | 0x75 => do
    must (fld w 0 4 = 0)
    checked (.xsend t (← takeOf (fld w 14 5)) (← takeOf (fld w 9 5)) (← takeOf (fld w 4 5)))
  | 0x76 => do
    must (fld w 0 4 = 0 && fld w 16 3 = 2)
    unusedSel (fld w 4 5)
    checked (.xrecv t (fld w 14 2) (← takeOf (fld w 9 5)))
  | 0x78 => do
    must (fld w 0 4 = 0 && fld w 14 5 = 8)
    checked (.agen t (← regOf (fld w 9 5)) (← srcOf (fld w 4 5)))
  | 0x79 => do checked (.agset t (← regOf (fld w 14 5)) (← srcOf (fld w 9 5)) (fld w 0 9))
  | 0x7A => do
    must (fld w 0 4 = 0)
    unusedSel (fld w 9 5)
    unusedSel (fld w 4 5)
    checked (.agrst t (← regOf (fld w 14 5)))
  | 0x7C => erCvt .cvtRne w
  | 0x7D => erCvt .cvtRtz w
  | 0x7E => erCvt .cvtRdn w
  | 0x7F => erCvt .cvtRup w
  | _ => .error .opcode

/-- Decode an E word standing in an element of a kind, in the order of R74: 0x01, then 0x02, then 0x03. -/
def decodeFor (k : UnitKind) (w : BitVec 32) : Except Reject Instr :=
  match decodeE w with
  | .error .opcode => .error .opcode
  | r =>
    if k.acceptsOp (opE w) then
      match r with
      | .ok i => if i.chansExist k && i.cvtPlaceOk then .ok i else .error .selector
      | .error e => .error e
    else .error .kind

/-- A V word with two operands and a mask. -/
def v2 (mk : Trig → BitVec 4 → BitVec 4 → BitVec 4 → BitVec 3 → Instr) (w : BitVec 32) : Except Reject Instr := do
  must (fld w 0 5 = 0)
  checked (mk (trigOf w) (fld w 16 4) (fld w 12 4) (fld w 8 4) (fld w 5 3))

/-- A V word with one operand and a mask. -/
def v1 (mk : Trig → BitVec 4 → BitVec 4 → BitVec 3 → Instr) (w : BitVec 32) : Except Reject Instr := do
  must (fld w 0 5 = 0 && fld w 8 4 = 0)
  checked (mk (trigOf w) (fld w 16 4) (fld w 12 4) (fld w 5 3))

/-- A V compare, whose vd<2:0> is a mask 1-7. -/
def vcmp (mk : Trig → BitVec 3 → BitVec 4 → BitVec 4 → BitVec 3 → Instr) (w : BitVec 32) : Except Reject Instr := do
  must (fld w 0 5 = 0 && fld w 19 1 = 0)
  checked (mk (trigOf w) (fld w 16 3) (fld w 12 4) (fld w 8 4) (fld w 5 3))

/-- Decode a V word (R85, R86). -/
def decodeV (w : BitVec 32) : Except Reject Instr :=
  let t := trigOf w
  match (fld w 20 6).toNat with
  | 0x00 => v1 .vmov w
  | 0x01 => v2 .vadd w
  | 0x02 => v2 .vsub w
  | 0x03 => v2 .vmul w
  | 0x04 => v2 .vfma w
  | 0x05 => v2 .vmin w
  | 0x06 => v2 .vmax w
  | 0x07 => v1 .vabs w
  | 0x08 => v2 .vand w
  | 0x09 => v2 .vor w
  | 0x0A => v2 .vxor w
  | 0x0B => v2 .vshl w
  | 0x0C => v2 .vshr w
  | 0x0D => do
    must (fld w 8 4 = 0)
    checked (.vqshr t (fld w 16 4) (fld w 12 4) (fld w 5 3) (fld w 0 5))
  | 0x0E => do
    must (fld w 10 2 = 0)
    checked (.vnarrow t (fld w 16 4) (fld w 12 4) (fld w 8 2) (fld w 5 3) (fld w 0 4) (w.getLsbD 4))
  | 0x0F => do
    must (fld w 16 1 = 0 && fld w 8 4 = 0 && fld w 4 1 = 0)
    checked (.vwiden t (fld w 17 3) (fld w 12 4) (fld w 5 3) (fld w 0 4))
  | 0x10 => do
    must (fld w 16 1 = 0 && fld w 0 5 = 0)
    checked (.vwmac t (fld w 17 3) (fld w 12 4) (fld w 8 4) (fld w 5 3))
  | 0x11 => vcmp .vcmpeq w
  | 0x12 => vcmp .vcmplt w
  | 0x13 => vcmp .vcmple w
  | 0x14 => v2 .vsel w
  | 0x15 => v1 .vredadd w
  | 0x16 => v1 .vredmax w
  | 0x17 => do
    must (fld w 8 4 = 0)
    checked (.vbcast t (fld w 16 4) (fld w 12 4) (fld w 5 3) (fld w 0 5))
  | 0x18 => v1 .vexp2 w
  | 0x19 => v1 .vrcp w
  | 0x1A => v1 .vrsq w
  | 0x1B => v2 .vshuf w
  | 0x1C => checked (.vslide t (fld w 16 4) (fld w 12 4) (fld w 8 4) (fld w 5 3) (fld w 0 5))
  | 0x1D => do
    must (fld w 0 8 = 0)
    checked (.vtag t (fld w 16 4) (fld w 12 4) (fld w 10 2) (w.getLsbD 9) (w.getLsbD 8))
  | 0x1E => do
    must (fld w 19 1 = 0 && fld w 0 16 = 0)
    checked (.vsetp t (fld w 16 3))
  | 0x20 => do
    must (fld w 5 11 = 0)
    checked (.vldr t (fld w 16 4) (fld w 0 4) (w.getLsbD 4))
  | 0x21 => do
    must (fld w 16 4 = 0 && fld w 5 7 = 0)
    checked (.vstr t (fld w 12 4) (fld w 0 4) (w.getLsbD 4))
  | 0x22 => do
    must (fld w 3 13 = 0 && fld w 2 1 = 0)
    checked (.vlds t (fld w 16 4) (fld w 0 2))
  | 0x23 => do
    must (fld w 16 4 = 0 && fld w 3 9 = 0 && fld w 2 1 = 0)
    checked (.vsts t (fld w 12 4) (fld w 0 2))
  | _ => .error .opcode

/-- Bits of a 64-bit M word. -/
def mfld (w : Word) (lo n : Nat) : BitVec n := w.extractLsb' lo n

/-- The shared fields of the multiplying M words. -/
def macOf (w : Word) : MacFields :=
  ⟨mfld w 54 4, mfld w 50 4, mfld w 47 3, mfld w 32 12, w.getLsbD 31, w.getLsbD 30, w.getLsbD 29, w.getLsbD 28, mfld w 10 2⟩

/-- Decode an M word (R87, R88). The all-zero word is the empty word, `none`. -/
def decodeM (w : Word) : Except Reject (Option Instr) :=
  if w = 0 then .ok none else
  match (mfld w 58 6).toNat with
  | 1 => do
    must (mfld w 44 3 = 0 && mfld w 12 16 = 0 && mfld w 0 10 = 0)
    (checked (.tmma (macOf w))).map some
  | 2 => do
    must (mfld w 44 3 = 0 && mfld w 12 8 = 0 && mfld w 0 10 = 0)
    (checked (.tmmag (macOf w) (mfld w 24 4) (mfld w 20 4))).map some
  | 3 => do
    must (mfld w 44 3 = 0 && mfld w 12 8 = 0 && mfld w 0 10 = 0)
    (checked (.tmmax (macOf w) (mfld w 24 4) (mfld w 20 4))).map some
  | 4 => do
    must (mfld w 50 8 = 0 && mfld w 0 47 = 0)
    (checked (.tzero (mfld w 47 3))).map some
  | 5 => do
    must (mfld w 50 8 = 0 && mfld w 30 17 = 0 && mfld w 20 9 = 0 && mfld w 0 5 = 0)
    (checked (.tdrain (mfld w 47 3) (w.getLsbD 29) (mfld w 16 4) (mfld w 12 4) (mfld w 10 2) (mfld w 5 5))).map some
  | 6 => do
    must (mfld w 50 4 = 0 && mfld w 32 15 = 0 && mfld w 0 31 = 0)
    (checked (.tload (mfld w 47 3) (mfld w 54 4) (w.getLsbD 31))).map some
  | 7 => do
    must (mfld w 50 4 = 0 && mfld w 32 15 = 0 && mfld w 0 31 = 0)
    (checked (.taddr (mfld w 47 3) (mfld w 54 4) (w.getLsbD 31))).map some
  | 8 => do
    must (mfld w 32 22 = 0 && mfld w 20 11 = 0 && mfld w 0 16 = 0)
    (checked (.ttrans (mfld w 54 4) (w.getLsbD 31) (mfld w 16 4))).map some
  | _ => .error .opcode

/-- A CR word of three registers whose fn is fixed by the caller. -/
def cr3 (mk : BitVec 5 → BitVec 5 → BitVec 5 → Instr) (w : BitVec 32) : Except Reject Instr :=
  .ok (mk (fld w 21 5) (fld w 16 5) (fld w 11 5))

/-- A CI word. -/
def ci (mk : BitVec 5 → BitVec 5 → BitVec 16 → Instr) (w : BitVec 32) : Except Reject Instr :=
  .ok (mk (fld w 21 5) (fld w 16 5) (fld w 0 16))

/-- A CI shift, whose imm16<15:6> is 0. -/
def ciShift (mk : BitVec 5 → BitVec 5 → BitVec 6 → Instr) (w : BitVec 32) : Except Reject Instr := do
  must (fld w 6 10 = 0)
  .ok (mk (fld w 21 5) (fld w 16 5) (fld w 0 6))

/-- A CB word. -/
def cb (mk : BitVec 5 → BitVec 5 → BitVec 16 → Instr) (w : BitVec 32) : Except Reject Instr :=
  .ok (mk (fld w 21 5) (fld w 16 5) (fld w 0 16))

/-- The ordering field of an AMO: fn<7> ordered, fn<6:4> scope (R90). -/
def amoOrder (w : BitVec 32) : Except Reject MemOrder :=
  if w.getLsbD 7 then (scopeOf (fld w 4 3)).map .ordered
  else if fld w 4 3 = 0 then .ok .plain else .error .selector

/-- An AMO word. -/
def amo (mk : BitVec 5 → BitVec 5 → BitVec 5 → MemOrder → Instr) (w : BitVec 32) : Except Reject Instr := do
  must (fld w 8 3 = 0)
  .ok (mk (fld w 21 5) (fld w 16 5) (fld w 11 5) (← amoOrder w))

/-- A scope field that must be 3 or 4: fn<6:4>. -/
def pkgSys (w : BitVec 32) : Except Reject Bool := stampOf (0#1 ++ fld w 4 3)

/-- Decode a C word (R89, R90). Every refusal raises ILLEGAL_WORD at the core (R77). -/
def decodeC (w : BitVec 32) : Except Reject Instr :=
  let d := fld w 21 5
  let a := fld w 16 5
  let b := fld w 11 5
  let fn := fld w 0 11
  match (fld w 26 6).toNat with
  | 0x00 => match fn.toNat with
    | 0 => cr3 .coreAdd w
    | 1 => cr3 .coreSub w
    | 2 => cr3 .coreAnd w
    | 3 => cr3 .coreOr w
    | 4 => cr3 .coreXor w
    | 5 => cr3 .coreShl w
    | 6 => cr3 .coreShr w
    | 7 => cr3 .coreSar w
    | 8 => cr3 .coreMul w
    | 9 => cr3 .coreMulhs w
    | 10 => cr3 .coreMulhu w
    | 11 => cr3 .divu w
    | 12 => cr3 .remu w
    | 13 => cr3 .slt w
    | 14 => cr3 .sltu w
    | 15 => cr3 .coreMin w
    | 16 => cr3 .coreMax w
    | _ => .error .selector
  | 0x01 => ci .coreAddi w
  | 0x02 => ci .coreAndi w
  | 0x03 => ci .coreOri w
  | 0x04 => ci .coreXori w
  | 0x05 => ci .slti w
  | 0x06 => ci .sltui w
  | 0x07 => ciShift .coreShli w
  | 0x08 => ciShift .coreShri w
  | 0x09 => ciShift .coreSari w
  | 0x0A => do
    must (a = 0)
    .ok (.lih d (fld w 0 16))
  | 0x0B => ci .shi16 w
  | 0x10 => ci .ldd w
  | 0x11 => ci .ldw w
  | 0x12 => ci .ldwu w
  | 0x13 => ci .ldh w
  | 0x14 => ci .ldhu w
  | 0x15 => ci .ldb w
  | 0x16 => ci .ldbu w
  | 0x18 => ci .std w
  | 0x19 => ci .coreStw w
  | 0x1A => ci .coreSth w
  | 0x1B => ci .coreStb w
  | 0x1C => do
    must (b = 0 && fld w 3 8 = 0)
    .ok (.lda d a (← scopeOf (fld w 0 3)))
  | 0x1D => do
    must (d = 0 && fld w 3 8 = 0)
    .ok (.stl a b (← scopeOf (fld w 0 3)))
  | 0x1E => match (fld w 0 4).toNat with
    | 0 => amo .amoadd w
    | 1 => amo .amomin w
    | 2 => amo .amomax w
    | 3 => amo .amoand w
    | 4 => amo .amoor w
    | 5 => amo .amoxor w
    | 6 => amo .amoxchg w
    | 7 => amo .amocas w
    | 8 => amo .amoadds w
    | _ => .error .selector
  | 0x1F => do
    must (d = 0 && a = 0 && b = 0 && fld w 5 6 = 0)
    let s ← scopeOf (fld w 0 3)
    match (fld w 3 2).toNat with
    | 0 => .ok (.fence .full s)
    | 1 => .ok (.fence .acq s)
    | 2 => .ok (.fence .rel s)
    | _ => .error .selector
  | 0x20 => cb .beq w
  | 0x21 => cb .bne w
  | 0x22 => cb .blt w
  | 0x23 => cb .bge w
  | 0x24 => cb .bltu w
  | 0x25 => cb .bgeu w
  | 0x26 => .ok (.jmp (fld w 0 26))
  | 0x27 => do
    must (d = 0 && b = 0 && fn = 0)
    .ok (.jr a)
  | 0x28 => .ok (.call (fld w 0 26))
  | 0x29 => do
    must (d = 0 && b = 0 && fn = 0)
    .ok (.callr a)
  | 0x2A => do
    must (d = 0 && a = 0 && b = 0 && fn = 0)
    .ok .ret
  | 0x30 => do
    must (b = 0 && fld w 7 4 = 0)
    match (fld w 0 4).toNat with
    | 0 => do
      must (a = 0 && fld w 4 3 = 0 && fld w 21 1 = 0)
      .ok (.clkrd (fld w 22 4))
    | 1 => do
      must (a = 0 && fld w 4 3 = 0)
      .ok (.cyc d)
    | 2 => do
      must (d = 0 && fld w 4 3 = 0)
      .ok (.sleepu a)
    | 3 => do
      must (d = 0)
      .ok (.waits a (← pkgSys w))
    | 4 => do
      must (a = 0)
      .ok (.floor d (← pkgSys w))
    | _ => .error .selector
  | 0x31 => do
    must (fld w 1 3 = 0 && fld w 7 4 = 0)
    .ok (.sts d a b (← pkgSys w) (w.getLsbD 0))
  | 0x32 => do
    must (fld w 0 4 = 0 && fld w 7 4 = 0)
    .ok (.coreLdas d a b (← pkgSys w))
  | 0x34 => do
    must (fld w 10 1 = 0)
    .ok (.sbind d a b (fld w 0 8) (w.getLsbD 8) (w.getLsbD 9))
  | 0x35 => do
    must (a = 0 && b = 0)
    match (fld w 8 3).toNat with
    | 0 => do
      must (d = 0)
      .ok (.hwait (fld w 0 8))
    | 1 => .ok (.hqry d (fld w 0 8))
    | 2 => do
      must (d = 0)
      .ok (.hdrain (fld w 0 8))
    | 3 => do
      must (d = 0)
      .ok (.hfree (fld w 0 8))
    | 4 => do
      must (d = 0)
      .ok (.hcancel (fld w 0 8))
    | _ => .error .selector
  | 0x36 => do
    must (b = 0 && fld w 2 9 = 0)
    .ok (.launch d a (fld w 0 2))
  | 0x37 => do
    must (d = 0 && b = 0 && fld w 4 7 = 0)
    .ok (.phase a (fld w 0 4))
  | 0x38 => do
    must (fld w 1 10 = 0)
    .ok (.msend d a b (w.getLsbD 0))
  | 0x39 => do
    must (b = 0 && fld w 1 10 = 0)
    .ok (.mrecv d a (w.getLsbD 0))
  | 0x3A => match fn.toNat with
    | 0 => do
      must (b = 0)
      .ok (.tlook d a)
    | 1 => do
      must (d = 0)
      .ok (.tfill a b)
    | 2 => do
      must (d = 0 && b = 0)
      .ok (.tevict a)
    | _ => .error .selector
  | 0x3B => match fn.toNat with
    | 0 => do
      must (b = 0)
      .ok (.sqrd d a)
    | 1 => .ok (.sqset d a b)
    | 2 => .ok (.sqadmit d a b)
    | 3 => do
      must (b = 0)
      .ok (.sqretire d a)
    | _ => .error .selector
  | 0x3C => match fn.toNat with
    | 0 => do
      must (b = 0)
      .ok (.cntrd d a)
    | 1 => .ok (.cntcfg d a b)
    | 2 => do
      must (d = 0 && b = 0)
      .ok (.cntclr a)
    | _ => .error .selector
  | 0x3E => match fn.toNat with
    | 0 => do
      must (a = 0)
      .ok (.csrrd d b)
    | 1 => do
      must (d = 0)
      .ok (.csrwr a b)
    | 2 => do
      must (d = 0 && b = 0)
      .ok (.trap a)
    | 3 => do
      must (d = 0 && a = 0 && b = 0)
      .ok .eret
    | 4 => do
      must (d = 0 && a = 0 && b = 0)
      .ok .halt
    | 5 => do
      must (d = 0 && b = 0)
      .ok (.freeze a)
    | 6 => do
      must (d = 0 && b = 0)
      .ok (.thaw a)
    | 7 => do
      must (d = 0 && b = 0)
      .ok (.resume a)
    | 8 => do
      must (d = 0 && a = 0 && b = 0)
      .ok .brk
    | _ => .error .selector
  | _ => .error .opcode

/-- The trigger field's six bits. -/
def Trig.bits (t : Trig) : BitVec 6 := t.ctx ++ t.pred ++ BitVec.ofBool t.req

/-- The selector of a source operand (R35). -/
def Src.bits : Src → BitVec 5
  | .x r => 0#2 ++ r
  | .take i => 1#2 ++ i
  | .keep i => 2#2 ++ i
  | .zero => 24
  | .one => 25
  | .ones => 26
  | .elid => 27

/-- The selector of a destination operand (R35). -/
def Dst.bits : Dst → BitVec 5
  | .x r => 0#2 ++ r
  | .out o => 1#2 ++ o
  | .both r => 2#2 ++ r
  | .discard => 24

/-- The selector of a read-and-written destination. -/
def RegDst.bits (d : RegDst) : BitVec 5 := (if d.copy then 2#2 else 0#2) ++ d.r

/-- The pw field of a predicate write (R36). -/
def PredW.bits : PredW → BitVec 4
  | .none => 0
  | .to j => 1#1 ++ j

/-- The code of a scope (R38). -/
def Scope.bits : Scope → BitVec 3
  | .cell => 0
  | .reg => 1
  | .die => 2
  | .pkg => 3
  | .sys => 4

/-- The pw field of an ordering (R82). -/
def MemOrder.bits : MemOrder → BitVec 4
  | .plain => 0
  | .ordered s => 1#1 ++ s.bits

/-- The code of a width. -/
def Width.bits : Width → BitVec 2
  | .b => 0
  | .h => 1
  | .w => 2
  | .d => 3

/-- The literal of SEXT and ZEXT. -/
def ExtWidth.bits : ExtWidth → BitVec 5
  | .n8 => 0
  | .n16 => 1
  | .n32 => 2

/-- The code of a stamped scope, 3 or 4. -/
def stampBits (sys : Bool) : BitVec 3 := if sys then 4 else 3

/-- An E word from its fields: ER (R78). -/
def encER (t : Trig) (op : BitVec 7) (d a b : BitVec 5) (pw : BitVec 4) : BitVec 32 :=
  t.bits ++ op ++ d ++ a ++ b ++ pw

/-- An E word from its fields: EI. -/
def encEI (t : Trig) (op : BitVec 7) (d a : BitVec 5) (imm : BitVec 9) : BitVec 32 :=
  t.bits ++ op ++ d ++ a ++ imm

/-- An E word from its fields: EL. -/
def encEL (t : Trig) (op : BitVec 7) (d : BitVec 5) (imm : BitVec 14) : BitVec 32 :=
  t.bits ++ op ++ d ++ imm

/-- A V word from its fields (R85). -/
def encV (t : Trig) (op : BitVec 6) (vd va vb : BitVec 4) (m : BitVec 3) (md : BitVec 5) : BitVec 32 :=
  t.bits ++ op ++ vd ++ va ++ vb ++ m ++ md

/-- A C word from its fields: CR (R89). -/
def encCR (op : BitVec 6) (d a b : BitVec 5) (fn : BitVec 11) : BitVec 32 := op ++ d ++ a ++ b ++ fn

/-- A C word from its fields: CI and CB. -/
def encCI (op : BitVec 6) (d a : BitVec 5) (imm : BitVec 16) : BitVec 32 := op ++ d ++ a ++ imm

/-- A C word from its fields: CJ. -/
def encCJ (op : BitVec 6) (off : BitVec 26) : BitVec 32 := op ++ off

/-- The fn field of an AMO. -/
def amoFn (op : BitVec 4) : MemOrder → BitVec 11
  | .plain => 0#7 ++ op
  | .ordered s => 0#3 ++ 1#1 ++ s.bits ++ op

/-- An M word from its fields (R87): sideA to rounding are bits 27:10. -/
def encM (op : BitVec 6) (ra rb : BitVec 4) (acc : BitVec 3) (count : BitVec 12) (popA popB clr zskip : Bool)
    (sa sb outR fmt : BitVec 4) (rnd : BitVec 2) (sh : BitVec 5) : BitVec 64 :=
  op ++ ra ++ rb ++ acc ++ 0#3 ++ count ++ BitVec.ofBool popA ++ BitVec.ofBool popB ++ BitVec.ofBool clr ++
    BitVec.ofBool zskip ++ sa ++ sb ++ outR ++ fmt ++ rnd ++ sh ++ 0#5

/-- A multiplying M word. -/
def encMac (op : BitVec 6) (f : MacFields) (sa sb : BitVec 4) : BitVec 64 :=
  encM op f.ringA f.ringB f.acc f.count f.popA f.popB f.clr f.zskip sa sb 0 0 f.rounding 0

/-- The word of an instruction, zero-extended to 64 bits; `none` for events, which have no word. -/
def encode : Instr → Option (BitVec 64)
  | .mov t d a p => some ((encER t 0x00 d.bits a.bits 24 p.bits : BitVec 32).setWidth 64)
  | .add t d a b p => some ((encER t 0x01 d.bits a.bits b.bits p.bits : BitVec 32).setWidth 64)
  | .sub t d a b p => some ((encER t 0x02 d.bits a.bits b.bits p.bits : BitVec 32).setWidth 64)
  | .mul t d a b p => some ((encER t 0x03 d.bits a.bits b.bits p.bits : BitVec 32).setWidth 64)
  | .mulhs t d a b p => some ((encER t 0x04 d.bits a.bits b.bits p.bits : BitVec 32).setWidth 64)
  | .mulhu t d a b p => some ((encER t 0x05 d.bits a.bits b.bits p.bits : BitVec 32).setWidth 64)
  | .and t d a b p => some ((encER t 0x06 d.bits a.bits b.bits p.bits : BitVec 32).setWidth 64)
  | .or t d a b p => some ((encER t 0x07 d.bits a.bits b.bits p.bits : BitVec 32).setWidth 64)
  | .xor t d a b p => some ((encER t 0x08 d.bits a.bits b.bits p.bits : BitVec 32).setWidth 64)
  | .andn t d a b p => some ((encER t 0x09 d.bits a.bits b.bits p.bits : BitVec 32).setWidth 64)
  | .shl t d a b p => some ((encER t 0x0A d.bits a.bits b.bits p.bits : BitVec 32).setWidth 64)
  | .shr t d a b p => some ((encER t 0x0B d.bits a.bits b.bits p.bits : BitVec 32).setWidth 64)
  | .sar t d a b p => some ((encER t 0x0C d.bits a.bits b.bits p.bits : BitVec 32).setWidth 64)
  | .min t d a b p => some ((encER t 0x0D d.bits a.bits b.bits p.bits : BitVec 32).setWidth 64)
  | .max t d a b p => some ((encER t 0x0E d.bits a.bits b.bits p.bits : BitVec 32).setWidth 64)
  | .minu t d a b p => some ((encER t 0x0F d.bits a.bits b.bits p.bits : BitVec 32).setWidth 64)
  | .maxu t d a b p => some ((encER t 0x10 d.bits a.bits b.bits p.bits : BitVec 32).setWidth 64)
  | .adds t d a b p => some ((encER t 0x11 d.bits a.bits b.bits p.bits : BitVec 32).setWidth 64)
  | .subs t d a b p => some ((encER t 0x12 d.bits a.bits b.bits p.bits : BitVec 32).setWidth 64)
  | .clz t d a p => some ((encER t 0x13 d.bits a.bits 24 p.bits : BitVec 32).setWidth 64)
  | .popc t d a p => some ((encER t 0x14 d.bits a.bits 24 p.bits : BitVec 32).setWidth 64)
  | .sext t d a n p => some ((encER t 0x15 d.bits a.bits n.bits p.bits : BitVec 32).setWidth 64)
  | .zext t d a n p => some ((encER t 0x16 d.bits a.bits n.bits p.bits : BitVec 32).setWidth 64)
  | .ceq t d a b p => some ((encER t 0x18 d.bits a.bits b.bits p.bits : BitVec 32).setWidth 64)
  | .cne t d a b p => some ((encER t 0x19 d.bits a.bits b.bits p.bits : BitVec 32).setWidth 64)
  | .clt t d a b p => some ((encER t 0x1A d.bits a.bits b.bits p.bits : BitVec 32).setWidth 64)
  | .cle t d a b p => some ((encER t 0x1B d.bits a.bits b.bits p.bits : BitVec 32).setWidth 64)
  | .cltu t d a b p => some ((encER t 0x1C d.bits a.bits b.bits p.bits : BitVec 32).setWidth 64)
  | .cleu t d a b p => some ((encER t 0x1D d.bits a.bits b.bits p.bits : BitVec 32).setWidth 64)
  | .ctst t d a b p => some ((encER t 0x1E d.bits a.bits b.bits p.bits : BitVec 32).setWidth 64)
  | .addi t d a i => some ((encEI t 0x20 d.bits a.bits i : BitVec 32).setWidth 64)
  | .andi t d a i => some ((encEI t 0x21 d.bits a.bits i : BitVec 32).setWidth 64)
  | .ori t d a i => some ((encEI t 0x22 d.bits a.bits i : BitVec 32).setWidth 64)
  | .xori t d a i => some ((encEI t 0x23 d.bits a.bits i : BitVec 32).setWidth 64)
  | .shli t d a c => some ((encEI t 0x24 d.bits a.bits (0#3 ++ c) : BitVec 32).setWidth 64)
  | .shri t d a c => some ((encEI t 0x25 d.bits a.bits (0#3 ++ c) : BitVec 32).setWidth 64)
  | .sari t d a c => some ((encEI t 0x26 d.bits a.bits (0#3 ++ c) : BitVec 32).setWidth 64)
  | .ceqi t j a i => some ((encEI t 0x27 (0#2 ++ j) a.bits i : BitVec 32).setWidth 64)
  | .clti t j a i => some ((encEI t 0x28 (0#2 ++ j) a.bits i : BitVec 32).setWidth 64)
  | .cltui t j a i => some ((encEI t 0x29 (0#2 ++ j) a.bits i : BitVec 32).setWidth 64)
  | .movi t d i => some ((encEL t 0x2C d.bits i : BitVec 32).setWidth 64)
  | .shin t d i => some ((encEL t 0x2D d.bits i : BitVec 32).setWidth 64)
  | .faddS t d a b p => some ((encER t 0x30 d.bits a.bits b.bits p.bits : BitVec 32).setWidth 64)
  | .fsubS t d a b p => some ((encER t 0x31 d.bits a.bits b.bits p.bits : BitVec 32).setWidth 64)
  | .fmulS t d a b p => some ((encER t 0x32 d.bits a.bits b.bits p.bits : BitVec 32).setWidth 64)
  | .fmacS t d a b p => some ((encER t 0x33 d.bits a.bits b.bits p.bits : BitVec 32).setWidth 64)
  | .fminS t d a b p => some ((encER t 0x34 d.bits a.bits b.bits p.bits : BitVec 32).setWidth 64)
  | .fmaxS t d a b p => some ((encER t 0x35 d.bits a.bits b.bits p.bits : BitVec 32).setWidth 64)
  | .frsqeS t d a p => some ((encER t 0x36 d.bits a.bits 24 p.bits : BitVec 32).setWidth 64)
  | .frcpeS t d a p => some ((encER t 0x37 d.bits a.bits 24 p.bits : BitVec 32).setWidth 64)
  | .fceqS t d a b p => some ((encER t 0x38 d.bits a.bits b.bits p.bits : BitVec 32).setWidth 64)
  | .fcltS t d a b p => some ((encER t 0x39 d.bits a.bits b.bits p.bits : BitVec 32).setWidth 64)
  | .fcleS t d a b p => some ((encER t 0x3A d.bits a.bits b.bits p.bits : BitVec 32).setWidth 64)
  | .fcunS t d a b p => some ((encER t 0x3B d.bits a.bits b.bits p.bits : BitVec 32).setWidth 64)
  | .faddD t d a b p => some ((encER t 0x40 d.bits a.bits b.bits p.bits : BitVec 32).setWidth 64)
  | .fsubD t d a b p => some ((encER t 0x41 d.bits a.bits b.bits p.bits : BitVec 32).setWidth 64)
  | .fmulD t d a b p => some ((encER t 0x42 d.bits a.bits b.bits p.bits : BitVec 32).setWidth 64)
  | .fmacD t d a b p => some ((encER t 0x43 d.bits a.bits b.bits p.bits : BitVec 32).setWidth 64)
  | .fminD t d a b p => some ((encER t 0x44 d.bits a.bits b.bits p.bits : BitVec 32).setWidth 64)
  | .fmaxD t d a b p => some ((encER t 0x45 d.bits a.bits b.bits p.bits : BitVec 32).setWidth 64)
  | .fceqD t d a b p => some ((encER t 0x46 d.bits a.bits b.bits p.bits : BitVec 32).setWidth 64)
  | .fcltD t d a b p => some ((encER t 0x47 d.bits a.bits b.bits p.bits : BitVec 32).setWidth 64)
  | .fcleD t d a b p => some ((encER t 0x48 d.bits a.bits b.bits p.bits : BitVec 32).setWidth 64)
  | .fcunD t d a b p => some ((encER t 0x49 d.bits a.bits b.bits p.bits : BitVec 32).setWidth 64)
  | .steer t o a b => some ((encER t 0x50 (1#2 ++ o ++ 0#1) a.bits b.bits 0 : BitVec 32).setWidth 64)
  | .mergec t d x y c => some ((encER t 0x51 d.bits (1#2 ++ x) (1#2 ++ y) (1#1 ++ c) : BitVec 32).setWidth 64)
  | .dup t o a => some ((encER t 0x52 (1#2 ++ o ++ 0#1) a.bits 24 0 : BitVec 32).setWidth 64)
  | .gate t d a b => some ((encER t 0x53 d.bits a.bits b.bits 0 : BitVec 32).setWidth 64)
  | .join t d a b => some ((encER t 0x54 d.bits a.bits b.bits 0 : BitVec 32).setWidth 64)
  | .kind t d i k p => some ((encER t 0x55 d.bits ((if k then 2#2 else 1#2) ++ i) 24 p.bits : BitVec 32).setWidth 64)
  | .marki t o c => some ((encEL t 0x56 (1#2 ++ o) c : BitVec 32).setWidth 64)
  | .emitd t o a => some ((encER t 0x57 (1#2 ++ o) a.bits 24 0 : BitVec 32).setWidth 64)
  | .ld t d a n sx o => some ((encER t 0x60 d.bits a.bits (0#2 ++ BitVec.ofBool sx ++ n.bits) o.bits : BitVec 32).setWidth 64)
  | .ldas t d a b s => some ((encER t 0x61 d.bits a.bits b.bits (0#1 ++ stampBits s) : BitVec 32).setWidth 64)
  | .st t d a b o => some ((encER t 0x64 d.bits a.bits b.bits o.bits : BitVec 32).setWidth 64)
  | .stw t d a b o => some ((encER t 0x65 d.bits a.bits b.bits o.bits : BitVec 32).setWidth 64)
  | .sth t d a b o => some ((encER t 0x66 d.bits a.bits b.bits o.bits : BitVec 32).setWidth 64)
  | .stb t d a b o => some ((encER t 0x67 d.bits a.bits b.bits o.bits : BitVec 32).setWidth 64)
  | .stsc t d a b s => some ((encER t 0x68 d.bits a.bits b.bits (0#1 ++ stampBits s) : BitVec 32).setWidth 64)
  | .stsp t d a b s => some ((encER t 0x69 d.bits a.bits b.bits (0#1 ++ stampBits s) : BitVec 32).setWidth 64)
  | .aadd t d a b o => some ((encER t 0x6A d.bits a.bits b.bits o.bits : BitVec 32).setWidth 64)
  | .amin t d a b o => some ((encER t 0x6B d.bits a.bits b.bits o.bits : BitVec 32).setWidth 64)
  | .amax t d a b o => some ((encER t 0x6C d.bits a.bits b.bits o.bits : BitVec 32).setWidth 64)
  | .aand t d a b o => some ((encER t 0x6D d.bits a.bits b.bits o.bits : BitVec 32).setWidth 64)
  | .aor t d a b o => some ((encER t 0x6E d.bits a.bits b.bits o.bits : BitVec 32).setWidth 64)
  | .axor t d a b o => some ((encER t 0x6F d.bits a.bits b.bits o.bits : BitVec 32).setWidth 64)
  | .axchg t d a b o => some ((encER t 0x70 d.bits a.bits b.bits o.bits : BitVec 32).setWidth 64)
  | .acas t d a b o => some ((encER t 0x71 d.bits a.bits b.bits o.bits : BitVec 32).setWidth 64)
  | .aadds t d a b o => some ((encER t 0x72 d.bits a.bits b.bits o.bits : BitVec 32).setWidth 64)
  | .xgrant t o a => some ((encER t 0x74 (2#3 ++ o) a.bits 24 0 : BitVec 32).setWidth 64)
  | .xsend t o s p => some ((encER t 0x75 (1#2 ++ o) (1#2 ++ s) (1#2 ++ p) 0 : BitVec 32).setWidth 64)
  | .xrecv t o i => some ((encER t 0x76 (2#3 ++ o) (1#2 ++ i) 24 0 : BitVec 32).setWidth 64)
  | .agen t g b => some ((encER t 0x78 8 (0#2 ++ g) b.bits 0 : BitVec 32).setWidth 64)
  | .agset t g a i => some ((encEI t 0x79 (0#2 ++ g) a.bits i : BitVec 32).setWidth 64)
  | .agrst t g => some ((encER t 0x7A (0#2 ++ g) 24 24 0 : BitVec 32).setWidth 64)
  | .cvtRne t d a f g s => some ((encER t 0x7C d.bits a.bits (BitVec.ofBool s ++ g) f : BitVec 32).setWidth 64)
  | .cvtRtz t d a f g s => some ((encER t 0x7D d.bits a.bits (BitVec.ofBool s ++ g) f : BitVec 32).setWidth 64)
  | .cvtRdn t d a f g s => some ((encER t 0x7E d.bits a.bits (BitVec.ofBool s ++ g) f : BitVec 32).setWidth 64)
  | .cvtRup t d a f g s => some ((encER t 0x7F d.bits a.bits (BitVec.ofBool s ++ g) f : BitVec 32).setWidth 64)
  | .vmov t d a m => some ((encV t 0x00 d a 0 m 0 : BitVec 32).setWidth 64)
  | .vadd t d a b m => some ((encV t 0x01 d a b m 0 : BitVec 32).setWidth 64)
  | .vsub t d a b m => some ((encV t 0x02 d a b m 0 : BitVec 32).setWidth 64)
  | .vmul t d a b m => some ((encV t 0x03 d a b m 0 : BitVec 32).setWidth 64)
  | .vfma t d a b m => some ((encV t 0x04 d a b m 0 : BitVec 32).setWidth 64)
  | .vmin t d a b m => some ((encV t 0x05 d a b m 0 : BitVec 32).setWidth 64)
  | .vmax t d a b m => some ((encV t 0x06 d a b m 0 : BitVec 32).setWidth 64)
  | .vabs t d a m => some ((encV t 0x07 d a 0 m 0 : BitVec 32).setWidth 64)
  | .vand t d a b m => some ((encV t 0x08 d a b m 0 : BitVec 32).setWidth 64)
  | .vor t d a b m => some ((encV t 0x09 d a b m 0 : BitVec 32).setWidth 64)
  | .vxor t d a b m => some ((encV t 0x0A d a b m 0 : BitVec 32).setWidth 64)
  | .vshl t d a b m => some ((encV t 0x0B d a b m 0 : BitVec 32).setWidth 64)
  | .vshr t d a b m => some ((encV t 0x0C d a b m 0 : BitVec 32).setWidth 64)
  | .vqshr t d a m s => some ((encV t 0x0D d a 0 m s : BitVec 32).setWidth 64)
  | .vnarrow t d a r m f s => some ((encV t 0x0E d a (0#2 ++ r) m (BitVec.ofBool s ++ f) : BitVec 32).setWidth 64)
  | .vwiden t d a m f => some ((encV t 0x0F (d ++ 0#1) a 0 m (0#1 ++ f) : BitVec 32).setWidth 64)
  | .vwmac t d a b m => some ((encV t 0x10 (d ++ 0#1) a b m 0 : BitVec 32).setWidth 64)
  | .vcmpeq t k a b m => some ((encV t 0x11 (0#1 ++ k) a b m 0 : BitVec 32).setWidth 64)
  | .vcmplt t k a b m => some ((encV t 0x12 (0#1 ++ k) a b m 0 : BitVec 32).setWidth 64)
  | .vcmple t k a b m => some ((encV t 0x13 (0#1 ++ k) a b m 0 : BitVec 32).setWidth 64)
  | .vsel t d a b m => some ((encV t 0x14 d a b m 0 : BitVec 32).setWidth 64)
  | .vredadd t d a m => some ((encV t 0x15 d a 0 m 0 : BitVec 32).setWidth 64)
  | .vredmax t d a m => some ((encV t 0x16 d a 0 m 0 : BitVec 32).setWidth 64)
  | .vbcast t d a m i => some ((encV t 0x17 d a 0 m i : BitVec 32).setWidth 64)
  | .vexp2 t d a m => some ((encV t 0x18 d a 0 m 0 : BitVec 32).setWidth 64)
  | .vrcp t d a m => some ((encV t 0x19 d a 0 m 0 : BitVec 32).setWidth 64)
  | .vrsq t d a m => some ((encV t 0x1A d a 0 m 0 : BitVec 32).setWidth 64)
  | .vshuf t d a b m => some ((encV t 0x1B d a b m 0 : BitVec 32).setWidth 64)
  | .vslide t d a b m s => some ((encV t 0x1C d a b m s : BitVec 32).setWidth 64)
  | .vtag t d f g x s => some ((encV t 0x1D d f (g ++ BitVec.ofBool x ++ BitVec.ofBool s) 0 0 : BitVec 32).setWidth 64)
  | .vsetp t j => some ((encV t 0x1E (0#1 ++ j) 0 0 0 0 : BitVec 32).setWidth 64)
  | .vldr t d n p => some ((encV t 0x20 d 0 0 0 (BitVec.ofBool p ++ n) : BitVec 32).setWidth 64)
  | .vstr t a n c => some ((encV t 0x21 0 a 0 0 (BitVec.ofBool c ++ n) : BitVec 32).setWidth 64)
  | .vlds t d i => some ((encV t 0x22 d 0 0 0 (0#3 ++ i) : BitVec 32).setWidth 64)
  | .vsts t a o => some ((encV t 0x23 0 a 0 0 (0#3 ++ o) : BitVec 32).setWidth 64)
  | .tmma f => some (encMac 1 f 0 0)
  | .tmmag f x y => some (encMac 2 f x y)
  | .tmmax f x y => some (encMac 3 f x y)
  | .tzero n => some (encM 4 0 0 n 0 false false false false 0 0 0 0 0 0)
  | .tdrain n c o f r s => some (encM 5 0 0 n 0 false false c false 0 0 o f r s)
  | .tload n r p => some (encM 6 r 0 n 0 p false false false 0 0 0 0 0 0)
  | .taddr n r p => some (encM 7 r 0 n 0 p false false false 0 0 0 0 0 0)
  | .ttrans r p o => some (encM 8 r 0 0 0 p false false false 0 0 o 0 0 0)
  | .coreAdd d a b => some ((encCR 0x00 d a b 0x000 : BitVec 32).setWidth 64)
  | .coreSub d a b => some ((encCR 0x00 d a b 0x001 : BitVec 32).setWidth 64)
  | .coreAnd d a b => some ((encCR 0x00 d a b 0x002 : BitVec 32).setWidth 64)
  | .coreOr d a b => some ((encCR 0x00 d a b 0x003 : BitVec 32).setWidth 64)
  | .coreXor d a b => some ((encCR 0x00 d a b 0x004 : BitVec 32).setWidth 64)
  | .coreShl d a b => some ((encCR 0x00 d a b 0x005 : BitVec 32).setWidth 64)
  | .coreShr d a b => some ((encCR 0x00 d a b 0x006 : BitVec 32).setWidth 64)
  | .coreSar d a b => some ((encCR 0x00 d a b 0x007 : BitVec 32).setWidth 64)
  | .coreMul d a b => some ((encCR 0x00 d a b 0x008 : BitVec 32).setWidth 64)
  | .coreMulhs d a b => some ((encCR 0x00 d a b 0x009 : BitVec 32).setWidth 64)
  | .coreMulhu d a b => some ((encCR 0x00 d a b 0x00A : BitVec 32).setWidth 64)
  | .divu d a b => some ((encCR 0x00 d a b 0x00B : BitVec 32).setWidth 64)
  | .remu d a b => some ((encCR 0x00 d a b 0x00C : BitVec 32).setWidth 64)
  | .slt d a b => some ((encCR 0x00 d a b 0x00D : BitVec 32).setWidth 64)
  | .sltu d a b => some ((encCR 0x00 d a b 0x00E : BitVec 32).setWidth 64)
  | .coreMin d a b => some ((encCR 0x00 d a b 0x00F : BitVec 32).setWidth 64)
  | .coreMax d a b => some ((encCR 0x00 d a b 0x010 : BitVec 32).setWidth 64)
  | .coreAddi d a i => some ((encCI 0x01 d a i : BitVec 32).setWidth 64)
  | .coreAndi d a i => some ((encCI 0x02 d a i : BitVec 32).setWidth 64)
  | .coreOri d a i => some ((encCI 0x03 d a i : BitVec 32).setWidth 64)
  | .coreXori d a i => some ((encCI 0x04 d a i : BitVec 32).setWidth 64)
  | .slti d a i => some ((encCI 0x05 d a i : BitVec 32).setWidth 64)
  | .sltui d a i => some ((encCI 0x06 d a i : BitVec 32).setWidth 64)
  | .coreShli d a c => some ((encCI 0x07 d a (0#10 ++ c) : BitVec 32).setWidth 64)
  | .coreShri d a c => some ((encCI 0x08 d a (0#10 ++ c) : BitVec 32).setWidth 64)
  | .coreSari d a c => some ((encCI 0x09 d a (0#10 ++ c) : BitVec 32).setWidth 64)
  | .lih d i => some ((encCI 0x0A d 0 i : BitVec 32).setWidth 64)
  | .shi16 d a i => some ((encCI 0x0B d a i : BitVec 32).setWidth 64)
  | .ldd d a o => some ((encCI 0x10 d a o : BitVec 32).setWidth 64)
  | .ldw d a o => some ((encCI 0x11 d a o : BitVec 32).setWidth 64)
  | .ldwu d a o => some ((encCI 0x12 d a o : BitVec 32).setWidth 64)
  | .ldh d a o => some ((encCI 0x13 d a o : BitVec 32).setWidth 64)
  | .ldhu d a o => some ((encCI 0x14 d a o : BitVec 32).setWidth 64)
  | .ldb d a o => some ((encCI 0x15 d a o : BitVec 32).setWidth 64)
  | .ldbu d a o => some ((encCI 0x16 d a o : BitVec 32).setWidth 64)
  | .std d a o => some ((encCI 0x18 d a o : BitVec 32).setWidth 64)
  | .coreStw d a o => some ((encCI 0x19 d a o : BitVec 32).setWidth 64)
  | .coreSth d a o => some ((encCI 0x1A d a o : BitVec 32).setWidth 64)
  | .coreStb d a o => some ((encCI 0x1B d a o : BitVec 32).setWidth 64)
  | .lda d a s => some ((encCR 0x1C d a 0 (0#8 ++ s.bits) : BitVec 32).setWidth 64)
  | .stl a b s => some ((encCR 0x1D 0 a b (0#8 ++ s.bits) : BitVec 32).setWidth 64)
  | .amoadd d a b o => some ((encCR 0x1E d a b (amoFn 0 o) : BitVec 32).setWidth 64)
  | .amomin d a b o => some ((encCR 0x1E d a b (amoFn 1 o) : BitVec 32).setWidth 64)
  | .amomax d a b o => some ((encCR 0x1E d a b (amoFn 2 o) : BitVec 32).setWidth 64)
  | .amoand d a b o => some ((encCR 0x1E d a b (amoFn 3 o) : BitVec 32).setWidth 64)
  | .amoor d a b o => some ((encCR 0x1E d a b (amoFn 4 o) : BitVec 32).setWidth 64)
  | .amoxor d a b o => some ((encCR 0x1E d a b (amoFn 5 o) : BitVec 32).setWidth 64)
  | .amoxchg d a b o => some ((encCR 0x1E d a b (amoFn 6 o) : BitVec 32).setWidth 64)
  | .amocas d a b o => some ((encCR 0x1E d a b (amoFn 7 o) : BitVec 32).setWidth 64)
  | .amoadds d a b o => some ((encCR 0x1E d a b (amoFn 8 o) : BitVec 32).setWidth 64)
  | .fence .full s => some ((encCR 0x1F 0 0 0 (0#6 ++ 0#2 ++ s.bits) : BitVec 32).setWidth 64)
  | .fence .acq s => some ((encCR 0x1F 0 0 0 (0#6 ++ 1#2 ++ s.bits) : BitVec 32).setWidth 64)
  | .fence .rel s => some ((encCR 0x1F 0 0 0 (0#6 ++ 2#2 ++ s.bits) : BitVec 32).setWidth 64)
  | .beq a b o => some ((encCI 0x20 a b o : BitVec 32).setWidth 64)
  | .bne a b o => some ((encCI 0x21 a b o : BitVec 32).setWidth 64)
  | .blt a b o => some ((encCI 0x22 a b o : BitVec 32).setWidth 64)
  | .bge a b o => some ((encCI 0x23 a b o : BitVec 32).setWidth 64)
  | .bltu a b o => some ((encCI 0x24 a b o : BitVec 32).setWidth 64)
  | .bgeu a b o => some ((encCI 0x25 a b o : BitVec 32).setWidth 64)
  | .jmp o => some ((encCJ 0x26 o : BitVec 32).setWidth 64)
  | .jr a => some ((encCR 0x27 0 a 0 0 : BitVec 32).setWidth 64)
  | .call o => some ((encCJ 0x28 o : BitVec 32).setWidth 64)
  | .callr a => some ((encCR 0x29 0 a 0 0 : BitVec 32).setWidth 64)
  | .ret => some ((encCR 0x2A 0 0 0 0 : BitVec 32).setWidth 64)
  | .clkrd p => some ((encCR 0x30 (p ++ 0#1) 0 0 0 : BitVec 32).setWidth 64)
  | .cyc d => some ((encCR 0x30 d 0 0 1 : BitVec 32).setWidth 64)
  | .sleepu a => some ((encCR 0x30 0 a 0 2 : BitVec 32).setWidth 64)
  | .waits a s => some ((encCR 0x30 0 a 0 (0#4 ++ stampBits s ++ 3#4) : BitVec 32).setWidth 64)
  | .floor d s => some ((encCR 0x30 d 0 0 (0#4 ++ stampBits s ++ 4#4) : BitVec 32).setWidth 64)
  | .sts d a b s p => some ((encCR 0x31 d a b (0#4 ++ stampBits s ++ 0#3 ++ BitVec.ofBool p) : BitVec 32).setWidth 64)
  | .coreLdas d a b s => some ((encCR 0x32 d a b (0#4 ++ stampBits s ++ 0#4) : BitVec 32).setWidth 64)
  | .sbind d a b h w f => some ((encCR 0x34 d a b (0#1 ++ BitVec.ofBool f ++ BitVec.ofBool w ++ h) : BitVec 32).setWidth 64)
  | .hwait h => some ((encCR 0x35 0 0 0 (0#3 ++ h) : BitVec 32).setWidth 64)
  | .hqry d h => some ((encCR 0x35 d 0 0 (1#3 ++ h) : BitVec 32).setWidth 64)
  | .hdrain h => some ((encCR 0x35 0 0 0 (2#3 ++ h) : BitVec 32).setWidth 64)
  | .hfree h => some ((encCR 0x35 0 0 0 (3#3 ++ h) : BitVec 32).setWidth 64)
  | .hcancel h => some ((encCR 0x35 0 0 0 (4#3 ++ h) : BitVec 32).setWidth 64)
  | .launch d a p => some ((encCR 0x36 d a 0 (0#9 ++ p) : BitVec 32).setWidth 64)
  | .phase a m => some ((encCR 0x37 0 a 0 (0#7 ++ m) : BitVec 32).setWidth 64)
  | .msend d a b n => some ((encCR 0x38 d a b (0#10 ++ BitVec.ofBool n) : BitVec 32).setWidth 64)
  | .mrecv d a n => some ((encCR 0x39 d a 0 (0#10 ++ BitVec.ofBool n) : BitVec 32).setWidth 64)
  | .tlook d a => some ((encCR 0x3A d a 0 0 : BitVec 32).setWidth 64)
  | .tfill a b => some ((encCR 0x3A 0 a b 1 : BitVec 32).setWidth 64)
  | .tevict a => some ((encCR 0x3A 0 a 0 2 : BitVec 32).setWidth 64)
  | .sqrd d a => some ((encCR 0x3B d a 0 0 : BitVec 32).setWidth 64)
  | .sqset d a b => some ((encCR 0x3B d a b 1 : BitVec 32).setWidth 64)
  | .sqadmit d a b => some ((encCR 0x3B d a b 2 : BitVec 32).setWidth 64)
  | .sqretire d a => some ((encCR 0x3B d a 0 3 : BitVec 32).setWidth 64)
  | .cntrd d a => some ((encCR 0x3C d a 0 0 : BitVec 32).setWidth 64)
  | .cntcfg d a b => some ((encCR 0x3C d a b 1 : BitVec 32).setWidth 64)
  | .cntclr a => some ((encCR 0x3C 0 a 0 2 : BitVec 32).setWidth 64)
  | .csrrd d b => some ((encCR 0x3E d 0 b 0 : BitVec 32).setWidth 64)
  | .csrwr a b => some ((encCR 0x3E 0 a b 1 : BitVec 32).setWidth 64)
  | .trap a => some ((encCR 0x3E 0 a 0 2 : BitVec 32).setWidth 64)
  | .eret => some ((encCR 0x3E 0 0 0 3 : BitVec 32).setWidth 64)
  | .halt => some ((encCR 0x3E 0 0 0 4 : BitVec 32).setWidth 64)
  | .freeze a => some ((encCR 0x3E 0 a 0 5 : BitVec 32).setWidth 64)
  | .thaw a => some ((encCR 0x3E 0 a 0 6 : BitVec 32).setWidth 64)
  | .resume a => some ((encCR 0x3E 0 a 0 7 : BitVec 32).setWidth 64)
  | .brk => some ((encCR 0x3E 0 0 0 8 : BitVec 32).setWidth 64)
  | _ => none

/-- The four classes of word, fixed by the store that holds a word and by no bit of it (R73). -/
inductive WordClass where
  | e | v | m | c
  deriving DecidableEq, Repr

/-- The class of an instruction; events have none. -/
def Instr.class? (i : Instr) : Option WordClass :=
  if i.eview.isSome then some .e
  else if i.vtrig.isSome then some .v
  else if i.isM then some .m
  else if (encode i).isSome then some .c
  else none

/-- The class under which the model reads a table word whose store is not given. No bit of a word marks
its class (R73), so a pattern legal in several classes is read under the first of E, V, C that makes it
legal, a nonzero trigger field together with zero low bits being left to C (DESIGN CHOICE, entry 2). -/
def tableClass (nbits w : Nat) : Option WordClass :=
  if nbits = 64 then
    match decodeM (BitVec.ofNat 64 w) with
    | .ok (some _) => some .m
    | _ => none
  else if nbits = 32 then
    let x := BitVec.ofNat 32 w
    let ok : Except Reject Instr → Bool := fun r => match r with | .ok _ => true | .error _ => false
    if fld x 26 6 ≠ 0 && ok (decodeC x) then some .c
    else if fld x 19 7 ≠ 0 && ok (decodeE x) then some .e
    else if fld x 20 6 ≠ 0 && ok (decodeV x) then some .v
    else if ok (decodeC x) then some .c
    else if ok (decodeE x) then some .e
    else if ok (decodeV x) then some .v
    else none
  else none

/-- The instruction the decoder reads from a table word (R78, R85, R87, R89), its class by `tableClass`. -/
def decodeTableWord (nbits w : Nat) : Option Instr :=
  match tableClass nbits w with
  | some .e => (decodeE (BitVec.ofNat 32 w)).toOption
  | some .v => (decodeV (BitVec.ofNat 32 w)).toOption
  | some .m => ((decodeM (BitVec.ofNat 64 w)).toOption).join
  | some .c => (decodeC (BitVec.ofNat 32 w)).toOption
  | none => none

end Sys2Proof
end

