-- ==== Sys2Proof/Machine/CoreAlu.lean ====
section
/-! DEFINITION. The control core's arithmetic, immediates, branches, jumps, calls and returns, and PHASE
(spec/14 R257, R258, R261, R277-R280, R457). -/

namespace Sys2Proof.Machine

/-- An instruction of two register operands (R277). -/
def execCR (d a b : BitVec 5) (f : Word → Word → Word) (s : State) : Host.Outcome State Fault Refusal :=
  execAlu [a, b] d (fun g => f (g a) (g b)) s

/-- An instruction of one register and an immediate (R278). -/
def execCI (d a : BitVec 5) (f : Word → Word) (s : State) : Host.Outcome State Fault Refusal :=
  execAlu [a] d (fun g => f (g a)) s

/-- ADD (R277). -/
def execCoreAdd (d a b : BitVec 5) (s : State) : Host.Outcome State Fault Refusal :=
  execCR d a b (fun x y => x + y) s

/-- SUB (R277). -/
def execCoreSub (d a b : BitVec 5) (s : State) : Host.Outcome State Fault Refusal :=
  execCR d a b (fun x y => x - y) s

/-- AND (R277). -/
def execCoreAnd (d a b : BitVec 5) (s : State) : Host.Outcome State Fault Refusal :=
  execCR d a b (fun x y => x &&& y) s

/-- OR (R277). -/
def execCoreOr (d a b : BitVec 5) (s : State) : Host.Outcome State Fault Refusal :=
  execCR d a b (fun x y => x ||| y) s

/-- XOR (R277). -/
def execCoreXor (d a b : BitVec 5) (s : State) : Host.Outcome State Fault Refusal :=
  execCR d a b (fun x y => x ^^^ y) s

/-- SHL (R277). -/
def execCoreShl (d a b : BitVec 5) (s : State) : Host.Outcome State Fault Refusal :=
  execCR d a b (fun x y => shiftL x y) s

/-- SHR (R277). -/
def execCoreShr (d a b : BitVec 5) (s : State) : Host.Outcome State Fault Refusal :=
  execCR d a b (fun x y => shiftR x y) s

/-- SAR (R277). -/
def execCoreSar (d a b : BitVec 5) (s : State) : Host.Outcome State Fault Refusal :=
  execCR d a b (fun x y => shiftA x y) s

/-- MUL (R277). -/
def execCoreMul (d a b : BitVec 5) (s : State) : Host.Outcome State Fault Refusal :=
  execCR d a b (fun x y => x * y) s

/-- MULHS (R277). -/
def execCoreMulhs (d a b : BitVec 5) (s : State) : Host.Outcome State Fault Refusal :=
  execCR d a b (fun x y => mulHighS x y) s

/-- MULHU (R277). -/
def execCoreMulhu (d a b : BitVec 5) (s : State) : Host.Outcome State Fault Refusal :=
  execCR d a b (fun x y => mulHighU x y) s

/-- DIVU (R277). -/
def execDivu (d a b : BitVec 5) (s : State) : Host.Outcome State Fault Refusal :=
  execCR d a b (fun x y => if y = 0 then allOnes else x / y) s

/-- REMU (R277). -/
def execRemu (d a b : BitVec 5) (s : State) : Host.Outcome State Fault Refusal :=
  execCR d a b (fun x y => if y = 0 then x else x % y) s

/-- SLT (R277). -/
def execSlt (d a b : BitVec 5) (s : State) : Host.Outcome State Fault Refusal :=
  execCR d a b (fun x y => bool64 (x.slt y)) s

/-- SLTU (R277). -/
def execSltu (d a b : BitVec 5) (s : State) : Host.Outcome State Fault Refusal :=
  execCR d a b (fun x y => bool64 (x.ult y)) s

/-- MIN (R277). -/
def execCoreMin (d a b : BitVec 5) (s : State) : Host.Outcome State Fault Refusal :=
  execCR d a b (fun x y => minS x y) s

/-- MAX (R277). -/
def execCoreMax (d a b : BitVec 5) (s : State) : Host.Outcome State Fault Refusal :=
  execCR d a b (fun x y => maxS x y) s

/-- The sign- and zero-extended immediates of R278. -/
def sx16 (i : BitVec 16) : Word := i.signExtend 64
def zx16 (i : BitVec 16) : Word := i.setWidth 64

/-- ADDI (R278). -/
def execCoreAddi (d a : BitVec 5) (imm : BitVec 16) (s : State) : Host.Outcome State Fault Refusal :=
  execCI d a (fun x => x + sx16 imm) s

/-- ANDI (R278). -/
def execCoreAndi (d a : BitVec 5) (imm : BitVec 16) (s : State) : Host.Outcome State Fault Refusal :=
  execCI d a (fun x => x &&& zx16 imm) s

/-- ORI (R278). -/
def execCoreOri (d a : BitVec 5) (imm : BitVec 16) (s : State) : Host.Outcome State Fault Refusal :=
  execCI d a (fun x => x ||| zx16 imm) s

/-- XORI (R278). -/
def execCoreXori (d a : BitVec 5) (imm : BitVec 16) (s : State) : Host.Outcome State Fault Refusal :=
  execCI d a (fun x => x ^^^ zx16 imm) s

/-- SLTI (R278). -/
def execSlti (d a : BitVec 5) (imm : BitVec 16) (s : State) : Host.Outcome State Fault Refusal :=
  execCI d a (fun x => bool64 (x.slt (sx16 imm))) s

/-- SLTUI (R278). -/
def execSltui (d a : BitVec 5) (imm : BitVec 16) (s : State) : Host.Outcome State Fault Refusal :=
  execCI d a (fun x => bool64 (x.ult (sx16 imm))) s

/-- SHI16 (R278). -/
def execShi16 (d a : BitVec 5) (imm : BitVec 16) (s : State) : Host.Outcome State Fault Refusal :=
  execCI d a (fun x => (x <<< 16) ||| zx16 imm) s

/-- SHLI (R278). -/
def execCoreShli (d a : BitVec 5) (c : BitVec 6) (s : State) : Host.Outcome State Fault Refusal :=
  execCI d a (fun x => shiftL x (c.setWidth 64)) s

/-- SHRI (R278). -/
def execCoreShri (d a : BitVec 5) (c : BitVec 6) (s : State) : Host.Outcome State Fault Refusal :=
  execCI d a (fun x => shiftR x (c.setWidth 64)) s

/-- SARI (R278). -/
def execCoreSari (d a : BitVec 5) (c : BitVec 6) (s : State) : Host.Outcome State Fault Refusal :=
  execCI d a (fun x => shiftA x (c.setWidth 64)) s

/-- LIH (R278). -/
def execLih (d : BitVec 5) (imm : BitVec 16) (s : State) : Host.Outcome State Fault Refusal :=
  execAlu [] d (fun _ => sx16 imm) s

/-! ## Branches (R258, R279) -/

/-- The target of a CB or CJ word: the word's own address plus four times the offset. -/
def branchTo (pc : Word) (off : Word) : Word := pc + 4 * off

/-- A conditional branch: POISON of a, then b; a taken branch is a transfer (R258, R279). -/
def execBranch (a b : BitVec 5) (off : BitVec 16) (cond : Word → Word → Bool) (s : State) : Host.Outcome State Fault Refusal :=
  let r := s.site.region
  match (s.core r).badReg [a, b] with
  | some x => .next (s.trapHere r cPOISON (x.setWidth 64))
  | none =>
    if cond (s.greg r a) (s.greg r b) then .next (s.transfer s r (branchTo (s.core r).pc (sx16 off)))
    else .next (s.advance r)

/-- BEQ (R279). -/
def execBeq (a b : BitVec 5) (off : BitVec 16) (s : State) : Host.Outcome State Fault Refusal :=
  execBranch a b off (fun x y => x == y) s

/-- BNE (R279). -/
def execBne (a b : BitVec 5) (off : BitVec 16) (s : State) : Host.Outcome State Fault Refusal :=
  execBranch a b off (fun x y => x != y) s

/-- BLT (R279). -/
def execBlt (a b : BitVec 5) (off : BitVec 16) (s : State) : Host.Outcome State Fault Refusal :=
  execBranch a b off (fun x y => x.slt y) s

/-- BGE (R279). -/
def execBge (a b : BitVec 5) (off : BitVec 16) (s : State) : Host.Outcome State Fault Refusal :=
  execBranch a b off (fun x y => !x.slt y) s

/-- BLTU (R279). -/
def execBltu (a b : BitVec 5) (off : BitVec 16) (s : State) : Host.Outcome State Fault Refusal :=
  execBranch a b off (fun x y => x.ult y) s

/-- BGEU (R279). -/
def execBgeu (a b : BitVec 5) (off : BitVec 16) (s : State) : Host.Outcome State Fault Refusal :=
  execBranch a b off (fun x y => !x.ult y) s

/-- JMP (R279). -/
def execJmp (off : BitVec 26) (s : State) : Host.Outcome State Fault Refusal :=
  let r := s.site.region
  .next (s.transfer s r (branchTo (s.core r).pc (off.signExtend 64)))

/-- POISON of a register that holds a target, then MISALIGNED of the target (R279, R457). -/
def State.targetFault (s : State) (r : Nat) (a : BitVec 5) : Option (Byte × Word) :=
  let x := (s.core r).read a
  if x.bad then some (cPOISON, a.setWidth 64)
  else if x.val.toNat % 4 ≠ 0 then some (cMISALIGNED, x.val)
  else none

/-- JR (R279). -/
def execJr (a : BitVec 5) (s : State) : Host.Outcome State Fault Refusal :=
  let r := s.site.region
  match s.targetFault r a with
  | some (c, v) => .next (s.trapHere r c v)
  | none => .next (s.transfer s r (s.greg r a))

/-- l7, selector 23: the return address of a frame (R256, R261). -/
def selL7 : BitVec 5 := 23

/-- The opening of CALL and CALLR: window, new l7 := PC + 4, transfer; nothing changes on a cause (R261, R457). -/
def State.callTo (s : State) (r : Nat) (target : Word) : State :=
  match s.openWindow r false with
  | .error f => s.windowTrap r f
  | .ok s1 => s.transfer (s1.modCore r (fun k => k.write selL7 ((s.core r).pc + 4) false)) r target

/-- CALL (R279, R261). -/
def execCall (off : BitVec 26) (s : State) : Host.Outcome State Fault Refusal :=
  let r := s.site.region
  .next (s.callTo r (branchTo (s.core r).pc (off.signExtend 64)))

/-- CALLR (R279): a is read before the window opens. -/
def execCallr (a : BitVec 5) (s : State) : Host.Outcome State Fault Refusal :=
  let r := s.site.region
  match s.targetFault r a with
  | some (c, v) => .next (s.trapHere r c v)
  | none => .next (s.callTo r (s.greg r a))

/-- RET (R279): the target is l7 before the window closes. -/
def execRet (s : State) : Host.Outcome State Fault Refusal :=
  let r := s.site.region
  match s.targetFault r selL7 with
  | some (c, v) => .next (s.trapHere r c v)
  | none =>
    match s.closeWindow r with
    | .error f => .next (s.windowTrap r f)
    | .ok s1 => .next (s.transfer s1 r (s.greg r selL7))

/-! ## PHASE (R280) -/

/-- The predicates a PHASE writes: bit k of the mask takes bit k of A. -/
def phaseWrite (rp mask : BitVec 4) (a : Word) : BitVec 4 := (rp &&& ~~~mask) ||| (a.setWidth 4 &&& mask)

/-- PHASE. -/
def execPhase (a : BitVec 5) (mask : BitVec 4) (s : State) : Host.Outcome State Fault Refusal :=
  let r := s.site.region
  match (s.core r).badReg [a] with
  | some x => .next (s.trapHere r cPOISON (x.setWidth 64))
  | none =>
      .next ((s.modRegion r (fun R =>
        { R with rp := phaseWrite R.rp mask (s.greg r a), wr := R.wr ||| mask })).advance r)

end Sys2Proof.Machine
end

