-- ==== Sys2Proof/Machine/CoreMem.lean ====
section
/-! DEFINITION. The control core's memory instructions (spec/15 R309-R315, spec/07 R125-R129, spec/08 R139-R141,
R148, R151): loads block, stores leave once accepted, every fault is precise. -/

namespace Sys2Proof.Machine

/-- Does any port hold an accepted, unperformed store with a property (R127)? -/
def State.postedAny (s : State) (f : UnitId → PortReq → Bool) : Bool :=
  s.units.any (fun e => e.2.reqs.any (fun q => q.stage = .posted && f e.1 q))

/-- Must an access to a word wait for an older posted store to it by any port (R116, R127, R141, notes/assumptions/11)? -/
def State.postedBlocks (s : State) (a tick : Nat) : Bool :=
  s.postedAny (fun _ q => q.tick < tick && q.addr.toNat / 8 = a / 8)

/-- Is a stamped store with a property accepted and not yet installed, that is not performed (R298)? -/
def State.stampedAny (s : State) (f : Stamped → Bool) : Bool := s.stamped.any (fun x => !x.installed && f x)

/-- Has region r's core an access of its own that is not performed yet (R128, R313)? -/
def State.coreOwes (s : State) (r : Nat) : Bool :=
  !(s.core r).stores.isEmpty || s.stampedAny (fun x => x.byCore && x.region = r)

/-- The tickets of what region r's core has still to perform (R129, R154). -/
def State.owedTicks (s : State) (r : Nat) : List Nat :=
  (s.core r).stores.map CoreStore.tick ++
    (s.stamped.filter (fun x => !x.installed && x.byCore && x.region = r)).map Stamped.tick

/-- Does an accepted store of the core overlap n bytes at a? -/
def Core.overlaps (k : Core) (a n : Nat) : Bool :=
  k.stores.any (fun c => c.addr < a + n && a < c.addr + c.n)

/-- The address of a core access, or its precise cause: POISON of the registers read, MISALIGNED, translation
(R309, R456). -/
def State.coreAddr (s : State) (r : Nat) (reads : List (BitVec 5)) (va : Word) (align : Nat) (acc : Access) :
    Except (Byte × Word) Target :=
  match (s.core r).badReg reads with
  | some x => .error (cPOISON, x.setWidth 64)
  | none =>
    if va.toNat % align ≠ 0 then .error (cMISALIGNED, va)
    else match s.translateCore r va acc with
      | .ok t => .ok t
      | .prot => .error (cPROT, va)
      | .absent => .error (cPAGE, va)

/-- What a load delivers of n bytes. -/
def loadValue (n : Nat) (sx : Bool) (v : Nat) : Word := if sx then signExt (8 * n) (BitVec.ofNat 64 v) else BitVec.ofNat 64 v

/-- An access of the core at an address, once its bank serves the core; until then it tries again (R292, R295). -/
def State.atBank (s : State) (r a : Nat) (go : State → State) : State :=
  if s.bankServes a 4 then go (s.takeBank a 4)
  else ((s.bankLost a 4).modCore r (fun k => { k with ask := some a })).tryAgain r

/-- A load at a target: across a link that is down it returns a poisoned 0 (R410); else it waits for the core's own
overlapping stores and for what R149 and R141 make it wait for, then for its bank, and writes d with the word's poison
(R301, R310). -/
def State.coreLoad (s : State) (r : Nat) (d : BitVec 5) (t : Target) (n : Nat) (sx : Bool) : State :=
  if s.routeDown (regionDie r) t.addr then s.modCore r (fun k => (k.write d 0 true).step4)
  else if (s.core r).overlaps t.addr n || s.postedBlocks t.addr s.ticket then s.tryAgain r
  else match s.readTarget t n with
    | none => s.tryAgain r
    | some (v, p) => s.atBank r t.addr (fun s => s.modCore r (fun k => (k.write d (loadValue n sx v) p).step4))

/-- The effective address of a CI access (R310). -/
def State.coreEa (s : State) (r : Nat) (a : BitVec 5) (off : BitVec 16) : Word := s.greg r a + sx16 off

/-- An ordinary load (R310). -/
def execLoadCI (n : Nat) (sx : Bool) (d a : BitVec 5) (off : BitVec 16) (s : State) :
    Host.Outcome State Fault Refusal :=
  let r := s.site.region
  match s.coreAddr r [a] (s.coreEa r a off) n .load with
  | .error (c, v) => .next (s.trapHere r c v)
  | .ok t => .next (s.coreLoad r d t n sx)

/-- Acceptance of a store: the core goes on (R309). -/
def State.coreStore (s : State) (r : Nat) (a n : Nat) (x : Reg) (rel : Option Scope) : State :=
  let (k, s) := s.takeTicket
  s.modCore r (fun c => Core.step4 { c with stores := c.stores ++ [⟨k, a, n, x.val, x.bad, rel⟩] })

/-- An ordinary store (R310): the data register is not a use. -/
def execStoreCI (n : Nat) (d a : BitVec 5) (off : BitVec 16) (s : State) : Host.Outcome State Fault Refusal :=
  let r := s.site.region
  match s.coreAddr r [a] (s.coreEa r a off) n .store with
  | .error (c, v) => .next (s.trapHere r c v)
  | .ok t => .next (s.coreStore r t.addr n ((s.core r).read d) none)

/-- LDD (R310). -/
def execLdd (d a : BitVec 5) (off : BitVec 16) (s : State) : Host.Outcome State Fault Refusal :=
  execLoadCI 8 false d a off s

/-- LDW (R310). -/
def execLdw (d a : BitVec 5) (off : BitVec 16) (s : State) : Host.Outcome State Fault Refusal :=
  execLoadCI 4 true d a off s

/-- LDWU (R310). -/
def execLdwu (d a : BitVec 5) (off : BitVec 16) (s : State) : Host.Outcome State Fault Refusal :=
  execLoadCI 4 false d a off s

/-- LDH (R310). -/
def execLdh (d a : BitVec 5) (off : BitVec 16) (s : State) : Host.Outcome State Fault Refusal :=
  execLoadCI 2 true d a off s

/-- LDHU (R310). -/
def execLdhu (d a : BitVec 5) (off : BitVec 16) (s : State) : Host.Outcome State Fault Refusal :=
  execLoadCI 2 false d a off s

/-- LDB (R310). -/
def execLdb (d a : BitVec 5) (off : BitVec 16) (s : State) : Host.Outcome State Fault Refusal :=
  execLoadCI 1 true d a off s

/-- LDBU (R310). -/
def execLdbu (d a : BitVec 5) (off : BitVec 16) (s : State) : Host.Outcome State Fault Refusal :=
  execLoadCI 1 false d a off s

/-- STD (R310). -/
def execStd (d a : BitVec 5) (off : BitVec 16) (s : State) : Host.Outcome State Fault Refusal :=
  execStoreCI 8 d a off s

/-- STW (R310). -/
def execCoreStw (d a : BitVec 5) (off : BitVec 16) (s : State) : Host.Outcome State Fault Refusal :=
  execStoreCI 4 d a off s

/-- STH (R310). -/
def execCoreSth (d a : BitVec 5) (off : BitVec 16) (s : State) : Host.Outcome State Fault Refusal :=
  execStoreCI 2 d a off s

/-- STB (R310). -/
def execCoreStb (d a : BitVec 5) (off : BitVec 16) (s : State) : Host.Outcome State Fault Refusal :=
  execStoreCI 1 d a off s

/-- LDA (R311): an acquire load; later accesses wait as every load makes them. -/
def execLda (d a : BitVec 5) (_scope : Scope) (s : State) : Host.Outcome State Fault Refusal :=
  let r := s.site.region
  match s.coreAddr r [a] (s.greg r a) 8 .load with
  | .error (c, v) => .next (s.trapHere r c v)
  | .ok t => .next (s.coreLoad r d t 8 false)

/-- STL (R311): performed only after every earlier access of the core. -/
def execStl (a b : BitVec 5) (scope : Scope) (s : State) : Host.Outcome State Fault Refusal :=
  let r := s.site.region
  match s.coreAddr r [a] (s.greg r a) 8 .store with
  | .error (c, v) => .next (s.trapHere r c v)
  | .ok t => .next (s.coreStore r t.addr 8 ((s.core r).read b) (some scope))

/-- The registers whose poison an AMO uses, in the order of R456 (R305, R312). -/
def amoReads (k : Nat) (d a b : BitVec 5) : List (BitVec 5) :=
  [a] ++ (if amoUses k then [b] else []) ++ (if k = 7 then [d] else [])

/-- The atomic event on memory: the old value with its poison, memory after, SAT. A poisoned read writes
nothing (R301, R305). -/
def amoApply (m : Memory) (k a : Nat) (b : Word) (bp : Bool) (exp : Word) : Word × Bool × Memory × Flags :=
  let old := m.word a
  if m.poisoned a then (old, true, m, 0)
  else match amoResult k old b exp with
    | (some v, f) => (old, false, m.store a 8 v (bp && !amoUses k), f)
    | (none, f) => (old, false, m, f)

/-- An AMO across a link that is down: a poisoned completion, performed or not (R410). -/
def State.amoLost (s : State) (r k : Nat) (d b : BitVec 5) (a : Nat) : State :=
  let (n, s) := s.takeFree
  let K := s.core r
  let m := if Config.lostStore n then (amoApply s.mem k a (K.read b).val (K.read b).bad (K.read d).val).2.2.1 else s.mem
  State.modCore { s with mem := m } r (fun c => (c.write d (Config.lostData n) true).step4)

/-- An AMO (R312): ordered, it is performed after every earlier access. ARITH_TRAP comes after it is performed,
with EPC at the next instruction (R272, R309). -/
def execAmo (k : Nat) (d a b : BitVec 5) (o : MemOrder) (s : State) : Host.Outcome State Fault Refusal :=
  let r := s.site.region
  match s.coreAddr r (amoReads k d a b) (s.greg r a) 8 .atomic with
  | .error (c, v) => .next (s.trapHere r c v)
  | .ok t =>
    let K := s.core r
    if (o ≠ .plain && s.coreOwes r) || K.overlaps t.addr 8 ||
        s.postedBlocks t.addr s.ticket then .next (s.tryAgain r)
    else if s.routeDown (regionDie r) t.addr then .next (s.amoLost r k d b t.addr)
    else
      .next (s.atBank r t.addr (fun s =>
        let (old, p, m, f) := amoApply s.mem k t.addr (K.read b).val (K.read b).bad (K.read d).val
        let s1 := State.modCore { s with mem := m } r (fun c => (c.write d old p).step4)
        let s2 := s1.orFlags r f
        if s.trapsOn r f then s2.trapSync r cARITH 0 0 (s2.core r).pc else s2))

/-- AMOADD (R312). -/
def execAmoadd (d a b : BitVec 5) (o : MemOrder) (s : State) : Host.Outcome State Fault Refusal := execAmo 0 d a b o s

/-- AMOMIN (R312). -/
def execAmomin (d a b : BitVec 5) (o : MemOrder) (s : State) : Host.Outcome State Fault Refusal := execAmo 1 d a b o s

/-- AMOMAX (R312). -/
def execAmomax (d a b : BitVec 5) (o : MemOrder) (s : State) : Host.Outcome State Fault Refusal := execAmo 2 d a b o s

/-- AMOAND (R312). -/
def execAmoand (d a b : BitVec 5) (o : MemOrder) (s : State) : Host.Outcome State Fault Refusal := execAmo 3 d a b o s

/-- AMOOR (R312). -/
def execAmoor (d a b : BitVec 5) (o : MemOrder) (s : State) : Host.Outcome State Fault Refusal := execAmo 4 d a b o s

/-- AMOXOR (R312). -/
def execAmoxor (d a b : BitVec 5) (o : MemOrder) (s : State) : Host.Outcome State Fault Refusal := execAmo 5 d a b o s

/-- AMOXCHG (R312). -/
def execAmoxchg (d a b : BitVec 5) (o : MemOrder) (s : State) : Host.Outcome State Fault Refusal := execAmo 6 d a b o s

/-- AMOCAS (R312). -/
def execAmocas (d a b : BitVec 5) (o : MemOrder) (s : State) : Host.Outcome State Fault Refusal := execAmo 7 d a b o s

/-- AMOADDS (R312). -/
def execAmoadds (d a b : BitVec 5) (o : MemOrder) (s : State) : Host.Outcome State Fault Refusal := execAmo 8 d a b o s

/-- FENCE (R313, R129): full and rel wait for every earlier store, stamped ones included; acq completes at once, since loads
block. -/
def execFence (k : FenceKind) (_scope : Scope) (s : State) : Host.Outcome State Fault Refusal :=
  let r := s.site.region
  match k with
  | .acq => .next (s.advance r)
  | _ => if s.coreOwes r then .next (s.tryAgain r) else .next (s.advance r)

/-- The precise causes of a stamped core instruction: INTERVAL_WIDE with the die's width first (R309, R456). -/
def State.stampedAddr (s : State) (r : Nat) (reads : List (BitVec 5)) (va : Word) (sys : Bool) (limit : Option Word)
    (acc : Access) : Except (Byte × Word) Target :=
  let d := regionDie r
  if s.stampBlocked d sys then .error (cWIDE, s.width d)
  else match (s.core r).badReg reads with
    | some x => .error (cPOISON, x.setWidth 64)
    | none =>
      if va.toNat % 8 ≠ 0 then .error (cMISALIGNED, va)
      else match limit with
        | some t => if (s.die d).l < t.toNat then .error (cPROT, t) else s.coreAddr r [] va 8 acc
        | none => s.coreAddr r [] va 8 acc

/-- STS (R314): the stamp goes to d at acceptance when posted, else at visibility; meanwhile the core issues
nothing, and it is no wait of R275. -/
def execSts (d a b : BitVec 5) (sys posted : Bool) (s : State) : Host.Outcome State Fault Refusal :=
  let r := s.site.region
  match s.stampedAddr r [a] (s.greg r a) sys none .stampedStore with
  | .error (c, v) => .next (s.trapHere r c v)
  | .ok t =>
    let x := (s.core r).read b
    let (tick, s) := s.takeTicket
    let (st, s1) := s.assignStamp (regionDie r)
    let w : StampWait := if posted then .nobody else .core r
    let s2 : State := { s1 with stamped := s1.stamped ++ [⟨t.addr, x.val, x.bad, sys, st, regionDie r, false, w, r, tick, true, none, 0⟩] }
    if posted then .next (s2.retire r d (BitVec.ofNat 64 st))
    else .next (s2.modCore r (fun k => { k with stall := some (.sts st d) }))

/-- LDAS (R315): a stamp above the die's L is refused, then the core issues nothing until d is written. -/
def execCoreLdas (d a b : BitVec 5) (sys : Bool) (s : State) : Host.Outcome State Fault Refusal :=
  let r := s.site.region
  match s.stampedAddr r [a, b] (s.greg r a) sys (some (s.greg r b)) .stampedLoad with
  | .error (c, v) => .next (s.trapHere r c v)
  | .ok t =>
    let q : LdasReq := ⟨t.addr, (s.greg r b).toNat, sys, .core r, s.greg r a⟩
    .next (State.modCore { s with ldas := s.ldas ++ [q] } r (fun k => { k with stall := some (.ldas 0 d) }))

end Sys2Proof.Machine
end

