-- ==== Sys2Proof/Machine/CoreSys.lean ====
section
/-! DEFINITION. The control core's SYS group without freezes, system registers, traps, waits, time, counters
and the tag table (spec/14 R264-R276, R281-R286; spec/18 R368-R385; spec/17 R356; spec/26 R448). -/

namespace Sys2Proof.Machine

/-- Does an element or node stand in its cell (R18)? -/
def unitExists (u : UnitId) : Bool :=
  decide (u.region < 80) && decide (u.cell < 16) &&
    (if u.sub < 19 then true
     else match u.kind? with
      | some .mpe | some .age => u.cell % 4 = 0
      | some .cve => u.cell = 0 || u.cell = 3 || u.cell = 12 || u.cell = 15
      | some .xpe => cellHasXpe u.cellId
      | _ => false)

/-- The word of an instruction of the core, for EVAL (R281). -/
def wordOf (i : Instr) : Word := (encode i).getD 0

/-- Read registers, or POISON (R257); then the rest. -/
def State.using (s : State) (r : Nat) (reads : List (BitVec 5)) (t : State) : State :=
  match (s.core r).badReg reads with
  | some x => s.trapHere r cPOISON (x.setWidth 64)
  | none => t

/-- An instruction marked handler (R281), then its registers. -/
def State.handlerOnly (s : State) (r : Nat) (i : Instr) (reads : List (BitVec 5)) (t : State) : State :=
  if (s.core r).handler then s.using r reads t else s.trapHere r cPROT (wordOf i)

/-! ## System registers (R264) -/

/-- STATE (R271). -/
def State.stateWord (s : State) (r : Nat) : Word :=
  let R := s.region r
  let k := R.core
  let run : Nat := match k.run with
    | .running => 0
    | .waiting => 1
    | .halted => 2
    | .doubleFault => 3
  BitVec.ofNat 64 (run + 16 * k.handler.toNat + 256 * (R.phase % 4) + 1024 * R.stop.toNat +
    2048 * R.frozen.isSome.toNat + 4096 * (s.dieWide (regionDie r)).toNat + 8192 * k.pend.take?.isSome.toNat)

/-- The unit of an EFAULT number. -/
def efaultUnit (r n : Nat) : UnitId := ⟨r, (n - 0x400) / 32, (n - 0x400) % 32⟩

/-- The value of a system register; none where the number is not listed. -/
def State.csr (s : State) (r n : Nat) : Option Word :=
  let R := s.region r
  let k := R.core
  if 0x400 ≤ n && n < 0x600 then
    let u := efaultUnit r n
    some (if unitExists u then (s.unit u).efault else 0)
  else match n with
  | 0x000 => some 0x6A710C08
  | 0x001 => some (s.dev.revid.setWidth 64)
  | 0x002 => some (BitVec.ofNat 64 (regionDie r))
  | 0x003 => some (BitVec.ofNat 64 (r + 256 * regionRow r + 1024 * regionCol r))
  | 0x004 => some (s.dev.devid.setWidth 64)
  | 0x005 => some (BitVec.ofNat 64 (R.scap r / 1024))
  | 0x006 => some (BitVec.ofNat 64 (R.rcap r / 1024))
  | 0x010 => some k.evec
  | 0x011 => some k.ecause
  | 0x012 => some k.epc
  | 0x013 => some k.eval
  | 0x014 => some k.estat
  | 0x020 => some (BitVec.ofNat 64 k.wptr)
  | 0x021 => some (BitVec.ofNat 64 k.wbot)
  | 0x022 => some k.wspill
  | 0x023 => some k.wlim
  | 0x024 => some k.wovf
  | 0x025 => some k.wovlim
  | 0x030 => some (R.astatOld.setWidth 64)
  | 0x031 => some R.amode
  | 0x032 => some ((R.wr ++ R.rp).setWidth 64)
  | 0x040 => some s.dev.iwlim
  | 0x041 => some R.pflimit
  | 0x042 => some s.hub.agelim
  | 0x043 => some s.hub.preemptWait
  | 0x044 => some R.wdlim
  | 0x050 => some (s.stateWord r)
  | _ => none

/-- A write of a spill register (R263): only while WBOT = 0, and aligned to 128. -/
def State.csrSpill (s : State) (r n : Nat) (v : Word) (f : Core → Core) : Except (Byte × Word) State :=
  if (s.core r).wbot ≠ 0 || v.toNat % 128 ≠ 0 then .error (cPROT, BitVec.ofNat 64 n)
  else .ok (s.modCore r f)

/-- A W1C write of an EFAULT (R190, R191, R282): it lets the element issue from the next cycle. -/
def State.csrEfault (s : State) (u : UnitId) (v : Word) : State :=
  if unitExists u then
    s.modUnit u (fun x => { x with efault := x.efault &&& ~~~(v &&& (3 : Word) <<< 62),
                                   issued := x.issued || (x.stopped && v.getLsbD 63) })
  else s

/-- A write of a system register under its access codes (R6, R264, R266, R267); an unlisted number is refused
with the number. -/
def State.csrWrite (s : State) (r n : Nat) (v : Word) : Except (Byte × Word) State :=
  let h := (s.core r).handler
  if 0x400 ≤ n && n < 0x600 then .ok (s.csrEfault (efaultUnit r n) v)
  else match n with
  | 0x010 => .ok (if h then s.modCore r (fun k => { k with evec := v &&& ~~~3 }) else s)
  | 0x012 => .ok (if h then s.modCore r (fun k => { k with epc := v &&& ~~~3 }) else s)
  | 0x022 => if h then s.csrSpill r n v (fun k => { k with wspill := v }) else .ok s
  | 0x023 => if h then s.csrSpill r n v (fun k => { k with wlim := v }) else .ok s
  | 0x024 => if h then s.csrSpill r n v (fun k => { k with wovf := v }) else .ok s
  | 0x025 => if h then s.csrSpill r n v (fun k => { k with wovlim := v }) else .ok s
  | 0x030 => .ok (s.modRegion r (fun R =>
      { R with astat := (R.astat &&& ~~~(v.setWidth 6)) ||| R.astatSet }))
  | 0x031 => .ok (s.modRegion r (fun R => { R with amodeNext := some (v &&& 0x13F) }))
  | 0x044 => .ok (if h then s.modRegion r (fun R => { R with wdlim := v }) else s)
  | _ => if (s.csr r n).isSome then .ok s else .error (cPROT, BitVec.ofNat 64 n)

/-- CSRRD (R282). -/
def execCsrrd (d b : BitVec 5) (s : State) : Host.Outcome State Fault Refusal :=
  let r := s.site.region
  let n := (s.greg r b).toNat
  .next (s.using r [b]
    (if 4096 ≤ n then s.trapHere r cPROT (s.greg r b)
     else match s.csr r n with
      | some v => s.retire r d v
      | none => s.trapHere r cPROT (s.greg r b)))

/-- CSRWR (R282). -/
def execCsrwr (a b : BitVec 5) (s : State) : Host.Outcome State Fault Refusal :=
  let r := s.site.region
  let n := (s.greg r b).toNat
  .next (s.using r [a, b]
    (if 4096 ≤ n then s.trapHere r cPROT (s.greg r b)
     else match s.csrWrite r n (s.greg r a) with
      | .ok s1 => s1.advance r
      | .error (c, v) => s.trapHere r c v))

/-! ## Traps, returns, stops -/

/-- TRAP (R283): EPC holds the next instruction. -/
def execTrap (a : BitVec 5) (s : State) : Host.Outcome State Fault Refusal :=
  let r := s.site.region
  .next (s.using r [a] (s.trapSync r cTRAP 0 (s.greg r a) ((s.core r).pc + 4)))

/-- ERET (R284): in user mode PROTECTION with the word. -/
def execEret (s : State) : Host.Outcome State Fault Refusal :=
  let r := s.site.region
  .next (s.handlerOnly r .eret [] (s.exitTrap r))

/-- HALT (R285): a wait that nothing but a trap ends. -/
def execHalt (s : State) : Host.Outcome State Fault Refusal :=
  let r := s.site.region
  .next (s.modCore r (fun k => { k with run := .halted, wait := some .halt, stall := none }))

/-- A hub freeze of a region into its fault image area (R399, R448, R276). -/
def State.faultFreeze (s : State) (r : Nat) : State :=
  match (s.region r).faultArea with
  | some a => s.beginFreeze r a 1
  | none => s

/-- Does the debugger take breakpoints (R448)? -/
def State.routesBrk (s : State) : Bool :=
  (s.enc.level = .owner || s.enc.level = .vendor) && s.enc.routeBrk

/-- BRK (R283, R448). -/
def execBrk (s : State) : Host.Outcome State Fault Refusal :=
  let r := s.site.region
  if s.routesBrk then .next (((s.advance r).faultFreeze r).notify [2, BitVec.ofNat 64 r])
  else .next (s.trapHere r cBREAK 0)

/-- A word that is no instruction (R77, R89): ILLEGAL_WORD with EVAL holding the word. -/
def execIllegalWord (w : BitVec 32) (s : State) : Host.Outcome State Fault Refusal :=
  let r := s.site.region
  .next (s.trapHere r cILLEGAL (w.setWidth 64))

/-- A fetch outside the code area, reached by falling through (R258): EPC holds the fetch address. -/
def execFetchOutsideCodeArea (s : State) : Host.Outcome State Fault Refusal :=
  let r := s.site.region
  .next (s.trapHere r cPROT (s.core r).pc)

/-- The core takes a pending asynchronous cause (R273, R274). -/
def execTrapEntry (r : Nat) (s : State) : Host.Outcome State Fault Refusal :=
  if (s.region r).coreFrozen || (s.core r).stall.isSome then .next s else .next (s.takeAsync r)

/-! ## Time (R368-R374) -/

/-- Begin a wait of R275. -/
def State.wait (s : State) (r : Nat) (w : Wait) : State :=
  s.modCore r (fun k => { k with wait := some w, run := .waiting, stall := none })

/-- A wait ends: the instruction completes. -/
def State.endWait (s : State) (r : Nat) : State :=
  s.modCore r (fun k => Core.step4 { k with wait := none, run := .running })

/-- CLKRD (R371, R372): d is the even register 2p. -/
def execClkrd (p : BitVec 4) (s : State) : Host.Outcome State Fault Refusal :=
  let r := s.site.region
  let D := s.die (regionDie r)
  .next (s.modCore r (fun k =>
    ((k.write (p ++ 0#1) (BitVec.ofNat 64 D.e) false).write (p ++ 1#1) (BitVec.ofNat 64 D.l) false).step4))

/-- CYC (R371). -/
def execCyc (d : BitVec 5) (s : State) : Host.Outcome State Fault Refusal :=
  let r := s.site.region
  .next (s.retire r d (BitVec.ofNat 64 s.cyc))

/-- SLEEPU (R371, R373). -/
def execSleepu (a : BitVec 5) (s : State) : Host.Outcome State Fault Refusal :=
  let r := s.site.region
  .next (s.using r [a]
    (if (s.greg r a).toNat ≤ s.cyc then s.advance r else s.wait r (.sleepu (s.greg r a))))

/-- WAITS (R371, R374): while R152's condition holds, WAITS.sys raises INTERVAL_WIDE first. -/
def execWaits (a : BitVec 5) (sys : Bool) (s : State) : Host.Outcome State Fault Refusal :=
  let r := s.site.region
  let d := regionDie r
  if sys && s.hub.stall152 then .next (s.trapHere r cWIDE (s.width d))
  else .next (s.using r [a]
    (if (s.greg r a).toNat < s.floorAt sys d then s.advance r else s.wait r (.waits (s.greg r a) sys)))

/-- FLOOR (R370, R371). -/
def execFloor (d : BitVec 5) (sys : Bool) (s : State) : Host.Outcome State Fault Refusal :=
  let r := s.site.region
  .next (s.retire r d (BitVec.ofNat 64 (s.floorAt sys (regionDie r))))

/-! ## Counters (R375-R385) -/

/-- Is a counter number defined (R376, R377, R379, R380, R383)? -/
def counterDefined (n : Nat) : Bool :=
  n ≤ 0x13 || n = 0x1E || n = 0x1F || (0x20 ≤ n && n ≤ 0x27) ||
    (0x100 ≤ n && n < 0x240 && n % 16 < 13) || (0x400 ≤ n && n < 0xC00 && n % 4 ≠ 3) ||
    (0xC00 ≤ n && n ≤ 0xC07) || (0xC10 ≤ n && n < 0xC30)

/-- Clearable (R376). -/
def counterClearable (n : Nat) : Bool := counterDefined n && n ≠ 0x1E && n < 0xC00

/-- A word of a heat entry (R380). -/
def Heat.word (h : Heat) : Nat → Word
  | 0 => BitVec.ofBool h.valid ++ 0#7 ++ h.tag.extractLsb' 0 35 ++ 0#21
  | 1 => BitVec.ofNat 64 h.delivered
  | _ => BitVec.ofNat 64 h.starved

/-- The stream port and entry that a heat number names. -/
def heatKey (n : Nat) : Nat × Nat := ((n - 0x400) / 128, (n - 0x400) % 128 / 4)

/-- The value of a counter (R375, R382, R383, R385). -/
def State.counter (s : State) (r n : Nat) : Word :=
  let R := s.region r
  if n = 0x1E then R.traceCfg
  else if n = 0x1F then BitVec.ofNat 32 R.rotPasses ++ BitVec.ofNat 32 R.rotCount
  else if n < 0x400 then BitVec.ofNat 64 (R.ctr.get n 0)
  else if n < 0xC00 then (R.heat.get (heatKey n) {}).word (n % 4)
  else if n < 0xC10 then BitVec.ofNat 64 (s.hub.pkg.get n 0)
  else if n < 0xC20 then BitVec.ofNat 64 (s.link (n - 0xC10)).retries
  else BitVec.ofNat 64 (s.dev.dvori.get (n - 0xC20) {}).retries

/-- Does the placement of a region configure an element, and does an output of it carry a channel (R385)? -/
def State.hasOutput (s : State) (u : UnitId) (o : Nat) : Bool :=
  match (s.region u.region).launch with
  | none => false
  | some id => match s.placement? id with
    | none => false
    | some p =>
      p.img.units.any (fun v => unitAt p.origin v.dx v.dy v.sub = u) &&
        (p.img.chans.any (fun c => endAt p.origin c.src = u && c.src.ch = o) ||
         s.chans.any (fun e => e.2.src = some (u, o)) || s.pairs.any (fun e => e.2.tx = u && e.2.out = o))

/-- Does a configuration word break its register's map, or name a rotation element or channel absent from the placement
(R381, R382, R385, R387)? -/
def State.counterCfgBad (s : State) (r n : Nat) (b : Word) : Bool :=
  if n = 0x1E then bitsOf b 49 15 ≠ 0 || bitsOf b 13 19 ≠ 0 || bitsOf b 2 6 ≠ 0
  else if n = 0x1F then
    let u : UnitId := ⟨r, bitsOf b 5 4, bitsOf b 0 5⟩
    bitsOf b 48 16 ≠ 0 || bitsOf b 12 4 ≠ 0 || !s.hasOutput u (bitsOf b 9 3)
  else
    bitsOf b 49 15 ≠ 0 || bitsOf b 17 15 ≠ 0 || 6 < bitsOf b 0 8 ||
      (b.getLsbD 48 && !(1 ≤ bitsOf b 0 8 && bitsOf b 0 8 ≤ 4))

/-- The configuration of a configurable counter, and its writing: a programmable counter's count clears, and
enabling core records asks for a sync record (R381, R389). -/
def Region.counterCfg (R : Region) (n : Nat) : Word :=
  if n = 0x1E then R.traceCfg else if n = 0x1F then R.rotCfg else R.prog.get (n - 0x20) 0

def Region.setCounterCfg (R : Region) (n : Nat) (b : Word) : Region :=
  if n = 0x1E then { R with traceCfg := b, traceSync := R.traceSync || (b.getLsbD 0 && !R.traceCfg.getLsbD 0) }
  else if n = 0x1F then { R with rotCfg := b }
  else { R with prog := R.prog.set (n - 0x20) b, ctr := R.ctr.set n 0 }

/-- Zero a counter: the events of this cycle stay counted (R375, R380, R382). -/
def Region.clearCounter (R : Region) (n : Nat) : Region :=
  if n = 0x1F then { R with rotPasses := 0, rotCount := 0 }
  else if n < 0x400 then { R with ctr := R.ctr.set n (R.ctrNow.get n 0) }
  else { R with heat := R.heat.set (heatKey n) {} }

/-- The output on which the DATA token of a ticket ends a pass, as a new configuration or count has it (R382). -/
def EUnit.rotAt (x : EUnit) (R : Region) (u : UnitId) (tick : Nat) : Option Nat :=
  let o := bitsOf R.rotCfg 9 3
  let before := (x.flights.filter (fun f => f.tick < tick && f.land.dataOn o)).length +
    (x.reqs.filter (fun q => q.tick < tick && q.outs.contains o && q.op.givesData)).length
  if R.rotates u o && R.rotEnds (before + 1) then some o else none

/-- Words in flight follow a new configuration or count of the rotation counter. -/
def EUnit.reRot (x : EUnit) (R : Region) (u : UnitId) : EUnit :=
  let o := bitsOf R.rotCfg 9 3
  { x with
    flights := x.flights.map (fun f =>
      { f with land := { f.land with rot := if f.land.dataOn o then x.rotAt R u f.tick else none } })
    reqs := x.reqs.map (fun q =>
      { q with rot := if q.outs.contains o && q.op.givesData then x.rotAt R u q.tick else none }) }

def State.reRot (s : State) (r n : Nat) : State :=
  if n = 0x1F then { s with units := s.units.map (fun e => if e.1.region = r then (e.1, e.2.reRot (s.region r) e.1) else e) }
  else s

/-- CNTRD (R385). -/
def execCntrd (d a : BitVec 5) (s : State) : Host.Outcome State Fault Refusal :=
  let r := s.site.region
  let n := (s.greg r a).toNat
  .next (s.using r [a]
    (if counterDefined n then s.retire r d (s.counter r n) else s.trapHere r cPROT (s.greg r a)))

/-- CNTCFG (R385). -/
def execCntcfg (d a b : BitVec 5) (s : State) : Host.Outcome State Fault Refusal :=
  let r := s.site.region
  let n := (s.greg r a).toNat
  .next (s.using r [a, b]
    (if !(n = 0x1E || n = 0x1F || (0x20 ≤ n && n ≤ 0x27)) then s.trapHere r cPROT (s.greg r a)
     else if s.counterCfgBad r n (s.greg r b) then s.trapHere r cPROT (s.greg r b)
     else ((s.modRegion r (fun R => R.setCounterCfg n (s.greg r b))).reRot r n).retire r d ((s.region r).counterCfg n)))

/-- CNTCLR (R385). -/
def execCntclr (a : BitVec 5) (s : State) : Host.Outcome State Fault Refusal :=
  let r := s.site.region
  let n := (s.greg r a).toNat
  .next (s.using r [a]
    (if counterClearable n then ((s.modRegion r (fun R => R.clearCounter n)).reRot r n).advance r
     else s.trapHere r cPROT (s.greg r a)))

/-! ## The tag table (R355, R356) -/

/-- The 43-bit tag of an address. -/
def tagOf (va : Word) : Word := (va.extractLsb' 13 43).setWidth 64

/-- The entries that name slots of the region (R22, R355). -/
def Region.tagSlots (R : Region) (r : Nat) : Nat := R.rcap r / 8192

/-- The entry that holds a tag. -/
def Region.tagSlot? (R : Region) (t : Word) : Option Nat :=
  (R.tags.find? (fun e => e.2 = t)).map Prod.fst

/-- TLOOK (R356). -/
def execTlook (d a : BitVec 5) (s : State) : Host.Outcome State Fault Refusal :=
  let r := s.site.region
  let A := s.greg r a
  .next (s.using r [a]
    (if canonical A then
       s.retire r d (match (s.region r).tagSlot? (tagOf A) with
         | some i => BitVec.ofNat 64 i
         | none => allOnes)
     else s.trapHere r cPROT A))

/-- TFILL (R356): MISALIGNED comes first (R456). -/
def execTfill (a b : BitVec 5) (s : State) : Host.Outcome State Fault Refusal :=
  let r := s.site.region
  let A := s.greg r a
  let B := s.greg r b
  .next (s.using r [a, b]
    (if A.toNat % 8192 ≠ 0 then s.trapHere r cMISALIGNED A
     else if !canonical A then s.trapHere r cPROT A
     else if (s.region r).tagSlots r ≤ B.toNat then s.trapHere r cPROT B
     else match (s.region r).tagSlot? (tagOf A) with
      | some i => if i ≠ B.toNat then s.trapHere r cPROT A else s.advance r
      | none => (s.modRegion r (fun R => { R with tags := R.tags.set B.toNat (tagOf A) })).advance r))

/-- TEVICT (R356). -/
def execTevict (a : BitVec 5) (s : State) : Host.Outcome State Fault Refusal :=
  let r := s.site.region
  let A := s.greg r a
  .next (s.using r [a]
    (if (s.region r).tagSlots r ≤ A.toNat then s.trapHere r cPROT A
     else (s.modRegion r (fun R => { R with tags := R.tags.del A.toNat })).advance r))

end Sys2Proof.Machine
end

