-- ==== Sys2Proof/Machine/Element.lean ====
section
/-! DEFINITION. The computing words of the elements: MOV, integer, immediates, floating point and KIND
(spec/11 R193-R208). Each goes through the issue gate and lands after its latency (R97). -/

namespace Sys2Proof.Machine

/-- A function of one, and of two, operands over an operand list. -/
def fn1 (g : Word → ERes) : List Word → ERes
  | [a] => g a
  | _ => .int 0

def fn2 (g : Word → Word → ERes) : List Word → ERes
  | [a, b] => g a b
  | _ => .int 0

/-- A computing word that reads its destination register d as a further operand (R202, R204). -/
def execRmw (t : Trig) (d : RegDst) (ins : List Src) (p : PredW) (lat : Nat) (f : List Word → Word → ERes)
    (s : State) : Host.Outcome State Fault Refusal :=
  execPlain (.rmw t d ins p) lat (fun l => f l (s.dValue t.ctx d)) s

/-- A compare-immediate (R200). -/
def execCmpImm (t : Trig) (j : BitVec 3) (a : Src) (f : Word → Bool) (s : State) :
    Host.Outcome State Fault Refusal :=
  execPlain (.std t .discard [a] (.to j)) 1 (fn1 (fun x => .bool (f x))) s

/-- The token that passes an operand on: kind, poison, utag and last of a channel token, or DATA with the
register's poison (R101, R320). -/
def passTok (tag : Byte) (o : Opnd) : Tok :=
  match o.tok with
  | some t => { data := o.val, kind := t.kind, poison := o.poison, tag := tag, utag := t.utag, last := t.last }
  | none => { data := o.val, poison := o.poison, tag := tag }

/-- The landing of a passed operand. -/
def passLanding (v : EView) (tag : Byte) (o : Opnd) (pred : Bool) : Landing :=
  landingOf v o.val o.poison pred 0 (passTok tag o)

/-- MOV (R194): copies its operand; its predicate write is a use of poison. -/
def execMov (t : Trig) (d : Dst) (a : Src) (p : PredW) (s : State) : Host.Outcome State Fault Refusal :=
  let v := EView.std t d [a] p
  match s.gate v [{ marks := true, use := p.pred?.isSome }] with
  | .wait => .next s
  | .raises e => .next (s.issueFault t.ctx e)
  | .go [o] =>
      .next ((s.issue v).fly s.site.unit s.ticket t.ctx s.site.slot 1
        (passLanding v (s.region s.site.unit.region).tag o (testBits 64 o.val)))
  | .go _ => .next s

/-- KIND's result (R208). -/
def kindWord (o : Opnd) : Word :=
  match o.tok with
  | some t => (0#58 ++ BitVec.ofBool t.poison ++ t.utag ++ BitVec.ofBool t.last ++ t.kind : Word)
  | none => 0

/-- KIND (R208): reports a token's sideband; the token may be a MARK, and its poison is not used. -/
def execKind (t : Trig) (d : Dst) (i : BitVec 3) (kept : Bool) (p : PredW) (s : State) :
    Host.Outcome State Fault Refusal :=
  let v := EView.std t d [if kept then .keep i else .take i] p
  match s.gate v [{ marks := true, use := false }] with
  | .wait => .next s
  | .raises e => .next (s.issueFault t.ctx e)
  | .go ops =>
      let r := ERes.int (kindWord (ops.headD ⟨0, false, none, none⟩))
      .next ((s.issue v).fly s.site.unit s.ticket t.ctx s.site.slot 1
        (landingOf v r.val false r.pred 0 (dataTok (s.region s.site.unit.region).tag ops r.val)))

/-- ADD (R195). -/
def execAdd (t : Trig) (d : Dst) (a b : Src) (p : PredW) (s : State) : Host.Outcome State Fault Refusal :=
  execPlain (.std t d [a, b] p) 1 (fn2 (fun x y => .int (x + y))) s

/-- SUB (R195). -/
def execSub (t : Trig) (d : Dst) (a b : Src) (p : PredW) (s : State) : Host.Outcome State Fault Refusal :=
  execPlain (.std t d [a, b] p) 1 (fn2 (fun x y => .int (x - y))) s

/-- MUL (R195). -/
def execMul (t : Trig) (d : Dst) (a b : Src) (p : PredW) (s : State) : Host.Outcome State Fault Refusal :=
  execPlain (.std t d [a, b] p) 1 (fn2 (fun x y => .int (x * y))) s

/-- MULHS (R195). -/
def execMulhs (t : Trig) (d : Dst) (a b : Src) (p : PredW) (s : State) : Host.Outcome State Fault Refusal :=
  execPlain (.std t d [a, b] p) 1 (fn2 (fun x y => .int (mulHighS x y))) s

/-- MULHU (R195). -/
def execMulhu (t : Trig) (d : Dst) (a b : Src) (p : PredW) (s : State) : Host.Outcome State Fault Refusal :=
  execPlain (.std t d [a, b] p) 1 (fn2 (fun x y => .int (mulHighU x y))) s

/-- AND (R195). -/
def execAnd (t : Trig) (d : Dst) (a b : Src) (p : PredW) (s : State) : Host.Outcome State Fault Refusal :=
  execPlain (.std t d [a, b] p) 1 (fn2 (fun x y => .int (x &&& y))) s

/-- OR (R195). -/
def execOr (t : Trig) (d : Dst) (a b : Src) (p : PredW) (s : State) : Host.Outcome State Fault Refusal :=
  execPlain (.std t d [a, b] p) 1 (fn2 (fun x y => .int (x ||| y))) s

/-- XOR (R195). -/
def execXor (t : Trig) (d : Dst) (a b : Src) (p : PredW) (s : State) : Host.Outcome State Fault Refusal :=
  execPlain (.std t d [a, b] p) 1 (fn2 (fun x y => .int (x ^^^ y))) s

/-- ANDN (R195). -/
def execAndn (t : Trig) (d : Dst) (a b : Src) (p : PredW) (s : State) : Host.Outcome State Fault Refusal :=
  execPlain (.std t d [a, b] p) 1 (fn2 (fun x y => .int (x &&& ~~~y))) s

/-- SHL (R195). -/
def execShl (t : Trig) (d : Dst) (a b : Src) (p : PredW) (s : State) : Host.Outcome State Fault Refusal :=
  execPlain (.std t d [a, b] p) 1 (fn2 (fun x y => .int (shiftL x y))) s

/-- SHR (R195). -/
def execShr (t : Trig) (d : Dst) (a b : Src) (p : PredW) (s : State) : Host.Outcome State Fault Refusal :=
  execPlain (.std t d [a, b] p) 1 (fn2 (fun x y => .int (shiftR x y))) s

/-- SAR (R195). -/
def execSar (t : Trig) (d : Dst) (a b : Src) (p : PredW) (s : State) : Host.Outcome State Fault Refusal :=
  execPlain (.std t d [a, b] p) 1 (fn2 (fun x y => .int (shiftA x y))) s

/-- MIN (R195). -/
def execMin (t : Trig) (d : Dst) (a b : Src) (p : PredW) (s : State) : Host.Outcome State Fault Refusal :=
  execPlain (.std t d [a, b] p) 1 (fn2 (fun x y => .int (minS x y))) s

/-- MAX (R195). -/
def execMax (t : Trig) (d : Dst) (a b : Src) (p : PredW) (s : State) : Host.Outcome State Fault Refusal :=
  execPlain (.std t d [a, b] p) 1 (fn2 (fun x y => .int (maxS x y))) s

/-- MINU (R195). -/
def execMinu (t : Trig) (d : Dst) (a b : Src) (p : PredW) (s : State) : Host.Outcome State Fault Refusal :=
  execPlain (.std t d [a, b] p) 1 (fn2 (fun x y => .int (minU x y))) s

/-- MAXU (R195). -/
def execMaxu (t : Trig) (d : Dst) (a b : Src) (p : PredW) (s : State) : Host.Outcome State Fault Refusal :=
  execPlain (.std t d [a, b] p) 1 (fn2 (fun x y => .int (maxU x y))) s

/-- ADDS (R195). -/
def execAdds (t : Trig) (d : Dst) (a b : Src) (p : PredW) (s : State) : Host.Outcome State Fault Refusal :=
  execPlain (.std t d [a, b] p) 1 (fn2 (fun x y => .sat (addSat x y))) s

/-- SUBS (R195). -/
def execSubs (t : Trig) (d : Dst) (a b : Src) (p : PredW) (s : State) : Host.Outcome State Fault Refusal :=
  execPlain (.std t d [a, b] p) 1 (fn2 (fun x y => .sat (subSat x y))) s

/-- CLZ (R196). -/
def execClz (t : Trig) (d : Dst) (a : Src) (p : PredW) (s : State) : Host.Outcome State Fault Refusal :=
  execPlain (.std t d [a] p) 1 (fn1 (fun x => .int (clz64 x))) s

/-- POPC (R196). -/
def execPopc (t : Trig) (d : Dst) (a : Src) (p : PredW) (s : State) : Host.Outcome State Fault Refusal :=
  execPlain (.std t d [a] p) 1 (fn1 (fun x => .int (popc64 x))) s

/-- The bits that an extension keeps (R196). -/
def extSize : ExtWidth → Nat
  | .n8 => 8
  | .n16 => 16
  | .n32 => 32

/-- SEXT (R196). -/
def execSext (t : Trig) (d : Dst) (a : Src) (n : ExtWidth) (p : PredW) (s : State) : Host.Outcome State Fault Refusal :=
  execPlain (.std t d [a] p) 1 (fn1 (fun x => .int (signExt (extSize n) x))) s

/-- ZEXT (R196). -/
def execZext (t : Trig) (d : Dst) (a : Src) (n : ExtWidth) (p : PredW) (s : State) : Host.Outcome State Fault Refusal :=
  execPlain (.std t d [a] p) 1 (fn1 (fun x => .int (zeroExt (extSize n) x))) s

/-- CEQ (R197). -/
def execCeq (t : Trig) (d : Dst) (a b : Src) (p : PredW) (s : State) : Host.Outcome State Fault Refusal :=
  execPlain (.std t d [a, b] p) 1 (fn2 (fun x y => .bool (x == y))) s

/-- CNE (R197). -/
def execCne (t : Trig) (d : Dst) (a b : Src) (p : PredW) (s : State) : Host.Outcome State Fault Refusal :=
  execPlain (.std t d [a, b] p) 1 (fn2 (fun x y => .bool (x != y))) s

/-- CLT (R197). -/
def execClt (t : Trig) (d : Dst) (a b : Src) (p : PredW) (s : State) : Host.Outcome State Fault Refusal :=
  execPlain (.std t d [a, b] p) 1 (fn2 (fun x y => .bool (x.slt y))) s

/-- CLE (R197). -/
def execCle (t : Trig) (d : Dst) (a b : Src) (p : PredW) (s : State) : Host.Outcome State Fault Refusal :=
  execPlain (.std t d [a, b] p) 1 (fn2 (fun x y => .bool (x.sle y))) s

/-- CLTU (R197). -/
def execCltu (t : Trig) (d : Dst) (a b : Src) (p : PredW) (s : State) : Host.Outcome State Fault Refusal :=
  execPlain (.std t d [a, b] p) 1 (fn2 (fun x y => .bool (x.ult y))) s

/-- CLEU (R197). -/
def execCleu (t : Trig) (d : Dst) (a b : Src) (p : PredW) (s : State) : Host.Outcome State Fault Refusal :=
  execPlain (.std t d [a, b] p) 1 (fn2 (fun x y => .bool (x.ule y))) s

/-- CTST (R197). -/
def execCtst (t : Trig) (d : Dst) (a b : Src) (p : PredW) (s : State) : Host.Outcome State Fault Refusal :=
  execPlain (.std t d [a, b] p) 1 (fn2 (fun x y => .bool ((x &&& y) != 0))) s

/-- The sign-extended immediate of an EI word (R198). -/
def imm9 (i : BitVec 9) : Word := i.signExtend 64

/-- ADDI (R198). -/
def execAddi (t : Trig) (d : Dst) (a : Src) (imm : BitVec 9) (s : State) : Host.Outcome State Fault Refusal :=
  execPlain (.std t d [a] .none) 1 (fn1 (fun x => .int (x + imm9 imm))) s

/-- ANDI (R198). -/
def execAndi (t : Trig) (d : Dst) (a : Src) (imm : BitVec 9) (s : State) : Host.Outcome State Fault Refusal :=
  execPlain (.std t d [a] .none) 1 (fn1 (fun x => .int (x &&& imm9 imm))) s

/-- ORI (R198). -/
def execOri (t : Trig) (d : Dst) (a : Src) (imm : BitVec 9) (s : State) : Host.Outcome State Fault Refusal :=
  execPlain (.std t d [a] .none) 1 (fn1 (fun x => .int (x ||| imm9 imm))) s

/-- XORI (R198). -/
def execXori (t : Trig) (d : Dst) (a : Src) (imm : BitVec 9) (s : State) : Host.Outcome State Fault Refusal :=
  execPlain (.std t d [a] .none) 1 (fn1 (fun x => .int (x ^^^ imm9 imm))) s

/-- SHLI (R199). -/
def execShli (t : Trig) (d : Dst) (a : Src) (c : BitVec 6) (s : State) : Host.Outcome State Fault Refusal :=
  execPlain (.std t d [a] .none) 1 (fn1 (fun x => .int (shiftL x (c.setWidth 64)))) s

/-- SHRI (R199). -/
def execShri (t : Trig) (d : Dst) (a : Src) (c : BitVec 6) (s : State) : Host.Outcome State Fault Refusal :=
  execPlain (.std t d [a] .none) 1 (fn1 (fun x => .int (shiftR x (c.setWidth 64)))) s

/-- SARI (R199). -/
def execSari (t : Trig) (d : Dst) (a : Src) (c : BitVec 6) (s : State) : Host.Outcome State Fault Refusal :=
  execPlain (.std t d [a] .none) 1 (fn1 (fun x => .int (shiftA x (c.setWidth 64)))) s

/-- CEQI (R200). -/
def execCeqi (t : Trig) (j : BitVec 3) (a : Src) (imm : BitVec 9) (s : State) : Host.Outcome State Fault Refusal :=
  execCmpImm t j a (fun x => x == imm9 imm) s

/-- CLTI (R200). -/
def execClti (t : Trig) (j : BitVec 3) (a : Src) (imm : BitVec 9) (s : State) : Host.Outcome State Fault Refusal :=
  execCmpImm t j a (fun x => x.slt (imm9 imm)) s

/-- CLTUI (R200). -/
def execCltui (t : Trig) (j : BitVec 3) (a : Src) (imm : BitVec 9) (s : State) : Host.Outcome State Fault Refusal :=
  execCmpImm t j a (fun x => x.ult (imm9 imm)) s

/-- MOVI (R201). -/
def execMovi (t : Trig) (d : Dst) (imm : BitVec 14) (s : State) : Host.Outcome State Fault Refusal :=
  execPlain (.std t d [] .none) 1 (fun _ => .int (imm.setWidth 64)) s

/-- SHIN (R202): the register moves left by 14 bits and takes the immediate below. -/
def execShin (t : Trig) (d : RegDst) (imm : BitVec 14) (s : State) : Host.Outcome State Fault Refusal :=
  execRmw t d [] .none 1 (fun _ x => .int ((x <<< 14) ||| imm.setWidth 64)) s

/-- FADDS (R203). -/
def execFaddS (t : Trig) (d : Dst) (a b : Src) (p : PredW) (s : State) : Host.Outcome State Fault Refusal :=
  execPlain (.std t d [a, b] p) 4 (fn2 (fun x y => .single (fAdd fp32 (lo32 x) (lo32 y)))) s

/-- FSUBS (R203). -/
def execFsubS (t : Trig) (d : Dst) (a b : Src) (p : PredW) (s : State) : Host.Outcome State Fault Refusal :=
  execPlain (.std t d [a, b] p) 4 (fn2 (fun x y => .single (fSub fp32 (lo32 x) (lo32 y)))) s

/-- FMULS (R203). -/
def execFmulS (t : Trig) (d : Dst) (a b : Src) (p : PredW) (s : State) : Host.Outcome State Fault Refusal :=
  execPlain (.std t d [a, b] p) 4 (fn2 (fun x y => .single (fMul fp32 (lo32 x) (lo32 y)))) s

/-- FMACS (R203, R204): fused, the addend and the destination one register. -/
def execFmacS (t : Trig) (d : RegDst) (a b : Src) (p : PredW) (s : State) : Host.Outcome State Fault Refusal :=
  execRmw t d [a, b] p 4 (fun l z => fn2 (fun x y => .single (fMac fp32 (lo32 x) (lo32 y) (lo32 z))) l) s

/-- FMINS (R205). -/
def execFminS (t : Trig) (d : Dst) (a b : Src) (p : PredW) (s : State) : Host.Outcome State Fault Refusal :=
  execPlain (.std t d [a, b] p) 4 (fn2 (fun x y => .single (fMin fp32 (lo32 x) (lo32 y)))) s

/-- FMAXS (R205). -/
def execFmaxS (t : Trig) (d : Dst) (a b : Src) (p : PredW) (s : State) : Host.Outcome State Fault Refusal :=
  execPlain (.std t d [a, b] p) 4 (fn2 (fun x y => .single (fMax fp32 (lo32 x) (lo32 y)))) s

/-- FRSQES (R206). -/
def execFrsqeS (t : Trig) (d : Dst) (a : Src) (p : PredW) (s : State) : Host.Outcome State Fault Refusal :=
  execPlain (.std t d [a] p) 4 (fn1 (fun x => .single (fRsqe (lo32 x)))) s

/-- FRCPES (R206). -/
def execFrcpeS (t : Trig) (d : Dst) (a : Src) (p : PredW) (s : State) : Host.Outcome State Fault Refusal :=
  execPlain (.std t d [a] p) 4 (fn1 (fun x => .single (fRcpe (lo32 x)))) s

/-- FCEQS (R207). -/
def execFceqS (t : Trig) (d : Dst) (a b : Src) (p : PredW) (s : State) : Host.Outcome State Fault Refusal :=
  execPlain (.std t d [a, b] p) 4 (fn2 (fun x y => .bool (fCeq fp32 (lo32 x) (lo32 y)))) s

/-- FCLTS (R207). -/
def execFcltS (t : Trig) (d : Dst) (a b : Src) (p : PredW) (s : State) : Host.Outcome State Fault Refusal :=
  execPlain (.std t d [a, b] p) 4 (fn2 (fun x y => .bool (fClt fp32 (lo32 x) (lo32 y)))) s

/-- FCLES (R207). -/
def execFcleS (t : Trig) (d : Dst) (a b : Src) (p : PredW) (s : State) : Host.Outcome State Fault Refusal :=
  execPlain (.std t d [a, b] p) 4 (fn2 (fun x y => .bool (fCle fp32 (lo32 x) (lo32 y)))) s

/-- FCUNS (R207). -/
def execFcunS (t : Trig) (d : Dst) (a b : Src) (p : PredW) (s : State) : Host.Outcome State Fault Refusal :=
  execPlain (.std t d [a, b] p) 4 (fn2 (fun x y => .bool (fCun fp32 (lo32 x) (lo32 y)))) s

/-- FADDD (R203). -/
def execFaddD (t : Trig) (d : Dst) (a b : Src) (p : PredW) (s : State) : Host.Outcome State Fault Refusal :=
  execPlain (.std t d [a, b] p) 8 (fn2 (fun x y => .double (fAdd fp64 x.toNat y.toNat))) s

/-- FSUBD (R203). -/
def execFsubD (t : Trig) (d : Dst) (a b : Src) (p : PredW) (s : State) : Host.Outcome State Fault Refusal :=
  execPlain (.std t d [a, b] p) 8 (fn2 (fun x y => .double (fSub fp64 x.toNat y.toNat))) s

/-- FMULD (R203). -/
def execFmulD (t : Trig) (d : Dst) (a b : Src) (p : PredW) (s : State) : Host.Outcome State Fault Refusal :=
  execPlain (.std t d [a, b] p) 8 (fn2 (fun x y => .double (fMul fp64 x.toNat y.toNat))) s

/-- FMACD (R203, R204): fused, the addend and the destination one register. -/
def execFmacD (t : Trig) (d : RegDst) (a b : Src) (p : PredW) (s : State) : Host.Outcome State Fault Refusal :=
  execRmw t d [a, b] p 8 (fun l z => fn2 (fun x y => .double (fMac fp64 x.toNat y.toNat z.toNat)) l) s

/-- FMIND (R205). -/
def execFminD (t : Trig) (d : Dst) (a b : Src) (p : PredW) (s : State) : Host.Outcome State Fault Refusal :=
  execPlain (.std t d [a, b] p) 8 (fn2 (fun x y => .double (fMin fp64 x.toNat y.toNat))) s

/-- FMAXD (R205). -/
def execFmaxD (t : Trig) (d : Dst) (a b : Src) (p : PredW) (s : State) : Host.Outcome State Fault Refusal :=
  execPlain (.std t d [a, b] p) 8 (fn2 (fun x y => .double (fMax fp64 x.toNat y.toNat))) s

/-- FCEQD (R207). -/
def execFceqD (t : Trig) (d : Dst) (a b : Src) (p : PredW) (s : State) : Host.Outcome State Fault Refusal :=
  execPlain (.std t d [a, b] p) 8 (fn2 (fun x y => .bool (fCeq fp64 x.toNat y.toNat))) s

/-- FCLTD (R207). -/
def execFcltD (t : Trig) (d : Dst) (a b : Src) (p : PredW) (s : State) : Host.Outcome State Fault Refusal :=
  execPlain (.std t d [a, b] p) 8 (fn2 (fun x y => .bool (fClt fp64 x.toNat y.toNat))) s

/-- FCLED (R207). -/
def execFcleD (t : Trig) (d : Dst) (a b : Src) (p : PredW) (s : State) : Host.Outcome State Fault Refusal :=
  execPlain (.std t d [a, b] p) 8 (fn2 (fun x y => .bool (fCle fp64 x.toNat y.toNat))) s

/-- FCUND (R207). -/
def execFcunD (t : Trig) (d : Dst) (a b : Src) (p : PredW) (s : State) : Host.Outcome State Fault Refusal :=
  execPlain (.std t d [a, b] p) 8 (fn2 (fun x y => .bool (fCun fp64 x.toNat y.toNat))) s

end Sys2Proof.Machine
end

