-- ==== Sys2Proof/Machine/Routing.lean ====
section
/-! DEFINITION. The routing words STEER, MERGEC, DUP, GATE, JOIN, MARKI, EMITD (spec/16 R318-R324, spec/06
R111). Values pass with their sideband and are no use of poison; tested controls are. -/

namespace Sys2Proof.Machine

/-- How routing words treat a passed value and a completion, and a control. -/
def polValue : Pol := { marks := true, use := false }

/-- A multi-token firing: its first token's place is reserved by the issue. -/
def State.startMulti (s : State) (u : UnitId) (tick : Nat) (ctx : BitVec 2) (slot lat : Nat) (src : MultiSrc)
    (finish : Landing) : State :=
  s.modUnit u (fun x => { x with multi := some ⟨tick, s.cyc + lat, ctx.toNat, slot, src, true, finish, none⟩ })

/-- STEER's view once its control is known (R321): the selected output alone needs room. -/
def steerView (t : Trig) (o : BitVec 2) (a b : Src) (c : Word) : EView :=
  { trig := t, ins := [a, b], outs := [pairOut o (!c.getLsbD 0)] }

/-- STEER's gate. -/
def State.gateSteer (s : State) (t : Trig) (o : BitVec 2) (a b : Src) : Gate :=
  match s.readSrc s.site.unit t.ctx b with
  | none => .wait
  | some c => s.gate (steerView t o a b c.val) [polValue, {}]

/-- STEER (R320, R321). -/
def execSteer (t : Trig) (o : BitVec 2) (a b : Src) (s : State) : Host.Outcome State Fault Refusal :=
  match s.gateSteer t o a b with
  | .wait => .next s
  | .raises e => .next (s.issueFault t.ctx e)
  | .go [x, c] =>
      let v := steerView t o a b c.val
      .next ((s.issue v).fly s.site.unit s.ticket t.ctx s.site.slot 1
        (passLanding v (s.region s.site.unit.region).tag x false))
  | .go _ => .next s

/-- MERGEC's view once its side is known. -/
def mergeView (t : Trig) (d : Dst) (side iC : BitVec 3) : EView := .std t d [.take iC, .take side] .none

/-- The side a control value selects. -/
def mergeSide (iT iF : BitVec 3) (c : Word) : BitVec 3 := if c.getLsbD 0 then iT else iF

/-- MERGEC's gate (R322): a control that selects no side raises at once. -/
def State.gateMergec (s : State) (t : Trig) (d : Dst) (iT iF iC : BitVec 3) : Gate :=
  let u := s.site.unit
  if !(s.alive u && s.bankOk u s.site.slot && ((s.unit u).context t.ctx.toNat).guardMet t) then .wait
  else match s.readSrc u t.ctx (.take iC) with
    | none => .wait
    | some c => match c.check {} with
      | some f => .raises f
      | none => s.gate (mergeView t d (mergeSide iT iF c.val) iC) [{}, polValue]

/-- MERGEC (R320, R322). -/
def execMergec (t : Trig) (d : Dst) (iT iF iC : BitVec 3) (s : State) : Host.Outcome State Fault Refusal :=
  match s.gateMergec t d iT iF iC with
  | .wait => .next s
  | .raises e => .next (s.issueFault t.ctx e)
  | .go [c, x] =>
      let v := mergeView t d (mergeSide iT iF c.val) iC
      .next ((s.issue v).fly s.site.unit s.ticket t.ctx s.site.slot 1
        (passLanding v (s.region s.site.unit.region).tag x false))
  | .go _ => .next s

/-- DUP's view: ready when its first output has room (R318). -/
def dupView (t : Trig) (o : BitVec 2) (a : Src) : EView :=
  { trig := t, ins := [a], outs := [pairOut o false] }

/-- DUP (R318, R320): the value goes to o[N], then to o[N+1]. -/
def execDup (t : Trig) (o : BitVec 2) (a : Src) (s : State) : Host.Outcome State Fault Refusal :=
  match s.gate (dupView t o a) [polValue] with
  | .wait => .next s
  | .raises e => .next (s.issueFault t.ctx e)
  | .go [x] =>
      let k := passTok (s.region s.site.unit.region).tag x
      .next ((s.issue (dupView t o a)).startMulti s.site.unit s.ticket t.ctx s.site.slot 1
        (.toks [((pairOut o false).toNat, k), ((pairOut o true).toNat, k)]) {})
  | .go _ => .next s

/-- GATE's landing with the control 0: the place is released, the register keeps its value (R323). -/
def gateClosed (v : EView) : Landing :=
  { regPend := v.regDst, toks := v.outs.map (fun o => (o.toNat, none)) }

/-- GATE (R320, R323). -/
def execGate (t : Trig) (d : Dst) (a b : Src) (s : State) : Host.Outcome State Fault Refusal :=
  let v := EView.std t d [a, b] .none
  match s.gate v [polValue, {}] with
  | .wait => .next s
  | .raises e => .next (s.issueFault t.ctx e)
  | .go [x, c] =>
      .next ((s.issue v).fly s.site.unit s.ticket t.ctx s.site.slot 1
        (if c.val.getLsbD 0 then passLanding v (s.region s.site.unit.region).tag x false else gateClosed v))
  | .go _ => .next s

/-- JOIN (R320, R324): the completion's data are ignored. -/
def execJoin (t : Trig) (d : Dst) (a b : Src) (s : State) : Host.Outcome State Fault Refusal :=
  let v := EView.std t d [a, b] .none
  match s.gate v [polValue, polValue] with
  | .wait => .next s
  | .raises e => .next (s.issueFault t.ctx e)
  | .go [x, _] =>
      .next ((s.issue v).fly s.site.unit s.ticket t.ctx s.site.slot 1
        (passLanding v (s.region s.site.unit.region).tag x false))
  | .go _ => .next s

/-- MARKI's view. -/
def markiView (t : Trig) (o : BitVec 3) : EView := { trig := t, ins := [], outs := [o] }

/-- A MARK token (R319); end-of-stream from MARKI carries last 1 (R320). -/
def markTok (tag : Byte) (code : BitVec 14) : Tok :=
  { data := code.setWidth 64, kind := 2, tag := tag, last := code = 4 }

/-- MARKI (R320, R324). -/
def execMarki (t : Trig) (o : BitVec 3) (code : BitVec 14) (s : State) : Host.Outcome State Fault Refusal :=
  let v := markiView t o
  match s.gate v [] with
  | .wait => .next s
  | .raises e => .next (s.issueFault t.ctx e)
  | .go _ =>
      .next ((s.issue v).fly s.site.unit s.ticket t.ctx s.site.slot 1
        { toks := [(o.toNat, some (markTok (s.region s.site.unit.region).tag code))] })

/-- EMITD's view. -/
def emitdView (t : Trig) (o : BitVec 3) (a : Src) : EView := { trig := t, ins := [a], outs := [o] }

/-- EMITD (R320, R324): a DONE token of the value's data, poison, utag and last. -/
def execEmitd (t : Trig) (o : BitVec 3) (a : Src) (s : State) : Host.Outcome State Fault Refusal :=
  let v := emitdView t o a
  match s.gate v [polValue] with
  | .wait => .next s
  | .raises e => .next (s.issueFault t.ctx e)
  | .go [x] =>
      .next ((s.issue v).fly s.site.unit s.ticket t.ctx s.site.slot 1
        { toks := [(o.toNat, some { passTok (s.region s.site.unit.region).tag x with kind := 1 })] })
  | .go _ => .next s

end Sys2Proof.Machine
end

