-- ==== Sys2Proof/Machine/PortWords.lean ====
section
/-! DEFINITION. The memory words of SPE and MPE up to their acceptance by the port (spec/15 R302-R308, spec/04
R82, R84, spec/06 R115). What follows acceptance is in Ports.lean. -/

namespace Sys2Proof.Machine

/-- Bytes of a width. -/
def widthBytes : Width → Nat
  | .b => 1
  | .h => 2
  | .w => 4
  | .d => 8

/-- Is the unit an MPE? -/
def isMpe (u : UnitId) : Bool := u.sub = 19

/-- The access that an operation makes. -/
def MemOp.access : MemOp → Access
  | .load _ _ => .load
  | .store _ => .store
  | .amo _ => .atomic
  | .stsc _ | .stsp _ => .stampedStore
  | .ldas _ => .stampedLoad

/-- Is it an ordinary store? -/
def MemOp.isStore : MemOp → Bool
  | .store _ => true
  | _ => false

/-- Bytes an operation moves. -/
def MemOp.bytes : MemOp → Nat
  | .load n _ | .store n => n
  | _ => 8

/-- A port's translation: done, or a page walk comes first. -/
inductive PortXlat where
  | done (x : Xlat)
  | walk
  deriving DecidableEq, Repr

/-- The 64 KiB window of an address. -/
def windowOf (va : Word) : Word := BitVec.ofNat 64 (va.toNat / 65536 * 65536)

/-- Where a kept translation leads (R354). -/
def Kept.target (k : Kept) (va : Word) : Target :=
  if k.stamped then .stamped k.base (va.toNat % 65536) else .plain (k.base + va.toNat % 65536)

/-- The kept translation of a port for an address. -/
def Region.keptFor (R : Region) (port : Nat) (va : Word) : Option Kept :=
  R.kept.find? (fun k => k.port = port && k.window = windowOf va)

/-- Translation at port n of a region: MPE 0-3, stream port 4-19 (R289, R290, R354). -/
def State.xlatPort (s : State) (r port : Nat) (va : Word) (acc : Access) : PortXlat :=
  match s.pagedEntry r port va with
  | none => .done (s.translatePort r port va acc)
  | some e =>
    if !e.permits acc then .done .prot
    else match (s.region r).keptFor port va with
      | some k => .done (stampCheck acc (k.target va))
      | none => .walk

/-- Translation of a memory word's address (R288, R290). -/
def State.xlatWord (s : State) (u : UnitId) (va : Word) (acc : Access) : PortXlat :=
  if isMpe u then s.xlatPort u.region (unitPort u) va acc
  else if va.toNat < s.scap u.region then .done (.ok (.plain (spadBase u.cellId + va.toNat)))
  else .done .prot

/-- Is it a stamped operation, and its scope? -/
def MemOp.stampScope? : MemOp → Option Bool
  | .stsc sys | .stsp sys | .ldas sys => some sys
  | _ => none

/-- The class of a port's request: 3 pulse data, 7 stamped traffic, each with a queue of its own (R24, R379). -/
def MemOp.bankClass (op : MemOp) : Nat := if op.stampScope?.isSome then 7 else 3

/-- A port takes no new request while it withholds (R397), and none of a class while one of it walks (R24; DEDUCED from R430). -/
def EUnit.portBlocked (x : EUnit) (cls : Nat) : Bool :=
  x.reqs.any (fun q => (q.stage = .walking && q.op.bankClass = cls) || q.stage = .withheld)

/-- The gate of a memory word, with the class of its request. -/
def State.gateMem (s : State) (v : EView) (pols : List Pol) (cls : Nat := 3) : Gate :=
  if (s.unit s.site.unit).portBlocked cls then .wait else s.gate v pols

/-- The gate of a stamped word: INTERVAL_WIDE comes before the operands (R151, R152, R456). -/
def State.gateStamped (s : State) (sys : Bool) (v : EView) (pols : List Pol) : Gate :=
  match s.gateMem v pols 7 with
  | .wait => .wait
  | g => if s.stampBlocked (unitDie s.site.unit) sys then .raises ⟨cWIDE, none, 0⟩ else g

/-- LDAS: a stamp above the issuing die's L is refused after the operand checks (R308, R456). -/
def State.gateLdas (s : State) (sys : Bool) (v : EView) : Gate :=
  match s.gateStamped sys v [{ align := 8 }, {}] with
  | .go [a, b] =>
      if (s.die (unitDie s.site.unit)).l < b.val.toNat then .raises ⟨cPROT, none, 0⟩ else .go [a, b]
  | g => g

/-- Acceptance of a stamped access at its translated place (R145, R307, R308): a store takes its stamp, kept in
`exp`, and waits to be installed; an LDAS waits for the floor. -/
def State.admitStamped (s : State) (u : UnitId) (q : PortReq) (t : Target) : State × PortReq :=
  match q.op with
  | .stsc sys =>
      let (st, s1) := s.assignStamp (unitDie u)
      ({ s1 with stamped := s1.stamped ++ [⟨t.addr, q.data, q.poison, sys, st, unitDie u, false, .port u q.tick, u.region, q.tick, false, some u, 0⟩] },
        { q with stage := .stamped, exp := BitVec.ofNat 64 st })
  | .stsp sys =>
      let (st, s1) := s.assignStamp (unitDie u)
      ({ s1 with stamped := s1.stamped ++ [⟨t.addr, q.data, q.poison, sys, st, unitDie u, false, .nobody, u.region, q.tick, false, some u, 0⟩] },
        { q with stage := .stamped, exp := BitVec.ofNat 64 st })
  | .ldas sys =>
      ({ s with ldas := s.ldas ++ [⟨t.addr, q.data.toNat, sys, .port u q.tick, q.addr⟩] }, { q with stage := .stamped })
  | _ => (s, q)

/-- A stamped access whose translation is done is admitted at once, unless it needs contexts on links first (R134). -/
def State.admitNear (s : State) (u : UnitId) (q : PortReq) (t : Target) : State × PortReq :=
  if (remoteRoute (unitDie u) t.addr).isEmpty then s.admitStamped u q t else (s, q)

/-- A request takes its place in the port: a stamped one is admitted where its translation is done. -/
def State.enqueue (s : State) (u : UnitId) (q : PortReq) : State :=
  let (s, q) := match s.xlatWord u q.addr q.op.access with
    | .walk => ((s.countPort u.region (unitPort u) 10 1), { q with stage := .walking })
    | .done (.ok t) => s.admitNear u q t
    | .done _ => (s, q)
  s.modUnit u (fun x => { x with reqs := x.reqs ++ [q] })

/-- Acceptance of a request: an MPE counts it and starts a page walk where it needs one (R379). -/
def State.accept (s : State) (u : UnitId) (q : PortReq) : State :=
  let q := { q with rot := if q.op.givesData then s.rotOf u q.outs else none }
  if isMpe u then (s.countPort u.region (unitPort u) 9 1).enqueue u q
  else s.modUnit u (fun x => { x with reqs := x.reqs ++ [q] })

/-- The request of a memory word: the completion takes the address token's utag and last, where a names no channel those of
b's (R101, R302). -/
def memReq (s : State) (v : EView) (op : MemOp) (ord : MemOrder) (ops : List Opnd)
    (exp : Word) : PortReq :=
  let a := ops.headD { val := 0 }
  let b := (ops.drop 1).headD { val := 0 }
  { tick := s.ticket, ctx := v.trig.ctx.toNat, slot := s.site.slot, op := op, addr := a.val, data := b.val,
    poison := b.poison, exp := exp, ord := ord, reg := v.regDst, outs := v.outs.map BitVec.toNat,
    utag := (sideOf ops).1, last := (sideOf ops).2 }

/-- A memory word past its gate: it issues and the port accepts it. -/
def memGo (s : State) (v : EView) (op : MemOp) (ord : MemOrder) (exp : Word) : Gate → State
  | .wait => s
  | .raises e => s.issueFault v.trig.ctx e
  | .go ops => (s.issue v).accept s.site.unit (memReq s v op ord ops exp)

/-- A store of n bytes (R304): the data are not a use. -/
def execStore (n : Nat) (t : Trig) (d : Dst) (a b : Src) (o : MemOrder) (s : State) :
    Host.Outcome State Fault Refusal :=
  let v := EView.std t d [a, b] .none
  .next (memGo s v (.store n) o 0 (s.gateMem v [{ align := n }, { use := false }]))

/-- An atomic (R305), numbered as R312. -/
def execAmoWord (k : Nat) (t : Trig) (d : Dst) (a b : Src) (o : MemOrder) (s : State) :
    Host.Outcome State Fault Refusal :=
  let v := EView.std t d [a, b] .none
  .next (memGo s v (.amo k) o 0 (s.gateMem v [{ align := 8 }, { use := amoUses k }]))

/-- A stamped store (R307). -/
def execStampWord (op : MemOp) (t : Trig) (d : Dst) (a b : Src) (sys : Bool) (s : State) :
    Host.Outcome State Fault Refusal :=
  let v := EView.std t d [a, b] .none
  .next (memGo s v op .plain 0 (s.gateStamped sys v [{ align := 8 }, { use := false }]))

/-- LD (R303). -/
def execLd (t : Trig) (d : Dst) (a : Src) (n : Width) (sx : Bool) (o : MemOrder) (s : State) :
    Host.Outcome State Fault Refusal :=
  let v := EView.std t d [a] .none
  .next (memGo s v (.load (widthBytes n) sx) o 0 (s.gateMem v [{ align := widthBytes n }]))

/-- LDAS (R308). -/
def execLdas (t : Trig) (d : Dst) (a b : Src) (sys : Bool) (s : State) : Host.Outcome State Fault Refusal :=
  let v := EView.std t d [a, b] .none
  .next (memGo s v (.ldas sys) .plain 0 (s.gateLdas sys v))

/-- ST (R304). -/
def execSt (t : Trig) (d : Dst) (a b : Src) (o : MemOrder) (s : State) : Host.Outcome State Fault Refusal :=
  execStore 8 t d a b o s

/-- STW (R304). -/
def execStw (t : Trig) (d : Dst) (a b : Src) (o : MemOrder) (s : State) : Host.Outcome State Fault Refusal :=
  execStore 4 t d a b o s

/-- STH (R304). -/
def execSth (t : Trig) (d : Dst) (a b : Src) (o : MemOrder) (s : State) : Host.Outcome State Fault Refusal :=
  execStore 2 t d a b o s

/-- STB (R304). -/
def execStb (t : Trig) (d : Dst) (a b : Src) (o : MemOrder) (s : State) : Host.Outcome State Fault Refusal :=
  execStore 1 t d a b o s

/-- STSC (R307). -/
def execStsc (t : Trig) (d : Dst) (a b : Src) (sys : Bool) (s : State) : Host.Outcome State Fault Refusal :=
  execStampWord (.stsc sys) t d a b sys s

/-- STSP (R307). -/
def execStsp (t : Trig) (d : Dst) (a b : Src) (sys : Bool) (s : State) : Host.Outcome State Fault Refusal :=
  execStampWord (.stsp sys) t d a b sys s

/-- AADD (R305). -/
def execAadd (t : Trig) (d : Dst) (a b : Src) (o : MemOrder) (s : State) : Host.Outcome State Fault Refusal :=
  execAmoWord 0 t d a b o s

/-- AMIN (R305). -/
def execAmin (t : Trig) (d : Dst) (a b : Src) (o : MemOrder) (s : State) : Host.Outcome State Fault Refusal :=
  execAmoWord 1 t d a b o s

/-- AMAX (R305). -/
def execAmax (t : Trig) (d : Dst) (a b : Src) (o : MemOrder) (s : State) : Host.Outcome State Fault Refusal :=
  execAmoWord 2 t d a b o s

/-- AAND (R305). -/
def execAand (t : Trig) (d : Dst) (a b : Src) (o : MemOrder) (s : State) : Host.Outcome State Fault Refusal :=
  execAmoWord 3 t d a b o s

/-- AOR (R305). -/
def execAor (t : Trig) (d : Dst) (a b : Src) (o : MemOrder) (s : State) : Host.Outcome State Fault Refusal :=
  execAmoWord 4 t d a b o s

/-- AXOR (R305). -/
def execAxor (t : Trig) (d : Dst) (a b : Src) (o : MemOrder) (s : State) : Host.Outcome State Fault Refusal :=
  execAmoWord 5 t d a b o s

/-- AXCHG (R305). -/
def execAxchg (t : Trig) (d : Dst) (a b : Src) (o : MemOrder) (s : State) : Host.Outcome State Fault Refusal :=
  execAmoWord 6 t d a b o s

/-- ACAS (R305): the expected value is d's at issue. -/
def execAcas (t : Trig) (d : RegDst) (a b : Src) (o : MemOrder) (s : State) : Host.Outcome State Fault Refusal :=
  let v := EView.rmw t d [a, b] .none
  .next (memGo s v (.amo 7) o (s.dValue t.ctx d) (s.gateMem v [{ align := 8 }, { use := false }]))

/-- AADDS (R305). -/
def execAadds (t : Trig) (d : Dst) (a b : Src) (o : MemOrder) (s : State) : Host.Outcome State Fault Refusal :=
  execAmoWord 8 t d a b o s

end Sys2Proof.Machine
end

