-- ==== Sys2Proof/Machine/Trace.lean ====
section
/-! DEFINITION. Trace records: what a region emits, and the hub's writing of them to the trace buffer
(spec/18 R386-R391). -/

namespace Sys2Proof.Machine

/-- Is the trace path open (R386, R444, R447)? -/
def State.traceOpen (s : State) : Bool :=
  s.enc.level ≠ .none && s.enc.openTrace && (s.enc.power = .p0 || s.enc.power = .p1)

/-- The first word of a record: type, region, the rest (R388). -/
def traceWord (ty region low : Nat) : Word := BitVec.ofNat 64 (ty * 2 ^ 60 + region * 2 ^ 53 + low % 2 ^ 53)

/-- The sync record of a region (R388). -/
def syncRecord (r cyc : Nat) (pc : Word) : List Word := [traceWord 3 r cyc, pc]

/-- A core record (R388, R389). -/
def coreRecord (r port delta : Nat) (pcDelta : Int) : List Word :=
  [traceWord 1 r (port * 2 ^ 51 + delta * 2 ^ 35 + (BitVec.ofInt 20 pcDelta).toNat * 2 ^ 15)]

/-- The pc delta of R389. -/
def pcDelta (pc prev : Word) : Int := (pc - prev).toInt / 4 - 1

/-- The trace of an instruction that issues (R389), while records are enabled and the path is open. -/
def State.traceIssue (s : State) (r port : Nat) : State :=
  if s.traceOpen && (s.region r).traceCfg.getLsbD 0 then
    s.modRegion r (fun R => { R with
      tracePend := R.tracePend ++ [.core s.cyc R.core.pc port R.traceSync], traceSync := false })
  else s

/-- The next traced instruction of a list begins with a sync record. -/
def syncNext : List TraceEv → List TraceEv
  | [] => []
  | .core cyc pc port _ :: es => .core cyc pc port true :: es
  | .words ws :: es => .words ws :: syncNext es

/-- Is a record under way an instruction's? -/
def TraceEv.isCore : TraceEv → Bool
  | .core _ _ _ _ => true
  | .words _ => false

/-- A region's next traced instruction begins with a sync record, be it under way to the hub or still to issue (R386, R389). -/
def Region.resync (R : Region) : Region :=
  if R.tracePend.any TraceEv.isCore then { R with tracePend := syncNext R.tracePend }
  else { R with traceSync := true }

/-- The next traced instruction of a region: its cycle and PC, where none has issued yet those of now and of the core. -/
def Region.nextTraced (R : Region) (now : Nat) : Nat × Word :=
  (R.tracePend.findSome? (fun e => match e with
    | .core cyc pc _ _ => some (cyc, pc)
    | .words _ => none)).getD (now, R.core.pc)

/-- The words that the hub writes for what a region emitted, and the region after it: a drop record first where records were
dropped, and a sync record where R386 and R389 ask for one, with both deltas then taken from it. -/
def Region.traceOut (R : Region) (r now : Nat) (e : TraceEv) : List Word × Region :=
  let drop := if R.traceDrop = 0 then [] else [traceWord 5 r R.traceDrop]
  match e with
  | .core cyc pc port asked =>
      let delta := cyc - R.traceCyc
      let d := pcDelta pc R.tracePc
      let sync := asked || R.traceDrop ≠ 0 || 2 ^ 16 ≤ delta || d < -2 ^ 19 || 2 ^ 19 ≤ d || 4096 ≤ R.traceN
      (drop ++ (if sync then syncRecord r cyc pc ++ coreRecord r port 0 (pcDelta pc pc) else coreRecord r port delta d),
        { R with traceDrop := 0, traceCyc := cyc, tracePc := pc, traceN := if sync then 1 else R.traceN + 1 })
  | .words ws =>
      if R.traceDrop = 0 then (ws, R)
      else
        let (cyc, pc) := R.nextTraced now
        (drop ++ syncRecord r cyc pc ++ ws,
          { R with traceDrop := 0, traceCyc := cyc, tracePc := pc, traceN := 0 })

/-- Does a walk start at this firing (R387)? -/
def Region.walkStarts (R : Region) (node : Nat) : Bool :=
  R.traceCfg.getLsbD 1 && (R.traceCfg.getLsbD 48 || bitsOf R.traceCfg 32 16 = node)

/-- A node record (R388). -/
def nodeRecord (region wid depth last fin node : Nat) (w1 : Word) : List Word :=
  [traceWord 2 region (wid % 256 * 2 ^ 45 + depth % 64 * 2 ^ 39 + last % 8 * 2 ^ 36 + fin % 8 * 2 ^ 33 +
    node % 2 ^ 16 * 2 ^ 17), w1]

/-- The second word of a firing's record: its loop-index register, where the node map names one, and its cycle (R388). -/
def State.walkWord (s : State) (u : UnitId) (slot ctx : Nat) : Word :=
  let x : Word := match (s.nodeEntry u slot).bind ImgNode.xreg with
    | some k => ((s.unit u).context ctx).x.get ⟨k.toNat, k.isLt⟩
    | none => 0
  x.setWidth 32 ++ BitVec.ofNat 32 s.cyc

/-- Has the trace buffer room for n words (R386)? -/
def Device.traceRoom (d : Device) (n : Nat) : Bool :=
  let size := d.traceSize.toNat
  size ≠ 0 && (d.traceWrite + size - d.traceRead.toNat % size) % size + 8 * n < size

/-- Append words to the buffer, a ring in DRAM: ordinary stores at package scope (R8, R386, notes/assumptions/49). -/
def State.traceAppend (s : State) : List Word → State
  | [] => s
  | w :: ws =>
      let size := s.dev.traceSize.toNat
      let a := s.dev.traceBase.toNat + s.dev.traceWrite
      let s := { s with mem := if isDram a then s.mem.store a 8 w false else s.mem,
                        dev := { s.dev with traceWrite := (s.dev.traceWrite + 8) % size } }
      s.traceAppend ws

/-- The first region that has a record to write. -/
def State.traceRegion? (s : State) : Option Nat :=
  (s.regions.find? (fun e => !e.2.tracePend.isEmpty)).map Prod.fst

/-- Write, or drop, the oldest record of a region; while the path is closed it is discarded uncounted (R386). -/
def State.traceWrite (s : State) (r : Nat) : State :=
  match (s.region r).tracePend with
  | [] => s
  | e :: es =>
      let s := s.modRegion r (fun R => { R with tracePend := es })
      if !s.traceOpen then s.modRegion r Region.resync
      else
        let (ws, R) := (s.region r).traceOut r s.cyc e
        if s.dev.traceRoom ws.length then (s.setRegion r R).traceAppend ws
        else (s.modRegion r (fun R => { R with traceDrop := R.traceDrop + 1 })).count r 0x13 1

/-- TRACE_RECORD_WRITE (R386, R388). -/
def execTraceRecordWrite (s : State) : Host.Outcome State Fault Refusal :=
  match s.traceRegion? with
  | some r => .next (s.traceWrite r)
  | none => .next s

/-- Is any trace enabled (R388)? -/
def State.anyTrace (s : State) : Bool :=
  s.traceOpen && s.regions.any (fun e => e.2.traceCfg.getLsbD 0 || e.2.traceCfg.getLsbD 1)

/-- TRACE_ANCHOR: the hub's own record; it is dropped where the buffer is full (R388). -/
def execTraceAnchor (s : State) : Host.Outcome State Fault Refusal :=
  if s.anyTrace && s.dev.traceRoom 2 then
    .next (s.traceAppend [traceWord 4 0x7F s.cyc, BitVec.ofNat 64 (s.die 8).e])
  else .next s

end Sys2Proof.Machine
end

