-- ==== Sys2Proof/Machine/Vector.lean ====
section
/-! DEFINITION. The words of the vector node (spec/12 R210-R235): the issue gate with its tag and poison checks,
guard stepping, lane operations under masks, rings and token channels. -/

namespace Sys2Proof.Machine

/-! ## Issue -/

/-- A register a V word reads: whether its tag is accepted (R215), whether reading is a use of poison (R216). -/
structure VOpnd where
  r : BitVec 4
  ok : Bool
  use : Bool := true
  deriving DecidableEq, Repr

/-- What a V word names: registers read in the order of R456, its mask, registers and mask written. -/
structure VUse where
  trig : Trig
  reads : List VOpnd := []
  mask : BitVec 3 := 0
  writes : List (BitVec 4) := []
  wmask : Option (BitVec 3) := none
  deriving DecidableEq, Repr

/-- The registers and masks that must not be pending (R212). -/
def Vec.scoreOk (x : Vec) (v : VUse) : Bool :=
  v.reads.all (fun o => !x.pendV.getLsbD o.r.toNat) && v.writes.all (fun r => !x.pendV.getLsbD r.toNat) &&
    !x.pendM.getLsbD v.mask.toNat && v.wmask.all (fun k => !x.pendM.getLsbD k.toNat)

/-- R94 as R212 reads it, but for channels and rings. -/
def State.vready (s : State) (v : VUse) : Bool :=
  let u := s.site.unit
  let x := s.unit u
  s.alive u && s.bankOk u s.site.slot && (x.context v.trig.ctx.toNat).guardMet v.trig && x.vec.scoreOk v

/-- The checks on the registers read: the tag, then poison, one operand at a time (R215, R216, R456). -/
def Vec.check (x : Vec) : List VOpnd → Option IssueFault
  | [] => none
  | o :: os =>
      if !o.ok then some ⟨cFORMAT, none, 0⟩
      else if o.use && x.pv.getLsbD o.r.toNat then some ⟨cPOISON, none, 0⟩
      else x.check os

/-- The gate of a V word that names no channel and no ring. -/
def State.gateV (s : State) (v : VUse) : Gate :=
  if !s.vready v then .wait
  else match (s.unit s.site.unit).vec.check v.reads with
    | some f => .raises f
    | none => .go []

/-- Guard stepping (R213). -/
def Ctx.stepGuard (c : Ctx) (t : Trig) : Ctx :=
  if t.req && t.pred ≠ 7 then
    let c1 := { c with p := setBit c.p t.pred.toNat false }
    if t.pred = 6 then c1 else { c1 with p := setBit c1.p (t.pred.toNat + 1) true }
  else c

/-- Set pending bits of what a V word writes. -/
def Vec.pend (x : Vec) (v : VUse) : Vec :=
  { x with
    pendV := v.writes.foldl (fun b r => setBit b r.toNat true) x.pendV
    pendM := match v.wmask with | some k => setBit x.pendM k.toNat true | none => x.pendM }

/-- Issue of a V word: predicates step, pending bits, the arbiter's turn, the count. -/
def State.issueV (s : State) (v : VUse) : State :=
  let u := s.site.unit
  let s := { s with ticket := s.ticket + 1 }
  let s := s.modUnit u (fun x =>
    { x.modCtx v.trig.ctx.toNat (fun c => c.stepGuard v.trig) with
      vec := x.vec.pend v, issued := true, lastCtx := v.trig.ctx.toNat })
  (s.countIssue u s.site.slot 0x02).stir u.region

/-- A V word that computes: gate, issue, and a landing after its latency. -/
def execV (v : VUse) (lat : Nat) (l : Landing) (s : State) : Host.Outcome State Fault Refusal :=
  match s.gateV v with
  | .wait => .next s
  | .raises e => .next (s.issueFault v.trig.ctx e)
  | .go _ => .next ((s.issueV v).fly s.site.unit s.ticket v.trig.ctx s.site.slot lat l)

/-! ## Registers, tags, lanes -/

/-- The vector state of the node at the site. -/
def State.vec (s : State) : Vec := (s.unit s.site.unit).vec
def Vec.reg (x : Vec) (r : BitVec 4) : Row := x.v.get r.toFin
def Vec.tagOf (x : Vec) (r : BitVec 4) : Byte := x.tag.get r.toFin
def Vec.fmt (x : Vec) (r : BitVec 4) : BitVec 4 := tagFmt (x.tagOf r)
def Vec.bad (x : Vec) (r : BitVec 4) : Bool := x.pv.getLsbD r.toNat

/-- A mask as read: m0 is all ones. -/
def Vec.mask (x : Vec) (k : BitVec 3) : Word := if k = 0 then allOnes else x.m.get k.toFin

/-- The mask bit of lane j of width w (R211). -/
def laneOn (mask : Word) (w j : Nat) : Bool := mask.getLsbD (if w = 4 then j / 2 else j)

/-- The format sets of R215. -/
def isF (c : BitVec 4) : Bool := c = 1 || c = 2 || c = 3 || c = 4
def isI (c : BitVec 4) : Bool := c = 8 || c = 9 || c = 10 || c = 11

/-- Latency by format (R214). -/
def vlat (c : BitVec 4) : Nat := if c = 1 then 8 else if isF c then 4 else 2

/-- Lane results under a mask: a masked lane keeps the old lane; the flags of the lanes written. `wm` is the
width that indexes the mask, `w` the width of the result lanes. -/
def maskLanes (mask : Word) (wm w : Nat) (old : Row) (rs : List Res) : Row × Flags :=
  let js := rs.zipIdx
  (rowOf w (js.map (fun (r, j) => if laneOn mask wm j then r.bits else elem w old.toNat j)),
   js.foldl (fun f (r, j) => if laneOn mask wm j then f ||| r.flags else f) 0)

/-- The landing of one written register: fin is recomputed over all its bits (R215). -/
def vLanding (d : BitVec 4) (r : Row) (tag : Byte) (poison : Bool) (f : Flags) : Landing :=
  { vregs := [(d, r, refin tag [r], poison)], flags := f }

/-- The tag that "va's fmt" names: grp none, side 0. -/
def fmtTag (c : BitVec 4) : Byte := mkTag c 0 false false

/-- Integer results modulo 2^w. -/
def intRes (w : Nat) (v : Int) : Res := ⟨intBits w v, 0⟩

/-- Lane-wise words on F or I of equal formats (R218): `ff` on floats, `fi` on integers of width and sign. -/
def arith (c : BitVec 4) (ff : FloatFmt → Nat → Nat → Nat → Res) (fi : Nat → Bool → Int → Int → Int → Res)
    (a b d : Nat) : Res :=
  match floatOf? c with
  | some f => ff f a b d
  | none => match intOf? c with
    | some (w, sg) => fi w sg (intVal w sg a) (intVal w sg b) (intVal w sg d)
    | none => ⟨0, 0⟩

/-- The lanes of three registers in va's width, combined. -/
def Vec.zipLanes (x : Vec) (c : BitVec 4) (va vb vd : BitVec 4) (f : Nat → Nat → Nat → Res) : List Res :=
  ((lanes c (x.reg va)).zip ((lanes c (x.reg vb)).zip (lanes c (x.reg vd)))).map (fun (a, b, d) => f a b d)

/-- The operand view of a word on F or I whose vb has va's format. -/
def useArith (x : Vec) (t : Trig) (vd va vb : BitVec 4) (m : BitVec 3) : VUse :=
  { trig := t, mask := m, writes := [vd],
    reads := [⟨va, tagPlain (x.tagOf va) && (isF (x.fmt va) || isI (x.fmt va)), true⟩,
              ⟨vb, tagPlain (x.tagOf vb) && x.fmt vb = x.fmt va, true⟩] }

/-- VADD, VSUB, VMUL, VMIN, VMAX (R218). -/
def execArith (ff : FloatFmt → Nat → Nat → Nat → Res) (fi : Nat → Bool → Int → Int → Int → Res)
    (t : Trig) (vd va vb : BitVec 4) (m : BitVec 3) (s : State) : Host.Outcome State Fault Refusal :=
  let x := s.vec
  let c := x.fmt va
  let (r, f) := maskLanes (x.mask m) (fmtWidth c) (fmtWidth c) (x.reg vd) (x.zipLanes c va vb vd (arith c ff fi))
  execV (useArith x t vd va vb m) (vlat c) (vLanding vd r (fmtTag c) false f) s

/-- Words that move or combine bits of any format (R215, R218, R227): va of any tag, vb unchecked or as
`bok` says; the result has va's tag. -/
def execBits (reads : List VOpnd) (f : Vec → BitVec 4 → List Res) (t : Trig) (vd va : BitVec 4) (m : BitVec 3)
    (poison : Bool) (s : State) : Host.Outcome State Fault Refusal :=
  let x := s.vec
  let w := fmtWidth (x.fmt va)
  let (r, _) := maskLanes (x.mask m) w w (x.reg vd) (f x (x.fmt va))
  execV { trig := t, mask := m, writes := [vd], reads := reads } 2 (vLanding vd r (x.tagOf va) poison 0) s

/-- VMOV (R218): copies va's bits, tag and poison; not a use. -/
def execVmov (t : Trig) (vd va : BitVec 4) (m : BitVec 3) (s : State) : Host.Outcome State Fault Refusal :=
  execBits [⟨va, true, false⟩] (fun x c => (lanes c (x.reg va)).map (fun a => ⟨a, 0⟩)) t vd va m (s.vec.bad va) s

/-- VADD (R218). -/
def execVadd (t : Trig) (vd va vb : BitVec 4) (m : BitVec 3) (s : State) : Host.Outcome State Fault Refusal :=
  execArith (fun f a b _ => fAdd f a b) (fun w _ a b _ => intRes w (a + b)) t vd va vb m s

/-- VSUB (R218). -/
def execVsub (t : Trig) (vd va vb : BitVec 4) (m : BitVec 3) (s : State) : Host.Outcome State Fault Refusal :=
  execArith (fun f a b _ => fSub f a b) (fun w _ a b _ => intRes w (a - b)) t vd va vb m s

/-- VMUL (R218). -/
def execVmul (t : Trig) (vd va vb : BitVec 4) (m : BitVec 3) (s : State) : Host.Outcome State Fault Refusal :=
  execArith (fun f a b _ => fMul f a b) (fun w _ a b _ => intRes w (a * b)) t vd va vb m s

/-- VMIN (R218). -/
def execVmin (t : Trig) (vd va vb : BitVec 4) (m : BitVec 3) (s : State) : Host.Outcome State Fault Refusal :=
  execArith (fun f a b _ => fMin f a b) (fun w _ a b _ => intRes w (min a b)) t vd va vb m s

/-- VMAX (R218). -/
def execVmax (t : Trig) (vd va vb : BitVec 4) (m : BitVec 3) (s : State) : Host.Outcome State Fault Refusal :=
  execArith (fun f a b _ => fMax f a b) (fun w _ a b _ => intRes w (max a b)) t vd va vb m s

/-- VFMA (R218): vd is the addend, one rounding; its format equals va's. -/
def execVfma (t : Trig) (vd va vb : BitVec 4) (m : BitVec 3) (s : State) : Host.Outcome State Fault Refusal :=
  let x := s.vec
  let c := x.fmt va
  let g := arith c (fun f a b d => fMac f a b d) (fun w _ a b d => intRes w (a * b + d))
  let (r, f) := maskLanes (x.mask m) (fmtWidth c) (fmtWidth c) (x.reg vd) (x.zipLanes c va vb vd g)
  let v := useArith x t vd va vb m
  execV { v with reads := v.reads ++ [⟨vd, tagPlain (x.tagOf vd) && x.fmt vd = c, true⟩] } (vlat c)
    (vLanding vd r (fmtTag c) false f) s

/-- VABS on one lane (R218). -/
def absLane (c : BitVec 4) (a : Nat) : Res :=
  match floatOf? c with
  | some f => if (f.decode a).isNaN then ⟨f.nanBits, 0⟩ else ⟨a % 2 ^ (f.width - 1), 0⟩
  | none => match intOf? c with
    | some (w, sg) =>
        let (y, k) := clampInt (intMin w sg) (intMax w sg) (intVal w sg a).natAbs
        ⟨intBits w y, flagIf k flagSAT⟩
    | none => ⟨0, 0⟩

/-- Words of one operand whose result has va's fmt. -/
def execUnary (ok : BitVec 4 → Bool) (lat : BitVec 4 → Nat) (g : BitVec 4 → Nat → Res) (t : Trig)
    (vd va : BitVec 4) (m : BitVec 3) (s : State) : Host.Outcome State Fault Refusal :=
  let x := s.vec
  let c := x.fmt va
  let (r, f) := maskLanes (x.mask m) (fmtWidth c) (fmtWidth c) (x.reg vd) ((lanes c (x.reg va)).map (g c))
  execV { trig := t, mask := m, writes := [vd], reads := [⟨va, tagPlain (x.tagOf va) && ok c, true⟩] } (lat c)
    (vLanding vd r (fmtTag c) false f) s

/-- VABS (R215, R218). -/
def execVabs (t : Trig) (vd va : BitVec 4) (m : BitVec 3) (s : State) : Host.Outcome State Fault Refusal :=
  execUnary (fun c => isF c || c = 8 || c = 9 || c = 10) vlat absLane t vd va m s

/-- VAND (R218): vb's tag is not checked. -/
def execVand (t : Trig) (vd va vb : BitVec 4) (m : BitVec 3) (s : State) : Host.Outcome State Fault Refusal :=
  execBits [⟨va, true, true⟩, ⟨vb, true, true⟩] (fun x c => x.zipLanes c va vb vd (fun a b _ => ⟨a &&& b, 0⟩)) t vd va m
    false s

/-- VOR (R218): vb's tag is not checked. -/
def execVor (t : Trig) (vd va vb : BitVec 4) (m : BitVec 3) (s : State) : Host.Outcome State Fault Refusal :=
  execBits [⟨va, true, true⟩, ⟨vb, true, true⟩] (fun x c => x.zipLanes c va vb vd (fun a b _ => ⟨a ||| b, 0⟩)) t vd va m
    false s

/-- VXOR (R218): vb's tag is not checked. -/
def execVxor (t : Trig) (vd va vb : BitVec 4) (m : BitVec 3) (s : State) : Host.Outcome State Fault Refusal :=
  execBits [⟨va, true, true⟩, ⟨vb, true, true⟩] (fun x c => x.zipLanes c va vb vd (fun a b _ => ⟨a ^^^ b, 0⟩)) t vd va m
    false s

/-- A shift of lanes by lanes (R218): vb is read unsigned in va's width, whatever its tag. -/
def execShiftV (g : Nat → Bool → Nat → Nat → Nat) (t : Trig) (vd va vb : BitVec 4) (m : BitVec 3) (s : State) : Host.Outcome State Fault Refusal :=
  let x := s.vec
  let c := x.fmt va
  let h (a b _d : Nat) : Res := match intOf? c with
    | some (w, sg) => ⟨g w sg a b, 0⟩
    | none => ⟨0, 0⟩
  let (r, f) := maskLanes (x.mask m) (fmtWidth c) (fmtWidth c) (x.reg vd) (x.zipLanes c va vb vd h)
  execV { trig := t, mask := m, writes := [vd],
          reads := [⟨va, tagPlain (x.tagOf va) && isI c, true⟩, ⟨vb, true, true⟩] } 2
    (vLanding vd r (fmtTag c) false f) s

/-- VSHL (R218): a count of the width or more gives 0. -/
def execVshl (t : Trig) (vd va vb : BitVec 4) (m : BitVec 3) (s : State) : Host.Outcome State Fault Refusal :=
  execShiftV (fun w _ a b => if w ≤ b then 0 else a * 2 ^ b % 2 ^ w) t vd va vb m s

/-- VSHR (R218): arithmetic on INT formats, logical on UINT8. -/
def execVshr (t : Trig) (vd va vb : BitVec 4) (m : BitVec 3) (s : State) : Host.Outcome State Fault Refusal :=
  execShiftV (fun w sg a b => intBits w (intVal w sg a / (2 ^ min b w : Nat))) t vd va vb m s

/-- VQSHR's lane (R219): a rounding shift clamped to the INT8 range. -/
def qshrLane (sh : Nat) (c : BitVec 4) (a : Nat) : Res :=
  let w := fmtWidth c
  let v := intVal w true a
  let y := if sh = 0 then v else (v + (2 ^ (sh - 1) : Nat)) / (2 ^ sh : Nat)
  let (z, k) := clampInt (-128) 127 y
  ⟨intBits w z, flagIf k flagSAT⟩

/-- VQSHR (R219). -/
def execVqshr (t : Trig) (vd va : BitVec 4) (m : BitVec 3) (sh : BitVec 5) (s : State) : Host.Outcome State Fault Refusal :=
  execUnary (fun c => c = 8 || c = 9) (fun _ => 2) (qshrLane sh.toNat) t vd va m s

/-- VNARROW (R221): the target is narrower; the bits above the result lanes are zeroed. -/
def execVnarrow (t : Trig) (vd va : BitVec 4) (round : BitVec 2) (m : BitVec 3) (fmt : BitVec 4) (sat : Bool)
    (s : State) : Host.Outcome State Fault Refusal :=
  let x := s.vec
  let c := x.fmt va
  let (r, f) := maskLanes (x.mask m) (fmtWidth c) (fmtWidth fmt) (x.reg vd)
    ((lanes c (x.reg va)).map (convert c fmt round sat))
  execV { trig := t, mask := m, writes := [vd],
          reads := [⟨va, tagPlain (x.tagOf va) && c ≠ 0 && fmtWidth fmt < fmtWidth c, true⟩] } 3
    (vLanding vd r (fmtTag fmt) false f) s

/-- VWIDEN (R222): the lower half of the lanes to vd, the upper half to vd + 1, under the source's mask. -/
def execVwiden (t : Trig) (vp : BitVec 3) (va : BitVec 4) (m : BitVec 3) (fmt : BitVec 4) (s : State) : Host.Outcome State Fault Refusal :=
  let x := s.vec
  let c := x.fmt va
  let vd : BitVec 4 := vp ++ 0#1
  let ve : BitVec 4 := vp ++ 1#1
  let rs := (lanes c (x.reg va)).map (convert c fmt 0 false)
  let h := rs.length / 2
  -- the upper half sees the mask bits of its source lanes
  let up := if fmtWidth c = 4 then x.mask m >>> (h / 2) else x.mask m >>> h
  let (r0, f0) := maskLanes (x.mask m) (fmtWidth c) (fmtWidth fmt) (x.reg vd) (rs.take h)
  let (r1, f1) := maskLanes up (fmtWidth c) (fmtWidth fmt) (x.reg ve) (rs.drop h)
  let tg := fmtTag fmt
  execV { trig := t, mask := m, writes := [vd, ve],
          reads := [⟨va, tagPlain (x.tagOf va) && c ≠ 0 && fmtWidth fmt = 2 * fmtWidth c, true⟩] } 3
    { vregs := [(vd, r0, refin tg [r0], false), (ve, r1, refin tg [r1], false)], flags := f0 ||| f1 } s

/-- VWMAC's accumulator format and register count (R223). -/
def wmacShape (c : BitVec 4) : Option (BitVec 4 × Nat) :=
  if c = 10 || c = 11 then some (8, 4)
  else if c = 9 then some (8, 2)
  else if c = 3 || c = 4 then some (2, 2)
  else none

/-- Which second formats pair with the first. -/
def wmacPair (a b : BitVec 4) : Bool :=
  ((a = 10 || a = 11) && (b = 10 || b = 11)) || ((a = 9 || a = 3 || a = 4) && b = a)

/-- VWMAC's lane: IntAcc (R68), or one rounding to FP32. -/
def wmacLane (isat : Bool) (ca cb : BitVec 4) (a b acc : Nat) : Res :=
  match floatOf? ca with
  | some f =>
      let (p, pf) := (f.decode a).mul ((floatOf? cb).getD f |>.decode b)
      let (v, vf) := p.add (fp32.decode acc)
      let r := roundTo fp32 0 false v
      ⟨r.bits, r.flags ||| pf ||| vf⟩
  | none =>
    match intOf? ca, intOf? cb with
    | some (w, sg), some (w', sg') =>
        let (y, f) := intAcc isat acc (intVal w sg a * intVal w' sg' b)
        ⟨y, f⟩
    | _, _ => ⟨0, 0⟩

/-- VWMAC (R223). -/
def execVwmac (t : Trig) (vp : BitVec 3) (va vb : BitVec 4) (m : BitVec 3) (s : State) : Host.Outcome State Fault Refusal :=
  let x := s.vec
  let ca := x.fmt va
  let cb := x.fmt vb
  let vd : BitVec 4 := vp ++ 0#1
  let (cacc, k) := (wmacShape ca).getD (8, 2)
  let accs : List (BitVec 4) := ((List.range k).filter (fun i => vd.toNat + i < 16)).map (fun i => vd + BitVec.ofNat 4 i)
  let pairs := (lanes ca (x.reg va)).zip (lanes cb (x.reg vb))
  let isat := s.isat s.site.unit.region
  let part (i : Nat) (r : BitVec 4) : Row × Flags :=
    let ps := (pairs.drop (16 * i)).take 16
    maskLanes (x.mask m >>> (16 * i)) 32 32 (x.reg r)
      (ps.zipIdx.map (fun ((a, b), j) => wmacLane isat ca cb a b (elem 32 (x.reg r).toNat j)))
  let outs := accs.zipIdx.map (fun (r, i) => (r, part i r))
  let accOk (r : BitVec 4) : Bool := tagPlain (x.tagOf r) && (x.fmt r = 0 || x.fmt r = cacc)
  execV { trig := t, mask := m, writes := accs,
          reads := [⟨va, tagPlain (x.tagOf va) && (wmacShape ca).isSome, true⟩,
                    ⟨vb, tagPlain (x.tagOf vb) && wmacPair ca cb, true⟩] ++
            accs.map (fun r => ⟨r, accOk r && (k = 2 || vd.toNat % 4 = 0), true⟩) } 4
    { vregs := outs.map (fun (r, y, _) => (r, y, refin (fmtTag cacc) [y], false)),
      flags := outs.foldl (fun f (_, _, g) => f ||| g) 0 } s

/-! ## Comparing, selecting, reducing (R224-R226) -/

/-- Bits of a list as a word, the first lowest. -/
def bitsWord : List Bool → Nat
  | [] => 0
  | b :: bs => b.toNat + 2 * bitsWord bs

/-- A compare into a mask (R224): masked lanes and bits above give 0. -/
def execVcmp (ff : FloatFmt → Nat → Nat → Bool) (fi : Int → Int → Bool) (t : Trig) (mk : BitVec 3)
    (va vb : BitVec 4) (m : BitVec 3) (s : State) : Host.Outcome State Fault Refusal :=
  let x := s.vec
  let c := x.fmt va
  let w := fmtWidth c
  let test (a b : Nat) : Bool := match floatOf? c with
    | some f => ff f a b
    | none => match intOf? c with
      | some (w, sg) => fi (intVal w sg a) (intVal w sg b)
      | none => false
  let bs := ((lanes c (x.reg va)).zip (lanes c (x.reg vb))).zipIdx.map
    (fun ((a, b), j) => laneOn (x.mask m) w j && test a b)
  execV { useArith x t 0 va vb m with writes := [], wmask := some mk } (vlat c)
    { vmask := some (mk, BitVec.ofNat 64 (bitsWord bs)) } s

/-- VCMPEQ (R224). -/
def execVcmpeq (t : Trig) (mk : BitVec 3) (va vb : BitVec 4) (m : BitVec 3) (s : State) : Host.Outcome State Fault Refusal :=
  execVcmp fCeq (fun a b => a = b) t mk va vb m s

/-- VCMPLT (R224). -/
def execVcmplt (t : Trig) (mk : BitVec 3) (va vb : BitVec 4) (m : BitVec 3) (s : State) : Host.Outcome State Fault Refusal :=
  execVcmp fClt (fun a b => a < b) t mk va vb m s

/-- VCMPLE (R224). -/
def execVcmple (t : Trig) (mk : BitVec 3) (va vb : BitVec 4) (m : BitVec 3) (s : State) : Host.Outcome State Fault Refusal :=
  execVcmp fCle (fun a b => a ≤ b) t mk va vb m s

/-- VSEL (R225): the mask selects va's lane or vb's; there is no other masking. -/
def execVsel (t : Trig) (vd va vb : BitVec 4) (m : BitVec 3) (s : State) : Host.Outcome State Fault Refusal :=
  let x := s.vec
  let c := x.fmt va
  let (r, _) := maskLanes (x.mask m) (fmtWidth c) (fmtWidth c) (x.reg vb) ((lanes c (x.reg va)).map (fun a => ⟨a, 0⟩))
  execV { trig := t, mask := m, writes := [vd],
          reads := [⟨va, true, true⟩, ⟨vb, tagSame (x.tagOf va) (x.tagOf vb), true⟩] } 2
    (vLanding vd r (x.tagOf va) false 0) s

/-- One round of the pairwise tree (R226). -/
def pairUp (g : Nat → Nat → Res) : List Nat → List Res
  | a :: b :: l => g a b :: pairUp g l
  | _ => []

/-- The pairwise tree over lanes, with the flags of every node. -/
def reduceTree (g : Nat → Nat → Res) : Nat → List Nat → Flags → Nat × Flags
  | 0, l, f => (l.headD 0, f)
  | n + 1, l, f =>
      match l with
      | [] => (0, f)
      | [a] => (a, f)
      | l =>
        let rs := pairUp g l
        reduceTree g n (rs.map Res.bits) (rs.foldl (fun f r => f ||| r.flags) f)

/-- A reduction: masked lanes are the identity, the result stands in lane 0 (R226). -/
def execReduce (ok : BitVec 4 → Bool) (ident : BitVec 4 → Nat) (ff : FloatFmt → Nat → Nat → Nat → Res)
    (fi : Nat → Bool → Int → Int → Int → Res) (t : Trig) (vd va : BitVec 4) (m : BitVec 3) (s : State) : Host.Outcome State Fault Refusal :=
  let x := s.vec
  let c := x.fmt va
  let w := fmtWidth c
  let l := (lanes c (x.reg va)).zipIdx.map (fun (a, j) => if laneOn (x.mask m) w j then a else ident c)
  let (r, f) := reduceTree (fun a b => arith c ff fi a b 0) 7 l 0
  execV { trig := t, mask := m, writes := [vd], reads := [⟨va, tagPlain (x.tagOf va) && ok c, true⟩] } 8
    (vLanding vd (BitVec.ofNat 512 (r % 2 ^ w)) (fmtTag c) false f) s

/-- VREDADD (R226). -/
def execVredadd (t : Trig) (vd va : BitVec 4) (m : BitVec 3) (s : State) : Host.Outcome State Fault Refusal :=
  execReduce (fun c => isF c || c = 8 || c = 9) (fun _ => 0) (fun f a b _ => fAdd f a b)
    (fun w _ a b _ => intRes w (a + b)) t vd va m s

/-- The identity of VREDMAX: −∞, or the format's minimum. -/
def maxIdent (c : BitVec 4) : Nat :=
  match floatOf? c with
  | some f => f.infBits true
  | none => match intOf? c with
    | some (w, sg) => intBits w (intMin w sg)
    | none => 0

/-- The greater of two integers whose patterns of width w are read signed. -/
def signedMax (w : Nat) (a b : Int) : Int := if intVal w true (intBits w a) < intVal w true (intBits w b) then b else a

/-- VREDMAX (R226): on integers the signed maximum, on UINT8 too. -/
def execVredmax (t : Trig) (vd va : BitVec 4) (m : BitVec 3) (s : State) : Host.Outcome State Fault Refusal :=
  execReduce (fun c => isF c || isI c) maxIdent (fun f a b _ => fMax f a b) (fun w _ a b _ => intRes w (signedMax w a b))
    t vd va m s

/-! ## Moving lanes (R227) -/

/-- VBCAST. -/
def execVbcast (t : Trig) (vd va : BitVec 4) (m : BitVec 3) (i : BitVec 5) (s : State) : Host.Outcome State Fault Refusal :=
  execBits [⟨va, true, true⟩] (fun x c =>
    let l := lanes c (x.reg va)
    l.map (fun _ => ⟨l.getD (i.toNat % l.length) 0, 0⟩)) t vd va m false s

/-- VSHUF: vb's lanes are indexes read unsigned in va's width. -/
def execVshuf (t : Trig) (vd va vb : BitVec 4) (m : BitVec 3) (s : State) : Host.Outcome State Fault Refusal :=
  execBits [⟨va, true, true⟩, ⟨vb, true, true⟩] (fun x c =>
    let l := lanes c (x.reg va)
    (lanes c (x.reg vb)).map (fun u => ⟨l.getD (u % l.length) 0, 0⟩)) t vd va m false s

/-- VSLIDE: lanes of va from s mod n, then of vb; the fmt fields are equal (R215). -/
def execVslide (t : Trig) (vd va vb : BitVec 4) (m : BitVec 3) (sh : BitVec 5) (s : State) : Host.Outcome State Fault Refusal :=
  execBits [⟨va, true, true⟩, ⟨vb, decide (s.vec.fmt va = s.vec.fmt vb), true⟩] (fun x c =>
    let l := lanes c (x.reg va)
    let k := sh.toNat % l.length
    ((l ++ lanes c (x.reg vb)).drop k).take l.length |>.map (fun a => ⟨a, 0⟩)) t vd va m false s

/-! ## Correctly rounded functions (R228) -/

/-- A function on float lanes. -/
def floatLane (g : FloatFmt → Nat → Res) (c : BitVec 4) (a : Nat) : Res :=
  match floatOf? c with
  | some f => g f a
  | none => ⟨0, 0⟩


/-- VEXP2 (R228). -/
def execVexp2 (t : Trig) (vd va : BitVec 4) (m : BitVec 3) (s : State) : Host.Outcome State Fault Refusal :=
  execUnary (fun c => c = 2 || c = 3 || c = 4) (fun _ => 12) (floatLane fExp2) t vd va m s

/-- VRCP (R228). -/
def execVrcp (t : Trig) (vd va : BitVec 4) (m : BitVec 3) (s : State) : Host.Outcome State Fault Refusal :=
  execUnary (fun c => c = 2 || c = 3 || c = 4) (fun _ => 12) (floatLane fRcp) t vd va m s

/-- VRSQ (R228). -/
def execVrsq (t : Trig) (vd va : BitVec 4) (m : BitVec 3) (s : State) : Host.Outcome State Fault Refusal :=
  execUnary (fun c => c = 2 || c = 3 || c = 4) (fun _ => 12) (floatLane fRsq) t vd va m s

/-! ## Tags and predicates (R229, R230) -/

/-- VTAG's gate: a combination that R62 forbids is FORMAT_MISMATCH; it reads no data. -/
def State.gateVtag (s : State) (t : Trig) (vd fmt : BitVec 4) (grp : BitVec 2) (side : Bool) : Gate :=
  match s.gateV { trig := t, writes := [vd] } with
  | .go l => if tagLegal fmt grp side then .go l else .raises ⟨cFORMAT, none, 0⟩
  | g => g

/-- VTAG (R229): the tag changes, bits and poison stay. -/
def execVtag (t : Trig) (vd fmt : BitVec 4) (grp : BitVec 2) (_bit1 : Bool) (side : Bool) (s : State) : Host.Outcome State Fault Refusal :=
  let x := s.vec
  match s.gateVtag t vd fmt grp side with
  | .wait => .next s
  | .raises e => .next (s.issueFault t.ctx e)
  | .go _ =>
      .next ((s.issueV { trig := t, writes := [vd] }).fly s.site.unit s.ticket t.ctx s.site.slot 2
        (vLanding vd (x.reg vd) (mkTag fmt grp side false) (x.bad vd) 0))

/-- VSETP (R230): at issue, after the guard's step. -/
def execVsetp (t : Trig) (j : BitVec 3) (s : State) : Host.Outcome State Fault Refusal :=
  match s.gateV { trig := t } with
  | .wait => .next s
  | .raises e => .next (s.issueFault t.ctx e)
  | .go _ =>
      .next (((s.issueV { trig := t }).modUnit s.site.unit (fun x =>
        x.modCtx t.ctx.toNat (fun c => { c with p := setBit c.p j.toNat true }))).fly
          s.site.unit s.ticket t.ctx s.site.slot 1 {})

/-! ## Rings (R231, R232) -/

/-- VLDR's gate: the head slot is FULL (R212). -/
def State.gateVldr (s : State) (t : Trig) (vd ring : BitVec 4) : Gate :=
  match s.ring? s.site.unit.cellId ring.toNat with
  | some g => if g.headSlot.st = .full then s.gateV { trig := t, writes := [vd] } else .wait
  | none => .wait

/-- VLDR's change of the ring: the cursor moves; row 31 pops if asked (R231). -/
def Ring.readRow (g : Ring) (pop : Bool) : Ring :=
  if g.rd = 31 then { (if pop then g.pop else g) with rd := 0 } else { g with rd := g.rd + 1 }

/-- VLDR (R231): the head slot's row, as the slot stands at issue; its write-back waits a cycle for each arbitration its
bank loses (R214, R292). -/
def execVldr (t : Trig) (vd ring : BitVec 4) (pop : Bool) (s : State) : Host.Outcome State Fault Refusal :=
  match s.gateVldr t vd ring with
  | .wait => .next s
  | .raises e => .next (s.issueFault t.ctx e)
  | .go _ =>
    let c := s.site.unit.cellId
    match s.ring? c ring.toNat with
    | none => .next s
    | some g =>
      let a := ringAddr c g g.head g.rd
      let s1 := (s.issueV { trig := t, writes := [vd] }).setRing c ring.toNat (g.readRow pop)
      .next (s1.fly s.site.unit s.ticket t.ctx s.site.slot 3
        { vLanding vd (s.mem.row a) g.headSlot.tag (s.mem.rowPoisoned a) 0 with reads := [a] })

/-- VSTR's gate: the node holds a CLAIMED slot, or the tail slot is EMPTY; va has the ring's tag. -/
def State.gateVstr (s : State) (t : Trig) (va ring : BitVec 4) : Gate :=
  match s.ring? s.site.unit.cellId ring.toNat with
  | some g =>
      if (g.claimed .vector).isSome || g.tailSlot.st = .empty then
        s.gateV { trig := t, reads := [⟨va, tagSame (s.vec.tagOf va) g.decl, false⟩] }
      else .wait
  | none => .wait

/-- VSTR's change of the ring, and the slot it writes: a claim where it holds none, the cursor moves; `commit` tells
that row 31 commits the slot. -/
def Ring.writeRow (g : Ring) (commit : Bool) : Nat × Ring :=
  let (slot, g1) := match g.claimed .vector with
    | some i => (i, g)
    | none => (g.tail, g.claim .vector)
  -- a commit hands the slot to its write-back; the node no longer holds it
  let g2 := if commit then g1.setSlot slot { g1.slotOf slot with by_ := .nobody } else g1
  (slot, { g2 with wr := if g.wr = 31 then 0 else g.wr + 1 })

/-- VSTR (R232): the row is written, and after row 31 the slot committed, one cycle after issue. -/
def execVstr (t : Trig) (va ring : BitVec 4) (commit : Bool) (s : State) : Host.Outcome State Fault Refusal :=
  match s.gateVstr t va ring with
  | .wait => .next s
  | .raises e => .next (s.issueFault t.ctx e)
  | .go _ =>
    let c := s.site.unit.cellId
    match s.ring? c ring.toNat with
    | none => .next s
    | some g =>
      let last := commit && g.wr = 31
      let (slot, g1) := g.writeRow last
      .next (((s.issueV { trig := t, reads := [⟨va, true, false⟩] }).setRing c ring.toNat g1).fly
        s.site.unit s.ticket t.ctx s.site.slot 1
        { rows := [⟨ring.toNat, slot, g.wr, s.vec.reg va, s.vec.bad va, last⟩] })

/-! ## Channels (R234, R235) -/

/-- VLDS's gate: a DATA or DONE head of the bound cfgtag; no other VLDS takes from the input. -/
def State.gateVlds (s : State) (t : Trig) (vd : BitVec 4) (i : BitVec 2) : Gate :=
  let u := s.site.unit
  if (s.unit u).vec.loads.any (fun l => l.inp = i.toNat) then .wait
  else match s.gateV { trig := t, writes := [vd] } with
    | .go _ => match s.readSrc u t.ctx (.take (i.setWidth 3)) with
      | none => .wait
      | some o => match o.check { use := false } with
        | some f => .raises f
        | none => .go [o]
    | g => g

/-- VLDS (R234): takes its first token at issue. -/
def execVlds (t : Trig) (vd : BitVec 4) (i : BitVec 2) (s : State) : Host.Outcome State Fault Refusal :=
  match s.gateVlds t vd i with
  | .wait => .next s
  | .raises e => .next (s.issueFault t.ctx e)
  | .go [o] =>
      let u := s.site.unit
      .next (((s.issueV { trig := t, writes := [vd] }).dequeue u i.toNat).modUnit u (fun x =>
        { x with vec := { x.vec with loads := x.vec.loads ++
            [⟨t.ctx.toNat, s.site.slot, i.toNat, vd, [o.val], o.poison, s.ticket⟩] } }))
  | .go _ => .next s

/-- VSTS's gate: room for one token, and no earlier VSTS to the output still placing. -/
def State.gateVsts (s : State) (t : Trig) (va : BitVec 4) (o : BitVec 2) : Gate :=
  let u := s.site.unit
  if (s.unit u).vec.sends.any (fun l => l.out = o.toNat) || !s.outRoom u o.toNat then .wait
  else s.gateV { trig := t, reads := [⟨va, true, false⟩] }

/-- The eight words of a row, lowest first. -/
def rowWords (r : Row) : List Word := (List.range 8).map (fun k => r.extractLsb' (64 * k) 64)

/-- VSTS (R235): reads va at issue; its tokens are placed from the next cycle. -/
def execVsts (t : Trig) (va : BitVec 4) (o : BitVec 2) (s : State) : Host.Outcome State Fault Refusal :=
  match s.gateVsts t va o with
  | .wait => .next s
  | .raises e => .next (s.issueFault t.ctx e)
  | .go _ =>
      let u := s.site.unit
      .next ((s.issueV { trig := t, reads := [⟨va, true, false⟩] }).modUnit u (fun x =>
        { x with vec := { x.vec with sends := x.vec.sends ++
            [⟨t.ctx.toNat, o.toNat, rowWords (s.vec.reg va), s.vec.bad va, s.cyc + 1, s.ticket⟩] } }))

end Sys2Proof.Machine
end

