-- ==== Sys2Proof/Machine/Landing.lean ====
section
/-! DEFINITION. What happens to words after they issue, and how tokens reach inputs: write-back, multi-token
placement, vector streams, arrival (spec/05 R96, spec/16 R318, spec/12 R234, R235, spec/06 R109, spec/08 R133-R137). -/

namespace Sys2Proof.Machine

/-- The addresses of the rows a landing writes (R232). -/
def State.landAddrs (s : State) (c : CellId) (l : Landing) : List Nat :=
  l.rows.filterMap (fun w => (s.ring? c w.ring).map (fun g => ringAddr c g w.slot w.row))

/-- Postpone a flight by a cycle, its bank lost (R292). -/
def EUnit.postpone (x : EUnit) (tick : Nat) : EUnit :=
  { x with flights := x.flights.map (fun f => if f.tick = tick then { f with due := f.due + 1 } else f) }

/-- The earliest word whose latency has run out. -/
def EUnit.dueFlight (x : EUnit) (cyc : Nat) : Option Flight := x.flights.find? (fun f => f.due ≤ cyc)

/-- Do rows of an earlier word wait for the rings that a word writes: a slot's rows are written in order (R232)? -/
def EUnit.rowsBehind (x : EUnit) (f : Flight) : Bool :=
  x.flights.any (fun g => g.tick < f.tick && g.land.rows.any (fun w => f.land.rows.any (fun v => v.ring = w.ring)))

/-- WRITE_BACK (R96): ring rows once their banks serve the node, each lost arbitration a cycle later (R214, R292). -/
def execWriteBack (u : UnitId) (s : State) : Host.Outcome State Fault Refusal :=
  match (s.unit u).dueFlight s.cyc with
  | none => .next s
  | some f =>
    let rows := s.landAddrs u.cellId f.land
    if (s.unit u).rowsBehind f then .next (s.modUnit u (fun x => x.postpone f.tick))
    else if f.land.reads.all (fun a => s.bankServes a 1) && rows.all (fun a => s.bankServes a 2) then
      let s1 := ((s.takeBanks f.land.reads 1).takeBanks rows 2).modUnit u (fun x =>
        { x with flights := x.flights.filter (fun g => g.tick ≠ f.tick) })
      .next (s1.land u f)
    else .next (((s.banksLost f.land.reads 1).banksLost rows 2).modUnit u (fun x => x.postpone f.tick))

/-- The next token of a multi-token firing and what remains; none where only the finish remains. -/
def MultiSrc.next? (m : MultiSrc) (tag : Byte) : Option ((Nat × Tok) × MultiSrc) :=
  match m with
  | .toks [] => none
  | .toks (t :: ts) => some (t, .toks ts)
  | .gen b st k n =>
      if k < n then
        some ((0, { data := b + BitVec.ofNat 64 k * st, tag := tag, last := k + 1 = n }), .gen b st (k + 1) n)
      else none

/-- Has a source no further token? -/
def MultiSrc.done : MultiSrc → Bool
  | .toks l => l.isEmpty
  | .gen _ _ k n => n ≤ k

/-- After a token has been placed: with the last token the firing lands; a MARK that follows is held first. -/
def State.multiAfter (s : State) (u : UnitId) (m : Multi) (src : MultiSrc) (mark : Option Nat) : State :=
  let f : Flight := ⟨m.tick, m.due, m.ctx, m.slot, m.finish⟩
  let more : Option Multi := some { m with due := s.cyc + 1, src := src, reserved := false, mark := mark }
  if src.done then
    let s := (s.modUnit u (fun x => { x with multi := none })).land u f
    match mark with
    | some _ => s.modUnit u (fun x =>
        { x with multi := some { m with due := s.cyc + 1, src := .toks [], reserved := false, finish := {}, mark := mark } })
    | none => s
  else s.modUnit u (fun x => { x with multi := more })

/-- Place one token of a firing; a MARK follows where it ends a pass. -/
def State.multiPlace (s : State) (u : UnitId) (m : Multi) (o : Nat) (t : Tok) (src : MultiSrc) : State :=
  (s.place u o m.tick t).multiAfter u m src (if t.kind = 0 && s.passEnds u o then some o else none)

/-- Place the first rotation MARK that is owed, once its output has room (R318, R382). -/
def State.placeOwed (s : State) (u : UnitId) : State :=
  match (s.unit u).marks with
  | [] => s
  | (due, tick, o) :: ms =>
      if s.cyc < due || !s.outRoom u o then s else (s.placeMark u o tick).modUnit u (fun x => { x with marks := ms })

/-- MULTI_TOKEN_PLACE (R318, R382). -/
def execMultiTokenPlace (u : UnitId) (s : State) : Host.Outcome State Fault Refusal :=
  match (s.unit u).multi with
  | none => .next (s.placeOwed u)
  | some m =>
    if s.cyc < m.due then .next s
    else
      let tag := (s.region u.region).tag
      match m.mark with
      | some o =>
          if !s.outRoom u o then .next s
          else if m.src.done then .next ((s.placeMark u o m.tick).modUnit u (fun x => { x with multi := none }))
          else .next ((s.placeMark u o m.tick).modUnit u (fun x =>
            { x with multi := some { m with due := s.cyc + 1, mark := none } }))
      | none =>
        match m.src.next? tag with
        | none => .next ((s.modUnit u (fun x => { x with multi := none })).land u ⟨m.tick, m.due, m.ctx, m.slot, m.finish⟩)
        | some ((o, t), src) =>
            if m.reserved then .next (s.multiPlace u m o t src)
            else if s.outRoom u o then .next ((s.reserve u o m.tick).multiPlace u m o t src)
            else .next s

/-! ## Vector streams (R234, R235) -/

/-- Drop a VLDS whose stream met a MARK: its register keeps its value. -/
def Vec.dropLoad (x : Vec) (l : VLoad) : Vec :=
  { x with loads := x.loads.filter (fun m => m.inp ≠ l.inp), pendV := setBit x.pendV l.vd.toNat false }

/-- The row of eight words, lowest first. -/
def wordsRow (ws : List Word) : Row := BitVec.ofNat 512 (ws.foldr (fun w n => w.toNat + 2 ^ 64 * n) 0)

/-- What a VLDS lands with: fmt, grp and side kept, fin recomputed, poison of any token. -/
def vldsLanding (x : Vec) (l : VLoad) (ws : List Word) (p : Bool) : Landing :=
  let r := wordsRow ws
  { vregs := [(l.vd, r, refin (x.tag.get l.vd.toFin) [r], p)] }

/-- VLDS_TOKEN_TAKE (R234). -/
def execVldsTokenTake (u : UnitId) (i : Nat) (s : State) : Host.Outcome State Fault Refusal :=
  let x := s.unit u
  match x.vec.loads.find? (fun l => l.inp = i), s.head? u i with
  | some l, some t =>
    if (s.region u.region).frozen.isSome || t.tag ≠ (s.region u.region).tag then .next s
    else if t.kind = 2 || t.kind = 3 then
      .next ((s.modUnit u (fun x => { x with vec := x.vec.dropLoad l })).recordFaultOf u l.tick cCHANNEL l.slot l.ctx
        (some i) t.sideband 0)
    else
      let s1 := s.dequeue u i
      let got := l.got ++ [t.data]
      let p := l.poison || t.poison
      if got.length = 8 then
        let tick := s1.ticket
        .next (State.modUnit { s1 with ticket := tick + 1 } u (fun x => { x with
          vec := { x.vec with loads := x.vec.loads.filter (fun m => m.inp ≠ i) },
          flights := x.flights ++ [⟨tick, s.cyc + 1, l.ctx, l.slot, vldsLanding x.vec l got p⟩] }))
      else
        .next (s1.modUnit u (fun x => { x with vec := { x.vec with
          loads := x.vec.loads.map (fun m => if m.inp = i then { m with got := got, poison := p } else m) } }))
  | _, _ => .next s

/-- VSTS_TOKEN_PLACE (R235): each token as soon as the output has room. -/
def execVstsTokenPlace (u : UnitId) (o : Nat) (s : State) : Host.Outcome State Fault Refusal :=
  let x := s.unit u
  match x.vec.sends.find? (fun l => l.out = o) with
  | none => .next s
  | some l =>
    match l.left with
    | [] => .next s
    | w :: ws =>
      if s.cyc < l.due || (s.region u.region).frozen.isSome || x.marks.any (fun m => m.2.2 = o) || !s.outRoom u o then .next s
      else
        let tick := s.ticket
        let hit := if s.passEnds u o then some o else none
        let s1 := State.reserve { s with ticket := tick + 1 } u o tick
        let s2 := s1.place u o tick { data := w, poison := l.poison, tag := (s.region u.region).tag, origin := .firing u l.tick }
        let sends := x.vec.sends.filter (fun m => m.out ≠ o) ++
          (if ws.isEmpty then [] else [{ l with left := ws, due := s.cyc + 1 }])
        .next ((s2.oweMark u tick hit).modUnit u (fun x => { x with vec := { x.vec with sends := sends } }))

/-! ## Arrival (R109, R133-R136) -/

/-- Does an input take a token now: it has capacity, and a drain or freeze of its region does not hold tokens
of producers outside (R109, R400, R404)? -/
def State.inputOpen (s : State) (u : UnitId) (i : Nat) : Bool :=
  let c := s.chan (.inp u i)
  let R := s.region u.region
  let outside := c.src.any (fun p => p.1.region ≠ u.region)
  decide (c.inq.length < c.cap) && !(outside && R.frozen.isSome && c.hops.isEmpty) && !c.shut

/-- Remove the first place, which is filled. -/
def Chan.unplace (c : Chan) : Chan := { c with places := c.places.tail }

/-- TOKEN_ARRIVAL: the oldest placed token of a branch without die edges reaches its input (R109, R123). -/
def execTokenArrival (u : UnitId) (i : Nat) (s : State) : Host.Outcome State Fault Refusal :=
  let c := s.chan (.inp u i)
  match c.places, c.hops with
  | (_, some t) :: _, [] =>
      if s.inputOpen u i then .next ((s.modChan (.inp u i) Chan.unplace).arrive u i t) else .next s
  | _, _ => .next s

/-- Is a link up? -/
def State.linkUp (s : State) (l : Nat) : Bool := !(s.link l).down

/-- The channel that holds a boundary context of a link. -/
def State.chanOf? (s : State) (l : Nat) (dir : Bool) (c : Nat) : Option Sink :=
  (s.chans.find? (fun e => e.2.hops.any (fun h => h.link = l && h.dir = dir && h.ctx = c))).map Prod.fst

/-- The first hop of a channel that matches, and the tokens after it: `f` rewrites the hop and gives what
passes on to the next hop, or to the input. -/
def passHop (l : Nat) (dir : Bool) (c : Nat) : List Hop → List Hop × List Tok
  | [] => ([], [])
  | h :: hs =>
      if h.link = l && h.dir = dir && h.ctx = c then
        match hs with
        | [] => ([{ h with wire := [] }], h.wire)
        | g :: gs => ({ h with wire := [] } :: { g with waiting := g.waiting ++ h.wire } :: gs, [])
      else
        let (hs', ts) := passHop l dir c hs
        (h :: hs', ts)

/-- Give tokens to an input in order. -/
def State.arriveAll (s : State) (u : UnitId) (i : Nat) : List Tok → State
  | [] => s
  | t :: ts => (s.arrive u i t).arriveAll u i ts

/-- Is a flit the oldest under way on its link and direction: boundary channels are of one class, and flits of one class arrive
in the order they were sent (R136)? One that waits outside a drained input holds back no other. -/
def State.flitFirst (s : State) (l : Nat) (dir : Bool) (c : Nat) : Bool :=
  let on (h : Hop) : Bool := h.link = l && h.dir = dir && !h.wire.isEmpty
  let hs := s.chans.flatMap (fun e => if e.2.shut then [] else e.2.hops.filter on)
  hs.all (fun h => hs.all (fun g => h.ctx ≠ c || decide (h.sentAt ≤ g.sentAt)))

/-- FLIT_ARRIVAL: the flit under way on a boundary context is delivered (R135-R137); behind a drain MARK tokens wait outside
(R404). -/
def execFlitArrival (l : Nat) (dir : Bool) (c : Nat) (s : State) : Host.Outcome State Fault Refusal :=
  match s.chanOf? l dir c with
  | some (.inp u i) =>
    let (hs, ts) := passHop l dir c (s.chan (.inp u i)).hops
    if !s.linkUp l || !s.flitFirst l dir c || (s.chan (.inp u i)).hops.all (fun h => !(h.link = l && h.dir = dir && h.ctx = c) || h.wire.isEmpty) ||
      ((s.chan (.inp u i)).shut && !ts.isEmpty) then .next s
    else .next (((s.countFlit l dir c).modChan (.inp u i) (fun k => { k with hops := hs })).arriveAll u i ts)
  | _ => .next s

/-- CREDIT_RETURN: the credits of dequeued tokens reach the sender (R133, R135); a frozen region returns none, nor does an input
that a drain has shut (R400, R404). -/
def execCreditReturn (l : Nat) (dir : Bool) (c : Nat) (s : State) : Host.Outcome State Fault Refusal :=
  match s.chanOf? l dir c with
  | some (.inp u i) =>
    let n := (s.chan (.inp u i)).owed
    if !s.linkUp l || (s.region u.region).frozen.isSome || (s.chan (.inp u i)).shut || n = 0 then .next s
    else .next ((s.chan (.inp u i)).hops.foldl (fun s h =>
      s.modLink h.link (fun L => L.modCtx h.dir h.ctx (fun x => { x with credits := x.credits - n })))
        (s.modChan (.inp u i) (fun k => { k with owed := 0 })))
  | _ => .next s

/-- Is a context one that a memory port or a dispatcher sets up on demand, on a link that the package has (R14, R134)? -/
def demandCtx (l c : Nat) : Bool := decide (l < 16) && decide (128 ≤ c) && decide (c < 240)

/-- Does a request in hand hold a context? -/
def State.ctxHeld (s : State) (k : CtxRef) : Bool :=
  s.units.any (fun e => e.2.reqs.any (fun q => q.ctxs.contains k)) || s.regions.any (fun e => e.2.cmds.any (fun c => c.ctxs.contains k))

/-- CONTEXT_SETUP: a FREE context of remote or bulk traffic opens toward its target, with the shape and the element size of its
message; there are five classes (R24, R134, R364). -/
def execContextSetup (l : Nat) (dir : Bool) (c cls : Nat) (phys : Bool) (target : CtxShape) (s : State) :
    Host.Outcome State Fault Refusal :=
  if ((s.link l).ctxs.get (dir, c) {}).st = 0 && s.linkUp l && demandCtx l c && decide (cls < 5) then
    .next (s.modLink l (fun L => L.modCtx dir c (fun _ =>
      { st := 2, cls := cls, phys := phys, target := target.target, ext := target.ext, str := target.str, esz := target.esz })))
  else .next s

/-- CONTEXT_TEARDOWN (R364). A boundary or exchange context stands while its placement does, one set up on demand until its
request has joined. -/
def execContextTeardown (l : Nat) (dir : Bool) (c : Nat) (s : State) : Host.Outcome State Fault Refusal :=
  if s.ctxHeld (l, dir, c) then .next s
  else match ((s.link l).ctxs.get (dir, c) {}).launch with
  | some id =>
      if (s.placement? id).isSome then .next s
      else .next (s.modLink l (fun L => L.modCtx dir c (fun _ => {})))
  | none => .next (s.modLink l (fun L => L.modCtx dir c (fun _ => {})))

end Sys2Proof.Machine
end

