-- ==== Sys2Proof/Machine/Ports.lean ====
section
/-! DEFINITION. What follows a port's or a core's acceptance of an access: performing it, page walks,
withholding and resumes, stamped stores and loads (spec/15 R290-R309, spec/06 R117, spec/08 R145-R150, spec/17 R353,
R354, R361, spec/19 R397, R398). -/

namespace Sys2Proof.Machine

/-! ## KV segment entries as the scratchpad port sees them (R361) -/

/-- Does a cell hold a segment table: it stands on an A-die? -/
def isKvCell (c : CellId) : Bool := decide (4 ≤ regionDie c.region)

/-- The address of word w of entry n of a cell's segment table. -/
def kvWord (c : CellId) (n w : Nat) : Nat := spadBase c + 61440 + 64 * n + 8 * w

/-- The entry and word that a scratchpad offset names in a segment table. -/
def kvPlace (c : CellId) (off : Nat) : Option (Nat × Nat) :=
  if isKvCell c && decide (61440 ≤ off) && decide (off < 65536) then some ((off - 61440) / 64, (off - 61440) % 64 / 8)
  else none

/-- May software write word w of an entry? -/
def kvSoftware (w : Nat) : Bool := w = 0 || w = 3 || w = 6 || w = 7

/-- A segment: a cell and an entry of its table. -/
abbrev KvSeg := CellId × Nat

/-- Word w of a segment's entry. -/
def kvRead (m : Memory) (g : KvSeg) (w : Nat) : Word := m.word (kvWord g.1 g.2 w)
def kvWrite (m : Memory) (g : KvSeg) (w : Nat) (v : Word) : Memory := m.store (kvWord g.1 g.2 w) 8 v false

/-- Apply the staged fields of an entry (R361). -/
def kvSwitch (m : Memory) (g : KvSeg) : Memory :=
  let w := kvRead m g 7
  if w.getLsbD 63 then
    let m := kvWrite m g 1 (kvRead m g 6)
    let m := kvWrite m g 2 (w &&& 0xFFFFFFFFFFFC0)
    kvWrite m g 7 (w &&& ~~~((1 : Word) <<< 63))
  else m

/-- Write n bytes to a scratchpad for an SPE word: hardware words, +8 and +16 of a segment entry keep their values; a store
to +24 releases what stopped there; one that leaves the switch bit set copies the staged fields (R361, R398). -/
def State.spadStore (s : State) (c : CellId) (off n : Nat) (v : Word) (p : Bool) : State :=
  match kvPlace c off with
  | some (e, w) =>
      if kvSoftware w then
        let m := s.mem.store (spadBase c + off) n v p
        if w = 7 then { s with mem := kvSwitch m (c, e) }
        else if w = 3 then
          { s with mem := m, kv := s.kv.map (fun h => if h.at_ = some (c, e) then { h with held := false } else h) }
        else { s with mem := m }
      else s
  | none => { s with mem := s.mem.store (spadBase c + off) n v p }

/-! ## Completions -/

/-- The landing of a request whose completion is a token of a kind, with data and poison (R302, R390). -/
def PortReq.landing (q : PortReq) (tag : Byte) (kind : BitVec 2) (v : Word) (p : Bool) (f : BitVec 6) : Landing :=
  { reg := q.reg.map (fun r => (r, v, p)), regPend := q.reg, flags := f, rot := q.rot,
    toks := q.outs.map (fun o => (o, some { data := v, kind := kind, poison := p, tag := tag, utag := q.utag, last := q.last, origin := .memory })) }

/-- The landing of a request that fails at its port: places and pending bit are given up (R291). -/
def PortReq.failed (q : PortReq) : Landing := { regPend := q.reg, toks := q.outs.map (fun o => (o, none)) }

/-- Remove a request. -/
def EUnit.dropReq (x : EUnit) (tick : Nat) : EUnit := { x with reqs := x.reqs.filter (fun q => q.tick ≠ tick) }

/-- Rewrite a request. -/
def EUnit.modReq (x : EUnit) (tick : Nat) (f : PortReq → PortReq) : EUnit :=
  { x with reqs := x.reqs.map (fun q => if q.tick = tick then f q else q) }

/-- Land a request's completion now. -/
def State.landReq (s : State) (u : UnitId) (q : PortReq) (l : Landing) : State :=
  s.land u ⟨q.tick, s.cyc, q.ctx, q.slot, l⟩

/-- A request leaves its port: its flits are counted and its contexts torn down (R134, R364). -/
def State.leavePort (s : State) (u : UnitId) (q : PortReq) : State :=
  ((s.modUnit u (fun x => x.dropReq q.tick)).countFlits q.ctxs).closeCtxs q.ctxs

/-- Complete and remove a request. -/
def State.finishReq (s : State) (u : UnitId) (q : PortReq) (kind : BitVec 2) (v : Word) (p : Bool) (f : BitVec 6) : State :=
  ((s.leavePort u q).landReq u q (q.landing (s.region u.region).tag kind v p f)).stir u.region

/-- Count the bytes of a completed access at a memory port (R379). -/
def State.countBytes (s : State) (u : UnitId) (a n : Nat) : State :=
  if isMpe u then
    s.countPort u.region (unitPort u) (if a < 2 ^ 51 && homeDie a ≠ unitDie u then 1 else 0) n
  else s

/-- A cause at the port (R291). -/
def State.portFault (s : State) (u : UnitId) (q : PortReq) (cause : Byte) : State :=
  ((s.leavePort u q).landReq u q q.failed).recordFaultOf u q.tick cause q.slot q.ctx none 0 0

/-- Withhold an access (R397): PAGE_FAULT at the region's core, and the count toward PFLIMIT starts. -/
def State.withhold (s : State) (u : UnitId) (q : PortReq) : State :=
  let s := s.modUnit u (fun x => x.modReq q.tick (fun q => { q with stage := .withheld }))
  (s.modRegion u.region (fun R => { R with heldSince := R.heldSince.set (unitPort u) 0 })).raise u.region .page q.addr

/-! ## Performing (R115-R117, R127, R128, R292, R303-R306) -/

/-- Where a request leads, if its translation is done. -/
def State.reqAddr (s : State) (u : UnitId) (q : PortReq) : Option Nat :=
  if q.stage = .posted then some q.addr.toNat
  else match s.xlatWord u q.addr q.op.access with
    | .done (.ok t) => some t.addr
    | _ => none

/-- Does a request still stand in its class's order of age: it is not withheld (R397), and no stamped one that was admitted, whose
order Stamped.waits keeps (R24)? -/
def PortReq.inOrder (q : PortReq) (cls : Nat) : Bool := q.stage ≠ .withheld && q.stage ≠ .stamped && q.op.bankClass = cls

/-- The bank in which an address stands for R117's bound: address / 64 mod 8, as in a scratchpad, for region stores and DRAM too
(DESIGN CHOICE, notes/assumptions/90). -/
def orderBank (a : Nat) : Nat := a / 64 % 8

/-- Does an older request hold back a younger one of its class at address a (R117)? It stands in the same bank, its bank cannot
be told, or eight have passed it. -/
def State.holdsBack (s : State) (u : UnitId) (cls : Nat) (q : PortReq) (a : Nat) : Bool :=
  q.inOrder cls &&
    (decide (8 ≤ q.passed) || (match s.reqAddr u q with
      | some b => orderBank b = orderBank a
      | none => true))

/-- The class of request k of a port. -/
def EUnit.reqClass (x : EUnit) (k : Nat) : Nat := (x.reqs[k]?.map (fun q => q.op.bankClass)).getD 0

/-- May request k of a port be served at address a? -/
def State.mayServe (s : State) (u : UnitId) (k a : Nat) : Bool :=
  ((s.unit u).reqs.take k).all (fun q => !s.holdsBack u ((s.unit u).reqClass k) q a)

/-- The older requests of the class of request k have been passed once more. -/
def EUnit.passedBy (x : EUnit) (k : Nat) : EUnit :=
  { x with reqs := x.reqs.mapIdx (fun i q =>
      if i < k && q.inOrder (x.reqClass k) then { q with passed := q.passed + 1 } else q) }

/-- Is a store that completed before a ticket not performed yet: one posted at a port, or a stamped one not installed
(R128)? -/
def State.postedBefore (s : State) (tick : Nat) : Bool :=
  s.postedAny (fun _ q => q.tick < tick) || s.stampedAny (fun x => x.tick < tick)

/-- Is a store completed at acceptance and performed later (R127, R306)? -/
def postsStore (u : UnitId) (q : PortReq) : Bool := isMpe u && q.ord = .plain

/-- Does order make an operation wait: a release or ordered atomic for every earlier store that completed unperformed, every
access that is to be performed for such a store to its location, a load of a stamped line for R149 (R116, R127, R128, R141,
R304, R305)? -/
def State.mustWait (s : State) (u : UnitId) (q : PortReq) (t : Target) : Bool :=
  match q.op with
  | .load n _ => s.postedBlocks t.addr q.tick || (s.readTarget t n).isNone
  | .store _ =>
      ((q.stage = .posted || !postsStore u q) && s.postedBlocks t.addr q.tick) ||
        (q.ord ≠ .plain && s.postedBefore q.tick)
  | .amo _ => s.postedBlocks t.addr q.tick || (q.ord ≠ .plain && s.postedBefore q.tick)
  | _ => false

/-- Write n bytes at a translated place for a port. -/
def State.portWrite (s : State) (u : UnitId) (a n : Nat) (v : Word) (p : Bool) : State :=
  if isMpe u then { s with mem := s.mem.store a n v p }
  else s.spadStore u.cellId (a - spadBase u.cellId) n v p

/-- The requester of a port's accesses at a bank: an SPE, or an MPE by its row (R292, R295). -/
def portWho (u : UnitId) : Nat := if isMpe u then unitPort u else 0

/-- Accept a store that is performed later: its DONE leaves now (R127, R306). -/
def State.postReq (s : State) (u : UnitId) (q : PortReq) (a n : Nat) : State :=
  let s := (s.countBytes u a n).landReq u q (q.landing (s.region u.region).tag 1 0 false 0)
  (s.modUnit u (fun x => x.modReq q.tick (fun q => { q with stage := .posted, addr := BitVec.ofNat 64 a }))).stir u.region

/-- Perform request k at its target. -/
def State.performReq (s : State) (u : UnitId) (k : Nat) (q : PortReq) (t : Target) : State :=
  let a := t.addr
  let s := s.modUnit u (fun x => x.passedBy k)
  match q.op with
  | .load n sx =>
    match s.readTarget t n with
    | none => s
    | some (v, p) => ((s.takeBank a (portWho u)).countBytes u a n).finishReq u q 0 (loadValue n sx v) p 0
  | .store n =>
      let (p, s) := if isMpe u then s.carried (unitDie u) a q.poison else (q.poison, s)
      if q.stage = .posted then ((s.takeBank a (portWho u)).portWrite u a n q.data p).leavePort u q
      else
        (((s.takeBank a (portWho u)).portWrite u a n q.data p).countBytes u a n).finishReq u q 1 0 false 0
  | .amo j =>
      let (bp, s) := if isMpe u then s.carried (unitDie u) a q.poison else (q.poison, s)
      let (old, p, m, f) := amoApply s.mem j a q.data bp q.exp
      let same : Bool := m.word a = s.mem.word a && m.poisoned a == s.mem.poisoned a
      let s := if same then s else s.portWrite u a 8 (m.word a) (m.poisoned a)
      ((s.takeBank a (portWho u)).countBytes u a 8).finishReq u q 0 old p f
  | _ => s

/-- A request whose route crosses a link that is down (R410): a load delivers a poisoned 0; a store or an atomic
completes with poison, performed or not; one that completed at acceptance leaves. -/
def State.lostReq (s : State) (u : UnitId) (q : PortReq) (a : Nat) : State :=
  let (n, s) := (if q.stage = .posted then s else s.countBytes u a q.op.bytes).takeFree
  match q.op with
  | .store w =>
      if q.stage = .posted then (if Config.lostStore n then s.portWrite u a w q.data q.poison else s).leavePort u q
      else ((if Config.lostStore n then s.portWrite u a w q.data q.poison else s)).finishReq u q 1 0 true 0
  | .amo j =>
      let s := if Config.lostStore n then { s with mem := (amoApply s.mem j a q.data q.poison q.exp).2.2.1 } else s
      s.finishReq u q 0 (Config.lostData n) true 0
  | _ => s.finishReq u q 0 0 true 0

/-- The links that a port's request to a flat address crosses (R15). -/
def portRoute (u : UnitId) (a : Nat) : List (Nat × Bool) := if isMpe u then remoteRoute (unitDie u) a else []

/-- Set up the contexts of a request on the links of its route, out of those of remote-memory traffic; while one link has
none left it waits (R134, notes/assumptions/82). -/
def State.openReq (s : State) (u : UnitId) (q : PortReq) (a : Nat) : State :=
  let n := q.op.bytes
  let x : Context := { st := 2, cls := q.op.bankClass - 3, phys := true, target := a, launch := (s.region u.region).launch,
                       ext := [1], str := [BitVec.ofNat 64 n], esz := n }
  match s.openOn x 128 64 (portRoute u a) with
  | some (cs, s) => s.modUnit u (fun x => x.modReq q.tick (fun q => { q with ctxs := cs }))
  | none => s

/-- Does a request still lack the contexts that its route needs? -/
def lacksCtxs (u : UnitId) (q : PortReq) (a : Nat) : Bool := q.ctxs.isEmpty && !(portRoute u a).isEmpty

/-- Has a requester had the bank of an address in this cycle: it loses no arbitration to itself (R292)? -/
def State.bankHad (s : State) (a who : Nat) : Bool :=
  match bankOf a with
  | some b => s.banksBusy.contains b && s.bankLast.get? b = some who
  | none => false

/-- Serve request k at a target: order, contexts, then the bank (R117, R134, R292). -/
def State.serveAt (s : State) (u : UnitId) (k : Nat) (q : PortReq) (t : Target) : State :=
  let a := t.addr
  if isMpe u && s.routeDown (unitDie u) a then s.lostReq u q a
  else if postsStore u q && q.op.isStore && q.stage ≠ .posted then s.postReq u q a q.op.bytes
  else if !s.mayServe u k a || s.mustWait u q t then s
  else if lacksCtxs u q a then s.openReq u q a
  else if s.bankHad a (portWho u) then s
  else if !s.bankServes a (portWho u) then
    let s := s.bankLost a (portWho u)
    if isMpe u then s.countPort u.region (unitPort u) q.op.bankClass 1 else s
  else s.performReq u k q t

/-- Serve request k of a port. -/
def State.serve (s : State) (u : UnitId) (k : Nat) : State :=
  match (s.unit u).reqs[k]? with
  | none => s
  | some q =>
    match q.stage with
    | .posted => s.serveAt u k q (.plain q.addr.toNat)
    | .stamped =>
      match q.op with
      | .stsp _ =>
          match s.xlatWord u q.addr q.op.access with
          | .done (.ok t) => (s.countBytes u t.addr 8).finishReq u q 1 q.exp (s.routeDown (unitDie u) t.addr) 0
          | _ => s.finishReq u q 1 q.exp false 0
      | _ => s
    | .accepted =>
      match s.xlatWord u q.addr q.op.access with
      | .walk => (s.countPort u.region (unitPort u) 10 1).modUnit u (fun x => x.modReq q.tick (fun q => { q with stage := .walking }))
      | .done .prot => s.portFault u q cPROT
      | .done .absent => s.withhold u q
      | .done (.ok t) =>
          if q.op.stampScope?.isSome then
            if lacksCtxs u q t.addr && !s.routeDown (unitDie u) t.addr then
              if ((s.unit u).reqs.take k).any (fun e => e.stage = .accepted && e.op.bankClass = 7) then s else s.openReq u q t.addr
            else
              let (s, q') := s.admitStamped u q t
              s.modUnit u (fun x => x.modReq q.tick (fun _ => q'))
          else s.serveAt u k q t
    | _ => s

/-- Perform accepted store k of a core (R309): after every earlier one that overlaps it and every posted one to its
location; an STL after all (R311). Its bank serves it first (R295). -/
def State.serveCore (s : State) (r k : Nat) : State :=
  let K := s.core r
  match K.stores[k]? with
  | none => s
  | some c =>
    if (K.stores.take k).any (fun e => e.addr < c.addr + c.n && c.addr < e.addr + e.n) || s.postedBlocks c.addr c.tick ||
        (c.rel.isSome && (k ≠ 0 || s.stampedAny (fun x => x.byCore && x.region = r && x.tick < c.tick))) then s
    else if s.bankHad c.addr 4 then s
    else if !s.bankServes c.addr 4 then s.bankLost c.addr 4
    else
      let (n, s1) := s.takeFree
      let lost := s.routeDown (regionDie r) c.addr
      let s2 := if lost && !Config.lostStore n then s1 else if lost then s1.performStore r c else (s.takeBank c.addr 4).performStore r c
      s2.modCore r (fun K => { K with stores := K.stores.filter (fun e => e.tick ≠ c.tick) })

/-- MEMORY_ACCESS_COMPLETE. -/
def execMemoryAccessComplete (d : Door) (k : Nat) (s : State) : Host.Outcome State Fault Refusal :=
  match d with
  | .port u => .next (s.serve u k)
  | .core r => .next (s.serveCore r k)

/-! ## Page walks and resumes (R353, R354, R397, R398) -/

/-- The translation that a walk installs. -/
def Kept.ofTarget (port : Nat) (va : Word) : Target → Kept
  | .plain a => ⟨port, windowOf va, a - va.toNat % 65536, false⟩
  | .stamped b _ => ⟨port, windowOf va, b, true⟩

/-- What a walk of a paged entry finds, the permission and kind of page aside (R290, R353). -/
def State.walkPort (s : State) (r port : Nat) (va : Word) : Xlat :=
  match s.pagedEntry r port va with
  | some e => walk s.mem e va
  | none => .prot

/-- Keep a translation. -/
def State.keep (s : State) (r port : Nat) (va : Word) (t : Target) : State :=
  s.modRegion r (fun R => { R with kept := Kept.ofTarget port va t :: R.kept.filter (fun k => !(k.port = port && k.window = windowOf va)) })

/-- The end of a memory port's walk. -/
def State.walkMpe (s : State) (r port : Nat) : State :=
  let u : UnitId := ⟨r, 4 * port, 19⟩
  match (s.unit u).reqs.find? (fun q => q.stage = .walking) with
  | none => s
  | some q =>
    match s.walkPort r port q.addr with
    | .absent => s.withhold u q
    | .prot =>
      match s.pagedEntry r port q.addr with
      | some _ => s.portFault u q cPROT
      | none => s.modUnit u (fun x => x.modReq q.tick (fun q => { q with stage := .accepted }))
    | .ok t =>
        let s := s.keep r port q.addr t
        match s.xlatWord u q.addr q.op.access with
        | .done (.ok t') =>
            let (s, q') := s.admitNear u { q with stage := .accepted } t'
            s.modUnit u (fun x => x.modReq q.tick (fun _ => q'))
        | _ => s.modUnit u (fun x => x.modReq q.tick (fun q => { q with stage := .accepted }))

/-- Release the KV halves of a stream port's commands that a segment withholds (R362, R398). -/
def State.resumeKv (s : State) (r p : Nat) : State :=
  let ts := ((s.region r).cmds.filter (fun c => c.port = p)).map Cmd.tick
  { s with kv := s.kv.map (fun h => if h.held && h.region = r && h.cmd.any (ts.contains ·) then { h with held := false } else h) }

/-- Release what port n withholds (R398): it walks again. A port that holds nothing ignores it, and what is withheld stays
withheld in a freeze (R400). -/
def State.resumePort (s : State) (r n : Nat) : State :=
  if n < 4 && (s.region r).frozen.isSome then s
  else if n < 4 then
    let u : UnitId := ⟨r, 4 * n, 19⟩
    if (s.unit u).reqs.any (fun q => q.stage = .withheld) then
      (((s.modUnit u (fun x => { x with reqs := x.reqs.map (fun q =>
        if q.stage = .withheld then { q with stage := .walking } else q) })).countPort r n 10 1).modRegion r (fun R =>
          { R with heldSince := R.heldSince.del n }))
    else s
  else
    match (s.region r).cmds.find? (fun c => c.port = n - 4 && c.held) with
    | some c => s.forCmd r c (fun s =>
        ((s.modRegion r (fun R => { R with heldSince := R.heldSince.del n })).modCmd r c.tick (fun d =>
          { d with held := false, walked := false })).modHandleOf r c (fun x => { x with held := false }))
    | none => s.resumeKv r (n - 4)

/-! ## Stamped stores and loads (R145-R150, R298) -/

/-- The completion of an STSC or STS at visibility (R148), or with poison where its link went down (R410). -/
def State.stampDone (s : State) (x : Stamped) (lost : Bool) : State :=
  match x.wait with
  | .nobody => s
  | .port u tick =>
    match (s.unit u).reqs.find? (fun q => q.tick = tick) with
    | some q => (s.countBytes u x.phys 8).finishReq u q 1 (BitVec.ofNat 64 x.stamp) lost 0
    | none => s
  | .core r =>
    match (s.core r).stall with
    | some (.sts st d) =>
        if st = x.stamp then s.modCore r (fun k => (k.write d (BitVec.ofNat 64 st) lost).step4) else s
    | _ => s

/-- Install a stamped store at its home line. -/
def State.installNow (s : State) (x : Stamped) : State :=
  let base := x.phys / 65536 * 65536
  let off := x.phys % 65536
  let (p, s) := s.carried x.die x.phys x.poison
  { s with pages := if s.pages.contains base then s.pages else base :: s.pages
           mem := install s.mem base (off / 64) (off % 64 / 8) x.data p x.stamp x.sys x.die s.dev.devid.toNat }

/-- Is a stamped store y older than x at the same port, and not installed yet? -/
def Stamped.before (y x : Stamped) : Bool := y.port = x.port && x.port.isSome && !y.installed && y.tick < x.tick

/-- Must a stamped store wait for an older one of its port to be installed: one in its bank, or one that eight have passed (R117)? -/
def State.installWaits (s : State) (x : Stamped) : Bool :=
  s.stamped.any (fun y => y.before x && (orderBank y.phys = orderBank x.phys || decide (8 ≤ y.passed)))

/-- The stamped stores, once more passed where they are older than x at its port. -/
def State.passedStores (s : State) (x : Stamped) : List Stamped :=
  s.stamped.map (fun y => if y.before x then { y with passed := y.passed + 1 } else y)

/-- STAMPED_INSTALL (R117, R298); across a link that is down the store completes with poison, installed or not (R410). -/
def execStampedInstall (k : Nat) (s : State) : Host.Outcome State Fault Refusal :=
  match s.stamped[k]? with
  | none => .next s
  | some x =>
    if x.installed then .next s
    else if s.routeDown x.die x.phys then
      let (n, s1) := s.takeFree
      let s2 := if Config.lostStore n then s1.installNow x else s1
      .next (State.stampDone { s2 with stamped := s.stamped.eraseIdx k } x true)
    else if s.installWaits x then .next s
    else .next { s.installNow x with stamped := (s.passedStores x).set k { x with installed := true } }

/-- The port request of a ticket. -/
def EUnit.req? (x : EUnit) (tick : Nat) : Option PortReq := x.reqs.find? (fun q => q.tick = tick)

/-- STAMPED_VISIBLE: the floor at the version's scope, as its home die holds it, has passed the stamp (R147). -/
def execStampedVisible (k : Nat) (s : State) : Host.Outcome State Fault Refusal :=
  match s.stamped[k]? with
  | none => .next s
  | some x =>
    if x.installed && x.stamp < s.floorAt x.sys (homeDie x.phys) then
      .next ({ s with stamped := s.stamped.eraseIdx k }.stampDone x false)
    else .next s

/-- What an LDAS reads: value and poison, or none once the version has been discarded (R150). -/
def State.ldasValue (s : State) (x : LdasReq) : Option (Word × Bool) :=
  let base := x.phys / 65536 * 65536
  let off := x.phys % 65536
  (ldasSlot s.mem base (off / 64) x.t).map (fun slot =>
    let a := lineSlot base (off / 64) slot + off % 64
    (s.mem.word a, s.mem.poisoned a))

/-- The die that issued an LDAS. -/
def LdasReq.die (x : LdasReq) : Nat :=
  match x.wait with
  | .port u _ => unitDie u
  | .core r => regionDie r
  | .nobody => 0

/-- The completion of an LDAS; across a link that is down a poisoned 0 (R410). -/
def State.ldasDone (s : State) (x : LdasReq) : State :=
  match x.wait, (if s.routeDown x.die x.phys then some (0, true) else s.ldasValue x) with
  | .port u tick, some (v, p) =>
    match (s.unit u).req? tick with
    | some q => (s.countBytes u x.phys 8).finishReq u q 0 v p 0
    | none => s
  | .port u tick, none =>
    match (s.unit u).req? tick with
    | some q => s.portFault u q cTOOOLD
    | none => s
  | .core r, some (v, p) =>
    match (s.core r).stall with
    | some (.ldas _ d) => s.modCore r (fun k => (k.write d v p).step4)
    | _ => s
  | .core r, none =>
    match (s.core r).stall with
    | some (.ldas _ _) => (s.modCore r (fun k => { k with stall := none })).trapHere r cTOOOLD x.va
    | _ => s
  | .nobody, _ => s

/-- LDAS_RETURN (R150). -/
def execLdasReturn (k : Nat) (s : State) : Host.Outcome State Fault Refusal :=
  match s.ldas[k]? with
  | none => .next s
  | some x =>
    if x.t < s.floorAt x.sys (homeDie x.phys) || s.routeDown x.die x.phys then .next ({ s with ldas := s.ldas.eraseIdx k }.ldasDone x)
    else .next s

/-! ## Stamped pages by physical address (R296, R353) -/

/-- The bases of backing that a group table names. -/
def groupBases (m : Memory) (d : Word) : List Nat :=
  (List.range 32).filterMap (fun k =>
    let g := m.word (bitsOf d 8 44 * 256 + 8 * k)
    if g.getLsbD 0 then some (bitsOf g 16 36 * 2 ^ 16) else none)

/-- The bases that a paged range entry's directory names: a descriptor that is present is a listed byte. -/
def RangeEnt.bases (e : RangeEnt) (m : Memory) : List Nat :=
  if e.attr.getLsbD 7 && e.attr.getLsbD 2 then
    (m.cells.filter (fun c => e.phys.toNat ≤ c.1 && c.1 < e.phys.toNat + 8 * (e.size.toNat / 2 ^ 21 + 1) &&
      (c.1 - e.phys.toNat) % 8 = 0)).flatMap (fun c =>
        let d := m.word c.1
        if d.getLsbD 0 && d.getLsbD 1 then groupBases m d else [])
  else []

/-- The base of the stamped page whose backing holds a physical address: a page is stamped once a stamped store
has reached it, and while a range entry in force maps it so (DEDUCED from R296 and R353). -/
def State.backing? (s : State) (a : Nat) : Option Nat :=
  (s.pages ++ s.regions.flatMap (fun (_, R) => R.ranges.flatMap (fun e => e.2.bases s.mem))).find? (fun b => b ≤ a && a < b + 393216)

/-- The base of the stamped page around a physical address: one that a store or a range entry has shown, else one that system
software has declared (R296, notes/assumptions/57). -/
def State.stampedAt (s : State) (a : Nat) : Option Nat :=
  (s.backing? a).orElse (fun _ => (Config.stampedBase a).filter (fun b => b ≤ a && a < b + 393216))

/-- The line and the offset in the line's first slot that a physical address of the data bytes names. -/
def physLine (base a : Nat) : Nat × Nat := ((a - base) / 320, (a - base) % 320 % 64)

/-! ## Errors (R300) -/

/-- DRAM_UNCORRECTABLE_ERROR: the line's eight words are poisoned and read as 0; at the flat address of an on-chip store
it is R300's double-bit error of one word. -/
def execDramUncorrectableError (a : Nat) (s : State) : Host.Outcome State Fault Refusal :=
  if isDram a then .next { s with mem := s.mem.strike (a / 64 * 64) 8 }
  else if 2 ^ 52 ≤ a then .next { s with mem := s.mem.strike (a / 8 * 8) 1 }
  else .next s

/-- SCRUB: corrected data is rewritten where no store came between; no value and no poison changes. -/
def execScrub (_a : Nat) (s : State) : Host.Outcome State Fault Refusal := .next s

end Sys2Proof.Machine
end

