-- ==== Sys2Proof/Machine/Time.lean ====
section
/-! DEFINITION. Interval clocks, floors and widening (spec/08 R144-R152, spec/25 R437). -/

namespace Sys2Proof.Machine

/-- Is the device the root of its domain (R437)? -/
def Device.isRoot (d : Device) : Bool := d.domain.getLsbD 16

/-- Is a Dvori port UP (R436)? -/
def Device.portUp (d : Device) (p : Nat) : Bool := (d.dvori.get p {}).st = .up

/-- Does an UP port lead to a device of this device's own time domain (R437)? -/
def State.ownDomain (s : State) (p : Nat) : Bool :=
  s.dev.portUp p && Config.portDomain p s.cyc = s.dev.domain.setWidth 16

/-- Has the device an UP port of its own domain, over which clocks are synced and floors formed (R437)? -/
def State.peered (s : State) : Bool := (List.range 16).any s.ownDomain

/-- A domain of one: a root that shares its domain with no other device (R437, notes/assumptions/13). -/
def State.alone (s : State) : Bool := s.dev.isRoot && !s.peered

/-- A device that is not its domain's root and has no UP port to that root (R437). -/
def State.cutOff (s : State) : Bool :=
  !s.dev.isRoot && !(List.range 16).any (fun p => s.ownDomain p && Config.portRoot p s.cyc)

/-- A die's closed mark (R146): a widened die's E gives way to the hub's (R151). -/
def State.closedMark (s : State) (d : Nat) : Nat :=
  let e := if (s.die d).wide then (s.die 8).e else (s.die d).e
  (s.stamped.filter (fun x => x.die = d && !x.installed)).foldl (fun m x => min m x.stamp) e

/-- The package floor: the least of the nine closed marks. -/
def State.packageFloor (s : State) : Nat :=
  (List.range 9).foldl (fun m d => min m (s.closedMark d)) (s.closedMark 0)

/-- Raise a die's copies; they never decrease. -/
def DieTime.raiseFloor (D : DieTime) (f : Nat) : DieTime := { D with floor := max D.floor f }
def DieTime.raiseSys (D : DieTime) (f : Nat) : DieTime := { D with sysFloor := max D.sysFloor f }

/-- Apply to every die, the hub as die 8. -/
def State.eachDie (s : State) (f : DieTime → DieTime) : State :=
  (List.range 9).foldl (fun s d => s.modDie d f) s

/-- The system floor has advanced: R152's condition clears. -/
def State.sysAdvance (s : State) (f : Nat) : State :=
  if (s.die 8).sysFloor < f then
    (s.eachDie (fun D => D.raiseSys f)).modHub (fun h => { h with stall152 := false, hubEAt := (s.die 8).e })
  else s

/-- FLOOR_BROADCAST: the hub computes and broadcasts the package floor; in a domain of one it is the system
floor too (R146, R437). -/
def execFloorBroadcast (s : State) : Host.Outcome State Fault Refusal :=
  let f := s.packageFloor
  let s1 := s.eachDie (fun D => D.raiseFloor f)
  .next (if s.alone then s1.sysAdvance f else s1)

/-- SYSTEM_FLOOR_UPDATE: the tree brings the domain's floor over an UP port of the domain; no device's package floor is below it
(R146, R437). -/
def execSystemFloorUpdate (f : Nat) (s : State) : Host.Outcome State Fault Refusal :=
  if s.peered then .next (s.sysAdvance (min f s.packageFloor)) else .next s

/-- Raise INTERVAL_WIDE at the cores of a die, of all dies for the hub, with each die's width (R151, R273). -/
def State.raiseWide (s : State) (d : Nat) : State :=
  (List.range 80).foldl (fun s r =>
    if d = 8 || regionDie r = d then s.raise r .wide (s.width (regionDie r)) else s) s

/-- INTERVAL_WIDE at the management processor, when the hub widens (R151): the event's form is the model's choice, the words 6,
the cause and the width (DESIGN CHOICE, notes/assumptions/61). -/
def State.tellWide (s : State) (d : Nat) : State :=
  if d = 8 then s.notify [6, cWIDE.setWidth 64, s.width 8] else s

/-- WIDENED_STATE_ENTRY: the width exceeds IWLIM, or the device is cut off from its domain's root (R151, R437). -/
def execWidenedStateEntry (d : Nat) (s : State) : Host.Outcome State Fault Refusal :=
  if !(s.die d).wide && (s.dev.iwlim.toNat < (s.width d).toNat || s.cutOff) then
    .next (((s.modDie d (fun D => { D with wide := true, narrow := 0 })).raiseWide d).tellWide d)
  else .next s

/-- WIDENED_STATE_EXIT: after 2^16 consecutive cycles at or below IWLIM / 2. -/
def execWidenedStateExit (d : Nat) (s : State) : Host.Outcome State Fault Refusal :=
  if (s.die d).wide && decide (2 ^ 16 ≤ (s.die d).narrow) && !s.cutOff then
    .next (s.modDie d (fun D => { D with wide := false, narrow := 0 }))
  else .next s

/-- SYSTEM_FLOOR_STALL: the copy has not advanced while the hub's E advanced by IWLIM (R152). -/
def execSystemFloorStall (s : State) : Host.Outcome State Fault Refusal :=
  if !s.hub.stall152 && !s.alone && s.hub.hubEAt + s.dev.iwlim.toNat ≤ (s.die 8).e then
    .next ((s.modHub (fun h => { h with stall152 := true })).raiseWide 8)
  else .next s

/-- A clock's reading moved toward e and l: it brackets true time and never decreases (R144). -/
def DieTime.sync (D : DieTime) (now e l : Nat) : DieTime :=
  { D with e := max D.e (min e now), l := max D.l (max l now) }

/-- CLOCK_SYNC, over an UP port of the device's own domain only (R144, R437). -/
def execClockSync (d e l : Nat) (s : State) : Host.Outcome State Fault Refusal :=
  if s.peered then .next (s.modDie d (fun D => D.sync s.now e l)) else .next s

end Sys2Proof.Machine
end

