-- ==== Sys2Proof/Machine/Kv.lean ====
section
/-! DEFINITION. KV segments: chains, half-writes, horizons, notices at a segment (spec/10 R175-R178, spec/17
R361-R363, spec/19 R397, R398). -/

namespace Sys2Proof.Machine

/-- Is a segment a valid entry of a slot and layer on an A-die cell (R361, R362)? -/
def kvMember (m : Memory) (g : KvSeg) (slot layer : Nat) : Bool :=
  let i := kvRead m g 0
  g.1.region < 80 && isKvCell g.1 && i.getLsbD 63 && bitsOf i 56 7 = layer && bitsOf i 32 13 = slot

/-- Fields of an entry. -/
def kvLimit (m : Memory) (g : KvSeg) : Nat := bitsOf (kvRead m g 1) 32 32
def kvLo (m : Memory) (g : KvSeg) : Nat := bitsOf (kvRead m g 1) 0 32
def kvT (m : Memory) (g : KvSeg) : Nat := bitsOf (kvRead m g 4) 32 32
def kvC (m : Memory) (g : KvSeg) : Nat := bitsOf (kvRead m g 4) 0 32
def kvA (m : Memory) (g : KvSeg) : Nat := bitsOf (kvRead m g 5) 32 16
def kvF (m : Memory) (g : KvSeg) : Nat := bitsOf (kvRead m g 5) 0 32
def kvHeadDim (m : Memory) (g : KvSeg) : Nat := 32 * (bitsOf (kvRead m g 0) 0 3 + 1)

/-- Write the horizons T and C. -/
def kvSetTC (m : Memory) (g : KvSeg) (t c : Nat) : Memory := kvWrite m g 4 (BitVec.ofNat 32 t ++ BitVec.ofNat 32 c)

/-- Write the latest notice. -/
def kvSetNotice (m : Memory) (g : KvSeg) (f a : Nat) : Memory :=
  kvWrite m g 5 (0#16 ++ BitVec.ofNat 16 a ++ BitVec.ofNat 32 f)

/-- The segment that a packed locator's low 23 bits name. -/
def segOf (w : Nat) : KvSeg := (⟨w / 2 ^ 16 % 2 ^ 7, w / 2 ^ 12 % 2 ^ 4⟩, w % 2 ^ 6)

/-- The first segment of a slot and layer, if valid (R362). -/
def State.kvFirst (s : State) (slot layer : Nat) : Option KvSeg :=
  let a := (s.slot slot).kvhead.toNat + 4 * layer
  let w := s.mem.readNat a 4
  if isDram a && w / 2 ^ 31 = 1 && kvMember s.mem (segOf w) slot layer then some (segOf w) else none

/-- The next segment of a chain: on the same die, an entry of the same slot and layer. -/
def kvNext (m : Memory) (g : KvSeg) (slot layer : Nat) : Option KvSeg :=
  let w := kvRead m g 3
  let n := segOf w.toNat
  if w.getLsbD 63 && regionDie n.1.region = regionDie g.1.region && kvMember m n slot layer then some n else none

/-- Where a half-write of a position stands: at a segment, below it, past the chain's end, or nowhere. -/
inductive KvWhere where
  | here (g : KvSeg)
  | below (g : KvSeg)
  | past (g : KvSeg)
  | broken
  deriving DecidableEq, Repr

/-- Walk the chain from a segment (R362); a die holds 4,096 entries. -/
def kvWalk (m : Memory) (slot layer q : Nat) : Nat → KvSeg → KvWhere
  | 0, g => .past g
  | n + 1, g =>
      if kvLimit m g ≤ q then
        match kvNext m g slot layer with
        | some g' => kvWalk m slot layer q n g'
        | none => .past g
      else if q < kvLo m g then .below g
      else .here g

/-- Where position q of a slot and layer stands. -/
def State.kvPlaceOf (s : State) (slot layer q : Nat) : KvWhere :=
  match s.kvFirst slot layer with
  | some g => kvWalk s.mem slot layer q 4096 g
  | none => .broken

/-- The size of a KV entry (R361). -/
def kvEntrySize (hd : Nat) : Nat := (8 + 4 * hd + 63) / 64 * 64

/-- The address of the entry of a position, by the page list of the segment. -/
def kvEntry (m : Memory) (g : KvSeg) (q : Nat) : Nat :=
  let o := (q - kvLo m g) * kvEntrySize (kvHeadDim m g)
  let list := bitsOf (kvRead m g 2) 6 46 * 64
  (m.word (list + 8 * (o / 2 ^ 21))).toNat + o % 2 ^ 21

/-- Does an entry lie in memory of the segment's own die, as its pages must (R8, R361)? -/
def kvReach (m : Memory) (g : KvSeg) (e : Nat) : Bool :=
  e % 64 = 0 && isDram e && isDram (e + kvEntrySize (kvHeadDim m g) - 1) && homeDie e = regionDie g.1.region

/-- Are both halves of the entry at a position valid? -/
def kvWhole (m : Memory) (g : KvSeg) (q : Nat) : Bool :=
  let e := m.word (kvEntry m g q)
  kvReach m g (kvEntry m g q) && e.getLsbD 48 && e.getLsbD 49

/-- AdvanceT (R176) from t, through at most n positions. -/
def kvAdvance (m : Memory) (g : KvSeg) : Nat → Nat → Nat
  | 0, t => t
  | n + 1, t => if t < kvLimit m g && kvWhole m g t then kvAdvance m g n (t + 1) else t

/-- Store words with their poison. -/
def storeWords (m : Memory) (a : Nat) : List (Word × Bool) → Memory
  | [] => m
  | (w, p) :: ws => storeWords (m.store a 8 w p) (a + 8) ws

/-- The entry's header after a half-write: the other half is withdrawn where the generation differs (R176). -/
def kvHeader (old : Word) (pos gen : Nat) (isV : Bool) : Word :=
  let keep : Nat := if bitsOf old 32 16 = gen then bitsOf old 48 2 else 0
  let own : Nat := if isV then 2 else 1
  BitVec.ofNat 64 ((keep ||| own) * 2 ^ 48 + gen % 2 ^ 16 * 2 ^ 32 + pos % 2 ^ 32)

/-- The words and the header of a half-write in its entry (R176); nothing where the page list leads out of the die's memory
(R8). -/
def kvPut (m : Memory) (g : KvSeg) (h : KvHalf) : Memory :=
  let e := kvEntry m g h.pos
  if kvReach m g e then
    let m := storeWords m (e + 8 + (if h.isV then 2 * kvHeadDim m g else 0)) h.words
    m.store e 8 (kvHeader (m.word e) h.pos h.gen h.isV) false
  else m

/-- A half-write at its segment, accepted (R176): one event. T of a segment starts no lower than its lo. -/
def kvAccept (m : Memory) (g : KvSeg) (h : KvHalf) : Memory :=
  let m := kvPut m g h
  let t := max (kvT m g) (kvLo m g)
  kvSetTC m g (kvAdvance m g (kvLimit m g - t) t) (kvC m g)

/-- Clear the halves of every entry of a segment whose position is at least f (R176). -/
def kvClear (m : Memory) (g : KvSeg) (f : Nat) : Nat → Nat → Memory
  | 0, _ => m
  | n + 1, q =>
      let e := kvEntry m g q
      let w := m.word e
      let m := if kvReach m g e && f ≤ bitsOf w 0 32 && bitsOf w 48 2 ≠ 0 then
          m.store e 8 (w &&& ~~~((3 : Word) <<< 48)) false
        else m
      kvClear m g f n (q + 1)

/-- A squash notice at a segment (R176). -/
def kvNotice (m : Memory) (g : KvSeg) (f gen : Nat) : Memory :=
  let m := kvSetTC m g (min (kvT m g) f) (kvC m g)
  let m := kvClear m g f (kvLimit m g - kvLo m g) (kvLo m g)
  kvSetNotice m g f gen

/-- An establish notice at a segment (R178). -/
def kvEstablish (m : Memory) (g : KvSeg) (q : Nat) : Memory := kvSetTC m g (kvT m g) (max (kvC m g) (q + 1))

/-- Is a half-write dropped at a segment (R176)? -/
def kvDropped (m : Memory) (g : KvSeg) (h : KvHalf) : Bool := kvF m g ≤ h.pos && h.gen < kvA m g

/-- The segments of a region, and those of them that a slot holds. -/
def regionSegs (r : Nat) : List KvSeg :=
  (List.range 16).flatMap (fun c => (List.range 64).map (fun e => ((⟨r, c⟩ : CellId), e)))

def slotSegs (m : Memory) (r slot : Nat) : List KvSeg :=
  (regionSegs r).filter (fun g => isKvCell g.1 && (kvRead m g 0).getLsbD 63 && bitsOf (kvRead m g 0) 32 13 = slot)

/-- KV_SEGMENT_SWITCH. -/
def execKvSegmentSwitch (c : CellId) (n : Nat) (s : State) : Host.Outcome State Fault Refusal :=
  if isKvCell c then .next { s with mem := kvSwitch s.mem (c, n) } else .next s

/-- Release what a segment withholds: it walks again (R398). -/
def State.kvResume (s : State) (g : KvSeg) : State :=
  { s with kv := s.kv.map (fun h => if h.at_ = some g then { h with held := false } else h) }

/-- KV_SEGMENT_RESUME. -/
def execKvSegmentResume (c : CellId) (n : Nat) (s : State) : Host.Outcome State Fault Refusal :=
  .next (s.kvResume (c, n))

/-- The unit at an image end of a placement. -/
def Placement.endUnit (p : Placement) (e : ImgEnd) : UnitId := endAt p.origin e

/-- Stop kv port k of a placement with a cause in its data element's EFAULT (R421, R422). -/
def State.stopPipe (s : State) (id k : Nat) (onData : Bool) (cause : Byte) : State :=
  match s.placement? id with
  | none => s
  | some p =>
    let s := s.setPlacement id { p with pipes := p.pipes.set k { p.pipes.get k {} with stopped := true } }
    let nr := p.img.pipes.reports.length
    let ends := if k < nr then (p.img.pipes.reports[k]?).map Prod.snd else (p.img.pipes.kvs[k - nr]?).map Prod.snd
    match ends with
    | some (hdr, data) =>
        s.recordFault (p.endUnit (if onData then data else hdr)) cause 0 0 none 0 0
    | none => s

/-- The offset of element k: innermost extent first (R159). -/
def elemOff : List Nat → List Word → Nat → Word
  | e :: es, w :: ws, k => BitVec.ofNat 64 (k % e) * w + elemOff es ws (k / e)
  | _, _, _ => 0

/-- The address of element k. -/
def Shape.addr (x : Shape) (k : Nat) : Word := x.base + elemOff x.ext x.str k

/-- The far side: the peer, or for rings and KV the record itself (R335). -/
def Cmd.far (c : Cmd) : Shape := c.peer.getD c.rec_

/-! ## Heat of stream elements (R380) -/

/-- The heat entry of a far address at a stream port, its counts 0 where another window's stood there. -/
def State.heatAt (s : State) (r p : Nat) (va : Word) : State :=
  let e := bitsOf va 21 5
  let tag := BitVec.ofNat 64 (bitsOf va 21 35)
  let h := (s.region r).heat.get (p, e) {}
  if h.valid && h.tag = tag then s
  else (s.modRegion r (fun R => { R with heat := R.heat.set (p, e) { valid := true, tag := tag } })).countPort r (4 + p) 12 1

/-- Change the counts of the heat entry of a far address. -/
def State.modHeat (s : State) (r p : Nat) (va : Word) (f : Heat → Heat) : State :=
  (s.heatAt r p va).modRegion r (fun R => { R with heat := R.heat.set (p, bitsOf va 21 5) (f (R.heat.get (p, bitsOf va 21 5) {})) })

/-- An element was performed (R380). -/
def State.heatTouch (s : State) (r p : Nat) (va : Word) : State :=
  s.modHeat r p va (fun h => { h with delivered := min (h.delivered + 1) (2 ^ 32 - 1) })

/-- Elements i, of n, of a command were performed at its port (R380). -/
def State.heatRun (s : State) (r : Nat) (c : Cmd) (i n : Nat) : State :=
  (List.range n).foldl (fun s k => s.heatTouch r c.port (c.far.addr (i + k))) s

/-- A half of a command ends: its elements count as performed, or the command stops with a cause (R345, R363). -/
def State.kvCmdEnd (s : State) (r : Nat) (c : Cmd) (n : Nat) (cause : Option Byte) : State :=
  let d := if cause.isNone then c.done + n else c.done
  ((s.heatRun r c c.done (d - c.done)).modCmd r c.tick (fun c => { c with done := d, half := none, waitKv := false, held := false, stop := cause })).modHandleOf r c
    (fun x => { x with held := false, progress := d })

/-- A half-write ends: performed, dropped, or with a cause. -/
def State.kvEnd (s : State) (h : KvHalf) (cause : Option Byte) : State :=
  let s := s.stir h.region
  match h.cmd, h.stage with
  | some tick, _ =>
      (match s.cmdOfTick h.region tick with
        | some c => s.forCmd h.region c (fun s => s.kvCmdEnd h.region c (1 + h.words.length) cause)
        | none => s)
  | none, some (id, k) =>
      (match cause with
        | none => s
        | some x => s.stopPipe id k true x)
  | none, none => s

/-- Withhold a half-write at its segment (R362, R397): PAGE_FAULT at the cell's region, or a fault event where it
holds no placement (R273). -/
def State.kvWithhold (s : State) (k : Nat) (h : KvHalf) (g : KvSeg) : State :=
  let s := { s with kv := s.kv.set k { h with at_ := some g, held := true } }
  let s := match h.cmd.bind (s.cmdOfTick h.region) with
    | some c => s.forCmd h.region c (fun s => s.modHandleOf h.region c (fun x => { x with held := true }))
    | none => s
  let q := BitVec.ofNat 64 h.pos
  if (s.region g.1.region).launch.isSome then s.raise g.1.region .page q
  else s.notify [3, BitVec.ofNat 64 g.1.region, BitVec.ofNat 64 g.1.cell, BitVec.ofNat 64 g.2, q]

/-- Count a half dropped at a segment (R176, R184, R377, R383). -/
def State.countLate (s : State) (slot r : Nat) : State :=
  let x := s.slot slot
  ((s.setSlot slot { x with late := min (x.late + 1) (2 ^ 64 - 1) }).countPkg 0xC02 1).count r 0x10 1

/-- The segment that a half-write reaches. -/
def State.kvSegOf (s : State) (h : KvHalf) : Option KvSeg :=
  match s.kvPlaceOf h.slot h.layer h.pos with
  | .here g | .below g | .past g => some g
  | .broken => none

/-- Is half k of the list behind an earlier one: of the same command or port, or one withheld at the same segment; those to
other segments go on (R397, R422)? -/
def State.kvBehind (s : State) (k : Nat) (h : KvHalf) (g : Option KvSeg) : Bool :=
  (s.kv.take k).any (fun e =>
    (!e.held && (e.cmd.isSome && e.cmd = h.cmd || e.stage.isSome && e.stage = h.stage)) || (e.held && g.isSome && e.at_ = g))

/-- Does a half's way to the die of its segment cross a link that is down (R15, R410)? -/
def State.kvDown (s : State) (h : KvHalf) : Bool :=
  (s.kvSegOf h).any (fun g =>
    (linksAlong (dieRoute (regionDie h.region) (regionDie g.1.region))).any (fun l => (s.link l.1).down))

/-- A half that reaches a segment: dropped there, or accepted (R176). -/
def State.kvReaches (s : State) (h : KvHalf) (g : KvSeg) : State :=
  if kvDropped s.mem g h then (s.countLate h.slot g.1.region).kvEnd h none
  else (State.echoWords { s with mem := kvAccept s.mem g h } g.1.region [kvWord g.1 g.2 4]).kvEnd h none

/-- A half whose way is cut: a command ends with LINK_DOWN; a port's, which is a store, ends whether or not it was performed
(R410). -/
def State.kvCut (s : State) (h : KvHalf) : State :=
  if h.cmd.isSome then s.kvEnd h (some cLINK)
  else
    let (n, s) := s.takeFree
    match Config.lostStore n, s.kvPlaceOf h.slot h.layer h.pos with
    | true, .here g => s.kvReaches h g
    | _, _ => s.kvEnd h none

/-- Half k, complete, reaches its segment, unless it is held or behind another (R176, R362, R410). -/
def State.kvPerform (s : State) (k : Nat) : State :=
  match s.kv[k]? with
  | none => s
  | some h =>
    if h.held || h.words.length ≠ h.need then s
    else if s.kvBehind k h (s.kvSegOf h) then s
    else if s.kvDown h then State.kvCut { s with kv := s.kv.eraseIdx k } h
    else match s.kvPlaceOf h.slot h.layer h.pos with
      | .past g => s.kvWithhold k h g
      | .below _ | .broken => State.kvEnd { s with kv := s.kv.eraseIdx k } h (some cPROT)
      | .here g => State.kvReaches { s with kv := s.kv.eraseIdx k } h g

/-- KV_HALF_WRITE: half k, complete, reaches its segment. -/
def execKvHalfWrite (k : Nat) (s : State) : Host.Outcome State Fault Refusal := .next (s.kvPerform k)

end Sys2Proof.Machine
end

