-- ==== Sys2Proof/Machine/Streams.lean ====
section
/-! DEFINITION. The stream dispatcher, shape records and the buffer table (spec/16 R334-R337, spec/17 R345-R349,
R363, spec/09 R153-R161, spec/24 R429, spec/18 R379, R380). -/

namespace Sys2Proof.Machine

/-! ## Shape records (R334) -/

/-- Bytes of an element. -/
def Shape.esz (x : Shape) : Nat := 2 ^ bitsOf x.ctl 0 3
def Shape.dims (x : Shape) : Nat := bitsOf x.ctl 3 2 + 1
def Shape.out (x : Shape) : Bool := x.ctl.getLsbD 5
def Shape.dest (x : Shape) : Nat := bitsOf x.ctl 6 3
def Shape.red (x : Shape) : Nat := bitsOf x.ctl 9 3
def Shape.watch (x : Shape) : Bool := x.ctl.getLsbD 12
def Shape.fmt (x : Shape) : Byte := BitVec.ofNat 8 (bitsOf x.ctl 16 8)
def Shape.ring (x : Shape) : Nat := bitsOf x.ctl 24 4
def Shape.cell (x : Shape) : Nat := bitsOf x.ctl 28 4
def Shape.mask (x : Shape) : Nat := bitsOf x.ctl 32 16
def Shape.target (x : Shape) : Nat := bitsOf x.ctl 32 18
def Shape.peer (x : Shape) : Nat := 64 * bitsOf x.ctl 52 12

/-- The element count. -/
def Shape.count (x : Shape) : Nat := x.ext.foldl (· * ·) 1

/-- The record at an address. -/
def shapeAt (m : Memory) (a : Nat) : Shape :=
  ⟨m.word a, [0, 4, 8, 12].map (fun o => m.readNat (a + 8 + o) 4), [0, 8, 16, 24].map (fun o => m.word (a + 24 + o)),
    m.word (a + 56)⟩

/-- The cells that a record names: by mask, or the one cell (R334). -/
def Shape.cells (x : Shape) (r : Nat) : List CellId :=
  if x.mask = 0 then [⟨r, x.cell⟩]
  else ((List.range 16).filter (fun i => x.mask / 2 ^ i % 2 = 1)).map (fun i => ⟨r, i⟩)

/-- Is a peer record used (R335)? -/
def Shape.usesPeer (x : Shape) : Bool := x.dest = 0 || x.dest = 2 || x.dest = 4

/-- Are extents and strides beyond the dimensions 1 and 0? -/
def Shape.dimsOk (x : Shape) : Bool :=
  (x.ext.drop x.dims).all (fun e => e = 1) && (x.str.drop x.dims).all (fun w => w = 0)

/-- Is the target field as its destination has it: a mask with cell 0 and dir in, a slot, a device? -/
def Shape.targetOk (x : Shape) : Bool :=
  if x.dest ≤ 1 then x.target / 2 ^ 16 = 0 && (x.mask = 0 || (x.cell = 0 && !x.out))
  else if x.dest = 2 then x.target = 0
  else if x.dest = 3 then x.target / 2 ^ 13 = 0
  else true

/-- Is the direction one that R335, R161 and R363 allow? -/
def Shape.dirOk (x : Shape) : Bool :=
  if x.dest = 3 then !x.out && x.esz = 8
  else if x.dest = 4 then x.out
  else x.red = 0 || (x.dest = 0 && !x.out)

/-- The third check of R336 on a record alone. -/
def Shape.ok (x : Shape) : Bool :=
  bitsOf x.ctl 0 3 < 4 && x.dest ≤ 4 && x.red ≤ 4 && bitsOf x.ctl 50 2 = 0 && bitsOf x.ctl 13 3 = 0 &&
    x.dimsOk && x.targetOk && x.dirOk && (x.red = 0 || x.dest = 0 || x.dest = 4)

/-- The rings that a ring destination names are declared (R40). -/
def State.ringsOk (s : State) (r : Nat) (x : Shape) : Bool :=
  x.dest ≠ 1 || (x.cells r).all (fun c => (s.ring? c x.ring).isSome)

/-- Does a record's 64 bytes lie within region r's store? -/
def Region.recIn (R : Region) (r a : Nat) : Bool := a + 64 ≤ R.rcap r

/-- The handle's state as HANDLE_STATE reports it (R336, R346). -/
def HState.code : HState → Nat
  | .free => 0 | .filling => 1 | .full => 2 | .draining => 3

def handleEval (h : Nat) (st : HState) : Word := BitVec.ofNat 64 (h + 256 * st.code)

/-- The checks of R336 in their order: the record and its peer, or a cause. -/
def State.sbindCheck (s : State) (r : Nat) (A B : Word) (h : Nat) : Except (Byte × Word) (Shape × Option Shape) :=
  let R := s.region r
  if A.toNat % 64 ≠ 0 then .error (cMISALIGNED, A)
  else if !R.recIn r A.toNat then .error (cPROT, A)
  else
    let x := shapeAt s.mem (rstoreBase r + A.toNat)
    if x.usesPeer && !R.recIn r x.peer then .error (cPROT, A)
    else if 15 < B.toNat then .error (cPROT, B)
    else
      let y : Option Shape := if x.usesPeer then some (shapeAt s.mem (rstoreBase r + x.peer)) else none
      if !x.ok || !s.ringsOk r x || y.any (fun p => p.count ≠ x.count) then .error (cPROT, A)
      else if (s.handle r h).st ≠ .free then .error (cHANDLE, handleEval h (s.handle r h).st)
      else .ok (x, y)

/-- Has the core a store of its own to come on a record that SBIND reads (R154)? -/
def State.recordPending (s : State) (r : Nat) (A : Word) : Bool :=
  let x := shapeAt s.mem (rstoreBase r + A.toNat)
  (s.core r).overlaps (rstoreBase r + A.toNat) 64 || (x.usesPeer && (s.core r).overlaps (rstoreBase r + x.peer) 64)

/-- Bind a command: handle FILLING, command queued, promise to d (R336). -/
def State.bind (s : State) (r : Nat) (d : BitVec 5) (h p : Nat) (x : Shape) (y : Option Shape) (watch fenced : Bool) : State :=
  let (tick, s) := s.takeTicket
  let (i, s) := s.takeFree
  let c : Cmd := {
    tick := tick, h := h, port := p, rec_ := x, peer := y, owner := (s.region r).launch,
    needStores := if fenced then s.owedTicks r else [],
    needCmds := if fenced then s.cmdTicks r else [] }
  let s := s.setHandle r h { st := .filling, watch := watch || x.watch, port := p, promise := Config.promise i }
  (s.modRegion r (fun R => { R with cmds := R.cmds ++ [c] })).retire r d (Config.promise i)

/-- Bind a command that passed its checks, once fewer than 64 of the region stand; until then the core stalls with the record as
read at issue (R336). -/
def State.bindWhenRoom (s : State) (r : Nat) (d : BitVec 5) (h p : Nat) (x : Shape) (y : Option Shape) (watch fenced : Bool) :
    State :=
  if 64 ≤ (s.cmdsOf r).length then s.modCore r (fun k => { k with stall := some (.sbind x y) })
  else s.bind r d h p x y watch fenced

/-- SBIND (R336). -/
def execSbind (d a b : BitVec 5) (h : BitVec 8) (watch fenced : Bool) (s : State) : Host.Outcome State Fault Refusal :=
  let r := s.site.region
  let B := (s.greg r b).toNat
  .next (match (s.core r).stall with
    | some (.sbind x y) => s.bindWhenRoom r d h.toNat B x y watch fenced
    | _ => s.using r [a, b]
      (if s.recordPending r (s.greg r a) then s.awaitRecord r
      else match s.sbindCheck r (s.greg r a) (s.greg r b) h.toNat with
      | .error (c, v) => s.trapHere r c v
      | .ok (x, y) => s.bindWhenRoom r d h.toNat B x y watch fenced))

/-! ## Commands at their ports -/

/-- Elements read and not yet performed: of a row or a half being gathered. -/
def Cmd.gathered (c : Cmd) : Nat :=
  if c.rec_.dest = 3 then (match c.half with | some h => 1 + h.words.length | none => 0)
  else if c.rec_.dest = 1 && !c.rec_.out then c.row.length
  else 0

/-- The next element. -/
def Cmd.next (c : Cmd) : Nat := c.done + c.gathered

/-- The command of a handle of region r, with the region that runs it. -/
def State.cmdOf (s : State) (r h : Nat) : Option (Nat × Cmd) := (s.cmdsOf r).find? (fun e => e.2.h = h)

/-- Is everything done that a fenced start waits for: the accesses of region r's core, and commands (R129, R154)? -/
def State.startMet (s : State) (r : Nat) (stores cmds : List Nat) : Bool :=
  stores.all (fun t => !(s.owedTicks r).contains t) && cmds.all (fun t => !s.cmdStands t)

/-- May a command start? -/
def State.mayStart (s : State) (r : Nat) (c : Cmd) : Bool := s.startMet (c.home.getD r) c.needStores c.needCmds

/-- A cause that shows at the start: a forbidden tag (R62), a reduction format (R161). -/
def Cmd.startCause (c : Cmd) : Option Byte :=
  let x := c.rec_
  if x.dest = 1 && !x.out && !tagLegal (tagFmt x.fmt) (tagGrp x.fmt) (tagSide x.fmt) then some cFORMAT
  else if x.red ≠ 0 then
    let f := tagFmt x.fmt
    if ((1 ≤ f.toNat && f.toNat ≤ 4) || (8 ≤ f.toNat && f.toNat ≤ 11)) && fmtWidth f = 8 * x.esz then none
    else some cFORMAT
  else none

/-- Start a command that may start. -/
def State.startCmd (s : State) (r : Nat) (c : Cmd) : State :=
  if c.started || !s.mayStart r c then s
  else s.modCmd r c.tick (fun c => { c with started := true, stop := c.startCause })

/-- STREAM_COMMAND_START (R337, R154). -/
def execStreamCommandStart (r port : Nat) (s : State) : Host.Outcome State Fault Refusal :=
  .next (s.atPort r port (fun s c => s.startCmd r c))

/-! ## Completion (R346, R347) -/

/-- Write one row of a ring slot, one event (R115). -/
def State.streamRow (s : State) (c : CellId) (n slot row : Nat) (x : Row) (p : Bool) : State :=
  match s.ring? c n with
  | none => s
  | some g => s.onStores c.region (fun m => m.writeRow (ringAddr c g slot row) x p)

/-- Write zero rows to a claimed slot from a row on, and tag it (R335). -/
def State.closeSlot (s : State) (c : CellId) (n slot row : Nat) (tag : Byte) : State :=
  ((List.range (32 - row)).foldl (fun s k => s.streamRow c n slot (row + k) 0 false) s).fillSlot c n slot tag

/-- Close the slots that a command holds claimed. -/
def State.closeClaims (s : State) (c : Cmd) : State :=
  c.claimed.foldl (fun s (cell, slot) =>
    s.closeSlot cell c.rec_.ring slot ((c.done * c.rec_.esz % 2048 + 63) / 64) c.rec_.fmt) s

/-- Take a command off its queue, its contexts torn down (R134). -/
def State.dropCmd (s : State) (r : Nat) (c : Cmd) : State :=
  { (s.modRegion r (fun R => { R with
      cmds := R.cmds.filter (fun e => e.tick ≠ c.tick),
      heldSince := if c.held then R.heldSince.del (4 + c.port) else R.heldSince })).closeCtxs c.ctxs with
    kv := s.kv.filter (fun h => !(h.region = r && h.cmd = some c.tick)) }

/-- Count a promise missed before the command ended, where its core has not been there to be told (R158). -/
def State.missOf (s : State) (r h : Nat) : State :=
  let x := s.handle r h
  if x.st = .filling && x.watch && !x.missed && x.promise.toNat < s.cyc then
    ((s.setHandle r h { x with missed := true }).count r 0x0E 1).raise r .promise (BitVec.ofNat 64 h)
  else s

/-- The handle becomes FULL. -/
def State.completeCmd (s : State) (r : Nat) (c : Cmd) (cause : Byte) : State :=
  let s := ((s.missOf (c.home.getD r) c.h).closeClaims c).dropCmd r c
  s.modHandleOf r c (fun x => { x with st := .full, held := false, cause := cause, progress := c.done })

/-- Complete a command with its cause, or when every element has been performed. -/
def State.endCmd (s : State) (r : Nat) (c : Cmd) : State :=
  if !c.started || c.waitKv then s
  else match c.stop with
    | some x => s.completeCmd r c x
    | none => if c.rec_.count ≤ c.done then s.completeCmd r c 0 else s

/-- STREAM_COMMAND_COMPLETE. -/
def execStreamCommandComplete (r port : Nat) (s : State) : Host.Outcome State Fault Refusal :=
  .next (s.atPort r port (fun s c => s.endCmd r c))

/-! ## The far side of an element -/

/-- A far access in pieces: one where it is aligned, bytes where it is not (DEDUCED from R115). -/
def farPieces (va : Word) (n : Nat) : List (Word × Nat) :=
  if va.toNat % n = 0 then [(va, n)] else (List.range n).map (fun i => (va + BitVec.ofNat 64 i, 1))

/-- What the far side's translation gives. -/
inductive FarXlat where
  | ok (l : List (Target × Nat))
  | walk
  | absent (va : Word)
  | stops (cause : Byte)
  deriving DecidableEq, Repr

/-- Translate the far side of an element at stream port p (R289, R290): the aperture belongs to no stream. -/
def State.farXlat (s : State) (r p : Nat) (acc : Access) : List (Word × Nat) → FarXlat
  | [] => .ok []
  | (va, n) :: l =>
      if inAperture va then .stops cPROT
      else match s.xlatPort r (4 + p) va acc with
        | .walk => .walk
        | .done .prot => .stops cPROT
        | .done .absent => .absent va
        | .done (.ok t) =>
            if s.routeDown (regionDie r) t.addr then .stops cLINK
            else match s.farXlat r p acc l with
              | .ok ts => .ok ((t, n) :: ts)
              | x => x

/-- A line of a stamped page as a load chooses its version, read whole, under the address of its first slot (R149, R299). -/
def State.readLine (s : State) (base line : Nat) : Option (Nat × List (Word × Bool)) :=
  (s.loadSlot base line).map (fun k => (lineSlot base line 0, (List.range 8).map (fun i =>
    let a := lineSlot base line k + 8 * i
    (s.mem.word a, s.mem.poisoned a))))

/-- n bytes at an offset of a line. -/
def lineBytes (l : List (Word × Bool)) (off n : Nat) : Nat × Bool :=
  let w := l.getD (off % 64 / 8) (0, false)
  (w.1.toNat / 2 ^ (8 * (off % 8)) % 2 ^ (8 * n), w.2)

/-- One far read, with the stamped line in hand before and after it; none where it must wait (R141, R149). -/
def State.farOne (s : State) (tick : Nat) (held : Option (Nat × List (Word × Bool))) (t : Target) (n : Nat) :
    Option ((Nat × Bool) × Option (Nat × List (Word × Bool))) :=
  match t with
  | .plain a => if s.postedBlocks a tick then none else (s.readTarget t n).map (fun v => (v, held))
  | .stamped base off =>
    match held.filter (fun l => l.1 = lineSlot base (off / 64) 0) with
    | some l => some (lineBytes l.2 off n, some l)
    | none => (s.readLine base (off / 64)).map (fun l => (lineBytes l.2 off n, some l))

/-- Read the far side of an element. -/
def State.farRead (s : State) (tick : Nat) (held : Option (Nat × List (Word × Bool))) :
    List (Target × Nat) → Option ((Nat × Bool) × Option (Nat × List (Word × Bool)))
  | [] => some ((0, false), held)
  | (t, n) :: l =>
      match s.farOne tick held t n with
      | none => none
      | some ((v, p), held) =>
        match s.farRead tick held l with
        | some ((w, q), held) => some ((v + 2 ^ (8 * n) * w, p || q), held)
        | none => none

/-- Read the far sides of elements that move together. -/
def State.farReads (s : State) (tick : Nat) (held : Option (Nat × List (Word × Bool))) :
    List (List (Target × Nat)) → Option (List (Nat × Bool) × Option (Nat × List (Word × Bool)))
  | [] => some ([], held)
  | ts :: tss =>
      match s.farRead tick held ts with
      | none => none
      | some (v, held) => (s.farReads tick held tss).map (fun (vs, held) => (v :: vs, held))

/-- What elements read from their far sides bring to a memory of a die: a payload that crosses a link may arrive with an error (R137). -/
def State.carriedAll (s : State) (die : Nat) : List (List (Target × Nat)) → List (Nat × Bool) → List (Nat × Bool) × State
  | ts :: tss, (v, p) :: vs =>
      let (q, s) := ts.foldl (fun (q, s) t => State.carried s die t.1.addr q) (p, s)
      let (vs, s) := s.carriedAll die tss vs
      ((v, q) :: vs, s)
  | _, _ => ([], s)

/-- Write the far side; a payload that crosses a link may arrive with an error (R137). -/
def State.farWrite (s : State) (die : Nat) : List (Target × Nat) → Nat → Bool → State
  | [], _, _ => s
  | (t, n) :: l, v, p =>
      let (q, s) := s.carried die t.addr p
      (s.writeTarget t n (BitVec.ofNat 64 v) q).farWrite die l (v / 2 ^ (8 * n)) p

/-! ## The near side -/

/-- The class of a command's lost arbitrations (R379). -/
def Shape.bankClass (x : Shape) : Nat := if x.dest = 1 then 4 else if x.dest = 3 then 5 else 6

/-- Write n bytes at a near address, aligned or not. -/
def Memory.nearStore (m : Memory) (a n v : Nat) (p : Bool) : Memory :=
  if a % n = 0 then m.store a n (BitVec.ofNat 64 v) p
  else
    let m := m.writeNat a n v
    if p then (m.setPoison a true).setPoison (a + n - 1) true else m

/-- One element of a reduction (R161): the new value and flags. -/
def reduceElem (op : Nat) (fmt : BitVec 4) (old x : Nat) : Nat × Flags :=
  match floatOf? fmt with
  | some f =>
      if op = 1 then let r := fAdd f old x; (r.bits, r.flags)
      else if op = 2 then
        let (v, fl) := (f.decode old).add (f.decode x)
        let r := roundTo f 0 true v
        (r.bits, r.flags ||| fl)
      else (pickMin f (op = 4) old x, 0)
  | none =>
    match intOf? fmt with
    | some (w, sg) =>
        let a := intVal w sg old
        let b := intVal w sg x
        if op = 1 then (intBits w (a + b), 0)
        else if op = 2 then
          let (v, c) := clampInt (intMin w sg) (intMax w sg) (a + b)
          (intBits w v, flagIf c flagSAT)
        else (if (a < b) = (op = 3) then old else x, 0)
    | none => (old, 0)

/-- Merge or write one element at a near address. -/
def State.nearWrite (s : State) (r : Nat) (x : Shape) (a v : Nat) (p : Bool) : State :=
  let n := x.esz
  if x.red = 0 then s.onStores r (fun m => m.nearStore a n v p)
  else
    let (w, f) := reduceElem x.red (tagFmt x.fmt) (s.mem.readNat a n) v
    let p := p || s.mem.poisoned a || s.mem.poisoned (a + n - 1)
    (s.onStores r (fun m => m.nearStore a n w p)).orFlags r f

/-- Is a near offset beyond the store, or an A-die cell's segment table written to (R22, R361)? -/
def State.nearBad (s : State) (r : Nat) (x : Shape) (o : Nat) : Bool :=
  if x.dest = 2 then s.rcap r < o + x.esz
  else s.scap r < o + x.esz ||
    (!x.out && (x.cells r).any isKvCell && decide (o < 65536) && decide (61440 < o + x.esz))

/-- The flat addresses of a near offset. -/
def Shape.nearAddrs (x : Shape) (r o : Nat) : List Nat :=
  if x.dest = 2 then [rstoreBase r + o] else (x.cells r).map (fun c => spadBase c + o)

/-! ## Bookkeeping of elements (R134, R345, R379, R380) -/

/-- Count bytes at the stream port. -/
def State.countStream (s : State) (r p : Nat) (ts : List (Target × Nat)) : State :=
  ts.foldl (fun s (t, n) =>
    s.countPort r (4 + p) (if t.addr < 2 ^ 51 && homeDie t.addr ≠ regionDie r then 1 else 0) n) s

/-- The flits that carry a command's bytes up to an element: one for each 64 (R134). -/
def Cmd.flitsTo (c : Cmd) (k : Nat) : Nat := (k * c.rec_.esz + 63) / 64

/-- Elements were moved: counters, heat, the command as `f` leaves it, flits and progress. -/
def State.moved (s : State) (r : Nat) (c : Cmd) (tss : List (List (Target × Nat))) (f : Cmd → Cmd) : State :=
  let s := (s.countStream r c.port tss.flatten).modCmd r c.tick f
  let s := s.heatRun r c c.done ((f c).done - c.done)
  let s := (List.range (c.flitsTo (f c).done - c.flitsTo c.done)).foldl (fun s _ => s.countFlits c.ctxs) s
  let s := if (f c).done = c.done then s else s.stir r
  s.modHandleOf r c (fun x => { x with progress := (f c).done })

/-- More elements performed. -/
def Cmd.step (n : Nat) (held : Option (Nat × List (Word × Bool))) (c : Cmd) : Cmd := { c with done := c.done + n, line := held }

/-- Withhold the element (R347, R397). -/
def State.holdCmd (s : State) (r : Nat) (c : Cmd) (va : Word) : State :=
  let s := s.modCmd r c.tick (fun c => { c with held := true, walked := false, split := false })
  let s := s.modHandleOf r c (fun x => { x with held := true })
  (s.modRegion r (fun R => { R with heldSince := R.heldSince.set (4 + c.port) 0 })).raise r .page va

/-- Stop a command with a cause. -/
def State.stopCmd (s : State) (r : Nat) (c : Cmd) (cause : Byte) : State :=
  s.modCmd r c.tick (fun c => { c with stop := some cause })

/-- The requester of a stream port's accesses at a bank. -/
def streamWho (c : Cmd) : Nat := 5 + c.port

/-- Take the banks of near addresses, or count each arbitration that is lost (R292, R379). -/
def State.nearBanks (s : State) (r : Nat) (c : Cmd) (as : List Nat) (t : State → State) : State :=
  let lost := as.filter (fun a => !s.bankServes a (streamWho c))
  if lost.isEmpty then t (s.takeBanks as (streamWho c))
  else (s.banksLost as (streamWho c)).countPort r (4 + c.port) c.rec_.bankClass lost.length

/-! ## Elements by destination -/

/-- The near lines that elements from address a on reach: two where a row does not begin a line. -/
def nearLines (n a : Nat) : List Nat := if n = 1 || a % 64 = 0 then [a] else [a, a + 63]

/-- Elements that move together, packed from the first up. -/
def packElems64 (n : Nat) (vs : List (Nat × Bool)) : Row := rowOf (8 * n) (vs.map Prod.fst)

/-- Scratchpad and region store, inward: the elements are written in every named cell, an aligned row of them as one event of 64 bytes
(R115, R300). -/
def State.elemIn (s : State) (r : Nat) (c : Cmd) (o : Nat) (tss : List (List (Target × Nat))) : State :=
  match s.farReads c.tick c.line tss with
  | none => s
  | some (vs, held) =>
      let as := c.rec_.nearAddrs r o
      s.nearBanks r c (as.flatMap (nearLines tss.length)) (fun s =>
        let (vs, s) := s.carriedAll (regionDie r) tss vs
        let put (s : State) (a : Nat) : State :=
          if 1 < tss.length && a % 64 = 0 then s.onStores r (fun m => m.writeRow a (packElems64 c.rec_.esz vs) (vs.any Prod.snd))
          else vs.zipIdx.foldl (fun s e => s.nearWrite r c.rec_ (a + c.rec_.esz * e.2) e.1.1 e.1.2) s
        (as.foldl put s).moved r c tss (Cmd.step tss.length held))

/-- The flat address where far targets lie in a row that begins an aligned line of 64 bytes. -/
def farRowAt (n : Nat) (tss : List (List (Target × Nat))) : Option Nat :=
  match tss with
  | [(.plain a, _)] :: _ :: _ =>
      if a % 64 = 0 && tss.zipIdx.all (fun e => e.1 = [(.plain (a + n * e.2), n)]) then some a else none
  | _ => none

/-- Write elements to their far sides, an aligned row of them as one event of 64 bytes (R115, R300). -/
def State.farWrites (s : State) (r n : Nat) (tss : List (List (Target × Nat))) (vs : List (Nat × Bool)) : State :=
  match farRowAt n tss with
  | some a =>
      let (p, s) := s.carried (regionDie r) a (vs.any Prod.snd)
      { s with mem := s.mem.writeRow a (packElems64 n vs) p }
  | none => (tss.zip vs).foldl (fun s e => s.farWrite (regionDie r) e.1 e.2.1 e.2.2) s

/-- Elements of n bytes as they stand from a near address on. -/
def State.nearElems (s : State) (n a k : Nat) : List (Nat × Bool) :=
  (List.range k).map (fun i =>
    let b := a + n * i
    (s.mem.readNat b n, s.mem.poisoned b || s.mem.poisoned (b + n - 1)))

/-- Scratchpad and region store, outward. -/
def State.elemOut (s : State) (r : Nat) (c : Cmd) (o : Nat) (tss : List (List (Target × Nat))) : State :=
  let as := c.rec_.nearAddrs r o
  let n := c.rec_.esz
  s.nearBanks r c (as.flatMap (nearLines tss.length)) (fun s =>
    (s.farWrites r n tss (s.nearElems n (as.headD 0) tss.length)).moved r c tss (Cmd.step tss.length none))

/-- A row of gathered elements, zero-filled. -/
def gatherRow (n : Nat) (ws : List Word) : Row := rowOf (8 * n) (ws.map (fun w => w.toNat))

/-- Ring, inward: claim, gather a row, its far side's elements one by one or an aligned row of them together, write it, and tag the
slot with its last row (R115, R294). -/
def State.elemRingIn (s : State) (r : Nat) (c : Cmd) (tss : List (List (Target × Nat))) : State :=
  let x := c.rec_
  let n := x.esz
  if c.claimed.isEmpty then
    let gs := (x.cells r).filterMap (fun k => (s.ring? k x.ring).map (fun g => (k, g)))
    if gs.all (fun e => e.2.tailSlot.st = .empty) then
      (gs.foldl (fun s e => s.setRing e.1 x.ring (e.2.claim (.stream c.tick))) s).modCmd r c.tick (fun c =>
        { c with claimed := gs.map (fun e => (e.1, e.2.tail)) })
    else s
  else match s.farReads c.tick c.line tss with
    | none => s
    | some (vs, held) =>
      let (vs, s) := s.carriedAll (regionDie r) tss vs
      let row := c.row ++ vs.map (fun v => BitVec.ofNat 64 v.1)
      let ps := c.rowPoison ++ vs.map Prod.snd
      if row.length * n < 64 && c.next + tss.length < x.count then
        s.moved r c tss (fun c => { c with row := row, rowPoison := ps, line := held })
      else
        let k := c.done * n % 2048 / 64
        let places := c.claimed.filterMap (fun (cell, slot) =>
          (s.ring? cell x.ring).map (fun g => (cell, slot, ringAddr cell g slot k)))
        s.nearBanks r c (places.map (fun e => e.2.2)) (fun s =>
          let s := places.foldl (fun s (cell, slot, _) =>
            let s := s.streamRow cell x.ring slot k (gatherRow n row) (ps.any id)
            if k = 31 then s.fillSlot cell x.ring slot x.fmt else s) s
          s.moved r c tss (fun c => { c with
            done := c.done + row.length, row := [], rowPoison := [], line := held, claimed := if k = 31 then [] else c.claimed }))

/-- Ring, outward: a row of the FULL head slot is read as one event; with its last row the slot is popped (R429). Its elements go
out one by one, or as an aligned row together (R115). -/
def State.elemRingOut (s : State) (r : Nat) (c : Cmd) (tss : List (List (Target × Nat))) : State :=
  let x := c.rec_
  let n := x.esz
  let pos := c.done * n % 2048
  let cell : CellId := ⟨r, x.cell⟩
  let go (s : State) (row : List Word) (p : Bool) : State :=
    let k := tss.length
    let vs := (List.range k).map (fun i =>
      let q := pos + n * i
      ((row.getD (q % 64 / 8) 0).toNat / 2 ^ (8 * (q % 8)) % 2 ^ (8 * n), p))
    (s.farWrites r n tss vs).moved r c tss (fun c => { c with
      done := c.done + k, row := if (pos + n * k) % 64 = 0 then [] else row,
      rowPoison := if (pos + n * k) % 64 = 0 then [] else [p] })
  if !c.row.isEmpty then go s c.row (c.rowPoison.any id)
  else match s.ring? cell x.ring with
    | none => s
    | some g =>
      if g.headSlot.st ≠ .full then s
      else
        let a := ringAddr cell g g.head (pos / 64)
        s.nearBanks r c [a] (fun s =>
          let row := (List.range 8).map (fun i => s.mem.word (a + 8 * i))
          let p := s.mem.rowPoisoned a
          let s := if pos / 64 = 31 then s.setRing cell x.ring g.pop else s
          go s row p)

/-- A KV stream's next word: a header, or a word of the half; a complete half leaves for its segment (R363). -/
def State.elemKv (s : State) (r : Nat) (c : Cmd) (ts : List (Target × Nat)) : State :=
  match s.farRead c.tick c.line ts with
  | none => s
  | some ((v, p), held) =>
    let (p, s) := ts.foldl (fun (q, s) t => State.carried s (regionDie r) t.1.addr q) (p, s)
    let w := BitVec.ofNat 64 v
    let slot := c.rec_.target % 2 ^ 13
    match c.half with
    | none =>
        if bitsOf w 56 8 ≠ 0 then s.stopCmd r c cPROT
        else match s.kvFirst slot (bitsOf w 49 7) with
          | none => s.stopCmd r c cPROT
          | some g => s.moved r c [ts] (fun c => { c with line := held, half := some ⟨w, [], kvHeadDim s.mem g / 4⟩ })
    | some b =>
        let ws := b.words ++ [(w, p)]
        let s := s.moved r c [ts] (fun c => { c with line := held, half := some { b with words := ws }, waitKv := ws.length = b.need })
        if ws.length = b.need then
          { s with ticket := s.ticket + 1, kv := s.kv ++ [{
              layer := bitsOf b.header 49 7, slot := slot, pos := bitsOf b.header 0 32, gen := bitsOf b.header 32 16,
              isV := b.header.getLsbD 48, words := ws, need := b.need, at_ := none, held := false, region := r,
              cmd := some c.tick, stage := none, tick := s.ticket }] }
        else s

/-- A write to another device, or one element of a link collective (R143, R335, R436). -/
def State.elemRemote (s : State) (r : Nat) (c : Cmd) (a : Nat) (ts : List (Target × Nat)) : State :=
  let x := c.rec_
  let n := x.esz
  if !s.dev.portUp (Config.remotePort x.target).val then s.stopCmd r c cLINK
  else if !Config.remoteAccepts x.target a n then s.stopCmd r c cPROT
  else match s.farRead c.tick c.line ts with
    | none => s
    | some ((v, _), held) =>
        let pay : RemotePayload :=
          if x.red = 0 then .bytes ((List.range n).map (fun i => BitVec.ofNat 8 (v / 2 ^ (8 * i))))
          else .reduce (BitVec.ofNat 3 x.red) (tagFmt x.fmt) (BitVec.ofNat 64 v)
        ((s.modDev (fun d => { d with remote := (x.target, a, pay) :: d.remote })).countPort r (4 + c.port) 2 n).moved
          r c [ts] (Cmd.step 1 held)

/-- The next elements of a command whose far sides are translated. -/
def State.elemAt (s : State) (r : Nat) (c : Cmd) (tss : List (List (Target × Nat))) : State :=
  let x := c.rec_
  let o := (x.addr c.next).toNat
  if x.dest = 1 then (if x.out then s.elemRingOut r c tss else s.elemRingIn r c tss)
  else if x.dest = 3 then s.elemKv r c tss.flatten
  else if x.dest = 4 then s.elemRemote r c o tss.flatten
  else if x.out then s.elemOut r c o tss
  else s.elemIn r c o tss

/-- Does a scratchpad or region-store element lie outside its store? -/
def State.elemBad (s : State) (r : Nat) (c : Cmd) : Bool :=
  (c.rec_.dest = 0 || c.rec_.dest = 2) && s.nearBad r c.rec_ (c.rec_.addr c.next).toNat

/-- The virtual address of the next element, and its access: remote streams read their far side. -/
def Cmd.va (c : Cmd) : Word := c.far.addr c.next
def Cmd.access (c : Cmd) : Access := if c.rec_.out && c.rec_.dest ≠ 4 then .store else .load

/-- Does a ring command wait for a slot, before its far side is looked at (R294, R429)? -/
def State.ringWaits (s : State) (r : Nat) (c : Cmd) : Bool :=
  let x := c.rec_
  if x.dest ≠ 1 then false
  else if x.out then c.row.isEmpty && (s.ring? ⟨r, x.cell⟩ x.ring).all (fun g => g.headSlot.st ≠ .full)
  else c.claimed.isEmpty && (x.cells r).any (fun k => (s.ring? k x.ring).all (fun g => g.tailSlot.st ≠ .empty))

/-- Do the m elements of a shape from element k on lie one after another? -/
def Shape.runs (x : Shape) (k m : Nat) : Bool :=
  (List.range m).all (fun i => (x.addr (k + i)).toNat = (x.addr k).toNat + x.esz * i)

/-- How many elements the next event of a command moves: those of an aligned 64-byte row where a side's shape fills it in order and
the other's runs on with it, else one; each merge of a reduction is one event (R115, R159, R161, R429). A far row that is out of step
with the rows of a ring goes by elements (DEDUCED, notes/assumptions/92). -/
def Cmd.rowLen (c : Cmd) : Nat :=
  let x := c.rec_
  let k := c.next
  let m := 64 / x.esz
  let far := (c.far.addr k).toNat % 64 = 0 && c.far.runs k m
  let near := x.runs k m && ((x.addr k).toNat % 64 = 0 || far)
  let ring := c.row.isEmpty && k * x.esz % 64 = 0 && far
  if !c.split && decide (k + m ≤ x.count) && (((x.dest = 0 || x.dest = 2) && x.red = 0 && near) || (x.dest = 1 && ring)) then m else 1

/-- Does a row that a command is about to move lie outside its store? -/
def State.rowBad (s : State) (r : Nat) (c : Cmd) (m : Nat) : Bool :=
  (c.rec_.dest = 0 || c.rec_.dest = 2) && s.nearBad r c.rec_ ((c.rec_.addr c.next).toNat + c.rec_.esz * (m - 1))

/-- The far sides of n elements that move together, all translated; none while one is not. -/
def State.farRow (s : State) (r : Nat) (c : Cmd) (n : Nat) : Option (List (List (Target × Nat))) :=
  (List.range n).mapM (fun i => match s.farXlat r c.port c.access (farPieces (c.far.addr (c.next + i)) c.rec_.esz) with
    | .ok ts => some ts
    | _ => none)

/-- Must a page of elements that move together be walked first: none of those before it is kept from moving (R354, R397, R406)? -/
def State.rowWalks (s : State) (r : Nat) (c : Cmd) (n : Nat) : Bool :=
  ((List.range n).map (fun i => s.farXlat r c.port c.access (farPieces (c.far.addr (c.next + i)) c.rec_.esz))).find?
    (fun x => match x with
      | .ok _ => false
      | _ => true) = some .walk

/-- The links of a command's next accesses on which it holds no context yet (R134). -/
def Cmd.lacks (c : Cmd) (r : Nat) (ts : List (Target × Nat)) : List (Nat × Bool) :=
  ((ts.flatMap (fun t => remoteRoute (regionDie r) t.1.addr)).filter (fun l => !c.ctxs.any (fun k => k.1 = l.1 && k.2.1 = l.2))).eraseDups

/-- Set up contexts of bulk traffic for a command, with its far side's shape; while a link has none left it waits (R134,
notes/assumptions/82). -/
def State.openCmd (s : State) (r : Nat) (c : Cmd) (ts : List (Target × Nat)) : State :=
  let x : Context := { st := 2, cls := c.rec_.bankClass - 3, phys := true, target := (ts.head?.map (fun t => t.1.addr)).getD 0,
                       launch := c.owner, ext := c.far.ext, str := c.far.str, esz := c.rec_.esz }
  match s.openOn x 192 48 (c.lacks r ts) with
  | some (cs, s) => s.modCmd r c.tick (fun c => { c with ctxs := c.ctxs ++ cs })
  | none => s

/-- The port accepts the access of a command's next elements, each once (R379). -/
def State.askElem (s : State) (r : Nat) (c : Cmd) (n : Nat) : State :=
  if c.next + n ≤ c.asked then s
  else (s.modCmd r c.tick (fun c => { c with asked := c.next + n })).countPort r (4 + c.port) 9 (c.next + n - max c.asked c.next)

/-- A command's port starts a page walk (R353, R379). -/
def State.walkCmd (s : State) (r : Nat) (c : Cmd) : State :=
  (s.modCmd r c.tick (fun c => { c with walked := true })).countPort r (4 + c.port) 10 1

/-- A command moves its next elements when it can. -/
def State.streamStep (s : State) (r : Nat) (c : Cmd) : State :=
  let x := c.rec_
  if !c.started || c.stop.isSome || c.held || c.walked || c.waitKv then s
  else if x.count ≤ c.next then (if c.half.isSome then s.stopCmd r c cPROT else s)
  else if s.ringWaits r c then s
  else if s.elemBad r c then s.stopCmd r c cPROT
  else
    let go (s : State) (tss : List (List (Target × Nat))) : State :=
      if (c.lacks r tss.flatten).isEmpty then s.elemAt r c tss else s.openCmd r c tss.flatten
    let whole := decide (1 < c.rowLen) && !s.rowBad r c c.rowLen
    match (if whole then s.farRow r c c.rowLen else none) with
    | some tss => go (s.askElem r c c.rowLen) tss
    | none =>
      if whole && s.rowWalks r c c.rowLen then (s.askElem r c c.rowLen).walkCmd r c
      else
      let s := s.askElem r c 1
      match s.farXlat r c.port c.access (farPieces c.va x.esz) with
      | .walk => s.walkCmd r c
      | .absent va => s.holdCmd r c va
      | .stops cause => s.stopCmd r c cause
      | .ok ts => go s [ts]

/-- STREAM_ELEMENT_PERFORM (R159). -/
def execStreamElementPerform (r port : Nat) (s : State) : Host.Outcome State Fault Refusal :=
  .next (s.atPort r port (fun s c => s.streamStep r c))

/-! ## Page walks (R353, R354, R397) -/

/-- The piece of a far access that needs a walk. -/
def State.walkVa (s : State) (r p : Nat) (acc : Access) (ps : List (Word × Nat)) : Option Word :=
  (ps.find? (fun e => match s.xlatPort r (4 + p) e.1 acc with | .walk => true | _ => false)).map Prod.fst

/-- The far pieces of the elements that a command is about to move. -/
def Cmd.nextPieces (c : Cmd) : List (Word × Nat) :=
  (List.range c.rowLen).flatMap (fun i => farPieces (c.far.addr (c.next + i)) c.rec_.esz)

/-- The end of a stream port's walk. Where it was for a later element of a row and finds no page to go on with, the elements before it
move first (R406). -/
def State.walkStream (s : State) (r : Nat) (c : Cmd) : State :=
  if !c.walked || c.held then s
  else
    let p := c.port
    let s1 := s.modCmd r c.tick (fun c => { c with walked := false })
    match s.walkVa r p c.access c.nextPieces with
    | none => s1
    | some va =>
      match s.walkPort r (4 + p) va, (farPieces c.va c.rec_.esz).any (fun e => e.1 = va) with
      | .ok t, own => (if own then s1.modCmd r c.tick (fun c => { c with split := false }) else s1).keep r (4 + p) va t
      | .absent, true => s1.holdCmd r c va
      | .prot, true => s1.stopCmd r c cPROT
      | _, false => s1.modCmd r c.tick (fun c => { c with split := true })

/-- PAGE_WALK_COMPLETE at port 0-19 (R379). -/
def execPageWalkComplete (r port : Nat) (s : State) : Host.Outcome State Fault Refusal :=
  if port < 4 then .next (s.walkMpe r port) else .next (s.atPort r (port - 4) (fun s c => s.walkStream r c))

/-! ## Promises and handles (R157, R158, R346-R349) -/

/-- PROMISE_MISSED (R158, R377). -/
def execPromiseMissed (r h : Nat) (s : State) : Host.Outcome State Fault Refusal :=
  let x := s.handle r h
  if x.st = .filling && x.watch && !x.missed && x.promise.toNat ≤ s.cyc then
    .next (((s.setHandle r h { x with missed := true }).count r 0x0E 1).raise r .promise (BitVec.ofNat 64 h))
  else .next s

/-- The record of a handle (R345). -/
def Handle.word (x : Handle) : Word :=
  BitVec.ofNat 2 x.st.code ++ BitVec.ofBool x.watch ++ BitVec.ofBool x.held ++ BitVec.ofNat 4 x.port ++ x.cause ++
    BitVec.ofNat 48 x.progress

/-- EVAL of a handle's cause (R349). -/
def Handle.eval (x : Handle) (h : Nat) : Word := BitVec.ofNat 64 (x.progress * 256 + h)

/-- HANDLE_STATE (R346). -/
def State.handleTrap (s : State) (r h : Nat) : State := s.trapHere r cHANDLE (handleEval h (s.handle r h).st)

/-- HWAIT of a FULL handle: it returns, or raises the handle's cause (R349). -/
def State.hwaitFull (s : State) (r h : Nat) : State :=
  let x := s.handle r h
  if x.cause = 0 then s.endWait r
  else (s.modCore r (fun k => { k with wait := none, run := .running })).trapHere r x.cause (x.eval h)

/-- HWAIT. -/
def execHwait (h : BitVec 8) (s : State) : Host.Outcome State Fault Refusal :=
  let r := s.site.region
  match (s.handle r h.toNat).st with
  | .filling => .next (s.wait r (.hwait h.toNat))
  | .full => .next (s.hwaitFull r h.toNat)
  | _ => .next (s.handleTrap r h.toNat)

/-- HQRY. -/
def execHqry (d : BitVec 5) (h : BitVec 8) (s : State) : Host.Outcome State Fault Refusal :=
  let r := s.site.region
  .next (s.retire r d (s.handle r h.toNat).word)

/-- HDRAIN. -/
def execHdrain (h : BitVec 8) (s : State) : Host.Outcome State Fault Refusal :=
  let r := s.site.region
  let x := s.handle r h.toNat
  if x.st = .full then .next ((s.setHandle r h.toNat { x with st := .draining }).advance r)
  else .next (s.handleTrap r h.toNat)

/-- A FREE handle keeps only its port. -/
def Handle.freed (x : Handle) : Handle := { port := x.port }

/-- HFREE. -/
def execHfree (h : BitVec 8) (s : State) : Host.Outcome State Fault Refusal :=
  let r := s.site.region
  let x := s.handle r h.toNat
  if x.st = .draining then .next ((s.setHandle r h.toNat x.freed).advance r) else .next (s.handleTrap r h.toNat)

/-- HCANCEL (R160, R348): the command stops between two elements; claimed slots are closed. -/
def execHcancel (h : BitVec 8) (s : State) : Host.Outcome State Fault Refusal :=
  let r := s.site.region
  let x := s.handle r h.toNat
  if x.st = .filling then
    let s1 := match s.cmdOf r h.toNat with
      | some (q, c) => s.forCmd q c (fun s => (s.closeClaims c).dropCmd q c)
      | none => s
    .next ((s1.setHandle r h.toNat x.freed).advance r)
  else .next (s.handleTrap r h.toNat)

end Sys2Proof.Machine
end

