-- ==== Sys2Proof/Machine/ImageChk.lean ====
section
/-! DEFINITION. The loader's checks of a configuration image (spec/02 R28-R45, spec/04 R73-R92, spec/07 R118-R120,
spec/12 R233, spec/16 R325, R329, spec/17 R351, R352, spec/24 R418). -/

namespace Sys2Proof

/-- The kind of a unit's section. -/
def ImgUnit.kind? (u : ImgUnit) : Option UnitKind := (⟨0, 0, u.sub⟩ : UnitId).kind?

/-- The rank of a kind in image order (R74). -/
def kindRank (sub : Nat) : Nat :=
  if sub < 16 then 0
  else match sub with
    | 16 => 1 | 19 => 2 | 20 => 3 | 21 => 4 | 22 => 5 | 23 => 6 | 17 => 7 | _ => 8

/-- The kind code of a completion record (R187, R350). -/
def kindCode (sub : Nat) : Nat :=
  if sub < 16 then 0
  else match sub with
    | 16 => 1 | 19 => 2 | 20 => 3 | 21 => 3 | 22 => 4 | 23 => 5 | 17 => 6 | _ => 7

/-- Offset +16 of a completion record: dy, dx, kind, slot (R350). -/
def ImgUnit.place (u : ImgUnit) (slot : Nat) : Nat :=
  u.dy * 2 ^ 24 + u.dx * 2 ^ 16 + kindCode u.sub * 2 ^ 12 + slot

/-- The position of a word in image order (R74); in one slot the lower phase comes first (notes/assumptions/50). -/
def ImgUnit.key (u : ImgUnit) (slot : Nat) : Nat :=
  ((((u.dy / 4 * 64 + u.dx / 4) * 16 + kindRank u.sub) * 16 + (u.dy % 4 * 4 + u.dx % 4)) * 32 + slot) * 4 + u.phase

/-- Is a ring declared in the cell of a unit (R40)? -/
def Image.declares (m : Image) (u : ImgUnit) (n : Nat) : Bool :=
  m.rings.any (fun g => g.dx / 4 = u.dx / 4 && g.dy / 4 = u.dy / 4 && g.ring = n)

/-- The rings that a word reads and that it writes (R233). -/
def Instr.ringUse : Instr → List Nat × List Nat
  | .vldr _ _ g _ => ([g.toNat], [])
  | .vstr _ _ g _ => ([], [g.toNat])
  | .tmma f => ([f.ringA.toNat, f.ringB.toNat], [])
  | .tmmag f a b => ([f.ringA.toNat, f.ringB.toNat, a.toNat, b.toNat], [])
  | .tmmax f a b => ([f.ringA.toNat, f.ringB.toNat, a.toNat, b.toNat], [])
  | .tdrain _ _ o _ _ _ => ([], [o.toNat])
  | .tload _ g _ => ([g.toNat], [])
  | .taddr _ g _ => ([g.toNat], [])
  | .ttrans g _ o => ([g.toNat], [o.toNat])
  | _ => ([], [])

/-- Does a V word name no ring for R233, being dormant? -/
def Instr.dormant (i : Instr) : Bool := i.vtrig.any (fun t => t.pred = 7 && !t.req)

/-- The ring uses of a cell's vector words in a phase. -/
def Image.vectorUse (m : Image) (u : ImgUnit) : List (List Nat × List Nat) :=
  m.units.flatMap (fun v =>
    if v.sub = 17 && v.dx / 4 = u.dx / 4 && v.dy / 4 = u.dy / 4 && v.phase = u.phase then
      v.words.filterMap (fun (_, w) => match decodeV (w.setWidth 32) with
        | .ok i => if i.dormant then none else some i.ringUse
        | .error _ => none)
    else [])

/-- Does a matrix word break R233 against its cell's vector words? -/
def Image.ringConflict (m : Image) (u : ImgUnit) (i : Instr) : Bool :=
  let (rd, wr) := i.ringUse
  (m.vectorUse u).any (fun (vr, vw) => rd.any (vr.contains ·) || wr.any (vw.contains ·))

/-- The dormant word that fills empty slots (R79). -/
def fillerWord : BitVec 32 := 0x38063180

/-- Does a CVE's word break R325: one CVT word, in slot 0 and context c0, every other slot the filler; the split mode limit
of R326 included? -/
def cveBad (split : Bool) (slot : Nat) (w : BitVec 32) (i : Instr) : Bool :=
  if slot ≠ 0 then w ≠ fillerWord
  else match i with
    | .cvtRne t _ _ _ d _ | .cvtRtz t _ _ _ d _ | .cvtRdn t _ _ _ d _ | .cvtRup t _ _ _ d _ =>
        t.ctx ≠ 0 || (split && Machine.fmtWidth d > 32)
    | _ => true

/-- The refusal of one word in its section (R74-R92). -/
def Image.wordReject (m : Image) (u : ImgUnit) (slot : Nat) (w : Word) : Option Reject :=
  let w32 : BitVec 32 := w.setWidth 32
  let ringsOk (i : Instr) := (i.ringUse.1 ++ i.ringUse.2).all (m.declares u)
  match u.kind? with
  | some .vn => match decodeV w32 with
    | .error e => some e
    | .ok i => if ringsOk i then none else some .selector
  | some .mn => match decodeM w with
    | .error e => some e
    | .ok none => none
    | .ok (some i) => if ringsOk i && !m.ringConflict u i then none else some .selector
  | some k => match decodeFor k w32 with
    | .error e => some e
    | .ok i => if k = .cve && cveBad u.split slot w32 i then some .selector else none
  | none => none

/-- The failing words: key, subcode, place. -/
def Image.wordFails (m : Image) : List (Nat × BitVec 8 × Nat) :=
  m.units.flatMap (fun u => u.words.filterMap (fun (slot, w) =>
    (m.wordReject u slot w).map (fun e => (u.key slot, e.subcode, u.place slot))))

/-- The failure that comes first in image order. -/
def firstFail : List (Nat × BitVec 8 × Nat) → Option (BitVec 8 × Nat)
  | [] => none
  | x :: xs => match xs.foldl (fun b y => if y.1 < b.1 then y else b) x with
    | (_, sub, pl) => some (sub, pl)

/-- The bound on primed tokens that image offsets alone fix (R33). -/
def Image.primeBound (m : Image) (u : ImgUnit) (i : Nat) : Nat :=
  let feeds (c : ImgChan) := c.phase = u.phase && c.dests.any (fun d => d.dx = u.dx && d.dy = u.dy && d.sub = (if u.sub < 16 then 0 else u.sub) && d.ch = i)
  match m.chans.find? feeds with
  | some c => if c.src.dx / 16 ≠ u.dx / 16 || c.src.dy / 16 ≠ u.dy / 16 then 8 else 4
  | none => 4

/-- A section whose primed tokens exceed their bound (R33), or a ring whose declaration no format admits or whose number or
slots R40 forbids: subcode 0x03 after every word's own checks, with kind and slot 0 (notes/assumptions/50). -/
def Image.lateFail (m : Image) : Option Nat :=
  match m.units.find? (fun u => u.primes.any (fun (i, vs) => m.primeBound u i < vs.length)) with
  | some u => some (u.place 0)
  | none =>
    match m.rings.find? (fun g => g.ring > 15 || g.slots = 0 || g.slots > 16 ||
        !Machine.tagLegal (Machine.tagFmt g.tag) (Machine.tagGrp g.tag) (Machine.tagSide g.tag)) with
    | some g => some (g.dy * 2 ^ 24 + g.dx * 2 ^ 16)
    | none => none

/-- R32 on a section's kind and offsets. -/
def Image.unitPlaced (m : Image) (u : ImgUnit) : Bool :=
  decide (u.dx < 16 * m.w) && decide (u.dy < 16 * m.h) &&
    match u.kind? with
    | some .ge => true
    | some .spe | some .vn | some .mn => u.dx % 4 = 0 && u.dy % 4 = 0
    | some .mpe | some .age => u.dx % 16 = 0 && u.dy % 4 = 0
    | some .cve => (u.dx % 16 = 0 || u.dx % 16 = 12) && (u.dy % 16 = 0 || u.dy % 16 = 12)
    | some .xpe => u.dx % 4 = 0 && u.dy % 4 = 0 && !m.pairs.isEmpty
    | none => false

/-- No member twice. -/
def distinct {α : Type} [DecidableEq α] : List α → Bool
  | [] => true
  | x :: xs => !xs.contains x && distinct xs

/-- The pipeline branches: output end, port number, whether the data branch (R418). Reports come first. -/
def Image.pipeEnds (m : Image) : List (ImgEnd × Nat × Bool) :=
  let rs := m.pipes.reports.mapIdx (fun k (_, h, d) => [(h, k, false), (d, k, true)])
  let ks := m.pipes.kvs.mapIdx (fun k (_, h, d) =>
    [(h, m.pipes.reports.length + k, false), (d, m.pipes.reports.length + k, true)])
  (rs ++ ks).flatten

/-- The input ends that the start port feeds: header, symbol, row. -/
def Image.startEnds (m : Image) : List ImgEnd :=
  match m.pipes.start with
  | some (h, y, r, _) => [h, y, r]
  | none => []

/-- Does an end lie in the rectangle and name a channel its kind has (R37, R80)? -/
def Image.endOk (m : Image) (e : ImgEnd) (isIn : Bool) : Bool :=
  decide (e.dx < 16 * m.w) && decide (e.dy < 16 * m.h) &&
    match (⟨0, 0, e.sub⟩ : UnitId).kind? with
    | some k => e.ch < (if isIn then k.channels.1 else k.channels.2)
    | none => false

/-- R37 and R418 on channels and pipeline ports; a `.chan` line is its phase's (R119, notes/assumptions/16). -/
def Image.chansOk (m : Image) : Bool :=
  let dests := m.chans.flatMap (fun c => c.dests.map (fun d => (some c.phase, d))) ++ m.startEnds.map (fun d => (none, d))
  let ports := m.pipeEnds
  m.chans.all (fun c => m.endOk c.src false &&
    decide (c.dests.length + (ports.filter (fun p => p.1 = c.src)).length ≤ 4)) &&
  dests.all (fun d => m.endOk d.2 true) && ports.all (fun p => m.endOk p.1 false) &&
  distinct dests && m.chans.all (fun c => c.dests.all (fun d => !m.startEnds.contains d)) &&
  distinct (m.chans.map (fun c => (c.phase, c.src)))

/-- Bytes that a cell's rings take. -/
def Image.ringBytes (m : Image) (cx cy : Nat) : Nat :=
  ((m.rings.filter (fun g => g.dx / 4 = cx && g.dy / 4 = cy)).map (fun g => 2048 * g.slots)).sum

/-- R329 on buffers and shared channels of the pairs; `caps` gives the capacities of the region at an image offset. -/
def Image.pairsOk (m : Image) (caps : Nat → Nat → Nat × Nat) : Bool :=
  m.pairs.all (fun p =>
    let (scap, rcap) := caps p.rx p.ry
    let top := 65536 + m.ringBytes (p.rx / 4) (p.ry / 4)
    let fit (spad : Bool) (o : Nat) :=
      if spad then decide (o + p.size ≤ scap) && (decide (o + p.size ≤ 65536) || decide (top ≤ o)) else decide (o + p.size ≤ rcap)
    p.size % 64 = 0 && decide (64 ≤ p.size) && decide (p.size ≤ 2 ^ 19) &&
    p.out < 4 && p.inp < 4 && p.rel < 4 && p.permitOut < 4 &&
    fit p.pingSpad p.pingOff && fit p.pongSpad p.pongOff &&
    m.chans.all (fun c => !(c.src.sub = 23 && c.src.dx / 4 = p.sx / 4 && c.src.dy / 4 = p.sy / 4 && c.src.ch = p.out))) &&
  distinct (m.pairs.map (fun p => (p.sx, p.sy, p.out))) &&
  distinct (m.pairs.map (fun p => (p.rx, p.ry, p.permitOut))) &&
  distinct (m.pairs.flatMap (fun p => [(p.rx, p.ry, p.inp), (p.rx, p.ry, p.rel)]))

/-- A range entry with its parameters substituted (R30). -/
def ImgRange.entry (g : ImgRange) (params : List Word) : Machine.RangeEnt :=
  ⟨(g.vparam.map (fun k => params.getD k 0)).getD g.vbase, (g.sparam.map (fun k => params.getD k 0)).getD g.size,
    g.phys, g.attr⟩

/-- R351 and R352 on an entry, valid or not. -/
def rangeOk (e : Machine.RangeEnt) : Bool :=
  let a := if e.attr.getLsbD 2 then 2 ^ 16 else 64
  e.attr.toNat / 256 = 0 && e.size ≠ 0 && e.vbase.toNat % a = 0 && e.size.toNat % a = 0 && e.phys.toNat % 64 = 0 &&
    Machine.canonical e.vbase && Machine.canonical (e.vbase + e.size - 1) &&
    decide (e.vbase.toNat + e.size.toNat ≤ 2 ^ 64) &&
    (decide (e.vbase.toNat + e.size.toNat ≤ 2 ^ 55) || e.vbase.msb)

/-- A shape record with its parameters substituted; a 32-bit extent takes a parameter's bits 31:0 (R30, R31,
notes/assumptions/81). -/
def Image.shapeBytes (m : Image) (params : List Word) (k : Nat) : List Byte :=
  let raw := Machine.Memory.empty.writeBytes 0 (m.shapes.getD k [])
  let mem := m.shapeParams.foldl (fun mem (i, o, j) =>
    if i = k then mem.writeNat o (if 8 ≤ o && o < 24 then 4 else 8) (params.getD j 0).toNat else mem) raw
  mem.readBytes 0 64

/-- Format paths (R75, 0x05): a record filling a ring whose declared tag differs. -/
def Image.pathsOk (m : Image) (params : List Word) : Bool :=
  (List.range m.shapes.length).all (fun k =>
    let x := Machine.shapeAt (Machine.Memory.empty.writeBytes 0 (m.shapeBytes params k)) 0
    x.dest ≠ 1 || x.out ||
      (x.cells 0).all (fun c =>
        match m.rings.find? (fun g => g.dx / 4 = c.cell % 4 && g.dy / 4 = c.cell / 4 && g.ring = x.ring) with
        | some g => Machine.tagSame g.tag x.fmt
        | none => true))

/-- The numbers of the phases (R119). -/
def Image.phaseNums (m : Image) : List Nat := if m.phases.isEmpty then [0] else m.phases.map Prod.fst

/-- The placed tag of a phase (R119). -/
def Image.placedTag (m : Image) (base : Byte) (n : Nat) : Byte := m.cfgtag + base + BitVec.ofNat 8 n

/-- R119: no two phases carry one tag, none 0x00. -/
def Image.tagsOk (m : Image) (base : Byte) : Bool :=
  let ts := m.phaseNums.map (m.placedTag base)
  distinct ts && !ts.contains 0

/-- The rule of a phase. -/
def Image.rule (m : Image) (n : Nat) : PhaseRule :=
  match m.phases.find? (fun p => p.1 = n) with
  | some p => p.2
  | none => .stop

end Sys2Proof
end

