-- ==== Sys2Proof/Machine/Load.lean ====
section
/-! DEFINITION. Fitting, placing and releasing a configuration, phases, and banks (spec/07 R118-R124, spec/06 R109, spec/08
R134, spec/14 R258, R263, spec/15 R293, R294, spec/24 R418, R426). -/

namespace Sys2Proof.Machine

/-! ## Geometry of a placement -/

/-- All of a list's members, if each is there. -/
def allSome {α : Type} : List (Option α) → Option (List α)
  | [] => some []
  | some x :: xs => (allSome xs).map (x :: ·)
  | none :: _ => none

/-- The regions of a rectangle, row by row, if each position holds one (R118). -/
def rectRegions (o w h : Nat) : Option (List Nat) :=
  let (ox, oy) := regionXY o
  allSome ((List.range h).flatMap (fun j => (List.range w).map (fun i => regionAt (ox + i) (oy + j))))

/-- The route of a branch as cells, and the die-to-die links with direction that it crosses (R109, R134). -/
def branchRoute (a b : UnitId) : List (Nat × Nat) := routeCells (cellXY a.cellId) (cellXY b.cellId)
def branchLinks (a b : UnitId) : List (Nat × Bool) := linksAlong (diesOf (branchRoute a b))

/-- Input capacity and window limit of a branch (R109). -/
def branchCap (a b : UnitId) : Nat × Nat :=
  if !(branchLinks a b).isEmpty then (32, 34)
  else if crossesRegion (branchRoute a b) then (8, 10)
  else (4, 6)

/-- The members of a list, each once. -/
def once {α : Type} [DecidableEq α] : List α → List α
  | [] => []
  | x :: xs => x :: (once xs).filter (fun y => y ≠ x)

/-- A branch: source and channel, destination and channel. -/
abbrev Branch := (UnitId × Nat) × (UnitId × Nat)

/-- The branches of a `.chan` at an origin. -/
def chanBranches (o : Nat) (c : ImgChan) : List Branch :=
  c.dests.map (fun d => ((endAt o c.src, c.src.ch), (endAt o d, d.ch)))

/-- The branches of an image at an origin, in any phase. -/
def branchesAt (m : Image) (o : Nat) : List Branch := once (m.chans.flatMap (chanBranches o))

/-- The boundary contexts that an image needs at an origin, one entry for each. -/
def ctxNeeds (m : Image) (o : Nat) : List (Nat × Bool) :=
  (branchesAt m o).flatMap (fun b => branchLinks b.1.1 b.2.1)

/-- Does a cell stand beside a cell of another die in its row? -/
def besideDie (c : CellId) (d : Nat) : Bool :=
  let (x, y) := cellXY c
  [x + 1, x - 1].any (fun k => (cellAtXY k y).any (fun e => regionDie e.region = d))

/-- The two cells of a pair, with the link and the direction between them, where they lie on the two sides of one A–C boundary (R11,
R18, R426). -/
def pairSides (o : Nat) (p : ImgPair) : Option (UnitId × UnitId × Nat × Bool) :=
  match atOffset o p.sx p.sy 23, atOffset o p.rx p.ry 23 with
  | some a, some b =>
    if (decide (unitDie a < 4) != decide (unitDie b < 4)) && besideDie a.cellId (unitDie b) && besideDie b.cellId (unitDie a) then
      (linkBetween (unitDie a) (unitDie b)).map (fun (l, d) => (a, b, l, d))
    else none
  | _, _ => none

/-- Those of a pair each of whose cells holds an XPE (R18, R329). -/
def pairEnds (o : Nat) (p : ImgPair) : Option (UnitId × UnitId × Nat × Bool) :=
  (pairSides o p).filter (fun e => unitExists e.1 && unitExists e.2.1)

/-! ## Fitting (R118, R131, R426) -/

/-- The four conditions of R118 on one region; `victims` count as free; a gated region only if allowed
(R446). -/
def State.regionFits (s : State) (m : Image) (mask : Nat) (victims : List Nat) (gatedOk : Bool) (r : Nat) : Bool :=
  let R := s.region r
  R.present && (R.launch.isNone || victims.contains r) && mask.testBit (regionDie r) &&
    decide (1024 * m.spadKib ≤ R.scap r) && decide (1024 * m.rcapKib ≤ R.rcap r) && (gatedOk || !R.gated)

/-- Does the rectangle fit at an origin: its regions free (R118), contexts free for its channels, its pairs on an A–C
boundary (R426)? -/
def State.fitsAt (s : State) (m : Image) (mask : Nat) (victims : List Nat) (gatedOk : Bool) (o : Nat) : Bool :=
  match rectRegions o m.w m.h with
  | none => false
  | some rs =>
    let needs := ctxNeeds m o
    rs.all (s.regionFits m mask victims gatedOk) &&
    m.pairs.all (fun p => (pairSides o p).isSome) &&
    (!victims.isEmpty || needs.all (fun k => decide ((needs.filter (fun x => x = k)).length > 128) ||
      decide ((needs.filter (fun x => x = k)).length ≤ (s.link k.1).freeCount k.2 0 128)))

/-- The first origin where an image fits; a gated region is used only where nothing else does (R131, R446). -/
def State.findOrigin (s : State) (m : Image) (mask : Nat) (victims : List Nat) : Option Nat :=
  match (List.range 80).find? (s.fitsAt m mask victims false) with
  | some o => some o
  | none => (List.range 80).find? (s.fitsAt m mask victims true)

/-- The state as if no region were fused out (R75). -/
def State.unfused (s : State) : State :=
  { s with regions := s.regions.map (fun e => (e.1, { e.2 with present := true })) }

/-- Would it fit with every region free (R131, R22)? -/
def State.everFits (s : State) (m : Image) (mask : Nat) : Bool :=
  (List.range 80).any (s.fitsAt m mask (List.range 80) true)

/-! ## Checks at placement (R74) -/

/-- The capacities of the region that an image offset names at an origin (R21, R22). -/
def State.capsAt (s : State) (o dx dy : Nat) : Nat × Nat :=
  let (ox, oy) := regionXY o
  match regionAt (ox + dx / 16) (oy + dy / 16) with
  | some r => (s.scap r, s.rcap r)
  | none => (0, 0)

/-- CONFIG_REJECT of an image at an origin, in the order of R74: subcode and place. Checks that belong to no word come
after those of the words (notes/assumptions/50). -/
def State.loadReject (s : State) (m : Image) (o : Nat) (base : Byte) (params : List Word) : Option (Byte × Nat) :=
  let needs := ctxNeeds m o
  if m.rings.any (fun g => decide ((s.capsAt o g.dx g.dy).1 < 65536 + m.ringBytes (g.dx / 4) (g.dy / 4))) then some (0x04, 0)
  else if !m.pathsOk params then some (0x05, 0)
  else if !m.tagsOk base || !m.units.all (fun u => m.unitPlaced u && unitExists (unitAt o u.dx u.dy u.sub)) ||
      !m.chansOk || !m.pairs.all (fun p => (pairEnds o p).isSome) || !m.pairsOk (s.capsAt o) || !m.ranges.all (fun g => rangeOk (g.entry params)) ||
      (branchesAt m o).any (fun b => !unitExists b.1.1 || !unitExists b.2.1) ||
      needs.any (fun k => decide ((needs.filter (fun x => x = k)).length > 128)) ||
      (m.pipes.start.isSome && ((rectRegions o m.w m.h).getD []).all (fun r => decide (regionDie r < 4))) then
    some (0x06, 0)
  else match firstFail m.wordFails with
    | some (sub, pl) => some (sub, pl)
    | none => (m.lateFail).map (fun pl => (0x03, pl))

/-- R263 and R22: the spill carve-out of every region of the rectangle. -/
def State.spillBad (s : State) (m : Image) (rs : List Nat) : Bool :=
  m.spill % 128 ≠ 0 || rs.any (fun r =>
    let R := s.region r
    decide (R.rcap r < m.spill) || R.core.wovf.toNat % 128 ≠ 0 || R.core.wovlim.toNat % 128 ≠ 0)

/-! ## Releasing -/

/-- The tokens on a channel. -/
def Chan.held (c : Chan) : Nat :=
  (splitFilled c.places).1.length + (c.hops.map (fun h => h.waiting.length + h.wire.length)).sum + c.inq.length

/-- Is a sink in one of the regions? -/
def sinkIn (rs : List Nat) (id : Nat) : Sink → Bool
  | .inp u _ => rs.contains u.region
  | .pipe k _ _ => k = id

/-- What stays of a region that launch id leaves: presence, capacity, gate, settings of system software, notices, records on
their way to the trace buffer (R386), and commands that other launches left running at its ports (R156). -/
def Region.vacated (R : Region) (id : Nat) : Region :=
  { cmds := R.cmds.filter (fun c => c.owner ≠ some id), present := R.present, half := R.half, gated := R.gated, faultArea := R.faultArea, pflimit := R.pflimit,
    notices := R.notices, core := { evec := R.core.evec }, tracePend := R.tracePend, traceCyc := R.traceCyc, tracePc := R.tracePc,
    traceN := R.traceN, traceDrop := R.traceDrop }

/-- Tear down the contexts of a launch on every link (R135, R364). -/
def State.dropContexts (s : State) (id : Nat) : State :=
  { s with links := s.links.map (fun (l, L) =>
      (l, { L with ctxs := L.ctxs.filter (fun e => e.2.launch ≠ some id) })) }

/-- Remove a placement's channels, units, rings and pairs, and vacate its regions (R124). -/
def State.vacate (s : State) (id : Nat) (rs : List Nat) : State :=
  let s := { s with
    units := s.units.filter (fun e => !rs.contains e.1.region)
    notes := s.notes.filter (fun e => !rs.contains e.1.region)
    chans := s.chans.filter (fun e => !sinkIn rs id e.1)
    wires := s.wires.filter (fun e => !rs.contains e.1.1.region)
    rings := s.rings.filter (fun e => !rs.contains e.1.1.region)
    pairs := s.pairs.filter (fun e => e.2.launch ≠ id) }
  rs.foldl (fun s r => s.modRegion r (fun R => R.vacated id)) (s.dropContexts id)

/-! ## Placing -/

/-- Open a context on a link for a launch; its number. Its message's shape is one element of 8 bytes (R134; DESIGN CHOICE,
notes/assumptions/82). -/
def State.openCtx (s : State) (id l : Nat) (dir : Bool) (lo n target : Nat) : Nat × State :=
  match (s.link l).freeCtx dir lo n with
  | some c =>
      let x : Context := { st := 2, cls := 0, phys := false, target := target, launch := some id, ext := [1, 1, 1, 1], str := [0, 0, 0, 0] }
      (c, s.modLink l (fun L => { L with ctxs := L.ctxs.set (dir, c) x }))
  | none => (lo, s)

/-- The target of a boundary context: cell grid position and input (R364). -/
def ctxTarget (u : UnitId) (i : Nat) : Nat :=
  let (x, y) := cellXY u.cellId
  i * 2 ^ 12 + y * 64 + x

/-- The die edges of a branch, each with its context. -/
def State.openHops (s : State) (id : Nat) (u : UnitId) (i : Nat) : List (Nat × Bool) → List Hop × State
  | [] => ([], s)
  | (l, d) :: ls =>
      let (c, s) := s.openCtx id l d 0 128 (ctxTarget u i)
      let (hs, s) := s.openHops id u i ls
      (⟨l, d, c, [], [], 0⟩ :: hs, s)

/-- The hops of a route, nothing on them. -/
def Route.path (t : Route) : List Hop := t.hops.map (fun (l, d, c) => ⟨l, d, c, [], [], 0⟩)

/-- The route of a branch of a placement, its contexts opened; over a link that is down the branch is full (R410). -/
def State.addRoute (s : State) (id : Nat) (b : Branch) : Route × State :=
  let (cap, lim) := branchCap b.1.1 b.2.1
  let (hs, s) := s.openHops id b.2.1 b.2.2 (branchLinks b.1.1 b.2.1)
  let t : Route := ⟨b.1, b.2, cap, if hs.all (fun h => s.linkUp h.link) then lim else 0, hs.map (fun h => (h.link, h.dir, h.ctx))⟩
  (t, s.modHub (fun h => { h with placements := h.placements.map (fun e =>
    if e.1 = id then (e.1, { e.2 with routes := e.2.routes ++ [t] }) else e) }))

/-- Lay one branch: its route is opened, and its input stands. -/
def State.layBranch (s : State) (id : Nat) (b : Branch) : State :=
  let (t, s) := s.addRoute id b
  if (s.chans.get? (.inp b.2.1 b.2.2)).isSome then s
  else { s with chans := s.chans.set (.inp b.2.1 b.2.2) { src := some b.1, cap := t.cap, limit := t.limit, hops := t.path } }

/-- An input takes another branch as its feeder: tokens that its earlier feeder left stay, in no window. -/
def Chan.rebind (c : Chan) (t : Route) : Chan :=
  if c.src = some t.src then c
  else { c with src := some t.src, cap := t.cap, limit := t.limit, hops := t.path, owed := 0,
                inq := (c.inq ++ c.hops.reverse.flatMap (fun h => h.wire ++ h.waiting)).map (fun k => { k with stray := true }) }

/-- The branches of a region's outputs in a phase (R119, R123); those of pipeline ports stand in every phase. -/
def State.bindPhase (s : State) (id r n : Nat) : State :=
  match s.placement? id with
  | none => s
  | some p =>
    let pipes (ks : List Sink) := ks.filter (fun k => match k with
      | .pipe _ _ _ => true
      | .inp _ _ => false)
    let s1 : State := { s with wires := s.wires.map (fun e => if e.1.1.region = r then (e.1, pipes e.2) else e) }
    let bs := (p.img.chans.filter (fun c => c.phase = n)).flatMap (chanBranches p.origin)
    (p.routes.filter (fun t => t.src.1.region = r && bs.contains (t.src, t.dst))).foldl (fun s t =>
      let k : Sink := .inp t.dst.1 t.dst.2
      State.modChan { s with wires := s.wires.set t.src (s.branches t.src.1 t.src.2 ++ [k]) } k (fun c => c.rebind t)) s1

/-- Lay a pipeline branch: a branch within one cell (R418). -/
def State.layPipe (s : State) (id o : Nat) (p : ImgEnd × Nat × Bool) : State :=
  let a := endAt o p.1
  let k : Sink := .pipe id p.2.1 p.2.2
  { s with chans := s.chans.set k { src := some (a, p.1.ch) }
           wires := s.wires.set (a, p.1.ch) (s.branches a p.1.ch ++ [k]) }

/-- An input that the start port feeds (R420). -/
def State.layStart (s : State) (o : Nat) (e : ImgEnd) : State :=
  { s with chans := s.chans.set (.inp (endAt o e) e.ch) { cap := 32, limit := 34 } }

/-- The rings of a cell, in ascending number, from an offset (R293, R294). A label fills slot 0. -/
def State.layRings (s : State) (c : CellId) (dataP : Nat) : Nat → List ImgRing → State
  | _, [] => s
  | off, g :: gs =>
      let empty : List RSlot := List.replicate g.slots ⟨.empty, g.tag, .nobody⟩
      let s := match g.label with
        | none => s.setRing c g.ring { base := off, decl := g.tag, slots := empty }
        | some lab =>
            let rows := (List.range 32).map (fun k => s.mem.row (dataP + lab + 64 * k))
            let mem := (List.range 32).foldl (fun (m : Memory) k =>
              m.writeRow (spadBase c + off + 64 * k) (rows.getD k 0) (s.mem.rowPoisoned (dataP + lab + 64 * k))) s.mem
            State.setRing { s with mem := mem } c g.ring
              { base := off, decl := g.tag, tail := 1 % g.slots,
                slots := empty.set 0 ⟨.full, refin g.tag rows, .nobody⟩ }
      s.layRings c dataP (off + 2048 * g.slots) gs

/-- A cell's declared rings in ascending number. -/
def cellRings (m : Image) (cx cy : Nat) : List ImgRing :=
  (List.range 16).flatMap (fun n => m.rings.filter (fun g => g.dx / 4 = cx && g.dy / 4 = cy && g.ring = n))

/-- The image's cell offsets of a cell of region (rx, ry) of the rectangle. -/
def State.layCells (s : State) (m : Image) (o r : Nat) : State :=
  let (ox, oy) := regionXY o
  (List.range 16).foldl (fun s c =>
    let (x, y) := cellXY ⟨r, c⟩
    s.layRings ⟨r, c⟩ m.dataP 65536 (cellRings m (x - 4 * ox) (y - 4 * oy))) s

/-- A region's range entries (R351). -/
def rangesOf (m : Image) (o r : Nat) (params : List Word) : Map (Nat × Nat) RangeEnt :=
  let (ox, oy) := regionXY o
  let (x, y) := regionXY r
  (m.ranges.filter (fun g => g.rx = x - ox && g.ry = y - oy)).map (fun g => ((g.port, g.idx), g.entry params))

/-- A core as the loader leaves it (R30, R125, R263). WOVF and WOVLIM are as system software wrote them. -/
def loadCore (m : Image) (R : Region) (r : Nat) (origin : Bool) (params : List Word) : Core :=
  let k : Core :=
    { evec := R.core.evec
      wovf := R.core.wovf
      wovlim := R.core.wovlim
      wlim := BitVec.ofNat 64 m.spill
      wspill := BitVec.ofNat 64 (R.rcap r - m.spill)
      codeV := m.codeV
      codeP := m.codeP
      codeSize := m.codeSize
      dataV := m.dataV
      dataP := m.dataP
      dataSize := m.dataSize }
  if origin then
    (List.range 8).foldl (fun k i => k.write (BitVec.ofNat 5 (8 + i)) (params.getD i 0) false) { k with pc := m.entry }
  else { k with pc := m.rest, run := .halted, wait := some .halt }

/-- A region as placement leaves it. -/
def loadRegion (m : Image) (R : Region) (id o r : Nat) (base : Byte) (params : List Word) : Region :=
  let (ox, oy) := regionXY o
  let (x, y) := regionXY r
  { R.vacated id with
    launch := some id
    origin := decide (r = o)
    rx := x - ox
    ry := y - oy
    tag := m.placedTag base 0
    tags_ := m.phaseNums.map (m.placedTag base)
    ranges := rangesOf m o r params
    core := loadCore m R r (decide (r = o)) params
    gated := false }

/-- An exchange pair as placement leaves it: both parities FREE, one exchange context (R134, R164, R329). -/
def State.layPair (s : State) (id o : Nat) (p : ImgPair) : State :=
  match pairEnds o p with
  | none => s
  | some (a, b, l, d) =>
    let (c, s) := s.openCtx id l d 240 16 (ctxTarget b p.inp)
    let (k, s) := s.takeTicket
    let flat (spad : Bool) (off : Nat) := if spad then spadBase b.cellId + off else rstoreBase b.region + off
    s.setPair k ⟨id, a, p.out, b, p.inp, p.rel, p.permitOut, p.size, { addr := flat p.pingSpad p.pingOff },
      { addr := flat p.pongSpad p.pongOff }, [], [], l, d, c⟩

/-- Zero a gated region's stores on ungating (R446). -/
def State.zeroStores (s : State) (r : Nat) : State :=
  let inR (a : Nat) := (2 ^ 52 + r * 2 ^ 24 ≤ a && a < 2 ^ 52 + (r + 1) * 2 ^ 24) || (rstoreBase r ≤ a && a < rstoreBase (r + 1))
  { s with mem := { cells := s.mem.cells.filter (fun c => !inR c.1), poison := s.mem.poison.filter (fun w => !inR (8 * w)) } }

/-- Ungate a region. -/
def State.ungate (s : State) (r : Nat) : State :=
  if (s.region r).gated then (s.zeroStores r).modRegion r (fun R => { R with gated := false, cache := [] }) else s

/-! ## Phase entry (R93, R123, R210, R328) -/

/-- A primed token (R33, R390). -/
def primeTok (tag : Byte) (params : List Word) : PrimeVal → Tok
  | .data w => { data := w, tag := tag, origin := .primed }
  | .param k => { data := params.getD k 0, tag := tag, origin := .primed }
  | .done => { data := 0, kind := 1, tag := tag, origin := .primed }
  | .mark c => { data := c.setWidth 64, kind := 2, tag := tag, origin := .primed }

/-- The contexts of a vector node at phase entry: the predicates that its list names are 1. -/
def vpredCtx (vp : List (BitVec 2 × BitVec 3)) : Map Nat Ctx :=
  vp.foldl (fun m (c, p) =>
    let x : Ctx := m.get c.toNat {}
    m.set c.toNat { x with p := setBit x.p p.toNat true }) []

/-- An element on entering a phase: every context at its load values, the arbiter at c0 (R93, R106, R123). -/
def EUnit.enter (x : EUnit) : EUnit := { x with ctx := [], stride := [], lastCtx := 3 }

/-- Prime one input (R33): ahead of all other tokens. -/
def State.primeInput (s : State) (u : UnitId) (tag : Byte) (params : List Word) (p : Nat × List PrimeVal) : State :=
  s.modChan (.inp u p.1) (fun c => { c with
    inq := p.2.map (primeTok tag params) ++ c.inq, primedN := p.2.length })

/-- The element of a region that an image section configures: the region keeps its offset in the placement wherever it is
restored (R32, R188). -/
def State.sectionUnit (s : State) (r : Nat) (v : ImgUnit) : Option UnitId :=
  let R := s.region r
  if v.dx / 16 = R.rx && v.dy / 16 = R.ry then atOffset r (v.dx % 16) (v.dy % 16) v.sub else none

/-- A section's load values: predicates, mode of a converter, primed tokens. -/
def State.enterUnit (s : State) (k : UnitId) (tag : Byte) (params : List Word) (u : ImgUnit) : State :=
  let s := s.modUnit k (fun x => { x with ctx := if u.sub = 17 then vpredCtx u.vpreds else x.ctx, split := u.split })
  u.primes.foldl (fun s p => s.primeInput k tag params p) s

/-- Discard the tokens of a tag that are left on the region's channels; their branches are credited (R123). -/
def Chan.discard (c : Chan) (t : Byte) : Chan :=
  { c with inq := c.inq.filter (fun k => k.tag ≠ t), primedN := 0,
           owed := c.owed + (c.inq.filter (fun k => k.tag = t && !k.stray)).length }

def State.discardTag (s : State) (r : Nat) (t : Byte) : State :=
  { s with chans := s.chans.map (fun (k, c) => match k with
      | .inp u _ => if u.region = r then (k, c.discard t) else (k, c)
      | _ => (k, c)) }

/-- Enter a phase of a region. -/
def State.enterPhase (s : State) (p : Placement) (r n : Nat) : State :=
  let tag := p.img.placedTag p.base n
  let s := s.modRegion r (fun R => { R with phase := n, tag := tag, wr := 0, idle := 0 })
  let s : State := { s with units := s.units.map (fun (u, x) => if u.region = r then (u, x.enter) else (u, x)) }
  let s := match (s.region r).launch with
    | some id => s.bindPhase id r n
    | none => s
  (p.img.units.filter (fun u => u.phase = n)).foldl (fun s u => match s.sectionUnit r u with
    | some k => s.enterUnit k tag p.params u
    | none => s) s

/-- Place a checked configuration at an origin (R118-R125); micro-batches of the only start port begin with parity 0 (R180, R427). -/
def State.placeAt (s : State) (id o : Nat) (m : Image) (base : Byte) (params : List Word) (rs : List Nat) : State :=
  let p : Placement := { img := m, origin := o, regions := rs, base := base, params := params, start := s.cyc }
  let s := if m.pipes.start.isSome && s.hub.placements.all (fun e => e.2.img.pipes.start.isNone) then
      s.modHub (fun h => { h with parity := false })
    else s
  let s := rs.foldl State.ungate s
  let olds := rs.map (fun r => (r, s.region r))
  let s := s.vacate id rs
  let s := olds.foldl (fun s (r, R) => s.setRegion r { loadRegion m R id o r base params with devid := s.dev.devid }) s
  let s := s.setPlacement id p
  let s := { s with mem := (List.range m.shapes.length).foldl (fun mm k =>
      (mm.writeBytes (rstoreBase o + 64 * k) (m.shapeBytes params k)).poisonWords (rstoreBase o + 64 * k) false 8) s.mem }
  let s := rs.foldl (fun s r => s.layCells m o r) s
  let s := (branchesAt m o).foldl (fun s b => s.layBranch id b) s
  let s := m.pipeEnds.foldl (fun s e => s.layPipe id o e) s
  let s := m.startEnds.foldl (fun s e => s.layStart o e) s
  let s := m.pairs.foldl (fun s q => s.layPair id o q) s
  rs.foldl (fun s r => s.enterPhase p r 0) s

/-! ## The end of a phase (R122, R123) -/

/-- RPRED as the region updates it: bits that PHASE has not written take pK of c0 of the north-west GE. -/
def State.updatedRp (s : State) (r : Nat) : BitVec 4 :=
  let R := s.region r
  let p := ((s.unit ⟨r, 0, 0⟩).context 0).p
  (R.rp &&& R.wr) ||| ((p.extractLsb' 0 4) &&& ~~~R.wr)

/-- The phase that a rule chooses, or stop. -/
def nextPhase (rule : PhaseRule) (rp : BitVec 4) : Option Nat :=
  match rule with
  | .stop => none
  | .goto n => some n
  | .pred k a b => if rp.getLsbD k then a else b

/-- PHASE_END (R122-R124): after 16 consecutive cycles of R122's conditions. -/
def execPhaseEnd (r : Nat) (s : State) : Host.Outcome State Fault Refusal :=
  let R := s.region r
  match R.launch with
  | none => .next s
  | some id =>
    match s.placement? id with
    | none => .next s
    | some p =>
      if R.stop || R.frozen.isSome || R.idle < 16 then .next s
      else
        let rp := s.updatedRp r
        let s1 := (s.modRegion r (fun R => { R with rp := rp, idle := 0 })).count r 0x12 1
        match nextPhase (p.img.rule R.phase) rp with
        | none => .next (s1.modRegion r (fun R => { R with stop := true, tag := 0 }))
        | some n => .next ((s1.discardTag r R.tag).enterPhase p r n)

/-! ## Banks (R76, R120) -/

/-- The sections of an image for a unit in a phase. -/
def State.sections (s : State) (m : Image) (u : UnitId) (n : Nat) : List ImgUnit :=
  m.units.filter (fun v => v.phase = n && s.sectionUnit u.region v = some u)

/-- The words of a bank of an image. -/
def bankWords (vs : List ImgUnit) (b : Nat) : List (Nat × Word) :=
  (vs.flatMap (fun v => v.words)).filter (fun e => e.1 / 8 = b)

/-- Does a word name an input channel? A matrix word names none (R120). -/
def wordNamesInput (sub : Nat) (w : Word) : Bool :=
  if sub = 18 then false
  else match (if sub = 17 then decodeV (w.setWidth 32) else decodeE (w.setWidth 32)) with
    | .ok i => match i with
      | .mergec .. | .xsend .. | .xrecv .. => true
      | .vlds .. => true
      | i => match i.eview with
        | some v => v.ins.any (fun x => x.chan?.isSome)
        | none => false
    | .error _ => false

/-- Is a bank of the active phase wanted and not there: a token of the phase stands at an input's head, or a
word of the bank names no input (R120)? -/
def State.bankWanted (s : State) (u : UnitId) (b : Nat) : Bool :=
  let R := s.region u.region
  match R.launch with
  | none => false
  | some id => match s.placement? id with
    | none => false
    | some p =>
      let ws := bankWords (s.sections p.img u R.phase) b
      b < 4 && !R.stop && R.frozen.isNone && !(s.unit u).stopped && !ws.isEmpty &&
        ((s.unit u).banks.get b {}).tag ≠ R.tag && !(R.fetches.any (fun f => f.u = u && f.bank = b)) &&
        (ws.any (fun e => !wordNamesInput u.sub e.2) ||
          (List.range 8).any (fun i => (s.head? u i).any (fun t => t.tag = R.tag)))

/-- A bank's place in a region's configuration cache. -/
abbrev CacheKey := UnitId × Nat × Nat

/-- The bytes of the configuration cache, 256 KiB (R287), and of an entry's words: a matrix word takes 8, another 4. -/
def cacheBytes : Nat := 2 ^ 18
def entryBytes (e : CacheKey × List (Nat × Word)) : Nat := (if e.1.1.sub = 18 then 8 else 4) * e.2.length

/-- Evict the least recently used entries, which stand first, until the rest fit (R120). -/
def evict : List (CacheKey × List (Nat × Word)) → List (CacheKey × List (Nat × Word))
  | [] => []
  | e :: es => if cacheBytes < ((e :: es).map entryBytes).sum then evict es else e :: es

/-- Put an entry last: it was used now. -/
def Region.cacheUse (R : Region) (k : CacheKey) (ws : List (Nat × Word)) : Region :=
  { R with cache := evict (R.cache.filter (fun e => e.1 ≠ k) ++ [(k, ws)]) }

/-- BANK_FETCH (R120): the fetch begins; it hits the region's configuration cache or misses it. -/
def execBankFetch (u : UnitId) (b : Nat) (s : State) : Host.Outcome State Fault Refusal :=
  if s.bankWanted u b then
    let R := s.region u.region
    let miss := (R.cache.get? (u, R.phase, b)).isNone
    let s1 := (s.modRegion u.region (fun R => { R with fetches := R.fetches ++ [⟨u, b, miss⟩] })).count u.region 0x0A 1
    .next (if miss then s1.count u.region 0x0B 1 else s1)
  else .next s

/-- The image at an address, by the bytes that it takes (R130, notes/assumptions/6). -/
def imageIn (m : Memory) (a : Nat) : Option Image :=
  Config.imageAt a (m.cells.filter (fun c => a ≤ c.1 && c.1 < a + Config.imageSpan a))

/-- The image in DRAM as it stands now, for a fetch that missed; where the bytes are no image any more the
words are those that were placed (notes/assumptions/6). -/
def State.imageNow (s : State) (id : Nat) (p : Placement) : Image :=
  match s.launch? id with
  | some l => (imageIn s.mem l.rec_.image.toNat).getD p.img
  | none => p.img

/-- The words that a fetch brings, and the first refusal among them (R76). -/
def State.fetched (s : State) (id : Nat) (p : Placement) (f : Fetch) : List (Nat × Word) × Option Byte :=
  let R := s.region f.u.region
  match f.miss, R.cache.get? (f.u, R.phase, f.bank) with
  | false, some ws => (ws, none)
  | _, _ =>
    let m := s.imageNow id p
    let vs := s.sections m f.u R.phase
    let ws := bankWords vs f.bank
    (ws, (firstFail (vs.flatMap (fun v => (v.words.filter (fun e => e.1 / 8 = f.bank)).filterMap (fun (slot, w) =>
      (m.wordReject v slot w).map (fun e => (v.key slot, e.subcode, 0)))))).map Prod.fst)

/-- BANK_FILL (R76, R120): the bank is replaced whole, or a failing word stops the element. -/
def execBankFill (u : UnitId) (b : Nat) (s : State) : Host.Outcome State Fault Refusal :=
  let R := s.region u.region
  match R.fetches.find? (fun f => f.u = u && f.bank = b), R.launch with
  | some f, some id =>
    match s.placement? id with
    | none => .next s
    | some p =>
      let s1 := s.modRegion u.region (fun R => { R with fetches := R.fetches.filter (fun g => !(g.u = u && g.bank = b)) })
      let (ws, bad) := s.fetched id p f
      if R.stop then .next s1
      else match bad with
        | some sub => .next (s1.recordFault u cREJECT sub.toNat 0 none 0 0)
        | none =>
            let s2 := s1.modRegion u.region (fun R => R.cacheUse (u, R.phase, b) ws)
            .next (s2.modUnit u (fun x => { x with banks := x.banks.set b ⟨R.tag, ws⟩ }))
  | _, _ => .next s

end Sys2Proof.Machine
end

