-- ==== Sys2Proof/Machine/Freeze.lean ====
section
/-! DEFINITION. Freezes, drains, images and restores (spec/19 R400-R405, R408, R409, spec/14 R286, spec/12 R236, spec/13
R247, spec/09 R156, R162). An image's contents are kept as data under its address; memory holds the header, and
free bytes for the rest (notes/assumptions/15). -/

namespace Sys2Proof.Machine

/-! ## What an image holds (R401, R402) -/

/-- A flat address of region a's stores as one of region b's. -/
def movedAddr (a b x : Nat) : Nat :=
  if x < 2 ^ 53 then x - a * 2 ^ 24 + b * 2 ^ 24 else x - a * 2 ^ 23 + b * 2 ^ 23

/-- Is a multi-token firing stopped for want of room? -/
def State.multiStuck (s : State) (u : UnitId) (m : Multi) : Bool :=
  m.mark.isNone && !m.reserved &&
    match m.src.next? (s.region u.region).tag with
    | some ((o, _), _) => !s.outRoom u o
    | none => false

/-- Has an element nothing left that a freeze waits for (R400 steps 2 and 3)? -/
def State.unitSettled (s : State) (u : UnitId) (x : EUnit) : Bool :=
  x.flights.isEmpty && x.multi.all (s.multiStuck u) && (x.marks.head?.all (fun m => !s.outRoom u m.2.2)) &&
    x.reqs.all (fun q => q.stage = .withheld) && x.mat.seq.all (fun q => !q.started)

/-- Are the stamped stores of a region's ports and core installed (R400 step 3)? -/
def State.stampsDone (s : State) (r : Nat) : Bool := s.stamped.all (fun x => x.region ≠ r || x.installed)

/-- Does a core stand between two instructions, its stores performed? A stalled instruction that has had no effect is tried
again. -/
def Core.between (k : Core) : Bool := k.stores.isEmpty && (k.stall.isNone || k.stall = some .retry)

/-- Are the tokens already sent toward a region there (R400 step 4)? -/
def State.arrivalsDone (s : State) (r : Nat) : Bool :=
  s.chans.all (fun (k, c) => match k with
    | .inp u _ => u.region ≠ r || (c.hops.all (fun h => h.wire.isEmpty) && (c.hops.tail).all (fun h => h.waiting.isEmpty))
    | _ => true)

/-- May the image be read out (R400)? In a hub freeze the core has stopped between instructions. -/
def State.settled (s : State) (r : Nat) : Bool :=
  let R := s.region r
  (s.units.filter (fun e => e.1.region = r)).all (fun e => s.unitSettled e.1 e.2) && s.arrivalsDone r &&
    R.core.stores.isEmpty && R.fetches.isEmpty && (!R.coreFrozen || R.core.between) && s.stampsDone r &&
    s.kv.all (fun h => h.region ≠ r || h.stage.isNone || h.held || h.words.length < h.need)

/-- A core as an image records it: a wait and a stalled instruction are executed again (R400 step 5); after a pre-emption
PREEMPT pends (R403). -/
def Core.recorded (k : Core) (waiting : Option Nat) : Core :=
  let k := { k with stall := none, ask := none }
  let k := match k.wait with
    | some _ => { k with wait := none, run := .running }
    | none => k
  match waiting with
  | some w => { k with pend := k.pend.add .preempt (BitVec.ofNat 64 w) }
  | none => k

/-- Does a channel end or begin in a region? -/
def chanOfRegion (r : Nat) (e : Sink × Chan) : Bool :=
  (match e.1 with | .inp u _ => u.region = r | _ => false) || e.2.src.any (fun p => p.1.region = r)

/-- A token without the hidden bits of R390, which no image shows. -/
def Tok.bare (t : Tok) : Tok := { t with origin := .lost }

/-- A channel as an image shows it (R390, R402). -/
def Chan.bare (c : Chan) : Chan :=
  { c with
    places := c.places.map (fun p => (p.1, p.2.map Tok.bare))
    hops := c.hops.map (fun h => { h with waiting := h.waiting.map Tok.bare, wire := h.wire.map Tok.bare })
    inq := c.inq.map Tok.bare }

/-- The image of a region (R402). -/
def State.capture (s : State) (r kind : Nat) (waiting : Option Nat) : FImage :=
  let R := s.region r
  { kind := kind
    region := r
    launch := R.launch.getD 0
    rec_ := { R with core := R.core.recorded waiting, cmds := []
                     frozen := (R.frozen.bind FreezeSt.under).map (fun a => ⟨a, 0, true, true, none⟩) }
    units := s.units.filter (fun e => e.1.region = r)
    chans := (s.chans.filter (chanOfRegion r)).map (fun e => (e.1, e.2.bare))
    rings := s.rings.filter (fun e => e.1.1.region = r)
    pairs := s.pairs.filter (fun e => e.2.tx.region = r || e.2.rx.region = r)
    cells := s.mem.cells.filter (fun c => inStores r c.1)
    poison := s.mem.poison.filter (fun w => inStores r (8 * w))
    notices := R.notices }

/-- Where section k of the contents table of image n begins: at a 64-byte boundary after the sections before it; of section 13,
the end of the image. -/
def freezeOffset (n k : Nat) : Nat := 64 * (1 + ((List.range k).map (fun j => (Config.freezeLines n j).toNat)).sum)

/-- The header (R401): its words in ascending order, bytes little-endian. -/
def FImage.header (f : FImage) (base : Byte) (n : Nat) : List (Nat × Nat × Nat) :=
  [(0, 8, 2 ^ 63 + f.kind), (8, 8, freezeOffset n 13), (16, 4, f.region + 256 * regionDie f.region), (20, 4, f.launch),
   (24, 4, base.toNat + 256 * (f.rec_.phase % 4) + 1024 * f.rec_.stop.toNat + 2048 * f.rec_.rp.toNat),
   (28, 4, f.notices.length)] ++ (List.range 8).map (fun k => (32 + 4 * k, 4, freezeOffset n k))

/-- Write the header at the image address, last, as one event; the bytes above it that may be written are free values. -/
def writeHeader (m : Memory) (a n : Nat) (may : Nat → Bool) (ws : List (Nat × Nat × Nat)) : Memory :=
  let m := (List.range (freezeOffset n 13 - 64)).foldl (fun m i =>
    if may (a + 64 + i) then m.setByte (a + 64 + i) (Config.freezeByte n i) else m) m
  (ws.foldl (fun m (o, k, v) => m.writeNat (a + o) k v) m).poisonWords a false 8

/-- May a region store at a byte of DRAM through one of its range entries: that of a paged entry lies in one of its large pages? -/
def State.rangeHolds (s : State) (r b : Nat) : Bool :=
  let R := s.region r
  ((List.range 20).flatMap R.entries).any (fun e =>
    let bases := if e.attr.getLsbD 2 then
        (List.range ((e.size.toNat + 2 ^ 21 - 1) / 2 ^ 21)).filterMap (fun i =>
          match walk s.mem e (e.vbase + BitVec.ofNat 64 (2 ^ 21 * i)) with
          | .ok (.plain a) => some (a, min (2 ^ 21) (e.size.toNat - 2 ^ 21 * i))
          | _ => none)
      else [(e.phys.toNat, e.size.toNat)]
    e.attr.getLsbD 7 && e.permits .store && bases.any (fun p => decide (p.1 ≤ b) && decide (b < p.1 + p.2)))

/-- May an image's bytes stand at an address: in DRAM, and that of a FREEZE in a range that the region may write (R8, R286). -/
def State.imageMay (s : State) (r kind b : Nat) : Bool := isDram b && (kind ≠ 0 || s.rangeHolds r b)

/-- The hub keeps an image for which software set no area under a key that is no address. -/
def hubArea (r : Nat) : Nat := 2 ^ 60 + r

/-! ## The wave and the readout -/

/-- Who waits, when a pre-emption freezes a region. -/
def State.waitingFor (s : State) (r : Nat) : Option Nat :=
  match s.hub.preempting, (s.region r).launch with
  | some (v, w), some id => if id = v then some w else none
  | _, _ => none

/-- A frozen sampler graph is resident no more (R366). -/
def State.unseat (s : State) (id : Nat) : State :=
  s.modHub (fun h => { h with samplers := h.samplers.map (fun (k, b, i) => (k, b && decide (i.toNat ≠ id), i)) })

/-- FREEZE_WAVE: once everything accepted is performed, the sections are read out (R400). -/
def execFreezeWave (r : Nat) (s : State) : Host.Outcome State Fault Refusal :=
  match (s.region r).frozen with
  | none => .next s
  | some f =>
    if f.read || f.taken || !s.settled r then .next s
    else
      let img := s.capture r f.kind (s.waitingFor r)
      let s1 := { s with images := s.images.set f.area img }
      .next ((s1.unseat img.launch).modRegion r (fun R => { R with frozen := some { f with taken := true } }))

/-- What stays of a region whose placement was swapped out: its commands run on (R156). -/
def Region.swapped (R : Region) (id : Nat) : Region := { R.vacated id with cmds := R.cmds, notices := [] }

/-- What pends at a core once it is restored: what pended when it was recorded, and what was raised since. -/
def Pend.since (live old : Pend) : Pend := { live with preempt := live.preempt.or old.preempt }

/-- An image of a region that stands frozen, with what changed since it was read out: the handles, the causes that pend, the
notices held and the exchange pairs (R156, R403). -/
def State.synced (s : State) (f : FImage) : FImage :=
  let R := s.region f.region
  { f with
    rec_ := { R with cmds := [], frozen := f.rec_.frozen, core := { f.rec_.core with pend := R.core.pend.since f.rec_.core.pend } }
    pairs := f.pairs.map (fun e => (e.1, s.pairs.get e.1 e.2))
    notices := R.notices ++ (s.hub.heldNotices.filter (fun e => e.1 = f.region)).map Prod.snd }

/-- Swap a frozen placement out: its launch returns to the head of its queue (R132), and notices that the hub holds for its regions go
into the images (R179). The scheduler's next decision places the launch that waited. The wait of AGELIM begins anew here
(notes/assumptions/51). -/
def State.swapOut (s : State) (id : Nat) (p : Placement) : State :=
  let olds := p.regions.map (fun r => (r, s.region r))
  let s : State := { s with images := s.images.map (fun ((a, f) : Nat × FImage) =>
    if f.launch = id && f.kind ≠ 0 && !f.restored && p.regions.contains f.region then (a, s.synced f) else (a, f)) }
  let s := (s.vacate id p.regions).modHub (fun h => { h with heldNotices := h.heldNotices.filter (fun e => !p.regions.contains e.1) })
  let s := olds.foldl (fun s (r, R) => s.setRegion r (R.swapped id)) s
  match s.launch? id with
  | none => s
  | some l =>
    let s := s.setLaunch id { l with st := .swapped, readySince := none, since := s.cyc }
    s.modHub (fun h => { h with queues := h.queues.set l.prio (id :: h.queues.get l.prio []) })

/-- When every region of a victim has been read out, it is swapped out (R132, R383). -/
def State.finishPreempt (s : State) : State :=
  match s.hub.preempting with
  | none => s
  | some (v, _) =>
    match s.placement? v with
    | none => s.modHub (fun h => { h with preempting := none })
    | some p =>
      if p.regions.all (fun r => (s.region r).frozen.any (fun f => f.read && f.kind ≠ 0)) then (s.swapOut v p).countPkg 0xC07 1 else s

/-- Write the header of a region's image and release it. -/
def State.release401 (s : State) (r : Nat) (f : FreezeSt) : State :=
  let (n, s) := s.takeFree
  let base := match (s.region r).launch with
    | some id => match s.placement? id with
      | some p => p.base
      | none => 0
    | none => 0
  let s := match s.images.get? f.area with
    | some img => if isDram f.area then { s with mem := writeHeader s.mem f.area n (s.imageMay r f.kind) (img.header base n) } else s
    | none => s
  s.modRegion r (fun R => { R with frozen := some { f with read := true, taken := true } })

/-- FREEZE_READOUT_COMPLETE: the image is written and its header released (R401). -/
def execFreezeReadoutComplete (r : Nat) (s : State) : Host.Outcome State Fault Refusal :=
  match (s.region r).frozen with
  | none => .next s
  | some f => if f.taken && !f.read then .next ((s.release401 r f).finishPreempt) else .next s

/-! ## Restoring (R403) -/

/-- An element of region a in region b. -/
def movedUnit (b : Nat) (u : UnitId) : UnitId := { u with region := b }

/-- The grid displacement of an element's region, from region a to region b; none off the grid. -/
def displaced (a b : Nat) (u : UnitId) : Option UnitId :=
  let (ax, ay) := regionXY a
  let (bx, bY) := regionXY b
  let (x, y) := regionXY u.region
  if x + bx < ax || y + bY < ay then none
  else (regionAt (x + bx - ax) (y + bY - ay)).map (fun r => { u with region := r })

/-- A sink moved with its region. -/
def displacedSink (a b : Nat) : Sink → Option Sink
  | .inp u i => (displaced a b u).map (fun v => .inp v i)
  | k => some k

/-- Bytes and poison of an image in a region's stores. -/
def State.putStores (s : State) (f : FImage) (r : Nat) (cells : List Host.Cell) : State :=
  let base : Memory := { cells := s.mem.cells.filter (fun c => !inStores r c.1)
                         poison := s.mem.poison.filter (fun w => !inStores r (8 * w)) }
  let m := cells.foldl (fun (m : Memory) c => m.setByte (movedAddr f.region r c.1) c.2) base
  { s with mem := f.poison.foldl (fun (m : Memory) w => m.setPoison (movedAddr f.region r (8 * w)) true) m }

/-- A region's record after a restore: what belongs to the place and to software stays, and the commands at its ports; the
buffer table is as it stands (R403); without the core's section the core's state stays. The count of quiet cycles goes on
(R396), records on their way to the trace buffer stay (R386), and the next instruction's begins with a sync record (R389). -/
def FImage.region_ (f : FImage) (cur : Region) (launch : Option Nat) (core : Bool) (handles : Map Nat Handle)
    (notices : List Notice) : Region :=
  { f.rec_ with
    present := cur.present
    half := cur.half
    gated := false
    launch := launch
    origin := cur.origin
    frozen := if core then f.rec_.frozen else none
    devid := cur.devid
    drain := none
    faultArea := cur.faultArea
    pflimit := cur.pflimit
    wdlim := if core then f.rec_.wdlim else cur.wdlim
    astat := if core then f.rec_.astat else cur.astat
    amode := if core then f.rec_.amode else cur.amode
    amodeNext := none
    core := if core then { f.rec_.core with pend := cur.core.pend.since f.rec_.core.pend } else cur.core
    handles := handles
    cmds := cur.cmds
    heldSince := cur.heldSince.filter (fun e => 4 ≤ e.1)
    notices := notices
    fetches := []
    kept := []
    busy := cur.busy
    tracePend := cur.tracePend
    traceCyc := cur.traceCyc
    tracePc := cur.tracePc
    traceN := cur.traceN
    traceDrop := cur.traceDrop
    traceSync := true }

/-- Accesses that the memory ports withheld are withheld again, with PAGE_FAULT (R399). -/
def State.holdAgain (s : State) (r : Nat) : State :=
  (List.range 4).foldl (fun s p =>
    match (s.unit ⟨r, 4 * p, 19⟩).reqs.find? (fun q => q.stage = .withheld) with
    | some q => (s.modRegion r (fun R => { R with heldSince := R.heldSince.set p 0 })).raise r .page q.addr
    | none => s) s

/-- Units and rings of an image in a region. -/
def State.putUnits (s : State) (f : FImage) (r : Nat) : State :=
  { s with
    notes := s.notes.filter (fun e => e.1.region ≠ r)
    units := s.units.filter (fun e => e.1.region ≠ r) ++ f.units.map (fun (u, x) => (movedUnit r u, x))
    rings := s.rings.filter (fun e => e.1.1.region ≠ r) ++ f.rings.map (fun ((c, n), g) => (({ c with region := r }, n), g)) }

/-- One channel of an image, restored in place: within the region as recorded; into it with what arrived since; out of
it as it stands. -/
def State.putChanHere (s : State) (r : Nat) (e : Sink × Chan) : State :=
  let into := match e.1 with | .inp u _ => u.region = r | _ => false
  let outof := e.2.src.any (fun p => p.1.region = r)
  if into && outof then { s with chans := s.chans.set e.1 e.2 }
  else if into then
    s.modChan e.1 (fun c =>
      let c := { c with shut := false }
      if e.2.inq.isPrefixOf c.bare.inq then c else { c with inq := e.2.inq, primedN := e.2.primedN })
  else s

/-- The routes of a placement that touch region a, laid again at region b in the placement that holds it (R403). -/
def State.moveRoutes (s : State) (src id a b : Nat) : State :=
  let touches (r : Nat) (t : Route) : Bool := t.src.1.region = r || t.dst.1.region = r
  match s.placement? src, s.placement? id with
  | some q, some p =>
    let s := (p.routes.filter (touches b)).foldl (fun s t => s.closeCtxs t.hops) s
    let s := s.setPlacement id { p with routes := p.routes.filter (fun t => !touches b t) }
    (q.routes.filter (touches a)).foldl (fun s t =>
      match displaced a b t.src.1, displaced a b t.dst.1 with
      | some u, some v => (s.addRoute id ((u, t.src.2), (v, t.dst.2))).2
      | _, _ => s) s
  | _, _ => s

/-- A channel of a placement takes the route that stands for it. -/
def State.onRoute (s : State) (id : Nat) (k : Sink) : State :=
  match k, (s.chan k).src, s.placement? id with
  | .inp u i, some a, some p =>
    match p.routes.find? (fun t => t.src = a && t.dst = (u, i)) with
    | some t => s.modChan k (fun c => { c with cap := t.cap, limit := t.limit, hops := t.path })
    | none => s
  | _, _, _ => s

/-- One channel of an image restored at another region. -/
def State.putChanMoved (s : State) (id a b : Nat) (e : Sink × Chan) : State :=
  match displacedSink a b e.1 with
  | none => s
  | some k =>
    let into := match e.1 with | .inp u _ => u.region = a | _ => false
    let src := e.2.src.bind (fun p => (displaced a b p.1).map (fun u => (u, p.2)))
    let outof := e.2.src.any (fun p => p.1.region = a)
    let s := match outof, src with
      | true, some q => { s with wires := s.wires.set q (s.branches q.1 q.2 ++ [k]) }
      | _, _ => s
    if into && (outof || e.2.src.isNone) then { s with chans := s.chans.set k { e.2 with src := src } }
    else if into then (s.modChan k (fun c => { c with inq := e.2.inq, primedN := e.2.primedN, src := src, owed := 0 })).onRoute id k
    else (s.modChan k (fun c => { c with places := e.2.places, src := src, owed := 0 })).onRoute id k

/-- May an image be restored at region r (R403): capacity, and for what crosses its edge the same placement's region
in that relative position, an exchange pair on an A–C boundary? -/
def State.mayRestore (s : State) (f : FImage) (r : Nat) : Bool :=
  let R := s.region r
  let same (u : UnitId) : Bool := u.region = f.region || (match displaced f.region r u with
    | some v => R.launch = some f.launch && (s.region v.region).launch = some f.launch
    | none => false)
  decide (f.rec_.scap f.region ≤ R.scap r) && decide (f.rec_.rcap f.region ≤ R.rcap r) &&
    ((r = f.region && R.launch = some f.launch) ||
      (f.chans.all (fun (k, c) => (match k with | .inp u _ => same u | _ => false) && c.src.all (fun p => same p.1)) &&
       f.pairs.all (fun (_, x) => match displaced f.region r x.tx, displaced f.region r x.rx with
        | some t, some v => same x.tx && same x.rx && unitExists t && unitExists v &&
            (decide (unitDie t < 4) != decide (unitDie v < 4))
        | _, _ => false)))

/-- The exchange context of a pair, set up again (R403). -/
def State.reopenPair (s : State) (id k : Nat) : State :=
  match s.pairs.get? k with
  | none => s
  | some x => match linkBetween (unitDie x.tx) (unitDie x.rx) with
    | some (l, d) =>
        let (c, s) := s.openCtx id l d 240 16 (ctxTarget x.rx x.inp)
        s.setPair k { x with link := l, dir := d, ctx := c }
    | none => s

/-- The exchange context of a pair is torn down. -/
def State.closePair (s : State) (x : Pair) : State := s.closeCtxs [(x.link, x.dir, x.ctx)]

/-- Exchange pairs of an image restored at another region: set up again, their sends following them. -/
def State.putPairs (s : State) (f : FImage) (r : Nat) : State :=
  f.pairs.foldl (fun s (k, x) =>
    match displaced f.region r x.tx, displaced f.region r x.rx with
    | some t, some v =>
        let (k', s) := s.takeTicket
        let s := (s.setPair k' { x with tx := t, rx := v }).reopenPair x.launch k'
        { s with units := s.units.map (fun (u, e) => if u.region = r then
            (u, { e with sends := e.sends.map (fun q => if q.pair = k then { q with pair := k' } else q) }) else (u, e)) }
    | _, _ => s) s

/-- The handles of an image from another region: a FILLING one is as it stands, and its command completes into the restored table
(R403). The commands of a launch that is there no more move with the image. -/
def State.carryHandles (s : State) (f : FImage) (r : Nat) : Map Nat Handle × State :=
  let there := (s.region f.region).launch = some f.launch
  let hs := f.rec_.handles.map (fun (h, x) => (h, if there && x.st = .filling then s.handle f.region h else x))
  let cs := (s.region f.region).cmds
  let mine (c : Cmd) : Bool := c.owner = some f.launch && c.home.getD f.region = f.region && (f.rec_.handles.get c.h {}).st = .filling
  if there then (hs, s.modRegion f.region (fun R => { R with cmds := R.cmds.map (fun c => if mine c then { c with home := some r } else c) }))
  else
    let s := s.modRegion f.region (fun R => { R with cmds := R.cmds.filter (fun c => !mine c) })
    (hs, s.modRegion r (fun R => { R with cmds := R.cmds ++ (cs.filter mine).map (fun c => { c with owner := R.launch, home := none }) }))

/-- Restore an image in the region it was frozen in, its placement still there. -/
def State.restoreHere (s : State) (f : FImage) (r : Nat) (core : Bool) : State :=
  let R := s.region r
  let held := if f.notices.isPrefixOf R.notices then R.notices else f.notices ++ R.notices
  let s := s.setRegion r (f.region_ R R.launch core R.handles held)
  let s := (s.putStores f r f.cells).putUnits f r
  (f.chans.foldl (fun s e => s.putChanHere r e) s).holdAgain r

/-- A channel that begins and ends in a region, or is only primed there. -/
def innerChan (r : Nat) (e : Sink × Chan) : Bool :=
  match e.1 with
  | .inp u _ => u.region = r && e.2.src.all (fun p => p.1.region = r)
  | _ => false

/-- One entry of a list replaced, if it stands there. -/
def swapOne {α : Type} [DecidableEq α] (l : List α) (a b : α) : List α := if l.contains a then l.erase a ++ [b] else l

/-- The acknowledgements that a slot awaits from a swapped-out region come from the region where its image is restored (R174). -/
def State.moveAcks (s : State) (f : FImage) (r : Nat) : State :=
  if f.kind = 0 then s
  else f.notices.foldl (fun s n => match n with
    | .squash slot _ _ st segs =>
        let x := s.slot slot
        s.setSlot slot { x with
          ackSegs := if segs then swapOne x.ackSegs f.region r else x.ackSegs
          ackRegions := match st with
            | some id => swapOne x.ackRegions (id, f.region) (id, r)
            | none => x.ackRegions }
    | .establish _ _ => s) s

/-- A core as an image has it, where the code and data of the region's own launch stand. -/
def Core.placedAs (k old : Core) : Core :=
  { k with codeV := old.codeV, codeP := old.codeP, codeSize := old.codeSize, dataV := old.dataV, dataP := old.dataP, dataSize := old.dataSize }

/-- Restore an image of another region: relocated. -/
def State.restoreMoved (s : State) (f : FImage) (r : Nat) (core : Bool) : State :=
  let (hs, s) := (s.moveAcks f r).carryHandles f r
  let R := s.region r
  let s := (s.setRegion r (f.region_ R R.launch core hs (f.notices ++ R.notices))).modCore r (fun k => k.placedAs R.core)
  let s := (s.putStores f r f.cells).putUnits f r
  let old (e : Nat × Pair) : Bool := e.2.tx.region = r || e.2.rx.region = r
  let s := (s.pairs.filter old).foldl (fun s e => s.closePair e.2) s
  let s : State := { s with
    chans := s.chans.filter (fun e => !innerChan r e)
    wires := s.wires.filter (fun e => e.1.1.region ≠ r)
    pairs := s.pairs.filter (fun e => !old e) }
  let id := R.launch.getD 0
  let s := s.moveRoutes f.launch id f.region r
  ((f.chans.foldl (fun s e => s.putChanMoved id f.region r e) s).putPairs f r).holdAgain r

/-- Is a byte of the stores kept by a drain image: a ring's FULL or CLAIMED slot, or the carve-out (R402)? -/
def FImage.keeps (f : FImage) (a : Nat) : Bool :=
  let k := f.rec_.core
  let o := a - rstoreBase f.region
  (rstoreBase f.region ≤ a && decide (k.wspill.toNat ≤ o) && decide (o < k.wspill.toNat + k.wlim.toNat)) ||
    f.rings.any (fun ((c, _), g) => (List.range g.slots.length).any (fun i =>
      (g.slotOf i).st ≠ .empty && decide (ringAddr c g i 0 ≤ a) && decide (a < ringAddr c g i 0 + 2048)))

/-- The recorded phase of a drain image is entered anew in region r, and the sections that the drain kept are written back
(R405). -/
def State.restoreDrain (s : State) (p : Placement) (f : FImage) (r : Nat) (launch : Option Nat) (core : Bool) (hs : Map Nat Handle)
    (notices : List Notice) : State :=
  let s := s.setRegion r { f.region_ (s.region r) launch core hs notices with cache := [], ranges := rangesOf p.img p.origin r p.params }
  let s := s.putStores { f with poison := f.poison.filter (fun w => f.keeps (8 * w)) } r (f.cells.filter (fun c => f.keeps c.1))
  let s := s.putUnits { f with units := f.units.map (fun (u, x) => (u, { ({} : EUnit) with mat := x.mat })) } r
  if f.rec_.stop then s.modRegion r (fun R => { R with stop := true, tag := 0 })
  else (s.enterPhase p r f.rec_.phase).modRegion r (fun R => { R with stop := false })

/-- The channels of a region and its exchange pairs as the placement lays them, empty. -/
def State.emptied (s : State) (r : Nat) : State :=
  { s with
    chans := s.chans.map (fun (k, c) => if innerChan r (k, c) then (k, { c with places := [], inq := [], owed := 0, primedN := 0 })
      else match k with
        | .inp u _ => if u.region = r then
            (k, { c with inq := [], owed := c.owed + (c.inq.filter (fun t => !t.stray)).length, shut := false }) else (k, c)
        | .pipe _ _ _ => (k, c))
    pairs := s.pairs.map (fun (k, x) => if x.tx.region = r || x.rx.region = r then
      (k, { x with ping := { addr := x.ping.addr }, pong := { addr := x.pong.addr }, order := [], lane := [] }) else (k, x)) }

/-- THAW of a drain image: its recorded phase is entered with the configuration of the region's own placement (R405). -/
def State.thawDrain (s : State) (f : FImage) (r : Nat) (core : Bool) : State :=
  match (s.region r).launch.bind s.placement? with
  | none => s
  | some p =>
    let (hs, s) := (s.moveAcks f r).carryHandles f r
    let k := s.core r
    ((s.emptied r).restoreDrain p f r (s.region r).launch core hs (f.notices ++ (s.region r).notices)).modCore r (fun c => c.placedAs k)

/-- Restore at region r (R403). -/
def State.restore (s : State) (f : FImage) (r : Nat) (core : Bool) : State :=
  if f.kind = 2 then s.thawDrain f r core
  else if r = f.region && (s.region r).launch = some f.launch then s.restoreHere f r core
  else s.restoreMoved f r core

/-! ## The core's instructions (R286) -/

/-- FREEZE: while frozen it completes at once; else the image address must lie in a writable DRAM range. -/
def execFreeze (a : BitVec 5) (s : State) : Host.Outcome State Fault Refusal :=
  let r := s.site.region
  let A := s.greg r a
  .next (s.handlerOnly r (.freeze a) [a]
    (if A.toNat % 64 ≠ 0 then s.trapHere r cMISALIGNED A
     else if (s.region r).frozen.isSome then s.advance r
     else match s.translateCore r A .store with
      | .ok (.plain p) =>
          if isDram p then ((s.beginFreeze r p 0).wait r .freeze) else s.trapHere r cPROT A
      | .absent => s.trapHere r cPAGE A
      | _ => s.trapHere r cPROT A))

/-- THAW: the image at A, its header valid, is loaded and the fabric restarts. An image of a hub freeze or a drain holds a core section,
which is written back too: the core goes on where that one stood (R402, R403). -/
def execThaw (a : BitVec 5) (s : State) : Host.Outcome State Fault Refusal :=
  let r := s.site.region
  let A := s.greg r a
  .next (s.handlerOnly r (.thaw a) [a]
    (if A.toNat % 64 ≠ 0 then s.trapHere r cMISALIGNED A
     else if (s.region r).frozen.isNone then s.trapHere r cPROT A
     else match s.translateCore r A .load with
      | .ok (.plain p) =>
        (match s.images.get? p with
        | some f =>
            if (s.mem.word p).getLsbD 63 && (f.kind = 0 || !f.restored) && s.mayRestore f r then
              let s1 := if f.kind = 0 then s else { s with images := s.images.set p { f with restored := true } }
              if f.kind = 0 then (s1.restore f r false).advance r else s1.restore f r true
            else s.trapHere r cPROT A
        | none => s.trapHere r cPROT A)
      | .absent => s.trapHere r cPAGE A
      | _ => s.trapHere r cPROT A))

/-- RESUME: a resume token to memory port A<1:0> (R286, R398). -/
def execResume (a : BitVec 5) (s : State) : Host.Outcome State Fault Refusal :=
  let r := s.site.region
  let A := s.greg r a
  .next (s.handlerOnly r (.resume a) [a]
    (if (s.region r).frozen.isSome then s.trapHere r cPROT A
     else if A.toNat / 4 ≠ 0 then s.trapHere r cPROT A
     else (s.resumePort r A.toNat).advance r))

/-- HUB_RESTORE: the hub restores a hub freeze's image in the region it was taken from; a second restore is refused
(R403). -/
def execHubRestore (addr r : Nat) (s : State) : Host.Outcome State Fault Refusal :=
  match s.images.get? addr with
  | some f =>
      if f.kind = 1 && !f.restored && (!isDram addr || (s.mem.word addr).getLsbD 63) && f.region = r && (s.region r).launch = some f.launch &&
          (s.region r).frozen.any (fun x => x.read) then
        .next (State.restoreHere { s with images := s.images.set addr { f with restored := true } } f r true)
      else .next s
  | none => .next s

/-! ## Drains (R404, R405) -/

/-- A drain MARK (R404). -/
def drainMarkTok (tag : Byte) : Tok := { data := 1, kind := 2, tag := tag }

/-- Is a channel an input of the region that is fed from outside it? -/
def fedFromOutside (r : Nat) (e : Sink × Chan) : Bool :=
  match e.1 with
  | .inp u _ => u.region = r && ((e.2.src.any (fun p => p.1.region ≠ r)) || (e.2.src.isNone && e.2.cap = 32))
  | _ => false

/-- Does a channel leave the region? -/
def leavesRegion (r : Nat) (e : Sink × Chan) : Bool :=
  e.2.src.any (fun p => p.1.region = r) && (match e.1 with | .inp u _ => u.region ≠ r | _ => false)

/-- DRAIN_START: the hub places drain MARKs at the tails of the inputs fed from outside (R404 step 1); a region that its own core
has frozen is frozen by the hub. -/
def execDrainStart (r : Nat) (s : State) : Host.Outcome State Fault Refusal :=
  let R := s.region r
  match s.hub.preempting, R.launch with
  | some (v, _), some id =>
    match s.launch? v with
    | some l =>
      if id ≠ v || l.rec_.flags.getLsbD 1 || R.drain.isSome then .next s
      else if R.frozen.isSome then .next (s.beginFreeze r (R.faultArea.getD (hubArea r)) 1).finishPreempt
      else
        let chans := s.chans.map (fun (k, c) =>
          if fedFromOutside r (k, c) then (k, { c with inq := c.inq ++ [drainMarkTok R.tag], shut := true })
          else if leavesRegion r (k, c) then (k, { c with drained := false })
          else (k, c))
        .next (State.modRegion { s with chans := chans } r (fun R =>
          { R with drain := some ⟨R.faultArea.getD (hubArea r), s.cyc⟩ }))
    | none => .next s
  | _, _ => .next s

/-- The conditions of R404 step 3, with every word landed. -/
def State.drained (s : State) (r : Nat) : Bool :=
  (s.chans.filter (leavesRegion r)).all (fun e => e.2.drained) &&
    s.chans.all (fun (k, c) => match k with
      | .inp u _ => u.region ≠ r || (decide (c.inq.length ≤ c.primedN) && (c.src.any (fun p => p.1.region ≠ r) || c.places.isEmpty))
      | _ => true) &&
    (s.units.filter (fun e => e.1.region = r)).all (fun e =>
      e.2.flights.isEmpty && e.2.multi.isNone && e.2.marks.isEmpty && e.2.reqs.isEmpty && e.2.vec.loads.isEmpty &&
      e.2.vec.sends.isEmpty && e.2.mat.seq.all (fun q => !q.started)) &&
    (s.core r).between && s.stampsDone r &&
    s.kv.all (fun h => h.region ≠ r || h.stage.isNone)

/-- DRAIN_COMPLETE: the image is written, of kind 2 (R404). -/
def execDrainComplete (r : Nat) (s : State) : Host.Outcome State Fault Refusal :=
  let R := s.region r
  match R.drain with
  | some d =>
      if R.frozen.isSome || !s.drained r then .next s
      else
        let f : FreezeSt := ⟨d.area, 2, false, true, none⟩
        let s1 := s.modRegion r (fun R => { R with frozen := some f, drain := none })
        let s2 := { s1 with images := s1.images.set d.area (s1.capture r 2 (s.waitingFor r)) }
        .next ((s2.unseat (R.launch.getD 0)).release401 r f).finishPreempt
  | none => .next s

/-- DRAIN_TIMEOUT: not done within WDLIM cycles, or an element recorded a cause meanwhile: a freeze at the same address (R404). -/
def execDrainTimeout (r : Nat) (s : State) : Host.Outcome State Fault Refusal :=
  let R := s.region r
  match R.drain with
  | some d =>
      let late := R.wdlim ≠ 0 && decide (d.since + R.wdlim.toNat ≤ s.cyc)
      let bad := s.units.any (fun e => e.1.region = r && e.2.stopped && decide (d.since ≤ e.2.faultCyc))
      if R.frozen.isNone && (late || bad) then
        .next ((s.modRegion r (fun R => { R with drain := none })).beginFreeze r d.area 1)
      else .next s
  | none => .next s

/-! ## A swapped-out launch comes back (R132, R403, R405) -/

/-- The image of a region of a swapped-out launch. -/
def State.imageOf (s : State) (id r : Nat) : Option (Nat × FImage) :=
  s.images.find? (fun e => e.2.launch = id && e.2.region = r && !e.2.restored && e.2.kind ≠ 0)

/-- The contents of a channel as an image has them, on the channel as it is laid again. -/
def Chan.filled (c o : Chan) : Chan :=
  { c with
    places := o.places
    inq := o.inq
    owed := o.owed
    primedN := o.primedN
    hops := List.zipWith (fun (h g : Hop) => { h with waiting := g.waiting, wire := g.wire }) c.hops o.hops }

/-- What stood at a region's ports while its launch was away, and its origin, on the record that comes back; the causes that pend are
the image's (R158, R403). -/
def Region.back (R old : Region) (f : FImage) : Region :=
  { R with cmds := old.cmds, origin := f.rec_.origin, core := { R.core with pend := f.rec_.core.pend }, heldSince := f.rec_.heldSince.filter (fun e => 4 ≤ e.1) ++ R.heldSince }

/-- Restore one region of a launch from a hub freeze's image: all sections. -/
def State.backWhole (s : State) (id r : Nat) (f : FImage) (old : Region) : State :=
  let s := s.setRegion r ((f.region_ (s.region r) (some id) true f.rec_.handles (f.notices ++ old.notices)).back old f)
  let s := (s.putStores f r f.cells).putUnits f r
  (f.chans.foldl (fun s (k, c) => match k with
    | .inp u _ => if u.region = r then s.modChan k (fun x => x.filled c) else s
    | .pipe _ _ _ => s.modChan k (fun x => x.filled c)) s).holdAgain r

/-- Restore one region of a launch from a drain image (R405). -/
def State.backDrained (s : State) (id r : Nat) (p : Placement) (f : FImage) (old : Region) : State :=
  (s.restoreDrain p f r (some id) true f.rec_.handles (f.notices ++ old.notices)).modRegion r (fun R => R.back old f)

/-- Bring a swapped-out launch back at its own origin. -/
def State.restoreLaunch (s : State) (id : Nat) (p : Placement) : State :=
  let olds := p.regions.map (fun r => (r, s.region r))
  let s := p.regions.foldl State.ungate s
  let s := s.vacate id p.regions
  let s := p.regions.foldl (fun s r => s.modRegion r (fun R => { R with devid := s.dev.devid })) s
  let s := s.setPlacement id { p with routes := [] }
  let s := (branchesAt p.img p.origin).foldl (fun s b => s.layBranch id b) s
  let s := p.img.pipeEnds.foldl (fun s e => s.layPipe id p.origin e) s
  let s := p.img.startEnds.foldl (fun s e => s.layStart p.origin e) s
  let fs := olds.filterMap (fun (r, R) => (s.imageOf id r).map (fun e => (r, R, e)))
  let s := fs.foldl (fun s (r, _, _, f) => s.bindPhase id r f.rec_.phase) s
  let s := fs.foldl (fun s (r, R, _, f) => if f.kind = 2 then s.backDrained id r p f R else s.backWhole id r f R) s
  let s := fs.foldl (fun s (_, _, _, f) => f.pairs.foldl (fun s (k, x) =>
    if f.kind = 2 then s.setPair k { x with ping := { addr := x.ping.addr }, pong := { addr := x.pong.addr }, order := [], lane := [] }
    else s.setPair k x) s) s
  let s := fs.foldl (fun s (_, _, _, f) => f.pairs.foldl (fun s (k, x) => if x.tx.region = f.region then s.reopenPair id k else s) s) s
  { s with images := fs.foldl (fun im (_, _, a, f) => im.set a { f with restored := true }) s.images }

end Sys2Proof.Machine
end

