-- ==== Sys2Proof/Machine/Sched.lean ====
section
/-! DEFINITION. The scheduler: launches, decisions, pre-emption, completion; messages; the ends of a core's waits (spec/07
R124, R130-R132, spec/09 R163, spec/16 R338-R342, spec/17 R350, spec/19 R395, R396, R399, spec/14 R275). -/

namespace Sys2Proof.Machine

/-! ## Launch records and queues (R130, R338, R339) -/

/-- The launch record of 32 words. Bits that a dependence's kind does not use are not reserved (DEDUCED). -/
def recordOf (ws : List Word) : LaunchRec :=
  let w (k : Nat) : Word := ws.getD k 0
  let flags : BitVec 32 := (w 2).extractLsb' 32 32
  { image := w 0
    record := w 1
    w := bitsOf (w 2) 0 8
    h := bitsOf (w 2) 8 8
    mask := bitsOf (w 2) 16 16
    flags := flags
    deps := (List.range 4).map (fun k => w (4 + k))
    params := (List.range 16).map (fun k => w (8 + k))
    reservedOk := flags &&& ~~~(0xFF03 : BitVec 32) = 0 && w 3 = 0 && (List.range 8).all (fun k => w (24 + k) = 0) }

/-- The kind of a dependence word. -/
def depKind (w : Word) : Nat := bitsOf w 62 2

/-- A dependence as it is bound at enqueue. -/
def State.bindDep (s : State) (w : Word) : Dep :=
  let r := bitsOf w 8 7
  { word := w, bound := if depKind w = 2 && r < 80 then (s.region r).launch else none, met := depKind w = 0 }

/-- The id after n: 0 and 0xFFFF_FFFF are skipped. -/
def nextLaunchId (n : Nat) : Nat := if 2 ^ 32 - 2 ≤ n then 1 else n + 1

/-- Enqueue a launch: its id, and the state. One that a core enqueues waits for what the core and the region owe (R129, R131). -/
def State.enqueueLaunch (s : State) (prio : Nat) (c : LaunchRec) (region : Option Nat) : Nat × State :=
  let id := s.hub.nextId
  let owed (f : Nat → List Nat) : List Nat := match region with
    | some r => f r
    | none => []
  let l : Launch :=
    { rec_ := c, prio := prio, since := s.cyc, deps := c.deps.map s.bindDep, region := region,
      needStores := owed s.owedTicks, needCmds := owed s.cmdTicks }
  (id, (s.setLaunch id l).modHub (fun h => { h with
    nextId := nextLaunchId id, idsAround := h.idsAround || nextLaunchId id = 1
    queues := h.queues.set prio (h.queues.get prio [] ++ [id]) }))

/-- How many ids ago an id was assigned last, the latest being 1; ids run around (R339). -/
def Hub.age (h : Hub) (id : Nat) : Nat := if id < h.nextId then h.nextId - id else h.nextId + (2 ^ 32 - 2) - id

/-- Has an id been assigned? -/
def Hub.assigned (h : Hub) (id : Nat) : Bool := decide (1 ≤ id) && decide (id ≤ 2 ^ 32 - 2) && (decide (id < h.nextId) || h.idsAround)

/-- Has a launch completed, as the scheduler remembers it: for the latest 2^16 ids, an older id counts as completed (R339)? -/
def Hub.completed (h : Hub) (id : Nat) : Bool := h.assigned id && (h.doneIds.contains id || decide (2 ^ 16 < h.age id))

/-- Is the handle of a dependence FULL or DRAINING in the placement it is bound to? -/
def State.depSeen (s : State) (d : Dep) : Bool :=
  let r := bitsOf d.word 8 7
  match d.bound with
  | none => false
  | some id => (s.placement? id).isNone ||
      ((s.region r).launch = some id && (match (s.handle r (bitsOf d.word 0 8)).st with
        | .full | .draining => true
        | _ => false))

/-- A dependence as the scheduler sees it now; once satisfied it stays so. -/
def State.refreshDep (s : State) (d : Dep) : Dep :=
  { d with met := d.met || (match depKind d.word with
      | 0 => true
      | 1 => s.hub.completed (bitsOf d.word 0 32)
      | 2 => s.depSeen d
      | _ => false) }

/-- May a LAUNCH's launch become ready: what preceded it is done (R129, R131)? -/
def State.launchFree (s : State) (l : Launch) : Bool :=
  match l.region with
  | none => true
  | some r => s.startMet r l.needStores l.needCmds

/-- Is a launch ready? -/
def State.launchReady (s : State) (l : Launch) : Bool := l.deps.all (fun d => d.met) && s.launchFree l

/-- Refresh every queued launch: its dependences, and since when it is priority 0 and ready (R130, R132). -/
def State.refreshLaunches (s : State) : State :=
  s.modHub (fun h => { h with launches := h.launches.map (fun (id, l) =>
    if l.st = .queued || l.st = .swapped then
      let l' : Launch := { l with deps := l.deps.map s.refreshDep }
      (id, { l' with readySince :=
        if l'.prio = 0 && s.launchReady l' then some (l'.readySince.getD s.cyc) else none })
    else (id, l)) })

/-- The core's own accepted stores applied: what a load of its own reads. -/
def State.ownMem (s : State) (r : Nat) : Memory := ((s.core r).stores.foldl (fun s c => s.performStore r c) s).mem

/-- Translate the 64-byte lines of n at va as core accesses: all targets, or the first cause. -/
def State.coreLines (s : State) (r : Nat) (va : Word) (n : Nat) (acc : Access) : Except Byte (List Target) :=
  (List.range n).foldr (fun k acc' =>
    match s.translateCore r (va + BitVec.ofNat 64 (64 * k)) acc with
    | .ok t => (match acc' with
        | .ok ts => .ok (t :: ts)
        | .error c => .error c)
    | .prot => .error cPROT
    | .absent => .error cPAGE) (.ok [])

/-- The eight words of a line. -/
def lineWords (m : Memory) (a : Nat) : List Word := (List.range 8).map (fun k => m.word (a + 8 * k))

/-- The words of lines as loads read them; none while a stamped line makes a load wait. -/
def State.readLines (s : State) : List Target → Option (List Word)
  | [] => some []
  | t :: ts =>
    match s.readTarget t 64, s.readLines ts with
    | some (v, _), some ws => some ((List.range 8).map (fun k => BitVec.ofNat 64 (v / 2 ^ (64 * k))) ++ ws)
    | _, _ => none

/-- LAUNCH (R338). -/
def execLaunch (d a : BitVec 5) (prio : BitVec 2) (s : State) : Host.Outcome State Fault Refusal :=
  let r := s.site.region
  let A := s.greg r a
  .next (s.using r [a]
    (if A.toNat % 64 ≠ 0 then s.trapHere r cMISALIGNED A
     else match s.coreLines r A 4 .load with
      | .error c => s.trapHere r c A
      | .ok ts =>
        match State.readLines { s with mem := s.ownMem r } ts with
        | none => s.tryAgain r
        | some ws =>
          if 64 ≤ (s.hub.queues.get prio.toNat []).length then s.retire r d allOnes
          else
            let (id, s1) := s.enqueueLaunch prio.toNat (recordOf ws) (some r)
            s1.retire r d (BitVec.ofNat 64 id)))

/-! ## Completion (R130, R163, R350) -/

/-- May a completion record stand at an address? -/
def recordAddrOk (a : Word) : Bool := a.toNat % 64 = 0 && isDram a.toNat

/-- Does the hub reach a physical address: are the links to its home die up (R130, R410)? -/
def State.hubReaches (s : State) (a : Nat) : Bool := !s.routeDown 8 a

/-- Can the scheduler write a completion record at an address (R130)? -/
def State.canRecord (s : State) (a : Word) : Bool := recordAddrOk a && s.hubReaches a.toNat

/-- A launch leaves its queue. -/
def Hub.unqueue (h : Hub) (id : Nat) : Hub :=
  { h with queues := h.queues.map (fun (p, q) => (p, q.filter (fun x => x ≠ id))) }

/-- A launch is remembered as completed, beside those of the latest 2^16 ids (R339). -/
def Hub.remember (h : Hub) (id : Nat) : Hub :=
  { h with doneIds := id :: h.doneIds.filter (fun i => decide (h.age i ≤ 2 ^ 16)), launches := h.launches.del id }

/-- Messages parked for a launch that exits are dropped (R340). -/
def State.dropParked (s : State) (id : Nat) : State :=
  let n := (s.hub.parked.filter (fun p => p.1 = id)).length
  (s.modHub (fun h => { h with parked := h.parked.filter (fun p => p.1 ≠ id) })).countPkg 0xC04 n

/-- A launch ends: its completion record waits to be written; one that was to be pre-empted needs it no more (R132). -/
def State.finish (s : State) (id : Nat) (l : Launch) (cause sub : Byte) (place dropped cycles : Nat) : State :=
  let s := (s.setLaunch id { l with st := .done }).dropParked id
  (s.unseat id).modHub (fun h => { (h.unqueue id) with
    placements := h.placements.del id
    preempting := if h.preempting.any (fun p => p.1 = id) then none else h.preempting
    completions := h.completions ++ [⟨id, l.rec_.record.toNat, cause, sub, place, dropped, cycles, (s.die 8).l⟩] })

/-- The record's eight words (R350). -/
def Completion.words (c : Completion) : List Word :=
  [0x8000000000000000 ||| BitVec.ofNat 64 (c.sub.toNat * 256 + c.cause.toNat), BitVec.ofNat 64 c.id, BitVec.ofNat 64 c.place,
    BitVec.ofNat 64 c.dropped, BitVec.ofNat 64 c.l, BitVec.ofNat 64 c.cycles, 0, 0]

/-- Store successive clean words: one event. -/
def Memory.putWords (m : Memory) (a : Nat) : List Word → Memory
  | [] => m
  | w :: ws => (m.store a 8 w false).putWords (a + 8) ws

/-- COMPLETION_RECORD_WRITE (R163, R350, R383). A cancelled launch's bad address takes no record. -/
def execCompletionRecordWrite (id : Nat) (s : State) : Host.Outcome State Fault Refusal :=
  match s.hub.completions.find? (fun c => c.id = id) with
  | none => .next s
  | some c =>
    let (p, s0) := s.carried 8 c.addr false
    let s1 := if recordAddrOk (BitVec.ofNat 64 c.addr) then
        { s0 with mem := (s0.mem.putWords c.addr c.words).poisonWords c.addr p 8 }
      else s0
    let s2 := s1.modHub (fun h => { (h.remember id) with completions := h.completions.filter (fun c => c.id ≠ id) })
    let s3 := s2.countPkg 0xC05 1
    .next (if c.cause = cREJECT then s3.countPkg 0xC06 1 else s3)

/-! ## A placement's end (R124, R163, R395) -/

/-- Does a channel of a region hold a boundary context on a link that is down? -/
def State.cutFrom (s : State) (rs : List Nat) : Bool :=
  s.chans.any (fun (k, c) => c.hops.any (fun h => !s.linkUp h.link) &&
    ((match k with | .inp u _ => rs.contains u.region | _ => false) || c.src.any (fun p => rs.contains p.1.region)))

/-- The elements of a region list that have recorded a cause. -/
def State.faulty (s : State) (rs : List Nat) : List EUnit :=
  (s.units.filter (fun e => rs.contains e.1.region && e.2.stopped)).map Prod.snd

/-- The element that recorded first. -/
def firstFaulty : List EUnit → Option EUnit
  | [] => none
  | x :: xs => match firstFaulty xs with
    | none => some x
    | some y => some (if y.faultAt < x.faultAt then y else x)

/-- Has the origin's core executed HALT, with no trap to come? -/
def Core.halted (k : Core) : Bool := k.wait = some .halt && k.run = .halted && (k.handler || k.pend.take?.isNone)

/-- Have the sends into pair k joined: none is in hand and nothing is on its lane; a send over a link that is down has stopped (R166,
R395, R410). -/
def State.sendJoined (s : State) (k : Nat) (x : Pair) : Bool :=
  (x.lane.isEmpty && (s.unit x.tx).sends.all (fun q => q.pair ≠ k)) || (s.link x.link).down

/-- Has every engine operation joined, and every message left (R163)? A matrix sequence of a stopped node does not run. -/
def State.joined (s : State) (id : Nat) (rs : List Nat) : Bool :=
  rs.all (fun r =>
    let R := s.region r
    !R.coreFrozen && R.drain.isNone && R.cmds.all (fun c => c.owner ≠ some id) && (s.cmdsOf r).isEmpty &&
      R.handles.all (fun e => e.2.st ≠ .filling) && R.core.stores.isEmpty &&
      (s.units.filter (fun e => e.1.region = r)).all (fun e =>
        e.2.reqs.all (fun q => q.stage = .withheld) && (e.2.mat.seq.isNone || e.2.stopped))) &&
    s.pairs.all (fun e => e.2.launch ≠ id || s.sendJoined e.1 e.2) &&
    s.stamped.all (fun x => !rs.contains x.region) &&
    s.kv.all (fun h => h.held || h.words.length < h.need || h.stage.all (fun p => p.1 ≠ id)) &&
    s.hub.outbox.all (fun o => o.msg.sender ≠ id)

/-- The cause and subcode of a completed placement (R395). -/
def State.endCause (s : State) (rs : List Nat) : Byte × Byte :=
  match firstFaulty (s.faulty rs) with
  | some x => (cFABRIC, BitVec.ofNat 8 (bitsOf x.efault 48 8))
  | none => if s.cutFrom rs then (cLINK, 0) else (0, 0)

/-- PLACEMENT_COMPLETE. -/
def execPlacementComplete (id : Nat) (s : State) : Host.Outcome State Fault Refusal :=
  match s.placement? id, s.launch? id with
  | some p, some l =>
    let rs := p.regions
    let ended := rs.all (fun r => (s.region r).stop || !(s.faulty [r]).isEmpty || s.cutFrom [r])
    if l.st = .placed && ended && (s.core p.origin).halted && s.joined id rs then
      let (cause, sub) := s.endCause rs
      let left := ((s.chans.filter (fun e => sinkIn rs id e.1)).map (fun e => e.2.held)).sum
      let s1 := { s with kv := s.kv.filter (fun h => h.stage.all (fun (p : Nat × Nat) => p.1 ≠ id)) }
      .next ((s1.vacate id rs).finish id l cause sub 0 (left + p.dropped) (s.cyc - p.start))
    else .next s
  | _, _ => .next s

/-! ## Decisions (R118, R130-R132) -/

/-- The launches of the queues, in order of priority and age. -/
def Hub.waiting (h : Hub) : List Nat := (List.range 4).flatMap (fun p => h.queues.get p [])

/-- Is a record broken (R130)? An image of another shape breaks it too (DEDUCED). -/
def Launch.broken (l : Launch) : Bool :=
  let c := l.rec_
  !c.reservedOk || c.w < 1 || 8 < c.w || c.h < 1 || 8 < c.h || 256 ≤ c.mask || c.mask = 0 ||
    l.deps.any (fun d => depKind d.word = 3 || (depKind d.word = 2 && d.bound.isNone))

/-- The image of a launch as it stands now; none where it cannot be read (R75). -/
def State.imageFor (s : State) (l : Launch) : Option Image :=
  let a := l.rec_.image
  if a.toNat % 64 = 0 && isDram a.toNat && s.hubReaches a.toNat && !s.mem.poison.any (fun w => a.toNat / 8 ≤ w && 8 * w < a.toNat + Config.imageSpan a.toNat)
  then imageIn s.mem a.toNat else none

/-- A launch that can leave no record is dropped with an event (R130, R433). -/
def State.dropLaunch (s : State) (id : Nat) : State :=
  ((s.dropParked id).modHub (fun h => (h.unqueue id).remember id)).notify [5, BitVec.ofNat 64 id, cPROT.setWidth 64]

/-- A launch is considered: a broken record completes at once; one that is ready is dropped, completed with CONFIG_REJECT, or
checked (R130, R131). -/
def State.consider (s : State) (id : Nat) : State :=
  match s.launch? id with
  | none => s
  | some l =>
    if l.checked || l.st ≠ .queued || (!l.broken && !s.launchReady l) then s
    else if !s.canRecord l.rec_.record then s.dropLaunch id
    else if l.broken then s.finish id l cREJECT 0x06 0 0 0
    else match s.imageFor l with
      | none => s.finish id l cREJECT 0x07 0 0 0
      | some m =>
        if m.w ≠ l.rec_.w || m.h ≠ l.rec_.h then s.finish id l cREJECT 0x06 0 0 0
        else if !s.everFits m l.rec_.mask then
          s.finish id l cREJECT (if s.unfused.everFits m l.rec_.mask then 0x06 else 0x04) 0 0 0
        else s.setLaunch id { l with checked := true }

/-- May a swapped-out placement return to its regions? -/
def State.backFits (s : State) (p : Placement) (l : Launch) (victims : List Nat) : Bool :=
  let needs := ctxNeeds p.img p.origin
  p.regions.all (s.regionFits p.img l.rec_.mask victims true) &&
  (!victims.isEmpty || needs.all (fun k =>
    decide ((needs.filter (fun x => x = k)).length ≤ (s.link k.1).freeCount k.2 0 128)))

/-- Where a launch fits now, `victims` counting as free. -/
def State.originFor (s : State) (id : Nat) (l : Launch) (victims : List Nat) : Option Nat :=
  match l.st with
  | .queued => (s.imageFor l).bind (fun m => s.findOrigin m l.rec_.mask victims)
  | .swapped => match s.placement? id with
    | some p => if s.backFits p l victims then some p.origin else none
    | none => none
  | _ => none

/-- The cfgtag base of a launch. -/
def LaunchRec.base (c : LaunchRec) : Byte := c.flags.extractLsb' 8 8

/-- A launch takes its place: placed, restored, or completed where the loader refuses it (R74, R263). -/
def State.placeLaunch (s : State) (id : Nat) (l : Launch) (o : Nat) : State :=
  let here (s : State) : State := (s.setLaunch id { l with st := .placed }).modHub (fun h => h.unqueue id)
  match l.st, s.placement? id, s.imageFor l with
  | .swapped, some p, _ => here (s.restoreLaunch id p)
  | .queued, _, some m =>
    let rs := (rectRegions o m.w m.h).getD []
    (match s.loadReject m o l.rec_.base l.rec_.params with
      | some (sub, place) => s.finish id l cREJECT sub place 0 0
      | none =>
        if s.spillBad m rs then s.finish id l cPROT 0 0 0 0
        else here (s.placeAt id o m l.rec_.base l.rec_.params rs))
  | _, _, _ => s

/-- Is a launch one that may be placed now? -/
def State.placeable (s : State) (id : Nat) : Option (Launch × Nat) :=
  match s.launch? id with
  | some l =>
      if s.launchReady l && (l.checked || l.st = .swapped) then (s.originFor id l []).map (fun o => (l, o)) else none
  | none => none

/-- The launch for which a victim was swapped out, which goes first (R132). -/
def State.afterPreempt (s : State) : Option Nat :=
  match s.hub.preempting with
  | some (v, w) => match s.launch? v with
    | some l => if l.st = .swapped then some w else none
    | none => none
  | none => none

/-- The first launch of a list that fits, placed. -/
def State.placeFirst (s : State) : List Nat → State
  | [] => s
  | id :: ids => match s.placeable id with
    | some (l, o) => s.placeLaunch id l o
    | none => s.placeFirst ids

/-- SCHEDULE_DECISION (R130, R131). -/
def execScheduleDecision (s : State) : Host.Outcome State Fault Refusal :=
  let s1 := (s.hub.waiting.foldl State.consider s.refreshLaunches).refreshLaunches
  match s1.afterPreempt with
  | some w => .next (State.modHub (s1.placeFirst (w :: s1.hub.waiting)) (fun h => { h with preempting := none }))
  | none => .next (s1.placeFirst s1.hub.waiting)

/-- AGELIM_PROMOTION (R132). -/
def execAgelimPromotion (id : Nat) (s : State) : Host.Outcome State Fault Refusal :=
  match s.launch? id with
  | none => .next s
  | some l =>
    let q := s.hub.queues.get (l.prio - 1) []
    if (l.st = .queued || l.st = .swapped) && 0 < l.prio && decide (l.since + s.hub.agelim.toNat ≤ s.cyc) && q.length < 64 then
      .next ((s.setLaunch id { l with prio := l.prio - 1, since := s.cyc }).modHub (fun h =>
        let h' := h.unqueue id
        { h' with queues := h'.queues.set (l.prio - 1) (h'.queues.get (l.prio - 1) [] ++ [id]) }))
    else .next s

/-! ## Pre-emption (R132) -/

/-- May a placement be the victim for a waiting launch? -/
def State.mayFall (s : State) (w : Nat) (lw : Launch) (e : Nat × Placement) : Bool :=
  match s.launch? e.1 with
  | some l => l.st = .placed && l.rec_.flags.getLsbD 0 && (s.originFor w lw e.2.regions).isSome
  | none => false

/-- The better victim of two: lowest priority, then youngest. -/
def State.betterVictim (s : State) (a b : Nat × Placement) : Nat × Placement :=
  let prio (e : Nat × Placement) : Nat := match s.launch? e.1 with
    | some l => l.prio
    | none => 0
  if prio a < prio b || (prio a = prio b && a.2.start < b.2.start) then b else a

/-- The victim of a list. -/
def State.victim (s : State) : List (Nat × Placement) → Option (Nat × Placement)
  | [] => none
  | e :: es => match s.victim es with
    | none => some e
    | some f => some (s.betterVictim e f)

/-- The priority-0 launches that have been ready for PREEMPTWAIT cycles, lowest id first (notes/assumptions/51). -/
def State.impatient (s : State) : List (Nat × Launch) :=
  s.hub.launches.filter (fun (_, l) => (l.st = .swapped || (l.st = .queued && l.checked)) && l.prio = 0 && s.launchReady l &&
    l.readySince.any (fun t => decide (t + s.hub.preemptWait.toNat ≤ s.cyc)))

/-- The first impatient launch that a victim would serve, and its victim. -/
def State.preemptChoice (s : State) : Option (Nat × Nat × Placement) :=
  s.impatient.findSome? (fun (w, lw) => (s.victim (s.hub.placements.filter (s.mayFall w lw))).map (fun v => (w, v)))

/-- PREEMPTION: the victim is chosen, and frozen if its flag says so; else DRAIN_START drains it. -/
def execPreemption (s : State) : Host.Outcome State Fault Refusal :=
  match s.hub.preempting, s.preemptChoice with
  | none, some (w, v, p) =>
      let s1 := s.modHub (fun h => { h with preempting := some (v, w) })
      let freeze := match s.launch? v with
        | some l => l.rec_.flags.getLsbD 1
        | none => false
      .next (if freeze then
          (p.regions.foldl (fun s r => s.beginFreeze r ((s.region r).faultArea.getD (hubArea r)) 1) s1).finishPreempt
        else s1)
  | _, _ => .next s

/-! ## Watchdog and withholding limits (R396, R399) -/

/-- WATCHDOG_EXPIRY (R396). -/
def execWatchdogExpiry (r : Nat) (s : State) : Host.Outcome State Fault Refusal :=
  let R := s.region r
  if R.wdlim ≠ 0 && decide (R.wdlim.toNat ≤ R.quiet) then
    .next ((s.modRegion r (fun R => { R with quiet := 0 })).raise r .watchdog (BitVec.ofNat 64 R.phase))
  else .next s

/-- The address that a port withholds. -/
def State.heldAddr (s : State) (r port : Nat) : Word :=
  if port < 4 then
    match (s.unit ⟨r, 4 * port, 19⟩).reqs.find? (fun q => q.stage = .withheld) with
    | some q => q.addr
    | none => 0
  else match (s.region r).cmds.find? (fun c => c.port = port - 4 && c.held) with
    | some c => c.va
    | none => 0

/-- PFLIMIT_FREEZE: a port has withheld one access for PFLIMIT cycles: once for each (R399). -/
def execPflimitFreeze (r port : Nat) (s : State) : Host.Outcome State Fault Refusal :=
  let R := s.region r
  match R.heldSince.get? port with
  | some n =>
      if 0 < n && R.pflimit.toNat ≤ n && !R.pfTold.contains port then
        let s1 := s.modRegion r (fun R => { R with pfTold := port :: R.pfTold })
        .next ((s1.faultFreeze r).notify [4, BitVec.ofNat 64 r, BitVec.ofNat 64 port, s.heldAddr r port])
      else .next s
  | none => .next s

/-! ## Messages (R340-R342, R435) -/

/-- MSEND (R341): the message is read once every earlier access is performed and every earlier command has left
FILLING; it stalls while the hub has no room. -/
def execMsend (d a b : BitVec 5) (nak : Bool) (s : State) : Host.Outcome State Fault Refusal :=
  let r := s.site.region
  let A := s.greg r a
  let B := s.greg r b
  .next (s.using r [a, b]
    (if B.toNat % 64 ≠ 0 then s.trapHere r cMISALIGNED B
     else if A.toNat / 2 ^ 32 ≠ 0 then s.trapHere r cPROT A
     else match s.coreLines r B 1 .load with
      | .error c => s.trapHere r c B
      | .ok ts =>
        if s.coreOwes r || !(s.cmdsOf r).isEmpty || 256 ≤ s.hub.parked.length + s.hub.outbox.length then
          s.tryAgain r
        else match s.readLines ts with
        | none => s.tryAgain r
        | some ws =>
          let m : Msg := ⟨(s.region r).launch.getD 0, ws.flatMap (fun w => (List.range 8).map (fun k => w.extractLsb' (8 * k) 8))⟩
          let o : OutMsg := ⟨m, A.toNat, if nak then some (r, d) else none, 0⟩
          let s1 := s.modHub (fun h => { h with outbox := h.outbox ++ [o] })
          if nak then s1.modCore r (fun k => { k with stall := some (.nak d) }) else s1.retire r d 0))

/-- Append a message to an inbox. -/
def State.deliver (s : State) (id : Nat) (p : Placement) (m : Msg) : State := s.setPlacement id { p with inbox := p.inbox ++ [m] }

/-- The host message ring: entries of 64 bytes fill it once (R435, DESIGN CHOICE). -/
def State.toHost (s : State) (m : Msg) : Nat × State :=
  let n := s.hub.hostRing.length
  if s.dev.hostRingBase ≠ 0 && decide (64 * (n + 1) ≤ s.dev.hostRingSize.toNat) then
    (1, { s.modHub (fun h => { h with hostRing := h.hostRing ++ [m.body] }) with
      dev := { s.dev with out := (s.dev.hostRingBase.toNat + 64 * n, m.body) :: s.dev.out } })
  else (4, s.countPkg 0xC04 1)

/-- Route one message: its status (R340). -/
def State.route (s : State) (m : Msg) (g : Nat) : Nat × State :=
  if g = 0 then s.toHost m
  else
    let park := (2, s.modHub (fun h => { h with parked := h.parked ++ [(g, m)] }))
    let behind := s.hub.parked.any (fun p => p.1 = g)
    match s.launch? g, s.placement? g with
    | some l, some p =>
        if l.st = .done then (4, s.countPkg 0xC04 1)
        else if p.inbox.length < 16 && !behind then (if l.st = .swapped then 3 else 1, s.deliver g p m)
        else park
    | some l, none => if l.st = .queued then park else (4, s.countPkg 0xC04 1)
    | none, _ => (4, s.countPkg 0xC04 1)

/-- Eight bytes of a number, little-endian. -/
def bytes8 (n : Nat) : List Byte := (List.range 8).map (fun k => BitVec.ofNat 8 (n / 2 ^ (8 * k)))

/-- MESSAGE_ROUTE (R340, R341, R435). -/
def execMessageRoute (s : State) : Host.Outcome State Fault Refusal :=
  match s.hub.outbox with
  | [] => .next s
  | o :: os =>
    let (st, s1) := (s.modHub (fun h => { h with outbox := os })).route o.msg o.dest
    let s2 := if o.hostAddr ≠ 0 then s1.modDev (fun d => { d with out := (o.hostAddr, bytes8 st) :: d.out }) else s1
    match o.nak with
    | some (r, d) =>
        if (s.core r).stall = some (.nak d) && (s.region r).launch = some o.msg.sender then .next (s2.retire r d (BitVec.ofNat 64 st))
        else .next s2
    | none => .next s2

/-- PARKED_MESSAGE_DELIVER: the oldest parked message of a launch moves into its inbox (R340). -/
def execParkedMessageDeliver (id : Nat) (s : State) : Host.Outcome State Fault Refusal :=
  match s.hub.parked.find? (fun p => p.1 = id), s.placement? id with
  | some (_, m), some p =>
      if p.inbox.length < 16 then
        .next ((s.modHub (fun h => { h with parked := h.parked.eraseP (fun p => p.1 = id) })).deliver id p m)
      else .next s
  | _, _ => .next s

/-- The inbox of a region's own launch. -/
def State.inboxOf (s : State) (r : Nat) : List Msg :=
  match (s.region r).launch with
  | some id => match s.placement? id with
    | some p => p.inbox
    | none => []
  | none => []

/-- Take the oldest message: stored as one event, then d (R342). -/
def State.takeMsg (s : State) (r : Nat) (d : BitVec 5) (t : Target) : State :=
  match (s.region r).launch, s.inboxOf r with
  | some id, m :: ms =>
    let s1 := { s with mem := (s.mem.writeBytes t.addr m.body).poisonWords t.addr false 8 }
    let s2 := match s.placement? id with
      | some p => s1.setPlacement id { p with inbox := ms }
      | none => s1
    s2.modCore r (fun k => Core.step4 { (k.write d (0x8000000000000000 ||| BitVec.ofNat 64 m.sender) false) with
      wait := none, run := .running })
  | _, _ => s

/-- The end of MRECV once a message is there, or its cause. -/
def State.mrecvNow (s : State) (r : Nat) (d : BitVec 5) (A : Word) : State :=
  match s.coreLines r A 1 .store with
  | .error c => (s.modCore r (fun k => { k with wait := none, run := .running })).trapHere r c A
  | .ok (t :: _) => 
      if (s.core r).overlaps t.addr 64 then (if (s.core r).wait.isSome then s else s.tryAgain r) else s.takeMsg r d t
  | .ok [] => s

/-- MRECV (R342). -/
def execMrecv (d a : BitVec 5) (wait : Bool) (s : State) : Host.Outcome State Fault Refusal :=
  let r := s.site.region
  let A := s.greg r a
  .next (s.using r [a]
    (if A.toNat % 64 ≠ 0 then s.trapHere r cMISALIGNED A
     else match s.coreLines r A 1 .store with
      | .error c => s.trapHere r c A
      | .ok _ =>
        if (s.inboxOf r).isEmpty then (if wait then s.wait r (.mrecv d A) else s.retire r d 0)
        else s.mrecvNow r d A))

/-! ## The ends of waits (R275, R285, R373, R374, R346, R400) -/

/-- WAIT_COMPLETE: the condition that a core waits for holds. -/
def execWaitComplete (r : Nat) (s : State) : Host.Outcome State Fault Refusal :=
  let R := s.region r
  if R.coreFrozen then .next s
  else match R.core.wait with
  | some (.sleepu a) => .next (if a.toNat ≤ s.cyc then s.endWait r else s)
  | some (.waits a sys) => .next (if a.toNat < s.floorAt sys (regionDie r) then s.endWait r else s)
  | some (.hwait h) => .next (if (s.handle r h).st = .filling then s else s.hwaitFull r h)
  | some (.mrecv d a) => .next (if (s.inboxOf r).isEmpty then s else s.mrecvNow r d a)
  | some .freeze => .next (if R.frozen.all (fun f => f.read) then s.endWait r else s)
  | some .halt => .next s
  | none => .next s

end Sys2Proof.Machine
end

