-- ==== Sys2Proof/Machine/Host.lean ====
section
/-! DEFINITION. The host's window: BAR0, BAR2, launches, messages (spec/25 R431-R435, R441, R442). -/

namespace Sys2Proof.Machine

/-- Does the hub serve a host function: READY, powered, the function's IDE keys programmed (R431, R442, R446, R452)? -/
def State.hostOpen (s : State) (fn : Nat) : Bool :=
  s.dev.phase = 4 && !s.dev.off && (s.enc.power = .p0 || s.enc.power = .p1) && decide (fn < 2) && (s.enc.keys.get? fn).isSome

/-- Is the module in bring-up or in P2, where only the identity and status registers answer and all else reads 0 (R442, R446)? -/
def State.hostSleeps (s : State) : Bool := !s.dev.off && (s.dev.phase ≠ 4 || s.enc.power = .p2)

/-- Count a discarded host write. -/
def State.hostError (s : State) : State := s.modDev (fun d => { d with hosterr := d.hosterr + 1 })

/-- An access that waits for credits arrives again in the next cycle (R434). -/
def State.hostRetry (s : State) : State := { s with again := true }

/-- A write to host memory. -/
def State.toHostMem (s : State) (a : Nat) (bs : List Byte) : State := s.modDev (fun d => { d with out := (a, bs) :: d.out })

/-- Words of a 256-byte launch record. -/
def recordWords (m : Memory) (a : Nat) : List Word := (List.range 32).map (fun k => m.word (a + 8 * k))

/-- The record as the hub reads it: over a link that is down it reads 0 (R410). -/
def State.hubRecord (s : State) (a : Nat) : List Word :=
  if s.routeDown 8 a then List.replicate 32 0 else recordWords s.mem a

/-- HOST_LAUNCH_WRITE (R434): a window of priority 0-3. -/
def execHostLaunchWrite (prio : Via Nat) (wellFormed : Bool) (record idAddr : Nat) (s : State) :
    Host.Outcome State Fault Refusal :=
  if !s.hostOpen prio.fn || 4 ≤ prio.arg then .next s
  else if !wellFormed || record % 64 ≠ 0 || idAddr % 8 ≠ 0 || !isDram record || !isDram (record + 255) then .next s.hostError
  else if 64 ≤ (s.hub.queues.get prio.arg []).length then .next s.hostRetry
  else
    let (id, s1) := s.enqueueLaunch prio.arg (recordOf (s.hubRecord record)) none
    .next (if idAddr = 0 then s1 else s1.toHostMem idAddr (bytes8 id))

/-- LAUNCH_CANCEL (R434). -/
def execLaunchCancel (wellFormed : Bool) (id : Via Nat) (s : State) : Host.Outcome State Fault Refusal :=
  if !s.hostOpen id.fn then .next s
  else match s.launch? id.arg with
    | some l => .next (if wellFormed && l.st = .queued then s.finish id.arg l cPREEMPT 0x01 0 0 0 else s.hostError)
    | none => .next s.hostError

/-- HOST_MESSAGE_WRITE (R435): sender 0. -/
def execHostMessageWrite (msg : List Word) (dest : Via Nat) (status : Nat) (s : State) : Host.Outcome State Fault Refusal :=
  if !s.hostOpen dest.fn then .next s
  else if 256 ≤ s.hub.parked.length + s.hub.outbox.length then .next s.hostRetry
  else
    let body := (List.range 8).flatMap (fun k => bytes8 (msg.getD k 0).toNat)
    .next (s.modHub (fun h => { h with outbox := h.outbox ++ [⟨⟨0, body⟩, dest.arg % 2 ^ 32, none, status⟩] }))

/-! ## BAR2 (R431, R432) -/

/-- Bytes written by the host: words written whole lose their poison. -/
def Memory.hostStore (m : Memory) (a : Nat) (bs : List Byte) : Memory :=
  let m1 := m.writeBytes a bs
  let first := (a + 7) / 8
  ((List.range ((a + bs.length) / 8 - first)).foldl (fun m k => m.setPoison (8 * (first + k)) false) m1)

/-- What a read of a stamped page finds at a byte of the page's data: what an ordinary load returns (R149). -/
def State.stampedByte (s : State) (base a : Nat) : Option Byte :=
  let (line, o) := physLine base a
  if 1024 ≤ line then some (s.mem.byte a)
  else (s.loadSlot base line).map (fun k => s.mem.byte (lineSlot base line k + o))

/-- The bytes that a host read finds; none while an access must wait. -/
def State.hostRead (s : State) (a : Nat) : Nat → Option (List Byte)
  | 0 => some []
  | n + 1 =>
    let b := match s.stampedAt a with
      | some base => s.stampedByte base a
      | none => some (s.mem.byte a)
    match b, s.hostRead (a + 1) n with
    | some b, some bs => some (b :: bs)
    | _, _ => none

/-- Bytes that the hub writes to DRAM: payload that its link spoils is poisoned (R137). -/
def State.hubStore (s : State) (a : Nat) (bs : List Byte) : State :=
  let (p, s) := s.carried 8 a false
  let m := Memory.hostStore s.mem a bs
  { s with mem := if p then m.poisonWords (a / 8 * 8) true ((a % 8 + bs.length + 7) / 8) else m }

/-- A host write lands, is lost with its link (R410), or is discarded at a stamped page. -/
def State.hostWrite (s : State) (a : Nat) (bs : List Byte) : State :=
  if (s.stampedAt a).isSome || (s.stampedAt (a + bs.length - 1)).isSome then s.hostError
  else if s.routeDown 8 a then
    let (i, s1) := s.takeFree
    if Config.lostStore i then s1.hubStore a bs else s1
  else s.hubStore a bs

/-- HOST_BAR2_ACCESS (R432, R442). -/
def execHostBar2Access (write : Bool) (off : Via Nat) (size : Nat) (data : List Byte) (s : State) :
    Host.Outcome State Fault Refusal :=
  let a := s.dev.winbase.toNat + off.arg
  if !s.hostOpen off.fn then
    .next (if write || !s.hostSleeps then s else s.modDev (fun d => { d with reads := (a, List.replicate size 0) :: d.reads }))
  else if size = 0 || 2 ^ s.dev.barBits < off.arg + size || !isDram a || !isDram (a + size - 1) then .next s
  else if write then
    if (data.take size).isEmpty then .next s else .next (s.hostWrite a (data.take size))
  else if s.routeDown 8 a then
    let (i, s1) := s.takeFree
    .next (s1.modDev (fun d => { d with reads := (a, (List.range size).map (fun k => Config.hostByte i k)) :: d.reads }))
  else match s.hostRead a size with
    | some bs => .next (s.modDev (fun d => { d with reads := (a, bs) :: d.reads }))
    | none => .next s.hostRetry

/-! ## BAR0 (R433): the registers of a block stand in its listed order, 8 bytes each (DESIGN CHOICE) -/

/-- PORT_RESUME_WRITE (R398, R433). -/
def execPortResumeWrite (r : Via Nat) (n : Nat) (s : State) : Host.Outcome State Fault Refusal :=
  if s.hostOpen r.fn && decide (r.arg < 80) && decide (n < 20) then .next (s.resumePort r.arg n) else .next s

/-- TRANSLATION_INVALIDATE (R354). -/
def execTranslationInvalidate (r : Via Nat) (s : State) : Host.Outcome State Fault Refusal :=
  if s.hostOpen r.fn && decide (r.arg < 80) then .next (s.modRegion r.arg (fun R => { R with kept := [] })) else .next s

/-- The first block: WINBASE is aligned to the window; DOMAIN; the rest is read-only. -/
def Device.writeIdent (d : Device) (k : Nat) (v : Word) : Device :=
  match k with
  | 2 => { d with devid := v.setWidth 18 }
  | 8 => { d with winbase := v &&& ~~~(BitVec.ofNat 64 (2 ^ d.barBits - 1)) }
  | 10 => { d with domain := v &&& 0x1FFFF }
  | _ => d

/-- BAR2 resized to 2^k bytes: WINBASE stays aligned to the window (R431, notes/assumptions/18). -/
def Device.resizeBar (d : Device) (k : Nat) : Device :=
  if 28 ≤ k && k ≤ 39 then { d with barBits := k, winbase := d.winbase &&& ~~~(BitVec.ofNat 64 (2 ^ k - 1)) } else d

/-- Limits and trace buffer. -/
def State.writeLimits (s : State) (k : Nat) (v : Word) : State :=
  match k with
  | 0 => s.modDev (fun d => { d with iwlim := v })
  | 1 => (List.range 80).foldl (fun s r => s.modRegion r (fun R => { R with pflimit := v })) s
  | 2 => s.modHub (fun h => { h with agelim := v })
  | 3 => s.modHub (fun h => { h with preemptWait := v })
  | 4 => s.modDev (fun d => { d with traceBase := v, traceWrite := 0 })
  | 5 => s.modDev (fun d => { d with traceSize := v, traceWrite := 0 })
  | 6 => s.modDev (fun d => { d with traceRead := v })
  | _ => s

/-- Is a value for WOVF or WOVLIM dropped: a misaligned one once a placement has been checked (R263, notes/assumptions/72)? -/
def State.spillRefused (s : State) (r : Nat) (v : Word) : Bool := (s.region r).launch.isSome && v.toNat % 128 ≠ 0

/-- A register of a region's block. -/
def State.writeRegionReg (s : State) (r k : Nat) (v : Word) : State :=
  match k with
  | 0 => s.modCore r (fun c => { c with evec := v &&& ~~~3 })
  | 1 => if s.spillRefused r v then s else s.modCore r (fun c => { c with wovf := v })
  | 2 => if s.spillRefused r v then s else s.modCore r (fun c => { c with wovlim := v })
  | 3 => s.modRegion r (fun R => { R with faultArea := if v.toNat / 64 = 0 then none else some (v.toNat / 64 * 64) })
  | 4 => if v.toNat < 20 then s.resumePort r v.toNat else s
  | 5 => s.modRegion r (fun R => { R with kept := [] })
  | 6 => s.modDev (fun d => { d with heatSel := d.heatSel.set r (v.toNat % 2 ^ 11) })
  | _ => s

/-- A word of an inbound range: base, size, valid (R436). -/
def Device.writeInbound (d : Device) (k : Nat) (v : Word) : Device :=
  let (b, z, ok) := d.inbound.get (k / 4) (0, 0, false)
  let e : Word × Word × Bool := match k % 4 with
    | 0 => (v, z, ok)
    | 1 => (b, v, ok)
    | 2 => (b, z, v.getLsbD 0)
    | _ => (b, z, ok)
  { d with inbound := d.inbound.set (k / 4) e }

/-- A register write by its offset; what is not listed ignores it. -/
def State.writeReg (s : State) (off : Nat) (v : Word) : State :=
  if off % 8 ≠ 0 then s
  else if off < 0x1000 then s.modDev (fun d => d.writeIdent (off / 8) v)
  else if off = 0x20080 then s.modDev (fun d => { d with hostRingBase := v })
  else if off = 0x20088 then s.modDev (fun d => { d with hostRingSize := v })
  else if 0x30000 ≤ off && off < 0x31000 then s.writeLimits ((off - 0x30000) / 8) v
  else if 0x100000 ≤ off && off < 0x150000 then s.writeRegionReg ((off - 0x100000) / 0x1000) (off % 0x1000 / 8) v
  else if 0x200000 ≤ off && off < 0x200040 then
    s.modHub (fun h => { h with samplers := h.samplers.set ((off - 0x200000) / 8) (v.getLsbD 63, v.setWidth 32) })
  else if 0x500100 ≤ off && off < 0x500300 then s.modDev (fun d => d.writeInbound ((off - 0x500100) / 8) v)
  else s

/-! ## What a read of BAR0 finds (R433, R441, R442) -/

/-- BUSTAT: the free entries read 0 until READY. -/
def State.bustat (s : State) : Word :=
  let free (p : Nat) : Nat := 64 - (s.hub.queues.get p []).length
  BitVec.ofNat 64 (s.dev.phase.toNat + (if s.dev.phase = 15 then 256 * s.dev.cause.toNat else 0) +
    (if s.dev.phase = 4 then
      2 ^ 24 * (free 0 + 2 ^ 7 * free 1 + 2 ^ 14 * free 2 + 2 ^ 21 * free 3) + 2 ^ 52 * (32 - s.dev.io.ingest.length) else 0))

/-- A bit per region, from region lo on. -/
def State.regionBits (s : State) (lo n : Nat) (f : Region → Bool) : Word :=
  BitVec.ofNat 64 ((List.range n).map (fun k => if f (s.region (lo + k)) then 2 ^ k else 0)).sum

/-- Word w of a stream context record (R364). -/
def Context.record (c : Context) (w : Nat) : Word :=
  match w with
  | 0 => BitVec.ofNat 64 (2 ^ 62 * c.st + 2 ^ 59 * c.cls + (if c.phys then 2 ^ 58 else 0))
  | 1 => BitVec.ofNat 64 c.target
  | 2 => BitVec.ofNat 64 (c.flits % 2 ^ 48)
  | _ => BitVec.ofNat 64 (c.credits % 2 ^ 16)

/-- The status word of a Dvori port (R436). -/
def Dvori.word (p : Dvori) : Word :=
  let st : Nat := match p.st with
    | .down => 0
    | .training => 1
    | .up => 2
  BitVec.ofNat 64 (st + 256 * p.lanes.toNat + 2 ^ 32 * min p.retries (2 ^ 32 - 1))

/-- The identity block. -/
def State.readIdent (s : State) (k : Nat) : Word :=
  match k with
  | 0 => 0x6A710C08
  | 1 => s.dev.revid.setWidth 64
  | 2 => s.dev.devid.setWidth 64
  | 3 => s.bustat
  | 4 => s.regionBits 0 64 (fun R => R.present)
  | 5 => s.regionBits 64 16 (fun R => R.present)
  | 6 => s.regionBits 0 64 (fun R => R.half)
  | 7 => 0
  | 8 => s.dev.winbase
  | 9 => s.dev.hosterr
  | 10 => s.dev.domain
  | _ => 0

/-- Word k of entry j of the fault event ring: the latest 56 events stand in it by their number, each in 8 words
(R433; DESIGN CHOICE, notes/assumptions/61). -/
def Hub.eventWord (h : Hub) (j k : Nat) : Word :=
  let n := h.events.length
  if j < n && decide (j < 56) then (h.events.getD ((n - 1 - j) % 56) []).getD k 0 else 0

/-- The 8-byte register of BAR0 at an offset; before READY and in P2 only the identity and status registers answer, and a function
without keys in READY takes DOE traffic alone (R442, R446, R452). -/
def State.bar0Word (s : State) (fn off : Nat) : Word :=
  if s.dev.off || off % 8 ≠ 0 then 0
  else if off < 0x1000 then
    if s.hostOpen fn || (s.hostSleeps && decide (off / 8 < 8) && decide (off / 8 ≠ 2)) then s.readIdent (off / 8) else 0
  else if !s.hostOpen fn then 0
  else if 0x20080 ≤ off && off < 0x20090 then (if off = 0x20080 then s.dev.hostRingBase else s.dev.hostRingSize)
  else if 0x30000 ≤ off && off < 0x31000 then
    match (off - 0x30000) / 8 with
    | 0 => s.dev.iwlim
    | 1 => (s.region 0).pflimit
    | 2 => s.hub.agelim
    | 3 => s.hub.preemptWait
    | 4 => s.dev.traceBase
    | 5 => s.dev.traceSize
    | 6 => s.dev.traceRead
    | 7 => BitVec.ofNat 64 s.hub.events.length
    | k => if 64 ≤ k then s.hub.eventWord ((k - 64) / 8) (k % 8) else 0
  else if 0x100000 ≤ off && off < 0x150000 then
    let r := (off - 0x100000) / 0x1000
    let R := s.region r
    match off % 0x1000 / 8 with
    | 0 => R.core.evec
    | 1 => R.core.wovf
    | 2 => R.core.wovlim
    | 3 => BitVec.ofNat 64 (R.faultArea.getD 0)
    | 6 => BitVec.ofNat 64 (s.dev.heatSel.get r 0)
    | 7 =>
        let k := s.dev.heatSel.get r 0
        if k % 4 = 3 then Config.heatFree s.cyc else (R.heat.get (k / 128, k / 4 % 32) {}).word (k % 4)
    | _ => 0
  else if 0x200000 ≤ off && off < 0x200040 then
    let (on, g) := s.hub.samplers.get ((off - 0x200000) / 8) (false, 0)
    BitVec.ofBool on ++ (0 : BitVec 31) ++ g
  else if 0x300000 ≤ off && off < 0x400000 then
    let n := (off - 0x300000) / 32
    Context.record ((s.link (n / 512)).ctxs.get (n / 256 % 2 = 1, n % 256) {}) ((off - 0x300000) % 32 / 8)
  else if 0x500000 ≤ off && off < 0x500080 then (s.dev.dvori.get ((off - 0x500000) / 8) {}).word
  else if 0x500100 ≤ off && off < 0x500300 then
    let (b, z, ok) := s.dev.inbound.get ((off - 0x500100) / 32) (0, 0, false)
    match (off - 0x500100) / 8 % 4 with
    | 0 => b
    | 1 => z
    | 2 => bool64 ok
    | _ => 0
  else 0

/-- Bits of the half that a 4-byte access at an offset reaches. -/
def halfShift (off : Nat) : Nat := 32 * (off / 4 % 2)

/-- A naturally aligned read of 4 or 8 bytes of BAR0 (R431); any other finds 0 (DESIGN CHOICE, notes/assumptions/18). -/
def State.bar0Read (s : State) (fn off size : Nat) : Word :=
  if size = 8 then s.bar0Word fn off
  else if size = 4 && off % 4 = 0 then (s.bar0Word fn (off / 8 * 8) >>> halfShift off) &&& 0xFFFFFFFF
  else 0

/-- Is an offset a region's resume or invalidate register, where a write is an action? -/
def isActionReg (off : Nat) : Bool :=
  decide (0x100000 ≤ off) && decide (off < 0x150000) && (off % 0x1000 / 8 = 4 || off % 0x1000 / 8 = 5)

/-- A 4-byte write keeps the other half of its register; the upper half of an action register is no part of the action. -/
def State.writeHalf (s : State) (fn off : Nat) (v : Word) : State :=
  let base := off / 8 * 8
  let field : Word := 0xFFFFFFFF <<< halfShift off
  let x := (v &&& 0xFFFFFFFF) <<< halfShift off
  if isActionReg base then (if off % 8 = 0 then s.writeReg base x else s)
  else s.writeReg base ((s.bar0Word fn base &&& ~~~field) ||| x)

/-- REGISTER_WRITE (R431, R433, R442): naturally aligned, of 4 or 8 bytes; any other is ignored (DESIGN CHOICE). A write of BAR2's
size field resizes the window. -/
def execRegisterWrite (off : Via BarPlace) (v : Word) (s : State) : Host.Outcome State Fault Refusal :=
  let p := off.arg
  if !s.hostOpen off.fn then .next s
  else if p.config then .next (s.modDev (fun d => d.resizeBar v.toNat))
  else if p.size = 8 then .next (s.writeReg p.off v)
  else if p.size = 4 && p.off % 4 = 0 then .next (s.writeHalf off.fn p.off v)
  else .next s

end Sys2Proof.Machine
end

