-- ==== Sys2Proof/Machine/Ingest.lean ====
section
/-! DEFINITION. Ingest with its quantisation, and checkpoints (spec/25 R438-R440). -/

namespace Sys2Proof.Machine

/-! ## The source matrix -/

/-- The address of source byte i: with zero elision a bitmap of one bit per 64-byte line stands first, padded to 64 bytes,
and lines whose bit is 0 are absent (the place of the lines: DESIGN CHOICE). -/
structure Source where
  read : Nat
  base : Nat
  elide : Bool
  lines : Nat
  deriving DecidableEq, Repr

/-- The bit of a line. -/
def Source.has (x : Source) (l : Nat) : Bool := (Config.hostByte x.read (x.base + l / 8)).getLsbD (l % 8)

/-- A byte of the source as if no line were absent. -/
def Source.byte (x : Source) (i : Nat) : Byte :=
  if x.elide then
    let l := i / 64
    if x.has l then
      let before := ((List.range l).filter x.has).length
      Config.hostByte x.read (x.base + ((x.lines + 7) / 8 + 63) / 64 * 64 + 64 * before + i % 64)
    else 0
  else Config.hostByte x.read (x.base + i)

/-- Element i of the source in elements of n bytes. -/
def Source.elem (x : Source) (n i : Nat) : Nat := (List.range n).foldr (fun k v => (x.byte (n * i + k)).toNat + 256 * v) 0

/-! ## Quantisation (R439) -/

/-- The quotient of two exact values as an exact value with its remainder bit; a zero divisor does not occur. -/
def Val.quot (a b : Val) : Val :=
  match a, b with
  | .num na ma ea _, .num nb mb eb _ =>
      if mb = 0 then .num (na != nb) 0 0 false
      else .num (na != nb) (ma * 2 ^ 300 / mb) (ea - eb - 300) (ma * 2 ^ 300 % mb ≠ 0)
  | .num na _ _ _, .inf nb => .num (na != nb) 0 0 false
  | _, _ => .num false 0 0 false

/-- RoundInt under rne of a finite value. -/
def Val.roundInt : Val → Int
  | .num neg m e more => (toInt 0 neg m e more).1
  | _ => 0

/-- The least and the greatest of a group. -/
def minVal : List Val → Val
  | [] => .num false 0 0 false
  | [v] => v
  | v :: vs =>
      let m := minVal vs
      if m.lt v then m else v

def maxVal : List Val → Val
  | [] => .num false 0 0 false
  | [v] => v
  | v :: vs =>
      let m := maxVal vs
      if v.lt m then m else v

/-- A quantised group: its sidecar entry, and its elements. -/
structure Quant where
  entry : Nat
  elems : List Nat
  deriving DecidableEq, Repr

/-- Is a value finite? -/
def Val.finite : Val → Bool
  | .num _ _ _ _ => true
  | _ => false

/-- A grouped UINTb group; where a value is not finite no result is stated. -/
def quantGroup (b : Nat) (vs : List Val) (free : Nat → Nat) : Quant :=
  if vs.all Val.finite then
    let top : Nat := 2 ^ b - 1
    let range := ((maxVal vs).add (minVal vs).negate).1
    let s0 := (roundTo fp16 0 false (range.quot (.num false top 0 false))).bits
    let s := if s0 = 0 then 0x3C00 else s0
    let z := (clampInt 0 top ((minVal vs).negate.quot (fp16.decode s)).roundInt).1
    ⟨s + 2 ^ 16 * z.toNat, vs.map (fun v => ((clampInt 0 top ((v.quot (fp16.decode s)).roundInt + z)).1).toNat)⟩
  else ⟨free 0 % 2 ^ 32, vs.mapIdx (fun i _ => free (i + 1) % 2 ^ b)⟩

/-- floor(log2 |v|) of a value that is not 0. -/
def Val.top : Val → Int
  | .num _ m e _ => e + bitLen m - 1
  | _ => 1024

/-- An MX block: its scale code, and its elements (R439). -/
def quantBlock (fmt : BitVec 4) (f : FloatFmt) (vs : List Val) : Quant :=
  let big := maxVal (vs.map Val.abs)
  let code : Nat :=
    if vs.any Val.isNaN then 0xFF
    else if big.isZero then 127
    else ((clampInt 0 254 (big.top - (if fmt = 5 then 8 else 2) + 127)).1).toNat
  ⟨code, vs.map (fun v => (roundTo f 0 (effSat fmt true) (Val.scale (127 - (code : Int)) v)).bits)⟩

/-! ## Tiles (R53, R69, R71, R438) -/

/-- Is a target grouped or MX? -/
def isGrouped (c : BitVec 4) : Bool := c = 11 || c = 13
def isMx (c : BitVec 4) : Bool := c = 5 || c = 7

/-- Cut a list in pieces of n. -/
def pieces (n : Nat) (l : List Val) : List (List Val) := (List.range ((l.length + n - 1) / n)).map (fun i => (l.drop (n * i)).take n)

/-- A row of the target: its element patterns, and its sidecar entries. -/
def quantRow (d : IngestDesc) (row : List Nat) (free : Nat → Nat → Nat) : List Nat × List Nat :=
  if isGrouped d.dstFmt then
    let qs := (pieces d.group (row.map (valOf d.srcFmt))).mapIdx (fun g vs => quantGroup (fmtWidth d.dstFmt) vs (free g))
    (qs.flatMap Quant.elems, qs.map Quant.entry)
  else match isMx d.dstFmt, floatOf? d.dstFmt with
    | true, some f =>
        let qs := (pieces 32 (row.map (valOf d.srcFmt))).map (quantBlock d.dstFmt f)
        (qs.flatMap Quant.elems, qs.map Quant.entry)
    | _, _ => (row.map (fun x => (convert d.srcFmt d.dstFmt 0 false x).bits), [])

/-- n bytes of packed patterns of w bits; places beyond the list hold free values. -/
def packRow (w n : Nat) (l : List Nat) (free : Nat → Nat) : List Byte :=
  let v := pack w ((List.range (8 * n / w)).map (fun i => l.getD i (free i)))
  (List.range n).map (fun k => BitVec.ofNat 8 (v / 2 ^ (8 * k)))

/-- The tiles of one kind of a row-block: K-block t of its 32 rows. -/
def blockTiles (w : Nat) (rows : List (List Nat)) (free : Nat → Nat) : List Byte :=
  let per := 512 / w
  let n := ((rows.headD []).length + per - 1) / per
  (List.range n).flatMap (fun t => rows.flatMap (fun row => packRow w 64 (row.drop (per * t)) free))

/-- The output: for each row-block its operand tiles, then its sidecar tiles. -/
def ingestBytes (d : IngestDesc) (x : Source) : List Byte :=
  let n := fmtWidth d.srcFmt / 8
  let sideW := if isGrouped d.dstFmt then 32 else 8
  (List.range (d.rows / 32)).flatMap (fun rb =>
    let qs := (List.range 32).map (fun i =>
      let r := 32 * rb + i
      quantRow d ((List.range d.k).map (fun j => x.elem n (r * d.k + j)))
        (fun g j => Config.ingestFree x.read (((r * d.k) + g) * 256 + j)))
    let pad (i : Nat) : Nat := Config.ingestFree (x.read + 1) i
    blockTiles (fmtWidth d.dstFmt) (qs.map Prod.fst) pad ++
      (if isGrouped d.dstFmt || isMx d.dstFmt then blockTiles sideW (qs.map Prod.snd) pad else []))

/-! ## The ingest queue -/

/-- INGEST_DESCRIPTOR (R438): 32 wait at most. -/
def execIngestDescriptor (d : Via IngestDesc) (s : State) : Host.Outcome State Fault Refusal :=
  if !s.hostOpen d.fn then .next s
  else if 32 ≤ s.dev.io.ingest.length then .next s.hostRetry
  else .next (s.modDev (fun v => { v with io := { v.io with ingest := v.io.ingest ++ [d.arg] } }))

/-- The cause and subcode of a descriptor that is refused (R59, R438). -/
def ingestRefused (d : IngestDesc) : Option (Byte × Byte) :=
  if !([2, 3, 4].contains d.srcFmt.toNat) || !([3, 4, 5, 7, 11, 13].contains d.dstFmt.toNat) then some (cREJECT, 0x03)
  else if d.src % 64 ≠ 0 || d.dst % 64 ≠ 0 || d.rows % 32 ≠ 0 || d.k % 32 ≠ 0 then some (cREJECT, 0x03)
  else if isGrouped d.dstFmt && !([32, 64, 128].contains d.group) then some (cREJECT, 0x03)
  else none

/-- INGEST_COMPLETE (R438, R439): every output write, then the status. -/
def execIngestComplete (s : State) : Host.Outcome State Fault Refusal :=
  match s.dev.io.ingest with
  | [] => .next s
  | d :: ds =>
    let s1 := s.modDev (fun v => { v with io := { v.io with ingest := ds } })
    let status (s : State) (c sub : Byte) : State := s.toHostMem d.status (bytes8 (2 ^ 63 + 256 * sub.toNat + c.toNat))
    match ingestRefused d with
    | some (c, sub) => .next (status s1 c sub)
    | none =>
      let (i, s2) := s1.takeFree
      let (_, s3) := s2.takeFree
      let bs := ingestBytes d ⟨i, d.src, d.elide, (d.rows * d.k * fmtWidth d.srcFmt / 8 + 63) / 64⟩
      .next (if bs.isEmpty then status s3 0 0
        else if isDram d.dst && isDram (d.dst + bs.length - 1) then
          status (s3.hubStore d.dst bs) 0 0
        else status s3 cPROT 0)

/-! ## Checkpoints (R440) -/

/-- CHECKPOINT_DESCRIPTOR: up to 16 ranges. -/
def execCheckpointDescriptor (d : Via CheckpointDesc) (s : State) : Host.Outcome State Fault Refusal :=
  if !s.hostOpen d.fn || 16 < d.arg.ranges.length then .next s
  else .next (s.modDev (fun v => { v with io := { v.io with checkpoint := v.io.checkpoint ++ [d.arg] } }))

/-- The 64-byte lines of a range. -/
def rangeLines (e : Nat × Nat) : List Nat := (List.range ((e.2 + 63) / 64)).map (fun k => e.1 + 64 * k)

/-- One line as the engine copies it: a stamped line as LDAS at the cut returns it, other memory as it stands. -/
def State.checkpointLine (s : State) (cut a : Nat) : List Byte :=
  match s.stampedAt a with
  | some base =>
      let line := (a - base) / 320
      if (a - base) % 320 = 0 && line < 1024 then
        match ldasSlot s.mem base line cut with
        | some k => s.mem.readBytes (lineSlot base line k) 64
        | none => (List.range 8).flatMap (fun k => bytes8 (Config.lostData (s.freeCtr + k)).toNat)
      else s.mem.readBytes a 64
  | none => s.mem.readBytes a 64

/-- Copy the line at an address to place k of the target. -/
def State.copyLine (s : State) (d : CheckpointDesc) (k a : Nat) : State :=
  let bs := s.checkpointLine d.cut a
  let t := d.target + 64 * k
  let s1 := { s with freeCtr := s.freeCtr + 8 }
  if d.toHost then s1.toHostMem t bs
  else s1.modDev (fun v => { v with remote := (t / 2 ^ 52 % 2 ^ 18, t % 2 ^ 52, .bytes bs) :: v.remote })

/-- The lines that a descriptor names, in order. -/
def linesOf (d : CheckpointDesc) : List Nat := d.ranges.flatMap rangeLines

/-- CHECKPOINT_COPY: once the floor at the scope exceeds the cut, the next line of the oldest descriptor, which ends with its
last line. -/
def execCheckpointCopy (s : State) : Host.Outcome State Fault Refusal :=
  match s.dev.io.checkpoint with
  | [] => .next s
  | d :: ds =>
    let k := s.dev.io.copied
    let ended (v : Device) : Device := { v with io := { v.io with checkpoint := ds, copied := 0 } }
    if s.floorAt (d.scope = .sys) 8 ≤ d.cut then .next s
    else match (linesOf d)[k]? with
      | none => .next (s.modDev ended)
      | some a =>
        let s1 := s.copyLine d k a
        .next (s1.modDev (fun v => if (linesOf d).length ≤ k + 1 then ended v else { v with io := { v.io with copied := k + 1 } }))

end Sys2Proof.Machine
end

