-- ==== Sys2Proof/Machine/Keccak.lean ====
section
/-! DEFINITION. SHAKE256, with which the enclave measures (spec/26 R443, R449): the extendable-output function of FIPS 202, rate 136
bytes, its output at most one block here. -/

namespace Sys2Proof.Machine

/-- A lane of the 25 of the permutation's state, lane x + 5 y at place (x, y). -/
abbrev Lane := BitVec 64

def laneAt (a : List Lane) (i : Nat) : Lane := a.getD i 0

/-- The rotation of each lane in ρ. -/
def rhoOffsets : List Nat :=
  [0, 1, 62, 28, 27, 36, 44, 6, 55, 20, 3, 10, 43, 25, 39, 41, 45, 15, 21, 8, 18, 2, 61, 56, 14]

/-- The round constants of ι. -/
def iotaConstants : List Lane :=
  [0x0000000000000001, 0x0000000000008082, 0x800000000000808A, 0x8000000080008000, 0x000000000000808B, 0x0000000080000001,
   0x8000000080008081, 0x8000000000008009, 0x000000000000008A, 0x0000000000000088, 0x0000000080008009, 0x000000008000000A,
   0x000000008000808B, 0x800000000000008B, 0x8000000000008089, 0x8000000000008003, 0x8000000000008002, 0x8000000000000080,
   0x000000000000800A, 0x800000008000000A, 0x8000000080008081, 0x8000000000008080, 0x0000000080000001, 0x8000000080008008]

/-- θ: each lane takes the parities of two neighbouring columns. -/
def theta (a : List Lane) : List Lane :=
  let c := (List.range 5).map (fun x =>
    laneAt a x ^^^ laneAt a (x + 5) ^^^ laneAt a (x + 10) ^^^ laneAt a (x + 15) ^^^ laneAt a (x + 20))
  (List.range 25).map (fun i => laneAt a i ^^^ laneAt c ((i + 4) % 5) ^^^ (laneAt c ((i + 1) % 5)).rotateLeft 1)

/-- ρ and π: lanes are rotated and change places. -/
def rhoPi (a : List Lane) : List Lane :=
  (List.range 25).map (fun j =>
    let i := (j % 5 + 3 * (j / 5)) % 5 + 5 * (j % 5)
    (laneAt a i).rotateLeft (rhoOffsets.getD i 0))

/-- χ: along each row. -/
def chi (a : List Lane) : List Lane :=
  (List.range 25).map (fun i =>
    let y := i / 5 * 5
    laneAt a i ^^^ (~~~(laneAt a (y + (i + 1) % 5)) &&& laneAt a (y + (i + 2) % 5)))

/-- One round. -/
def keccakRound (a : List Lane) (rc : Lane) : List Lane :=
  match chi (rhoPi (theta a)) with
  | [] => []
  | x :: xs => (x ^^^ rc) :: xs

/-- The permutation of 24 rounds. -/
def keccakF (a : List Lane) : List Lane := iotaConstants.foldl keccakRound a

/-- Eight bytes of a block as a lane, low byte first. -/
def laneOf (bs : List Byte) (k : Nat) : Lane :=
  BitVec.ofNat 64 (((bs.drop (8 * k)).take 8).foldr (fun b v => b.toNat + 256 * v) 0)

/-- The message padded to whole blocks of 136 bytes, with SHAKE's suffix. -/
def shakePad (bs : List Byte) : List Byte :=
  let n := 136 - bs.length % 136
  bs ++ (if n = 1 then [0x9F] else 0x1F :: List.replicate (n - 2) 0 ++ [0x80])

/-- A block is added to the state, which is then permuted. -/
def absorbBlock (a : List Lane) (block : List Byte) : List Lane :=
  keccakF ((List.range 25).map (fun i => if i < 17 then laneAt a i ^^^ laneOf block i else laneAt a i))

/-- Absorb n blocks. -/
def absorb : Nat → List Byte → List Lane → List Lane
  | 0, _, a => a
  | n + 1, bs, a => absorb n (bs.drop 136) (absorbBlock a (bs.take 136))

/-- The state after a message. -/
def shakeState (bs : List Byte) : List Lane :=
  let p := shakePad bs
  absorb (p.length / 136) p (List.replicate 25 0)

/-- SHAKE256 with 512 bits of output, low byte first. -/
def shake512 (bs : List Byte) : BitVec 512 :=
  let a := shakeState bs
  BitVec.ofNat 512 ((List.range 8).foldr (fun k v => (laneAt a k).toNat + 2 ^ 64 * v) 0)

end Sys2Proof.Machine
end

