-- ==== Sys2Proof/Machine/Enclave.lean ====
section
/-! DEFINITION. Bring-up, power, lifecycle, debug level, measurements, keys; what other devices send (spec/25 R431, R436, R437,
R441, spec/26 R443-R453). -/

namespace Sys2Proof.Machine

/-! ## Measurements (R449) -/

/-- The bytes of a 512-bit and of a 256-bit value, low byte first. -/
def bytes64 (x : BitVec 512) : List Byte := (List.range 64).map (fun k => x.extractLsb' (8 * k) 8)
def bytes32 (x : BitVec 256) : List Byte := (List.range 32).map (fun k => x.extractLsb' (8 * k) 8)

/-- Extend M_k; the values before the first extend of a cycle are what a request of that cycle returns. -/
def State.extend (s : State) (k : Fin 8) (d : List Byte) : State :=
  s.modEnc (fun e => { e with
    mOld := if e.mAt = some s.cyc then e.mOld else e.m
    mAt := some s.cyc
    m := e.m.set k (shake512 (bytes64 (e.m.get k) ++ d)) })

/-- The measurements that a request of this cycle finds. -/
def State.measured (s : State) : Vector (BitVec 512) 8 := if s.enc.mAt = some s.cyc then s.enc.mOld else s.enc.m

/-- Lifecycle, level and power codes (R447, R451). -/
def Lifecycle.code : Lifecycle → Nat
  | .manufacture => 0 | .owned => 1 | .returned => 2
def Level.code : Level → Nat
  | .none => 0 | .owner => 1 | .vendor => 2
def Power.code : Power → Nat
  | .p0 => 0 | .p1 => 1 | .p2 => 2 | .p3 => 3

/-- What M2 is extended with: fuse contents, the rollback counter among them, owner key digest, lifecycle. -/
def Enclave.fuseBytes (e : Enclave) : List Byte :=
  Config.fuses ++ bytes8 (e.rollback.getD Config.rollbackFuse) ++ bytes32 (e.ownerDigest.getD 0) ++ [BitVec.ofNat 8 e.life.code]

/-! ## Reset, power and bring-up (R431, R441, R446, R450) -/

/-- The lowest debug level of a lifecycle state (R444). -/
def Lifecycle.lowest : Lifecycle → Level
  | .manufacture => .vendor
  | _ => .none

/-- What outlives the loss of power: which regions there are, fuses; the model's inputs and what left the module. -/
def State.fused (s : State) : State :=
  { State.reset with
    inputs := s.inputs.map (fun (c, i) => (c - s.cyc, i))
    ticket := s.ticket
    freeCtr := s.freeCtr
    regions := s.regions.map (fun (r, R) => (r, { present := R.present, half := R.half }))
    dev := { out := s.dev.out, reads := s.dev.reads, remote := s.dev.remote }
    enc := { life := s.enc.life, level := s.enc.life.lowest, ownerDigest := s.enc.ownerDigest, rollback := s.enc.rollback, reports := s.enc.reports } }

/-- FUNCTION_LEVEL_RESET (R431, R452): the whole module to bring-up. Its clocks run on, and a spent nonce stays spent
(DESIGN CHOICE, notes/assumptions/66). -/
def execFunctionLevelReset (s : State) : Host.Outcome State Fault Refusal :=
  if s.dev.off then .next s
  else .next ({ s.fused with now := s.now, dies := s.dies }.modEnc (fun e => { e with spent := s.enc.spent }))

/-- POWER_REMOVAL (R446, R447): only the fuses are kept. -/
def execPowerRemoval (s : State) : Host.Outcome State Fault Refusal :=
  let f := s.fused
  .next { f with dev := { f.dev with off := true } }

/-- POWER_ON (R441): bring-up starts. -/
def execPowerOn (s : State) : Host.Outcome State Fault Refusal :=
  .next (if s.dev.off then s.modDev (fun d => { d with off := false }) else s)

/-- Bring-up fails: final (R441). -/
def State.bringupFails (s : State) (cause : Byte) : State := s.modDev (fun d => { d with phase := 15, cause := cause })

/-- Is a signature of SLH-DSA-SHAKE-256s, 29,792 bytes, the one of a key with a digest on a message (R450)? -/
def slhSigned (digest : BitVec 256) (msg sig : List Byte) : Bool := sig.length = 29792 && Config.slhVerify digest msg sig

/-- Images with their signatures checked in turn: the rollback counter after them, and the cause of the first that
fails, or 0 (R450). Each accepted image raises the counter before the next is checked (DEDUCED, notes/assumptions/89). -/
def checkImages : Nat → List (List Byte × List Byte) → Nat × Byte
  | c, [] => (c, 0)
  | c, (b, sig) :: xs =>
      if !slhSigned Config.vendorDigest b sig then (c, 0x01)
      else if Config.imageVersion b < c then (c, 0x02)
      else checkImages (Config.imageVersion b) xs

/-- The images of a bring-up with their signatures, the hub's first. -/
def firmwareImages (i : Nat) : List (List Byte × List Byte) :=
  (Config.hubFirmware i :: Config.otherFirmware i).zipIdx.map (fun (b, k) => (b, Config.firmwareSig i k))

/-- FIRMWARE: signatures, versions, the rollback counter, M0 to M2, the debug level, the attestation key (R444, R449-R451). -/
def State.verifyFirmware (s : State) : State :=
  let (i, s) := s.takeFree
  let (c, cause) := checkImages (s.enc.rollback.getD Config.rollbackFuse) (firmwareImages i)
  let s := s.modEnc (fun e => { e with rollback := some c })
  if cause ≠ 0 then s.bringupFails cause
  else
    let s := s.modEnc (fun e => { e with level := e.life.lowest })
    let s := s.extend 0 (Config.hubFirmware i)
    let s := (Config.otherFirmware i).foldl (fun s d => s.extend 1 d) s
    ((s.extend 2 s.enc.fuseBytes).modEnc (fun e => { e with attest := Config.attestKey (e.m.get 0) (e.m.get 2) })).modDev
      (fun d => { d with phase := 2 })

/-- DRAM reads 0 (R441). -/
def Memory.zeroDram (m : Memory) : Memory :=
  { cells := m.cells.filter (fun c => !isDram c.1), poison := m.poison.filter (fun w => !isDram (8 * w)) }

/-- On-chip stores read 0 (R446). -/
def Memory.onlyDram (m : Memory) : Memory :=
  { cells := m.cells.filter (fun c => isDram c.1), poison := m.poison.filter (fun w => isDram (8 * w)) }

/-- The end of bring-up: P0; the root takes the epoch (R437), and its clocks bracket it. -/
def State.bringupDone (s : State) : State :=
  let t := if s.dev.isRoot then max s.now Config.epoch else s.now
  let s := ({ s with mem := Memory.zeroDram s.mem, now := t }).eachDie (fun D => { D with l := max D.l t })
  (s.modEnc (fun e => { e with power := .p0 })).modDev (fun d => { d with phase := 4 })

/-- BRINGUP_PHASE_COMPLETE (R441). -/
def execBringupPhaseComplete (s : State) : Host.Outcome State Fault Refusal :=
  if s.dev.off then .next s
  else match s.dev.phase.toNat with
    | 0 => .next (s.modDev (fun d => { d with phase := 1 }))
    | 1 => .next s.verifyFirmware
    | 2 | 3 =>
        let (i, s1) := s.takeFree
        let c := Config.bringupCause s.dev.phase.toNat i
        .next (if c ≠ 0 then s1.bringupFails c
          else if s.dev.phase = 2 then s1.modDev (fun d => { d with phase := 3 }) else s1.bringupDone)
    | _ => .next s

/-- ENCLAVE_UNCORRECTABLE_ERROR (R453). -/
def execEnclaveUncorrectableError (s : State) : Host.Outcome State Fault Refusal :=
  if s.dev.off then .next s else .next (s.bringupFails 0x10)

/-! ## Power states (R446, R447) -/

/-- Is no launch queued or placed? -/
def State.noLaunch (s : State) : Bool := s.hub.launches.all (fun e => e.2.st = .done)

/-- Keys and sessions end (R452). -/
def State.dropKeys (s : State) : State := s.modEnc (fun e => { e with keys := [], spdm := [] })

/-- The level falls to NONE: flags fall with it, and trace records under way are discarded (R444). -/
def State.levelNone (s : State) : State :=
  { s.modEnc (fun e => { e with level := .none, routeBrk := false, openTrace := false }) with
    regions := s.regions.map (fun (r, R) => (r, { R with tracePend := [], traceSync := R.traceSync || R.tracePend.any TraceEv.isCore })) }

/-- P1: the named regions are gated. -/
def State.gate1 (s : State) (rs : List Nat) : State :=
  (rs.foldl (fun s r => s.modRegion r (fun R => { R with gated := true })) s).modEnc (fun e => { e with power := .p1 })

/-- Entry to P2. -/
def State.sleep (s : State) : State :=
  let s := s.dropKeys.modEnc (fun e => { e with power := .p2 })
  if s.enc.level = .owner then s.levelNone else s

/-- P0 from P1: every region is ungated. -/
def State.ungateAll (s : State) : State :=
  ((List.range 80).foldl State.ungate s).modEnc (fun e => { e with power := .p0 })

/-- P0 from P2: every on-chip store reads 0, DRAM keeps its contents. -/
def State.wake (s : State) : State :=
  let open_ (e : Nat × Region) : Nat × Region := (e.1, { e.2 with gated := false, cache := [] })
  let s : State := { s with mem := Memory.onlyDram s.mem, regions := s.regions.map open_ }
  s.dropKeys.modEnc (fun e => { e with power := .p0 })

/-- POWER_STATE_REQUEST (R446): a request whose condition fails changes nothing. -/
def execPowerStateRequest (target : PowerTarget) (s : State) : Host.Outcome State Fault Refusal :=
  if s.dev.phase ≠ 4 || s.dev.off then .next s
  else match target, s.enc.power with
    | .p0, .p1 => .next s.ungateAll
    | .p0, .p2 => .next s.wake
    | .p1 rs, .p0 | .p1 rs, .p1 =>
        if !rs.isEmpty && rs.all (fun r => decide (r < 80) && (s.region r).launch.isNone) then .next (s.gate1 rs) else .next s
    | .p2, .p0 | .p2, .p1 =>
        if s.noLaunch && s.regions.all (fun e => e.2.handles.all (fun h => h.2.st ≠ .filling)) then .next s.sleep else .next s
    | _, _ => .next s

/-! ## Debug level (R444, R445) -/

/-- A 64-bit field of a list of bytes. -/
def wordAt (bs : List Byte) (o : Nat) : Nat := (List.range 8).foldr (fun k v => (bs.getD (o + k) 0).toNat + 256 * v) 0

/-- Are the fields what the token's bytes hold (R444)? -/
def tokenFields (t : DebugTok) : Bool :=
  t.body.length = 128 && wordAt t.body 0 = t.level.toNat && wordAt t.body 8 = t.devid.toNat &&
    (t.body.drop 16).take 32 = bytes32 t.nonce && wordAt t.body 48 = t.flags.toNat &&
    decide (t.flags.toNat < 4) && (t.body.drop 56).all (fun b => b = 0)

/-- Does the signature verify under the key that the level asks for? -/
def State.tokenSigned (s : State) (t : DebugTok) : Bool :=
  if t.level = 1 then (match s.enc.ownerDigest with
    | some d => slhSigned d t.body t.sig
    | none => false)
  else slhSigned Config.vendorDigest t.body t.sig

/-- Does the lifecycle allow the level (R443)? -/
def Lifecycle.allows (l : Lifecycle) (level : Nat) : Bool :=
  match l with
  | .manufacture => level = 2
  | .owned => level = 1
  | .returned => level = 2

/-- The nonce that a token presents is the last report's, and has served no token yet. -/
def State.nonceMatches (s : State) (t : DebugTok) : Bool := s.enc.nonce = some t.nonce && !s.enc.spent.contains t.nonce

/-- Is a token accepted (R444)? -/
def State.tokenOk (s : State) (t : DebugTok) : Bool :=
  t.rest && tokenFields t && s.tokenSigned t && t.devid = s.dev.devid && s.nonceMatches t && s.enc.life.allows t.level.toNat &&
    s.enc.power = .p0 && s.noLaunch

/-- DEBUG_TOKEN: a nonce that was presented is spent (R445, DEDUCED). -/
def execDebugToken (t : DebugTok) (s : State) : Host.Outcome State Fault Refusal :=
  if s.dev.phase ≠ 4 || s.dev.off then .next s
  else
    let s1 := if s.nonceMatches t then s.modEnc (fun e => { e with nonce := none, spent := t.nonce :: e.spent }) else s
    if s.tokenOk t then
      .next ((s1.modEnc (fun e => { e with
        level := if t.level = 1 then .owner else .vendor
        routeBrk := t.flags.getLsbD 0
        openTrace := t.flags.getLsbD 1 })).extend 7 (t.body ++ t.sig))
    else .next s1

/-- DEBUG_LEVEL_LOWER: in MANUFACTURE only VENDOR can be set (R443, R447). -/
def execDebugLevelLower (s : State) : Host.Outcome State Fault Refusal :=
  if s.dev.off || s.enc.life = .manufacture then .next s else .next s.levelNone

/-! ## Lifecycle (R443) -/

/-- LIFECYCLE_TRANSFER: to OWNED, with the owner key's digest fused. -/
def execLifecycleTransfer (digest : BitVec 256) (sig : List Byte) (s : State) : Host.Outcome State Fault Refusal :=
  if s.dev.phase = 4 && !s.dev.off && s.enc.life = .manufacture && slhSigned Config.vendorDigest (bytes32 digest) sig then
    let s1 := s.levelNone.modEnc (fun e => { e with life := .owned, ownerDigest := some digest })
    .next (s1.extend 2 s1.enc.fuseBytes)
  else .next s

/-- Every DRAM and SRAM reads 0, and no freeze image is left in them (R443). -/
def State.zeroAll (s : State) : State :=
  { s with mem := Memory.empty, images := [], regions := s.regions.map (fun e => (e.1, { e.2 with cache := [] })) }

/-- LIFECYCLE_RELEASE: to RETURNED. Secrets are zeroed, measurements cleared, IDE streams ended; then the fuses. -/
def execLifecycleRelease (ownerSig vendorSig : List Byte) (s : State) : Host.Outcome State Fault Refusal :=
  let signed := match s.enc.ownerDigest with
    | some d => slhSigned d [] ownerSig && slhSigned Config.vendorDigest [] vendorSig
    | none => false
  if s.dev.phase = 4 && !s.dev.off && s.enc.life = .owned && signed then
    let s1 := s.zeroAll.dropKeys.levelNone.modEnc (fun e => { e with
      m := Vector.replicate 8 0, life := .returned, ownerDigest := some (BitVec.allOnes 256) })
    .next (s1.extend 2 s1.enc.fuseBytes)
  else .next s

/-! ## Attestation and keys (R451, R452) -/

/-- Does the enclave answer: after bring-up, in P0, P1 and P2? -/
def State.enclaveAnswers (s : State) : Bool := s.dev.phase = 4 && !s.dev.off && s.enc.power ≠ .p3

/-- The signed part of a report. -/
def State.reportBytes (s : State) (nonce : BitVec 256) : List Byte :=
  let e := s.enc
  bytes8 (e.life.code + 256 * e.level.code + 2 ^ 16 * e.power.code + 2 ^ 46 * s.dev.devid.toNat) ++ bytes32 nonce ++
    (s.measured.toList.flatMap bytes64) ++ bytes8 (s.die 8).l

/-- GET_MEASUREMENTS (R451). -/
def execGetMeasurements (nonce : BitVec 256) (s : State) : Host.Outcome State Fault Refusal :=
  if s.enclaveAnswers then
    let b := s.reportBytes nonce
    .next (s.modEnc (fun e => { e with
      nonce := some nonce
      reports := (b ++ (Config.attestSign e.attest b).toList) :: e.reports }))
  else .next s

/-- GET_CERTIFICATE (R451): the identity certificate, and the attestation key's after it (DESIGN CHOICE, notes/assumptions/66). -/
def execGetCertificate (s : State) : Host.Outcome State Fault Refusal :=
  if s.enclaveAnswers then
    .next (s.modEnc (fun e => { e with reports := (Config.certificate ++ Config.attestCert e.attest) :: e.reports }))
  else .next s

/-- SPDM_SESSION (R452). -/
def execSpdmSession (fn : Nat) (s : State) : Host.Outcome State Fault Refusal :=
  if s.enclaveAnswers && decide (fn < 2) then .next (s.modEnc (fun e => { e with spdm := e.spdm.set fn true })) else .next s

/-- IDE_KM (R452): inside a session, in P0 or P1. -/
def execIdeKm (fn : Nat) (key : BitVec 256) (s : State) : Host.Outcome State Fault Refusal :=
  if s.enclaveAnswers && s.enc.power ≠ .p2 && decide (fn < 2) && s.enc.spdm.get fn false then
    .next (s.modEnc (fun e => { e with keys := e.keys.set fn key }))
  else .next s

/-! ## Traffic from other devices (R143, R161, R436) -/

/-- Do n bytes at an address lie inside an inbound range? -/
def Device.takes (d : Device) (a n : Nat) : Bool :=
  d.inbound.any (fun (_, b, z, ok) => ok && decide (b.toNat ≤ a) && decide (a + n ≤ b.toNat + z.toNat))

/-- A collective's element merges at a scratchpad locator: region 30:24, cell 23:20, offset 19:0. -/
def State.remoteReduce (s : State) (loc op : Nat) (fmt : BitVec 4) (x : Word) : State :=
  let r := loc / 2 ^ 24 % 2 ^ 7
  let o := loc % 2 ^ 20
  let n := fmtWidth fmt / 8
  let a := spadBase ⟨r, loc / 2 ^ 20 % 2 ^ 4⟩ + o
  if r < 80 && decide (0 < n) && [1, 2, 3, 4, 8, 9, 10, 11].contains fmt.toNat && decide (o + n ≤ s.scap r) then
    let (i, s) := s.takeFree
    let (w, f) := reduceElem op fmt (s.mem.readNat a n) x.toNat
    let p := Config.payloadBad i || s.mem.poisoned a || s.mem.poisoned (a + n - 1)
    ((s.onStores r (fun m => m.nearStore a n w p)).orFlags r f).echo r
  else s

/-- REMOTE_WRITE: it lands in an inbound range, or is refused. -/
def execRemoteWrite (addr : Nat) (p : RemotePayload) (s : State) : Host.Outcome State Fault Refusal :=
  if s.dev.phase ≠ 4 || s.dev.off || s.enc.power = .p2 then .next s
  else match p with
    | .bytes bs =>
        if bs.isEmpty || !s.dev.takes addr bs.length || !isDram addr || !isDram (addr + bs.length - 1) ||
            (s.stampedAt addr).isSome || (s.stampedAt (addr + bs.length - 1)).isSome then .next s
        else .next (s.hubStore addr bs)
    | .reduce op fmt x =>
        if s.dev.takes addr (fmtWidth fmt / 8) then .next (s.remoteReduce addr op.toNat fmt x) else .next s

end Sys2Proof.Machine
end

