-- ==== Sys2Proof/Machine/Links.lean ====
section
/-! DEFINITION. Die-to-die links and Dvori ports (spec/08 R137, spec/19 R410, spec/25 R436, spec/18 R383). -/

namespace Sys2Proof.Machine

/-- Count a retransmission on link l, from 16 on Dvori port l - 16 (R383, R436). -/
def State.retransmit (s : State) (l : Nat) : State :=
  if l < 16 then s.modLink l (fun L => { L with retries := min (L.retries + 1) (2 ^ 64 - 1) })
  else s.modDev (fun d =>
    let p := d.dvori.get (l - 16) {}
    { d with dvori := d.dvori.set (l - 16) { p with retries := min (p.retries + 1) (2 ^ 64 - 1) } })

/-- FLIT_CHECK_FAIL (R137): the flit is sent again; only the link's counter shows it. -/
def execFlitCheckFail (l : Nat) (_dir : Bool) (s : State) : Host.Outcome State Fault Refusal :=
  if l < 32 then .next (s.retransmit l) else .next s

/-- Does an access from a die to a flat address cross a link? -/
def crossesLink (die a l : Nat) : Bool := a < 2 ^ 51 && (linksAlong (dieRoute die (homeDie a))).any (fun k => k.1 = l)

/-- Has a region a boundary context on a link? -/
def State.hasContext (s : State) (r l : Nat) : Bool :=
  s.chans.any (fun (k, c) => c.hops.any (fun h => h.link = l) &&
    ((match k with | .inp u _ => u.region = r | _ => false) || c.src.any (fun p => p.1.region = r)))

/-- Has a region an outstanding remote access on a link? -/
def State.hasRemote (s : State) (r l : Nat) : Bool :=
  let d := regionDie r
  (s.units.filter (fun e => e.1.region = r && isMpe e.1)).any (fun e =>
    e.2.reqs.any (fun q => q.stage ≠ .withheld && (s.reqAddr e.1 q).any (fun a => crossesLink d a l))) ||
  (s.core r).stores.any (fun c => crossesLink d c.addr l) ||
  s.stamped.any (fun x => x.region = r && crossesLink x.die x.phys l) ||
  s.ldas.any (fun x => (match x.wait with | .core q => q = r | _ => false) && crossesLink x.die x.phys l) ||
  (s.region r).cmds.any (fun c => c.started && (farPieces c.va c.rec_.esz).any (fun p =>
    match s.xlatPort r (4 + c.port) p.1 c.access with
    | .done (.ok t) => crossesLink d t.addr l
    | _ => false))

/-- A channel whose hop's link went down: what was under way there is lost, and the branch stays full. -/
def Chan.cut (c : Chan) (l : Nat) : Chan :=
  if c.hops.any (fun h => h.link = l) then
    { c with limit := 0, hops := c.hops.map (fun h => if h.link = l then { h with wire := [] } else h) }
  else c

/-- LINK_DOWN (R137, R410): accesses and commands that cross the link end as their own steps say. -/
def execLinkDown (l : Nat) (s : State) : Host.Outcome State Fault Refusal :=
  if l < 16 && !(s.link l).down && Config.retryLimit < (s.link l).retries then
    let hit := (List.range 80).filter (fun r => s.hasContext r l || s.hasRemote r l)
    let s1 := s.modLink l (fun L => { L with down := true })
    let s2 := { s1 with chans := s1.chans.map (fun (k, c) => (k, c.cut l)) }
    .next (hit.foldl (fun s r => s.raise r .link (BitVec.ofNat 64 l)) s2)
  else .next s

/-- The regions with a remote stream in hand over a Dvori port. -/
def State.remoteRegions (s : State) (p : Nat) : List Nat :=
  (s.regions.filter (fun e => e.2.cmds.any (fun c =>
    c.started && c.rec_.dest = 4 && (Config.remotePort c.rec_.target).val = p))).map Prod.fst

/-- DVORI_PORT_STATE_CHANGE (R436, R410): a port that goes down raises LINK_DOWN with EVAL 16 + port where a remote stream uses
it; those streams end with LINK_DOWN at their next element. -/
def execDvoriPortStateChange (p : Nat) (st : DvoriState) (lanes : BitVec 4) (s : State) : Host.Outcome State Fault Refusal :=
  if 16 ≤ p then .next s
  else
    let old := s.dev.dvori.get p {}
    let s1 := s.modDev (fun d => { d with dvori := d.dvori.set p { old with st := st, lanes := lanes } })
    if old.st = .up && st ≠ .up then
      .next ((s.remoteRegions p).foldl (fun s r => s.raise r .link (BitVec.ofNat 64 (16 + p))) s1)
    else .next s1

end Sys2Proof.Machine
end

