-- ==== Sys2Proof/Machine/PortUnits.lean ====
section
/-! DEFINITION. The words of exchange elements, address generators and converters (spec/16 R325-R333, spec/09
R164-R166). -/

namespace Sys2Proof.Machine

/-! ## The exchange -/

/-- The pair with a property: number and record. -/
def State.findPair (s : State) (f : Pair → Bool) : Option (Nat × Pair) := s.pairs.find? (fun q => f q.2)

/-- The pair whose permits leave through output o of an element, whose sends leave through it, and whose input
is i (R329). -/
def State.permitPair (s : State) (u : UnitId) (o : Nat) : Option (Nat × Pair) :=
  s.findPair (fun p => p.rx = u && p.permitOut = o)
def State.sendPair (s : State) (u : UnitId) (o : Nat) : Option (Nat × Pair) :=
  s.findPair (fun p => p.tx = u && p.out = o)
def State.recvPair (s : State) (u : UnitId) (i : Nat) : Option (Nat × Pair) :=
  s.findPair (fun p => p.rx = u && p.inp = i)

/-- XGRANT's view. -/
def xgrantView (t : Trig) (o : BitVec 2) (a : Src) : EView := { trig := t, ins := [a], outs := [o.setWidth 3] }

/-- XGRANT's gate: after the operand, the pair and its FREE buffer (R330, R456 item 3). -/
def State.gateXgrant (s : State) (t : Trig) (o : BitVec 2) (a : Src) : Gate :=
  match s.gate (xgrantView t o a) [{}] with
  | .go [x] => match s.permitPair s.site.unit o.toNat with
    | some (_, p) => if (p.buf (x.val.getLsbD 0)).st = .free then .go [x] else .raises ⟨cPERMIT, none, 0⟩
    | none => .raises ⟨cPERMIT, none, 0⟩
  | g => g

/-- XGRANT (R330): the buffer becomes GRANTED and a permit is placed, both a cycle after issue (R97). -/
def execXgrant (t : Trig) (o : BitVec 2) (a : Src) (s : State) : Host.Outcome State Fault Refusal :=
  match s.gateXgrant t o a with
  | .wait => .next s
  | .raises e => .next (s.issueFault t.ctx e)
  | .go [x] =>
    match s.permitPair s.site.unit o.toNat with
    | none => .next s
    | some (k, _) =>
      let par := x.val.getLsbD 0
      .next ((s.issue (xgrantView t o a)).fly s.site.unit s.ticket t.ctx s.site.slot 1
        { toks := [(o.toNat, some { data := bool64 par, tag := (s.region s.site.unit.region).tag })], grant := some (k, par) })
  | .go _ => .next s

/-- XSEND's view for its checks, and what it consumes at issue: the permit alone (R331). -/
def xsendView (t : Trig) (iS iP : BitVec 3) : EView := { trig := t, ins := [.take iS, .take iP] }
def xsendTaken (t : Trig) (iP : BitVec 3) : EView := { trig := t, ins := [.take iP] }

/-- XSEND's gate (R331): a DATA header at iS, then the permit, then the pair and the parity. The permit's poison is no
cause: it is no data operand (notes/assumptions/19). -/
def State.gateXsend (s : State) (t : Trig) (o : BitVec 3) (iS iP : BitVec 3) : Gate :=
  let v := xsendView t iS iP
  if !s.ready v then .wait
  else match s.readSrcs s.site.unit t.ctx v.ins with
    | some [x, p] =>
      let headerBad : Bool := match x.tok with
        | some k => k.kind ≠ 0 || (k.utag ≠ 1 && k.utag ≠ 2)
        | none => true
      if headerBad then .raises ⟨cCHANNEL, x.chan, match x.tok with | some k => k.sideband | none => 0⟩
      else match p.check { use := false } with
        | some f => .raises f
        | none => match s.sendPair s.site.unit o.toNat with
          | none => .raises ⟨cPERMIT, none, 0⟩
          | some _ =>
            if x.val.getLsbD 2 = p.val.getLsbD 0 then .go [x, p] else .raises ⟨cPERMIT, none, 0⟩
    | _ => .wait

/-- XSEND (R331): the permit is consumed, the receiver's buffer fills, the send engine takes iS. -/
def execXsend (t : Trig) (o : BitVec 3) (iS iP : BitVec 3) (s : State) : Host.Outcome State Fault Refusal :=
  match s.gateXsend t o iS iP with
  | .wait => .next s
  | .raises e => .next (s.issueFault t.ctx e)
  | .go [_, p] =>
    match s.sendPair s.site.unit o.toNat with
    | none => .next s
    | some (k, q) =>
      let par := p.val.getLsbD 0
      let s1 := (s.issue (xsendTaken t iP)).setPair k
        { q.setBuf par { q.buf par with st := .filling, n := 0, closed := false, overrun := false } with
          order := q.order ++ [par] }
      .next (s1.modUnit s.site.unit (fun x =>
        { x with sends := x.sends ++ [⟨k, par, iS.toNat, t.ctx.toNat, s.site.slot, s.ticket⟩] }))
  | .go _ => .next s

/-- XRECV's view. -/
def xrecvView (t : Trig) (o : BitVec 2) : EView := { trig := t, ins := [], outs := [o.setWidth 3] }

/-- The pair, and parity, that an XRECV takes: the oldest FILLING buffer has its closing MARK (R333). -/
def State.recvReady (s : State) (u : UnitId) (i : Nat) : Option (Nat × Pair × Bool) :=
  match s.recvPair u i with
  | none => none
  | some (k, p) => match p.order with
    | par :: _ => if (p.buf par).closed then some (k, p, par) else none
    | [] => none

/-- XRECV's gate. -/
def State.gateXrecv (s : State) (t : Trig) (o : BitVec 2) (i : BitVec 3) : Gate :=
  match s.recvReady s.site.unit i.toNat with
  | none => .wait
  | some _ => s.gate (xrecvView t o) []

/-- XRECV's data (R333): count and parity. -/
def xrecvWord (n : Nat) (par : Bool) : Word := 0#31 ++ BitVec.ofBool par ++ BitVec.ofNat 32 n

/-- XRECV (R333): the buffer becomes FULL, its count and parity are placed. -/
def execXrecv (t : Trig) (o : BitVec 2) (i : BitVec 3) (s : State) : Host.Outcome State Fault Refusal :=
  match s.gateXrecv t o i with
  | .wait => .next s
  | .raises e => .next (s.issueFault t.ctx e)
  | .go _ =>
    match s.recvReady s.site.unit i.toNat with
    | none => .next s
    | some (k, p, par) =>
      let s1 := (s.issue (xrecvView t o)).setPair k
        { p.setBuf par { p.buf par with st := .full } with order := p.order.tail }
      .next (s1.fly s.site.unit s.ticket t.ctx s.site.slot 1
        { toks := [(o.toNat, some { data := xrecvWord (p.buf par).n par, tag := (s.region s.site.unit.region).tag })] })

/-! ## Address generators (R328) -/

/-- AGEN's view: base register and count, output o0. -/
def agenView (t : Trig) (g : BitVec 3) (b : Src) : EView :=
  { trig := t, ins := [.x g, b], regDst := some g, outs := [0] }

/-- One address of a generation. -/
def agenTok (tag : Byte) (base stride : Word) (k count : Nat) : Tok :=
  { data := base + BitVec.ofNat 64 k * stride, tag := tag, last := k + 1 = count }

/-- AGEN: no address, one, or a multi-token firing; the register takes base + count × stride at the end. -/
def execAgen (t : Trig) (g : BitVec 3) (b : Src) (s : State) : Host.Outcome State Fault Refusal :=
  let v := agenView t g b
  match s.gate v [{}, {}] with
  | .wait => .next s
  | .raises e => .next (s.issueFault t.ctx e)
  | .go [x, c] =>
      let u := s.site.unit
      let n := lo32 c.val
      let st := (s.unit u).stride.get (t.ctx.toNat, g) 0
      let fin : Landing := { reg := some (g, x.val + BitVec.ofNat 64 n * st, false), regPend := some g }
      let tag := (s.region u.region).tag
      if n = 0 then .next ((s.issue v).fly u s.ticket t.ctx s.site.slot 1 { regPend := some g, toks := [(0, none)] })
      else if n = 1 then
        .next ((s.issue v).fly u s.ticket t.ctx s.site.slot 1
          { fin with toks := [(0, some (agenTok tag x.val st 0 1))] })
      else .next ((s.issue v).startMulti u s.ticket t.ctx s.site.slot 1 (.gen x.val st 0 n) fin)
  | .go _ => .next s

/-- AGSET: register and stride (a later word of the register waits for the write-back). -/
def execAgset (t : Trig) (g : BitVec 3) (a : Src) (imm : BitVec 9) (s : State) : Host.Outcome State Fault Refusal :=
  let v : EView := { trig := t, ins := [a], regDst := some g }
  match s.gate v [{}] with
  | .wait => .next s
  | .raises e => .next (s.issueFault t.ctx e)
  | .go [x] =>
      let s1 := (s.issue v).modUnit s.site.unit (fun y => { y with stride := y.stride.set (t.ctx.toNat, g) (imm9 imm) })
      .next (s1.fly s.site.unit s.ticket t.ctx s.site.slot 1 { reg := some (g, x.val, false), regPend := some g })
  | .go _ => .next s

/-- AGRST: register and stride 0. -/
def execAgrst (t : Trig) (g : BitVec 3) (s : State) : Host.Outcome State Fault Refusal :=
  let v : EView := { trig := t, ins := [], regDst := some g }
  match s.gate v [] with
  | .wait => .next s
  | .raises e => .next (s.issueFault t.ctx e)
  | .go _ =>
      let s1 := (s.issue v).modUnit s.site.unit (fun y => { y with stride := y.stride.set (t.ctx.toNat, g) 0 })
      .next (s1.fly s.site.unit s.ticket t.ctx s.site.slot 1 { reg := some (g, 0, false), regPend := some g })

/-! ## Converters (R325-R327) -/

/-- The pack buffer's bits, results held, and the utag of the first. -/
structure PackBuf where
  bits : Nat
  n : Nat
  utag : BitVec 2
  deriving DecidableEq, Repr

/-- The token that empties the buffer. -/
def PackBuf.emit (b : PackBuf) (tag : Byte) (last : Bool) : Tok :=
  { data := BitVec.ofNat 64 b.bits, tag := tag, utag := b.utag, last := last }

/-- Convert the elements of a token in ascending order, emitting each full token (R326). -/
def packElems (src dst : BitVec 4) (mode : BitVec 2) (sat : Bool) (cap : Nat) (tag : Byte) (utag : BitVec 2) :
    List Nat → PackBuf → List Tok → Flags → PackBuf × List Tok × Flags
  | [], b, ts, f => (b, ts, f)
  | x :: xs, b, ts, f =>
      let r := convert src dst mode sat x
      let wo := fmtWidth dst
      let b1 : PackBuf := { bits := b.bits + r.bits * 2 ^ (wo * b.n), n := b.n + 1,
                            utag := if b.n = 0 then utag else b.utag }
      if b1.n * wo = cap then
        packElems src dst mode sat cap tag utag xs ⟨0, 0, 0⟩ (ts ++ [b1.emit tag false]) (f ||| r.flags)
      else packElems src dst mode sat cap tag utag xs b1 ts (f ||| r.flags)

/-- Mark the last token of a list. -/
def lastOf : List Tok → List Tok
  | [] => []
  | [t] => [{ t with last := true }]
  | t :: ts => t :: lastOf ts

/-- What a CVT firing does with its token: buffer after, tokens to place, flags (R326, R327). -/
def cvtFire (src dst : BitVec 4) (mode : BitVec 2) (sat : Bool) (cap : Nat) (tag : Byte) (b : PackBuf) (t : Tok) :
    PackBuf × List Tok × Flags :=
  if t.kind = 0 then
    let wi := fmtWidth src
    let es := (List.range (64 / wi)).map (fun e => elem wi t.data.toNat e)
    let (b1, ts, f) := packElems src dst mode sat cap tag t.utag es b [] 0
    if t.last then
      if b1.n = 0 then (b1, lastOf ts, f) else (⟨0, 0, 0⟩, ts ++ [b1.emit tag true], f)
    else (b1, ts, f)
  else
    let t' : Tok := { t with tag := tag, stray := false, origin := .outside }
    (⟨0, 0, 0⟩, if b.n = 0 then [t'] else [b.emit tag false, t'], 0)

/-- CVT's view (R325). -/
def cvtView (t : Trig) (d : Dst) (a : Src) : EView := .std t d [a] .none

/-- CVT's gate: MARK and DONE pass; conversion of a DATA token uses its poison. -/
def State.gateCvt (s : State) (t : Trig) (d : Dst) (a : Src) : Gate :=
  let isData : Bool := match s.readSrc s.site.unit t.ctx a with
    | some o => match o.tok with
      | some k => k.kind = 0
      | none => true
    | none => true
  s.gate (cvtView t d a) [{ marks := true, use := isData }]

/-- The token that a CVT takes; a register or constant operand counts as a DATA token. -/
def Opnd.asTok (o : Opnd) : Tok :=
  match o.tok with
  | some t => t
  | none => { data := o.val, tag := 0 }

/-- A CVT firing: its tokens are placed from t + 2; two or more of them hold the slot (R318). -/
def execCvt (mode : BitVec 2) (t : Trig) (d : Dst) (a : Src) (src dst : BitVec 4) (sat : Bool) (s : State) :
    Host.Outcome State Fault Refusal :=
  let v := cvtView t d a
  match s.gateCvt t d a with
  | .wait => .next s
  | .raises e => .next (s.issueFault t.ctx e)
  | .go [x] =>
      let u := s.site.unit
      let U := s.unit u
      let (b, ts, f) := cvtFire src dst mode sat (if U.split then 32 else 64) (s.region u.region).tag
        ⟨U.packBuf.toNat, U.packN, U.packUtag⟩ x.asTok
      let s1 := (s.issue v).modUnit u (fun y =>
        { y with packBuf := BitVec.ofNat 64 b.bits, packN := b.n, packUtag := b.utag })
      let o := match d.outs with | o :: _ => o.toNat | [] => 0
      match ts with
      | [] => .next (s1.fly u s.ticket t.ctx s.site.slot 2 { toks := [(o, none)], flags := f })
      | [k] => .next (s1.fly u s.ticket t.ctx s.site.slot 2 { toks := [(o, some k)], flags := f })
      | ts => .next (s1.startMulti u s.ticket t.ctx s.site.slot 2 (.toks (ts.map (fun k => (o, k)))) { flags := f })
  | .go _ => .next s

/-- CVT.rne (R325-R327, R57). -/
def execCvtRne (t : Trig) (d : Dst) (a : Src) (src dst : BitVec 4) (sat : Bool) (s : State) :
    Host.Outcome State Fault Refusal := execCvt 0 t d a src dst sat s

/-- CVT.rtz. -/
def execCvtRtz (t : Trig) (d : Dst) (a : Src) (src dst : BitVec 4) (sat : Bool) (s : State) :
    Host.Outcome State Fault Refusal := execCvt 1 t d a src dst sat s

/-- CVT.rdn. -/
def execCvtRdn (t : Trig) (d : Dst) (a : Src) (src dst : BitVec 4) (sat : Bool) (s : State) :
    Host.Outcome State Fault Refusal := execCvt 2 t d a src dst sat s

/-- CVT.rup. -/
def execCvtRup (t : Trig) (d : Dst) (a : Src) (src dst : BitVec 4) (sat : Bool) (s : State) :
    Host.Outcome State Fault Refusal := execCvt 3 t d a src dst sat s

end Sys2Proof.Machine
end

