-- ==== Sys2Proof/Machine/Seq.lean ====
section
/-! DEFINITION. The sequence table, the squash arbiter, the step builder, the pipeline ports and the notices (spec/10
R167-R184, spec/17 R357-R360, R366, R367, spec/22 R418-R423, spec/23 R424, spec/16 R343). -/

namespace Sys2Proof.Machine

/-! ## Slots (R357, R358) -/

/-- State numbers (R357). -/
def QState.code : QState → Nat
  | .free => 0 | .waiting => 1 | .prefill => 2 | .decode => 3 | .paused => 4 | .swapped => 5 | .draining => 6

def QState.ofCode : Nat → QState
  | 1 => .waiting | 2 => .prefill | 3 => .decode | 4 => .paused | 5 => .swapped | 6 => .draining | _ => .free

/-- Field n of a slot. -/
def Slot.field (x : Slot) (n : Nat) : Word :=
  match n with
  | 0 => BitVec.ofNat 64 (x.st.code + 16 * x.resume.code)
  | 1 => BitVec.ofNat 64 x.admitted
  | 2 => BitVec.ofNat 64 x.position
  | 3 => BitVec.ofNat 64 x.gen
  | 4 => x.wver.setWidth 64
  | 5 => BitVec.ofNat 64 (x.policy.toNat + 256 * x.exhausted.toNat + 4096 * x.grammar.toNat)
  | 6 => x.kvhead
  | 7 => BitVec.ofNat 64 x.commit
  | 8 => BitVec.ofNat 64 x.inflight
  | 9 => BitVec.ofNat 64 x.limit
  | 10 => BitVec.ofNat 64 x.retire
  | 11 => BitVec.ofNat 64 x.reject
  | 12 => BitVec.ofNat 64 x.kills
  | 13 => BitVec.ofNat 64 x.late
  | 14 => BitVec.ofNat 64 x.miss
  | _ => x.endsym

/-- SQSET field 0 (R358). -/
def Slot.setState (x : Slot) (v : Word) : Option Slot :=
  let n := QState.ofCode (bitsOf v 0 3)
  if v &&& ~~~(0x77 : Word) ≠ 0 || bitsOf v 0 3 = 7 then none
  else match x.st, n with
    | .prefill, .paused => some { x with st := .paused, resume := .prefill }
    | .decode, .paused => some { x with st := .paused, resume := .decode }
    | .paused, .prefill => if x.resume = .prefill then some { x with st := .prefill } else none
    | .paused, .decode => if x.resume = .decode then some { x with st := .decode } else none
    | .paused, .swapped => if x.inflight = 0 then some { x with st := .swapped } else none
    | .swapped, .paused => some { x with st := .paused }
    | _, _ => none

/-- SQSET of a field (R357): none where it is refused. -/
def Slot.setField (x : Slot) (n : Nat) (v : Word) : Option Slot :=
  match n with
  | 0 => x.setState v
  | 5 =>
      if v &&& ~~~(0xF107 : Word) ≠ 0 || (v.getLsbD 8 && !x.exhausted) then none
      else some { x with policy := v.extractLsb' 0 3, exhausted := v.getLsbD 8, grammar := v.extractLsb' 12 4 }
  | 6 => if (x.st = .paused || x.st = .swapped) && v.toNat < 2 ^ 52 then some { x with kvhead := v } else none
  | 9 => if v.toNat < 2 ^ 32 then some { x with limit := v.toNat } else none
  | 15 => some { x with endsym := v }
  | _ => none

/-- Is the operand a of a SEQ instruction well formed (R359)? -/
def seqOpnd (A : Word) (field : Bool) : Bool :=
  A &&& ~~~(if field then 0xF1FFF else 0x1FFF : Word) = 0

/-- SQRD (R359). -/
def execSqrd (d a : BitVec 5) (s : State) : Host.Outcome State Fault Refusal :=
  let r := s.site.region
  let A := s.greg r a
  .next (s.using r [a]
    (if seqOpnd A true then s.retire r d ((s.slot (bitsOf A 0 13)).field (bitsOf A 16 4)) else s.trapHere r cPROT A))

/-- SQSET (R359). -/
def execSqset (d a b : BitVec 5) (s : State) : Host.Outcome State Fault Refusal :=
  let r := s.site.region
  let A := s.greg r a
  let n := bitsOf A 0 13
  .next (s.using r [a, b]
    (if !seqOpnd A true then s.trapHere r cPROT A
     else match (s.slot n).setField (bitsOf A 16 4) (s.greg r b) with
      | some x => (s.setSlot n x).retire r d ((s.slot n).field (bitsOf A 16 4))
      | none => s.trapHere r cPROT A))

/-! ## Grammars (R182, R367) -/

/-- The address of a grammar's block. -/
def grammarBlock (g : BitVec 4) : Nat := rstoreBase Config.grammarRegion + g.toNat * 2 ^ 19

/-- 128 bytes as a set. -/
def setAt (m : Memory) (a : Nat) : BitVec 1024 := BitVec.ofNat 1024 (m.readNat a 128)

/-- The successor set. -/
def grammarNext (m : Memory) (g : BitVec 4) (act : BitVec 1024) : BitVec 1024 :=
  (List.range 1024).foldl (fun n i => if act.getLsbD i then n ||| setAt m (grammarBlock g + 128 * i) else n) 0

/-- The class mask of a symbol; none at or above 262,144. -/
def symbolMask (m : Memory) (g : BitVec 4) (y : Nat) : BitVec 1024 :=
  if y < 262144 then setAt m (grammarBlock g + 2 ^ 17 + 128 * (m.byte (grammarBlock g + 160 * 1024 + y)).toNat) else 0

/-- Is no symbol allowed? -/
def grammarDead (m : Memory) (g : BitVec 4) (act : BitVec 1024) (endsym : Word) : Bool :=
  let n := grammarNext m g act
  (act &&& setAt m (grammarBlock g + 416 * 1024 + 128)) = 0 &&
    (List.range 262144).all (fun y => y = endsym.toNat || (n &&& symbolMask m g y) = 0)

/-- Does the grammar of a slot allow no symbol? -/
def Slot.grammarEnds (x : Slot) (m : Memory) : Bool := x.grammar ≠ 15 && grammarDead m x.grammar x.active x.endsym

/-- The symbol that the final sampler gives: the end symbol where the grammar allows none (R182). -/
def Slot.sampled (x : Slot) (m : Memory) (y : Nat) : Nat := if x.grammarEnds m then x.endsym.toNat else y

/-- The state after a final symbol: the active set, and the exhausted flag (R182). -/
def Slot.advance (x : Slot) (m : Memory) (y : Nat) : Slot :=
  if x.grammar = 15 then x
  else { x with
    active := grammarNext m x.grammar x.active &&& symbolMask m x.grammar y
    exhausted := x.exhausted || x.grammarEnds m }

/-! ## Notices (R173, R178, R343) -/

/-- Put a notice at the tail of a region's queue; with 32 there the hub holds it. -/
def State.postNotice (s : State) (r : Nat) (n : Notice) : State :=
  if s.hub.heldNotices.any (fun e => e.1 = r) || 32 ≤ (s.region r).notices.length then
    s.modHub (fun h => { h with heldNotices := h.heldNotices ++ [(r, n)] })
  else s.modRegion r (fun R => { R with notices := R.notices ++ [n] })

/-- Take the head notice of a region; the first that the hub holds for it moves in. -/
def State.popNotice (s : State) (r : Nat) : State :=
  let s := s.modRegion r (fun R => { R with notices := R.notices.tail })
  match s.hub.heldNotices.find? (fun e => e.1 = r) with
  | some (_, n) => (s.modHub (fun h => { h with heldNotices := h.heldNotices.eraseP (fun e => e.1 = r) })).modRegion r
      (fun R => { R with notices := R.notices ++ [n] })
  | none => s

/-- Put a notice into an image. -/
def State.imageNotice (s : State) (a : Nat) (n : Notice) : State :=
  { s with images := s.images.map (fun (b, f) => if b = a then (b, { f with notices := f.notices ++ [n] }) else (b, f)) }

/-- The placements that are stages. -/
def State.stages (s : State) : List (Nat × Placement) := s.hub.placements.filter (fun e => e.2.isStage)

/-- The regions whose segments belong to a slot. -/
def State.segRegions (s : State) (slot : Nat) : List Nat :=
  (List.range 80).filter (fun r => !(slotSegs s.mem r slot).isEmpty)

/-- The images of swapped-out regions that hold a segment of a slot, or a region of a stage. -/
def State.awayImages (s : State) : List (Nat × FImage) :=
  s.images.filter (fun e => e.2.kind ≠ 0 && !e.2.restored && (match s.launch? e.2.launch with
    | some l => l.st = .swapped
    | none => false))

def FImage.hasSegs (f : FImage) (slot : Nat) : Bool := !(slotSegs ⟨f.cells, f.poison⟩ f.region slot).isEmpty

/-- Establish position q (R178). -/
def State.establish (s : State) (slot q : Nat) : State :=
  let x := s.slot slot
  let s := s.setSlot slot { x with commit := max x.commit (q + 1) }
  let s := (s.segRegions slot).foldl (fun s r => s.postNotice r (.establish slot q)) s
  (s.awayImages.filter (fun e => e.2.hasSegs slot)).foldl (fun s e => s.imageNotice e.1 (.establish slot q)) s

/-- Launch a pulse: window, start queue, and with basis 0 established (R171). -/
def State.launchPulse (s : State) (slot q sym basis : Nat) : State :=
  let x := s.slot slot
  let s := s.setSlot slot { x with
    window := x.window ++ [⟨q, sym, basis, x.gen⟩], starts := x.starts ++ [⟨q, sym, basis, x.gen, false⟩] }
  if basis = 0 then s.establish slot q else s

/-- The lowest position of a window from the committed horizon on. -/
def Slot.lowest (x : Slot) : Option Nat :=
  ((x.window.filter (fun e => x.commit ≤ e.pos)).map WinEnt.pos).min?

/-- The regions and stages that must apply a notice: placed ones by their regions, swapped-out ones by their images. -/
def State.stageRegions (s : State) : List (Nat × Nat) := s.stages.flatMap (fun (id, p) => p.regions.map (fun r => (id, r)))

/-- What a notice from position f at generation g leaves of a slot's starts: those that it kills leave the start queue, and the step
builder goes on from f at the latest (R173, R357). -/
def Slot.cutFrom (x : Slot) (f g : Nat) : Slot :=
  { x with
    window := x.window.filter (fun e => e.pos < f)
    starts := x.starts.filter (fun t => t.pos < f || g ≤ t.gen)
    position := min x.position f }

/-- A start of the micro-batch in hand that a notice kills keeps its place, as a killed pulse (R173). -/
def State.killBatch (s : State) (slot f g : Nat) : State :=
  s.modHub (fun h => { h with batch := h.batch.map (fun (n, t, p) =>
    if n = slot && f ≤ t.pos && t.gen < g then (n, { t with dead := true }, p) else (n, t, p)) })

/-- Issue a squash notice (R168, R173): generation, window, starts, and the broadcast. -/
def State.squash (s : State) (slot f : Nat) (again : Option PStart) : State :=
  let x := s.slot slot
  if 0xFFFF ≤ x.gen then s
  else
    let g := x.gen + 1
    let f := if g = 0xFFFF then max x.commit (match x.lowest with | some q => min q f | none => f) else f
    let away := s.awayImages
    let segs := s.segRegions slot
    let s := (s.killBatch slot f g).setSlot slot { x.cutFrom f g with
      gen := g
      notice := some (f, g)
      unsettled := true
      relaunch := again
      ackRegions := s.stageRegions
      ackStages := s.stages.map Prod.fst
      ackSegs := segs ++ (away.filter (fun e => e.2.hasSegs slot)).map (fun e => e.2.region) }
    let here := s.stageRegions.filter (fun (id, r) => (s.region r).launch = some id)
    let rs := (List.range 80).filter (fun r => segs.contains r || here.any (fun e => e.2 = r))
    let s := rs.foldl (fun s r =>
      s.postNotice r (.squash slot f g ((here.find? (fun e => e.2 = r)).map Prod.fst) (segs.contains r))) s
    away.foldl (fun s (a, fi) =>
      let st : Option Nat := if s.stages.any (fun e => e.1 = fi.launch) then some fi.launch else none
      if st.isSome || fi.hasSegs slot then s.imageNotice a (.squash slot f g st (fi.hasSegs slot)) else s) s

/-! ## Notices applied (R173, R176, R178, R419) -/

/-- The tokens of a channel marked by a notice, and the headers that it marked. -/
def markToks (p : Placement) (ts : List Tok) : List Tok × List Word :=
  (ts.map (fun t => (markHeader p t).1), (ts.filter (fun t => (markHeader p t).2)).map Tok.data)

def Chan.marked (c : Chan) (p : Placement) : Chan × List Word :=
  let inq := markToks p c.inq
  let places := c.places.map (fun (k, t) => (k, t.map (fun t => (markHeader p t).1)))
  let hops := c.hops.map (fun h => { h with waiting := (markToks p h.waiting).1, wire := (markToks p h.wire).1 })
  ({ c with inq := inq.1, places := places, hops := hops },
    inq.2 ++ (c.places.filterMap Prod.snd |> markToks p).2 ++ c.hops.flatMap (fun h => (markToks p h.waiting).2 ++ (markToks p h.wire).2))

/-- Does a stage's region hold a channel? -/
def stageChan (id r : Nat) (e : Sink × Chan) : Bool :=
  match e.1 with
  | .inp u _ => u.region = r
  | .pipe k _ _ => k = id && e.2.src.any (fun p => p.1.region = r)

/-- Mark the headers that a region of a stage holds. -/
def State.markRegion (s : State) (id r : Nat) (p : Placement) : State :=
  let kills := (s.chans.filter (stageChan id r)).flatMap (fun e => (e.2.marked p).2)
  let s := { s with chans := s.chans.map (fun e => if stageChan id r e then (e.1, (e.2.marked p).1) else e) }
  kills.foldl (fun s w => s.countKill r w) s

/-- The head notice with a part done, or gone. -/
def State.noticeDone (s : State) (r : Nat) (n : Notice) : State :=
  match n with
  | .squash _ _ _ none false => s.popNotice r
  | _ => s.modRegion r (fun R => { R with notices := n :: R.notices.tail })

/-- NOTICE_APPLY_STAGE (R173, R419). -/
def execNoticeApplyStage (r : Nat) (s : State) : Host.Outcome State Fault Refusal :=
  let R := s.region r
  match R.notices with
  | .squash slot f g (some id) segs :: _ =>
      if R.frozen.isSome then .next s
      else
        let x := s.slot slot
        let s1 := s.setSlot slot { x with ackRegions := x.ackRegions.filter (fun e => !(e.1 = id && e.2 = r)) }
        let s2 := match s1.placement? id with
          | some p =>
              if R.launch = some id then
                let p' := { p with notice := p.notice.set slot (f, g), ackAt := p.ackAt.set slot s1.ticket }
                (State.setPlacement { s1 with ticket := s1.ticket + 1 } id p').markRegion id r p'
              else s1
          | none => s1
        .next (s2.noticeDone r (.squash slot f g none segs))
  | _ => .next s

/-- NOTICE_APPLY_SEGMENT (R176). -/
def execNoticeApplySegment (r : Nat) (s : State) : Host.Outcome State Fault Refusal :=
  let R := s.region r
  match R.notices with
  | .squash slot f g st true :: _ =>
      if R.frozen.isSome then .next s
      else
        let x := s.slot slot
        let s1 := s.setSlot slot { x with ackSegs := x.ackSegs.erase r }
        .next (State.noticeDone { s1 with mem := (slotSegs s.mem r slot).foldl (fun m e => kvNotice m e f g) s.mem } r
          (.squash slot f g st false))
  | _ => .next s

/-- ESTABLISH_NOTICE_APPLY (R178). -/
def execEstablishNoticeApply (r : Nat) (s : State) : Host.Outcome State Fault Refusal :=
  let R := s.region r
  match R.notices with
  | .establish slot q :: _ =>
      if R.frozen.isSome then .next s
      else .next ({ s with mem := (slotSegs s.mem r slot).foldl (fun m e => kvEstablish m e q) s.mem }.popNotice r)
  | _ => .next s

/-- Did a stage issue a half-write: one of its kv ports, or a stream of one of its regions (R174, R363, R422)? -/
def State.issuedBy (s : State) (id : Nat) (h : KvHalf) : Bool :=
  match h.stage, s.placement? id with
  | some p, _ => p.1 = id
  | none, some p => p.regions.contains h.region
  | none, none => false

/-- STAGE_ACKNOWLEDGE (R174): applied in every region, and every KV write issued before is done. -/
def execStageAcknowledge (id slot : Nat) (s : State) : Host.Outcome State Fault Refusal :=
  let x := s.slot slot
  let at_ := match s.placement? id with
    | some p => p.ackAt.get slot 0
    | none => 0
  if x.unsettled && x.ackStages.contains id && x.ackRegions.all (fun e => e.1 ≠ id) &&
      s.kv.all (fun h => h.slot ≠ slot || !s.issuedBy id h || at_ ≤ h.tick) then
    .next (s.setSlot slot { x with ackStages := x.ackStages.filter (fun k => k ≠ id) })
  else .next s

/-- SETTLE (R168, R171, R174, R183): every stage that still stands and every segment has acknowledged. -/
def execSettle (slot : Nat) (s : State) : Host.Outcome State Fault Refusal :=
  let x := s.slot slot
  if x.unsettled && x.ackSegs.isEmpty && x.ackStages.all (fun id => (s.placement? id).isNone) then
    let s1 := s.setSlot slot { x with unsettled := false, relaunch := none, cut := false, ackStages := [], ackRegions := [] }
    if x.cut then
      match x.lowest with
      | some f => .next (s1.squash slot f none)
      | none => .next s1
    else match x.relaunch with
      | some q =>
          if x.st = .free || x.st = .draining || (q.basis ≠ 0 && x.gen = 0xFFFF) then .next s1
          else .next (s1.launchPulse slot q.pos q.sym q.basis)
      | none => .next s1
  else .next s

/-! ## Admission, retirement, freeing (R183, R358, R360, R424) -/

/-- Zero the horizons and the latest notice of every segment that names a slot (R175). -/
def State.zeroHorizons (s : State) (slot : Nat) : State :=
  { s with mem := (s.segRegions slot).foldl (fun m r => (slotSegs m r slot).foldl (fun m g =>
      kvSetNotice (kvSetTC m g 0 0) g 0 0) m) s.mem }

/-- A slot as its record admits it. -/
def admitted (ws : List Word) (stamp : Nat) (m : Memory) : Slot :=
  let w (k : Nat) : Word := ws.getD k 0
  let g : BitVec 4 := (w 4).extractLsb' 12 4
  { st := .waiting
    admitted := stamp
    kvhead := w 0
    prompt := bitsOf (w 1) 0 32
    limit := bitsOf (w 2) 0 32
    wdir := w 3
    policy := (w 4).extractLsb' 0 3
    grammar := g
    sys := (w 4).getLsbD 16
    endsym := w 5
    active := if g = 15 then 0 else setAt m (grammarBlock g + 416 * 1024) }

/-- SQADMIT (R360): after a fenced start. -/
def execSqadmit (d a b : BitVec 5) (s : State) : Host.Outcome State Fault Refusal :=
  let r := s.site.region
  let A := s.greg r a
  let B := s.greg r b
  let n := bitsOf A 0 13
  .next (s.using r [a, b]
    (if B.toNat % 64 ≠ 0 then s.trapHere r cMISALIGNED B
     else if !seqOpnd A false then s.trapHere r cPROT A
     else match s.coreLines r B 1 .load with
      | .error c => s.trapHere r c B
      | .ok ts =>
        if s.coreOwes r || !(s.cmdsOf r).isEmpty then s.tryAgain r
        else match s.readLines ts with
        | none => s.tryAgain r
        | some ws =>
          if (s.slot n).st ≠ .free then s.trapHere r cPROT A
          else
            let l := (s.die 8).l
            ((s.setSlot n (admitted ws l s.mem)).zeroHorizons n).retire r d (BitVec.ofNat 64 l)))

/-- Retire a slot (R183): its squash waits while a notice is unsettled. -/
def State.retireSlot (s : State) (n : Nat) : State :=
  let x := s.slot n
  let s1 := (s.setSlot n { x with st := .draining, retire := (s.die 8).l, cut := x.unsettled, left := false }).modHub (fun h =>
    { h with marks := h.marks ++ [n] })
  match x.unsettled, x.lowest with
  | false, some f => s1.squash n f none
  | _, _ => s1

/-- SQRETIRE (R359). -/
def execSqretire (d a : BitVec 5) (s : State) : Host.Outcome State Fault Refusal :=
  let r := s.site.region
  let A := s.greg r a
  let n := bitsOf A 0 13
  .next (s.using r [a]
    (if !seqOpnd A false || (s.slot n).st = .free || (s.slot n).st = .draining then s.trapHere r cPROT A
     else (s.retireSlot n).retire r d (BitVec.ofNat 64 (s.die 8).l)))

/-- The hub's LDAS of a weight-directory word (R358, R424): none where it faults. -/
def State.readDirectory (s : State) (x : Slot) : Option (BitVec 16) :=
  let a := x.wdir.toNat
  match s.stampedAt a with
  | some b =>
      if a % 8 ≠ 0 || b + 327680 ≤ a || s.stampBlocked 8 x.sys then none
      else
        let (line, o) := physLine b a
        match ldasSlot s.mem b line x.admitted with
        | some k =>
            let p := lineSlot b line k + o
            if s.mem.poisoned p then none else some ((s.mem.word p).setWidth 16)
        | none => none
  | none => none

/-- SLOT_ACTIVATE (R358, R424). -/
def execSlotActivate (slot : Nat) (s : State) : Host.Outcome State Fault Refusal :=
  let x := s.slot slot
  if x.st = .waiting && x.admitted < s.floorAt x.sys 8 then
    match s.readDirectory x with
    | some v => .next (s.setSlot slot { x with wver := v, st := if x.prompt = 0 then .decode else .prefill })
    | none => .next (s.setSlot slot { x with wver := 0xFFFF, st := .paused, resume := .decode })
  else .next s

/-- The placement that the step builder feeds: the first placed one with a start port (R420). -/
def State.startStage (s : State) : Option (Nat × Placement) :=
  s.hub.placements.find? (fun (id, p) => p.img.pipes.start.isSome && (match s.launch? id with
    | some l => l.st = .placed
    | none => false))

/-- SLOT_FREE (R183): the MARK has left the last stage, or no start port stands that could place it. -/
def execSlotFree (slot : Nat) (s : State) : Host.Outcome State Fault Refusal :=
  let x := s.slot slot
  let gone := !s.hub.placements.any (fun e => e.2.img.pipes.start.isSome)
  if x.st = .draining && (x.left || gone) && !x.unsettled && x.retire < s.floorAt false 8 then
    .next ((s.setSlot slot { x with st := .free }).modHub (fun h =>
      { h with marks := h.marks.filter (fun k => k ≠ slot), marksOut := h.marksOut.filter (fun k => k ≠ slot) }))
  else .next s

/-! ## The arbiter (R168-R172, R423) -/

/-- Count a rejected report. -/
def State.rejectReport (s : State) (slot : Nat) : State :=
  let x := s.slot slot
  (s.setSlot slot { x with reject := min (x.reject + 1) (2 ^ 64 - 1) }).countPkg 0xC00 1

/-- Is a report's pulse dead (R170)? -/
def Slot.dead (x : Slot) (p g : Nat) : Bool :=
  match x.notice with
  | some (f, n) => f ≤ p && g < n
  | none => false

/-- A guess point's report, accepted (R168, R171, R172, R423). -/
def State.guess (s : State) (slot : Nat) (x : Slot) (k q sym : Nat) : State :=
  if x.limit ≤ q then s
  else match x.window.find? (fun e => e.pos = q) with
    | none => if x.gen ≠ 0xFFFF && x.inflight < 64 && x.st = .decode then s.launchPulse slot q sym k else s
    | some e =>
        if k ≤ e.basis then s
        else if e.sym = sym then
          s.setSlot slot { x with window := x.window.map (fun e => if e.pos = q then { e with basis := k } else e) }
        else s.squash slot q (some ⟨q, sym, k, 0, false⟩)

/-- The final sampler's report, accepted (R171, R182). -/
def State.final (s : State) (slot : Nat) (x : Slot) (q sym : Nat) : State :=
  let sym := x.sampled s.mem sym
  let x := { (x.advance s.mem sym) with window := x.window.filter (fun e => e.pos + 1 ≠ q) }
  let s := s.setSlot slot x
  if x.endsym = BitVec.ofNat 64 sym || x.limit ≤ q then s.retireSlot slot
  else match x.window.find? (fun e => e.pos = q) with
    | none => s.launchPulse slot q sym 0
    | some e => if e.sym = sym then s.establish slot q else s.squash slot q (some ⟨q, sym, 0, 0, false⟩)

/-- Judge a report (R170, R171, R420). -/
def State.judge (s : State) (t : Report) : State :=
  let x := s.slot t.slot
  let last := t.point = .final && t.pos + 1 = x.prompt
  if t.pos < x.prompt && !last then s
  else if x.st = .free || x.st = .waiting || x.st = .draining || x.dead t.pos t.gen || t.pos + 1 < x.commit then s.rejectReport t.slot
  else match t.point with
    | .guess k => s.guess t.slot x k (t.pos + 1) t.sym
    | .final => s.final t.slot x (t.pos + 1) t.sym

/-- SQUASH_REPORT (R170): the oldest report whose slot has no unsettled notice. -/
def execSquashReport (s : State) : Host.Outcome State Fault Refusal :=
  match s.hub.reports.findIdx? (fun t => !(s.slot t.slot).unsettled) with
  | none => .next s
  | some i =>
    match s.hub.reports[i]? with
    | none => .next s
    | some t => .next ((s.modHub (fun h => { h with reports := h.reports.eraseIdx i })).judge t)

/-! ## The step builder (R180, R366, R420) -/

/-- A pulse start that the step builder may draw: slot, start, whether a prompt's. -/
abbrev Draw := Nat × PStart × Bool

/-- The prompt symbol of a position (R420). -/
def State.promptSym (s : State) (x : Slot) (q : Nat) : Nat := s.mem.readNat (x.kvhead.toNat + 512 + 4 * q) 4

/-- The next prefill chunk of a slot: up to 64 positions. -/
def State.chunk (s : State) (slot : Nat) (x : Slot) : List Draw :=
  (List.range (min 64 (x.prompt - x.position))).map (fun k =>
    (slot, ⟨x.position + k, s.promptSym x (x.position + k), 0, x.gen, false⟩, true))

/-- Insert by admission stamp, then slot. -/
def insDraw (e : Nat × Nat × List Draw) : List (Nat × Nat × List Draw) → List (Nat × Nat × List Draw)
  | [] => [e]
  | f :: fs => if e.1 < f.1 || (e.1 = f.1 && e.2.1 < f.2.1) then e :: f :: fs else f :: insDraw e fs

/-- What the slots offer: established starts and chunks, and speculative starts, each in ascending admission stamp. -/
def State.offers (s : State) : List (Nat × Nat × List Draw) × List (Nat × Nat × List Draw) :=
  let one (x : Slot) (slot : Nat) (basis0 : Bool) : List (List Draw) :=
    match x.st with
    | .prefill => if basis0 && x.position < x.prompt then [s.chunk slot x] else []
    | .decode => (x.starts.filter (fun t => (t.basis = 0) = basis0)).map (fun t => [(slot, t, false)])
    | _ => []
  let all (basis0 : Bool) := s.hub.slots.foldl (fun acc (slot, x) =>
    (one x slot basis0).foldl (fun acc ds => insDraw (x.admitted, slot, ds) acc) acc) []
  (all true, all false)

/-- Take offers in order: of the first one's weight version, never of 0xFFFF, at most 64 starts, chunks whole. -/
def State.pick (s : State) (ver : Option (BitVec 16)) (got : List Draw) : List (Nat × Nat × List Draw) → List Draw
  | [] => got
  | (_, slot, ds) :: es =>
      let v := (s.slot slot).wver
      if v = 0xFFFF || ver.any (fun w => w ≠ v) || 64 < got.length + ds.length then s.pick ver got es
      else s.pick (some v) (got ++ ds) es

/-- A PREFILL slot whose last prompt position is established enters DECODE (R358). -/
def Slot.prompted (x : Slot) : Slot := if x.st = .prefill && decide (x.prompt ≤ x.position) then { x with st := .decode } else x

/-- Form a micro-batch (R180): its starts leave their queues, and it takes the next parity. -/
def State.formBatch (s : State) : State :=
  let s := s.modHub (fun h => { h with slots := h.slots.map (fun e => (e.1, e.2.prompted)) })
  let (est, spec) := s.offers
  let got := s.pick none [] (est ++ spec)
  let s := got.foldl (fun s (slot, t, prompt) =>
    if prompt then s
    else
      let x := s.slot slot
      s.setSlot slot { x with starts := x.starts.erase t }) s
  if got.isEmpty then s
  else s.modHub (fun h => { h with batch := got, batchParity := h.parity, parity := !h.parity })

/-- The three input ends of a start port, and its row table. -/
def Placement.startInputs (p : Placement) : Option ((UnitId × Nat) × (UnitId × Nat) × (UnitId × Nat) × Nat) :=
  p.img.pipes.start.map (fun (h, y, w, emb) =>
    ((p.endUnit h, h.ch), (p.endUnit y, y.ch), (p.endUnit w, w.ch), emb))

/-- Room for n tokens at an input that the start port feeds, its region running. -/
def State.startRoom (s : State) (e : UnitId × Nat) (n : Nat) : Bool :=
  let c := s.chan (.inp e.1 e.2)
  let R := s.region e.1.region
  R.frozen.isNone && !c.shut && decide (c.window + n ≤ c.limit)

/-- The header of a pulse (R167). -/
def headerWord (slot pos gen : Nat) (parity : Bool) (basis : Nat) : Word :=
  BitVec.ofNat 64 (slot % 2 ^ 13 * 2 ^ 51 + pos % 2 ^ 32 * 2 ^ 19 + gen % 2 ^ 16 * 8 + parity.toNat * 4 + basis % 4)

/-- A token that the start port places on an input's branch, with the tag of the input's region (R420); it is no firing's. -/
def State.startTok (s : State) (e : UnitId × Nat) (t : Tok) : State :=
  s.modChan (.inp e.1 e.2) (fun c => { c with places := c.places ++ [(0, some { t with tag := (s.region e.1.region).tag })] })

/-- Is the sampler policy table consulted: no final port stands (R421)? -/
def State.policed (s : State) : Bool := !s.hub.placements.any (fun e => e.2.img.pipes.reports.any (fun q => q.1 = .final))

/-- Is a policy's sampler graph resident (R366)? -/
def Hub.resident (h : Hub) (k : Nat) : Bool := (h.samplers.get k (false, 0)).1

/-- The policy that a pulse of a slot is given: the slot's tag, or 0 where that one's sampler is not resident (R366). -/
def State.policyFor (s : State) (x : Slot) : BitVec 3 := if s.policed && !s.hub.resident x.policy.toNat then 0 else x.policy

/-- The token that leads a logit row behind its header: the policy in bits 2:0 (R181). -/
def policyTok (k : BitVec 3) : Tok := { data := k.setWidth 64, tag := 0 }

/-- A pulse starts with its policy; one whose slot's policy has no resident sampler is counted (R366). -/
def State.givePolicy (s : State) (slot pos gen : Nat) : State :=
  let x := s.slot slot
  let y : Slot := { x with policies := x.policies ++ [(pos, gen, s.policyFor x)] }
  if s.policed && !s.hub.resident x.policy.toNat then
    (s.setSlot slot { y with miss := min (x.miss + 1) (2 ^ 64 - 1) }).countPkg 0xC03 1
  else s.setSlot slot y

/-- A prompt position is established as it starts; the last one ends PREFILL (R358, R420). -/
def State.promptStart (s : State) (slot q : Nat) : State :=
  let s := s.establish slot q
  s.setSlot slot (s.slot slot).prompted

/-- PULSE_START (R420): header, symbol and row. -/
def State.startPulse (s : State) (p : Placement) (d : Draw) : State :=
  match p.startInputs with
  | none => s
  | some (h, y, w, emb) =>
    let (slot, t, prompt) := d
    let a := p.img.dataP + emb + 64 * t.sym
    let w0 := headerWord slot t.pos t.gen s.hub.batchParity t.basis
    let (s, hd) := if t.dead then (s.countKill h.1.region w0, { data := w0, utag := 2, tag := 0 })
      else s.checkHeader h.1.region { data := w0, utag := 1, tag := 0 }
    let s := (s.startTok h hd).startTok y { data := BitVec.ofNat 64 t.sym, tag := 0 }
    let s := (List.range 8).foldl (fun s k =>
      s.startTok w { data := s.mem.word (a + 8 * k), poison := s.mem.poisoned (a + 8 * k), tag := 0 }) s
    let x := s.slot slot
    let s := (s.setSlot slot { x with inflight := x.inflight + 1, position := if t.dead then x.position else t.pos + 1 }).givePolicy
      slot t.pos t.gen
    if prompt then s.promptStart slot t.pos else s

/-- Start the first pulse of the batch in hand. -/
def State.startNext (s : State) (p : Placement) : State :=
  match s.hub.batch with
  | [] => s
  | d :: ds => (s.modHub (fun h => { h with batch := ds })).startPulse p d

/-- STEP_BUILDER_MICROBATCH (R180, R183, R420): a drain MARK between batches, a batch formed on a free permit, or the
next pulse of the one in hand. -/
def execStepBuilderMicrobatch (s : State) : Host.Outcome State Fault Refusal :=
  match s.startStage with
  | none => .next s
  | some (_, p) =>
    match p.startInputs with
    | none => .next s
    | some (h, y, w, _) =>
      let free := s.startRoom h 1 && s.startRoom y 1 && s.startRoom w 8
      match s.hub.batch, s.hub.marks with
      | [], n :: ns =>
          if s.startRoom h 1 then
            .next ((s.modHub (fun b => { b with marks := ns, marksOut := b.marksOut ++ [n] })).startTok h { data := 1, kind := 2, tag := 0 })
          else .next s
      | [], [] => if free then .next (s.formBatch.startNext p) else .next s
      | _ :: _, _ => if free then .next (s.startNext p) else .next s

/-! ## Pipeline ports (R421, R422) -/

/-- Take the head of a pipeline branch. -/
def State.takePipe (s : State) (id k : Nat) (isData : Bool) : State := s.modChan (.pipe id k isData) Chan.pop

def State.modPipe (s : State) (id k : Nat) (f : PipePort → PipePort) : State :=
  match s.placement? id with
  | some p => s.setPlacement id { p with pipes := p.pipes.set k (f (p.pipes.get k {})) }
  | none => s

/-- The pulse of a header has left the last stage (R172). -/
def State.passed (s : State) (w : Word) : State :=
  let x := s.slot (headerSlot w)
  s.setSlot (headerSlot w) { x with
    inflight := x.inflight - 1
    policies := x.policies.filter (fun e => !(e.1 = headerPos w && e.2.1 = headerGen w)) }

/-- The oldest drain MARK has left the last stage (R183). -/
def State.markLeft (s : State) : State :=
  match s.hub.marksOut with
  | [] => s
  | n :: ns => (s.modHub (fun h => { h with marksOut := ns })).setSlot n { s.slot n with left := true }

/-- Is a header well formed for a port: DATA with utag 01 or 10 (R421)? -/
def isHeader (t : Tok) : Bool := t.kind = 0 && (t.utag = 1 || t.utag = 2)

/-- A report port takes a header or a MARK. -/
def State.reportHeader (s : State) (id k : Nat) (pt : Point) (t : Tok) : State :=
  if t.kind = 2 then
    let s := s.takePipe id k false
    if pt = .final && t.data = 1 then s.markLeft else s
  else if !isHeader t then s.stopPipe id k false cCHANNEL
  else
    let s := s.takePipe id k false
    let s := if pt = .final then s.passed t.data else s
    if t.utag = 2 then s.modPipe id k (fun q => { q with drop := 1 })
    else s.modPipe id k (fun q => { q with report := some (headerSlot t.data, headerPos t.data, headerGen t.data) })

/-- A report port takes the data token of a header. -/
def State.reportData (s : State) (id k : Nat) (pt : Point) (h : Nat × Nat × Nat) (t : Tok) : State :=
  if t.kind ≠ 0 then s.stopPipe id k true cCHANNEL
  else if t.poison then s.stopPipe id k true cPOISON
  else if 1024 ≤ s.hub.reports.length then s
  else ((s.takePipe id k true).modPipe id k (fun q => { q with report := none })).modHub (fun b =>
    { b with reports := b.reports ++ [⟨h.1, h.2.1, h.2.2, pt, bitsOf t.data 0 18⟩] })

/-- A port discards a data token of a killed header; one that is not DATA stops it, and so does a poisoned one at a report port
(R421, R422). -/
def State.dataDrop (s : State) (id k n : Nat) (report : Bool) (t : Tok) : State :=
  if t.kind ≠ 0 then s.stopPipe id k true cCHANNEL
  else if report && t.poison then s.stopPipe id k true cPOISON
  else (s.takePipe id k true).modPipe id k (fun q => { q with drop := n })

/-- Does a report wait in its stage's output, its header at the head and the report queue full (R343)? -/
def State.reportWaits (s : State) (q : PipePort) (hd : Option Tok) : Bool :=
  q.drop = 0 && q.report.isNone && decide (1024 ≤ s.reportsDue) && hd.any (fun t => t.kind = 0 && t.utag = 1)

/-- A report that has left its port is an access of the region that has completed (R396, R418). -/
def State.reportSent (s t : State) (r : Nat) : State := if s.hub.reports.length < t.hub.reports.length then t.stir r else t

/-- Does the region of a port's element run? -/
def State.portRuns (s : State) (p : Placement) (e : ImgEnd) : Bool := (s.region (p.endUnit e).region).frozen.isNone

/-- REPORT_PORT_TAKE (R343, R421): report clause k of a stage. -/
def execReportPortTake (id k : Nat) (s : State) : Host.Outcome State Fault Refusal :=
  match s.placement? id with
  | none => .next s
  | some p =>
    match p.img.pipes.reports[k]? with
    | none => .next s
    | some (pt, hdr, _) =>
      let q := p.pipes.get k {}
      if q.stopped || !s.portRuns p hdr || s.reportWaits q (s.chan (.pipe id k false)).inq.head? then .next s
      else
        match q.drop, q.report, (s.chan (.pipe id k true)).inq.head?, (s.chan (.pipe id k false)).inq.head? with
        | n + 1, _, some t, _ => .next (s.dataDrop id k n true t)
        | 0, some h, some t, _ => .next (s.reportSent (s.reportData id k pt h t) (p.endUnit hdr).region)
        | 0, none, _, some t => .next (s.reportHeader id k pt t)
        | _, _, _, _ => .next s

/-- The half-write that a kv port still gathers. -/
def State.gathering (s : State) (id k : Nat) : Option Nat :=
  s.kv.findIdx? (fun h => h.stage = some (id, k) && h.words.length < h.need)

/-- Has a kv port a whole half-write that is not performed? -/
def State.kvBusy (s : State) (id k : Nat) : Bool :=
  s.kv.any (fun h => h.stage = some (id, k) && h.need ≤ h.words.length)

/-- A kv port takes a header or a MARK (R422): with no valid first segment it stops with PROTECTION. -/
def State.kvHeaderTake (s : State) (id k r layer : Nat) (t : Tok) : State :=
  if t.kind = 2 then s.takePipe id k false
  else if !isHeader t then s.stopPipe id k false cCHANNEL
  else
    let slot := headerSlot t.data
    match s.kvFirst slot layer with
    | none => s.stopPipe id k true cPROT
    | some g =>
      let n := kvHeadDim s.mem g / 4
      let s := s.takePipe id k false
      if t.utag = 2 then s.modPipe id k (fun q => { q with drop := 2 * n })
      else
        let (tick, s) := s.takeTicket
        let h (v : Bool) : KvHalf :=
          { layer := layer, slot := slot, pos := headerPos t.data, gen := headerGen t.data, isV := v, words := [], need := n,
            at_ := none, held := false, region := r, cmd := none, stage := some (id, k), tick := tick }
        { s with kv := s.kv ++ [h false, h true] }

/-- A kv port takes a data token of the half it gathers; the half is performed as its last one arrives. -/
def State.kvDataTake (s : State) (id k i : Nat) (t : Tok) : State :=
  if t.kind ≠ 0 then s.stopPipe id k true cCHANNEL
  else match s.kv[i]? with
    | some h =>
      let s1 := { s.takePipe id k true with kv := s.kv.set i { h with words := h.words ++ [(t.data, t.poison)] } }
      if h.words.length + 1 = h.need then s1.kvPerform i else s1
    | none => s

/-- KV_PORT_TAKE (R422): kv clause k - n of a stage with n report clauses. -/
def execKvPortTake (id k : Nat) (s : State) : Host.Outcome State Fault Refusal :=
  match s.placement? id with
  | none => .next s
  | some p =>
    let n := p.img.pipes.reports.length
    match (if k < n then none else p.img.pipes.kvs[k - n]?) with
    | none => .next s
    | some (layer, hdr, _) =>
      let q := p.pipes.get k {}
      if q.stopped || !s.portRuns p hdr || s.kvBusy id k then .next s
      else
        let r := (p.endUnit hdr).region
        match q.drop, s.gathering id k, (s.chan (.pipe id k true)).inq.head?, (s.chan (.pipe id k false)).inq.head? with
        | n + 1, _, some t, _ => .next (s.dataDrop id k n false t)
        | 0, some i, some t, _ => .next (s.kvDataTake id k i t)
        | 0, none, _, some t => .next (s.kvHeaderTake id k r layer t)
        | _, _, _, _ => .next s

end Sys2Proof.Machine
end

