-- ==== Sys2Proof/Machine/Xchg.lean ====
section
/-! DEFINITION. The exchange's own steps: the send engine, arrival at a buffer, releases (spec/09 R164-R166, spec/16
R331-R333). -/

namespace Sys2Proof.Machine

/-- The closing MARK that a send appends (R331). -/
def closingMark (tag : Byte) : Tok := { data := 4, kind := 2, tag := tag, last := true }

/-- The oldest send of a pair. -/
def State.sendOf (s : State) (k : Nat) (p : Pair) : Option XSend := (s.unit p.tx).sends.find? (fun x => x.pair = k)

/-- End the oldest send of a pair. -/
def EUnit.endSend (x : EUnit) (k : Nat) : EUnit := { x with sends := x.sends.eraseP (fun q => q.pair = k) }

/-- Tokens that an exchange context holds before the sender's engine waits for the receiver's credits (R408); as many as the
window of a branch across a die edge (R109; DEDUCED, notes/assumptions/88). -/
def laneRoom : Nat := 34

/-- EXCHANGE_SEND_TOKEN (R331): the send engine takes the next token of the stream, and closes it after the last; a
MARK or a kind-3 token stops it, the buffer staying FILLING. It runs on while its region is frozen (R156). -/
def execExchangeSendToken (p : Nat) (s : State) : Host.Outcome State Fault Refusal :=
  match s.pair? p with
  | none => .next s
  | some x =>
    match s.sendOf p x, s.linkUp x.link with
    | some q, true =>
      match s.head? x.tx q.inp with
      | none => .next s
      | some t =>
        if t.tag ≠ (s.region x.tx.region).tag || laneRoom ≤ x.lane.length then .next s
        else if t.kind = 2 || t.kind = 3 then
          .next (((s.modUnit x.tx (fun e => e.endSend p)).recordFaultOf x.tx q.tick cCHANNEL q.slot q.ctx (some q.inp)
            t.sideband 0).echoSend x.tx q.inp)
        else
          let close := if t.last then [(q.parity, closingMark t.tag)] else []
          let s1 := (s.dequeue x.tx q.inp).setPair p { x with lane := x.lane ++ [(q.parity, t)] ++ close }
          let s2 := s1.stir x.tx.region
          .next ((if t.last then s2.modUnit x.tx (fun e => e.endSend p) else s2).echoSend x.tx q.inp)
    | _, _ => .next s

/-- A token of the stream written into its buffer, a flit carrying eight of them; beyond the buffer's size it is discarded. -/
def State.bufferToken (s : State) (k : Nat) (x : Pair) (par : Bool) (t : Tok) : State :=
  let b := x.buf par
  if b.n < x.size / 8 then
    let s := if b.n % 8 = 0 then s.countFlit x.link x.dir x.ctx else s
    State.setPair { s with mem := s.mem.store (b.addr + 8 * b.n) 8 t.data t.poison } k (x.setBuf par { b with n := b.n + 1 })
  else s.setPair k (x.setBuf par { b with overrun := true })

/-- EXCHANGE_RECEIVE_TOKEN (R166, R332). -/
def execExchangeReceiveToken (p : Nat) (s : State) : Host.Outcome State Fault Refusal :=
  match s.pair? p with
  | none => .next s
  | some x =>
    match x.lane, s.linkUp x.link && (s.region x.rx.region).frozen.isNone with
    | (par, t) :: l, true =>
        let x := { x with lane := l }
        let s1 := s.stir x.rx.region
        if t.kind = 2 then
          let b := x.buf par
          let s2 := s1.setPair p (x.setBuf par { b with closed := !b.overrun })
          .next (if b.overrun then s2.recordFault x.rx cPERMIT 0 0 none 0 0 else s2)
        else .next (s1.bufferToken p x par t)
    | _, _ => .next s

/-- EXCHANGE_RELEASE (R164, R333): the token at the release input frees a FULL buffer. -/
def execExchangeRelease (p : Nat) (s : State) : Host.Outcome State Fault Refusal :=
  match s.pair? p with
  | none => .next s
  | some x =>
    match s.head? x.rx x.rel with
    | none => .next s
    | some t =>
      if (s.region x.rx.region).frozen.isSome || t.tag ≠ (s.region x.rx.region).tag then .next s
      else
        let par := t.data.getLsbD 0
        let s1 := s.dequeue x.rx x.rel
        if (x.buf par).st = .full then .next (s1.setPair p (x.setBuf par { addr := (x.buf par).addr }))
        else .next (s1.recordFault x.rx cPERMIT 0 0 (some x.rel) t.sideband 0)

end Sys2Proof.Machine
end

