-- ==== Sys2Proof/Machine/Dispatch.lean ====
section
/-! DEFINITION. The meaning of every instruction, one arm per constructor, each a call of its own meaning. -/

namespace Sys2Proof.Machine

def exec (i : Instr) (s : State) : Host.Outcome State Fault Refusal :=
  match i with
  | .mov t d a p => Sys2Proof.Machine.execMov t d a p s
  | .add t d a b p => Sys2Proof.Machine.execAdd t d a b p s
  | .sub t d a b p => Sys2Proof.Machine.execSub t d a b p s
  | .mul t d a b p => Sys2Proof.Machine.execMul t d a b p s
  | .mulhs t d a b p => Sys2Proof.Machine.execMulhs t d a b p s
  | .mulhu t d a b p => Sys2Proof.Machine.execMulhu t d a b p s
  | .and t d a b p => Sys2Proof.Machine.execAnd t d a b p s
  | .or t d a b p => Sys2Proof.Machine.execOr t d a b p s
  | .xor t d a b p => Sys2Proof.Machine.execXor t d a b p s
  | .andn t d a b p => Sys2Proof.Machine.execAndn t d a b p s
  | .shl t d a b p => Sys2Proof.Machine.execShl t d a b p s
  | .shr t d a b p => Sys2Proof.Machine.execShr t d a b p s
  | .sar t d a b p => Sys2Proof.Machine.execSar t d a b p s
  | .min t d a b p => Sys2Proof.Machine.execMin t d a b p s
  | .max t d a b p => Sys2Proof.Machine.execMax t d a b p s
  | .minu t d a b p => Sys2Proof.Machine.execMinu t d a b p s
  | .maxu t d a b p => Sys2Proof.Machine.execMaxu t d a b p s
  | .adds t d a b p => Sys2Proof.Machine.execAdds t d a b p s
  | .subs t d a b p => Sys2Proof.Machine.execSubs t d a b p s
  | .clz t d a p => Sys2Proof.Machine.execClz t d a p s
  | .popc t d a p => Sys2Proof.Machine.execPopc t d a p s
  | .sext t d a n p => Sys2Proof.Machine.execSext t d a n p s
  | .zext t d a n p => Sys2Proof.Machine.execZext t d a n p s
  | .ceq t d a b p => Sys2Proof.Machine.execCeq t d a b p s
  | .cne t d a b p => Sys2Proof.Machine.execCne t d a b p s
  | .clt t d a b p => Sys2Proof.Machine.execClt t d a b p s
  | .cle t d a b p => Sys2Proof.Machine.execCle t d a b p s
  | .cltu t d a b p => Sys2Proof.Machine.execCltu t d a b p s
  | .cleu t d a b p => Sys2Proof.Machine.execCleu t d a b p s
  | .ctst t d a b p => Sys2Proof.Machine.execCtst t d a b p s
  | .addi t d a imm => Sys2Proof.Machine.execAddi t d a imm s
  | .andi t d a imm => Sys2Proof.Machine.execAndi t d a imm s
  | .ori t d a imm => Sys2Proof.Machine.execOri t d a imm s
  | .xori t d a imm => Sys2Proof.Machine.execXori t d a imm s
  | .shli t d a c => Sys2Proof.Machine.execShli t d a c s
  | .shri t d a c => Sys2Proof.Machine.execShri t d a c s
  | .sari t d a c => Sys2Proof.Machine.execSari t d a c s
  | .ceqi t j a imm => Sys2Proof.Machine.execCeqi t j a imm s
  | .clti t j a imm => Sys2Proof.Machine.execClti t j a imm s
  | .cltui t j a imm => Sys2Proof.Machine.execCltui t j a imm s
  | .movi t d imm => Sys2Proof.Machine.execMovi t d imm s
  | .shin t d imm => Sys2Proof.Machine.execShin t d imm s
  | .faddS t d a b p => Sys2Proof.Machine.execFaddS t d a b p s
  | .fsubS t d a b p => Sys2Proof.Machine.execFsubS t d a b p s
  | .fmulS t d a b p => Sys2Proof.Machine.execFmulS t d a b p s
  | .fmacS t d a b p => Sys2Proof.Machine.execFmacS t d a b p s
  | .fminS t d a b p => Sys2Proof.Machine.execFminS t d a b p s
  | .fmaxS t d a b p => Sys2Proof.Machine.execFmaxS t d a b p s
  | .frsqeS t d a p => Sys2Proof.Machine.execFrsqeS t d a p s
  | .frcpeS t d a p => Sys2Proof.Machine.execFrcpeS t d a p s
  | .fceqS t d a b p => Sys2Proof.Machine.execFceqS t d a b p s
  | .fcltS t d a b p => Sys2Proof.Machine.execFcltS t d a b p s
  | .fcleS t d a b p => Sys2Proof.Machine.execFcleS t d a b p s
  | .fcunS t d a b p => Sys2Proof.Machine.execFcunS t d a b p s
  | .faddD t d a b p => Sys2Proof.Machine.execFaddD t d a b p s
  | .fsubD t d a b p => Sys2Proof.Machine.execFsubD t d a b p s
  | .fmulD t d a b p => Sys2Proof.Machine.execFmulD t d a b p s
  | .fmacD t d a b p => Sys2Proof.Machine.execFmacD t d a b p s
  | .fminD t d a b p => Sys2Proof.Machine.execFminD t d a b p s
  | .fmaxD t d a b p => Sys2Proof.Machine.execFmaxD t d a b p s
  | .fceqD t d a b p => Sys2Proof.Machine.execFceqD t d a b p s
  | .fcltD t d a b p => Sys2Proof.Machine.execFcltD t d a b p s
  | .fcleD t d a b p => Sys2Proof.Machine.execFcleD t d a b p s
  | .fcunD t d a b p => Sys2Proof.Machine.execFcunD t d a b p s
  | .steer t o a b => Sys2Proof.Machine.execSteer t o a b s
  | .mergec t d iT iF iC => Sys2Proof.Machine.execMergec t d iT iF iC s
  | .dup t o a => Sys2Proof.Machine.execDup t o a s
  | .gate t d a b => Sys2Proof.Machine.execGate t d a b s
  | .join t d a b => Sys2Proof.Machine.execJoin t d a b s
  | .kind t d ch kept p => Sys2Proof.Machine.execKind t d ch kept p s
  | .marki t o code => Sys2Proof.Machine.execMarki t o code s
  | .emitd t o a => Sys2Proof.Machine.execEmitd t o a s
  | .ld t d a n sx o => Sys2Proof.Machine.execLd t d a n sx o s
  | .ldas t d a b sys => Sys2Proof.Machine.execLdas t d a b sys s
  | .st t d a b o => Sys2Proof.Machine.execSt t d a b o s
  | .stw t d a b o => Sys2Proof.Machine.execStw t d a b o s
  | .sth t d a b o => Sys2Proof.Machine.execSth t d a b o s
  | .stb t d a b o => Sys2Proof.Machine.execStb t d a b o s
  | .stsc t d a b sys => Sys2Proof.Machine.execStsc t d a b sys s
  | .stsp t d a b sys => Sys2Proof.Machine.execStsp t d a b sys s
  | .aadd t d a b o => Sys2Proof.Machine.execAadd t d a b o s
  | .amin t d a b o => Sys2Proof.Machine.execAmin t d a b o s
  | .amax t d a b o => Sys2Proof.Machine.execAmax t d a b o s
  | .aand t d a b o => Sys2Proof.Machine.execAand t d a b o s
  | .aor t d a b o => Sys2Proof.Machine.execAor t d a b o s
  | .axor t d a b o => Sys2Proof.Machine.execAxor t d a b o s
  | .axchg t d a b o => Sys2Proof.Machine.execAxchg t d a b o s
  | .acas t d a b o => Sys2Proof.Machine.execAcas t d a b o s
  | .aadds t d a b o => Sys2Proof.Machine.execAadds t d a b o s
  | .xgrant t o a => Sys2Proof.Machine.execXgrant t o a s
  | .xsend t o iS iP => Sys2Proof.Machine.execXsend t o iS iP s
  | .xrecv t o ch => Sys2Proof.Machine.execXrecv t o ch s
  | .agen t g b => Sys2Proof.Machine.execAgen t g b s
  | .agset t g a imm => Sys2Proof.Machine.execAgset t g a imm s
  | .agrst t g => Sys2Proof.Machine.execAgrst t g s
  | .cvtRne t d a src dst sat => Sys2Proof.Machine.execCvtRne t d a src dst sat s
  | .cvtRtz t d a src dst sat => Sys2Proof.Machine.execCvtRtz t d a src dst sat s
  | .cvtRdn t d a src dst sat => Sys2Proof.Machine.execCvtRdn t d a src dst sat s
  | .cvtRup t d a src dst sat => Sys2Proof.Machine.execCvtRup t d a src dst sat s
  | .vmov t vd va m => Sys2Proof.Machine.execVmov t vd va m s
  | .vadd t vd va vb m => Sys2Proof.Machine.execVadd t vd va vb m s
  | .vsub t vd va vb m => Sys2Proof.Machine.execVsub t vd va vb m s
  | .vmul t vd va vb m => Sys2Proof.Machine.execVmul t vd va vb m s
  | .vfma t vd va vb m => Sys2Proof.Machine.execVfma t vd va vb m s
  | .vmin t vd va vb m => Sys2Proof.Machine.execVmin t vd va vb m s
  | .vmax t vd va vb m => Sys2Proof.Machine.execVmax t vd va vb m s
  | .vabs t vd va m => Sys2Proof.Machine.execVabs t vd va m s
  | .vand t vd va vb m => Sys2Proof.Machine.execVand t vd va vb m s
  | .vor t vd va vb m => Sys2Proof.Machine.execVor t vd va vb m s
  | .vxor t vd va vb m => Sys2Proof.Machine.execVxor t vd va vb m s
  | .vshl t vd va vb m => Sys2Proof.Machine.execVshl t vd va vb m s
  | .vshr t vd va vb m => Sys2Proof.Machine.execVshr t vd va vb m s
  | .vqshr t vd va m c => Sys2Proof.Machine.execVqshr t vd va m c s
  | .vnarrow t vd va round m fmt sat => Sys2Proof.Machine.execVnarrow t vd va round m fmt sat s
  | .vwiden t vp va m fmt => Sys2Proof.Machine.execVwiden t vp va m fmt s
  | .vwmac t vp va vb m => Sys2Proof.Machine.execVwmac t vp va vb m s
  | .vcmpeq t mk va vb m => Sys2Proof.Machine.execVcmpeq t mk va vb m s
  | .vcmplt t mk va vb m => Sys2Proof.Machine.execVcmplt t mk va vb m s
  | .vcmple t mk va vb m => Sys2Proof.Machine.execVcmple t mk va vb m s
  | .vsel t vd va vb m => Sys2Proof.Machine.execVsel t vd va vb m s
  | .vredadd t vd va m => Sys2Proof.Machine.execVredadd t vd va m s
  | .vredmax t vd va m => Sys2Proof.Machine.execVredmax t vd va m s
  | .vbcast t vd va m ch => Sys2Proof.Machine.execVbcast t vd va m ch s
  | .vexp2 t vd va m => Sys2Proof.Machine.execVexp2 t vd va m s
  | .vrcp t vd va m => Sys2Proof.Machine.execVrcp t vd va m s
  | .vrsq t vd va m => Sys2Proof.Machine.execVrsq t vd va m s
  | .vshuf t vd va vb m => Sys2Proof.Machine.execVshuf t vd va vb m s
  | .vslide t vd va vb m c => Sys2Proof.Machine.execVslide t vd va vb m c s
  | .vtag t vd fmt grp bit1 side => Sys2Proof.Machine.execVtag t vd fmt grp bit1 side s
  | .vsetp t j => Sys2Proof.Machine.execVsetp t j s
  | .vldr t vd ring pop => Sys2Proof.Machine.execVldr t vd ring pop s
  | .vstr t va ring commit => Sys2Proof.Machine.execVstr t va ring commit s
  | .vlds t vd ch => Sys2Proof.Machine.execVlds t vd ch s
  | .vsts t va o => Sys2Proof.Machine.execVsts t va o s
  | .tmma f => Sys2Proof.Machine.execTmma f s
  | .tmmag f sideA sideB => Sys2Proof.Machine.execTmmag f sideA sideB s
  | .tmmax f sideA sideB => Sys2Proof.Machine.execTmmax f sideA sideB s
  | .tzero acc => Sys2Proof.Machine.execTzero acc s
  | .tdrain acc clr outRing outFmt rounding shift => Sys2Proof.Machine.execTdrain acc clr outRing outFmt rounding shift s
  | .tload acc ring pop => Sys2Proof.Machine.execTload acc ring pop s
  | .taddr acc ring pop => Sys2Proof.Machine.execTaddr acc ring pop s
  | .ttrans ring pop outRing => Sys2Proof.Machine.execTtrans ring pop outRing s
  | .coreAdd d a b => Sys2Proof.Machine.execCoreAdd d a b s
  | .coreSub d a b => Sys2Proof.Machine.execCoreSub d a b s
  | .coreAnd d a b => Sys2Proof.Machine.execCoreAnd d a b s
  | .coreOr d a b => Sys2Proof.Machine.execCoreOr d a b s
  | .coreXor d a b => Sys2Proof.Machine.execCoreXor d a b s
  | .coreShl d a b => Sys2Proof.Machine.execCoreShl d a b s
  | .coreShr d a b => Sys2Proof.Machine.execCoreShr d a b s
  | .coreSar d a b => Sys2Proof.Machine.execCoreSar d a b s
  | .coreMul d a b => Sys2Proof.Machine.execCoreMul d a b s
  | .coreMulhs d a b => Sys2Proof.Machine.execCoreMulhs d a b s
  | .coreMulhu d a b => Sys2Proof.Machine.execCoreMulhu d a b s
  | .divu d a b => Sys2Proof.Machine.execDivu d a b s
  | .remu d a b => Sys2Proof.Machine.execRemu d a b s
  | .slt d a b => Sys2Proof.Machine.execSlt d a b s
  | .sltu d a b => Sys2Proof.Machine.execSltu d a b s
  | .coreMin d a b => Sys2Proof.Machine.execCoreMin d a b s
  | .coreMax d a b => Sys2Proof.Machine.execCoreMax d a b s
  | .coreAddi d a imm => Sys2Proof.Machine.execCoreAddi d a imm s
  | .coreAndi d a imm => Sys2Proof.Machine.execCoreAndi d a imm s
  | .coreOri d a imm => Sys2Proof.Machine.execCoreOri d a imm s
  | .coreXori d a imm => Sys2Proof.Machine.execCoreXori d a imm s
  | .slti d a imm => Sys2Proof.Machine.execSlti d a imm s
  | .sltui d a imm => Sys2Proof.Machine.execSltui d a imm s
  | .coreShli d a c => Sys2Proof.Machine.execCoreShli d a c s
  | .coreShri d a c => Sys2Proof.Machine.execCoreShri d a c s
  | .coreSari d a c => Sys2Proof.Machine.execCoreSari d a c s
  | .lih d imm => Sys2Proof.Machine.execLih d imm s
  | .shi16 d a imm => Sys2Proof.Machine.execShi16 d a imm s
  | .ldd d a off => Sys2Proof.Machine.execLdd d a off s
  | .ldw d a off => Sys2Proof.Machine.execLdw d a off s
  | .ldwu d a off => Sys2Proof.Machine.execLdwu d a off s
  | .ldh d a off => Sys2Proof.Machine.execLdh d a off s
  | .ldhu d a off => Sys2Proof.Machine.execLdhu d a off s
  | .ldb d a off => Sys2Proof.Machine.execLdb d a off s
  | .ldbu d a off => Sys2Proof.Machine.execLdbu d a off s
  | .std d a off => Sys2Proof.Machine.execStd d a off s
  | .coreStw d a off => Sys2Proof.Machine.execCoreStw d a off s
  | .coreSth d a off => Sys2Proof.Machine.execCoreSth d a off s
  | .coreStb d a off => Sys2Proof.Machine.execCoreStb d a off s
  | .lda d a c => Sys2Proof.Machine.execLda d a c s
  | .stl a b c => Sys2Proof.Machine.execStl a b c s
  | .amoadd d a b o => Sys2Proof.Machine.execAmoadd d a b o s
  | .amomin d a b o => Sys2Proof.Machine.execAmomin d a b o s
  | .amomax d a b o => Sys2Proof.Machine.execAmomax d a b o s
  | .amoand d a b o => Sys2Proof.Machine.execAmoand d a b o s
  | .amoor d a b o => Sys2Proof.Machine.execAmoor d a b o s
  | .amoxor d a b o => Sys2Proof.Machine.execAmoxor d a b o s
  | .amoxchg d a b o => Sys2Proof.Machine.execAmoxchg d a b o s
  | .amocas d a b o => Sys2Proof.Machine.execAmocas d a b o s
  | .amoadds d a b o => Sys2Proof.Machine.execAmoadds d a b o s
  | .fence k c => Sys2Proof.Machine.execFence k c s
  | .beq a b off => Sys2Proof.Machine.execBeq a b off s
  | .bne a b off => Sys2Proof.Machine.execBne a b off s
  | .blt a b off => Sys2Proof.Machine.execBlt a b off s
  | .bge a b off => Sys2Proof.Machine.execBge a b off s
  | .bltu a b off => Sys2Proof.Machine.execBltu a b off s
  | .bgeu a b off => Sys2Proof.Machine.execBgeu a b off s
  | .jmp off => Sys2Proof.Machine.execJmp off s
  | .jr a => Sys2Proof.Machine.execJr a s
  | .call off => Sys2Proof.Machine.execCall off s
  | .callr a => Sys2Proof.Machine.execCallr a s
  | .ret => Sys2Proof.Machine.execRet s
  | .clkrd p => Sys2Proof.Machine.execClkrd p s
  | .cyc d => Sys2Proof.Machine.execCyc d s
  | .sleepu a => Sys2Proof.Machine.execSleepu a s
  | .waits a sys => Sys2Proof.Machine.execWaits a sys s
  | .floor d sys => Sys2Proof.Machine.execFloor d sys s
  | .sts d a b sys posted => Sys2Proof.Machine.execSts d a b sys posted s
  | .coreLdas d a b sys => Sys2Proof.Machine.execCoreLdas d a b sys s
  | .sbind d a b h watch fenced => Sys2Proof.Machine.execSbind d a b h watch fenced s
  | .hwait h => Sys2Proof.Machine.execHwait h s
  | .hqry d h => Sys2Proof.Machine.execHqry d h s
  | .hdrain h => Sys2Proof.Machine.execHdrain h s
  | .hfree h => Sys2Proof.Machine.execHfree h s
  | .hcancel h => Sys2Proof.Machine.execHcancel h s
  | .launch d a prio => Sys2Proof.Machine.execLaunch d a prio s
  | .phase a mask => Sys2Proof.Machine.execPhase a mask s
  | .msend d a b nak => Sys2Proof.Machine.execMsend d a b nak s
  | .mrecv d a wait => Sys2Proof.Machine.execMrecv d a wait s
  | .tlook d a => Sys2Proof.Machine.execTlook d a s
  | .tfill a b => Sys2Proof.Machine.execTfill a b s
  | .tevict a => Sys2Proof.Machine.execTevict a s
  | .sqrd d a => Sys2Proof.Machine.execSqrd d a s
  | .sqset d a b => Sys2Proof.Machine.execSqset d a b s
  | .sqadmit d a b => Sys2Proof.Machine.execSqadmit d a b s
  | .sqretire d a => Sys2Proof.Machine.execSqretire d a s
  | .cntrd d a => Sys2Proof.Machine.execCntrd d a s
  | .cntcfg d a b => Sys2Proof.Machine.execCntcfg d a b s
  | .cntclr a => Sys2Proof.Machine.execCntclr a s
  | .csrrd d b => Sys2Proof.Machine.execCsrrd d b s
  | .csrwr a b => Sys2Proof.Machine.execCsrwr a b s
  | .trap a => Sys2Proof.Machine.execTrap a s
  | .eret => Sys2Proof.Machine.execEret s
  | .halt => Sys2Proof.Machine.execHalt s
  | .freeze a => Sys2Proof.Machine.execFreeze a s
  | .thaw a => Sys2Proof.Machine.execThaw a s
  | .resume a => Sys2Proof.Machine.execResume a s
  | .brk => Sys2Proof.Machine.execBrk s
  | .writeBack u => Sys2Proof.Machine.execWriteBack u s
  | .tokenArrival u ch => Sys2Proof.Machine.execTokenArrival u ch s
  | .multiTokenPlace u => Sys2Proof.Machine.execMultiTokenPlace u s
  | .vldsTokenTake u ch => Sys2Proof.Machine.execVldsTokenTake u ch s
  | .vstsTokenPlace u o => Sys2Proof.Machine.execVstsTokenPlace u o s
  | .bankFetch u b => Sys2Proof.Machine.execBankFetch u b s
  | .bankFill u b => Sys2Proof.Machine.execBankFill u b s
  | .tilePairStart u => Sys2Proof.Machine.execTilePairStart u s
  | .tilePairRetire u => Sys2Proof.Machine.execTilePairRetire u s
  | .mWordRetire u => Sys2Proof.Machine.execMWordRetire u s
  | .phaseEnd r => Sys2Proof.Machine.execPhaseEnd r s
  | .placementComplete id => Sys2Proof.Machine.execPlacementComplete id s
  | .completionRecordWrite id => Sys2Proof.Machine.execCompletionRecordWrite id s
  | .scheduleDecision => Sys2Proof.Machine.execScheduleDecision s
  | .agelimPromotion id => Sys2Proof.Machine.execAgelimPromotion id s
  | .preemption => Sys2Proof.Machine.execPreemption s
  | .watchdogExpiry r => Sys2Proof.Machine.execWatchdogExpiry r s
  | .pflimitFreeze r port => Sys2Proof.Machine.execPflimitFreeze r port s
  | .promiseMissed r h => Sys2Proof.Machine.execPromiseMissed r h s
  | .trapEntry r => Sys2Proof.Machine.execTrapEntry r s
  | .waitComplete r => Sys2Proof.Machine.execWaitComplete r s
  | .memoryAccessComplete d k => Sys2Proof.Machine.execMemoryAccessComplete d k s
  | .pageWalkComplete r port => Sys2Proof.Machine.execPageWalkComplete r port s
  | .stampedInstall k => Sys2Proof.Machine.execStampedInstall k s
  | .stampedVisible k => Sys2Proof.Machine.execStampedVisible k s
  | .ldasReturn k => Sys2Proof.Machine.execLdasReturn k s
  | .floorBroadcast => Sys2Proof.Machine.execFloorBroadcast s
  | .systemFloorUpdate f => Sys2Proof.Machine.execSystemFloorUpdate f s
  | .widenedStateEntry d => Sys2Proof.Machine.execWidenedStateEntry d s
  | .widenedStateExit d => Sys2Proof.Machine.execWidenedStateExit d s
  | .systemFloorStall => Sys2Proof.Machine.execSystemFloorStall s
  | .clockSync d e l => Sys2Proof.Machine.execClockSync d e l s
  | .streamCommandStart r port => Sys2Proof.Machine.execStreamCommandStart r port s
  | .streamElementPerform r port => Sys2Proof.Machine.execStreamElementPerform r port s
  | .streamCommandComplete r port => Sys2Proof.Machine.execStreamCommandComplete r port s
  | .kvHalfWrite k => Sys2Proof.Machine.execKvHalfWrite k s
  | .kvSegmentSwitch c n => Sys2Proof.Machine.execKvSegmentSwitch c n s
  | .kvSegmentResume c n => Sys2Proof.Machine.execKvSegmentResume c n s
  | .exchangeSendToken p => Sys2Proof.Machine.execExchangeSendToken p s
  | .exchangeReceiveToken p => Sys2Proof.Machine.execExchangeReceiveToken p s
  | .exchangeRelease p => Sys2Proof.Machine.execExchangeRelease p s
  | .stepBuilderMicrobatch => Sys2Proof.Machine.execStepBuilderMicrobatch s
  | .squashReport => Sys2Proof.Machine.execSquashReport s
  | .noticeApplyStage r => Sys2Proof.Machine.execNoticeApplyStage r s
  | .noticeApplySegment r => Sys2Proof.Machine.execNoticeApplySegment r s
  | .stageAcknowledge id slot => Sys2Proof.Machine.execStageAcknowledge id slot s
  | .settle slot => Sys2Proof.Machine.execSettle slot s
  | .establishNoticeApply r => Sys2Proof.Machine.execEstablishNoticeApply r s
  | .slotActivate slot => Sys2Proof.Machine.execSlotActivate slot s
  | .slotFree slot => Sys2Proof.Machine.execSlotFree slot s
  | .reportPortTake id k => Sys2Proof.Machine.execReportPortTake id k s
  | .kvPortTake id k => Sys2Proof.Machine.execKvPortTake id k s
  | .messageRoute => Sys2Proof.Machine.execMessageRoute s
  | .parkedMessageDeliver id => Sys2Proof.Machine.execParkedMessageDeliver id s
  | .freezeWave r => Sys2Proof.Machine.execFreezeWave r s
  | .freezeReadoutComplete r => Sys2Proof.Machine.execFreezeReadoutComplete r s
  | .hubRestore addr r => Sys2Proof.Machine.execHubRestore addr r s
  | .drainStart r => Sys2Proof.Machine.execDrainStart r s
  | .drainComplete r => Sys2Proof.Machine.execDrainComplete r s
  | .drainTimeout r => Sys2Proof.Machine.execDrainTimeout r s
  | .traceRecordWrite => Sys2Proof.Machine.execTraceRecordWrite s
  | .traceAnchor => Sys2Proof.Machine.execTraceAnchor s
  | .flitArrival l dir c => Sys2Proof.Machine.execFlitArrival l dir c s
  | .flitCheckFail l dir => Sys2Proof.Machine.execFlitCheckFail l dir s
  | .creditReturn l dir c => Sys2Proof.Machine.execCreditReturn l dir c s
  | .contextSetup l dir c cls phys target => Sys2Proof.Machine.execContextSetup l dir c cls phys target s
  | .contextTeardown l dir c => Sys2Proof.Machine.execContextTeardown l dir c s
  | .linkDown l => Sys2Proof.Machine.execLinkDown l s
  | .dvoriPortStateChange p st lanes => Sys2Proof.Machine.execDvoriPortStateChange p st lanes s
  | .dramUncorrectableError a => Sys2Proof.Machine.execDramUncorrectableError a s
  | .scrub a => Sys2Proof.Machine.execScrub a s
  | .hostLaunchWrite prio wellFormed record idAddr => Sys2Proof.Machine.execHostLaunchWrite prio wellFormed record idAddr s
  | .launchCancel wellFormed id => Sys2Proof.Machine.execLaunchCancel wellFormed id s
  | .hostMessageWrite msg dest status => Sys2Proof.Machine.execHostMessageWrite msg dest status s
  | .hostBar2Access write off size data => Sys2Proof.Machine.execHostBar2Access write off size data s
  | .portResumeWrite r n => Sys2Proof.Machine.execPortResumeWrite r n s
  | .translationInvalidate r => Sys2Proof.Machine.execTranslationInvalidate r s
  | .registerWrite off v => Sys2Proof.Machine.execRegisterWrite off v s
  | .ingestDescriptor d => Sys2Proof.Machine.execIngestDescriptor d s
  | .ingestComplete => Sys2Proof.Machine.execIngestComplete s
  | .checkpointDescriptor d => Sys2Proof.Machine.execCheckpointDescriptor d s
  | .checkpointCopy => Sys2Proof.Machine.execCheckpointCopy s
  | .functionLevelReset => Sys2Proof.Machine.execFunctionLevelReset s
  | .powerOn => Sys2Proof.Machine.execPowerOn s
  | .bringupPhaseComplete => Sys2Proof.Machine.execBringupPhaseComplete s
  | .powerStateRequest target => Sys2Proof.Machine.execPowerStateRequest target s
  | .powerRemoval => Sys2Proof.Machine.execPowerRemoval s
  | .debugToken t => Sys2Proof.Machine.execDebugToken t s
  | .debugLevelLower => Sys2Proof.Machine.execDebugLevelLower s
  | .lifecycleTransfer digest sig => Sys2Proof.Machine.execLifecycleTransfer digest sig s
  | .lifecycleRelease ownerSig vendorSig => Sys2Proof.Machine.execLifecycleRelease ownerSig vendorSig s
  | .getMeasurements nonce => Sys2Proof.Machine.execGetMeasurements nonce s
  | .getCertificate => Sys2Proof.Machine.execGetCertificate s
  | .ideKm fn key => Sys2Proof.Machine.execIdeKm fn key s
  | .enclaveUncorrectableError => Sys2Proof.Machine.execEnclaveUncorrectableError s
  | .illegalWord n => Sys2Proof.Machine.execIllegalWord n s
  | .fetchOutsideCodeArea => Sys2Proof.Machine.execFetchOutsideCodeArea s
  | .remoteWrite addr p => Sys2Proof.Machine.execRemoteWrite addr p s
  | .spdmSession fn => Sys2Proof.Machine.execSpdmSession fn s

end Sys2Proof.Machine
end

