-- ==== Sys2Proof/Machine/Issue.lean ====
section
/-! DEFINITION. Fetching: the words in an element's banks, which of them issues in a cycle, its stalls; the core's instruction
(spec/05 R94, R95, spec/06 R106, spec/13 R240, spec/14 R258, spec/18 R378, R381, R389). -/

namespace Sys2Proof.Machine

/-- Drop the reason of a refusal. -/
def exceptOption {α : Type} (r : Except Reject α) : Option α :=
  match r with
  | .ok a => some a
  | .error _ => none

/-- The instruction of a word that stands in an element or node (R73, R74). -/
def decodeIn (k : UnitKind) (w : Word) : Option Instr :=
  match k with
  | .vn => exceptOption (decodeV (w.setWidth 32))
  | .mn => (exceptOption (decodeM w)).join
  | k => exceptOption (decodeFor k (w.setWidth 32))

/-- The word of a slot of the active phase (R94 condition 1, R120). -/
def State.wordAt (s : State) (u : UnitId) (slot : Nat) : Option Instr :=
  if s.bankOk u slot then
    match u.kind?, (((s.unit u).banks.get (slot / 8) {}).words.find? (fun e => e.1 = slot)) with
    | some k, some (_, w) => decodeIn k w
    | _, _ => none
  else none

/-- The words of an element in slot order. -/
def State.wordsOf (s : State) (u : UnitId) : List (Nat × Instr) :=
  (List.range 32).filterMap (fun n => (s.wordAt u n).map (fun i => (n, i)))

/-- The context of a word; a matrix word has none. -/
def ctxOf (i : Instr) : Nat :=
  match i.eview with
  | some v => v.trig.ctx.toNat
  | none => match i.vtrig with
    | some t => t.ctx.toNat
    | none => 0

/-- The guard of a word; a matrix word has none. -/
def guardOf (i : Instr) : Option Trig :=
  match i.eview with
  | some v => some v.trig
  | none => i.vtrig

/-- The state with the word of a slot in hand. -/
def State.at_ (s : State) (u : UnitId) (slot : Nat) : State := { s with site := ⟨u, slot, u.region⟩ }

/-- Is the word of a slot ready: its meaning issues it or raises its cause? A word that waits leaves the state as it is. -/
def State.moves (s : State) (u : UnitId) (e : Nat × Instr) : Bool :=
  match exec e.2 (s.at_ u e.1) with
  | .next t => (t.unit u).issued || t.ticket ≠ s.ticket
  | _ => false

/-- The word that issues in this cycle: contexts in cyclic order after the one that issued last, lowest slot first (R95,
R106). -/
def State.pickWord (s : State) (u : UnitId) : Option (Nat × Instr) :=
  let ws := s.wordsOf u
  let last := (s.unit u).lastCtx
  ([1, 2, 3, 4].flatMap (fun k => ws.filter (fun e => ctxOf e.2 = (last + k) % 4))).find? (s.moves u)

/-! ## Stalls (R378, R381): a word fails on one kind of condition only if it is ready with that kind granted -/

/-- Conditions 2 to 4 granted: nothing is pending and the guard holds. -/
def State.grantBoard (s : State) (u : UnitId) (i : Instr) : State :=
  match guardOf i with
  | none => s
  | some t => s.modUnit u (fun x =>
      { x.modCtx t.ctx.toNat (fun c => { c with
          pendX := 0
          pendP := 0
          p := setBit c.p t.pred.toNat t.req }) with vec := { x.vec with pendV := 0, pendM := 0 } })

/-- Condition 6 granted: every branch has room, no VSTS is placing (R212), and the report queue takes reports. -/
def State.grantRoom (s : State) (u : UnitId) : State :=
  ((List.range 8).foldl (fun s o => (s.branches u o).foldl (fun s k =>
    s.modChan k (fun c => { c with limit := c.window + 64 })) s)
    (s.modHub (fun h => { h with placements := h.placements.map (fun e =>
      (e.1, { e.2 with img := { e.2.img with pipes := { e.2.img.pipes with reports := [] } } })) }))).modUnit u
    (fun x => { x with vec := { x.vec with sends := [] } })

/-- Condition 5 granted: a token at every input that has none to take; for VLDR a FULL slot at its ring's head. -/
def State.grantInput (s : State) (u : UnitId) (i : Instr) : State :=
  let tag := (s.region u.region).tag
  let s := (List.range 8).foldl (fun s k =>
    if (s.head? u k).any (fun t => t.tag = tag) then s
    else s.modChan (.inp u k) (fun c => { c with inq := { data := 0, tag := tag } :: c.inq })) s
  match i with
  | .vldr _ _ g _ => match s.ring? u.cellId g.toNat with
    | some R => s.setRing u.cellId g.toNat { R with slots := R.slots.set (R.head % R.slots.length) ⟨.full, R.decl, .nobody⟩ }
    | none => s
  | _ => s

/-- The element as if nothing held its issue slot and no cause stopped it. -/
def State.freed (s : State) (u : UnitId) : State :=
  s.modUnit u (fun x => { x with
    multi := none
    marks := []
    efault := 0
    issued := false
    flights := x.flights.map (fun f => { f with land := { f.land with rot := none } })
    reqs := x.reqs.map (fun q => { q with rot := none }) })

/-- The kind of condition on which alone a word fails: 1 input, 2 output, 3 scoreboard; 0 otherwise. -/
def State.stallKind (s : State) (u : UnitId) (e : Nat × Instr) : Nat :=
  if s.moves u e then 0
  else if (s.grantInput u e.2).moves u e then 1
  else if (s.grantRoom u).moves u e then 2
  else if (s.grantBoard u e.2).moves u e then 3
  else 0

/-- Count an element-cycle in which no word issues (R378), and its words (R381). One in which a word waits on a bank fetch is no
stall; a held slot or a cause is no condition of R94. -/
def State.countStalls (s : State) (u : UnitId) : State :=
  if u.sub = 18 || (s.region u.region).fetches.any (fun f => f.u = u) then s
  else
    let ks := (s.wordsOf u).map (fun e => (e.1, (s.freed u).stallKind u e))
    let s1 := match [1, 2, 3].find? (fun k => ks.any (fun e => e.2 = k)) with
      | some k => s.count u.region (3 + k) 1
      | none => s
    ks.foldl (fun s e => if e.2 = 0 then s else s.countProg u e.1 (1 + e.2) 1) s1

/-! ## The core -/

/-- The word at the core's PC (R258): the code area lies at its physical place. -/
def State.coreWord (s : State) (r : Nat) : BitVec 32 :=
  let k := s.core r
  BitVec.ofNat 32 (s.mem.readNat (k.codeP + (k.pc.toNat - k.codeV.toNat)) 4)

/-- The issue port of a core instruction (R389). -/
def issuePort (i : Instr) : Nat :=
  match i with
  | .coreAdd .. | .coreSub .. | .coreAnd .. | .coreOr .. | .coreXor .. | .coreShl .. | .coreShr .. | .coreSar ..
  | .coreMul .. | .coreMulhs .. | .coreMulhu .. | .divu .. | .remu .. | .slt .. | .sltu .. | .coreMin .. | .coreMax ..
  | .coreAddi .. | .coreAndi .. | .coreOri .. | .coreXori .. | .slti .. | .sltui .. | .coreShli .. | .coreShri ..
  | .coreSari .. | .lih .. | .shi16 .. => 0
  | .ldd .. | .ldw .. | .ldwu .. | .ldh .. | .ldhu .. | .ldb .. | .ldbu .. | .std .. | .coreStw .. | .coreSth ..
  | .coreStb .. | .lda .. | .stl .. | .amoadd .. | .amomin .. | .amomax .. | .amoand .. | .amoor .. | .amoxor ..
  | .amoxchg .. | .amocas .. | .amoadds .. | .fence .. | .sts .. | .coreLdas .. => 1
  | .beq .. | .bne .. | .blt .. | .bge .. | .bltu .. | .bgeu .. | .jmp .. | .jr .. | .call .. | .callr .. | .ret
  | .eret => 2
  | _ => 3

end Sys2Proof.Machine
end

