-- ==== Sys2Proof/Machine/Firing.lean ====
section
/-! DEFINITION. Firing notes and critical-path walks: which readiness condition a firing met last, which firing brought it about,
and the node records of a walk (spec/18 R387, R388, R390, R391). -/

namespace Sys2Proof.Machine

/-! ## Registers by their keys (R390) -/

/-- The key of register k, and of predicate k, of a context. -/
def xKey (ctx k : Nat) : Nat := 64 * ctx + k
def pKey (ctx k : Nat) : Nat := 64 * ctx + 8 + k

/-- The keys of a v register, of a mask, of an accumulator, and of the matrix sequencer. -/
def vKey (k : Nat) : Nat := 256 + k
def mKey (k : Nat) : Nat := 272 + k
def accKey (k : Nat) : Nat := 280 + k
def seqKey : Nat := 288

/-- The keys, from f, of the bits of a word that are set. -/
def bitKeys (f : Nat → Nat) {n : Nat} (b : BitVec n) : List Nat := ((List.range n).filter b.getLsbD).map f

/-- What is pending in a context and in the vector node. -/
def EUnit.pendingKeys (x : EUnit) (ctx : Nat) : List Nat :=
  bitKeys (xKey ctx) (x.context ctx).pendX ++ bitKeys (pKey ctx) (x.context ctx).pendP ++ bitKeys vKey x.vec.pendV ++
    bitKeys mKey x.vec.pendM

/-- Set one register pending. -/
def EUnit.setPending (x : EUnit) (key : Nat) : EUnit :=
  if key < 256 then
    x.modCtx (key / 64) (fun c =>
      if key % 64 < 8 then { c with pendX := setBit c.pendX (key % 64) true }
      else { c with pendP := setBit c.pendP (key % 64 - 8) true })
  else if key < 272 then { x with vec := { x.vec with pendV := setBit x.vec.pendV (key - 256) true } }
  else { x with vec := { x.vec with pendM := setBit x.vec.pendM (key - 272) true } }

/-- What a firing writes: what it makes pending, the predicates that it changes at issue (R213), and in the matrix node the
accumulator that it makes ACTIVE and the sequencer (R96, R239, R240). -/
def firingWrites (b t : EUnit) (ctx : Nat) : List Nat :=
  (t.pendingKeys ctx).filter (fun k => !(b.pendingKeys ctx).contains k) ++
    bitKeys (pKey ctx) ((b.context ctx).p ^^^ (t.context ctx).p) ++
    (((List.range 8).filter (fun k => (t.mat.accOf (BitVec.ofNat 3 k)).st = .active &&
      (b.mat.accOf (BitVec.ofNat 3 k)).st ≠ .active)).map accKey) ++
    (if t.mat.seq.isSome && b.mat.seq.isNone then [seqKey] else [])

/-! ## Conditions that are not met, by the codes of R390 -/

/-- A condition's code, where the condition is not met. -/
def need (code : Nat) (met : Bool) : List Nat := if met then [] else [code]

/-- For a VSTR, an EMPTY slot at its ring's tail. -/
def State.grantTail (s : State) (u : UnitId) (i : Instr) : State :=
  match i with
  | .vstr _ _ g _ => match s.ring? u.cellId g.toNat with
    | some R => s.setRing u.cellId g.toNat { R with slots := R.slots.set (R.tail % R.slots.length) ⟨.empty, R.decl, .nobody⟩ }
    | none => s
  | _ => s

/-- Output room granted. -/
def State.grantOut (s : State) (u : UnitId) (i : Instr) : State := (s.grantRoom u).grantTail u i

/-- The pending registers for any one of which a word waits. -/
def State.waitsFor (s : State) (u : UnitId) (e : Nat × Instr) : List Nat :=
  match guardOf e.2 with
  | none => []
  | some t =>
    let g := ((s.grantInput u e.2).grantOut u e.2).grantBoard u e.2
    if !g.moves u e then []
    else (((s.unit u).pendingKeys t.ctx.toNat).filter (fun k => k ≠ pKey t.ctx.toNat t.pred.toNat)).filter
      (fun k => !(g.modUnit u (fun x => x.setPending k)).moves u e)

/-- An operand of an E word is there: a token at its channel, or no channel. -/
def State.operandThere (s : State) (u : UnitId) (ctx : BitVec 2) (xs : List Src) : Bool := xs.all (fun x => (s.readSrc u ctx x).isSome)

/-- Of an E word: the first operand that it names is a, each further one b; of MERGEC the control is a and the side it selects b
(R94, R322; notes/assumptions/12). -/
def State.unmetE (s : State) (u : UnitId) (e : Nat × Instr) (v : EView) : List Nat :=
  let l := need 0 (s.operandThere u v.trig.ctx (v.ins.take 1)) ++ need 1 (s.operandThere u v.trig.ctx (v.ins.drop 1)) ++
    need 2 (((s.unit u).context v.trig.ctx.toNat).guardMet v.trig) ++ need 3 (s.waitsFor u e).isEmpty ++
    need 4 (v.outs.all (fun o => s.outRoom u o.toNat))
  if l.isEmpty then
    match s.stallKind u e with
    | 1 => [1]
    | 2 => [4]
    | _ => []
  else l

/-- Of a V word: a token, or a FULL slot to read, is its operand a; a slot to write counts as output room (R212). -/
def State.unmetV (s : State) (u : UnitId) (e : Nat × Instr) (t : Trig) : List Nat :=
  let own := (s.grantOut u e.2).grantBoard u e.2
  let out := (s.grantInput u e.2).grantBoard u e.2
  let all := (own.grantInput u e.2).moves u e
  need 0 (!all || own.moves u e) ++ need 2 (((s.unit u).context t.ctx.toNat).guardMet t) ++ need 3 (s.waitsFor u e).isEmpty ++
    need 4 (!all || out.moves u e)

/-- Of an M word: the slots of its rings are its operands, its accumulator's state and the sequencer its scoreboard, the slots
that it writes its output room (R239, R240). -/
def State.unmetM (s : State) (u : UnitId) (i : Instr) : List Nat :=
  let x := s.mat u
  let c := u.cellId
  let idle := x.seq.isNone
  match i with
  | .tmma f | .tmmag f _ _ | .tmmax f _ _ => match s.macRings c i with
    | none => []
    | some (_, a, b, sa, sb) =>
      let ta := a.tagAt a.head 0
      let tb := b.tagAt b.head 0
      let side (t : Byte) (g : Option Ring) : Bool := !usesSide i t || g.any (fun g => g.fullAt g.head 0)
      need 0 (a.fullAt a.head 0 && side ta sa) ++ need 1 (b.fullAt b.head 0 && side tb sb) ++
        need 3 (idle && ((x.accOf f.acc).st = .empty || (!f.clr && (x.accOf f.acc).st = .full)))
  | .tzero n => need 3 (idle && (x.accOf n).st ≠ .active)
  | .tdrain n _ r _ _ _ => match s.ring? c r.toNat with
    | none => []
    | some g => need 3 (idle && (x.accOf n).st = .full) ++ need 4 (g.tailSlot.st = .empty)
  | .tload n r _ => match s.ring? c r.toNat with
    | none => []
    | some g => need 0 (g.fullRun (loadSlots (tagFmt (g.tagAt g.head 0)))) ++ need 3 (idle && (x.accOf n).st = .empty)
  | .taddr n r _ => match s.ring? c r.toNat with
    | none => []
    | some g => need 0 (g.fullAt g.head 0) ++ need 3 (idle && (x.accOf n).st ≠ .active)
  | .ttrans r p o => match s.ring? c r.toNat, s.ring? c o.toNat with
    | some g, some k =>
      let w := transSlots (tagFmt (g.tagAt g.head 0))
      let k' := if transSame r o p then g.popN w else k
      need 0 (g.fullRun w) ++ need 3 idle ++ need 4 (k'.claimN .matrix w).isSome
    | _, _ => []
  | _ => []

/-- The accumulator that an M word names. -/
def accNamed (i : Instr) : List (BitVec 3) :=
  match i with
  | .tmma f | .tmmag f _ _ | .tmmax f _ _ => [f.acc]
  | .tzero n | .tdrain n _ _ _ _ _ | .tload n _ _ | .taddr n _ _ => [n]
  | _ => []

/-- The conditions that a word does not meet. -/
def State.unmet (s : State) (u : UnitId) (e : Nat × Instr) : List Nat :=
  match e.2.eview, e.2.vtrig with
  | some v, _ => s.unmetE u e v
  | none, some t => s.unmetV u e t
  | none, none => s.unmetM u e.2

/-- What a word waits for whose scoreboard condition is not met. -/
def State.boardKeys (s : State) (u : UnitId) (e : Nat × Instr) : List Nat :=
  if (guardOf e.2).isSome then s.waitsFor u e
  else if (s.mat u).seq.isSome then [seqKey]
  else (accNamed e.2).map (fun n => accKey n.toNat)

/-- A condition of a slot is not met in a cycle. -/
def Notes.fail (n : Notes) (slot cyc code : Nat) : Notes := { n with failed := n.failed.set (slot, code) cyc }

/-- The conditions of one slot in a cycle: a bank that is not there is condition 5, whatever the slot holds. -/
def State.noteSlot (s : State) (u : UnitId) (n : Notes) (slot : Nat) : Notes :=
  if !s.bankOk u slot then n.fail slot s.cyc 5
  else match s.wordAt u slot with
    | none => n
    | some i =>
      let f := s.freed u
      let l := f.unmet u (slot, i)
      let n := l.foldl (fun n c => n.fail slot s.cyc c) n
      if l.contains 3 then { n with waits := n.waits.set slot (f.boardKeys u (slot, i)) } else n

/-- The notes of an element. -/
def State.notesOf (s : State) (u : UnitId) : Notes := s.notes.get u {}

/-- The conditions of every element of a running region in the cycle that ends. -/
def State.noteUnmet (s : State) : State :=
  { s with notes := s.units.foldl (fun m e =>
      if (s.region e.1.region).runs then m.set e.1 ((List.range 32).foldl (s.noteSlot e.1) (m.get e.1 {})) else m) s.notes }

/-! ## A firing (R390) -/

/-- The number of an element. -/
def unitNumber (u : UnitId) : Nat := (8 * u.region + u.cell) * 32 + u.sub

/-- The condition that a firing met last: of those it meets now the one that was last not met; which of several is a free value. -/
def State.lastMet (s : State) (u : UnitId) (e : Nat × Instr) : Nat :=
  let n := s.notesOf u
  let now := (s.freed u).unmet u e
  let was := ([0, 1, 2, 3, 4, 5].filter (fun c => !now.contains c)).filterMap (fun c => (n.failed.get? (e.1, c)).map (fun k => (c, k)))
  let top := was.foldl (fun m p => max m p.2) 0
  let l := if was.isEmpty then [0, 1, 2, 3, 4] else (was.filter (fun p => p.2 = top)).map Prod.fst
  l.getD (Config.walkLast s.cyc (unitNumber u) % l.length) 0

/-- The channel of a source. -/
def Src.chan? : Src → Option (BitVec 3)
  | .take i => some i
  | .keep i => some i
  | _ => none

/-- The channels that a word takes as operand a, code 0, and as operand b, code 1. -/
def State.operandChans (s : State) (u : UnitId) (i : Instr) (code : Nat) : List Nat :=
  let ins := (i.eview.map EView.ins).getD []
  match i with
  | .mergec t _ iT iF iC =>
      if code = 0 then [iC.toNat]
      else match s.readSrc u t.ctx (.take iC) with
        | some x => [(mergeSide iT iF x.val).toNat]
        | none => []
  | .vlds _ _ k => if code = 0 then [k.toNat] else []
  | _ => ((if code = 0 then ins.take 1 else ins.drop 1).filterMap Src.chan?).map BitVec.toNat

/-- The latest earlier firing of an element that wrote one of some registers. -/
def Notes.writer (n : Notes) (u : UnitId) (keys : List Nat) : Origin :=
  match n.held.find? (fun f => f.writes.any (fun k => keys.contains k)) with
  | some f => if f.mem then .memory else .firing u f.tick
  | none => .lost

/-- The producer of the condition that a firing met last: the token's, or the earlier firing that wrote the guard or register. -/
def State.producer (s : State) (u : UnitId) (e : Nat × Instr) (last : Nat) : Origin :=
  let n := s.notesOf u
  match last with
  | 0 | 1 => ((s.operandChans u e.2 last).findSome? (fun i => (s.head? u i).map Tok.origin)).getD .lost
  | 2 => n.writer u (match guardOf e.2 with
      | some t => [pKey t.ctx.toNat t.pred.toNat]
      | none => [])
  | 3 => n.writer u (n.waits.get e.1 [])
  | _ => .lost

/-- The note of the firing of a word, whose issue leaves the element as t. A matrix word has no ticket: its cycle names it. -/
def State.noteOf (s : State) (u : UnitId) (e : Nat × Instr) (ctx : Nat) (t : EUnit) : FNote :=
  let last := s.lastMet u e
  { tick := if u.sub = 18 then s.cyc else s.ticket
    node := (s.nodeOf u e.1).getD 0xFFFF
    word := s.walkWord u e.1 ctx
    last := last
    by_ := s.producer u e last
    mem := t.reqs.length ≠ (s.unit u).reqs.length
    writes := firingWrites (s.unit u) t ctx }

/-- An element holds the notes of its latest 64 firings; the slot's conditions are noted anew. -/
def Notes.push (n : Notes) (slot : Nat) (f : FNote) : Notes :=
  { held := (f :: n.held).take 64, failed := n.failed.filter (fun e => e.1.1 ≠ slot), waits := n.waits.filter (fun e => e.1 ≠ slot) }

/-- The element as the word of a slot leaves it, where the word issues: one that raises its cause fires not. -/
def State.fires? (s : State) (u : UnitId) (e : Nat × Instr) : Option EUnit :=
  match exec e.2 (s.at_ u e.1) with
  | .next t => if (t.unit u).issued then some (t.unit u) else none
  | _ => none

/-! ## Walks (R387, R388, R390) -/

/-- The records of a walk from a firing of element u at a depth: each names its own region and firing and the walk of the region
`home`; the last carries the end code. -/
def State.walkFrom (s : State) (home wid : Nat) : Nat → Nat → UnitId → FNote → List (List Word)
  | 0, _, _, _ => []
  | fuel + 1, d, u, n =>
    let rec_ (fin : Nat) : List Word := nodeRecord u.region wid d n.last fin n.node n.word
    if n.last = 4 then [rec_ 4]
    else if n.last = 5 then [rec_ 5]
    else match n.by_ with
      | .primed => [rec_ 1]
      | .memory => [rec_ 2]
      | .outside => [rec_ 3]
      | .lost => [rec_ 7]
      | .firing v t =>
        if (s.region v.region).launch ≠ (s.region home).launch then [rec_ 3]
        else if 63 ≤ d then [rec_ 6]
        else match (s.notesOf v).held.find? (fun m => m.tick = t) with
          | none => [rec_ 7]
          | some m => rec_ 0 :: s.walkFrom home wid fuel (d + 1) v m

/-- A sampled firing: a walk starts at every 2^k-th (R387). -/
def State.startWalk (s : State) (u : UnitId) (n : FNote) : State :=
  let R := s.region u.region
  if s.traceOpen && R.walkStarts n.node then
    let c := R.traceWalks
    let recs := if c % 2 ^ bitsOf R.traceCfg 8 5 = 0 then
        (s.walkFrom u.region (c / 2 ^ bitsOf R.traceCfg 8 5) 64 0 u n).map TraceEv.words else []
    s.modRegion u.region (fun R => { R with traceWalks := c + 1, tracePend := R.tracePend ++ recs })
  else s

/-- A firing of a slot in a context is noted, and a walk starts where it is sampled (R387, R390). -/
def State.traceFiring (s : State) (u : UnitId) (slot ctx : Nat) : State :=
  match s.wordAt u slot with
  | none => s
  | some i => match s.fires? u (slot, i) with
    | none => s
    | some t =>
      let n := s.noteOf u (slot, i) ctx t
      State.startWalk { s with notes := s.notes.set u ((s.notesOf u).push slot n) } u n

end Sys2Proof.Machine
end

