-- ==== Sys2Proof/Machine/Cycle.lean ====
section
/-! DEFINITION. The end of a cycle and the agenda of the next (notes/assumptions/1): counts, clocks, what a cycle lets
pass (spec/06 R109, spec/07 R122, spec/08 R135, R144-R151, spec/18 R375-R381, spec/19 R396, R399). -/

namespace Sys2Proof.Machine

/-! ## Counts of the cycle that ends -/

/-- The distinct values of a list, in order. -/
def distinctNat : List Nat → List Nat
  | [] => []
  | x :: xs => x :: (distinctNat xs).filter (fun y => y ≠ x)

/-- Does port p of a region withhold an access? -/
def Region.withholds (R : Region) (p : Nat) : Bool := (R.heldSince.get? p).isSome

/-- Withheld cycles of a region and its ports, a half that a segment withholds among them (R377, R379, R397). -/
def State.countHeld (s : State) (r : Nat) : State :=
  let kv := s.kv.filterMap (fun h => if h.held && h.region = r then (h.cmd.bind (s.cmdOfTick r)).map (fun c => 4 + c.port) else none)
  let ps := (List.range 20).filter (fun p => (s.region r).withholds p || kv.contains p)
  let s := ps.foldl (fun s p => s.countPort r p 11 1) s
  if ps.isEmpty then s else s.count r 0x11 1

/-- One commit-wait cycle at a port (R148, R377, R379). -/
def State.countCommit (s : State) (u : UnitId) : State := (s.countPort u.region (unitPort u) 8 1).count u.region 0x0D 1

/-- The ports of the stamped stores that wait for visibility, from their acceptance on: one entry for each (R148). -/
def State.commitWaits (s : State) : List UnitId :=
  s.stamped.filterMap (fun x => match x.wait with
    | .port u _ => some u
    | _ => none) ++
  s.units.flatMap (fun e => (e.2.reqs.filter (fun q => q.stage ≠ .stamped && (match q.op with
    | .stsc _ => true
    | _ => false))).map (fun _ => e.1))

/-- Does the matrix sequencer wait for a slot (R241, R248)? -/
def State.operandWait (s : State) (u : UnitId) : Bool :=
  match (s.unit u).mat.seq with
  | some q =>
    match s.macRings u.cellId q.word with
    | some (f, a, b, sa, sb) => s.alive u && !q.started && decide (q.k < tileCount f) && !macFull q.word a b sa sb q.hA q.hB q.hSA q.hSB q.k
    | none => false
  | none => false

/-- Does an XSEND wait for its permit, its row's header present (R377)? -/
def State.permitWait (s : State) (u : UnitId) : Bool :=
  u.sub = 23 && (s.wordsOf u).any (fun e => match e.2 with
    | .xsend _ _ iS iP => (s.ownHead u iS.toNat).isSome && (s.ownHead u iP.toNat).isNone
    | _ => false)

/-- Is a command's oldest unperformed element outstanding at its port, or withheld (R380)? -/
def State.elemWaits (s : State) (r : Nat) (c : Cmd) : Bool :=
  c.started && (c.held || c.walked || c.waitKv || decide (c.done < c.asked)) && !s.ringWaits r c

/-- The heat of a stream element that is outstanding or withheld (R380). -/
def State.countStarved (s : State) (r : Nat) (c : Cmd) : State :=
  s.forCmd r c (fun s =>
    if s.elemWaits r c then s.modHeat r c.port (c.far.addr c.done) (fun h => { h with starved := min (h.starved + 1) (2 ^ 32 - 1) }) else s)

/-- The starved counts of the ports of a region. -/
def State.countHeat (s : State) (r : Nat) : State :=
  (distinctNat ((s.region r).cmds.map Cmd.port)).foldl (fun s p => (s.portCmds r p).foldl (fun s c => s.countStarved r c) s) s

/-- A region's counts (R377, R381). -/
def State.countRegion (s : State) (r : Nat) : State :=
  let R := s.region r
  if R.launch.isNone then s.countHeat r
  else
    let us := (s.units.filter (fun e => e.1.region = r)).map Prod.fst
    let s1 := (s.count r 0x00 1).countHeld r
    let s2 := (us.filter s.operandWait).foldl (fun s _ => s.count r 0x09 1) s1
    let s3 := if us.any s.permitWait then s2.count r 0x0C 1 else s2
    let s4 := R.fetches.foldl (fun s _ => s.countEvent r 6 R.tag 1) s3
    s4.countHeat r

/-! ## Quiet cycles and the end of a phase (R122, R396) -/

/-- R122 conditions 1 and 2 on a unit; a word is ready by R94 whether or not a cause stops its element. -/
def State.unitIdle (s : State) (u : UnitId) (x : EUnit) : Bool :=
  x.flights.isEmpty && x.multi.isNone && x.marks.isEmpty && x.reqs.isEmpty && x.vec.loads.isEmpty && x.vec.sends.isEmpty &&
    x.mat.seq.isNone && x.sends.isEmpty && ((s.setUnit u { x with efault := 0 }).pickWord u).isNone

/-- R122 condition 3: a command toward a destination in the region; a KV command's is there when a segment of
its slot is. -/
def State.cmdInward (s : State) (r : Nat) (c : Cmd) : Bool :=
  !c.rec_.out && (decide (c.rec_.dest ≤ 2) ||
    (c.rec_.dest = 3 && !(slotSegs s.mem r (c.rec_.target % 2 ^ 13)).isEmpty))

/-- R122 conditions 4 and 5 on a channel. -/
def chanIdle (r : Nat) (tag : Byte) (k : Sink) (c : Chan) : Bool :=
  match k with
  | .inp u _ =>
      u.region ≠ r ||
      (c.places.all (fun p => p.2.all (fun t => t.tag ≠ tag)) &&
       c.hops.all (fun h => h.waiting.all (fun t => t.tag ≠ tag) && h.wire.all (fun t => t.tag ≠ tag)) &&
       decide ((c.inq.filter (fun t => t.tag = tag)).length ≤ c.primedN))
  | .pipe _ _ _ => c.src.all (fun p => p.1.region ≠ r) || (c.inq.isEmpty && c.places.isEmpty)

/-- Does a pipeline port of a placement stand in a region: the region of its header's output? -/
def Placement.portIn (p : Placement) (k r : Nat) : Bool :=
  let n := p.img.pipes.reports.length
  match (if k < n then p.img.pipes.reports[k]?.map (fun e => e.2.1) else p.img.pipes.kvs[k - n]?.map (fun e => e.2.1)) with
  | some e => (p.endUnit e).region = r
  | none => false

/-- Has no pipeline port of a region a half-write or report in hand (R421, R422)? -/
def State.pipesIdle (s : State) (r : Nat) : Bool :=
  match (s.region r).launch with
  | none => true
  | some id =>
    s.kv.all (fun h => h.region ≠ r || h.stage.all (fun (p : Nat × Nat) => p.1 ≠ id)) &&
    (match s.placement? id with
      | some p => p.pipes.all (fun e => !p.portIn e.1 r || e.2.report.isNone)
      | none => true)

/-- Does no element of a region await a bank fetch (R120)? -/
def State.banksReady (s : State) (r : Nat) : Bool :=
  (s.region r).fetches.isEmpty &&
    s.units.all (fun e => e.1.region ≠ r || (List.range 4).all (fun b => !s.bankWanted e.1 b))

/-- Do R122's conditions hold in this cycle? A bank that is being fetched is an access outstanding (notes/assumptions/91). -/
def State.phaseIdle (s : State) (r : Nat) : Bool :=
  let R := s.region r
  R.cmds.all (fun c => c.owner ≠ R.launch || !s.cmdInward r c) && s.pipesIdle r && s.chans.all (fun e => chanIdle r R.tag e.1 e.2) &&
    (s.units.filter (fun e => e.1.region = r)).all (fun e => s.unitIdle e.1 e.2) && s.banksReady r

/-- What the end of a cycle makes of a region's own counts and switches (R122, R264, R266, R375, R396, R399). -/
def State.endRegion (s : State) (r : Nat) (R : Region) : Region :=
  { R with
    astatOld := R.astat
    astatSet := 0
    amode := R.amodeNext.getD R.amode
    amodeNext := none
    ctrNow := []
    busy := false
    pfTold := R.pfTold.filter (fun p => (R.heldSince.get? p).any (fun n => 0 < n))
    heldSince := if R.frozen.isSome then R.heldSince else R.heldSince.map (fun e => (e.1, e.2 + 1))
    idle := if R.launch.isNone || R.stop then 0 else if R.frozen.isSome then R.idle else if s.phaseIdle r then R.idle + 1 else 0
    quiet := if R.launch.isNone || R.stop then 0
      else if R.frozen.isSome || R.drain.isSome || !R.heldSince.isEmpty then R.quiet
      else if R.busy then 0 else R.quiet + 1 }

/-! ## Channels (R109, R133-R136) -/

/-- A hop puts a flit of at most n tokens on its link, once the one before has arrived. -/
def Hop.send (up : Nat → Bool) (cyc n : Nat) (h : Hop) : Hop :=
  if h.wire.isEmpty && up h.link then { h with wire := h.waiting.take n, waiting := h.waiting.drop n, sentAt := cyc } else h

/-- Tokens that have left the first link's sender and have not been credited: the input holds room for each (R109, R133). -/
def Chan.sent (c : Chan) : Nat :=
  c.inq.length + c.owed +
    (match c.hops with
      | [] => 0
      | h :: hs => h.wire.length + (hs.map (fun h => h.waiting.length + h.wire.length)).sum)

/-- Tokens move on: from placed to the first link, and one flit of up to six per link, the first link's as far as the input has
room. -/
def moveHops (up : Nat → Bool) (cyc : Nat) (c : Chan) : Chan :=
  match c.hops with
  | [] => c
  | h :: hs =>
      let (ts, ps) := splitFilled c.places
      { c with
        places := ps
        hops := ({ h with waiting := h.waiting ++ ts }.send up cyc (min 6 (c.cap - c.sent))) :: hs.map (Hop.send up cyc 6) }

/-- Credits of a channel without die edges reach its producer with the next cycle; a frozen consumer gives none, nor does an input
that a drain has shut (R400, R404). What was placed for a pipeline port comes to stand there. -/
def State.endChan (s : State) (k : Sink) (c : Chan) : Chan :=
  let frozen := match k with
    | .inp u _ => (s.region u.region).frozen.isSome
    | .pipe _ _ _ => c.src.any (fun p => (s.region p.1.region).frozen.isSome)
  let c0 := match k with
    | .inp _ _ => c
    | .pipe _ _ _ => if frozen then c else c.settlePipe
  let c1 := if c0.hops.isEmpty && !frozen && !c0.shut then { c0 with owed := 0 } else c0
  moveHops s.linkUp s.cyc c1

/-- Tokens that go onto a link are credits outstanding on their context until they are dequeued (R133, R364). -/
def State.creditsSent (s : State) (c c' : Chan) : State :=
  (c.hops.zip c'.hops).foldl (fun s (h, h') =>
    if h.wire.isEmpty then s.modLink h.link (fun L => L.modCtx h.dir h.ctx (fun x => { x with credits := x.credits + h'.wire.length }))
    else s) s

/-! ## Clocks (R144, R151, R368) -/

/-- True time goes on, and each die's interval stays around it. -/
def State.tickClocks (s : State) : State :=
  let t := s.now + Config.clockStep s.cyc
  { s with
    now := t
    dies := (List.range 9).map (fun d =>
      let D := s.die d
      let e := max D.e (min (Config.clockE d s.cyc) t)
      let l := max D.l (max (Config.clockL d s.cyc) t)
      (d, { D with e := e, l := l, narrow := if D.wide && decide (2 * (l - e) ≤ s.dev.iwlim.toNat) then D.narrow + 1 else 0 })) }

/-- P1 ends by itself once no region is gated (R446). -/
def State.endP1 (s : State) : State :=
  if s.enc.power = .p1 && s.regions.all (fun e => !e.2.gated) then s.modEnc (fun e => { e with power := .p0 }) else s

/-! ## The agenda (notes/assumptions/1) -/

/-- Insert an agent by its rank. -/
def insRank {α : Type} (e : Nat × α) : List (Nat × α) → List (Nat × α)
  | [] => [e]
  | f :: fs => if e.1 ≤ f.1 then e :: f :: fs else f :: insRank e fs

/-- Agents in the order in which they move in this cycle, which is free (R2). -/
def State.mixed {α : Type} (s : State) (l : List α) : List α :=
  (l.zipIdx.foldr (fun (x, k) acc => insRank (Config.order s.cyc k, x) acc) []).map Prod.snd

/-- The agents that do not stand still in this cycle (R2). -/
def State.moving {α : Type} (s : State) (kind : Nat) (l : List α) : List α :=
  (l.zipIdx.filter (fun e => !Config.waits s.cyc (16 * e.2 + kind))).map Prod.fst

/-- The commands of a region that end. -/
def endsOf (r : Nat) (R : Region) : List Own := (distinctNat (R.cmds.map Cmd.port)).map (fun p => Own.streamCommandComplete r p)

/-- What ends, expires and is decided before the cores move, once commands have ended: phases, promises, limits, freezes,
drains. -/
def regionFirst (r : Nat) (R : Region) : List Own :=
  (if R.launch.isSome && decide (16 ≤ R.idle) then [Own.phaseEnd r] else []) ++
  (R.handles.filter (fun e => e.2.st = .filling && e.2.watch && !e.2.missed)).map (fun e => Own.promiseMissed r e.1) ++
  (if R.launch.isSome && R.wdlim ≠ 0 && decide (R.wdlim.toNat ≤ R.quiet) then [Own.watchdogExpiry r] else []) ++
  R.heldSince.map (fun e => Own.pflimitFreeze r e.1) ++
  (match R.frozen with
    | some f => if f.read then [] else [Own.freezeWave r, Own.freezeReadoutComplete r]
    | none => []) ++
  (if R.drain.isSome then [Own.drainComplete r, Own.drainTimeout r] else [])

/-- The scheduler's own steps, and the messages it routes. -/
def Hub.decisions (h : Hub) : List Own :=
  (match h.preempting with
    | some _ => (List.range 80).map Own.drainStart
    | none => if h.launches.isEmpty then [] else [Own.preemption]) ++
  (h.launches.filter (fun e => e.2.prio ≠ 0 && (e.2.st = .queued || e.2.st = .swapped))).map (fun e => Own.agelimPromotion e.1) ++
  h.outbox.map (fun _ => Own.messageRoute) ++
  (distinctNat (h.parked.map Prod.fst)).map Own.parkedMessageDeliver ++
  h.placements.map (fun e => Own.placementComplete e.1) ++
  h.completions.map (fun c => Own.completionRecordWrite c.id) ++
  (if h.waiting.isEmpty then [] else [Own.scheduleDecision])

/-- What lands, arrives and is placed in an element, and the fetches of its banks. -/
def State.unitSteps (s : State) (u : UnitId) (x : EUnit) : List Own :=
  (x.flights.filter (fun f => f.due ≤ s.cyc)).map (fun _ => Own.writeBack u) ++
  (if x.multi.isSome || !x.marks.isEmpty then [Own.multiTokenPlace u] else []) ++
  x.vec.loads.map (fun l => Own.vldsTokenTake u l.inp) ++
  x.vec.sends.map (fun l => Own.vstsTokenPlace u l.out) ++
  ((List.range 4).filter (s.bankWanted u)).map (fun b => Own.bankFetch u b)

/-- The page walks in hand at a region's ports. -/
def State.walksOf (s : State) (r : Nat) (R : Region) : List Own :=
  ((List.range 4).filter (fun p => (s.unit ⟨r, 4 * p, 19⟩).reqs.any (fun q => q.stage = .walking))).map (fun p =>
    Own.pageWalkComplete r p) ++
  (distinctNat ((R.cmds.filter (fun c => c.walked && !c.held)).map Cmd.port)).map (fun p => Own.pageWalkComplete r (4 + p))

/-- The agents of the memory system, each with its steps: a request at an element's port, a store of a core, a bank's fill, a walk,
a stream port, a KV half; they may stand still in a cycle. -/
def State.memoryAgents (s : State) : List (List Own) :=
  s.units.flatMap (fun e => (List.range e.2.reqs.length).map (fun k => [Own.memoryAccessComplete (.port e.1) k])) ++
  s.regions.flatMap (fun e => (List.range e.2.core.stores.length).map (fun k => [Own.memoryAccessComplete (.core e.1) k])) ++
  s.regions.flatMap (fun e => (e.2.fetches.map (fun f => Own.bankFill f.u f.bank) ++ s.walksOf e.1 e.2).map (fun o => [o])) ++
  s.regions.flatMap (fun e => (distinctNat (e.2.cmds.map Cmd.port)).map (fun p =>
    [Own.streamCommandStart e.1 p, Own.streamElementPerform e.1 p])) ++
  (List.range s.kv.length).map (fun k => [Own.kvHalfWrite k])

/-- The matrix nodes that have a word in sequence. -/
def State.matrixAgents (s : State) : List (List Own) :=
  (s.units.filter (fun e => e.2.mat.seq.isSome)).map (fun e => [Own.mWordRetire e.1, Own.tilePairRetire e.1, Own.tilePairStart e.1])

/-- A region's notices. -/
def noticeSteps (r : Nat) (R : Region) : List Own :=
  match R.notices with
  | [] => []
  | _ => [Own.noticeApplyStage r, Own.noticeApplySegment r, Own.establishNoticeApply r]

/-- What arrives over a channel without die edges, and the credits of one with die edges. -/
def chanSteps (e : Sink × Chan) : List Own :=
  match e.1 with
  | .pipe _ _ _ => []
  | .inp u i =>
      if e.2.hops.isEmpty then (splitFilled e.2.places).1.map (fun _ => Own.tokenArrival u i)
      else match e.2.hops.getLast? with
        | some h => if e.2.owed = 0 then [] else [Own.creditReturn h.link h.dir h.ctx]
        | none => []

/-- The flits of a channel that are under way. -/
def flitSteps (e : Sink × Chan) : List Own :=
  (e.2.hops.reverse.filter (fun h => !h.wire.isEmpty)).map (fun h => Own.flitArrival h.link h.dir h.ctx)

/-- Stamped traffic and the exchange, each store, read and pair an agent. -/
def State.stampAgents (s : State) : List (List Own) :=
  (List.range s.stamped.length).map (fun k => [Own.stampedInstall k]) ++
  ((List.range s.stamped.length).reverse).map (fun k => [Own.stampedVisible k]) ++
  ((List.range s.ldas.length).reverse).map (fun k => [Own.ldasReturn k]) ++
  s.pairs.map (fun e => [Own.exchangeReceiveToken e.1, Own.exchangeSendToken e.1, Own.exchangeRelease e.1])

/-- Widths and the system floor's stall are looked at in every cycle; the floor is broadcast every 64 (R146, R151, R152). -/
def State.timeSteps (s : State) : List Own :=
  ((List.range 9).filter (fun d => !(s.die d).wide)).map Own.widenedStateEntry ++
  ((List.range 9).filter (fun d => (s.die d).wide)).map Own.widenedStateExit ++
  [Own.systemFloorStall] ++ (if s.cyc % 64 = 0 && 0 < s.cyc then [Own.floorBroadcast] else [])

/-- The pipeline ports, each an agent. -/
def State.pipeSteps (s : State) : List Own :=
  s.hub.placements.flatMap (fun (id, p) =>
    (List.range (p.img.pipes.reports.length)).map (fun k => Own.reportPortTake id k) ++
    (List.range p.img.pipes.kvs.length).map (fun k => Own.kvPortTake id (p.img.pipes.reports.length + k)))

/-- The hub's steps: sequences, pipeline ports, messages. -/
def State.hubSteps (s : State) : List Own :=
  let h := s.hub
  h.slots.flatMap (fun (n, x) =>
    x.ackStages.map (fun id => Own.stageAcknowledge id n) ++ (if x.unsettled then [Own.settle n] else []) ++
    (if x.st = .waiting then [Own.slotActivate n] else []) ++ (if x.st = .draining then [Own.slotFree n] else [])) ++
  (if h.reports.isEmpty then [] else [Own.squashReport]) ++
  (if h.slots.isEmpty then [] else [Own.stepBuilderMicrobatch]) ++
  s.links.filterMap (fun e => if !e.2.down && decide (0 < e.2.retries) then some (Own.linkDown e.1) else none) ++
  (if s.dev.io.ingest.isEmpty then [] else [Own.ingestComplete]) ++
  (if s.dev.io.checkpoint.isEmpty then [] else [Own.checkpointCopy]) ++
  s.regions.flatMap (fun e => e.2.tracePend.map (fun _ => Own.traceRecordWrite)) ++
  (if s.cyc % 2 ^ 20 = 0 then [Own.traceAnchor] else [])

/-- Does an element take an issue turn: its region runs, and it holds words? -/
def State.takesTurn (s : State) (u : UnitId) (x : EUnit) : Bool :=
  (s.region u.region).runs && x.banks.any (fun b => !b.2.words.isEmpty)

/-- The agents of a cycle: control cores, memory system, flits, stamped traffic and exchange, nodes, pipeline ports, the hub, and the
elements' issue turns. They move in a free order, and those of the memory system and of the links may stand still (R2). -/
def State.agents (s : State) : List (List Turn) :=
  let own (l : List (List Own)) : List (List Turn) := l.map (fun a => a.map Turn.own)
  (s.regions.filter (fun e => decide (e.1 < 80) && e.2.launch.isSome)).map (fun e => [Turn.core e.1]) ++
  own (s.moving 1 s.memoryAgents) ++
  own (s.moving 2 (s.chans.map flitSteps)) ++
  own (s.moving 3 s.stampAgents) ++
  own s.matrixAgents ++
  own (s.pipeSteps.map (fun o => [o])) ++
  own (s.hubSteps.map (fun o => [o])) ++
  (s.units.filter (fun e => unitExists e.1 && s.takesTurn e.1 e.2)).map (fun e => [Turn.unit e.1])

/-- What the machine does of itself in a cycle: what ends, expires and is decided, then what lands and arrives, then its agents
(R2, notes/assumptions/1). -/
def State.ownTurns (s : State) : List Turn :=
  let own (l : List Own) : List Turn := l.map Turn.own
  own (s.regions.flatMap (fun e => endsOf e.1 e.2)) ++
  own (s.regions.flatMap (fun e => regionFirst e.1 e.2)) ++
  own s.timeSteps ++
  own s.hub.decisions ++
  own (s.units.flatMap (fun e => s.unitSteps e.1 e.2)) ++
  own (s.regions.flatMap (fun e => noticeSteps e.1 e.2)) ++
  own (s.chans.flatMap chanSteps) ++
  (s.mixed s.agents).flatten

/-- Is an input the end of a bring-up phase? -/
def endsPhase : Instr → Bool
  | .bringupPhaseComplete => true
  | _ => false

/-- The turns of a cycle, in order; without power only the environment moves. What arrives in the cycle that ends a bring-up phase
finds the next (R442). -/
def State.turnsOf (s : State) : List Turn :=
  let due := (s.inputs.filter (fun e => e.1 ≤ s.cyc)).map Prod.snd
  ((due.filter endsPhase) ++ due.filter (fun i => !endsPhase i)).map Turn.event ++ (if s.dev.off then [] else s.ownTurns)

/-- Take the turns of the cycle that begins; inputs that are due leave the list. -/
def State.openCycle (s : State) : State :=
  { s with agenda := s.turnsOf, inputs := s.inputs.filter (fun e => s.cyc < e.1) }

/-- An input that is held back: it stands among the overdue ones, behind those held back before it and before what comes
later, and arrives again in the next cycle. -/
def State.delay (s : State) (i : Instr) : State :=
  { s with inputs := s.inputs.filter (fun e => e.1 ≤ s.cyc) ++ [(s.cyc, i)] ++ s.inputs.filter (fun e => s.cyc < e.1) }

/-- An input that asked to arrive again is held back. -/
def State.settleInput (s : State) : State :=
  match s.again, s.inHand with
  | true, some i => { s.delay i with again := false, inHand := none }
  | _, _ => { s with again := false, inHand := none }

/-- The host function whose posted write an input is (R432). -/
def postedBy : Instr → Option Nat
  | .hostLaunchWrite prio _ _ _ => some prio.fn
  | .launchCancel _ id => some id.fn
  | .hostMessageWrite _ dest _ => some dest.fn
  | .hostBar2Access write off _ _ => if write then some off.fn else none
  | .portResumeWrite r _ => some r.fn
  | .translationInvalidate r => some r.fn
  | .registerWrite off _ => some off.fn
  | .ingestDescriptor d => some d.fn
  | .checkpointDescriptor d => some d.fn
  | _ => none

/-- Does a posted write wait behind one of its function that is held back in this cycle (R434)? -/
def State.behind (s : State) (i : Instr) : Bool :=
  (postedBy i).isSome && s.inputs.any (fun e => e.1 ≤ s.cyc && decide (postedBy e.2 = postedBy i))

/-- The requesters that lost a bank in this cycle: they stand before the bank again in the next (R292). -/
def State.losers (s : State) : List ((Nat × Nat) × Nat) :=
  s.bankTried.filter (fun w => !(s.banksBusy.contains w.1 && s.bankLast.get? w.1 = some w.2))

/-- The end of a cycle, and the agenda of the next. Without power the clock stands at 0 (R368), and the time until an input
comes runs on. -/
def State.endCycle (s : State) : State :=
  if s.dev.off then State.openCycle { s with inputs := s.inputs.map (fun e => (e.1 - 1, e.2)) }
  else
    let s1 := s.noteUnmet.commitWaits.foldl State.countCommit ((s.regions.map Prod.fst).foldl State.countRegion s.noteUnmet)
    let chans := s1.chans.map (fun e => (e.1, s1.endChan e.1 e.2))
    let s2 : State := { s1 with
      regions := s1.regions.map (fun e => (e.1, s1.endRegion e.1 e.2))
      units := s1.units.map (fun e => (e.1, { e.2 with issued := false }))
      chans := chans
      banksBusy := []
      bankWant := s1.losers
      bankTried := [] }
    let s3 := (s1.chans.zip chans).foldl (fun s e => s.creditsSent e.1.2 e.2.2) s2
    let s4 := s3.tickClocks.refreshLaunches.endP1
    State.openCycle { s4 with cyc := s.cyc + 1 }

end Sys2Proof.Machine
end

