-- ==== Sys2Proof/Machine/Turn.lean ====
section
/-! DEFINITION. One turn of the agenda: what the machine does next (notes/assumptions/1). -/

namespace Sys2Proof.Machine

/-- What a turn is: nothing runs, an instruction runs, one of the hardware's own steps runs, or the agenda names an agent
that does not exist. -/
inductive TurnOut where
  | quiet (s : State)
  | run (i : Instr) (s : State)
  | own (o : Own) (s : State)
  | bad

/-- Does a core stand in an SBIND, which a freeze by the hub lets complete (R336, R400)? -/
def Core.binding (k : Core) : Bool := match k.stall with
  | some (.sbind _ _) | some .record => true
  | _ => false

/-- A core's turn (R258, R268, R272-R275): a pending cause first, then the end of a wait, then the next instruction. -/
def State.coreTurn (s : State) (r : Nat) : TurnOut :=
  let R := s.region r
  let k := R.core
  if 80 ≤ r then .bad
  else if R.launch.isNone || (R.coreFrozen && !k.binding) || k.run = .doubleFault then .quiet s
  else if k.stall.isNone && !k.handler && k.pend.take?.isSome then .own (.trapEntry r) s
  else if k.wait.isSome then .own (.waitComplete r) s
  else match k.stall with
    | some (.sts _ _) => .quiet s
    | some (.ldas _ _) => .quiet s
    | some (.nak _) => .quiet s
    | st =>
      let s1 : State := { s with site := { s.site with region := r } }
      if !k.inCode k.pc then .own .fetchOutsideCodeArea s1
      else match decodeC (s.coreWord r) with
        | .error _ => .own (.illegalWord (s.coreWord r)) s1
        | .ok i => .run i (if st.isNone then s1.traceIssue r (issuePort i) else s1)

/-- An element's turn (R95, R106): the word that is ready; where none is, the lowest one waits and stalls are counted. -/
def State.unitTurn (s : State) (u : UnitId) : TurnOut :=
  if !unitExists u then .bad
  else if (s.unit u).issued then .quiet s
  else if !s.alive u then .quiet (s.countStalls u)
  else match s.pickWord u with
    | some (n, i) => .run i ((s.traceFiring u n (ctxOf i)).at_ u n)
    | none => match s.wordsOf u with
      | (n, i) :: _ => .run i ((s.countStalls u).at_ u n)
      | [] => .quiet s

/-- The next turn: the end of a cycle where the agenda is empty. -/
def State.turn (s : State) : TurnOut :=
  let s := s.settleInput
  match s.agenda with
  | [] => .quiet s.endCycle
  | t :: ts =>
    let s : State := { s with agenda := ts }
    match t with
    | .core r => s.coreTurn r
    | .unit u => s.unitTurn u
    | .own o => .own o s
    | .event i => if i.class?.isSome then .quiet s else if s.behind i then .quiet (s.delay i) else .run i { s with inHand := some i }

/-- One of the hardware's own steps: the meaning of the instruction of that name. -/
def Own.run (o : Own) (s : State) : Host.Outcome State Fault Refusal :=
  match o with
  | .writeBack u => execWriteBack u s
  | .tokenArrival u i => execTokenArrival u i s
  | .multiTokenPlace u => execMultiTokenPlace u s
  | .vldsTokenTake u i => execVldsTokenTake u i s
  | .vstsTokenPlace u o => execVstsTokenPlace u o s
  | .bankFetch u b => execBankFetch u b s
  | .bankFill u b => execBankFill u b s
  | .tilePairStart u => execTilePairStart u s
  | .tilePairRetire u => execTilePairRetire u s
  | .mWordRetire u => execMWordRetire u s
  | .phaseEnd r => execPhaseEnd r s
  | .placementComplete id => execPlacementComplete id s
  | .completionRecordWrite id => execCompletionRecordWrite id s
  | .scheduleDecision => execScheduleDecision s
  | .agelimPromotion id => execAgelimPromotion id s
  | .preemption => execPreemption s
  | .watchdogExpiry r => execWatchdogExpiry r s
  | .pflimitFreeze r p => execPflimitFreeze r p s
  | .promiseMissed r h => execPromiseMissed r h s
  | .trapEntry r => execTrapEntry r s
  | .waitComplete r => execWaitComplete r s
  | .memoryAccessComplete d k => execMemoryAccessComplete d k s
  | .pageWalkComplete r p => execPageWalkComplete r p s
  | .stampedInstall k => execStampedInstall k s
  | .stampedVisible k => execStampedVisible k s
  | .ldasReturn k => execLdasReturn k s
  | .floorBroadcast => execFloorBroadcast s
  | .widenedStateEntry d => execWidenedStateEntry d s
  | .widenedStateExit d => execWidenedStateExit d s
  | .systemFloorStall => execSystemFloorStall s
  | .streamCommandStart r p => execStreamCommandStart r p s
  | .streamElementPerform r p => execStreamElementPerform r p s
  | .streamCommandComplete r p => execStreamCommandComplete r p s
  | .kvHalfWrite k => execKvHalfWrite k s
  | .exchangeSendToken p => execExchangeSendToken p s
  | .exchangeReceiveToken p => execExchangeReceiveToken p s
  | .exchangeRelease p => execExchangeRelease p s
  | .stepBuilderMicrobatch => execStepBuilderMicrobatch s
  | .squashReport => execSquashReport s
  | .noticeApplyStage r => execNoticeApplyStage r s
  | .noticeApplySegment r => execNoticeApplySegment r s
  | .stageAcknowledge id n => execStageAcknowledge id n s
  | .settle n => execSettle n s
  | .establishNoticeApply r => execEstablishNoticeApply r s
  | .slotActivate n => execSlotActivate n s
  | .slotFree n => execSlotFree n s
  | .reportPortTake id k => execReportPortTake id k s
  | .kvPortTake id k => execKvPortTake id k s
  | .messageRoute => execMessageRoute s
  | .parkedMessageDeliver id => execParkedMessageDeliver id s
  | .freezeWave r => execFreezeWave r s
  | .freezeReadoutComplete r => execFreezeReadoutComplete r s
  | .drainStart r => execDrainStart r s
  | .drainComplete r => execDrainComplete r s
  | .drainTimeout r => execDrainTimeout r s
  | .traceRecordWrite => execTraceRecordWrite s
  | .traceAnchor => execTraceAnchor s
  | .flitArrival l d c => execFlitArrival l d c s
  | .creditReturn l d c => execCreditReturn l d c s
  | .linkDown l => execLinkDown l s
  | .ingestComplete => execIngestComplete s
  | .checkpointCopy => execCheckpointCopy s
  | .illegalWord w => execIllegalWord w s
  | .fetchOutsideCodeArea => execFetchOutsideCodeArea s

/-! ## A word where the next turn fetches (notes/assumptions/3) -/

/-- The element in which a word may stand: by class, and for an E word by its opcode. -/
def hostUnit (cl : WordClass) (w : BitVec 32) : UnitId :=
  match cl with
  | .v => ⟨0, 0, 17⟩
  | .m => ⟨0, 0, 18⟩
  | _ =>
    if UnitKind.ge.acceptsOp (opE w) then ⟨0, 0, 0⟩
    else if UnitKind.mpe.acceptsOp (opE w) then ⟨0, 0, 19⟩
    else if UnitKind.age.acceptsOp (opE w) then ⟨0, 0, 20⟩
    else if UnitKind.cve.acceptsOp (opE w) then ⟨0, 0, 22⟩
    else ⟨4, 0, 23⟩

/-- A region that runs: it holds a placement, is in a phase, and is not frozen. -/
def Region.running (R : Region) : Region :=
  { R with launch := some (R.launch.getD 1), stop := false, frozen := none, gated := false }

/-- The word at the PC of region 0's core, whose turn is next. -/
def State.withCoreWord (s : State) (w : Nat) : State :=
  let m := s.mem.writeNat 0 4 w
  let s1 : State := { s with mem := m, agenda := [.core 0], dev := { s.dev with phase := 4 } }
  s1.modRegion 0 (fun R => { R.running with
    core := { R.core with run := .running, wait := none, stall := none, pend := {},
                          codeV := R.core.pc, codeP := 0, codeSize := 4 } })

/-- The word in slot 0 of an element, whose turn is next. -/
def State.withUnitWord (s : State) (u : UnitId) (w : Nat) : State :=
  let s1 : State := { s with agenda := [.unit u], dev := { s.dev with phase := 4 } }
  let s2 := s1.modRegion u.region Region.running
  (s2.freed u).modUnit u (fun x => { x with banks := [(0, ⟨(s2.region u.region).tag, [(0, BitVec.ofNat 64 w)]⟩)] })

/-- An instruction of nbits bits where the next turn fetches. -/
def State.placeWord (s : State) (nbits w : Nat) : State :=
  match tableClass nbits w with
  | some .c => s.withCoreWord w
  | some cl => s.withUnitWord (hostUnit cl (BitVec.ofNat 32 w)) w
  | none => s

end Sys2Proof.Machine
end

