-- ==== Sys2Proof/Machine/Step.lean ====
section
/-! DEFINITION. The step of the machine: one turn of the agenda. -/

namespace Sys2Proof.Machine

/-- One step: the turn that is next, and the meaning of the instruction it runs. -/
def step (s : State) : Host.Outcome State Fault Refusal :=
  match s.turn with
  | .quiet t => .next t
  | .run i t => exec i t
  | .own o t => o.run t
  | .bad => .fault .noSuchAgent

/-- The state with an instruction of nbits bits where the next turn fetches (notes/assumptions/3). -/
def State.withFetchWord (s : State) (nbits w : Nat) : State := s.placeWord nbits w

end Sys2Proof.Machine
end

