-- ==== Sys2Proof/Safety.lean ====
section
/-! DEFINITION. What a safe run is, and the terms the obligations use: the invariant a step keeps, frames, when a word
issues, and the results of arithmetic written from the spec's integers (not from the meanings). -/

namespace Sys2Proof.Machine

/-! ## Safe runs -/

/-- Does a turn name an agent that the package has (R9-R12, R18)? -/
def Turn.names : Turn → Bool
  | .core r => decide (r < 80)
  | .unit u => unitExists u
  | .own _ => true
  | .event _ => true

/-- Every agent of the agenda exists. -/
def State.agendaOk (s : State) : Prop := ∀ t ∈ s.agenda, t.names = true

/-- The invariant that every step keeps: memory in canonical form, the agenda names agents that exist. -/
def State.Inv (s : State) : Prop := s.mem.wf = true ∧ s.agendaOk

/-- A safe run: no number of steps ends in a fault or a refusal. -/
def State.Safe (s : State) : Prop := ∀ k, ∃ t, Sys2Proof.core.run k s = .next t

/-! ## Frames -/

/-- Every byte of memory, and the poison of its word, reads as before. -/
def sameBytes (s t : State) : Prop := ∀ a, t.mem.byte a = s.mem.byte a ∧ t.mem.poisoned a = s.mem.poisoned a

/-- Every byte outside n bytes from an address, and the poison of every word they do not touch, reads as before. -/
def sameBytesBut (a n : Nat) (s t : State) : Prop :=
  ∀ b, (b < a ∨ a + n ≤ b → t.mem.byte b = s.mem.byte b) ∧
    (b / 8 < a / 8 ∨ (a + n + 7) / 8 ≤ b / 8 → t.mem.poisoned b = s.mem.poisoned b)

/-- A region without the counts, the busy note and the causes pending at its core, which any activity may touch. -/
def Region.still (R : Region) : Region :=
  { R with ctr := [], ctrNow := [], busy := false, core := { R.core with pend := {} } }

/-- Regions keep everything but counts and pending causes. -/
def sameRegions (s t : State) : Prop := ∀ r, (t.region r).still = (s.region r).still

/-- The hub, the module's registers, the enclave, freeze images, links, KV writes, floors and clocks are as before. -/
def samePackage (s t : State) : Prop :=
  t.hub = s.hub ∧ t.dev = s.dev ∧ t.enc = s.enc ∧ t.images = s.images ∧ t.links = s.links ∧ t.kv = s.kv ∧
  t.pages = s.pages ∧ t.wires = s.wires ∧ t.cyc = s.cyc ∧ t.now = s.now ∧ t.agenda = s.agenda ∧ t.inputs = s.inputs

/-- Every other element, and the registers, poison bits and predicates of this one, are as before. -/
def sameElements (u : UnitId) (s t : State) : Prop :=
  (∀ v, v ≠ u → t.unit v = s.unit v) ∧
  ∀ c, ((t.unit u).context c).x = ((s.unit u).context c).x ∧ ((t.unit u).context c).px = ((s.unit u).context c).px ∧
    ((t.unit u).context c).p = ((s.unit u).context c).p

/-! ## When an element word issues (R94, R456) -/

/-- What R94 asks of any word at a slot of an element or node before its operands: the region runs a phase and is not
frozen, no cause stands at the element, no firing of several tokens, a rotation MARK counted with them, holds its issue slot (R124,
R190, R318, R382, R400); condition 1: the slot's bank
carries the bound cfgtag; condition 2: the guard's predicate is not pending and has the required value, and guard 7 is true. -/
structure State.Runs (s : State) (u : UnitId) (slot : Nat) (t : Trig) : Prop where
  placed : (s.region u.region).launch.isSome = true
  running : (s.region u.region).stop = false
  moving : (s.region u.region).frozen = none
  clean : (s.unit u).efault.getLsbD 63 = false
  free : (s.unit u).slotHeld = false
  bank : ((s.unit u).banks.get (slot / 8) {}).tag = (s.region u.region).tag
  guard : if t.pred = 7 then t.req = true
    else ((s.unit u).context t.ctx.toNat).pendP.getLsbD t.pred.toNat = false ∧
      ((s.unit u).context t.ctx.toNat).p.getLsbD t.pred.toNat = t.req

/-- Readiness of R94 for an E word: conditions 3 and 4 (no register read, no register or predicate written is pending) and 6
(every branch of every output has room; that of a report port has none while the report queue is full, R343). -/
structure State.Able (s : State) (u : UnitId) (slot : Nat) (v : EView) : Prop where
  runs : s.Runs u slot v.trig
  srcs : ∀ r, (Src.x r ∈ v.ins ∨ r ∈ v.reads) → ((s.unit u).context v.trig.ctx.toNat).pendX.getLsbD r.toNat = false
  dst : ∀ r, v.regDst = some r → ((s.unit u).context v.trig.ctx.toNat).pendX.getLsbD r.toNat = false
  pred : ∀ j, v.predDst = some j → ((s.unit u).context v.trig.ctx.toNat).pendP.getLsbD j.toNat = false
  room : ∀ o ∈ v.outs, ∀ k ∈ s.branches u o.toNat, (s.chan k).room = true ∧ s.branchOpen k = true

/-- A word that issues with operands `ops`: it is able to (R94), every channel operand has a token of the bound cfgtag at
its head (condition 5), every operand passes its checks (R100, R102, R115), and no register it also reads is poisoned. -/
def State.Clear (s : State) (v : EView) (pols : List Pol) (ops : List Opnd) : Prop :=
  s.Able s.site.unit s.site.slot v ∧ s.readSrcs s.site.unit v.trig.ctx v.ins = some ops ∧
  (∀ k (o : Opnd), ops[k]? = some o → o.check (pols.getD k {}) = none) ∧
  ∀ r ∈ v.reads, ((s.unit s.site.unit).context v.trig.ctx.toNat).px.getLsbD r.toNat = false

/-- The port takes a request of an operation: it withholds none, and walks for none of the operation's class (R24, R397). -/
def State.PortOpen (s : State) (op : MemOp) : Prop :=
  ∀ q ∈ (s.unit s.site.unit).reqs, q.stage ≠ .withheld ∧ (q.stage = .walking → q.op.bankClass ≠ op.bankClass)

/-! ## Results of arithmetic (R195-R202, R277, R278) -/

/-- A 64-bit pattern of an integer. -/
def toWord (v : Int) : Word := BitVec.ofInt 64 v

/-- The integer of 64 bits nearest to a value. -/
def nearest64 (v : Int) : Int := max (-2 ^ 63) (min (2 ^ 63 - 1) v)

/-- The value of a truth. -/
def truth (p : Prop) [Decidable p] : Word := if p then 1 else 0

/-- SAT where a value leaves the 64-bit range. -/
def satFlag (v : Int) : Flags := if v < -2 ^ 63 ∨ 2 ^ 63 ≤ v then 1 else 0

/-- A function of no, one or two operands over an operand list. -/
def on0 {α : Type} (ops : List Word) (x : α) : Option α := match ops with | [] => some x | _ => none
def on1 {α : Type} (ops : List Word) (f : Word → α) : Option α := match ops with | [a] => some (f a) | _ => none
def on2 {α : Type} (ops : List Word) (f : Word → Word → α) : Option α := match ops with | [a, b] => some (f a b) | _ => none

/-- What an integer or immediate word of an element delivers from its operands: value and flags (R195-R202); `d` is the value
of the register that SHIN also reads. -/
def intWord (i : Instr) (ops : List Word) (d : Word) : Option (Word × Flags) :=
  match i with
  | .add .. => on2 ops (fun a b => (toWord (a.toInt + b.toInt), 0))
  | .sub .. => on2 ops (fun a b => (toWord (a.toInt - b.toInt), 0))
  | .mul .. => on2 ops (fun a b => (toWord (a.toInt * b.toInt), 0))
  | .mulhs .. => on2 ops (fun a b => (toWord (a.toInt * b.toInt / 2 ^ 64), 0))
  | .mulhu .. => on2 ops (fun a b => (toWord (a.toNat * b.toNat / 2 ^ 64), 0))
  | .and .. => on2 ops (fun a b => (a &&& b, 0))
  | .or .. => on2 ops (fun a b => (a ||| b, 0))
  | .xor .. => on2 ops (fun a b => (a ^^^ b, 0))
  | .andn .. => on2 ops (fun a b => (a &&& ~~~b, 0))
  | .shl .. => on2 ops (fun a b => (toWord (a.toNat * 2 ^ (b.toNat % 64)), 0))
  | .shr .. => on2 ops (fun a b => (toWord (a.toNat / 2 ^ (b.toNat % 64)), 0))
  | .sar .. => on2 ops (fun a b => (toWord (a.toInt / 2 ^ (b.toNat % 64)), 0))
  | .min .. => on2 ops (fun a b => (toWord (min a.toInt b.toInt), 0))
  | .max .. => on2 ops (fun a b => (toWord (max a.toInt b.toInt), 0))
  | .minu .. => on2 ops (fun a b => (toWord (min a.toNat b.toNat), 0))
  | .maxu .. => on2 ops (fun a b => (toWord (max a.toNat b.toNat), 0))
  | .adds .. => on2 ops (fun a b => (toWord (nearest64 (a.toInt + b.toInt)), satFlag (a.toInt + b.toInt)))
  | .subs .. => on2 ops (fun a b => (toWord (nearest64 (a.toInt - b.toInt)), satFlag (a.toInt - b.toInt)))
  | .clz .. => on1 ops (fun a => (toWord (if a = 0 then 64 else 63 - a.toNat.log2), 0))
  | .popc .. => on1 ops (fun a => (toWord ((List.range 64).countP (fun k => a.getLsbD k)), 0))
  | .sext _ _ _ n _ => on1 ops (fun a => (toWord (Int.bmod a.toNat (2 ^ extSize n)), 0))
  | .zext _ _ _ n _ => on1 ops (fun a => (toWord (a.toNat % 2 ^ extSize n : Nat), 0))
  | .ceq .. => on2 ops (fun a b => (truth (a = b), 0))
  | .cne .. => on2 ops (fun a b => (truth (a ≠ b), 0))
  | .clt .. => on2 ops (fun a b => (truth (a.toInt < b.toInt), 0))
  | .cle .. => on2 ops (fun a b => (truth (a.toInt ≤ b.toInt), 0))
  | .cltu .. => on2 ops (fun a b => (truth (a.toNat < b.toNat), 0))
  | .cleu .. => on2 ops (fun a b => (truth (a.toNat ≤ b.toNat), 0))
  | .ctst .. => on2 ops (fun a b => (truth (a &&& b ≠ 0), 0))
  | .addi _ _ _ m => on1 ops (fun a => (toWord (a.toInt + m.toInt), 0))
  | .andi _ _ _ m => on1 ops (fun a => (a &&& toWord m.toInt, 0))
  | .ori _ _ _ m => on1 ops (fun a => (a ||| toWord m.toInt, 0))
  | .xori _ _ _ m => on1 ops (fun a => (a ^^^ toWord m.toInt, 0))
  | .shli _ _ _ c => on1 ops (fun a => (toWord (a.toNat * 2 ^ c.toNat), 0))
  | .shri _ _ _ c => on1 ops (fun a => (toWord (a.toNat / 2 ^ c.toNat), 0))
  | .sari _ _ _ c => on1 ops (fun a => (toWord (a.toInt / 2 ^ c.toNat), 0))
  | .ceqi _ _ _ m => on1 ops (fun a => (truth (a.toInt = m.toInt), 0))
  | .clti _ _ _ m => on1 ops (fun a => (truth (a.toInt < m.toInt), 0))
  | .cltui _ _ _ m => on1 ops (fun a => (truth (a.toNat < (toWord m.toInt).toNat), 0))
  | .movi _ _ m => on0 ops (toWord m.toNat, 0)
  | .shin _ _ m => on0 ops (toWord (d.toNat * 2 ^ 14 + m.toNat), 0)
  | _ => none

/-- What a floating-point word delivers, with its latency: FP32 on bits 31:0, FP64 on all (R97, R203-R207). -/
def floatWord (i : Instr) (ops : List Word) (d : Word) : Option (Nat × Res) :=
  let bit (b : Bool) : Res := ⟨b.toNat, 0⟩
  match i with
  | .faddS .. => on2 ops (fun a b => (4, fAdd fp32 (lo32 a) (lo32 b)))
  | .fsubS .. => on2 ops (fun a b => (4, fSub fp32 (lo32 a) (lo32 b)))
  | .fmulS .. => on2 ops (fun a b => (4, fMul fp32 (lo32 a) (lo32 b)))
  | .fmacS .. => on2 ops (fun a b => (4, fMac fp32 (lo32 a) (lo32 b) (lo32 d)))
  | .fminS .. => on2 ops (fun a b => (4, fMin fp32 (lo32 a) (lo32 b)))
  | .fmaxS .. => on2 ops (fun a b => (4, fMax fp32 (lo32 a) (lo32 b)))
  | .frsqeS .. => on1 ops (fun a => (4, fRsqe (lo32 a)))
  | .frcpeS .. => on1 ops (fun a => (4, fRcpe (lo32 a)))
  | .fceqS .. => on2 ops (fun a b => (4, bit (fCeq fp32 (lo32 a) (lo32 b))))
  | .fcltS .. => on2 ops (fun a b => (4, bit (fClt fp32 (lo32 a) (lo32 b))))
  | .fcleS .. => on2 ops (fun a b => (4, bit (fCle fp32 (lo32 a) (lo32 b))))
  | .fcunS .. => on2 ops (fun a b => (4, bit (fCun fp32 (lo32 a) (lo32 b))))
  | .faddD .. => on2 ops (fun a b => (8, fAdd fp64 a.toNat b.toNat))
  | .fsubD .. => on2 ops (fun a b => (8, fSub fp64 a.toNat b.toNat))
  | .fmulD .. => on2 ops (fun a b => (8, fMul fp64 a.toNat b.toNat))
  | .fmacD .. => on2 ops (fun a b => (8, fMac fp64 a.toNat b.toNat d.toNat))
  | .fminD .. => on2 ops (fun a b => (8, fMin fp64 a.toNat b.toNat))
  | .fmaxD .. => on2 ops (fun a b => (8, fMax fp64 a.toNat b.toNat))
  | .fceqD .. => on2 ops (fun a b => (8, bit (fCeq fp64 a.toNat b.toNat)))
  | .fcltD .. => on2 ops (fun a b => (8, bit (fClt fp64 a.toNat b.toNat)))
  | .fcleD .. => on2 ops (fun a b => (8, bit (fCle fp64 a.toNat b.toNat)))
  | .fcunD .. => on2 ops (fun a b => (8, bit (fCun fp64 a.toNat b.toNat)))
  | _ => none

/-- The width of a floating-point word's result: FP32 words and their compares leave bits 63:32 zero (R185). -/
def floatBits (lat : Nat) : Nat := if lat = 4 then 32 else 64

/-- utag and last of the first operand that came from a channel (R101). -/
def firstSide : List Opnd → BitVec 2 × Bool
  | [] => (0, false)
  | o :: os => match o.tok with
    | some t => (t.utag, t.last)
    | none => firstSide os

/-- A computed result at its word's destination (R96, R98, R101): register with poison 0, DATA token of the bound cfgtag,
predicate true where the value is not 0, flags. -/
def resultLanding (v : EView) (tag : Byte) (ops : List Opnd) (val : Word) (f : Flags) : Landing :=
  { reg := v.regDst.map (fun r => (r, val, false)), regPend := v.regDst,
    pred := v.predDst.map (fun j => (j, decide (val ≠ 0))),
    toks := v.outs.map (fun o => (o.toNat, some ⟨val, 0, false, tag, (firstSide ops).1, (firstSide ops).2, false, .outside⟩)),
    flags := f }

/-- A passed operand at its word's destination (R101, R320): value and poison, and a channel token's kind, utag and
last. -/
def passedTok (tag : Byte) (o : Opnd) : Tok :=
  ⟨o.val, (o.tok.map Tok.kind).getD 0, o.poison, tag, (o.tok.map Tok.utag).getD 0, (o.tok.map Tok.last).getD false, false, .outside⟩

def passedLanding (v : EView) (tag : Byte) (o : Opnd) : Landing :=
  { reg := v.regDst.map (fun r => (r, o.val, o.poison)), regPend := v.regDst,
    pred := v.predDst.map (fun j => (j, decide (o.val ≠ 0))),
    toks := v.outs.map (fun k => (k.toNat, some (passedTok tag o))) }

/-- The cfgtag bound in the region of an element. -/
def State.boundTagOf (s : State) (u : UnitId) : Byte := (s.region u.region).tag

/-- The cfgtag bound in the region of the element at the site. -/
def State.boundTag (s : State) : Byte := (s.region s.site.unit.region).tag

/-- The state after an element word issues, with its results `lat` cycles away (R96). -/
def State.issued (s : State) (v : EView) (lat : Nat) (l : Landing) : State :=
  (s.issue v).fly s.site.unit s.ticket v.trig.ctx s.site.slot lat l

/-- A landing with the note that its token ends a pass, after which a rotation MARK follows (R382). -/
def State.noted (s : State) (l : Landing) : Landing := { l with rot := s.rotOf s.site.unit l.dataOuts }

/-- The side effects on the exchange and on stamps that some element words have. -/
def isExchangeWord : Instr → Bool
  | .xgrant .. | .xsend .. | .xrecv .. => true
  | _ => false

def isStampedWord : Instr → Bool
  | .stsc .. | .stsp .. | .ldas .. => true
  | _ => false

/-- A memory word's operation, order, checks of address and data, and bytes it must be aligned to (R302-R308). -/
def memWord (i : Instr) : Option (MemOp × MemOrder × List Pol) :=
  let at_ (n : Nat) : Pol := { align := n }
  let data : Pol := { use := false }
  match i with
  | .ld _ _ _ n sx o => some (.load (widthBytes n) sx, o, [at_ (widthBytes n)])
  | .st _ _ _ _ o => some (.store 8, o, [at_ 8, data])
  | .stw _ _ _ _ o => some (.store 4, o, [at_ 4, data])
  | .sth _ _ _ _ o => some (.store 2, o, [at_ 2, data])
  | .stb _ _ _ _ o => some (.store 1, o, [at_ 1, data])
  | .aadd _ _ _ _ o => some (.amo 0, o, [at_ 8, {}])
  | .amin _ _ _ _ o => some (.amo 1, o, [at_ 8, {}])
  | .amax _ _ _ _ o => some (.amo 2, o, [at_ 8, {}])
  | .aand _ _ _ _ o => some (.amo 3, o, [at_ 8, {}])
  | .aor _ _ _ _ o => some (.amo 4, o, [at_ 8, {}])
  | .axor _ _ _ _ o => some (.amo 5, o, [at_ 8, {}])
  | .axchg _ _ _ _ o => some (.amo 6, o, [at_ 8, data])
  | .acas _ _ _ _ o => some (.amo 7, o, [at_ 8, data])
  | .aadds _ _ _ _ o => some (.amo 8, o, [at_ 8, {}])
  | .stsc _ _ _ _ sys => some (.stsc sys, .plain, [at_ 8, data])
  | .stsp _ _ _ _ sys => some (.stsp sys, .plain, [at_ 8, data])
  | .ldas _ _ _ _ sys => some (.ldas sys, .plain, [at_ 8, {}])
  | _ => none

/-- The checks of the operands of an element word that issues by its own view (R100, R102, R194, R208, R320-R333, R456): a routing word
passes MARK and DONE tokens and their poison on. STEER, MERGEC and XSEND, whose further operands depend on a token, stand apart. -/
def issuePols (s : State) (i : Instr) : Option (List Pol) :=
  let pass : Pol := { marks := true, use := false }
  let isData (a : Src) (t : Trig) : Bool :=
    (s.readSrc s.site.unit t.ctx a).all (fun o => o.tok.all (fun k => decide (k.kind = 0)))
  match i with
  | .mov _ _ _ p => some [{ marks := true, use := p.pred?.isSome }]
  | .kind .. | .emitd .. | .dup .. => some [pass]
  | .gate .. => some [pass, {}]
  | .join .. => some [pass, pass]
  | .cvtRne t _ a _ _ _ | .cvtRtz t _ a _ _ _ | .cvtRdn t _ a _ _ _ | .cvtRup t _ a _ _ _ => some [{ marks := true, use := isData a t }]
  | .steer .. | .mergec .. | .xsend .. => none
  | i => match memWord i with
    | some (_, _, pols) => some pols
    | none => if i.eview.isSome then some [] else none

/-- The request a memory word leaves at its port: address from a, data from b, the expected value of ACAS from the register it
also reads, utag and last of the first operand that is a token (R101, R302-R308). -/
def State.request (s : State) (v : EView) (op : MemOp) (o : MemOrder) (a : Opnd) (rest : List Opnd) : PortReq :=
  { tick := s.ticket, ctx := v.trig.ctx.toNat, slot := s.site.slot, op := op, ord := o, addr := a.val,
    data := (rest.map Opnd.val).headD 0, poison := (rest.map Opnd.poison).headD false,
    exp := if op = .amo 7 then ((s.unit s.site.unit).context v.trig.ctx.toNat).x.get (v.reads.headD 0).toFin else 0,
    reg := v.regDst, outs := v.outs.map BitVec.toNat, utag := (firstSide (a :: rest)).1, last := (firstSide (a :: rest)).2 }

/-- The further conditions of stamped words: no die is widened (R151, R152), an LDAS names no stamp above L (R308). -/
def State.StampsOk (s : State) (op : MemOp) (rest : List Opnd) : Prop :=
  (∀ sys, op.stampScope? = some sys → s.stampBlocked (unitDie s.site.unit) sys = false) ∧
  (∀ sys, op = .ldas sys → ((rest.map Opnd.val).headD 0).toNat ≤ (s.die (unitDie s.site.unit)).l)

/-! ## Vector words (R210-R235) -/

/-- R226's tree over 2^n lanes t: each node combines the nodes 2k and 2k + 1 of the round before. -/
def redTree (g : Nat → Nat → Res) (t : Nat → Nat) : Nat → Nat → Nat
  | 0, k => t k
  | n + 1, k => (g (redTree g t n (2 * k)) (redTree g t n (2 * k + 1))).bits

/-- The flags that its nodes set. -/
def redFlags (g : Nat → Nat → Res) (t : Nat → Nat) : Nat → Nat → Flags
  | 0, _ => 0
  | n + 1, k => redFlags g t n (2 * k) ||| redFlags g t n (2 * k + 1) |||
      (g (redTree g t n (2 * k)) (redTree g t n (2 * k + 1))).flags

/-- A V word that issues: it is able to, nothing it reads or writes is pending, each register read has an accepted tag (R215)
and, where that is a use, no poison (R216). -/
structure State.VClear (s : State) (v : VUse) : Prop where
  runs : s.Runs s.site.unit s.site.slot v.trig
  reads : ∀ o ∈ v.reads, s.vec.pendV.getLsbD o.r.toNat = false ∧ o.ok = true ∧ (o.use = true → s.vec.pv.getLsbD o.r.toNat = false)
  writes : ∀ r ∈ v.writes, s.vec.pendV.getLsbD r.toNat = false
  mask : s.vec.pendM.getLsbD v.mask.toNat = false
  wmask : ∀ k, v.wmask = some k → s.vec.pendM.getLsbD k.toNat = false

/-- The state after a V word issues, with its results `lat` cycles away. -/
def State.vissued (s : State) (v : VUse) (lat : Nat) (l : Landing) : State :=
  (s.issueV v).fly s.site.unit s.ticket v.trig.ctx s.site.slot lat l

/-- A lane-wise word: what it reads, destination, register whose lanes stand where the mask is 0, widths of source and result
lanes, latency, result of lane j, result tag and poison (R211, R214-R216). -/
structure LaneWord where
  use : VUse
  vd : BitVec 4
  old : BitVec 4
  w : Nat
  w' : Nat
  lat : Nat
  lane : Nat → Res
  tag : Byte
  poison : Bool := false

/-- Lane j of a register. -/
def Vec.lane (x : Vec) (w : Nat) (r : BitVec 4) (j : Nat) : Nat := elem w (x.reg r).toNat j

/-- The integer of a pattern modulo 2^w. -/
def wrap (w : Nat) (v : Int) : Res := ⟨(v % 2 ^ w).toNat, 0⟩

/-- Lanes of a float format by one function, of an integer format by another on signed or unsigned values. -/
def byFormat (c : BitVec 4) (ff : FloatFmt → Res) (fi : Nat → (Nat → Int) → Res) : Res :=
  match floatOf? c, intOf? c with
  | some f, _ => ff f
  | none, some (w, sg) => fi w (intVal w sg)
  | none, none => ⟨0, 0⟩

/-- The lane-wise words (R215, R218, R219, R221, R225, R227, R228) on a node's registers. -/
def laneWord (x : Vec) (i : Instr) : Option LaneWord :=
  let plain (r : BitVec 4) (ok : BitVec 4 → Bool) : VOpnd := ⟨r, tagPlain (x.tagOf r) && ok (x.fmt r), true⟩
  let any (r : BitVec 4) : VOpnd := ⟨r, true, true⟩
  let fi (c : BitVec 4) : Bool := isF c || isI c
  let two (t : Trig) (vd va vb : BitVec 4) (m : BitVec 3) (ff : FloatFmt → Nat → Nat → Res) (f : Int → Int → Int) : LaneWord :=
    let w := fmtWidth (x.fmt va)
    { use := { trig := t, mask := m, writes := [vd], reads := [plain va fi, plain vb (fun c => c = x.fmt va)] },
      vd := vd, old := vd, w := w, w' := w, lat := vlat (x.fmt va), tag := fmtTag (x.fmt va),
      lane := fun j => byFormat (x.fmt va) (fun g => ff g (x.lane w va j) (x.lane w vb j))
        (fun n val => wrap n (f (val (x.lane w va j)) (val (x.lane w vb j)))) }
  let move (t : Trig) (vd va : BitVec 4) (m : BitVec 3) (reads : List VOpnd) (f : Nat → Nat) : LaneWord :=
    let w := fmtWidth (x.fmt va)
    { use := { trig := t, mask := m, writes := [vd], reads := reads }, vd := vd, old := vd, w := w, w' := w, lat := 2,
      tag := x.tagOf va, lane := fun j => ⟨f j, 0⟩ }
  let one (t : Trig) (vd va : BitVec 4) (m : BitVec 3) (ok : BitVec 4 → Bool) (lat : Nat) (f : Nat → Res) : LaneWord :=
    let w := fmtWidth (x.fmt va)
    { use := { trig := t, mask := m, writes := [vd], reads := [plain va ok] }, vd := vd, old := vd, w := w, w' := w, lat := lat,
      tag := fmtTag (x.fmt va), lane := fun j => f (x.lane w va j) }
  let func (t : Trig) (vd va : BitVec 4) (m : BitVec 3) (f : FloatFmt → Nat → Res) : LaneWord :=
    one t vd va m (fun c => c = 2 || c = 3 || c = 4) 12 (fun a => byFormat (x.fmt va) (fun g => f g a) (fun _ _ => ⟨0, 0⟩))
  let shift (t : Trig) (vd va vb : BitVec 4) (m : BitVec 3) (f : Nat → Int → Nat → Int) : LaneWord :=
    let w := fmtWidth (x.fmt va)
    { use := { trig := t, mask := m, writes := [vd], reads := [plain va isI, any vb] }, vd := vd, old := vd, w := w, w' := w,
      lat := 2, tag := fmtTag (x.fmt va),
      lane := fun j => byFormat (x.fmt va) (fun _ => ⟨0, 0⟩) (fun n val => wrap n (f n (val (x.lane w va j)) (x.lane w vb j))) }
  match i with
  | .vmov t vd va m => some { move t vd va m [⟨va, true, false⟩] (fun j => x.lane (fmtWidth (x.fmt va)) va j) with poison := x.bad va }
  | .vadd t vd va vb m => some (two t vd va vb m fAdd (fun a b => a + b))
  | .vsub t vd va vb m => some (two t vd va vb m fSub (fun a b => a - b))
  | .vmul t vd va vb m => some (two t vd va vb m fMul (fun a b => a * b))
  | .vmin t vd va vb m => some (two t vd va vb m fMin (fun a b => if a ≤ b then a else b))
  | .vmax t vd va vb m => some (two t vd va vb m fMax (fun a b => if a ≤ b then b else a))
  | .vfma t vd va vb m =>
      let c := x.fmt va
      let w := fmtWidth c
      let l := two t vd va vb m fAdd (fun a b => a + b)
      some { l with
        use := { l.use with reads := l.use.reads ++ [plain vd (fun d => d = c)] }
        lane := fun j => byFormat c (fun g => fMac g (x.lane w va j) (x.lane w vb j) (x.lane w vd j))
          (fun n val => wrap n (val (x.lane w va j) * val (x.lane w vb j) + val (x.lane w vd j))) }
  | .vabs t vd va m => some (one t vd va m (fun c => isF c || c = 8 || c = 9 || c = 10) (vlat (x.fmt va)) (fun a =>
      byFormat (x.fmt va) (fun g => if (g.decode a).isNaN then ⟨g.nanBits, 0⟩ else ⟨a % 2 ^ (g.width - 1), 0⟩)
        (fun n val => ⟨(min (val a).natAbs (2 ^ (n - 1) - 1)), if 2 ^ (n - 1) ≤ (val a).natAbs then flagSAT else 0⟩)))
  | .vand t vd va vb m => some (move t vd va m [any va, any vb] (fun j =>
      x.lane (fmtWidth (x.fmt va)) va j &&& x.lane (fmtWidth (x.fmt va)) vb j))
  | .vor t vd va vb m => some (move t vd va m [any va, any vb] (fun j =>
      x.lane (fmtWidth (x.fmt va)) va j ||| x.lane (fmtWidth (x.fmt va)) vb j))
  | .vxor t vd va vb m => some (move t vd va m [any va, any vb] (fun j =>
      x.lane (fmtWidth (x.fmt va)) va j ^^^ x.lane (fmtWidth (x.fmt va)) vb j))
  | .vshl t vd va vb m => some (shift t vd va vb m (fun _ a b => a * 2 ^ b))
  | .vshr t vd va vb m => some (shift t vd va vb m (fun _ a b => a / 2 ^ b))
  | .vqshr t vd va m sh => some (one t vd va m (fun c => c = 8 || c = 9) 2 (fun a =>
      let n := fmtWidth (x.fmt va)
      let y : Int := if sh = 0 then intVal n true a else (intVal n true a + 2 ^ (sh.toNat - 1)) / 2 ^ sh.toNat
      ⟨((max (-128) (min 127 y)) % 2 ^ n).toNat, if y < -128 ∨ 127 < y then flagSAT else 0⟩))
  | .vnarrow t vd va round m fmt sat =>
      let w := fmtWidth (x.fmt va)
      some { use := { trig := t, mask := m, writes := [vd],
                      reads := [plain va (fun c => decide (c ≠ 0) && decide (fmtWidth fmt < fmtWidth c))] },
             vd := vd, old := vd, w := w, w' := fmtWidth fmt, lat := 3, tag := fmtTag fmt,
             lane := fun j => convert (x.fmt va) fmt round sat (x.lane w va j) }
  | .vsel t vd va vb m =>
      some { move t vd va m [any va, ⟨vb, tagSame (x.tagOf va) (x.tagOf vb), true⟩] (fun j => x.lane (fmtWidth (x.fmt va)) va j) with
        old := vb }
  | .vbcast t vd va m k => some (move t vd va m [any va] (fun _ =>
      x.lane (fmtWidth (x.fmt va)) va (k.toNat % (512 / fmtWidth (x.fmt va)))))
  | .vshuf t vd va vb m => some (move t vd va m [any va, any vb] (fun j =>
      x.lane (fmtWidth (x.fmt va)) va (x.lane (fmtWidth (x.fmt va)) vb j % (512 / fmtWidth (x.fmt va)))))
  | .vslide t vd va vb m sh =>
      let n := 512 / fmtWidth (x.fmt va)
      let k := sh.toNat % n
      some (move t vd va m [any va, ⟨vb, decide (x.fmt va = x.fmt vb), true⟩] (fun j =>
        if j + k < n then x.lane (fmtWidth (x.fmt va)) va (j + k) else x.lane (fmtWidth (x.fmt va)) vb (j + k - n)))
  | .vexp2 t vd va m => some (func t vd va m fExp2)
  | .vrcp t vd va m => some (func t vd va m fRcp)
  | .vrsq t vd va m => some (func t vd va m fRsq)
  | _ => none

/-- The guard of a matrix word: it has none. -/
def noGuard : Trig := ⟨0, 7, true⟩

/-- What R240 asks of a matrix word before its accumulator and rings: its bank is that of the phase, the sequencer is idle,
and nothing was fired or retired in this cycle. -/
structure State.MIdle (s : State) : Prop where
  runs : s.Runs s.site.unit s.site.slot noGuard
  idle : (s.unit s.site.unit).mat.seq = none
  fresh : (s.unit s.site.unit).issued = false

/-- The matrix words that only this statement group names: a firing that hands the sequencer q and makes accumulator n what
`acc` gives; memory and rings stand. -/
def State.Fired (s t : State) (q : Seq) (n : BitVec 3) (acc : Acc) : Prop :=
  (t.unit s.site.unit).mat.seq = some q ∧ (t.unit s.site.unit).mat.accOf n = acc ∧
  (∀ m, m ≠ n → (t.unit s.site.unit).mat.accOf m = (s.unit s.site.unit).mat.accOf m) ∧ sameBytes s t

/-- Row i of operand slot k of a ring, as signed or unsigned integers of a format. -/
def slotInts (s : State) (c : CellId) (g : Ring) (slot : Nat) (fmt : BitVec 4) (i k : Nat) : Int :=
  match intOf? fmt with
  | some (w, sg) => intVal w sg (elem w (s.mem.row (ringAddr c g slot i)).toNat k)
  | none => 0

/-- The test of a compare (R207, R224): floats by value, UINT8 unsigned, other integers signed. -/
def compareTest (i : Instr) (c : BitVec 4) (a b : Nat) : Bool :=
  let by_ (ff : FloatFmt → Nat → Nat → Bool) (f : Int → Int → Bool) : Bool :=
    match floatOf? c, intOf? c with
    | some g, _ => ff g a b
    | none, some (w, sg) => f (intVal w sg a) (intVal w sg b)
    | none, none => false
  match i with
  | .vcmpeq .. => by_ fCeq (fun a b => decide (a = b))
  | .vcmplt .. => by_ fClt (fun a b => decide (a < b))
  | .vcmple .. => by_ fCle (fun a b => decide (a ≤ b))
  | _ => false

/-! ## The control core (R256-R286) -/

/-- The instructions of the control core (R89-R92). -/
def isCoreWord : Instr → Bool
  | .coreAdd .. | .coreSub .. | .coreAnd .. | .coreOr .. | .coreXor .. | .coreShl .. | .coreShr .. | .coreSar ..
  | .coreMul .. | .coreMulhs .. | .coreMulhu .. | .divu .. | .remu .. | .slt .. | .sltu .. | .coreMin .. | .coreMax ..
  | .coreAddi .. | .coreAndi .. | .coreOri .. | .coreXori .. | .slti .. | .sltui .. | .coreShli .. | .coreShri ..
  | .coreSari .. | .lih .. | .shi16 .. | .ldd .. | .ldw .. | .ldwu .. | .ldh .. | .ldhu .. | .ldb .. | .ldbu .. | .std ..
  | .coreStw .. | .coreSth .. | .coreStb .. | .lda .. | .stl .. | .amoadd .. | .amomin .. | .amomax .. | .amoand ..
  | .amoor .. | .amoxor .. | .amoxchg .. | .amocas .. | .amoadds .. | .fence .. | .beq .. | .bne .. | .blt .. | .bge ..
  | .bltu .. | .bgeu .. | .jmp .. | .jr .. | .call .. | .callr .. | .ret | .clkrd .. | .cyc .. | .sleepu .. | .waits ..
  | .floor .. | .sts .. | .coreLdas .. | .sbind .. | .hwait .. | .hqry .. | .hdrain .. | .hfree .. | .hcancel .. | .launch ..
  | .phase .. | .msend .. | .mrecv .. | .tlook .. | .tfill .. | .tevict .. | .sqrd .. | .sqset .. | .sqadmit ..
  | .sqretire .. | .cntrd .. | .cntcfg .. | .cntclr .. | .csrrd .. | .csrwr .. | .trap .. | .eret | .halt | .freeze ..
  | .thaw .. | .resume .. | .brk => true
  | _ => false

/-- The instructions that have a word: those of the E, V, M and C classes (R73). Events have none. -/
def hasWord (i : Instr) : Bool := i.eview.isSome || i.vtrig.isSome || i.isM || isCoreWord i

/-- Registers that a read sees unpoisoned and with right parity (R257). -/
def State.CleanRegs (s : State) (r : Nat) (l : List (BitVec 5)) : Prop := ∀ a ∈ l, ((s.core r).read a).bad = false

/-- What an arithmetic or immediate instruction of the core reads, its destination, and its result (R277, R278). -/
def coreWord (i : Instr) (g : BitVec 5 → Word) : Option (List (BitVec 5) × BitVec 5 × Word) :=
  match i with
  | .coreAdd d a b => some ([a, b], d, toWord ((g a).toInt + (g b).toInt))
  | .coreSub d a b => some ([a, b], d, toWord ((g a).toInt - (g b).toInt))
  | .coreAnd d a b => some ([a, b], d, g a &&& g b)
  | .coreOr d a b => some ([a, b], d, g a ||| g b)
  | .coreXor d a b => some ([a, b], d, g a ^^^ g b)
  | .coreShl d a b => some ([a, b], d, toWord ((g a).toNat * 2 ^ ((g b).toNat % 64)))
  | .coreShr d a b => some ([a, b], d, toWord ((g a).toNat / 2 ^ ((g b).toNat % 64)))
  | .coreSar d a b => some ([a, b], d, toWord ((g a).toInt / 2 ^ ((g b).toNat % 64)))
  | .coreMul d a b => some ([a, b], d, toWord ((g a).toInt * (g b).toInt))
  | .coreMulhs d a b => some ([a, b], d, toWord ((g a).toInt * (g b).toInt / 2 ^ 64))
  | .coreMulhu d a b => some ([a, b], d, toWord ((g a).toNat * (g b).toNat / 2 ^ 64))
  | .divu d a b => some ([a, b], d, if g b = 0 then toWord (-1) else toWord ((g a).toNat / (g b).toNat))
  | .remu d a b => some ([a, b], d, if g b = 0 then g a else toWord ((g a).toNat % (g b).toNat))
  | .slt d a b => some ([a, b], d, truth ((g a).toInt < (g b).toInt))
  | .sltu d a b => some ([a, b], d, truth ((g a).toNat < (g b).toNat))
  | .coreMin d a b => some ([a, b], d, toWord (min (g a).toInt (g b).toInt))
  | .coreMax d a b => some ([a, b], d, toWord (max (g a).toInt (g b).toInt))
  | .coreAddi d a m => some ([a], d, toWord ((g a).toInt + m.toInt))
  | .coreAndi d a m => some ([a], d, g a &&& toWord m.toNat)
  | .coreOri d a m => some ([a], d, g a ||| toWord m.toNat)
  | .coreXori d a m => some ([a], d, g a ^^^ toWord m.toNat)
  | .slti d a m => some ([a], d, truth ((g a).toInt < m.toInt))
  | .sltui d a m => some ([a], d, truth ((g a).toNat < (toWord m.toInt).toNat))
  | .coreShli d a c => some ([a], d, toWord ((g a).toNat * 2 ^ c.toNat))
  | .coreShri d a c => some ([a], d, toWord ((g a).toNat / 2 ^ c.toNat))
  | .coreSari d a c => some ([a], d, toWord ((g a).toInt / 2 ^ c.toNat))
  | .lih d m => some ([], d, toWord m.toInt)
  | .shi16 d a m => some ([a], d, toWord ((g a).toNat * 2 ^ 16 + m.toNat))
  | _ => none

/-- A core load: destination, address register, offset, bytes, whether it extends the sign (R310, R311). -/
def coreLoadOf : Instr → Option (BitVec 5 × BitVec 5 × BitVec 16 × Nat × Bool)
  | .ldd d a o => some (d, a, o, 8, false)
  | .ldw d a o => some (d, a, o, 4, true)
  | .ldwu d a o => some (d, a, o, 4, false)
  | .ldh d a o => some (d, a, o, 2, true)
  | .ldhu d a o => some (d, a, o, 2, false)
  | .ldb d a o => some (d, a, o, 1, true)
  | .ldbu d a o => some (d, a, o, 1, false)
  | .lda d a _ => some (d, a, 0, 8, false)
  | _ => none

/-- A core store: data register, address register, offset, bytes, release scope (R310, R311). -/
def coreStoreOf : Instr → Option (BitVec 5 × BitVec 5 × BitVec 16 × Nat × Option Scope)
  | .std d a o => some (d, a, o, 8, none)
  | .coreStw d a o => some (d, a, o, 4, none)
  | .coreSth d a o => some (d, a, o, 2, none)
  | .coreStb d a o => some (d, a, o, 1, none)
  | .stl a b c => some (b, a, 0, 8, some c)
  | _ => none

/-- An AMO: destination, address and operand registers, order, the new value from the old one, B and d's old value (none: no
write), whether B's poison is a use (R305, R312). -/
def coreAmoOf : Instr → Option (BitVec 5 × BitVec 5 × BitVec 5 × MemOrder × (Word → Word → Word → Option Word) × Bool)
  | .amoadd d a b o => some (d, a, b, o, fun old x _ => some (toWord (old.toInt + x.toInt)), true)
  | .amomin d a b o => some (d, a, b, o, fun old x _ => some (toWord (min old.toInt x.toInt)), true)
  | .amomax d a b o => some (d, a, b, o, fun old x _ => some (toWord (max old.toInt x.toInt)), true)
  | .amoand d a b o => some (d, a, b, o, fun old x _ => some (old &&& x), true)
  | .amoor d a b o => some (d, a, b, o, fun old x _ => some (old ||| x), true)
  | .amoxor d a b o => some (d, a, b, o, fun old x _ => some (old ^^^ x), true)
  | .amoxchg d a b o => some (d, a, b, o, fun _ x _ => some x, false)
  | .amocas d a b o => some (d, a, b, o, fun old x e => if old = e then some x else none, false)
  | .amoadds d a b o => some (d, a, b, o, fun old x _ => some (toWord (nearest64 (old.toInt + x.toInt))), true)
  | _ => none

/-- A conditional branch: operands, offset, condition (R279). -/
def branchOf : Instr → Option (BitVec 5 × BitVec 5 × BitVec 16 × (Word → Word → Prop))
  | .beq a b o => some (a, b, o, fun x y => x = y)
  | .bne a b o => some (a, b, o, fun x y => x ≠ y)
  | .blt a b o => some (a, b, o, fun x y => x.toInt < y.toInt)
  | .bge a b o => some (a, b, o, fun x y => y.toInt ≤ x.toInt)
  | .bltu a b o => some (a, b, o, fun x y => x.toNat < y.toNat)
  | .bgeu a b o => some (a, b, o, fun x y => y.toNat ≤ x.toNat)
  | _ => none

/-- The machine outside the core of region r: memory, elements, channels, rings, pairs, clocks, the package, the other regions and
the rest of this one. -/
def sameButCore (r : Nat) (s t : State) : Prop :=
  t.mem = s.mem ∧ t.units = s.units ∧ t.chans = s.chans ∧ t.rings = s.rings ∧ t.pairs = s.pairs ∧ t.dies = s.dies ∧
  t.stamped = s.stamped ∧ t.ldas = s.ldas ∧ samePackage s t ∧ (∀ q, q ≠ r → t.region q = s.region q) ∧
  { t.region r with core := (s.region r).core } = s.region r

/-- Visible registers as before, but for d. -/
def sameRegs (r : Nat) (d : BitVec 5) (s t : State) : Prop := ∀ a, a ≠ d → (t.core r).read a = (s.core r).read a

/-- The core goes on at PC + 4 and keeps everything but registers (R258). -/
def State.StepsOn (s t : State) (r : Nat) : Prop :=
  (t.core r).pc = (s.core r).pc + 4 ∧ (t.core r).handler = (s.core r).handler ∧ (t.core r).epc = (s.core r).epc ∧
  (t.core r).ecause = (s.core r).ecause ∧ (t.core r).eval = (s.core r).eval ∧ (t.core r).estat = (s.core r).estat ∧
  (t.core r).evec = (s.core r).evec ∧ (t.core r).wptr = (s.core r).wptr ∧ (t.core r).wbot = (s.core r).wbot ∧
  (t.core r).pend = (s.core r).pend ∧ (t.core r).run = (s.core r).run ∧ (t.core r).stores = (s.core r).stores

/-- A window slot is free: opening a window spills nothing (R259, R261). -/
def Core.roomy (k : Core) : Prop := k.wptr + 40 ≤ k.wbot + 128

/-! ## Ports (R117, R292, R302-R305) -/

/-- Request k of a port is translated and free to be served: no link is down, no older request holds it back, no order makes it
wait, it holds the contexts its route needs, its bank serves it. -/
structure State.Serves (s : State) (u : UnitId) (k : Nat) (q : PortReq) (t : Target) : Prop where
  at_ : (s.unit u).reqs[k]? = some q
  fresh : q.stage = .accepted
  xlat : s.xlatWord u q.addr q.op.access = .done (.ok t)
  up : isMpe u = true → s.routeDown (unitDie u) t.addr = false
  turn : s.mayServe u k t.addr = true
  ordered : s.mustWait u q t = false
  ctxs : lacksCtxs u q t.addr = false
  bank : s.bankServes t.addr (portWho u) = true

/-- The request has left its port. -/
def State.gone (w : State) (u : UnitId) (q : PortReq) : Prop := ∀ p ∈ (w.unit u).reqs, p.tick ≠ q.tick

/-- A request's completion has arrived: its register holds value and poison and is no longer pending, or a token of a kind with
the address token's utag and last stands in its reserved places (R302). -/
def State.completed (s w : State) (u : UnitId) (q : PortReq) (kind : BitVec 2) (v : Word) (p : Bool) : Prop :=
  (∀ r, q.reg = some r → ((w.unit u).context q.ctx).x.get r.toFin = v ∧ ((w.unit u).context q.ctx).px.getLsbD r.toNat = p ∧
    ((w.unit u).context q.ctx).pendX.getLsbD r.toNat = false) ∧
  ∀ o, q.outs = [o] → (s.branches u o).Nodup → ∀ v' i,
    Sink.inp v' i ∈ s.branches u o → (w.chan (.inp v' i)).places = fillPlace (s.chan (.inp v' i)).places q.tick
      (s.checkHeader u.region ⟨v, kind, p, s.boundTagOf u, q.utag, q.last, false, .memory⟩).2

/-- Bytes stored from an address, with the poison of their word (R300, R304). -/
def stored (s w : State) (a n : Nat) (v : Word) (p : Bool) : Prop :=
  w.mem.readNat a n = v.toNat % 2 ^ (8 * n) ∧
  w.mem.poisoned a = (if p then true else if n = 8 then false else s.mem.poisoned a) ∧ sameBytesBut a n s w

/-- Port p of a region has one command in hand, of the launch that stands there, and the region is not frozen. -/
structure State.Sole (s : State) (r p : Nat) (c : Cmd) : Prop where
  only : s.portCmds r p = [c]
  here : c.owner = (s.region r).launch
  moving : (s.region r).frozen = none

/-- What an atomic writes, by its number (R305, R312). -/
def amoNew (j : Nat) (old x e : Word) : Option Word :=
  match j with
  | 0 => some (toWord (old.toInt + x.toInt))
  | 1 => some (toWord (min old.toInt x.toInt))
  | 2 => some (toWord (max old.toInt x.toInt))
  | 3 => some (old &&& x)
  | 4 => some (old ||| x)
  | 5 => some (old ^^^ x)
  | 6 => some x
  | 7 => if old = e then some x else none
  | _ => some (toWord (nearest64 (old.toInt + x.toInt)))

/-- The value of a load. -/
def loaded (n : Nat) (sx : Bool) (v : Nat) : Word := if sx then toWord (Int.bmod v (2 ^ (8 * n))) else toWord v

/-- A write to a scratchpad's segment table follows R361; every other place takes a store as it is. -/
def notTable (u : UnitId) (a : Nat) : Prop := isMpe u = true ∨ kvPlace u.cellId (a - spadBase u.cellId) = none

/-! ## The hardware's own steps -/

/-- The instruction that a step of the hardware's own is. -/
def Own.Means (o : Own) (x : Instr) : Prop :=
  match o with
  | .writeBack u => x = .writeBack u
  | .tokenArrival u i => x = .tokenArrival u i
  | .multiTokenPlace u => x = .multiTokenPlace u
  | .vldsTokenTake u i => x = .vldsTokenTake u i
  | .vstsTokenPlace u o => x = .vstsTokenPlace u o
  | .bankFetch u b => x = .bankFetch u b
  | .bankFill u b => x = .bankFill u b
  | .tilePairStart u => x = .tilePairStart u
  | .tilePairRetire u => x = .tilePairRetire u
  | .mWordRetire u => x = .mWordRetire u
  | .phaseEnd r => x = .phaseEnd r
  | .placementComplete id => x = .placementComplete id
  | .completionRecordWrite id => x = .completionRecordWrite id
  | .scheduleDecision => x = .scheduleDecision
  | .agelimPromotion id => x = .agelimPromotion id
  | .preemption => x = .preemption
  | .watchdogExpiry r => x = .watchdogExpiry r
  | .pflimitFreeze r p => x = .pflimitFreeze r p
  | .promiseMissed r h => x = .promiseMissed r h
  | .trapEntry r => x = .trapEntry r
  | .waitComplete r => x = .waitComplete r
  | .memoryAccessComplete d k => x = .memoryAccessComplete d k
  | .pageWalkComplete r p => x = .pageWalkComplete r p
  | .stampedInstall k => x = .stampedInstall k
  | .stampedVisible k => x = .stampedVisible k
  | .ldasReturn k => x = .ldasReturn k
  | .floorBroadcast => x = .floorBroadcast
  | .widenedStateEntry d => x = .widenedStateEntry d
  | .widenedStateExit d => x = .widenedStateExit d
  | .systemFloorStall => x = .systemFloorStall
  | .streamCommandStart r p => x = .streamCommandStart r p
  | .streamElementPerform r p => x = .streamElementPerform r p
  | .streamCommandComplete r p => x = .streamCommandComplete r p
  | .kvHalfWrite k => x = .kvHalfWrite k
  | .exchangeSendToken p => x = .exchangeSendToken p
  | .exchangeReceiveToken p => x = .exchangeReceiveToken p
  | .exchangeRelease p => x = .exchangeRelease p
  | .stepBuilderMicrobatch => x = .stepBuilderMicrobatch
  | .squashReport => x = .squashReport
  | .noticeApplyStage r => x = .noticeApplyStage r
  | .noticeApplySegment r => x = .noticeApplySegment r
  | .stageAcknowledge id n => x = .stageAcknowledge id n
  | .settle n => x = .settle n
  | .establishNoticeApply r => x = .establishNoticeApply r
  | .slotActivate n => x = .slotActivate n
  | .slotFree n => x = .slotFree n
  | .reportPortTake id k => x = .reportPortTake id k
  | .kvPortTake id k => x = .kvPortTake id k
  | .messageRoute => x = .messageRoute
  | .parkedMessageDeliver id => x = .parkedMessageDeliver id
  | .freezeWave r => x = .freezeWave r
  | .freezeReadoutComplete r => x = .freezeReadoutComplete r
  | .drainStart r => x = .drainStart r
  | .drainComplete r => x = .drainComplete r
  | .drainTimeout r => x = .drainTimeout r
  | .traceRecordWrite => x = .traceRecordWrite
  | .traceAnchor => x = .traceAnchor
  | .flitArrival l d c => x = .flitArrival l d c
  | .creditReturn l d c => x = .creditReturn l d c
  | .linkDown l => x = .linkDown l
  | .ingestComplete => x = .ingestComplete
  | .checkpointCopy => x = .checkpointCopy
  | .illegalWord w => x = .illegalWord w
  | .fetchOutsideCodeArea => x = .fetchOutsideCodeArea

end Sys2Proof.Machine
end

