-- ==== Sys2Proof/Certificates/Slice0/Obligations.lean ====
section
/-! DEFINITION. The statements for the provers, from the numbered rules of spec/. -/

open Sys2Proof Sys2Proof.Machine

/-! ## Element words: when they issue, what they leave alone, what they deliver -/

/-- R94, R456: a word issues with operands exactly when each condition of R94 holds and every operand passes its checks. -/
def Obligations.GateOpensExactlyWhenClear : Prop :=
  ∀ (s : State) (v : EView) (pols : List Pol) (ops : List Opnd), s.gate v pols = .go ops ↔ s.Clear v pols ops

/-- R94: until its conditions hold a word does nothing. MERGEC stands apart: it raises a cause of its control before its
output has room (R322, notes/assumptions/17). -/
def Obligations.WordsWaitUntilAble : Prop :=
  ∀ (i : Instr) (v : EView) (s : State), i.eview = some v → (∀ t d x y z, i ≠ .mergec t d x y z) →
    ¬ s.Able s.site.unit s.site.slot v → exec i s = .next s

/-- The frame of every element word, on every path to a next state: memory, other elements, the registers and predicates of the
element, the regions' cores and tables, rings and the package are as before; only stamped words take stamps and only exchange
words change a pair. -/
def Obligations.ElementWordsLeaveTheRest : Prop :=
  ∀ (i : Instr) (v : EView) (s t : State), i.eview = some v → exec i s = .next t →
    sameBytes s t ∧ sameRegions s t ∧ samePackage s t ∧ sameElements s.site.unit s t ∧ t.rings = s.rings ∧
    (∀ d, { t.die d with last := 0 } = { s.die d with last := 0 }) ∧
    (isStampedWord i = false → t.dies = s.dies ∧ t.stamped = s.stamped ∧ t.ldas = s.ldas) ∧
    (isExchangeWord i = false → t.pairs = s.pairs)

/-- R96: at issue a word dequeues each consumed input and no other, reserves one place on each branch of its outputs, and sets
the pending bits of its destinations. -/
def Obligations.IssueTakesInputsAndReserves : Prop :=
  ∀ (i : Instr) (v : EView) (s : State), i.eview = some v → i.wf = true →
    (∀ c, (((s.issue v).chan (.inp s.site.unit c.toNat)).inq =
      if Src.take c ∈ v.ins then (s.chan (.inp s.site.unit c.toNat)).inq.tail else (s.chan (.inp s.site.unit c.toNat)).inq)) ∧
    (∀ o ∈ v.outs, (s.branches s.site.unit o.toNat).Nodup → ∀ k ∈ s.branches s.site.unit o.toNat,
      ((s.issue v).chan k).places = (s.chan k).places ++ [(s.ticket, none)]) ∧
    (∀ r, v.regDst = some r → (((s.issue v).unit s.site.unit).context v.trig.ctx.toNat).pendX.getLsbD r.toNat = true) ∧
    (∀ j, v.predDst = some j → (((s.issue v).unit s.site.unit).context v.trig.ctx.toNat).pendP.getLsbD j.toNat = true)

/-- R195-R202: every integer, immediate and compare word delivers the value and flags of the spec's table one cycle after
issue. -/
def Obligations.IntegerWordsDeliver : Prop :=
  ∀ (i : Instr) (v : EView) (s : State) (ops : List Opnd) (val : Word) (f : Flags), i.eview = some v → s.Clear v [] ops →
    intWord i (ops.map Opnd.val) (((s.unit s.site.unit).context v.trig.ctx.toNat).x.get (v.reads.headD 0).toFin) = some (val, f) →
    exec i s = .next (s.issued v 1 (resultLanding v s.boundTag ops val f))

/-- R203-R207: every floating-point word delivers its result 4 cycles (FP32) or 8 cycles (FP64) after issue; FP32 results
leave bits 63:32 zero. -/
def Obligations.FloatWordsDeliver : Prop :=
  ∀ (i : Instr) (v : EView) (s : State) (ops : List Opnd) (lat : Nat) (r : Res), i.eview = some v → s.Clear v [] ops →
    floatWord i (ops.map Opnd.val) (((s.unit s.site.unit).context v.trig.ctx.toNat).x.get (v.reads.headD 0).toFin) = some (lat, r) →
    exec i s = .next (s.issued v lat
      (resultLanding v s.boundTag ops (BitVec.ofNat 64 (r.bits % 2 ^ floatBits lat)) r.flags))

/-- R194, R208, R320-R324: MOV, KIND, STEER, MERGEC, GATE, JOIN, MARKI and EMITD place what the spec's table says one cycle
after issue; the value passes with its sideband and poison. -/
def Obligations.RoutingWordsPass : Prop :=
  let pass : Pol := { marks := true, use := false }
  (∀ t d a p s o, s.Clear (.std t d [a] p) [{ marks := true, use := p.pred?.isSome }] [o] →
    exec (.mov t d a p) s = .next (s.issued (.std t d [a] p) 1 (passedLanding (.std t d [a] p) s.boundTag o))) ∧
  (∀ t d c (kept : Bool) p s o k, s.Clear (.std t d [if kept then .keep c else .take c] p) [pass] [o] → o.tok = some k →
    exec (.kind t d c kept p) s = .next (s.issued (.std t d [if kept then .keep c else .take c] p) 1
      (resultLanding (.std t d [if kept then .keep c else .take c] p) s.boundTag [o]
        (toWord (k.kind.toNat + 4 * k.last.toNat + 8 * k.utag.toNat + 32 * k.poison.toNat)) 0))) ∧
  (∀ t o a b s x c, s.Clear { trig := t, ins := [a, b], outs := [pairOut o (!c.val.getLsbD 0)] } [pass, {}] [x, c] →
    exec (.steer t o a b) s = .next (s.issued { trig := t, ins := [a, b], outs := [pairOut o (!c.val.getLsbD 0)] } 1
      { toks := [((pairOut o (!c.val.getLsbD 0)).toNat, some (passedTok s.boundTag x))] })) ∧
  (∀ t d iT iF iC s x c, s.Clear (.std t d [.take iC, .take (if c.val.getLsbD 0 then iT else iF)] .none) [{}, pass] [c, x] →
    exec (.mergec t d iT iF iC) s =
      .next (s.issued (.std t d [.take iC, .take (if c.val.getLsbD 0 then iT else iF)] .none) 1
        (passedLanding (.std t d [.take iC, .take (if c.val.getLsbD 0 then iT else iF)] .none) s.boundTag x))) ∧
  (∀ t d a b s x c, s.Clear (.std t d [a, b] .none) [pass, {}] [x, c] →
    exec (.gate t d a b) s = .next (s.issued (.std t d [a, b] .none) 1
      (if c.val.getLsbD 0 then passedLanding (.std t d [a, b] .none) s.boundTag x
       else { regPend := d.reg?, toks := d.outs.map (fun o => (o.toNat, none)) }))) ∧
  (∀ t d a b s x c, s.Clear (.std t d [a, b] .none) [pass, pass] [x, c] →
    exec (.join t d a b) s = .next (s.issued (.std t d [a, b] .none) 1 (passedLanding (.std t d [a, b] .none) s.boundTag x))) ∧
  (∀ t o (code : BitVec 14) s, s.Clear { trig := t, ins := [], outs := [o] } [] [] →
    exec (.marki t o code) s = .next (s.issued { trig := t, ins := [], outs := [o] } 1
      { toks := [(o.toNat, some ⟨code.setWidth 64, 2, false, s.boundTag, 0, code = 4, false, .outside⟩)] })) ∧
  (∀ t o a s x, s.Clear { trig := t, ins := [a], outs := [o] } [pass] [x] →
    exec (.emitd t o a) s = .next (s.issued { trig := t, ins := [a], outs := [o] } 1
      { toks := [(o.toNat, some { passedTok s.boundTag x with kind := 1 })] }))

/-- R318, R328: DUP places its value at the even output and then at the odd one; AGEN of n addresses places them one a
cycle and leaves base + n × stride; AGSET and AGRST set register and stride. -/
def Obligations.MultiTokenWordsFire : Prop :=
  let pass : Pol := { marks := true, use := false }
  (∀ t o a s x, s.Clear { trig := t, ins := [a], outs := [pairOut o false] } [pass] [x] →
    ∃ w, exec (.dup t o a) s = .next w ∧ (w.unit s.site.unit).multi = some ⟨s.ticket, s.cyc + 1, t.ctx.toNat, s.site.slot,
      .toks [(2 * o.toNat, passedTok s.boundTag x), (2 * o.toNat + 1, passedTok s.boundTag x)], true, {}, none⟩) ∧
  (∀ t g b s x c, s.Clear { trig := t, ins := [.x g, b], regDst := some g, outs := [0] } [] [x, c] →
    let n := c.val.toNat % 2 ^ 32
    let stride := (s.unit s.site.unit).stride.get (t.ctx.toNat, g) 0
    let v : EView := { trig := t, ins := [.x g, b], regDst := some g, outs := [0] }
    let fin : Landing := { reg := some (g, x.val + BitVec.ofNat 64 n * stride, false), regPend := some g }
    (n = 0 → exec (.agen t g b) s = .next (s.issued v 1 { regPend := some g, toks := [(0, none)] })) ∧
    (n = 1 → exec (.agen t g b) s =
      .next (s.issued v 1 { fin with toks := [(0, some ⟨x.val, 0, false, s.boundTag, 0, true, false, .outside⟩)] })) ∧
    (2 ≤ n → ∃ w, exec (.agen t g b) s = .next w ∧ (w.unit s.site.unit).multi =
      some ⟨s.ticket, s.cyc + 1, t.ctx.toNat, s.site.slot, .gen x.val stride 0 n, true, fin, none⟩)) ∧
  (∀ t g a (m : BitVec 9) s x, s.Clear { trig := t, ins := [a], regDst := some g } [] [x] →
    ∃ w, exec (.agset t g a m) s = .next w ∧ (w.unit s.site.unit).stride.get (t.ctx.toNat, g) 0 = toWord m.toInt ∧
      (w.unit s.site.unit).flights = (s.unit s.site.unit).flights ++
        [⟨s.ticket, s.cyc + 1, t.ctx.toNat, s.site.slot, { reg := some (g, x.val, false), regPend := some g }⟩]) ∧
  (∀ t g s, s.Clear { trig := t, ins := [], regDst := some g } [] [] →
    ∃ w, exec (.agrst t g) s = .next w ∧ (w.unit s.site.unit).stride.get (t.ctx.toNat, g) 0 = 0 ∧
      (w.unit s.site.unit).flights = (s.unit s.site.unit).flights ++
        [⟨s.ticket, s.cyc + 1, t.ctx.toNat, s.site.slot, { reg := some (g, 0, false), regPend := some g }⟩])

/-- R302-R308: every memory word that is clear to issue leaves its request at its port, and nothing is performed yet. -/
def Says.MemoryWordsLeaveRequests : Prop :=
  ∀ (i : Instr) (v : EView) (s : State) (op : MemOp) (o : MemOrder) (pols : List Pol) (a : Opnd) (rest : List Opnd),
    i.eview = some v → memWord i = some (op, o, pols) → s.PortOpen op → s.Clear v pols (a :: rest) → s.StampsOk op rest →
    exec i s = .next ((s.issue v).accept s.site.unit (s.request v op o a rest))

/-- R115, R134, R145, R302, R382: an accepted request stands last at its port, with the note that its token ends a pass; a
scratchpad port performs it next, a memory port walks first where no translation is kept; a stamped store takes its stamp at
acceptance, one that crosses links once it has its contexts. That the note is made at acceptance, and that a store crossing links takes
its stamp no earlier, is the model's choice (notes/assumptions/78; 35 and 82). -/
def Says.AcceptedRequestsQueue : Prop :=
  ∀ (s : State) (u : UnitId) (q : PortReq),
    let q' : PortReq := { q with rot := if q.op.givesData = true then s.rotOf u q.outs else none }
    (u.sub ≠ 19 → ((s.accept u q).unit u).reqs = (s.unit u).reqs ++ [q']) ∧
    (u.sub = 19 → s.xlatWord u q.addr q.op.access = .walk →
      ((s.accept u q).unit u).reqs = (s.unit u).reqs ++ [{ q' with stage := .walking }]) ∧
    (u.sub = 19 → ∀ t, s.xlatWord u q.addr q.op.access = .done (.ok t) →
      (q.op.stampScope? = none ∨ remoteRoute (unitDie u) t.addr ≠ []) → ((s.accept u q).unit u).reqs = (s.unit u).reqs ++ [q']) ∧
    (u.sub = 19 → ∀ t sys, s.xlatWord u q.addr q.op.access = .done (.ok t) → (q.op = .stsc sys ∨ q.op = .stsp sys) →
      remoteRoute (unitDie u) t.addr = [] →
      let d := unitDie u
      let stamp := max (s.die d).l ((s.die d).last + 1)
      ((s.accept u q).die d).last = stamp ∧ (s.accept u q).stamped.length = s.stamped.length + 1 ∧
      ∃ x, (s.accept u q).stamped.getLast? = some x ∧ x.stamp = stamp ∧ x.phys = t.addr ∧ x.data = q.data ∧ x.sys = sys)

/-- R115, R145, R302-R308: a memory word leaves its request, and its port queues it. -/
def Obligations.MemoryWordsRequest : Prop :=
  Says.MemoryWordsLeaveRequests ∧ Says.AcceptedRequestsQueue

/-- R330, R331, R333: with its pair and buffer as the rule asks, XGRANT places a permit and makes the buffer GRANTED a cycle after issue (R97), XSEND fills the
receiver's buffer and takes the row stream (poison of its header or permit stops neither, the model's choice, notes/assumptions/19), XRECV hands the filled buffer over with its count and parity. -/
def Obligations.ExchangeWordsAct : Prop :=
  (∀ t (o : BitVec 2) a s x k p, s.Clear { trig := t, ins := [a], outs := [o.setWidth 3] } [] [x] →
    s.permitPair s.site.unit o.toNat = some (k, p) → (p.buf (x.val.getLsbD 0)).st = .free →
    exec (.xgrant t o a) s = .next (s.issued { trig := t, ins := [a], outs := [o.setWidth 3] } 1
      { toks := [(o.toNat, some { data := truth (x.val.getLsbD 0 = true), tag := s.boundTag })], grant := some (k, x.val.getLsbD 0) })) ∧
  (∀ (w : State) k p par, w.pair? k = some p →
    w.landGrant (some (k, par)) = w.setPair k (p.setBuf par { p.buf par with st := .granted })) ∧
  (∀ t o iS iP s x q h k p, s.Able s.site.unit s.site.slot { trig := t, ins := [.take iS, .take iP] } →
    s.readSrcs s.site.unit t.ctx [.take iS, .take iP] = some [x, q] → x.tok = some h → h.kind = 0 → (h.utag = 1 ∨ h.utag = 2) →
    q.check { use := false } = none → s.sendPair s.site.unit o.toNat = some (k, p) → x.val.getLsbD 2 = q.val.getLsbD 0 →
    ∃ w, exec (.xsend t o iS iP) s = .next w ∧
      (∃ p', w.pair? k = some p' ∧ (p'.buf (q.val.getLsbD 0)).st = .filling ∧ (p'.buf (q.val.getLsbD 0)).n = 0 ∧
        p'.order = p.order ++ [q.val.getLsbD 0]) ∧
      (w.unit s.site.unit).sends =
        (s.unit s.site.unit).sends ++ [⟨k, q.val.getLsbD 0, iS.toNat, t.ctx.toNat, s.site.slot, s.ticket⟩] ∧
      (w.chan (.inp s.site.unit iS.toNat)).inq = if iS = iP then (s.chan (.inp s.site.unit iS.toNat)).inq.tail
        else (s.chan (.inp s.site.unit iS.toNat)).inq) ∧
  (∀ t (o : BitVec 2) i s k p par, s.Clear { trig := t, ins := [], outs := [o.setWidth 3] } [] [] →
    s.recvPair s.site.unit i.toNat = some (k, p) → p.order.head? = some par → (p.buf par).closed = true →
    ∃ w, exec (.xrecv t o i) s = .next w ∧
      (∃ p', w.pair? k = some p' ∧ (p'.buf par).st = .full ∧ p'.order = p.order.tail) ∧
      (w.unit s.site.unit).flights = (s.unit s.site.unit).flights ++ [⟨s.ticket, s.cyc + 1, t.ctx.toNat, s.site.slot,
        s.noted { toks := [(o.toNat, some { data := toWord ((p.buf par).n % 2 ^ 32 + 2 ^ 32 * par.toNat), tag := s.boundTag })] }⟩])

/-- R325-R327: a CVT of each rounding takes one token: a DATA token's elements are converted in order into the pack buffer,
and what the firing places begins two cycles later; a MARK or DONE passes after the buffer is emptied. -/
def Says.ConvertersFire : Prop :=
  ∀ (i : Instr) (mode : BitVec 2) (t : Trig) (d : Dst) (a : Src) (src dst : BitVec 4) (sat : Bool) (s : State) (x : Opnd),
    (i = .cvtRne t d a src dst sat ∧ mode = 0 ∨ i = .cvtRtz t d a src dst sat ∧ mode = 1 ∨
      i = .cvtRdn t d a src dst sat ∧ mode = 2 ∨ i = .cvtRup t d a src dst sat ∧ mode = 3) →
    s.Clear (.std t d [a] .none) [{ marks := true, use := decide (x.asTok.kind = 0) }] [x] →
    let U := s.unit s.site.unit
    let r := cvtFire src dst mode sat (if U.split then 32 else 64) s.boundTag ⟨U.packBuf.toNat, U.packN, U.packUtag⟩ x.asTok
    let o := (d.outs.map BitVec.toNat).headD 0
    ∃ w, exec i s = .next w ∧
      (w.unit s.site.unit).packBuf = BitVec.ofNat 64 r.1.bits ∧ (w.unit s.site.unit).packN = r.1.n ∧
      (r.2.1.length ≤ 1 → (w.unit s.site.unit).flights = U.flights ++
        [⟨s.ticket, s.cyc + 2, t.ctx.toNat, s.site.slot, s.noted { toks := [(o, r.2.1.head?)], flags := r.2.2 }⟩]) ∧
      (2 ≤ r.2.1.length → (w.unit s.site.unit).multi = some ⟨s.ticket, s.cyc + 2, t.ctx.toNat, s.site.slot,
        .toks (r.2.1.map (fun k => (o, k))), true, { flags := r.2.2 }, none⟩)

/-- R101, R326: one DATA token of eight 8-bit elements converts element by element; narrowing to the same width places one
token of the eight results. -/
def Says.ConverterPacksInOrder : Prop :=
  ∀ (mode : BitVec 2) sat tag (t : Tok), t.kind = 0 → t.last = false →
    ∃ f, cvtFire 10 11 mode sat 64 tag ⟨0, 0, 0⟩ t = (⟨0, 0, 0⟩,
      [{ data := BitVec.ofNat 64 (pack 8 ((List.range 8).map (fun k => (convert 10 11 mode sat (elem 8 t.data.toNat k)).bits))),
         tag := tag, utag := t.utag }], f)

/-- R101, R325-R327: converters take a token, convert its elements in order and place what they packed. -/
def Obligations.ConvertersConvert : Prop :=
  Says.ConvertersFire ∧ Says.ConverterPacksInOrder

/-! ## Vector words -/

/-- The frame of every vector word that goes on: memory, other elements and nodes, the regions' cores and tables, every channel's
tokens but its own inputs', other cells' rings and the package are as before; vector registers, tags and masks change only at
write-back (R96, R210). -/
def Obligations.VectorWordsLeaveTheRest : Prop :=
  ∀ (i : Instr) (g : Trig) (s t : State), i.vtrig = some g → exec i s = .next t →
    sameBytes s t ∧ sameRegions s t ∧ samePackage s t ∧ t.dies = s.dies ∧ t.stamped = s.stamped ∧ t.ldas = s.ldas ∧
    t.pairs = s.pairs ∧ (∀ v, v ≠ s.site.unit → t.unit v = s.unit v) ∧
    (t.unit s.site.unit).vec.v = s.vec.v ∧ (t.unit s.site.unit).vec.tag = s.vec.tag ∧
    (t.unit s.site.unit).vec.pv = s.vec.pv ∧ (t.unit s.site.unit).vec.m = s.vec.m ∧
    (∀ c n, c ≠ s.site.unit.cellId → t.ring? c n = s.ring? c n) ∧
    (∀ u k, u ≠ s.site.unit → t.chan (.inp u k) = s.chan (.inp u k))

/-- R211, R214-R219, R221, R225, R227, R228: a lane-wise word delivers, in every lane whose mask bit is 1, the lane's result; in
every other lane the old lane; 0 above the result lanes; its flags are those of the lanes written; the tag is the rule's, fin
recomputed. -/
def Obligations.LaneWordsDeliver : Prop :=
  ∀ (i : Instr) (s : State) (L : LaneWord), laneWord s.vec i = some L → s.VClear L.use →
    ∃ r f, exec i s = .next (s.vissued L.use L.lat { vregs := [(L.vd, r, refin L.tag [r], L.poison)], flags := f }) ∧
      (∀ j, j < 512 / L.w → elem L.w' r.toNat j =
        if laneOn (s.vec.mask L.use.mask) L.w j then (L.lane j).bits % 2 ^ L.w' else s.vec.lane L.w' L.old j) ∧
      (∀ j, 512 / L.w ≤ j → elem L.w' r.toNat j = 0) ∧
      (∀ b, f.getLsbD b = true ↔
        ∃ j, j < 512 / L.w ∧ laneOn (s.vec.mask L.use.mask) L.w j = true ∧ (L.lane j).flags.getLsbD b = true)

/-- R222, R223: VWIDEN converts the lower half of the lanes into vd and the upper half into vd + 1; VWMAC accumulates source
lane 16q + l into lane l of register vd + q. -/
def Says.WideningWordsDeliver : Prop :=
  (∀ t (vp : BitVec 3) va m fmt (s : State),
    let c := s.vec.fmt va
    let vd : BitVec 4 := vp ++ 0#1
    let ve : BitVec 4 := vp ++ 1#1
    let h := 512 / fmtWidth c / 2
    let use : VUse := { trig := t, mask := m, writes := [vd, ve],
                        reads := [⟨va, tagPlain (s.vec.tagOf va) && decide (c ≠ 0) && decide (fmtWidth fmt = 2 * fmtWidth c), true⟩] }
    let lane (j : Nat) : Res := convert c fmt 0 false (s.vec.lane (fmtWidth c) va j)
    s.VClear use → ∃ r0 r1 f, exec (.vwiden t vp va m fmt) s = .next (s.vissued use 3
        { vregs := [(vd, r0, refin (fmtTag fmt) [r0], false), (ve, r1, refin (fmtTag fmt) [r1], false)], flags := f }) ∧
      ∀ j, j < h →
        elem (fmtWidth fmt) r0.toNat j = (if laneOn (s.vec.mask m) (fmtWidth c) j then (lane j).bits % 2 ^ fmtWidth fmt
          else s.vec.lane (fmtWidth fmt) vd j) ∧
        elem (fmtWidth fmt) r1.toNat j = (if laneOn (s.vec.mask m) (fmtWidth c) (h + j) then (lane (h + j)).bits % 2 ^ fmtWidth fmt
          else s.vec.lane (fmtWidth fmt) ve j)) ∧
  (∀ t (vp : BitVec 3) va vb m (s : State),
    let ca := s.vec.fmt va
    let cb := s.vec.fmt vb
    let vd : BitVec 4 := vp ++ 0#1
    let k : Nat := if ca = 10 ∨ ca = 11 then 4 else 2
    let cacc : BitVec 4 := if ca = 3 ∨ ca = 4 then 2 else 8
    let regs : List (BitVec 4) := (List.range k).map (fun q => vd + BitVec.ofNat 4 q)
    let pairOk : Bool := ((ca = 10 || ca = 11) && (cb = 10 || cb = 11)) || ((ca = 9 || ca = 3 || ca = 4) && cb = ca)
    let use : VUse := { trig := t, mask := m, writes := regs, reads := [⟨va, tagPlain (s.vec.tagOf va), true⟩,
                        ⟨vb, tagPlain (s.vec.tagOf vb) && pairOk, true⟩] ++ regs.map (fun r => ⟨r, tagPlain (s.vec.tagOf r) &&
        (s.vec.fmt r = 0 || s.vec.fmt r = cacc), true⟩) }
    s.VClear use → (k = 4 → vd.toNat % 4 = 0) →
    ∃ out f, exec (.vwmac t vp va vb m) s = .next (s.vissued use 4 { vregs := out, flags := f }) ∧ out.length = k ∧
      ∀ q, q < k → ∃ r, out[q]? = some (vd + BitVec.ofNat 4 q, r, refin (fmtTag cacc) [r], false) ∧
        ∀ l, l < 16 →
          let acc := s.vec.lane 32 (vd + BitVec.ofNat 4 q) l
          let res := wmacLane (s.isat s.site.unit.region) ca cb (s.vec.lane (fmtWidth ca) va (16 * q + l))
            (s.vec.lane (fmtWidth cb) vb (16 * q + l)) acc
          elem 32 r.toNat l = if laneOn (s.vec.mask m) (fmtWidth ca) (16 * q + l) then res.bits % 2 ^ 32 else acc)

/-- R224, R226: a compare sets a mask bit exactly for an unmasked lane whose condition holds; a reduction combines the unmasked
lanes in the pairwise tree into lane 0 and zeroes the rest: on floats lane 0 and the flags are the tree's, a masked lane counting as +0 or
as −∞; on integers it gives their wrapped sum or their signed maximum, a masked lane counting as the format's minimum. -/
def Says.CompareAndReduceDeliver : Prop :=
  (∀ (i : Instr) t mk va vb m (s : State), (i = .vcmpeq t mk va vb m ∨ i = .vcmplt t mk va vb m ∨ i = .vcmple t mk va vb m) →
    let c := s.vec.fmt va
    let use : VUse := { trig := t, mask := m, wmask := some mk, reads := [⟨va, tagPlain (s.vec.tagOf va) && (isF c || isI c), true⟩,
                        ⟨vb, tagPlain (s.vec.tagOf vb) && decide (s.vec.fmt vb = c), true⟩] }
    s.VClear use → ∃ k : Word, exec i s = .next (s.vissued use (vlat c) { vmask := some (mk, k) }) ∧
      ∀ j, j < 64 → (k.getLsbD j = true ↔ j < 512 / fmtWidth c ∧ laneOn (s.vec.mask m) (fmtWidth c) j = true ∧
        compareTest i c (s.vec.lane (fmtWidth c) va j) (s.vec.lane (fmtWidth c) vb j) = true)) ∧
  (∀ (isMax : Bool) t vd va m (s : State),
    let c := s.vec.fmt va
    let w := fmtWidth c
    let ok : Bool := isF c || (if isMax then isI c else c = 8 || c = 9)
    let use : VUse := { trig := t, mask := m, writes := [vd], reads := [⟨va, tagPlain (s.vec.tagOf va) && ok, true⟩] }
    let on := (List.range (512 / w)).filter (fun j => laneOn (s.vec.mask m) w j)
    s.VClear use → ∃ r f, exec (if isMax then .vredmax t vd va m else .vredadd t vd va m) s =
        .next (s.vissued use 8 { vregs := [(vd, r, refin (fmtTag c) [r], false)], flags := f }) ∧
      (∀ j, 0 < j → elem w r.toNat j = 0) ∧
      (∀ fm, floatOf? c = some fm →
        let g := if isMax then fMax fm else fAdd fm
        let t (j : Nat) : Nat := if laneOn (s.vec.mask m) w j then s.vec.lane w va j else if isMax then fm.infBits true else 0
        elem w r.toNat 0 = redTree g t (512 / w).log2 0 % 2 ^ w ∧ f = redFlags g t (512 / w).log2 0) ∧
      (∀ n sg, intOf? c = some (n, sg) →
        (isMax = false → elem w r.toNat 0 = ((on.map (fun j => intVal n sg (s.vec.lane w va j))).sum % 2 ^ w).toNat) ∧
        (isMax = true → elem w r.toNat 0 =
          ((((List.range (512 / w)).map (fun j => intVal n true (if laneOn (s.vec.mask m) w j then s.vec.lane w va j
            else (intMin n sg % 2 ^ n).toNat))).foldl max (-2 ^ (n - 1) : Int)) % 2 ^ w).toNat)))

/-- R220, R222-R224, R226: widening words, compares and reductions of the vector node. -/
def Obligations.WideningCompareReduceDeliver : Prop :=
  Says.WideningWordsDeliver ∧ Says.CompareAndReduceDeliver

/-- R213, R229, R230: VTAG changes the tag and keeps bits and poison; VSETP sets its predicate at issue, after the clear that
guard stepping makes. -/
def Says.TagAndPredicateWordsAct : Prop :=
  (∀ t vd fmt grp b1 side (s : State), s.VClear { trig := t, writes := [vd] } → tagLegal fmt grp side = true →
    exec (.vtag t vd fmt grp b1 side) s = .next (s.vissued { trig := t, writes := [vd] } 2
      { vregs := [(vd, s.vec.reg vd, refin (mkTag fmt grp side false) [s.vec.reg vd], s.vec.bad vd)] })) ∧
  (∀ t (j : BitVec 3) (s : State), s.VClear { trig := t } → ∃ w, exec (.vsetp t j) s = .next w ∧
    ∀ k, k < 8 → ((w.unit s.site.unit).context t.ctx.toNat).p.getLsbD k =
      if k = j.toNat then true
      else if t.req = true ∧ t.pred ≠ 7 ∧ k = t.pred.toNat then false
      else if t.req = true ∧ t.pred.toNat < 6 ∧ k = t.pred.toNat + 1 then true
      else ((s.unit s.site.unit).context t.ctx.toNat).p.getLsbD k)

/-- R214, R231, R232: VLDR reads the row at the read cursor of a FULL head slot as it stands at issue (the model's choice, notes/assumptions/22), due 3
cycles later once its bank serves it, moves the cursor, and pops after row 31 if asked;
VSTR writes the row at the write cursor of the slot the node holds, claiming the tail slot where it holds none. -/
def Says.RingWordsMoveRows : Prop :=
  (∀ t vd (ring : BitVec 4) pop (s : State) g, s.VClear { trig := t, writes := [vd] } →
    s.ring? s.site.unit.cellId ring.toNat = some g → g.headSlot.st = .full →
    let a := ringAddr s.site.unit.cellId g g.head g.rd
    ∃ w g', exec (.vldr t vd ring pop) s = .next w ∧ w.ring? s.site.unit.cellId ring.toNat = some g' ∧
      (w.unit s.site.unit).flights = (s.unit s.site.unit).flights ++ [⟨s.ticket, s.cyc + 3, t.ctx.toNat, s.site.slot,
        { vregs := [(vd, s.mem.row a, refin g.headSlot.tag [s.mem.row a], s.mem.rowPoisoned a)], reads := [a] }⟩] ∧
      g'.rd = (if g.rd = 31 then 0 else g.rd + 1) ∧
      g'.head = (if g.rd = 31 ∧ pop = true then (g.head + 1) % g.slots.length else g.head) ∧
      (g.rd = 31 → pop = true → g.head < g.slots.length → (g'.slotOf g.head).st = .empty) ∧
      (¬ (g.rd = 31 ∧ pop = true) → g'.slots = g.slots)) ∧
  (∀ t va (ring : BitVec 4) commit (s : State) g,
    s.VClear { trig := t, reads := [⟨va, tagSame (s.vec.tagOf va) g.decl, false⟩] } →
    s.ring? s.site.unit.cellId ring.toNat = some g → ((g.claimed .vector).isSome ∨ g.tailSlot.st = .empty) →
    let slot := (g.claimed .vector).getD g.tail
    ∃ w g', exec (.vstr t va ring commit) s = .next w ∧ w.ring? s.site.unit.cellId ring.toNat = some g' ∧
      (w.unit s.site.unit).flights = (s.unit s.site.unit).flights ++ [⟨s.ticket, s.cyc + 1, t.ctx.toNat, s.site.slot,
        { rows := [⟨ring.toNat, slot, g.wr, s.vec.reg va, s.vec.bad va, commit && decide (g.wr = 31)⟩] }⟩] ∧
      g'.wr = (if g.wr = 31 then 0 else g.wr + 1) ∧
      g'.tail = (if (g.claimed .vector).isSome then g.tail else (g.tail + 1) % g.slots.length) ∧
      (slot < g.slots.length → (g'.slotOf slot).st = .claimed))

/-- R234, R235: VLDS takes its first token at issue and fills its register from the input; VSTS reads its register at issue and
sends its eight words from the next cycle. -/
def Says.StreamWordsStart : Prop :=
  (∀ t vd (c : BitVec 2) (s : State) (k : Tok), s.VClear { trig := t, writes := [vd] } →
    (∀ l ∈ s.vec.loads, l.inp ≠ c.toNat) → (∀ x ∈ (s.unit s.site.unit).sends, x.inp ≠ c.toNat) →
    s.head? s.site.unit c.toNat = some k → k.tag = s.boundTag → (k.kind = 0 ∨ k.kind = 1) →
    ∃ w, exec (.vlds t vd c) s = .next w ∧
      (w.chan (.inp s.site.unit c.toNat)).inq = (s.chan (.inp s.site.unit c.toNat)).inq.tail ∧
      (w.unit s.site.unit).vec.loads = s.vec.loads ++ [⟨t.ctx.toNat, s.site.slot, c.toNat, vd, [k.data], k.poison, s.ticket⟩] ∧
      (w.unit s.site.unit).vec.pendV.getLsbD vd.toNat = true) ∧
  (∀ t va (o : BitVec 2) (s : State), s.VClear { trig := t, reads := [⟨va, true, false⟩] } →
    (∀ l ∈ s.vec.sends, l.out ≠ o.toNat) → s.outRoom s.site.unit o.toNat = true →
    ∃ w, exec (.vsts t va o) s = .next w ∧ (w.unit s.site.unit).vec.sends = s.vec.sends ++ [⟨t.ctx.toNat, o.toNat,
      (List.range 8).map (fun k => toWord (elem 64 (s.vec.reg va).toNat k)), s.vec.bad va, s.cyc + 1, s.ticket⟩])

/-- R213, R230: predicates of a vector node change only when a word issues: a word guarded ?pM with M to 5 clears pM and sets pM+1, one
guarded ?p6 clears p6, any other steps none; VSETP then sets its own; a word that does not issue, raising a cause or waiting, changes none;
none is ever made pending. -/
def Obligations.PredicatesStepAtIssue : Prop :=
  ∀ (i : Instr) (g : Trig) (s t : State), i.vtrig = some g → (s.unit s.site.unit).issued = false → exec i s = .next t →
    let u := s.site.unit
    let old := (s.unit u).context g.ctx.toNat
    let new := (t.unit u).context g.ctx.toNat
    new.pendP = old.pendP ∧ (∀ c, c ≠ g.ctx.toNat → (t.unit u).context c = (s.unit u).context c) ∧
    new.x = old.x ∧ ((t.unit u).issued = false → new.p = old.p) ∧
    ((t.unit u).issued = true → ∀ j : BitVec 3, j ≠ 7 → new.p.getLsbD j.toNat =
      if i = .vsetp g j then true
      else if g.pred ≠ 7 ∧ g.req = true ∧ j = g.pred then false
      else if g.pred ≠ 7 ∧ g.req = true ∧ j = g.pred + 1 then true
      else old.p.getLsbD j.toNat)

/-- R213, R229-R235: tag, predicate, ring and stream words of the vector node. -/
def Obligations.VectorMovesAct : Prop :=
  Says.TagAndPredicateWordsAct ∧ Says.RingWordsMoveRows ∧ Says.StreamWordsStart

/-! ## Matrix words -/

/-- R239, R240, R243, R249, R251-R255: with its accumulator and rings as the table asks, every matrix word fires: the
sequencer takes it, its accumulator becomes ACTIVE (with clr every entry is +0), TDRAIN and TTRANS claim out slots; the rows that
a load word reads are then due at their banks. -/
def Obligations.MatrixWordsFire : Prop :=
  (∀ (i : Instr) (f : MacFields) (na nb : Nat) (s : State) a b, s.MIdle → macOf i = some (f, na, nb) →
    s.ring? s.site.unit.cellId f.ringA.toNat = some a → s.ring? s.site.unit.cellId f.ringB.toNat = some b →
    let sa := s.ring? s.site.unit.cellId na
    let sb := s.ring? s.site.unit.cellId nb
    let hA := (sa.map Ring.head).getD 0
    let hB := (sb.map Ring.head).getD 0
    let x := (s.unit s.site.unit).mat.accOf f.acc
    let af := macAccFmt i (a.tagAt a.head 0) (b.tagAt b.head 0)
    macFull i a b sa sb a.head b.head hA hB 0 = true → s.macCheck s.site.unit.cellId i a b sa sb a.head b.head hA hB 0 = none →
    (x.st = .empty ∨ (f.clr = false ∧ x.st = .full)) → (f.clr = true ∨ x.fmt = .none ∨ x.fmt = af) →
    ∃ t, exec i s = .next t ∧ s.Fired t { slot := s.site.slot, word := i, hA := a.head, hB := b.head, hSA := hA, hSB := hB }
      f.acc { st := .active, fmt := af, ents := if f.clr then [] else x.ents } ∧ t.rings = s.rings) ∧
  (∀ n (s : State), s.MIdle → ((s.unit s.site.unit).mat.accOf n).st ≠ .active →
    ∃ t, exec (.tzero n) s = .next t ∧ s.Fired t { slot := s.site.slot, word := .tzero n } n
      { (s.unit s.site.unit).mat.accOf n with st := .active } ∧ t.rings = s.rings) ∧
  (∀ n clr (out fmt : BitVec 4) r sh (s : State) g, s.MIdle → s.ring? s.site.unit.cellId out.toNat = some g →
    let x := (s.unit s.site.unit).mat.accOf n
    x.st = .full → g.tailSlot.st = .empty → tagPlain g.decl = true → tagFmt g.decl = fmt →
    (fmt = 10 ∧ x.fmt = .int32 ∨ (fmt = 3 ∨ fmt = 4) ∧ (x.fmt = .fp32 ∨ x.fmt = .fp64)) →
    ∃ t g', exec (.tdrain n clr out fmt r sh) s = .next t ∧
      s.Fired t { slot := s.site.slot, word := .tdrain n clr out fmt r sh, claims := [g.tail] } n { x with st := .active } ∧
      t.ring? s.site.unit.cellId out.toNat = some g' ∧ g'.tail = (g.tail + 1) % g.slots.length ∧
      (g.tail < g.slots.length → (g'.slotOf g.tail).st = .claimed)) ∧
  (∀ n (ring : BitVec 4) pop (s : State) g, s.MIdle → s.ring? s.site.unit.cellId ring.toNat = some g →
    let c := tagFmt (g.tagAt g.head 0)
    let w : Nat := if c = 2 ∨ c = 8 then 2 else if c = 1 then 4 else 1
    (c = 1 ∨ c = 2 ∨ c = 3 ∨ c = 4 ∨ c = 8 ∨ c = 10) → ((s.unit s.site.unit).mat.accOf n).st = .empty →
    (∀ k, k < w → g.fullAt g.head k = true ∧ tagPlain (g.tagAt g.head k) = true ∧
      tagSame (g.tagAt g.head k) (g.tagAt g.head 0) = true ∧ slotPoisoned s.mem s.site.unit.cellId g (g.at_ g.head k) = false) →
    ∃ t, exec (.tload n ring pop) s = .next t ∧ s.Fired t
        { slot := s.site.slot, word := .tload n ring pop, hA := g.head, left := runAddrs s.site.unit.cellId g g.head w } n
      { (s.unit s.site.unit).mat.accOf n with st := .active } ∧ t.rings = s.rings) ∧
  (∀ n (ring : BitVec 4) pop (s : State) g af, s.MIdle → s.ring? s.site.unit.cellId ring.toNat = some g →
    let x := (s.unit s.site.unit).mat.accOf n
    loadFmt (tagFmt (g.tagAt g.head 0)) = some af → x.st ≠ .active → (x.fmt = .none ∨ x.fmt = af) →
    g.fullAt g.head 0 = true → tagPlain (g.tagAt g.head 0) = true →
    slotPoisoned s.mem s.site.unit.cellId g (g.at_ g.head 0) = false →
    ∃ t, exec (.taddr n ring pop) s = .next t ∧ s.Fired t
        { slot := s.site.slot, word := .taddr n ring pop, hA := g.head, left := slotAddrs s.site.unit.cellId g g.head } n
      { x with st := .active, fmt := af } ∧ t.rings = s.rings) ∧
  (∀ (ring out : BitVec 4) pop (s : State) g k, s.MIdle → ring ≠ out → s.ring? s.site.unit.cellId ring.toNat = some g →
    s.ring? s.site.unit.cellId out.toNat = some k → k.tail < k.slots.length →
    let c := tagFmt (g.tagAt g.head 0)
    fmtWidth c = 16 → g.fullAt g.head 0 = true → tagPlain (g.tagAt g.head 0) = true → tagSame (g.tagAt g.head 0) k.decl = true →
    slotPoisoned s.mem s.site.unit.cellId g (g.at_ g.head 0) = false → k.tailSlot.st = .empty →
    ∃ t k', exec (.ttrans ring pop out) s = .next t ∧ sameBytes s t ∧
      (t.unit s.site.unit).mat.seq = some
        { slot := s.site.slot, word := .ttrans ring pop out, hA := g.head, claims := [k.tail], left := runAddrs s.site.unit.cellId g g.head 1 } ∧
      (∀ m, (t.unit s.site.unit).mat.accOf m = (s.unit s.site.unit).mat.accOf m) ∧
      t.ring? s.site.unit.cellId out.toNat = some k' ∧ (k'.slotOf k.tail).st = .claimed)

/-- R64, R241, R242, R245: a tile pair starts when its slots are FULL and its checks pass, the accumulator's format among them, its
rows then due at their banks; it retires, with the pops its word asks for, once every row has been read. -/
def Says.TilePairsStartAndRetire : Prop :=
  (∀ (u : UnitId) (s : State) q f a b sa sb, (s.unit u).mat.seq = some q → s.macRings u.cellId q.word = some (f, a, b, sa, sb) →
    s.alive u = true → q.started = false → q.k < tileCount f → macFull q.word a b sa sb q.hA q.hB q.hSA q.hSB q.k = true →
    (q.k = 0 ∨ s.macCheck u.cellId q.word a b sa sb q.hA q.hB q.hSA q.hSB q.k = none) →
    (q.k = 0 ∨ ((s.unit u).mat.accOf f.acc).fmt = macAccFmt q.word (a.tagAt q.hA q.k) (b.tagAt q.hB q.k) →
      ∃ t, exec (.tilePairStart u) s = .next t ∧ t.rings = s.rings ∧ sameBytes s t ∧
        (t.unit u).mat.seq = some { q with started := true, left := pairRows u.cellId q.word a b sa sb q.hA q.hB q.hSA q.hSB q.k }) ∧
    (q.k ≠ 0 → ((s.unit u).mat.accOf f.acc).fmt ≠ macAccFmt q.word (a.tagAt q.hA q.k) (b.tagAt q.hB q.k) →
      exec (.tilePairStart u) s = .next (s.recordFault u 0x05 q.slot 0 none 0 0))) ∧
  (∀ (u : UnitId) (s : State) q f na nb a b, (s.unit u).mat.seq = some q → macOf q.word = some (f, na, nb) → q.started = true →
    s.ring? u.cellId f.ringA.toNat = some a → s.ring? u.cellId f.ringB.toNat = some b → s.seqFree u = true →
    let last := sideDone q.word (a.tagAt q.hA q.k) (b.tagAt q.hB q.k) q.k || decide (q.k + 1 = tileCount f)
    let popSA := f.popA && usesSide q.word (a.tagAt q.hA q.k) && last
    let popSB := f.popB && usesSide q.word (b.tagAt q.hB q.k) && last
    ∃ t, exec (.tilePairRetire u) s = .next t ∧ sameBytes s t ∧
      (∃ q', (t.unit u).mat.seq = some q' ∧ q'.k = q.k + 1 ∧ q'.started = false ∧ q'.word = q.word) ∧
      (∀ g, na ≠ f.ringA.toNat → na ≠ f.ringB.toNat → na ≠ nb → s.ring? u.cellId na = some g →
        t.ring? u.cellId na = some (if popSA then g.pop else g)) ∧
      (∀ g, nb ≠ f.ringA.toNat → nb ≠ f.ringB.toNat → na ≠ nb → s.ring? u.cellId nb = some g →
        t.ring? u.cellId nb = some (if popSB then g.pop else g)) ∧
      (∀ g, na ≠ f.ringA.toNat → na ≠ f.ringB.toNat → na = nb → s.ring? u.cellId na = some g →
        t.ring? u.cellId na = some (if popSA || popSB then g.pop else g)) ∧
      (∀ n, n ≠ f.ringA.toNat → n ≠ f.ringB.toNat → n ≠ na → n ≠ nb → t.ring? u.cellId n = s.ring? u.cellId n)) ∧
  (∀ (u : UnitId) (s : State) q f a, (s.unit u).mat.seq = some q → q.word = .tmma f → q.started = true → f.ringA = f.ringB →
    s.seqFree u = true → s.ring? u.cellId f.ringA.toNat = some a →
    ∃ t, exec (.tilePairRetire u) s = .next t ∧ t.ring? u.cellId f.ringA.toNat = some (if f.popA || f.popB then a.pop else a)) ∧
  (∀ (u : UnitId) (s : State) q f a b, (s.unit u).mat.seq = some q → q.word = .tmma f → q.started = true → f.ringA ≠ f.ringB →
    s.seqFree u = true → s.ring? u.cellId f.ringA.toNat = some a → s.ring? u.cellId f.ringB.toNat = some b →
    ∃ t, exec (.tilePairRetire u) s = .next t ∧ sameBytes s t ∧
      (∃ q', (t.unit u).mat.seq = some q' ∧ q'.k = q.k + 1 ∧ q'.started = false ∧ q'.word = q.word) ∧
      t.ring? u.cellId f.ringA.toNat = some (if f.popA then a.pop else a) ∧
      t.ring? u.cellId f.ringB.toNat = some (if f.popB then b.pop else b))

/-- R242, R292: while rows of a started tile pair, or of a word that loads, are still to be read, a step of the sequencer reads of
every bank the first such row, where the bank serves matrix reads; nothing else changes. -/
def Says.MatrixReadsThroughBanks : Prop :=
  ∀ (i : Instr) (u : UnitId) (s : State) q, (s.unit u).mat.seq = some q → q.left ≠ [] →
    (i = .tilePairRetire u ∧ q.started = true ∧ (s.macRings u.cellId q.word).isSome = true ∨ i = .mWordRetire u ∧ macOf q.word = none) →
    ∃ t, exec i s = .next t ∧ sameBytes s t ∧ t.rings = s.rings ∧
      (t.unit u).mat.seq = some { q with left := q.left.filter (fun a => !((perBank q.left).contains a && s.bankServes a 3)) } ∧
      (∀ n, (t.unit u).mat.accOf n = (s.unit u).mat.accOf n)

/-- R65, R68: with AMODE isat 0, one tile pair of TMMA on 8-bit integers adds to every entry (i, j), modulo 2^32, the sum over
the 64 elements of row i of A's slot times row j of B's slot. -/
def Obligations.IntegerTilePairAccumulates : Prop :=
  ∀ (u : UnitId) (s : State) q f a b, (s.unit u).mat.seq = some q → q.word = .tmma f → q.started = true →
    s.seqFree u = true → s.ring? u.cellId f.ringA.toNat = some a → s.ring? u.cellId f.ringB.toNat = some b → s.isat u.region = false →
    let ca := tagFmt (a.tagAt q.hA q.k)
    let cb := tagFmt (b.tagAt q.hB q.k)
    (ca = 10 ∨ ca = 11) → (cb = 10 ∨ cb = 11) → ((s.unit u).mat.accOf f.acc).fmt = .int32 →
    ((s.unit u).mat.accOf f.acc).entries.length = 1024 →
    ∃ t, exec (.tilePairRetire u) s = .next t ∧ ∀ i j, i < 32 → j < 32 →
      (((t.unit u).mat.accOf f.acc).entries.getD (32 * i + j) 0).toNat =
        ((intVal 32 true (((s.unit u).mat.accOf f.acc).entries.getD (32 * i + j) 0).toNat +
          ((List.range 64).map (fun k => slotInts s u.cellId a (a.at_ q.hA q.k) ca i k * slotInts s u.cellId b (b.at_ q.hB q.k) cb j k)).sum)
          % 2 ^ 32).toNat

/-- R239, R242, R252-R255: at retirement, every row read and every out row written, a multiplication leaves its accumulator FULL;
TZERO leaves it EMPTY with every entry +0; TDRAIN tags its out slot FULL and leaves EMPTY; TLOAD leaves FULL with its slots' values,
TADDR FULL with the bias row added (stated of INT8 on INT32, AMODE isat 0), and pop their slots; TTRANS tags its out slots FULL and pops
its sources; each gives the sequencer back. -/
def Says.MatrixWordsRetire : Prop :=
  (∀ (u : UnitId) (s : State) q f na nb, (s.unit u).mat.seq = some q → macOf q.word = some (f, na, nb) → q.started = false →
    tileCount f ≤ q.k → ∃ t, exec (.mWordRetire u) s = .next t ∧ (t.unit u).mat.seq = none ∧
      (t.unit u).mat.accOf f.acc = { (s.unit u).mat.accOf f.acc with st := .full } ∧ sameBytes s t ∧ t.rings = s.rings) ∧
  (∀ (u : UnitId) (s : State) q n, (s.unit u).mat.seq = some q → q.word = .tzero n → s.seqFree u = true →
    ∃ t, exec (.mWordRetire u) s = .next t ∧ (t.unit u).mat.seq = none ∧ ((t.unit u).mat.accOf n).st = .empty ∧
      ((t.unit u).mat.accOf n).fmt = .none ∧ (∀ w ∈ ((t.unit u).mat.accOf n).entries, w = 0) ∧ sameBytes s t) ∧
  (∀ (u : UnitId) (s : State) q n clr (out fmt : BitVec 4) r sh g, (s.unit u).mat.seq = some q →
    q.word = .tdrain n clr out fmt r sh → s.ring? u.cellId out.toNat = some g → q.claims.headD 0 < g.slots.length →
    q.started = true → s.seqFree u = true →
    let x := (s.unit u).mat.accOf n
    let slot := q.claims.headD 0
    ∃ t g', exec (.mWordRetire u) s = .next t ∧ (t.unit u).mat.seq = none ∧
      (t.unit u).mat.accOf n = (if clr then {} else { x with st := .empty }) ∧
      t.ring? u.cellId out.toNat = some g' ∧ (g'.slotOf slot).st = .full ∧ tagFmt (g'.slotOf slot).tag = fmt ∧ sameBytes s t) ∧
  (∀ (u : UnitId) (s : State) q n (ring : BitVec 4) pop g, (s.unit u).mat.seq = some q → q.word = .tload n ring pop →
    s.seqFree u = true → s.ring? u.cellId ring.toNat = some g → tagFmt (g.tagAt q.hA 0) = 10 →
    ∃ t, exec (.mWordRetire u) s = .next t ∧ (t.unit u).mat.seq = none ∧ sameBytes s t ∧
      ((t.unit u).mat.accOf n).st = .full ∧ ((t.unit u).mat.accOf n).fmt = .int32 ∧
      ∀ i j, i < 32 → j < 32 → (((t.unit u).mat.accOf n).entries.getD (32 * i + j) 0).toNat =
        (slotInts s u.cellId g (g.at_ q.hA 0) 10 i j % 2 ^ 32).toNat) ∧
  (∀ (u : UnitId) (s : State) q n (ring : BitVec 4) pop g af, (s.unit u).mat.seq = some q → q.word = .tload n ring pop →
    s.seqFree u = true → s.ring? u.cellId ring.toNat = some g →
    let c := tagFmt (g.tagAt q.hA 0)
    let cols := 32 / loadSlots c
    loadFmt c = some af →
    ∃ t, exec (.mWordRetire u) s = .next t ∧ (t.unit u).mat.seq = none ∧ sameBytes s t ∧
      ((t.unit u).mat.accOf n).st = .full ∧ ((t.unit u).mat.accOf n).fmt = af ∧
      t.ring? u.cellId ring.toNat = some (if pop then g.popN (loadSlots c) else g) ∧
      ∀ i j, i < 32 → j < 32 →
        let bits := elem (fmtWidth c) (s.mem.row (ringAddr u.cellId g (g.at_ q.hA (j / cols)) i)).toNat (j % cols)
        (af ≠ .int32 → ((t.unit u).mat.accOf n).entries.getD (32 * i + j) 0 =
          BitVec.ofNat 64 (accWrite (accFloat af) (roundTo (accFloat af) 0 false (valOf c bits))).bits) ∧
        (∀ k sg, af = .int32 → intOf? c = some (k, sg) →
          (((t.unit u).mat.accOf n).entries.getD (32 * i + j) 0).toNat = (intVal k sg bits % 2 ^ 32).toNat)) ∧
  (∀ (u : UnitId) (s : State) q n (ring : BitVec 4) pop g, (s.unit u).mat.seq = some q → q.word = .taddr n ring pop →
    s.seqFree u = true → s.ring? u.cellId ring.toNat = some g →
    ∃ t, exec (.mWordRetire u) s = .next t ∧ (t.unit u).mat.seq = none ∧ sameBytes s t ∧
      ((t.unit u).mat.accOf n).st = .full ∧ ((t.unit u).mat.accOf n).fmt = ((s.unit u).mat.accOf n).fmt ∧
      t.ring? u.cellId ring.toNat = some (if pop then g.pop else g) ∧
      (tagFmt (g.tagAt q.hA 0) = 10 → ((s.unit u).mat.accOf n).fmt = .int32 → s.isat u.region = false →
        ((s.unit u).mat.accOf n).entries.length = 1024 → ∀ i j, i < 32 → j < 32 →
        (((t.unit u).mat.accOf n).entries.getD (32 * i + j) 0).toNat =
          ((intVal 32 true (((s.unit u).mat.accOf n).entries.getD (32 * i + j) 0).toNat +
            slotInts s u.cellId g (g.at_ q.hA 0) 10 0 j) % 2 ^ 32).toNat)) ∧
  (∀ (u : UnitId) (s : State) q (ring out : BitVec 4) pop g k, (s.unit u).mat.seq = some q → q.word = .ttrans ring pop out →
    s.seqFree u = true → q.started = true → ring ≠ out → q.hold = [] → s.ring? u.cellId ring.toNat = some g →
    s.ring? u.cellId out.toNat = some k →
    ∃ t k', exec (.mWordRetire u) s = .next t ∧ (t.unit u).mat.seq = none ∧ sameBytes s t ∧
      t.ring? u.cellId out.toNat = some k' ∧ (∀ e ∈ q.claims, e < k.slots.length → (k'.slotOf e).st = .full ∧ (k'.slotOf e).tag = k.decl) ∧
      t.ring? u.cellId ring.toNat = some (if pop then g.popN (transSlots (tagFmt k.decl)) else g))

/-- R252, R255, R292: a TDRAIN's out rows hold the drained entries, row i at the slot's row i; a TTRANS's the transposed block; a step of the sequencer writes of every bank
the first row still to be written, where the bank serves out-ring writes, each whole and unpoisoned; nothing else is stored. -/
def Says.OutRowsAreWritten : Prop :=
  (∀ (u : UnitId) (s : State) q n clr (out fmt : BitVec 4) r sh g i, q.word = .tdrain n clr out fmt r sh →
    s.ring? u.cellId out.toNat = some g → (fmt = 3 ∨ fmt = 4 ∨ fmt = 10) →
    let x := (s.unit u).mat.accOf n
    x.entries.length = 1024 → i < 32 →
    (s.outRows u q).length = 32 ∧ ∃ row, (s.outRows u q)[i]? = some (ringAddr u.cellId g (q.claims.headD 0) i, row) ∧
      ∀ j, j < 32 → elem (fmtWidth fmt) row.toNat j =
        (drainElem x.fmt fmt r sh.toNat (x.entries.getD (32 * i + j) 0)).bits % 2 ^ fmtWidth fmt) ∧
  (∀ (u : UnitId) (s : State) q (ring out : BitVec 4) pop g k n slot i, q.word = .ttrans ring pop out → q.hold = [] →
    s.ring? u.cellId ring.toNat = some g → s.ring? u.cellId out.toNat = some k →
    let f := tagFmt k.decl
    let cols := 32 / transSlots f
    (fmtWidth f = 16 ∨ fmtWidth f = 32 ∨ fmtWidth f = 64) → q.claims.length = transSlots f → q.claims[n]? = some slot → i < 32 →
    ∃ row, (s.outRows u q)[32 * n + i]? = some (ringAddr u.cellId k slot i, row) ∧
      ∀ e, e < cols → elem (fmtWidth f) row.toNat e =
        elem (fmtWidth f) (s.mem.row (ringAddr u.cellId g (g.at_ q.hA (i / cols)) (n * cols + e))).toNat (i % cols)) ∧
  (∀ (u : UnitId) (s : State) q, (s.unit u).mat.seq = some q → macOf q.word = none → q.left = [] → q.out ≠ [] → s.mem.wf = true →
    (q.out.map Prod.fst).Nodup → (∀ e ∈ q.out, e.1 % 64 = 0) →
    let now := (perBank (q.out.map Prod.fst)).filter (fun a => s.bankServes a 4)
    ∃ t, exec (.mWordRetire u) s = .next t ∧ t.rings = s.rings ∧
      (t.unit u).mat.seq = some { q with out := q.out.filter (fun e => !now.contains e.1) } ∧
      (∀ e ∈ q.out, e.1 ∈ now → t.mem.row e.1 = e.2 ∧ t.mem.rowPoisoned e.1 = false) ∧
      ∀ a, (∀ b ∈ now, a < b ∨ b + 64 ≤ a) → t.mem.byte a = s.mem.byte a ∧ t.mem.poisoned a = s.mem.poisoned a)

/-- R64, R239-R255, R292: tile pairs start and retire, rows go through their banks, and what matrix words leave at retirement. -/
def Obligations.MatrixPairsAndRetirement : Prop :=
  Says.TilePairsStartAndRetire ∧ Says.MatrixReadsThroughBanks ∧ Says.OutRowsAreWritten ∧ Says.MatrixWordsRetire

/-! ## Causes at elements and what follows issue -/

/-- R103, R151, R165, R190, R308, R321, R322, R331, R456: an element word whose operands fail a check raises that cause at issue, and so
does a stamped word on a widened die, an LDAS of a stamp above L, XGRANT without its FREE buffer, and XSEND without a live header, a
usable permit or its pair and parity; it performs none of its effect; the first cause is written to EFAULT and stops
the element, and FABRIC_FAULT is pending at its region's core, or merges into the one that the core handles (R393); a later cause
sets `more` alone, but of an earlier-issued word in the same cycle it takes the fields. -/
def Obligations.IssueFaultsStopTheElement : Prop :=
  (∀ (i : Instr) (v : EView) pols f (s : State), i.eview = some v → issuePols s i = some pols →
    (∀ op o ps, memWord i = some (op, o, ps) →
      s.PortOpen op ∧ ∀ sys, op.stampScope? = some sys → s.stampBlocked (unitDie s.site.unit) sys = false) →
    s.gate v pols = .raises f → exec i s = .next (s.issueFault v.trig.ctx f)) ∧
  (∀ (i : Instr) (v : EView) pols op o sys (s : State), i.eview = some v → memWord i = some (op, o, pols) → op.stampScope? = some sys →
    s.PortOpen op → s.stampBlocked (unitDie s.site.unit) sys = true → s.gate v pols ≠ .wait →
    exec i s = .next (s.issueFault v.trig.ctx ⟨0x08, none, 0⟩)) ∧
  (∀ t d a b sys x y (s : State), s.PortOpen (.ldas sys) → s.stampBlocked (unitDie s.site.unit) sys = false →
    s.Clear (.std t d [a, b] .none) [{ align := 8 }] [x, y] → (s.die (unitDie s.site.unit)).l < y.val.toNat →
    exec (.ldas t d a b sys) s = .next (s.issueFault t.ctx ⟨0x04, none, 0⟩)) ∧
  (∀ t o a b c f (s : State), s.readSrc s.site.unit t.ctx b = some c →
    s.gate { trig := t, ins := [a, b], outs := [pairOut o (!c.val.getLsbD 0)] } [{ marks := true, use := false }, {}] = .raises f →
    exec (.steer t o a b) s = .next (s.issueFault t.ctx f)) ∧
  (∀ t d iT iF iC c (s : State), s.Runs s.site.unit s.site.slot t → s.readSrc s.site.unit t.ctx (.take iC) = some c →
    (∀ f, c.check {} = some f → exec (.mergec t d iT iF iC) s = .next (s.issueFault t.ctx f)) ∧
    (∀ f, c.check {} = none → s.gate (.std t d [.take iC, .take (if c.val.getLsbD 0 then iT else iF)] .none)
      [{}, { marks := true, use := false }] = .raises f → exec (.mergec t d iT iF iC) s = .next (s.issueFault t.ctx f))) ∧
  (∀ t (o : BitVec 2) a x (s : State), s.Clear { trig := t, ins := [a], outs := [o.setWidth 3] } [] [x] →
    (∀ k p, s.permitPair s.site.unit o.toNat = some (k, p) → (p.buf (x.val.getLsbD 0)).st ≠ .free) →
    exec (.xgrant t o a) s = .next (s.issueFault t.ctx ⟨0x14, none, 0⟩)) ∧
  (∀ t o iS iP x q (s : State), s.Able s.site.unit s.site.slot { trig := t, ins := [.take iS, .take iP] } →
    s.readSrcs s.site.unit t.ctx [.take iS, .take iP] = some [x, q] →
    (∀ h, x.tok = some h → (h.kind ≠ 0 ∨ (h.utag ≠ 1 ∧ h.utag ≠ 2)) →
      exec (.xsend t o iS iP) s = .next (s.issueFault t.ctx ⟨0x0D, x.chan, h.sideband⟩)) ∧
    (∀ h, x.tok = some h → h.kind = 0 → (h.utag = 1 ∨ h.utag = 2) →
      (∀ f, q.check { use := false } = some f → exec (.xsend t o iS iP) s = .next (s.issueFault t.ctx f)) ∧
      (q.check { use := false } = none →
        (s.sendPair s.site.unit o.toNat = none ∨ x.val.getLsbD 2 ≠ q.val.getLsbD 0) →
        exec (.xsend t o iS iP) s = .next (s.issueFault t.ctx ⟨0x14, none, 0⟩)))) ∧
  (∀ (c : BitVec 2) (f : IssueFault) (s : State),
    let u := s.site.unit
    let t := s.issueFault c f
    sameBytes s t ∧ t.chans = s.chans ∧ t.rings = s.rings ∧ t.pairs = s.pairs ∧ (t.unit u).ctx = (s.unit u).ctx ∧
    (t.unit u).vec = (s.unit u).vec ∧ (t.unit u).flights = (s.unit u).flights ∧
    ((s.unit u).efault.getLsbD 63 = false →
      (t.unit u).efault = efaultWord f.cause s.site.slot c.toNat (s.region u.region).tag f.chan f.sb 0 ∧
      (t.unit u).efault.getLsbD 63 = true ∧
      ((s.region u.region).launch.isSome = true → (s.core u.region).handlesFabric = false →
        (t.core u.region).pend.fabric.isSome = true) ∧
      ((s.core u.region).handlesFabric = true → (t.core u.region).pend = (s.core u.region).pend)) ∧
    ((s.unit u).efault.getLsbD 63 = true → (s.unit u).faultTick ≤ s.ticket →
      (t.unit u).efault = (s.unit u).efault ||| (1 : Word) <<< 62)) ∧
  (∀ (u : UnitId) (tick : Nat) cause w ctx ch sb fl (s : State), (s.unit u).efault.getLsbD 63 = true → (s.unit u).faultCyc = s.cyc →
    ((s.recordFaultOf u tick cause w ctx ch sb fl).unit u).efault = if tick < (s.unit u).faultTick
      then efaultWord cause w ctx (s.region u.region).tag ch sb fl ||| (1 : Word) <<< 62 else (s.unit u).efault ||| (1 : Word) <<< 62)

/-- R96, R98, R103, R192, R214, R232, R292: the earliest word whose latency has run out writes its register with its poison, its predicate, and
its flags into ASTAT, and clears the pending bits; memory is as before where it writes no ring row, and a row is stored whole; a
bank that does not serve it puts it off by a cycle, with nothing written. A flag that AMODE enables raises ARITH_TRAP, whose EFAULT
holds every flag the word set (R103, R192). -/
def Obligations.WriteBackLands : Prop :=
  (∀ (u : UnitId) (s : State) (f : Flight), (s.unit u).flights.find? (fun g => g.due ≤ s.cyc) = some f → f.land.rows = [] →
    ((∀ a ∈ f.land.reads, s.bankServes a 1 = true) → ∃ t, exec (.writeBack u) s = .next t ∧ sameBytes s t ∧
      (t.unit u).flights = (s.unit u).flights.filter (fun g => g.tick ≠ f.tick) ∧
      (∀ r v p, f.land.reg = some (r, v, p) → ((t.unit u).context f.ctx).x.get r.toFin = v ∧
        ((t.unit u).context f.ctx).px.getLsbD r.toNat = p) ∧
      (∀ r, f.land.regPend = some r → ((t.unit u).context f.ctx).pendX.getLsbD r.toNat = false) ∧
      (∀ j b, f.land.pred = some (j, b) → ((t.unit u).context f.ctx).p.getLsbD j.toNat = b ∧
        ((t.unit u).context f.ctx).pendP.getLsbD j.toNat = false) ∧
      (f.land.reg = none → ((t.unit u).context f.ctx).x = ((s.unit u).context f.ctx).x) ∧
      (t.region u.region).astat = (s.region u.region).astat ||| f.land.flags ∧
      ((s.region u.region).amode.extractLsb' 0 6 &&& f.land.flags = 0 → (t.unit u).efault = (s.unit u).efault) ∧
      ((s.region u.region).amode.extractLsb' 0 6 &&& f.land.flags ≠ 0 → (s.unit u).efault.getLsbD 63 = false →
        (t.unit u).efault = efaultWord 0x0F f.slot f.ctx (s.region u.region).tag none 0 f.land.flags) ∧
      (∀ v, v ≠ u → t.unit v = s.unit v)) ∧
    (∀ a ∈ f.land.reads, s.bankServes a 1 = false → ∃ t, exec (.writeBack u) s = .next t ∧ sameBytes s t ∧
      (t.unit u).ctx = (s.unit u).ctx ∧ (t.unit u).vec = (s.unit u).vec ∧
      (t.unit u).flights = (s.unit u).flights.map (fun g => if g.tick = f.tick then { g with due := g.due + 1 } else g))) ∧
  (∀ (u : UnitId) (s : State) (f : Flight) w g, (s.unit u).flights.find? (fun g => g.due ≤ s.cyc) = some f → f.land.rows = [w] →
    f.land.reads = [] → s.ring? u.cellId w.ring = some g → s.mem.wf = true → g.base % 64 = 0 →
    (∀ e ∈ (s.unit u).flights, e.tick < f.tick → ∀ v ∈ e.land.rows, v.ring ≠ w.ring) →
    let a := ringAddr u.cellId g w.slot w.row
    (s.bankServes a 2 = true → ∃ t, exec (.writeBack u) s = .next t ∧ t.mem.row a = w.data ∧ t.mem.rowPoisoned a = w.poison ∧
      sameBytesBut a 64 s t ∧ (w.commit = true → w.slot < g.slots.length → ∃ g', t.ring? u.cellId w.ring = some g' ∧
        (g'.slotOf w.slot).st = .full)) ∧
    (s.bankServes a 2 = false → ∃ t, exec (.writeBack u) s = .next t ∧ sameBytes s t ∧ t.rings = s.rings ∧
      (t.unit u).flights = (s.unit u).flights.map (fun e => if e.tick = f.tick then { e with due := e.due + 1 } else e)))

/-- R109, R123, R234, R235, R318: a placed token reaches its input; a multi-token firing places one token a cycle; a VLDS takes
its eighth token and lands; a VSTS places its next word; a rotation MARK that is owed follows once its output has room (R382). -/
def Obligations.TokensMove : Prop :=
  (∀ (u : UnitId) k (s : State) n (x : Tok) ps, (s.chan (.inp u k)).places = (n, some x) :: ps → (s.chan (.inp u k)).hops = [] →
    s.inputOpen u k = true → (s.region u.region).knowsTag x.tag = true →
    ∃ t, exec (.tokenArrival u k) s = .next t ∧ sameBytes s t ∧ (t.chan (.inp u k)).inq = (s.chan (.inp u k)).inq ++ [x] ∧
      (t.chan (.inp u k)).places = ps) ∧
  (∀ (u : UnitId) k (s : State) n (x : Tok) ps, (s.chan (.inp u k)).places = (n, some x) :: ps → (s.chan (.inp u k)).hops = [] →
    s.inputOpen u k = true → (s.region u.region).knowsTag x.tag = false →
    ∃ t, exec (.tokenArrival u k) s = .next t ∧ (t.chan (.inp u k)).inq = (s.chan (.inp u k)).inq ∧
      (t.chan (.inp u k)).owed = (s.chan (.inp u k)).owed + 1 ∧ (t.chan (.inp u k)).places = ps) ∧
  (∀ (u : UnitId) (s : State) (m : Multi) base st k n, (s.unit u).multi = some m → m.due ≤ s.cyc → m.mark = none → m.reserved = true →
    m.src = .gen base st k n → k + 1 < n → (s.region u.region).rotates u 0 = false →
    ∃ t, exec (.multiTokenPlace u) s = .next t ∧ sameBytes s t ∧ (t.unit u).multi = some { m with
      due := s.cyc + 1, src := .gen base st (k + 1) n, reserved := false }) ∧
  (∀ (u : UnitId) k (s : State) (l : VLoad) (x : Tok), (s.unit u).vec.loads.find? (fun m => m.inp = k) = some l →
    s.head? u k = some x → (s.region u.region).frozen = none → x.tag = (s.region u.region).tag → (x.kind = 0 ∨ x.kind = 1) →
    ∃ t, exec (.vldsTokenTake u k) s = .next t ∧ (t.chan (.inp u k)).inq = (s.chan (.inp u k)).inq.tail ∧
      (l.got.length = 7 → ∃ tick r, (t.unit u).flights = (s.unit u).flights ++ [⟨tick, s.cyc + 1, l.ctx, l.slot,
          { vregs := [(l.vd, r, refin ((s.unit u).vec.tag.get l.vd.toFin) [r], l.poison || x.poison)] }⟩] ∧
        ∀ j, j < 8 → elem 64 r.toNat j = ((l.got ++ [x.data]).getD j 0).toNat) ∧
      (l.got.length < 7 → (t.unit u).vec.loads.find? (fun m => m.inp = k) =
        some { l with got := l.got ++ [x.data], poison := l.poison || x.poison })) ∧
  (∀ (u : UnitId) o (s : State) (l : VSend) w ws, (s.unit u).vec.sends.find? (fun m => m.out = o) = some l → l.left = w :: ws →
    l.due ≤ s.cyc → (s.region u.region).frozen = none → (∀ m ∈ (s.unit u).marks, m.2.2 ≠ o) → s.outRoom u o = true →
    ∃ t, exec (.vstsTokenPlace u o) s = .next t ∧ sameBytes s t ∧ (t.unit u).vec.sends =
      (s.unit u).vec.sends.filter (fun m => m.out ≠ o) ++ (if ws = [] then [] else [{ l with left := ws, due := s.cyc + 1 }])) ∧
  (∀ (u : UnitId) (s : State) due tick o ms, (s.unit u).multi = none → (s.unit u).marks = (due, tick, o) :: ms → due ≤ s.cyc →
    s.outRoom u o = true →
    exec (.multiTokenPlace u) s = .next ((s.placeMark u o tick).modUnit u (fun x => { x with marks := ms })))

/-! ## The control core -/

/-- R257, R258, R277, R278: an arithmetic or immediate instruction of the core whose sources are clean writes the table's result
to d and goes on at PC + 4. -/
def Obligations.CoreArithmeticDelivers : Prop :=
  ∀ (i : Instr) (s : State) reads d val, coreWord i (s.greg s.site.region) = some (reads, d, val) → s.CleanRegs s.site.region reads →
    exec i s = .next (s.retire s.site.region d val)

/-- R256, R257: what that leaves: d holds the value with poison 0, g0 reads 0 whatever is written, every other visible register,
the trap registers, memory, elements and other regions are as before. -/
def Obligations.RetiringWritesOneRegister : Prop :=
  ∀ (s : State) r d v, let t := s.retire r d v
    (d ≠ 0 → t.greg r d = v ∧ ((t.core r).read d).bad = false) ∧ t.greg r 0 = 0 ∧ sameRegs r d s t ∧ s.StepsOn t r ∧ sameButCore r s t

/-- R257, R268, R274: a poisoned source raises POISON at the instruction, precisely: EVAL holds the selector of the first such
register, EPC the instruction's own address; nothing else happens. -/
def Says.CorePoisonIsPrecise : Prop :=
  ∀ (i : Instr) (s : State) reads d val a, coreWord i (s.greg s.site.region) = some (reads, d, val) →
    reads.find? (fun a => ((s.core s.site.region).read a).bad) = some a →
    exec i s = .next (s.trapSync s.site.region 0x06 0 (a.setWidth 64) (s.core s.site.region).pc)

/-- R301, R309-R311: a core load whose address register is clean, aligned and translated, and that nothing holds back, writes d with
the value, extended as the table says, and the poison of its word; memory is as before. While its bank does not serve it, it is
tried again (R295). -/
def Obligations.CoreLoadsDeliver : Prop :=
  ∀ (i : Instr) (s : State) d a off n sx g v p, coreLoadOf i = some (d, a, off, n, sx) →
    let r := s.site.region
    let va := toWord ((s.greg r a).toInt + off.toInt)
    s.CleanRegs r [a] → va.toNat % n = 0 → s.translateCore r va .load = .ok g → s.routeDown (regionDie r) g.addr = false →
    (s.core r).overlaps g.addr n = false → s.postedBlocks g.addr s.ticket = false → s.readTarget g n = some (v, p) →
    (s.bankServes g.addr 4 = true → ∃ t, exec i s = .next t ∧
      (d ≠ 0 → (t.core r).read d = Reg.of (if sx then toWord (Int.bmod v (2 ^ (8 * n))) else toWord v) p) ∧
      sameRegs r d s t ∧ s.StepsOn t r ∧ sameButCore r s t) ∧
    (s.bankServes g.addr 4 = false → ∃ t, exec i s = .next t ∧ (t.core r).pc = (s.core r).pc ∧ (t.core r).stall = some .retry ∧
      (∀ x, (t.core r).read x = (s.core r).read x) ∧ sameBytes s t)

/-- R309-R311: a core store is accepted: the core goes on, memory is as before, and the store waits with its address, bytes, data
and poison. -/
def Obligations.CoreStoresAreAccepted : Prop :=
  ∀ (i : Instr) (s : State) d a off n rel g, coreStoreOf i = some (d, a, off, n, rel) →
    let r := s.site.region
    let va := toWord ((s.greg r a).toInt + off.toInt)
    s.CleanRegs r [a] → va.toNat % n = 0 → s.translateCore r va .store = .ok g →
    ∃ t, exec i s = .next t ∧ sameBytes s t ∧ (t.core r).pc = (s.core r).pc + 4 ∧ (∀ b, (t.core r).read b = (s.core r).read b) ∧
      (t.core r).stores = (s.core r).stores ++ [⟨s.ticket, g.addr, n, ((s.core r).read d).val, ((s.core r).read d).bad, rel⟩] ∧
      sameButCore r s t

/-- R268, R290, R309, R456: a core access that is misaligned, not translated or absent traps precisely, in that order, with the
address in EVAL. -/
def Says.CoreAccessFaultsInOrder : Prop :=
  ∀ (i : Instr) (s : State) d a off n (isLoad : Bool),
    ((∃ sx, coreLoadOf i = some (d, a, off, n, sx)) ∧ isLoad = true ∨ (∃ rel, coreStoreOf i = some (d, a, off, n, rel)) ∧ isLoad = false) →
    let r := s.site.region
    let va := toWord ((s.greg r a).toInt + off.toInt)
    let acc := if isLoad then Access.load else Access.store
    (((s.core r).read a).bad = true → exec i s = .next (s.trapSync r 0x06 0 (a.setWidth 64) (s.core r).pc)) ∧
    (s.CleanRegs r [a] → va.toNat % n ≠ 0 → exec i s = .next (s.trapSync r 0x02 0 va (s.core r).pc)) ∧
    (s.CleanRegs r [a] → va.toNat % n = 0 → s.translateCore r va acc = .prot → exec i s = .next (s.trapSync r 0x04 0 va (s.core r).pc)) ∧
    (s.CleanRegs r [a] → va.toNat % n = 0 → s.translateCore r va acc = .absent → exec i s = .next (s.trapSync r 0x03 0 va (s.core r).pc))

/-- R257, R268, R274, R290, R309, R456: poisoned sources and faulting accesses of the core trap precisely. -/
def Obligations.CoreFaultsArePrecise : Prop :=
  Says.CorePoisonIsPrecise ∧ Says.CoreAccessFaultsInOrder

/-- R305, R312: an AMO that nothing holds back reads and writes its eight bytes as one event: d takes the old value, memory the
new one; a poisoned old value writes nothing; every other byte is as before. -/
def Obligations.CoreAtomicsAct : Prop :=
  ∀ (i : Instr) (s : State) d a b o f uses g, coreAmoOf i = some (d, a, b, o, f, uses) → s.mem.wf = true →
    let r := s.site.region
    let va := s.greg r a
    s.CleanRegs r ([a] ++ (if uses then [b] else [])) → ((∃ d a b o, i = .amocas d a b o) → s.CleanRegs r [d]) →
    va.toNat % 8 = 0 → s.translateCore r va .atomic = .ok (.plain g) → s.routeDown (regionDie r) g = false →
    (o ≠ .plain → s.coreOwes r = false) → (s.core r).overlaps g 8 = false → s.postedBlocks g s.ticket = false →
    s.bankServes g 4 = true → s.trapsOn r flagSAT = false →
    ∃ t, exec i s = .next t ∧ sameBytesBut g 8 s t ∧ (t.core r).pc = (s.core r).pc + 4 ∧ sameRegs r d s t ∧
      (d ≠ 0 → (t.core r).read d = Reg.of (s.mem.word g) (s.mem.poisoned g)) ∧
      t.mem.word g = (if s.mem.poisoned g then s.mem.word g else (f (s.mem.word g) (s.greg r b) (s.greg r d)).getD (s.mem.word g))

/-- R258, R279: branches compare as the table says; a taken branch, JMP and JR go to their target inside the code area, an
untaken one to PC + 4. -/
def Says.BranchesAndJumpsGo : Prop :=
  (∀ (i : Instr) (s : State) a b off cond, branchOf i = some (a, b, off, cond) →
    let r := s.site.region
    let target := (s.core r).pc + toWord (4 * off.toInt)
    s.CleanRegs r [a, b] →
    (¬ cond (s.greg r a) (s.greg r b) → exec i s = .next (s.advance r)) ∧
    (cond (s.greg r a) (s.greg r b) → (s.core r).inCode target = true →
      exec i s = .next (s.modCore r (fun k => { k with pc := target, stall := none }))) ∧
    (cond (s.greg r a) (s.greg r b) → (s.core r).inCode target = false →
      exec i s = .next (s.trapSync r 0x04 0 target (s.core r).pc))) ∧
  (∀ (off : BitVec 26) (s : State), let r := s.site.region
    let target := (s.core r).pc + toWord (4 * off.toInt)
    (s.core r).inCode target = true → exec (.jmp off) s = .next (s.modCore r (fun k => { k with pc := target, stall := none }))) ∧
  (∀ a (s : State), let r := s.site.region
    s.CleanRegs r [a] → (s.greg r a).toNat % 4 = 0 → (s.core r).inCode (s.greg r a) = true →
    exec (.jr a) s = .next (s.modCore r (fun k => { k with pc := s.greg r a, stall := none }))) ∧
  (∀ a (s : State), let r := s.site.region
    s.CleanRegs r [a] → (s.greg r a).toNat % 4 ≠ 0 → exec (.jr a) s = .next (s.trapSync r 0x02 0 (s.greg r a) (s.core r).pc))

/-- R256, R259, R261, R279: CALL and CALLR open a window 16 registers further, with the return address in the new frame's l7; RET
goes to l7 and closes it; with a free frame nothing is spilled. -/
def Says.CallsAndReturnsMoveWindows : Prop :=
  (∀ (off : BitVec 26) (s : State), let r := s.site.region
    let target := (s.core r).pc + toWord (4 * off.toInt)
    (s.core r).roomy → (s.core r).inCode target = true →
    ∃ t, exec (.call off) s = .next t ∧ (t.core r).pc = target ∧ (t.core r).wptr = (s.core r).wptr + 16 ∧
      (t.core r).wbot = (s.core r).wbot ∧ t.greg r 23 = (s.core r).pc + 4 ∧ (t.core r).g = (s.core r).g ∧ sameButCore r s t) ∧
  (∀ a (s : State), let r := s.site.region
    (s.core r).roomy → s.CleanRegs r [a] → (s.greg r a).toNat % 4 = 0 → (s.core r).inCode (s.greg r a) = true →
    ∃ t, exec (.callr a) s = .next t ∧ (t.core r).pc = s.greg r a ∧ (t.core r).wptr = (s.core r).wptr + 16 ∧
      t.greg r 23 = (s.core r).pc + 4 ∧ sameButCore r s t) ∧
  (∀ (s : State), let r := s.site.region
    s.CleanRegs r [23] → (s.greg r 23).toNat % 4 = 0 → (s.core r).inCode (s.greg r 23) = true → 16 ≤ (s.core r).wptr →
    (s.core r).wbot ≠ (s.core r).wptr →
    ∃ t, exec .ret s = .next t ∧ (t.core r).pc = s.greg r 23 ∧ (t.core r).wptr = (s.core r).wptr - 16 ∧
      (t.core r).p = (s.core r).p ∧ (t.core r).g = (s.core r).g ∧ sameButCore r s t) ∧
  (∀ (s : State), let r := s.site.region
    s.CleanRegs r [23] → (s.greg r 23).toNat % 4 = 0 → (s.core r).wptr = 0 →
    exec .ret s = .next (s.trapSync r 0x0A 1 0 (s.core r).pc))

/-- R260-R262: a frame that a full window file spills to words of its own die and a later return fills comes back: value and poison
of its 16 registers. -/
def Says.SpilledFramesComeBack : Prop :=
  ∀ (s : State) (r w : Nat) (k' : Core) (as : List Nat) (i : Nat), s.mem.wf = true → as.length = 16 → i < 16 →
    as.Pairwise (fun a b => a + 8 ≤ b ∨ b + 8 ≤ a) → (∀ a ∈ as, a % 8 = 0 ∧ remoteRoute (regionDie r) a = []) →
    ∃ xs, (s.spillFrame r w (as.map Target.plain)).frameWords r (as.map Target.plain) = some xs ∧
      let x := (k'.fillFrame w xs).p.get (frameReg w i)
      x.val = ((s.core r).p.get (frameReg w i)).val ∧ x.bad = ((s.core r).p.get (frameReg w i)).bad

/-- R256-R262, R279: calls and returns move the window, and a spilled frame comes back. -/
def Obligations.WindowsMoveAndSpill : Prop :=
  Says.CallsAndReturnsMoveWindows ∧ Says.SpilledFramesComeBack

/-- R264-R268, R270-R274: trap entry with a free frame saves cause, value, address and status, enters handler mode, opens a
window and goes to EVEC; registers, memory and the rest are as before. -/
def Obligations.TrapEntrySaves : Prop :=
  ∀ (s : State) r (cause sub : Byte) (eval epc : Word), (s.core r).handler = false → (s.core r).roomy →
    let t := s.trapSync r cause sub eval epc
    (t.core r).ecause = toWord (cause.toNat + 256 * sub.toNat) ∧ (t.core r).eval = eval ∧ (t.core r).epc = epc ∧
    (t.core r).estat = 0 ∧ (t.core r).handler = true ∧ (t.core r).pc = (s.core r).evec ∧
    (t.core r).wptr = (s.core r).wptr + 16 ∧ (t.core r).g = (s.core r).g ∧ (t.core r).p = (s.core r).p ∧
    (t.core r).evec = (s.core r).evec ∧ (t.core r).pend = (s.core r).pend ∧ sameButCore r s t

/-- What DOUBLE_FAULT leaves (R276): the core stops where it is, the hub freezes the region and notifies system software; no byte
of memory changes. -/
def Says.stopped (r : Nat) (s t : State) : Prop :=
  (t.core r).run = .doubleFault ∧ (t.core r).pc = (s.core r).pc ∧ (t.core r).handler = true ∧
  (t.region r).frozen.isSome = true ∧ t.hub.events = [1, BitVec.ofNat 64 r] :: s.hub.events ∧ sameBytes s t

/-- R274, R276: a synchronous cause in handler mode, or a trap entry, synchronous or not, that finds no spill slot, puts the core in
DOUBLE_FAULT, where it takes no further trap and runs nothing; in handler mode the trap registers keep their values, a trap entry has
written its own (R274 writes them before it asks for a slot). The event's words, and the freeze of a region without a fault image area,
are the model's choice (notes/assumptions/61, 27). -/
def Obligations.DoubleFaultStopsTheCore : Prop :=
  let full (k : Core) : Prop := k.wbot + 128 < k.wptr + 40 ∧ k.slots ≤ k.wbot / 16
  (∀ (s : State) r (cause sub : Byte) (eval epc : Word), (s.core r).handler = true →
    let t := s.trapSync r cause sub eval epc
    Says.stopped r s t ∧ (t.core r).ecause = (s.core r).ecause ∧ (t.core r).epc = (s.core r).epc ∧ (t.core r).eval = (s.core r).eval ∧
      (t.core r).estat = (s.core r).estat) ∧
  (∀ (s : State) r (cause sub : Byte) (eval epc : Word), (s.core r).handler = false → full (s.core r) →
    let t := s.trapSync r cause sub eval epc
    Says.stopped r s t ∧ (t.core r).ecause = toWord (cause.toNat + 256 * sub.toNat) ∧ (t.core r).epc = epc ∧ (t.core r).eval = eval ∧
      (t.core r).estat = 0) ∧
  (∀ (s : State) r c v rest, (s.region r).coreFrozen = false → (s.core r).stall = none → (s.core r).handler = false →
    (s.core r).run ≠ .doubleFault → full (s.core r) → (s.core r).pend.take? = some (c, v, rest) →
    ∃ t, exec (.trapEntry r) s = .next t ∧ Says.stopped r s t ∧ (t.core r).ecause = c.code.setWidth 64 ∧ (t.core r).eval = v ∧
      (t.core r).epc = (s.core r).pc) ∧
  (∀ (s : State) r ts, (s.core r).run = .doubleFault → exec (.trapEntry r) s = .next s ∧
    (s.agenda = .core r :: ts → r < 80 → step s = .next { s.settleInput with agenda := ts }))

/-- R283-R285, R77, R89, R258: TRAP enters with EPC at the next instruction; BRK, a word that is no instruction and a fetch
outside the code area enter with EPC at their own address; ERET returns to EPC in the saved mode; HALT waits. -/
def Obligations.TrapsAndReturnsAct : Prop :=
  (∀ a (s : State), s.CleanRegs s.site.region [a] → exec (.trap a) s =
    .next (s.trapSync s.site.region 0x11 0 (s.greg s.site.region a) ((s.core s.site.region).pc + 4))) ∧
  (∀ (s : State), s.routesBrk = false → exec .brk s = .next (s.trapSync s.site.region 0x10 0 0 (s.core s.site.region).pc)) ∧
  (∀ (w : BitVec 32) (s : State), exec (.illegalWord w) s =
    .next (s.trapSync s.site.region 0x01 0 (w.setWidth 64) (s.core s.site.region).pc)) ∧
  (∀ (s : State), exec .fetchOutsideCodeArea s =
    .next (s.trapSync s.site.region 0x04 0 (s.core s.site.region).pc (s.core s.site.region).pc)) ∧
  (∀ (s : State), let r := s.site.region
    (s.core r).handler = true → 16 ≤ (s.core r).wptr → (s.core r).wbot ≠ (s.core r).wptr → (s.core r).inCode (s.core r).epc = true →
    ((s.core r).estat.getLsbD 0 = true ∨ (s.core r).pend = {}) →
    ∃ t, exec .eret s = .next t ∧ (t.core r).pc = (s.core r).epc ∧ (t.core r).handler = (s.core r).estat.getLsbD 0 ∧
      (t.core r).wptr = (s.core r).wptr - 16 ∧ (t.core r).p = (s.core r).p ∧ (t.core r).epc = (s.core r).epc ∧ sameButCore r s t) ∧
  (∀ (s : State), let r := s.site.region
    ∃ t, exec .halt s = .next t ∧ (t.core r).run = .halted ∧ (t.core r).wait = some .halt ∧ (t.core r).pc = (s.core r).pc ∧
      (∀ a, (t.core r).read a = (s.core r).read a) ∧ sameButCore r s t)

/-- R273-R275: in user mode the pending cause of highest priority is taken: its code in ECAUSE, its value in EVAL, EPC at the
core's PC, ESTAT marking it asynchronous; it is no longer pending; in handler mode nothing is taken. -/
def Obligations.AsynchronousCausesAreTaken : Prop :=
  (∀ (s : State) r c v rest, (s.region r).coreFrozen = false → (s.core r).stall = none → (s.core r).handler = false →
    (s.core r).run ≠ .doubleFault → (s.core r).roomy → (s.core r).pend.take? = some (c, v, rest) →
    ∃ t, exec (.trapEntry r) s = .next t ∧ (t.core r).ecause = c.code.setWidth 64 ∧ (t.core r).eval = v ∧
      (t.core r).epc = (s.core r).pc ∧ (t.core r).estat = toWord (4 * (s.core r).wait.isSome.toNat + 2) ∧
      (t.core r).handler = true ∧ (t.core r).wait = none ∧ (t.core r).pend = rest ∧ (t.core r).pc = (s.core r).evec ∧ sameButCore r s t) ∧
  (∀ (s : State) r, (s.core r).handler = true → exec (.trapEntry r) s = .next s) ∧
  (∀ (p : Pend) v, (p.watchdog = some v → ∃ q, p.take? = some (.watchdog, v, q)) ∧
    (p.watchdog = none → p.link = some v → ∃ q, p.take? = some (.link, v, q)) ∧
    (p.watchdog = none → p.link = none → p.fabric = some v → ∃ q, p.take? = some (.fabric, v, q)) ∧
    (p.watchdog = none → p.link = none → p.fabric = none → p.page = some v → ∃ q, p.take? = some (.page, v, q)) ∧
    (p.watchdog = none → p.link = none → p.fabric = none → p.page = none → p.wide = some v → ∃ q, p.take? = some (.wide, v, q)) ∧
    (p.watchdog = none → p.link = none → p.fabric = none → p.page = none → p.wide = none → p.preempt = some v →
      ∃ q, p.take? = some (.preempt, v, q)) ∧
    (∀ h hs, p.watchdog = none → p.link = none → p.fabric = none → p.page = none → p.wide = none → p.preempt = none →
      p.promises = h :: hs → ∃ q, p.take? = some (.promise, BitVec.ofNat 64 h, q)))

/-- R280, R313: FENCE goes on once no earlier store of the core, a stamped one included, is still to be performed (acq at once), and else tries
again; PHASE sets
the masked runtime predicates and marks them written. -/
def Says.FenceAndPhaseAct : Prop :=
  (∀ k c (s : State), let r := s.site.region
    (k = .acq ∨ ((s.core r).stores = [] ∧ ∀ x ∈ s.stamped, x.byCore = true → x.region = r → x.installed = true)) →
    exec (.fence k c) s = .next (s.advance r)) ∧
  (∀ k c (s : State), let r := s.site.region
    k ≠ .acq → ((s.core r).stores ≠ [] ∨ ∃ x ∈ s.stamped, x.byCore = true ∧ x.region = r ∧ x.installed = false) →
    exec (.fence k c) s = .next (s.tryAgain r)) ∧
  (∀ a (mask : BitVec 4) (s : State), let r := s.site.region
    s.CleanRegs r [a] → ∃ t, exec (.phase a mask) s = .next t ∧ sameBytes s t ∧ (∀ b, (t.core r).read b = (s.core r).read b) ∧
      s.StepsOn t r ∧ ∀ k, k < 4 →
        (t.region r).rp.getLsbD k = (if mask.getLsbD k then (s.greg r a).getLsbD k else (s.region r).rp.getLsbD k) ∧
        (t.region r).wr.getLsbD k = ((s.region r).wr.getLsbD k || mask.getLsbD k))

/-- R258, R279, R280, R313: branches, jumps, FENCE and PHASE. -/
def Obligations.BranchFencePhaseAct : Prop :=
  Says.BranchesAndJumpsGo ∧ Says.FenceAndPhaseAct

/-- R368-R374: CLKRD reads both ends of the die's interval, CYC the cycle, FLOOR the floor of its scope; SLEEPU and WAITS go on
when their time has come and else wait; WAITS.sys on a stalled system floor raises INTERVAL_WIDE. -/
def Obligations.TimeInstructionsRead : Prop :=
  (∀ (p : BitVec 4) (s : State), let r := s.site.region
    ∃ t, exec (.clkrd p) s = .next t ∧ t.greg r (p ++ 0#1) = (if p = 0 then 0 else BitVec.ofNat 64 (s.die (regionDie r)).e) ∧
      t.greg r (p ++ 1#1) = BitVec.ofNat 64 (s.die (regionDie r)).l ∧ s.StepsOn t r ∧ sameButCore r s t) ∧
  (∀ d (s : State), exec (.cyc d) s = .next (s.retire s.site.region d (BitVec.ofNat 64 s.cyc))) ∧
  (∀ d sys (s : State), exec (.floor d sys) s = .next (s.retire s.site.region d (BitVec.ofNat 64
    (if sys then (s.die (regionDie s.site.region)).sysFloor else (s.die (regionDie s.site.region)).floor)))) ∧
  (∀ a (s : State), let r := s.site.region
    s.CleanRegs r [a] → ((s.greg r a).toNat ≤ s.cyc → exec (.sleepu a) s = .next (s.advance r)) ∧
      (s.cyc < (s.greg r a).toNat → exec (.sleepu a) s = .next (s.wait r (.sleepu (s.greg r a))))) ∧
  (∀ a sys (s : State), let r := s.site.region
    s.CleanRegs r [a] → ¬ (sys = true ∧ s.hub.stall152 = true) →
      ((s.greg r a).toNat < s.floorAt sys (regionDie r) → exec (.waits a sys) s = .next (s.advance r)) ∧
      (s.floorAt sys (regionDie r) ≤ (s.greg r a).toNat → exec (.waits a sys) s = .next (s.wait r (.waits (s.greg r a) sys)))) ∧
  (∀ a (s : State), s.hub.stall152 = true → exec (.waits a true) s =
    .next (s.trapSync s.site.region 0x08 0 (s.width (regionDie s.site.region)) (s.core s.site.region).pc))

/-- R145, R148, R151, R308, R314, R315: STS takes a stamp above every stamp of its die and not below L; posted it writes the stamp
at once, else the core waits for visibility; LDAS of a stamp not above L waits for the floor; on a widened die both raise
INTERVAL_WIDE. -/
def Obligations.StampedCoreInstructionsAct : Prop :=
  (∀ d a b sys posted (s : State) g, let r := s.site.region
    let die := regionDie r
    let stamp := max (s.die die).l ((s.die die).last + 1)
    s.stampBlocked die sys = false → s.CleanRegs r [a] → (s.greg r a).toNat % 8 = 0 →
    s.translateCore r (s.greg r a) .stampedStore = .ok g →
    ∃ t, exec (.sts d a b sys posted) s = .next t ∧ sameBytes s t ∧ (t.die die).last = stamp ∧
      t.stamped = s.stamped ++ [⟨g.addr, ((s.core r).read b).val, ((s.core r).read b).bad, sys, stamp, die, false,
        if posted then .nobody else .core r, r, s.ticket, true, none, 0⟩] ∧
      (posted = true → (t.core r).pc = (s.core r).pc + 4 ∧ (d ≠ 0 → t.greg r d = BitVec.ofNat 64 stamp)) ∧
      (posted = false → (t.core r).pc = (s.core r).pc ∧ (t.core r).stall = some (.sts stamp d))) ∧
  (∀ d a b sys (s : State) g, let r := s.site.region
    s.stampBlocked (regionDie r) sys = false → s.CleanRegs r [a, b] → (s.greg r a).toNat % 8 = 0 →
    (s.greg r b).toNat ≤ (s.die (regionDie r)).l → s.translateCore r (s.greg r a) .stampedLoad = .ok g →
    ∃ t, exec (.coreLdas d a b sys) s = .next t ∧ sameBytes s t ∧ (t.core r).pc = (s.core r).pc ∧
      (t.core r).stall = some (.ldas 0 d) ∧ t.ldas = s.ldas ++ [⟨g.addr, (s.greg r b).toNat, sys, .core r, s.greg r a⟩]) ∧
  (∀ d a b sys (s : State), let r := s.site.region
    s.stampBlocked (regionDie r) sys = true →
    (∀ posted, exec (.sts d a b sys posted) s = .next (s.trapSync r 0x08 0 (s.width (regionDie r)) (s.core r).pc)) ∧
    exec (.coreLdas d a b sys) s = .next (s.trapSync r 0x08 0 (s.width (regionDie r)) (s.core r).pc)) ∧
  (∀ d a b sys (s : State), let r := s.site.region
    s.stampBlocked (regionDie r) sys = false → s.CleanRegs r [a, b] → (s.greg r a).toNat % 8 = 0 →
    (s.die (regionDie r)).l < (s.greg r b).toNat →
    exec (.coreLdas d a b sys) s = .next (s.trapSync r 0x04 0 (s.greg r b) (s.core r).pc))

/-- R355, R356: TLOOK finds the entry that holds an address's tag or gives all ones; TFILL writes an entry, TEVICT removes it. -/
def Says.TagTableActs : Prop :=
  (∀ d a (s : State), let r := s.site.region
    s.CleanRegs r [a] → canonical (s.greg r a) = true → exec (.tlook d a) s = .next (s.retire r d
      (match (s.region r).tags.find? (fun e => e.2 = toWord ((s.greg r a).toNat / 8192 % 2 ^ 43)) with
        | some e => BitVec.ofNat 64 e.1
        | none => toWord (-1)))) ∧
  (∀ a b (s : State), let r := s.site.region
    let tag := toWord ((s.greg r a).toNat / 8192 % 2 ^ 43)
    s.CleanRegs r [a, b] → canonical (s.greg r a) = true → (s.greg r b).toNat < s.rcap r / 8192 →
    (s.greg r a).toNat % 8192 = 0 → (∀ e ∈ (s.region r).tags, e.2 ≠ tag) →
    ∃ t, exec (.tfill a b) s = .next t ∧ (t.region r).tags.get? (s.greg r b).toNat = some tag ∧
      (∀ n, n ≠ (s.greg r b).toNat → (t.region r).tags.get? n = (s.region r).tags.get? n) ∧
      (∀ c, (t.core r).read c = (s.core r).read c) ∧ s.StepsOn t r ∧ sameBytes s t) ∧
  (∀ a (s : State), let r := s.site.region
    s.CleanRegs r [a] → (s.greg r a).toNat < s.rcap r / 8192 →
    ∃ t, exec (.tevict a) s = .next t ∧ (t.region r).tags.get? (s.greg r a).toNat = none ∧
      (∀ n, n ≠ (s.greg r a).toNat → (t.region r).tags.get? n = (s.region r).tags.get? n) ∧
      (∀ c, (t.core r).read c = (s.core r).read c) ∧ s.StepsOn t r ∧ sameBytes s t)

/-- R376, R381, R385: CNTRD reads a defined counter; CNTCFG writes a programmable counter's configuration, gives the old one and
clears its count; CNTCLR zeroes a region counter but for what this cycle counted; an undefined number raises PROTECTION. -/
def Says.CounterInstructionsAct : Prop :=
  (∀ d a (s : State), let r := s.site.region
    s.CleanRegs r [a] → (s.greg r a).toNat ≤ 0x13 → exec (.cntrd d a) s =
      .next (s.retire r d (BitVec.ofNat 64 ((s.region r).ctr.get (s.greg r a).toNat 0)))) ∧
  (∀ d a (s : State), let r := s.site.region
    s.CleanRegs r [a] → counterDefined (s.greg r a).toNat = false →
    exec (.cntrd d a) s = .next (s.trapSync r 0x04 0 (s.greg r a) (s.core r).pc)) ∧
  (∀ d a b (s : State), let r := s.site.region
    let n := (s.greg r a).toNat
    s.CleanRegs r [a, b] → 0x20 ≤ n → n ≤ 0x27 → s.counterCfgBad r n (s.greg r b) = false →
    ∃ t, exec (.cntcfg d a b) s = .next t ∧ (d ≠ 0 → t.greg r d = (s.region r).prog.get (n - 0x20) 0) ∧
      (t.region r).prog.get (n - 0x20) 0 = s.greg r b ∧ (t.region r).ctr.get n 0 = 0 ∧ s.StepsOn t r ∧ sameRegs r d s t ∧
      sameBytes s t) ∧
  (∀ a (s : State), let r := s.site.region
    let n := (s.greg r a).toNat
    s.CleanRegs r [a] → n ≤ 0x13 → ∃ t, exec (.cntclr a) s = .next t ∧ (t.region r).ctr.get n 0 = (s.region r).ctrNow.get n 0 ∧
      (∀ m, m ≠ n → (t.region r).ctr.get m 0 = (s.region r).ctr.get m 0) ∧ s.StepsOn t r ∧ sameBytes s t)

/-- R355, R356, R376, R381, R385: the tag table and counter instructions. -/
def Obligations.TagTableAndCounters : Prop :=
  Says.TagTableActs ∧ Says.CounterInstructionsAct

/-- R264, R266, R267, R282: CSRRD reads every listed register and refuses an unlisted number; CSRWR in handler mode writes EVEC
with bits 1:0 zero, in user mode it is ignored; a one clears an ASTAT flag; AMODE keeps its defined bits; an EFAULT is cleared by
writing its valid bit. -/
def Obligations.SystemRegistersReadAndWrite : Prop :=
  (∀ d b (s : State), let r := s.site.region
    let n := (s.greg r b).toNat
    s.CleanRegs r [b] → n < 4096 →
    (∀ v, s.csr r n = some v → exec (.csrrd d b) s = .next (s.retire r d v)) ∧
    (s.csr r n = none → exec (.csrrd d b) s = .next (s.trapSync r 0x04 0 (s.greg r b) (s.core r).pc))) ∧
  (∀ a b (s : State), let r := s.site.region
    s.CleanRegs r [a, b] → s.greg r b = 0x010 →
    ∃ t, exec (.csrwr a b) s = .next t ∧ (∀ c, (t.core r).read c = (s.core r).read c) ∧ sameBytes s t ∧ (t.core r).pc = (s.core r).pc + 4 ∧
      (t.core r).evec = (if (s.core r).handler then s.greg r a &&& ~~~3 else (s.core r).evec)) ∧
  (∀ a b (s : State), let r := s.site.region
    s.CleanRegs r [a, b] → s.greg r b = 0x030 →
    ∃ t, exec (.csrwr a b) s = .next t ∧ s.StepsOn t r ∧ ∀ k, k < 6 → (t.region r).astat.getLsbD k =
      (((s.region r).astat.getLsbD k && !(s.greg r a).getLsbD k) || (s.region r).astatSet.getLsbD k)) ∧
  (∀ a b (s : State), let r := s.site.region
    s.CleanRegs r [a, b] → s.greg r b = 0x031 →
    ∃ t, exec (.csrwr a b) s = .next t ∧ s.StepsOn t r ∧ (t.region r).amodeNext = some (s.greg r a &&& 0x13F)) ∧
  (∀ a b (u : UnitId) (s : State), let r := s.site.region
    s.CleanRegs r [a, b] → unitExists u = true → u.region = r → s.greg r b = efaultNum u → (s.greg r a).getLsbD 63 = true →
    ∃ t, exec (.csrwr a b) s = .next t ∧ s.StepsOn t r ∧ (t.unit u).efault.getLsbD 63 = false ∧ sameBytes s t)

/-! ## Ports, stamps and time -/

/-- R115-R117, R127, R292, R301-R305: a load served at its port delivers its word's value and poison and leaves memory; a store
writes its bytes (a payload over a link may arrive poisoned, R137); a plain store of a memory port to its own die completes first
and is written later; an atomic reads and writes as one event; across a link that is down a load delivers a poisoned 0 (R410). -/
def Says.PortAccessesComplete : Prop :=
  (∀ (u : UnitId) (s : State) k q t n sx v p, s.Serves u k q t → q.op = .load n sx → 1 ≤ n → n ≤ 8 → s.readTarget t n = some (v, p) →
    ∃ w, exec (.memoryAccessComplete (.port u) k) s = .next w ∧ sameBytes s w ∧ w.gone u q ∧
      s.completed w u q 0 (loaded n sx v) p) ∧
  (∀ (u : UnitId) (s : State) k q t n, s.mem.wf = true → s.Serves u k q t → q.op = .store n → 1 ≤ n → notTable u t.addr →
    postsStore u q = false → ∃ w, exec (.memoryAccessComplete (.port u) k) s = .next w ∧ w.gone u q ∧
      stored s w t.addr n q.data (s.carried (unitDie u) t.addr q.poison).1 ∧ s.completed w u q 1 0 false) ∧
  (∀ (u : UnitId) (s : State) k q t n, (s.unit u).reqs[k]? = some q → q.stage = .accepted → q.op = .store n →
    s.xlatWord u q.addr .store = .done (.ok t) → s.routeDown (unitDie u) t.addr = false → postsStore u q = true →
    ∃ w, exec (.memoryAccessComplete (.port u) k) s = .next w ∧ sameBytes s w ∧ s.completed w u q 1 0 false ∧
      ∃ p ∈ (w.unit u).reqs, p.tick = q.tick ∧ p.stage = .posted ∧ p.op = q.op ∧ p.addr = BitVec.ofNat 64 t.addr ∧
        p.data = q.data ∧ p.poison = q.poison) ∧
  (∀ (u : UnitId) (s : State) k q n, s.mem.wf = true → (s.unit u).reqs[k]? = some q → q.stage = .posted →
    q.op = .store n → 1 ≤ n → isMpe u = true → s.routeDown (unitDie u) q.addr.toNat = false →
    s.mayServe u k q.addr.toNat = true → q.ord = .plain → s.postedBlocks q.addr.toNat q.tick = false →
    lacksCtxs u q q.addr.toNat = false → s.bankServes q.addr.toNat (portWho u) = true →
    ∃ w, exec (.memoryAccessComplete (.port u) k) s = .next w ∧ w.gone u q ∧
      stored s w q.addr.toNat n q.data (s.carried (unitDie u) q.addr.toNat q.poison).1) ∧
  (∀ (u : UnitId) (s : State) k q t j, s.mem.wf = true → s.Serves u k q t → q.op = .amo j → j ≤ 8 → notTable u t.addr →
    ∃ w, exec (.memoryAccessComplete (.port u) k) s = .next w ∧ w.gone u q ∧ sameBytesBut t.addr 8 s w ∧
      s.completed w u q 0 (s.mem.word t.addr) (s.mem.poisoned t.addr) ∧
      w.mem.word t.addr = (if s.mem.poisoned t.addr then s.mem.word t.addr
        else (amoNew j (s.mem.word t.addr) q.data q.exp).getD (s.mem.word t.addr))) ∧
  (∀ (u : UnitId) (s : State) k q t n sx, (s.unit u).reqs[k]? = some q → q.stage = .accepted → q.op = .load n sx →
    isMpe u = true → s.xlatWord u q.addr .load = .done (.ok t) → s.routeDown (unitDie u) t.addr = true →
    ∃ w, exec (.memoryAccessComplete (.port u) k) s = .next w ∧ sameBytes s w ∧ w.gone u q ∧ s.completed w u q 0 0 true)

/-- R291, R290, R353, R354, R397: an access that may not be made records PROTECTION at its element; one whose page is absent is
withheld, with PAGE_FAULT and its address pending at the region's core; a walk that ends well keeps its translation. -/
def Says.PortTranslationsEnd : Prop :=
  (∀ (u : UnitId) (s : State) k q, (s.unit u).reqs[k]? = some q → q.stage = .accepted →
    s.xlatWord u q.addr q.op.access = .done .prot → (s.unit u).efault.getLsbD 63 = false →
    ∃ w, exec (.memoryAccessComplete (.port u) k) s = .next w ∧ sameBytes s w ∧ w.gone u q ∧
      (w.unit u).efault = efaultWord 0x04 q.slot q.ctx (s.boundTagOf u) none 0 0) ∧
  (∀ r port (s : State) (q : PortReq) e,
    let u : UnitId := ⟨r, 4 * port, 19⟩
    port < 4 → (s.unit u).reqs.find? (fun q => q.stage = .walking) = some q → s.pagedEntry r port q.addr = some e →
    walk s.mem e q.addr = .absent → (s.region r).launch.isSome = true → (s.core r).pend.page = none →
    ∃ w, exec (.pageWalkComplete r port) s = .next w ∧ sameBytes s w ∧ (w.core r).pend.page = some q.addr ∧
      (∃ p ∈ (w.unit u).reqs, p.tick = q.tick ∧ p.stage = .withheld ∧ p.addr = q.addr)) ∧
  (∀ r port (s : State) (q : PortReq) e t, port < 4 →
    let u : UnitId := ⟨r, 4 * port, 19⟩
    (s.unit u).reqs.find? (fun q => q.stage = .walking) = some q → s.pagedEntry r port q.addr = some e →
    walk s.mem e q.addr = .ok t →
    ∃ w, exec (.pageWalkComplete r port) s = .next w ∧ sameBytes s w ∧
      (w.region r).keptFor port q.addr = some (Kept.ofTarget port q.addr t) ∧
      ∃ p ∈ (w.unit u).reqs, p.tick = q.tick ∧ p.stage ≠ .walking) ∧
  (∀ r p (s : State) c va e t, s.Sole r p c → c.walked = true → c.held = false →
    s.walkVa r p c.access (farPieces c.va c.rec_.esz) = some va → s.pagedEntry r (4 + p) va = some e → walk s.mem e va = .ok t →
    ∃ w, exec (.pageWalkComplete r (4 + p)) s = .next w ∧ sameBytes s w ∧
      (w.region r).keptFor (4 + p) va = some (Kept.ofTarget (4 + p) va t) ∧
      ∃ d ∈ (w.region r).cmds, d.tick = c.tick ∧ d.walked = false)

/-- R128, R295, R309, R311: an accepted core store with no earlier overlapping one, and for STL none at all before it, a stamped one
included, is performed once its bank serves it: its bytes are written and it leaves the queue. -/
def Says.CoreStoresArePerformed : Prop :=
  ∀ (r k : Nat) (s : State) (c : CoreStore), s.mem.wf = true → (s.core r).stores[k]? = some c → 1 ≤ c.n →
    (∀ e ∈ (s.core r).stores.take k, ¬ (e.addr < c.addr + c.n ∧ c.addr < e.addr + e.n)) → s.postedBlocks c.addr c.tick = false →
    (c.rel ≠ none → k = 0 ∧ ∀ x ∈ s.stamped, x.byCore = true → x.region = r → x.tick < c.tick → x.installed = true) →
    s.routeDown (regionDie r) c.addr = false → s.bankServes c.addr 4 = true →
    ∃ w, exec (.memoryAccessComplete (.core r) k) s = .next w ∧
      stored s w c.addr c.n c.data (s.carried (regionDie r) c.addr c.poison).1 ∧
      (w.core r).stores = (s.core r).stores.filter (fun e => e.tick ≠ c.tick) ∧
      (∀ a, (w.core r).read a = (s.core r).read a) ∧ (w.core r).pc = (s.core r).pc

/-- R115-R117, R290, R291, R301-R305, R309-R311, R353, R354, R397, R410: how accesses at ports and cores complete. -/
def Obligations.AccessesComplete : Prop :=
  Says.PortAccessesComplete ∧ Says.PortTranslationsEnd ∧ Says.CoreStoresArePerformed

/-- R146, R437: each die's copy of the package floor rises to the least closed mark and never falls; a closed mark is the die's E (the
hub's where the die is widened) or the stamp of its oldest uninstalled stamped store; in a domain of one the system floor follows, else
the tree brings it over an UP port of the device's own domain, never above the package floor; its advance clears R152's condition. -/
def Says.FloorsRise : Prop :=
  (∀ (s : State), ∃ w, exec .floorBroadcast s = .next w ∧ w.mem = s.mem ∧ w.regions = s.regions ∧ w.stamped = s.stamped ∧
    (∀ d, d < 9 → (w.die d).floor = max (s.die d).floor s.packageFloor) ∧
    (s.alone = true → (s.die 8).sysFloor < s.packageFloor → w.hub.stall152 = false ∧
      ∀ d, d < 9 → (w.die d).sysFloor = max (s.die d).sysFloor s.packageFloor) ∧
    (s.alone = false → ∀ d, (w.die d).sysFloor = (s.die d).sysFloor)) ∧
  (∀ (s : State), (∀ d, d < 9 → s.packageFloor ≤ s.closedMark d) ∧ ∃ d, d < 9 ∧ s.packageFloor = s.closedMark d) ∧
  (∀ (s : State) d, let e := if (s.die d).wide then (s.die 8).e else (s.die d).e
    s.closedMark d ≤ e ∧ (∀ x ∈ s.stamped, x.die = d → x.installed = false → s.closedMark d ≤ x.stamp) ∧
    (s.closedMark d = e ∨ ∃ x ∈ s.stamped, x.die = d ∧ x.installed = false ∧ s.closedMark d = x.stamp)) ∧
  (∀ f (s : State), s.peered = true → (s.die 8).sysFloor < min f s.packageFloor →
    ∃ w, exec (.systemFloorUpdate f) s = .next w ∧ w.mem = s.mem ∧ w.regions = s.regions ∧ w.hub.stall152 = false ∧
      (∀ d, d < 9 → (w.die d).sysFloor = max (s.die d).sysFloor (min f s.packageFloor)) ∧
      ∀ d, (w.die d).floor = (s.die d).floor)

/-- R144, R151, R152, R437: clocks sync over an UP port of the device's own domain; readings never decrease and keep bracketing true time; a die wider than IWLIM, or cut off from its
domain, is widened and INTERVAL_WIDE is pending at each of its cores (at every core for the hub); it leaves after 2^16 narrow
cycles; a system floor that stood still while the hub's E advanced by IWLIM stalls system scope. -/
def Says.ClocksWidenAndStall : Prop :=
  (∀ d e l (s : State), s.peered = true → ∃ w, exec (.clockSync d e l) s = .next w ∧ w.mem = s.mem ∧ w.regions = s.regions ∧
    (s.die d).e ≤ (w.die d).e ∧ (s.die d).l ≤ (w.die d).l ∧ s.now ≤ (w.die d).l ∧
    ((s.die d).e ≤ s.now → (w.die d).e ≤ s.now) ∧ (∀ c, c ≠ d → w.die c = s.die c)) ∧
  (∀ d (s : State), (s.die d).wide = false → (s.dev.iwlim.toNat < (s.width d).toNat ∨ s.cutOff = true) →
    ∃ w, exec (.widenedStateEntry d) s = .next w ∧ w.mem = s.mem ∧ (w.die d).wide = true ∧ (∀ c, c ≠ d → w.die c = s.die c) ∧
      ∀ r, r < 80 → (d = 8 ∨ regionDie r = d) → (s.region r).launch.isSome = true → (w.core r).pend.wide.isSome = true) ∧
  (∀ d (s : State), (s.die d).wide = true → 2 ^ 16 ≤ (s.die d).narrow → s.cutOff = false →
    ∃ w, exec (.widenedStateExit d) s = .next w ∧ w.mem = s.mem ∧ w.regions = s.regions ∧ (w.die d).wide = false) ∧
  (∀ (s : State), s.hub.stall152 = false → s.alone = false → s.hub.hubEAt + s.dev.iwlim.toNat ≤ (s.die 8).e →
    ∃ w, exec .systemFloorStall s = .next w ∧ w.mem = s.mem ∧ w.hub.stall152 = true ∧ w.dies = s.dies ∧
      ∀ r, r < 80 → (s.region r).launch.isSome = true → (w.core r).pend.wide.isSome = true)

/-- R148, R150, R298, R307, R308: a stamped store is installed at its home line; it completes with its stamp once the floor at its
scope has passed the stamp (STSP and posted STS at acceptance); an LDAS waits for the floor to pass its stamp and delivers the slot
it selects, or STAMP_TOO_OLD. -/
def Says.StampedAccessesComplete : Prop :=
  (∀ k (s : State) x, s.stamped[k]? = some x → x.installed = false → s.routeDown x.die x.phys = false → s.installWaits x = false →
    ∃ w, exec (.stampedInstall k) s = .next w ∧ w.stamped = (s.passedStores x).set k { x with installed := true } ∧
      w.mem = install s.mem (x.phys / 65536 * 65536) (x.phys % 65536 / 64) (x.phys % 64 / 8) x.data (s.carried x.die x.phys x.poison).1 x.stamp x.sys x.die
        s.dev.devid.toNat ∧ w.regions = s.regions ∧ w.units = s.units) ∧
  (∀ k (s : State) x u q, s.stamped[k]? = some x → x.installed = true → x.stamp < s.floorAt x.sys (homeDie x.phys) →
    x.wait = .port u q.tick → (s.unit u).reqs.find? (fun p => p.tick = q.tick) = some q →
    ∃ w, exec (.stampedVisible k) s = .next w ∧ sameBytes s w ∧ w.stamped = s.stamped.eraseIdx k ∧ w.gone u q ∧
      s.completed w u q 1 (BitVec.ofNat 64 x.stamp) false) ∧
  (∀ k (s : State) x r d, s.stamped[k]? = some x → x.installed = true → x.stamp < s.floorAt x.sys (homeDie x.phys) →
    x.wait = .core r → (s.core r).stall = some (.sts x.stamp d) →
    ∃ w, exec (.stampedVisible k) s = .next w ∧ sameBytes s w ∧ w.stamped = s.stamped.eraseIdx k ∧
      (w.core r).pc = (s.core r).pc + 4 ∧ (w.core r).stall = none ∧ sameRegs r d s w ∧
      (d ≠ 0 → w.greg r d = BitVec.ofNat 64 x.stamp)) ∧
  (∀ k (u : UnitId) (s : State) q t sys, (s.unit u).reqs[k]? = some q → q.stage = .stamped → q.op = .stsp sys →
    s.xlatWord u q.addr .stampedStore = .done (.ok t) → s.routeDown (unitDie u) t.addr = false →
    ∃ w, exec (.memoryAccessComplete (.port u) k) s = .next w ∧ sameBytes s w ∧ w.gone u q ∧ s.completed w u q 1 q.exp false) ∧
  (∀ k (s : State) x u q slot, s.ldas[k]? = some x → x.t < s.floorAt x.sys (homeDie x.phys) → s.routeDown x.die x.phys = false →
    let base := x.phys / 65536 * 65536
    let line := x.phys % 65536 / 64
    let a := lineSlot base line slot + x.phys % 64
    ldasSlot s.mem base line x.t = some slot → x.wait = .port u q.tick → (s.unit u).reqs.find? (fun p => p.tick = q.tick) = some q →
    ∃ w, exec (.ldasReturn k) s = .next w ∧ sameBytes s w ∧ w.ldas = s.ldas.eraseIdx k ∧ w.gone u q ∧
      s.completed w u q 0 (s.mem.word a) (s.mem.poisoned a)) ∧
  (∀ k (s : State) x r i d slot, s.ldas[k]? = some x → x.t < s.floorAt x.sys (homeDie x.phys) → s.routeDown x.die x.phys = false →
    let base := x.phys / 65536 * 65536
    let line := x.phys % 65536 / 64
    let a := lineSlot base line slot + x.phys % 64
    ldasSlot s.mem base line x.t = some slot → x.wait = .core r → (s.core r).stall = some (.ldas i d) →
    ∃ w, exec (.ldasReturn k) s = .next w ∧ sameBytes s w ∧ w.ldas = s.ldas.eraseIdx k ∧ (w.core r).pc = (s.core r).pc + 4 ∧
      (d ≠ 0 → (w.core r).read d = Reg.of (s.mem.word a) (s.mem.poisoned a)) ∧ sameRegs r d s w) ∧
  (∀ k (s : State) x u q, s.ldas[k]? = some x → x.t < s.floorAt x.sys (homeDie x.phys) → s.routeDown x.die x.phys = false →
    ldasSlot s.mem (x.phys / 65536 * 65536) (x.phys % 65536 / 64) x.t = none → x.wait = .port u q.tick →
    (s.unit u).reqs.find? (fun p => p.tick = q.tick) = some q → (s.unit u).efault.getLsbD 63 = false →
    ∃ w, exec (.ldasReturn k) s = .next w ∧ sameBytes s w ∧ w.gone u q ∧
      (w.unit u).efault = efaultWord 0x09 q.slot q.ctx (s.boundTagOf u) none 0 0)

/-- R149, R297, R298: a store installed in a line that keeps no version takes slot 1 with its stamp, scope and key: its word is the
stored one, the other words are the initial value's, the initial value and every other line stand, and LDAS at or above the stamp
selects it. -/
def Says.InstallIntoAnEmptyLine : Prop :=
  ∀ (m : Memory) (base line k : Nat) (x : Word) (p sys : Bool) (stamp die devid : Nat), m.wf = true → line < 1024 → k < 8 →
    stamp < 2 ^ 64 → die < 16 → devid < 2 ^ 18 → versions m base line = [] →
    let m' := install m base line k x p stamp sys die devid
    versions m' base line = [⟨1, stamp, sys, 2 ^ k, die, devid⟩] ∧ horizon m' base line = horizon m base line ∧
    m'.word (lineSlot base line 1 + 8 * k) = x ∧
    (∀ j, j < 8 → j ≠ k → m'.word (lineSlot base line 1 + 8 * j) = m.word (lineSlot base line 0 + 8 * j)) ∧
    (∀ a, (a < lineSlot base line 1 ∨ lineSlot base line 2 ≤ a) → (a < lineMeta base line ∨ lineMeta base line + 48 ≤ a) →
      m'.byte a = m.byte a) ∧
    ∀ t, stamp ≤ t → ldasSlot m' base line t = some 1

/-- R144-R152, R298, R307, R308, R437: floors, clocks, widening, and how stamped accesses are installed and complete. -/
def Obligations.StampsAndTime : Prop :=
  Says.FloorsRise ∧ Says.ClocksWidenAndStall ∧ Says.StampedAccessesComplete ∧ Says.InstallIntoAnEmptyLine

/-! ## Streams, handles, KV, exchange, links -/

/-- R157, R336, R345, R346, R349: SBIND checks its record in order, binds a command to a FREE handle, which is FILLING with port, watch
and promise; HWAIT waits, returns or raises the handle's cause; HQRY reads the record; HDRAIN, HFREE and HCANCEL move the handle along
the table's transitions, and raise HANDLE_STATE from any other state. -/
def Says.HandleInstructionsAct : Prop :=
  (∀ d a b (h : BitVec 8) watch fenced (s : State) x y, let r := s.site.region
    s.CleanRegs r [a, b] → s.recordPending r (s.greg r a) = false →
    (∀ x y, (s.core r).stall ≠ some (.sbind x y)) →
    s.sbindCheck r (s.greg r a) (s.greg r b) h.toNat = .ok (x, y) → (s.cmdsOf r).length < 64 →
    ∃ t c, exec (.sbind d a b h watch fenced) s = .next t ∧ sameBytes s t ∧ s.StepsOn t r ∧ sameRegs r d s t ∧
      (t.handle r h.toNat).st = .filling ∧ (t.handle r h.toNat).watch = (watch || x.watch) ∧
      (t.handle r h.toNat).port = (s.greg r b).toNat ∧ (t.handle r h.toNat).cause = 0 ∧ (t.handle r h.toNat).progress = 0 ∧
      (d ≠ 0 → t.greg r d = (t.handle r h.toNat).promise) ∧ (∀ k, k ≠ h.toNat → t.handle r k = s.handle r k) ∧
      (t.region r).cmds = (s.region r).cmds ++ [c] ∧ c.h = h.toNat ∧ c.port = (s.greg r b).toNat ∧ c.rec_ = x ∧ c.peer = y ∧
      c.started = false ∧ c.done = 0 ∧ c.stop = none ∧ c.owner = (s.region r).launch ∧
      c.needStores = (if fenced then s.owedTicks r else []) ∧ c.needCmds = if fenced then s.cmdTicks r else []) ∧
  (∀ d a b (h : BitVec 8) watch fenced (s : State) x y, let r := s.site.region
    s.CleanRegs r [a, b] → s.recordPending r (s.greg r a) = false → (∀ x y, (s.core r).stall ≠ some (.sbind x y)) →
    s.sbindCheck r (s.greg r a) (s.greg r b) h.toNat = .ok (x, y) → 64 ≤ (s.cmdsOf r).length →
    exec (.sbind d a b h watch fenced) s = .next (s.modCore r (fun k => { k with stall := some (.sbind x y) }))) ∧
  (∀ d a b (h : BitVec 8) watch fenced (s : State), let r := s.site.region
    s.CleanRegs r [a, b] → s.recordPending r (s.greg r a) = true → (∀ x y, (s.core r).stall ≠ some (.sbind x y)) →
    exec (.sbind d a b h watch fenced) s = .next (s.modCore r (fun k => { k with stall := some .record }))) ∧
  (∀ d a b (h : BitVec 8) watch fenced (s : State) x y, let r := s.site.region
    (s.core r).stall = some (.sbind x y) → (s.cmdsOf r).length < 64 →
    ∃ t c, exec (.sbind d a b h watch fenced) s = .next t ∧ sameBytes s t ∧ s.StepsOn t r ∧ (t.core r).stall = none ∧
      (t.handle r h.toNat).st = .filling ∧ (t.region r).cmds = (s.region r).cmds ++ [c] ∧ c.h = h.toNat ∧ c.rec_ = x ∧ c.peer = y) ∧
  (∀ d a b (h : BitVec 8) watch fenced (s : State) c v, let r := s.site.region
    s.CleanRegs r [a, b] → s.recordPending r (s.greg r a) = false → (∀ x y, (s.core r).stall ≠ some (.sbind x y)) →
    s.sbindCheck r (s.greg r a) (s.greg r b) h.toNat = .error (c, v) →
    exec (.sbind d a b h watch fenced) s = .next (s.trapSync r c 0 v (s.core r).pc)) ∧
  (∀ (s : State) r (A B : Word) h, (A.toNat % 64 ≠ 0 → s.sbindCheck r A B h = .error (0x02, A)) ∧
    (A.toNat % 64 = 0 → s.rcap r < A.toNat + 64 → s.sbindCheck r A B h = .error (0x04, A)) ∧
    (∀ x y, s.sbindCheck r A B h = .ok (x, y) → A.toNat % 64 = 0 ∧ A.toNat + 64 ≤ s.rcap r ∧ B.toNat ≤ 15 ∧
      (s.handle r h).st = .free ∧ x = shapeAt s.mem (rstoreBase r + A.toNat) ∧ x.ok = true ∧
      ∀ p, y = some p → p.count = x.count)) ∧
  (∀ (h : BitVec 8) (s : State), let r := s.site.region
    let x := s.handle r h.toNat
    (x.st = .filling → exec (.hwait h) s = .next (s.wait r (.hwait h.toNat))) ∧
    (x.st = .full → x.cause = 0 → ∃ t, exec (.hwait h) s = .next t ∧ (t.core r).pc = (s.core r).pc + 4 ∧ (t.core r).wait = none ∧
      (t.core r).run = .running ∧ (∀ b, (t.core r).read b = (s.core r).read b) ∧ sameButCore r s t) ∧
    (x.st = .full → x.cause ≠ 0 → exec (.hwait h) s =
      .next ((s.modCore r (fun k => { k with wait := none, run := .running })).trapSync r x.cause 0
        (toWord (x.progress * 256 + h.toNat)) (s.core r).pc)) ∧
    ((x.st = .free ∨ x.st = .draining) → exec (.hwait h) s = .next (s.trapSync r 0x0E 0
      (toWord (h.toNat + 256 * x.st.code)) (s.core r).pc))) ∧
  (∀ d (h : BitVec 8) (s : State), let x := s.handle s.site.region h.toNat
    x.port < 16 → x.progress < 2 ^ 48 → exec (.hqry d h) s = .next (s.retire s.site.region d (toWord (2 ^ 62 * x.st.code +
      2 ^ 61 * x.watch.toNat + 2 ^ 60 * x.held.toNat + 2 ^ 56 * x.port + 2 ^ 48 * x.cause.toNat + x.progress)))) ∧
  (∀ (h : BitVec 8) (s : State), let r := s.site.region
    let x := s.handle r h.toNat
    (x.st = .full → ∃ t, exec (.hdrain h) s = .next t ∧ t.handle r h.toNat = { x with st := .draining } ∧ s.StepsOn t r ∧
      sameBytes s t ∧ ∀ k, k ≠ h.toNat → t.handle r k = s.handle r k) ∧
    (x.st ≠ .full → exec (.hdrain h) s = .next (s.trapSync r 0x0E 0 (toWord (h.toNat + 256 * x.st.code)) (s.core r).pc))) ∧
  (∀ (h : BitVec 8) (s : State), let r := s.site.region
    let x := s.handle r h.toNat
    (x.st = .draining → ∃ t, exec (.hfree h) s = .next t ∧ t.handle r h.toNat = { port := x.port } ∧ s.StepsOn t r ∧
      sameBytes s t ∧ ∀ k, k ≠ h.toNat → t.handle r k = s.handle r k) ∧
    (x.st ≠ .draining → exec (.hfree h) s = .next (s.trapSync r 0x0E 0 (toWord (h.toNat + 256 * x.st.code)) (s.core r).pc))) ∧
  (∀ (h : BitVec 8) (s : State), let r := s.site.region
    let x := s.handle r h.toNat
    (x.st = .filling → ∃ t, exec (.hcancel h) s = .next t ∧ t.handle r h.toNat = { port := x.port } ∧
      (t.core r).pc = (s.core r).pc + 4 ∧ ∀ q c, s.cmdOf r h.toNat = some (q, c) →
        (∀ e ∈ (t.region q).cmds, e.tick ≠ c.tick) ∧ (c.claimed = [] → s.mem.wf = true → sameBytes s t)) ∧
    (x.st ≠ .filling → exec (.hcancel h) s = .next (s.trapSync r 0x0E 0 (toWord (h.toNat + 256 * x.st.code)) (s.core r).pc)))

/-- R129, R154, R156, R158, R159, R299, R335, R337, R347, R363: a command starts when what it waits for is performed, moves one
element at a time between its near and far sides, or one aligned row of 64 bytes as one event (R115), a line of a stamped page being read
once; it completes FULL with its cause and its progress; a command whose launch was swapped out leaves the region's stores and rings as
they stand (the model's choice, notes/assumptions/45); a watched promise that has passed is missed once. -/
def Says.StreamsRun : Prop :=
  (∀ r p (s : State) c, s.Sole r p c → c.started = false → s.mayStart r c = true →
    ∃ t, exec (.streamCommandStart r p) s = .next t ∧ sameBytes s t ∧
      t.portCmds r p = [{ c with started := true, stop := c.startCause }]) ∧
  (∀ r p (s : State) c t v q line, let x := c.rec_
    let o := (x.addr c.done).toNat
    let far := c.far.addr c.done
    s.mem.wf = true → s.Sole r p c → c.started = true → c.stop = none → c.held = false → c.walked = false →
    c.waitKv = false → (x.dest = 0 ∨ x.dest = 2) → x.esz ≤ 8 → x.out = false → x.red = 0 → c.done < x.count → s.nearBad r x o = false →
    c.rowLen = 1 → far.toNat % x.esz = 0 → inAperture far = false → s.xlatPort r (4 + p) far .load = .done (.ok t) →
    s.routeDown (regionDie r) t.addr = false → c.lacks r [(t, x.esz)] = [] →
    s.farRead c.tick c.line [(t, x.esz)] = some ((v, q), line) → (∀ a ∈ x.nearAddrs r o, s.bankServes a (5 + p) = true) →
    ∃ w, exec (.streamElementPerform r p) s = .next w ∧ (∀ a ∈ x.nearAddrs r o, w.mem.readNat a x.esz = v) ∧
      (∀ b, (∀ a ∈ x.nearAddrs r o, b < a ∨ a + x.esz ≤ b) → w.mem.byte b = s.mem.byte b) ∧
      w.portCmds r p = [{ c with done := c.done + 1, line := line, asked := max c.asked (c.done + 1) }] ∧
      (w.handle (c.home.getD r) c.h).progress = c.done + 1) ∧
  (∀ (s : State) tick line a n, s.farRead tick line [(.plain a, n)] =
    if s.postedBlocks a tick = true then none else (s.readTarget (.plain a) n).map (fun v => (v, line))) ∧
  (∀ (s : State) tick l base off n,
    s.farRead tick (some (lineSlot base (off / 64) 0, l)) [(.stamped base off, n)] =
      some (lineBytes l off n, some (lineSlot base (off / 64) 0, l))) ∧
  (∀ r p (s : State) c tss vs line, let x := c.rec_
    let o := (x.addr c.done).toNat
    s.mem.wf = true → s.Sole r p c → c.started = true → c.stop = none → c.held = false → c.walked = false →
    c.waitKv = false → (x.dest = 0 ∨ x.dest = 2) → x.esz ≤ 8 → x.out = false → c.done < x.count → s.nearBad r x o = false →
    s.nearBad r x (o + x.esz * (c.rowLen - 1)) = false → 1 < c.rowLen → s.farRow r c c.rowLen = some tss → c.lacks r tss.flatten = [] →
    s.farReads c.tick c.line tss = some (vs, line) → (∀ a ∈ x.nearAddrs r o, ∀ b ∈ nearLines c.rowLen a, s.bankServes b (5 + p) = true) →
    ∃ w, exec (.streamElementPerform r p) s = .next w ∧ (w.handle (c.home.getD r) c.h).progress = c.done + 64 / x.esz ∧
      ∀ i v q, vs[i]? = some (v, q) → ∀ a ∈ x.nearAddrs r o, w.mem.readNat (a + x.esz * i) x.esz = v) ∧
  (∀ r p (s : State) c tss g, let x := c.rec_
    let o := (x.addr c.done).toNat
    let a := (x.nearAddrs r o).headD 0
    s.mem.wf = true → s.Sole r p c → c.started = true → c.stop = none → c.held = false → c.walked = false →
    c.waitKv = false → (x.dest = 0 ∨ x.dest = 2) → x.esz ≤ 8 → x.out = true → c.done < x.count → s.nearBad r x o = false →
    s.nearBad r x (o + x.esz * (c.rowLen - 1)) = false → 1 < c.rowLen → s.farRow r c c.rowLen = some tss → c.lacks r tss.flatten = [] →
    (∀ a ∈ x.nearAddrs r o, ∀ b ∈ nearLines c.rowLen a, s.bankServes b (5 + p) = true) → farRowAt x.esz tss = some g →
    ∃ w, exec (.streamElementPerform r p) s = .next w ∧ (w.handle (c.home.getD r) c.h).progress = c.done + 64 / x.esz ∧
      sameBytesBut g 64 s w ∧ ∀ i, i < 64 / x.esz → w.mem.readNat (g + x.esz * i) x.esz = s.mem.readNat (a + x.esz * i) x.esz) ∧
  (∀ r p (s : State) c g, let x := c.rec_
    let o := (x.addr c.done).toNat
    let far := c.far.addr c.done
    let a := (x.nearAddrs r o).headD 0
    s.mem.wf = true → s.Sole r p c → c.started = true → c.stop = none → c.held = false → c.walked = false →
    c.waitKv = false → (x.dest = 0 ∨ x.dest = 2) → x.esz ≤ 8 → x.out = true → c.done < x.count → s.nearBad r x o = false →
    c.rowLen = 1 → far.toNat % x.esz = 0 → inAperture far = false → s.xlatPort r (4 + p) far .store = .done (.ok (.plain g)) →
    s.routeDown (regionDie r) g = false → c.lacks r [(.plain g, x.esz)] = [] →
    (∀ a ∈ x.nearAddrs r o, s.bankServes a (5 + p) = true) →
    ∃ w, exec (.streamElementPerform r p) s = .next w ∧ w.mem.readNat g x.esz = s.mem.readNat a x.esz ∧ sameBytesBut g x.esz s w ∧
      w.portCmds r p = [{ c with done := c.done + 1, line := none, asked := max c.asked (c.done + 1) }] ∧
      (w.handle (c.home.getD r) c.h).progress = c.done + 1) ∧
  (∀ r p (s : State) c, s.Sole r p c → c.started = true → c.waitKv = false → c.claimed = [] →
    (c.stop ≠ none ∨ c.rec_.count ≤ c.done) →
    ∃ t, exec (.streamCommandComplete r p) s = .next t ∧ sameBytes s t ∧ (∀ e ∈ (t.region r).cmds, e.tick ≠ c.tick) ∧
      (t.handle (c.home.getD r) c.h).st = .full ∧ (t.handle (c.home.getD r) c.h).cause = c.stop.getD 0 ∧
      (t.handle (c.home.getD r) c.h).progress = c.done) ∧
  (∀ r p (s : State) c e, s.mem.wf = true → s.portCmds r p = [c] → s.awayOf r c = some e →
    ∃ t, exec (.streamElementPerform r p) s = .next t ∧ { t.region r with cmds := (s.region r).cmds } = s.region r ∧
      (∀ k n, k.region = r → t.ring? k n = s.ring? k n) ∧
      ∀ b, inStores r b = true → t.mem.byte b = s.mem.byte b ∧ t.mem.poisoned b = s.mem.poisoned b) ∧
  (∀ r h (s : State), let x := s.handle r h
    x.st = .filling → x.watch = true → x.missed = false → x.promise.toNat ≤ s.cyc → (s.region r).launch.isSome = true → h < 2 ^ 64 →
    ∃ t, exec (.promiseMissed r h) s = .next t ∧ sameBytes s t ∧ t.handle r h = { x with missed := true } ∧
      h ∈ (t.core r).pend.promises) ∧
  (∀ r h (s : State), (s.handle r h).missed = true → exec (.promiseMissed r h) s = .next s)

/-- R176, R361, R362, R398: a complete half-write that reaches its segment writes its words and its entry's header, and T advances over
whole entries; a half of an older generation at or above the noticed position is dropped; a switch applies the staged fields; a resume
releases what the segment withholds. -/
def Says.KvSegmentsAct : Prop :=
  (∀ k (s : State) (h : KvHalf) (g : KvSeg), s.kv[k]? = some h → h.held = false → h.words.length = h.need → s.kvPlaceOf h.slot h.layer h.pos = .here g →
    s.kvBehind k h (some g) = false → s.kvDown h = false →
    s.mem.wf = true →
    (h.pos < kvF s.mem g ∨ kvA s.mem g ≤ h.gen → ∃ t, exec (.kvHalfWrite k) s = .next t ∧ t.kv = s.kv.eraseIdx k ∧
      sameBytes { s with mem := kvAccept s.mem g h } t) ∧
    (kvF s.mem g ≤ h.pos → h.gen < kvA s.mem g → ∃ t, exec (.kvHalfWrite k) s = .next t ∧ t.kv = s.kv.eraseIdx k ∧ sameBytes s t)) ∧
  (∀ (k : Nat) (s : State) (h : KvHalf) (g : KvSeg), s.kv[k]? = some h → s.kvPlaceOf h.slot h.layer h.pos = .here g → s.kvSegOf h = some g) ∧
  (∀ (m : Memory) g (h : KvHalf), m.wf = true → kvReach m g (kvEntry m g h.pos) = true →
    8 * h.words.length ≤ 2 * kvHeadDim m g → h.gen < 2 ^ 16 → h.pos < 2 ^ 32 →
    let e := kvEntry m g h.pos
    let own := if h.isV then 49 else 48
    let other := if h.isV then 48 else 49
    let m' := kvAccept m g h
    (m'.word e).getLsbD own = true ∧ bitsOf (m'.word e) 32 16 = h.gen ∧ bitsOf (m'.word e) 0 32 = h.pos ∧
    ((m'.word e).getLsbD other = true ↔ bitsOf (m.word e) 32 16 = h.gen ∧ (m.word e).getLsbD other = true) ∧
    ∀ j w p, h.words[j]? = some (w, p) → m'.word (e + 8 + (if h.isV then 2 * kvHeadDim m g else 0) + 8 * j) = w) ∧
  (∀ (m : Memory) g n t, let t' := kvAdvance m g n t
    t ≤ t' ∧ (∀ q, t ≤ q → q < t' → kvWhole m g q = true) ∧
    (kvLimit m g ≤ t + n → t' < kvLimit m g → kvWhole m g t' = false)) ∧
  (∀ (c : CellId) n (s : State), s.mem.wf = true → isKvCell c = true → (kvRead s.mem (c, n) 7).getLsbD 63 = true →
    ∃ t, exec (.kvSegmentSwitch c n) s = .next t ∧ kvRead t.mem (c, n) 1 = kvRead s.mem (c, n) 6 ∧
      kvRead t.mem (c, n) 2 = kvRead s.mem (c, n) 7 &&& 0xFFFFFFFFFFFC0 ∧ (kvRead t.mem (c, n) 7).getLsbD 63 = false ∧
      (∀ w, w = 0 ∨ w = 3 ∨ w = 4 ∨ w = 5 ∨ w = 6 → kvRead t.mem (c, n) w = kvRead s.mem (c, n) w) ∧ t.regions = s.regions) ∧
  (∀ (c : CellId) n (s : State), ∃ t, exec (.kvSegmentResume c n) s = .next t ∧ t.mem = s.mem ∧
    (∀ h ∈ t.kv, h.at_ = some (c, n) → h.held = false) ∧ t.kv.map KvHalf.words = s.kv.map KvHalf.words)

/-- R157-R160, R176, R335-R337, R345-R349, R361-R363: handles, stream commands and KV half-writes. -/
def Obligations.StreamsAndHandles : Prop := Says.HandleInstructionsAct ∧ Says.StreamsRun ∧ Says.KvSegmentsAct

/-- R164, R166, R331-R333: the send engine puts the stream's next token on the lane, and the closing MARK after the last, and waits while
the lane is full (the lane's room is the model's: notes/assumptions/88); the receiver
writes each token's data at the buffer's base + 8k with its poison, up to the buffer's size; the closing MARK closes the buffer; a
release frees a FULL buffer. -/
def Says.ExchangeRuns : Prop :=
  (∀ p (s : State) x q t, s.pair? p = some x → s.sendOf p x = some q → s.linkUp x.link = true →
    s.head? x.tx q.inp = some t → t.tag = s.boundTagOf x.tx → (t.kind = 0 ∨ t.kind = 1) → x.lane.length < laneRoom →
    ∃ w y, exec (.exchangeSendToken p) s = .next w ∧ sameBytes s w ∧ w.pair? p = some y ∧
      y.lane = x.lane ++ [(q.parity, t)] ++ (if t.last then [(q.parity, { data := 4, kind := 2, tag := t.tag, last := true })] else []) ∧
      (w.chan (.inp x.tx q.inp)).inq = (s.chan (.inp x.tx q.inp)).inq.tail ∧
      (t.last = false → w.sendOf p y = some q)) ∧
  (∀ p (s : State) x q t, s.pair? p = some x → s.sendOf p x = some q → s.linkUp x.link = true →
    s.head? x.tx q.inp = some t → laneRoom ≤ x.lane.length → exec (.exchangeSendToken p) s = .next s) ∧
  (∀ p (s : State) x par t l, s.mem.wf = true → s.pair? p = some x → x.lane = (par, t) :: l → s.linkUp x.link = true →
    (s.region x.rx.region).frozen = none → t.kind ≠ 2 → (x.buf par).n < x.size / 8 →
    ∃ w y, exec (.exchangeReceiveToken p) s = .next w ∧ w.pair? p = some y ∧ y.lane = l ∧ (y.buf par).n = (x.buf par).n + 1 ∧
      stored s w ((x.buf par).addr + 8 * (x.buf par).n) 8 t.data t.poison) ∧
  (∀ p (s : State) x par t l, s.pair? p = some x → x.lane = (par, t) :: l → s.linkUp x.link = true →
    (s.region x.rx.region).frozen = none → t.kind ≠ 2 → x.size / 8 ≤ (x.buf par).n →
    ∃ w y, exec (.exchangeReceiveToken p) s = .next w ∧ sameBytes s w ∧ w.pair? p = some y ∧ y.lane = l ∧
      (y.buf par).overrun = true ∧ (y.buf par).n = (x.buf par).n) ∧
  (∀ p (s : State) x par t l, s.pair? p = some x → x.lane = (par, t) :: l → s.linkUp x.link = true →
    (s.region x.rx.region).frozen = none → t.kind = 2 →
    ∃ w y, exec (.exchangeReceiveToken p) s = .next w ∧ sameBytes s w ∧ w.pair? p = some y ∧ y.lane = l ∧
      (y.buf par).closed = !(x.buf par).overrun) ∧
  (∀ p (s : State) x t, s.pair? p = some x → s.head? x.rx x.rel = some t → (s.region x.rx.region).frozen = none →
    t.tag = s.boundTagOf x.rx → (x.buf (t.data.getLsbD 0)).st = .full →
    ∃ w y, exec (.exchangeRelease p) s = .next w ∧ sameBytes s w ∧ w.pair? p = some y ∧
      y.buf (t.data.getLsbD 0) = { addr := (x.buf (t.data.getLsbD 0)).addr } ∧ y.buf (!t.data.getLsbD 0) = x.buf (!t.data.getLsbD 0) ∧
      (w.chan (.inp x.rx x.rel)).inq = (s.chan (.inp x.rx x.rel)).inq.tail)

/-- R133-R137, R364, R383, R410, R436: flits bring their tokens to the next die or the input, those of one link and direction in the order they were sent; credits return; a failed check counts a
retransmission and changes nothing else; contexts 128-239 open on demand and close once no request holds them; behind a drain MARK a
flit waits outside (R404); a link past its retry limit goes down and LINK_DOWN is pending where
it carries a context or a remote access; a Dvori port's state is what the link gives. -/
def Says.LinksRun : Prop :=
  (∀ l dir c (s : State) u i h, s.chanOf? l dir c = some (.inp u i) → (s.chan (.inp u i)).hops = [h] → h.link = l → h.dir = dir →
    h.ctx = c → h.wire ≠ [] → s.linkUp l = true → s.flitFirst l dir c = true → (s.chan (.inp u i)).shut = false → (∀ t ∈ h.wire, (s.region u.region).knowsTag t.tag = true) →
    ∃ w, exec (.flitArrival l dir c) s = .next w ∧ sameBytes s w ∧ (w.chan (.inp u i)).inq = (s.chan (.inp u i)).inq ++ h.wire ∧
      (w.chan (.inp u i)).hops = [{ h with wire := [] }] ∧
      ((w.link l).ctxs.get (dir, c) {}).flits = ((s.link l).ctxs.get (dir, c) {}).flits + 1) ∧
  (∀ l dir c (s : State) u i h g gs, s.chanOf? l dir c = some (.inp u i) → (s.chan (.inp u i)).hops = h :: g :: gs → h.link = l →
    h.dir = dir → h.ctx = c → h.wire ≠ [] → s.linkUp l = true → s.flitFirst l dir c = true → (s.chan (.inp u i)).shut = false →
    ∃ w, exec (.flitArrival l dir c) s = .next w ∧ sameBytes s w ∧ (w.chan (.inp u i)).inq = (s.chan (.inp u i)).inq ∧
      (w.chan (.inp u i)).hops = { h with wire := [] } :: { g with waiting := g.waiting ++ h.wire } :: gs) ∧
  (∀ l dir c (s : State) u i h, s.chanOf? l dir c = some (.inp u i) → (s.chan (.inp u i)).hops = [h] → h.link = l → h.dir = dir →
    h.ctx = c → (s.chan (.inp u i)).shut = true → exec (.flitArrival l dir c) s = .next s) ∧
  (∀ l dir c (s : State) u i, s.chanOf? l dir c = some (.inp u i) → s.linkUp l = true → (s.region u.region).frozen = none →
    (s.chan (.inp u i)).shut = false → 0 < (s.chan (.inp u i)).owed → (∃ h ∈ (s.chan (.inp u i)).hops, h.link = l ∧ h.dir = dir ∧ h.ctx = c) →
    ((s.chan (.inp u i)).hops.map (fun h => (h.link, h.dir, h.ctx))).Nodup →
    ∃ w, exec (.creditReturn l dir c) s = .next w ∧ sameBytes s w ∧ (w.chan (.inp u i)).owed = 0 ∧
      (w.chan (.inp u i)).inq = (s.chan (.inp u i)).inq ∧ ((w.link l).ctxs.get (dir, c) {}).credits =
        ((s.link l).ctxs.get (dir, c) {}).credits - (s.chan (.inp u i)).owed) ∧
  (∀ l dir (s : State), l < 16 → ∃ w, exec (.flitCheckFail l dir) s = .next w ∧
    w = { s with links := w.links } ∧ (w.link l).retries = min ((s.link l).retries + 1) (2 ^ 64 - 1) ∧ (w.link l).down = (s.link l).down ∧
    (w.link l).ctxs = (s.link l).ctxs ∧ ∀ k, k ≠ l → w.link k = s.link k) ∧
  (∀ l dir c cls phys (target : CtxShape) (s : State), ((s.link l).ctxs.get (dir, c) {}).st = 0 → s.linkUp l = true → l < 16 → 128 ≤ c →
    c < 240 → cls < 5 →
    ∃ w, exec (.contextSetup l dir c cls phys target) s = .next w ∧ w = { s with links := w.links } ∧
      (w.link l).ctxs.get (dir, c) {} =
        { st := 2, cls := cls, phys := phys, target := target.target, ext := target.ext, str := target.str, esz := target.esz } ∧
      ∀ k, k ≠ (dir, c) → (w.link l).ctxs.get k {} = (s.link l).ctxs.get k {}) ∧
  (∀ l dir c (s : State), s.ctxHeld (l, dir, c) = true → exec (.contextTeardown l dir c) s = .next s) ∧
  (∀ l dir c (s : State), s.ctxHeld (l, dir, c) = false → (∀ id, ((s.link l).ctxs.get (dir, c) {}).launch = some id → s.placement? id = none) →
    ∃ w, exec (.contextTeardown l dir c) s = .next w ∧ w = { s with links := w.links } ∧
      (w.link l).ctxs.get (dir, c) {} = {} ∧ ∀ k, k ≠ (dir, c) → (w.link l).ctxs.get k {} = (s.link l).ctxs.get k {}) ∧
  (∀ l (s : State), l < 16 → (s.link l).down = false → Config.retryLimit < (s.link l).retries →
    ∃ w, exec (.linkDown l) s = .next w ∧ sameBytes s w ∧ (w.link l).down = true ∧
      ∀ r, r < 80 → (s.hasContext r l = true ∨ s.hasRemote r l = true) → (s.region r).launch.isSome = true →
        (w.core r).pend.link.isSome = true) ∧
  (∀ p st lanes (s : State), p < 16 → ∃ w, exec (.dvoriPortStateChange p st lanes) s = .next w ∧ sameBytes s w ∧
    w.dev.dvori.get p {} = { s.dev.dvori.get p {} with st := st, lanes := lanes } ∧
    ((s.dev.dvori.get p {}).st = .up → st ≠ .up → ∀ r ∈ s.remoteRegions p, (s.region r).launch.isSome = true →
      (w.core r).pend.link.isSome = true))

/-- R300, R390: an uncorrectable DRAM error poisons the eight words of its line, which read as 0; one of an on-chip word poisons that
word; scrubbing changes no value. -/
def Says.ErrorsPoison : Prop :=
  (∀ a (s : State), s.mem.wf = true → isDram a = true →
    ∃ w, exec (.dramUncorrectableError a) s = .next w ∧ (∀ k, k < 8 → w.mem.poisoned (a / 64 * 64 + 8 * k) = true) ∧
      (∀ b, b / 64 = a / 64 → w.mem.byte b = 0) ∧ (∀ b, b / 64 ≠ a / 64 → w.mem.byte b = s.mem.byte b ∧
        w.mem.poisoned b = s.mem.poisoned b) ∧ w = { s with mem := w.mem }) ∧
  (∀ a (s : State), s.mem.wf = true → isDram a = false → 2 ^ 52 ≤ a →
    ∃ w, exec (.dramUncorrectableError a) s = .next w ∧ w.mem.poisoned a = true ∧ (∀ b, b / 8 = a / 8 → w.mem.byte b = 0) ∧
      (∀ b, b / 8 ≠ a / 8 → w.mem.byte b = s.mem.byte b ∧ w.mem.poisoned b = s.mem.poisoned b)) ∧
  (∀ a (s : State), exec (.scrub a) s = .next s)

/-- R133-R137, R164, R166, R300, R331-R333, R364, R383, R410, R436: exchange engines, links and uncorrectable errors. -/
def Obligations.ExchangeLinksAndErrors : Prop := Says.ExchangeRuns ∧ Says.LinksRun ∧ Says.ErrorsPoison

/-! ## Sequences, speculation and the pipeline ports -/

/-- R357-R360, R175, R183: SQRD reads a field; SQSET writes what the table lets it and gives the old value, else is refused;
SQADMIT raises MISALIGNED, then PROTECTION, waits for its core's earlier work, and makes a FREE slot WAITING from its
record, with the hub's L as admission stamp, generation 0, horizons 0 at its segments; SQRETIRE makes a slot DRAINING with the hub's
L as retire stamp and a drain MARK to place; a bad operand raises PROTECTION. -/
def Says.SequenceInstructionsAct : Prop :=
  (∀ d a (s : State), let r := s.site.region
    let A := s.greg r a
    s.CleanRegs r [a] → (seqOpnd A true = true → exec (.sqrd d a) s = .next (s.retire r d ((s.slot (bitsOf A 0 13)).field (bitsOf A 16 4)))) ∧
    (seqOpnd A true = false → exec (.sqrd d a) s = .next (s.trapSync r 0x04 0 A (s.core r).pc))) ∧
  (∀ d a b (s : State), let r := s.site.region
    let A := s.greg r a
    let n := bitsOf A 0 13
    s.CleanRegs r [a, b] → seqOpnd A true = true →
    (∀ x, (s.slot n).setField (bitsOf A 16 4) (s.greg r b) = some x →
      exec (.sqset d a b) s = .next ((s.setSlot n x).retire r d ((s.slot n).field (bitsOf A 16 4)))) ∧
    ((s.slot n).setField (bitsOf A 16 4) (s.greg r b) = none → exec (.sqset d a b) s = .next (s.trapSync r 0x04 0 A (s.core r).pc))) ∧
  (∀ d a b (s : State), let r := s.site.region
    let A := s.greg r a
    s.CleanRegs r [a, b] → seqOpnd A true = false → exec (.sqset d a b) s = .next (s.trapSync r 0x04 0 A (s.core r).pc)) ∧
  (∀ (x : Slot) (v : Word), x.setField 15 v = some { x with endsym := v } ∧
    (v.toNat < 2 ^ 32 → x.setField 9 v = some { x with limit := v.toNat }) ∧
    (∀ n, n ∉ [0, 5, 6, 9, 15] → n < 16 → x.setField n v = none) ∧
    (x.st = .decode → x.setField 0 4 = some { x with st := .paused, resume := .decode }) ∧
    (x.st = .prefill → x.setField 0 4 = some { x with st := .paused, resume := .prefill }) ∧
    (x.st = .paused → x.resume = .decode → x.setField 0 3 = some { x with st := .decode }) ∧
    (x.st = .paused → x.inflight = 0 → x.setField 0 5 = some { x with st := .swapped }) ∧
    ((x.st = .free ∨ x.st = .waiting ∨ x.st = .draining) → x.setField 0 v = none)) ∧
  (∀ d a b (s : State) ts ws, let r := s.site.region
    let A := s.greg r a
    let B := s.greg r b
    let n := bitsOf A 0 13
    s.CleanRegs r [a, b] → seqOpnd A false = true → B.toNat % 64 = 0 → s.coreLines r B 1 .load = .ok ts →
    s.coreOwes r = false → s.cmdsOf r = [] → s.readLines ts = some ws → (s.slot n).st = .free →
    ∃ t, exec (.sqadmit d a b) s = .next t ∧ s.StepsOn t r ∧ sameRegs r d s t ∧
      (d ≠ 0 → t.greg r d = BitVec.ofNat 64 (s.die 8).l) ∧ (t.slot n).st = .waiting ∧ (t.slot n).admitted = (s.die 8).l ∧
      (t.slot n).gen = 0 ∧ (t.slot n).commit = 0 ∧ (t.slot n).window = [] ∧ (t.slot n).notice = none ∧
      (t.slot n).kvhead = ws.getD 0 0 ∧ (t.slot n).prompt = bitsOf (ws.getD 1 0) 0 32 ∧ (t.slot n).limit = bitsOf (ws.getD 2 0) 0 32 ∧
      (t.slot n).wdir = ws.getD 3 0 ∧ (t.slot n).policy.toNat = bitsOf (ws.getD 4 0) 0 3 ∧
      (t.slot n).grammar.toNat = bitsOf (ws.getD 4 0) 12 4 ∧ (t.slot n).sys = (ws.getD 4 0).getLsbD 16 ∧
      (t.slot n).endsym = ws.getD 5 0 ∧ (∀ m, m ≠ n → t.slot m = s.slot m) ∧
      (s.mem.wf = true → ∀ q g, q < 80 → g ∈ slotSegs s.mem q n →
        kvT t.mem g = 0 ∧ kvC t.mem g = 0 ∧ kvF t.mem g = 0 ∧ kvA t.mem g = 0)) ∧
  (∀ d a b (s : State), let r := s.site.region
    let A := s.greg r a
    let B := s.greg r b
    s.CleanRegs r [a, b] → (B.toNat % 64 ≠ 0 → exec (.sqadmit d a b) s = .next (s.trapSync r 0x02 0 B (s.core r).pc)) ∧
      (B.toNat % 64 = 0 → seqOpnd A false = false → exec (.sqadmit d a b) s = .next (s.trapSync r 0x04 0 A (s.core r).pc))) ∧
  (∀ d a b (s : State) ts, let r := s.site.region
    let A := s.greg r a
    let B := s.greg r b
    s.CleanRegs r [a, b] → seqOpnd A false = true → B.toNat % 64 = 0 → s.coreLines r B 1 .load = .ok ts →
    (s.coreOwes r = true ∨ s.cmdsOf r ≠ []) → ∃ t, exec (.sqadmit d a b) s = .next t ∧ sameBytes s t ∧ t.hub = s.hub ∧
      (t.core r).pc = (s.core r).pc ∧ ∀ b, (t.core r).read b = (s.core r).read b) ∧
  (∀ d a b (s : State) ts ws, let r := s.site.region
    let A := s.greg r a
    let B := s.greg r b
    s.CleanRegs r [a, b] → seqOpnd A false = true → B.toNat % 64 = 0 → s.coreLines r B 1 .load = .ok ts →
    s.coreOwes r = false → s.cmdsOf r = [] → s.readLines ts = some ws → (s.slot (bitsOf A 0 13)).st ≠ .free →
    exec (.sqadmit d a b) s = .next (s.trapSync r 0x04 0 A (s.core r).pc)) ∧
  (∀ d a (s : State), let r := s.site.region
    let A := s.greg r a
    let n := bitsOf A 0 13
    s.CleanRegs r [a] → seqOpnd A false = true → (s.slot n).st ≠ .free → (s.slot n).st ≠ .draining →
    ∃ t, exec (.sqretire d a) s = .next t ∧ sameBytes s t ∧ (t.core r).pc = (s.core r).pc + 4 ∧ sameRegs r d s t ∧
      (d ≠ 0 → t.greg r d = BitVec.ofNat 64 (s.die 8).l) ∧ (t.slot n).st = .draining ∧ (t.slot n).retire = (s.die 8).l ∧
      n ∈ t.hub.marks) ∧
  (∀ d a (s : State), let r := s.site.region
    let A := s.greg r a
    s.CleanRegs r [a] → ((s.slot (bitsOf A 0 13)).st = .free ∨ (s.slot (bitsOf A 0 13)).st = .draining ∨ seqOpnd A false = false) →
    exec (.sqretire d a) s = .next (s.trapSync r 0x04 0 A (s.core r).pc))

/-- R168-R172, R178, R420, R423: the arbiter takes the oldest report of a slot with no unsettled notice. A dead report, one below the
committed horizon, or of a slot not served (FREE and WAITING too, the model's choice, notes/assumptions/97) is rejected; else R171's
table says what follows: nothing, a launch, a basis recorded, a squash with its relaunch, an establishment, or retirement; a squash
drops the starts it kills; where the grammar allows none the final symbol is the end symbol, the slot exhausted (R182; when, is
the model's choice, notes/assumptions/59). -/
def Says.ReportsAreJudged : Prop :=
  ∀ (s : State) (t : Report) rest, s.hub.reports = t :: rest →
    let x := s.slot t.slot
    let q := t.pos + 1
    x.unsettled = false →
    (x.prompt ≤ t.pos → (x.st = .free ∨ x.st = .waiting ∨ x.st = .draining ∨ x.dead t.pos t.gen = true ∨ q < x.commit) →
      ∃ w, exec .squashReport s = .next w ∧ sameBytes s w ∧ w.hub.reports = rest ∧
        w.slot t.slot = { x with reject := min (x.reject + 1) (2 ^ 64 - 1) } ∧ ∀ n, n ≠ t.slot → w.slot n = s.slot n) ∧
    (x.prompt ≤ t.pos → (x.st = .prefill ∨ x.st = .decode ∨ x.st = .paused ∨ x.st = .swapped) → x.dead t.pos t.gen = false →
      x.commit ≤ q →
      (∀ k, t.point = .guess k → (x.limit ≤ q ∨ ∃ e, x.window.find? (fun e => e.pos = q) = some e ∧ k ≤ e.basis) →
        exec .squashReport s = .next (s.modHub (fun h => { h with reports := rest }))) ∧
      (∀ k, t.point = .guess k → q < x.limit → x.window.find? (fun e => e.pos = q) = none → x.gen ≠ 0xFFFF → x.inflight < 64 →
        x.st = .decode → k ≠ 0 → ∃ w, exec .squashReport s = .next w ∧ sameBytes s w ∧ w.slot t.slot =
          { x with window := x.window ++ [⟨q, t.sym, k, x.gen⟩], starts := x.starts ++ [⟨q, t.sym, k, x.gen, false⟩] }) ∧
      (∀ k, t.point = .guess k → q < x.limit → x.window.find? (fun e => e.pos = q) = none →
        (x.gen = 0xFFFF ∨ 64 ≤ x.inflight ∨ x.st ≠ .decode) →
        exec .squashReport s = .next (s.modHub (fun h => { h with reports := rest }))) ∧
      (∀ k e, t.point = .guess k → q < x.limit → x.window.find? (fun e => e.pos = q) = some e → e.basis < k → e.sym = t.sym →
        ∃ w, exec .squashReport s = .next w ∧ sameBytes s w ∧ w.slot t.slot =
          { x with window := x.window.map (fun e => if e.pos = q then { e with basis := k } else e) }) ∧
      (∀ k e, t.point = .guess k → q < x.limit → x.window.find? (fun e => e.pos = q) = some e → e.basis < k → e.sym ≠ t.sym →
        x.gen < 0xFFFE → ∃ w, exec .squashReport s = .next w ∧ sameBytes s w ∧ (w.slot t.slot).gen = x.gen + 1 ∧
          (w.slot t.slot).notice = some (q, x.gen + 1) ∧ (w.slot t.slot).unsettled = true ∧
          (w.slot t.slot).relaunch = some ⟨q, t.sym, k, 0, false⟩ ∧ (w.slot t.slot).window = x.window.filter (fun e => e.pos < q) ∧
          (w.slot t.slot).commit = x.commit ∧
          (w.slot t.slot).starts = x.starts.filter (fun u => u.pos < q || x.gen + 1 ≤ u.gen)) ∧
      (t.point = .final → x.grammar = 15 → x.endsym ≠ BitVec.ofNat 64 t.sym → q < x.limit →
        x.window.find? (fun e => e.pos = q) = none → (∀ e ∈ x.window, e.pos + 1 ≠ q) →
        ∃ w, exec .squashReport s = .next w ∧ sameBytes s w ∧ (w.slot t.slot).window = x.window ++ [⟨q, t.sym, 0, x.gen⟩] ∧
          (w.slot t.slot).starts = x.starts ++ [⟨q, t.sym, 0, x.gen, false⟩] ∧ (w.slot t.slot).commit = max x.commit (q + 1)) ∧
      (∀ e, t.point = .final → x.grammar = 15 → x.endsym ≠ BitVec.ofNat 64 t.sym → q < x.limit →
        x.window.find? (fun e => e.pos = q) = some e → (∀ e ∈ x.window, e.pos + 1 ≠ q) → e.sym = t.sym →
        ∃ w, exec .squashReport s = .next w ∧ sameBytes s w ∧ (w.slot t.slot).window = x.window ∧
          (w.slot t.slot).commit = max x.commit (q + 1) ∧ (w.slot t.slot).gen = x.gen) ∧
      (∀ e, t.point = .final → x.grammar = 15 → x.endsym ≠ BitVec.ofNat 64 t.sym → q < x.limit →
        x.window.find? (fun e => e.pos = q) = some e → (∀ e ∈ x.window, e.pos + 1 ≠ q) → e.sym ≠ t.sym → x.gen < 0xFFFE →
        ∃ w, exec .squashReport s = .next w ∧ sameBytes s w ∧ (w.slot t.slot).gen = x.gen + 1 ∧
          (w.slot t.slot).notice = some (q, x.gen + 1) ∧ (w.slot t.slot).relaunch = some ⟨q, t.sym, 0, 0, false⟩) ∧
      (t.point = .final → x.grammar = 15 → (x.endsym = BitVec.ofNat 64 t.sym ∨ x.limit ≤ q) →
        ∃ w, exec .squashReport s = .next w ∧ sameBytes s w ∧ (w.slot t.slot).st = .draining ∧ (w.slot t.slot).retire = (s.die 8).l ∧
          t.slot ∈ w.hub.marks ∧ ∀ u ∈ (w.slot t.slot).starts, u ∈ x.starts) ∧
      (t.point = .final → x.grammarEnds s.mem = true → ∃ w, exec .squashReport s = .next w ∧ sameBytes s w ∧
        (w.slot t.slot).st = .draining ∧ (w.slot t.slot).retire = (s.die 8).l ∧ (w.slot t.slot).exhausted = true))

/-- R173, R174, R176, R178: a stage's region marks the headers that a notice names, a segment sets T, F and A and clears entries, an
establishment raises C; a stage then acknowledges; settle lets the relaunch into the start queue. -/
def Says.NoticesAreApplied : Prop :=
  (∀ r (s : State) slot f g id segs rest p, (s.region r).notices = .squash slot f g (some id) segs :: rest →
    (s.region r).frozen = none → s.placement? id = some p → (s.region r).launch = some id →
    ∃ w, exec (.noticeApplyStage r) s = .next w ∧ sameBytes s w ∧
      (∀ u i, u.region = r → (w.chan (.inp u i)).inq = (s.chan (.inp u i)).inq.map (fun t =>
        (markHeader { p with notice := p.notice.set slot (f, g) } t).1)) ∧
      (∀ u i, u.region ≠ r → w.chan (.inp u i) = s.chan (.inp u i)) ∧
      (id, r) ∉ (w.slot slot).ackRegions ∧ (∃ p', w.placement? id = some p' ∧ p'.notice.get? slot = some (f, g))) ∧
  (∀ (p : Placement) (t : Tok) f g, p.notice.get? (headerSlot t.data) = some (f, g) → markHeader p t =
    if t.kind = 0 ∧ t.utag = 1 ∧ f ≤ headerPos t.data ∧ headerGen t.data < g then ({ t with utag := 2 }, true) else (t, false)) ∧
  (∀ r (s : State) slot f g st rest, (s.region r).notices = .squash slot f g st true :: rest → (s.region r).frozen = none →
    ∃ w, exec (.noticeApplySegment r) s = .next w ∧ w.mem = (slotSegs s.mem r slot).foldl (fun m e => kvNotice m e f g) s.mem ∧
      (w.slot slot).ackSegs = (s.slot slot).ackSegs.erase r ∧ w.chans = s.chans) ∧
  (∀ (m : Memory) (e : KvSeg) f g, m.wf = true → f < 2 ^ 32 → g < 2 ^ 16 → kvF (kvNotice m e f g) e = f ∧ kvA (kvNotice m e f g) e = g ∧
    kvT (kvNotice m e f g) e = min (kvT m e) f ∧ kvC (kvNotice m e f g) e = kvC m e) ∧
  (∀ (m : Memory) (e : KvSeg) f q, m.wf = true → kvReach m e (kvEntry m e q) = true →
    let a := kvEntry m e q
    let v := (kvClear m e f 1 q).word a
    bitsOf v 0 48 = bitsOf (m.word a) 0 48 ∧ (f ≤ bitsOf (m.word a) 0 32 → v.getLsbD 48 = false ∧ v.getLsbD 49 = false) ∧
    (bitsOf (m.word a) 0 32 < f → v = m.word a)) ∧
  (∀ r (s : State) slot q rest, (s.region r).notices = .establish slot q :: rest → (s.region r).frozen = none →
    ∃ w, exec (.establishNoticeApply r) s = .next w ∧ w.mem = (slotSegs s.mem r slot).foldl (fun m e => kvEstablish m e q) s.mem ∧
      w.chans = s.chans ∧ w.hub.slots = s.hub.slots) ∧
  (∀ (m : Memory) (e : KvSeg) q, m.wf = true → q + 1 < 2 ^ 32 → kvC (kvEstablish m e q) e = max (kvC m e) (q + 1) ∧
    kvT (kvEstablish m e q) e = kvT m e) ∧
  (∀ id slot (s : State) p, let x := s.slot slot
    x.unsettled = true → id ∈ x.ackStages → (∀ e ∈ x.ackRegions, e.1 ≠ id) → s.placement? id = some p →
    (∀ h ∈ s.kv, h.slot = slot → s.issuedBy id h = true → p.ackAt.get slot 0 ≤ h.tick) →
    exec (.stageAcknowledge id slot) s = .next (s.setSlot slot { x with ackStages := x.ackStages.filter (fun k => k ≠ id) })) ∧
  (∀ id slot (s : State) h, let x := s.slot slot
    h ∈ s.kv → h.slot = slot → s.issuedBy id h = true → (∀ p, s.placement? id = some p → h.tick < p.ackAt.get slot 0) →
    (s.placement? id).isSome = true → x.unsettled = true → exec (.stageAcknowledge id slot) s = .next s) ∧
  (∀ slot (s : State) q, let x := s.slot slot
    x.unsettled = true → x.ackSegs = [] → x.ackStages = [] → x.cut = false → x.relaunch = some q →
    (x.st = .prefill ∨ x.st = .decode ∨ x.st = .paused ∨ x.st = .swapped) → (q.basis = 0 ∨ x.gen ≠ 0xFFFF) →
    ∃ w, exec (.settle slot) s = .next w ∧ sameBytes s w ∧ (w.slot slot).unsettled = false ∧ (w.slot slot).relaunch = none ∧
      (w.slot slot).starts = x.starts ++ [⟨q.pos, q.sym, q.basis, x.gen, false⟩] ∧
      (w.slot slot).commit = if q.basis = 0 then max x.commit (q.pos + 1) else x.commit) ∧
  (∀ slot (s : State), let x := s.slot slot
    x.unsettled = true → x.ackSegs = [] → x.ackStages = [] → x.cut = false → x.relaunch = none →
    ∃ w, exec (.settle slot) s = .next w ∧ sameBytes s w ∧ (w.slot slot).unsettled = false ∧ (w.slot slot).starts = x.starts) ∧
  (∀ slot (s : State), (s.slot slot).ackSegs ≠ [] → exec (.settle slot) s = .next s)

/-- R180, R183, R358, R420, R424: the step builder starts the next pulse of its batch with header, symbol and row; a drain MARK goes
between; it has at most 64 starts of one weight version and takes the next parity; a WAITING slot leaves with its weight
version once the floor passed its admission; a pulse carries its slot's policy, or policy 0 where that has no resident sampler
(R366; that no token carries it is the model's choice, notes/assumptions/86); a drained slot is freed once it passed its retirement. -/
def Says.StepBuilderStarts : Prop :=
  (∀ (s : State) id p h y w emb slot t prompt ds, s.startStage = some (id, p) → p.startInputs = some (h, y, w, emb) →
    s.hub.batch = (slot, t, prompt) :: ds → s.startRoom h 1 = true → s.startRoom y 1 = true → s.startRoom w 8 = true →
    h ≠ y → h ≠ w → y ≠ w →
    let word := headerWord slot t.pos t.gen s.hub.batchParity t.basis
    let tok := if t.dead then { data := word, utag := 2, tag := 0 } else (s.checkHeader h.1.region { data := word, utag := 1, tag := 0 }).2
    ∃ v, exec .stepBuilderMicrobatch s = .next v ∧ sameBytes s v ∧ v.hub.batch = ds ∧
      (v.chan (.inp h.1 h.2)).places = (s.chan (.inp h.1 h.2)).places ++ [(0, some { tok with tag := s.boundTagOf h.1 })] ∧
      (v.chan (.inp y.1 y.2)).places =
        (s.chan (.inp y.1 y.2)).places ++ [(0, some { data := BitVec.ofNat 64 t.sym, tag := s.boundTagOf y.1 })] ∧
      (v.chan (.inp w.1 w.2)).places = (s.chan (.inp w.1 w.2)).places ++ (List.range 8).map (fun k =>
        (0, some { data := s.mem.word (p.img.dataP + emb + 64 * t.sym + 8 * k),
                   poison := s.mem.poisoned (p.img.dataP + emb + 64 * t.sym + 8 * k), tag := s.boundTagOf w.1 })) ∧
      (v.slot slot).inflight = (s.slot slot).inflight + 1 ∧
      (v.slot slot).position = (if t.dead then (s.slot slot).position else t.pos + 1) ∧
      (v.slot slot).policies = (s.slot slot).policies ++ [(t.pos, t.gen, s.policyFor (s.slot slot))]) ∧
  (∀ (s : State) (x : Slot), s.policyFor x = if s.policed = true ∧ s.hub.resident x.policy.toNat = false then 0 else x.policy) ∧
  (∀ (s : State) id p h y w emb n ns, s.startStage = some (id, p) → p.startInputs = some (h, y, w, emb) → s.hub.batch = [] →
    s.hub.marks = n :: ns → s.startRoom h 1 = true →
    ∃ v, exec .stepBuilderMicrobatch s = .next v ∧ sameBytes s v ∧ v.hub.marks = ns ∧
      (v.chan (.inp h.1 h.2)).places = (s.chan (.inp h.1 h.2)).places ++ [(0, some { data := 1, kind := 2, tag := s.boundTagOf h.1 })]) ∧
  (∀ (s : State) es, (s.pick none [] es).length ≤ 64 ∧ ((∀ e ∈ es, ∀ d ∈ e.2.2, d.1 = e.2.1) →
    ∀ d ∈ s.pick none [] es, ∀ e ∈ s.pick none [] es, (s.slot d.1).wver = (s.slot e.1).wver ∧ (s.slot d.1).wver ≠ 0xFFFF)) ∧
  (∀ (s : State), s.formBatch.hub.batch ≠ s.hub.batch → s.formBatch.hub.batchParity = s.hub.parity ∧
    s.formBatch.hub.parity = !s.hub.parity) ∧
  (∀ slot (s : State) v, let x := s.slot slot
    x.st = .waiting → x.admitted < s.floorAt x.sys 8 → s.readDirectory x = some v →
    exec (.slotActivate slot) s = .next (s.setSlot slot { x with wver := v, st := if x.prompt = 0 then .decode else .prefill })) ∧
  (∀ slot (s : State), let x := s.slot slot
    x.st = .waiting → x.admitted < s.floorAt x.sys 8 → s.readDirectory x = none →
    exec (.slotActivate slot) s = .next (s.setSlot slot { x with wver := 0xFFFF, st := .paused, resume := .decode })) ∧
  (∀ slot (s : State), let x := s.slot slot
    s.floorAt x.sys 8 ≤ x.admitted → exec (.slotActivate slot) s = .next s) ∧
  (∀ slot (s : State), let x := s.slot slot
    x.st = .draining → x.left = true → x.unsettled = false → x.retire < s.floorAt false 8 →
    ∃ v, exec (.slotFree slot) s = .next v ∧ sameBytes s v ∧ (v.slot slot).st = .free ∧ slot ∉ v.hub.marks) ∧
  (∀ slot (s : State), s.floorAt false 8 ≤ (s.slot slot).retire → exec (.slotFree slot) s = .next s)

/-- R343, R421, R422: a report port takes a live header, then its data token, whose low 18 bits are the report's symbol; a killed
header sends nothing; with 1,024 reports due, headers taken among them (the model's choice, notes/assumptions/54), the header stays
in the stage's output; a kv port takes a live header as two half-writes, K first, and fills them from its data. -/
def Says.PipePortsTake : Prop :=
  (∀ id k (s : State) p pt hdr dat t ts, let q := p.pipes.get k {}
    s.placement? id = some p → p.img.pipes.reports[k]? = some (pt, hdr, dat) → q.stopped = false → s.portRuns p hdr = true →
    q.drop = 0 → q.report = none → (s.chan (.pipe id k false)).inq = t :: ts → t.kind = 0 → (t.utag = 1 ∨ t.utag = 2) →
    (t.utag = 1 → s.reportsDue < 1024) →
    ∃ w p', exec (.reportPortTake id k) s = .next w ∧ sameBytes s w ∧ w.placement? id = some p' ∧
      (w.chan (.pipe id k false)).inq = ts ∧ w.hub.reports = s.hub.reports ∧
      (p'.pipes.get k {}).report = (if t.utag = 1 then some (headerSlot t.data, headerPos t.data, headerGen t.data) else none) ∧
      (p'.pipes.get k {}).drop = (if t.utag = 1 then 0 else 1)) ∧
  (∀ id k (s : State) p pt hdr dat t ts, let q := p.pipes.get k {}
    s.placement? id = some p → p.img.pipes.reports[k]? = some (pt, hdr, dat) → q.drop = 0 → q.report = none →
    (s.chan (.pipe id k false)).inq = t :: ts → t.kind = 0 → t.utag = 1 → 1024 ≤ s.reportsDue →
    exec (.reportPortTake id k) s = .next s) ∧
  (∀ id k (s : State) p pt hdr dat t ts h, let q := p.pipes.get k {}
    s.placement? id = some p → p.img.pipes.reports[k]? = some (pt, hdr, dat) → q.stopped = false → s.portRuns p hdr = true →
    q.drop = 0 → q.report = some h → (s.chan (.pipe id k true)).inq = t :: ts → t.kind = 0 → t.poison = false →
    s.hub.reports.length < 1024 →
    ∃ w p', exec (.reportPortTake id k) s = .next w ∧ sameBytes s w ∧ w.placement? id = some p' ∧ (p'.pipes.get k {}).report = none ∧
      (w.chan (.pipe id k true)).inq = ts ∧
      w.hub.reports = s.hub.reports ++ [⟨h.1, h.2.1, h.2.2, pt, t.data.toNat % 2 ^ 18⟩]) ∧
  (∀ id k (s : State) p layer hdr dat t ts g, let q := p.pipes.get k {}
    s.placement? id = some p → p.img.pipes.reports.length ≤ k → p.img.pipes.kvs[k - p.img.pipes.reports.length]? = some (layer, hdr, dat) →
    q.stopped = false → s.portRuns p hdr = true → s.kvBusy id k = false → q.drop = 0 → s.gathering id k = none →
    (s.chan (.pipe id k false)).inq = t :: ts → t.kind = 0 → t.utag = 1 → s.kvFirst (headerSlot t.data) layer = some g →
    ∃ w a b, exec (.kvPortTake id k) s = .next w ∧ w.mem = s.mem ∧ w.kv = s.kv ++ [a, b] ∧ (w.chan (.pipe id k false)).inq = ts ∧
      a.isV = false ∧ b.isV = true ∧ ∀ h ∈ [a, b], h.layer = layer ∧ h.slot = headerSlot t.data ∧ h.pos = headerPos t.data ∧
        h.gen = headerGen t.data ∧ h.words = [] ∧ h.need = kvHeadDim s.mem g / 4 ∧ h.stage = some (id, k)) ∧
  (∀ id k (s : State) p layer hdr dat t ts i h, let q := p.pipes.get k {}
    s.placement? id = some p → p.img.pipes.reports.length ≤ k → p.img.pipes.kvs[k - p.img.pipes.reports.length]? = some (layer, hdr, dat) →
    q.stopped = false → s.portRuns p hdr = true → s.kvBusy id k = false → q.drop = 0 → s.gathering id k = some i → s.kv[i]? = some h →
    (s.chan (.pipe id k true)).inq = t :: ts → t.kind = 0 → h.words.length + 1 ≠ h.need →
    ∃ w, exec (.kvPortTake id k) s = .next w ∧ w.mem = s.mem ∧ w.kv = s.kv.set i { h with words := h.words ++ [(t.data, t.poison)] } ∧
      (w.chan (.pipe id k true)).inq = ts) ∧
  (∀ id k (s : State) p layer hdr dat t ts i h g, let q := p.pipes.get k {}
    let h' : KvHalf := { h with words := h.words ++ [(t.data, t.poison)] }
    s.mem.wf = true → s.placement? id = some p → p.img.pipes.reports.length ≤ k →
    p.img.pipes.kvs[k - p.img.pipes.reports.length]? = some (layer, hdr, dat) →
    q.stopped = false → s.portRuns p hdr = true → s.kvBusy id k = false → q.drop = 0 → s.gathering id k = some i → s.kv[i]? = some h →
    (s.chan (.pipe id k true)).inq = t :: ts → t.kind = 0 → h.words.length + 1 = h.need → h.held = false →
    s.kvPlaceOf h.slot h.layer h.pos = .here g → s.kvBehind i h (some g) = false → s.kvDown h = false →
    ∃ w, exec (.kvPortTake id k) s = .next w ∧ w.kv = s.kv.eraseIdx i ∧ (w.chan (.pipe id k true)).inq = ts ∧
      sameBytes (if kvF s.mem g ≤ h.pos ∧ h.gen < kvA s.mem g then s else { s with mem := kvAccept s.mem g h' }) w)

/-- R168-R183, R343, R357-R360, R418-R424: under its own conditions each instruction that works on the sequence table or the pipeline
ports, and each step of the arbiter, the step builder and the regions that apply notices, answers a next state with its own effect. -/
def Obligations.SequenceFormsComplete : Prop :=
  (∀ d a (s : State), s.CleanRegs s.site.region [a] → seqOpnd (s.greg s.site.region a) true = true →
    exec (.sqrd d a) s = .next (s.retire s.site.region d
      ((s.slot (bitsOf (s.greg s.site.region a) 0 13)).field (bitsOf (s.greg s.site.region a) 16 4)))) ∧
  (∀ d a b (s : State), s.CleanRegs s.site.region [a, b] → seqOpnd (s.greg s.site.region a) true = true →
    bitsOf (s.greg s.site.region a) 16 4 = 15 →
    ∃ t, exec (.sqset d a b) s = .next t ∧ (t.slot (bitsOf (s.greg s.site.region a) 0 13)).endsym = s.greg s.site.region b) ∧
  (∀ d a b (s : State) ts ws, s.CleanRegs s.site.region [a, b] → (s.greg s.site.region b).toNat % 64 = 0 →
    seqOpnd (s.greg s.site.region a) false = true → s.coreLines s.site.region (s.greg s.site.region b) 1 .load = .ok ts →
    s.coreOwes s.site.region = false → s.cmdsOf s.site.region = [] → s.readLines ts = some ws →
    (s.slot (bitsOf (s.greg s.site.region a) 0 13)).st = .free →
    ∃ t, exec (.sqadmit d a b) s = .next t ∧ (t.slot (bitsOf (s.greg s.site.region a) 0 13)).st = .waiting ∧
      (t.slot (bitsOf (s.greg s.site.region a) 0 13)).admitted = (s.die 8).l) ∧
  (∀ d a (s : State), s.CleanRegs s.site.region [a] → seqOpnd (s.greg s.site.region a) false = true →
    (s.slot (bitsOf (s.greg s.site.region a) 0 13)).st ≠ .free → (s.slot (bitsOf (s.greg s.site.region a) 0 13)).st ≠ .draining →
    ∃ t, exec (.sqretire d a) s = .next t ∧ (t.slot (bitsOf (s.greg s.site.region a) 0 13)).st = .draining ∧
      (t.slot (bitsOf (s.greg s.site.region a) 0 13)).retire = (s.die 8).l) ∧
  (∀ (s : State) id p h y w emb slot t prompt ds, s.startStage = some (id, p) → p.startInputs = some (h, y, w, emb) →
    s.hub.batch = (slot, t, prompt) :: ds → s.startRoom h 1 = true → s.startRoom y 1 = true → s.startRoom w 8 = true →
    ∃ v, exec .stepBuilderMicrobatch s = .next v ∧ v.hub.batch = ds ∧ (v.slot slot).inflight = (s.slot slot).inflight + 1) ∧
  (∀ (s : State) t rest, s.hub.reports = t :: rest → (s.slot t.slot).unsettled = false →
    ∃ w, exec .squashReport s = .next w ∧ w.hub.reports = rest ∧ sameBytes s w) ∧
  (∀ r (s : State) slot f g id segs rest, (s.region r).notices = .squash slot f g (some id) segs :: rest →
    (s.region r).frozen = none → ∃ w, exec (.noticeApplyStage r) s = .next w ∧ sameBytes s w ∧
      (w.slot slot).ackRegions = (s.slot slot).ackRegions.filter (fun e => !(e.1 = id && e.2 = r))) ∧
  (∀ r (s : State) slot f g st rest, (s.region r).notices = .squash slot f g st true :: rest → (s.region r).frozen = none →
    ∃ w, exec (.noticeApplySegment r) s = .next w ∧ w.mem = (slotSegs s.mem r slot).foldl (fun m e => kvNotice m e f g) s.mem ∧
      (w.slot slot).ackSegs = (s.slot slot).ackSegs.erase r) ∧
  (∀ id slot (s : State), (s.slot slot).unsettled = true → id ∈ (s.slot slot).ackStages →
    (∀ e ∈ (s.slot slot).ackRegions, e.1 ≠ id) → (∀ h ∈ s.kv, h.slot ≠ slot) →
    ∃ w, exec (.stageAcknowledge id slot) s = .next w ∧
      (w.slot slot).ackStages = (s.slot slot).ackStages.filter (fun k => k ≠ id)) ∧
  (∀ slot (s : State), (s.slot slot).unsettled = true → (s.slot slot).ackSegs = [] → (s.slot slot).ackStages = [] →
    (s.slot slot).cut = false → (s.slot slot).relaunch = none →
    ∃ w, exec (.settle slot) s = .next w ∧ (w.slot slot).unsettled = false ∧ (w.slot slot).notice = (s.slot slot).notice) ∧
  (∀ r (s : State) slot q rest, (s.region r).notices = .establish slot q :: rest → (s.region r).frozen = none →
    ∃ w, exec (.establishNoticeApply r) s = .next w ∧
      w.mem = (slotSegs s.mem r slot).foldl (fun m e => kvEstablish m e q) s.mem) ∧
  (∀ slot (s : State) v, (s.slot slot).st = .waiting → (s.slot slot).admitted < s.floorAt (s.slot slot).sys 8 →
    s.readDirectory (s.slot slot) = some v →
    ∃ w, exec (.slotActivate slot) s = .next w ∧ (w.slot slot).wver = v ∧ (w.slot slot).st ≠ .waiting) ∧
  (∀ slot (s : State), (s.slot slot).st = .draining → (s.slot slot).left = true → (s.slot slot).unsettled = false →
    (s.slot slot).retire < s.floorAt false 8 → ∃ w, exec (.slotFree slot) s = .next w ∧ (w.slot slot).st = .free) ∧
  (∀ id k (s : State) p pt hdr dat h t ts, s.placement? id = some p → p.img.pipes.reports[k]? = some (pt, hdr, dat) →
    (p.pipes.get k {}).stopped = false → s.portRuns p hdr = true → (p.pipes.get k {}).drop = 0 → (p.pipes.get k {}).report = some h →
    (s.chan (.pipe id k true)).inq = t :: ts → t.kind = 0 → t.poison = false → s.hub.reports.length < 1024 →
    ∃ w, exec (.reportPortTake id k) s = .next w ∧ (w.chan (.pipe id k true)).inq = ts ∧
      w.hub.reports = s.hub.reports ++ [⟨h.1, h.2.1, h.2.2, pt, t.data.toNat % 2 ^ 18⟩]) ∧
  (∀ id k (s : State) p layer hdr dat i h t ts, s.placement? id = some p → p.img.pipes.reports.length ≤ k →
    p.img.pipes.kvs[k - p.img.pipes.reports.length]? = some (layer, hdr, dat) → (p.pipes.get k {}).stopped = false →
    s.portRuns p hdr = true → s.kvBusy id k = false → (p.pipes.get k {}).drop = 0 → s.gathering id k = some i → s.kv[i]? = some h →
    (s.chan (.pipe id k true)).inq = t :: ts → t.kind = 0 → h.words.length + 1 ≠ h.need →
    ∃ w, exec (.kvPortTake id k) s = .next w ∧ (w.chan (.pipe id k true)).inq = ts ∧
      w.kv = s.kv.set i { h with words := h.words ++ [(t.data, t.poison)] })

/-- R168-R183, R357-R360, R418-R424: sequences, speculation, the step builder and the pipeline ports. -/
def Obligations.SequencesAndSpeculation : Prop :=
  Says.SequenceInstructionsAct ∧ Says.ReportsAreJudged ∧ Says.NoticesAreApplied ∧ Says.StepBuilderStarts ∧ Says.PipePortsTake

/-! ## Launches, messages, waits -/

/-- R154, R338-R342, R435: LAUNCH enqueues the record's copy under the next id, with what its core owes, or answers all ones when the
queue holds 64; MSEND raises MISALIGNED and then PROTECTION, waits for its core's earlier work and for room, and hands its message to the
hub; MRECV takes the oldest message of its launch's inbox into memory, answers 0, or waits; the hub routes a message by
its destination, with the status of R340, and parked messages follow when there is room. -/
def Says.LaunchesAndMessagesAct : Prop :=
  (∀ d a (prio : BitVec 2) (s : State) ts ws, let r := s.site.region
    let A := s.greg r a
    s.CleanRegs r [a] → A.toNat % 64 = 0 → s.coreLines r A 4 .load = .ok ts →
    State.readLines { s with mem := s.ownMem r } ts = some ws →
    ((s.hub.queues.get prio.toNat []).length < 64 → ∃ t l, exec (.launch d a prio) s = .next t ∧ sameBytes s t ∧ s.StepsOn t r ∧
      sameRegs r d s t ∧ (d ≠ 0 → t.greg r d = BitVec.ofNat 64 s.hub.nextId) ∧ t.launch? s.hub.nextId = some l ∧
      l.rec_ = recordOf ws ∧ l.prio = prio.toNat ∧ l.st = .queued ∧ l.deps.map Dep.word = (recordOf ws).deps ∧
      l.region = some r ∧ l.needStores = s.owedTicks r ∧ l.needCmds = s.cmdTicks r ∧
      t.hub.queues.get prio.toNat [] = s.hub.queues.get prio.toNat [] ++ [s.hub.nextId] ∧
      t.hub.nextId = nextLaunchId s.hub.nextId) ∧
    (64 ≤ (s.hub.queues.get prio.toNat []).length → exec (.launch d a prio) s = .next (s.retire r d (toWord (-1))))) ∧
  (∀ d a (prio : BitVec 2) (s : State), let r := s.site.region
    s.CleanRegs r [a] → (s.greg r a).toNat % 64 ≠ 0 →
    exec (.launch d a prio) s = .next (s.trapSync r 0x02 0 (s.greg r a) (s.core r).pc)) ∧
  (∀ d a b (s : State) ts ws, let r := s.site.region
    let A := s.greg r a
    s.CleanRegs r [a, b] → A.toNat < 2 ^ 32 → (s.greg r b).toNat % 64 = 0 → s.coreLines r (s.greg r b) 1 .load = .ok ts →
    s.coreOwes r = false → s.cmdsOf r = [] → s.hub.parked.length + s.hub.outbox.length < 256 → s.readLines ts = some ws →
    (∃ t m, exec (.msend d a b false) s = .next t ∧ sameBytes s t ∧ s.StepsOn t r ∧ sameRegs r d s t ∧ (d ≠ 0 → t.greg r d = 0) ∧
      t.hub.outbox = s.hub.outbox ++ [m] ∧ m.dest = A.toNat ∧ m.msg.sender = (s.region r).launch.getD 0 ∧
      m.msg.body = ws.flatMap (fun w => (List.range 8).map (fun k => BitVec.ofNat 8 (w.toNat / 2 ^ (8 * k)))) ∧ m.nak = none) ∧
    (∃ t m, exec (.msend d a b true) s = .next t ∧ sameBytes s t ∧ (t.core r).pc = (s.core r).pc ∧
      (t.core r).stall = some (.nak d) ∧ t.hub.outbox = s.hub.outbox ++ [m] ∧ m.dest = A.toNat ∧ m.nak = some (r, d))) ∧
  (∀ d a b nak (s : State), let r := s.site.region
    let A := s.greg r a
    let B := s.greg r b
    s.CleanRegs r [a, b] → (B.toNat % 64 ≠ 0 → exec (.msend d a b nak) s = .next (s.trapSync r 0x02 0 B (s.core r).pc)) ∧
      (B.toNat % 64 = 0 → 2 ^ 32 ≤ A.toNat → exec (.msend d a b nak) s = .next (s.trapSync r 0x04 0 A (s.core r).pc))) ∧
  (∀ d a b nak (s : State) ts, let r := s.site.region
    s.CleanRegs r [a, b] → (s.greg r a).toNat < 2 ^ 32 → (s.greg r b).toNat % 64 = 0 → s.coreLines r (s.greg r b) 1 .load = .ok ts →
    (s.coreOwes r = true ∨ s.cmdsOf r ≠ [] ∨ 256 ≤ s.hub.parked.length + s.hub.outbox.length) →
    ∃ t, exec (.msend d a b nak) s = .next t ∧ sameBytes s t ∧ t.hub = s.hub ∧ (t.core r).pc = (s.core r).pc ∧
      ∀ c, (t.core r).read c = (s.core r).read c) ∧
  (∀ (s : State) r, s.coreOwes r = true ↔
    (s.core r).stores ≠ [] ∨ ∃ x ∈ s.stamped, x.installed = false ∧ x.byCore = true ∧ x.region = r) ∧
  (∀ d a (w : Bool) (s : State) ts, let r := s.site.region
    let A := s.greg r a
    s.CleanRegs r [a] → A.toNat % 64 = 0 → s.coreLines r A 1 .store = .ok ts → s.inboxOf r = [] →
    exec (.mrecv d a w) s = .next (if w then s.wait r (.mrecv d A) else s.retire r d 0)) ∧
  (∀ d a (w : Bool) (s : State) g id p m ms, let r := s.site.region
    let A := s.greg r a
    s.mem.wf = true → s.CleanRegs r [a] → A.toNat % 64 = 0 → s.translateCore r A .store = .ok (.plain g) →
    (s.region r).launch = some id → s.placement? id = some p → p.inbox = m :: ms → m.body.length = 64 →
    (s.core r).overlaps g 64 = false →
    ∃ t p', exec (.mrecv d a w) s = .next t ∧ t.mem.readBytes g 64 = m.body ∧
      (∀ b, b < g ∨ g + 64 ≤ b → t.mem.byte b = s.mem.byte b) ∧ t.placement? id = some p' ∧ p'.inbox = ms ∧
      (t.core r).pc = (s.core r).pc + 4 ∧ (d ≠ 0 → t.greg r d = 0x8000000000000000 ||| BitVec.ofNat 64 m.sender) ∧ sameRegs r d s t) ∧
  (∀ (s : State) o os, s.hub.outbox = o :: os → o.nak = none → o.hostAddr = 0 →
    (∀ l p, o.dest ≠ 0 → s.launch? o.dest = some l → s.placement? o.dest = some p → l.st ≠ .done → p.inbox.length < 16 →
      (∀ q ∈ s.hub.parked, q.1 ≠ o.dest) →
      ∃ t p', exec .messageRoute s = .next t ∧ sameBytes s t ∧ t.hub.outbox = os ∧ t.placement? o.dest = some p' ∧
        p'.inbox = p.inbox ++ [o.msg]) ∧
    (∀ l, o.dest ≠ 0 → s.launch? o.dest = some l → l.st = .queued → s.placement? o.dest = none →
      ∃ t, exec .messageRoute s = .next t ∧ sameBytes s t ∧ t.hub.outbox = os ∧ t.hub.parked = s.hub.parked ++ [(o.dest, o.msg)]) ∧
    (o.dest ≠ 0 → s.launch? o.dest = none → ∃ t, exec .messageRoute s = .next t ∧ sameBytes s t ∧ t.hub.outbox = os ∧
      t.hub.pkg.get 0xC04 0 = min (s.hub.pkg.get 0xC04 0 + 1) (2 ^ 64 - 1)) ∧
    (o.dest = 0 → s.dev.hostRingBase ≠ 0 → 64 * (s.hub.hostRing.length + 1) ≤ s.dev.hostRingSize.toNat →
      ∃ t, exec .messageRoute s = .next t ∧ sameBytes s t ∧ t.hub.outbox = os ∧
        t.hub.hostRing = s.hub.hostRing ++ [o.msg.body])) ∧
  (∀ (s : State) o os r d, s.hub.outbox = o :: os → o.nak = some (r, d) → (s.core r).stall = some (.nak d) →
    (s.region r).launch = some o.msg.sender → o.dest ≠ 0 → s.launch? o.dest = none →
    ∃ t, exec .messageRoute s = .next t ∧ (d ≠ 0 → t.greg r d = 4) ∧ (t.core r).pc = (s.core r).pc + 4 ∧ (t.core r).stall = none) ∧
  (∀ id (s : State) m p, s.hub.parked.find? (fun q => q.1 = id) = some (id, m) → s.placement? id = some p → p.inbox.length < 16 →
    ∃ t p', exec (.parkedMessageDeliver id) s = .next t ∧ sameBytes s t ∧ t.placement? id = some p' ∧ p'.inbox = p.inbox ++ [m] ∧
      t.hub.parked = s.hub.parked.eraseP (fun q => q.1 = id))

/-- R275, R285, R373, R374, R346: a core leaves its wait when what it waits for has come, and not before; HALT's wait has no end of its
own. -/
def Says.WaitsEnd : Prop :=
  ∀ r (s : State), (s.region r).coreFrozen = false →
    (∀ a, (s.core r).wait = some (.sleepu a) → exec (.waitComplete r) s = .next (if a.toNat ≤ s.cyc then s.endWait r else s)) ∧
    (∀ a sys, (s.core r).wait = some (.waits a sys) →
      exec (.waitComplete r) s = .next (if a.toNat < s.floorAt sys (regionDie r) then s.endWait r else s)) ∧
    (∀ h, (s.core r).wait = some (.hwait h) → ((s.handle r h).st = .filling → exec (.waitComplete r) s = .next s) ∧
      ((s.handle r h).st ≠ .filling → (s.handle r h).cause = 0 → exec (.waitComplete r) s = .next (s.endWait r))) ∧
    ((s.core r).wait = some .freeze → exec (.waitComplete r) s =
      .next (if (s.region r).frozen.all (fun f => f.read) then s.endWait r else s)) ∧
    ((s.core r).wait = some .halt → exec (.waitComplete r) s = .next s) ∧
    ((s.endWait r).core r).pc = (s.core r).pc + 4 ∧ ((s.endWait r).core r).wait = none ∧ ((s.endWait r).core r).run = .running ∧
    (∀ a, ((s.endWait r).core r).read a = (s.core r).read a)

/-- R273, R275, R338-R342, R346, R373, R374, R435: launches and messages of the core, and the ends of its waits. -/
def Obligations.LaunchesMessagesWaits : Prop := Says.LaunchesAndMessagesAct ∧ Says.WaitsEnd

/-! ## Placements, phases, banks, pre-emption, limits -/

/-- R118, R124, R125, R130-R132: a ready launch that fits is placed, its regions bound, its origin's core at the entry with the
parameters; a record that R130 breaks completes with CONFIG_REJECT 0x06 at once, one whose image cannot be read with 0x07 (R75); a launch too long in its queue is promoted; a priority-0 launch
that waited makes a victim, which is frozen where its flag says so; one that has none leaves the choice to the next. -/
def Says.SchedulerDecides : Prop :=
  (∀ (s : State) id l o m rs, s.hub.waiting = [id] → s.hub.preempting = none → s.launch? id = some l → l.st = .queued →
    l.checked = true → (∀ d ∈ l.deps, d.met = true) → s.launchFree l = true → s.originFor id l [] = some o → s.imageFor l = some m →
    s.loadReject m o l.rec_.base l.rec_.params = none → rectRegions o m.w m.h = some rs → s.spillBad m rs = false →
    ∃ t l' p, exec .scheduleDecision s = .next t ∧ t.launch? id = some l' ∧ l'.st = .placed ∧ t.placement? id = some p ∧ p.origin = o ∧
      p.regions = rs ∧ p.params = l.rec_.params ∧ (∀ r ∈ rs, (t.region r).launch = some id ∧ (t.region r).phase = 0 ∧
        (t.region r).tag = m.placedTag l.rec_.base 0 ∧ (t.region r).stop = false ∧ (t.region r).rp = 0) ∧
      (o ∈ rs → (t.core o).pc = m.entry ∧ (t.core o).handler = false) ∧ id ∉ t.hub.waiting) ∧
  (∀ (s : State) id l, s.hub.waiting = [id] → s.hub.preempting = none → s.launch? id = some l → l.st = .queued → l.checked = false →
    s.canRecord l.rec_.record = true → l.broken = true →
    ∃ t c, exec .scheduleDecision s = .next t ∧ sameBytes s t ∧ t.hub.completions = s.hub.completions ++ [c] ∧ c.id = id ∧
      c.cause = 0x0C ∧ c.sub = 0x06 ∧ c.place = 0 ∧ c.addr = l.rec_.record.toNat ∧ c.l = (s.die 8).l ∧ id ∉ t.hub.waiting) ∧
  (∀ (s : State) id l, s.hub.waiting = [id] → s.hub.preempting = none → s.launch? id = some l → l.st = .queued → l.checked = false →
    l.broken = false → (∀ d ∈ l.deps, d.met = true) → s.launchFree l = true → s.canRecord l.rec_.record = true → s.imageFor l = none →
    ∃ t c, exec .scheduleDecision s = .next t ∧ sameBytes s t ∧ t.hub.completions = s.hub.completions ++ [c] ∧ c.id = id ∧
      c.cause = 0x0C ∧ c.sub = 0x07 ∧ c.place = 0 ∧ c.addr = l.rec_.record.toNat ∧ id ∉ t.hub.waiting) ∧
  (∀ (s : State) l, s.imageFor l ≠ none → l.rec_.image.toNat % 64 = 0 ∧ isDram l.rec_.image.toNat = true ∧
    s.routeDown 8 l.rec_.image.toNat = false) ∧
  (∀ (s : State) a, s.canRecord a = true ↔ a.toNat % 64 = 0 ∧ isDram a.toNat = true ∧ s.routeDown 8 a.toNat = false) ∧
  (∀ (s : State) id l, s.launch? id = some l → (l.st = .queued ∨ l.st = .swapped) → 0 < l.prio →
    l.since + s.hub.agelim.toNat ≤ s.cyc → (s.hub.queues.get (l.prio - 1) []).length < 64 →
    ∃ t, exec (.agelimPromotion id) s = .next t ∧ sameBytes s t ∧ t.launch? id = some { l with prio := l.prio - 1, since := s.cyc } ∧
      (t.hub.queues.get (l.prio - 1) []).getLast? = some id ∧ (∀ n, n ≠ l.prio - 1 → id ∉ t.hub.queues.get n [])) ∧
  (∀ (s : State) w v p l, s.hub.preempting = none → s.preemptChoice = some (w, v, p) → s.placement? v = some p → s.launch? v = some l →
    (∀ r ∈ p.regions, (s.region r).frozen = none) → p.regions ≠ [] →
    ∃ t, exec .preemption s = .next t ∧ sameBytes s t ∧ t.hub.preempting = some (v, w) ∧
      (l.rec_.flags.getLsbD 1 = true → ∀ r ∈ p.regions, (t.region r).frozen.isSome = true)) ∧
  (∀ (s : State) w v p, s.preemptChoice = some (w, v, p) →
    ∃ lw, (w, lw) ∈ s.impatient ∧ (v, p) ∈ s.hub.placements ∧ s.mayFall w lw (v, p) = true) ∧
  (∀ (s : State) w lw e, (w, lw) ∈ s.impatient → e ∈ s.hub.placements → s.mayFall w lw e = true → s.preemptChoice ≠ none)

/-- R122-R124, R163, R350, R395: a phase ends by its rule: the region stops, or enters the next phase with its tag, contexts at their
load values and runtime predicates updated; a placement whose regions have ended, whose origin halted and whose operations joined leaves
its regions and a completion record, which the hub writes with release. -/
def Says.PlacementsEnd : Prop :=
  (∀ r (s : State) id p, (s.region r).launch = some id → s.placement? id = some p → (s.region r).stop = false →
    (s.region r).frozen = none → 16 ≤ (s.region r).idle →
    let rp := s.updatedRp r
    (nextPhase (p.img.rule (s.region r).phase) rp = none → ∃ t, exec (.phaseEnd r) s = .next t ∧ sameBytes s t ∧
      (t.region r).stop = true ∧ (t.region r).tag = 0 ∧ (t.region r).rp = rp ∧ t.units = s.units) ∧
    (∀ n, nextPhase (p.img.rule (s.region r).phase) rp = some n → ∃ t, exec (.phaseEnd r) s = .next t ∧ sameBytes s t ∧
      (t.region r).phase = n ∧ (t.region r).tag = p.img.placedTag p.base n ∧ (t.region r).rp = rp ∧ (t.region r).wr = 0 ∧
      (t.region r).idle = 0 ∧ (∀ u c, u.region = r → u.sub ≠ 17 → (t.unit u).context c = {}))) ∧
  (∀ r (s : State) k, k < 4 → (s.updatedRp r).getLsbD k =
    if (s.region r).wr.getLsbD k then (s.region r).rp.getLsbD k else ((s.unit ⟨r, 0, 0⟩).context 0).p.getLsbD k) ∧
  (∀ id (s : State) p l, s.placement? id = some p → s.launch? id = some l → l.st = .placed →
    (∀ r ∈ p.regions, (s.region r).stop = true) → (s.core p.origin).halted = true → s.joined id p.regions = true →
    s.faulty p.regions = [] → s.cutFrom p.regions = false →
    ∃ t c, exec (.placementComplete id) s = .next t ∧ t.mem = s.mem ∧ t.placement? id = none ∧
      (∀ r ∈ p.regions, (t.region r).launch = none) ∧ t.hub.completions = s.hub.completions ++ [c] ∧ c.id = id ∧ c.cause = 0 ∧ c.sub = 0 ∧
      c.addr = l.rec_.record.toNat ∧ c.cycles = s.cyc - p.start ∧ c.l = (s.die 8).l) ∧
  (∀ id (s : State) c, s.mem.wf = true → s.hub.completions.find? (fun c => c.id = id) = some c →
    recordAddrOk (BitVec.ofNat 64 c.addr) = true → c.addr < 2 ^ 64 →
    ∃ t, exec (.completionRecordWrite id) s = .next t ∧ sameBytesBut c.addr 64 s t ∧
      t.mem.word c.addr = toWord (2 ^ 63 + 256 * c.sub.toNat + c.cause.toNat) ∧ t.mem.word (c.addr + 8) = BitVec.ofNat 64 c.id ∧
      t.mem.word (c.addr + 16) = BitVec.ofNat 64 c.place ∧ t.mem.word (c.addr + 24) = BitVec.ofNat 64 c.dropped ∧
      t.mem.word (c.addr + 32) = BitVec.ofNat 64 c.l ∧ t.mem.word (c.addr + 40) = BitVec.ofNat 64 c.cycles ∧
      t.mem.word (c.addr + 48) = 0 ∧ id ∈ t.hub.doneIds ∧ t.launch? id = none)

/-- R76, R120: a bank of the phase that is wanted and not there is fetched; it is replaced whole by its words and tag, or a failing word
stops the element with CONFIG_REJECT and its subcode. -/
def Says.BanksAreFetched : Prop :=
  (∀ u b (s : State), s.bankWanted u b = true → ∃ t f, exec (.bankFetch u b) s = .next t ∧ sameBytes s t ∧
    (t.region u.region).fetches = (s.region u.region).fetches ++ [f] ∧ f.u = u ∧ f.bank = b ∧ t.units = s.units) ∧
  (∀ u b (s : State) f id p ws, (s.region u.region).fetches.find? (fun f => f.u = u && f.bank = b) = some f →
    (s.region u.region).launch = some id → s.placement? id = some p → (s.region u.region).stop = false →
    s.fetched id p f = (ws, none) → ∃ t, exec (.bankFill u b) s = .next t ∧ sameBytes s t ∧
      (t.unit u).banks.get b {} = ⟨(s.region u.region).tag, ws⟩ ∧ (∀ c, c ≠ b → (t.unit u).banks.get c {} = (s.unit u).banks.get c {}) ∧
      (t.unit u).ctx = (s.unit u).ctx) ∧
  (∀ u b (s : State) f id p ws sub, (s.region u.region).fetches.find? (fun f => f.u = u && f.bank = b) = some f →
    (s.region u.region).launch = some id → s.placement? id = some p → (s.region u.region).stop = false →
    s.fetched id p f = (ws, some sub) → (s.unit u).efault.getLsbD 63 = false → ∃ t, exec (.bankFill u b) s = .next t ∧ sameBytes s t ∧
      (t.unit u).banks = (s.unit u).banks ∧ (t.unit u).efault = efaultWord 0x0C sub.toNat 0 (s.boundTagOf u) none 0 0)

/-- R396, R399: WDLIM quiet cycles raise WATCHDOG with the active phase; a port that withheld for PFLIMIT cycles or more freezes its region, once for each access, to
its fault image area, and an event names region, port and address. -/
def Says.LimitsExpire : Prop :=
  (∀ r (s : State), (s.region r).wdlim ≠ 0 → (s.region r).wdlim.toNat ≤ (s.region r).quiet → (s.region r).launch.isSome = true →
    (s.core r).pend.watchdog = none → ∃ t, exec (.watchdogExpiry r) s = .next t ∧ sameBytes s t ∧
      (t.core r).pend.watchdog = some (BitVec.ofNat 64 (s.region r).phase) ∧ (t.region r).quiet = 0) ∧
  (∀ r (s : State), ((s.region r).wdlim = 0 ∨ (s.region r).quiet < (s.region r).wdlim.toNat) → exec (.watchdogExpiry r) s = .next s) ∧
  (∀ r port n (s : State), (s.region r).heldSince.get? port = some n → 0 < n → (s.region r).pflimit.toNat ≤ n →
    port ∉ (s.region r).pfTold → ∃ t e, exec (.pflimitFreeze r port) s = .next t ∧ sameBytes s t ∧ t.hub.events = e :: s.hub.events ∧
      e.getD 1 0 = BitVec.ofNat 64 r ∧ e.getD 2 0 = BitVec.ofNat 64 port ∧ e.getD 3 0 = s.heldAddr r port ∧
      port ∈ (t.region r).pfTold ∧ ((s.region r).faultArea.isSome = true → (t.region r).frozen.isSome = true)) ∧
  (∀ r port (s : State), (port ∈ (s.region r).pfTold ∨ ∀ n, (s.region r).heldSince.get? port = some n → n < (s.region r).pflimit.toNat) →
    exec (.pflimitFreeze r port) s = .next s)

/-- R76, R118-R125, R130-R132, R163, R350, R395, R396, R399: the scheduler, phases, banks, completion and limits. -/
def Obligations.PlacementLifecycle : Prop :=
  Says.SchedulerDecides ∧ Says.PlacementsEnd ∧ Says.BanksAreFetched ∧ Says.LimitsExpire

/-! ## Freezes, drains, traces -/

/-- R281, R286, R398, R403: FREEZE, THAW and RESUME are handler instructions (the mode is looked at before the operand, the model's
choice, notes/assumptions/24); FREEZE stops the region and waits for its image; THAW loads
a valid image, after which units and stores are as recorded, and the core too where the image is of a hub freeze; RESUME makes the withheld access of its port walk again. -/
def Says.FreezeInstructionsAct : Prop :=
  (∀ a (s : State), let r := s.site.region
    (s.core r).handler = false → ∀ i ∈ [Instr.freeze a, Instr.thaw a, Instr.resume a],
      exec i s = .next (s.trapSync r 0x04 0 (wordOf i) (s.core r).pc)) ∧
  (∀ a (s : State) p, let r := s.site.region
    (s.core r).handler = true → s.CleanRegs r [a] → (s.greg r a).toNat % 64 = 0 → (s.region r).frozen = none →
    s.translateCore r (s.greg r a) .store = .ok (.plain p) → isDram p = true →
    ∃ t, exec (.freeze a) s = .next t ∧ sameBytes s t ∧ (t.region r).frozen = some ⟨p, 0, false, false, none⟩ ∧ (t.region r).kept = [] ∧
      (t.core r).wait = some .freeze ∧ (t.core r).pc = (s.core r).pc ∧ (∀ b, (t.core r).read b = (s.core r).read b)) ∧
  (∀ a (s : State) p f, let r := s.site.region
    s.mem.wf = true → (s.core r).handler = true → s.CleanRegs r [a] → (s.greg r a).toNat % 64 = 0 → (s.region r).frozen.isSome = true →
    s.translateCore r (s.greg r a) .load = .ok (.plain p) → s.images.get? p = some f → (s.mem.word p).getLsbD 63 = true → f.kind = 0 →
    f.region = r → (s.region r).launch = some f.launch → s.mayRestore f r = true → (∀ e ∈ f.units, e.1.region = r) →
    cellsWf 0 f.cells = true → (∀ c ∈ f.cells, inStores r c.1 = true) →
    ∃ t, exec (.thaw a) s = .next t ∧ (t.region r).frozen = none ∧ (t.core r).pc = (s.core r).pc + 4 ∧
      (∀ b, (t.core r).read b = (s.core r).read b) ∧ (∀ u, u.region = r → t.unit u = Map.get f.units u {}) ∧
      (∀ u, u.region ≠ r → t.unit u = s.unit u) ∧
      ∀ b, t.mem.byte b = if inStores r b then cellAt f.cells b else s.mem.byte b) ∧
  (∀ a (s : State) p f, let r := s.site.region
    s.mem.wf = true → (s.core r).handler = true → s.CleanRegs r [a] → (s.greg r a).toNat % 64 = 0 → (s.region r).frozen.isSome = true →
    s.translateCore r (s.greg r a) .load = .ok (.plain p) → s.images.get? p = some f → (s.mem.word p).getLsbD 63 = true → f.kind = 1 →
    f.restored = false → f.region = r → (s.region r).launch = some f.launch → s.mayRestore f r = true → (∀ e ∈ f.units, e.1.region = r) →
    ∃ t, exec (.thaw a) s = .next t ∧ (t.region r).frozen = f.rec_.frozen ∧ (t.core r).pc = f.rec_.core.pc ∧
      (∀ b, (t.core r).read b = f.rec_.core.read b) ∧ (∀ u, u.region = r → t.unit u = Map.get f.units u {})) ∧
  (∀ a (s : State) q, let r := s.site.region
    let n := (s.greg r a).toNat
    let u : UnitId := ⟨r, 4 * n, 19⟩
    (s.core r).handler = true → s.CleanRegs r [a] → (s.region r).frozen = none → n < 4 → q ∈ (s.unit u).reqs → q.stage = .withheld →
    ∃ t, exec (.resume a) s = .next t ∧ sameBytes s t ∧ (t.core r).pc = (s.core r).pc + 4 ∧ { q with stage := .walking } ∈ (t.unit u).reqs ∧
      ∀ b, (t.core r).read b = (s.core r).read b)

/-- R400-R405: a frozen region that has settled is read out; its image's header is released last, with the valid bit and the kind; the
hub restores its image once; a drain places MARKs and shuts the inputs fed from outside, completes to an image of kind 2, or becomes a
freeze of kind 1 when it is late or an element records a cause after it began (a cause recorded before does not count, the model's
choice, notes/assumptions/49). -/
def Says.FreezesRun : Prop :=
  (∀ r (s : State) f, (s.region r).frozen = some f → f.read = false → f.taken = false → s.settled r = true →
    ∃ t m, exec (.freezeWave r) s = .next t ∧ sameBytes s t ∧ t.images.get? f.area = some m ∧ m.kind = f.kind ∧ m.region = r ∧
      m.launch = (s.region r).launch.getD 0 ∧ m.units = s.units.filter (fun e => e.1.region = r) ∧
      m.cells = s.mem.cells.filter (fun c => inStores r c.1) ∧ m.rec_.frozen = f.under.map (fun a => ⟨a, 0, true, true, none⟩) ∧
      (t.region r).frozen = some { f with taken := true }) ∧
  (∀ r (s : State) f, (s.region r).frozen = some f → f.read = false → s.settled r = false → exec (.freezeWave r) s = .next s) ∧
  (∀ r (s : State) f m, s.mem.wf = true → (s.region r).frozen = some f → f.taken = true → f.read = false →
    s.images.get? f.area = some m → isDram f.area = true → m.kind ≤ 2 →
    ∃ t, exec (.freezeReadoutComplete r) s = .next t ∧ t.mem.word f.area = toWord (2 ^ 63 + m.kind) ∧
      (s.hub.preempting = none → (t.region r).frozen = some { f with read := true })) ∧
  (∀ addr r (s : State) f x, s.images.get? addr = some f → (s.mem.word addr).getLsbD 63 = true → f.kind = 1 → f.restored = false → f.region = r →
    (s.region r).launch = some f.launch → (s.region r).frozen = some x → x.read = true → (∀ e ∈ f.units, e.1.region = r) →
    ∃ t g, exec (.hubRestore addr r) s = .next t ∧ (t.region r).frozen = f.rec_.frozen ∧ (t.core r).pc = f.rec_.core.pc ∧
      (∀ a, (t.core r).read a = f.rec_.core.read a) ∧ (∀ u, u.region = r → t.unit u = Map.get f.units u {}) ∧
      t.images.get? addr = some g ∧ g.restored = true) ∧
  (∀ addr r (s : State) f, s.images.get? addr = some f → f.restored = true → exec (.hubRestore addr r) s = .next s) ∧
  (∀ r (s : State) v w l, s.hub.preempting = some (v, w) → (s.region r).launch = some v → s.launch? v = some l →
    l.rec_.flags.getLsbD 1 = false → (s.region r).drain = none → (s.region r).frozen = none →
    ∃ t, exec (.drainStart r) s = .next t ∧ sameBytes s t ∧ (t.region r).drain.isSome = true ∧
      ∀ u i p, u.region = r → (s.chans.get? (.inp u i)).isSome = true → (s.chan (.inp u i)).src = some p → p.1.region ≠ r →
        (t.chan (.inp u i)).inq = (s.chan (.inp u i)).inq ++ [{ data := 1, kind := 2, tag := (s.region r).tag }] ∧
        (t.chan (.inp u i)).shut = true) ∧
  (∀ r (s : State) d, s.mem.wf = true → (s.region r).drain = some d → (s.region r).frozen = none → s.drained r = true →
    isDram d.area = true →
    ∃ t m, exec (.drainComplete r) s = .next t ∧ t.images.get? d.area = some m ∧ m.kind = 2 ∧ m.region = r ∧
      t.mem.word d.area = toWord (2 ^ 63 + 2)) ∧
  (∀ r (s : State) d, (s.region r).drain = some d → (s.region r).frozen = none →
    (((s.region r).wdlim ≠ 0 ∧ d.since + (s.region r).wdlim.toNat ≤ s.cyc) ∨
      ∃ e ∈ s.units, e.1.region = r ∧ e.2.stopped = true ∧ d.since ≤ e.2.faultCyc) →
    ∃ t f, exec (.drainTimeout r) s = .next t ∧ sameBytes s t ∧ (t.region r).drain = none ∧ (t.region r).frozen = some f ∧ f.kind = 1 ∧
      f.area = d.area) ∧
  (∀ r (s : State) d, (s.region r).drain = some d → s.cyc < d.since + (s.region r).wdlim.toNat →
    (∀ e ∈ s.units, e.1.region = r → e.2.stopped = true → e.2.faultCyc < d.since) → exec (.drainTimeout r) s = .next s)

/-- R386, R388, R389: the oldest record of a region goes into the trace buffer while the trace path is open and has room, else it is
dropped and counted, and a drop record and a sync record go before the next; while the path is closed it is discarded uncounted; a core record holds the cycles and the instructions since the last one; an
anchor record names the cycle and the hub's E. -/
def Says.TracesAreWritten : Prop :=
  (∀ (s : State) r w ws, s.traceRegion? = some r → (s.region r).tracePend = w :: ws → s.traceOpen = false →
    ∃ t, exec .traceRecordWrite s = .next t ∧ sameBytes s t ∧ (t.region r).tracePend = syncNext ws ∧ (t.region r).traceDrop =
      (s.region r).traceDrop ∧ t.dev = s.dev) ∧
  (∀ (s : State) r a b ws, s.mem.wf = true → s.traceRegion? = some r → (s.region r).tracePend = .words [a, b] :: ws → s.traceOpen = true →
    (s.region r).traceDrop = 0 → s.dev.traceRoom 2 = true → s.dev.traceWrite + 16 < s.dev.traceSize.toNat →
    isDram (s.dev.traceBase.toNat + s.dev.traceWrite) = true → isDram (s.dev.traceBase.toNat + s.dev.traceWrite + 8) = true →
    ∃ t, exec .traceRecordWrite s = .next t ∧ t.mem.word (s.dev.traceBase.toNat + s.dev.traceWrite) = a ∧
      t.mem.word (s.dev.traceBase.toNat + s.dev.traceWrite + 8) = b ∧ t.dev.traceWrite = s.dev.traceWrite + 16 ∧
      sameBytesBut (s.dev.traceBase.toNat + s.dev.traceWrite) 16 s t ∧ (t.region r).tracePend = ws) ∧
  (∀ (s : State) r w ws, s.traceRegion? = some r → (s.region r).tracePend = w :: ws → s.traceOpen = true →
    s.dev.traceRoom (Region.traceOut { s.region r with tracePend := ws } r s.cyc w).1.length = false →
    ∃ t, exec .traceRecordWrite s = .next t ∧ sameBytes s t ∧ (t.region r).tracePend = ws ∧
      (t.region r).traceDrop = (s.region r).traceDrop + 1 ∧ t.dev = s.dev) ∧
  (∀ (s : State) r cyc pc port ws, let R := s.region r
    let d : Int := (pc - R.tracePc).toInt / 4 - 1
    s.mem.wf = true → s.traceRegion? = some r → R.tracePend = .core cyc pc port false :: ws → s.traceOpen = true → R.traceDrop = 0 →
    cyc < R.traceCyc + 2 ^ 16 → -2 ^ 19 ≤ d → d < 2 ^ 19 → R.traceN < 4096 → r < 80 → port < 4 →
    s.dev.traceRoom 1 = true → s.dev.traceWrite + 8 < s.dev.traceSize.toNat → isDram (s.dev.traceBase.toNat + s.dev.traceWrite) = true →
    ∃ t, exec .traceRecordWrite s = .next t ∧ (t.region r).tracePend = ws ∧ (t.region r).traceCyc = cyc ∧ (t.region r).tracePc = pc ∧
      t.mem.word (s.dev.traceBase.toNat + s.dev.traceWrite) =
        BitVec.ofNat 64 (2 ^ 60 + r * 2 ^ 53 + port * 2 ^ 51 + (cyc - R.traceCyc) * 2 ^ 35 + (d % 2 ^ 20).toNat * 2 ^ 15)) ∧
  (∀ (s : State) r cyc pc port asked ws, let a := s.dev.traceBase.toNat + s.dev.traceWrite
    s.mem.wf = true → s.traceRegion? = some r → (s.region r).tracePend = .core cyc pc port asked :: ws → s.traceOpen = true →
    (s.region r).traceDrop = 0 → (asked = true ∨ 4096 ≤ (s.region r).traceN) → r < 80 → port < 4 →
    s.dev.traceRoom 3 = true → s.dev.traceWrite + 24 < s.dev.traceSize.toNat → isDram a = true → isDram (a + 8) = true →
    isDram (a + 16) = true →
    ∃ t, exec .traceRecordWrite s = .next t ∧ (t.region r).tracePend = ws ∧ (t.region r).traceN = 1 ∧
      t.mem.word a = BitVec.ofNat 64 (3 * 2 ^ 60 + r * 2 ^ 53 + cyc % 2 ^ 53) ∧ t.mem.word (a + 8) = pc ∧
      t.mem.word (a + 16) = BitVec.ofNat 64 (2 ^ 60 + r * 2 ^ 53 + port * 2 ^ 51 + (2 ^ 20 - 1) * 2 ^ 15)) ∧
  (∀ (s : State), s.mem.wf = true → s.anyTrace = true → s.dev.traceRoom 2 = true → s.dev.traceWrite + 16 < s.dev.traceSize.toNat →
    isDram (s.dev.traceBase.toNat + s.dev.traceWrite) = true → isDram (s.dev.traceBase.toNat + s.dev.traceWrite + 8) = true →
    ∃ t, exec .traceAnchor s = .next t ∧ t.dev.traceWrite = s.dev.traceWrite + 16 ∧
      t.mem.word (s.dev.traceBase.toNat + s.dev.traceWrite) = toWord (4 * 2 ^ 60 + 0x7F * 2 ^ 53 + s.cyc % 2 ^ 53) ∧
      t.mem.word (s.dev.traceBase.toNat + s.dev.traceWrite + 8) = BitVec.ofNat 64 (s.die 8).e ∧ t.regions = s.regions) ∧
  (∀ (s : State), s.anyTrace = false → exec .traceAnchor s = .next s)

/-- R387, R388, R390, R391: a firing leaves its note, of which an element holds the latest 64, and a walk starts at every 2^k-th
sampled one; a walk's record holds walk, depth, last-met condition, end code, node, loop index and cycle; it goes on from the firing
that placed the token or wrote the register, and ends with codes 1 to 7. How the conditions of V and M words stand under the six
codes, and that a walk ends with code 7 where no firing produced what was met last, is the model's choice (notes/assumptions/12). -/
def Says.WalksFollowTheLastMet : Prop :=
  (∀ (s : State) u slot ctx i t, s.wordAt u slot = some i → s.fires? u (slot, i) = some t →
    let n := s.noteOf u (slot, i) ctx t
    let R := s.region u.region
    let k := 2 ^ bitsOf R.traceCfg 8 5
    let w := s.traceFiring u slot ctx
    (w.notesOf u).held = (n :: (s.notesOf u).held).take 64 ∧ n.node = (s.nodeOf u slot).getD 0xFFFF ∧
      (s.traceOpen = true → R.walkStarts n.node = true → R.traceWalks % k = 0 → (w.region u.region).tracePend = R.tracePend ++
        (({ s with notes := w.notes }.walkFrom u.region (R.traceWalks / k) 64 0 u n).map TraceEv.words)) ∧
      ((s.traceOpen = false ∨ R.walkStarts n.node = false ∨ R.traceWalks % k ≠ 0) → (w.region u.region).tracePend = R.tracePend)) ∧
  (∀ (s : State) (home wid fuel d : Nat) (u : UnitId) (n : FNote), u.region < 80 → d < 64 → n.node < 2 ^ 16 → n.last < 6 →
    let rec_ (fin : Nat) : List Word := [BitVec.ofNat 64 (2 * 2 ^ 60 + u.region * 2 ^ 53 + wid % 256 * 2 ^ 45 + d * 2 ^ 39 + n.last * 2 ^ 36 +
      fin * 2 ^ 33 + n.node * 2 ^ 17), n.word]
    let w := s.walkFrom home wid (fuel + 1) d u n
    (n.last = 4 ∨ n.last = 5 → w = [rec_ n.last]) ∧
    (n.last < 4 → (n.by_ = .primed → w = [rec_ 1]) ∧ (n.by_ = .memory → w = [rec_ 2]) ∧ (n.by_ = .outside → w = [rec_ 3]) ∧
      (n.by_ = .lost → w = [rec_ 7]) ∧
      ∀ v t, n.by_ = .firing v t →
        ((s.region v.region).launch ≠ (s.region home).launch → w = [rec_ 3]) ∧
        ((s.region v.region).launch = (s.region home).launch → d = 63 → w = [rec_ 6]) ∧
        ((s.region v.region).launch = (s.region home).launch → d < 63 → (∀ m ∈ (s.notesOf v).held, m.tick ≠ t) → w = [rec_ 7]) ∧
        ∀ m, (s.region v.region).launch = (s.region home).launch → d < 63 → (s.notesOf v).held.find? (fun m => m.tick = t) = some m →
          w = rec_ 0 :: s.walkFrom home wid fuel (d + 1) v m))

/-- R281, R286, R386, R388, R390, R398, R400-R405: freezes, restores, drains, trace records and walks. -/
def Obligations.FreezesAndTraces : Prop := Says.FreezeInstructionsAct ∧ Says.FreezesRun ∧ Says.TracesAreWritten ∧
  Says.WalksFollowTheLastMet

/-! ## The host, ingest, checkpoints -/

/-- R434, R435: a well-formed launch write to a queue with room enqueues the launch its record describes, with the next id, which
goes to the host; a malformed one counts in HOSTERR (a record outside DRAM among them, and one over a down link reads as zeros: the
model's choice, notes/assumptions/63); a full queue holds the write back. A cancel of a queued launch completes it
with PREEMPT, subcode 0x01; any other cancel counts in HOSTERR. A message of the host waits at the hub with sender 0. -/
def Says.HostLaunchesAct : Prop :=
  (∀ fn prio record idAddr (s : State), s.hostOpen fn = true → prio < 4 → record % 64 = 0 → idAddr % 8 = 0 → isDram record = true →
    isDram (record + 255) = true → (s.hub.queues.get prio []).length < 64 →
    ∃ t l, exec (.hostLaunchWrite ⟨fn, prio⟩ true record idAddr) s = .next t ∧ t.mem = s.mem ∧ t.regions = s.regions ∧
      t.hub.nextId = nextLaunchId s.hub.nextId ∧ t.hub.queues.get prio [] = s.hub.queues.get prio [] ++ [s.hub.nextId] ∧
      t.launch? s.hub.nextId = some l ∧ l.st = .queued ∧ l.prio = prio ∧ 
      l.rec_ = recordOf (if s.routeDown 8 record then List.replicate 32 0 else recordWords s.mem record) ∧
      t.dev.out = (if idAddr = 0 then s.dev.out else (idAddr, bytes8 s.hub.nextId) :: s.dev.out)) ∧
  (∀ fn prio ok record idAddr (s : State), s.hostOpen fn = true → prio < 4 →
    (ok = false ∨ record % 64 ≠ 0 ∨ idAddr % 8 ≠ 0 ∨ isDram record = false ∨ isDram (record + 255) = false) →
    exec (.hostLaunchWrite ⟨fn, prio⟩ ok record idAddr) s = .next { s with dev := { s.dev with hosterr := s.dev.hosterr + 1 } }) ∧
  (∀ fn prio record idAddr (s : State), s.hostOpen fn = true → prio < 4 → record % 64 = 0 → idAddr % 8 = 0 → isDram record = true →
    isDram (record + 255) = true → 64 ≤ (s.hub.queues.get prio []).length →
    exec (.hostLaunchWrite ⟨fn, prio⟩ true record idAddr) s = .next { s with again := true }) ∧
  (∀ fn id (s : State) l, s.hostOpen fn = true → s.launch? id = some l → l.st = .queued →
    ∃ t m, exec (.launchCancel true ⟨fn, id⟩) s = .next t ∧ t.mem = s.mem ∧ t.regions = s.regions ∧ t.launch? id = some m ∧ m.st = .done ∧
      (∀ p, id ∉ t.hub.queues.get p []) ∧
      t.hub.completions = s.hub.completions ++ [⟨id, l.rec_.record.toNat, 0x12, 0x01, 0, 0, 0, (s.die 8).l⟩]) ∧
  (∀ fn ok id (s : State), s.hostOpen fn = true → (ok = false ∨ ∀ l, s.launch? id = some l → l.st ≠ .queued) →
    exec (.launchCancel ok ⟨fn, id⟩) s = .next { s with dev := { s.dev with hosterr := s.dev.hosterr + 1 } }) ∧
  (∀ fn msg dest status (s : State), s.hostOpen fn = true → s.hub.parked.length + s.hub.outbox.length < 256 →
    ∃ t o, exec (.hostMessageWrite msg ⟨fn, dest⟩ status) s = .next t ∧ t.mem = s.mem ∧ t.hub.outbox = s.hub.outbox ++ [o] ∧
      o.msg.sender = 0 ∧ o.dest = dest % 2 ^ 32 ∧ o.nak = none ∧ o.hostAddr = status ∧ o.msg.body.length = 64 ∧
      ∀ k, k < 8 → (o.msg.body.drop (8 * k)).take 8 = bytes8 (msg.getD k 0).toNat)

/-- R115, R137, R300, R431, R432: a write through BAR2 puts its bytes at WINBASE + offset, clears the poison of the words it covers whole
and touches nothing else, but that a payload which crosses a link may arrive with an error and then poisons its words; one that reaches a stamped page is discarded and counts in HOSTERR; a read returns the bytes. -/
def Says.HostMemoryAccesses : Prop :=
  (∀ fn off size data (s : State), let a := s.dev.winbase.toNat + off
    s.mem.wf = true → s.hostOpen fn = true → 0 < size → data.length = size → off + size ≤ 2 ^ s.dev.barBits → isDram a = true →
    isDram (a + size - 1) = true → s.routeDown 8 a = false →
    ∃ t, exec (.hostBar2Access true ⟨fn, off⟩ size data) s = .next t ∧ t.regions = s.regions ∧ t.hub = s.hub ∧
      if s.stampedAt a = none ∧ s.stampedAt (a + size - 1) = none then
        t.dev = s.dev ∧
        (∀ k b, data[k]? = some b → t.mem.byte (a + k) = b) ∧ (∀ b, b < a ∨ a + size ≤ b → t.mem.byte b = s.mem.byte b) ∧
        (∀ w, t.mem.poisoned (8 * w) = ((s.mem.poisoned (8 * w) && !(decide (a ≤ 8 * w) && decide (8 * w + 8 ≤ a + size))) ||
          ((s.carried 8 a false).1 && decide (a < 8 * w + 8) && decide (8 * w < a + size))))
      else t = { s with dev := { s.dev with hosterr := s.dev.hosterr + 1 } }) ∧
  (∀ (s : State) die a, (s.carried die a false).1 = (!(remoteRoute die a).isEmpty && Config.payloadBad s.freeCtr)) ∧
  (∀ fn off size data (s : State), let a := s.dev.winbase.toNat + off
    s.hostOpen fn = true → 0 < size → data.length = size → off + size ≤ 2 ^ s.dev.barBits → isDram a = true →
    isDram (a + size - 1) = true → (s.backing? a).isSome = true →
    exec (.hostBar2Access true ⟨fn, off⟩ size data) s = .next { s with dev := { s.dev with hosterr := s.dev.hosterr + 1 } }) ∧
  (∀ fn off size data (s : State), let a := s.dev.winbase.toNat + off
    s.hostOpen fn = true → 0 < size → off + size ≤ 2 ^ s.dev.barBits → isDram a = true → isDram (a + size - 1) = true →
    s.routeDown 8 a = false →
    ∃ t, exec (.hostBar2Access false ⟨fn, off⟩ size data) s = .next t ∧ t.mem = s.mem ∧ t.hub = s.hub ∧ t.regions = s.regions ∧
      ((∀ k, k < size → s.stampedAt (a + k) = none) →
        t.dev.reads = (a, (List.range size).map (fun k => s.mem.byte (a + k))) :: s.dev.reads))

/-- R263, R354, R398, R400, R431, R433, R442: registers of BAR0. A resume write takes a withheld port up again, a memory port only while its
region is not frozen, an invalidate drops a region's
kept translations; EVEC reads 0 in bits 1:0; WINBASE is aligned to the window; PFLIMIT is the limit of every region; a limit, trace,
or host ring register reads back what was written, a 4-byte write its half alone; the read-only registers ignore writes; BAR2 takes
the size 2^k that its size field is written; the newest event stands at its number's place of the event ring. Where a register stands
in its block, and the ring's layout, are the model's choice (notes/assumptions/18, 61). -/
def Says.HostRegistersWrite : Prop :=
  (∀ fn r n (s : State), let u : UnitId := ⟨r, 4 * n, 19⟩
    s.hostOpen fn = true → r < 80 → n < 4 → (s.region r).frozen = none → (s.unit u).reqs.any (fun q => q.stage = .withheld) = true →
    ∃ t, exec (.portResumeWrite ⟨fn, r⟩ n) s = .next t ∧ sameBytes s t ∧ (∀ q ∈ (t.unit u).reqs, q.stage ≠ .withheld) ∧
      (t.region r).heldSince.get? n = none ∧ ∀ v, v ≠ u → t.unit v = s.unit v) ∧
  (∀ fn r n (s : State), n < 4 → (s.region r).frozen.isSome = true → exec (.portResumeWrite ⟨fn, r⟩ n) s = .next s) ∧
  (∀ fn r n (s : State) c, s.mem.wf = true → s.hostOpen fn = true → r < 80 → 4 ≤ n → n < 20 →
    (s.region r).cmds.find? (fun c => c.port = n - 4 && c.held) = some c →
    ∃ t, exec (.portResumeWrite ⟨fn, r⟩ n) s = .next t ∧ sameBytes s t ∧ t.units = s.units ∧
      ∃ d ∈ (t.region r).cmds, d.tick = c.tick ∧ d.held = false ∧ d.done = c.done) ∧
  (∀ fn r (s : State), s.hostOpen fn = true → r < 80 →
    ∃ t, exec (.translationInvalidate ⟨fn, r⟩) s = .next t ∧ (t.region r).kept = [] ∧ (∀ q, q ≠ r → t.region q = s.region q) ∧
      t.core r = s.core r ∧ t.mem = s.mem ∧ t.units = s.units ∧ t.hub = s.hub) ∧
  (∀ fn r v (s : State), s.hostOpen fn = true → r < 80 →
    ∃ t, exec (.registerWrite ⟨fn, 0x100000 + 0x1000 * r, 8, false⟩ v) s = .next t ∧ (t.core r).evec = v &&& ~~~3 ∧ t.mem = s.mem ∧
      t.hub = s.hub ∧ t.dev = s.dev ∧ (∀ q, q ≠ r → t.region q = s.region q) ∧ ∀ a, (t.core r).read a = (s.core r).read a) ∧
  (∀ fn v (s : State), s.hostOpen fn = true → s.dev.barBits ≤ 39 →
    ∃ t, exec (.registerWrite ⟨fn, 0x40, 8, false⟩ v) s = .next t ∧ t.dev.winbase.toNat = v.toNat / 2 ^ s.dev.barBits * 2 ^ s.dev.barBits ∧
      t.mem = s.mem ∧ t.regions = s.regions ∧ t.hub = s.hub) ∧
  (∀ fn off n k (s : State), s.hostOpen fn = true → 28 ≤ k → k ≤ 39 →
    ∃ t, exec (.registerWrite ⟨fn, off, n, true⟩ (BitVec.ofNat 64 k)) s = .next t ∧ t.dev.barBits = k ∧
      t.dev.winbase.toNat = s.dev.winbase.toNat / 2 ^ k * 2 ^ k ∧ t.mem = s.mem ∧ t.regions = s.regions ∧ t.hub = s.hub) ∧
  (∀ fn (s : State) e es k, s.hostOpen fn = true → s.hub.events = e :: es → k < 8 →
    s.bar0Read fn 0x30038 8 = BitVec.ofNat 64 (es.length + 1) ∧
    s.bar0Read fn (0x30200 + 64 * (es.length % 56) + 8 * k) 8 = e.getD k 0) ∧
  (∀ fn v (s : State), s.hostOpen fn = true →
    ∃ t, exec (.registerWrite ⟨fn, 0x30008, 8, false⟩ v) s = .next t ∧ t.mem = s.mem ∧ ∀ r, r < 80 → (t.region r).pflimit = v) ∧
  (∀ fn off v (s : State), s.hostOpen fn = true → off ∈ [0x20080, 0x20088, 0x30000, 0x30008, 0x30010, 0x30018, 0x30020, 0x30028, 0x30030] →
    (∃ t, exec (.registerWrite ⟨fn, off, 8, false⟩ v) s = .next t ∧ t.bar0Read fn off 8 = v ∧ t.mem = s.mem ∧ t.units = s.units) ∧
    (∃ t, exec (.registerWrite ⟨fn, off, 4, false⟩ v) s = .next t ∧ t.bar0Read fn off 8 = (s.bar0Read fn off 8).extractLsb' 32 32 ++ v.setWidth 32 ∧
      t.mem = s.mem ∧ t.units = s.units) ∧
    ∃ t, exec (.registerWrite ⟨fn, off + 4, 4, false⟩ v) s = .next t ∧ t.bar0Read fn off 8 = v.setWidth 32 ++ (s.bar0Read fn off 8).setWidth 32 ∧
      t.mem = s.mem ∧ t.units = s.units) ∧
  (∀ fn off v (s : State), off ∈ [0x00, 0x08, 0x18, 0x20, 0x28, 0x30, 0x38, 0x48, 0x30038] →
    exec (.registerWrite ⟨fn, off, 8, false⟩ v) s = .next s ∧ exec (.registerWrite ⟨fn, off, 4, false⟩ v) s = .next s ∧
    exec (.registerWrite ⟨fn, off + 4, 4, false⟩ v) s = .next s)

/-- R442, R446, R452: until READY, in P2, and while no IDE key is programmed, host writes change nothing; until READY and in P2 a read
of BAR2 finds 0, and BAR0 reads 0 but for the identity and status registers. -/
def Says.HostWaitsForBringup : Prop :=
  ∀ (s : State) fn, s.hostOpen fn = false →
    (∀ p ok a b, exec (.hostLaunchWrite ⟨fn, p⟩ ok a b) s = .next s) ∧ (∀ ok id, exec (.launchCancel ok ⟨fn, id⟩) s = .next s) ∧
    (∀ m d a, exec (.hostMessageWrite m ⟨fn, d⟩ a) s = .next s) ∧ (∀ o n d, exec (.hostBar2Access true ⟨fn, o⟩ n d) s = .next s) ∧
    (∀ o n d, exec (.hostBar2Access false ⟨fn, o⟩ n d) s = .next (if s.hostSleeps then { s with dev := { s.dev with
      reads := (s.dev.winbase.toNat + o, List.replicate n 0) :: s.dev.reads } } else s)) ∧
    (∀ r n, exec (.portResumeWrite ⟨fn, r⟩ n) s = .next s) ∧ (∀ r, exec (.translationInvalidate ⟨fn, r⟩) s = .next s) ∧
    (∀ o v, exec (.registerWrite ⟨fn, o⟩ v) s = .next s) ∧ (∀ d, exec (.ingestDescriptor ⟨fn, d⟩) s = .next s) ∧
    (∀ d, exec (.checkpointDescriptor ⟨fn, d⟩) s = .next s) ∧
    ∀ off n, off / 8 * 8 ∉ [0x00, 0x08, 0x18, 0x20, 0x28, 0x30, 0x38] ∨ s.hostSleeps = false → s.bar0Read fn off n = 0

/-- R115, R263, R354, R398, R431-R435, R442: the host's launches, messages, memory accesses and register writes. -/
def Obligations.HostAccessesAct : Prop :=
  Says.HostLaunchesAct ∧ Says.HostMemoryAccesses ∧ Says.HostRegistersWrite ∧ Says.HostWaitsForBringup

/-- R53, R59, R438, R439: a descriptor waits among at most 32; one whose code is RAW or 0xF ends with CONFIG_REJECT, subcode 0x03, and
writes nothing; one to a plain format puts the converted element of row i and column j at its place of the ring tiles and then
writes a clean status. The subcode's place, the row-by-row source and the rounding are the model's choice (notes/assumptions/64). -/
def Says.IngestActs : Prop :=
  (∀ fn d (s : State), s.hostOpen fn = true → s.dev.io.ingest.length < 32 →
    ∃ t, exec (.ingestDescriptor ⟨fn, d⟩) s = .next t ∧ t.dev.io.ingest = s.dev.io.ingest ++ [d] ∧ t.mem = s.mem ∧ t.hub = s.hub) ∧
  (∀ fn d (s : State), s.hostOpen fn = true → 32 ≤ s.dev.io.ingest.length → exec (.ingestDescriptor ⟨fn, d⟩) s = .next { s with again := true }) ∧
  (∀ d ds (s : State), s.dev.io.ingest = d :: ds → (d.srcFmt = 0 ∨ d.srcFmt = 15 ∨ d.dstFmt = 0 ∨ d.dstFmt = 15) →
    ∃ t, exec .ingestComplete s = .next t ∧ t.dev.io.ingest = ds ∧ t.mem = s.mem ∧
      t.dev.out = (d.status, bytes8 (2 ^ 63 + 0x30C)) :: s.dev.out) ∧
  (∀ d ds (s : State), s.mem.wf = true → s.dev.io.ingest = d :: ds → ingestRefused d = none → (d.dstFmt = 3 ∨ d.dstFmt = 4) →
    0 < d.rows → 0 < d.k → isDram d.dst = true → isDram (d.dst + 2 * d.rows * d.k - 1) = true → d.elide = false →
    ∃ t, exec .ingestComplete s = .next t ∧ t.dev.io.ingest = ds ∧ t.dev.out = (d.status, bytes8 (2 ^ 63)) :: s.dev.out ∧
      (∀ i j, i < d.rows → j < d.k →
        t.mem.readNat (d.dst + i / 32 * (64 * d.k) + j / 32 * 2048 + i % 32 * 64 + j % 32 * 2) 2 =
          (convert d.srcFmt d.dstFmt 0 false (Source.elem ⟨s.freeCtr, d.src, false, 0⟩ (fmtWidth d.srcFmt / 8) (i * d.k + j))).bits % 2 ^ 16) ∧
      ∀ b, b < d.dst ∨ d.dst + 2 * d.rows * d.k ≤ b → t.mem.byte b = s.mem.byte b) ∧
  (∀ d ds (s : State), s.dev.io.ingest = d :: ds → ingestRefused d = none → (d.dstFmt ≠ 3 ∧ d.dstFmt ≠ 4) →
    let bs := ingestBytes d ⟨s.freeCtr, d.src, d.elide, (d.rows * d.k * fmtWidth d.srcFmt / 8 + 63) / 64⟩
    bs ≠ [] → isDram d.dst = true → isDram (d.dst + bs.length - 1) = true →
    ∃ t, exec .ingestComplete s = .next t ∧ t.dev.io.ingest = ds ∧ (∀ b, t.mem.byte b = (s.mem.hostStore d.dst bs).byte b) ∧
      t.dev.out = (d.status, bytes8 (2 ^ 63)) :: s.dev.out)

/-- R150, R440: a checkpoint of at most 16 ranges waits until the floor at its scope exceeds the cut; then its lines leave for the
target one after another, ordinary memory as it stands at that line's read and a stamped line as LDAS at the cut returns it, and the
descriptor ends with its last line. One line a step, and a remote target's device in the target's high bits, are the model's choice
(notes/assumptions/65). -/
def Says.CheckpointActs : Prop :=
  (∀ fn d (s : State), s.hostOpen fn = true → d.ranges.length ≤ 16 →
    ∃ t, exec (.checkpointDescriptor ⟨fn, d⟩) s = .next t ∧ t.dev.io.checkpoint = s.dev.io.checkpoint ++ [d] ∧ t.mem = s.mem) ∧
  (∀ d ds (s : State), s.dev.io.checkpoint = d :: ds → s.floorAt (d.scope = .sys) 8 ≤ d.cut → exec .checkpointCopy s = .next s) ∧
  (∀ d ds (s : State) a, s.dev.io.checkpoint = d :: ds → d.cut < s.floorAt (d.scope = .sys) 8 →
    (linesOf d)[s.dev.io.copied]? = some a →
    let place := d.target + 64 * s.dev.io.copied
    let done := (linesOf d).length = s.dev.io.copied + 1
    ∃ t bs, exec .checkpointCopy s = .next t ∧ t.mem = s.mem ∧ t.regions = s.regions ∧ t.hub = s.hub ∧
      (s.stampedAt a = none → bs = s.mem.readBytes a 64) ∧
      (∀ base line k, s.stampedAt a = some base → a = base + 320 * line → line < 1024 → ldasSlot s.mem base line d.cut = some k →
        bs = s.mem.readBytes (lineSlot base line k) 64) ∧
      (d.toHost = true → t.dev.out = (place, bs) :: s.dev.out ∧ t.dev.remote = s.dev.remote) ∧
      (d.toHost = false → t.dev.out = s.dev.out ∧
        t.dev.remote = (place / 2 ^ 52 % 2 ^ 18, place % 2 ^ 52, .bytes bs) :: s.dev.remote) ∧
      (done → t.dev.io.checkpoint = ds ∧ t.dev.io.copied = 0) ∧
      (¬ done → t.dev.io.checkpoint = d :: ds ∧ t.dev.io.copied = s.dev.io.copied + 1))

/-- R53, R59, R150, R438-R440: ingest and checkpoints. -/
def Obligations.IngestAndCheckpointsAct : Prop := Says.IngestActs ∧ Says.CheckpointActs

/-! ## Reset, power, security -/

/-- R431, R441, R446, R449, R450, R452, R453: a function-level reset takes the module to bring-up and loses launches and keys; power
removal keeps the fuses alone; the phases run in order, with FIRMWARE's checks, measurements and debug level (the images one after another, each against the counter that the one before raised:
the model's choice, notes/assumptions/89), MEMORY's zeroed DRAM,
and READY or FAILED final; an uncorrectable error of enclave or hub is FAILED with cause 0x10. -/
def Says.BringupRuns : Prop :=
  (∀ (s : State), s.dev.off = false →
    ∃ t, exec .functionLevelReset s = .next t ∧ t.dev.phase = 0 ∧ t.hub.launches = [] ∧ t.hub.queues = [] ∧ t.hub.completions = [] ∧
      t.enc.keys = [] ∧ t.enc.spdm = [] ∧ t.enc.life = s.enc.life ∧ t.enc.ownerDigest = s.enc.ownerDigest ∧
      t.enc.rollback = s.enc.rollback ∧ t.enc.spent = s.enc.spent ∧ ∀ r, (t.region r).present = (s.region r).present ∧ (t.region r).launch = none) ∧
  (∀ (s : State), ∃ t, exec .powerRemoval s = .next t ∧ t.dev.off = true ∧ t.dev.phase = 0 ∧ t.enc.power = .p3 ∧
    t.enc.m = Vector.replicate 8 0 ∧ t.enc.keys = [] ∧ t.enc.life = s.enc.life ∧ t.enc.ownerDigest = s.enc.ownerDigest ∧
    t.enc.rollback = s.enc.rollback ∧ t.hub.launches = []) ∧
  (∀ (s : State), s.dev.off = true → exec .powerOn s = .next { s with dev := { s.dev with off := false } }) ∧
  (∀ (s : State), s.dev.off = false → s.dev.phase = 0 →
    exec .bringupPhaseComplete s = .next { s with dev := { s.dev with phase := 1 } }) ∧
  (∀ (s : State), let f := s.enc.rollback.getD Config.rollbackFuse
    let n := s.freeCtr
    s.dev.off = false → s.dev.phase = 1 → ∃ t, exec .bringupPhaseComplete s = .next t ∧ t.mem = s.mem ∧
    let r := checkImages f (firmwareImages n)
    t.enc.rollback = some r.1 ∧
    if r.2 = 0 then
      t.dev.phase = 2 ∧ t.enc.level = s.enc.life.lowest ∧
      t.enc.m.get 0 = shake512 (bytes64 (s.enc.m.get 0) ++ Config.hubFirmware n) ∧
      t.enc.m.get 1 = (Config.otherFirmware n).foldl (fun m d => shake512 (bytes64 m ++ d)) (s.enc.m.get 1) ∧
      t.enc.m.get 2 = shake512 (bytes64 (s.enc.m.get 2) ++
        (Config.fuses ++ bytes8 r.1 ++ bytes32 (s.enc.ownerDigest.getD 0) ++ [BitVec.ofNat 8 s.enc.life.code])) ∧
      t.enc.attest = Config.attestKey (t.enc.m.get 0) (t.enc.m.get 2) ∧ ∀ k, 3 ≤ k → t.enc.m.get k = s.enc.m.get k
    else t.dev.phase = 15 ∧ t.enc.m = s.enc.m ∧ t.dev.cause = r.2) ∧
  (∀ c xs, ((checkImages c xs).2 = 0 ↔
      (∀ x ∈ xs, x.2.length = 29792 ∧ Config.slhVerify Config.vendorDigest x.1 x.2 = true) ∧
      (c :: xs.map (fun x => Config.imageVersion x.1)).Pairwise (· ≤ ·)) ∧
    ((checkImages c xs).2 = 0 → (checkImages c xs).1 = (xs.map (fun x => Config.imageVersion x.1)).getLast?.getD c) ∧
    (checkImages c xs).2 ∈ [0x00, 0x01, 0x02]) ∧
  (∀ n, (firmwareImages n).map Prod.fst = Config.hubFirmware n :: Config.otherFirmware n) ∧
  (∀ (s : State), s.dev.off = false → s.dev.phase = 2 → ∃ t, exec .bringupPhaseComplete s = .next t ∧ t.mem = s.mem ∧ t.enc = s.enc ∧
    if Config.bringupCause 2 s.freeCtr = 0 then t.dev.phase = 3 else t.dev.phase = 15 ∧ t.dev.cause = Config.bringupCause 2 s.freeCtr) ∧
  (∀ (s : State), s.dev.off = false → s.dev.phase = 3 → ∃ t, exec .bringupPhaseComplete s = .next t ∧ t.enc.m = s.enc.m ∧
    if Config.bringupCause 3 s.freeCtr = 0 then t.dev.phase = 4 ∧ t.enc.power = .p0 ∧
      ∀ a, t.mem.byte a = (if isDram a then 0 else s.mem.byte a) ∧ t.mem.poisoned a = (!isDram a && s.mem.poisoned a)
    else t.dev.phase = 15 ∧ t.dev.cause = Config.bringupCause 3 s.freeCtr ∧ t.mem = s.mem) ∧
  (∀ (s : State), s.dev.off = false → (s.dev.phase = 4 ∨ s.dev.phase = 15) → exec .bringupPhaseComplete s = .next s) ∧
  (∀ (s : State), s.dev.off = false →
    exec .enclaveUncorrectableError s = .next { s with dev := { s.dev with phase := 15, cause := 0x10 } })

/-- R444, R446, R447, R452: P1 gates the regions it names where none holds a placement; P2 needs no launch and no FILLING handle, and
ends keys, sessions and the level OWNER; P0 ungates every region, its stores reading 0; from P2 every on-chip store reads 0 and DRAM
is kept; a request whose condition fails changes nothing. -/
def Says.PowerStatesChange : Prop :=
  (∀ rs (s : State), s.dev.phase = 4 → s.dev.off = false → (s.enc.power = .p0 ∨ s.enc.power = .p1) → rs ≠ [] →
    (∀ r ∈ rs, r < 80 ∧ (s.region r).launch = none) →
    ∃ t, exec (.powerStateRequest (.p1 rs)) s = .next t ∧ t.enc.power = .p1 ∧ (∀ r ∈ rs, (t.region r).gated = true) ∧
      (∀ r, r ∉ rs → t.region r = s.region r) ∧ t.mem = s.mem) ∧
  (∀ rs (s : State) r, r ∈ rs → (s.region r).launch.isSome = true → exec (.powerStateRequest (.p1 rs)) s = .next s) ∧
  (∀ (s : State), s.dev.phase = 4 → s.dev.off = false → (s.enc.power = .p0 ∨ s.enc.power = .p1) → s.noLaunch = true →
    s.regions.all (fun e => e.2.handles.all (fun h => h.2.st ≠ .filling)) = true →
    ∃ t, exec (.powerStateRequest .p2) s = .next t ∧ t.enc.power = .p2 ∧ t.enc.keys = [] ∧ t.enc.spdm = [] ∧ t.mem = s.mem ∧
      t.enc.m = s.enc.m ∧ t.enc.level = (if s.enc.level = .owner then .none else s.enc.level)) ∧
  (∀ (s : State), s.noLaunch = false → exec (.powerStateRequest .p2) s = .next s) ∧
  (∀ (s : State), s.dev.phase = 4 → s.dev.off = false → s.enc.power = .p1 →
    ∃ t, exec (.powerStateRequest .p0) s = .next t ∧ t.enc.power = .p0 ∧ ∀ r, r < 80 → (t.region r).gated = false ∧
      ((s.region r).gated = true → ∀ o, o < 2 ^ 23 → t.mem.byte (rstoreBase r + o) = 0 ∧ ∀ c, c < 16 → o < 2 ^ 20 →
        t.mem.byte (spadBase ⟨r, c⟩ + o) = 0)) ∧
  (∀ (s : State), s.dev.phase = 4 → s.dev.off = false → s.enc.power = .p2 →
    ∃ t, exec (.powerStateRequest .p0) s = .next t ∧ t.enc.power = .p0 ∧ t.enc.keys = [] ∧
      (∀ a, t.mem.byte a = (if isDram a then s.mem.byte a else 0)) ∧ ∀ a, t.mem.poisoned a = (isDram a && s.mem.poisoned a))

/-- R443-R445, R447, R449: a token that passes every check sets its level and flags and extends M7; one that fails a check changes
neither level, flags nor measurements (its fields and its bytes agree, and a refused token spends its nonce: the model's choice,
notes/assumptions/67, 66); a level lowered to NONE closes the debug paths; a vendor-signed transfer makes a module OWNED
with the owner's digest fused; a release zeroes memory, clears measurements, ends keys and makes it RETURNED. -/
def Says.DebugAndLifecycleMove : Prop :=
  (∀ k (s : State), s.dev.phase = 4 → s.dev.off = false → ∃ t, exec (.debugToken k) s = .next t ∧ t.mem = s.mem ∧ t.hub = s.hub ∧
    if s.tokenSigned k = true ∧ k.rest = true ∧ tokenFields k = true ∧ k.devid = s.dev.devid ∧ s.enc.nonce = some k.nonce ∧ k.nonce ∉ s.enc.spent ∧
      s.enc.life.allows k.level.toNat = true ∧ s.enc.power = .p0 ∧ s.noLaunch = true then
      t.enc.level = (if k.level = 1 then .owner else .vendor) ∧ t.enc.routeBrk = k.flags.getLsbD 0 ∧
      t.enc.openTrace = k.flags.getLsbD 1 ∧ k.nonce ∈ t.enc.spent ∧
      t.enc.m.get 7 = shake512 (bytes64 (s.enc.m.get 7) ++ (k.body ++ k.sig)) ∧ ∀ j, j ≠ 7 → t.enc.m.get j = s.enc.m.get j
    else t.enc = { s.enc with nonce := t.enc.nonce, spent := t.enc.spent }) ∧
  (∀ (s : State), s.dev.off = false → s.enc.life ≠ .manufacture →
    ∃ t, exec .debugLevelLower s = .next t ∧ t.enc.level = .none ∧ t.enc.routeBrk = false ∧ t.enc.openTrace = false ∧
      (∀ r, (t.region r).tracePend = []) ∧ t.enc.m = s.enc.m ∧ t.mem = s.mem ∧ t.hub = s.hub) ∧
  (∀ digest sig (s : State), s.dev.phase = 4 → s.dev.off = false → s.enc.life = .manufacture →
    ∃ t, exec (.lifecycleTransfer digest sig) s = .next t ∧ t.mem = s.mem ∧
    if sig.length = 29792 ∧ Config.slhVerify Config.vendorDigest (bytes32 digest) sig = true then
      t.enc.life = .owned ∧ t.enc.ownerDigest = some digest ∧
      t.enc.m.get 2 = shake512 (bytes64 (s.enc.m.get 2) ++
        (Config.fuses ++ bytes8 (s.enc.rollback.getD Config.rollbackFuse) ++ bytes32 digest ++ [1]))
    else t = s) ∧
  (∀ digest sig (s : State), s.enc.life ≠ .manufacture → exec (.lifecycleTransfer digest sig) s = .next s) ∧
  (∀ o v d (s : State), s.dev.phase = 4 → s.dev.off = false → s.enc.life = .owned → s.enc.ownerDigest = some d →
    ∃ t, exec (.lifecycleRelease o v) s = .next t ∧
    if slhSigned d [] o = true ∧ slhSigned Config.vendorDigest [] v = true then
      t.enc.life = .returned ∧ t.enc.ownerDigest = some (BitVec.allOnes 256) ∧
      t.enc.keys = [] ∧ (∀ a, t.mem.byte a = 0) ∧ t.images = [] ∧ (∀ r, (t.region r).cache = []) ∧ (∀ k, k ≠ 2 → t.enc.m.get k = 0) ∧
      t.enc.m.get 2 = shake512 (bytes64 0 ++
        (Config.fuses ++ bytes8 (s.enc.rollback.getD Config.rollbackFuse) ++ bytes32 (BitVec.allOnes 256) ++ [2]))
    else t = s) ∧
  (∀ o v (s : State), s.enc.life ≠ .owned → exec (.lifecycleRelease o v) s = .next s)

/-- R449, R451, R452: a report carries lifecycle, level, power state and DEVID, the nonce, the eight measurements (as before an extend
of the same cycle) and the hub's L, with its signature; the certificate is answered; keys are taken inside a session, in P0 and P1. -/
def Says.EnclaveAnswers : Prop :=
  (∀ nonce (s : State), s.enclaveAnswers = true →
    ∃ t b, exec (.getMeasurements nonce) s = .next t ∧ t.enc.nonce = some nonce ∧ b.length = 560 ∧
      t.enc.reports = (b ++ (Config.attestSign s.enc.attest b).toList) :: s.enc.reports ∧
      b.take 8 = bytes8 (s.enc.life.code + 256 * s.enc.level.code + 2 ^ 16 * s.enc.power.code + 2 ^ 46 * s.dev.devid.toNat) ∧
      (b.drop 8).take 32 = bytes32 nonce ∧ b.drop 552 = bytes8 (s.die 8).l ∧
      (∀ k : Fin 8, (b.drop (40 + 64 * k.val)).take 64 =
        bytes64 (if s.enc.mAt = some s.cyc then s.enc.mOld.get k else s.enc.m.get k)) ∧ t.mem = s.mem ∧ t.enc.m = s.enc.m) ∧
  (∀ (s : State), s.enclaveAnswers = true →
    exec .getCertificate s = .next { s with enc := { s.enc with reports := (Config.certificate ++ Config.attestCert s.enc.attest) :: s.enc.reports } }) ∧
  (∀ fn (s : State), s.enclaveAnswers = true → fn < 2 →
    ∃ t, exec (.spdmSession fn) s = .next t ∧ t.enc.spdm.get fn false = true ∧ t.enc.keys = s.enc.keys ∧ t.mem = s.mem) ∧
  (∀ fn key (s : State), s.enclaveAnswers = true → s.enc.power ≠ .p2 → fn < 2 → s.enc.spdm.get fn false = true →
    ∃ t, exec (.ideKm fn key) s = .next t ∧ t.enc.keys.get? fn = some key ∧ t.mem = s.mem ∧ t.hub = s.hub) ∧
  (∀ fn key (s : State), s.enc.spdm.get fn false = false → exec (.ideKm fn key) s = .next s)

/-- R161, R436: a remote write lands only inside an inbound range; a collective's element merges into the scratchpad its locator
names. -/
def Says.RemoteWritesLand : Prop :=
  (∀ addr bs (s : State), s.mem.wf = true → s.dev.phase = 4 → s.dev.off = false → s.enc.power ≠ .p2 → bs ≠ [] →
    s.dev.takes addr bs.length = true → isDram addr = true → isDram (addr + bs.length - 1) = true →
    ∃ t, exec (.remoteWrite addr (.bytes bs)) s = .next t ∧ t.regions = s.regions ∧ t.hub = s.hub ∧
      (∀ b, b < addr ∨ addr + bs.length ≤ b → t.mem.byte b = s.mem.byte b) ∧
      if s.stampedAt addr = none ∧ s.stampedAt (addr + bs.length - 1) = none then ∀ k b, bs[k]? = some b → t.mem.byte (addr + k) = b
      else t = s) ∧
  (∀ addr bs (s : State), s.dev.takes addr bs.length = false → exec (.remoteWrite addr (.bytes bs)) s = .next s) ∧
  (∀ r c o (op : BitVec 3) fmt x (s : State), let n := fmtWidth fmt / 8
    let a := spadBase ⟨r, c⟩ + o
    let loc := r * 2 ^ 24 + c * 2 ^ 20 + o
    s.mem.wf = true → s.dev.phase = 4 → s.dev.off = false → s.enc.power ≠ .p2 → r < 80 → c < 16 →
    fmt.toNat ∈ [1, 2, 3, 4, 8, 9, 10, 11] → o + n ≤ s.scap r → s.dev.takes loc n = true →
    ∃ t, exec (.remoteWrite loc (.reduce op fmt x)) s = .next t ∧
      t.mem.readNat a n = (reduceElem op.toNat fmt (s.mem.readNat a n) x.toNat).1 % 2 ^ (8 * n) ∧ sameBytesBut a n s t ∧
      t.hub = s.hub)

/-- R161, R431, R436, R441, R443-R453: bring-up, power states, debug level and lifecycle, attestation and keys, remote writes. -/
def Obligations.ResetPowerAndSecurity : Prop :=
  Says.BringupRuns ∧ Says.PowerStatesChange ∧ Says.DebugAndLifecycleMove ∧ Says.EnclaveAnswers ∧ Says.RemoteWritesLand

/-! ## The machine as a whole -/

/-- R94, R95, R258, R268, R272: a step runs the instruction in hand. An empty agenda ends the cycle; a core whose turn it is, and that
neither waits nor has a cause to take, runs what the word at its PC decodes to; a word that decodes to nothing is ILLEGAL_WORD, and a
PC outside the code area raises PROTECTION; an instruction that stalls is tried again; an element runs the word that is ready; a step of the hardware's own, and one of the
environment's, is the meaning of its instruction, but that a posted write of a host function waits behind an earlier one that is held
back, and what is held back arrives again. -/
def Obligations.AStepRunsTheInstructionInHand : Prop :=
  (∀ (s : State), s.agenda = [] → step s = .next s.settleInput.endCycle) ∧
  (∀ (s : State) r ts i, let s0 : State := { s.settleInput with agenda := ts }
    let s1 : State := { s0 with site := { s0.site with region := r } }
    s.agenda = .core r :: ts → r < 80 → (s0.region r).launch.isSome = true → (s0.region r).coreFrozen = false →
    (s0.core r).run ≠ .doubleFault → (s0.core r).wait = none → (s0.core r).stall = none →
    ((s0.core r).handler = true ∨ (s0.core r).pend.take? = none) → (s0.core r).inCode (s0.core r).pc = true →
    (decodeC (s0.coreWord r) = .ok i → step s = exec i (s1.traceIssue r (issuePort i))) ∧
    (∀ e, decodeC (s0.coreWord r) = .error e → step s = exec (.illegalWord (s0.coreWord r)) s1)) ∧
  (∀ (s : State) r ts i st, let s0 : State := { s.settleInput with agenda := ts }
    let s1 : State := { s0 with site := { s0.site with region := r } }
    s.agenda = .core r :: ts → r < 80 → (s0.region r).launch.isSome = true →
    (s0.core r).run ≠ .doubleFault → (s0.core r).wait = none → (s0.core r).stall = some st →
    (st = .retry ∧ (s0.region r).coreFrozen = false ∨ st = .record ∨ ∃ x y, st = .sbind x y) →
    (s0.core r).inCode (s0.core r).pc = true → decodeC (s0.coreWord r) = .ok i → step s = exec i s1) ∧
  (∀ (s : State) r ts, let s0 : State := { s.settleInput with agenda := ts }
    s.agenda = .core r :: ts → r < 80 → (s0.region r).launch.isSome = true → (s0.region r).coreFrozen = false →
    (s0.core r).run ≠ .doubleFault → (s0.core r).stall = none → (s0.core r).handler = false → (s0.core r).pend.take?.isSome = true →
    step s = exec (.trapEntry r) s0) ∧
  (∀ (s : State) r ts, let s0 : State := { s.settleInput with agenda := ts }
    let s1 : State := { s0 with site := { s0.site with region := r } }
    s.agenda = .core r :: ts → r < 80 → (s0.region r).launch.isSome = true → (s0.region r).coreFrozen = false →
    (s0.core r).run ≠ .doubleFault → (s0.core r).wait = none → (s0.core r).stall = none →
    ((s0.core r).handler = true ∨ (s0.core r).pend.take? = none) → (s0.core r).inCode (s0.core r).pc = false →
    step s = exec .fetchOutsideCodeArea s1) ∧
  (∀ (s : State) u ts n i, let s0 : State := { s.settleInput with agenda := ts }
    s.agenda = .unit u :: ts → unitExists u = true → s0.alive u = true → (s0.unit u).issued = false → s0.pickWord u = some (n, i) →
    step s = exec i ((s0.traceFiring u n (ctxOf i)).at_ u n)) ∧
  (∀ (s : State) o i ts, s.agenda = .own o :: ts → o.Means i → step s = exec i { s.settleInput with agenda := ts }) ∧
  (∀ (s : State) i ts, s.agenda = .event i :: ts → i.class? = none → s.settleInput.behind i = false →
    step s = exec i { s.settleInput with agenda := ts, inHand := some i }) ∧
  (∀ (s : State) i ts, let s0 : State := { s.settleInput with agenda := ts }
    s.agenda = .event i :: ts → i.class? = none → s0.behind i = true → step s = .next (s0.delay i)) ∧
  (∀ (s : State) i, s.inHand = some i → s.again = true → s.settleInput.inputs = (s.delay i).inputs)

/-- R95, R106: the word that an element issues is one of its words that is ready by R94, and none of an earlier context in cyclic
order, nor of a lower slot of its context, is. -/
def Obligations.TheLowestReadyWordIssues : Prop :=
  ∀ (s : State) (u : UnitId) (n : Nat) (i : Instr), s.pickWord u = some (n, i) → (n, i) ∈ s.wordsOf u ∧ s.moves u (n, i) = true ∧
    (∀ m j, (m, j) ∈ s.wordsOf u → s.moves u (m, j) = true →
      (ctxOf i + 3 - (s.unit u).lastCtx % 4) % 4 ≤ (ctxOf j + 3 - (s.unit u).lastCtx % 4) % 4) ∧
    ∀ m j, (m, j) ∈ s.wordsOf u → ctxOf j = ctxOf i → s.moves u (m, j) = true → n ≤ m

/-- R74, R77-R92: the words whose encodings the spec writes out decode to what it says they are, and those it calls wrong are refused
by the check it names. -/
def Obligations.SampleWordsDecode : Prop :=
  let u : Trig := ⟨0, 7, true⟩
  (decodeE 0x5D90901C = .ok (.fmulS ⟨1, 3, true⟩ (.x 2) (.take 0) (.x 1) (.to 4)) ∧ decodeE 0x3D221007 = .ok (.shli u (.out 0) (.take 0) 7) ∧
    decodeE 0x3F00502A = .ok (.ld u (.x 1) (.take 0) .w false (.ordered .die)) ∧
    decodeE 0x3F261090 = .ok (.st u .discard (.take 0) (.take 1) .plain) ∧
    decodeE 0x3FE21153 = .ok (.cvtRne u (.out 0) (.take 0) 3 5 true) ∧
    decodeE 0x38063180 = .ok (.mov ⟨0, 7, false⟩ .discard .zero .none) ∧
    decodeE 0xBC08C228 = .ok (.add ⟨2, 7, true⟩ (.x 3) (.x 1) (.x 2) (.to 0))) ∧
  (decodeV 0x14441260 = .ok (.vfma ⟨0, 2, true⟩ 4 1 2 3) ∧ decodeV 0x1E010014 = .ok (.vldr ⟨0, 3, true⟩ 1 4 true) ∧
    decodeV 0x24611000 = .ok (.vmax ⟨0, 4, true⟩ 1 1 0 0) ∧ decodeV 0xD2250002 = .ok (.vlds ⟨3, 2, false⟩ 5 2) ∧
    decodeV 0x38000000 = .ok (.vmov ⟨0, 7, false⟩ 0 0 0)) ∧
  (decodeM 0x048C000160000000 = .ok (some (.tmma ⟨2, 3, 0, 1, false, true, true, false, 0⟩)) ∧
    decodeM 0x1400000000043000 = .ok (some (.tdrain 0 false 4 3 0 0)) ∧
    decodeM 0x08050040C4500000 = .ok (some (.tmmag ⟨0, 1, 2, 64, true, true, false, false, 0⟩ 4 5)) ∧ decodeM 0 = .ok none) ∧
  (decodeC 0x8140000D = .ok (.beq 10 0 13) ∧ decodeC 0xD3108800 = .ok (.sbind 24 16 17 0 false false) ∧
    decodeC 0x42280010 = .ok (.ldd 17 8 16) ∧ decodeC 0x7A4BC8A0 = .ok (.amoadd 18 11 25 (.ordered .die)) ∧
    decodeC 0x7C000013 = .ok (.fence .rel .pkg) ∧ decodeC 0xC2800000 = .ok (.clkrd 10)) ∧
  (decodeFor .ge 0x3D801090 = .ok (.faddS u (.x 0) (.take 0) (.take 1) .none) ∧ decodeFor .mpe 0x3D801090 = .error .kind ∧
    decodeFor .ge 0xBC08C22F = .error .selector ∧ decodeFor .ge 0xBC08FA20 = .error .selector ∧
    decodeFor .ge 0x3E825090 = .error .selector ∧ decodeFor .age 0xBCB8C220 = .error .opcode ∧
    (decodeC 0x7A4BC8A9).toOption = none ∧ (decodeC 0xF4000000).toOption = none)

/-- R73-R92: every instruction of the four classes has a word, and the hardware's own steps have none; the word of a well-formed
instruction decodes, in its class, to that instruction: no field of an encoding is dropped or read from another's place. -/
def Obligations.DecodingInvertsEncoding : Prop :=
  (∀ i, (encode i).isSome = hasWord i) ∧
  ∀ (i : Instr) (w : BitVec 64), i.wf = true → encode i = some w →
    (i.class? = some .e → decodeE (w.setWidth 32) = .ok i) ∧ (i.class? = some .v → decodeV (w.setWidth 32) = .ok i) ∧
    (i.class? = some .m → decodeM w = .ok (some i)) ∧ (i.class? = some .c → decodeC (w.setWidth 32) = .ok i)

/-- R73-R92: what a decoder accepts is well-formed and of its class. -/
def Obligations.DecodedWordsAreWellFormed : Prop :=
  (∀ w i, decodeE w = .ok i → i.wf = true ∧ i.class? = some .e) ∧ (∀ w i, decodeV w = .ok i → i.wf = true ∧ i.class? = some .v) ∧
  (∀ w i, decodeM w = .ok (some i) → i.wf = true ∧ i.class? = some .m) ∧ (∀ w i, decodeC w = .ok i → i.class? = some .c)

/-- R74, R80, R84, R325: the loader refuses a word of an element for its opcode first, then for its kind, then for a field; what it
takes names only channels that the kind has. -/
def Obligations.KindsAcceptTheirWords : Prop :=
  (∀ k w, decodeE w = .error .opcode → decodeFor k w = .error .opcode) ∧
  (∀ k w, decodeE w ≠ .error .opcode → k.acceptsOp (opE w) = false → decodeFor k w = .error .kind) ∧
  (∀ k w i, decodeFor k w = .ok i ↔ decodeE w = .ok i ∧ k.acceptsOp (opE w) = true ∧ i.chansExist k = true ∧ i.cvtPlaceOk = true) ∧
  (∀ k w i, decodeFor k w = .ok i → i.wf = true)

/-- The values that reset leaves where the spec gives them: BUSTAT's phase, DOMAIN, PFLIMIT, WDLIM, AGELIM, PREEMPTWAIT, IWLIM, ASTAT,
AMODE, measurements. -/
def Obligations.ResetLeavesTheStatedValues : Prop :=
  let s := State.reset
  s.dev.phase = 0 ∧ s.dev.domain = 0x10000 ∧ s.hub.agelim = 0x100000 ∧ s.hub.preemptWait = 0x10000 ∧ s.dev.iwlim = 64000 ∧
  s.enc.m = Vector.replicate 8 0 ∧ s.hub.launches = [] ∧ s.hub.nextId = 1 ∧
  ∀ r, (s.region r).pflimit = 200000 ∧ (s.region r).wdlim = 0x1000000 ∧ (s.region r).launch = none

/-- Whatever step is taken, memory keeps its canonical form and the agenda names agents that exist. -/
def Obligations.EveryStepKeepsTheInvariant : Prop := ∀ (s t : State), s.Inv → step s = .next t → t.Inv

/-- The invariant holds after reset. -/
def Obligations.ResetMeetsTheInvariant : Prop := State.reset.Inv

/-- A run from a state whose agenda names agents that exist never ends: no step answers a fault or a refusal. -/
def Obligations.RunsNeverStop : Prop := ∀ (s : State), s.agendaOk → s.Safe
end

