-- ==== Sys2Proof/Laws/Memory.lean ====
section
/-! SUPPORT. The byte memory: what a read finds after a write, and that every operation keeps the canonical form
(`Memory.wf`). -/

namespace Sys2Proof.Machine

/-! ## Cells -/

theorem cellsWf_le {lo lo' : Nat} (h : lo' ≤ lo) : ∀ {cs : List Host.Cell}, cellsWf lo cs = true → cellsWf lo' cs = true
  | [], _ => rfl
  | (a, b) :: cs, hw => by
    simp only [cellsWf, Bool.and_eq_true, decide_eq_true_eq] at hw ⊢
    exact ⟨⟨by omega, hw.1.2⟩, hw.2⟩

theorem cellAt_low {cs : List Host.Cell} {lo a : Nat} (hw : cellsWf lo cs = true) (h : a < lo) : cellAt cs a = blank := by
  induction cs generalizing lo with
  | nil => rfl
  | cons e cs ih =>
    obtain ⟨a', b⟩ := e
    simp only [cellsWf, Bool.and_eq_true, decide_eq_true_eq] at hw
    have hne : a' ≠ a := by omega
    simp [cellAt, hne, ih hw.2 (by omega)]

theorem dropCell_wf {cs : List Host.Cell} {lo a : Nat} (hw : cellsWf lo cs = true) : cellsWf lo (dropCell cs a) = true := by
  induction cs generalizing lo with
  | nil => rfl
  | cons e cs ih =>
    obtain ⟨a', b⟩ := e
    have hw' := hw
    simp only [cellsWf, Bool.and_eq_true, decide_eq_true_eq] at hw
    simp only [dropCell]
    split
    · exact cellsWf_le (by omega) hw.2
    · split
      · exact hw'
      · simp [cellsWf, hw.1.1, hw.1.2, ih hw.2]

theorem insCell_wf {cs : List Host.Cell} {lo a : Nat} {b : Byte} (hw : cellsWf lo cs = true) (hl : lo ≤ a) (hb : b ≠ blank) :
    cellsWf lo (insCell cs a b) = true := by
  induction cs generalizing lo with
  | nil => simp [insCell, cellsWf, hl, hb]
  | cons e cs ih =>
    obtain ⟨a', b'⟩ := e
    have hw' := hw
    simp only [cellsWf, Bool.and_eq_true, decide_eq_true_eq] at hw
    simp only [insCell]
    split
    · next h => simp [cellsWf, hl, hb, hw.1.2, hw.2]; omega
    · split
      · next h => subst h; simp [cellsWf, hl, hb, hw.2]
      · next h1 h2 => simp [cellsWf, hw.1.1, hw.1.2, ih hw.2 (by omega)]

theorem cellAt_dropCell {cs : List Host.Cell} {lo : Nat} (hw : cellsWf lo cs = true) (a c : Nat) :
    cellAt (dropCell cs a) c = if c = a then blank else cellAt cs c := by
  induction cs generalizing lo with
  | nil => simp [dropCell, cellAt]
  | cons e cs ih =>
    obtain ⟨a', b'⟩ := e
    have hw' := hw
    simp only [cellsWf, Bool.and_eq_true, decide_eq_true_eq] at hw
    simp only [dropCell]
    split
    · next h =>
      subst h
      by_cases hc : c = a'
      · subst hc; simp [cellAt_low hw.2 (Nat.lt_succ_self c)]
      · simp [cellAt, hc, Ne.symm hc]
    · next h =>
      split
      · next h2 =>
        by_cases hc : c = a
        · subst hc
          have hlow : cellAt cs c = blank := cellAt_low hw.2 (Nat.lt_succ_of_lt h2)
          simp [cellAt, h, hlow]
        · simp [hc]
      · by_cases hc : a' = c
        · subst hc; simp [cellAt, h]
        · simp [cellAt, hc, ih hw.2]

theorem cellAt_insCell {cs : List Host.Cell} (a : Nat) (b : Byte) (c : Nat) :
    cellAt (insCell cs a b) c = if c = a then b else cellAt cs c := by
  induction cs with
  | nil =>
    by_cases h : c = a
    · subst h; simp [insCell, cellAt]
    · simp [insCell, cellAt, h, Ne.symm h]
  | cons e cs ih =>
    obtain ⟨a', b'⟩ := e
    simp only [insCell]
    split
    · by_cases hc : c = a
      · subst hc; simp [cellAt]
      · simp [cellAt, hc, Ne.symm hc]
    · split
      · next h =>
        subst h
        by_cases hc : c = a
        · subst hc; simp [cellAt]
        · simp [cellAt, hc, Ne.symm hc]
      · next h1 h2 =>
        by_cases hc : a' = c
        · subst hc; simp [cellAt, Ne.symm h2]
        · simp [cellAt, hc, ih]

/-! ## Indexes of poisoned words -/

theorem idxWf_le {lo lo' : Nat} (h : lo' ≤ lo) : ∀ {xs : List Nat}, idxWf lo xs = true → idxWf lo' xs = true
  | [], _ => rfl
  | x :: xs, hw => by
    simp only [idxWf, Bool.and_eq_true, decide_eq_true_eq] at hw ⊢
    exact ⟨by omega, hw.2⟩

theorem not_mem_low {xs : List Nat} {lo a : Nat} (hw : idxWf lo xs = true) (h : a < lo) : a ∉ xs := by
  induction xs generalizing lo with
  | nil => simp
  | cons x xs ih =>
    simp only [idxWf, Bool.and_eq_true, decide_eq_true_eq] at hw
    simp only [List.mem_cons, not_or]
    exact ⟨by omega, ih hw.2 (by omega)⟩

theorem insIdx_wf {xs : List Nat} {lo a : Nat} (hw : idxWf lo xs = true) (hl : lo ≤ a) : idxWf lo (insIdx xs a) = true := by
  induction xs generalizing lo with
  | nil => simp [insIdx, idxWf, hl]
  | cons x xs ih =>
    have hw' := hw
    simp only [idxWf, Bool.and_eq_true, decide_eq_true_eq] at hw
    simp only [insIdx]
    split
    · next h => simp [idxWf, hl, hw.2]; omega
    · split
      · exact hw'
      · simp [idxWf, hw.1, ih hw.2 (by omega)]

theorem dropIdx_wf {xs : List Nat} {lo a : Nat} (hw : idxWf lo xs = true) : idxWf lo (dropIdx xs a) = true := by
  induction xs generalizing lo with
  | nil => rfl
  | cons x xs ih =>
    have hw' := hw
    simp only [idxWf, Bool.and_eq_true, decide_eq_true_eq] at hw
    simp only [dropIdx]
    split
    · exact idxWf_le (by omega) hw.2
    · split
      · exact hw'
      · simp [idxWf, hw.1, ih hw.2]

theorem mem_insIdx {xs : List Nat} {a b : Nat} : b ∈ insIdx xs a ↔ b = a ∨ b ∈ xs := by
  induction xs with
  | nil => simp [insIdx]
  | cons x xs ih =>
    simp only [insIdx]
    split
    · simp
    · split
      · next h => subst h; simp
      · simp [ih]; tauto

theorem mem_dropIdx {xs : List Nat} {lo a b : Nat} (hw : idxWf lo xs = true) : b ∈ dropIdx xs a ↔ b ≠ a ∧ b ∈ xs := by
  induction xs generalizing lo with
  | nil => simp [dropIdx]
  | cons x xs ih =>
    simp only [idxWf, Bool.and_eq_true, decide_eq_true_eq] at hw
    simp only [dropIdx]
    split
    · next h =>
      subst h
      have := not_mem_low hw.2 (Nat.lt_succ_self a)
      constructor
      · intro hb; exact ⟨fun e => this (e ▸ hb), List.mem_cons_of_mem _ hb⟩
      · rintro ⟨h1, h2⟩
        rcases List.mem_cons.1 h2 with h3 | h3
        · exact absurd h3 h1
        · exact h3
    · next h =>
      split
      · next h2 =>
        constructor
        · intro hb
          refine ⟨?_, hb⟩
          intro e; subst e
          rcases List.mem_cons.1 hb with h3 | h3
          · exact h h3
          · exact not_mem_low hw.2 (by omega) h3
        · exact fun hb => hb.2
      · simp only [List.mem_cons, ih hw.2]
        constructor
        · rintro (h3 | h3)
          · exact ⟨fun e => h (by omega), Or.inl h3⟩
          · exact ⟨h3.1, Or.inr h3.2⟩
        · rintro ⟨h3, h4 | h4⟩
          · exact Or.inl h4
          · exact Or.inr ⟨h3, h4⟩

/-! ## Memory: reads after writes -/

theorem Memory.wf_iff {m : Memory} : m.wf = true ↔ cellsWf 0 m.cells = true ∧ idxWf 0 m.poison = true := by
  simp [Memory.wf]

@[simp] theorem Memory.byte_empty (a : Nat) : Memory.empty.byte a = blank := rfl
@[simp] theorem Memory.wf_empty : Memory.empty.wf = true := rfl
@[simp] theorem Memory.poison_setByte (m : Memory) (a : Nat) (b : Byte) : (m.setByte a b).poison = m.poison := rfl
@[simp] theorem Memory.cells_setPoison (m : Memory) (a : Nat) (p : Bool) : (m.setPoison a p).cells = m.cells := rfl
@[simp] theorem Memory.byte_setPoison (m : Memory) (a : Nat) (p : Bool) (c : Nat) : (m.setPoison a p).byte c = m.byte c := rfl
@[simp] theorem Memory.poisoned_setByte (m : Memory) (a : Nat) (b : Byte) (c : Nat) : (m.setByte a b).poisoned c = m.poisoned c := rfl

theorem Memory.byte_setByte {m : Memory} (hw : m.wf = true) (a : Nat) (b : Byte) (c : Nat) :
    (m.setByte a b).byte c = if c = a then b else m.byte c := by
  have hw := (Memory.wf_iff.1 hw).1
  unfold Memory.setByte Memory.byte putCell
  by_cases hb : b = blank
  · simp [hb, cellAt_dropCell hw]
  · simp [hb, cellAt_insCell]

theorem Memory.wf_setByte {m : Memory} (hw : m.wf = true) (a : Nat) (b : Byte) : (m.setByte a b).wf = true := by
  rw [Memory.wf_iff] at hw ⊢
  refine ⟨?_, hw.2⟩
  unfold Memory.setByte putCell
  by_cases hb : b = blank
  · simpa [hb] using dropCell_wf hw.1
  · simpa [hb] using insCell_wf hw.1 (Nat.zero_le a) hb

theorem Memory.wf_setPoison {m : Memory} (hw : m.wf = true) (a : Nat) (p : Bool) : (m.setPoison a p).wf = true := by
  rw [Memory.wf_iff] at hw ⊢
  refine ⟨hw.1, ?_⟩
  cases p
  · exact dropIdx_wf hw.2
  · exact insIdx_wf hw.2 (Nat.zero_le _)

theorem Memory.poisoned_setPoison {m : Memory} (hw : m.wf = true) (a : Nat) (p : Bool) (c : Nat) :
    (m.setPoison a p).poisoned c = if c / 8 = a / 8 then p else m.poisoned c := by
  have hw := (Memory.wf_iff.1 hw).2
  rw [Bool.eq_iff_iff]
  unfold Memory.poisoned Memory.setPoison
  cases p
  · by_cases h : c / 8 = a / 8 <;> simp [mem_dropIdx hw, h]
  · by_cases h : c / 8 = a / 8 <;> simp [mem_insIdx, h]

/-! ## Runs of bytes -/

theorem Memory.wf_writeNat {m : Memory} (hw : m.wf = true) (a n v : Nat) : (m.writeNat a n v).wf = true := by
  induction n generalizing m a v with
  | zero => exact hw
  | succ n ih => exact ih (Memory.wf_setByte hw _ _) _ _

theorem Memory.wf_writeBytes {m : Memory} (hw : m.wf = true) (a : Nat) (bs : List Byte) : (m.writeBytes a bs).wf = true := by
  induction bs generalizing m a with
  | nil => exact hw
  | cons b bs ih => exact ih (Memory.wf_setByte hw _ _) _

theorem Memory.wf_poisonWords {m : Memory} (hw : m.wf = true) (a : Nat) (p : Bool) (n : Nat) : (m.poisonWords a p n).wf = true := by
  induction n generalizing m a with
  | zero => exact hw
  | succ n ih => exact ih (Memory.wf_setPoison hw _ _) _

theorem Memory.wf_strike {m : Memory} (hw : m.wf = true) (a n : Nat) : (m.strike a n).wf = true := by
  induction n generalizing m a with
  | zero => exact hw
  | succ n ih => exact ih (Memory.wf_setPoison (Memory.wf_writeNat hw _ _ _) _ _) _

theorem Memory.wf_store {m : Memory} (hw : m.wf = true) (a n : Nat) (v : Word) (p : Bool) : (m.store a n v p).wf = true := by
  have h := Memory.wf_writeNat hw a n v.toNat
  unfold Memory.store
  cases p
  · by_cases hn : n = 8 <;> simp [hn]
    · exact Memory.wf_setPoison (hn ▸ h) _ _
    · exact h
  · exact Memory.wf_setPoison h _ _

theorem Memory.wf_writeRow {m : Memory} (hw : m.wf = true) (a : Nat) (r : Row) (p : Bool) : (m.writeRow a r p).wf = true :=
  Memory.wf_poisonWords (Memory.wf_writeNat hw _ _ _) _ _ _

theorem Memory.wf_nearStore {m : Memory} (hw : m.wf = true) (a n v : Nat) (p : Bool) : (m.nearStore a n v p).wf = true := by
  unfold Memory.nearStore
  split
  · exact Memory.wf_store hw _ _ _ _
  · cases p
    · exact Memory.wf_writeNat hw _ _ _
    · exact Memory.wf_setPoison (Memory.wf_setPoison (Memory.wf_writeNat hw _ _ _) _ _) _ _

theorem Memory.wf_putWords {m : Memory} (hw : m.wf = true) (a : Nat) (ws : List Word) : (m.putWords a ws).wf = true := by
  induction ws generalizing m a with
  | nil => exact hw
  | cons w ws ih => exact ih (Memory.wf_store hw _ _ _ _) _

/-- A fold of operations that keep the canonical form keeps it. -/
theorem Memory.wf_foldl {α : Type} {f : Memory → α → Memory} (hf : ∀ m x, m.wf = true → (f m x).wf = true) (l : List α) {m : Memory}
    (hw : m.wf = true) : (l.foldl f m).wf = true := by
  induction l generalizing m with
  | nil => exact hw
  | cons x l ih => exact ih (hf _ _ hw)

theorem Memory.wf_hostStore {m : Memory} (hw : m.wf = true) (a : Nat) (bs : List Byte) : (m.hostStore a bs).wf = true :=
  Memory.wf_foldl (fun _ _ h => Memory.wf_setPoison h _ _) _ (Memory.wf_writeBytes hw _ _)

theorem cellsWf_filter (p : Host.Cell → Bool) {cs : List Host.Cell} {lo : Nat} (hw : cellsWf lo cs = true) :
    cellsWf lo (cs.filter p) = true := by
  induction cs generalizing lo with
  | nil => rfl
  | cons e cs ih =>
    obtain ⟨a, b⟩ := e
    simp only [cellsWf, Bool.and_eq_true, decide_eq_true_eq] at hw
    have h := ih hw.2
    by_cases hp : p (a, b) = true
    · simp [hp, cellsWf, hw.1.1, hw.1.2, h]
    · simp only [List.filter_cons, hp]
      exact cellsWf_le (by omega) h

theorem idxWf_filter (p : Nat → Bool) {xs : List Nat} {lo : Nat} (hw : idxWf lo xs = true) : idxWf lo (xs.filter p) = true := by
  induction xs generalizing lo with
  | nil => rfl
  | cons x xs ih =>
    simp only [idxWf, Bool.and_eq_true, decide_eq_true_eq] at hw
    have h := ih hw.2
    by_cases hp : p x = true
    · simp [hp, idxWf, hw.1, h]
    · simp only [List.filter_cons, hp]
      exact idxWf_le (by omega) h

/-- Keeping the cells and the poisoned words that two tests admit keeps the canonical form. -/
theorem Memory.wf_filter {m : Memory} (hw : m.wf = true) (p : Host.Cell → Bool) (q : Nat → Bool) :
    (⟨m.cells.filter p, m.poison.filter q⟩ : Memory).wf = true := by
  rw [Memory.wf_iff] at hw ⊢
  exact ⟨cellsWf_filter p hw.1, idxWf_filter q hw.2⟩

theorem Memory.wf_zeroDram {m : Memory} (hw : m.wf = true) : m.zeroDram.wf = true := Memory.wf_filter hw _ _
theorem Memory.wf_onlyDram {m : Memory} (hw : m.wf = true) : m.onlyDram.wf = true := Memory.wf_filter hw _ _

/-- Every byte outside a run that is written reads as before; inside it, the number's byte. -/
theorem Memory.byte_writeNat {m : Memory} (hw : m.wf = true) (a n v c : Nat) :
    (m.writeNat a n v).byte c = if a ≤ c ∧ c < a + n then BitVec.ofNat 8 (v / 256 ^ (c - a)) else m.byte c := by
  induction n generalizing m a v with
  | zero => simp only [Memory.writeNat]; split <;> [omega; rfl]
  | succ n ih =>
    rw [Memory.writeNat, ih (Memory.wf_setByte hw _ _), Memory.byte_setByte hw]
    by_cases h1 : c = a
    · subst h1; simp
    · by_cases h2 : a + 1 ≤ c ∧ c < a + 1 + n
      · have h3 : a ≤ c ∧ c < a + (n + 1) := by omega
        have h4 : c - a = (c - (a + 1)) + 1 := by omega
        rw [if_pos h2, if_pos h3, h4, Nat.pow_succ, Nat.div_div_eq_div_mul, Nat.mul_comm]
      · have h3 : ¬(a ≤ c ∧ c < a + (n + 1)) := by omega
        rw [if_neg h2, if_neg h3, if_neg h1]

@[simp] theorem Memory.poisoned_writeNat (m : Memory) (a n v c : Nat) : (m.writeNat a n v).poisoned c = m.poisoned c := by
  induction n generalizing m a v with
  | zero => rfl
  | succ n ih => rw [Memory.writeNat, ih]; rfl

/-- What a read of n bytes finds depends on those bytes alone. -/
theorem Memory.readNat_congr {m m' : Memory} {a n : Nat} (h : ∀ c, a ≤ c → c < a + n → m.byte c = m'.byte c) :
    m.readNat a n = m'.readNat a n := by
  induction n generalizing a with
  | zero => rfl
  | succ n ih =>
    rw [Memory.readNat, Memory.readNat, h a (by omega) (by omega), ih (fun c h1 h2 => h c (by omega) (by omega))]

/-- A read of the bytes just written finds the number. -/
theorem Memory.readNat_writeNat {m : Memory} (hw : m.wf = true) (a n v : Nat) : (m.writeNat a n v).readNat a n = v % 256 ^ n := by
  induction n generalizing m a v with
  | zero => simp [Memory.readNat, Nat.mod_one]
  | succ n ih =>
    rw [Memory.readNat, Memory.byte_writeNat hw, if_pos (by omega), Memory.writeNat, ih (Memory.wf_setByte hw _ _), Nat.sub_self]
    simp only [Nat.pow_zero, Nat.div_one, BitVec.toNat_ofNat]
    rw [show (2 : Nat) ^ 8 = 256 from rfl, show (256 : Nat) ^ (n + 1) = 256 * 256 ^ n from Nat.pow_succ', Nat.mod_mul]

theorem Memory.readNat_lt (m : Memory) (a n : Nat) : m.readNat a n < 256 ^ n := by
  induction n generalizing a with
  | zero => simp [Memory.readNat]
  | succ n ih =>
    have h1 := (m.byte a).isLt
    have h2 := ih (a + 1)
    rw [Memory.readNat, Nat.pow_succ]
    omega

/-- The word of an address after a whole word is stored there. -/
theorem Memory.word_store {m : Memory} (hw : m.wf = true) (a : Nat) (v : Word) (p : Bool) : (m.store a 8 v p).word a = v := by
  have h : (m.store a 8 v p).readNat a 8 = v.toNat := by
    have h1 := Memory.readNat_writeNat hw a 8 v.toNat
    have h2 := v.isLt
    rw [Nat.mod_eq_of_lt (by omega)] at h1
    rw [← h1]
    exact Memory.readNat_congr (fun c _ _ => by unfold Memory.store; cases p <;> rfl)
  unfold Memory.word
  rw [h, BitVec.ofNat_toNat, BitVec.setWidth_eq]

end Sys2Proof.Machine
end

