-- ==== Sys2Proof/Laws/Map.lean ====
section
/-! SUPPORT. Reading a sparse table after it is written. -/

namespace Sys2Proof.Machine

variable {κ ν : Type} [DecidableEq κ]

@[simp] theorem Map.get_set_same (m : Map κ ν) (k : κ) (v d : ν) : (m.set k v).get k d = v := by
  induction m with
  | nil => simp [Map.set, Map.get]
  | cons e m ih => obtain ⟨k', v'⟩ := e; by_cases h : k' = k <;> simp [Map.set, Map.get, h, ih]

theorem Map.get_set_other (m : Map κ ν) {k j : κ} (h : j ≠ k) (v d : ν) : (m.set k v).get j d = m.get j d := by
  induction m with
  | nil => simp [Map.set, Map.get, Ne.symm h]
  | cons e m ih =>
    obtain ⟨k', v'⟩ := e
    by_cases h1 : k' = k
    · subst h1; simp [Map.set, Map.get, Ne.symm h]
    · by_cases h2 : k' = j <;> simp [Map.set, Map.get, h1, h2, ih, h]

theorem Map.get_set (m : Map κ ν) (k j : κ) (v d : ν) : (m.set k v).get j d = if j = k then v else m.get j d := by
  by_cases h : j = k
  · subst h; simp
  · simp [Map.get_set_other m h, h]

@[simp] theorem Map.get?_set_same (m : Map κ ν) (k : κ) (v : ν) : (m.set k v).get? k = some v := by
  induction m with
  | nil => simp [Map.set, Map.get?]
  | cons e m ih => obtain ⟨k', v'⟩ := e; by_cases h : k' = k <;> simp [Map.set, Map.get?, h, ih]

theorem Map.get?_set_other (m : Map κ ν) {k j : κ} (h : j ≠ k) (v : ν) : (m.set k v).get? j = m.get? j := by
  induction m with
  | nil => simp [Map.set, Map.get?, Ne.symm h]
  | cons e m ih =>
    obtain ⟨k', v'⟩ := e
    by_cases h1 : k' = k
    · subst h1; simp [Map.set, Map.get?, Ne.symm h]
    · by_cases h2 : k' = j <;> simp [Map.set, Map.get?, h1, h2, ih, h]

@[simp] theorem Map.get?_del_same (m : Map κ ν) (k : κ) : (m.del k).get? k = none := by
  induction m with
  | nil => rfl
  | cons e m ih => obtain ⟨k', v'⟩ := e; by_cases h : k' = k <;> simp [Map.del, Map.get?, h, ih]

theorem Map.get?_del_other (m : Map κ ν) {k j : κ} (h : j ≠ k) : (m.del k).get? j = m.get? j := by
  induction m with
  | nil => rfl
  | cons e m ih =>
    obtain ⟨k', v'⟩ := e
    by_cases h1 : k' = k
    · subst h1; simp [Map.del, Map.get?, Ne.symm h, ih]
    · by_cases h2 : k' = j <;> simp [Map.del, Map.get?, h1, h2, ih, h]

theorem Map.get_eq_get? (m : Map κ ν) (k : κ) (d : ν) : m.get k d = (m.get? k).getD d := by
  induction m with
  | nil => rfl
  | cons e m ih => obtain ⟨k', v'⟩ := e; by_cases h : k' = k <;> simp [Map.get, Map.get?, h, ih]

/-- A map over the values keeps what a listed key finds, mapped; an unlisted one finds the default. -/
theorem Map.get?_map {μ : Type} (m : Map κ ν) (f : κ → ν → μ) (k : κ) :
    (Map.get? (m.map (fun e => (e.1, f e.1 e.2)) : Map κ μ) k) = (m.get? k).map (f k) := by
  induction m with
  | nil => rfl
  | cons e m ih =>
    obtain ⟨k', v'⟩ := e
    by_cases h : k' = k
    · subst h; simp [Map.get?]
    · simp [Map.get?, h, ih]

end Sys2Proof.Machine
end

