-- ==== Sys2Proof/Laws/State.lean ====
section
/-! SUPPORT. What each update of the state leaves alone, field by field, and what a read finds after it. -/

namespace Sys2Proof.Machine

variable (s : State)

@[simp] theorem State.setRegion_agenda (r : Nat) (R : Region) : (s.setRegion r R).agenda = s.agenda := rfl
@[simp] theorem State.setRegion_inputs (r : Nat) (R : Region) : (s.setRegion r R).inputs = s.inputs := rfl
@[simp] theorem State.setRegion_inHand (r : Nat) (R : Region) : (s.setRegion r R).inHand = s.inHand := rfl
@[simp] theorem State.setRegion_again (r : Nat) (R : Region) : (s.setRegion r R).again = s.again := rfl
@[simp] theorem State.setRegion_site (r : Nat) (R : Region) : (s.setRegion r R).site = s.site := rfl
@[simp] theorem State.setRegion_ticket (r : Nat) (R : Region) : (s.setRegion r R).ticket = s.ticket := rfl
@[simp] theorem State.setRegion_freeCtr (r : Nat) (R : Region) : (s.setRegion r R).freeCtr = s.freeCtr := rfl
@[simp] theorem State.setRegion_cyc (r : Nat) (R : Region) : (s.setRegion r R).cyc = s.cyc := rfl
@[simp] theorem State.setRegion_now (r : Nat) (R : Region) : (s.setRegion r R).now = s.now := rfl
@[simp] theorem State.setRegion_dies (r : Nat) (R : Region) : (s.setRegion r R).dies = s.dies := rfl
@[simp] theorem State.setRegion_mem (r : Nat) (R : Region) : (s.setRegion r R).mem = s.mem := rfl
@[simp] theorem State.setRegion_banksBusy (r : Nat) (R : Region) : (s.setRegion r R).banksBusy = s.banksBusy := rfl
@[simp] theorem State.setRegion_bankLast (r : Nat) (R : Region) : (s.setRegion r R).bankLast = s.bankLast := rfl
@[simp] theorem State.setRegion_bankWant (r : Nat) (R : Region) : (s.setRegion r R).bankWant = s.bankWant := rfl
@[simp] theorem State.setRegion_bankTried (r : Nat) (R : Region) : (s.setRegion r R).bankTried = s.bankTried := rfl
@[simp] theorem State.setRegion_units (r : Nat) (R : Region) : (s.setRegion r R).units = s.units := rfl
@[simp] theorem State.setRegion_notes (r : Nat) (R : Region) : (s.setRegion r R).notes = s.notes := rfl
@[simp] theorem State.setRegion_chans (r : Nat) (R : Region) : (s.setRegion r R).chans = s.chans := rfl
@[simp] theorem State.setRegion_wires (r : Nat) (R : Region) : (s.setRegion r R).wires = s.wires := rfl
@[simp] theorem State.setRegion_rings (r : Nat) (R : Region) : (s.setRegion r R).rings = s.rings := rfl
@[simp] theorem State.setRegion_pairs (r : Nat) (R : Region) : (s.setRegion r R).pairs = s.pairs := rfl
@[simp] theorem State.setRegion_links (r : Nat) (R : Region) : (s.setRegion r R).links = s.links := rfl
@[simp] theorem State.setRegion_stamped (r : Nat) (R : Region) : (s.setRegion r R).stamped = s.stamped := rfl
@[simp] theorem State.setRegion_pages (r : Nat) (R : Region) : (s.setRegion r R).pages = s.pages := rfl
@[simp] theorem State.setRegion_ldas (r : Nat) (R : Region) : (s.setRegion r R).ldas = s.ldas := rfl
@[simp] theorem State.setRegion_kv (r : Nat) (R : Region) : (s.setRegion r R).kv = s.kv := rfl
@[simp] theorem State.setRegion_hub (r : Nat) (R : Region) : (s.setRegion r R).hub = s.hub := rfl
@[simp] theorem State.setRegion_images (r : Nat) (R : Region) : (s.setRegion r R).images = s.images := rfl
@[simp] theorem State.setRegion_dev (r : Nat) (R : Region) : (s.setRegion r R).dev = s.dev := rfl
@[simp] theorem State.setRegion_enc (r : Nat) (R : Region) : (s.setRegion r R).enc = s.enc := rfl

@[simp] theorem State.modRegion_agenda (r : Nat) (f : Region → Region) : (s.modRegion r f).agenda = s.agenda := rfl
@[simp] theorem State.modRegion_inputs (r : Nat) (f : Region → Region) : (s.modRegion r f).inputs = s.inputs := rfl
@[simp] theorem State.modRegion_inHand (r : Nat) (f : Region → Region) : (s.modRegion r f).inHand = s.inHand := rfl
@[simp] theorem State.modRegion_again (r : Nat) (f : Region → Region) : (s.modRegion r f).again = s.again := rfl
@[simp] theorem State.modRegion_site (r : Nat) (f : Region → Region) : (s.modRegion r f).site = s.site := rfl
@[simp] theorem State.modRegion_ticket (r : Nat) (f : Region → Region) : (s.modRegion r f).ticket = s.ticket := rfl
@[simp] theorem State.modRegion_freeCtr (r : Nat) (f : Region → Region) : (s.modRegion r f).freeCtr = s.freeCtr := rfl
@[simp] theorem State.modRegion_cyc (r : Nat) (f : Region → Region) : (s.modRegion r f).cyc = s.cyc := rfl
@[simp] theorem State.modRegion_now (r : Nat) (f : Region → Region) : (s.modRegion r f).now = s.now := rfl
@[simp] theorem State.modRegion_dies (r : Nat) (f : Region → Region) : (s.modRegion r f).dies = s.dies := rfl
@[simp] theorem State.modRegion_mem (r : Nat) (f : Region → Region) : (s.modRegion r f).mem = s.mem := rfl
@[simp] theorem State.modRegion_banksBusy (r : Nat) (f : Region → Region) : (s.modRegion r f).banksBusy = s.banksBusy := rfl
@[simp] theorem State.modRegion_bankLast (r : Nat) (f : Region → Region) : (s.modRegion r f).bankLast = s.bankLast := rfl
@[simp] theorem State.modRegion_bankWant (r : Nat) (f : Region → Region) : (s.modRegion r f).bankWant = s.bankWant := rfl
@[simp] theorem State.modRegion_bankTried (r : Nat) (f : Region → Region) : (s.modRegion r f).bankTried = s.bankTried := rfl
@[simp] theorem State.modRegion_units (r : Nat) (f : Region → Region) : (s.modRegion r f).units = s.units := rfl
@[simp] theorem State.modRegion_notes (r : Nat) (f : Region → Region) : (s.modRegion r f).notes = s.notes := rfl
@[simp] theorem State.modRegion_chans (r : Nat) (f : Region → Region) : (s.modRegion r f).chans = s.chans := rfl
@[simp] theorem State.modRegion_wires (r : Nat) (f : Region → Region) : (s.modRegion r f).wires = s.wires := rfl
@[simp] theorem State.modRegion_rings (r : Nat) (f : Region → Region) : (s.modRegion r f).rings = s.rings := rfl
@[simp] theorem State.modRegion_pairs (r : Nat) (f : Region → Region) : (s.modRegion r f).pairs = s.pairs := rfl
@[simp] theorem State.modRegion_links (r : Nat) (f : Region → Region) : (s.modRegion r f).links = s.links := rfl
@[simp] theorem State.modRegion_stamped (r : Nat) (f : Region → Region) : (s.modRegion r f).stamped = s.stamped := rfl
@[simp] theorem State.modRegion_pages (r : Nat) (f : Region → Region) : (s.modRegion r f).pages = s.pages := rfl
@[simp] theorem State.modRegion_ldas (r : Nat) (f : Region → Region) : (s.modRegion r f).ldas = s.ldas := rfl
@[simp] theorem State.modRegion_kv (r : Nat) (f : Region → Region) : (s.modRegion r f).kv = s.kv := rfl
@[simp] theorem State.modRegion_hub (r : Nat) (f : Region → Region) : (s.modRegion r f).hub = s.hub := rfl
@[simp] theorem State.modRegion_images (r : Nat) (f : Region → Region) : (s.modRegion r f).images = s.images := rfl
@[simp] theorem State.modRegion_dev (r : Nat) (f : Region → Region) : (s.modRegion r f).dev = s.dev := rfl
@[simp] theorem State.modRegion_enc (r : Nat) (f : Region → Region) : (s.modRegion r f).enc = s.enc := rfl

@[simp] theorem State.modCore_agenda (r : Nat) (f : Core → Core) : (s.modCore r f).agenda = s.agenda := rfl
@[simp] theorem State.modCore_inputs (r : Nat) (f : Core → Core) : (s.modCore r f).inputs = s.inputs := rfl
@[simp] theorem State.modCore_inHand (r : Nat) (f : Core → Core) : (s.modCore r f).inHand = s.inHand := rfl
@[simp] theorem State.modCore_again (r : Nat) (f : Core → Core) : (s.modCore r f).again = s.again := rfl
@[simp] theorem State.modCore_site (r : Nat) (f : Core → Core) : (s.modCore r f).site = s.site := rfl
@[simp] theorem State.modCore_ticket (r : Nat) (f : Core → Core) : (s.modCore r f).ticket = s.ticket := rfl
@[simp] theorem State.modCore_freeCtr (r : Nat) (f : Core → Core) : (s.modCore r f).freeCtr = s.freeCtr := rfl
@[simp] theorem State.modCore_cyc (r : Nat) (f : Core → Core) : (s.modCore r f).cyc = s.cyc := rfl
@[simp] theorem State.modCore_now (r : Nat) (f : Core → Core) : (s.modCore r f).now = s.now := rfl
@[simp] theorem State.modCore_dies (r : Nat) (f : Core → Core) : (s.modCore r f).dies = s.dies := rfl
@[simp] theorem State.modCore_mem (r : Nat) (f : Core → Core) : (s.modCore r f).mem = s.mem := rfl
@[simp] theorem State.modCore_banksBusy (r : Nat) (f : Core → Core) : (s.modCore r f).banksBusy = s.banksBusy := rfl
@[simp] theorem State.modCore_bankLast (r : Nat) (f : Core → Core) : (s.modCore r f).bankLast = s.bankLast := rfl
@[simp] theorem State.modCore_bankWant (r : Nat) (f : Core → Core) : (s.modCore r f).bankWant = s.bankWant := rfl
@[simp] theorem State.modCore_bankTried (r : Nat) (f : Core → Core) : (s.modCore r f).bankTried = s.bankTried := rfl
@[simp] theorem State.modCore_units (r : Nat) (f : Core → Core) : (s.modCore r f).units = s.units := rfl
@[simp] theorem State.modCore_notes (r : Nat) (f : Core → Core) : (s.modCore r f).notes = s.notes := rfl
@[simp] theorem State.modCore_chans (r : Nat) (f : Core → Core) : (s.modCore r f).chans = s.chans := rfl
@[simp] theorem State.modCore_wires (r : Nat) (f : Core → Core) : (s.modCore r f).wires = s.wires := rfl
@[simp] theorem State.modCore_rings (r : Nat) (f : Core → Core) : (s.modCore r f).rings = s.rings := rfl
@[simp] theorem State.modCore_pairs (r : Nat) (f : Core → Core) : (s.modCore r f).pairs = s.pairs := rfl
@[simp] theorem State.modCore_links (r : Nat) (f : Core → Core) : (s.modCore r f).links = s.links := rfl
@[simp] theorem State.modCore_stamped (r : Nat) (f : Core → Core) : (s.modCore r f).stamped = s.stamped := rfl
@[simp] theorem State.modCore_pages (r : Nat) (f : Core → Core) : (s.modCore r f).pages = s.pages := rfl
@[simp] theorem State.modCore_ldas (r : Nat) (f : Core → Core) : (s.modCore r f).ldas = s.ldas := rfl
@[simp] theorem State.modCore_kv (r : Nat) (f : Core → Core) : (s.modCore r f).kv = s.kv := rfl
@[simp] theorem State.modCore_hub (r : Nat) (f : Core → Core) : (s.modCore r f).hub = s.hub := rfl
@[simp] theorem State.modCore_images (r : Nat) (f : Core → Core) : (s.modCore r f).images = s.images := rfl
@[simp] theorem State.modCore_dev (r : Nat) (f : Core → Core) : (s.modCore r f).dev = s.dev := rfl
@[simp] theorem State.modCore_enc (r : Nat) (f : Core → Core) : (s.modCore r f).enc = s.enc := rfl

@[simp] theorem State.setHandle_agenda (r h : Nat) (x : Handle) : (s.setHandle r h x).agenda = s.agenda := rfl
@[simp] theorem State.setHandle_inputs (r h : Nat) (x : Handle) : (s.setHandle r h x).inputs = s.inputs := rfl
@[simp] theorem State.setHandle_inHand (r h : Nat) (x : Handle) : (s.setHandle r h x).inHand = s.inHand := rfl
@[simp] theorem State.setHandle_again (r h : Nat) (x : Handle) : (s.setHandle r h x).again = s.again := rfl
@[simp] theorem State.setHandle_site (r h : Nat) (x : Handle) : (s.setHandle r h x).site = s.site := rfl
@[simp] theorem State.setHandle_ticket (r h : Nat) (x : Handle) : (s.setHandle r h x).ticket = s.ticket := rfl
@[simp] theorem State.setHandle_freeCtr (r h : Nat) (x : Handle) : (s.setHandle r h x).freeCtr = s.freeCtr := rfl
@[simp] theorem State.setHandle_cyc (r h : Nat) (x : Handle) : (s.setHandle r h x).cyc = s.cyc := rfl
@[simp] theorem State.setHandle_now (r h : Nat) (x : Handle) : (s.setHandle r h x).now = s.now := rfl
@[simp] theorem State.setHandle_dies (r h : Nat) (x : Handle) : (s.setHandle r h x).dies = s.dies := rfl
@[simp] theorem State.setHandle_mem (r h : Nat) (x : Handle) : (s.setHandle r h x).mem = s.mem := rfl
@[simp] theorem State.setHandle_banksBusy (r h : Nat) (x : Handle) : (s.setHandle r h x).banksBusy = s.banksBusy := rfl
@[simp] theorem State.setHandle_bankLast (r h : Nat) (x : Handle) : (s.setHandle r h x).bankLast = s.bankLast := rfl
@[simp] theorem State.setHandle_bankWant (r h : Nat) (x : Handle) : (s.setHandle r h x).bankWant = s.bankWant := rfl
@[simp] theorem State.setHandle_bankTried (r h : Nat) (x : Handle) : (s.setHandle r h x).bankTried = s.bankTried := rfl
@[simp] theorem State.setHandle_units (r h : Nat) (x : Handle) : (s.setHandle r h x).units = s.units := rfl
@[simp] theorem State.setHandle_notes (r h : Nat) (x : Handle) : (s.setHandle r h x).notes = s.notes := rfl
@[simp] theorem State.setHandle_chans (r h : Nat) (x : Handle) : (s.setHandle r h x).chans = s.chans := rfl
@[simp] theorem State.setHandle_wires (r h : Nat) (x : Handle) : (s.setHandle r h x).wires = s.wires := rfl
@[simp] theorem State.setHandle_rings (r h : Nat) (x : Handle) : (s.setHandle r h x).rings = s.rings := rfl
@[simp] theorem State.setHandle_pairs (r h : Nat) (x : Handle) : (s.setHandle r h x).pairs = s.pairs := rfl
@[simp] theorem State.setHandle_links (r h : Nat) (x : Handle) : (s.setHandle r h x).links = s.links := rfl
@[simp] theorem State.setHandle_stamped (r h : Nat) (x : Handle) : (s.setHandle r h x).stamped = s.stamped := rfl
@[simp] theorem State.setHandle_pages (r h : Nat) (x : Handle) : (s.setHandle r h x).pages = s.pages := rfl
@[simp] theorem State.setHandle_ldas (r h : Nat) (x : Handle) : (s.setHandle r h x).ldas = s.ldas := rfl
@[simp] theorem State.setHandle_kv (r h : Nat) (x : Handle) : (s.setHandle r h x).kv = s.kv := rfl
@[simp] theorem State.setHandle_hub (r h : Nat) (x : Handle) : (s.setHandle r h x).hub = s.hub := rfl
@[simp] theorem State.setHandle_images (r h : Nat) (x : Handle) : (s.setHandle r h x).images = s.images := rfl
@[simp] theorem State.setHandle_dev (r h : Nat) (x : Handle) : (s.setHandle r h x).dev = s.dev := rfl
@[simp] theorem State.setHandle_enc (r h : Nat) (x : Handle) : (s.setHandle r h x).enc = s.enc := rfl

@[simp] theorem State.count_agenda (r k n : Nat) : (s.count r k n).agenda = s.agenda := rfl
@[simp] theorem State.count_inputs (r k n : Nat) : (s.count r k n).inputs = s.inputs := rfl
@[simp] theorem State.count_inHand (r k n : Nat) : (s.count r k n).inHand = s.inHand := rfl
@[simp] theorem State.count_again (r k n : Nat) : (s.count r k n).again = s.again := rfl
@[simp] theorem State.count_site (r k n : Nat) : (s.count r k n).site = s.site := rfl
@[simp] theorem State.count_ticket (r k n : Nat) : (s.count r k n).ticket = s.ticket := rfl
@[simp] theorem State.count_freeCtr (r k n : Nat) : (s.count r k n).freeCtr = s.freeCtr := rfl
@[simp] theorem State.count_cyc (r k n : Nat) : (s.count r k n).cyc = s.cyc := rfl
@[simp] theorem State.count_now (r k n : Nat) : (s.count r k n).now = s.now := rfl
@[simp] theorem State.count_dies (r k n : Nat) : (s.count r k n).dies = s.dies := rfl
@[simp] theorem State.count_mem (r k n : Nat) : (s.count r k n).mem = s.mem := rfl
@[simp] theorem State.count_banksBusy (r k n : Nat) : (s.count r k n).banksBusy = s.banksBusy := rfl
@[simp] theorem State.count_bankLast (r k n : Nat) : (s.count r k n).bankLast = s.bankLast := rfl
@[simp] theorem State.count_bankWant (r k n : Nat) : (s.count r k n).bankWant = s.bankWant := rfl
@[simp] theorem State.count_bankTried (r k n : Nat) : (s.count r k n).bankTried = s.bankTried := rfl
@[simp] theorem State.count_units (r k n : Nat) : (s.count r k n).units = s.units := rfl
@[simp] theorem State.count_notes (r k n : Nat) : (s.count r k n).notes = s.notes := rfl
@[simp] theorem State.count_chans (r k n : Nat) : (s.count r k n).chans = s.chans := rfl
@[simp] theorem State.count_wires (r k n : Nat) : (s.count r k n).wires = s.wires := rfl
@[simp] theorem State.count_rings (r k n : Nat) : (s.count r k n).rings = s.rings := rfl
@[simp] theorem State.count_pairs (r k n : Nat) : (s.count r k n).pairs = s.pairs := rfl
@[simp] theorem State.count_links (r k n : Nat) : (s.count r k n).links = s.links := rfl
@[simp] theorem State.count_stamped (r k n : Nat) : (s.count r k n).stamped = s.stamped := rfl
@[simp] theorem State.count_pages (r k n : Nat) : (s.count r k n).pages = s.pages := rfl
@[simp] theorem State.count_ldas (r k n : Nat) : (s.count r k n).ldas = s.ldas := rfl
@[simp] theorem State.count_kv (r k n : Nat) : (s.count r k n).kv = s.kv := rfl
@[simp] theorem State.count_hub (r k n : Nat) : (s.count r k n).hub = s.hub := rfl
@[simp] theorem State.count_images (r k n : Nat) : (s.count r k n).images = s.images := rfl
@[simp] theorem State.count_dev (r k n : Nat) : (s.count r k n).dev = s.dev := rfl
@[simp] theorem State.count_enc (r k n : Nat) : (s.count r k n).enc = s.enc := rfl

@[simp] theorem State.stir_agenda (r : Nat) : (s.stir r).agenda = s.agenda := rfl
@[simp] theorem State.stir_inputs (r : Nat) : (s.stir r).inputs = s.inputs := rfl
@[simp] theorem State.stir_inHand (r : Nat) : (s.stir r).inHand = s.inHand := rfl
@[simp] theorem State.stir_again (r : Nat) : (s.stir r).again = s.again := rfl
@[simp] theorem State.stir_site (r : Nat) : (s.stir r).site = s.site := rfl
@[simp] theorem State.stir_ticket (r : Nat) : (s.stir r).ticket = s.ticket := rfl
@[simp] theorem State.stir_freeCtr (r : Nat) : (s.stir r).freeCtr = s.freeCtr := rfl
@[simp] theorem State.stir_cyc (r : Nat) : (s.stir r).cyc = s.cyc := rfl
@[simp] theorem State.stir_now (r : Nat) : (s.stir r).now = s.now := rfl
@[simp] theorem State.stir_dies (r : Nat) : (s.stir r).dies = s.dies := rfl
@[simp] theorem State.stir_mem (r : Nat) : (s.stir r).mem = s.mem := rfl
@[simp] theorem State.stir_banksBusy (r : Nat) : (s.stir r).banksBusy = s.banksBusy := rfl
@[simp] theorem State.stir_bankLast (r : Nat) : (s.stir r).bankLast = s.bankLast := rfl
@[simp] theorem State.stir_bankWant (r : Nat) : (s.stir r).bankWant = s.bankWant := rfl
@[simp] theorem State.stir_bankTried (r : Nat) : (s.stir r).bankTried = s.bankTried := rfl
@[simp] theorem State.stir_units (r : Nat) : (s.stir r).units = s.units := rfl
@[simp] theorem State.stir_notes (r : Nat) : (s.stir r).notes = s.notes := rfl
@[simp] theorem State.stir_chans (r : Nat) : (s.stir r).chans = s.chans := rfl
@[simp] theorem State.stir_wires (r : Nat) : (s.stir r).wires = s.wires := rfl
@[simp] theorem State.stir_rings (r : Nat) : (s.stir r).rings = s.rings := rfl
@[simp] theorem State.stir_pairs (r : Nat) : (s.stir r).pairs = s.pairs := rfl
@[simp] theorem State.stir_links (r : Nat) : (s.stir r).links = s.links := rfl
@[simp] theorem State.stir_stamped (r : Nat) : (s.stir r).stamped = s.stamped := rfl
@[simp] theorem State.stir_pages (r : Nat) : (s.stir r).pages = s.pages := rfl
@[simp] theorem State.stir_ldas (r : Nat) : (s.stir r).ldas = s.ldas := rfl
@[simp] theorem State.stir_kv (r : Nat) : (s.stir r).kv = s.kv := rfl
@[simp] theorem State.stir_hub (r : Nat) : (s.stir r).hub = s.hub := rfl
@[simp] theorem State.stir_images (r : Nat) : (s.stir r).images = s.images := rfl
@[simp] theorem State.stir_dev (r : Nat) : (s.stir r).dev = s.dev := rfl
@[simp] theorem State.stir_enc (r : Nat) : (s.stir r).enc = s.enc := rfl

@[simp] theorem State.orFlags_agenda (r : Nat) (f : BitVec 6) : (s.orFlags r f).agenda = s.agenda := rfl
@[simp] theorem State.orFlags_inputs (r : Nat) (f : BitVec 6) : (s.orFlags r f).inputs = s.inputs := rfl
@[simp] theorem State.orFlags_inHand (r : Nat) (f : BitVec 6) : (s.orFlags r f).inHand = s.inHand := rfl
@[simp] theorem State.orFlags_again (r : Nat) (f : BitVec 6) : (s.orFlags r f).again = s.again := rfl
@[simp] theorem State.orFlags_site (r : Nat) (f : BitVec 6) : (s.orFlags r f).site = s.site := rfl
@[simp] theorem State.orFlags_ticket (r : Nat) (f : BitVec 6) : (s.orFlags r f).ticket = s.ticket := rfl
@[simp] theorem State.orFlags_freeCtr (r : Nat) (f : BitVec 6) : (s.orFlags r f).freeCtr = s.freeCtr := rfl
@[simp] theorem State.orFlags_cyc (r : Nat) (f : BitVec 6) : (s.orFlags r f).cyc = s.cyc := rfl
@[simp] theorem State.orFlags_now (r : Nat) (f : BitVec 6) : (s.orFlags r f).now = s.now := rfl
@[simp] theorem State.orFlags_dies (r : Nat) (f : BitVec 6) : (s.orFlags r f).dies = s.dies := rfl
@[simp] theorem State.orFlags_mem (r : Nat) (f : BitVec 6) : (s.orFlags r f).mem = s.mem := rfl
@[simp] theorem State.orFlags_banksBusy (r : Nat) (f : BitVec 6) : (s.orFlags r f).banksBusy = s.banksBusy := rfl
@[simp] theorem State.orFlags_bankLast (r : Nat) (f : BitVec 6) : (s.orFlags r f).bankLast = s.bankLast := rfl
@[simp] theorem State.orFlags_bankWant (r : Nat) (f : BitVec 6) : (s.orFlags r f).bankWant = s.bankWant := rfl
@[simp] theorem State.orFlags_bankTried (r : Nat) (f : BitVec 6) : (s.orFlags r f).bankTried = s.bankTried := rfl
@[simp] theorem State.orFlags_units (r : Nat) (f : BitVec 6) : (s.orFlags r f).units = s.units := rfl
@[simp] theorem State.orFlags_notes (r : Nat) (f : BitVec 6) : (s.orFlags r f).notes = s.notes := rfl
@[simp] theorem State.orFlags_chans (r : Nat) (f : BitVec 6) : (s.orFlags r f).chans = s.chans := rfl
@[simp] theorem State.orFlags_wires (r : Nat) (f : BitVec 6) : (s.orFlags r f).wires = s.wires := rfl
@[simp] theorem State.orFlags_rings (r : Nat) (f : BitVec 6) : (s.orFlags r f).rings = s.rings := rfl
@[simp] theorem State.orFlags_pairs (r : Nat) (f : BitVec 6) : (s.orFlags r f).pairs = s.pairs := rfl
@[simp] theorem State.orFlags_links (r : Nat) (f : BitVec 6) : (s.orFlags r f).links = s.links := rfl
@[simp] theorem State.orFlags_stamped (r : Nat) (f : BitVec 6) : (s.orFlags r f).stamped = s.stamped := rfl
@[simp] theorem State.orFlags_pages (r : Nat) (f : BitVec 6) : (s.orFlags r f).pages = s.pages := rfl
@[simp] theorem State.orFlags_ldas (r : Nat) (f : BitVec 6) : (s.orFlags r f).ldas = s.ldas := rfl
@[simp] theorem State.orFlags_kv (r : Nat) (f : BitVec 6) : (s.orFlags r f).kv = s.kv := rfl
@[simp] theorem State.orFlags_hub (r : Nat) (f : BitVec 6) : (s.orFlags r f).hub = s.hub := rfl
@[simp] theorem State.orFlags_images (r : Nat) (f : BitVec 6) : (s.orFlags r f).images = s.images := rfl
@[simp] theorem State.orFlags_dev (r : Nat) (f : BitVec 6) : (s.orFlags r f).dev = s.dev := rfl
@[simp] theorem State.orFlags_enc (r : Nat) (f : BitVec 6) : (s.orFlags r f).enc = s.enc := rfl

@[simp] theorem State.setUnit_agenda (u : UnitId) (x : EUnit) : (s.setUnit u x).agenda = s.agenda := rfl
@[simp] theorem State.setUnit_inputs (u : UnitId) (x : EUnit) : (s.setUnit u x).inputs = s.inputs := rfl
@[simp] theorem State.setUnit_inHand (u : UnitId) (x : EUnit) : (s.setUnit u x).inHand = s.inHand := rfl
@[simp] theorem State.setUnit_again (u : UnitId) (x : EUnit) : (s.setUnit u x).again = s.again := rfl
@[simp] theorem State.setUnit_site (u : UnitId) (x : EUnit) : (s.setUnit u x).site = s.site := rfl
@[simp] theorem State.setUnit_ticket (u : UnitId) (x : EUnit) : (s.setUnit u x).ticket = s.ticket := rfl
@[simp] theorem State.setUnit_freeCtr (u : UnitId) (x : EUnit) : (s.setUnit u x).freeCtr = s.freeCtr := rfl
@[simp] theorem State.setUnit_cyc (u : UnitId) (x : EUnit) : (s.setUnit u x).cyc = s.cyc := rfl
@[simp] theorem State.setUnit_now (u : UnitId) (x : EUnit) : (s.setUnit u x).now = s.now := rfl
@[simp] theorem State.setUnit_dies (u : UnitId) (x : EUnit) : (s.setUnit u x).dies = s.dies := rfl
@[simp] theorem State.setUnit_mem (u : UnitId) (x : EUnit) : (s.setUnit u x).mem = s.mem := rfl
@[simp] theorem State.setUnit_banksBusy (u : UnitId) (x : EUnit) : (s.setUnit u x).banksBusy = s.banksBusy := rfl
@[simp] theorem State.setUnit_bankLast (u : UnitId) (x : EUnit) : (s.setUnit u x).bankLast = s.bankLast := rfl
@[simp] theorem State.setUnit_bankWant (u : UnitId) (x : EUnit) : (s.setUnit u x).bankWant = s.bankWant := rfl
@[simp] theorem State.setUnit_bankTried (u : UnitId) (x : EUnit) : (s.setUnit u x).bankTried = s.bankTried := rfl
@[simp] theorem State.setUnit_regions (u : UnitId) (x : EUnit) : (s.setUnit u x).regions = s.regions := rfl
@[simp] theorem State.setUnit_notes (u : UnitId) (x : EUnit) : (s.setUnit u x).notes = s.notes := rfl
@[simp] theorem State.setUnit_chans (u : UnitId) (x : EUnit) : (s.setUnit u x).chans = s.chans := rfl
@[simp] theorem State.setUnit_wires (u : UnitId) (x : EUnit) : (s.setUnit u x).wires = s.wires := rfl
@[simp] theorem State.setUnit_rings (u : UnitId) (x : EUnit) : (s.setUnit u x).rings = s.rings := rfl
@[simp] theorem State.setUnit_pairs (u : UnitId) (x : EUnit) : (s.setUnit u x).pairs = s.pairs := rfl
@[simp] theorem State.setUnit_links (u : UnitId) (x : EUnit) : (s.setUnit u x).links = s.links := rfl
@[simp] theorem State.setUnit_stamped (u : UnitId) (x : EUnit) : (s.setUnit u x).stamped = s.stamped := rfl
@[simp] theorem State.setUnit_pages (u : UnitId) (x : EUnit) : (s.setUnit u x).pages = s.pages := rfl
@[simp] theorem State.setUnit_ldas (u : UnitId) (x : EUnit) : (s.setUnit u x).ldas = s.ldas := rfl
@[simp] theorem State.setUnit_kv (u : UnitId) (x : EUnit) : (s.setUnit u x).kv = s.kv := rfl
@[simp] theorem State.setUnit_hub (u : UnitId) (x : EUnit) : (s.setUnit u x).hub = s.hub := rfl
@[simp] theorem State.setUnit_images (u : UnitId) (x : EUnit) : (s.setUnit u x).images = s.images := rfl
@[simp] theorem State.setUnit_dev (u : UnitId) (x : EUnit) : (s.setUnit u x).dev = s.dev := rfl
@[simp] theorem State.setUnit_enc (u : UnitId) (x : EUnit) : (s.setUnit u x).enc = s.enc := rfl

@[simp] theorem State.modUnit_agenda (u : UnitId) (f : EUnit → EUnit) : (s.modUnit u f).agenda = s.agenda := rfl
@[simp] theorem State.modUnit_inputs (u : UnitId) (f : EUnit → EUnit) : (s.modUnit u f).inputs = s.inputs := rfl
@[simp] theorem State.modUnit_inHand (u : UnitId) (f : EUnit → EUnit) : (s.modUnit u f).inHand = s.inHand := rfl
@[simp] theorem State.modUnit_again (u : UnitId) (f : EUnit → EUnit) : (s.modUnit u f).again = s.again := rfl
@[simp] theorem State.modUnit_site (u : UnitId) (f : EUnit → EUnit) : (s.modUnit u f).site = s.site := rfl
@[simp] theorem State.modUnit_ticket (u : UnitId) (f : EUnit → EUnit) : (s.modUnit u f).ticket = s.ticket := rfl
@[simp] theorem State.modUnit_freeCtr (u : UnitId) (f : EUnit → EUnit) : (s.modUnit u f).freeCtr = s.freeCtr := rfl
@[simp] theorem State.modUnit_cyc (u : UnitId) (f : EUnit → EUnit) : (s.modUnit u f).cyc = s.cyc := rfl
@[simp] theorem State.modUnit_now (u : UnitId) (f : EUnit → EUnit) : (s.modUnit u f).now = s.now := rfl
@[simp] theorem State.modUnit_dies (u : UnitId) (f : EUnit → EUnit) : (s.modUnit u f).dies = s.dies := rfl
@[simp] theorem State.modUnit_mem (u : UnitId) (f : EUnit → EUnit) : (s.modUnit u f).mem = s.mem := rfl
@[simp] theorem State.modUnit_banksBusy (u : UnitId) (f : EUnit → EUnit) : (s.modUnit u f).banksBusy = s.banksBusy := rfl
@[simp] theorem State.modUnit_bankLast (u : UnitId) (f : EUnit → EUnit) : (s.modUnit u f).bankLast = s.bankLast := rfl
@[simp] theorem State.modUnit_bankWant (u : UnitId) (f : EUnit → EUnit) : (s.modUnit u f).bankWant = s.bankWant := rfl
@[simp] theorem State.modUnit_bankTried (u : UnitId) (f : EUnit → EUnit) : (s.modUnit u f).bankTried = s.bankTried := rfl
@[simp] theorem State.modUnit_regions (u : UnitId) (f : EUnit → EUnit) : (s.modUnit u f).regions = s.regions := rfl
@[simp] theorem State.modUnit_notes (u : UnitId) (f : EUnit → EUnit) : (s.modUnit u f).notes = s.notes := rfl
@[simp] theorem State.modUnit_chans (u : UnitId) (f : EUnit → EUnit) : (s.modUnit u f).chans = s.chans := rfl
@[simp] theorem State.modUnit_wires (u : UnitId) (f : EUnit → EUnit) : (s.modUnit u f).wires = s.wires := rfl
@[simp] theorem State.modUnit_rings (u : UnitId) (f : EUnit → EUnit) : (s.modUnit u f).rings = s.rings := rfl
@[simp] theorem State.modUnit_pairs (u : UnitId) (f : EUnit → EUnit) : (s.modUnit u f).pairs = s.pairs := rfl
@[simp] theorem State.modUnit_links (u : UnitId) (f : EUnit → EUnit) : (s.modUnit u f).links = s.links := rfl
@[simp] theorem State.modUnit_stamped (u : UnitId) (f : EUnit → EUnit) : (s.modUnit u f).stamped = s.stamped := rfl
@[simp] theorem State.modUnit_pages (u : UnitId) (f : EUnit → EUnit) : (s.modUnit u f).pages = s.pages := rfl
@[simp] theorem State.modUnit_ldas (u : UnitId) (f : EUnit → EUnit) : (s.modUnit u f).ldas = s.ldas := rfl
@[simp] theorem State.modUnit_kv (u : UnitId) (f : EUnit → EUnit) : (s.modUnit u f).kv = s.kv := rfl
@[simp] theorem State.modUnit_hub (u : UnitId) (f : EUnit → EUnit) : (s.modUnit u f).hub = s.hub := rfl
@[simp] theorem State.modUnit_images (u : UnitId) (f : EUnit → EUnit) : (s.modUnit u f).images = s.images := rfl
@[simp] theorem State.modUnit_dev (u : UnitId) (f : EUnit → EUnit) : (s.modUnit u f).dev = s.dev := rfl
@[simp] theorem State.modUnit_enc (u : UnitId) (f : EUnit → EUnit) : (s.modUnit u f).enc = s.enc := rfl

@[simp] theorem State.modChan_agenda (k : Sink) (f : Chan → Chan) : (s.modChan k f).agenda = s.agenda := rfl
@[simp] theorem State.modChan_inputs (k : Sink) (f : Chan → Chan) : (s.modChan k f).inputs = s.inputs := rfl
@[simp] theorem State.modChan_inHand (k : Sink) (f : Chan → Chan) : (s.modChan k f).inHand = s.inHand := rfl
@[simp] theorem State.modChan_again (k : Sink) (f : Chan → Chan) : (s.modChan k f).again = s.again := rfl
@[simp] theorem State.modChan_site (k : Sink) (f : Chan → Chan) : (s.modChan k f).site = s.site := rfl
@[simp] theorem State.modChan_ticket (k : Sink) (f : Chan → Chan) : (s.modChan k f).ticket = s.ticket := rfl
@[simp] theorem State.modChan_freeCtr (k : Sink) (f : Chan → Chan) : (s.modChan k f).freeCtr = s.freeCtr := rfl
@[simp] theorem State.modChan_cyc (k : Sink) (f : Chan → Chan) : (s.modChan k f).cyc = s.cyc := rfl
@[simp] theorem State.modChan_now (k : Sink) (f : Chan → Chan) : (s.modChan k f).now = s.now := rfl
@[simp] theorem State.modChan_dies (k : Sink) (f : Chan → Chan) : (s.modChan k f).dies = s.dies := rfl
@[simp] theorem State.modChan_mem (k : Sink) (f : Chan → Chan) : (s.modChan k f).mem = s.mem := rfl
@[simp] theorem State.modChan_banksBusy (k : Sink) (f : Chan → Chan) : (s.modChan k f).banksBusy = s.banksBusy := rfl
@[simp] theorem State.modChan_bankLast (k : Sink) (f : Chan → Chan) : (s.modChan k f).bankLast = s.bankLast := rfl
@[simp] theorem State.modChan_bankWant (k : Sink) (f : Chan → Chan) : (s.modChan k f).bankWant = s.bankWant := rfl
@[simp] theorem State.modChan_bankTried (k : Sink) (f : Chan → Chan) : (s.modChan k f).bankTried = s.bankTried := rfl
@[simp] theorem State.modChan_regions (k : Sink) (f : Chan → Chan) : (s.modChan k f).regions = s.regions := rfl
@[simp] theorem State.modChan_units (k : Sink) (f : Chan → Chan) : (s.modChan k f).units = s.units := rfl
@[simp] theorem State.modChan_notes (k : Sink) (f : Chan → Chan) : (s.modChan k f).notes = s.notes := rfl
@[simp] theorem State.modChan_wires (k : Sink) (f : Chan → Chan) : (s.modChan k f).wires = s.wires := rfl
@[simp] theorem State.modChan_rings (k : Sink) (f : Chan → Chan) : (s.modChan k f).rings = s.rings := rfl
@[simp] theorem State.modChan_pairs (k : Sink) (f : Chan → Chan) : (s.modChan k f).pairs = s.pairs := rfl
@[simp] theorem State.modChan_links (k : Sink) (f : Chan → Chan) : (s.modChan k f).links = s.links := rfl
@[simp] theorem State.modChan_stamped (k : Sink) (f : Chan → Chan) : (s.modChan k f).stamped = s.stamped := rfl
@[simp] theorem State.modChan_pages (k : Sink) (f : Chan → Chan) : (s.modChan k f).pages = s.pages := rfl
@[simp] theorem State.modChan_ldas (k : Sink) (f : Chan → Chan) : (s.modChan k f).ldas = s.ldas := rfl
@[simp] theorem State.modChan_kv (k : Sink) (f : Chan → Chan) : (s.modChan k f).kv = s.kv := rfl
@[simp] theorem State.modChan_hub (k : Sink) (f : Chan → Chan) : (s.modChan k f).hub = s.hub := rfl
@[simp] theorem State.modChan_images (k : Sink) (f : Chan → Chan) : (s.modChan k f).images = s.images := rfl
@[simp] theorem State.modChan_dev (k : Sink) (f : Chan → Chan) : (s.modChan k f).dev = s.dev := rfl
@[simp] theorem State.modChan_enc (k : Sink) (f : Chan → Chan) : (s.modChan k f).enc = s.enc := rfl

@[simp] theorem State.modDie_agenda (d : Nat) (f : DieTime → DieTime) : (s.modDie d f).agenda = s.agenda := rfl
@[simp] theorem State.modDie_inputs (d : Nat) (f : DieTime → DieTime) : (s.modDie d f).inputs = s.inputs := rfl
@[simp] theorem State.modDie_inHand (d : Nat) (f : DieTime → DieTime) : (s.modDie d f).inHand = s.inHand := rfl
@[simp] theorem State.modDie_again (d : Nat) (f : DieTime → DieTime) : (s.modDie d f).again = s.again := rfl
@[simp] theorem State.modDie_site (d : Nat) (f : DieTime → DieTime) : (s.modDie d f).site = s.site := rfl
@[simp] theorem State.modDie_ticket (d : Nat) (f : DieTime → DieTime) : (s.modDie d f).ticket = s.ticket := rfl
@[simp] theorem State.modDie_freeCtr (d : Nat) (f : DieTime → DieTime) : (s.modDie d f).freeCtr = s.freeCtr := rfl
@[simp] theorem State.modDie_cyc (d : Nat) (f : DieTime → DieTime) : (s.modDie d f).cyc = s.cyc := rfl
@[simp] theorem State.modDie_now (d : Nat) (f : DieTime → DieTime) : (s.modDie d f).now = s.now := rfl
@[simp] theorem State.modDie_mem (d : Nat) (f : DieTime → DieTime) : (s.modDie d f).mem = s.mem := rfl
@[simp] theorem State.modDie_banksBusy (d : Nat) (f : DieTime → DieTime) : (s.modDie d f).banksBusy = s.banksBusy := rfl
@[simp] theorem State.modDie_bankLast (d : Nat) (f : DieTime → DieTime) : (s.modDie d f).bankLast = s.bankLast := rfl
@[simp] theorem State.modDie_bankWant (d : Nat) (f : DieTime → DieTime) : (s.modDie d f).bankWant = s.bankWant := rfl
@[simp] theorem State.modDie_bankTried (d : Nat) (f : DieTime → DieTime) : (s.modDie d f).bankTried = s.bankTried := rfl
@[simp] theorem State.modDie_regions (d : Nat) (f : DieTime → DieTime) : (s.modDie d f).regions = s.regions := rfl
@[simp] theorem State.modDie_units (d : Nat) (f : DieTime → DieTime) : (s.modDie d f).units = s.units := rfl
@[simp] theorem State.modDie_notes (d : Nat) (f : DieTime → DieTime) : (s.modDie d f).notes = s.notes := rfl
@[simp] theorem State.modDie_chans (d : Nat) (f : DieTime → DieTime) : (s.modDie d f).chans = s.chans := rfl
@[simp] theorem State.modDie_wires (d : Nat) (f : DieTime → DieTime) : (s.modDie d f).wires = s.wires := rfl
@[simp] theorem State.modDie_rings (d : Nat) (f : DieTime → DieTime) : (s.modDie d f).rings = s.rings := rfl
@[simp] theorem State.modDie_pairs (d : Nat) (f : DieTime → DieTime) : (s.modDie d f).pairs = s.pairs := rfl
@[simp] theorem State.modDie_links (d : Nat) (f : DieTime → DieTime) : (s.modDie d f).links = s.links := rfl
@[simp] theorem State.modDie_stamped (d : Nat) (f : DieTime → DieTime) : (s.modDie d f).stamped = s.stamped := rfl
@[simp] theorem State.modDie_pages (d : Nat) (f : DieTime → DieTime) : (s.modDie d f).pages = s.pages := rfl
@[simp] theorem State.modDie_ldas (d : Nat) (f : DieTime → DieTime) : (s.modDie d f).ldas = s.ldas := rfl
@[simp] theorem State.modDie_kv (d : Nat) (f : DieTime → DieTime) : (s.modDie d f).kv = s.kv := rfl
@[simp] theorem State.modDie_hub (d : Nat) (f : DieTime → DieTime) : (s.modDie d f).hub = s.hub := rfl
@[simp] theorem State.modDie_images (d : Nat) (f : DieTime → DieTime) : (s.modDie d f).images = s.images := rfl
@[simp] theorem State.modDie_dev (d : Nat) (f : DieTime → DieTime) : (s.modDie d f).dev = s.dev := rfl
@[simp] theorem State.modDie_enc (d : Nat) (f : DieTime → DieTime) : (s.modDie d f).enc = s.enc := rfl

@[simp] theorem State.modLink_agenda (l : Nat) (f : Link → Link) : (s.modLink l f).agenda = s.agenda := rfl
@[simp] theorem State.modLink_inputs (l : Nat) (f : Link → Link) : (s.modLink l f).inputs = s.inputs := rfl
@[simp] theorem State.modLink_inHand (l : Nat) (f : Link → Link) : (s.modLink l f).inHand = s.inHand := rfl
@[simp] theorem State.modLink_again (l : Nat) (f : Link → Link) : (s.modLink l f).again = s.again := rfl
@[simp] theorem State.modLink_site (l : Nat) (f : Link → Link) : (s.modLink l f).site = s.site := rfl
@[simp] theorem State.modLink_ticket (l : Nat) (f : Link → Link) : (s.modLink l f).ticket = s.ticket := rfl
@[simp] theorem State.modLink_freeCtr (l : Nat) (f : Link → Link) : (s.modLink l f).freeCtr = s.freeCtr := rfl
@[simp] theorem State.modLink_cyc (l : Nat) (f : Link → Link) : (s.modLink l f).cyc = s.cyc := rfl
@[simp] theorem State.modLink_now (l : Nat) (f : Link → Link) : (s.modLink l f).now = s.now := rfl
@[simp] theorem State.modLink_dies (l : Nat) (f : Link → Link) : (s.modLink l f).dies = s.dies := rfl
@[simp] theorem State.modLink_mem (l : Nat) (f : Link → Link) : (s.modLink l f).mem = s.mem := rfl
@[simp] theorem State.modLink_banksBusy (l : Nat) (f : Link → Link) : (s.modLink l f).banksBusy = s.banksBusy := rfl
@[simp] theorem State.modLink_bankLast (l : Nat) (f : Link → Link) : (s.modLink l f).bankLast = s.bankLast := rfl
@[simp] theorem State.modLink_bankWant (l : Nat) (f : Link → Link) : (s.modLink l f).bankWant = s.bankWant := rfl
@[simp] theorem State.modLink_bankTried (l : Nat) (f : Link → Link) : (s.modLink l f).bankTried = s.bankTried := rfl
@[simp] theorem State.modLink_regions (l : Nat) (f : Link → Link) : (s.modLink l f).regions = s.regions := rfl
@[simp] theorem State.modLink_units (l : Nat) (f : Link → Link) : (s.modLink l f).units = s.units := rfl
@[simp] theorem State.modLink_notes (l : Nat) (f : Link → Link) : (s.modLink l f).notes = s.notes := rfl
@[simp] theorem State.modLink_chans (l : Nat) (f : Link → Link) : (s.modLink l f).chans = s.chans := rfl
@[simp] theorem State.modLink_wires (l : Nat) (f : Link → Link) : (s.modLink l f).wires = s.wires := rfl
@[simp] theorem State.modLink_rings (l : Nat) (f : Link → Link) : (s.modLink l f).rings = s.rings := rfl
@[simp] theorem State.modLink_pairs (l : Nat) (f : Link → Link) : (s.modLink l f).pairs = s.pairs := rfl
@[simp] theorem State.modLink_stamped (l : Nat) (f : Link → Link) : (s.modLink l f).stamped = s.stamped := rfl
@[simp] theorem State.modLink_pages (l : Nat) (f : Link → Link) : (s.modLink l f).pages = s.pages := rfl
@[simp] theorem State.modLink_ldas (l : Nat) (f : Link → Link) : (s.modLink l f).ldas = s.ldas := rfl
@[simp] theorem State.modLink_kv (l : Nat) (f : Link → Link) : (s.modLink l f).kv = s.kv := rfl
@[simp] theorem State.modLink_hub (l : Nat) (f : Link → Link) : (s.modLink l f).hub = s.hub := rfl
@[simp] theorem State.modLink_images (l : Nat) (f : Link → Link) : (s.modLink l f).images = s.images := rfl
@[simp] theorem State.modLink_dev (l : Nat) (f : Link → Link) : (s.modLink l f).dev = s.dev := rfl
@[simp] theorem State.modLink_enc (l : Nat) (f : Link → Link) : (s.modLink l f).enc = s.enc := rfl

@[simp] theorem State.setPair_agenda (p : Nat) (x : Pair) : (s.setPair p x).agenda = s.agenda := rfl
@[simp] theorem State.setPair_inputs (p : Nat) (x : Pair) : (s.setPair p x).inputs = s.inputs := rfl
@[simp] theorem State.setPair_inHand (p : Nat) (x : Pair) : (s.setPair p x).inHand = s.inHand := rfl
@[simp] theorem State.setPair_again (p : Nat) (x : Pair) : (s.setPair p x).again = s.again := rfl
@[simp] theorem State.setPair_site (p : Nat) (x : Pair) : (s.setPair p x).site = s.site := rfl
@[simp] theorem State.setPair_ticket (p : Nat) (x : Pair) : (s.setPair p x).ticket = s.ticket := rfl
@[simp] theorem State.setPair_freeCtr (p : Nat) (x : Pair) : (s.setPair p x).freeCtr = s.freeCtr := rfl
@[simp] theorem State.setPair_cyc (p : Nat) (x : Pair) : (s.setPair p x).cyc = s.cyc := rfl
@[simp] theorem State.setPair_now (p : Nat) (x : Pair) : (s.setPair p x).now = s.now := rfl
@[simp] theorem State.setPair_dies (p : Nat) (x : Pair) : (s.setPair p x).dies = s.dies := rfl
@[simp] theorem State.setPair_mem (p : Nat) (x : Pair) : (s.setPair p x).mem = s.mem := rfl
@[simp] theorem State.setPair_banksBusy (p : Nat) (x : Pair) : (s.setPair p x).banksBusy = s.banksBusy := rfl
@[simp] theorem State.setPair_bankLast (p : Nat) (x : Pair) : (s.setPair p x).bankLast = s.bankLast := rfl
@[simp] theorem State.setPair_bankWant (p : Nat) (x : Pair) : (s.setPair p x).bankWant = s.bankWant := rfl
@[simp] theorem State.setPair_bankTried (p : Nat) (x : Pair) : (s.setPair p x).bankTried = s.bankTried := rfl
@[simp] theorem State.setPair_regions (p : Nat) (x : Pair) : (s.setPair p x).regions = s.regions := rfl
@[simp] theorem State.setPair_units (p : Nat) (x : Pair) : (s.setPair p x).units = s.units := rfl
@[simp] theorem State.setPair_notes (p : Nat) (x : Pair) : (s.setPair p x).notes = s.notes := rfl
@[simp] theorem State.setPair_chans (p : Nat) (x : Pair) : (s.setPair p x).chans = s.chans := rfl
@[simp] theorem State.setPair_wires (p : Nat) (x : Pair) : (s.setPair p x).wires = s.wires := rfl
@[simp] theorem State.setPair_rings (p : Nat) (x : Pair) : (s.setPair p x).rings = s.rings := rfl
@[simp] theorem State.setPair_links (p : Nat) (x : Pair) : (s.setPair p x).links = s.links := rfl
@[simp] theorem State.setPair_stamped (p : Nat) (x : Pair) : (s.setPair p x).stamped = s.stamped := rfl
@[simp] theorem State.setPair_pages (p : Nat) (x : Pair) : (s.setPair p x).pages = s.pages := rfl
@[simp] theorem State.setPair_ldas (p : Nat) (x : Pair) : (s.setPair p x).ldas = s.ldas := rfl
@[simp] theorem State.setPair_kv (p : Nat) (x : Pair) : (s.setPair p x).kv = s.kv := rfl
@[simp] theorem State.setPair_hub (p : Nat) (x : Pair) : (s.setPair p x).hub = s.hub := rfl
@[simp] theorem State.setPair_images (p : Nat) (x : Pair) : (s.setPair p x).images = s.images := rfl
@[simp] theorem State.setPair_dev (p : Nat) (x : Pair) : (s.setPair p x).dev = s.dev := rfl
@[simp] theorem State.setPair_enc (p : Nat) (x : Pair) : (s.setPair p x).enc = s.enc := rfl

@[simp] theorem State.setRing_agenda (c : CellId) (n : Nat) (x : Ring) : (s.setRing c n x).agenda = s.agenda := rfl
@[simp] theorem State.setRing_inputs (c : CellId) (n : Nat) (x : Ring) : (s.setRing c n x).inputs = s.inputs := rfl
@[simp] theorem State.setRing_inHand (c : CellId) (n : Nat) (x : Ring) : (s.setRing c n x).inHand = s.inHand := rfl
@[simp] theorem State.setRing_again (c : CellId) (n : Nat) (x : Ring) : (s.setRing c n x).again = s.again := rfl
@[simp] theorem State.setRing_site (c : CellId) (n : Nat) (x : Ring) : (s.setRing c n x).site = s.site := rfl
@[simp] theorem State.setRing_ticket (c : CellId) (n : Nat) (x : Ring) : (s.setRing c n x).ticket = s.ticket := rfl
@[simp] theorem State.setRing_freeCtr (c : CellId) (n : Nat) (x : Ring) : (s.setRing c n x).freeCtr = s.freeCtr := rfl
@[simp] theorem State.setRing_cyc (c : CellId) (n : Nat) (x : Ring) : (s.setRing c n x).cyc = s.cyc := rfl
@[simp] theorem State.setRing_now (c : CellId) (n : Nat) (x : Ring) : (s.setRing c n x).now = s.now := rfl
@[simp] theorem State.setRing_dies (c : CellId) (n : Nat) (x : Ring) : (s.setRing c n x).dies = s.dies := rfl
@[simp] theorem State.setRing_mem (c : CellId) (n : Nat) (x : Ring) : (s.setRing c n x).mem = s.mem := rfl
@[simp] theorem State.setRing_banksBusy (c : CellId) (n : Nat) (x : Ring) : (s.setRing c n x).banksBusy = s.banksBusy := rfl
@[simp] theorem State.setRing_bankLast (c : CellId) (n : Nat) (x : Ring) : (s.setRing c n x).bankLast = s.bankLast := rfl
@[simp] theorem State.setRing_bankWant (c : CellId) (n : Nat) (x : Ring) : (s.setRing c n x).bankWant = s.bankWant := rfl
@[simp] theorem State.setRing_bankTried (c : CellId) (n : Nat) (x : Ring) : (s.setRing c n x).bankTried = s.bankTried := rfl
@[simp] theorem State.setRing_regions (c : CellId) (n : Nat) (x : Ring) : (s.setRing c n x).regions = s.regions := rfl
@[simp] theorem State.setRing_units (c : CellId) (n : Nat) (x : Ring) : (s.setRing c n x).units = s.units := rfl
@[simp] theorem State.setRing_notes (c : CellId) (n : Nat) (x : Ring) : (s.setRing c n x).notes = s.notes := rfl
@[simp] theorem State.setRing_chans (c : CellId) (n : Nat) (x : Ring) : (s.setRing c n x).chans = s.chans := rfl
@[simp] theorem State.setRing_wires (c : CellId) (n : Nat) (x : Ring) : (s.setRing c n x).wires = s.wires := rfl
@[simp] theorem State.setRing_pairs (c : CellId) (n : Nat) (x : Ring) : (s.setRing c n x).pairs = s.pairs := rfl
@[simp] theorem State.setRing_links (c : CellId) (n : Nat) (x : Ring) : (s.setRing c n x).links = s.links := rfl
@[simp] theorem State.setRing_stamped (c : CellId) (n : Nat) (x : Ring) : (s.setRing c n x).stamped = s.stamped := rfl
@[simp] theorem State.setRing_pages (c : CellId) (n : Nat) (x : Ring) : (s.setRing c n x).pages = s.pages := rfl
@[simp] theorem State.setRing_ldas (c : CellId) (n : Nat) (x : Ring) : (s.setRing c n x).ldas = s.ldas := rfl
@[simp] theorem State.setRing_kv (c : CellId) (n : Nat) (x : Ring) : (s.setRing c n x).kv = s.kv := rfl
@[simp] theorem State.setRing_hub (c : CellId) (n : Nat) (x : Ring) : (s.setRing c n x).hub = s.hub := rfl
@[simp] theorem State.setRing_images (c : CellId) (n : Nat) (x : Ring) : (s.setRing c n x).images = s.images := rfl
@[simp] theorem State.setRing_dev (c : CellId) (n : Nat) (x : Ring) : (s.setRing c n x).dev = s.dev := rfl
@[simp] theorem State.setRing_enc (c : CellId) (n : Nat) (x : Ring) : (s.setRing c n x).enc = s.enc := rfl

@[simp] theorem State.modHub_agenda (f : Hub → Hub) : (s.modHub f).agenda = s.agenda := rfl
@[simp] theorem State.modHub_inputs (f : Hub → Hub) : (s.modHub f).inputs = s.inputs := rfl
@[simp] theorem State.modHub_inHand (f : Hub → Hub) : (s.modHub f).inHand = s.inHand := rfl
@[simp] theorem State.modHub_again (f : Hub → Hub) : (s.modHub f).again = s.again := rfl
@[simp] theorem State.modHub_site (f : Hub → Hub) : (s.modHub f).site = s.site := rfl
@[simp] theorem State.modHub_ticket (f : Hub → Hub) : (s.modHub f).ticket = s.ticket := rfl
@[simp] theorem State.modHub_freeCtr (f : Hub → Hub) : (s.modHub f).freeCtr = s.freeCtr := rfl
@[simp] theorem State.modHub_cyc (f : Hub → Hub) : (s.modHub f).cyc = s.cyc := rfl
@[simp] theorem State.modHub_now (f : Hub → Hub) : (s.modHub f).now = s.now := rfl
@[simp] theorem State.modHub_dies (f : Hub → Hub) : (s.modHub f).dies = s.dies := rfl
@[simp] theorem State.modHub_mem (f : Hub → Hub) : (s.modHub f).mem = s.mem := rfl
@[simp] theorem State.modHub_banksBusy (f : Hub → Hub) : (s.modHub f).banksBusy = s.banksBusy := rfl
@[simp] theorem State.modHub_bankLast (f : Hub → Hub) : (s.modHub f).bankLast = s.bankLast := rfl
@[simp] theorem State.modHub_bankWant (f : Hub → Hub) : (s.modHub f).bankWant = s.bankWant := rfl
@[simp] theorem State.modHub_bankTried (f : Hub → Hub) : (s.modHub f).bankTried = s.bankTried := rfl
@[simp] theorem State.modHub_regions (f : Hub → Hub) : (s.modHub f).regions = s.regions := rfl
@[simp] theorem State.modHub_units (f : Hub → Hub) : (s.modHub f).units = s.units := rfl
@[simp] theorem State.modHub_notes (f : Hub → Hub) : (s.modHub f).notes = s.notes := rfl
@[simp] theorem State.modHub_chans (f : Hub → Hub) : (s.modHub f).chans = s.chans := rfl
@[simp] theorem State.modHub_wires (f : Hub → Hub) : (s.modHub f).wires = s.wires := rfl
@[simp] theorem State.modHub_rings (f : Hub → Hub) : (s.modHub f).rings = s.rings := rfl
@[simp] theorem State.modHub_pairs (f : Hub → Hub) : (s.modHub f).pairs = s.pairs := rfl
@[simp] theorem State.modHub_links (f : Hub → Hub) : (s.modHub f).links = s.links := rfl
@[simp] theorem State.modHub_stamped (f : Hub → Hub) : (s.modHub f).stamped = s.stamped := rfl
@[simp] theorem State.modHub_pages (f : Hub → Hub) : (s.modHub f).pages = s.pages := rfl
@[simp] theorem State.modHub_ldas (f : Hub → Hub) : (s.modHub f).ldas = s.ldas := rfl
@[simp] theorem State.modHub_kv (f : Hub → Hub) : (s.modHub f).kv = s.kv := rfl
@[simp] theorem State.modHub_images (f : Hub → Hub) : (s.modHub f).images = s.images := rfl
@[simp] theorem State.modHub_dev (f : Hub → Hub) : (s.modHub f).dev = s.dev := rfl
@[simp] theorem State.modHub_enc (f : Hub → Hub) : (s.modHub f).enc = s.enc := rfl

@[simp] theorem State.setSlot_agenda (n : Nat) (x : Slot) : (s.setSlot n x).agenda = s.agenda := rfl
@[simp] theorem State.setSlot_inputs (n : Nat) (x : Slot) : (s.setSlot n x).inputs = s.inputs := rfl
@[simp] theorem State.setSlot_inHand (n : Nat) (x : Slot) : (s.setSlot n x).inHand = s.inHand := rfl
@[simp] theorem State.setSlot_again (n : Nat) (x : Slot) : (s.setSlot n x).again = s.again := rfl
@[simp] theorem State.setSlot_site (n : Nat) (x : Slot) : (s.setSlot n x).site = s.site := rfl
@[simp] theorem State.setSlot_ticket (n : Nat) (x : Slot) : (s.setSlot n x).ticket = s.ticket := rfl
@[simp] theorem State.setSlot_freeCtr (n : Nat) (x : Slot) : (s.setSlot n x).freeCtr = s.freeCtr := rfl
@[simp] theorem State.setSlot_cyc (n : Nat) (x : Slot) : (s.setSlot n x).cyc = s.cyc := rfl
@[simp] theorem State.setSlot_now (n : Nat) (x : Slot) : (s.setSlot n x).now = s.now := rfl
@[simp] theorem State.setSlot_dies (n : Nat) (x : Slot) : (s.setSlot n x).dies = s.dies := rfl
@[simp] theorem State.setSlot_mem (n : Nat) (x : Slot) : (s.setSlot n x).mem = s.mem := rfl
@[simp] theorem State.setSlot_banksBusy (n : Nat) (x : Slot) : (s.setSlot n x).banksBusy = s.banksBusy := rfl
@[simp] theorem State.setSlot_bankLast (n : Nat) (x : Slot) : (s.setSlot n x).bankLast = s.bankLast := rfl
@[simp] theorem State.setSlot_bankWant (n : Nat) (x : Slot) : (s.setSlot n x).bankWant = s.bankWant := rfl
@[simp] theorem State.setSlot_bankTried (n : Nat) (x : Slot) : (s.setSlot n x).bankTried = s.bankTried := rfl
@[simp] theorem State.setSlot_regions (n : Nat) (x : Slot) : (s.setSlot n x).regions = s.regions := rfl
@[simp] theorem State.setSlot_units (n : Nat) (x : Slot) : (s.setSlot n x).units = s.units := rfl
@[simp] theorem State.setSlot_notes (n : Nat) (x : Slot) : (s.setSlot n x).notes = s.notes := rfl
@[simp] theorem State.setSlot_chans (n : Nat) (x : Slot) : (s.setSlot n x).chans = s.chans := rfl
@[simp] theorem State.setSlot_wires (n : Nat) (x : Slot) : (s.setSlot n x).wires = s.wires := rfl
@[simp] theorem State.setSlot_rings (n : Nat) (x : Slot) : (s.setSlot n x).rings = s.rings := rfl
@[simp] theorem State.setSlot_pairs (n : Nat) (x : Slot) : (s.setSlot n x).pairs = s.pairs := rfl
@[simp] theorem State.setSlot_links (n : Nat) (x : Slot) : (s.setSlot n x).links = s.links := rfl
@[simp] theorem State.setSlot_stamped (n : Nat) (x : Slot) : (s.setSlot n x).stamped = s.stamped := rfl
@[simp] theorem State.setSlot_pages (n : Nat) (x : Slot) : (s.setSlot n x).pages = s.pages := rfl
@[simp] theorem State.setSlot_ldas (n : Nat) (x : Slot) : (s.setSlot n x).ldas = s.ldas := rfl
@[simp] theorem State.setSlot_kv (n : Nat) (x : Slot) : (s.setSlot n x).kv = s.kv := rfl
@[simp] theorem State.setSlot_images (n : Nat) (x : Slot) : (s.setSlot n x).images = s.images := rfl
@[simp] theorem State.setSlot_dev (n : Nat) (x : Slot) : (s.setSlot n x).dev = s.dev := rfl
@[simp] theorem State.setSlot_enc (n : Nat) (x : Slot) : (s.setSlot n x).enc = s.enc := rfl

@[simp] theorem State.setLaunch_agenda (n : Nat) (x : Launch) : (s.setLaunch n x).agenda = s.agenda := rfl
@[simp] theorem State.setLaunch_inputs (n : Nat) (x : Launch) : (s.setLaunch n x).inputs = s.inputs := rfl
@[simp] theorem State.setLaunch_inHand (n : Nat) (x : Launch) : (s.setLaunch n x).inHand = s.inHand := rfl
@[simp] theorem State.setLaunch_again (n : Nat) (x : Launch) : (s.setLaunch n x).again = s.again := rfl
@[simp] theorem State.setLaunch_site (n : Nat) (x : Launch) : (s.setLaunch n x).site = s.site := rfl
@[simp] theorem State.setLaunch_ticket (n : Nat) (x : Launch) : (s.setLaunch n x).ticket = s.ticket := rfl
@[simp] theorem State.setLaunch_freeCtr (n : Nat) (x : Launch) : (s.setLaunch n x).freeCtr = s.freeCtr := rfl
@[simp] theorem State.setLaunch_cyc (n : Nat) (x : Launch) : (s.setLaunch n x).cyc = s.cyc := rfl
@[simp] theorem State.setLaunch_now (n : Nat) (x : Launch) : (s.setLaunch n x).now = s.now := rfl
@[simp] theorem State.setLaunch_dies (n : Nat) (x : Launch) : (s.setLaunch n x).dies = s.dies := rfl
@[simp] theorem State.setLaunch_mem (n : Nat) (x : Launch) : (s.setLaunch n x).mem = s.mem := rfl
@[simp] theorem State.setLaunch_banksBusy (n : Nat) (x : Launch) : (s.setLaunch n x).banksBusy = s.banksBusy := rfl
@[simp] theorem State.setLaunch_bankLast (n : Nat) (x : Launch) : (s.setLaunch n x).bankLast = s.bankLast := rfl
@[simp] theorem State.setLaunch_bankWant (n : Nat) (x : Launch) : (s.setLaunch n x).bankWant = s.bankWant := rfl
@[simp] theorem State.setLaunch_bankTried (n : Nat) (x : Launch) : (s.setLaunch n x).bankTried = s.bankTried := rfl
@[simp] theorem State.setLaunch_regions (n : Nat) (x : Launch) : (s.setLaunch n x).regions = s.regions := rfl
@[simp] theorem State.setLaunch_units (n : Nat) (x : Launch) : (s.setLaunch n x).units = s.units := rfl
@[simp] theorem State.setLaunch_notes (n : Nat) (x : Launch) : (s.setLaunch n x).notes = s.notes := rfl
@[simp] theorem State.setLaunch_chans (n : Nat) (x : Launch) : (s.setLaunch n x).chans = s.chans := rfl
@[simp] theorem State.setLaunch_wires (n : Nat) (x : Launch) : (s.setLaunch n x).wires = s.wires := rfl
@[simp] theorem State.setLaunch_rings (n : Nat) (x : Launch) : (s.setLaunch n x).rings = s.rings := rfl
@[simp] theorem State.setLaunch_pairs (n : Nat) (x : Launch) : (s.setLaunch n x).pairs = s.pairs := rfl
@[simp] theorem State.setLaunch_links (n : Nat) (x : Launch) : (s.setLaunch n x).links = s.links := rfl
@[simp] theorem State.setLaunch_stamped (n : Nat) (x : Launch) : (s.setLaunch n x).stamped = s.stamped := rfl
@[simp] theorem State.setLaunch_pages (n : Nat) (x : Launch) : (s.setLaunch n x).pages = s.pages := rfl
@[simp] theorem State.setLaunch_ldas (n : Nat) (x : Launch) : (s.setLaunch n x).ldas = s.ldas := rfl
@[simp] theorem State.setLaunch_kv (n : Nat) (x : Launch) : (s.setLaunch n x).kv = s.kv := rfl
@[simp] theorem State.setLaunch_images (n : Nat) (x : Launch) : (s.setLaunch n x).images = s.images := rfl
@[simp] theorem State.setLaunch_dev (n : Nat) (x : Launch) : (s.setLaunch n x).dev = s.dev := rfl
@[simp] theorem State.setLaunch_enc (n : Nat) (x : Launch) : (s.setLaunch n x).enc = s.enc := rfl

@[simp] theorem State.modDev_agenda (f : Device → Device) : (s.modDev f).agenda = s.agenda := rfl
@[simp] theorem State.modDev_inputs (f : Device → Device) : (s.modDev f).inputs = s.inputs := rfl
@[simp] theorem State.modDev_inHand (f : Device → Device) : (s.modDev f).inHand = s.inHand := rfl
@[simp] theorem State.modDev_again (f : Device → Device) : (s.modDev f).again = s.again := rfl
@[simp] theorem State.modDev_site (f : Device → Device) : (s.modDev f).site = s.site := rfl
@[simp] theorem State.modDev_ticket (f : Device → Device) : (s.modDev f).ticket = s.ticket := rfl
@[simp] theorem State.modDev_freeCtr (f : Device → Device) : (s.modDev f).freeCtr = s.freeCtr := rfl
@[simp] theorem State.modDev_cyc (f : Device → Device) : (s.modDev f).cyc = s.cyc := rfl
@[simp] theorem State.modDev_now (f : Device → Device) : (s.modDev f).now = s.now := rfl
@[simp] theorem State.modDev_dies (f : Device → Device) : (s.modDev f).dies = s.dies := rfl
@[simp] theorem State.modDev_mem (f : Device → Device) : (s.modDev f).mem = s.mem := rfl
@[simp] theorem State.modDev_banksBusy (f : Device → Device) : (s.modDev f).banksBusy = s.banksBusy := rfl
@[simp] theorem State.modDev_bankLast (f : Device → Device) : (s.modDev f).bankLast = s.bankLast := rfl
@[simp] theorem State.modDev_bankWant (f : Device → Device) : (s.modDev f).bankWant = s.bankWant := rfl
@[simp] theorem State.modDev_bankTried (f : Device → Device) : (s.modDev f).bankTried = s.bankTried := rfl
@[simp] theorem State.modDev_regions (f : Device → Device) : (s.modDev f).regions = s.regions := rfl
@[simp] theorem State.modDev_units (f : Device → Device) : (s.modDev f).units = s.units := rfl
@[simp] theorem State.modDev_notes (f : Device → Device) : (s.modDev f).notes = s.notes := rfl
@[simp] theorem State.modDev_chans (f : Device → Device) : (s.modDev f).chans = s.chans := rfl
@[simp] theorem State.modDev_wires (f : Device → Device) : (s.modDev f).wires = s.wires := rfl
@[simp] theorem State.modDev_rings (f : Device → Device) : (s.modDev f).rings = s.rings := rfl
@[simp] theorem State.modDev_pairs (f : Device → Device) : (s.modDev f).pairs = s.pairs := rfl
@[simp] theorem State.modDev_links (f : Device → Device) : (s.modDev f).links = s.links := rfl
@[simp] theorem State.modDev_stamped (f : Device → Device) : (s.modDev f).stamped = s.stamped := rfl
@[simp] theorem State.modDev_pages (f : Device → Device) : (s.modDev f).pages = s.pages := rfl
@[simp] theorem State.modDev_ldas (f : Device → Device) : (s.modDev f).ldas = s.ldas := rfl
@[simp] theorem State.modDev_kv (f : Device → Device) : (s.modDev f).kv = s.kv := rfl
@[simp] theorem State.modDev_hub (f : Device → Device) : (s.modDev f).hub = s.hub := rfl
@[simp] theorem State.modDev_images (f : Device → Device) : (s.modDev f).images = s.images := rfl
@[simp] theorem State.modDev_enc (f : Device → Device) : (s.modDev f).enc = s.enc := rfl

@[simp] theorem State.modEnc_agenda (f : Enclave → Enclave) : (s.modEnc f).agenda = s.agenda := rfl
@[simp] theorem State.modEnc_inputs (f : Enclave → Enclave) : (s.modEnc f).inputs = s.inputs := rfl
@[simp] theorem State.modEnc_inHand (f : Enclave → Enclave) : (s.modEnc f).inHand = s.inHand := rfl
@[simp] theorem State.modEnc_again (f : Enclave → Enclave) : (s.modEnc f).again = s.again := rfl
@[simp] theorem State.modEnc_site (f : Enclave → Enclave) : (s.modEnc f).site = s.site := rfl
@[simp] theorem State.modEnc_ticket (f : Enclave → Enclave) : (s.modEnc f).ticket = s.ticket := rfl
@[simp] theorem State.modEnc_freeCtr (f : Enclave → Enclave) : (s.modEnc f).freeCtr = s.freeCtr := rfl
@[simp] theorem State.modEnc_cyc (f : Enclave → Enclave) : (s.modEnc f).cyc = s.cyc := rfl
@[simp] theorem State.modEnc_now (f : Enclave → Enclave) : (s.modEnc f).now = s.now := rfl
@[simp] theorem State.modEnc_dies (f : Enclave → Enclave) : (s.modEnc f).dies = s.dies := rfl
@[simp] theorem State.modEnc_mem (f : Enclave → Enclave) : (s.modEnc f).mem = s.mem := rfl
@[simp] theorem State.modEnc_banksBusy (f : Enclave → Enclave) : (s.modEnc f).banksBusy = s.banksBusy := rfl
@[simp] theorem State.modEnc_bankLast (f : Enclave → Enclave) : (s.modEnc f).bankLast = s.bankLast := rfl
@[simp] theorem State.modEnc_bankWant (f : Enclave → Enclave) : (s.modEnc f).bankWant = s.bankWant := rfl
@[simp] theorem State.modEnc_bankTried (f : Enclave → Enclave) : (s.modEnc f).bankTried = s.bankTried := rfl
@[simp] theorem State.modEnc_regions (f : Enclave → Enclave) : (s.modEnc f).regions = s.regions := rfl
@[simp] theorem State.modEnc_units (f : Enclave → Enclave) : (s.modEnc f).units = s.units := rfl
@[simp] theorem State.modEnc_notes (f : Enclave → Enclave) : (s.modEnc f).notes = s.notes := rfl
@[simp] theorem State.modEnc_chans (f : Enclave → Enclave) : (s.modEnc f).chans = s.chans := rfl
@[simp] theorem State.modEnc_wires (f : Enclave → Enclave) : (s.modEnc f).wires = s.wires := rfl
@[simp] theorem State.modEnc_rings (f : Enclave → Enclave) : (s.modEnc f).rings = s.rings := rfl
@[simp] theorem State.modEnc_pairs (f : Enclave → Enclave) : (s.modEnc f).pairs = s.pairs := rfl
@[simp] theorem State.modEnc_links (f : Enclave → Enclave) : (s.modEnc f).links = s.links := rfl
@[simp] theorem State.modEnc_stamped (f : Enclave → Enclave) : (s.modEnc f).stamped = s.stamped := rfl
@[simp] theorem State.modEnc_pages (f : Enclave → Enclave) : (s.modEnc f).pages = s.pages := rfl
@[simp] theorem State.modEnc_ldas (f : Enclave → Enclave) : (s.modEnc f).ldas = s.ldas := rfl
@[simp] theorem State.modEnc_kv (f : Enclave → Enclave) : (s.modEnc f).kv = s.kv := rfl
@[simp] theorem State.modEnc_hub (f : Enclave → Enclave) : (s.modEnc f).hub = s.hub := rfl
@[simp] theorem State.modEnc_images (f : Enclave → Enclave) : (s.modEnc f).images = s.images := rfl
@[simp] theorem State.modEnc_dev (f : Enclave → Enclave) : (s.modEnc f).dev = s.dev := rfl

/-! ## Reads after updates -/

@[simp] theorem State.region_setRegion_same (r : Nat) (R : Region) : (s.setRegion r R).region r = R := Map.get_set_same _ _ _ _
@[simp] theorem State.region_modRegion_same (r : Nat) (f : Region → Region) : (s.modRegion r f).region r = f (s.region r) := Map.get_set_same _ _ _ _
@[simp] theorem State.core_modCore_same (r : Nat) (f : Core → Core) : (s.modCore r f).core r = f (s.core r) := by simp [State.core, State.modCore]
@[simp] theorem State.unit_setUnit_same (u : UnitId) (x : EUnit) : (s.setUnit u x).unit u = x := Map.get_set_same _ _ _ _
@[simp] theorem State.unit_modUnit_same (u : UnitId) (f : EUnit → EUnit) : (s.modUnit u f).unit u = f (s.unit u) := Map.get_set_same _ _ _ _
@[simp] theorem State.chan_modChan_same (k : Sink) (f : Chan → Chan) : (s.modChan k f).chan k = f (s.chan k) := Map.get_set_same _ _ _ _
@[simp] theorem State.die_modDie_same (d : Nat) (f : DieTime → DieTime) : (s.modDie d f).die d = f (s.die d) := Map.get_set_same _ _ _ _
@[simp] theorem State.link_modLink_same (l : Nat) (f : Link → Link) : (s.modLink l f).link l = f (s.link l) := Map.get_set_same _ _ _ _
@[simp] theorem State.pair_setPair_same (p : Nat) (x : Pair) : (s.setPair p x).pair? p = some x := Map.get?_set_same _ _ _
@[simp] theorem State.ring_setRing_same (c : CellId) (n : Nat) (x : Ring) : (s.setRing c n x).ring? c n = some x := Map.get?_set_same _ _ _
@[simp] theorem State.handle_setHandle_same (r h : Nat) (x : Handle) : (s.setHandle r h x).handle r h = x := by simp [State.handle, State.setHandle]
@[simp] theorem State.slot_setSlot_same (n : Nat) (x : Slot) : (s.setSlot n x).slot n = x := Map.get_set_same _ _ _ _
@[simp] theorem State.launch_setLaunch_same (n : Nat) (x : Launch) : (s.setLaunch n x).launch? n = some x := Map.get?_set_same _ _ _
theorem State.region_setRegion_other {r q : Nat} (h : q ≠ r) (R : Region) : (s.setRegion r R).region q = s.region q := Map.get_set_other _ h _ _
theorem State.region_modRegion_other {r q : Nat} (h : q ≠ r) (f : Region → Region) : (s.modRegion r f).region q = s.region q := Map.get_set_other _ h _ _
theorem State.core_modCore_other {r q : Nat} (h : q ≠ r) (f : Core → Core) : (s.modCore r f).core q = s.core q := by rw [State.core, State.modCore, State.region_modRegion_other s h]; rfl
theorem State.unit_setUnit_other {u v : UnitId} (h : v ≠ u) (x : EUnit) : (s.setUnit u x).unit v = s.unit v := Map.get_set_other _ h _ _
theorem State.unit_modUnit_other {u v : UnitId} (h : v ≠ u) (f : EUnit → EUnit) : (s.modUnit u f).unit v = s.unit v := Map.get_set_other _ h _ _
theorem State.chan_modChan_other {k j : Sink} (h : j ≠ k) (f : Chan → Chan) : (s.modChan k f).chan j = s.chan j := Map.get_set_other _ h _ _
theorem State.die_modDie_other {d e : Nat} (h : e ≠ d) (f : DieTime → DieTime) : (s.modDie d f).die e = s.die e := Map.get_set_other _ h _ _

/-- A region is found where it is, after an update of it or of another. -/
theorem State.region_modRegion (r q : Nat) (f : Region → Region) :
    (s.modRegion r f).region q = if q = r then f (s.region r) else s.region q := by
  by_cases h : q = r
  · subst h; simp
  · simp [State.region_modRegion_other s h, h]

/-- So is an element. -/
theorem State.unit_modUnit (u v : UnitId) (f : EUnit → EUnit) :
    (s.modUnit u f).unit v = if v = u then f (s.unit u) else s.unit v := by
  by_cases h : v = u
  · subst h; simp
  · simp [State.unit_modUnit_other s h, h]

/-- g0 reads 0 and is never poisoned (R256); a write to it is discarded. -/
theorem Core.read_zero (k : Core) : (k.read 0).val = 0 := by simp [Core.read]

theorem Core.write_zero (k : Core) (v : Word) (p : Bool) : k.write 0 v p = k := by simp [Core.write]

end Sys2Proof.Machine
end

