-- ==== Sys2Proof/Laws/Ops.lean ====
section
/-! SUPPORT. What the shared operations can do: none touches the agenda, each keeps memory in canonical form, and most leave
memory as it is; taking an exception, windows, places and arrivals are inverted here once. -/

namespace Sys2Proof.Machine

/-- The agenda is as before, and memory stays in canonical form. -/
def Tame (s t : State) : Prop := t.agenda = s.agenda ∧ (s.mem.wf = true → t.mem.wf = true)

/-- Memory and the agenda are as before. -/
def Still (s t : State) : Prop := t.agenda = s.agenda ∧ t.mem = s.mem

theorem Still.refl (s : State) : Still s s := ⟨rfl, rfl⟩
theorem Still.trans {s t u : State} (h : Still s t) (k : Still t u) : Still s u := ⟨k.1.trans h.1, k.2.trans h.2⟩
theorem Still.tame {s t : State} (h : Still s t) : Tame s t := ⟨h.1, fun w => h.2 ▸ w⟩
theorem Tame.refl (s : State) : Tame s s := ⟨rfl, id⟩
theorem Tame.trans {s t u : State} (h : Tame s t) (k : Tame t u) : Tame s u := ⟨k.1.trans h.1, fun w => k.2 (h.2 w)⟩

theorem Still.foldl {α : Type} {f : State → α → State} (hf : ∀ s x, Still s (f s x)) (l : List α) (s : State) :
    Still s (l.foldl f s) := by
  induction l generalizing s with
  | nil => exact .refl s
  | cons x l ih => exact (hf s x).trans (ih _)

theorem Tame.foldl {α : Type} {f : State → α → State} (hf : ∀ s x, Tame s (f s x)) (l : List α) (s : State) :
    Tame s (l.foldl f s) := by
  induction l generalizing s with
  | nil => exact .refl s
  | cons x l ih => exact (hf s x).trans (ih _)

/-! ## Counts, causes, channels -/

variable (s : State)

theorem State.countEvent_still (r ev : Nat) (tag : Byte) (n : Nat) : Still s (s.countEvent r ev tag n) :=
  Still.foldl (fun s e => by dsimp only; split <;> exact ⟨rfl, rfl⟩) _ s

theorem State.raise_still (r : Nat) (c : Async) (v : Word) : Still s (s.raise r c v) := by
  unfold State.raise; split <;> exact ⟨rfl, rfl⟩

theorem State.raiseDie_still (d : Nat) (c : Async) (v : Word) : Still s (s.raiseDie d c v) :=
  Still.foldl (fun s r => by split <;> [exact State.raise_still s _ _ _; exact .refl s]) _ s

/-- A raised cause touches the regions alone. -/
theorem State.raise_units (r : Nat) (c : Async) (v : Word) : (s.raise r c v).units = s.units := by
  unfold State.raise; split <;> rfl

/-- A cause recorded at an element (R190): the first one fills EFAULT; a later one sets `more` alone. -/
theorem State.recordFault_unit (u : UnitId) (cause : Byte) (word ctx : Nat) (chan : Option Nat) (sb : BitVec 14) (flags : BitVec 6)
    (h : (s.unit u).faultTick ≤ s.ticket) :
    ((s.recordFault u cause word ctx chan sb flags).unit u).efault =
      if (s.unit u).stopped then setBit (s.unit u).efault 62 true
      else efaultWord cause word ctx (s.region u.region).tag chan sb flags := by
  unfold State.recordFault State.recordFaultOf
  dsimp only
  split
  · have hn : ¬ s.ticket < (s.unit u).faultTick := by omega
    simp [hn]
  · rw [State.unit, State.raise_units]; exact congrArg EUnit.efault (Map.get_set_same _ _ _ _)

theorem State.recordFaultOf_still (u : UnitId) (tick : Nat) (cause : Byte) (word ctx : Nat) (chan : Option Nat) (sb : BitVec 14)
    (flags : BitVec 6) : Still s (s.recordFaultOf u tick cause word ctx chan sb flags) := by
  unfold State.recordFaultOf
  dsimp only
  split
  · split <;> exact ⟨rfl, rfl⟩
  · exact Still.trans (t := { s.setUnit u _ with ticket := _ }) ⟨rfl, rfl⟩ (State.raise_still _ _ _ _)

theorem State.recordFault_still (u : UnitId) (cause : Byte) (word ctx : Nat) (chan : Option Nat) (sb : BitVec 14) (flags : BitVec 6) :
    Still s (s.recordFault u cause word ctx chan sb flags) := State.recordFaultOf_still s _ _ _ _ _ _ _ _

theorem State.reserve_still (u : UnitId) (o tick : Nat) : Still s (s.reserve u o tick) := by
  refine Still.foldl ?_ _ s
  intro s k; exact ⟨rfl, rfl⟩

theorem State.release_still (u : UnitId) (o tick : Nat) : Still s (s.release u o tick) :=
  Still.foldl (fun s k => by cases k <;> exact ⟨rfl, rfl⟩) _ s

theorem State.countKill_still (r : Nat) (w : Word) : Still s (s.countKill r w) := by
  unfold State.countKill; dsimp only; split <;> exact ⟨rfl, rfl⟩

theorem State.checkHeader_still (r : Nat) (t : Tok) : Still s (s.checkHeader r t).1 := by
  unfold State.checkHeader
  split
  · exact .refl s
  · split
    · exact .refl s
    · split
      · dsimp only; split <;> [exact State.countKill_still s _ _; exact .refl s]
      · exact .refl s

theorem State.leaves_still (u : UnitId) (k : Sink) (t : Tok) : Still s (s.leaves u k t) := by
  unfold State.leaves
  split
  · exact ⟨rfl, rfl⟩
  · split
    · exact .refl s
    · split
      · exact ⟨rfl, rfl⟩
      · exact Still.trans (t := s.stir _) ⟨rfl, rfl⟩ (State.countEvent_still _ _ _ _ _)

theorem State.placeRaw_still (u : UnitId) (o tick : Nat) (t : Tok) : Still s (s.placeRaw u o tick t) :=
  Still.foldl (fun s k => Still.trans (t := s.modChan k _) ⟨rfl, rfl⟩ (State.leaves_still _ _ _ _)) _ s

theorem State.place_still (u : UnitId) (o tick : Nat) (t : Tok) : Still s (s.place u o tick t) := by
  unfold State.place
  have h := (State.checkHeader_still s u.region (t.madeBy u tick)).trans (State.placeRaw_still _ u o tick (s.checkHeader u.region (t.madeBy u tick)).2)
  dsimp only
  split
  · exact h.trans ⟨rfl, rfl⟩
  · exact h

theorem State.placeMark_still (u : UnitId) (o tick : Nat) : Still s (s.placeMark u o tick) :=
  Still.foldl (fun s k => Still.trans (t := s.modChan k _) ⟨rfl, rfl⟩ (State.leaves_still _ _ _ _)) _ s

theorem State.arrive_still (u : UnitId) (i : Nat) (t : Tok) : Still s (s.arrive u i t) := by
  unfold State.arrive
  dsimp only
  split <;> split <;> (try exact ⟨rfl, rfl⟩) <;> split <;> (try exact ⟨rfl, rfl⟩) <;> split <;> exact ⟨rfl, rfl⟩

/-! ## The core -/

theorem State.retire_still (r : Nat) (d : BitVec 5) (v : Word) : Still s (s.retire r d v) := ⟨rfl, rfl⟩
theorem State.advance_still (r : Nat) : Still s (s.advance r) := ⟨rfl, rfl⟩

/-- An ordinary instruction (R258): PC + 4, nothing stalled. -/
theorem State.retire_pc (r : Nat) (d : BitVec 5) (v : Word) :
    ((s.retire r d v).core r).pc = (s.core r).pc + 4 ∧ ((s.retire r d v).core r).stall = none := by
  rw [State.retire, State.core_modCore_same]
  unfold Core.step4 Core.write
  refine ⟨?_, rfl⟩
  split <;> [rfl; (split <;> rfl)]

/-- A payload on its way takes a free value at most. -/
theorem State.carried_spec (die a : Nat) (p : Bool) :
    (s.carried die a p).2.mem = s.mem ∧ (s.carried die a p).2.agenda = s.agenda ∧ (s.carried die a p).2.regions = s.regions := by
  unfold State.carried
  split <;> exact ⟨rfl, rfl, rfl⟩

/-- Where no link is crossed, a payload is as it was and no free value is taken. -/
theorem State.carried_home {die a : Nat} (h : remoteRoute die a = []) (p : Bool) : s.carried die a p = (p, s) := by
  unfold State.carried; rw [h]; rfl

theorem State.performStore_spec (r : Nat) (c : CoreStore) :
    Tame s (s.performStore r c) ∧ (s.performStore r c).regions = s.regions :=
  have h := s.carried_spec (regionDie r) c.addr c.poison
  ⟨⟨h.2.1, fun w => Memory.wf_store (h.1 ▸ w) _ _ _ _⟩, h.2.2⟩

theorem State.performStore_tame (r : Nat) (c : CoreStore) : Tame s (s.performStore r c) := (s.performStore_spec r c).1

theorem State.writeTarget_tame (t : Target) (n : Nat) (v : Word) (p : Bool) : Tame s (s.writeTarget t n v p) := by
  cases t
  · exact ⟨rfl, fun h => Memory.wf_store h _ _ _ _⟩
  · exact .refl s

theorem State.writeTarget_regions (t : Target) (n : Nat) (v : Word) (p : Bool) : (s.writeTarget t n v p).regions = s.regions := by
  cases t <;> rfl

theorem State.coreWrite_spec (r : Nat) (t : Target) (v : Word) (p : Bool) :
    Tame s (s.coreWrite r t v p) ∧ (s.coreWrite r t v p).regions = s.regions := by
  unfold State.coreWrite
  split
  · dsimp only [State.takeFree]
    split
    · exact ⟨Tame.trans (t := { s with freeCtr := s.freeCtr + 1 }) ⟨rfl, id⟩ (State.writeTarget_tame _ _ _ _ _),
        State.writeTarget_regions _ _ _ _ _⟩
    · exact ⟨⟨rfl, id⟩, rfl⟩
  · have h := s.carried_spec (regionDie r) t.addr p
    exact ⟨Tame.trans ⟨h.2.1, fun w => h.1 ▸ w⟩ (State.writeTarget_tame _ _ _ _ _), (State.writeTarget_regions _ _ _ _ _).trans h.2.2⟩

theorem State.count_still (r num n : Nat) : Still s (s.count r num n) := ⟨rfl, rfl⟩

/-- A count changes no register of a core. -/
theorem State.core_count (r num n q : Nat) : (s.count r num n).core q = s.core q := by
  unfold State.count State.modRegion State.core State.region State.setRegion
  by_cases h : r = q
  · subst h; simp [Map.get_set_same]
  · simp [Map.get_set_other _ (Ne.symm h)]

theorem State.takeBank_spec (a who : Nat) : Still s (s.takeBank a who) ∧ (s.takeBank a who).regions = s.regions := by
  unfold State.takeBank; split <;> exact ⟨⟨rfl, rfl⟩, rfl⟩

theorem State.bankLost_spec (a who : Nat) : Still s (s.bankLost a who) ∧ ∀ q, (s.bankLost a who).core q = s.core q := by
  have cnt : ∀ (t : State), Still s t → t.regions = s.regions → ∀ x n,
      Still s (t.count x n 1) ∧ ∀ q, (t.count x n 1).core q = s.core q := fun t ht hr x n =>
    ⟨ht.trans (State.count_still _ _ _ _), fun q => (State.core_count _ _ _ _ _).trans (by simp [State.core, State.region, hr])⟩
  unfold State.bankLost
  cases bankOf a <;> dsimp only <;> split <;> (try split)
  all_goals first
    | exact cnt _ ⟨rfl, rfl⟩ rfl _ _
    | exact ⟨⟨rfl, rfl⟩, fun _ => rfl⟩

/-- The spill engine's banks touch no memory and no core. -/
theorem State.spillBanks_spec (ts : List Target) : Still s (s.spillBanks ts) ∧ ∀ q, (s.spillBanks ts).core q = s.core q := by
  unfold State.spillBanks
  generalize frameLines ts = l
  induction l generalizing s with
  | nil => exact ⟨.refl s, fun _ => rfl⟩
  | cons x l ih =>
    exact ⟨(State.takeBank_spec s x 4).1.trans (ih _).1, fun q => ((ih _).2 q).trans
      (by simp [State.core, State.region, (State.takeBank_spec s x 4).2])⟩

theorem State.spillFrame_spec (r w : Nat) (ts : List Target) :
    Tame s (s.spillFrame r w ts) ∧ ∀ q, (s.spillFrame r w ts).core q = s.core q := by
  unfold State.spillFrame
  dsimp only
  have h := s.spillBanks_spec ts
  generalize ts.zipIdx = l, s.core r = k at *
  generalize s.spillBanks ts = t at *
  have key : ∀ t : State, Tame t (l.foldl (fun s x => s.coreWrite r x.1 (k.p.get (frameReg w x.2)).val (k.p.get (frameReg w x.2)).bad) t) ∧
      (l.foldl (fun s x => s.coreWrite r x.1 (k.p.get (frameReg w x.2)).val (k.p.get (frameReg w x.2)).bad) t).regions = t.regions := by
    intro t
    induction l generalizing t with
    | nil => exact ⟨.refl t, rfl⟩
    | cons x l ih =>
      have hx := t.coreWrite_spec r x.1 (k.p.get (frameReg w x.2)).val (k.p.get (frameReg w x.2)).bad
      exact ⟨hx.1.trans (ih _).1, (ih _).2.trans hx.2⟩
  exact ⟨h.1.tame.trans (key t).1, fun q => by
    have := (key t).2
    simp only [State.core, State.region] at *
    rw [this]; exact h.2 q⟩

/-- A window opened (R261): the window pointer rises by 16; a frame is spilled first where no slot is free. -/
theorem State.openWindow_ok {s t : State} {r : Nat} {e : Bool} (h : s.openWindow r e = .ok t) :
    Tame s t ∧ (t.core r).wptr = (s.core r).wptr + 16 ∧ (t.core r).pc = (s.core r).pc ∧
      ((s.core r).wptr + 40 ≤ (s.core r).wbot + 128 → t = s.modCore r (fun k => { k with wptr := k.wptr + 16 })) := by
  unfold State.openWindow at h
  dsimp only at h
  split at h
  · cases h; exact ⟨⟨rfl, id⟩, by simp, by simp, fun _ => rfl⟩
  · next hroom =>
    split at h
    · cases h
    · split at h
      · cases h
      · split at h
        · cases h
        · next a _ =>
          split at h
          · cases h
          · cases h
            have hf := s.spillFrame_spec r (s.core r).wbot a
            refine ⟨hf.1.trans ⟨rfl, id⟩, ?_, ?_, fun hh => absurd hh hroom⟩ <;>
              (rw [State.core_modCore_same]; simp [hf.2])

theorem State.closeWindow_tame {s t : State} {r : Nat} (h : s.closeWindow r = .ok t) : Tame s t := by
  unfold State.closeWindow at h
  dsimp only at h
  split at h
  · cases h
  · split at h
    · split at h
      · cases h
      · split at h
        · cases h
        · cases h
        · cases h
          exact (State.spillBanks_spec _ _).1.tame.trans ⟨rfl, id⟩
    · cases h; exact ⟨rfl, id⟩

theorem State.beginFreeze_still (r area kind : Nat) : Still s (s.beginFreeze r area kind) :=
  ⟨rfl, rfl⟩

theorem State.doubleFault_still (r : Nat) : Still s (s.doubleFault r) := by
  unfold State.doubleFault; dsimp only; split <;> exact ⟨rfl, rfl⟩

/-- A window move that waits counts the banks it lost and leaves all else for the next cycle. -/
theorem State.windowLater_tame (r : Nat) (lost : List Nat) : Tame s (s.windowLater r lost) :=
  Tame.trans (t := lost.foldl (fun s a => s.bankLost a 4) s)
    (Tame.foldl (fun s a => (State.bankLost_spec s a 4).1.tame) _ s) ⟨rfl, id⟩

theorem State.enterTrap_tame (r : Nat) (cause sub : Byte) (eval epc : Word) (wcut async : Bool) :
    Tame s (s.enterTrap r cause sub eval epc wcut async) := by
  unfold State.enterTrap
  dsimp only
  have entered : Tame s (s.modCore r (fun k => k.trapped cause sub eval epc wcut async)) := ⟨rfl, id⟩
  split
  · exact State.windowLater_tame s r _
  · exact State.windowLater_tame s r _
  · exact entered.trans (State.doubleFault_still _ r).tame
  · next t h => exact entered.trans ((State.openWindow_ok h).1.trans ⟨rfl, id⟩)

theorem State.trapSync_tame (r : Nat) (cause sub : Byte) (eval epc : Word) : Tame s (s.trapSync r cause sub eval epc) := by
  unfold State.trapSync
  split
  · exact (State.doubleFault_still s r).tame
  · exact State.enterTrap_tame s _ _ _ _ _ _ _

theorem State.trapHere_tame (r : Nat) (cause : Byte) (eval : Word) : Tame s (s.trapHere r cause eval) := State.trapSync_tame s _ _ _ _ _

theorem State.windowTrap_tame (r : Nat) (f : WinFail) : Tame s (s.windowTrap r f) := by
  cases f
  · exact State.trapSync_tame s _ _ _ _ _
  · exact State.trapSync_tame s _ _ _ _ _
  · exact (State.doubleFault_still s r).tame
  · exact State.windowLater_tame s r _
  · exact State.windowLater_tame s r _

theorem State.takeAsync_tame (r : Nat) : Tame s (s.takeAsync r) := by
  unfold State.takeAsync
  dsimp only
  split
  · exact .refl s
  · split
    · exact .refl s
    · exact Tame.trans (t := s.modCore r _) ⟨rfl, id⟩ (State.enterTrap_tame _ _ _ _ _ _ _ _)

theorem State.transfer_tame {s new : State} (h : Tame s new) (r : Nat) (target : Word) : Tame s (s.transfer new r target) := by
  unfold State.transfer
  split
  · exact h.trans ⟨rfl, id⟩
  · exact State.trapHere_tame s _ _ _

theorem State.exitTrap_tame (r : Nat) : Tame s (s.exitTrap r) := by
  unfold State.exitTrap
  dsimp only
  split
  · exact State.windowTrap_tame s _ _
  · next t h =>
    split
    · exact (State.closeWindow_tame h).trans (Tame.trans (t := t.modCore r _) ⟨rfl, id⟩ (State.takeAsync_tame _ _))
    · exact State.trapHere_tame s _ _ _

/-! ## Memory at ports -/

theorem putVer_wf {m : Memory} (h : m.wf = true) (base line : Nat) (v : Ver) : (putVer m base line v).wf = true :=
  Memory.wf_writeNat (Memory.wf_writeNat h _ _ _) _ _ _

theorem copySlot_wf {m : Memory} (h : m.wf = true) (a b : Nat) : (copySlot m a b).wf = true :=
  Memory.wf_foldl (fun _ _ h => Memory.wf_store h _ _ _ _) _ h

theorem inheritWord_wf {m : Memory} (h : m.wf = true) (base line k : Nat) (x : Word) (p : Bool) (kept : List Ver) (new : Ver) :
    (inheritWord m base line k x p kept new).wf = true :=
  Memory.wf_foldl (fun _ _ h => by split <;> [exact Memory.wf_store h _ _ _ _; exact h]) _ h

/-- An installed version (R298) keeps memory canonical. -/
theorem install_wf {m : Memory} (h : m.wf = true) (base line k : Nat) (x : Word) (p : Bool) (stamp : Nat) (sys : Bool) (die devid : Nat) :
    (install m base line k x p stamp sys die devid).wf = true := by
  unfold install
  dsimp only
  split
  · exact putVer_wf (inheritWord_wf (Memory.wf_store (copySlot_wf h _ _) _ _ _ _) _ _ _ _ _ _ _) _ _ _
  · split
    · exact h
    · split
      · exact Memory.wf_writeNat (inheritWord_wf h _ _ _ _ _ _ _) _ _ _
      · exact Memory.wf_writeNat (putVer_wf (inheritWord_wf (Memory.wf_store (copySlot_wf h _ _) _ _ _ _) _ _ _ _ _ _ _) _ _ _) _ _ _

/-! ## Reset -/

theorem reset_memory_wf : State.reset.mem.wf = true := rfl
theorem reset_agenda : State.reset.agenda = [] := rfl

end Sys2Proof.Machine
end

