-- ==== Sys2Proof/Laws/Firing.lean ====
section
/-! SUPPORT. What a firing's note and a walk can do: notes stand beside the machine, and a walk writes trace records alone. -/

namespace Sys2Proof.Machine

variable (s : State)

/-- Noting what is not met touches the notes alone. -/
@[simp] theorem State.noteUnmet_mem : s.noteUnmet.mem = s.mem := rfl
@[simp] theorem State.noteUnmet_agenda : s.noteUnmet.agenda = s.agenda := rfl
@[simp] theorem State.noteUnmet_regions : s.noteUnmet.regions = s.regions := rfl
@[simp] theorem State.noteUnmet_units : s.noteUnmet.units = s.units := rfl
@[simp] theorem State.noteUnmet_chans : s.noteUnmet.chans = s.chans := rfl

/-- An element holds at most 64 notes. -/
theorem Notes.push_held_length (n : Notes) (slot : Nat) (f : FNote) : (n.push slot f).held.length ≤ 64 := by
  simp [Notes.push]

/-- A walk adds records to its region's trace: notes, elements, channels and memory stay. -/
theorem State.startWalk_frame (u : UnitId) (n : FNote) : (s.startWalk u n).notes = s.notes ∧ (s.startWalk u n).units = s.units ∧
    (s.startWalk u n).chans = s.chans ∧ (s.startWalk u n).mem = s.mem ∧ (s.startWalk u n).agenda = s.agenda := by
  unfold State.startWalk
  dsimp only
  split <;> exact ⟨rfl, rfl, rfl, rfl, rfl⟩

/-- A firing's note changes no element, no channel, no memory and no turn. -/
theorem State.traceFiring_frame (u : UnitId) (slot ctx : Nat) :
    (s.traceFiring u slot ctx).units = s.units ∧ (s.traceFiring u slot ctx).chans = s.chans ∧
    (s.traceFiring u slot ctx).mem = s.mem ∧ (s.traceFiring u slot ctx).agenda = s.agenda := by
  unfold State.traceFiring
  split
  · exact ⟨rfl, rfl, rfl, rfl⟩
  · split
    · exact ⟨rfl, rfl, rfl, rfl⟩
    · exact (State.startWalk_frame _ _ _).2

theorem State.traceFiring_still (u : UnitId) (slot ctx : Nat) : Still s (s.traceFiring u slot ctx) :=
  ⟨(s.traceFiring_frame u slot ctx).2.2.2, (s.traceFiring_frame u slot ctx).2.2.1⟩

/-- A node record's words, its fields in range (R388). -/
theorem nodeRecord_words (r wid d last fin node : Nat) (w : Word) (hd : d < 64) (hl : last < 8) (hf : fin < 8) (hn : node < 2 ^ 16) :
    nodeRecord r wid d last fin node w = [BitVec.ofNat 64 (2 * 2 ^ 60 + r * 2 ^ 53 + wid % 256 * 2 ^ 45 + d * 2 ^ 39 +
      last * 2 ^ 36 + fin * 2 ^ 33 + node * 2 ^ 17), w] := by
  simp only [nodeRecord, traceWord]
  congr 2
  omega

/-- A token that names its producer keeps it when it is placed; else the placing firing is named (R390). -/
@[simp] theorem Tok.madeBy_outside (t : Tok) (u : UnitId) (tick : Nat) (h : t.origin = .outside) :
    t.madeBy u tick = { t with origin := .firing u tick } := if_pos h
@[simp] theorem Tok.madeBy_named (t : Tok) (u : UnitId) (tick : Nat) (h : t.origin ≠ .outside) : t.madeBy u tick = t := if_neg h

end Sys2Proof.Machine
end

