-- ==== Sys2Proof/Tests/Slice0.lean ====
section
/-! SUPPORT. The model's own tests: words written out from the spec's encodings decode to what they stand for; ill-formed terms are
refused; for each statement a state that meets its hypotheses; and single steps whose results a worked example of the spec gives. -/

open Sys2Proof Sys2Proof.Machine
namespace Sys2Proof.Machine.Tests
set_option Elab.async false

/-- The trigger of the words below: context 2, predicate p5 required true. -/
def tr : Trig := ⟨2, 5, true⟩

/-! Each word below is its opcode's match bits in spec/opcode_table.json with the fields at values that differ from one
another, laid by the table's bit ranges (R73-R90), not by the encoder. -/

theorem test_e_words_0 :
  decodeE 0xAC03978C = .ok (.mov tr (.out 6) (.take 3) (.to 4)) ∧
  decodeE 0xAC0B975C = .ok (.add tr (.out 6) (.take 3) (.keep 5) (.to 4)) ∧
  decodeE 0xAC13975C = .ok (.sub tr (.out 6) (.take 3) (.keep 5) (.to 4)) ∧
  decodeE 0xAC1B975C = .ok (.mul tr (.out 6) (.take 3) (.keep 5) (.to 4)) ∧
  decodeE 0xAC23975C = .ok (.mulhs tr (.out 6) (.take 3) (.keep 5) (.to 4)) ∧
  decodeE 0xAC2B975C = .ok (.mulhu tr (.out 6) (.take 3) (.keep 5) (.to 4)) ∧
  decodeE 0xAC33975C = .ok (.and tr (.out 6) (.take 3) (.keep 5) (.to 4)) ∧
  decodeE 0xAC3B975C = .ok (.or tr (.out 6) (.take 3) (.keep 5) (.to 4)) ∧
  decodeE 0xAC43975C = .ok (.xor tr (.out 6) (.take 3) (.keep 5) (.to 4)) ∧
  decodeE 0xAC4B975C = .ok (.andn tr (.out 6) (.take 3) (.keep 5) (.to 4)) ∧
  decodeE 0xAC53975C = .ok (.shl tr (.out 6) (.take 3) (.keep 5) (.to 4)) ∧
  decodeE 0xAC5B975C = .ok (.shr tr (.out 6) (.take 3) (.keep 5) (.to 4)) ∧
  decodeE 0xAC63975C = .ok (.sar tr (.out 6) (.take 3) (.keep 5) (.to 4)) ∧
  decodeE 0xAC6B975C = .ok (.min tr (.out 6) (.take 3) (.keep 5) (.to 4)) ∧
  decodeE 0xAC73975C = .ok (.max tr (.out 6) (.take 3) (.keep 5) (.to 4)) ∧
  decodeE 0xAC7B975C = .ok (.minu tr (.out 6) (.take 3) (.keep 5) (.to 4)) ∧
  decodeE 0xAC83975C = .ok (.maxu tr (.out 6) (.take 3) (.keep 5) (.to 4)) ∧
  decodeE 0xAC8B975C = .ok (.adds tr (.out 6) (.take 3) (.keep 5) (.to 4)) ∧
  decodeE 0xAC93975C = .ok (.subs tr (.out 6) (.take 3) (.keep 5) (.to 4)) ∧
  decodeE 0xAC9B978C = .ok (.clz tr (.out 6) (.take 3) (.to 4)) := by decide +kernel

theorem test_e_words_1 :
  decodeE 0xACA3978C = .ok (.popc tr (.out 6) (.take 3) (.to 4)) ∧
  decodeE 0xACAB962C = .ok (.sext tr (.out 6) (.take 3) .n32 (.to 4)) ∧
  decodeE 0xACB3962C = .ok (.zext tr (.out 6) (.take 3) .n32 (.to 4)) ∧
  decodeE 0xACC3975C = .ok (.ceq tr (.out 6) (.take 3) (.keep 5) (.to 4)) ∧
  decodeE 0xACCB975C = .ok (.cne tr (.out 6) (.take 3) (.keep 5) (.to 4)) ∧
  decodeE 0xACD3975C = .ok (.clt tr (.out 6) (.take 3) (.keep 5) (.to 4)) ∧
  decodeE 0xACDB975C = .ok (.cle tr (.out 6) (.take 3) (.keep 5) (.to 4)) ∧
  decodeE 0xACE3975C = .ok (.cltu tr (.out 6) (.take 3) (.keep 5) (.to 4)) ∧
  decodeE 0xACEB975C = .ok (.cleu tr (.out 6) (.take 3) (.keep 5) (.to 4)) ∧
  decodeE 0xACF3975C = .ok (.ctst tr (.out 6) (.take 3) (.keep 5) (.to 4)) ∧
  decodeE 0xAD039755 = .ok (.addi tr (.out 6) (.take 3) 0x155) ∧
  decodeE 0xAD0B9755 = .ok (.andi tr (.out 6) (.take 3) 0x155) ∧
  decodeE 0xAD139755 = .ok (.ori tr (.out 6) (.take 3) 0x155) ∧
  decodeE 0xAD1B9755 = .ok (.xori tr (.out 6) (.take 3) 0x155) ∧
  decodeE 0xAD23962D = .ok (.shli tr (.out 6) (.take 3) 0x2D) ∧
  decodeE 0xAD2B962D = .ok (.shri tr (.out 6) (.take 3) 0x2D) ∧
  decodeE 0xAD33962D = .ok (.sari tr (.out 6) (.take 3) 0x2D) ∧
  decodeE 0xAD399755 = .ok (.ceqi tr 6 (.take 3) 0x155) ∧
  decodeE 0xAD419755 = .ok (.clti tr 6 (.take 3) 0x155) ∧
  decodeE 0xAD499755 = .ok (.cltui tr 6 (.take 3) 0x155) := by decide +kernel

theorem test_e_words_2 :
  decodeE 0xAD63AA5D = .ok (.movi tr (.out 6) 0x2A5D) ∧
  decodeE 0xAD6DAA5D = .ok (.shin tr ⟨6, true⟩ 0x2A5D) ∧
  decodeE 0xAD83975C = .ok (.faddS tr (.out 6) (.take 3) (.keep 5) (.to 4)) ∧
  decodeE 0xAD8B975C = .ok (.fsubS tr (.out 6) (.take 3) (.keep 5) (.to 4)) ∧
  decodeE 0xAD93975C = .ok (.fmulS tr (.out 6) (.take 3) (.keep 5) (.to 4)) ∧
  decodeE 0xAD9D975C = .ok (.fmacS tr ⟨6, true⟩ (.take 3) (.keep 5) (.to 4)) ∧
  decodeE 0xADA3975C = .ok (.fminS tr (.out 6) (.take 3) (.keep 5) (.to 4)) ∧
  decodeE 0xADAB975C = .ok (.fmaxS tr (.out 6) (.take 3) (.keep 5) (.to 4)) ∧
  decodeE 0xADB3978C = .ok (.frsqeS tr (.out 6) (.take 3) (.to 4)) ∧
  decodeE 0xADBB978C = .ok (.frcpeS tr (.out 6) (.take 3) (.to 4)) ∧
  decodeE 0xADC3975C = .ok (.fceqS tr (.out 6) (.take 3) (.keep 5) (.to 4)) ∧
  decodeE 0xADCB975C = .ok (.fcltS tr (.out 6) (.take 3) (.keep 5) (.to 4)) ∧
  decodeE 0xADD3975C = .ok (.fcleS tr (.out 6) (.take 3) (.keep 5) (.to 4)) ∧
  decodeE 0xADDB975C = .ok (.fcunS tr (.out 6) (.take 3) (.keep 5) (.to 4)) ∧
  decodeE 0xAE03975C = .ok (.faddD tr (.out 6) (.take 3) (.keep 5) (.to 4)) ∧
  decodeE 0xAE0B975C = .ok (.fsubD tr (.out 6) (.take 3) (.keep 5) (.to 4)) ∧
  decodeE 0xAE13975C = .ok (.fmulD tr (.out 6) (.take 3) (.keep 5) (.to 4)) ∧
  decodeE 0xAE1D975C = .ok (.fmacD tr ⟨6, true⟩ (.take 3) (.keep 5) (.to 4)) ∧
  decodeE 0xAE23975C = .ok (.fminD tr (.out 6) (.take 3) (.keep 5) (.to 4)) ∧
  decodeE 0xAE2B975C = .ok (.fmaxD tr (.out 6) (.take 3) (.keep 5) (.to 4)) := by decide +kernel

theorem test_e_words_3 :
  decodeE 0xAE33975C = .ok (.fceqD tr (.out 6) (.take 3) (.keep 5) (.to 4)) ∧
  decodeE 0xAE3B975C = .ok (.fcltD tr (.out 6) (.take 3) (.keep 5) (.to 4)) ∧
  decodeE 0xAE43975C = .ok (.fcleD tr (.out 6) (.take 3) (.keep 5) (.to 4)) ∧
  decodeE 0xAE4B975C = .ok (.fcunD tr (.out 6) (.take 3) (.keep 5) (.to 4)) ∧
  decodeE 0xAE839750 = .ok (.steer tr 3 (.take 3) (.keep 5)) ∧
  decodeE 0xAE8B96DE = .ok (.mergec tr (.out 6) 3 5 6) ∧
  decodeE 0xAE939780 = .ok (.dup tr 3 (.take 3)) ∧
  decodeE 0xAE9B9750 = .ok (.gate tr (.out 6) (.take 3) (.keep 5)) ∧
  decodeE 0xAEA39750 = .ok (.join tr (.out 6) (.take 3) (.keep 5)) ∧
  decodeE 0xAEABA78C = .ok (.kind tr (.out 6) 3 true (.to 4)) ∧
  decodeE 0xAEB3AA5D = .ok (.marki tr 6 0x2A5D) ∧
  decodeE 0xAEBB9780 = .ok (.emitd tr 6 (.take 3)) ∧
  decodeE 0xAF03966B = .ok (.ld tr (.out 6) (.take 3) .w true (.ordered .pkg)) ∧
  decodeE 0xAF0B9754 = .ok (.ldas tr (.out 6) (.take 3) (.keep 5) true) ∧
  decodeE 0xAF23975B = .ok (.st tr (.out 6) (.take 3) (.keep 5) (.ordered .pkg)) ∧
  decodeE 0xAF2B975B = .ok (.stw tr (.out 6) (.take 3) (.keep 5) (.ordered .pkg)) ∧
  decodeE 0xAF33975B = .ok (.sth tr (.out 6) (.take 3) (.keep 5) (.ordered .pkg)) ∧
  decodeE 0xAF3B975B = .ok (.stb tr (.out 6) (.take 3) (.keep 5) (.ordered .pkg)) ∧
  decodeE 0xAF439754 = .ok (.stsc tr (.out 6) (.take 3) (.keep 5) true) ∧
  decodeE 0xAF4B9754 = .ok (.stsp tr (.out 6) (.take 3) (.keep 5) true) := by decide +kernel

theorem test_e_words_4 :
  decodeE 0xAF53975B = .ok (.aadd tr (.out 6) (.take 3) (.keep 5) (.ordered .pkg)) ∧
  decodeE 0xAF5B975B = .ok (.amin tr (.out 6) (.take 3) (.keep 5) (.ordered .pkg)) ∧
  decodeE 0xAF63975B = .ok (.amax tr (.out 6) (.take 3) (.keep 5) (.ordered .pkg)) ∧
  decodeE 0xAF6B975B = .ok (.aand tr (.out 6) (.take 3) (.keep 5) (.ordered .pkg)) ∧
  decodeE 0xAF73975B = .ok (.aor tr (.out 6) (.take 3) (.keep 5) (.ordered .pkg)) ∧
  decodeE 0xAF7B975B = .ok (.axor tr (.out 6) (.take 3) (.keep 5) (.ordered .pkg)) ∧
  decodeE 0xAF83975B = .ok (.axchg tr (.out 6) (.take 3) (.keep 5) (.ordered .pkg)) ∧
  decodeE 0xAF8D975B = .ok (.acas tr ⟨6, true⟩ (.take 3) (.keep 5) (.ordered .pkg)) ∧
  decodeE 0xAF93975B = .ok (.aadds tr (.out 6) (.take 3) (.keep 5) (.ordered .pkg)) ∧
  decodeE 0xAFA29780 = .ok (.xgrant tr 2 (.take 3)) ∧
  decodeE 0xAFAB96A0 = .ok (.xsend tr 6 3 2) ∧
  decodeE 0xAFB29780 = .ok (.xrecv tr 2 3) ∧
  decodeE 0xAFC20C90 = .ok (.agen tr 6 (.take 1)) ∧
  decodeE 0xAFC99355 = .ok (.agset tr 6 (.take 1) 0x155) ∧
  decodeE 0xAFD1B180 = .ok (.agrst tr 6) ∧
  decodeE 0xAFE21163 = .ok (.cvtRne tr (.out 0) (.take 0) 3 6 true) ∧
  decodeE 0xAFEA1163 = .ok (.cvtRtz tr (.out 0) (.take 0) 3 6 true) ∧
  decodeE 0xAFF21163 = .ok (.cvtRdn tr (.out 0) (.take 0) 3 6 true) ∧
  decodeE 0xAFFA1163 = .ok (.cvtRup tr (.out 0) (.take 0) 3 6 true) := by decide +kernel

theorem test_v_words_0 :
  decodeV 0xAC0DA060 = .ok (.vmov tr 13 10 3) ∧
  decodeV 0xAC1DA760 = .ok (.vadd tr 13 10 7 3) ∧
  decodeV 0xAC2DA760 = .ok (.vsub tr 13 10 7 3) ∧
  decodeV 0xAC3DA760 = .ok (.vmul tr 13 10 7 3) ∧
  decodeV 0xAC4DA760 = .ok (.vfma tr 13 10 7 3) ∧
  decodeV 0xAC5DA760 = .ok (.vmin tr 13 10 7 3) ∧
  decodeV 0xAC6DA760 = .ok (.vmax tr 13 10 7 3) ∧
  decodeV 0xAC7DA060 = .ok (.vabs tr 13 10 3) ∧
  decodeV 0xAC8DA760 = .ok (.vand tr 13 10 7 3) ∧
  decodeV 0xAC9DA760 = .ok (.vor tr 13 10 7 3) ∧
  decodeV 0xACADA760 = .ok (.vxor tr 13 10 7 3) ∧
  decodeV 0xACBDA760 = .ok (.vshl tr 13 10 7 3) ∧
  decodeV 0xACCDA760 = .ok (.vshr tr 13 10 7 3) ∧
  decodeV 0xACDDA075 = .ok (.vqshr tr 13 10 3 21) ∧
  decodeV 0xACEDA176 = .ok (.vnarrow tr 13 10 1 3 6 true) ∧
  decodeV 0xACFAA066 = .ok (.vwiden tr 5 10 3 6) ∧
  decodeV 0xAD0AA760 = .ok (.vwmac tr 5 10 7 3) ∧
  decodeV 0xAD15A760 = .ok (.vcmpeq tr 5 10 7 3) := by decide +kernel

theorem test_v_words_1 :
  decodeV 0xAD25A760 = .ok (.vcmplt tr 5 10 7 3) ∧
  decodeV 0xAD35A760 = .ok (.vcmple tr 5 10 7 3) ∧
  decodeV 0xAD4DA760 = .ok (.vsel tr 13 10 7 3) ∧
  decodeV 0xAD5DA060 = .ok (.vredadd tr 13 10 3) ∧
  decodeV 0xAD6DA060 = .ok (.vredmax tr 13 10 3) ∧
  decodeV 0xAD7DA075 = .ok (.vbcast tr 13 10 3 21) ∧
  decodeV 0xAD8DA060 = .ok (.vexp2 tr 13 10 3) ∧
  decodeV 0xAD9DA060 = .ok (.vrcp tr 13 10 3) ∧
  decodeV 0xADADA060 = .ok (.vrsq tr 13 10 3) ∧
  decodeV 0xADBDA760 = .ok (.vshuf tr 13 10 7 3) ∧
  decodeV 0xADCDA775 = .ok (.vslide tr 13 10 7 3 21) ∧
  decodeV 0xADDDA600 = .ok (.vtag tr 13 10 1 true false) ∧
  decodeV 0xADE50000 = .ok (.vsetp tr 5) ∧
  decodeV 0xAE0D0015 = .ok (.vldr tr 13 5 true) ∧
  decodeV 0xAE10A015 = .ok (.vstr tr 10 5 true) ∧
  decodeV 0xAE2D0002 = .ok (.vlds tr 13 2) ∧
  decodeV 0xAE30A002 = .ok (.vsts tr 10 2) := by decide +kernel

theorem test_c_words_0 :
  decodeC 0x02CD9800 = .ok (.coreAdd 22 13 19) ∧
  decodeC 0x02CD9801 = .ok (.coreSub 22 13 19) ∧
  decodeC 0x02CD9802 = .ok (.coreAnd 22 13 19) ∧
  decodeC 0x02CD9803 = .ok (.coreOr 22 13 19) ∧
  decodeC 0x02CD9804 = .ok (.coreXor 22 13 19) ∧
  decodeC 0x02CD9805 = .ok (.coreShl 22 13 19) ∧
  decodeC 0x02CD9806 = .ok (.coreShr 22 13 19) ∧
  decodeC 0x02CD9807 = .ok (.coreSar 22 13 19) ∧
  decodeC 0x02CD9808 = .ok (.coreMul 22 13 19) ∧
  decodeC 0x02CD9809 = .ok (.coreMulhs 22 13 19) ∧
  decodeC 0x02CD980A = .ok (.coreMulhu 22 13 19) ∧
  decodeC 0x02CD980B = .ok (.divu 22 13 19) ∧
  decodeC 0x02CD980C = .ok (.remu 22 13 19) ∧
  decodeC 0x02CD980D = .ok (.slt 22 13 19) ∧
  decodeC 0x02CD980E = .ok (.sltu 22 13 19) ∧
  decodeC 0x02CD980F = .ok (.coreMin 22 13 19) ∧
  decodeC 0x02CD9810 = .ok (.coreMax 22 13 19) ∧
  decodeC 0x06CDFA53 = .ok (.coreAddi 22 13 0xfa53) ∧
  decodeC 0x0ACDFA53 = .ok (.coreAndi 22 13 0xfa53) ∧
  decodeC 0x0ECDFA53 = .ok (.coreOri 22 13 0xfa53) ∧
  decodeC 0x12CDFA53 = .ok (.coreXori 22 13 0xfa53) ∧
  decodeC 0x16CDFA53 = .ok (.slti 22 13 0xfa53) ∧
  decodeC 0x1ACDFA53 = .ok (.sltui 22 13 0xfa53) ∧
  decodeC 0x1ECD002D = .ok (.coreShli 22 13 0x2d) ∧
  decodeC 0x22CD002D = .ok (.coreShri 22 13 0x2d) := by decide +kernel

theorem test_c_words_1 :
  decodeC 0x26CD002D = .ok (.coreSari 22 13 0x2d) ∧
  decodeC 0x2AC0FA53 = .ok (.lih 22 0xfa53) ∧
  decodeC 0x2ECDFA53 = .ok (.shi16 22 13 0xfa53) ∧
  decodeC 0x42CDFA53 = .ok (.ldd 22 13 0xfa53) ∧
  decodeC 0x46CDFA53 = .ok (.ldw 22 13 0xfa53) ∧
  decodeC 0x4ACDFA53 = .ok (.ldwu 22 13 0xfa53) ∧
  decodeC 0x4ECDFA53 = .ok (.ldh 22 13 0xfa53) ∧
  decodeC 0x52CDFA53 = .ok (.ldhu 22 13 0xfa53) ∧
  decodeC 0x56CDFA53 = .ok (.ldb 22 13 0xfa53) ∧
  decodeC 0x5ACDFA53 = .ok (.ldbu 22 13 0xfa53) ∧
  decodeC 0x62CDFA53 = .ok (.std 22 13 0xfa53) ∧
  decodeC 0x66CDFA53 = .ok (.coreStw 22 13 0xfa53) ∧
  decodeC 0x6ACDFA53 = .ok (.coreSth 22 13 0xfa53) ∧
  decodeC 0x6ECDFA53 = .ok (.coreStb 22 13 0xfa53) ∧
  decodeC 0x72CD0003 = .ok (.lda 22 13 .pkg) ∧
  decodeC 0x740D9803 = .ok (.stl 13 19 .pkg) ∧
  decodeC 0x7ACD98B0 = .ok (.amoadd 22 13 19 (.ordered .pkg)) ∧
  decodeC 0x7ACD98B1 = .ok (.amomin 22 13 19 (.ordered .pkg)) ∧
  decodeC 0x7ACD98B2 = .ok (.amomax 22 13 19 (.ordered .pkg)) ∧
  decodeC 0x7ACD98B3 = .ok (.amoand 22 13 19 (.ordered .pkg)) ∧
  decodeC 0x7ACD98B4 = .ok (.amoor 22 13 19 (.ordered .pkg)) ∧
  decodeC 0x7ACD98B5 = .ok (.amoxor 22 13 19 (.ordered .pkg)) ∧
  decodeC 0x7ACD98B6 = .ok (.amoxchg 22 13 19 (.ordered .pkg)) ∧
  decodeC 0x7ACD98B7 = .ok (.amocas 22 13 19 (.ordered .pkg)) ∧
  decodeC 0x7ACD98B8 = .ok (.amoadds 22 13 19 (.ordered .pkg)) := by decide +kernel

theorem test_c_words_2 :
  decodeC 0x7C00000B = .ok (.fence .acq .pkg) ∧
  decodeC 0x81B3FA53 = .ok (.beq 13 19 0xFA53) ∧
  decodeC 0x85B3FA53 = .ok (.bne 13 19 0xFA53) ∧
  decodeC 0x89B3FA53 = .ok (.blt 13 19 0xFA53) ∧
  decodeC 0x8DB3FA53 = .ok (.bge 13 19 0xFA53) ∧
  decodeC 0x91B3FA53 = .ok (.bltu 13 19 0xFA53) ∧
  decodeC 0x95B3FA53 = .ok (.bgeu 13 19 0xFA53) ∧
  decodeC 0x9AABCDE5 = .ok (.jmp 0x2ABCDE5) ∧
  decodeC 0x9C0D0000 = .ok (.jr 13) ∧
  decodeC 0xA2ABCDE5 = .ok (.call 0x2ABCDE5) ∧
  decodeC 0xA40D0000 = .ok (.callr 13) ∧
  decodeC 0xA8000000 = .ok (.ret) ∧
  decodeC 0xC2C00000 = .ok (.clkrd 11) ∧
  decodeC 0xC2C00001 = .ok (.cyc 22) ∧
  decodeC 0xC00D0002 = .ok (.sleepu 13) ∧
  decodeC 0xC00D0043 = .ok (.waits 13 true) ∧
  decodeC 0xC2C00044 = .ok (.floor 22 true) ∧
  decodeC 0xC6CD9841 = .ok (.sts 22 13 19 true true) ∧
  decodeC 0xCACD9840 = .ok (.coreLdas 22 13 19 true) ∧
  decodeC 0xD2CD99A5 = .ok (.sbind 22 13 19 0xA5 true false) ∧
  decodeC 0xD40000A5 = .ok (.hwait 0xa5) ∧
  decodeC 0xD6C001A5 = .ok (.hqry 22 0xa5) ∧
  decodeC 0xD40002A5 = .ok (.hdrain 0xa5) ∧
  decodeC 0xD40003A5 = .ok (.hfree 0xa5) ∧
  decodeC 0xD40004A5 = .ok (.hcancel 0xa5) := by decide +kernel

theorem test_c_words_3 :
  decodeC 0xDACD0002 = .ok (.launch 22 13 2) ∧
  decodeC 0xDC0D0009 = .ok (.phase 13 9) ∧
  decodeC 0xE2CD9801 = .ok (.msend 22 13 19 true) ∧
  decodeC 0xE6CD0001 = .ok (.mrecv 22 13 true) ∧
  decodeC 0xEACD0000 = .ok (.tlook 22 13) ∧
  decodeC 0xE80D9801 = .ok (.tfill 13 19) ∧
  decodeC 0xE80D0002 = .ok (.tevict 13) ∧
  decodeC 0xEECD0000 = .ok (.sqrd 22 13) ∧
  decodeC 0xEECD9801 = .ok (.sqset 22 13 19) ∧
  decodeC 0xEECD9802 = .ok (.sqadmit 22 13 19) ∧
  decodeC 0xEECD0003 = .ok (.sqretire 22 13) ∧
  decodeC 0xF2CD0000 = .ok (.cntrd 22 13) ∧
  decodeC 0xF2CD9801 = .ok (.cntcfg 22 13 19) ∧
  decodeC 0xF00D0002 = .ok (.cntclr 13) ∧
  decodeC 0xFAC09800 = .ok (.csrrd 22 19) ∧
  decodeC 0xF80D9801 = .ok (.csrwr 13 19) ∧
  decodeC 0xF80D0002 = .ok (.trap 13) ∧
  decodeC 0xF8000003 = .ok (.eret) ∧
  decodeC 0xF8000004 = .ok (.halt) ∧
  decodeC 0xF80D0005 = .ok (.freeze 13) ∧
  decodeC 0xF80D0006 = .ok (.thaw 13) ∧
  decodeC 0xF80D0007 = .ok (.resume 13) ∧
  decodeC 0xF8000008 = .ok (.brk) := by decide +kernel

theorem test_m_words :
  decodeM 0x065A8A53B0000800 = .ok (some (.tmma ⟨9, 6, 5, 0xA53, true, false, true, true, 2⟩)) ∧
  decodeM 0x0A5A8A5353C00400 = .ok (some (.tmmag ⟨9, 6, 5, 0xA53, false, true, false, true, 1⟩ 3 12)) ∧
  decodeM 0x0E5A8A53A3C00400 = .ok (some (.tmmax ⟨9, 6, 5, 0xA53, true, false, true, false, 1⟩ 3 12)) ∧
  decodeM 0x1002800000000000 = .ok (some (.tzero 5)) ∧
  decodeM 0x14028000200BAAA0 = .ok (some (.tdrain 5 true 11 10 2 21)) ∧
  decodeM 0x1A42800080000000 = .ok (some (.tload 5 9 true)) ∧
  decodeM 0x1E42800000000000 = .ok (some (.taddr 5 9 false)) ∧
  decodeM 0x22400000800B0000 = .ok (some (.ttrans 9 true 11)) := by decide +kernel

/-! Ill-formed terms, one for each check of WellFormed.lean (R35, R59, R78-R88, R225, R319, R324). -/

theorem test_wf_refuses_operands :
    Instr.wf (.add tr (.x 1) (.take 2) (.keep 2) .none) = false ∧ Instr.wf (.add tr (.x 1) (.take 2) (.keep 3) (.to 7)) = false ∧
    Instr.wf (.add tr (.x 1) (.take 2) (.keep 3) (.to 6)) = true := by decide

theorem test_wf_refuses_e_fields :
    Instr.wf (.mergec tr .discard 1 1 2) = false ∧ Instr.wf (.mergec tr .discard 1 2 1) = false ∧
    Instr.wf (.mergec tr .discard 1 2 2) = false ∧ Instr.wf (.mergec tr .discard 1 2 3) = true ∧
    Instr.wf (.marki tr 0 3) = false ∧ Instr.wf (.marki tr 0 5) = false ∧ Instr.wf (.marki tr 0 0xFF) = false ∧
    Instr.wf (.marki tr 0 4) = true ∧ Instr.wf (.marki tr 0 0x100) = true ∧
    Instr.wf (.ld tr (.x 1) .zero .d true .plain) = false ∧ Instr.wf (.ld tr (.x 1) .zero .d false .plain) = true ∧
    Instr.wf (.agen tr 1 (.take 2)) = false ∧ Instr.wf (.agset tr 1 (.keep 2) 0) = false ∧
    Instr.wf (.xsend tr 0 1 1) = false ∧ Instr.wf (.cvtRne tr (.out 0) (.take 0) 0 3 false) = false ∧
    Instr.wf (.cvtRtz tr (.out 0) (.take 0) 3 15 false) = false ∧ Instr.wf (.cvtRdn tr (.out 0) (.take 0) 15 3 false) = false ∧
    Instr.wf (.cvtRup tr (.out 0) (.take 0) 3 0 false) = false := by decide

theorem test_wf_refuses_v_and_m_fields :
    Instr.wf (.vnarrow tr 0 0 0 0 0 false) = false ∧ Instr.wf (.vwiden tr 0 0 0 15) = false ∧
    Instr.wf (.vcmpeq tr 0 1 2 0) = false ∧ Instr.wf (.vcmplt tr 0 1 2 0) = false ∧ Instr.wf (.vcmple tr 0 1 2 0) = false ∧
    Instr.wf (.vsetp tr 7) = false ∧ Instr.wf (.tmma ⟨3, 3, 0, 1, true, true, false, false, 0⟩) = false ∧
    Instr.wf (.tmma ⟨3, 3, 0, 1, true, false, false, false, 0⟩) = true ∧
    Instr.wf (.tmmag ⟨1, 2, 0, 1, true, true, false, false, 0⟩ 1 3) = false ∧
    Instr.wf (.tmmax ⟨1, 2, 0, 1, true, true, false, false, 0⟩ 3 2) = false ∧
    Instr.wf (.tdrain 0 false 1 2 0 0) = false ∧ Instr.wf (.tdrain 0 false 1 3 0 1) = false ∧
    Instr.wf (.tdrain 0 false 1 10 0 1) = true := by decide

/-- What a kind of element refuses: a channel that it lacks, a conversion that is not from i0 to o0 (R80, R84, R325). -/
theorem test_kind_limits :
    Instr.chansExist .mpe (.ld tr (.out 4) (.take 0) .d false .plain) = false ∧
    Instr.chansExist .mpe (.ld tr (.out 3) (.take 3) .d false .plain) = true ∧ Instr.chansExist .age (.agrst tr 0) = true ∧
    Instr.cvtPlaceOk (.cvtRne tr (.x 0) (.take 0) 3 5 false) = false ∧ UnitKind.acceptsOp .age 0x60 = false ∧
    UnitKind.acceptsOp .spe 0x61 = false ∧ UnitKind.acceptsOp .spe 0x60 = true := by decide

/-! Decidable forms of the hypotheses that the statements name, so that a witness is an evaluation. -/

theorem runs_of {s : State} {u : UnitId} {n : Nat} {t : Trig}
    (h : ((s.region u.region).launch.isSome = true ∧ (s.region u.region).stop = false ∧ (s.region u.region).frozen = none ∧
      (s.unit u).efault.getLsbD 63 = false ∧ (s.unit u).slotHeld = false) ∧
      ((s.unit u).banks.get (n / 8) {}).tag = (s.region u.region).tag ∧
      if t.pred = 7 then t.req = true
      else ((s.unit u).context t.ctx.toNat).pendP.getLsbD t.pred.toNat = false ∧
        ((s.unit u).context t.ctx.toNat).p.getLsbD t.pred.toNat = t.req) : s.Runs u n t :=
  ⟨h.1.1, h.1.2.1, h.1.2.2.1, h.1.2.2.2.1, h.1.2.2.2.2, h.2.1, h.2.2⟩

/-- Nothing the word reads or writes is pending, and its outputs have room. -/
def quiet (s : State) (u : UnitId) (v : EView) : Bool :=
  let c := (s.unit u).context v.trig.ctx.toNat
  v.ins.all (fun x => x.reg?.all (fun r => !c.pendX.getLsbD r.toNat)) && v.reads.all (fun r => !c.pendX.getLsbD r.toNat) &&
  v.regDst.all (fun r => !c.pendX.getLsbD r.toNat) && v.predDst.all (fun j => !c.pendP.getLsbD j.toNat) &&
  v.outs.all (fun o => (s.branches u o.toNat).all (fun k => (s.chan k).room && s.branchOpen k))

theorem able_of {s : State} {u : UnitId} {n : Nat} {v : EView} (h : s.Runs u n v.trig) (q : quiet s u v = true) :
    s.Able u n v := by
  simp only [quiet, Bool.and_eq_true, List.all_eq_true, Option.all_eq_true, Bool.not_eq_true'] at q
  obtain ⟨⟨⟨⟨a, b⟩, c⟩, d⟩, e⟩ := q
  exact ⟨h, fun r hr => hr.elim (fun h => a _ h r rfl) (b r), fun r hr => c r hr, fun j hj => d j hj, fun o ho k hk => e o ho k hk⟩

theorem clear_of {s : State} {v : EView} {pols : List Pol} {ops : List Opnd} (h : s.Runs s.site.unit s.site.slot v.trig)
    (q : quiet s s.site.unit v = true ∧ s.readSrcs s.site.unit v.trig.ctx v.ins = some ops ∧
      (∀ k ∈ List.range ops.length, (ops[k]?.all (fun o => o.check (pols.getD k {}) = none)) = true) ∧
      ∀ r ∈ v.reads, ((s.unit s.site.unit).context v.trig.ctx.toNat).px.getLsbD r.toNat = false) : s.Clear v pols ops :=
  ⟨able_of h q.1, q.2.1, fun k o hk => by
    have := q.2.2.1 k (by rw [List.mem_range]; exact (List.getElem?_eq_some_iff.1 hk).1)
    simpa [hk] using this, q.2.2.2⟩

theorem clean_of {s : State} {r : Nat} {l : List (BitVec 5)} (h : (l.all (fun a => !((s.core r).read a).bad)) = true) :
    s.CleanRegs r l := by simpa [State.CleanRegs] using h

theorem vclear_of {s : State} {v : VUse} (h : s.Runs s.site.unit s.site.slot v.trig)
    (q : (∀ o ∈ v.reads, s.vec.pendV.getLsbD o.r.toNat = false ∧ o.ok = true ∧ (o.use = true → s.vec.pv.getLsbD o.r.toNat = false)) ∧
      (∀ r ∈ v.writes, s.vec.pendV.getLsbD r.toNat = false) ∧ s.vec.pendM.getLsbD v.mask.toNat = false ∧
      (v.wmask.all (fun k => !s.vec.pendM.getLsbD k.toNat)) = true) : s.VClear v :=
  ⟨h, q.1, q.2.1, q.2.2.1, fun k hk => by simpa [hk] using q.2.2.2⟩

theorem midle_of {s : State} (h : s.Runs s.site.unit s.site.slot noGuard)
    (q : (s.unit s.site.unit).mat.seq = none ∧ (s.unit s.site.unit).issued = false) : s.MIdle := ⟨h, q.1, q.2⟩

theorem serves_of {s : State} {u : UnitId} {k : Nat} {q : PortReq} {t : Target}
    (h : ((s.unit u).reqs[k]? = some q ∧ q.stage = .accepted ∧ s.xlatWord u q.addr q.op.access = .done (.ok t)) ∧
      (isMpe u = true → s.routeDown (unitDie u) t.addr = false) ∧ s.mayServe u k t.addr = true ∧ s.mustWait u q t = false ∧
      lacksCtxs u q t.addr = false ∧ s.bankServes t.addr (portWho u) = true) : s.Serves u k q t :=
  ⟨h.1.1, h.1.2.1, h.1.2.2, h.2.1, h.2.2.1, h.2.2.2.1, h.2.2.2.2.1, h.2.2.2.2.2⟩

theorem sole_of {s : State} {r p : Nat} {c : Cmd} (h : s.portCmds r p = [c] ∧ c.owner = (s.region r).launch ∧ (s.region r).frozen = none) :
    s.Sole r p c := ⟨h.1, h.2.1, h.2.2⟩

theorem roomy_of {k : Core} (h : k.wptr + 40 ≤ k.wbot + 128) : k.roomy := h

/-! ## Witnesses: states and operands that meet the hypotheses of each statement -/

/-- Element 0 of region 0, its region running a launch, with one token at the head of each input listed. -/
def unit0 : UnitId := ⟨0, 0, 0⟩
def hold (x : EUnit) (cs : List (Nat × Tok)) : State :=
  { regions := [(0, { launch := some 1 })], units := [(unit0, x)],
    chans := cs.map (fun c => (.inp unit0 c.1, { inq := [c.2] })) }

/-- A pass-through operand takes MARKs and poison. -/
abbrev pass : Pol := { marks := true, use := false }
/-- A word that any state lets go; a token of data; an operand from the head of input 0. -/
def go : Trig := ⟨0, 7, true⟩
def tok (w : Word) : Tok := { data := w, tag := 0 }
def opnd (t : Tok) (i : Nat := 0) : Opnd := ⟨t.data, t.poison, some t, some i⟩

/-- An element whose registers x1 and x2 hold two values. -/
def regs (a b : Word) : EUnit := { ctx := [(0, { x := #v[0, a, b, 0, 0, 0, 0, 0] })] }

theorem witness_WordsWaitUntilAble :
    ∃ (i : Instr) (v : EView) (s : State), i.eview = some v ∧ (∀ t d x y z, i ≠ .mergec t d x y z) ∧ ¬ s.Able s.site.unit
      s.site.slot v :=
  ⟨.mov go (.x 0) (.take 0) .none, .std go (.x 0) [.take 0] .none, {}, rfl, by simp,
    fun h => by have := h.runs.placed; revert this; decide⟩

theorem witness_ElementWordsLeaveTheRest :
    ∃ (i : Instr) (v : EView) (s t : State), i.eview = some v ∧ exec i s = .next t :=
  ⟨.movi go (.x 0) 5, .std go (.x 0) [] .none, hold {} [], _, rfl, rfl⟩

theorem witness_IssueTakesInputsAndReserves :
    ∃ (i : Instr) (v : EView), i.eview = some v ∧ i.wf = true :=
  ⟨.mov go (.x 0) (.take 0) .none, .std go (.x 0) [.take 0] .none, by decide +kernel⟩

theorem witness_IntegerWordsDeliver :
    ∃ (i : Instr) (v : EView) (s : State) (ops : List Opnd) (val : Word) (f : Flags), i.eview = some v ∧ s.Clear v [] ops ∧
      intWord i (ops.map Opnd.val) (((s.unit s.site.unit).context v.trig.ctx.toNat).x.get (v.reads.headD 0).toFin) = some
      (val, f) :=
  ⟨.add go (.x 0) (.x 1) (.x 2) .none, .std go (.x 0) [.x 1, .x 2] .none, hold (regs 0x7FFFFFFFFFFFFFFF 1) [],
    [{ val := 0x7FFFFFFFFFFFFFFF }, { val := 1 }], 0x8000000000000000, 0, rfl, clear_of (runs_of (by decide +kernel)) (by decide +kernel), by decide +kernel⟩

theorem witness_FloatWordsDeliver :
    ∃ (i : Instr) (v : EView) (s : State) (ops : List Opnd) (lat : Nat) (r : Res), i.eview = some v ∧ s.Clear v [] ops ∧
      floatWord i (ops.map Opnd.val) (((s.unit s.site.unit).context v.trig.ctx.toNat).x.get (v.reads.headD 0).toFin) = some
      (lat, r) :=
  ⟨.faddS go (.x 0) (.x 1) (.x 2) .none, .std go (.x 0) [.x 1, .x 2] .none, hold (regs 0x3F800000 0x40000000) [],
    [{ val := 0x3F800000 }, { val := 0x40000000 }], 4, ⟨0x40400000, 0⟩, rfl, clear_of (runs_of (by decide +kernel)) (by decide +kernel), by decide +kernel⟩

theorem witness_RoutingWordsPass :
    (∃ (t : _) (d : _) (a : _) (p : _) (s : State) (o : _), s.Clear (.std t d [a] p)
      [{ marks := true, use := p.pred?.isSome }] [o]) ∧
    (∃ (t : _) (d : _) (c : _) (kept : Bool) (p : _) (s : State) (o : _) (k : _), s.Clear (.std t d [if kept then .keep c else
      .take c] p) [pass] [o] ∧ o.tok = some k) ∧
    (∃ (t : _) (o : _) (a : _) (b : _) (s : State) (x : _) (c : _), s.Clear
      { trig := t, ins := [a, b], outs := [pairOut o (!c.val.getLsbD 0)] } [pass, {}] [x, c]) ∧
    (∃ (t : _) (d : _) (iT : _) (iF : _) (iC : _) (s : State) (x : _) (c : _), s.Clear (.std t d [.take iC, .take (if
      c.val.getLsbD 0 then iT else iF)] .none) [{}, pass] [c, x]) ∧
    (∃ (t : _) (d : _) (a : _) (b : _) (s : State) (x : _) (c : _), s.Clear (.std t d [a, b] .none) [pass, {}] [x, c]) ∧
    (∃ (t : _) (d : _) (a : _) (b : _) (s : State) (x : _) (c : _), s.Clear (.std t d [a, b] .none) [pass, pass] [x, c]) ∧
    (∃ (t : _) (o : _) (s : State), s.Clear { trig := t, ins := [], outs := [o] } [] []) ∧
    (∃ (t : _) (o : _) (a : _) (s : State) (x : _), s.Clear { trig := t, ins := [a], outs := [o] } [pass] [x]) :=
  ⟨⟨go, .both 0, .take 0, .none, hold {} [(0, { (tok 9) with kind := 2 })], opnd { (tok 9) with kind := 2 },
    clear_of (runs_of (by decide +kernel)) (by decide +kernel)⟩,
  ⟨go, .x 0, 0, true, .to 0, hold {} [(0, { (tok 9) with poison := true })], opnd { (tok 9) with poison := true },
    { (tok 9) with poison := true }, clear_of (runs_of (by decide +kernel)) (by decide +kernel), rfl⟩,
  ⟨go, 3, .take 0, .take 7, hold {} [(0, tok 9), (7, tok 1)], opnd (tok 9), opnd (tok 1) 7, clear_of (runs_of (by decide +kernel)) (by decide +kernel)⟩,
  ⟨go, .out 0, 0, 1, 2, hold {} [(0, tok 9), (2, tok 1)], opnd (tok 9), opnd (tok 1) 2, clear_of (runs_of (by decide +kernel)) (by decide +kernel)⟩,
  ⟨go, .out 0, .take 0, .take 1, hold {} [(0, tok 9), (1, tok 2)], opnd (tok 9), opnd (tok 2) 1, clear_of (runs_of (by decide +kernel)) (by decide +kernel)⟩,
  ⟨go, .out 0, .take 0, .take 1, hold {} [(0, tok 9), (1, tok 2)], opnd (tok 9), opnd (tok 2) 1, clear_of (runs_of (by decide +kernel)) (by decide +kernel)⟩,
  ⟨go, 7, hold {} [], clear_of (runs_of (by decide +kernel)) (by decide +kernel)⟩,
  ⟨go, 7, .take 0, hold {} [(0, tok 9)], opnd (tok 9), clear_of (runs_of (by decide +kernel)) (by decide +kernel)⟩⟩

theorem witness_MultiTokenWordsFire :
    (∃ (t : _) (o : _) (a : _) (s : State) (x : _), s.Clear { trig := t, ins := [a], outs := [pairOut o false] } [pass] [x]) ∧
    (∃ (t : _) (g : _) (b : _) (s : State) (x : _) (c : _), s.Clear
      { trig := t, ins := [.x g, b], regDst := some g, outs := [0] } [] [x, c] ∧ c.val.toNat % 2 ^ 32 = 0) ∧
    (∃ (t : _) (g : _) (b : _) (s : State) (x : _) (c : _), s.Clear
      { trig := t, ins := [.x g, b], regDst := some g, outs := [0] } [] [x, c] ∧ c.val.toNat % 2 ^ 32 = 1) ∧
    (∃ (t : _) (g : _) (b : _) (s : State) (x : _) (c : _), s.Clear
      { trig := t, ins := [.x g, b], regDst := some g, outs := [0] } [] [x, c] ∧ 2 ≤ c.val.toNat % 2 ^ 32) ∧
    (∃ (t : _) (g : _) (a : _) (s : State) (x : _), s.Clear { trig := t, ins := [a], regDst := some g } [] [x]) ∧
    (∃ (t : _) (g : _) (s : State), s.Clear { trig := t, ins := [], regDst := some g } [] []) :=
  ⟨⟨go, 3, .take 0, hold {} [(0, tok 9)], opnd (tok 9), clear_of (runs_of (by decide +kernel)) (by decide +kernel)⟩,
  ⟨go, 1, .take 0, hold (regs 7 0) [(0, tok 0x100000000)], { val := 7 }, opnd (tok 0x100000000), clear_of (runs_of (by decide +kernel)) (by decide +kernel), by decide +kernel⟩,
  ⟨go, 1, .take 0, hold (regs 7 0) [(0, tok 1)], { val := 7 }, opnd (tok 1), clear_of (runs_of (by decide +kernel)) (by decide +kernel), by decide +kernel⟩,
  ⟨go, 1, .take 0, hold (regs 7 0) [(0, tok 2)], { val := 7 }, opnd (tok 2), clear_of (runs_of (by decide +kernel)) (by decide +kernel), by decide +kernel⟩,
  ⟨go, 1, .take 1, hold {} [(1, tok 9)], opnd (tok 9) 1, clear_of (runs_of (by decide +kernel)) (by decide +kernel)⟩,
  ⟨go, 1, hold {} [], clear_of (runs_of (by decide +kernel)) (by decide +kernel)⟩⟩

theorem witness_MemoryWordsLeaveRequests :
    ∃ (i : Instr) (v : EView) (s : State) (op : MemOp) (o : MemOrder) (pols : List Pol) (a : Opnd) (rest : List Opnd), i.eview
      = some v ∧ memWord i = some (op, o, pols) ∧ s.PortOpen op ∧ s.Clear v pols (a :: rest) ∧ s.StampsOk op rest :=
  ⟨.st go .discard (.x 1) (.x 2) .plain, .std go .discard [.x 1, .x 2] .none, hold (regs 0xFFF8 5) [], .store 8, .plain,
    [{ align := 8 }, { use := false }], { val := 0xFFF8 }, [{ val := 5 }], rfl, rfl, fun q h => absurd h (by simp [hold, State.unit, unit0, Map.get, regs]),
    clear_of (runs_of (by decide +kernel)) (by decide +kernel), by simp [MemOp.stampScope?], by simp⟩

/-- Requests accepted at a scratchpad port, at a memory port without a translation, at one whose store crosses links, and at
one that takes a stamp. -/
theorem witness_AcceptedRequestsQueue :
    (∃ (u : UnitId), u.sub ≠ 19) ∧
    (∃ (s : State) (u : UnitId) (q : PortReq), u.sub = 19 ∧ s.xlatWord u q.addr q.op.access = .walk) ∧
    (∃ (s : State) (u : UnitId) (q : PortReq) (t : Target), u.sub = 19 ∧ s.xlatWord u q.addr q.op.access = .done (.ok t) ∧
      (q.op.stampScope? = none ∨ remoteRoute (unitDie u) t.addr ≠ [])) ∧
    (∃ (s : State) (u : UnitId) (q : PortReq) (t : Target) (sys : Bool), u.sub = 19 ∧
      s.xlatWord u q.addr q.op.access = .done (.ok t) ∧ (q.op = .stsc sys ∨ q.op = .stsp sys) ∧ remoteRoute (unitDie u) t.addr = []) :=
  let port : UnitId := ⟨0, 0, 19⟩
  let at_ (e : RangeEnt) : State := { regions := [(0, { launch := some 1, ranges := [((0, 0), e)], kept := [⟨0, 0x40000, 0x10000, true⟩] })] }
  let ask (op : MemOp) : PortReq := { tick := 5, ctx := 0, slot := 0, op := op, addr := 0x40040 }
  ⟨⟨unit0, by decide⟩,
  ⟨{ regions := [(0, { launch := some 1, ranges := [((0, 0), ⟨0x40000, 0x10000, 0x2000, 0x87⟩)] })] }, port, ask (.load 8 false), by decide +kernel⟩,
  ⟨at_ ⟨0x40000, 0x10000, 0x10000000000, 0x83⟩, port, ask (.store 8), .plain 0x10000000040, by decide +kernel⟩,
  ⟨at_ ⟨0x40000, 0x10000, 0x2000, 0x87⟩, port, ask (.stsp true), .stamped 0x10000 0x40, true, by decide +kernel⟩⟩

/-- An exchange pair that ends at both ends in unit0. -/
def pair0 : Pair := ⟨1, unit0, 3, unit0, 3, 2, 2, 64, {}, {}, [], [], 0, false, 240⟩

theorem witness_ExchangeWordsAct :
    (∃ (t : _) (o : BitVec 2) (a : _) (s : State) (x : _) (k : _) (p : _), s.Clear
      { trig := t, ins := [a], outs := [o.setWidth 3] } [] [x] ∧ s.permitPair s.site.unit o.toNat = some (k, p) ∧ (p.buf
      (x.val.getLsbD 0)).st = .free) ∧
    (∃ (t : _) (o : BitVec 2) (iS iP : BitVec 3) (s : State) (x : _) (q : _) (h : _) (k : _) (p : _), s.Able s.site.unit
      s.site.slot { trig := t, ins := [.take iS, .take iP] } ∧ s.readSrcs s.site.unit t.ctx [.take iS, .take iP] = some [x, q]
      ∧ x.tok = some h ∧ h.kind = 0 ∧ (h.utag = 1 ∨ h.utag = 2) ∧ q.check { use := false } = none ∧ s.sendPair s.site.unit
      o.toNat = some (k, p) ∧ x.val.getLsbD 2 = q.val.getLsbD 0) ∧
    (∃ (t : _) (o : BitVec 2) (i : BitVec 3) (s : State) (k : _) (p : Pair) (par : Bool), s.Clear
      { trig := t, ins := [], outs := [o.setWidth 3] } [] [] ∧ s.recvPair s.site.unit i.toNat = some (k, p) ∧ p.order.head? =
      some par ∧ (p.buf par).closed = true) ∧
    (∃ (w : State) (k : Nat) (p : Pair), w.pair? k = some p) :=
  ⟨⟨go, 2, .take 0, { (hold {} [(0, tok 1)]) with pairs := [(5, pair0)] }, opnd (tok 1), 5, pair0, clear_of (runs_of (by decide +kernel)) (by decide +kernel), by decide +kernel⟩,
  ⟨go, 3, 1, 0, { (hold {} [(0, tok 1), (1, { (tok 5) with utag := 1 })]) with pairs := [(5, pair0)] },
    opnd { (tok 5) with utag := 1 } 1, opnd (tok 1), { (tok 5) with utag := 1 }, 5, pair0, able_of (runs_of (by decide +kernel)) (by decide +kernel), by decide +kernel⟩,
  ⟨go, 0, 3, { (hold {} []) with pairs := [(5, { pair0 with order := [true], pong := { st := .filling, n := 4, closed := true } })] }, 5,
    { pair0 with order := [true], pong := { st := .filling, n := 4, closed := true } }, true, clear_of (runs_of (by decide +kernel)) (by decide +kernel), by decide +kernel⟩,
  ⟨{ pairs := [(5, pair0)] }, 5, pair0, by decide +kernel⟩⟩

theorem witness_ConvertersFire :
    ∃ (i : Instr) (mode : BitVec 2) (t : Trig) (d : Dst) (a : Src) (src dst : BitVec 4) (sat : Bool) (s : State) (x : Opnd),
      (i = .cvtRne t d a src dst sat ∧ mode = 0 ∨ i = .cvtRtz t d a src dst sat ∧ mode = 1 ∨ i = .cvtRdn t d a src dst sat ∧
      mode = 2 ∨ i = .cvtRup t d a src dst sat ∧ mode = 3) ∧ s.Clear (.std t d [a] .none)
      [{ marks := true, use := decide (x.asTok.kind = 0) }] [x] :=
  ⟨.cvtRdn go (.out 0) (.take 0) 8 10 true, 2, go, .out 0, .take 0, 8, 10, true, hold {} [(0, tok 0x3F800000)], opnd (tok 0x3F800000),
    by simp, clear_of (runs_of (by decide +kernel)) (by decide +kernel)⟩

theorem witness_ConverterPacksInOrder :
    ∃ (t : Tok), t.kind = 0 ∧ t.last = false :=
  ⟨tok 0xFF01, by decide +kernel⟩

/-- A vector node whose registers 1 and 2 hold data of one format. -/
def lanes (c : BitVec 4) : EUnit :=
  { vec := { v := (Vector.replicate 16 0).set 1 0x7F, tag := ((Vector.replicate 16 0).set 1 (fmtTag c)).set 2 (fmtTag c) } }

theorem witness_VectorWordsLeaveTheRest :
    ∃ (i : Instr) (g : Trig) (s t : State), i.vtrig = some g ∧ exec i s = .next t :=
  ⟨.vmov go 3 1 0, go, hold (lanes 10) [], _, rfl, rfl⟩

/-- An issue that steps p2 to p3, a guard whose predicate is wrong, and a VSETP on the guard's own predicate. -/
theorem witness_PredicatesStepAtIssue :
    ∃ (i j k : Instr) (g h : Trig) (s t u v : State), i.vtrig = some g ∧ (s.unit s.site.unit).issued = false ∧ exec i s = .next t ∧
      (t.unit s.site.unit).issued = true ∧ j.vtrig = some h ∧ exec j s = .next u ∧ (u.unit s.site.unit).issued = false ∧
      k = .vsetp g g.pred ∧ k.vtrig = some g ∧ exec k s = .next v ∧ (v.unit s.site.unit).issued = true :=
  ⟨.vadd ⟨0, 2, true⟩ 3 1 2 0, .vadd ⟨0, 6, true⟩ 3 1 2 0, .vsetp ⟨0, 2, true⟩ 2, ⟨0, 2, true⟩, ⟨0, 6, true⟩,
    hold { (lanes 10) with ctx := [(0, { p := 4 })] } [], _, _, _, rfl, by decide +kernel, rfl, by decide +kernel, rfl, rfl,
    by decide +kernel, rfl, rfl, rfl, by decide +kernel⟩

theorem witness_LaneWordsDeliver :
    ∃ (i : Instr) (s : State) (L : LaneWord), laneWord s.vec i = some L ∧ s.VClear L.use :=
  ⟨.vadd go 3 1 2 0, hold (lanes 10) [], _, rfl, vclear_of (runs_of (by decide +kernel)) (by decide +kernel)⟩

theorem witness_WideningWordsDeliver :
    (∃ (t : _) (vp : BitVec 3) (va : _) (m : _) (fmt : _) (s : State),
      let c := s.vec.fmt va;
      let vd : BitVec 4 := vp ++ 0#1;
      let ve : BitVec 4 := vp ++ 1#1;
      let use : VUse := { trig := t, mask := m, writes := [vd, ve], reads := [⟨va, tagPlain (s.vec.tagOf va) && decide (c ≠ 0) && decide (fmtWidth fmt = 2 * fmtWidth c), true⟩] };
      s.VClear use) ∧
    (∃ (t : _) (vp : BitVec 3) (va : _) (vb : _) (m : _) (s : State),
      let ca := s.vec.fmt va;
      let cb := s.vec.fmt vb;
      let vd : BitVec 4 := vp ++ 0#1;
      let k : Nat := if ca = 10 ∨ ca = 11 then 4 else 2;
      let cacc : BitVec 4 := if ca = 3 ∨ ca = 4 then 2 else 8;
      let regs : List (BitVec 4) := (List.range k).map (fun q => vd + BitVec.ofNat 4 q);
      let pairOk : Bool := ((ca = 10 || ca = 11) && (cb = 10 || cb = 11)) || ((ca = 9 || ca = 3 || ca = 4) && cb = ca);
      let use : VUse := { trig := t, mask := m, writes := regs, reads := [⟨va, tagPlain (s.vec.tagOf va), true⟩, ⟨vb, tagPlain (s.vec.tagOf vb) && pairOk, true⟩] ++ regs.map (fun r => ⟨r, tagPlain (s.vec.tagOf r) && (s.vec.fmt r = 0 || s.vec.fmt r = cacc), true⟩) };
      s.VClear use ∧ (k = 4 → vd.toNat % 4 = 0)) :=
  ⟨⟨go, 3, 1, 0, 9, hold (lanes 10) [], vclear_of (runs_of (by decide +kernel)) (by decide +kernel)⟩,
  ⟨go, 2, 1, 2, 0, hold (lanes 10) [], vclear_of (runs_of (by decide +kernel)) (by decide +kernel), by decide +kernel⟩⟩

theorem witness_CompareAndReduceDeliver :
    (∃ (i : Instr) (t : _) (mk : _) (va : _) (vb : _) (m : _) (s : State), (i = .vcmpeq t mk va vb m ∨ i = .vcmplt t mk va vb
      m ∨ i = .vcmple t mk va vb m) ∧
      (let c := s.vec.fmt va;
      let use : VUse := { trig := t, mask := m, wmask := some mk, reads := [⟨va, tagPlain (s.vec.tagOf va) && (isF c || isI c), true⟩, ⟨vb, tagPlain (s.vec.tagOf vb) && decide (s.vec.fmt vb = c), true⟩] };
      s.VClear use)) ∧
    (∃ (isMax : Bool) (t : _) (vd : _) (va : _) (m : _) (s : State),
      let c := s.vec.fmt va;
      let ok : Bool := isF c || (if isMax then isI c else c = 8 || c = 9);
      let use : VUse := { trig := t, mask := m, writes := [vd], reads := [⟨va, tagPlain (s.vec.tagOf va) && ok, true⟩] };
      s.VClear use) :=
  ⟨⟨.vcmplt go 1 1 2 0, go, 1, 1, 2, 0, hold (lanes 10) [], .inr (.inl rfl), vclear_of (runs_of (by decide +kernel)) (by decide +kernel)⟩,
  ⟨true, go, 3, 1, 0, hold (lanes 10) [], vclear_of (runs_of (by decide +kernel)) (by decide +kernel)⟩⟩

theorem witness_TagAndPredicateWordsAct :
    (∃ (t : _) (vd : _) (fmt : _) (grp : _) (side : _) (s : State), s.VClear { trig := t, writes := [vd] } ∧ tagLegal fmt grp
      side = true) ∧
    (∃ (t : _) (s : State), s.VClear { trig := t }) :=
  ⟨⟨go, 3, 10, 1, true, hold (lanes 10) [], vclear_of (runs_of (by decide +kernel)) (by decide +kernel), by decide +kernel⟩,
  ⟨go, hold (lanes 10) [], vclear_of (runs_of (by decide +kernel)) (by decide +kernel)⟩⟩

/-- A machine whose cell 0 holds two rings of INT8 tiles: ring 0 full, ring 1 with its tail slot empty. -/
def full0 : Ring := { base := 0, decl := fmtTag 10, slots := [⟨.full, fmtTag 10, .nobody⟩, ⟨.full, fmtTag 10, .nobody⟩] }
def empty1 : Ring := { base := 4096, decl := fmtTag 10, slots := [⟨.empty, fmtTag 10, .nobody⟩, ⟨.full, fmtTag 10, .nobody⟩] }
def ringed (x : EUnit) : State := { (hold x []) with rings := [((⟨0, 0⟩, 0), full0), ((⟨0, 0⟩, 1), empty1), ((⟨0, 0⟩, 2), full0)] }

theorem witness_RingWordsMoveRows :
    (∃ (t : _) (vd : _) (ring : BitVec 4) (s : State) (g : _), s.VClear { trig := t, writes := [vd] } ∧ s.ring?
      s.site.unit.cellId ring.toNat = some g ∧ g.headSlot.st = .full) ∧
    (∃ (t : _) (va : _) (ring : BitVec 4) (s : State) (g : _), s.VClear
      { trig := t, reads := [⟨va, tagSame (s.vec.tagOf va) g.decl, false⟩] } ∧ s.ring? s.site.unit.cellId ring.toNat = some g
      ∧ ((g.claimed .vector).isSome ∨ g.tailSlot.st = .empty)) :=
  ⟨⟨go, 3, 0, ringed {}, full0, vclear_of (runs_of (by decide +kernel)) (by decide +kernel), by decide +kernel⟩,
  ⟨go, 1, 1, ringed (lanes 10), empty1, vclear_of (runs_of (by decide +kernel)) (by decide +kernel), by decide +kernel⟩⟩

theorem witness_StreamWordsStart :
    (∃ (t : _) (vd : _) (c : BitVec 2) (s : State) (k : Tok), s.VClear { trig := t, writes := [vd] } ∧ (∀ l ∈ s.vec.loads,
      l.inp ≠ c.toNat) ∧ (∀ x ∈ (s.unit s.site.unit).sends, x.inp ≠ c.toNat) ∧ s.head? s.site.unit c.toNat = some k ∧ k.tag =
      s.boundTag ∧ (k.kind = 0 ∨ k.kind = 1)) ∧
    (∃ (t : _) (va : _) (o : BitVec 2) (s : State), s.VClear { trig := t, reads := [⟨va, true, false⟩] } ∧ (∀ l ∈ s.vec.sends,
      l.out ≠ o.toNat) ∧ s.outRoom s.site.unit o.toNat = true) :=
  ⟨⟨go, 3, 2, hold {} [(2, tok 9)], tok 9, vclear_of (runs_of (by decide +kernel)) (by decide +kernel), by decide +kernel⟩,
  ⟨go, 1, 3, hold (lanes 10) [], vclear_of (runs_of (by decide +kernel)) (by decide +kernel), by decide +kernel⟩⟩

/-- Words of the matrix node, and a sequencer that runs one. -/
def mac0 : MacFields := ⟨0, 2, 0, 1, true, false, true, false, 0⟩
def running (w : Instr) (k : Nat) (started : Bool) (x : Acc := {}) : State :=
  ringed { mat := { seq := some { slot := 0, word := w, k := k, started := started }, acc := [(0, x)] } }

theorem witness_MatrixWordsFire :
    (∃ (i : Instr) (f : MacFields) (na nb : Nat) (s : State) (a : _) (b : _), s.MIdle ∧ macOf i = some (f, na, nb) ∧ s.ring?
      s.site.unit.cellId f.ringA.toNat = some a ∧ s.ring? s.site.unit.cellId f.ringB.toNat = some b ∧
      (let sa := s.ring? s.site.unit.cellId na;
      let sb := s.ring? s.site.unit.cellId nb;
      let hA := (sa.map Ring.head).getD 0;
      let hB := (sb.map Ring.head).getD 0;
      let x := (s.unit s.site.unit).mat.accOf f.acc;
      let af := macAccFmt i (a.tagAt a.head 0) (b.tagAt b.head 0);
      macFull i a b sa sb a.head b.head hA hB 0 = true ∧ s.macCheck s.site.unit.cellId i a b sa sb a.head b.head hA hB 0 =
      none ∧ (x.st = .empty ∨ (f.clr = false ∧ x.st = .full)) ∧ (f.clr = true ∨ x.fmt = .none ∨ x.fmt = af))) ∧
    (∃ (n : _) (s : State), s.MIdle ∧ ((s.unit s.site.unit).mat.accOf n).st ≠ .active) ∧
    (∃ (n : _) (out fmt : BitVec 4) (s : State) (g : _), s.MIdle ∧ s.ring? s.site.unit.cellId out.toNat = some g ∧
      (let x := (s.unit s.site.unit).mat.accOf n;
      x.st = .full ∧ g.tailSlot.st = .empty ∧ tagPlain g.decl = true ∧ tagFmt g.decl = fmt ∧ (fmt = 10 ∧ x.fmt = .int32 ∨ (fmt
      = 3 ∨ fmt = 4) ∧ (x.fmt = .fp32 ∨ x.fmt = .fp64)))) ∧
    (∃ (n : _) (ring : BitVec 4) (s : State) (g : _), s.MIdle ∧ s.ring? s.site.unit.cellId ring.toNat = some g ∧
      (let c := tagFmt (g.tagAt g.head 0);
      let w : Nat := if c = 2 ∨ c = 8 then 2 else if c = 1 then 4 else 1;
      (c = 1 ∨ c = 2 ∨ c = 3 ∨ c = 4 ∨ c = 8 ∨ c = 10) ∧ ((s.unit s.site.unit).mat.accOf n).st = .empty ∧ (∀ k, k < w →
      g.fullAt g.head k = true ∧ tagPlain (g.tagAt g.head k) = true ∧ tagSame (g.tagAt g.head k) (g.tagAt g.head 0) = true ∧
      slotPoisoned s.mem s.site.unit.cellId g (g.at_ g.head k) = false))) ∧
    (∃ (n : _) (ring : BitVec 4) (s : State) (g : _) (af : _), s.MIdle ∧ s.ring? s.site.unit.cellId ring.toNat = some g ∧
      (let x := (s.unit s.site.unit).mat.accOf n;
      loadFmt (tagFmt (g.tagAt g.head 0)) = some af ∧ x.st ≠ .active ∧ (x.fmt = .none ∨ x.fmt = af) ∧ g.fullAt g.head 0 = true
      ∧ tagPlain (g.tagAt g.head 0) = true ∧ slotPoisoned s.mem s.site.unit.cellId g (g.at_ g.head 0) = false)) ∧
    (∃ (ring out : BitVec 4) (s : State) (g : _) (k : _), s.MIdle ∧ ring ≠ out ∧ s.ring? s.site.unit.cellId ring.toNat = some
      g ∧ s.ring? s.site.unit.cellId out.toNat = some k ∧ k.tail < k.slots.length ∧
      (let c := tagFmt (g.tagAt g.head 0);
      fmtWidth c = 16 ∧ g.fullAt g.head 0 = true ∧ tagPlain (g.tagAt g.head 0) = true ∧ tagSame (g.tagAt g.head 0) k.decl =
      true ∧ slotPoisoned s.mem s.site.unit.cellId g (g.at_ g.head 0) = false ∧ k.tailSlot.st = .empty)) :=
  ⟨⟨.tmma mac0, mac0, 0, 0, ringed {}, full0, full0, midle_of (runs_of (by decide +kernel)) (by decide +kernel), rfl, by decide +kernel⟩,
  ⟨7, ringed {}, midle_of (runs_of (by decide +kernel)) (by decide +kernel), by decide +kernel⟩,
  ⟨0, 1, 10, ringed { mat := { acc := [(0, { st := .full, fmt := .int32 })] } }, empty1, midle_of (runs_of (by decide +kernel)) (by decide +kernel), by decide +kernel⟩,
  ⟨7, 0, ringed {}, full0, midle_of (runs_of (by decide +kernel)) (by decide +kernel), by decide +kernel⟩,
  ⟨7, 0, ringed {}, full0, .int32, midle_of (runs_of (by decide +kernel)) (by decide +kernel), by decide +kernel⟩,
  ⟨3, 4, { (ringed {}) with rings := [((⟨0, 0⟩, 3), { full0 with slots := [⟨.full, fmtTag 3, .nobody⟩] }),
      ((⟨0, 0⟩, 4), { empty1 with decl := fmtTag 3 })] }, { full0 with slots := [⟨.full, fmtTag 3, .nobody⟩] },
    { empty1 with decl := fmtTag 3 }, midle_of (runs_of (by decide +kernel)) (by decide +kernel), by decide +kernel⟩⟩

theorem witness_TilePairsStartAndRetire :
    (∃ (u : UnitId) (s : State) (q : _) (f : _) (a : _) (b : _) (sa : _) (sb : _), (s.unit u).mat.seq = some q ∧ s.macRings
      u.cellId q.word = some (f, a, b, sa, sb) ∧ s.alive u = true ∧ q.started = false ∧ q.k < tileCount f ∧ macFull q.word a b
      sa sb q.hA q.hB q.hSA q.hSB q.k = true ∧ (q.k = 0 ∨ s.macCheck u.cellId q.word a b sa sb q.hA q.hB q.hSA q.hSB q.k =
      none) ∧ (q.k = 0 ∨ ((s.unit u).mat.accOf f.acc).fmt = macAccFmt q.word (a.tagAt q.hA q.k) (b.tagAt q.hB q.k))) ∧
    (∃ (u : UnitId) (s : State) (q : _) (f : _) (a : _) (b : _) (sa : _) (sb : _), (s.unit u).mat.seq = some q ∧ s.macRings
      u.cellId q.word = some (f, a, b, sa, sb) ∧ s.alive u = true ∧ q.started = false ∧ q.k < tileCount f ∧ macFull q.word a b
      sa sb q.hA q.hB q.hSA q.hSB q.k = true ∧ (q.k = 0 ∨ s.macCheck u.cellId q.word a b sa sb q.hA q.hB q.hSA q.hSB q.k =
      none) ∧ q.k ≠ 0 ∧ ((s.unit u).mat.accOf f.acc).fmt ≠ macAccFmt q.word (a.tagAt q.hA q.k) (b.tagAt q.hB q.k)) ∧
    (∃ (u : UnitId) (s : State) (q : _) (f : _) (a : _) (b : _), (s.unit u).mat.seq = some q ∧ q.word = .tmma f ∧ q.started =
      true ∧ f.ringA ≠ f.ringB ∧ s.seqFree u = true ∧ s.ring? u.cellId f.ringA.toNat = some a ∧ s.ring? u.cellId f.ringB.toNat = some b) ∧
    (∃ (u : UnitId) (s : State) (q : _) (f : _) (na nb : _) (a : _) (b : _) (g : _), (s.unit u).mat.seq = some q ∧
      macOf q.word = some (f, na, nb) ∧ q.started = true ∧ s.ring? u.cellId f.ringA.toNat = some a ∧
      s.ring? u.cellId f.ringB.toNat = some b ∧ s.seqFree u = true ∧ na ≠ f.ringA.toNat ∧ na ≠ f.ringB.toNat ∧ na ≠ nb ∧
      s.ring? u.cellId na = some g ∧ nb ≠ f.ringA.toNat ∧ nb ≠ f.ringB.toNat ∧ s.ring? u.cellId nb = some g) ∧
    (∃ (u : UnitId) (s : State) (q : _) (f : _) (na : _) (a : _) (b : _) (g : _), (s.unit u).mat.seq = some q ∧
      macOf q.word = some (f, na, na) ∧ q.started = true ∧ s.ring? u.cellId f.ringA.toNat = some a ∧
      s.ring? u.cellId f.ringB.toNat = some b ∧ s.seqFree u = true ∧ na ≠ f.ringA.toNat ∧ na ≠ f.ringB.toNat ∧
      s.ring? u.cellId na = some g) ∧
    (∃ (u : UnitId) (s : State) (q : _) (f : _) (a : _), (s.unit u).mat.seq = some q ∧ q.word = .tmma f ∧ q.started =
      true ∧ f.ringA = f.ringB ∧ s.seqFree u = true ∧ s.ring? u.cellId f.ringA.toNat = some a) :=
  let side (nb : BitVec 4) : Seq := { slot := 0, word := .tmmag mac0 3 nb, started := true }
  let run (nb : BitVec 4) : State := { (ringed { mat := { seq := some (side nb) } }) with
    rings := [((⟨0, 0⟩, 0), full0), ((⟨0, 0⟩, 2), full0), ((⟨0, 0⟩, 3), empty1), ((⟨0, 0⟩, 4), empty1)] }
  ⟨⟨unit0, running (.tmma mac0) 0 false, { slot := 0, word := .tmma mac0 }, mac0, full0, full0, some full0, some full0, by decide +kernel⟩,
  ⟨unit0, running (.tmma { mac0 with count := 2 }) 1 false { st := .active, fmt := .fp32 }, { slot := 0, word := .tmma { mac0 with count := 2 }, k := 1 },
    { mac0 with count := 2 }, full0, full0, some full0, some full0, by decide +kernel⟩,
  ⟨unit0, running (.tmma mac0) 0 true, { slot := 0, word := .tmma mac0, started := true }, mac0, full0, full0, by decide +kernel⟩,
  ⟨unit0, run 4, side 4, mac0, 3, 4, full0, full0, empty1, by decide +kernel⟩,
  ⟨unit0, run 3, side 3, mac0, 3, full0, full0, empty1, by decide +kernel⟩,
  ⟨unit0, running (.tmma { mac0 with ringB := 0 }) 0 true, { slot := 0, word := .tmma { mac0 with ringB := 0 }, started := true },
    { mac0 with ringB := 0 }, full0, by decide +kernel⟩⟩

/-- A started tile pair, and a TLOAD, with a row of ring 0 still to be read. -/
theorem witness_MatrixReadsThroughBanks :
    (∃ (i : Instr) (u : UnitId) (s : State) (q : Seq), (s.unit u).mat.seq = some q ∧ q.left ≠ [] ∧
      i = .tilePairRetire u ∧ q.started = true ∧ (s.macRings u.cellId q.word).isSome = true) ∧
    (∃ (i : Instr) (u : UnitId) (s : State) (q : Seq), (s.unit u).mat.seq = some q ∧ q.left ≠ [] ∧
      i = .mWordRetire u ∧ macOf q.word = none) :=
  ⟨⟨.tilePairRetire unit0, unit0, ringed { mat := { seq := some { slot := 0, word := .tmma mac0, started := true, left := [0] } } },
    { slot := 0, word := .tmma mac0, started := true, left := [0] }, by decide +kernel⟩,
  ⟨.mWordRetire unit0, unit0, ringed { mat := { seq := some { slot := 0, word := .tload 7 0 true, left := [64] } } },
    { slot := 0, word := .tload 7 0 true, left := [64] }, by decide +kernel⟩⟩

/-- A TTRANS of 32-bit elements between rings 3 and 4. -/
def transposing : State :=
  { (ringed { mat := { seq := some { slot := 0, word := .ttrans 3 true 4, started := true, claims := [0, 1] } } }) with
    rings := [((⟨0, 0⟩, 3), { full0 with decl := fmtTag 8 }), ((⟨0, 0⟩, 4), { empty1 with decl := fmtTag 8 })] }

/-- The last row of a drained accumulator, and a row that waits for its bank. -/
theorem witness_OutRowsAreWritten :
    (∃ (u : UnitId) (s : State) (q : Seq) (n : _) (clr : _) (out fmt : BitVec 4) (r : _) (sh : _) (g : Ring) (i : Nat),
      q.word = .tdrain n clr out fmt r sh ∧ s.ring? u.cellId out.toNat = some g ∧ (fmt = 3 ∨ fmt = 4 ∨ fmt = 10) ∧
      ((s.unit u).mat.accOf n).entries.length = 1024 ∧ i < 32) ∧
    (∃ (u : UnitId) (s : State) (q : Seq) (ring out : BitVec 4) (pop : _) (g k : Ring) (n slot i : Nat),
      q.word = .ttrans ring pop out ∧ q.hold = [] ∧ s.ring? u.cellId ring.toNat = some g ∧ s.ring? u.cellId out.toNat = some k ∧
      (fmtWidth (tagFmt k.decl) = 16 ∨ fmtWidth (tagFmt k.decl) = 32 ∨ fmtWidth (tagFmt k.decl) = 64) ∧
      q.claims.length = transSlots (tagFmt k.decl) ∧ q.claims[n]? = some slot ∧ i < 32) ∧
    (∃ (u : UnitId) (s : State) (q : Seq), (s.unit u).mat.seq = some q ∧ macOf q.word = none ∧ q.left = [] ∧ q.out ≠ [] ∧
      s.mem.wf = true ∧ (q.out.map Prod.fst).Nodup ∧ (∀ e ∈ q.out, e.1 % 64 = 0)) :=
  ⟨⟨unit0, running (.tdrain 0 true 1 10 2 31) 0 true, { slot := 0, word := .tdrain 0 true 1 10 2 31, started := true }, 0, true, 1, 10, 2, 31, empty1,
    31, by decide +kernel⟩,
  ⟨unit0, transposing, { slot := 0, word := .ttrans 3 true 4, started := true, claims := [0, 1] }, 3, 4, true,
    { full0 with decl := fmtTag 8 }, { empty1 with decl := fmtTag 8 }, 1, 1, 31, by decide +kernel⟩,
  ⟨unit0, ringed { mat := { seq := some { slot := 0, word := .tdrain 0 true 1 10 2 31, started := true, out := [(2 ^ 52, 5)] } } },
    { slot := 0, word := .tdrain 0 true 1 10 2 31, started := true, out := [(2 ^ 52, 5)] }, by decide +kernel⟩⟩

theorem witness_IntegerTilePairAccumulates :
    ∃ (u : UnitId) (s : State) (q : _) (f : _) (a : _) (b : _), (s.unit u).mat.seq = some q ∧ q.word = .tmma f ∧ q.started =
      true ∧ s.seqFree u = true ∧ s.ring? u.cellId f.ringA.toNat = some a ∧ s.ring? u.cellId f.ringB.toNat = some b ∧ s.isat u.region = false ∧
      (let ca := tagFmt (a.tagAt q.hA q.k);
      let cb := tagFmt (b.tagAt q.hB q.k);
      (ca = 10 ∨ ca = 11) ∧ (cb = 10 ∨ cb = 11) ∧ ((s.unit u).mat.accOf f.acc).fmt = .int32 ∧ ((s.unit u).mat.accOf
      f.acc).entries.length = 1024) :=
  ⟨unit0, running (.tmma mac0) 0 true { fmt := .int32 }, { slot := 0, word := .tmma mac0, started := true }, mac0, full0, full0, by decide +kernel⟩

theorem witness_MatrixWordsRetire :
    (∃ (u : UnitId) (s : State) (q : _) (f : _) (na : _) (nb : _), (s.unit u).mat.seq = some q ∧ macOf q.word = some (f, na,
      nb) ∧ q.started = false ∧ tileCount f ≤ q.k) ∧
    (∃ (u : UnitId) (s : State) (q : _) (n : _), (s.unit u).mat.seq = some q ∧ q.word = .tzero n ∧ s.seqFree u = true) ∧
    (∃ (u : UnitId) (s : State) (q : _) (n : _) (clr : _) (out fmt : BitVec 4) (r : _) (sh : _) (g : _), (s.unit u).mat.seq =
      some q ∧ q.word = .tdrain n clr out fmt r sh ∧ s.ring? u.cellId out.toNat = some g ∧ q.claims.headD 0 < g.slots.length ∧
      q.started = true ∧ s.seqFree u = true) ∧
    (∃ (u : UnitId) (s : State) (q : _) (n : _) (ring : BitVec 4) (pop : _) (g : _), (s.unit u).mat.seq = some q ∧ q.word =
      .tload n ring pop ∧ s.seqFree u = true ∧ s.ring? u.cellId ring.toNat = some g ∧ tagFmt (g.tagAt q.hA 0) = 10) ∧
    (∃ (u : UnitId) (s : State) (q : _) (n : _) (ring : BitVec 4) (pop : _) (g : _) (af : _), (s.unit u).mat.seq = some q ∧
      q.word = .tload n ring pop ∧ s.seqFree u = true ∧ s.ring? u.cellId ring.toNat = some g ∧
      loadFmt (tagFmt (g.tagAt q.hA 0)) = some af ∧ af ≠ .int32) ∧
    (∃ (u : UnitId) (s : State) (q : _) (n : _) (ring : BitVec 4) (pop : _) (g : _), (s.unit u).mat.seq = some q ∧
      q.word = .taddr n ring pop ∧ s.seqFree u = true ∧ s.ring? u.cellId ring.toNat = some g ∧ tagFmt (g.tagAt q.hA 0) = 10 ∧
      ((s.unit u).mat.accOf n).fmt = .int32 ∧ s.isat u.region = false ∧ ((s.unit u).mat.accOf n).entries.length = 1024) ∧
    (∃ (u : UnitId) (s : State) (q : _) (ring out : BitVec 4) (pop : _) (g k : _), (s.unit u).mat.seq = some q ∧
      q.word = .ttrans ring pop out ∧ s.seqFree u = true ∧ q.started = true ∧ ring ≠ out ∧ q.hold = [] ∧
      s.ring? u.cellId ring.toNat = some g ∧ s.ring? u.cellId out.toNat = some k ∧ ∃ e ∈ q.claims, e < k.slots.length) :=
  ⟨⟨unit0, running (.tmma mac0) 1 false, { slot := 0, word := .tmma mac0, k := 1 }, mac0, 0, 0, by decide +kernel⟩,
  ⟨unit0, running (.tzero 7) 0 false, { slot := 0, word := .tzero 7 }, 7, by decide +kernel⟩,
  ⟨unit0, running (.tdrain 0 true 1 10 2 31) 0 true, { slot := 0, word := .tdrain 0 true 1 10 2 31, started := true }, 0, true, 1, 10, 2, 31, empty1, by decide +kernel⟩,
  ⟨unit0, running (.tload 7 0 true) 0 false, { slot := 0, word := .tload 7 0 true }, 7, 0, true, full0, by decide +kernel⟩,
  ⟨unit0, { (running (.tload 7 3 true) 0 false) with rings := [((⟨0, 0⟩, 3), { full0 with slots := [⟨.full, fmtTag 3, .nobody⟩] })] },
    { slot := 0, word := .tload 7 3 true }, 7, 3, true, { full0 with slots := [⟨.full, fmtTag 3, .nobody⟩] }, .fp32, by decide +kernel⟩,
  ⟨unit0, running (.taddr 0 0 true) 0 false { fmt := .int32 }, { slot := 0, word := .taddr 0 0 true }, 0, 0, true, full0, by decide +kernel⟩,
  ⟨unit0, transposing, { slot := 0, word := .ttrans 3 true 4, started := true, claims := [0, 1] }, 3, 4, true,
    { full0 with decl := fmtTag 8 }, { empty1 with decl := fmtTag 8 }, by decide +kernel, by decide +kernel, by decide +kernel, rfl, by decide +kernel,
    rfl, by decide +kernel, by decide +kernel, 0, by decide +kernel⟩⟩

theorem witness_IssueFaultsStopTheElement :
    (∃ (i : Instr) (v : EView) (pols : _) (f : _) (s : State), i.eview = some v ∧ issuePols s i = some pols ∧ memWord i = none ∧
      s.gate v pols = .raises f) ∧
    (∃ (i : Instr) (v : EView) (pols : _) (f : _) (op : _) (o : _) (s : State), i.eview = some v ∧ issuePols s i = some pols ∧
      memWord i = some (op, o, pols) ∧ op.stampScope? = none ∧ s.PortOpen op ∧ s.gate v pols = .raises f) ∧
    (∃ (i : Instr) (v : EView) (pols : _) (op : _) (o : _) (sys : _) (s : State), i.eview = some v ∧ memWord i = some (op, o, pols) ∧
      op.stampScope? = some sys ∧ s.PortOpen op ∧ s.stampBlocked (unitDie s.site.unit) sys = true ∧ s.gate v pols ≠ .wait) ∧
    (∃ (t : _) (d : _) (a : _) (b : _) (sys : _) (x y : _) (s : State), s.PortOpen (.ldas sys) ∧
      s.stampBlocked (unitDie s.site.unit) sys = false ∧ s.Clear (.std t d [a, b] .none) [{ align := 8 }] [x, y] ∧
      (s.die (unitDie s.site.unit)).l < y.val.toNat) ∧
    (∃ (t : Trig) (o : BitVec 2) (a b : Src) (c : _) (f : _) (s : State), s.readSrc s.site.unit t.ctx b = some c ∧
      s.gate { trig := t, ins := [a, b], outs := [pairOut o (!c.val.getLsbD 0)] } [{ marks := true, use := false }, {}] = .raises f) ∧
    (∃ (t : Trig) (iC : BitVec 3) (c : _) (f : _) (s : State), s.Runs s.site.unit s.site.slot t ∧
      s.readSrc s.site.unit t.ctx (.take iC) = some c ∧ c.check {} = some f) ∧
    (∃ (t : Trig) (d : Dst) (iT iF iC : BitVec 3) (c : _) (f : _) (s : State), s.Runs s.site.unit s.site.slot t ∧
      s.readSrc s.site.unit t.ctx (.take iC) = some c ∧ c.check {} = none ∧
      s.gate (.std t d [.take iC, .take (if c.val.getLsbD 0 then iT else iF)] .none)
        [{}, { marks := true, use := false }] = .raises f) ∧
    (∃ (t : Trig) (o : BitVec 2) (a : Src) (x : _) (s : State), s.Clear { trig := t, ins := [a], outs := [o.setWidth 3] } [] [x] ∧
      s.permitPair s.site.unit o.toNat = none) ∧
    (∃ (t : Trig) (iS iP : BitVec 3) (x q : _) (h : _) (s : State),
      s.Able s.site.unit s.site.slot { trig := t, ins := [.take iS, .take iP] } ∧
      s.readSrcs s.site.unit t.ctx [.take iS, .take iP] = some [x, q] ∧ x.tok = some h ∧ (h.kind ≠ 0 ∨ (h.utag ≠ 1 ∧ h.utag ≠ 2))) ∧
    (∃ (t : Trig) (iS iP : BitVec 3) (x q : _) (h : _) (f : _) (s : State),
      s.Able s.site.unit s.site.slot { trig := t, ins := [.take iS, .take iP] } ∧
      s.readSrcs s.site.unit t.ctx [.take iS, .take iP] = some [x, q] ∧ x.tok = some h ∧ h.kind = 0 ∧ h.utag = 1 ∧
      q.check { use := false } = some f) ∧
    (∃ (t : Trig) (o : BitVec 3) (iS iP : BitVec 3) (x q : _) (h : _) (s : State),
      s.Able s.site.unit s.site.slot { trig := t, ins := [.take iS, .take iP] } ∧
      s.readSrcs s.site.unit t.ctx [.take iS, .take iP] = some [x, q] ∧ x.tok = some h ∧ h.kind = 0 ∧ h.utag = 1 ∧
      q.check { use := false } = none ∧ s.sendPair s.site.unit o.toNat = none) ∧
    (∃ (s : State), let u := s.site.unit
      (s.unit u).efault.getLsbD 63 = false ∧ (s.region u.region).launch.isSome = true ∧ (s.core u.region).handlesFabric = false) ∧
    (∃ (s : State), let u := s.site.unit
      (s.unit u).efault.getLsbD 63 = false ∧ (s.core u.region).handlesFabric = true) ∧
    (∃ (s : State), let u := s.site.unit
      (s.unit u).efault.getLsbD 63 = true ∧ (s.unit u).faultTick ≤ s.ticket) ∧
    (∃ (u : UnitId) (tick : Nat) (s : State), (s.unit u).efault.getLsbD 63 = true ∧ (s.unit u).faultCyc = s.cyc ∧
      tick < (s.unit u).faultTick) ∧
    (∃ (u : UnitId) (tick : Nat) (s : State), (s.unit u).efault.getLsbD 63 = true ∧ (s.unit u).faultCyc = s.cyc ∧
      ¬ tick < (s.unit u).faultTick) :=
  let live : Tok := { (tok 0) with utag := 1 }
  let mark : Tok := { (tok 1) with kind := 2 }
  have open_ (x : EUnit) (op : MemOp) (h : x.reqs = []) : (hold x []).PortOpen op := by
    intro q e; simp [hold, State.unit, unit0, Map.get, h] at e
  ⟨⟨.add go (.x 0) (.take 0) .zero .none, .std go (.x 0) [.take 0, .zero] .none, [], ⟨0x06, some 0, { (tok 1) with poison := true }.sideband⟩,
    hold {} [(0, { (tok 1) with poison := true })], by decide +kernel⟩,
  ⟨.st go .discard (.x 1) (.x 2) .plain, .std go .discard [.x 1, .x 2] .none, [{ align := 8 }, { use := false }], ⟨0x02, none, 0⟩, .store 8, .plain,
    hold (regs 0xFFF9 5) [], rfl, rfl, rfl, rfl, open_ _ _ rfl, by decide +kernel⟩,
  ⟨.stsc go .discard (.x 1) (.x 2) true, .std go .discard [.x 1, .x 2] .none, [{ align := 8 }, { use := false }], .stsc true, .plain, true,
    { (hold (regs 0xFFF8 5) []) with dies := [(0, { wide := true })] }, rfl, rfl, rfl, open_ _ _ rfl, by decide +kernel, by decide +kernel⟩,
  ⟨go, .x 1, .x 1, .x 2, false, { val := 0xFFF8 }, { val := 5 }, hold (regs 0xFFF8 5) [], open_ _ _ rfl, by decide +kernel,
    clear_of (runs_of (by decide +kernel)) (by decide +kernel), by decide +kernel⟩,
  ⟨go, 0, .x 1, .take 0, opnd mark, ⟨0x0D, some 0, mark.sideband⟩, hold {} [(0, mark)], by decide +kernel, by decide +kernel⟩,
  ⟨go, 0, opnd mark, ⟨0x0D, some 0, mark.sideband⟩, hold {} [(0, mark)], runs_of (by decide +kernel), by decide +kernel⟩,
  ⟨go, .x 1, 1, 2, 0, opnd (tok 1), ⟨0x0D, some 1, { (tok 1) with kind := 3 }.sideband⟩, hold {} [(0, tok 1), (1, { (tok 1) with kind := 3 })],
    runs_of (by decide +kernel), by decide +kernel⟩,
  ⟨go, 0, .take 0, opnd (tok 1), hold {} [(0, tok 1)], clear_of (runs_of (by decide +kernel)) (by decide +kernel), by decide +kernel⟩,
  ⟨go, 1, 2, opnd (tok 5) 1, opnd (tok 0) 2, tok 5, hold {} [(1, tok 5), (2, tok 0)], able_of (runs_of (by decide +kernel)) (by decide +kernel), by decide +kernel⟩,
  ⟨go, 1, 2, opnd live 1, opnd mark 2, live, ⟨0x0D, some 2, mark.sideband⟩, hold {} [(1, live), (2, mark)], able_of (runs_of (by decide +kernel)) (by decide +kernel), by decide +kernel⟩,
  ⟨go, 4, 1, 2, opnd live 1, opnd (tok 0) 2, live, hold {} [(1, live), (2, tok 0)], able_of (runs_of (by decide +kernel)) (by decide +kernel), by decide +kernel⟩,
  ⟨hold {} [], by decide +kernel⟩,
  ⟨{ (hold {} []) with regions := [(0, { launch := some 1, core := { handler := true, estat := 2, ecause := 0x16 } })] }, by decide +kernel⟩,
  ⟨hold { efault := 2 ^ 63 } [], by decide +kernel⟩,
  ⟨unit0, 3, hold { efault := 2 ^ 63, faultTick := 4 } [], by decide +kernel⟩,
  ⟨unit0, 4, hold { efault := 2 ^ 63, faultTick := 4 } [], by decide +kernel⟩⟩

theorem witness_WriteBackLands :
    (∃ (u : UnitId) (s : State) (f : Flight), (s.unit u).flights.find? (fun g => g.due ≤ s.cyc) = some f ∧ f.land.rows = [] ∧
      (∀ a ∈ f.land.reads, s.bankServes a 1 = true) ∧ (s.region u.region).amode.extractLsb' 0 6 &&& f.land.flags = 0) ∧
    (∃ (u : UnitId) (s : State) (f : Flight), (s.unit u).flights.find? (fun g => g.due ≤ s.cyc) = some f ∧ f.land.rows = [] ∧
      (∀ a ∈ f.land.reads, s.bankServes a 1 = true) ∧ (s.region u.region).amode.extractLsb' 0 6 &&& f.land.flags ≠ 0 ∧
      (s.unit u).efault.getLsbD 63 = false) ∧
    (∃ (u : UnitId) (s : State) (f : Flight) (a : Nat), (s.unit u).flights.find? (fun g => g.due ≤ s.cyc) = some f ∧ f.land.rows = [] ∧
      a ∈ f.land.reads ∧ s.bankServes a 1 = false) ∧
    (∃ (u : UnitId) (s : State) (f : Flight) (w : RowWrite) (g : Ring), (s.unit u).flights.find? (fun g => g.due ≤ s.cyc) = some f ∧
      f.land.rows = [w] ∧ f.land.reads = [] ∧ s.ring? u.cellId w.ring = some g ∧ s.mem.wf = true ∧ g.base % 64 = 0 ∧
      (∀ e ∈ (s.unit u).flights, e.tick < f.tick → ∀ v ∈ e.land.rows, v.ring ≠ w.ring) ∧
      s.bankServes (ringAddr u.cellId g w.slot w.row) 2 = true ∧ w.commit = true ∧ w.slot < g.slots.length) ∧
    (∃ (u : UnitId) (s : State) (f : Flight) (w : RowWrite) (g : Ring), (s.unit u).flights.find? (fun g => g.due ≤ s.cyc) = some f ∧
      f.land.rows = [w] ∧ f.land.reads = [] ∧ s.ring? u.cellId w.ring = some g ∧ s.mem.wf = true ∧ g.base % 64 = 0 ∧
      (∀ e ∈ (s.unit u).flights, e.tick < f.tick → ∀ v ∈ e.land.rows, v.ring ≠ w.ring) ∧
      s.bankServes (ringAddr u.cellId g w.slot w.row) 2 = false) :=
  let a0 := ringAddr unit0.cellId full0 0 0
  let a1 := ringAddr unit0.cellId empty1 0 31
  let rd : Flight := ⟨0, 0, 0, 0, { vregs := [(3, 0, 0, false)], reads := [a0] }⟩
  let wr : Flight := ⟨0, 0, 0, 0, { rows := [⟨1, 0, 31, 5, false, true⟩] }⟩
  ⟨⟨unit0, hold { flights := [⟨0, 0, 0, 0, { reg := some (1, 5, false), regPend := some 1 }⟩] } [],
    ⟨0, 0, 0, 0, { reg := some (1, 5, false), regPend := some 1 }⟩, by decide +kernel⟩,
  ⟨unit0, { regions := [(0, { launch := some 1, amode := 1 })], units := [(unit0, { flights := [⟨0, 0, 0, 0, { flags := 3 }⟩] })] },
    ⟨0, 0, 0, 0, { flags := 3 }⟩, by decide +kernel⟩,
  ⟨unit0, { (ringed { flights := [rd] }) with banksBusy := [(bankOf a0).getD (0, 0)] }, rd, a0, by decide +kernel⟩,
  ⟨unit0, ringed { flights := [wr] }, wr, ⟨1, 0, 31, 5, false, true⟩, empty1, by decide +kernel⟩,
  ⟨unit0, { (ringed { flights := [wr] }) with banksBusy := [(bankOf a1).getD (0, 0)] }, wr, ⟨1, 0, 31, 5, false, true⟩, empty1, by decide +kernel⟩⟩

/-- A machine with one channel that ends at input 3 of unit0, in a region whose phases know tag 0. -/
def wired (c : Chan) : State :=
  { regions := [(0, { launch := some 1, tags_ := [0] })], units := [(unit0, {})], chans := [(.inp unit0 3, c)] }

theorem witness_TokensMove :
    (∃ (u : UnitId) (k : _) (s : State) (n : _) (x : Tok) (ps : _), (s.chan (.inp u k)).places = (n, some x) :: ps ∧ (s.chan
      (.inp u k)).hops = [] ∧ s.inputOpen u k = true ∧ (s.region u.region).knowsTag x.tag = true) ∧
    (∃ (u : UnitId) (k : _) (s : State) (n : _) (x : Tok) (ps : _), (s.chan (.inp u k)).places = (n, some x) :: ps ∧ (s.chan
      (.inp u k)).hops = [] ∧ s.inputOpen u k = true ∧ (s.region u.region).knowsTag x.tag = false) ∧
    (∃ (u : UnitId) (s : State) (m : Multi) (base : _) (st : _) (k : _) (n : _), (s.unit u).multi = some m ∧ m.due ≤ s.cyc ∧
      m.mark = none ∧ m.reserved = true ∧ m.src = .gen base st k n ∧ k + 1 < n ∧ (s.region u.region).rotates u 0 = false) ∧
    (∃ (u : UnitId) (k : _) (s : State) (l : VLoad) (x : Tok), (s.unit u).vec.loads.find? (fun m => m.inp = k) = some l ∧
      s.head? u k = some x ∧ (s.region u.region).frozen = none ∧ x.tag = (s.region u.region).tag ∧ (x.kind = 0 ∨ x.kind = 1)) ∧
    (∃ (u : UnitId) (o : _) (s : State) (l : VSend) (w : _) (ws : _), (s.unit u).vec.sends.find? (fun m => m.out = o) = some l
      ∧ l.left = w :: ws ∧ l.due ≤ s.cyc ∧ (s.region u.region).frozen = none ∧ (∀ m ∈ (s.unit u).marks, m.2.2 ≠ o) ∧ s.outRoom u o = true) ∧
    (∃ (u : UnitId) (s : State) (due tick o : Nat) (ms : _), (s.unit u).multi = none ∧ (s.unit u).marks = (due, tick, o) :: ms ∧
      due ≤ s.cyc ∧ s.outRoom u o = true) :=
  ⟨⟨unit0, 3, wired { places := [(0, some (tok 9))] }, 0, tok 9, [], by decide +kernel⟩,
  ⟨unit0, 3, wired { places := [(0, some { (tok 9) with tag := 1 })] }, 0, { (tok 9) with tag := 1 }, [], by decide +kernel⟩,
  ⟨unit0, hold { multi := some ⟨0, 0, 0, 0, .gen 5 8 0 2, true, {}, none⟩ } [], ⟨0, 0, 0, 0, .gen 5 8 0 2, true, {}, none⟩, 5, 8, 0, 2, by decide +kernel⟩,
  ⟨unit0, 2, hold { vec := { loads := [⟨0, 0, 2, 1, [1, 2, 3, 4, 5, 6, 7], false, 0⟩] } } [(2, tok 9)], ⟨0, 0, 2, 1, [1, 2, 3, 4, 5, 6, 7], false, 0⟩, tok 9, by decide +kernel⟩,
  ⟨unit0, 3, hold { vec := { sends := [⟨0, 3, [7], false, 0, 0⟩] } } [], ⟨0, 3, [7], false, 0, 0⟩, 7, [], by decide +kernel⟩,
  ⟨unit0, hold { marks := [(0, 4, 3)] } [], 0, 4, 3, [], by decide +kernel⟩⟩

/-- A core whose globals g1, g2 and g3 hold three values, with a code area at 0 and a data area in DRAM. -/
def core3 (a b c : Word) : Core :=
  { g := #v[{}, .of a false, .of b false, .of c false, {}, {}, {}, {}], codeSize := 64, codeP := 0x1000,
    dataV := 0x10000, dataP := 0x100000, dataSize := 0x10000 }
/-- Region 0 with a core. -/
def at0 (k : Core) : State := { regions := [(0, { launch := some 1, core := k })] }
/-- A poisoned g1. -/
def bad1 : Core := { (core3 0 0 0) with g := #v[{}, .of 0 true, {}, {}, {}, {}, {}, {}] }
/-- A region with one stamped page at 0x40000, whose backing stands at 0x10000 (R353). -/
def stampedMem : Memory := ((Memory.empty.writeNat 0x2000 8 0x3003).writeNat 0x3000 8 0x10001)
def paged (a b c : Word) : State :=
  let e : RangeEnt := ⟨0x40000, 0x10000, 0x2000, 0x87⟩
  { mem := stampedMem, regions := [(0, { launch := some 1, core := core3 a b c, ranges := [((4, 0), e), ((0, 0), e)] })] }

theorem witness_CoreArithmeticDelivers :
    ∃ (i : Instr) (s : State) (reads : _) (d : _) (val : _), coreWord i (s.greg s.site.region) = some (reads, d, val) ∧
      s.CleanRegs s.site.region reads :=
  ⟨.coreAdd 0 1 2, at0 (core3 (-1) 1 0), [1, 2], 0, 0, rfl, clean_of (by decide +kernel)⟩

theorem witness_CorePoisonIsPrecise :
    ∃ (i : Instr) (s : State) (reads : _) (d : _) (val : _) (a : _), coreWord i (s.greg s.site.region) = some (reads, d, val)
      ∧ reads.find? (fun a => ((s.core s.site.region).read a).bad) = some a :=
  ⟨.coreAdd 3 2 1, at0 bad1, [2, 1], 3, 0, 1, rfl, by decide +kernel⟩

theorem witness_CoreLoadsDeliver :
    (∃ (i : Instr) (s : State) (d : _) (a : _) (off : _) (n : _) (sx : _) (g : _) (v : _) (p : _), coreLoadOf i = some (d, a,
      off, n, sx) ∧
      (let r := s.site.region;
      let va := toWord ((s.greg r a).toInt + off.toInt);
      s.CleanRegs r [a] ∧ va.toNat % n = 0 ∧ s.translateCore r va .load = .ok g ∧ s.routeDown (regionDie r) g.addr = false ∧
      (s.core r).overlaps g.addr n = false ∧ s.postedBlocks g.addr s.ticket = false ∧ s.readTarget g n = some (v, p) ∧
      s.bankServes g.addr 4 = true)) ∧
    (∃ (i : Instr) (s : State) (d : _) (a : _) (off : _) (n : _) (sx : _) (g : _) (v : _) (p : _), coreLoadOf i = some (d, a,
      off, n, sx) ∧
      (let r := s.site.region;
      let va := toWord ((s.greg r a).toInt + off.toInt);
      s.CleanRegs r [a] ∧ va.toNat % n = 0 ∧ s.translateCore r va .load = .ok g ∧ s.routeDown (regionDie r) g.addr = false ∧
      (s.core r).overlaps g.addr n = false ∧ s.postedBlocks g.addr s.ticket = false ∧ s.readTarget g n = some (v, p) ∧
      s.bankServes g.addr 4 = false)) :=
  ⟨⟨.ldb 3 1 (-1), at0 (core3 0x10001 0 0), 3, 1, -1, 1, true, .plain 0x100000, 0, false, rfl, clean_of (by decide +kernel), by decide +kernel⟩,
  ⟨.ldd 3 1 0, { (at0 (core3 0xFFFFFFFFFF800040 0 0)) with banksBusy := [(10000, 1)] }, 3, 1, 0, 8, false, .plain (2 ^ 53 + 64), 0, false, rfl,
    clean_of (by decide +kernel), by decide +kernel⟩⟩

theorem witness_CoreStoresAreAccepted :
    ∃ (i : Instr) (s : State) (d : _) (a : _) (off : _) (n : _) (rel : _) (g : _), coreStoreOf i = some (d, a, off, n, rel) ∧
      (let r := s.site.region;
      let va := toWord ((s.greg r a).toInt + off.toInt);
      s.CleanRegs r [a] ∧ va.toNat % n = 0 ∧ s.translateCore r va .store = .ok g) :=
  ⟨.std 2 1 0xFFF8, at0 (core3 0x10008 9 0), 2, 1, 0xFFF8, 8, none, .plain 0x100000, rfl, clean_of (by decide +kernel), by decide +kernel⟩

theorem witness_CoreAccessFaultsInOrder :
    (∃ (i : Instr) (s : State) (d : _) (a : _) (off : _) (n : _) (sx : _), coreLoadOf i = some (d, a, off, n, sx) ∧ ((s.core
      s.site.region).read a).bad = true) ∧
    (∃ (i : Instr) (s : State) (d : _) (a : _) (off : _) (n : _) (rel : _), coreStoreOf i = some (d, a, off, n, rel) ∧
      s.CleanRegs s.site.region [a] ∧ (toWord ((s.greg s.site.region a).toInt + off.toInt)).toNat % n ≠ 0) ∧
    (∃ (i : Instr) (s : State) (d : _) (a : _) (off : _) (n : _) (rel : _), coreStoreOf i = some (d, a, off, n, rel) ∧
      s.CleanRegs s.site.region [a] ∧ (toWord ((s.greg s.site.region a).toInt + off.toInt)).toNat % n = 0 ∧ s.translateCore
      s.site.region (toWord ((s.greg s.site.region a).toInt + off.toInt)) .store = .prot) ∧
    (∃ (i : Instr) (s : State) (d : _) (a : _) (off : _) (n : _) (sx : _), coreLoadOf i = some (d, a, off, n, sx) ∧
      s.CleanRegs s.site.region [a] ∧ (toWord ((s.greg s.site.region a).toInt + off.toInt)).toNat % n = 0 ∧ s.translateCore
      s.site.region (toWord ((s.greg s.site.region a).toInt + off.toInt)) .load = .absent) :=
  ⟨⟨.ldd 3 1 0, at0 bad1, 3, 1, 0, 8, false, by decide +kernel⟩,
  ⟨.coreSth 3 1 0, at0 (core3 0x10001 0 0), 3, 1, 0, 2, none, rfl, clean_of (by decide +kernel), by decide +kernel⟩,
  ⟨.coreSth 3 1 (-2), at0 (core3 2 0 0), 3, 1, -2, 2, none, rfl, clean_of (by decide +kernel), by decide +kernel⟩,
  ⟨.ldd 3 1 8, { (paged 0x40000 0 0) with mem := .empty }, 3, 1, 8, 8, false, rfl, clean_of (by decide +kernel), by decide +kernel⟩⟩

theorem witness_CoreAtomicsAct :
    ∃ (i : Instr) (s : State) (d : _) (a : _) (b : _) (o : _) (f : _) (uses : _) (g : _), coreAmoOf i = some (d, a, b, o, f,
      uses) ∧ s.mem.wf = true ∧
      (let r := s.site.region;
      let va := s.greg r a;
      s.CleanRegs r ([a] ++ (if uses then [b] else [])) ∧ ((∃ d a b o, i = .amocas d a b o) → s.CleanRegs r [d]) ∧ va.toNat %
      8 = 0 ∧ s.translateCore r va .atomic = .ok (.plain g) ∧ s.routeDown (regionDie r) g = false ∧ (o ≠ .plain →
      s.coreOwes r = false) ∧ (s.core r).overlaps g 8 = false ∧ s.postedBlocks g s.ticket = false ∧ s.bankServes g 4 = true ∧
      s.trapsOn r flagSAT = false) :=
  ⟨.amocas 3 1 2 .plain, at0 (core3 0x10000 9 0), 3, 1, 2, .plain, _, false, 0x100000, rfl, by decide +kernel, clean_of (by decide +kernel), fun _ => clean_of (by decide +kernel), by decide +kernel⟩

theorem witness_BranchesAndJumpsGo :
    (∃ (i : Instr) (s : State) (a : _) (b : _) (off : _) (cond : _), branchOf i = some (a, b, off, cond) ∧ s.CleanRegs
      s.site.region [a, b] ∧ ¬ cond (s.greg s.site.region a) (s.greg s.site.region b)) ∧
    (∃ (i : Instr) (s : State) (a : _) (b : _) (off : _) (cond : _), branchOf i = some (a, b, off, cond) ∧ s.CleanRegs
      s.site.region [a, b] ∧ cond (s.greg s.site.region a) (s.greg s.site.region b) ∧ (s.core s.site.region).inCode ((s.core
      s.site.region).pc + toWord (4 * off.toInt)) = true) ∧
    (∃ (i : Instr) (s : State) (a : _) (b : _) (off : _) (cond : _), branchOf i = some (a, b, off, cond) ∧ s.CleanRegs
      s.site.region [a, b] ∧ cond (s.greg s.site.region a) (s.greg s.site.region b) ∧ (s.core s.site.region).inCode ((s.core
      s.site.region).pc + toWord (4 * off.toInt)) = false) ∧
    (∃ (off : BitVec 26) (s : State), (s.core s.site.region).inCode ((s.core s.site.region).pc + toWord (4 * off.toInt)) =
      true) ∧
    (∃ (a : _) (s : State), s.CleanRegs s.site.region [a] ∧ (s.greg s.site.region a).toNat % 4 = 0 ∧ (s.core
      s.site.region).inCode (s.greg s.site.region a) = true) ∧
    (∃ (a : _) (s : State), s.CleanRegs s.site.region [a] ∧ (s.greg s.site.region a).toNat % 4 ≠ 0) :=
  ⟨⟨.blt 1 2 4, at0 (core3 1 (-1) 0), 1, 2, 4, _, rfl, clean_of (by decide +kernel), by decide⟩,
  ⟨.bltu 1 2 15, at0 (core3 1 (-1) 0), 1, 2, 15, _, rfl, clean_of (by decide +kernel), by decide, by decide +kernel⟩,
  ⟨.bltu 1 2 16, at0 (core3 1 (-1) 0), 1, 2, 16, _, rfl, clean_of (by decide +kernel), by decide, by decide +kernel⟩,
  ⟨15, at0 (core3 0 0 0), by decide +kernel⟩,
  ⟨1, at0 (core3 60 0 0), clean_of (by decide +kernel), by decide +kernel⟩,
  ⟨1, at0 (core3 2 0 0), clean_of (by decide +kernel), by decide +kernel⟩⟩

theorem witness_CallsAndReturnsMoveWindows :
    (∃ (off : BitVec 26) (s : State),
      let r := s.site.region;
      let target := (s.core r).pc + toWord (4 * off.toInt);
      (s.core r).roomy ∧ (s.core r).inCode target = true) ∧
    (∃ (a : _) (s : State),
      let r := s.site.region;
      (s.core r).roomy ∧ s.CleanRegs r [a] ∧ (s.greg r a).toNat % 4 = 0 ∧ (s.core r).inCode (s.greg r a) = true) ∧
    (∃ (s : State),
      let r := s.site.region;
      s.CleanRegs r [23] ∧ (s.greg r 23).toNat % 4 = 0 ∧ (s.core r).inCode (s.greg r 23) = true ∧ 16 ≤ (s.core r).wptr ∧
      (s.core r).wbot ≠ (s.core r).wptr) ∧
    (∃ (s : State),
      let r := s.site.region;
      s.CleanRegs r [23] ∧ (s.greg r 23).toNat % 4 = 0 ∧ (s.core r).wptr = 0) :=
  ⟨⟨15, at0 (core3 0 0 0), roomy_of (by decide +kernel), by decide +kernel⟩,
  ⟨1, at0 (core3 60 0 0), roomy_of (by decide +kernel), clean_of (by decide +kernel), by decide +kernel⟩,
  ⟨at0 { (core3 0 0 0) with wptr := 16 }, clean_of (by decide +kernel), by decide +kernel⟩,
  ⟨at0 (core3 0 0 0), clean_of (by decide +kernel), by decide +kernel⟩⟩

theorem witness_SpilledFramesComeBack :
    ∃ (s : State) (r i : Nat) (as : List Nat), s.mem.wf = true ∧ as.length = 16 ∧ i < 16 ∧
      as.Pairwise (fun a b => a + 8 ≤ b ∨ b + 8 ≤ a) ∧ (∀ a ∈ as, a % 8 = 0 ∧ remoteRoute (regionDie r) a = []) :=
  ⟨{}, 0, 15, (List.range 16).map (fun k => 0x1000 + 8 * k), by decide +kernel⟩

theorem witness_TrapEntrySaves :
    ∃ (s : State) (r : _), (s.core r).handler = false ∧ (s.core r).roomy :=
  ⟨at0 { (core3 0 0 0) with wptr := 88 }, 0, by decide +kernel, roomy_of (by decide +kernel)⟩

theorem witness_DoubleFaultStopsTheCore :
    (∃ (s t : State) (r q : Nat), (s.core r).handler = true ∧ (t.core q).handler = false ∧
      (t.core q).wbot + 128 < (t.core q).wptr + 40 ∧ (t.core q).slots ≤ (t.core q).wbot / 16 ∧ (t.region q).coreFrozen = false ∧
      (t.core q).stall = none ∧ (t.core q).run ≠ .doubleFault ∧ (t.core q).pend.take?.isSome = true) ∧
    (∃ (s : State) (r : Nat) (ts : List Turn), (s.core r).run = .doubleFault ∧ s.agenda = .core r :: ts ∧ r < 80) :=
  ⟨⟨at0 { (core3 0 0 0) with handler := true },
    at0 { (core3 0 0 0) with wptr := 112, wbot := 16, wlim := 128, pend := { watchdog := some 0 } }, 0, 0, by decide +kernel⟩,
    ⟨{ (at0 { (core3 0 0 0) with run := .doubleFault }) with agenda := [.core 0] }, 0, [], by decide +kernel⟩⟩

theorem witness_TrapsAndReturnsAct :
    (∃ (a : _) (s : State), s.CleanRegs s.site.region [a]) ∧
    (∃ (s : State), s.routesBrk = false) ∧
    (∃ (s : State),
      let r := s.site.region;
      (s.core r).handler = true ∧ 16 ≤ (s.core r).wptr ∧ (s.core r).wbot ≠ (s.core r).wptr ∧ (s.core r).inCode (s.core r).epc
      = true ∧ ((s.core r).estat.getLsbD 0 = true ∨ (s.core r).pend = {})) :=
  ⟨⟨1, at0 (core3 7 0 0), clean_of (by decide +kernel)⟩,
  ⟨{}, by decide +kernel⟩,
  ⟨at0 { (core3 0 0 0) with handler := true, wptr := 16, epc := 60 }, by decide +kernel⟩⟩

theorem witness_AsynchronousCausesAreTaken :
    (∃ (s : State) (r : _) (c : _) (v : _) (rest : _), (s.region r).coreFrozen = false ∧ (s.core r).stall = none ∧ (s.core
      r).handler = false ∧ (s.core r).run ≠ .doubleFault ∧ (s.core r).roomy ∧ (s.core r).pend.take? = some (c, v, rest)) ∧
    (∃ (s : State) (r : _), (s.core r).handler = true) :=
  ⟨⟨at0 { (core3 0 0 0) with pend := { watchdog := some 9, page := some 5 } }, 0, .watchdog, 9, { page := some 5 }, rfl, rfl, rfl, by decide +kernel, roomy_of (by decide +kernel), rfl⟩,
  ⟨at0 { (core3 0 0 0) with handler := true }, 0, by decide +kernel⟩⟩

theorem witness_FenceAndPhaseAct :
    (∃ (k : FenceKind) (s : State), let r := s.site.region
      k ≠ .acq ∧ (k = .acq ∨ ((s.core r).stores = [] ∧ ∀ x ∈ s.stamped, x.byCore = true → x.region = r → x.installed = true))) ∧
    (∃ (k : FenceKind) (s : State), k ≠ .acq ∧ (s.core s.site.region).stores ≠ []) ∧
    (∃ (k : FenceKind) (s : State), let r := s.site.region
      k ≠ .acq ∧ (s.core r).stores = [] ∧ ∃ x ∈ s.stamped, x.byCore = true ∧ x.region = r ∧ x.installed = false) ∧
    (∃ (a : _) (s : State),
      let r := s.site.region;
      s.CleanRegs r [a]) :=
  ⟨⟨.rel, { stamped := [⟨0x10040, 9, false, false, 4, 0, true, .core 0, 0, 1, true, none, 0⟩] }, by decide +kernel⟩,
  ⟨.rel, at0 { (core3 0 0 0) with stores := [⟨0, 0x100000, 8, 5, false, none⟩] }, by decide +kernel⟩,
  ⟨.full, { stamped := [⟨0x10040, 9, false, false, 4, 0, false, .nobody, 0, 1, true, none, 0⟩] }, by decide +kernel⟩,
  ⟨1, at0 (core3 7 0 0), clean_of (by decide +kernel)⟩⟩

theorem witness_TimeInstructionsRead :
    (∃ (a : _) (s : State), s.CleanRegs s.site.region [a] ∧ (s.greg s.site.region a).toNat ≤ s.cyc) ∧
    (∃ (a : _) (s : State), s.CleanRegs s.site.region [a] ∧ s.cyc < (s.greg s.site.region a).toNat) ∧
    (∃ (a : _) (sys : Bool) (s : State), s.CleanRegs s.site.region [a] ∧ ¬ (sys = true ∧ s.hub.stall152 = true) ∧ (s.greg
      s.site.region a).toNat < s.floorAt sys (regionDie s.site.region)) ∧
    (∃ (a : _) (sys : Bool) (s : State), s.CleanRegs s.site.region [a] ∧ ¬ (sys = true ∧ s.hub.stall152 = true) ∧ s.floorAt
      sys (regionDie s.site.region) ≤ (s.greg s.site.region a).toNat) ∧
    (∃ (s : State), s.hub.stall152 = true) :=
  ⟨⟨1, { (at0 (core3 7 0 0)) with cyc := 7 }, clean_of (by decide +kernel), by decide +kernel⟩,
  ⟨1, { (at0 (core3 8 0 0)) with cyc := 7 }, clean_of (by decide +kernel), by decide +kernel⟩,
  ⟨1, false, { (at0 (core3 7 0 0)) with dies := [(0, { floor := 8 })] }, clean_of (by decide +kernel), by decide +kernel⟩,
  ⟨1, true, { (at0 (core3 8 0 0)) with dies := [(0, { sysFloor := 8 })] }, clean_of (by decide +kernel), by decide +kernel⟩,
  ⟨{ hub := { stall152 := true } }, rfl⟩⟩

theorem witness_StampedCoreInstructionsAct :
    (∃ (a : _) (sys : _) (s : State) (g : _),
      let r := s.site.region;
      let die := regionDie r;
      s.stampBlocked die sys = false ∧ s.CleanRegs r [a] ∧ (s.greg r a).toNat % 8 = 0 ∧ s.translateCore r (s.greg r a)
      .stampedStore = .ok g) ∧
    (∃ (a : _) (b : _) (sys : _) (s : State) (g : _),
      let r := s.site.region;
      s.stampBlocked (regionDie r) sys = false ∧ s.CleanRegs r [a, b] ∧ (s.greg r a).toNat % 8 = 0 ∧ (s.greg r b).toNat ≤
      (s.die (regionDie r)).l ∧ s.translateCore r (s.greg r a) .stampedLoad = .ok g) ∧
    (∃ (sys : _) (s : State),
      let r := s.site.region;
      s.stampBlocked (regionDie r) sys = true) ∧
    (∃ (a : _) (b : _) (sys : _) (s : State),
      let r := s.site.region;
      s.stampBlocked (regionDie r) sys = false ∧ s.CleanRegs r [a, b] ∧ (s.greg r a).toNat % 8 = 0 ∧ (s.die (regionDie r)).l <
      (s.greg r b).toNat) :=
  ⟨⟨1, true, paged 0x4FFF8 0 0, .stamped 0x10000 0xFFF8, by decide +kernel, clean_of (by decide +kernel), by decide +kernel⟩,
  ⟨1, 2, true, paged 0x4FFF8 0 0, .stamped 0x10000 0xFFF8, by decide +kernel, clean_of (by decide +kernel), by decide +kernel⟩,
  ⟨true, { hub := { stall152 := true } }, by decide +kernel⟩,
  ⟨1, 2, true, paged 0x4FFF8 1 0, by decide +kernel, clean_of (by decide +kernel), by decide +kernel⟩⟩

theorem witness_TagTableActs :
    (∃ (a : _) (s : State),
      let r := s.site.region;
      s.CleanRegs r [a] ∧ canonical (s.greg r a) = true) ∧
    (∃ (a : _) (b : _) (s : State),
      let r := s.site.region;
      let tag := toWord ((s.greg r a).toNat / 8192 % 2 ^ 43);
      s.CleanRegs r [a, b] ∧ canonical (s.greg r a) = true ∧ (s.greg r b).toNat < s.rcap r / 8192 ∧ (s.greg r
      a).toNat % 8192 = 0 ∧ (∀ e ∈ (s.region r).tags, e.2 ≠ tag)) ∧
    (∃ (a : _) (s : State),
      let r := s.site.region;
      s.CleanRegs r [a] ∧ (s.greg r a).toNat < s.rcap r / 8192) :=
  ⟨⟨1, at0 (core3 0x007FFFFFFFFFFFFF 0 0), clean_of (by decide +kernel), by decide +kernel⟩,
  ⟨1, 2, at0 (core3 0xFF80000000000000 255 0), clean_of (by decide +kernel), by decide +kernel⟩,
  ⟨1, at0 (core3 255 0 0), clean_of (by decide +kernel), by decide +kernel⟩⟩

theorem witness_CounterInstructionsAct :
    (∃ (a : _) (s : State),
      let r := s.site.region;
      s.CleanRegs r [a] ∧ (s.greg r a).toNat ≤ 0x13) ∧
    (∃ (a : _) (s : State),
      let r := s.site.region;
      s.CleanRegs r [a] ∧ counterDefined (s.greg r a).toNat = false) ∧
    (∃ (a : _) (b : _) (s : State),
      let r := s.site.region;
      let n := (s.greg r a).toNat;
      s.CleanRegs r [a, b] ∧ 0x20 ≤ n ∧ n ≤ 0x27 ∧ s.counterCfgBad r n (s.greg r b) = false) ∧
    (∃ (a : _) (s : State),
      let r := s.site.region;
      let n := (s.greg r a).toNat;
      s.CleanRegs r [a] ∧ n ≤ 0x13) :=
  ⟨⟨1, at0 (core3 0x13 0 0), clean_of (by decide +kernel), by decide +kernel⟩,
  ⟨1, at0 (core3 0x14 0 0), clean_of (by decide +kernel), by decide +kernel⟩,
  ⟨1, 2, at0 (core3 0x27 6 0), clean_of (by decide +kernel), by decide +kernel⟩,
  ⟨1, at0 (core3 0x13 0 0), clean_of (by decide +kernel), by decide +kernel⟩⟩

theorem witness_SystemRegistersReadAndWrite :
    (∃ (b : _) (s : State) (v : _), s.CleanRegs s.site.region [b] ∧ (s.greg s.site.region b).toNat < 4096 ∧ s.csr
      s.site.region (s.greg s.site.region b).toNat = some v) ∧
    (∃ (b : _) (s : State), s.CleanRegs s.site.region [b] ∧ (s.greg s.site.region b).toNat < 4096 ∧ s.csr s.site.region
      (s.greg s.site.region b).toNat = none) ∧
    (∃ (a : _) (b : _) (s : State), s.CleanRegs s.site.region [a, b] ∧ s.greg s.site.region b = 0x010) ∧
    (∃ (a : _) (b : _) (s : State), s.CleanRegs s.site.region [a, b] ∧ s.greg s.site.region b = 0x030) ∧
    (∃ (a : _) (b : _) (s : State), s.CleanRegs s.site.region [a, b] ∧ s.greg s.site.region b = 0x031) ∧
    (∃ (a : _) (b : _) (u : UnitId) (s : State), s.CleanRegs s.site.region [a, b] ∧ unitExists u = true ∧ u.region =
      s.site.region ∧ s.greg s.site.region b = efaultNum u ∧ (s.greg s.site.region a).getLsbD 63 = true) :=
  ⟨⟨1, at0 (core3 0x010 0 0), 0, clean_of (by decide +kernel), by decide +kernel⟩,
  ⟨1, at0 (core3 4095 0 0), clean_of (by decide +kernel), by decide +kernel⟩,
  ⟨1, 2, at0 (core3 0x20 0x010 0), clean_of (by decide +kernel), by decide +kernel⟩,
  ⟨1, 2, at0 (core3 0x20 0x030 0), clean_of (by decide +kernel), by decide +kernel⟩,
  ⟨1, 2, at0 (core3 0x20 0x031 0), clean_of (by decide +kernel), by decide +kernel⟩,
  ⟨1, 2, unit0, at0 (core3 0x8000000000000000 0x400 0), clean_of (by decide +kernel), by decide +kernel⟩⟩

/-- The north-west memory port of region 0 with its requests; a range of plain DRAM at 0x40000. -/
def port0 : UnitId := ⟨0, 0, 19⟩
def flatEnt : RangeEnt := ⟨0x40000, 0x10000, 0x100000, 0x83⟩
def ported (qs : List PortReq) (e : RangeEnt := flatEnt) : State :=
  { mem := stampedMem, units := [(port0, { reqs := qs })], regions := [(0, { launch := some 1, ranges := [((0, 0), e)] })] }
def ask (op : MemOp) (va : Word) (st : ReqStage := .accepted) : PortReq := { tick := 5, ctx := 0, slot := 0, op := op, addr := va, stage := st }

/-- A stream command of port 0 in region 0 that moves one 8-byte element between 0x40000 and offset 8 of cell 0. -/
def moved (out : Bool) : Cmd :=
  { tick := 5, h := 7, port := 0, rec_ := ⟨8, [1, 1, 1, 1], [0, 0, 0, 0], if out then 0x23 else 3⟩,
    peer := some ⟨0x40000, [1, 1, 1, 1], [0, 0, 0, 0], 3⟩, needStores := [], needCmds := [], started := true, owner := some 1 }
def streaming (c : Cmd) (e : RangeEnt := flatEnt) : State :=
  { mem := stampedMem, regions := [(0, { launch := some 1, ranges := [((4, 0), e)], cmds := [c], handles := [(7, { st := .filling })] })] }

theorem witness_PortAccessesComplete :
    (∃ (u : UnitId) (s : State) (k : Nat) (q : PortReq) (t : Target) (n : Nat) (sx : Bool) (v : Nat) (p : Bool), s.Serves u k
      q t ∧ q.op = .load n sx ∧ 1 ≤ n ∧ n ≤ 8 ∧ s.readTarget t n = some (v, p)) ∧
    (∃ (u : UnitId) (s : State) (k : Nat) (q : PortReq) (t : Target) (n : Nat), s.mem.wf = true ∧ s.Serves u k q t ∧ q.op =
      .store n ∧ 1 ≤ n ∧ notTable u t.addr ∧ postsStore u q = false) ∧
    (∃ (u : UnitId) (s : State) (k : Nat) (q : PortReq) (t : Target) (n : Nat), (s.unit u).reqs[k]? = some q ∧ q.stage = .accepted ∧
      q.op = .store n ∧ s.xlatWord u q.addr .store = .done (.ok t) ∧ s.routeDown (unitDie u) t.addr = false ∧ postsStore u q = true) ∧
    (∃ (u : UnitId) (s : State) (k : Nat) (q : PortReq) (n : Nat), s.mem.wf = true ∧ (s.unit u).reqs[k]? = some q ∧ q.stage =
      .posted ∧ q.op = .store n ∧ 1 ≤ n ∧ isMpe u = true ∧ s.routeDown (unitDie u) q.addr.toNat = false ∧ s.mayServe u k
      q.addr.toNat = true ∧ q.ord = .plain ∧ s.postedBlocks q.addr.toNat q.tick = false ∧ lacksCtxs u q q.addr.toNat = false ∧
      s.bankServes q.addr.toNat (portWho u) = true) ∧
    (∃ (u : UnitId) (s : State) (k : Nat) (q : PortReq) (t : Target) (j : Nat), s.mem.wf = true ∧ s.Serves u k q t ∧ q.op =
      .amo j ∧ j ≤ 8 ∧ notTable u t.addr) ∧
    (∃ (u : UnitId) (s : State) (k : Nat) (q : PortReq) (t : Target) (n : Nat) (sx : Bool), (s.unit u).reqs[k]? = some q ∧
      q.stage = .accepted ∧ q.op = .load n sx ∧ isMpe u = true ∧ s.xlatWord u q.addr .load = .done (.ok t) ∧ s.routeDown
      (unitDie u) t.addr = true) :=
  ⟨⟨port0, ported [ask (.load 2 true) 0x4FFFE], 0, ask (.load 2 true) 0x4FFFE, .plain 0x10FFFE, 2, true, 0, false, serves_of (by decide +kernel), by decide +kernel⟩,
  ⟨port0, ported [{ (ask (.store 8) 0x40000) with ord := .ordered .pkg }], 0, { (ask (.store 8) 0x40000) with ord := .ordered .pkg },
    .plain 0x100000, 8, by decide +kernel, serves_of (by decide +kernel), rfl, by decide +kernel, .inl rfl, by decide +kernel⟩,
  ⟨port0, ported [ask (.store 8) 0x40000], 0, ask (.store 8) 0x40000, .plain 0x100000, 8, by decide +kernel⟩,
  ⟨port0, ported [ask (.store 8) 0x100000 .posted], 0, ask (.store 8) 0x100000 .posted, 8, by decide +kernel⟩,
  ⟨port0, ported [ask (.amo 7) 0x4FFF8], 0, ask (.amo 7) 0x4FFF8, .plain 0x10FFF8, 7, by decide +kernel, serves_of (by decide +kernel), rfl, by decide +kernel, .inl rfl⟩,
  ⟨port0, { (ported [ask (.load 8 false) 0x40000] { flatEnt with phys := 0x10000000000 }) with links := (List.range 16).map (fun l => (l, { down := true })) },
    0, ask (.load 8 false) 0x40000, .plain 0x10000000000, 8, false, by decide +kernel⟩⟩

theorem witness_PortTranslationsEnd :
    (∃ (u : UnitId) (s : State) (k : Nat) (q : PortReq), (s.unit u).reqs[k]? = some q ∧ q.stage = .accepted ∧ s.xlatWord u
      q.addr q.op.access = .done .prot ∧ (s.unit u).efault.getLsbD 63 = false) ∧
    (∃ (r : _) (port : _) (s : State) (q : PortReq) (e : _),
      let u : UnitId := ⟨r, 4 * port, 19⟩;
      port < 4 ∧ (s.unit u).reqs.find? (fun q => q.stage = .walking) = some q ∧ s.pagedEntry r port q.addr = some e ∧ walk
      s.mem e q.addr = .absent ∧ (s.region r).launch.isSome = true ∧ (s.core r).pend.page = none) ∧
    (∃ (r : _) (port : _) (s : State) (q : PortReq) (e : _) (t : _), port < 4 ∧
      (let u : UnitId := ⟨r, 4 * port, 19⟩;
      (s.unit u).reqs.find? (fun q => q.stage = .walking) = some q ∧ s.pagedEntry r port q.addr = some e ∧ walk s.mem e q.addr
      = .ok t)) ∧
    (∃ (r : _) (p : _) (s : State) (c : Cmd) (va : _) (e : _) (t : _), s.Sole r p c ∧ c.walked = true ∧ c.held = false
      ∧ s.walkVa r p c.access (farPieces c.va c.rec_.esz) = some va ∧ s.pagedEntry r (4 + p) va = some e ∧ walk s.mem e va =
      .ok t) :=
  ⟨⟨port0, ported [ask (.load 8 false) 0x50000], 0, ask (.load 8 false) 0x50000, by decide +kernel⟩,
  ⟨0, 0, { (ported [ask (.load 8 false) 0x40000 .walking] { flatEnt with phys := 0x5000, attr := 0x87 }) with mem := .empty },
    ask (.load 8 false) 0x40000 .walking, { flatEnt with phys := 0x5000, attr := 0x87 }, by decide +kernel⟩,
  ⟨0, 0, ported [ask (.load 8 false) 0x40000 .walking] { flatEnt with phys := 0x2000, attr := 0x87 },
    ask (.load 8 false) 0x40000 .walking, { flatEnt with phys := 0x2000, attr := 0x87 }, .stamped 0x10000 0, by decide +kernel⟩,
  ⟨0, 0, streaming { (moved false) with walked := true } { flatEnt with phys := 0x2000, attr := 0x87 }, { (moved false) with walked := true },
    0x40000, { flatEnt with phys := 0x2000, attr := 0x87 }, .stamped 0x10000 0, sole_of (by decide +kernel), by decide +kernel⟩⟩

theorem witness_CoreStoresArePerformed :
    ∃ (r k : Nat) (s : State) (c : CoreStore), s.mem.wf = true ∧ (s.core r).stores[k]? = some c ∧ 1 ≤ c.n ∧ (∀ e ∈ (s.core
      r).stores.take k, ¬ (e.addr < c.addr + c.n ∧ c.addr < e.addr + e.n)) ∧ s.postedBlocks c.addr c.tick = false ∧
      (c.rel ≠ none → k = 0 ∧ ∀ x ∈ s.stamped, x.byCore = true → x.region = r → x.tick < c.tick → x.installed = true) ∧
      s.routeDown (regionDie r) c.addr = false ∧ s.bankServes c.addr 4 = true :=
  ⟨0, 1, at0 { (core3 0 0 0) with stores := [⟨0, 0x100000, 8, 5, false, none⟩, ⟨1, 0x100008, 8, 6, true, none⟩] },
    ⟨1, 0x100008, 8, 6, true, none⟩, by decide +kernel⟩

/-- A device whose port 0 leads to one of its own domain. -/
def peerDev : Device := { domain := (Config.portDomain 0 0).setWidth 64, dvori := [(0, { st := .up })] }
theorem peered_of (s : State) (h : s.dev = peerDev) (c : s.cyc = 0) : s.peered = true :=
  List.any_eq_true.mpr ⟨0, by decide, by simp [State.ownDomain, h, c, Device.portUp, peerDev, Map.get]⟩

theorem witness_FloorsRise :
    (∃ (f : _) (s : State), s.peered = true ∧ (s.die 8).sysFloor < min f s.packageFloor) ∧
    (∃ (s t : State), s.alone = true ∧ (s.die 8).sysFloor < s.packageFloor ∧ t.alone = false) ∧
    (∃ (s : State) (d : Nat) (x : Stamped), x ∈ s.stamped ∧ x.die = d ∧ x.installed = false) :=
  let es : Map Nat DieTime := (List.range 9).map (fun d => (d, { e := 3 }))
  ⟨⟨2, { dev := peerDev, dies := es }, peered_of _ rfl rfl, by decide +kernel⟩, ⟨{ dies := es }, { dev := { domain := 2 } }, by decide +kernel⟩,
  ⟨{ stamped := [⟨0x10040, 9, false, false, 4, 3, false, .nobody, 0, 1, true, none, 0⟩] }, 3,
    ⟨0x10040, 9, false, false, 4, 3, false, .nobody, 0, 1, true, none, 0⟩,
    by decide +kernel⟩⟩

theorem witness_ClocksWidenAndStall :
    (∃ (s : State), s.peered = true) ∧
    (∃ (d : _) (s : State), (s.die d).wide = false ∧ (s.dev.iwlim.toNat < (s.width d).toNat ∨ s.cutOff = true)) ∧
    (∃ (d : _) (s : State), (s.die d).wide = true ∧ 2 ^ 16 ≤ (s.die d).narrow ∧ s.cutOff = false) ∧
    (∃ (s : State), s.hub.stall152 = false ∧ s.alone = false ∧ s.hub.hubEAt + s.dev.iwlim.toNat ≤ (s.die 8).e) :=
  ⟨⟨{ dev := peerDev }, peered_of _ rfl rfl⟩, ⟨0, { dies := [(0, { e := 0, l := 64001 })] }, by decide +kernel⟩,
  ⟨0, { dies := [(0, { wide := true, narrow := 65536 })] }, by decide +kernel⟩,
  ⟨{ dev := { domain := 2 }, dies := [(8, { e := 64000 })] }, by decide +kernel⟩⟩

/-- Stamped accesses under way: a store, and LDASes of a port and of a core, all on line 1 of the page at 0x10000. -/
def store1 (ins : Bool) (w : StampWait) : Stamped := ⟨0x10040, 9, false, false, 4, 0, ins, w, 0, 0, false, none, 0⟩
def ldas1 (w : StampWait) : LdasReq := ⟨0x10040, 4, false, w, 0x40040⟩
def timed (x : List Stamped) (y : List LdasReq) : State :=
  { (ported [{ (ask (.ldas false) 0x40040) with reg := some 1 }]) with stamped := x, ldas := y, dies := [(0, { floor := 5 })] }

theorem witness_StampedAccessesComplete :
    (∃ (k : Nat) (s : State) (x : Stamped), s.stamped[k]? = some x ∧ x.installed = false ∧ s.routeDown x.die x.phys = false ∧
      s.installWaits x = false) ∧
    (∃ (k : Nat) (s : State) (x : Stamped) (u : UnitId) (q : PortReq), s.stamped[k]? = some x ∧ x.installed = true ∧ x.stamp <
      s.floorAt x.sys (homeDie x.phys) ∧ x.wait = .port u q.tick ∧ (s.unit u).reqs.find? (fun p => p.tick = q.tick) = some q) ∧
    (∃ (k : Nat) (s : State) (x : Stamped) (r : _) (d : _), s.stamped[k]? = some x ∧ x.installed = true ∧ x.stamp < s.floorAt
      x.sys (homeDie x.phys) ∧ x.wait = .core r ∧ (s.core r).stall = some (.sts x.stamp d)) ∧
    (∃ (k : Nat) (u : UnitId) (s : State) (q : PortReq) (t : _) (sys : _), (s.unit u).reqs[k]? = some q ∧ q.stage = .stamped ∧
      q.op = .stsp sys ∧ s.xlatWord u q.addr .stampedStore = .done (.ok t) ∧ s.routeDown (unitDie u) t.addr = false) ∧
    (∃ (k : Nat) (s : State) (x : LdasReq) (u : UnitId) (q : PortReq) (slot : Nat), s.ldas[k]? = some x ∧ x.t < s.floorAt
      x.sys (homeDie x.phys) ∧ s.routeDown x.die x.phys = false ∧
      (let base := x.phys / 65536 * 65536;
      let line := x.phys % 65536 / 64;
      ldasSlot s.mem base line x.t = some slot ∧ x.wait = .port u q.tick ∧ (s.unit u).reqs.find? (fun p => p.tick = q.tick) =
      some q)) ∧
    (∃ (k : Nat) (s : State) (x : LdasReq) (r : _) (i : Nat) (d : _) (slot : Nat), s.ldas[k]? = some x ∧ x.t < s.floorAt x.sys
      (homeDie x.phys) ∧ s.routeDown x.die x.phys = false ∧
      (let base := x.phys / 65536 * 65536;
      let line := x.phys % 65536 / 64;
      ldasSlot s.mem base line x.t = some slot ∧ x.wait = .core r ∧ (s.core r).stall = some (.ldas i d))) ∧
    (∃ (k : Nat) (s : State) (x : LdasReq) (u : UnitId) (q : PortReq), s.ldas[k]? = some x ∧ x.t < s.floorAt x.sys (homeDie
      x.phys) ∧ s.routeDown x.die x.phys = false ∧ ldasSlot s.mem (x.phys / 65536 * 65536) (x.phys % 65536 / 64) x.t = none ∧
      x.wait = .port u q.tick ∧ (s.unit u).reqs.find? (fun p => p.tick = q.tick) = some q ∧ (s.unit u).efault.getLsbD 63 =
      false) :=
  ⟨⟨0, timed [store1 false .nobody] [], store1 false .nobody, by decide +kernel⟩,
  ⟨0, timed [store1 true (.port port0 5)] [], store1 true (.port port0 5), port0, { (ask (.ldas false) 0x40040) with reg := some 1 }, by decide +kernel⟩,
  ⟨0, { (at0 { (core3 0 0 0) with stall := some (.sts 4 3) }) with stamped := [store1 true (.core 0)], dies := [(0, { floor := 5 })] },
    store1 true (.core 0), 0, 3, by decide +kernel⟩,
  ⟨0, port0, { (ported [ask (.stsp true) 0x40040 .stamped] { flatEnt with phys := 0x2000, attr := 0x87 }) with regions :=
      [(0, { ranges := [((0, 0), { flatEnt with phys := 0x2000, attr := 0x87 })], kept := [⟨0, 0x40000, 0x10000, true⟩] })] },
    ask (.stsp true) 0x40040 .stamped, .stamped 0x10000 0x40, true, by decide +kernel⟩,
  ⟨0, timed [] [ldas1 (.port port0 5)], ldas1 (.port port0 5), port0, { (ask (.ldas false) 0x40040) with reg := some 1 }, 0, by decide +kernel⟩,
  ⟨0, { (at0 { (core3 0 0 0) with stall := some (.ldas 0 3) }) with ldas := [ldas1 (.core 0)], dies := [(0, { floor := 5 })] },
    ldas1 (.core 0), 0, 0, 3, 0, by decide +kernel⟩,
  ⟨0, { (timed [] [ldas1 (.port port0 5)]) with mem := Memory.empty.writeNat (lineMeta 0x10000 1 + 48) 8 5 }, ldas1 (.port port0 5), port0,
    { (ask (.ldas false) 0x40040) with reg := some 1 }, by decide +kernel⟩⟩

theorem witness_InstallIntoAnEmptyLine :
    ∃ (m : Memory) (base line k : Nat) (stamp die devid : Nat), m.wf = true ∧ line < 1024 ∧ k < 8 ∧ stamp < 2 ^ 64 ∧ die < 16
      ∧ devid < 2 ^ 18 ∧ versions m base line = [] :=
  ⟨.empty, 0x10000, 1023, 7, 2 ^ 64 - 1, 15, 2 ^ 18 - 1, by decide +kernel⟩

/-- A core that binds handle 7: g1 names the record at offset 0x40 of the region store, which moves one byte to its offset 0
from the place that the record at 0x80 names; g2 is the port. -/
def binding (p : Word) : State :=
  let bytes := [(0x40 + 8, 4, 1), (0x40 + 12, 4, 1), (0x40 + 16, 4, 1), (0x40 + 20, 4, 1), (0x40 + 56, 8, 0x20000000000080),
    (0x80 + 8, 4, 1), (0x80 + 12, 4, 1), (0x80 + 16, 4, 1), (0x80 + 20, 4, 1)]
  { (at0 (core3 0x40 p 0)) with mem := bytes.foldl (fun m (a, n, v) => m.writeNat (rstoreBase 0 + a) n v) Memory.empty }

/-- The same core with 64 commands bound before. -/
def full64 : State :=
  let s := binding 15
  { s with regions := [(0, { (s.region 0) with cmds := List.replicate 64 { (moved false) with owner := some 1 } })] }

theorem not_bound {s : State} {r : Nat} (h : (s.core r).stall = none) : ∀ x y, (s.core r).stall ≠ some (.sbind x y) := by simp [h]

theorem witness_HandleInstructionsAct :
    (∃ (a : _) (b : _) (h : BitVec 8) (s : State) (x : _) (y : _),
      let r := s.site.region;
      s.CleanRegs r [a, b] ∧ s.recordPending r (s.greg r a) = false ∧ (∀ x y, (s.core r).stall ≠ some (.sbind x y)) ∧
      s.sbindCheck r (s.greg r a) (s.greg r b) h.toNat = .ok (x, y) ∧ (s.cmdsOf r).length < 64) ∧
    (∃ (a : _) (b : _) (h : BitVec 8) (s : State) (x : _) (y : _),
      let r := s.site.region;
      s.CleanRegs r [a, b] ∧ s.recordPending r (s.greg r a) = false ∧ (∀ x y, (s.core r).stall ≠ some (.sbind x y)) ∧
      s.sbindCheck r (s.greg r a) (s.greg r b) h.toNat = .ok (x, y) ∧ 64 ≤ (s.cmdsOf r).length) ∧
    (∃ (a : _) (b : _) (s : State), let r := s.site.region
      s.CleanRegs r [a, b] ∧ s.recordPending r (s.greg r a) = true ∧ (∀ x y, (s.core r).stall ≠ some (.sbind x y))) ∧
    (∃ (s : State) (x : _) (y : _), let r := s.site.region
      (s.core r).stall = some (.sbind x y) ∧ (s.cmdsOf r).length < 64) ∧
    (∃ (a : _) (b : _) (h : BitVec 8) (s : State) (c : _) (v : _),
      let r := s.site.region;
      s.CleanRegs r [a, b] ∧ s.recordPending r (s.greg r a) = false ∧ (∀ x y, (s.core r).stall ≠ some (.sbind x y)) ∧
      s.sbindCheck r (s.greg r a) (s.greg r b) h.toNat = .error (c, v)) ∧
    (∃ (s : State) (r : Nat) (A : Word), A.toNat % 64 = 0 ∧ s.rcap r < A.toNat + 64) ∧
    (∃ (h : BitVec 8) (s : State), (s.handle s.site.region h.toNat).port < 16 ∧ (s.handle s.site.region h.toNat).progress < 2
      ^ 48) ∧
    (∃ (h : BitVec 8) (s : State), (s.handle s.site.region h.toNat).st = .filling) ∧
    (∃ (h : BitVec 8) (s t : State), (s.handle s.site.region h.toNat).st = .full ∧ (s.handle s.site.region h.toNat).cause = 0
      ∧ (t.handle t.site.region h.toNat).st = .full ∧ (t.handle t.site.region h.toNat).cause ≠ 0) ∧
    (∃ (h : BitVec 8) (s t : State), (s.handle s.site.region h.toNat).st = .draining ∧ (t.handle t.site.region h.toNat).st =
      .free) :=
  ⟨⟨1, 2, 7, binding 15, shapeAt (binding 15).mem (rstoreBase 0 + 0x40), some (shapeAt (binding 15).mem (rstoreBase 0 + 0x80)),
    clean_of (by decide +kernel), by decide +kernel, not_bound rfl, by rfl, by decide +kernel⟩,
  ⟨1, 2, 7, full64, shapeAt (binding 15).mem (rstoreBase 0 + 0x40), some (shapeAt (binding 15).mem (rstoreBase 0 + 0x80)),
    clean_of (by decide +kernel), by decide +kernel, not_bound rfl, by rfl, by decide +kernel⟩,
  ⟨1, 2, at0 { (core3 0x40 15 0) with stores := [⟨0, rstoreBase 0 + 0x40, 8, 5, false, none⟩] }, clean_of (by decide +kernel), by decide +kernel, not_bound rfl⟩,
  ⟨at0 { (core3 0x40 15 0) with stall := some (.sbind (moved false).rec_ (moved false).peer) }, (moved false).rec_, (moved false).peer, rfl, by decide +kernel⟩,
  ⟨1, 2, 7, binding 16, 0x04, 16, clean_of (by decide +kernel), by decide +kernel, not_bound rfl, by rfl⟩,
  ⟨{}, 0, 2 ^ 63, by decide +kernel⟩,
  ⟨7, streaming (moved false), by decide +kernel⟩,
  ⟨7, streaming (moved false), by decide +kernel⟩,
  ⟨7, { regions := [(0, { handles := [(7, { st := .full })] })] }, { regions := [(0, { handles := [(7, { st := .full, cause := 4 })] })] }, by decide +kernel⟩,
  ⟨7, { regions := [(0, { handles := [(7, { st := .draining })] })] }, {}, by decide +kernel⟩⟩

/-- Eight elements of 8 bytes that fill one aligned row of cell 0's scratchpad. -/
def rowCmd : Cmd :=
  { (moved false) with rec_ := ⟨0, [8, 1, 1, 1], [8, 0, 0, 0], 3⟩, peer := some ⟨0x40000, [8, 1, 1, 1], [8, 0, 0, 0], 3⟩ }

/-- The same outward. -/
def outCmd : Cmd := { rowCmd with rec_ := { rowCmd.rec_ with ctl := 0x23 } }

/-- A machine whose region 0 runs launch 1 with a command of launch 2, which was swapped out. -/
def away2 : State :=
  { mem := stampedMem, regions := [(0, { launch := some 1, cmds := [{ (moved false) with owner := some 2 }] })],
    images := [(0x10000, { kind := 1, region := 0, launch := 2, rec_ := {}, units := [], chans := [], rings := [], pairs := [],
                                cells := [], poison := [], notices := [] })] }

theorem witness_StreamsRun :
    (∃ (r : _) (p : _) (s : State) (c : _), s.Sole r p c ∧ c.started = false ∧ s.mayStart r c = true) ∧
    (∃ (r : _) (p : _) (s : State) (c : _) (t : _) (v : _) (q : _) (line : _),
      let x := c.rec_;
      let o := (x.addr c.done).toNat;
      let far := c.far.addr c.done;
      s.mem.wf = true ∧ s.Sole r p c ∧ c.started = true ∧ c.stop = none ∧ c.held = false ∧ c.walked = false ∧ c.waitKv
      = false ∧ (x.dest = 0 ∨ x.dest = 2) ∧ x.esz ≤ 8 ∧ x.out = false ∧ x.red = 0 ∧ c.done < x.count ∧ s.nearBad r x o = false
      ∧ c.rowLen = 1 ∧ far.toNat % x.esz = 0 ∧ inAperture far = false ∧ s.xlatPort r (4 + p) far .load = .done (.ok t) ∧ s.routeDown
      (regionDie r) t.addr = false ∧ c.lacks r [(t, x.esz)] = [] ∧ s.farRead c.tick c.line [(t, x.esz)] = some ((v, q), line) ∧
      (∀ a ∈ x.nearAddrs r o, s.bankServes a (5 + p) = true)) ∧
    (∃ (r : _) (p : _) (s : State) (c : _) (tss : _) (vs : _) (line : _),
      let x := c.rec_;
      let o := (x.addr c.done).toNat;
      s.mem.wf = true ∧ s.Sole r p c ∧ c.started = true ∧ c.stop = none ∧ c.held = false ∧ c.walked = false ∧ c.waitKv
      = false ∧ (x.dest = 0 ∨ x.dest = 2) ∧ x.esz ≤ 8 ∧ x.out = false ∧ c.done < x.count ∧ s.nearBad r x o = false
      ∧ s.nearBad r x (o + x.esz * (c.rowLen - 1)) = false ∧ 1 < c.rowLen ∧ s.farRow r c c.rowLen = some tss ∧ c.lacks r tss.flatten = [] ∧
      s.farReads c.tick c.line tss = some (vs, line) ∧
      (∀ a ∈ x.nearAddrs r o, ∀ b ∈ nearLines c.rowLen a, s.bankServes b (5 + p) = true)) ∧
    (∃ (r : _) (p : _) (s : State) (c : _) (tss : _) (g : _),
      let x := c.rec_;
      let o := (x.addr c.done).toNat;
      s.mem.wf = true ∧ s.Sole r p c ∧ c.started = true ∧ c.stop = none ∧ c.held = false ∧ c.walked = false ∧ c.waitKv
      = false ∧ (x.dest = 0 ∨ x.dest = 2) ∧ x.esz ≤ 8 ∧ x.out = true ∧ c.done < x.count ∧ s.nearBad r x o = false
      ∧ s.nearBad r x (o + x.esz * (c.rowLen - 1)) = false ∧ 1 < c.rowLen ∧ s.farRow r c c.rowLen = some tss ∧ c.lacks r tss.flatten = [] ∧
      (∀ a ∈ x.nearAddrs r o, ∀ b ∈ nearLines c.rowLen a, s.bankServes b (5 + p) = true) ∧ farRowAt x.esz tss = some g) ∧
    (∃ (r : _) (p : _) (s : State) (c : _) (g : _),
      let x := c.rec_;
      let o := (x.addr c.done).toNat;
      let far := c.far.addr c.done;
      s.mem.wf = true ∧ s.Sole r p c ∧ c.started = true ∧ c.stop = none ∧ c.held = false ∧ c.walked = false ∧ c.waitKv
      = false ∧ (x.dest = 0 ∨ x.dest = 2) ∧ x.esz ≤ 8 ∧ x.out = true ∧ c.done < x.count ∧ s.nearBad r x o = false ∧ c.rowLen = 1 ∧
      far.toNat % x.esz = 0 ∧ inAperture far = false ∧ s.xlatPort r (4 + p) far .store = .done (.ok (.plain g)) ∧ s.routeDown (regionDie
      r) g = false ∧ c.lacks r [(.plain g, x.esz)] = [] ∧ (∀ a ∈ x.nearAddrs r o, s.bankServes a (5 + p) = true)) ∧
    (∃ (r : _) (p : _) (s : State) (c : _), s.Sole r p c ∧ c.started = true ∧ c.waitKv = false ∧ c.claimed = [] ∧
      (c.stop ≠ none ∨ c.rec_.count ≤ c.done)) ∧
    (∃ (r : _) (p : _) (s : State) (c : _) (e : _), s.mem.wf = true ∧ s.portCmds r p = [c] ∧ s.awayOf r c = some e) ∧
    (∃ (r : _) (h : _) (s : State),
      let x := s.handle r h;
      x.st = .filling ∧ x.watch = true ∧ x.missed = false ∧ x.promise.toNat ≤ s.cyc ∧ (s.region r).launch.isSome = true ∧ h <
      2 ^ 64) ∧
    (∃ (r : _) (h : _) (s : State), (s.handle r h).missed = true) :=
  ⟨⟨0, 0, streaming { (moved false) with started := false, needStores := [3] }, { (moved false) with started := false, needStores := [3] },
    sole_of (by decide +kernel), by decide +kernel⟩,
  ⟨0, 0, streaming (moved false), moved false, .plain 0x100000, 0, false, none, by decide +kernel, sole_of (by decide +kernel), by and_intros <;> decide +kernel⟩,
  ⟨0, 0, streaming rowCmd, rowCmd, (List.range 8).map (fun i => [(.plain (0x100000 + 8 * i), 8)]), List.replicate 8 (0, false), none, by decide +kernel, sole_of (by decide +kernel), by and_intros <;> decide +kernel⟩,
  ⟨0, 0, streaming outCmd, outCmd, (List.range 8).map (fun i => [(.plain (0x100000 + 8 * i), 8)]), 0x100000, by decide +kernel, sole_of (by decide +kernel), by and_intros <;> decide +kernel⟩,
  ⟨0, 0, streaming (moved true), moved true, 0x100000, by decide +kernel, sole_of (by decide +kernel), by decide +kernel⟩,
  ⟨0, 0, streaming { (moved true) with done := 1 }, { (moved true) with done := 1 }, sole_of (by decide +kernel), by decide +kernel⟩,
  ⟨0, 0, away2, { (moved false) with owner := some 2 }, _, by decide +kernel, by decide +kernel, rfl⟩,
  ⟨0, 7, { regions := [(0, { launch := some 1, handles := [(7, { st := .filling, watch := true, promise := 9 })] })], cyc := 9 }, by decide +kernel⟩,
  ⟨0, 7, { regions := [(0, { handles := [(7, { missed := true })] })] }, by decide +kernel⟩⟩

/-- Slot 0's chain of layer 0: one segment, entry 0 of cell 0 of region 64, positions 0 to 15 of 32 dimensions. -/
def seg0 : KvSeg := (⟨64, 0⟩, 0)
def kvMem : Memory := [(0, 4, 0x80400000), (kvWord seg0.1 0 0, 8, 2 ^ 63), (kvWord seg0.1 0 1, 8, 16 * 2 ^ 32),
    (kvWord seg0.1 0 7, 8, 2 ^ 63)].foldl (fun m (a, n, v) => m.writeNat a n v) Memory.empty
/-- The same with its page of entries in DRAM of the segment's own die. -/
def kvAt : Memory := (kvMem.writeNat (kvWord seg0.1 0 2) 8 0x40).writeNat 0x40 8 (4 * 2 ^ 40)
def half0 : KvHalf := ⟨0, 0, 15, 0, false, List.replicate 8 (7, false), 8, none, false, 0, none, none, 0⟩

theorem witness_KvSegmentsAct :
    (∃ (k : _) (s : State) (h : _) (g : _), s.kv[k]? = some h ∧ h.held = false ∧ h.words.length = h.need ∧ s.kvPlaceOf h.slot
      h.layer h.pos = .here g ∧ s.kvBehind k h (some g) = false ∧ s.kvDown h = false ∧ s.mem.wf = true ∧ (h.pos < kvF s.mem g ∨ kvA s.mem g ≤ h.gen)) ∧
    (∃ (k : _) (s : State) (h : _) (g : _), s.kv[k]? = some h ∧ h.held = false ∧ h.words.length = h.need ∧ s.kvPlaceOf h.slot
      h.layer h.pos = .here g ∧ s.kvBehind k h (some g) = false ∧ s.kvDown h = false ∧ s.mem.wf = true ∧ kvF s.mem g ≤ h.pos ∧ h.gen < kvA s.mem g) ∧
    (∃ (m : Memory) (g : KvSeg) (h : KvHalf), m.wf = true ∧ kvReach m g (kvEntry m g h.pos) = true ∧ 8 *
      h.words.length ≤ 2 * kvHeadDim m g ∧ h.gen < 2 ^ 16 ∧ h.pos < 2 ^ 32) ∧
    (∃ (c : CellId) (n : Nat) (s : State), s.mem.wf = true ∧ isKvCell c = true ∧ (kvRead s.mem (c, n) 7).getLsbD 63 = true) :=
  ⟨⟨0, { mem := kvMem, kv := [half0] }, half0, seg0, by decide +kernel⟩,
  ⟨0, { mem := kvNotice kvMem seg0 15 1, kv := [half0] }, half0, seg0, by decide +kernel⟩,
  ⟨kvAt, seg0, half0, by decide +kernel⟩,
  ⟨⟨64, 0⟩, 0, { mem := kvMem }, by decide +kernel⟩⟩

/-- A pair between unit0 and an element beside it, with its send engine at work, and tokens on its lane. -/
def unit1 : UnitId := ⟨0, 1, 0⟩
def pairing (p : Pair) (t : Tok) : State :=
  { (hold { sends := [⟨5, true, 1, 0, 0, 0⟩] } [(1, t), (2, t)]) with pairs := [(5, p)] }

theorem witness_ExchangeRuns :
    (∃ (p : _) (s : State) (x : _) (q : _) (t : _), s.pair? p = some x ∧ s.sendOf p x = some q ∧ s.linkUp x.link = true ∧
      s.head? x.tx q.inp = some t ∧ t.tag = s.boundTagOf x.tx ∧ (t.kind = 0 ∨ t.kind = 1) ∧
      x.lane.length < laneRoom) ∧
    (∃ (p : _) (s : State) (x : _) (q : _) (t : _), s.pair? p = some x ∧ s.sendOf p x = some q ∧ s.linkUp x.link = true ∧
      s.head? x.tx q.inp = some t ∧ laneRoom ≤ x.lane.length) ∧
    (∃ (p : _) (s : State) (x : _) (par : _) (t : _) (l : _), s.mem.wf = true ∧ s.pair? p = some x ∧ x.lane = (par, t) :: l ∧
      s.linkUp x.link = true ∧ (s.region x.rx.region).frozen = none ∧ t.kind ≠ 2 ∧ (x.buf par).n < x.size / 8) ∧
    (∃ (p : _) (s : State) (x : _) (par : _) (t : _) (l : _), s.pair? p = some x ∧ x.lane = (par, t) :: l ∧ s.linkUp x.link =
      true ∧ (s.region x.rx.region).frozen = none ∧ t.kind ≠ 2 ∧ x.size / 8 ≤ (x.buf par).n) ∧
    (∃ (p : _) (s : State) (x : _) (par : _) (t : _) (l : _), s.pair? p = some x ∧ x.lane = (par, t) :: l ∧ s.linkUp x.link =
      true ∧ (s.region x.rx.region).frozen = none ∧ t.kind = 2) ∧
    (∃ (p : _) (s : State) (x : _) (t : _), s.pair? p = some x ∧ s.head? x.rx x.rel = some t ∧ (s.region x.rx.region).frozen =
      none ∧ t.tag = s.boundTagOf x.rx ∧ (x.buf (t.data.getLsbD 0)).st = .full) :=
  ⟨⟨5, pairing pair0 { (tok 9) with last := true }, pair0, ⟨5, true, 1, 0, 0, 0⟩, { (tok 9) with last := true }, by decide +kernel⟩,
  ⟨5, pairing { pair0 with lane := List.replicate 34 (true, tok 9) } (tok 9), { pair0 with lane := List.replicate 34 (true, tok 9) },
    ⟨5, true, 1, 0, 0, 0⟩, tok 9, by decide +kernel⟩,
  ⟨5, pairing { pair0 with lane := [(true, tok 9)], pong := { st := .filling, addr := spadBase ⟨0, 0⟩, n := 7 } } (tok 0),
    { pair0 with lane := [(true, tok 9)], pong := { st := .filling, addr := spadBase ⟨0, 0⟩, n := 7 } }, true, tok 9, [], by decide +kernel⟩,
  ⟨5, pairing { pair0 with lane := [(true, tok 9)], pong := { st := .filling, n := 8 } } (tok 0),
    { pair0 with lane := [(true, tok 9)], pong := { st := .filling, n := 8 } }, true, tok 9, [], by decide +kernel⟩,
  ⟨5, pairing { pair0 with lane := [(true, { (tok 4) with kind := 2 })] } (tok 0), { pair0 with lane := [(true, { (tok 4) with kind := 2 })] },
    true, { (tok 4) with kind := 2 }, [], by decide +kernel⟩,
  ⟨5, pairing { pair0 with pong := { st := .full } } (tok 1), { pair0 with pong := { st := .full } }, tok 1, by decide +kernel⟩⟩

theorem witness_LinksRun :
    (∃ (l : _) (dir : _) (c : _) (s : State) (u : _) (i : _) (h : _), s.chanOf? l dir c = some (.inp u i) ∧ (s.chan (.inp u
      i)).hops = [h] ∧ h.link = l ∧ h.dir = dir ∧ h.ctx = c ∧ h.wire ≠ [] ∧ s.linkUp l = true ∧
      s.flitFirst l dir c = true ∧ (s.chan (.inp u i)).shut = false ∧ (∀ t ∈ h.wire, (s.region
      u.region).knowsTag t.tag = true)) ∧
    (∃ (l : _) (dir : _) (c : _) (s : State) (u : _) (i : _) (h : _) (g : _) (gs : _), s.chanOf? l dir c = some (.inp u i) ∧
      (s.chan (.inp u i)).hops = h :: g :: gs ∧ h.link = l ∧ h.dir = dir ∧ h.ctx = c ∧ h.wire ≠ [] ∧ s.linkUp l = true ∧ s.flitFirst l dir c = true ∧
      (s.chan (.inp u i)).shut = false) ∧
    (∃ (l : _) (dir : _) (c : _) (s : State) (u : _) (i : _) (h : _), s.chanOf? l dir c = some (.inp u i) ∧ (s.chan (.inp u
      i)).hops = [h] ∧ h.link = l ∧ h.dir = dir ∧ h.ctx = c ∧ (s.chan (.inp u i)).shut = true) ∧
    (∃ (l : _) (dir : _) (c : _) (s : State) (u : _) (i : _), s.chanOf? l dir c = some (.inp u i) ∧ s.linkUp l = true ∧
      (s.region u.region).frozen = none ∧ (s.chan (.inp u i)).shut = false ∧ 0 < (s.chan (.inp u i)).owed ∧
      (∃ h ∈ (s.chan (.inp u i)).hops, h.link = l ∧ h.dir = dir ∧ h.ctx = c) ∧
      ((s.chan (.inp u i)).hops.map (fun h => (h.link, h.dir, h.ctx))).Nodup) ∧
    (∃ (l : Nat), l < 16) ∧
    (∃ (l : _) (dir : _) (c cls : Nat) (s : State), ((s.link l).ctxs.get (dir, c) {}).st = 0 ∧ s.linkUp l = true ∧ l < 16 ∧ 128 ≤ c ∧ c < 240 ∧
      cls < 5) ∧
    (∃ (l : _) (dir : _) (c : _) (s : State), s.ctxHeld (l, dir, c) = true) ∧
    (∃ (l : _) (dir : _) (c : _) (s : State), s.ctxHeld (l, dir, c) = false ∧ (∀ id, ((s.link l).ctxs.get (dir, c) {}).launch = some id → s.placement? id =
      none)) ∧
    (∃ (l : _) (s : State), l < 16 ∧ (s.link l).down = false ∧ Config.retryLimit < (s.link l).retries) ∧
    (∃ (p : Nat) (s : State) (st : DvoriState), p < 16 ∧ (s.dev.dvori.get p {}).st = .up ∧ st ≠ .up ∧
      ∃ r ∈ s.remoteRegions p, (s.region r).launch.isSome = true) :=
  ⟨⟨0, true, 0, wired { hops := [⟨0, true, 0, [], [tok 9], 0⟩] }, unit0, 3, ⟨0, true, 0, [], [tok 9], 0⟩, by decide +kernel⟩,
  ⟨0, true, 0, wired { hops := [⟨0, true, 0, [], [tok 9], 0⟩, ⟨1, true, 0, [], [], 0⟩] }, unit0, 3, ⟨0, true, 0, [], [tok 9], 0⟩, ⟨1, true, 0, [], [], 0⟩, [], by decide +kernel⟩,
  ⟨0, true, 0, wired { hops := [⟨0, true, 0, [], [tok 9], 0⟩], shut := true }, unit0, 3, ⟨0, true, 0, [], [tok 9], 0⟩, by decide +kernel⟩,
  ⟨0, true, 0, wired { hops := [⟨0, true, 0, [], [], 0⟩], owed := 1 }, unit0, 3, ⟨by decide +kernel, by decide +kernel, rfl, by decide +kernel, by decide +kernel,
    ⟨⟨0, true, 0, [], [], 0⟩, by decide +kernel⟩, by decide +kernel⟩⟩,
  ⟨15, by decide +kernel⟩,
  ⟨15, true, 239, 4, {}, by decide +kernel⟩,
  ⟨3, true, 128, streaming { (moved false) with ctxs := [(3, true, 128)] }, by decide +kernel⟩,
  ⟨15, true, 239, {}, by decide +kernel, fun id h => nomatch h⟩,
  ⟨15, { links := [(15, { retries := Config.retryLimit + 1 })] }, by decide, rfl, Nat.lt_succ_self _⟩,
  ⟨(Config.remotePort 0).val, { (streaming { (moved false) with rec_ := ⟨8, [1, 1, 1, 1], [0, 0, 0, 0], 0x103⟩ }) with
      dev := { dvori := [((Config.remotePort 0).val, { st := .up })] } }, .down,
    (Config.remotePort 0).isLt, by simp [Map.get], by decide, 0,
    by simp [State.remoteRegions, streaming, moved, Shape.dest, Shape.target, bitsOf], by decide +kernel⟩⟩

theorem witness_ErrorsPoison :
    (∃ (a : _) (s : State), s.mem.wf = true ∧ isDram a = true) ∧
    (∃ (a : _) (s : State), s.mem.wf = true ∧ isDram a = false ∧ 2 ^ 52 ≤ a) :=
  ⟨⟨0x1003F, {}, by decide +kernel⟩,
  ⟨2 ^ 52, {}, by decide +kernel⟩⟩

/-- Slot 5 alone, with one report of it in the arbiter's queue. -/
def judging (x : Slot) (ts : List Report := []) : State := { hub := { slots := [(5, x)], reports := ts } }
/-- Slot 5 as a core names it in g1, field 15 in bits 19:16; g2 names a line of the data area. -/
def slotCore (x : Slot) (b : Word := 0x10000) : State := { (at0 (core3 5 b 0)) with hub := { slots := [(5, x)] } }

theorem witness_SequenceInstructionsAct :
    (∃ (a : _) (s t : State), s.CleanRegs s.site.region [a] ∧ seqOpnd (s.greg s.site.region a) true = true ∧ t.CleanRegs
      t.site.region [a] ∧ seqOpnd (t.greg t.site.region a) true = false) ∧
    (∃ (a : _) (b : _) (s t : State) (x : _), s.CleanRegs s.site.region [a, b] ∧ seqOpnd (s.greg s.site.region a) true = true
      ∧ (s.slot (bitsOf (s.greg s.site.region a) 0 13)).setField (bitsOf (s.greg s.site.region a) 16 4) (s.greg s.site.region
      b) = some x ∧ t.CleanRegs t.site.region [a, b] ∧ seqOpnd (t.greg t.site.region a) true = true ∧ (t.slot (bitsOf (t.greg
      t.site.region a) 0 13)).setField (bitsOf (t.greg t.site.region a) 16 4) (t.greg t.site.region b) = none) ∧
    (∃ (x y z w v : Slot), x.st = .decode ∧ y.st = .prefill ∧ z.st = .paused ∧ z.resume = .decode ∧ w.st = .paused ∧
      w.inflight = 0 ∧ v.st = .draining) ∧
    (∃ (a : _) (b : _) (s : State) (ts : _) (ws : _),
      let r := s.site.region;
      let A := s.greg r a;
      let B := s.greg r b;
      let n := bitsOf A 0 13;
      s.CleanRegs r [a, b] ∧ seqOpnd A false = true ∧ B.toNat % 64 = 0 ∧ s.coreLines r B 1 .load = .ok ts ∧ s.coreOwes r = false ∧
      s.cmdsOf r = [] ∧ s.readLines ts = some ws ∧ (s.slot n).st = .free) ∧
    (∃ (a : _) (b : _) (s t u : State), s.CleanRegs s.site.region [a, b] ∧ (s.greg s.site.region b).toNat % 64 ≠ 0 ∧
      t.CleanRegs t.site.region [a, b] ∧ (t.greg t.site.region b).toNat % 64 = 0 ∧ seqOpnd (t.greg t.site.region a) false = false ∧
      u.CleanRegs u.site.region [a, b] ∧ seqOpnd (u.greg u.site.region a) true = false) ∧
    (∃ (a : _) (b : _) (s : State) (ts : _),
      let r := s.site.region;
      s.CleanRegs r [a, b] ∧ seqOpnd (s.greg r a) false = true ∧ (s.greg r b).toNat % 64 = 0 ∧ s.coreLines r (s.greg r b) 1 .load = .ok ts ∧
      (s.coreOwes r = true ∨ s.cmdsOf r ≠ [])) ∧
    (∃ (a : _) (b : _) (s : State) (ts : _) (ws : _),
      let r := s.site.region;
      let A := s.greg r a;
      let B := s.greg r b;
      s.CleanRegs r [a, b] ∧ seqOpnd A false = true ∧ B.toNat % 64 = 0 ∧ s.coreLines r B 1 .load = .ok ts ∧ s.coreOwes r = false ∧
      s.cmdsOf r = [] ∧ s.readLines ts = some ws ∧ (s.slot (bitsOf A 0 13)).st ≠ .free) ∧
    (∃ (a : _) (s : State),
      let r := s.site.region;
      let A := s.greg r a;
      let n := bitsOf A 0 13;
      s.CleanRegs r [a] ∧ seqOpnd A false = true ∧ (s.slot n).st ≠ .free ∧ (s.slot n).st ≠ .draining) ∧
    (∃ (a : _) (s : State),
      let r := s.site.region;
      let A := s.greg r a;
      s.CleanRegs r [a] ∧ ((s.slot (bitsOf A 0 13)).st = .free ∨ (s.slot (bitsOf A 0 13)).st = .draining ∨ seqOpnd A false =
      false)) :=
  ⟨⟨1, at0 (core3 0xF1FFF 0 0), at0 (core3 0x2000 0 0), clean_of (by decide +kernel), by decide +kernel, clean_of (by decide +kernel), by decide +kernel⟩,
  ⟨1, 2, at0 (core3 0xF0005 7 0), at0 (core3 0x10005 7 0), { endsym := 7 }, clean_of (by decide +kernel), by decide +kernel, by decide +kernel, clean_of (by decide +kernel), by decide +kernel⟩,
  ⟨{ st := .decode }, { st := .prefill }, { st := .paused, resume := .decode }, { st := .paused }, { st := .draining }, by decide +kernel⟩,
  ⟨1, 2, slotCore {}, [.plain 0x100000], _, clean_of (by decide +kernel), by decide +kernel, by decide +kernel, by rfl, by decide +kernel, by decide +kernel, by rfl, by decide +kernel⟩,
  ⟨1, 2, slotCore {} 0x10020, at0 (core3 0x10005 0x10000 0), at0 (core3 0x2000 0 0), clean_of (by decide +kernel), by decide +kernel,
    clean_of (by decide +kernel), by decide +kernel, by decide +kernel, clean_of (by decide +kernel), by decide +kernel⟩,
  ⟨1, 2, at0 { (core3 5 0x10000 0) with stores := [⟨0, 0x100000, 8, 5, false, none⟩] }, [.plain 0x100000], clean_of (by decide +kernel),
    by decide +kernel, by decide +kernel, by rfl, by decide +kernel⟩,
  ⟨1, 2, slotCore { st := .paused }, [.plain 0x100000], _, clean_of (by decide +kernel), by decide +kernel, by decide +kernel, by rfl, by decide +kernel, by decide +kernel, by rfl, by decide +kernel⟩,
  ⟨1, slotCore { st := .waiting }, clean_of (by decide +kernel), by decide +kernel⟩,
  ⟨1, slotCore { st := .draining }, clean_of (by decide +kernel), by decide +kernel⟩⟩

/-- A grammar whose active set is empty allows no symbol. -/
theorem ends_of_idle {x : Slot} {m : Memory} (g : x.grammar ≠ 15) (h : x.active = 0) : x.grammarEnds m = true := by
  have n : grammarNext m x.grammar 0 = 0 := by simp [grammarNext]
  simp only [Slot.grammarEnds, grammarDead, h, Bool.and_eq_true, decide_eq_true_eq, List.all_eq_true, Bool.or_eq_true]
  exact ⟨g, by simp, fun _ _ => .inr (by rw [n]; simp)⟩

/-- Slot 5 with one report of it at the head of the queue: what the first hypotheses of ReportsAreJudged ask. -/
abbrev Judges (x : Slot) (t : Report) : Prop :=
  (judging x [t]).hub.reports = t :: [] ∧ (judging x [t]).slot t.slot = x ∧ x.unsettled = false ∧ x.prompt ≤ t.pos
/-- The same for a report that is accepted. -/
abbrev Accepts (x : Slot) (t : Report) : Prop :=
  Judges x t ∧ (x.st = .prefill ∨ x.st = .decode ∨ x.st = .paused ∨ x.st = .swapped) ∧ x.dead t.pos t.gen = false ∧ x.commit ≤ t.pos + 1

theorem witness_ReportsAreJudged :
    (∃ (x y z : Slot) (t : Report), Judges x t ∧ x.dead t.pos t.gen = true ∧ Judges y t ∧ t.pos + 1 < y.commit ∧ Judges z t ∧ z.st = .waiting) ∧
    (∃ (x y : Slot) (t : Report) (k : _), Accepts x t ∧ t.point = .guess k ∧ x.limit ≤ t.pos + 1 ∧ Accepts y t ∧ t.pos + 1 < y.limit ∧
      ∃ e ∈ y.window.find? (fun e => e.pos = t.pos + 1), k ≤ e.basis) ∧
    (∃ (x : Slot) (t : Report) (k : _), Accepts x t ∧ t.point = .guess k ∧ t.pos + 1 < x.limit ∧
      x.window.find? (fun e => e.pos = t.pos + 1) = none ∧ x.gen ≠ 0xFFFF ∧ x.inflight < 64 ∧ x.st = .decode ∧ k ≠ 0) ∧
    (∃ (x y z : Slot) (t : Report) (k : _), (∀ w ∈ [x, y, z], Accepts w t ∧ t.pos + 1 < w.limit ∧ w.window.find? (fun e => e.pos = t.pos + 1) = none) ∧
      t.point = .guess k ∧ 64 ≤ x.inflight ∧ y.gen = 0xFFFF ∧ z.st ≠ .decode) ∧
    (∃ (x : Slot) (t : Report) (k : _) (e : _), Accepts x t ∧ t.point = .guess k ∧ t.pos + 1 < x.limit ∧
      x.window.find? (fun e => e.pos = t.pos + 1) = some e ∧ e.basis < k ∧ e.sym = t.sym) ∧
    (∃ (x : Slot) (t : Report) (k : _) (e : _), Accepts x t ∧ t.point = .guess k ∧ t.pos + 1 < x.limit ∧
      x.window.find? (fun e => e.pos = t.pos + 1) = some e ∧ e.basis < k ∧ e.sym ≠ t.sym ∧ x.gen < 0xFFFE) ∧
    (∃ (x : Slot) (t : Report), Accepts x t ∧ t.point = .final ∧ x.grammar = 15 ∧ x.endsym ≠ BitVec.ofNat 64 t.sym ∧ t.pos + 1 < x.limit ∧
      x.window.find? (fun e => e.pos = t.pos + 1) = none ∧ ∀ e ∈ x.window, e.pos + 1 ≠ t.pos + 1) ∧
    (∃ (x : Slot) (t u : Report) (e : _), x.grammar = 15 ∧ x.gen < 0xFFFE ∧ (∀ t' ∈ [t, u], Accepts x t' ∧ t'.point = .final ∧ x.endsym ≠
      BitVec.ofNat 64 t'.sym ∧ t'.pos + 1 < x.limit ∧ x.window.find? (fun e => e.pos = t'.pos + 1) = some e ∧ ∀ e ∈ x.window,
      e.pos + 1 ≠ t'.pos + 1) ∧ e.sym = t.sym ∧ e.sym ≠ u.sym) ∧
    (∃ (x y : Slot) (t : Report), Accepts x t ∧ Accepts y t ∧ t.point = .final ∧ x.grammar = 15 ∧ x.limit ≤ t.pos + 1 ∧ y.grammar = 15 ∧
      y.endsym = BitVec.ofNat 64 t.sym) ∧
    (∃ (x : Slot) (t : Report), Accepts x t ∧ t.point = .final ∧ x.grammarEnds (judging x [t]).mem = true) :=
  ⟨⟨{ st := .decode, notice := some (4, 2) }, { st := .decode, commit := 6 }, { st := .waiting }, ⟨5, 4, 1, .final, 9⟩, by decide +kernel⟩,
  ⟨{ st := .decode, limit := 5 }, { st := .decode, limit := 6, window := [⟨5, 9, 1, 0⟩] }, ⟨5, 4, 1, .guess 1, 9⟩, 1, by decide +kernel, rfl,
    by decide +kernel, by decide +kernel, by decide +kernel, ⟨5, 9, 1, 0⟩, by decide +kernel⟩,
  ⟨{ st := .decode, limit := 6, inflight := 63 }, ⟨5, 4, 1, .guess 1, 9⟩, 1, by decide +kernel⟩,
  ⟨{ st := .decode, limit := 6, inflight := 64 }, { st := .decode, limit := 6, gen := 0xFFFF }, { st := .paused, limit := 6 },
    ⟨5, 4, 1, .guess 1, 9⟩, 1, by decide +kernel⟩,
  ⟨{ st := .decode, limit := 6, window := [⟨5, 9, 1, 0⟩] }, ⟨5, 4, 0, .guess 2, 9⟩, 2, ⟨5, 9, 1, 0⟩, by decide +kernel⟩,
  ⟨{ st := .decode, limit := 6, gen := 0xFFFD, window := [⟨5, 8, 1, 0⟩] }, ⟨5, 4, 0, .guess 2, 9⟩, 2, ⟨5, 8, 1, 0⟩, by decide +kernel⟩,
  ⟨{ st := .decode, limit := 6 }, ⟨5, 4, 0, .final, 9⟩, by decide +kernel⟩,
  ⟨{ st := .decode, limit := 6, window := [⟨5, 9, 1, 0⟩] }, ⟨5, 4, 0, .final, 9⟩, ⟨5, 4, 0, .final, 8⟩, ⟨5, 9, 1, 0⟩, by decide +kernel⟩,
  ⟨{ st := .decode, limit := 5 }, { st := .swapped, limit := 6, endsym := 9 }, ⟨5, 4, 0, .final, 9⟩, by decide +kernel⟩,
  ⟨{ st := .decode, limit := 6, grammar := 3 }, ⟨5, 4, 0, .final, 9⟩, by decide +kernel, rfl, ends_of_idle (by decide) rfl⟩⟩

/-- An image of one region without elements or areas, its placement at region 0 as launch 1, and that launch. -/
def img0 : Image := {
  w := 1, h := 1, cfgtag := 1, spadKib := 0, rcapKib := 0, phases := [(0, .stop)], units := [], chans := [], rings := [], ranges := [],
  shapes := [], shapeParams := [], spill := 0, codeV := 0, codeP := 0x1000, codeSize := 64, entry := 0, rest := 0, dataV := 0, dataP := 0,
  dataSize := 0, pairs := [], pipes := ⟨none, [], []⟩, nodes := [] }
def place0 : Placement := { img := img0, origin := 0, regions := [0], base := 1, params := [], start := 0 }
def rec0 : LaunchRec := ⟨0x1000, 0x2000, 1, 1, 255, 1, [], [], true⟩
def launch0 (st : LaunchSt) : Launch := { rec_ := rec0, prio := 0, st := st, since := 0, deps := [], checked := true }
/-- Launch 1 placed at region 0. -/
def placed0 (R : Region) (p : Placement) (h : Hub := {}) : State :=
  { regions := [(0, { R with launch := some 1 })], hub := { h with placements := [(1, p)], launches := [(1, launch0 .placed)] } }

theorem witness_NoticesAreApplied :
    (∃ (r : _) (s : State) (slot : _) (f : _) (g : _) (id : _) (segs : _) (rest : _) (p : _), (s.region r).notices = .squash
      slot f g (some id) segs :: rest ∧ (s.region r).frozen = none ∧ s.placement? id = some p ∧ (s.region r).launch = some id) ∧
    (∃ (p : Placement) (t : Tok) (f : _) (g : _), p.notice.get? (headerSlot t.data) = some (f, g)) ∧
    (∃ (r : _) (s : State) (slot : _) (f : _) (g : _) (st : _) (rest : _), (s.region r).notices = .squash slot f g st true ::
      rest ∧ (s.region r).frozen = none) ∧
    (∃ (m : Memory) (f g : Nat), m.wf = true ∧ f < 2 ^ 32 ∧ g < 2 ^ 16) ∧
    (∃ (m : Memory) (e : KvSeg) (f q : Nat), m.wf = true ∧ kvReach m e (kvEntry m e q) = true ∧ f ≤ bitsOf (m.word (kvEntry m e q)) 0 32) ∧
    (∃ (m : Memory) (e : KvSeg) (f q : Nat), m.wf = true ∧ kvReach m e (kvEntry m e q) = true ∧ bitsOf (m.word (kvEntry m e q)) 0 32 < f) ∧
    (∃ (r : _) (s : State) (slot : _) (q : _) (rest : _), (s.region r).notices = .establish slot q :: rest ∧ (s.region
      r).frozen = none) ∧
    (∃ (m : Memory) (q : Nat), m.wf = true ∧ q + 1 < 2 ^ 32) ∧
    (∃ (id : _) (slot : _) (s : State) (p : _),
      let x := s.slot slot;
      x.unsettled = true ∧ id ∈ x.ackStages ∧ (∀ e ∈ x.ackRegions, e.1 ≠ id) ∧ s.placement? id = some p ∧ (∀ h ∈ s.kv, h.slot
      = slot → s.issuedBy id h = true → p.ackAt.get slot 0 ≤ h.tick)) ∧
    (∃ (id : _) (slot : _) (s : State) (h : KvHalf),
      h ∈ s.kv ∧ h.slot = slot ∧ s.issuedBy id h = true ∧ (∀ p, s.placement? id = some p → h.tick < p.ackAt.get slot 0) ∧
      (s.placement? id).isSome = true ∧ (s.slot slot).unsettled = true) ∧
    (∃ (slot : _) (s : State) (q : _),
      let x := s.slot slot;
      x.unsettled = true ∧ x.ackSegs = [] ∧ x.ackStages = [] ∧ x.cut = false ∧ x.relaunch = some q ∧ (x.st = .prefill ∨ x.st =
      .decode ∨ x.st = .paused ∨ x.st = .swapped) ∧ (q.basis = 0 ∨ x.gen ≠ 0xFFFF)) ∧
    (∃ (slot : _) (s : State),
      let x := s.slot slot;
      x.unsettled = true ∧ x.ackSegs = [] ∧ x.ackStages = [] ∧ x.cut = false ∧ x.relaunch = none) ∧
    (∃ (slot : _) (s : State), (s.slot slot).ackSegs ≠ []) :=
  ⟨⟨0, placed0 { notices := [.squash 5 4 2 (some 1) true] } place0, 5, 4, 2, 1, true, [], place0, by decide +kernel⟩,
  ⟨{ place0 with notice := [(5, (4, 2))] }, tok (headerWord 5 4 1 false 0), 4, 2, by decide +kernel⟩,
  ⟨0, placed0 { notices := [.squash 5 4 2 (some 1) true] } place0, 5, 4, 2, some 1, [], by decide +kernel⟩,
  ⟨kvMem, 2 ^ 32 - 1, 2 ^ 16 - 1, by decide +kernel⟩,
  ⟨kvAccept kvAt seg0 half0, seg0, 15, 15, by decide +kernel⟩,
  ⟨kvAccept kvAt seg0 half0, seg0, 16, 15, by decide +kernel⟩,
  ⟨0, placed0 { notices := [.establish 5 4] } place0, 5, 4, [], by decide +kernel⟩,
  ⟨kvMem, 2 ^ 32 - 2, by decide +kernel⟩,
  ⟨1, 5, placed0 {} place0 { slots := [(5, { unsettled := true, ackStages := [1] })] }, place0, by decide +kernel, by decide +kernel, by decide +kernel, rfl, fun h hh => nomatch hh⟩,
  ⟨1, 5, { (placed0 {} { place0 with ackAt := [(5, 7)] } { slots := [(5, { unsettled := true })] }) with kv := [{ half0 with slot := 5, tick := 6 }] },
    { half0 with slot := 5, tick := 6 }, by decide +kernel, rfl, by decide +kernel, fun p h => by cases h; decide, by decide +kernel, by decide +kernel⟩,
  ⟨5, judging { st := .decode, unsettled := true, relaunch := some ⟨4, 9, 0, 0, false⟩ }, ⟨4, 9, 0, 0, false⟩, by decide +kernel⟩,
  ⟨5, judging { st := .decode, unsettled := true }, by decide +kernel⟩,
  ⟨5, judging { unsettled := true, ackSegs := [64] }, by decide +kernel⟩⟩

/-- The placement of a stage with a start port, one report port and one kv port, whose ends are elements 0 to 2 of its first cell. -/
def end0 (i : Nat) : ImgEnd := ⟨i, 0, 0, 0⟩
def stage0 : Placement := { place0 with img := { img0 with
  pipes := ⟨some (end0 0, end0 1, end0 2, 0x4000), [(.guess 1, end0 0, end0 1)], [(0, end0 0, end0 1)]⟩ } }
def staged (h : Hub) (cs : Map Sink Chan := []) (kv : List KvHalf := []) : State :=
  { (placed0 { tags_ := [0] } stage0 h) with chans := cs, kv := kv, mem := kvMem }
def start0 : PStart := ⟨4, 9, 0, 0, false⟩

theorem witness_StepBuilderStarts :
    (∃ (s : State) (id : _) (p : _) (h : _) (y : _) (w : _) (emb : _) (slot : _) (t : _) (prompt : _) (ds : _), s.startStage =
      some (id, p) ∧ p.startInputs = some (h, y, w, emb) ∧ s.hub.batch = (slot, t, prompt) :: ds ∧ s.startRoom h 1 = true ∧
      s.startRoom y 1 = true ∧ s.startRoom w 8 = true ∧ h ≠ y ∧ h ≠ w ∧ y ≠ w) ∧
    (∃ (s : State) (id : _) (p : _) (h : _) (y : _) (w : _) (emb : _) (n : _) (ns : _), s.startStage = some (id, p) ∧
      p.startInputs = some (h, y, w, emb) ∧ s.hub.batch = [] ∧ s.hub.marks = n :: ns ∧ s.startRoom h 1 = true) ∧
    (∃ (es : List (Nat × Nat × List (Nat × PStart × Bool))), es ≠ [] ∧ ∀ e ∈ es, ∀ d ∈ e.2.2, d.1 = e.2.1) ∧
    (∃ (s : State), s.formBatch.hub.batch ≠ s.hub.batch) ∧
    (∃ (slot : _) (s : State) (v : _),
      let x := s.slot slot;
      x.st = .waiting ∧ x.admitted < s.floorAt x.sys 8 ∧ s.readDirectory x = some v) ∧
    (∃ (slot : _) (s : State),
      let x := s.slot slot;
      x.st = .waiting ∧ x.admitted < s.floorAt x.sys 8 ∧ s.readDirectory x = none) ∧
    (∃ (slot : _) (s : State),
      let x := s.slot slot;
      s.floorAt x.sys 8 ≤ x.admitted) ∧
    (∃ (slot : _) (s : State),
      let x := s.slot slot;
      x.st = .draining ∧ x.left = true ∧ x.unsettled = false ∧ x.retire < s.floorAt false 8) ∧
    (∃ (slot : _) (s : State), s.floorAt false 8 ≤ (s.slot slot).retire) :=
  ⟨⟨staged { batch := [(5, start0, false)] } (([0, 1, 2] : List Nat).map (fun i => (.inp ⟨0, 0, i⟩ 0, { limit := 10 }))), 1, stage0,
    (⟨0, 0, 0⟩, 0), (⟨0, 0, 1⟩, 0), (⟨0, 0, 2⟩, 0), 0x4000, 5, start0, false, [], by decide +kernel⟩,
  ⟨staged { marks := [5] }, 1, stage0, (⟨0, 0, 0⟩, 0), (⟨0, 0, 1⟩, 0), (⟨0, 0, 2⟩, 0), 0x4000, 5, [], by decide +kernel⟩,
  ⟨[(0, 5, [(5, start0, false)])], by decide +kernel⟩,
  ⟨judging { st := .decode, wver := 3, starts := [start0] }, by decide +kernel⟩,
  ⟨5, { (judging { st := .waiting, wdir := 0x10000 }) with pages := [0x10000], dies := [(8, { floor := 1 })] }, 0, by decide +kernel⟩,
  ⟨5, { (judging { st := .waiting, wdir := 0x10001 }) with pages := [0x10000], dies := [(8, { floor := 1 })] }, by decide +kernel⟩,
  ⟨5, judging { st := .waiting }, by decide +kernel⟩,
  ⟨5, { (judging { st := .draining, left := true }) with dies := [(8, { floor := 1 })] }, by decide +kernel⟩,
  ⟨5, judging { st := .draining, left := true }, by decide +kernel⟩⟩

/-- A header of slot 0. -/
def hdr0 (u : BitVec 2 := 1) : Tok := { data := headerWord 0 4 0 false 0, utag := u, tag := 0 }

theorem witness_PipePortsTake :
    (∃ (id : _) (k : _) (s : State) (p : _) (pt : _) (hdr : _) (dat : _) (t : _) (ts : _),
      let q := p.pipes.get k {};
      s.placement? id = some p ∧ p.img.pipes.reports[k]? = some (pt, hdr, dat) ∧ q.stopped = false ∧ s.portRuns p hdr = true ∧
      q.drop = 0 ∧ q.report = none ∧ (s.chan (.pipe id k false)).inq = t :: ts ∧ t.kind = 0 ∧ (t.utag = 1 ∨ t.utag = 2) ∧
      (t.utag = 1 → s.reportsDue < 1024)) ∧
    (∃ (id : _) (k : _) (s : State) (p : _) (pt : _) (hdr : _) (dat : _) (t : _) (ts : _),
      let q := p.pipes.get k {};
      s.placement? id = some p ∧ p.img.pipes.reports[k]? = some (pt, hdr, dat) ∧ q.drop = 0 ∧ q.report = none ∧
      (s.chan (.pipe id k false)).inq = t :: ts ∧ t.kind = 0 ∧ t.utag = 1 ∧ 1024 ≤ s.reportsDue) ∧
    (∃ (id : _) (k : _) (s : State) (p : _) (pt : _) (hdr : _) (dat : _) (t : _) (ts : _) (h : _),
      let q := p.pipes.get k {};
      s.placement? id = some p ∧ p.img.pipes.reports[k]? = some (pt, hdr, dat) ∧ q.stopped = false ∧ s.portRuns p hdr = true ∧
      q.drop = 0 ∧ q.report = some h ∧ (s.chan (.pipe id k true)).inq = t :: ts ∧ t.kind = 0 ∧ t.poison = false ∧
      s.hub.reports.length < 1024) ∧
    (∃ (id : _) (k : _) (s : State) (p : _) (layer : _) (hdr : _) (dat : _) (t : _) (ts : _) (g : _),
      let q := p.pipes.get k {};
      s.placement? id = some p ∧ p.img.pipes.reports.length ≤ k ∧ p.img.pipes.kvs[k - p.img.pipes.reports.length]? = some
      (layer, hdr, dat) ∧ q.stopped = false ∧ s.portRuns p hdr = true ∧ s.kvBusy id k = false ∧ q.drop = 0 ∧ s.gathering id k
      = none ∧ (s.chan (.pipe id k false)).inq = t :: ts ∧ t.kind = 0 ∧ t.utag = 1 ∧ s.kvFirst (headerSlot t.data) layer =
      some g) ∧
    (∃ (id : _) (k : _) (s : State) (p : _) (layer : _) (hdr : _) (dat : _) (t : _) (ts : _) (i : _) (h : _),
      let q := p.pipes.get k {};
      s.placement? id = some p ∧ p.img.pipes.reports.length ≤ k ∧ p.img.pipes.kvs[k - p.img.pipes.reports.length]? = some
      (layer, hdr, dat) ∧ q.stopped = false ∧ s.portRuns p hdr = true ∧ s.kvBusy id k = false ∧ q.drop = 0 ∧ s.gathering id k
      = some i ∧ s.kv[i]? = some h ∧ (s.chan (.pipe id k true)).inq = t :: ts ∧ t.kind = 0 ∧ h.words.length + 1 ≠ h.need) ∧
    (∃ (id : _) (k : _) (s : State) (p : _) (layer : _) (hdr : _) (dat : _) (t : _) (ts : _) (i : _) (h : _) (g : _),
      let q := p.pipes.get k {};
      s.mem.wf = true ∧ s.placement? id = some p ∧ p.img.pipes.reports.length ≤ k ∧ p.img.pipes.kvs[k - p.img.pipes.reports.length]? = some
      (layer, hdr, dat) ∧ q.stopped = false ∧ s.portRuns p hdr = true ∧ s.kvBusy id k = false ∧ q.drop = 0 ∧ s.gathering id k
      = some i ∧ s.kv[i]? = some h ∧ (s.chan (.pipe id k true)).inq = t :: ts ∧ t.kind = 0 ∧ h.words.length + 1 = h.need ∧
      h.held = false ∧ s.kvPlaceOf h.slot h.layer h.pos = .here g ∧ s.kvBehind i h (some g) = false ∧ s.kvDown h = false) :=
  ⟨⟨1, 0, staged {} [(.pipe 1 0 false, { inq := [hdr0 2] })], stage0, .guess 1, end0 0, end0 1, hdr0 2, [], by decide +kernel⟩,
  ⟨1, 0, staged { reports := List.replicate 1024 ⟨5, 4, 0, .final, 9⟩ } [(.pipe 1 0 false, { inq := [hdr0] })], stage0, .guess 1, end0 0, end0 1,
    hdr0, [], by decide +kernel⟩,
  ⟨1, 0, { (staged {} [(.pipe 1 0 true, { inq := [tok 9] })]) with hub := { (staged {}).hub with placements := [(1, { stage0 with pipes := [(0, { report := some (0, 4, 0) })] })] } },
    { stage0 with pipes := [(0, { report := some (0, 4, 0) })] }, .guess 1, end0 0, end0 1, tok 9, [], (0, 4, 0), by decide +kernel⟩,
  ⟨1, 1, staged {} [(.pipe 1 1 false, { inq := [hdr0] })], stage0, 0, end0 0, end0 1, hdr0, [], seg0, by decide +kernel⟩,
  ⟨1, 1, staged {} [(.pipe 1 1 true, { inq := [tok 9] })] [{ half0 with words := [], stage := some (1, 1) }], stage0, 0, end0 0, end0 1,
    tok 9, [], 0, { half0 with words := [], stage := some (1, 1) }, by decide +kernel⟩,
  ⟨1, 1, staged {} [(.pipe 1 1 true, { inq := [tok 9] })] [{ half0 with words := List.replicate 7 (7, false), stage := some (1, 1) }], stage0, 0,
    end0 0, end0 1, tok 9, [], 0, { half0 with words := List.replicate 7 (7, false), stage := some (1, 1) }, seg0, by decide +kernel⟩⟩

/-- One state for each form of SequenceFormsComplete. -/
theorem witness_SequenceFormsComplete :
    (∃ (a b : BitVec 5) (s : State), s.CleanRegs s.site.region [a, b] ∧ seqOpnd (s.greg s.site.region a) true = true ∧
      bitsOf (s.greg s.site.region a) 16 4 = 15) ∧
    (∃ (a b : BitVec 5) (s : State) (ts : _) (ws : _), s.CleanRegs s.site.region [a, b] ∧ (s.greg s.site.region b).toNat % 64 = 0 ∧
      seqOpnd (s.greg s.site.region a) false = true ∧ s.coreLines s.site.region (s.greg s.site.region b) 1 .load = .ok ts ∧
      s.coreOwes s.site.region = false ∧ s.cmdsOf s.site.region = [] ∧ s.readLines ts = some ws ∧
      (s.slot (bitsOf (s.greg s.site.region a) 0 13)).st = .free) ∧
    (∃ (a : BitVec 5) (s : State), s.CleanRegs s.site.region [a] ∧ seqOpnd (s.greg s.site.region a) false = true ∧
      (s.slot (bitsOf (s.greg s.site.region a) 0 13)).st ≠ .free ∧ (s.slot (bitsOf (s.greg s.site.region a) 0 13)).st ≠ .draining) ∧
    (∃ (s : State) (id : _) (p : _) (h : _) (y : _) (w : _) (emb : _) (slot : _) (t : _) (prompt : _) (ds : _), s.startStage =
      some (id, p) ∧ p.startInputs = some (h, y, w, emb) ∧ s.hub.batch = (slot, t, prompt) :: ds ∧ s.startRoom h 1 = true ∧
      s.startRoom y 1 = true ∧ s.startRoom w 8 = true) ∧
    (∃ (s : State) (t : Report) (rest : _), s.hub.reports = t :: rest ∧ (s.slot t.slot).unsettled = false) ∧
    (∃ (r : Nat) (s : State) (slot f g id : Nat) (segs : Bool) (rest : _), (s.region r).notices = .squash slot f g (some id) segs :: rest ∧
      (s.region r).frozen = none) ∧
    (∃ (r : Nat) (s : State) (slot f g : Nat) (st : _) (rest : _), (s.region r).notices = .squash slot f g st true :: rest ∧
      (s.region r).frozen = none) ∧
    (∃ (id slot : Nat) (s : State), (s.slot slot).unsettled = true ∧ id ∈ (s.slot slot).ackStages ∧
      (∀ e ∈ (s.slot slot).ackRegions, e.1 ≠ id) ∧ (∀ h ∈ s.kv, h.slot ≠ slot)) ∧
    (∃ (slot : Nat) (s : State), (s.slot slot).unsettled = true ∧ (s.slot slot).ackSegs = [] ∧ (s.slot slot).ackStages = [] ∧
      (s.slot slot).cut = false ∧ (s.slot slot).relaunch = none) ∧
    (∃ (r : Nat) (s : State) (slot q : Nat) (rest : _), (s.region r).notices = .establish slot q :: rest ∧ (s.region r).frozen = none) ∧
    (∃ (slot : Nat) (s : State) (v : _), (s.slot slot).st = .waiting ∧ (s.slot slot).admitted < s.floorAt (s.slot slot).sys 8 ∧
      s.readDirectory (s.slot slot) = some v) ∧
    (∃ (slot : Nat) (s : State), (s.slot slot).st = .draining ∧ (s.slot slot).left = true ∧ (s.slot slot).unsettled = false ∧
      (s.slot slot).retire < s.floorAt false 8) ∧
    (∃ (id k : Nat) (s : State) (p : _) (pt : _) (hdr : _) (dat : _) (h : _) (t : Tok) (ts : _), s.placement? id = some p ∧
      p.img.pipes.reports[k]? = some (pt, hdr, dat) ∧ (p.pipes.get k {}).stopped = false ∧ s.portRuns p hdr = true ∧
      (p.pipes.get k {}).drop = 0 ∧ (p.pipes.get k {}).report = some h ∧ (s.chan (.pipe id k true)).inq = t :: ts ∧ t.kind = 0 ∧
      t.poison = false ∧ s.hub.reports.length < 1024) ∧
    (∃ (id k : Nat) (s : State) (p : _) (layer : _) (hdr : _) (dat : _) (i : Nat) (h : KvHalf) (t : Tok) (ts : _), s.placement? id = some p ∧
      p.img.pipes.reports.length ≤ k ∧ p.img.pipes.kvs[k - p.img.pipes.reports.length]? = some (layer, hdr, dat) ∧
      (p.pipes.get k {}).stopped = false ∧ s.portRuns p hdr = true ∧ s.kvBusy id k = false ∧ (p.pipes.get k {}).drop = 0 ∧
      s.gathering id k = some i ∧ s.kv[i]? = some h ∧ (s.chan (.pipe id k true)).inq = t :: ts ∧ t.kind = 0 ∧
      h.words.length + 1 ≠ h.need) :=
  ⟨⟨1, 2, at0 (core3 0xF0005 7 0), clean_of (by decide +kernel), by decide +kernel⟩,
  ⟨1, 2, slotCore {}, [.plain 0x100000], _, clean_of (by decide +kernel), by decide +kernel, by decide +kernel, by rfl, by decide +kernel,
    by decide +kernel, by rfl, by decide +kernel⟩,
  ⟨1, slotCore { st := .paused }, clean_of (by decide +kernel), by decide +kernel⟩,
  ⟨staged { batch := [(5, start0, false)] } (([0, 1, 2] : List Nat).map (fun i => (.inp ⟨0, 0, i⟩ 0, { limit := 10 }))), 1, stage0,
    (⟨0, 0, 0⟩, 0), (⟨0, 0, 1⟩, 0), (⟨0, 0, 2⟩, 0), 0x4000, 5, start0, false, [], by decide +kernel⟩,
  ⟨judging {} [⟨5, 4, 0, .final, 9⟩], ⟨5, 4, 0, .final, 9⟩, [], by decide +kernel⟩,
  ⟨0, placed0 { notices := [.squash 5 4 2 (some 1) false] } place0, 5, 4, 2, 1, false, [], by decide +kernel⟩,
  ⟨0, placed0 { notices := [.squash 5 4 2 none true] } place0, 5, 4, 2, none, [], by decide +kernel⟩,
  ⟨1, 5, placed0 {} place0 { slots := [(5, { unsettled := true, ackStages := [1], ackRegions := [(2, 0)] })] }, by decide +kernel⟩,
  ⟨5, judging { st := .decode, unsettled := true }, by decide +kernel⟩,
  ⟨0, placed0 { notices := [.establish 5 4] } place0, 5, 4, [], by decide +kernel⟩,
  ⟨5, { (judging { st := .waiting, wdir := 0x10000 }) with pages := [0x10000], dies := [(8, { floor := 1 })] }, 0, by decide +kernel⟩,
  ⟨5, { (judging { st := .draining, left := true }) with dies := [(8, { floor := 1 })] }, by decide +kernel⟩,
  ⟨1, 0, { (staged {} [(.pipe 1 0 true, { inq := [tok 9] })]) with hub := { (staged {}).hub with placements := [(1, { stage0 with pipes := [(0, { report := some (0, 4, 0) })] })] } },
    { stage0 with pipes := [(0, { report := some (0, 4, 0) })] }, .guess 1, end0 0, end0 1, (0, 4, 0), tok 9, [], by decide +kernel⟩,
  ⟨1, 1, staged {} [(.pipe 1 1 true, { inq := [tok 9] })] [{ half0 with words := [], stage := some (1, 1) }], stage0, 0, end0 0, end0 1,
    0, { half0 with words := [], stage := some (1, 1) }, tok 9, [], by decide +kernel⟩⟩

/-- A message, and a message that the hub holds. -/
def msg0 : Msg := ⟨1, List.replicate 64 7⟩
def out0 (dest : Nat) (nak : Option (Nat × BitVec 5) := none) : OutMsg := ⟨msg0, dest, nak, 0⟩

theorem witness_LaunchesAndMessagesAct :
    (∃ (a : _) (prio : BitVec 2) (s t : State) (ts : _) (ws : _),
      let r := s.site.region;
      let A := s.greg r a;
      s.CleanRegs r [a] ∧ A.toNat % 64 = 0 ∧ s.coreLines r A 4 .load = .ok ts ∧ State.readLines { s with mem := s.ownMem r }
      ts = some ws ∧ (s.hub.queues.get prio.toNat []).length < 64 ∧ t.greg r a = A ∧ t.mem = s.mem ∧ 64 ≤ (t.hub.queues.get
      prio.toNat []).length) ∧
    (∃ (a : _) (s : State),
      let r := s.site.region;
      s.CleanRegs r [a] ∧ (s.greg r a).toNat % 64 ≠ 0) ∧
    (∃ (a : _) (b : _) (s t : State), s.CleanRegs s.site.region [a, b] ∧ (s.greg s.site.region b).toNat % 64 ≠ 0 ∧
      t.CleanRegs t.site.region [a, b] ∧ (t.greg t.site.region b).toNat % 64 = 0 ∧ 2 ^ 32 ≤ (t.greg t.site.region a).toNat) ∧
    (∃ (a : _) (b : _) (s t : State) (ts : _),
      let r := s.site.region;
      s.CleanRegs r [a, b] ∧ (s.greg r a).toNat < 2 ^ 32 ∧ (s.greg r b).toNat % 64 = 0 ∧ s.coreLines r (s.greg r b) 1 .load = .ok ts ∧
      s.coreOwes r = true ∧ t.CleanRegs r [a, b] ∧ (t.greg r a).toNat < 2 ^ 32 ∧ (t.greg r b).toNat % 64 = 0 ∧
      t.coreLines r (t.greg r b) 1 .load = .ok ts ∧ t.coreOwes r = false ∧ 256 ≤ t.hub.parked.length + t.hub.outbox.length) ∧
    (∃ (a : _) (b : _) (s : State) (ts : _) (ws : _),
      let r := s.site.region;
      let A := s.greg r a;
      s.CleanRegs r [a, b] ∧ A.toNat < 2 ^ 32 ∧ (s.greg r b).toNat % 64 = 0 ∧ s.coreLines r (s.greg r b) 1 .load = .ok ts ∧
      s.coreOwes r = false ∧ s.cmdsOf r = [] ∧ s.hub.parked.length + s.hub.outbox.length < 256 ∧ s.readLines ts =
      some ws) ∧
    (∃ (a : _) (s : State) (ts : _),
      let r := s.site.region;
      let A := s.greg r a;
      s.CleanRegs r [a] ∧ A.toNat % 64 = 0 ∧ s.coreLines r A 1 .store = .ok ts ∧ s.inboxOf r = []) ∧
    (∃ (a : _) (s : State) (g : _) (id : _) (p : _) (m : _) (ms : _),
      let r := s.site.region;
      let A := s.greg r a;
      s.mem.wf = true ∧ s.CleanRegs r [a] ∧ A.toNat % 64 = 0 ∧ s.translateCore r A .store = .ok (.plain g) ∧ (s.region
      r).launch = some id ∧ s.placement? id = some p ∧ p.inbox = m :: ms ∧ m.body.length = 64 ∧ (s.core r).overlaps g 64 =
      false) ∧
    (∃ (s t u v : State) (o p q r : OutMsg) (l m : Launch) (x : Placement), s.hub.outbox = [o] ∧ o.nak = none ∧ o.hostAddr = 0
      ∧ o.dest ≠ 0 ∧ s.launch? o.dest = some l ∧ s.placement? o.dest = some x ∧ l.st ≠ .done ∧ x.inbox.length < 16 ∧
      s.hub.parked = [] ∧ t.hub.outbox = [p] ∧ p.nak = none ∧ p.hostAddr = 0 ∧ p.dest ≠ 0 ∧ t.launch? p.dest = some m ∧ m.st =
      .queued ∧ t.placement? p.dest = none ∧ u.hub.outbox = [q] ∧ q.nak = none ∧ q.hostAddr = 0 ∧ q.dest ≠ 0 ∧ u.launch?
      q.dest = none ∧ v.hub.outbox = [r] ∧ r.nak = none ∧ r.hostAddr = 0 ∧ r.dest = 0 ∧ v.dev.hostRingBase ≠ 0 ∧ 64 *
      (v.hub.hostRing.length + 1) ≤ v.dev.hostRingSize.toNat) ∧
    (∃ (s : State) (o : _) (os : _) (r : _) (d : _), s.hub.outbox = o :: os ∧ o.nak = some (r, d) ∧ (s.core r).stall = some
      (.nak d) ∧ (s.region r).launch = some o.msg.sender ∧ o.dest ≠ 0 ∧ s.launch? o.dest = none) ∧
    (∃ (id : _) (s : State) (m : _) (p : _), s.hub.parked.find? (fun q => q.1 = id) = some (id, m) ∧ s.placement? id = some p
      ∧ p.inbox.length < 16) :=
  ⟨⟨1, 3, at0 (core3 0x10000 0 0), { (at0 (core3 0x10000 0 0)) with hub := { queues := [(3, List.replicate 64 9)] } },
    [.plain 0x100000, .plain 0x100040, .plain 0x100080, .plain 0x1000C0], _, clean_of (by decide +kernel), by decide +kernel, by rfl, by rfl, by decide +kernel⟩,
  ⟨1, at0 (core3 0x10020 0 0), clean_of (by decide +kernel), by decide +kernel⟩,
  ⟨1, 2, at0 (core3 0 0x10020 0), at0 (core3 0x100000000 0x10000 0), clean_of (by decide +kernel), by decide +kernel, clean_of (by decide +kernel),
    by decide +kernel⟩,
  ⟨1, 2, at0 { (core3 0 0x10000 0) with stores := [⟨0, 0x100000, 8, 5, false, none⟩] },
    { (at0 (core3 0 0x10000 0)) with hub := { outbox := List.replicate 256 (out0 1) } }, [.plain 0x100000], clean_of (by decide +kernel),
    by decide +kernel, by decide +kernel, by rfl, by decide +kernel, clean_of (by decide +kernel), by decide +kernel, by decide +kernel, by rfl,
    by decide +kernel, by decide +kernel⟩,
  ⟨1, 2, at0 (core3 0xFFFFFFFF 0x10000 0), [.plain 0x100000], _, clean_of (by decide +kernel), by decide +kernel, by decide +kernel, by rfl, by decide +kernel, by decide +kernel, by decide +kernel, by rfl⟩,
  ⟨1, at0 (core3 0x10000 0 0), [.plain 0x100000], clean_of (by decide +kernel), by decide +kernel, by rfl, by decide +kernel⟩,
  ⟨1, placed0 { core := core3 0x10000 0 0 } { place0 with inbox := [msg0] }, 0x100000, 1, { place0 with inbox := [msg0] }, msg0, [],
    by decide +kernel, clean_of (by decide +kernel), by decide +kernel⟩,
  ⟨placed0 {} place0 { outbox := [out0 1] }, { hub := { outbox := [out0 2], launches := [(2, launch0 .queued)] } },
    { hub := { outbox := [out0 3] } }, { hub := { outbox := [out0 0] }, dev := { hostRingBase := 0x1000, hostRingSize := 64 } },
    out0 1, out0 2, out0 3, out0 0, launch0 .placed, launch0 .queued, place0, by decide +kernel⟩,
  ⟨{ (at0 { (core3 0 0 0) with stall := some (.nak 3) }) with hub := { outbox := [out0 9 (some (0, 3))] } }, out0 9 (some (0, 3)), [], 0, 3, by decide +kernel⟩,
  ⟨1, placed0 {} { place0 with inbox := List.replicate 15 msg0 } { parked := [(1, msg0)] }, msg0, { place0 with inbox := List.replicate 15 msg0 }, by decide +kernel⟩⟩

theorem witness_WaitsEnd :
    ∃ (s t u v w x : State) (a b : Word), (∀ y ∈ [s, t, u, v, w, x], (y.region 0).coreFrozen = false) ∧ (s.core 0).wait = some
      (.sleepu a) ∧ a.toNat ≤ s.cyc ∧ (t.core 0).wait = some (.waits b true) ∧ b.toNat < t.floorAt true (regionDie 0) ∧
      (u.core 0).wait = some (.hwait 7) ∧ (u.handle 0 7).st = .filling ∧ (v.core 0).wait = some (.hwait 7) ∧ (v.handle 0 7).st
      ≠ .filling ∧ (v.handle 0 7).cause = 0 ∧ (w.core 0).wait = some .freeze ∧ (x.core 0).wait = some .halt :=
  ⟨{ (at0 { wait := some (.sleepu 5) }) with cyc := 5 }, { (at0 { wait := some (.waits 4 true) }) with dies := [(0, { sysFloor := 5 })] },
    { regions := [(0, { handles := [(7, { st := .filling })], core := { wait := some (.hwait 7) } })] }, at0 { wait := some (.hwait 7) },
    at0 { wait := some .freeze }, at0 { wait := some .halt }, 5, 4, by decide +kernel⟩

/-- Launch 1 waiting in queue 0 of the hub. -/
def queued0 (l : Launch) (cyc : Nat := 0) : State :=
  { cyc := cyc, hub := { queues := [(l.prio, [1])], launches := [(1, l)] } }

/-- Placing rests on the reading of an image (notes/assumptions/6): this state waits for nothing else. -/
theorem witness_SchedulerDecides_0 (h : Config.imageAt 0x1000 [] = some img0) :
    ∃ (s : State) (id : _) (l : _) (o : _) (m : _) (rs : _), s.hub.waiting = [id] ∧ s.hub.preempting = none ∧ s.launch? id = some l ∧
      l.st = .queued ∧ l.checked = true ∧ (∀ d ∈ l.deps, d.met = true) ∧ s.launchFree l = true ∧ s.originFor id l [] = some o ∧
      s.imageFor l = some m ∧ s.loadReject m o l.rec_.base l.rec_.params = none ∧ rectRegions o m.w m.h = some rs ∧
      s.spillBad m rs = false :=
  have hi : (queued0 (launch0 .queued)).imageFor (launch0 .queued) = some img0 := h
  ⟨queued0 (launch0 .queued), 1, launch0 .queued, 0, img0, [0], by decide +kernel, by decide +kernel, by decide +kernel, by decide +kernel, by decide +kernel, by decide +kernel, by decide +kernel,
    by show Option.bind _ _ = _; rw [hi]; decide +kernel, hi, by decide +kernel⟩

/-- Launch 1, swapped out, has waited for region 0, where launch 2 stands. -/
def impatient0 : Hub :=
  { placements := [(1, place0), (2, place0)], launches := [(1, { (launch0 .swapped) with readySince := some 0 }), (2, launch0 .placed)] }

theorem witness_SchedulerDecides :
    (∃ (s : State) (id : _) (l : _), s.hub.waiting = [id] ∧ s.hub.preempting = none ∧ s.launch? id = some l ∧ l.st = .queued ∧
      l.checked = false ∧ s.canRecord l.rec_.record = true ∧ l.broken = true) ∧
    (∃ (s : State) (id : _) (l : _), s.hub.waiting = [id] ∧ s.hub.preempting = none ∧ s.launch? id = some l ∧ l.st = .queued ∧
      l.checked = false ∧ l.broken = false ∧ (∀ d ∈ l.deps, d.met = true) ∧ s.launchFree l = true ∧ s.canRecord l.rec_.record = true ∧
      s.imageFor l = none) ∧
    (∃ (s : State) (id : _) (l : _), s.launch? id = some l ∧ (l.st = .queued ∨ l.st = .swapped) ∧ 0 < l.prio ∧ l.since +
      s.hub.agelim.toNat ≤ s.cyc ∧ (s.hub.queues.get (l.prio - 1) []).length < 64) ∧
    (∃ (s : State) (w : _) (v : _) (p : _) (l : _), s.hub.preempting = none ∧ s.preemptChoice = some (w, v, p) ∧
      s.placement? v = some p ∧ s.launch? v = some l ∧ (∀ r ∈ p.regions, (s.region r).frozen = none) ∧ p.regions ≠ [] ∧
      l.rec_.flags.getLsbD 1 = true) ∧
    (∃ (s : State) (w : _) (lw : _) (e : _), (w, lw) ∈ s.impatient ∧ e ∈ s.hub.placements ∧ s.mayFall w lw e = true) :=
  let rec2 : Launch := { (launch0 .placed) with rec_ := { rec0 with flags := 3 } }
  let hub2 : Hub := { impatient0 with launches := [(1, { (launch0 .swapped) with readySince := some 0 }), (2, rec2)] }
  let s2 : State := { cyc := 0x10000, regions := [(0, { launch := some 2 })], hub := hub2 }
  let broken : Launch := { (launch0 .queued) with checked := false, rec_ := { rec0 with w := 9 } }
  let unread : Launch := { (launch0 .queued) with checked := false, rec_ := { rec0 with image := 0x1020 } }
  ⟨⟨queued0 broken, 1, broken, by decide +kernel⟩,
  ⟨queued0 unread, 1, unread, by decide +kernel, by decide +kernel, by decide +kernel, by decide +kernel, by decide +kernel, by decide +kernel,
    by decide +kernel, by decide +kernel, by decide +kernel, if_neg (by decide +kernel)⟩,
  ⟨queued0 { (launch0 .queued) with prio := 3 } 0x100000, 1, { (launch0 .queued) with prio := 3 }, by decide +kernel⟩,
  ⟨s2, 1, 2, place0, rec2, by decide +kernel⟩,
  ⟨s2, 1, { (launch0 .swapped) with readySince := some 0 }, (2, place0), by decide +kernel⟩⟩

theorem witness_PlacementsEnd :
    (∃ (r : _) (s t : State) (id : _) (p q : Placement) (n : _), (s.region r).launch = some id ∧ s.placement? id = some p ∧
      (s.region r).stop = false ∧ (s.region r).frozen = none ∧ 16 ≤ (s.region r).idle ∧ nextPhase (p.img.rule (s.region
      r).phase) (s.updatedRp r) = none ∧ (t.region r).launch = some id ∧ t.placement? id = some q ∧ (t.region r).stop = false
      ∧ (t.region r).frozen = none ∧ 16 ≤ (t.region r).idle ∧ nextPhase (q.img.rule (t.region r).phase) (t.updatedRp r) = some
      n) ∧
    (∃ (k : Nat), k < 4) ∧
    (∃ (id : _) (s : State) (p : _) (l : _), s.placement? id = some p ∧ s.launch? id = some l ∧ l.st = .placed ∧ (∀ r ∈
      p.regions, (s.region r).stop = true) ∧ (s.core p.origin).halted = true ∧ s.joined id p.regions = true ∧ s.faulty
      p.regions = [] ∧ s.cutFrom p.regions = false) ∧
    (∃ (id : _) (s : State) (c : _), s.mem.wf = true ∧ s.hub.completions.find? (fun c => c.id = id) = some c ∧ recordAddrOk
      (BitVec.ofNat 64 c.addr) = true ∧ c.addr < 2 ^ 64) :=
  ⟨⟨0, placed0 { idle := 16 } place0, placed0 { idle := 16 } { place0 with img := { img0 with phases := [(0, .goto 1), (1, .stop)] } }, 1, place0,
    { place0 with img := { img0 with phases := [(0, .goto 1), (1, .stop)] } }, 1, by decide +kernel⟩,
  ⟨3, by decide +kernel⟩,
  ⟨1, placed0 { stop := true, core := { run := .halted, wait := some .halt } } place0, place0, launch0 .placed, by decide +kernel⟩,
  ⟨1, { hub := { completions := [⟨1, 0x2000, 0x0C, 6, 0, 0, 9, 5⟩] } }, ⟨1, 0x2000, 0x0C, 6, 0, 0, 9, 5⟩, by decide +kernel⟩⟩

/-- A stage whose element 0 has one word in bank 0, and an address generator's word that is none. -/
def worded (w : BitVec 32) : Placement := { place0 with img := { img0 with units := [⟨0, 0, 0, 0, [(0, [w])], [], [], false⟩] } }

theorem witness_BanksAreFetched :
    (∃ (u : _) (b : _) (s : State), s.bankWanted u b = true) ∧
    (∃ (u : _) (b : _) (s : State) (f : _) (id : _) (p : _) (ws : _), (s.region u.region).fetches.find? (fun f => f.u = u &&
      f.bank = b) = some f ∧ (s.region u.region).launch = some id ∧ s.placement? id = some p ∧ (s.region u.region).stop =
      false ∧ s.fetched id p f = (ws, none)) ∧
    (∃ (u : _) (b : _) (s : State) (f : _) (id : _) (p : _) (ws : _) (sub : _), (s.region u.region).fetches.find? (fun f =>
      f.u = u && f.bank = b) = some f ∧ (s.region u.region).launch = some id ∧ s.placement? id = some p ∧ (s.region
      u.region).stop = false ∧ s.fetched id p f = (ws, some sub) ∧ (s.unit u).efault.getLsbD 63 = false) :=
  ⟨⟨unit0, 0, placed0 { tag := 1 } (worded 0xAD63AA5D), by decide +kernel⟩,
  ⟨unit0, 0, placed0 { fetches := [⟨unit0, 0, false⟩], cache := [((unit0, 0, 0), [(0, 0x3D221007)])] } place0, ⟨unit0, 0, false⟩, 1, place0,
    [(0, 0x3D221007)], by decide +kernel⟩,
  ⟨unit0, 0, { regions := [(0, { launch := some 1, fetches := [⟨unit0, 0, true⟩] })], hub := { placements := [(1, worded 0xFFFFFFFF)] } },
    ⟨unit0, 0, true⟩, 1, worded 0xFFFFFFFF, [(0, 0xFFFFFFFF)], 2, by decide +kernel⟩⟩

theorem witness_LimitsExpire :
    (∃ (r : _) (s : State), (s.region r).wdlim ≠ 0 ∧ (s.region r).wdlim.toNat ≤ (s.region r).quiet ∧ (s.region
      r).launch.isSome = true ∧ (s.core r).pend.watchdog = none) ∧
    (∃ (r : _) (s : State), ((s.region r).wdlim = 0 ∨ (s.region r).quiet < (s.region r).wdlim.toNat)) ∧
    (∃ (r : _) (port n : _) (s : State), (s.region r).heldSince.get? port = some n ∧ 0 < n ∧ (s.region r).pflimit.toNat ≤ n ∧
      port ∉ (s.region r).pfTold ∧ (s.region r).faultArea.isSome = true) ∧
    (∃ (r : _) (port : _) (s t : State), port ∈ (s.region r).pfTold ∧
      ∀ n, (t.region r).heldSince.get? port = some n → n < (t.region r).pflimit.toNat) :=
  ⟨⟨0, { regions := [(0, { launch := some 1, quiet := 0x1000000 })] }, by decide +kernel⟩,
  ⟨0, { regions := [(0, { launch := some 1, quiet := 0xFFFFFF })] }, by decide +kernel⟩,
  ⟨0, 3, 200001, { regions := [(0, { launch := some 1, heldSince := [(3, 200001)], faultArea := some 0x100000 })] }, by decide +kernel⟩,
  ⟨0, 3, { regions := [(0, { pfTold := [3] })] }, {}, by decide +kernel, fun n h => nomatch h⟩⟩

/-- A region in a handler, frozen by its core or not, and the image of a freeze of it. -/
def handling (a : Word) (f : Option FreezeSt := none) : Region :=
  { launch := some 1, frozen := f, core := { (core3 a 0 0) with handler := true } }
def frozen0 (kind : Nat) (read taken : Bool) : FreezeSt := ⟨0x100000, kind, read, taken, none⟩
def image0 (kind : Nat) : FImage := ⟨kind, 0, 1, {}, [], [], [], [], [], [], [], false⟩

theorem witness_FreezeInstructionsAct :
    (∃ (s : State),
      let r := s.site.region;
      (s.core r).handler = false) ∧
    (∃ (a : _) (s : State) (p : _),
      let r := s.site.region;
      (s.core r).handler = true ∧ s.CleanRegs r [a] ∧ (s.greg r a).toNat % 64 = 0 ∧ (s.region r).frozen = none ∧
      s.translateCore r (s.greg r a) .store = .ok (.plain p) ∧ isDram p = true) ∧
    (∃ (a : _) (s : State) (p : _) (f : _),
      let r := s.site.region;
      s.mem.wf = true ∧ (s.core r).handler = true ∧ s.CleanRegs r [a] ∧ (s.greg r a).toNat % 64 = 0 ∧ (s.region
      r).frozen.isSome = true ∧ s.translateCore r (s.greg r a) .load = .ok (.plain p) ∧ s.images.get? p = some f ∧ (s.mem.word
      p).getLsbD 63 = true ∧ f.kind = 0 ∧ f.region = r ∧ (s.region r).launch = some f.launch ∧ s.mayRestore f r = true ∧ (∀ e
      ∈ f.units, e.1.region = r) ∧ cellsWf 0 f.cells = true ∧ (∀ c ∈ f.cells, inStores r c.1 = true)) ∧
    (∃ (a : _) (s : State) (p : _) (f : _),
      let r := s.site.region;
      s.mem.wf = true ∧ (s.core r).handler = true ∧ s.CleanRegs r [a] ∧ (s.greg r a).toNat % 64 = 0 ∧ (s.region
      r).frozen.isSome = true ∧ s.translateCore r (s.greg r a) .load = .ok (.plain p) ∧ s.images.get? p = some f ∧ (s.mem.word
      p).getLsbD 63 = true ∧ f.kind = 1 ∧ f.restored = false ∧ f.region = r ∧ (s.region r).launch = some f.launch ∧
      s.mayRestore f r = true ∧ (∀ e ∈ f.units, e.1.region = r)) ∧
    (∃ (a : _) (s : State) (q : _),
      let r := s.site.region;
      let n := (s.greg r a).toNat;
      let u : UnitId := ⟨r, 4 * n, 19⟩;
      (s.core r).handler = true ∧ s.CleanRegs r [a] ∧ (s.region r).frozen = none ∧ n < 4 ∧ q ∈ (s.unit u).reqs ∧ q.stage =
      .withheld) :=
  ⟨⟨at0 (core3 0 0 0), by decide +kernel⟩,
  ⟨1, { regions := [(0, handling 0x10000)] }, 0x100000, by decide +kernel, clean_of (by decide +kernel), by decide +kernel⟩,
  ⟨1, { regions := [(0, handling 0x10000 (some (frozen0 0 true true)))], images := [(0x100000, image0 0)],
                  mem := Memory.empty.writeNat 0x100000 8 (2 ^ 63) }, 0x100000, image0 0, by decide +kernel, by decide +kernel, clean_of (by decide +kernel), by decide +kernel⟩,
  ⟨1, { regions := [(0, handling 0x10000 (some (frozen0 0 true true)))], images := [(0x100000, image0 1)],
                  mem := Memory.empty.writeNat 0x100000 8 (2 ^ 63 + 1) }, 0x100000, image0 1, by decide +kernel, by decide +kernel, clean_of (by decide +kernel), by decide +kernel⟩,
  ⟨1, { regions := [(0, handling 0)], units := [(port0, { reqs := [ask (.load 8 false) 0x40000 .withheld] })] },
    ask (.load 8 false) 0x40000 .withheld, by decide +kernel, clean_of (by decide +kernel), by decide +kernel⟩⟩

theorem witness_FreezesRun :
    (∃ (r : _) (s : State) (f : _), (s.region r).frozen = some f ∧ f.read = false ∧ f.taken = false ∧ s.settled r = true) ∧
    (∃ (r : _) (s : State) (f : _), (s.region r).frozen = some f ∧ f.read = false ∧ s.settled r = false) ∧
    (∃ (r : _) (s : State) (f : _) (m : _), s.mem.wf = true ∧ (s.region r).frozen = some f ∧ f.taken = true ∧ f.read = false ∧
      s.images.get? f.area = some m ∧ isDram f.area = true ∧ m.kind ≤ 2 ∧ s.hub.preempting = none) ∧
    (∃ (addr : _) (r : _) (s : State) (f : _) (x : _), s.images.get? addr = some f ∧ (s.mem.word addr).getLsbD 63 = true ∧ f.kind = 1 ∧ f.restored = false ∧
      f.region = r ∧ (s.region r).launch = some f.launch ∧ (s.region r).frozen = some x ∧ x.read = true ∧ (∀ e ∈ f.units,
      e.1.region = r)) ∧
    (∃ (addr : _) (s : State) (f : FImage), s.images.get? addr = some f ∧ f.restored = true) ∧
    (∃ (r : _) (s : State) (v : _) (w : _) (l : _), s.hub.preempting = some (v, w) ∧ (s.region r).launch = some v ∧ s.launch?
      v = some l ∧ l.rec_.flags.getLsbD 1 = false ∧ (s.region r).drain = none ∧ (s.region r).frozen = none ∧
      ∃ u i p, u.region = r ∧ (s.chans.get? (.inp u i)).isSome = true ∧ (s.chan (.inp u i)).src = some p ∧ p.1.region ≠ r) ∧
    (∃ (r : _) (s : State) (d : _), s.mem.wf = true ∧ (s.region r).drain = some d ∧ (s.region r).frozen = none ∧ s.drained r =
      true ∧ isDram d.area = true) ∧
    (∃ (r : _) (s : State) (d : _), (s.region r).drain = some d ∧ (s.region r).frozen = none ∧ (s.region r).wdlim ≠ 0 ∧
      d.since + (s.region r).wdlim.toNat ≤ s.cyc) ∧
    (∃ (r : _) (s : State) (d : _), (s.region r).drain = some d ∧ (s.region r).frozen = none ∧
      ∃ e ∈ s.units, e.1.region = r ∧ e.2.stopped = true ∧ d.since ≤ e.2.faultCyc) ∧
    (∃ (r : _) (s : State) (d : _), (s.region r).drain = some d ∧ s.cyc < d.since + (s.region r).wdlim.toNat ∧
      (∀ e ∈ s.units, e.1.region = r → e.2.stopped = true → e.2.faultCyc < d.since)) :=
  ⟨⟨0, { regions := [(0, handling 0 (some (frozen0 0 false false)))] }, frozen0 0 false false, by decide +kernel⟩,
  ⟨0, { regions := [(0, { (handling 0 (some (frozen0 0 false false))) with fetches := [⟨unit0, 0, true⟩] })] }, frozen0 0 false false, by decide +kernel⟩,
  ⟨0, { regions := [(0, handling 0 (some (frozen0 2 false true)))], images := [(0x100000, image0 2)] }, frozen0 2 false true, image0 2, by decide +kernel⟩,
  ⟨0x100000, 0, { regions := [(0, handling 0 (some (frozen0 1 true true)))], images := [(0x100000, image0 1)],
                  mem := Memory.empty.writeNat 0x100000 8 (2 ^ 63 + 1) }, image0 1, frozen0 1 true true, by decide +kernel⟩,
  ⟨0x100000, { images := [(0x100000, { (image0 1) with restored := true })] }, { (image0 1) with restored := true }, by decide +kernel⟩,
  ⟨0, { (placed0 {} place0 { preempting := some (1, 2) }) with chans := [(.inp unit0 3, { src := some (⟨1, 0, 0⟩, 2) })] }, 1, 2, launch0 .placed,
    by decide +kernel, by decide +kernel, by decide +kernel, by decide +kernel, by decide +kernel, by decide +kernel, unit0, 3, (⟨1, 0, 0⟩, 2),
    by decide +kernel⟩,
  ⟨0, { regions := [(0, { launch := some 1, drain := some ⟨0x100000, 0⟩ })] }, ⟨0x100000, 0⟩, by decide +kernel⟩,
  ⟨0, { cyc := 0x1000000, regions := [(0, { launch := some 1, drain := some ⟨0x100000, 0⟩ })] }, ⟨0x100000, 0⟩, by decide +kernel⟩,
  ⟨0, { cyc := 9, units := [(unit0, { efault := 2 ^ 63, faultCyc := 5 })], regions := [(0, { launch := some 1, drain := some ⟨0x100000, 5⟩ })] },
    ⟨0x100000, 5⟩, by decide +kernel, by decide +kernel, (unit0, { efault := 2 ^ 63, faultCyc := 5 }), by decide +kernel⟩,
  ⟨0, { cyc := 9, units := [(unit0, { efault := 2 ^ 63, faultCyc := 4 })], regions := [(0, { launch := some 1, drain := some ⟨0x100000, 5⟩ })] },
    ⟨0x100000, 5⟩, by decide +kernel⟩⟩

/-- A trace buffer of 64 bytes, with one record waiting: of two words, or of an instruction of the core. -/
def tracing (w : Nat) (open_ : Bool) (e : TraceEv := .words [1, 2]) : State :=
  { regions := [(0, { traceCfg := 1, tracePend := [e] })], enc := { power := .p0, openTrace := open_ },
    dev := { traceBase := 0x100000, traceSize := 64, traceWrite := w } }

theorem witness_TracesAreWritten :
    (∃ (s : State) (r : _) (w : _) (ws : _), s.traceRegion? = some r ∧ (s.region r).tracePend = w :: ws ∧ s.traceOpen = false) ∧
    (∃ (s : State) (r : _) (a : _) (b : _) (ws : _), s.mem.wf = true ∧ s.traceRegion? = some r ∧ (s.region r).tracePend = .words [a,
      b] :: ws ∧ s.traceOpen = true ∧ (s.region r).traceDrop = 0 ∧ s.dev.traceRoom 2 = true ∧ s.dev.traceWrite + 16 <
      s.dev.traceSize.toNat ∧ isDram (s.dev.traceBase.toNat + s.dev.traceWrite) = true ∧
      isDram (s.dev.traceBase.toNat + s.dev.traceWrite + 8) = true) ∧
    (∃ (s : State) (r : _) (w : _) (ws : _), s.traceRegion? = some r ∧ (s.region r).tracePend = w :: ws ∧ s.traceOpen = true ∧
      s.dev.traceRoom (Region.traceOut { s.region r with tracePend := ws } r s.cyc w).1.length = false) ∧
    (∃ (s : State) (r : _) (cyc : _) (pc : _) (port : _) (ws : _),
      let R := s.region r;
      let d : Int := (pc - R.tracePc).toInt / 4 - 1;
      s.mem.wf = true ∧ s.traceRegion? = some r ∧ R.tracePend = .core cyc pc port false :: ws ∧ s.traceOpen = true ∧ R.traceDrop = 0 ∧
      cyc < R.traceCyc + 2 ^ 16 ∧ -2 ^ 19 ≤ d ∧ d < 2 ^ 19 ∧ R.traceN < 4096 ∧ r < 80 ∧ port < 4 ∧
      s.dev.traceRoom 1 = true ∧ s.dev.traceWrite + 8 < s.dev.traceSize.toNat ∧ isDram (s.dev.traceBase.toNat + s.dev.traceWrite) = true) ∧
    (∃ (s : State) (r : _) (cyc : _) (pc : _) (port : _) (asked : _) (ws : _),
      let a := s.dev.traceBase.toNat + s.dev.traceWrite;
      s.mem.wf = true ∧ s.traceRegion? = some r ∧ (s.region r).tracePend = .core cyc pc port asked :: ws ∧ s.traceOpen = true ∧
      (s.region r).traceDrop = 0 ∧ (asked = true ∨ 4096 ≤ (s.region r).traceN) ∧ r < 80 ∧ port < 4 ∧
      s.dev.traceRoom 3 = true ∧ s.dev.traceWrite + 24 < s.dev.traceSize.toNat ∧ isDram a = true ∧ isDram (a + 8) = true ∧
      isDram (a + 16) = true) ∧
    (∃ (s : State), s.mem.wf = true ∧ s.anyTrace = true ∧ s.dev.traceRoom 2 = true ∧ s.dev.traceWrite + 16 <
      s.dev.traceSize.toNat ∧ isDram (s.dev.traceBase.toNat + s.dev.traceWrite) = true ∧
      isDram (s.dev.traceBase.toNat + s.dev.traceWrite + 8) = true) ∧
    (∃ (s : State), s.anyTrace = false) :=
  ⟨⟨tracing 0 false, 0, .words [1, 2], [], by decide +kernel⟩,
  ⟨tracing 40 true, 0, 1, 2, [], by decide +kernel⟩,
  ⟨tracing 48 true, 0, .words [1, 2], [], by decide +kernel⟩,
  ⟨tracing 48 true (.core 0xFFFF 0x1FFFFC 3 false), 0, 0xFFFF, 0x1FFFFC, 3, [], by decide +kernel⟩,
  ⟨tracing 32 true (.core 7 0x40 3 true), 0, 7, 0x40, 3, true, [], by decide +kernel⟩,
  ⟨tracing 40 true, by decide +kernel⟩,
  ⟨{}, by decide +kernel⟩⟩

/-- MOV p0, 1 stands in slot 0 of element 0, its context running, the trace path open and every firing sampled. -/
def walking : State :=
  { hold { banks := [(0, ⟨0, [(0, (encode (.movi go (.x 1) 5)).getD 0)]⟩)] } [] with
    enc := { power := .p0, openTrace := true } }

/-- R388, R390: the producer of a token stands at depth 1, and a primed token ends the walk with code 1 (words laid out by hand). -/
theorem test_walk_follows_the_token :
    State.walkFrom { notes := [(unit0, { held := [⟨7, 2, 3, 0, .primed, false, []⟩] })] } 0 0 64 0 unit0
      ⟨9, 2, 5, 0, .firing unit0 7, false, []⟩ = [[0x2000000000040000, 5], [0x2000008200040000, 3]] := by decide +kernel

theorem witness_WalksFollowTheLastMet :
    (∃ (s : State) (u : _) (slot : _) (i : _), s.wordAt u slot = some i ∧ (s.fires? u (slot, i)).isSome = true) ∧
    (∃ (u : UnitId) (n : FNote) (d : Nat), u.region < 80 ∧ d < 64 ∧ n.node < 2 ^ 16 ∧ n.last < 6 ∧ n.last = 5) ∧
    (∃ (u : UnitId) (n : FNote) (d : Nat), u.region < 80 ∧ d < 64 ∧ n.node < 2 ^ 16 ∧ n.last < 4 ∧ n.by_ = .memory) ∧
    (∃ (s : State) (home : _) (d : _) (n : FNote) (v : UnitId) (t : _), n.last < 4 ∧ n.by_ = .firing v t ∧ d < 63 ∧
      (s.region v.region).launch = (s.region home).launch ∧ ∀ m ∈ (s.notesOf v).held, m.tick ≠ t) ∧
    (∃ (s : State) (home : _) (d : _) (n : FNote) (v : UnitId) (t : _) (m : _), n.last < 4 ∧ n.by_ = .firing v t ∧ d < 63 ∧
      (s.region v.region).launch = (s.region home).launch ∧ (s.notesOf v).held.find? (fun m => m.tick = t) = some m) :=
  ⟨⟨walking, unit0, 0, .movi go (.x 1) 5, by decide +kernel⟩,
  ⟨unit0, ⟨1, 2, 3, 5, .lost, false, []⟩, 0, by decide⟩,
  ⟨unit0, ⟨1, 2, 3, 0, .memory, false, []⟩, 63, by decide⟩,
  ⟨{}, 0, 62, ⟨1, 2, 3, 0, .firing unit0 7, false, []⟩, unit0, 7, by decide +kernel⟩,
  ⟨{ notes := [(unit0, { held := [⟨7, 2, 3, 0, .primed, false, []⟩] })] }, 0, 62, ⟨9, 2, 3, 0, .firing unit0 7, false, []⟩, unit0, 7,
    ⟨7, 2, 3, 0, .primed, false, []⟩, by decide +kernel⟩⟩

/-- A module in READY and P0 with a keyed function; and one with some device registers or queues set. -/
def keyed : Enclave := { power := .p0, keys := [(0, 1)] }
def ready (d : Device := {}) (e : Enclave := keyed) : State := { dev := { d with phase := 4 }, enc := e }

theorem witness_HostLaunchesAct :
    (∃ (prio : _) (record : _) (idAddr : _) (s : State), s.hostOpen 0 = true ∧ prio < 4 ∧ record % 64 = 0 ∧ idAddr % 8 = 0 ∧
      isDram record = true ∧ isDram (record + 255) = true ∧ (s.hub.queues.get prio []).length < 64) ∧
    (∃ (prio : _) (ok : _) (record : _) (idAddr : _) (s : State), s.hostOpen 0 = true ∧ prio < 4 ∧ (ok = false ∨ record % 64 ≠ 0
      ∨ idAddr % 8 ≠ 0 ∨ isDram record = false ∨ isDram (record + 255) = false)) ∧
    (∃ (prio : _) (record : _) (idAddr : _) (s : State), s.hostOpen 0 = true ∧ prio < 4 ∧ record % 64 = 0 ∧ idAddr % 8 = 0 ∧
      isDram record = true ∧ isDram (record + 255) = true ∧ 64 ≤ (s.hub.queues.get prio []).length) ∧
    (∃ (id : _) (s : State) (l : _), s.hostOpen 0 = true ∧ s.launch? id = some l ∧ l.st = .queued) ∧
    (∃ (ok : _) (id : _) (s : State), s.hostOpen 0 = true ∧ (ok = false ∨ ∀ l, s.launch? id = some l → l.st ≠ .queued)) ∧
    (∃ (s : State), s.hostOpen 0 = true ∧ s.hub.parked.length + s.hub.outbox.length < 256) :=
  ⟨⟨3, 0x40, 0x18, ready, by decide +kernel⟩,
  ⟨3, true, 0x48, 0x18, ready, by decide +kernel⟩,
  ⟨3, 0x40, 0x18, { ready with hub := { queues := [(3, List.replicate 64 9)] } }, by decide +kernel⟩,
  ⟨1, { ready with hub := (queued0 (launch0 .queued)).hub }, launch0 .queued, by decide +kernel⟩,
  ⟨true, 1, ready, by decide +kernel, .inr fun l h => by
      have e : (ready {}).launch? 1 = none := by decide +kernel
      exact nomatch e.symm.trans h⟩,
  ⟨ready, by decide +kernel⟩⟩

theorem witness_HostMemoryAccesses :
    (∃ (off size : Nat) (data : List Byte) (s : State),
      let a := s.dev.winbase.toNat + off;
      s.mem.wf = true ∧ s.hostOpen 0 = true ∧ 0 < size ∧ data.length = size ∧ off + size ≤ 2 ^ s.dev.barBits ∧ isDram a = true ∧
      isDram (a + size - 1) = true ∧ s.routeDown 8 a = false) ∧
    (∃ (off size : Nat) (data : List Byte) (s : State),
      let a := s.dev.winbase.toNat + off;
      s.hostOpen 0 = true ∧ 0 < size ∧ data.length = size ∧ off + size ≤ 2 ^ s.dev.barBits ∧ isDram a = true ∧ isDram (a + size
      - 1) = true ∧ (s.backing? a).isSome = true) ∧
    (∃ (off size : Nat) (s : State),
      let a := s.dev.winbase.toNat + off;
      s.hostOpen 0 = true ∧ 0 < size ∧ off + size ≤ 2 ^ s.dev.barBits ∧ isDram a = true ∧ isDram (a + size - 1) = true ∧
      s.routeDown 8 a = false) :=
  ⟨⟨2 ^ 28 - 1, 1, [7], ready, by decide +kernel⟩,
  ⟨0x10000, 1, [7], { ready with pages := [0x10000] }, by decide +kernel⟩,
  ⟨2 ^ 28 - 8, 8, ready, by decide +kernel⟩⟩

theorem witness_HostRegistersWrite :
    (∃ (r : _) (n : _) (s : State),
      let u : UnitId := ⟨r, 4 * n, 19⟩;
      s.hostOpen 0 = true ∧ r < 80 ∧ n < 4 ∧ (s.region r).frozen = none ∧ (s.unit u).reqs.any (fun q => q.stage = .withheld) = true) ∧
    (∃ (r : _) (n : Nat) (s : State), n < 4 ∧ (s.region r).frozen.isSome = true) ∧
    (∃ (r : _) (n : _) (s : State) (c : _), s.mem.wf = true ∧ s.hostOpen 0 = true ∧ r < 80 ∧ 4 ≤ n ∧ n < 20 ∧ (s.region r).cmds.find? (fun c =>
      c.port = n - 4 && c.held) = some c) ∧
    (∃ (r : _) (s : State), s.hostOpen 0 = true ∧ r < 80) ∧
    (∃ (r : _) (s : State), s.hostOpen 0 = true ∧ r < 80) ∧
    (∃ (s : State), s.hostOpen 0 = true ∧ s.dev.barBits ≤ 39) ∧
    (∃ (k : Nat) (s : State), s.hostOpen 0 = true ∧ 28 ≤ k ∧ k ≤ 39) ∧
    (∃ (k : Nat) (s : State) (e : _) (es : _), s.hostOpen 0 = true ∧ s.hub.events = e :: es ∧ k < 8) ∧
    (∃ (s : State), s.hostOpen 0 = true) ∧
    (∃ (off : _) (s : State), s.hostOpen 0 = true ∧ off ∈ [0x20080, 0x20088, 0x30000, 0x30008, 0x30010, 0x30018, 0x30020,
      0x30028, 0x30030]) ∧
    (∃ off, off ∈ [0x00, 0x08, 0x18, 0x20, 0x28, 0x30, 0x38, 0x48, 0x30038]) :=
  ⟨⟨79, 3, { ready with units := [(⟨79, 12, 19⟩, { reqs := [ask (.load 8 false) 0x40000 .withheld] })] }, by decide +kernel⟩,
  ⟨0, 3, { regions := [(0, handling 0 (some (frozen0 0 true true)))] }, by decide +kernel⟩,
  ⟨79, 4, { ready with regions := [(79, { cmds := [{ (moved true) with held := true }] })] }, { (moved true) with held := true }, by decide +kernel⟩,
  ⟨79, ready, by decide +kernel⟩,
  ⟨79, ready, by decide +kernel⟩,
  ⟨ready { barBits := 39 }, by decide +kernel⟩,
  ⟨39, ready, by decide +kernel⟩,
  ⟨7, { ready with hub := { events := [[5, 1]] } }, [5, 1], [], by decide +kernel⟩,
  ⟨ready, by decide +kernel⟩,
  ⟨0x30030, ready, by decide +kernel⟩,
  ⟨0x30038, by decide +kernel⟩⟩

theorem witness_HostWaitsForBringup :
    ∃ (s t : State) (fn off : Nat), s.hostOpen fn = false ∧ off / 8 * 8 ∉ [0x00, 0x08, 0x18, 0x20, 0x28, 0x30, 0x38] ∧
      s.hostSleeps = false ∧ t.hostOpen fn = false ∧ t.hostSleeps = true :=
  ⟨ready, {}, 1, 0x40, by decide +kernel⟩

/-- One tile of 32 by 32 elements from 0x4000 to 0x8000, and a module that holds it in its queue. -/
def ingest0 (src dst : BitVec 4) : IngestDesc := ⟨0x4000, 0x8000, 32, 32, src, dst, 32, false, 0x40⟩
def ingesting (d : IngestDesc) : State := ready { io := { ingest := [d] } }

theorem witness_IngestActs :
    (∃ (s : State), s.hostOpen 0 = true ∧ s.dev.io.ingest.length < 32) ∧
    (∃ (s : State), s.hostOpen 0 = true ∧ 32 ≤ s.dev.io.ingest.length) ∧
    (∃ (d : _) (ds : _) (s : State), s.dev.io.ingest = d :: ds ∧ (d.srcFmt = 0 ∨ d.srcFmt = 15 ∨ d.dstFmt = 0 ∨ d.dstFmt =
      15)) ∧
    (∃ (d : _) (ds : _) (s : State), s.mem.wf = true ∧ s.dev.io.ingest = d :: ds ∧ ingestRefused d = none ∧ (d.dstFmt = 3 ∨
      d.dstFmt = 4) ∧ 0 < d.rows ∧ 0 < d.k ∧ isDram d.dst = true ∧ isDram (d.dst + 2 * d.rows * d.k - 1) = true ∧ d.elide =
      false) ∧
    (∃ (d : _) (ds : _) (s : State), s.dev.io.ingest = d :: ds ∧ ingestRefused d = none ∧ (d.dstFmt ≠ 3 ∧ d.dstFmt ≠ 4) ∧
      (let bs := ingestBytes d ⟨s.freeCtr, d.src, d.elide, (d.rows * d.k * fmtWidth d.srcFmt / 8 + 63) / 64⟩;
      bs ≠ [] ∧ isDram d.dst = true ∧ isDram (d.dst + bs.length - 1) = true)) :=
  ⟨⟨ready, by decide +kernel⟩,
  ⟨ready { io := { ingest := List.replicate 32 (ingest0 2 3) } }, by decide +kernel⟩,
  ⟨ingest0 2 15, [], ingesting (ingest0 2 15), by decide +kernel⟩,
  ⟨ingest0 2 3, [], ingesting (ingest0 2 3), by decide +kernel⟩,
  ⟨ingest0 2 5, [], ingesting (ingest0 2 5), by decide +kernel⟩⟩

/-- A checkpoint of one line, and a module that holds it, with the hub's floor at 5. -/
def copied (a cut : Nat) : CheckpointDesc := ⟨[(a, 64)], true, 0x9000, cut, .pkg⟩
def copying (d : CheckpointDesc) (m : Memory := .empty) (pages : List Nat := []) : State :=
  { (ready { io := { checkpoint := [d] } }) with mem := m, pages := pages, dies := [(8, { floor := 5 })] }

theorem witness_CheckpointActs :
    (∃ (d : CheckpointDesc) (s : State), s.hostOpen 0 = true ∧ d.ranges.length ≤ 16) ∧
    (∃ (d : _) (ds : _) (s : State), s.dev.io.checkpoint = d :: ds ∧ s.floorAt (d.scope = .sys) 8 ≤ d.cut) ∧
    (∃ (d : _) (ds : _) (s : State) (a : _), s.dev.io.checkpoint = d :: ds ∧ d.cut < s.floorAt (d.scope = .sys) 8 ∧
      (linesOf d)[s.dev.io.copied]? = some a ∧ d.toHost = true ∧ (linesOf d).length = s.dev.io.copied + 1) ∧
    (∃ (d : _) (ds : _) (s : State) (a : _), s.dev.io.checkpoint = d :: ds ∧ d.cut < s.floorAt (d.scope = .sys) 8 ∧
      (linesOf d)[s.dev.io.copied]? = some a ∧ d.toHost = false ∧ (linesOf d).length ≠ s.dev.io.copied + 1) ∧
    (∃ (d : _) (ds : _) (s : State) (a : _) (base : _) (line : _) (k : _), s.dev.io.checkpoint = d :: ds ∧
      d.cut < s.floorAt (d.scope = .sys) 8 ∧ (linesOf d)[s.dev.io.copied]? = some a ∧ s.stampedAt a = some base ∧
      a = base + 320 * line ∧ line < 1024 ∧ ldasSlot s.mem base line d.cut = some k) :=
  ⟨⟨{ (copied 0x4000 4) with ranges := List.replicate 16 (0, 64) }, ready, by decide +kernel⟩,
  ⟨copied 0x4000 5, [], copying (copied 0x4000 5), by decide +kernel⟩,
  ⟨copied 0x4000 4, [], copying (copied 0x4000 4), 0x4000, by decide +kernel⟩,
  ⟨{ (copied 0x4000 4) with ranges := [(0x4000, 128)], toHost := false }, [],
    copying { (copied 0x4000 4) with ranges := [(0x4000, 128)], toHost := false }, 0x4000, by decide +kernel⟩,
  ⟨copied 0x10140 4, [], copying (copied 0x10140 4) stampedMem [0x10000], 0x10140, 0x10000, 1, 0, by decide +kernel⟩⟩

theorem witness_BringupRuns :
    ∃ (s t u v w x : State), s.dev.off = false ∧ t.dev.off = true ∧ u.dev.off = false ∧ u.dev.phase = 1 ∧ v.dev.off = false ∧
      v.dev.phase = 2 ∧ w.dev.off = false ∧ w.dev.phase = 3 ∧ x.dev.off = false ∧ (x.dev.phase = 4 ∨ x.dev.phase = 15) ∧
      s.dev.phase = 0 :=
  ⟨{}, { dev := { off := true } }, { dev := { phase := 1 } }, { dev := { phase := 2 } }, { dev := { phase := 3 } }, { dev := { phase := 15 } }, by decide +kernel⟩

theorem witness_PowerStatesChange :
    (∃ (rs : List Nat) (s : State), s.dev.phase = 4 ∧ s.dev.off = false ∧ (s.enc.power = .p0 ∨ s.enc.power = .p1) ∧ rs ≠ [] ∧
      (∀ r ∈ rs, r < 80 ∧ (s.region r).launch = none)) ∧
    (∃ (rs : List Nat) (s : State) (r : Nat), r ∈ rs ∧ (s.region r).launch.isSome = true) ∧
    (∃ (s : State), s.dev.phase = 4 ∧ s.dev.off = false ∧ (s.enc.power = .p0 ∨ s.enc.power = .p1) ∧ s.noLaunch = true ∧
      s.regions.all (fun e => e.2.handles.all (fun h => h.2.st ≠ .filling)) = true) ∧
    (∃ (s : State), s.noLaunch = false) ∧
    (∃ (s : State) (r o c : Nat), s.dev.phase = 4 ∧ s.dev.off = false ∧ s.enc.power = .p1 ∧ r < 80 ∧ (s.region r).gated = true
      ∧ o < 2 ^ 20 ∧ c < 16) ∧
    (∃ (r o : Nat), r < 80 ∧ o < 2 ^ 23) ∧
    (∃ (s : State), s.dev.phase = 4 ∧ s.dev.off = false ∧ s.enc.power = .p2) :=
  ⟨⟨[79], ready, by decide +kernel⟩,
  ⟨[0], placed0 {} place0, 0, by decide +kernel⟩,
  ⟨ready, by decide +kernel⟩,
  ⟨placed0 {} place0, by decide +kernel⟩,
  ⟨{ (ready {} { keyed with power := .p1 }) with regions := [(79, { gated := true })] }, 79, 0xFFFFF, 15, by decide +kernel⟩,
  ⟨79, 2 ^ 23 - 1, by decide +kernel⟩,
  ⟨ready {} { power := .p2 }, by decide +kernel⟩⟩

theorem witness_DebugAndLifecycleMove :
    (∃ (s : State), s.dev.phase = 4 ∧ s.dev.off = false) ∧
    (∃ (s : State), s.dev.off = false ∧ s.enc.life ≠ .manufacture) ∧
    (∃ (s : State), s.dev.phase = 4 ∧ s.dev.off = false ∧ s.enc.life = .manufacture) ∧
    (∃ (s : State), s.enc.life ≠ .manufacture) ∧
    (∃ (d : BitVec 256) (s : State), s.dev.phase = 4 ∧ s.dev.off = false ∧ s.enc.life = .owned ∧ s.enc.ownerDigest = some d) ∧
    (∃ (s : State), s.enc.life ≠ .owned) :=
  ⟨⟨ready, by decide +kernel⟩,
  ⟨ready {} { life := .owned }, by decide +kernel⟩,
  ⟨ready, by decide +kernel⟩,
  ⟨ready {} { life := .returned }, by decide +kernel⟩,
  ⟨5, ready {} { life := .owned, ownerDigest := some 5 }, by decide +kernel⟩,
  ⟨ready, by decide +kernel⟩⟩

theorem witness_EnclaveAnswers :
    (∃ (s : State), s.enclaveAnswers = true) ∧
    (∃ (fn : _) (s : State), s.enclaveAnswers = true ∧ fn < 2) ∧
    (∃ (fn : Nat) (s : State), s.enclaveAnswers = true ∧ s.enc.power ≠ .p2 ∧ fn < 2 ∧ s.enc.spdm.get fn false = true) ∧
    (∃ (fn : Nat) (s : State), s.enc.spdm.get fn false = false) :=
  ⟨⟨ready {} { power := .p2 }, by decide +kernel⟩,
  ⟨1, ready, by decide +kernel⟩,
  ⟨1, ready {} { power := .p1, spdm := [(1, true)] }, by decide +kernel⟩,
  ⟨2, ready, by decide +kernel⟩⟩

/-- A module with one inbound range of 64 bytes. -/
def inbound0 (b : Word) : State := ready { inbound := [(0, (b, 64, true))] }

theorem witness_RemoteWritesLand :
    (∃ (addr : Nat) (bs : List Byte) (s : State), s.mem.wf = true ∧ s.dev.phase = 4 ∧ s.dev.off = false ∧ s.enc.power ≠ .p2 ∧
      bs ≠ [] ∧ s.dev.takes addr bs.length = true ∧ isDram addr = true ∧ isDram (addr + bs.length - 1) = true) ∧
    (∃ (addr : Nat) (bs : List Byte) (s : State), s.dev.takes addr bs.length = false) ∧
    (∃ (r c o : Nat) (fmt : BitVec 4) (s : State),
      let n := fmtWidth fmt / 8;
      let loc := r * 2 ^ 24 + c * 2 ^ 20 + o;
      s.mem.wf = true ∧ s.dev.phase = 4 ∧ s.dev.off = false ∧ s.enc.power ≠ .p2 ∧ r < 80 ∧ c < 16 ∧ fmt.toNat ∈ [1, 2, 3, 4,
      8, 9, 10, 11] ∧ o + n ≤ s.scap r ∧ o % n ≠ 0 ∧ s.dev.takes loc n = true) :=
  ⟨⟨0x1038, List.replicate 8 7, inbound0 0x1000, by decide +kernel⟩,
  ⟨0x1039, List.replicate 8 7, inbound0 0x1000, by decide +kernel⟩,
  ⟨79, 15, 0x37, 4, inbound0 0x4FF00000, by decide +kernel⟩⟩

/-- The turn of region 0's core, with a word at its PC. -/
def coreTurn (k : Core) (w : Nat := 0xC2800000) : State :=
  { (at0 { k with codeSize := 64, codeP := 0x1000 }) with mem := Memory.empty.writeNat 0x1000 4 w, agenda := [.core 0] }
/-- A word of context 2 that adds, and one of context 1. -/
def add2 : Word := 0xBC08C228

theorem witness_AStepRunsTheInstructionInHand :
    (∃ (s : State), s.agenda = []) ∧
    (∃ (s : State) (r : _) (ts : _),
      let s0 : State := { s.settleInput with agenda := ts };
      s.agenda = .core r :: ts ∧ r < 80 ∧ (s0.region r).launch.isSome = true ∧ (s0.region r).coreFrozen = false ∧ (s0.core
      r).run ≠ .doubleFault ∧ (s0.core r).wait = none ∧ (s0.core r).stall = none ∧ ((s0.core r).handler = true ∨ (s0.core
      r).pend.take? = none) ∧ (s0.core r).inCode (s0.core r).pc = true ∧ (decodeC (s0.coreWord r)).toOption.isSome = true) ∧
    (∃ (s : State) (r : _) (ts : _),
      let s0 : State := { s.settleInput with agenda := ts };
      s.agenda = .core r :: ts ∧ r < 80 ∧ (s0.region r).launch.isSome = true ∧ (s0.region r).coreFrozen = false ∧ (s0.core
      r).run ≠ .doubleFault ∧ (s0.core r).wait = none ∧ (s0.core r).stall = none ∧ ((s0.core r).handler = true ∨ (s0.core
      r).pend.take? = none) ∧ (s0.core r).inCode (s0.core r).pc = true ∧ (decodeC (s0.coreWord r)).toOption = none) ∧
    (∃ (s : State) (r : _) (ts : _),
      let s0 : State := { s.settleInput with agenda := ts };
      s.agenda = .core r :: ts ∧ r < 80 ∧ (s0.region r).launch.isSome = true ∧ (s0.region r).coreFrozen = false ∧ (s0.core
      r).run ≠ .doubleFault ∧ (s0.core r).stall = none ∧ (s0.core r).handler = false ∧ (s0.core r).pend.take?.isSome = true) ∧
    (∃ (s : State) (r : _) (ts : _),
      let s0 : State := { s.settleInput with agenda := ts };
      s.agenda = .core r :: ts ∧ r < 80 ∧ (s0.region r).launch.isSome = true ∧ (s0.region r).coreFrozen = false ∧ (s0.core
      r).run ≠ .doubleFault ∧ (s0.core r).wait = none ∧ (s0.core r).stall = none ∧ ((s0.core r).handler = true ∨ (s0.core
      r).pend.take? = none) ∧ (s0.core r).inCode (s0.core r).pc = false) ∧
    (∃ (s : State) (r : _) (ts : _),
      let s0 : State := { s.settleInput with agenda := ts };
      s.agenda = .core r :: ts ∧ r < 80 ∧ (s0.region r).launch.isSome = true ∧ (s0.core r).run ≠ .doubleFault ∧ (s0.core r).wait = none ∧
      (s0.core r).stall = some .retry ∧ (s0.region r).coreFrozen = false ∧ (s0.core r).inCode (s0.core r).pc = true ∧
      (decodeC (s0.coreWord r)).toOption.isSome = true) ∧
    (∃ (s : State) (r : _) (ts : _) (x : _) (y : _),
      let s0 : State := { s.settleInput with agenda := ts };
      s.agenda = .core r :: ts ∧ r < 80 ∧ (s0.region r).launch.isSome = true ∧ (s0.core r).run ≠ .doubleFault ∧ (s0.core r).wait = none ∧
      (s0.core r).stall = some (.sbind x y) ∧ (s0.region r).coreFrozen = true ∧ (s0.core r).inCode (s0.core r).pc = true ∧
      (decodeC (s0.coreWord r)).toOption.isSome = true) ∧
    (∃ (s : State) (r : _) (ts : _),
      let s0 : State := { s.settleInput with agenda := ts };
      s.agenda = .core r :: ts ∧ r < 80 ∧ (s0.region r).launch.isSome = true ∧ (s0.core r).run ≠ .doubleFault ∧ (s0.core r).wait = none ∧
      (s0.core r).stall = some .record ∧ (s0.region r).coreFrozen = true ∧ (s0.core r).inCode (s0.core r).pc = true ∧
      (decodeC (s0.coreWord r)).toOption.isSome = true) ∧
    (∃ (s : State) (u : _) (ts : _) (n : _) (i : _),
      let s0 : State := { s.settleInput with agenda := ts };
      s.agenda = .unit u :: ts ∧ unitExists u = true ∧ s0.alive u = true ∧ (s0.unit u).issued = false ∧ s0.pickWord u = some
      (n, i)) ∧
    (∃ (s : State) (o : _) (i : _) (ts : _), s.agenda = .own o :: ts ∧ o.Means i) ∧
    (∃ (s : State) (i : _) (ts : _), s.agenda = .event i :: ts ∧ i.class? = none ∧ s.settleInput.behind i = false) ∧
    (∃ (s : State) (i : _) (ts : _), s.agenda = .event i :: ts ∧ i.class? = none ∧
      State.behind { s.settleInput with agenda := ts } i = true) ∧
    (∃ (s : State) (i : _), s.inHand = some i ∧ s.again = true) :=
  ⟨⟨{}, by decide +kernel⟩,
  ⟨coreTurn {}, 0, [], by decide +kernel⟩,
  ⟨coreTurn {} 0xF4000000, 0, [], by decide +kernel⟩,
  ⟨coreTurn { pend := { watchdog := some 0 } }, 0, [], by decide +kernel⟩,
  ⟨coreTurn { pc := 64 }, 0, [], by decide +kernel⟩,
  ⟨coreTurn { stall := some .retry }, 0, [], by decide +kernel⟩,
  ⟨{ (coreTurn {}) with regions := [(0, { launch := some 1, frozen := some (frozen0 1 false false),
                                          core := { stall := some (.sbind (moved false).rec_ none), codeSize := 64, codeP := 0x1000 } })] },
    0, [], (moved false).rec_, none, by decide +kernel⟩,
  ⟨{ (coreTurn {}) with regions := [(0, { launch := some 1, frozen := some (frozen0 1 false false),
                                          core := { stall := some .record, codeSize := 64, codeP := 0x1000 } })] },
    0, [], by decide +kernel⟩,
  ⟨{ regions := [(0, { launch := some 1 })], agenda := [.unit unit0], units := [(unit0, { banks := [(0, ⟨0, [(3, add2)]⟩)] })] },
    unit0, [], 3, .add ⟨2, 7, true⟩ (.x 3) (.x 1) (.x 2) (.to 0), by decide +kernel⟩,
  ⟨{ agenda := [.own (.phaseEnd 0)] }, .phaseEnd 0, .phaseEnd 0, [], rfl, rfl⟩,
  ⟨{ agenda := [.event (.registerWrite ⟨0, 0x40, 8, false⟩ 0)] }, .registerWrite ⟨0, 0x40, 8, false⟩ 0, [], by decide +kernel⟩,
  ⟨{ agenda := [.event (.registerWrite ⟨0, 0x40, 8, false⟩ 0)], inHand := some (.hostLaunchWrite ⟨0, 3⟩ true 0x40 0), again := true },
    .registerWrite ⟨0, 0x40, 8, false⟩ 0, [], by decide +kernel⟩,
  ⟨{ inHand := some (.hostLaunchWrite ⟨0, 3⟩ true 0x40 0), again := true }, .hostLaunchWrite ⟨0, 3⟩ true 0x40 0, by decide +kernel⟩⟩

theorem witness_TheLowestReadyWordIssues :
    ∃ (s : State) (u : UnitId) (n m : Nat) (i j : Instr), s.pickWord u = some (n, i) ∧ (m, j) ∈ s.wordsOf u ∧ ctxOf j = ctxOf
      i ∧ s.moves u (m, j) = true ∧ n ≠ m :=
  ⟨{ regions := [(0, { launch := some 1 })], units := [(unit0, { banks := [(0, ⟨0, [(3, add2), (5, add2)]⟩)] })] }, unit0, 3, 5,
    .add ⟨2, 7, true⟩ (.x 3) (.x 1) (.x 2) (.to 0), .add ⟨2, 7, true⟩ (.x 3) (.x 1) (.x 2) (.to 0), by decide +kernel⟩

theorem witness_DecodingInvertsEncoding :
    ∃ (i j k l : Instr) (w x y z : BitVec 64), i.wf = true ∧ encode i = some w ∧ i.class? = some .e ∧ j.wf = true ∧ encode j =
      some x ∧ j.class? = some .v ∧ k.wf = true ∧ encode k = some y ∧ k.class? = some .m ∧ l.wf = true ∧ encode l = some z ∧
      l.class? = some .c :=
  ⟨.shli ⟨0, 7, true⟩ (.out 0) (.take 0) 7, .vlds ⟨3, 2, false⟩ 5 2, .tdrain 0 false 4 3 0 0, .clkrd 10, 0x3D221007, 0xD2250002,
    0x1400000000043000, 0xC2800000, by decide +kernel⟩

theorem witness_DecodedWordsAreWellFormed :
    ∃ (w x : BitVec 32) (y : Word) (z : BitVec 32) (i j k l : Instr), decodeE w = .ok i ∧ decodeV x = .ok j ∧ decodeM y = .ok
      (some k) ∧ decodeC z = .ok l :=
  ⟨0x3D221007, 0xD2250002, 0x1400000000043000, 0xC2800000, .shli ⟨0, 7, true⟩ (.out 0) (.take 0) 7, .vlds ⟨3, 2, false⟩ 5 2,
    .tdrain 0 false 4 3 0 0, .clkrd 10, by decide +kernel⟩

theorem witness_KindsAcceptTheirWords :
    (∃ w, decodeE w = .error .opcode) ∧
    (∃ (k : UnitKind) (w : _), decodeE w ≠ .error .opcode ∧ k.acceptsOp (opE w) = false) ∧
    (∃ (k : UnitKind) (w : _) (i : _), decodeFor k w = .ok i) :=
  ⟨⟨0xBCB8C220, by decide +kernel⟩,
  ⟨.mpe, 0x3D801090, by decide +kernel⟩,
  ⟨.ge, 0x3D221007, .shli ⟨0, 7, true⟩ (.out 0) (.take 0) 7, by decide +kernel⟩⟩

theorem witness_EveryStepKeepsTheInvariant :
    ∃ (s t : State), s.Inv ∧ step s = .next t :=
  ⟨{ agenda := [.own (.settle 0)] }, _, ⟨by decide +kernel, by simp [State.agendaOk, Turn.names]⟩, rfl⟩

theorem witness_RunsNeverStop :
    ∃ (s : State), s.agendaOk :=
  ⟨{ agenda := [.own (.settle 0)] }, by simp [State.agendaOk, Turn.names]⟩

theorem witness_RetiringWritesOneRegister :
    ∃ (d : BitVec 5), d ≠ 0 :=
  ⟨31, by decide +kernel⟩

/-! ## One step of single instructions; every expected result stands in a worked example of the spec -/

/-- What a step of an instruction leaves. -/
def after (i : Instr) (s : State) (f : State → Bool) : Bool :=
  match exec i s with
  | .next t => f t
  | _ => false
/-- The word that element 0 put in flight writes a value to a register, with these flags and predicate, a number of cycles later. -/
def lands (lat : Nat) (r : BitVec 3) (v : Word) (flags : BitVec 6) (p : Option (BitVec 3 × Bool)) (t : State) : Bool :=
  match (t.unit unit0).flights with
  | [f] => f.due = t.cyc + lat && f.land.reg = some (r, v, false) && f.land.flags = flags && f.land.pred = p
  | _ => false
def SAT : BitVec 6 := 1
def NX : BitVec 6 := 2

/-- spec/11, one context, six words: slot 1, and slots 5, 2, 0 and 3. -/
theorem test_adds_clamps : after (.adds go (.x 1) (.x 1) (.x 2) (.to 1)) (hold (regs 0x7FFFFFFFFFFFFFF0 0x10) [])
    (lands 1 1 0x7FFFFFFFFFFFFFFF SAT (some (1, true))) = true := by decide +kernel
theorem test_subs_clamps : after (.subs go (.x 5) (.x 1) (.x 2) (.to 4)) (hold (regs (-2) 0x7FFFFFFFFFFFFFFF) [])
    (lands 1 5 0x8000000000000000 SAT (some (4, true))) = true := by decide +kernel
theorem test_mulhs : after (.mulhs go (.x 2) (.x 1) (.x 2) (.to 5)) (hold (regs (-16) 16) [])
    (lands 1 2 0xFFFFFFFFFFFFFFFF 0 (some (5, true))) = true := by decide +kernel
theorem test_frsqe : after (.frsqeS go (.x 0) (.x 1) (.to 0)) (hold (regs 0x40000000 0) [])
    (lands 4 0 0x3F350000 NX (some (0, true))) = true := by decide +kernel
theorem test_fmul : after (.fmulS go (.x 4) (.x 1) (.x 2) .none) (hold (regs 0x40000000 0x3F350000) [])
    (lands 4 4 0x3FB50000 0 none) = true := by decide +kernel
/-- spec/05, the scoreboard holds a guard: 3.0 - 3.0 is +0, and the predicate is 0. -/
theorem test_fadd_zero : after (.faddS go (.x 2) (.x 1) (.x 2) (.to 0)) (hold (regs 0x40400000 0xC0400000) [])
    (lands 4 2 0 0 (some (0, false))) = true := by decide +kernel
/-- spec/05, a mark where data was expected: the MARK stays, and the element stops, nothing is in flight. -/
theorem test_mark_faults : after (.add go (.x 0) (.x 0) (.take 0) (.to 0)) (hold {} [(0, { (tok 0x100) with kind := 2 })]) (fun t =>
    (t.unit unit0).efault.getLsbD 63 && (t.unit unit0).flights.isEmpty &&
    ((t.chan (.inp unit0 0)).inq.length = 1)) = true := by decide +kernel
/-- spec/11 and spec/12, R206: a reciprocal of 3.0. -/
theorem test_frcpe : after (.frcpeS go (.x 0) (.x 1) .none) (hold (regs 0x40400000 0) []) (lands 4 0 0x3EAAB000 NX none) = true := by
  decide +kernel
/-- spec/13, peek, pop and a tie at drain: 96.75 in FP32 drains to the even BF16 code, inexactly. -/
theorem test_drain_tie : (convert 2 3 0 false 0x42C18000).bits = 0x42C2 ∧ (convert 2 3 0 false 0x42C18000).flags = NX := by decide +kernel
/-- spec/15, five installs on one line: what the line keeps, and what LDAS at 150 and at 90 finds. -/
def fiveInstalls : Memory :=
  [(100, 0, 5), (140, 1, 7), (120, 0, 6), (160, 2, 9), (180, 0, 8)].foldl
    (fun m (e : Nat × Nat × Word) => install m 0x10000 0 e.2.1 e.2.2 false e.1 false 0 0) Memory.empty
def lineAt (k : Nat) : List Word := (List.range 3).map (fun j => fiveInstalls.word (lineSlot 0x10000 0 k + 8 * j))
theorem test_installs_150 : (ldasSlot fiveInstalls 0x10000 0 150).map lineAt = some [6, 7, 0] := by decide +kernel
theorem test_installs_200 : (ldasSlot fiveInstalls 0x10000 0 200).map lineAt = some [8, 7, 9] := by decide +kernel
theorem test_installs_90 : ldasSlot fiveInstalls 0x10000 0 90 = none ∧ horizon fiveInstalls 0x10000 0 = 100 := by decide +kernel
/-- spec/14, recursion through the spill engine: the call into depth 7 spills window 0 and comes back to offset 28. -/
def depth6 : State := at0 { wptr := 96, wspill := 0x7FF000, wlim := 4096, pc := 24, codeSize := 64, codeP := 0x1000 }
theorem test_call_spills : after (.call 0x3FFFFFE) depth6 (fun t =>
    (t.core 0).wptr = 112 && (t.core 0).wbot = 16 && (t.core 0).pc = 16 && (t.greg 0 23 = 28)) = true := by decide +kernel
/-- spec/14, the same program: the first word of `sum` goes to offset 36 where the argument is 0. -/
theorem test_beq : after (.beq 8 0 5) (at0 { pc := 16, codeSize := 64, codeP := 0x1000 }) (fun t => (t.core 0).pc = 36) = true := by decide +kernel
/-- spec/14, the same program: a step of the core runs `ADDI n0, a0, -1`. -/
theorem test_step : (match step (coreTurn {} 0x0708FFFF) with
    | .next t => (t.greg 0 24 = -1) && ((t.core 0).pc = 4) && t.agenda.isEmpty
    | _ => false) = true := by decide +kernel

/-- spec/12, widen, requantise, narrow, reduce: 16 INT32 lanes of one value. -/
def lanes32 (n : Nat) (x : Nat) : EUnit :=
  { vec := { v := (Vector.replicate 16 0).setIfInBounds n (BitVec.ofNat 512 ((List.range 16).foldl (fun a k => a + x * 2 ^ (32 * k)) 0)),
             tag := (Vector.replicate 16 0).setIfInBounds n (fmtTag 8) } }
/-- The lanes and flags of the word in flight. -/
def rowOut (k : Nat) (flags : BitVec 6) (t : State) : Bool :=
  match (t.unit unit0).flights with
  | [f] => f.land.flags = flags && (f.land.vregs.any (fun e => (e.2.1.extractLsb' 0 32).toNat = k))
  | _ => false
theorem test_vqshr_clamps : after (.vqshr go 8 4 0 1) (hold (lanes32 4 5000) []) (rowOut 127 SAT) = true := by decide +kernel
theorem test_vqshr_tie : after (.vqshr go 9 5 0 1) (hold (lanes32 5 0xFFFFFFF1) []) (rowOut 0xFFFFFFF9 0) = true := by decide +kernel
theorem test_vredadd : after (.vredadd go 11 6 0) (hold (lanes32 6 5) []) (rowOut 80 0) = true := by decide +kernel

end Sys2Proof.Machine.Tests
end

namespace Sys2Proof.Machine

/-! PROOFS. The issue gate of element words, and what the integer, immediate and compare words deliver. -/

/-! ## The issue gate (R94, R456) -/

theorem State.alive_iff {s : State} {u : UnitId} : s.alive u = true ↔
    (s.region u.region).launch.isSome = true ∧ (s.region u.region).stop = false ∧ (s.region u.region).frozen = none ∧
      (s.unit u).efault.getLsbD 63 = false ∧ (s.unit u).slotHeld = false := by
  simp [State.alive, Region.runs, EUnit.stopped, and_assoc]

theorem Ctx.guardMet_iff {c : Ctx} {t : Trig} : c.guardMet t = true ↔
    if t.pred = 7 then t.req = true else c.pendP.getLsbD t.pred.toNat = false ∧ c.p.getLsbD t.pred.toNat = t.req := by
  unfold Ctx.guardMet
  split <;> simp

theorem State.runs_iff {s : State} {u : UnitId} {slot : Nat} {t : Trig} : s.Runs u slot t ↔
    s.alive u = true ∧ s.bankOk u slot = true ∧ ((s.unit u).context t.ctx.toNat).guardMet t = true := by
  rw [State.alive_iff, Ctx.guardMet_iff, State.bankOk, decide_eq_true_iff]
  exact ⟨fun ⟨placed, running, moving, clean, free, bank, guard⟩ => ⟨⟨placed, running, moving, clean, free⟩, bank, guard⟩,
    fun ⟨⟨placed, running, moving, clean, free⟩, bank, guard⟩ => ⟨placed, running, moving, clean, free, bank, guard⟩⟩

theorem mem_filterMap_reg? {ins : List Src} {r : BitVec 3} : r ∈ ins.filterMap Src.reg? ↔ Src.x r ∈ ins := by
  rw [List.mem_filterMap]
  constructor
  · rintro ⟨a, ha, hr⟩
    cases a <;> simp_all [Src.reg?]
  · exact fun h => ⟨_, h, rfl⟩

theorem Ctx.scoreOk_iff {c : Ctx} {v : EView} : c.scoreOk v = true ↔
    (∀ r, (Src.x r ∈ v.ins ∨ r ∈ v.reads) → c.pendX.getLsbD r.toNat = false) ∧
    (∀ r, v.regDst = some r → c.pendX.getLsbD r.toNat = false) ∧
    (∀ j, v.predDst = some j → c.pendP.getLsbD j.toNat = false) := by
  simp only [Ctx.scoreOk, Bool.and_eq_true, List.all_eq_true, Option.all_eq_true, Bool.not_eq_true', mem_filterMap_reg?,
    or_imp, forall_and, and_assoc]

theorem State.ready_iff_able {s : State} {v : EView} : s.ready v = true ↔ s.Able s.site.unit s.site.slot v := by
  simp only [State.ready, Bool.and_eq_true, Ctx.scoreOk_iff, List.all_eq_true, State.outRoom]
  constructor
  · rintro ⟨⟨⟨⟨alive, bank⟩, guard⟩, srcs, dst, pred⟩, room⟩
    exact ⟨State.runs_iff.2 ⟨alive, bank, guard⟩, srcs, dst, pred, room⟩
  · rintro ⟨runs, srcs, dst, pred, room⟩
    obtain ⟨alive, bank, guard⟩ := State.runs_iff.1 runs
    exact ⟨⟨⟨⟨alive, bank⟩, guard⟩, srcs, dst, pred⟩, room⟩

theorem checkOpnds_eq_none_iff {ops : List Opnd} {pols : List Pol} : checkOpnds ops pols = none ↔
    ∀ k (o : Opnd), ops[k]? = some o → o.check (pols.getD k {}) = none := by
  induction ops generalizing pols with
  | nil => simp [checkOpnds]
  | cons o os ih =>
    rw [← Nat.and_forall_add_one]
    cases pols with
    | nil => cases hc : o.check {} <;> simp [checkOpnds, hc, ih]
    | cons p ps => cases hc : o.check p <;> simp [checkOpnds, hc, ih]

theorem State.gate_of_clear {s : State} {v : EView} {pols : List Pol} {ops : List Opnd} (h : s.Clear v pols ops) :
    s.gate v pols = .go ops := by
  obtain ⟨able, srcs, checks, clean⟩ := h
  have hready := State.ready_iff_able.2 able
  have hcheck := checkOpnds_eq_none_iff.2 checks
  simpa [State.gate, hready, srcs, hcheck] using clean

/-! ## What a computing word delivers (R96, R98, R101) -/

theorem sideOf_eq_firstSide (ops : List Opnd) : sideOf ops = firstSide ops := by
  induction ops with
  | nil => rfl
  | cons o os ih =>
    cases h : o.tok with
    | none => rw [firstSide, h, ← ih]; simp [sideOf, h]
    | some t => simp [sideOf, firstSide, h]

/-- A result whose predicate is R98's test of its whole value. -/
def ERes.whole (val : Word) (f : Flags) : ERes := ⟨val, f, decide (val ≠ 0)⟩

theorem testBits_64 (v : Word) : testBits 64 v = decide (v ≠ 0) := by
  rw [testBits, Nat.mod_eq_of_lt v.isLt, decide_eq_decide, ← BitVec.toNat_ne_iff_ne]
  rfl

theorem ERes.int_eq_whole (v : Word) : ERes.int v = .whole v 0 := by
  rw [ERes.int, ERes.whole, testBits_64]

theorem ERes.int_of_eq {x y : Word} (h : x = y) : ERes.int x = .whole y 0 := h ▸ ERes.int_eq_whole x

theorem ERes.sat_eq_whole (p : Word × Flags) : ERes.sat p = .whole p.1 p.2 := by
  rw [ERes.sat, ERes.whole, testBits_64]

theorem ERes.bool_eq_whole (p : Prop) [Decidable p] : ERes.bool (decide p) = .whole (truth p) 0 := by
  by_cases h : p <;> simp [ERes.bool, ERes.whole, bool64, truth, h]

theorem ERes.bool_of_iff {b : Bool} {p : Prop} [Decidable p] (h : b = true ↔ p) : ERes.bool b = .whole (truth p) 0 := by
  rw [← ERes.bool_eq_whole, Bool.eq_iff_iff.2 (h.trans decide_eq_true_iff.symm)]

/-- R96, R193: a word that is clear to issue puts its result in flight. `hw` is the word's `Instr.eview`, evaluated. -/
theorem execPlain_of_clear {s : State} {w v : EView} {ops : List Opnd} {lat : Nat} {f : List Word → ERes} {val : Word}
    {fl : Flags} (hw : some w = some v) (hc : s.Clear v [] ops) (hf : f (ops.map Opnd.val) = .whole val fl) :
    execPlain w lat f s = .next (s.issued v lat (resultLanding v s.boundTag ops val fl)) := by
  obtain rfl := Option.some.inj hw
  simp only [execPlain, State.gate_of_clear hc, hf]
  simp only [ERes.whole, landingOf, dataTok, sideOf_eq_firstSide]
  rfl

section
variable {α : Type} {l : List Word} {y : α}

theorem on0_eq_some_iff {x : α} : on0 l x = some y ↔ l = [] ∧ x = y := by
  unfold on0
  split <;> simp_all

theorem on1_eq_some_iff {f : Word → α} : on1 l f = some y ↔ ∃ a, l = [a] ∧ f a = y := by
  unfold on1
  split <;> simp_all

theorem on2_eq_some_iff {f : Word → Word → α} : on2 l f = some y ↔ ∃ a b, l = [a, b] ∧ f a b = y := by
  unfold on2
  split <;> simp_all

end

section
variable {s : State} {w v : EView} {ops : List Opnd} {lat : Nat} {val : Word} {fl : Flags}

theorem execPlain_of_on0 {r : ERes} {R : Word × Flags} (hw : some w = some v) (hc : s.Clear v [] ops)
    (h : on0 (ops.map Opnd.val) R = some (val, fl)) (hr : r = .whole R.1 R.2) :
    execPlain w lat (fun _ => r) s = .next (s.issued v lat (resultLanding v s.boundTag ops val fl)) := by
  obtain ⟨-, hR⟩ := on0_eq_some_iff.1 h
  exact execPlain_of_clear hw hc (by rw [hr, hR])

theorem execPlain_of_on1 {g : Word → ERes} {R : Word → Word × Flags} (hw : some w = some v) (hc : s.Clear v [] ops)
    (h : on1 (ops.map Opnd.val) R = some (val, fl)) (hg : ∀ a, g a = .whole (R a).1 (R a).2) :
    execPlain w lat (fn1 g) s = .next (s.issued v lat (resultLanding v s.boundTag ops val fl)) := by
  obtain ⟨a, hops, hR⟩ := on1_eq_some_iff.1 h
  exact execPlain_of_clear hw hc (by rw [hops, fn1, hg, hR])

theorem execPlain_of_on2 {g : Word → Word → ERes} {R : Word → Word → Word × Flags} (hw : some w = some v)
    (hc : s.Clear v [] ops) (h : on2 (ops.map Opnd.val) R = some (val, fl))
    (hg : ∀ a b, g a b = .whole (R a b).1 (R a b).2) :
    execPlain w lat (fn2 g) s = .next (s.issued v lat (resultLanding v s.boundTag ops val fl)) := by
  obtain ⟨a, b, hops, hR⟩ := on2_eq_some_iff.1 h
  exact execPlain_of_clear hw hc (by rw [hops, fn2, hg, hR])

end

/-! ## Integer values (R195-R202) -/

theorem toWord_natCast (n : Nat) : toWord n = BitVec.ofNat 64 n := BitVec.ofInt_natCast ..

theorem toWord_toInt (a : Word) : toWord a.toInt = a := BitVec.ofInt_toInt

theorem toWord_toNat (a : Word) : toWord (a.toNat : Int) = a := by
  rw [toWord_natCast, BitVec.ofNat_toNat, BitVec.setWidth_eq]

theorem add_eq_toWord (a b : Word) : a + b = toWord (a.toInt + b.toInt) := by
  rw [toWord, BitVec.ofInt_add, BitVec.ofInt_toInt, BitVec.ofInt_toInt]

theorem sub_eq_toWord (a b : Word) : a - b = toWord (a.toInt - b.toInt) := by
  rw [toWord, Int.sub_eq_add_neg, BitVec.ofInt_add, BitVec.ofInt_neg, BitVec.ofInt_toInt, BitVec.ofInt_toInt,
    BitVec.sub_eq_add_neg]

theorem mul_eq_toWord (a b : Word) : a * b = toWord (a.toInt * b.toInt) := by
  rw [toWord, BitVec.ofInt_mul, BitVec.ofInt_toInt, BitVec.ofInt_toInt]

theorem mulHighU_eq_toWord (a b : Word) : mulHighU a b = toWord (a.toNat * b.toNat / 2 ^ 64) :=
  (toWord_natCast (a.toNat * b.toNat / 2 ^ 64)).symm

theorem shiftLeft_eq_toWord (a : Word) (n : Nat) : a <<< n = toWord (a.toNat * 2 ^ n) := by
  have h : toWord (a.toNat * 2 ^ n : Nat) = a <<< n := by
    rw [toWord_natCast, ← Nat.shiftLeft_eq]; rfl
  exact_mod_cast h.symm

theorem ushiftRight_eq_toWord (a : Word) (n : Nat) : a >>> n = toWord (a.toNat / 2 ^ n) := by
  have h : toWord (a.toNat / 2 ^ n : Nat) = a >>> n := by
    rw [← toWord_toNat (a >>> n), BitVec.toNat_ushiftRight, Nat.shiftRight_eq_div_pow]
  exact_mod_cast h.symm

theorem sshiftRight_eq_toWord (a : Word) (n : Nat) : a.sshiftRight n = toWord (a.toInt / 2 ^ n) := by
  rw [← toWord_toInt (a.sshiftRight n), BitVec.toInt_sshiftRight, Int.shiftRight_eq_div_pow]
  norm_cast

theorem minS_eq_toWord (a b : Word) : minS a b = toWord (min a.toInt b.toInt) := by
  simp only [minS, BitVec.sle, decide_eq_true_iff, min_def, apply_ite toWord, toWord_toInt]

theorem maxS_eq_toWord (a b : Word) : maxS a b = toWord (max a.toInt b.toInt) := by
  simp only [maxS, BitVec.sle, decide_eq_true_iff, max_comm a.toInt, max_def, apply_ite toWord, toWord_toInt]

theorem minU_eq_toWord (a b : Word) : minU a b = toWord (min a.toNat b.toNat) := by
  simp only [minU, BitVec.le_def, min_def, Nat.cast_le, apply_ite toWord, toWord_toNat]

theorem maxU_eq_toWord (a b : Word) : maxU a b = toWord (max a.toNat b.toNat) := by
  simp only [maxU, BitVec.le_def, max_comm (a.toNat : Int), max_def, Nat.cast_le, apply_ite toWord, toWord_toNat]

theorem clamp64_eq (v : Int) : clamp64 v = (toWord (nearest64 v), satFlag v) := by
  have hmin : intMin 64 true = -2 ^ 63 := rfl
  have hmax : intMax 64 true = 2 ^ 63 - 1 := rfl
  rw [clamp64, clampInt, hmin, hmax, nearest64, satFlag]
  by_cases hlo : v < -2 ^ 63
  · rw [if_pos hlo, if_pos (Or.inl hlo), show max (-2 ^ 63) (min (2 ^ 63 - 1) v) = -2 ^ 63 by omega]; rfl
  · by_cases hhi : 2 ^ 63 - 1 < v
    · rw [if_neg hlo, if_pos hhi, if_pos (Or.inr (by omega)),
        show max (-2 ^ 63) (min (2 ^ 63 - 1) v) = 2 ^ 63 - 1 by omega]; rfl
    · rw [if_neg hlo, if_neg hhi, if_neg (by omega), show max (-2 ^ 63) (min (2 ^ 63 - 1) v) = v by omega]; rfl

theorem ERes.sat_clamp64 (x : Int) : ERes.sat (clamp64 x) = .whole (toWord (nearest64 x)) (satFlag x) := by
  rw [ERes.sat_eq_whole, clamp64_eq]

theorem clz64_eq_toWord (a : Word) : clz64 a = toWord (if a = 0 then 64 else 63 - a.toNat.log2) := by
  by_cases h : a = 0
  · subst h; rfl
  · have hne : a.toNat ≠ 0 := fun e => h (BitVec.eq_of_toNat_eq e)
    have hlt : a.toNat.log2 < 64 := (Nat.log2_lt hne).2 a.isLt
    rw [clz64, bitLen, if_neg hne, if_neg h, ← toWord_natCast]
    congr 1; omega

theorem popc64_eq_toWord (a : Word) : popc64 a = toWord ((List.range 64).countP (fun k => a.getLsbD k)) := by
  rw [popc64, toWord_natCast, List.countP_eq_length_filter]

theorem intVal_eq_bmod {n : Nat} (hn : 0 < n) (k : Nat) : intVal n true k = Int.bmod k (2 ^ n) := by
  obtain ⟨m, rfl⟩ : ∃ m, n = m + 1 := ⟨n - 1, by omega⟩
  have hpow : 2 ^ (m + 1) = 2 * 2 ^ m := Nat.pow_succ'
  have hmid : ((2 ^ (m + 1) : Nat) + 1 : Int) / 2 = (2 ^ m : Nat) := by omega
  have hcast : (2 ^ (m + 1) : Int) = (2 ^ (m + 1) : Nat) := by norm_cast
  simp only [intVal, hcast, Nat.add_sub_cancel, Bool.true_and, decide_eq_true_iff, Int.bmod, hmid, ← Int.natCast_emod,
    Nat.cast_lt, ← Nat.not_lt, ite_not]

theorem signExt_eq_toWord (n : ExtWidth) (a : Word) :
    signExt (extSize n) a = toWord (Int.bmod a.toNat (2 ^ extSize n)) := by
  rw [signExt, intVal_eq_bmod (by cases n <;> decide)]; rfl

theorem zeroExt_eq_toWord (n : Nat) (a : Word) : zeroExt n a = toWord (a.toNat % 2 ^ n : Nat) :=
  (toWord_natCast _).symm

theorem toNat_setWidth_mod (c : BitVec 6) : (c.setWidth 64).toNat % 64 = c.toNat := by
  rw [BitVec.toNat_setWidth]; omega

theorem shiftL_imm_eq_toWord (a : Word) (c : BitVec 6) : shiftL a (c.setWidth 64) = toWord (a.toNat * 2 ^ c.toNat) := by
  rw [shiftL, toNat_setWidth_mod, shiftLeft_eq_toWord]

theorem shiftR_imm_eq_toWord (a : Word) (c : BitVec 6) : shiftR a (c.setWidth 64) = toWord (a.toNat / 2 ^ c.toNat) := by
  rw [shiftR, toNat_setWidth_mod, ushiftRight_eq_toWord]

theorem shiftA_imm_eq_toWord (a : Word) (c : BitVec 6) : shiftA a (c.setWidth 64) = toWord (a.toInt / 2 ^ c.toNat) := by
  rw [shiftA, toNat_setWidth_mod, sshiftRight_eq_toWord]

theorem toInt_imm9 (m : BitVec 9) : (imm9 m).toInt = m.toInt := BitVec.toInt_signExtend_of_le (by decide)

theorem eq_imm9_iff (a : Word) (m : BitVec 9) : a = imm9 m ↔ a.toInt = m.toInt := by
  rw [← BitVec.toInt_inj, toInt_imm9]

theorem add_imm9_eq_toWord (a : Word) (m : BitVec 9) : a + imm9 m = toWord (a.toInt + m.toInt) := by
  rw [add_eq_toWord, toInt_imm9]

theorem slt_imm9_iff (a : Word) (m : BitVec 9) : a.slt (imm9 m) = true ↔ a.toInt < m.toInt := by
  rw [BitVec.slt_iff_toInt_lt, toInt_imm9]

theorem setWidth_eq_toWord (m : BitVec 14) : m.setWidth 64 = toWord m.toNat := by
  rw [toWord_natCast, BitVec.ofNat_toNat]

theorem shin_eq_toWord (d : Word) (m : BitVec 14) : (d <<< 14) ||| m.setWidth 64 = toWord (d.toNat * 2 ^ 14 + m.toNat) := by
  have h : toWord (d.toNat * 2 ^ 14 + m.toNat : Nat) = (d <<< 14) ||| m.setWidth 64 := by
    rw [toWord_natCast, ← Nat.shiftLeft_eq, Nat.shiftLeft_add_eq_or_of_lt m.isLt, BitVec.ofNat_or, BitVec.ofNat_toNat]; rfl
  exact_mod_cast h.symm

/-! ## The words (R195-R202) -/

/-- Settles O5: each of these words is an `execPlain` of one cycle over no, one or two operands, so the gate lemma leaves its
value, which the lemma on that operation turns into the spec's integer. Other words have no entry in the table. -/
theorem integerWordsDeliver : Obligations.IntegerWordsDeliver := by
  intro i v s ops val f hv hc h
  cases i with
  | add => exact execPlain_of_on2 hv hc h fun a b => ERes.int_of_eq (add_eq_toWord a b)
  | sub => exact execPlain_of_on2 hv hc h fun a b => ERes.int_of_eq (sub_eq_toWord a b)
  | mul => exact execPlain_of_on2 hv hc h fun a b => ERes.int_of_eq (mul_eq_toWord a b)
  | mulhs => exact execPlain_of_on2 hv hc h fun _ _ => ERes.int_eq_whole _
  | mulhu => exact execPlain_of_on2 hv hc h fun a b => ERes.int_of_eq (mulHighU_eq_toWord a b)
  | and | or | xor | andn => exact execPlain_of_on2 hv hc h fun _ _ => ERes.int_eq_whole _
  | shl => exact execPlain_of_on2 hv hc h fun a b => ERes.int_of_eq (shiftLeft_eq_toWord a (b.toNat % 64))
  | shr => exact execPlain_of_on2 hv hc h fun a b => ERes.int_of_eq (ushiftRight_eq_toWord a (b.toNat % 64))
  | sar => exact execPlain_of_on2 hv hc h fun a b => ERes.int_of_eq (sshiftRight_eq_toWord a (b.toNat % 64))
  | min => exact execPlain_of_on2 hv hc h fun a b => ERes.int_of_eq (minS_eq_toWord a b)
  | max => exact execPlain_of_on2 hv hc h fun a b => ERes.int_of_eq (maxS_eq_toWord a b)
  | minu => exact execPlain_of_on2 hv hc h fun a b => ERes.int_of_eq (minU_eq_toWord a b)
  | maxu => exact execPlain_of_on2 hv hc h fun a b => ERes.int_of_eq (maxU_eq_toWord a b)
  | adds => exact execPlain_of_on2 hv hc h fun a b => ERes.sat_clamp64 (a.toInt + b.toInt)
  | subs => exact execPlain_of_on2 hv hc h fun a b => ERes.sat_clamp64 (a.toInt - b.toInt)
  | clz => exact execPlain_of_on1 hv hc h fun x => ERes.int_of_eq (clz64_eq_toWord x)
  | popc => exact execPlain_of_on1 hv hc h fun x => ERes.int_of_eq (popc64_eq_toWord x)
  | sext _ _ _ n => exact execPlain_of_on1 hv hc h fun x => ERes.int_of_eq (signExt_eq_toWord n x)
  | zext _ _ _ n => exact execPlain_of_on1 hv hc h fun x => ERes.int_of_eq (zeroExt_eq_toWord (extSize n) x)
  | ceq => exact execPlain_of_on2 hv hc h fun _ _ => ERes.bool_of_iff beq_iff_eq
  | cne | ctst => exact execPlain_of_on2 hv hc h fun _ _ => ERes.bool_of_iff bne_iff_ne
  | clt | cle | cltu | cleu => exact execPlain_of_on2 hv hc h fun _ _ => ERes.bool_eq_whole _
  | addi _ _ _ m => exact execPlain_of_on1 hv hc h fun x => ERes.int_of_eq (add_imm9_eq_toWord x m)
  | andi | ori | xori => exact execPlain_of_on1 hv hc h fun _ => ERes.int_eq_whole _
  | shli _ _ _ c => exact execPlain_of_on1 hv hc h fun x => ERes.int_of_eq (shiftL_imm_eq_toWord x c)
  | shri _ _ _ c => exact execPlain_of_on1 hv hc h fun x => ERes.int_of_eq (shiftR_imm_eq_toWord x c)
  | sari _ _ _ c => exact execPlain_of_on1 hv hc h fun x => ERes.int_of_eq (shiftA_imm_eq_toWord x c)
  | ceqi _ _ _ m => exact execPlain_of_on1 hv hc h fun x => ERes.bool_of_iff (beq_iff_eq.trans (eq_imm9_iff x m))
  | clti _ _ _ m => exact execPlain_of_on1 hv hc h fun x => ERes.bool_of_iff (slt_imm9_iff x m)
  | cltui => exact execPlain_of_on1 hv hc h fun _ => ERes.bool_eq_whole _
  | movi _ _ m => exact execPlain_of_on0 hv hc h (ERes.int_of_eq (setWidth_eq_toWord m))
  | shin _ _ m =>
    obtain rfl := Option.some.inj hv
    exact execPlain_of_on0 rfl hc h (ERes.int_of_eq (shin_eq_toWord _ m))
  | _ => cases h

end Sys2Proof.Machine

namespace Sys2Proof.Machine

/-! PROOFS. The issue gate of vector words, and what the lane-wise words deliver. -/

/-! ## The issue gate of vector words (R94, R212, R215, R216) -/

theorem Vec.scoreOk_iff {x : Vec} {v : VUse} : x.scoreOk v = true ↔
    (∀ o ∈ v.reads, x.pendV.getLsbD o.r.toNat = false) ∧ (∀ r ∈ v.writes, x.pendV.getLsbD r.toNat = false) ∧
      x.pendM.getLsbD v.mask.toNat = false ∧ ∀ k, v.wmask = some k → x.pendM.getLsbD k.toNat = false := by
  simp only [Vec.scoreOk, Bool.and_eq_true, List.all_eq_true, Option.all_eq_true, Bool.not_eq_true', and_assoc]

theorem Vec.check_eq_none_iff {x : Vec} {os : List VOpnd} : x.check os = none ↔
    ∀ o ∈ os, o.ok = true ∧ (o.use = true → x.pv.getLsbD o.r.toNat = false) := by
  induction os with
  | nil => simp [Vec.check]
  | cons o os ih =>
    rw [List.forall_mem_cons, ← ih]
    cases hok : o.ok with
    | false => simp [Vec.check, hok]
    | true => cases huse : o.use <;> cases hbad : x.pv.getLsbD o.r.toNat <;> simp [Vec.check, hok, huse, hbad]

theorem State.vready_of_vclear {s : State} {v : VUse} (h : s.VClear v) : s.vready v = true := by
  obtain ⟨runs, reads, writes, mask, wmask⟩ := h
  obtain ⟨alive, bank, guard⟩ := State.runs_iff.1 runs
  have score : s.vec.scoreOk v = true := Vec.scoreOk_iff.2 ⟨fun o ho => (reads o ho).1, writes, mask, wmask⟩
  simp only [State.vready, Bool.and_eq_true]
  exact ⟨⟨⟨alive, bank⟩, guard⟩, score⟩

theorem State.gateV_of_vclear {s : State} {v : VUse} (h : s.VClear v) : s.gateV v = .go [] := by
  have hready := State.vready_of_vclear h
  have hcheck : (s.unit s.site.unit).vec.check v.reads = none := Vec.check_eq_none_iff.2 fun o ho => (h.reads o ho).2
  simp [State.gateV, hready, hcheck]

theorem execV_of_vclear {s : State} {v : VUse} (h : s.VClear v) (lat : Nat) (l : Landing) :
    execV v lat l s = .next (s.vissued v lat l) := by
  rw [execV, State.gateV_of_vclear h]
  rfl

theorem State.VClear.format_ok {s : State} {v : VUse} {r : BitVec 4} {plain fmtOk use : Bool} {os : List VOpnd}
    (h : s.VClear v) (hr : v.reads = ⟨r, plain && fmtOk, use⟩ :: os) : fmtOk = true := by
  obtain ⟨-, hok, -⟩ := h.reads ⟨r, plain && fmtOk, use⟩ (by simp [hr])
  exact (Bool.and_eq_true_iff.1 hok).2

/-! ## Lanes of rows (R53, R211) -/

theorem elem_lt (w bits j : Nat) : elem w bits j < 2 ^ w := Nat.mod_lt _ (Nat.two_pow_pos w)

theorem pack_lt (w : Nat) (l : List Nat) : pack w l < 2 ^ (w * l.length) := by
  induction l with
  | nil => simp [pack]
  | cons x xs ih =>
    have hx : x % 2 ^ w < 2 ^ w := Nat.mod_lt _ (Nat.two_pow_pos w)
    calc pack w (x :: xs) < 2 ^ w * (pack w xs + 1) := by rw [pack, Nat.mul_succ]; omega
      _ ≤ 2 ^ w * 2 ^ (w * xs.length) := Nat.mul_le_mul_left _ ih
      _ = 2 ^ (w * (x :: xs).length) := by rw [← Nat.pow_add, List.length_cons, Nat.mul_succ, Nat.add_comm]

theorem elem_pack (w : Nat) (l : List Nat) (j : Nat) : elem w (pack w l) j = l.getD j 0 % 2 ^ w := by
  induction l generalizing j with
  | nil => simp [pack, elem]
  | cons x xs ih =>
    have hx : x % 2 ^ w < 2 ^ w := Nat.mod_lt _ (Nat.two_pow_pos w)
    cases j with
    | zero => simp [pack, elem]
    | succ j =>
      have hdiv : pack w (x :: xs) / 2 ^ w = pack w xs := by
        rw [pack, Nat.add_mul_div_left _ _ (Nat.two_pow_pos w), Nat.div_eq_of_lt hx, Nat.zero_add]
      rw [List.getD_cons_succ, ← ih, elem, elem, Nat.mul_succ, Nat.add_comm, Nat.pow_add, ← Nat.div_div_eq_div_mul, hdiv]

theorem toNat_ofNat_pack {w n : Nat} {l : List Nat} (h : w * l.length ≤ n) : (BitVec.ofNat n (pack w l)).toNat = pack w l := by
  rw [BitVec.toNat_ofNat, Nat.mod_eq_of_lt ((pack_lt w l).trans_le (Nat.pow_le_pow_right two_pos h))]

theorem toNat_rowOf {w : Nat} {l : List Nat} (h : w * l.length ≤ 512) : (rowOf w l).toNat = pack w l := toNat_ofNat_pack h

theorem lane_count_pos (c : BitVec 4) : 0 < 512 / fmtWidth c := by
  revert c
  decide

theorem lanes_getD {c : BitVec 4} {r : Row} {j : Nat} (hj : j < 512 / fmtWidth c) :
    (lanes c r).getD j 0 = elem (fmtWidth c) r.toNat j := by
  simp [lanes, hj]

@[simp] theorem length_lanes (c : BitVec 4) (r : Row) : (lanes c r).length = 512 / fmtWidth c := by
  simp [lanes]

theorem map_lanes (x : Vec) (c : BitVec 4) (r : BitVec 4) {α : Type} (f : Nat → α) :
    (lanes c (x.reg r)).map f = (List.range (512 / fmtWidth c)).map (fun j => f (x.lane (fmtWidth c) r j)) := by
  rw [lanes, List.map_map]
  rfl

theorem Vec.zipLanes_eq_map (x : Vec) (c va vb vd : BitVec 4) (f : Nat → Nat → Nat → Res) :
    x.zipLanes c va vb vd f = (List.range (512 / fmtWidth c)).map (fun j =>
      f (x.lane (fmtWidth c) va j) (x.lane (fmtWidth c) vb j) (x.lane (fmtWidth c) vd j)) := by
  simp only [Vec.zipLanes, lanes, List.zip_map', List.map_map]
  rfl

/-! ## Lanes under a mask (R211) -/

theorem getD_map_range {α : Type} (f : Nat → α) (d : α) {n j : Nat} :
    ((List.range n).map f).getD j d = if j < n then f j else d := by
  by_cases h : j < n <;> simp [h]

theorem zipIdx_map_range {α : Type} (f : Nat → α) (n : Nat) :
    ((List.range n).map f).zipIdx = (List.range n).map (fun j => (f j, j)) := by
  apply List.ext_getElem <;> simp

theorem getLsbD_foldl_or {α : Type} (p : α → Bool) (g : α → Flags) (l : List α) (f : Flags) (b : Nat) :
    (l.foldl (fun f a => if p a then f ||| g a else f) f).getLsbD b = true ↔
      f.getLsbD b = true ∨ ∃ a ∈ l, p a = true ∧ (g a).getLsbD b = true := by
  induction l generalizing f with
  | nil => simp
  | cons a l ih => cases hp : p a <;> simp [ih, hp, or_assoc]

section
variable (mask : Word) (wm w : Nat) (old : Row) (lane : Nat → Res) (n : Nat)

theorem maskLanes_fst : (maskLanes mask wm w old ((List.range n).map lane)).1 = rowOf w ((List.range n).map (fun j =>
    if laneOn mask wm j then (lane j).bits else elem w old.toNat j)) := by
  simp only [maskLanes, zipIdx_map_range, List.map_map]
  rfl

theorem getLsbD_maskLanes_snd (b : Nat) : (maskLanes mask wm w old ((List.range n).map lane)).2.getLsbD b = true ↔
    ∃ j, j < n ∧ laneOn mask wm j = true ∧ (lane j).flags.getLsbD b = true := by
  simp only [maskLanes, zipIdx_map_range]
  rw [getLsbD_foldl_or (fun (e : Res × Nat) => laneOn mask wm e.2) (fun e => e.1.flags)]
  simp

theorem maskLanes_snd_of_no_flags (bits : Nat → Nat) :
    (maskLanes mask wm w old ((List.range n).map (fun j => ⟨bits j, 0⟩))).2 = 0 := by
  apply BitVec.eq_of_getLsbD_eq
  intro b _
  rw [Bool.eq_iff_iff, getLsbD_maskLanes_snd]
  simp

variable {n w}

theorem elem_maskLanes (h : w * n ≤ 512) (j : Nat) : elem w (maskLanes mask wm w old ((List.range n).map lane)).1.toNat j =
    if j < n then if laneOn mask wm j then (lane j).bits % 2 ^ w else elem w old.toNat j else 0 := by
  rw [maskLanes_fst, toNat_rowOf (by simpa using h), elem_pack, getD_map_range]
  split
  · split
    · rfl
    · exact Nat.mod_eq_of_lt (elem_lt ..)
  · exact Nat.zero_mod _

end

/-! ## Lane-wise words as the statement reads them -/

/-- The row and the flags of a lane-wise word on a node's registers. -/
def LaneWord.result (L : LaneWord) (x : Vec) : Row × Flags :=
  maskLanes (x.mask L.use.mask) L.w L.w' (x.reg L.old) ((List.range (512 / L.w)).map L.lane)

/-- The word that delivers them: its gate, its issue and its landing. -/
def LaneWord.run (L : LaneWord) (s : State) : Host.Outcome State Fault Refusal :=
  execV L.use L.lat (vLanding L.vd (L.result s.vec).1 L.tag L.poison (L.result s.vec).2) s

theorem LaneWord.run_delivers {L : LaneWord} {s : State} (hc : s.VClear L.use) (hw : L.w' ≤ L.w) :
    ∃ r f, L.run s = .next (s.vissued L.use L.lat { vregs := [(L.vd, r, refin L.tag [r], L.poison)], flags := f }) ∧
      (∀ j, j < 512 / L.w → elem L.w' r.toNat j =
        if laneOn (s.vec.mask L.use.mask) L.w j then (L.lane j).bits % 2 ^ L.w' else s.vec.lane L.w' L.old j) ∧
      (∀ j, 512 / L.w ≤ j → elem L.w' r.toNat j = 0) ∧
      (∀ b, f.getLsbD b = true ↔
        ∃ j, j < 512 / L.w ∧ laneOn (s.vec.mask L.use.mask) L.w j = true ∧ (L.lane j).flags.getLsbD b = true) := by
  have hfit : L.w' * (512 / L.w) ≤ 512 := (Nat.mul_le_mul_right _ hw).trans (Nat.mul_div_le 512 L.w)
  refine ⟨(L.result s.vec).1, (L.result s.vec).2, execV_of_vclear hc .., fun j hj => ?_, fun j hj => ?_,
    fun b => getLsbD_maskLanes_snd ..⟩
  · rw [LaneWord.result, elem_maskLanes _ _ _ _ hfit, if_pos hj]
    rfl
  · rw [LaneWord.result, elem_maskLanes _ _ _ _ hfit, if_neg hj.not_gt]

/-! ## Values of lanes (R218, R219, R228) -/

theorem intOf?_eq_none_of_float {c : BitVec 4} {g : FloatFmt} (h : floatOf? c = some g) : intOf? c = none := by
  have hall : ∀ c : BitVec 4, (floatOf? c).isSome = true → intOf? c = none := by decide
  exact hall c (by rw [h]; rfl)

theorem intRes_eq_wrap (w : Nat) (v : Int) : intRes w v = wrap w v := by
  simp [intRes, wrap, intBits]

theorem arith_eq_byFormat (c : BitVec 4) (ff : FloatFmt → Nat → Nat → Nat → Res) (f : Int → Int → Int → Int) (a b d : Nat) :
    arith c ff (fun w _ x y z => intRes w (f x y z)) a b d =
      byFormat c (fun g => ff g a b d) (fun n val => wrap n (f (val a) (val b) (val d))) := by
  unfold arith byFormat
  cases floatOf? c with
  | some g => rfl
  | none => cases intOf? c with
    | some p => exact intRes_eq_wrap ..
    | none => rfl

theorem floatLane_eq_byFormat (g : FloatFmt → Nat → Res) (c : BitVec 4) (a : Nat) :
    floatLane g c a = byFormat c (fun f => g f a) (fun _ _ => ⟨0, 0⟩) := by
  unfold floatLane byFormat
  cases floatOf? c with
  | some f => rfl
  | none => cases intOf? c <;> rfl

theorem intVal_modEq (w : Nat) (sg : Bool) (a : Nat) : intVal w sg a ≡ a [ZMOD 2 ^ w] := by
  have hmod : ((a % 2 ^ w : Nat) : Int) ≡ a [ZMOD 2 ^ w] := by
    push_cast
    exact Int.mod_modEq ..
  unfold intVal
  split
  · simpa using hmod.sub (Int.modEq_zero_iff_dvd.2 (dvd_refl _))
  · exact hmod

theorem intVal_lt (w : Nat) (sg : Bool) (a : Nat) : intVal w sg a < 2 ^ w := by
  have hlt : ((a % 2 ^ w : Nat) : Int) < 2 ^ w := by exact_mod_cast Nat.mod_lt a (Nat.two_pow_pos w)
  unfold intVal
  split <;> omega

theorem neg_two_pow_le_intVal (w : Nat) (sg : Bool) (a : Nat) : -2 ^ w ≤ intVal w sg a := by
  have hpos : (0 : Int) < 2 ^ w := Int.pow_pos two_pos
  unfold intVal
  split <;> omega

/-- R218: a shift left by the width or more leaves 0, as the product with the power of two does modulo the width. -/
theorem shl_lane_eq_wrap (w : Nat) (sg : Bool) (a b : Nat) :
    (⟨if w ≤ b then 0 else a * 2 ^ b % 2 ^ w, 0⟩ : Res) = wrap w (intVal w sg a * 2 ^ b) := by
  have hmod : intVal w sg a * 2 ^ b % 2 ^ w = ((a * 2 ^ b % 2 ^ w : Nat) : Int) := by
    push_cast
    exact (intVal_modEq w sg a).mul_right _
  rw [wrap, hmod, Int.toNat_natCast]
  split
  · next h => rw [Nat.mod_eq_zero_of_dvd ((Nat.pow_dvd_pow 2 h).mul_left a)]
  · rfl

theorem ediv_two_pow_min {v : Int} {w b : Nat} (lo : -2 ^ w ≤ v) (hi : v < 2 ^ w) : v / 2 ^ min b w = v / 2 ^ b := by
  rcases Nat.le_total b w with h | h
  · rw [Nat.min_eq_left h]
  · rw [Nat.min_eq_right h]
    have hpow : (2 : Int) ^ w ≤ 2 ^ b := pow_le_pow_right₀ (by decide) h
    have hpos : (0 : Int) < 2 ^ w := Int.pow_pos two_pos
    rcases lt_or_ge v 0 with hneg | hnonneg
    · rw [Int.ediv_eq_neg_one_of_neg_of_le hneg (by omega), Int.ediv_eq_neg_one_of_neg_of_le hneg (by omega)]
    · rw [Int.ediv_eq_zero_of_lt hnonneg hi, Int.ediv_eq_zero_of_lt hnonneg (hi.trans_le hpow)]

/-- R218: a shift right by more than the width is one by the width, which leaves 0 or -1. -/
theorem shr_lane_eq_wrap (w : Nat) (sg : Bool) (a b : Nat) :
    (⟨intBits w (intVal w sg a / (2 ^ min b w : Nat)), 0⟩ : Res) = wrap w (intVal w sg a / 2 ^ b) := by
  rw [← ediv_two_pow_min (neg_two_pow_le_intVal w sg a) (intVal_lt w sg a), wrap, intBits]
  push_cast
  rfl

theorem clampInt_eq (lo hi v : Int) (h : lo ≤ hi) : clampInt lo hi v = (max lo (min hi v), decide (v < lo ∨ hi < v)) := by
  unfold clampInt
  split
  · next hlo => simp [hlo]; omega
  · split
    · next hlo hhi => simp [hhi]; omega
    · next hlo hhi => simp [hlo, hhi]; omega

section
variable {c : BitVec 4} {ff : FloatFmt → Res} {fi : Nat → (Nat → Int) → Res}

theorem byFormat_of_int {w : Nat} {sg : Bool} (h : intOf? c = some (w, sg)) : byFormat c ff fi = fi w (intVal w sg) := by
  have hf : floatOf? c = none := Option.eq_none_iff_forall_ne_some.2 fun g hg => by simp [intOf?_eq_none_of_float hg] at h
  rw [byFormat, hf, h]

theorem byFormat_eq_zero_of_not_int (h : intOf? c = none) : byFormat c (fun _ => ⟨0, 0⟩) fi = ⟨0, 0⟩ := by
  rw [byFormat, h]
  cases floatOf? c <;> rfl

end

/-- The formats of VABS are signed (R215). -/
theorem absFormat_signed {c : BitVec 4} {w : Nat} {sg : Bool} (hok : (isF c || c = 8 || c = 9 || c = 10) = true)
    (h : intOf? c = some (w, sg)) : sg = true := by
  have hall : ∀ c : BitVec 4, (isF c || c = 8 || c = 9 || c = 10) = true → (intOf? c).all Prod.snd = true := by decide
  simpa [h] using hall c hok

theorem intBits_natCast {w n : Nat} (h : n < 2 ^ w) : intBits w n = n := by
  rw [intBits, ← Int.natCast_mod, Int.toNat_natCast, Nat.mod_eq_of_lt h]

theorem flagIf_decide (p : Prop) [Decidable p] (f : Flags) : flagIf (decide p) f = if p then f else 0 := by
  simp [flagIf]

/-- R218: the magnitude of a signed integer, saturated at the greatest. -/
theorem abs_lane_eq (w : Nat) (v : Int) :
    (⟨intBits w (clampInt (intMin w true) (intMax w true) v.natAbs).1,
      flagIf (clampInt (intMin w true) (intMax w true) v.natAbs).2 flagSAT⟩ : Res) =
    ⟨min v.natAbs (2 ^ (w - 1) - 1), if 2 ^ (w - 1) ≤ v.natAbs then flagSAT else 0⟩ := by
  have hpos : 0 < 2 ^ (w - 1) := Nat.two_pow_pos _
  have hle : 2 ^ (w - 1) ≤ 2 ^ w := Nat.pow_le_pow_right two_pos (Nat.sub_le w 1)
  rw [intMin, intMax, if_pos rfl, if_pos rfl]
  generalize hP : 2 ^ (w - 1) = P at *
  have hval : max (-(P : Int)) (min ((P : Int) - 1) v.natAbs) = ((min v.natAbs (P - 1) : Nat) : Int) := by omega
  have hsat : ((v.natAbs : Int) < -(P : Int) ∨ (P : Int) - 1 < v.natAbs) ↔ P ≤ v.natAbs := by omega
  rw [clampInt_eq _ _ _ (by omega), hval, intBits_natCast (by omega)]
  simp only [flagIf_decide, hsat]

theorem absLane_eq_byFormat {c : BitVec 4} (hok : (isF c || c = 8 || c = 9 || c = 10) = true) (a : Nat) :
    absLane c a = byFormat c (fun g => if (g.decode a).isNaN then ⟨g.nanBits, 0⟩ else ⟨a % 2 ^ (g.width - 1), 0⟩)
      (fun n val => ⟨min (val a).natAbs (2 ^ (n - 1) - 1), if 2 ^ (n - 1) ≤ (val a).natAbs then flagSAT else 0⟩) := by
  unfold absLane byFormat
  cases floatOf? c with
  | some g => rfl
  | none => cases h : intOf? c with
    | some p =>
      obtain ⟨w, sg⟩ := p
      obtain rfl := absFormat_signed hok h
      exact abs_lane_eq w _
    | none => rfl

/-- R219's rounding shift of a lane, before its clamp. -/
def qshrInt (n a : Nat) (sh : BitVec 5) : Int :=
  if sh = 0 then intVal n true a else (intVal n true a + 2 ^ (sh.toNat - 1)) / 2 ^ sh.toNat

theorem qshrLane_eq (c : BitVec 4) (a : Nat) (sh : BitVec 5) : qshrLane sh.toNat c a =
    ⟨(max (-128) (min 127 (qshrInt (fmtWidth c) a sh)) % 2 ^ fmtWidth c).toNat,
      if qshrInt (fmtWidth c) a sh < -128 ∨ 127 < qshrInt (fmtWidth c) a sh then flagSAT else 0⟩ := by
  have hint : (if sh.toNat = 0 then intVal (fmtWidth c) true a
      else (intVal (fmtWidth c) true a + 2 ^ (sh.toNat - 1)) / 2 ^ sh.toNat) = qshrInt (fmtWidth c) a sh := by
    simp [qshrInt, BitVec.toNat_eq]
  simp only [qshrLane, Nat.cast_pow, Nat.cast_ofNat, hint, clampInt_eq _ _ _ (show (-128 : Int) ≤ 127 by decide), intBits,
    flagIf_decide]

/-! ## The words (R215, R218, R219, R221, R225, R227, R228) -/

/-- A word that writes what `lane` gives of va's lanes over vd's. -/
def laneWordOn (x : Vec) (t : Trig) (vd va : BitVec 4) (m : BitVec 3) (reads : List VOpnd) (lat : Nat) (tag : Byte)
    (lane : Nat → Res) : LaneWord :=
  { use := { trig := t, mask := m, writes := [vd], reads := reads }, vd := vd, old := vd, w := fmtWidth (x.fmt va),
    w' := fmtWidth (x.fmt va), lat := lat, tag := tag, lane := lane }

section
variable {t : Trig} {vd va vb : BitVec 4} {m : BitVec 3} {s : State}

/-- R218: words on the lanes of two registers of one format; some have vd's as an addend. -/
theorem execArith_eq_run {ff : FloatFmt → Nat → Nat → Nat → Res} {fi : Nat → Bool → Int → Int → Int → Res}
    {lane : Nat → Res}
    (h : ∀ j, arith (s.vec.fmt va) ff fi (s.vec.lane (fmtWidth (s.vec.fmt va)) va j)
      (s.vec.lane (fmtWidth (s.vec.fmt va)) vb j) (s.vec.lane (fmtWidth (s.vec.fmt va)) vd j) = lane j) :
    execArith ff fi t vd va vb m s = (laneWordOn s.vec t vd va m (useArith s.vec t vd va vb m).reads (vlat (s.vec.fmt va))
      (fmtTag (s.vec.fmt va)) lane).run s := by
  obtain rfl := funext h
  simp only [execArith, Vec.zipLanes_eq_map]
  rfl

theorem execBits_eq_run {reads : List VOpnd} {f : Vec → BitVec 4 → List Res} {poison : Bool} {bits : Nat → Nat}
    (h : f s.vec (s.vec.fmt va) = (List.range (512 / fmtWidth (s.vec.fmt va))).map (fun j => ⟨bits j, 0⟩)) :
    execBits reads f t vd va m poison s = LaneWord.run
      { laneWordOn s.vec t vd va m reads 2 (s.vec.tagOf va) (fun j => ⟨bits j, 0⟩) with poison := poison } s := by
  simp only [execBits, h, LaneWord.run, LaneWord.result, laneWordOn, maskLanes_snd_of_no_flags]

theorem execUnary_eq_run {ok : BitVec 4 → Bool} {lat : BitVec 4 → Nat} {g : BitVec 4 → Nat → Res} {lane : Nat → Res}
    (h : ∀ j, g (s.vec.fmt va) (s.vec.lane (fmtWidth (s.vec.fmt va)) va j) = lane j) :
    execUnary ok lat g t vd va m s = (laneWordOn s.vec t vd va m [⟨va, tagPlain (s.vec.tagOf va) && ok (s.vec.fmt va), true⟩]
      (lat (s.vec.fmt va)) (fmtTag (s.vec.fmt va)) lane).run s := by
  obtain rfl := funext h
  simp only [execUnary, map_lanes]
  rfl

theorem execShiftV_eq_run {g : Nat → Bool → Nat → Nat → Nat} {f : Int → Nat → Int}
    (h : ∀ w sg a b, (⟨g w sg a b, 0⟩ : Res) = wrap w (f (intVal w sg a) b)) :
    execShiftV g t vd va vb m s = (laneWordOn s.vec t vd va m
      [⟨va, tagPlain (s.vec.tagOf va) && isI (s.vec.fmt va), true⟩, ⟨vb, true, true⟩] 2 (fmtTag (s.vec.fmt va)) (fun j =>
        byFormat (s.vec.fmt va) (fun _ => ⟨0, 0⟩) (fun n val => wrap n
          (f (val (s.vec.lane (fmtWidth (s.vec.fmt va)) va j)) (s.vec.lane (fmtWidth (s.vec.fmt va)) vb j))))).run s := by
  cases hi : intOf? (s.vec.fmt va) with
  | none =>
    simp only [execShiftV, Vec.zipLanes_eq_map, hi, byFormat_eq_zero_of_not_int hi]
    rfl
  | some p =>
    obtain ⟨w, sg⟩ := p
    simp only [execShiftV, Vec.zipLanes_eq_map, hi, byFormat_of_int hi, h]
    rfl

theorem execVfma_eq_run : execVfma t vd va vb m s = (laneWordOn s.vec t vd va m
    ((useArith s.vec t vd va vb m).reads ++ [⟨vd, tagPlain (s.vec.tagOf vd) && s.vec.fmt vd = s.vec.fmt va, true⟩])
    (vlat (s.vec.fmt va)) (fmtTag (s.vec.fmt va)) (fun j =>
      let w := fmtWidth (s.vec.fmt va)
      byFormat (s.vec.fmt va) (fun g => fMac g (s.vec.lane w va j) (s.vec.lane w vb j) (s.vec.lane w vd j))
        (fun n val => wrap n (val (s.vec.lane w va j) * val (s.vec.lane w vb j) + val (s.vec.lane w vd j))))).run s := by
  simp only [execVfma, Vec.zipLanes_eq_map, arith_eq_byFormat _ _ (fun a b d => a * b + d)]
  rfl

theorem execVnarrow_eq_run {round : BitVec 2} {fmt : BitVec 4} {sat : Bool} :
    execVnarrow t vd va round m fmt sat s = LaneWord.run { laneWordOn s.vec t vd va m
      [⟨va, tagPlain (s.vec.tagOf va) &&
        (decide (s.vec.fmt va ≠ 0) && decide (fmtWidth fmt < fmtWidth (s.vec.fmt va))), true⟩] 3 (fmtTag fmt)
      (fun j => convert (s.vec.fmt va) fmt round sat (s.vec.lane (fmtWidth (s.vec.fmt va)) va j))
      with w' := fmtWidth fmt } s := by
  simp only [execVnarrow, map_lanes, Bool.and_assoc]
  rfl

/-- R225: VSEL takes vb's lane where VMOV would keep vd's. -/
theorem execVsel_eq_run : execVsel t vd va vb m s = LaneWord.run { laneWordOn s.vec t vd va m
    [⟨va, true, true⟩, ⟨vb, tagSame (s.vec.tagOf va) (s.vec.tagOf vb), true⟩] 2 (s.vec.tagOf va)
    (fun j => ⟨s.vec.lane (fmtWidth (s.vec.fmt va)) va j, 0⟩) with old := vb } s := by
  simp only [execVsel, map_lanes, LaneWord.run, LaneWord.result, laneWordOn, maskLanes_snd_of_no_flags]

end

section
variable {x : Vec} {c va vb : BitVec 4}

/-- R227: every lane is the one lane named. -/
theorem bcast_lanes (k : Nat) : (lanes c (x.reg va)).map (fun _ =>
      (⟨(lanes c (x.reg va)).getD (k % (lanes c (x.reg va)).length) 0, 0⟩ : Res)) =
    (List.range (512 / fmtWidth c)).map (fun _ => ⟨x.lane (fmtWidth c) va (k % (512 / fmtWidth c)), 0⟩) := by
  rw [length_lanes, lanes_getD (Nat.mod_lt _ (lane_count_pos c)), map_lanes]
  rfl

/-- R227: lane j is the lane of va that lane j of vb names. -/
theorem shuf_lanes : (lanes c (x.reg vb)).map (fun u =>
      (⟨(lanes c (x.reg va)).getD (u % (lanes c (x.reg va)).length) 0, 0⟩ : Res)) =
    (List.range (512 / fmtWidth c)).map (fun j =>
      ⟨x.lane (fmtWidth c) va (x.lane (fmtWidth c) vb j % (512 / fmtWidth c)), 0⟩) := by
  simp only [length_lanes, lanes_getD (Nat.mod_lt _ (lane_count_pos c)), map_lanes]
  rfl

/-- R227: lane j of the two registers in a row, from lane k on. -/
theorem slide_lanes {k : Nat} (hk : k < 512 / fmtWidth c) :
    ((((lanes c (x.reg va)) ++ lanes c (x.reg vb)).drop k).take (512 / fmtWidth c)).map (fun a => (⟨a, 0⟩ : Res)) =
    (List.range (512 / fmtWidth c)).map (fun j => ⟨if j + k < 512 / fmtWidth c then x.lane (fmtWidth c) va (j + k)
      else x.lane (fmtWidth c) vb (j + k - 512 / fmtWidth c), 0⟩) := by
  apply List.ext_getElem
  · simp
    omega
  · intro j _ _
    simp only [List.getElem_map, List.getElem_take, List.getElem_drop, List.getElem_range, List.getElem_append, lanes,
      Nat.add_comm k j, List.length_map, List.length_range]
    split <;> rfl

end

/-- Each lane-wise word is the one the statement reads off its instruction, and its result lanes are no wider than its source
lanes: VNARROW alone has others, narrower by its own check (R221). -/
theorem exec_eq_laneWord_run {i : Instr} {s : State} {L : LaneWord} (h : laneWord s.vec i = some L) (hc : s.VClear L.use) :
    exec i s = L.run s ∧ L.w' ≤ L.w := by
  cases i with
  | vmov =>
    obtain rfl := Option.some.inj h
    refine ⟨show execVmov .. = _ from execBits_eq_run ?_, le_rfl⟩
    exact map_lanes ..
  | vadd =>
    obtain rfl := Option.some.inj h
    exact ⟨show execVadd .. = _ from execArith_eq_run fun _ => arith_eq_byFormat _ _ (fun a b _ => a + b) .., le_rfl⟩
  | vsub =>
    obtain rfl := Option.some.inj h
    exact ⟨show execVsub .. = _ from execArith_eq_run fun _ => arith_eq_byFormat _ _ (fun a b _ => a - b) .., le_rfl⟩
  | vmul =>
    obtain rfl := Option.some.inj h
    exact ⟨show execVmul .. = _ from execArith_eq_run fun _ => arith_eq_byFormat _ _ (fun a b _ => a * b) .., le_rfl⟩
  | vmin =>
    obtain rfl := Option.some.inj h
    exact ⟨show execVmin .. = _ from execArith_eq_run fun _ => arith_eq_byFormat _ _ (fun a b _ => min a b) .., le_rfl⟩
  | vmax =>
    obtain rfl := Option.some.inj h
    exact ⟨show execVmax .. = _ from execArith_eq_run fun _ => arith_eq_byFormat _ _ (fun a b _ => max a b) .., le_rfl⟩
  | vfma =>
    obtain rfl := Option.some.inj h
    exact ⟨show execVfma .. = _ from execVfma_eq_run, le_rfl⟩
  | vabs =>
    obtain rfl := Option.some.inj h
    exact ⟨show execVabs .. = _ from execUnary_eq_run fun _ => absLane_eq_byFormat (hc.format_ok rfl) _, le_rfl⟩
  | vand =>
    obtain rfl := Option.some.inj h
    refine ⟨show execVand .. = _ from execBits_eq_run ?_, le_rfl⟩
    exact Vec.zipLanes_eq_map ..
  | vor =>
    obtain rfl := Option.some.inj h
    refine ⟨show execVor .. = _ from execBits_eq_run ?_, le_rfl⟩
    exact Vec.zipLanes_eq_map ..
  | vxor =>
    obtain rfl := Option.some.inj h
    refine ⟨show execVxor .. = _ from execBits_eq_run ?_, le_rfl⟩
    exact Vec.zipLanes_eq_map ..
  | vshl =>
    obtain rfl := Option.some.inj h
    exact ⟨show execVshl .. = _ from execShiftV_eq_run (f := fun a b => a * 2 ^ b) shl_lane_eq_wrap, le_rfl⟩
  | vshr =>
    obtain rfl := Option.some.inj h
    exact ⟨show execVshr .. = _ from execShiftV_eq_run (f := fun a b => a / 2 ^ b) shr_lane_eq_wrap, le_rfl⟩
  | vqshr =>
    obtain rfl := Option.some.inj h
    exact ⟨show execVqshr .. = _ from execUnary_eq_run fun _ => qshrLane_eq .., le_rfl⟩
  | vnarrow =>
    obtain rfl := Option.some.inj h
    have hnarrow := (Bool.and_eq_true_iff.1 (hc.format_ok rfl)).2
    exact ⟨show execVnarrow .. = _ from execVnarrow_eq_run, (of_decide_eq_true hnarrow).le⟩
  | vsel =>
    obtain rfl := Option.some.inj h
    exact ⟨show execVsel .. = _ from execVsel_eq_run, le_rfl⟩
  | vbcast =>
    obtain rfl := Option.some.inj h
    refine ⟨show execVbcast .. = _ from execBits_eq_run ?_, le_rfl⟩
    exact bcast_lanes _
  | vshuf =>
    obtain rfl := Option.some.inj h
    refine ⟨show execVshuf .. = _ from execBits_eq_run ?_, le_rfl⟩
    exact shuf_lanes
  | vslide =>
    obtain rfl := Option.some.inj h
    refine ⟨show execVslide .. = _ from execBits_eq_run ?_, le_rfl⟩
    simpa only [length_lanes] using slide_lanes (Nat.mod_lt _ (lane_count_pos _))
  | vexp2 =>
    obtain rfl := Option.some.inj h
    exact ⟨show execVexp2 .. = _ from execUnary_eq_run fun _ => floatLane_eq_byFormat .., le_rfl⟩
  | vrcp =>
    obtain rfl := Option.some.inj h
    exact ⟨show execVrcp .. = _ from execUnary_eq_run fun _ => floatLane_eq_byFormat .., le_rfl⟩
  | vrsq =>
    obtain rfl := Option.some.inj h
    exact ⟨show execVrsq .. = _ from execUnary_eq_run fun _ => floatLane_eq_byFormat .., le_rfl⟩
  | _ => cases h

/-- Settles O13: a lane-wise word is its gate, its issue and the lanes under its mask, packed and read back one by one. -/
theorem laneWordsDeliver : Obligations.LaneWordsDeliver := by
  intro i s L h hc
  obtain ⟨hexec, hwidth⟩ := exec_eq_laneWord_run h hc
  rw [hexec]
  exact LaneWord.run_delivers hc hwidth

end Sys2Proof.Machine

namespace Sys2Proof.Machine

/-! PROOFS. What a vector word does to the contexts of its node: predicates step at issue, and nowhere else. -/

/-! ## What a cause, an issue and a flight do to a node (R96, R103, R213) -/

theorem units_foldl {α : Type} {f : State → α → State} (hf : ∀ s x, (f s x).units = s.units) (l : List α) (s : State) :
    (l.foldl f s).units = s.units := by
  induction l generalizing s with
  | nil => rfl
  | cons x l ih => exact (ih _).trans (hf s x)

theorem State.countIssue_units (s : State) (u : UnitId) (slot num : Nat) : (s.countIssue u slot num).units = s.units := by
  refine (units_foldl (fun s e => ?_) _ _).trans (s.count_units u.region num 1)
  dsimp only
  split <;> rfl

/-- The contexts of an element are as before, and so is whether a word issued there in this cycle. -/
def EUnit.SameIssue (x y : EUnit) : Prop := y.ctx = x.ctx ∧ y.issued = x.issued

theorem State.unit_raise_setUnit (s : State) (u : UnitId) (x : EUnit) (k r : Nat) (c : Async) (v : Word) :
    (State.raise { s.setUnit u x with ticket := k } r c v).unit u = x := by
  rw [State.unit, State.raise_units]
  exact Map.get_set_same _ _ _ _

theorem State.issueFault_sameIssue (s : State) (ctx : BitVec 2) (f : IssueFault) :
    (s.unit s.site.unit).SameIssue ((s.issueFault ctx f).unit s.site.unit) := by
  unfold State.issueFault State.recordFault State.recordFaultOf
  dsimp only
  split
  · split <;> rw [State.unit_setUnit_same] <;> exact ⟨rfl, rfl⟩
  · rw [State.unit_raise_setUnit]
    exact ⟨rfl, rfl⟩

theorem State.fly_sameIssue (s : State) (u : UnitId) (tick : Nat) (ctx : BitVec 2) (slot lat : Nat) (l : Landing) :
    (s.unit u).SameIssue ((s.fly u tick ctx slot lat l).unit u) := by
  rw [State.fly, State.unit_modUnit_same]
  exact ⟨rfl, rfl⟩

theorem EUnit.context_modCtx (x : EUnit) (k : Nat) (f : Ctx → Ctx) (c : Nat) :
    (x.modCtx k f).context c = if c = k then f (x.context k) else x.context c := Map.get_set ..

theorem EUnit.context_of_ctx_eq {x y : EUnit} (h : y.ctx = x.ctx) (c : Nat) : y.context c = x.context c :=
  congrArg (fun m => Map.get m c ({} : Ctx)) h

theorem State.unit_issueV (s : State) (v : VUse) : (s.issueV v).unit s.site.unit =
    { (s.unit s.site.unit).modCtx v.trig.ctx.toNat (fun c => c.stepGuard v.trig) with
      vec := (s.unit s.site.unit).vec.pend v, issued := true, lastCtx := v.trig.ctx.toNat } := by
  rw [State.issueV, State.unit, State.stir_units, State.countIssue_units]
  exact Map.get_set_same ..

theorem State.issueV_issued (s : State) (v : VUse) : ((s.issueV v).unit s.site.unit).issued = true := by
  rw [State.unit_issueV]

theorem State.issueV_context (s : State) (v : VUse) (c : Nat) : ((s.issueV v).unit s.site.unit).context c =
    ((s.unit s.site.unit).modCtx v.trig.ctx.toNat (·.stepGuard v.trig)).context c := by
  rw [State.unit_issueV]
  rfl

/-! ## Issued or not (R213, R230) -/

/-- A V word went on: it waited or raised a cause, or it issued and `f` gave its context. -/
def State.VStep (s t : State) (g : Trig) (f : Ctx → Ctx) : Prop :=
  (s.unit s.site.unit).SameIssue (t.unit s.site.unit) ∨
    (t.unit s.site.unit).issued = true ∧
      ∀ c, (t.unit s.site.unit).context c = ((s.unit s.site.unit).modCtx g.ctx.toNat f).context c

section
variable {s t : State} {g : Trig} {f : Ctx → Ctx}

theorem State.VStep.of_waits (h : (.next s : Host.Outcome State Fault Refusal) = .next t) : s.VStep t g f := by
  obtain rfl := Host.Outcome.next.inj h
  exact .inl ⟨rfl, rfl⟩

theorem State.VStep.of_raises {ctx : BitVec 2} {e : IssueFault}
    (h : (.next (s.issueFault ctx e) : Host.Outcome State Fault Refusal) = .next t) : s.VStep t g f := by
  obtain rfl := Host.Outcome.next.inj h
  exact .inl (s.issueFault_sameIssue ..)

theorem State.VStep.of_issues (v : VUse) {w : State} (h : (.next w : Host.Outcome State Fault Refusal) = .next t)
    (hw : ((s.issueV v).unit s.site.unit).SameIssue (w.unit s.site.unit)) : s.VStep t v.trig (·.stepGuard v.trig) := by
  obtain rfl := Host.Outcome.next.inj h
  obtain ⟨hctx, hissued⟩ := hw
  exact .inr ⟨hissued.trans (s.issueV_issued v), fun c => (EUnit.context_of_ctx_eq hctx c).trans (s.issueV_context v c)⟩

theorem execV_step {v : VUse} {lat : Nat} {l : Landing} (h : execV v lat l s = .next t) :
    s.VStep t v.trig (·.stepGuard v.trig) := by
  unfold execV at h
  split at h
  · exact .of_waits h
  · exact .of_raises h
  · exact .of_issues v h (State.fly_sameIssue ..)

theorem execVtag_step {vd fmt : BitVec 4} {grp : BitVec 2} {side : Bool} (b : Bool) (h : execVtag g vd fmt grp b side s = .next t) :
    s.VStep t g (·.stepGuard g) := by
  unfold execVtag at h
  dsimp only at h
  split at h
  · exact .of_waits h
  · exact .of_raises h
  · exact .of_issues { trig := g, writes := [vd] } h (State.fly_sameIssue ..)

theorem execVldr_step {vd ring : BitVec 4} {pop : Bool} (h : execVldr g vd ring pop s = .next t) :
    s.VStep t g (·.stepGuard g) := by
  unfold execVldr at h
  dsimp only at h
  split at h
  · exact .of_waits h
  · exact .of_raises h
  · split at h
    · exact .of_waits h
    · refine .of_issues { trig := g, writes := [vd] } h ?_
      rw [State.fly, State.unit_modUnit_same]
      exact ⟨rfl, rfl⟩

theorem execVstr_step {va ring : BitVec 4} {commit : Bool} (h : execVstr g va ring commit s = .next t) :
    s.VStep t g (·.stepGuard g) := by
  unfold execVstr at h
  dsimp only at h
  split at h
  · exact .of_waits h
  · exact .of_raises h
  · split at h
    · exact .of_waits h
    · refine .of_issues { trig := g, reads := [⟨va, true, false⟩] } h ?_
      rw [State.fly, State.unit_modUnit_same]
      exact ⟨rfl, rfl⟩

theorem execVlds_step {vd : BitVec 4} {i : BitVec 2} (h : execVlds g vd i s = .next t) : s.VStep t g (·.stepGuard g) := by
  unfold execVlds at h
  dsimp only at h
  split at h
  · exact .of_waits h
  · exact .of_raises h
  · refine .of_issues { trig := g, writes := [vd] } h ?_
    rw [State.unit_modUnit_same]
    exact ⟨rfl, rfl⟩
  · exact .of_waits h

theorem execVsts_step {va : BitVec 4} {o : BitVec 2} (h : execVsts g va o s = .next t) : s.VStep t g (·.stepGuard g) := by
  unfold execVsts at h
  dsimp only at h
  split at h
  · exact .of_waits h
  · exact .of_raises h
  · refine .of_issues { trig := g, reads := [⟨va, true, false⟩] } h ?_
    rw [State.unit_modUnit_same]
    exact ⟨rfl, rfl⟩

/-- What the issue of VSETP makes of its context: the guard's step, and then its own predicate. -/
def Ctx.setp (g : Trig) (j : BitVec 3) (c : Ctx) : Ctx :=
  { c.stepGuard g with p := setBit (c.stepGuard g).p j.toNat true }

theorem execVsetp_step {j : BitVec 3} (h : execVsetp g j s = .next t) : s.VStep t g (Ctx.setp g j) := by
  unfold execVsetp at h
  split at h
  · exact .of_waits h
  · exact .of_raises h
  · obtain rfl := Host.Outcome.next.inj h
    obtain ⟨hctx, hissued⟩ := State.fly_sameIssue ((s.issueV { trig := g }).modUnit s.site.unit (fun x =>
        x.modCtx g.ctx.toNat (fun c => { c with p := setBit c.p j.toNat true }))) s.site.unit s.ticket g.ctx s.site.slot 1 {}
    rw [State.unit_modUnit_same] at hctx hissued
    refine .inr ⟨hissued.trans (s.issueV_issued _), fun c => (EUnit.context_of_ctx_eq hctx c).trans ?_⟩
    simp only [EUnit.context_modCtx, State.issueV_context]
    split <;> rfl

end

/-- R213, R230: VSETP alone does more to its context than the guard's step. -/
theorem exec_vector_step {i : Instr} {g : Trig} {s t : State} (hi : i.vtrig = some g) (h : exec i s = .next t) :
    (∃ j, i = .vsetp g j ∧ s.VStep t g (Ctx.setp g j)) ∨ (∀ j, i ≠ .vsetp g j) ∧ s.VStep t g (·.stepGuard g) := by
  cases i with
  | vsetp _ j =>
    obtain rfl := Option.some.inj hi
    exact .inl ⟨j, rfl, execVsetp_step h⟩
  | vtag t vd fmt grp bit1 side =>
    obtain rfl := Option.some.inj hi
    exact .inr ⟨nofun, execVtag_step bit1 h⟩
  | vldr =>
    obtain rfl := Option.some.inj hi
    exact .inr ⟨nofun, execVldr_step h⟩
  | vstr =>
    obtain rfl := Option.some.inj hi
    exact .inr ⟨nofun, execVstr_step h⟩
  | vlds =>
    obtain rfl := Option.some.inj hi
    exact .inr ⟨nofun, execVlds_step h⟩
  | vsts =>
    obtain rfl := Option.some.inj hi
    exact .inr ⟨nofun, execVsts_step h⟩
  | vmov | vadd | vsub | vmul | vmin | vmax | vfma | vabs | vand | vor | vxor | vshl | vshr | vqshr | vnarrow | vwiden | vwmac
  | vcmpeq | vcmplt | vcmple | vsel | vredadd | vredmax | vbcast | vshuf | vslide | vexp2 | vrcp | vrsq =>
    obtain rfl := Option.some.inj hi
    exact .inr ⟨nofun, execV_step h⟩
  | _ => cases hi

/-! ## Predicates bit by bit (R213) -/

theorem getLsbD_setBit {n : Nat} (v : BitVec n) (b : Bool) {i k : Nat} (hk : k < n) :
    (setBit v i b).getLsbD k = if k = i then b else v.getLsbD k := by
  by_cases h : k = i
  · subst h
    cases b <;> simp [setBit, hk]
  · cases b <;> simp [setBit, hk, h]

theorem Ctx.stepGuard_of_idle (c : Ctx) {g : Trig} (h : ¬(g.req = true ∧ g.pred ≠ 7)) : c.stepGuard g = c := by
  rw [Ctx.stepGuard, if_neg (by simpa using h)]

theorem Ctx.stepGuard_p_of_last (c : Ctx) {g : Trig} (hreq : g.req = true) (h6 : g.pred = 6) :
    (c.stepGuard g).p = setBit c.p g.pred.toNat false := by
  simp [Ctx.stepGuard, hreq, h6]

theorem Ctx.stepGuard_p_of_next (c : Ctx) {g : Trig} (hreq : g.req = true) (h7 : g.pred ≠ 7) (h6 : g.pred ≠ 6) :
    (c.stepGuard g).p = setBit (setBit c.p g.pred.toNat false) (g.pred.toNat + 1) true := by
  have hgo : (g.req && decide (g.pred ≠ 7)) = true := Bool.and_eq_true_iff.2 ⟨hreq, decide_eq_true h7⟩
  rw [Ctx.stepGuard, if_pos hgo]
  dsimp only
  rw [if_neg h6]

theorem getLsbD_stepGuard (c : Ctx) (g : Trig) {j : BitVec 3} (hj : j ≠ 7) : (c.stepGuard g).p.getLsbD j.toNat =
    if g.pred ≠ 7 ∧ g.req = true ∧ j = g.pred then false
    else if g.pred ≠ 7 ∧ g.req = true ∧ j = g.pred + 1 then true
    else c.p.getLsbD j.toNat := by
  have hj8 : j.toNat < 8 := j.isLt
  have hself : j.toNat = g.pred.toNat ↔ j = g.pred := BitVec.toNat_inj
  by_cases hreq : g.req = true
  · by_cases h7 : g.pred = 7
    · rw [c.stepGuard_of_idle (by simp [h7])]
      rw [if_neg fun h => h.1 h7, if_neg fun h => h.1 h7]
    · by_cases h6 : g.pred = 6
      · have hlast : j ≠ g.pred + 1 := h6 ▸ hj
        simp only [c.stepGuard_p_of_last hreq h6, getLsbD_setBit _ _ hj8, hself, hreq, h7, hlast, ne_eq, not_false_eq_true,
          true_and, if_false]
      · have hnext : j.toNat = g.pred.toNat + 1 ↔ j = g.pred + 1 := by bv_omega
        simp only [c.stepGuard_p_of_next hreq h7 h6, getLsbD_setBit _ _ hj8, hself, hnext, hreq, h7, ne_eq, not_false_eq_true,
          true_and]
        by_cases h : j = g.pred
        · have hne : j ≠ g.pred + 1 := by bv_omega
          rw [if_neg hne, if_pos h, if_pos h]
        · rw [if_neg h, if_neg h]
  · rw [c.stepGuard_of_idle (by simp [hreq])]
    rw [if_neg fun h => hreq h.2.1, if_neg fun h => hreq h.2.1]

@[simp] theorem Ctx.stepGuard_x (c : Ctx) (g : Trig) : (c.stepGuard g).x = c.x := by
  unfold Ctx.stepGuard
  split
  · dsimp only
    split <;> rfl
  · rfl

@[simp] theorem Ctx.stepGuard_pendP (c : Ctx) (g : Trig) : (c.stepGuard g).pendP = c.pendP := by
  unfold Ctx.stepGuard
  split
  · dsimp only
    split <;> rfl
  · rfl

/-- The shape that R213 asks for, for any change `f` of a context that leaves registers and pending bits alone. -/
theorem State.VStep.predicates {s t : State} {g : Trig} {f : Ctx → Ctx} (h : s.VStep t g f)
    (hfresh : (s.unit s.site.unit).issued = false) (hx : ∀ c, (f c).x = c.x) (hp : ∀ c, (f c).pendP = c.pendP) :
    let u := s.site.unit
    let old := (s.unit u).context g.ctx.toNat
    let new := (t.unit u).context g.ctx.toNat
    new.pendP = old.pendP ∧ (∀ c, c ≠ g.ctx.toNat → (t.unit u).context c = (s.unit u).context c) ∧ new.x = old.x ∧
      ((t.unit u).issued = false → new.p = old.p) ∧ ((t.unit u).issued = true → new.p = (f old).p) := by
  dsimp only
  obtain ⟨hctx, hissued⟩ | ⟨hissued, hctx⟩ := h
  · have hsame := EUnit.context_of_ctx_eq hctx
    simp [hsame, hissued, hfresh]
  · have hown : (t.unit s.site.unit).context g.ctx.toNat = f ((s.unit s.site.unit).context g.ctx.toNat) := by
      rw [hctx, EUnit.context_modCtx, if_pos rfl]
    refine ⟨by rw [hown, hp], fun c hc => ?_, by rw [hown, hx], fun hnot => ?_, fun _ => by rw [hown]⟩
    · rw [hctx, EUnit.context_modCtx, if_neg hc]
    · simp [hissued] at hnot

/-- Settles O15: a V word waits, raises a cause or issues, and issue alone steps its context, by the guard and then by VSETP. -/
theorem predicatesStepAtIssue : Obligations.PredicatesStepAtIssue := by
  intro i g s t hi hfresh h
  obtain ⟨k, rfl, hstep⟩ | ⟨hik, hstep⟩ := exec_vector_step hi h
  · obtain ⟨pendP, others, x, waits, issues⟩ := hstep.predicates hfresh (Ctx.stepGuard_x · g) (Ctx.stepGuard_pendP · g)
    refine ⟨pendP, others, x, waits, fun hissued j hj => ?_⟩
    have hset : (Instr.vsetp g k = .vsetp g j) ↔ j.toNat = k.toNat := by
      rw [BitVec.toNat_inj]
      simp [eq_comm]
    rw [issues hissued, Ctx.setp, getLsbD_setBit _ _ j.isLt, getLsbD_stepGuard _ _ hj]
    simp only [hset]
  · obtain ⟨pendP, others, x, waits, issues⟩ := hstep.predicates hfresh (Ctx.stepGuard_x · g) (Ctx.stepGuard_pendP · g)
    refine ⟨pendP, others, x, waits, fun hissued j hj => ?_⟩
    rw [issues hissued, getLsbD_stepGuard _ _ hj, if_neg (hik j)]

end Sys2Proof.Machine

namespace Sys2Proof
-- Proofs are elaborated one after another: side by side they need more memory than a check gives.
set_option Elab.async false

/-! PROOFS. Encoding and decoding (R73-R92): the fields of each layout, the selectors, and the words of the four classes. -/

/-! ## Fields of the layouts (R78, R85, R87, R89) -/

theorem fld_of_bits {w : BitVec 32} {lo n : Nat} {x : BitVec n} (h : ∀ i, i < n → w.getLsbD (lo + i) = x.getLsbD i) :
    fld w lo n = x :=
  BitVec.eq_of_getLsbD_eq fun i hi => by simpa [fld, hi] using h i hi

theorem trigOf_of_bits {w : BitVec 32} {t : Trig} (h : fld w 26 6 = t.bits) : trigOf w = t := by
  have bit (i : Nat) (hi : i < 6) : w.getLsbD (26 + i) = t.bits.getLsbD i := by
    rw [← h, fld, BitVec.getLsbD_extractLsb']; simp [hi]
  have hctx : fld w 30 2 = t.ctx := fld_of_bits fun i hi => by
    rw [show 30 + i = 26 + (4 + i) by omega, bit _ (by omega)]
    simp only [Trig.bits, BitVec.getLsbD_append]; grind
  have hpred : fld w 27 3 = t.pred := fld_of_bits fun i hi => by
    rw [show 27 + i = 26 + (1 + i) by omega, bit _ (by omega)]
    simp only [Trig.bits, BitVec.getLsbD_append]; grind
  have hreq : w.getLsbD 26 = t.req := by
    rw [show 26 = 26 + 0 by omega, bit 0 (by omega)]
    simp only [Trig.bits, BitVec.getLsbD_append]; simp
  rw [trigOf, hctx, hpred, hreq]

section
variable (t : Trig) (op : BitVec 7) (d a b : BitVec 5) (pw : BitVec 4)

@[simp] theorem trigOf_encER : trigOf (encER t op d a b pw) = t :=
  trigOf_of_bits (fld_of_bits fun i hi => by simp only [encER, BitVec.getLsbD_append]; grind)

@[simp] theorem opE_encER : opE (encER t op d a b pw) = op.toNat := by
  rw [opE, show fld (encER t op d a b pw) 19 7 = op from
    fld_of_bits fun i hi => by simp only [encER, BitVec.getLsbD_append]; grind]

/-- A field inside the d field. -/
@[simp] theorem fld_encER_d (lo n : Nat) (hlo : 14 ≤ lo := by decide) (hn : lo + n ≤ 19 := by decide) :
    fld (encER t op d a b pw) lo n = d.extractLsb' (lo - 14) n :=
  fld_of_bits fun i hi => by simp only [encER, BitVec.getLsbD_append, BitVec.getLsbD_extractLsb']; grind

/-- A field inside the a field. -/
@[simp] theorem fld_encER_a (lo n : Nat) (hlo : 9 ≤ lo := by decide) (hn : lo + n ≤ 14 := by decide) :
    fld (encER t op d a b pw) lo n = a.extractLsb' (lo - 9) n :=
  fld_of_bits fun i hi => by simp only [encER, BitVec.getLsbD_append, BitVec.getLsbD_extractLsb']; grind

/-- A field inside the b field. -/
@[simp] theorem fld_encER_b (lo n : Nat) (hlo : 4 ≤ lo := by decide) (hn : lo + n ≤ 9 := by decide) :
    fld (encER t op d a b pw) lo n = b.extractLsb' (lo - 4) n :=
  fld_of_bits fun i hi => by simp only [encER, BitVec.getLsbD_append, BitVec.getLsbD_extractLsb']; grind

/-- A field inside the pw field. -/
@[simp] theorem fld_encER_pw (lo n : Nat) (hn : lo + n ≤ 4 := by decide) :
    fld (encER t op d a b pw) lo n = pw.extractLsb' lo n :=
  fld_of_bits fun i hi => by simp only [encER, BitVec.getLsbD_append, BitVec.getLsbD_extractLsb']; grind

@[simp] theorem getElem_encER_pw (i : Nat) (hi : i < 4) (h : i < 32) : (encER t op d a b pw)[i] = pw[i] := by
  simp only [← BitVec.getLsbD_eq_getElem, encER, BitVec.getLsbD_append]; grind

@[simp] theorem getElem_encER_b (i : Nat) (hlo : 4 ≤ i) (hi : i - 4 < 5) (h : i < 32) :
    (encER t op d a b pw)[i] = b[i - 4] := by
  simp only [← BitVec.getLsbD_eq_getElem, encER, BitVec.getLsbD_append]; grind

variable (imm : BitVec 9)

/-- EI is ER with the immediate over the b and pw fields. -/
theorem encEI_eq_encER : encEI t op d a imm = encER t op d a (imm.extractLsb' 4 5) (imm.extractLsb' 0 4) :=
  BitVec.eq_of_getLsbD_eq fun i hi => by
    simp only [encEI, encER, BitVec.getLsbD_append, BitVec.getLsbD_extractLsb']; grind

@[simp] theorem trigOf_encEI : trigOf (encEI t op d a imm) = t := by rw [encEI_eq_encER, trigOf_encER]
@[simp] theorem opE_encEI : opE (encEI t op d a imm) = op.toNat := by rw [encEI_eq_encER, opE_encER]
@[simp] theorem fld_encEI_d (lo n : Nat) (hlo : 14 ≤ lo := by decide) (hn : lo + n ≤ 19 := by decide) :
    fld (encEI t op d a imm) lo n = d.extractLsb' (lo - 14) n := by rw [encEI_eq_encER, fld_encER_d _ _ _ _ _ _ _ _ hlo hn]
@[simp] theorem fld_encEI_a (lo n : Nat) (hlo : 9 ≤ lo := by decide) (hn : lo + n ≤ 14 := by decide) :
    fld (encEI t op d a imm) lo n = a.extractLsb' (lo - 9) n := by rw [encEI_eq_encER, fld_encER_a _ _ _ _ _ _ _ _ hlo hn]
@[simp] theorem fld_encEI_imm (lo n : Nat) (hn : lo + n ≤ 9 := by decide) :
    fld (encEI t op d a imm) lo n = imm.extractLsb' lo n :=
  fld_of_bits fun i hi => by simp only [encEI, BitVec.getLsbD_append, BitVec.getLsbD_extractLsb']; grind

variable (lit : BitVec 14)

/-- EL is ER with the immediate over the a, b and pw fields. -/
theorem encEL_eq_encER :
    encEL t op d lit = encER t op d (lit.extractLsb' 9 5) (lit.extractLsb' 4 5) (lit.extractLsb' 0 4) :=
  BitVec.eq_of_getLsbD_eq fun i hi => by
    simp only [encEL, encER, BitVec.getLsbD_append, BitVec.getLsbD_extractLsb']; grind

@[simp] theorem trigOf_encEL : trigOf (encEL t op d lit) = t := by rw [encEL_eq_encER, trigOf_encER]
@[simp] theorem opE_encEL : opE (encEL t op d lit) = op.toNat := by rw [encEL_eq_encER, opE_encER]
@[simp] theorem fld_encEL_d : fld (encEL t op d lit) 14 5 = d := by
  rw [encEL_eq_encER, fld_encER_d _ _ _ _ _ _ 14 5, Nat.sub_self, BitVec.extractLsb'_eq_self]
@[simp] theorem fld_encEL_lit : fld (encEL t op d lit) 0 14 = lit :=
  fld_of_bits fun i hi => by simp only [encEL, BitVec.getLsbD_append]; grind

end

section
variable (t : Trig) (op : BitVec 6) (vd va vb : BitVec 4) (m : BitVec 3) (md : BitVec 5)

@[simp] theorem trigOf_encV : trigOf (encV t op vd va vb m md) = t :=
  trigOf_of_bits (fld_of_bits fun i hi => by simp only [encV, BitVec.getLsbD_append]; grind)
@[simp] theorem fld_encV_op : fld (encV t op vd va vb m md) 20 6 = op :=
  fld_of_bits fun i hi => by simp only [encV, BitVec.getLsbD_append]; grind
/-- A field inside the vd field. -/
@[simp] theorem fld_encV_vd (lo n : Nat) (hlo : 16 ≤ lo := by decide) (hn : lo + n ≤ 20 := by decide) :
    fld (encV t op vd va vb m md) lo n = vd.extractLsb' (lo - 16) n :=
  fld_of_bits fun i hi => by simp only [encV, BitVec.getLsbD_append, BitVec.getLsbD_extractLsb']; grind
@[simp] theorem fld_encV_va : fld (encV t op vd va vb m md) 12 4 = va :=
  fld_of_bits fun i hi => by simp only [encV, BitVec.getLsbD_append]; grind
/-- A field inside the vb field. -/
@[simp] theorem fld_encV_vb (lo n : Nat) (hlo : 8 ≤ lo := by decide) (hn : lo + n ≤ 12 := by decide) :
    fld (encV t op vd va vb m md) lo n = vb.extractLsb' (lo - 8) n :=
  fld_of_bits fun i hi => by simp only [encV, BitVec.getLsbD_append, BitVec.getLsbD_extractLsb']; grind
@[simp] theorem fld_encV_m : fld (encV t op vd va vb m md) 5 3 = m :=
  fld_of_bits fun i hi => by simp only [encV, BitVec.getLsbD_append]; grind
/-- A field inside the mode field. -/
@[simp] theorem fld_encV_md (lo n : Nat) (hn : lo + n ≤ 5 := by decide) :
    fld (encV t op vd va vb m md) lo n = md.extractLsb' lo n :=
  fld_of_bits fun i hi => by simp only [encV, BitVec.getLsbD_append, BitVec.getLsbD_extractLsb']; grind
@[simp] theorem getElem_encV_md (i : Nat) (hi : i < 5) (h : i < 32) : (encV t op vd va vb m md)[i] = md[i] := by
  simp only [← BitVec.getLsbD_eq_getElem, encV, BitVec.getLsbD_append]; grind
@[simp] theorem getElem_encV_vb (i : Nat) (hlo : 8 ≤ i) (hi : i - 8 < 4) (h : i < 32) :
    (encV t op vd va vb m md)[i] = vb[i - 8] := by
  simp only [← BitVec.getLsbD_eq_getElem, encV, BitVec.getLsbD_append]; grind

/-- Where registers and mask are 0, so is every field below vd that ends under the mode field. -/
@[simp] theorem fld_encV_gap (lo n : Nat) (hn : lo + n ≤ 16 := by decide) :
    fld (encV t op vd 0#4 0#4 0#3 md) lo n = (md.setWidth 16).extractLsb' lo n :=
  fld_of_bits fun i hi => by
    simp only [encV, BitVec.getLsbD_append, BitVec.getLsbD_extractLsb', BitVec.getLsbD_setWidth]; grind
@[simp] theorem fld_encV_gap_va (lo n : Nat) (hn : lo + n ≤ 12 := by decide) :
    fld (encV t op vd va 0#4 0#3 md) lo n = (md.setWidth 12).extractLsb' lo n :=
  fld_of_bits fun i hi => by
    simp only [encV, BitVec.getLsbD_append, BitVec.getLsbD_extractLsb', BitVec.getLsbD_setWidth]; grind
@[simp] theorem fld_encV_low : fld (encV t op vd va vb 0#3 0#5) 0 8 = 0 :=
  fld_of_bits fun i hi => by simp only [encV, BitVec.getLsbD_append]; grind

end

section
variable (op : BitVec 6) (d a b : BitVec 5) (fn : BitVec 11)

@[simp] theorem fld_encCR_op : fld (encCR op d a b fn) 26 6 = op :=
  fld_of_bits fun i hi => by simp only [encCR, BitVec.getLsbD_append]; grind
/-- A field inside the d field. -/
@[simp] theorem fld_encCR_d (lo n : Nat) (hlo : 21 ≤ lo := by decide) (hn : lo + n ≤ 26 := by decide) :
    fld (encCR op d a b fn) lo n = d.extractLsb' (lo - 21) n :=
  fld_of_bits fun i hi => by simp only [encCR, BitVec.getLsbD_append, BitVec.getLsbD_extractLsb']; grind
@[simp] theorem fld_encCR_a : fld (encCR op d a b fn) 16 5 = a :=
  fld_of_bits fun i hi => by simp only [encCR, BitVec.getLsbD_append]; grind
@[simp] theorem fld_encCR_b : fld (encCR op d a b fn) 11 5 = b :=
  fld_of_bits fun i hi => by simp only [encCR, BitVec.getLsbD_append]; grind
/-- A field inside the fn field. -/
@[simp] theorem fld_encCR_fn (lo n : Nat) (h : lo + n ≤ 11 := by decide) : fld (encCR op d a b fn) lo n = fn.extractLsb' lo n :=
  fld_of_bits fun i hi => by simp only [encCR, BitVec.getLsbD_append, BitVec.getLsbD_extractLsb']; grind
@[simp] theorem getElem_encCR_fn (i : Nat) (hi : i < 11) (h : i < 32) : (encCR op d a b fn)[i] = fn[i] := by
  simp only [← BitVec.getLsbD_eq_getElem, encCR, BitVec.getLsbD_append]; grind

variable (imm : BitVec 16) (off : BitVec 26)

@[simp] theorem fld_encCI_op : fld (encCI op d a imm) 26 6 = op :=
  fld_of_bits fun i hi => by simp only [encCI, BitVec.getLsbD_append]; grind
@[simp] theorem fld_encCI_d : fld (encCI op d a imm) 21 5 = d :=
  fld_of_bits fun i hi => by simp only [encCI, BitVec.getLsbD_append]; grind
@[simp] theorem fld_encCI_a : fld (encCI op d a imm) 16 5 = a :=
  fld_of_bits fun i hi => by simp only [encCI, BitVec.getLsbD_append]; grind
/-- A field inside the immediate. -/
@[simp] theorem fld_encCI_imm (lo n : Nat) (h : lo + n ≤ 16 := by decide) :
    fld (encCI op d a imm) lo n = imm.extractLsb' lo n :=
  fld_of_bits fun i hi => by simp only [encCI, BitVec.getLsbD_append, BitVec.getLsbD_extractLsb']; grind
@[simp] theorem fld_encCJ_op : fld (encCJ op off) 26 6 = op :=
  fld_of_bits fun i hi => by simp only [encCJ, BitVec.getLsbD_append]; grind
@[simp] theorem fld_encCJ_off : fld (encCJ op off) 0 26 = off :=
  fld_of_bits fun i hi => by simp only [encCJ, BitVec.getLsbD_append]; grind

end


/-! ## Selectors (R35, R36, R38, R82) -/

@[simp] theorem srcOf_bits (a : Src) : srcOf a.bits = .ok a := by
  cases a with
  | x r | take r | keep r => revert r; decide
  | _ => rfl

@[simp] theorem dstOf_bits (d : Dst) : dstOf d.bits = .ok d := by
  cases d with
  | x r | out r | both r => revert r; decide
  | _ => rfl

@[simp] theorem regDstOf_bits (d : RegDst) : regDstOf d.bits = .ok d := by
  obtain ⟨r, copy⟩ := d
  revert r copy; decide

@[simp] theorem takeOf_bits (i : BitVec 3) : takeOf (1#2 ++ i) = .ok i := by revert i; decide
@[simp] theorem regOf_bits (r : BitVec 3) : regOf (0#2 ++ r) = .ok r := by revert r; decide

/-- The pw field reads back where it writes no p7 (R79). -/
theorem predOf_bits {p : PredW} (h : p.pred?.all (· ≠ 7) = true) : predOf p.bits = .ok p := by
  match p, h with
  | .none, _ => rfl
  | .to j, h => revert j; decide

@[simp] theorem scopeOf_bits (s : Scope) : scopeOf s.bits = .ok s := by cases s <;> rfl
@[simp] theorem orderOf_bits (o : MemOrder) : orderOf o.bits = .ok o := by
  cases o with
  | plain => rfl
  | ordered s => cases s <;> rfl
@[simp] theorem stampOf_bits (sys : Bool) : stampOf (0#1 ++ stampBits sys) = .ok sys := by cases sys <;> rfl
@[simp] theorem widthOf_bits (n : Width) : widthOf n.bits = n := by cases n <;> rfl
@[simp] theorem extOf_bits (n : ExtWidth) : extOf n.bits = .ok n := by cases n <;> rfl

@[simp] theorem must_true : must true = .ok () := rfl
@[simp] theorem unusedSel_24 : unusedSel 24#5 = .ok () := rfl
theorem checked_of_wf {i : Instr} (h : i.wf = true) : checked i = .ok i := if_pos h

/-- A step of a decoder that succeeds goes on with its value. -/
@[simp] theorem Except.bind_of_ok {ε α β : Type} (x : α) (f : α → Except ε β) : (Except.ok x >>= f) = f x := rfl

theorem wf_pred {i : Instr} {v : EView} (hv : i.eview = some v) (h : i.wf = true) : v.predDst.all (· ≠ 7) = true := by
  unfold Instr.wf at h
  rw [hv, Bool.and_eq_true, Bool.and_eq_true] at h
  exact h.2.2

/-! ## E words (R78-R84) -/

section
variable {op : BitVec 7} {t : Trig} {d : Dst} {rd : RegDst} {a b : Src} {p : PredW}

theorem decodeE_er2 {mk : Trig → Dst → Src → Src → PredW → Instr} (hop : ∀ w, opE w = op.toNat → decodeE w = er2 mk w)
    (hv : (mk t d a b p).eview = some (.std t d [a, b] p)) (h : (mk t d a b p).wf = true) :
    decodeE (encER t op d.bits a.bits b.bits p.bits) = .ok (mk t d a b p) := by
  simp [hop _ (opE_encER ..), er2, predOf_bits (wf_pred hv h), checked_of_wf h]

theorem decodeE_er1 {mk : Trig → Dst → Src → PredW → Instr} (hop : ∀ w, opE w = op.toNat → decodeE w = er1 mk w)
    (hv : (mk t d a p).eview = some (.std t d [a] p)) (h : (mk t d a p).wf = true) :
    decodeE (encER t op d.bits a.bits 24 p.bits) = .ok (mk t d a p) := by
  simp [hop _ (opE_encER ..), er1, predOf_bits (wf_pred hv h), checked_of_wf h]

theorem decodeE_erm {mk : Trig → RegDst → Src → Src → PredW → Instr} (hop : ∀ w, opE w = op.toNat → decodeE w = erm mk w)
    (hv : (mk t rd a b p).eview = some (.rmw t rd [a, b] p)) (h : (mk t rd a b p).wf = true) :
    decodeE (encER t op rd.bits a.bits b.bits p.bits) = .ok (mk t rd a b p) := by
  simp [hop _ (opE_encER ..), erm, predOf_bits (wf_pred hv h), checked_of_wf h]

theorem decodeE_er2z {mk : Trig → Dst → Src → Src → Instr} (hop : ∀ w, opE w = op.toNat → decodeE w = er2z mk w)
    (h : (mk t d a b).wf = true) : decodeE (encER t op d.bits a.bits b.bits 0) = .ok (mk t d a b) := by
  simp [hop _ (opE_encER ..), er2z, checked_of_wf h]

theorem decodeE_erOrd {mk : Trig → Dst → Src → Src → MemOrder → Instr} {o : MemOrder}
    (hop : ∀ w, opE w = op.toNat → decodeE w = erOrd mk w) (h : (mk t d a b o).wf = true) :
    decodeE (encER t op d.bits a.bits b.bits o.bits) = .ok (mk t d a b o) := by
  simp [hop _ (opE_encER ..), erOrd, checked_of_wf h]

theorem decodeE_erStamp {mk : Trig → Dst → Src → Src → Bool → Instr} {sys : Bool}
    (hop : ∀ w, opE w = op.toNat → decodeE w = erStamp mk w) (h : (mk t d a b sys).wf = true) :
    decodeE (encER t op d.bits a.bits b.bits (0#1 ++ stampBits sys)) = .ok (mk t d a b sys) := by
  simp [hop _ (opE_encER ..), erStamp, checked_of_wf h]

theorem decodeE_erExt {mk : Trig → Dst → Src → ExtWidth → PredW → Instr} {n : ExtWidth}
    (hop : ∀ w, opE w = op.toNat → decodeE w = erExt mk w)
    (hv : (mk t d a n p).eview = some (.std t d [a] p)) (h : (mk t d a n p).wf = true) :
    decodeE (encER t op d.bits a.bits n.bits p.bits) = .ok (mk t d a n p) := by
  simp [hop _ (opE_encER ..), erExt, predOf_bits (wf_pred hv h), checked_of_wf h]

theorem decodeE_erCvt {mk : Trig → Dst → Src → BitVec 4 → BitVec 4 → Bool → Instr} {f g : BitVec 4} {sat : Bool}
    (hop : ∀ w, opE w = op.toNat → decodeE w = erCvt mk w) (h : (mk t d a f g sat).wf = true) :
    decodeE (encER t op d.bits a.bits (BitVec.ofBool sat ++ g) f) = .ok (mk t d a f g sat) := by
  have hg : (BitVec.ofBool sat ++ g).extractLsb' 0 4 = g := BitVec.extractLsb'_append_eq_right
  have hsat : (BitVec.ofBool sat ++ g)[4] = sat := by rw [BitVec.getElem_append]; cases sat <;> rfl
  simp [hop _ (opE_encER ..), erCvt, hg, hsat, checked_of_wf h]

theorem decodeE_ei {mk : Trig → Dst → Src → BitVec 9 → Instr} {m : BitVec 9} (hop : ∀ w, opE w = op.toNat → decodeE w = ei mk w)
    (h : (mk t d a m).wf = true) : decodeE (encEI t op d.bits a.bits m) = .ok (mk t d a m) := by
  simp [hop _ (opE_encEI ..), ei, checked_of_wf h]

theorem decodeE_eiShift {mk : Trig → Dst → Src → BitVec 6 → Instr} {c : BitVec 6}
    (hop : ∀ w, opE w = op.toNat → decodeE w = eiShift mk w) (h : (mk t d a c).wf = true) :
    decodeE (encEI t op d.bits a.bits (0#3 ++ c)) = .ok (mk t d a c) := by
  have hhi : (0#3 ++ c).extractLsb' 6 3 = 0 := BitVec.extractLsb'_append_eq_left
  have hlo : (0#3 ++ c).extractLsb' 0 6 = c := BitVec.extractLsb'_append_eq_right
  simp [hop _ (opE_encEI ..), eiShift, hhi, hlo, checked_of_wf h]

theorem decodeE_eiPred {mk : Trig → BitVec 3 → Src → BitVec 9 → Instr} {j : BitVec 3} {m : BitVec 9}
    (hop : ∀ w, opE w = op.toNat → decodeE w = eiPred mk w) (h : (mk t j a m).wf = true) :
    decodeE (encEI t op (0#2 ++ j) a.bits m) = .ok (mk t j a m) := by
  have hhi : (0#2 ++ j).extractLsb' 3 2 = 0 := BitVec.extractLsb'_append_eq_left
  have hlo : (0#2 ++ j).extractLsb' 0 3 = j := BitVec.extractLsb'_append_eq_right
  simp [hop _ (opE_encEI ..), eiPred, hhi, hlo, checked_of_wf h]

end

theorem toE (x : BitVec 32) : (x.setWidth 64).setWidth 32 = x := by simp

/-! Words with a layout of their own. -/

section
variable {t : Trig} {d : Dst} {rd : RegDst} {a b : Src} {p : PredW} {o : BitVec 2}

theorem decodeE_movi {m} (h : (Instr.movi t d m).wf = true) : decodeE (encEL t 0x2C d.bits m) = .ok (.movi t d m) := by
  simp [decodeE, checked_of_wf h]

theorem decodeE_shin {m} (h : (Instr.shin t rd m).wf = true) : decodeE (encEL t 0x2D rd.bits m) = .ok (.shin t rd m) := by
  simp [decodeE, checked_of_wf h]

/-- The even output pair of STEER and DUP reads back. -/
theorem evenOut_encER (t : Trig) (op : BitVec 7) (o : BitVec 2) (a b : BitVec 5) (pw : BitVec 4) :
    evenOut (encER t op (1#2 ++ o ++ 0#1) a b pw) = .ok o := by
  have h : (1#2 ++ o ++ 0#1).extractLsb' 3 2 = 1#2 ∧ (1#2 ++ o ++ 0#1).extractLsb' 0 1 = 0#1 ∧
      (1#2 ++ o ++ 0#1).extractLsb' 1 2 = o := by revert o; decide
  simp [evenOut, h]

theorem decodeE_steer (h : (Instr.steer t o a b).wf = true) :
    decodeE (encER t 0x50 (1#2 ++ o ++ 0#1) a.bits b.bits 0) = .ok (.steer t o a b) := by
  simp [decodeE, evenOut_encER, checked_of_wf h]

theorem decodeE_dup (h : (Instr.dup t o a).wf = true) :
    decodeE (encER t 0x52 (1#2 ++ o ++ 0#1) a.bits 24 0) = .ok (.dup t o a) := by
  simp [decodeE, evenOut_encER, checked_of_wf h]

theorem decodeE_mergec {x y c} (h : (Instr.mergec t d x y c).wf = true) :
    decodeE (encER t 0x51 d.bits (1#2 ++ x) (1#2 ++ y) (1#1 ++ c)) = .ok (.mergec t d x y c) := by
  have hc (c : BitVec 3) : (1#1 ++ c)[3] = true ∧ (1#1 ++ c).extractLsb' 0 3 = c := by revert c; decide
  simp [decodeE, hc, checked_of_wf h]

theorem decodeE_kind {i k} (h : (Instr.kind t d i k p).wf = true) :
    decodeE (encER t 0x55 d.bits ((if k then 2#2 else 1#2) ++ i) 24 p.bits) = .ok (.kind t d i k p) := by
  have hp : predOf p.bits = .ok p := predOf_bits (wf_pred rfl h)
  have hi (c : BitVec 2) : (c ++ i).extractLsb' 0 3 = i := BitVec.extractLsb'_append_eq_right
  have hk (c : BitVec 2) : (c ++ i).extractLsb' 3 2 = c := BitVec.extractLsb'_append_eq_left
  cases k <;> simp [decodeE, hi, hk, hp, checked_of_wf h]

theorem decodeE_marki {o m} (h : (Instr.marki t o m).wf = true) :
    decodeE (encEL t 0x56 (1#2 ++ o) m) = .ok (.marki t o m) := by
  simp [decodeE, checked_of_wf h]

theorem decodeE_emitd {o} (h : (Instr.emitd t o a).wf = true) :
    decodeE (encER t 0x57 (1#2 ++ o) a.bits 24 0) = .ok (.emitd t o a) := by
  simp [decodeE, checked_of_wf h]

theorem decodeE_ld {n sx ord} (h : (Instr.ld t d a n sx ord).wf = true) :
    decodeE (encER t 0x60 d.bits a.bits (0#2 ++ BitVec.ofBool sx ++ n.bits) ord.bits) = .ok (.ld t d a n sx ord) := by
  have hn : (0#2 ++ BitVec.ofBool sx ++ n.bits).extractLsb' 0 2 = n.bits := BitVec.extractLsb'_append_eq_right
  have hz : (0#2 ++ BitVec.ofBool sx ++ n.bits).extractLsb' 3 2 = 0 ∧
      (0#2 ++ BitVec.ofBool sx ++ n.bits)[2] = sx := by cases sx <;> cases n <;> decide
  simp [decodeE, hn, hz, checked_of_wf h]

theorem decodeE_acas {ord} (h : (Instr.acas t rd a b ord).wf = true) :
    decodeE (encER t 0x71 rd.bits a.bits b.bits ord.bits) = .ok (.acas t rd a b ord) := by
  simp [decodeE, checked_of_wf h]

/-- Of an output o0-o3 of XGRANT and XRECV, the field's upper bits are 2 and the lower two its number. -/
theorem exchangeOut_bits (o : BitVec 2) : (2#3 ++ o).extractLsb' 2 3 = 2 ∧ (2#3 ++ o).extractLsb' 0 2 = o :=
  ⟨BitVec.extractLsb'_append_eq_left, BitVec.extractLsb'_append_eq_right⟩

theorem decodeE_xgrant (h : (Instr.xgrant t o a).wf = true) :
    decodeE (encER t 0x74 (2#3 ++ o) a.bits 24 0) = .ok (.xgrant t o a) := by
  simp [decodeE, exchangeOut_bits, checked_of_wf h]

theorem decodeE_xsend {o x y} (h : (Instr.xsend t o x y).wf = true) :
    decodeE (encER t 0x75 (1#2 ++ o) (1#2 ++ x) (1#2 ++ y) 0) = .ok (.xsend t o x y) := by
  simp [decodeE, checked_of_wf h]

theorem decodeE_xrecv {i} (h : (Instr.xrecv t o i).wf = true) :
    decodeE (encER t 0x76 (2#3 ++ o) (1#2 ++ i) 24 0) = .ok (.xrecv t o i) := by
  simp [decodeE, exchangeOut_bits, checked_of_wf h]

theorem decodeE_agen {g} (h : (Instr.agen t g b).wf = true) : decodeE (encER t 0x78 8 (0#2 ++ g) b.bits 0) = .ok (.agen t g b) := by
  simp [decodeE, checked_of_wf h]

theorem decodeE_agset {g m} (h : (Instr.agset t g a m).wf = true) :
    decodeE (encEI t 0x79 (0#2 ++ g) a.bits m) = .ok (.agset t g a m) := by
  simp [decodeE, checked_of_wf h]

theorem decodeE_agrst {g} (h : (Instr.agrst t g).wf = true) : decodeE (encER t 0x7A (0#2 ++ g) 24 24 0) = .ok (.agrst t g) := by
  simp [decodeE, checked_of_wf h]

end

theorem decodeE_encode {i : Instr} {v : EView} {w : BitVec 64} (hv : i.eview = some v) (h : i.wf = true)
    (he : encode i = some w) : decodeE (w.setWidth 32) = .ok i := by
  cases i with
  | add | sub | mul | mulhs | mulhu | and | or | xor | andn | shl | shr | sar | min | max | minu | maxu | adds | subs
  | ceq | cne | clt | cle | cltu | cleu | ctst | faddS | fsubS | fmulS | fminS | fmaxS | fceqS | fcltS | fcleS | fcunS
  | faddD | fsubD | fmulD | fminD | fmaxD | fceqD | fcltD | fcleD | fcunD =>
    obtain rfl := Option.some.inj he
    rw [toE]
    exact decodeE_er2 (fun w hw => by unfold decodeE; rw [hw]; rfl) rfl h
  | mov | clz | popc | frsqeS | frcpeS =>
    obtain rfl := Option.some.inj he
    rw [toE]
    exact decodeE_er1 (fun w hw => by unfold decodeE; rw [hw]; rfl) rfl h
  | fmacS | fmacD =>
    obtain rfl := Option.some.inj he
    rw [toE]
    exact decodeE_erm (fun w hw => by unfold decodeE; rw [hw]; rfl) rfl h
  | gate | join =>
    obtain rfl := Option.some.inj he
    rw [toE]
    exact decodeE_er2z (fun w hw => by unfold decodeE; rw [hw]; rfl) h
  | st | stw | sth | stb | aadd | amin | amax | aand | aor | axor | axchg | aadds =>
    obtain rfl := Option.some.inj he
    rw [toE]
    exact decodeE_erOrd (fun w hw => by unfold decodeE; rw [hw]; rfl) h
  | ldas | stsc | stsp =>
    obtain rfl := Option.some.inj he
    rw [toE]
    exact decodeE_erStamp (fun w hw => by unfold decodeE; rw [hw]; rfl) h
  | sext | zext =>
    obtain rfl := Option.some.inj he
    rw [toE]
    exact decodeE_erExt (fun w hw => by unfold decodeE; rw [hw]; rfl) rfl h
  | cvtRne | cvtRtz | cvtRdn | cvtRup =>
    obtain rfl := Option.some.inj he
    rw [toE]
    exact decodeE_erCvt (fun w hw => by unfold decodeE; rw [hw]; rfl) h
  | addi | andi | ori | xori =>
    obtain rfl := Option.some.inj he
    rw [toE]
    exact decodeE_ei (fun w hw => by unfold decodeE; rw [hw]; rfl) h
  | shli | shri | sari =>
    obtain rfl := Option.some.inj he
    rw [toE]
    exact decodeE_eiShift (fun w hw => by unfold decodeE; rw [hw]; rfl) h
  | ceqi | clti | cltui =>
    obtain rfl := Option.some.inj he
    rw [toE]
    exact decodeE_eiPred (fun w hw => by unfold decodeE; rw [hw]; rfl) h
  | movi => obtain rfl := Option.some.inj he; rw [toE]; exact decodeE_movi h
  | shin => obtain rfl := Option.some.inj he; rw [toE]; exact decodeE_shin h
  | steer => obtain rfl := Option.some.inj he; rw [toE]; exact decodeE_steer h
  | mergec => obtain rfl := Option.some.inj he; rw [toE]; exact decodeE_mergec h
  | dup => obtain rfl := Option.some.inj he; rw [toE]; exact decodeE_dup h
  | kind => obtain rfl := Option.some.inj he; rw [toE]; exact decodeE_kind h
  | marki => obtain rfl := Option.some.inj he; rw [toE]; exact decodeE_marki h
  | emitd => obtain rfl := Option.some.inj he; rw [toE]; exact decodeE_emitd h
  | ld => obtain rfl := Option.some.inj he; rw [toE]; exact decodeE_ld h
  | acas => obtain rfl := Option.some.inj he; rw [toE]; exact decodeE_acas h
  | xgrant => obtain rfl := Option.some.inj he; rw [toE]; exact decodeE_xgrant h
  | xsend => obtain rfl := Option.some.inj he; rw [toE]; exact decodeE_xsend h
  | xrecv => obtain rfl := Option.some.inj he; rw [toE]; exact decodeE_xrecv h
  | agen => obtain rfl := Option.some.inj he; rw [toE]; exact decodeE_agen h
  | agset => obtain rfl := Option.some.inj he; rw [toE]; exact decodeE_agset h
  | agrst => obtain rfl := Option.some.inj he; rw [toE]; exact decodeE_agrst h
  | _ => cases hv


/-! ## V words (R85, R86) -/

section
variable {op : BitVec 6} {t : Trig} {vd va vb : BitVec 4} {m : BitVec 3}

theorem decodeV_v2 {mk : Trig → BitVec 4 → BitVec 4 → BitVec 4 → BitVec 3 → Instr}
    (hop : ∀ w, (fld w 20 6).toNat = op.toNat → decodeV w = v2 mk w) (h : (mk t vd va vb m).wf = true) :
    decodeV (encV t op vd va vb m 0) = .ok (mk t vd va vb m) := by
  simp [hop _ (congrArg BitVec.toNat (fld_encV_op ..)), v2, checked_of_wf h]

theorem decodeV_v1 {mk : Trig → BitVec 4 → BitVec 4 → BitVec 3 → Instr}
    (hop : ∀ w, (fld w 20 6).toNat = op.toNat → decodeV w = v1 mk w) (h : (mk t vd va m).wf = true) :
    decodeV (encV t op vd va 0 m 0) = .ok (mk t vd va m) := by
  simp [hop _ (congrArg BitVec.toNat (fld_encV_op ..)), v1, checked_of_wf h]

theorem decodeV_vcmp {mk : Trig → BitVec 3 → BitVec 4 → BitVec 4 → BitVec 3 → Instr} {k : BitVec 3}
    (hop : ∀ w, (fld w 20 6).toNat = op.toNat → decodeV w = vcmp mk w) (h : (mk t k va vb m).wf = true) :
    decodeV (encV t op (0#1 ++ k) va vb m 0) = .ok (mk t k va vb m) := by
  have hhi : (0#1 ++ k).extractLsb' 3 1 = 0 := BitVec.extractLsb'_append_eq_left
  have hlo : (0#1 ++ k).extractLsb' 0 3 = k := BitVec.extractLsb'_append_eq_right
  simp [hop _ (congrArg BitVec.toNat (fld_encV_op ..)), vcmp, hhi, hlo, checked_of_wf h]

end

theorem decodeV_encode {i : Instr} {t : Trig} {w : BitVec 64} (hv : i.vtrig = some t) (h : i.wf = true)
    (he : encode i = some w) : decodeV (w.setWidth 32) = .ok i := by
  cases i with
  | vadd | vsub | vmul | vfma | vmin | vmax | vand | vor | vxor | vshl | vshr | vsel | vshuf =>
    obtain rfl := Option.some.inj he
    rw [toE]
    exact decodeV_v2 (fun w hw => by unfold decodeV; rw [hw]; rfl) h
  | vmov | vabs | vredadd | vredmax | vexp2 | vrcp | vrsq =>
    obtain rfl := Option.some.inj he
    rw [toE]
    exact decodeV_v1 (fun w hw => by unfold decodeV; rw [hw]; rfl) h
  | vcmpeq | vcmplt | vcmple =>
    obtain rfl := Option.some.inj he
    rw [toE]
    exact decodeV_vcmp (fun w hw => by unfold decodeV; rw [hw]; rfl) h
  | vqshr | vbcast | vslide =>
    obtain rfl := Option.some.inj he
    simp [decodeV, checked_of_wf h]
  | vnarrow t d a r m f s =>
    obtain rfl := Option.some.inj he
    have hr : (0#2 ++ r).extractLsb' 2 2 = 0 ∧ (0#2 ++ r).extractLsb' 0 2 = r :=
      ⟨BitVec.extractLsb'_append_eq_left, BitVec.extractLsb'_append_eq_right⟩
    have hf : (BitVec.ofBool s ++ f).extractLsb' 0 4 = f := BitVec.extractLsb'_append_eq_right
    have hs : (BitVec.ofBool s ++ f)[4] = s := by rw [BitVec.getElem_append]; cases s <;> rfl
    simp [decodeV, hr, hf, hs, checked_of_wf h]
  | vwiden t d a m f =>
    obtain rfl := Option.some.inj he
    have hd : (d ++ 0#1).extractLsb' 0 1 = 0 ∧ (d ++ 0#1).extractLsb' 1 3 = d :=
      ⟨BitVec.extractLsb'_append_eq_right, BitVec.extractLsb'_append_eq_left⟩
    have hf : (0#1 ++ f).extractLsb' 4 1 = 0 ∧ (0#1 ++ f).extractLsb' 0 4 = f :=
      ⟨BitVec.extractLsb'_append_eq_left, BitVec.extractLsb'_append_eq_right⟩
    simp [decodeV, hd, hf, checked_of_wf h]
  | vwmac t d a b m =>
    obtain rfl := Option.some.inj he
    have hd : (d ++ 0#1).extractLsb' 0 1 = 0 ∧ (d ++ 0#1).extractLsb' 1 3 = d :=
      ⟨BitVec.extractLsb'_append_eq_right, BitVec.extractLsb'_append_eq_left⟩
    simp [decodeV, hd, checked_of_wf h]
  | vtag t d f g x s =>
    obtain rfl := Option.some.inj he
    have hg (g : BitVec 2) (x s : Bool) : (g ++ BitVec.ofBool x ++ BitVec.ofBool s).extractLsb' 2 2 = g ∧
        (g ++ BitVec.ofBool x ++ BitVec.ofBool s)[1] = x ∧ (g ++ BitVec.ofBool x ++ BitVec.ofBool s)[0] = s := by
      revert g x s; decide
    simp [decodeV, hg, checked_of_wf h]
  | vsetp t j =>
    obtain rfl := Option.some.inj he
    have hj : (0#1 ++ j).extractLsb' 3 1 = 0 ∧ (0#1 ++ j).extractLsb' 0 3 = j :=
      ⟨BitVec.extractLsb'_append_eq_left, BitVec.extractLsb'_append_eq_right⟩
    simp [decodeV, hj, checked_of_wf h]
  | vldr t d n p =>
    obtain rfl := Option.some.inj he
    have hn (p : Bool) (n : BitVec 4) : (BitVec.ofBool p ++ n).extractLsb' 0 4 = n ∧ (BitVec.ofBool p ++ n)[4] = p ∧
        ((BitVec.ofBool p ++ n).setWidth 16).extractLsb' 5 11 = 0 := by revert p n; decide
    simp [decodeV, hn, checked_of_wf h]
  | vstr t a n c =>
    obtain rfl := Option.some.inj he
    have hn (p : Bool) (n : BitVec 4) : (BitVec.ofBool p ++ n).extractLsb' 0 4 = n ∧ (BitVec.ofBool p ++ n)[4] = p ∧
        ((BitVec.ofBool p ++ n).setWidth 12).extractLsb' 5 7 = 0 := by revert p n; decide
    simp [decodeV, hn, checked_of_wf h]
  | vlds t d i =>
    obtain rfl := Option.some.inj he
    have hi (i : BitVec 2) : (0#3 ++ i).extractLsb' 0 2 = i ∧ (0#3 ++ i).extractLsb' 2 1 = 0 ∧
        ((0#3 ++ i).setWidth 16).extractLsb' 3 13 = 0 := by revert i; decide
    simp [decodeV, hi, checked_of_wf h]
  | vsts t a o =>
    obtain rfl := Option.some.inj he
    have ho (o : BitVec 2) : (0#3 ++ o).extractLsb' 0 2 = o ∧ (0#3 ++ o).extractLsb' 2 1 = 0 ∧
        ((0#3 ++ o).setWidth 12).extractLsb' 3 9 = 0 := by revert o; decide
    simp [decodeV, ho, checked_of_wf h]
  | _ => cases hv


/-! ## M words (R87, R88) -/

theorem mfld_of_bits {w : Word} {lo n : Nat} {x : BitVec n} (h : ∀ i, i < n → w.getLsbD (lo + i) = x.getLsbD i) :
    mfld w lo n = x :=
  BitVec.eq_of_getLsbD_eq fun i hi => by simpa [mfld, hi] using h i hi

section
variable (op : BitVec 6) (ra rb : BitVec 4) (acc : BitVec 3) (count : BitVec 12) (popA popB clr zskip : Bool)
  (sa sb outR fmt : BitVec 4) (rnd : BitVec 2) (sh : BitVec 5)

/-- The bits of an M word, field by field. -/
theorem getLsbD_encM (i : Nat) : (encM op ra rb acc count popA popB clr zskip sa sb outR fmt rnd sh).getLsbD i =
    if i < 5 then false
    else if i < 10 then sh.getLsbD (i - 5)
    else if i < 12 then rnd.getLsbD (i - 10)
    else if i < 16 then fmt.getLsbD (i - 12)
    else if i < 20 then outR.getLsbD (i - 16)
    else if i < 24 then sb.getLsbD (i - 20)
    else if i < 28 then sa.getLsbD (i - 24)
    else if i = 28 then zskip
    else if i = 29 then clr
    else if i = 30 then popB
    else if i = 31 then popA
    else if i < 44 then count.getLsbD (i - 32)
    else if i < 47 then false
    else if i < 50 then acc.getLsbD (i - 47)
    else if i < 54 then rb.getLsbD (i - 50)
    else if i < 58 then ra.getLsbD (i - 54)
    else op.getLsbD (i - 58) := by
  simp only [encM, BitVec.getLsbD_append, BitVec.getLsbD_ofBool, BitVec.getLsbD_zero]
  grind (splits := 20)

@[simp] theorem mfld_encM_op : mfld (encM op ra rb acc count popA popB clr zskip sa sb outR fmt rnd sh) 58 6 = op :=
  mfld_of_bits fun i hi => by rw [getLsbD_encM]; grind (splits := 20)
@[simp] theorem mfld_encM_ra : mfld (encM op ra rb acc count popA popB clr zskip sa sb outR fmt rnd sh) 54 4 = ra :=
  mfld_of_bits fun i hi => by rw [getLsbD_encM]; grind (splits := 20)
@[simp] theorem mfld_encM_rb : mfld (encM op ra rb acc count popA popB clr zskip sa sb outR fmt rnd sh) 50 4 = rb :=
  mfld_of_bits fun i hi => by rw [getLsbD_encM]; grind (splits := 20)
@[simp] theorem mfld_encM_acc : mfld (encM op ra rb acc count popA popB clr zskip sa sb outR fmt rnd sh) 47 3 = acc :=
  mfld_of_bits fun i hi => by rw [getLsbD_encM]; grind (splits := 20)
@[simp] theorem mfld_encM_count : mfld (encM op ra rb acc count popA popB clr zskip sa sb outR fmt rnd sh) 32 12 = count :=
  mfld_of_bits fun i hi => by rw [getLsbD_encM]; grind (splits := 20)
@[simp] theorem mfld_encM_gap : mfld (encM op ra rb acc count popA popB clr zskip sa sb outR fmt rnd sh) 44 3 = 0 :=
  mfld_of_bits fun i hi => by rw [getLsbD_encM]; grind (splits := 20)
@[simp] theorem mfld_encM_sa : mfld (encM op ra rb acc count popA popB clr zskip sa sb outR fmt rnd sh) 24 4 = sa :=
  mfld_of_bits fun i hi => by rw [getLsbD_encM]; grind (splits := 20)
@[simp] theorem mfld_encM_sb : mfld (encM op ra rb acc count popA popB clr zskip sa sb outR fmt rnd sh) 20 4 = sb :=
  mfld_of_bits fun i hi => by rw [getLsbD_encM]; grind (splits := 20)
@[simp] theorem mfld_encM_outR : mfld (encM op ra rb acc count popA popB clr zskip sa sb outR fmt rnd sh) 16 4 = outR :=
  mfld_of_bits fun i hi => by rw [getLsbD_encM]; grind (splits := 20)
@[simp] theorem mfld_encM_fmt : mfld (encM op ra rb acc count popA popB clr zskip sa sb outR fmt rnd sh) 12 4 = fmt :=
  mfld_of_bits fun i hi => by rw [getLsbD_encM]; grind (splits := 20)
@[simp] theorem mfld_encM_rnd : mfld (encM op ra rb acc count popA popB clr zskip sa sb outR fmt rnd sh) 10 2 = rnd :=
  mfld_of_bits fun i hi => by rw [getLsbD_encM]; grind (splits := 20)
@[simp] theorem mfld_encM_sh : mfld (encM op ra rb acc count popA popB clr zskip sa sb outR fmt rnd sh) 5 5 = sh :=
  mfld_of_bits fun i hi => by rw [getLsbD_encM]; grind (splits := 20)
@[simp] theorem mfld_encM_low : mfld (encM op ra rb acc count popA popB clr zskip sa sb outR fmt rnd sh) 0 5 = 0 :=
  mfld_of_bits fun i hi => by rw [getLsbD_encM]; grind (splits := 20)

@[simp] theorem getElem_encM_flags :
    (encM op ra rb acc count popA popB clr zskip sa sb outR fmt rnd sh)[31] = popA ∧
    (encM op ra rb acc count popA popB clr zskip sa sb outR fmt rnd sh)[30] = popB ∧
    (encM op ra rb acc count popA popB clr zskip sa sb outR fmt rnd sh)[29] = clr ∧
    (encM op ra rb acc count popA popB clr zskip sa sb outR fmt rnd sh)[28] = zskip := by
  simp only [← BitVec.getLsbD_eq_getElem, getLsbD_encM]
  simp

theorem encM_ne_zero (h : op ≠ 0) : encM op ra rb acc count popA popB clr zskip sa sb outR fmt rnd sh ≠ 0#64 := by
  intro h0
  have hop := mfld_encM_op op ra rb acc count popA popB clr zskip sa sb outR fmt rnd sh
  rw [h0] at hop
  exact h (hop.symm.trans (mfld_of_bits fun i _ => by simp))

end

section
variable (op : BitVec 6) (f : MacFields) (sa sb : BitVec 4)

@[simp] theorem macOf_encMac : macOf (encMac op f sa sb) = f := by simp [macOf, encMac]
@[simp] theorem mfld_encMac_op : mfld (encMac op f sa sb) 58 6 = op := mfld_encM_op ..
@[simp] theorem mfld_encMac_gap : mfld (encMac op f sa sb) 44 3 = 0 := mfld_encM_gap ..
@[simp] theorem mfld_encMac_sa : mfld (encMac op f sa sb) 24 4 = sa := mfld_encM_sa ..
@[simp] theorem mfld_encMac_sb : mfld (encMac op f sa sb) 20 4 = sb := mfld_encM_sb ..
@[simp] theorem mfld_encMac_rings : mfld (encMac op f sa sb) 12 8 = 0 :=
  mfld_of_bits fun i hi => by rw [encMac, getLsbD_encM]; grind
@[simp] theorem mfld_encMac_low : mfld (encMac op f sa sb) 0 10 = 0 :=
  mfld_of_bits fun i hi => by rw [encMac, getLsbD_encM]; grind
@[simp] theorem mfld_encMac_noSide : mfld (encMac op f 0#4 0#4) 12 16 = 0 :=
  mfld_of_bits fun i hi => by rw [encMac, getLsbD_encM]; grind
theorem encMac_ne_zero (h : op ≠ 0) : encMac op f sa sb ≠ 0#64 := encM_ne_zero _ _ _ _ _ _ _ _ _ _ _ _ _ _ _ h

end

theorem decodeM_tzero {n : BitVec 3} (h : (Instr.tzero n).wf = true) :
    decodeM (encM 4 0 0 n 0 false false false false 0 0 0 0 0 0) = .ok (some (.tzero n)) := by
  have hz : mfld (encM 4#6 0#4 0#4 n 0#12 false false false false 0#4 0#4 0#4 0#4 0#2 0#5) 50 8 = 0 ∧
      mfld (encM 4#6 0#4 0#4 n 0#12 false false false false 0#4 0#4 0#4 0#4 0#2 0#5) 0 47 = 0 := by
    constructor <;> exact mfld_of_bits fun i hi => by rw [getLsbD_encM]; grind (splits := 20)
  simp [decodeM, encM_ne_zero, hz, checked_of_wf h, Except.map]

theorem decodeM_tdrain {n c o f r s} (h : (Instr.tdrain n c o f r s).wf = true) :
    decodeM (encM 5 0 0 n 0 false false c false 0 0 o f r s) = .ok (some (.tdrain n c o f r s)) := by
  have hz : mfld (encM 5#6 0#4 0#4 n 0#12 false false c false 0#4 0#4 o f r s) 50 8 = 0 ∧
      mfld (encM 5#6 0#4 0#4 n 0#12 false false c false 0#4 0#4 o f r s) 30 17 = 0 ∧
      mfld (encM 5#6 0#4 0#4 n 0#12 false false c false 0#4 0#4 o f r s) 20 9 = 0 := by
    refine ⟨?_, ?_, ?_⟩ <;> exact mfld_of_bits fun i hi => by rw [getLsbD_encM]; grind (splits := 20)
  simp [decodeM, encM_ne_zero, hz, checked_of_wf h, Except.map]

/-- TLOAD and TADDR leave all bits but opcode, ring, accumulator and pop 0. -/
theorem mfld_encM_load (op : BitVec 6) (r : BitVec 4) (n : BitVec 3) (p : Bool) :
    mfld (encM op r 0#4 n 0#12 p false false false 0#4 0#4 0#4 0#4 0#2 0#5) 50 4 = 0 ∧
    mfld (encM op r 0#4 n 0#12 p false false false 0#4 0#4 0#4 0#4 0#2 0#5) 32 15 = 0 ∧
    mfld (encM op r 0#4 n 0#12 p false false false 0#4 0#4 0#4 0#4 0#2 0#5) 0 31 = 0 := by
  refine ⟨?_, ?_, ?_⟩ <;> exact mfld_of_bits fun i hi => by rw [getLsbD_encM]; grind (splits := 20)

theorem decodeM_tload {n r p} (h : (Instr.tload n r p).wf = true) :
    decodeM (encM 6 r 0 n 0 p false false false 0 0 0 0 0 0) = .ok (some (.tload n r p)) := by
  simp [decodeM, encM_ne_zero, mfld_encM_load, checked_of_wf h, Except.map]

theorem decodeM_taddr {n r p} (h : (Instr.taddr n r p).wf = true) :
    decodeM (encM 7 r 0 n 0 p false false false 0 0 0 0 0 0) = .ok (some (.taddr n r p)) := by
  simp [decodeM, encM_ne_zero, mfld_encM_load, checked_of_wf h, Except.map]

theorem decodeM_ttrans {r p o} (h : (Instr.ttrans r p o).wf = true) :
    decodeM (encM 8 r 0 0 0 p false false false 0 0 o 0 0 0) = .ok (some (.ttrans r p o)) := by
  have hz : mfld (encM 8#6 r 0#4 0#3 0#12 p false false false 0#4 0#4 o 0#4 0#2 0#5) 32 22 = 0 ∧
      mfld (encM 8#6 r 0#4 0#3 0#12 p false false false 0#4 0#4 o 0#4 0#2 0#5) 20 11 = 0 ∧
      mfld (encM 8#6 r 0#4 0#3 0#12 p false false false 0#4 0#4 o 0#4 0#2 0#5) 0 16 = 0 := by
    refine ⟨?_, ?_, ?_⟩ <;> exact mfld_of_bits fun i hi => by rw [getLsbD_encM]; grind (splits := 20)
  simp [decodeM, encM_ne_zero, hz, checked_of_wf h, Except.map]

theorem decodeM_encode {i : Instr} {w : BitVec 64} (hm : i.isM = true) (h : i.wf = true) (he : encode i = some w) :
    decodeM w = .ok (some i) := by
  cases i with
  | tmma f | tmmag f sa sb | tmmax f sa sb =>
    obtain rfl := Option.some.inj he
    simp [decodeM, encMac_ne_zero, checked_of_wf h, Except.map]
  | tzero => obtain rfl := Option.some.inj he; exact decodeM_tzero h
  | tdrain => obtain rfl := Option.some.inj he; exact decodeM_tdrain h
  | tload => obtain rfl := Option.some.inj he; exact decodeM_tload h
  | taddr => obtain rfl := Option.some.inj he; exact decodeM_taddr h
  | ttrans => obtain rfl := Option.some.inj he; exact decodeM_ttrans h
  | _ => cases hm


/-! ## C words (R89, R90) -/

@[simp] theorem pkgSys_encCR (op : BitVec 6) (d a b : BitVec 5) (sys : Bool) (x : BitVec 4) :
    pkgSys (encCR op d a b (0#4 ++ stampBits sys ++ x)) = .ok sys := by
  have h : (0#4 ++ stampBits sys ++ x).extractLsb' 4 3 = stampBits sys := by cases sys <;> revert x <;> decide
  rw [pkgSys, fld_encCR_fn _ _ _ _ _ 4 3, h, stampOf_bits]

/-- The ordering of an AMO and its opcode in fn stand apart (R90). -/
theorem amo_encCR {mk : BitVec 5 → BitVec 5 → BitVec 5 → MemOrder → Instr} (d a b : BitVec 5) (k : BitVec 4) (o : MemOrder) :
    amo mk (encCR 0x1E#6 d a b (amoFn k o)) = .ok (mk d a b o) := by
  cases o with
  | plain =>
    have hk (k : BitVec 4) : (0#7 ++ k).extractLsb' 8 3 = 0 ∧ (0#7 ++ k).extractLsb' 4 3 = 0 ∧ (0#7 ++ k)[7] = false := by
      revert k; decide
    simp [amo, amoOrder, amoFn, hk]
  | ordered s =>
    have hk (k : BitVec 4) (s : BitVec 3) : (1#4 ++ s ++ k).extractLsb' 8 3 = 0 ∧
        (1#4 ++ s ++ k).extractLsb' 4 3 = s ∧ (1#4 ++ s ++ k)[7] = true := by
      revert k s; decide
    simp [amo, amoOrder, amoFn, hk, Except.map]

/-- The AMO's opcode, bits 3:0 of fn. -/
theorem amoFn_op (k : BitVec 4) (o : MemOrder) : (amoFn k o).extractLsb' 0 4 = k := by
  cases o <;> exact BitVec.extractLsb'_append_eq_right

/-- A scope of LDA, STL and FENCE in the lowest bits of fn. -/
theorem scopeFn_bits (k : BitVec 8) (s : Scope) :
    (k ++ s.bits).extractLsb' 3 8 = k ∧ (k ++ s.bits).extractLsb' 0 3 = s.bits :=
  ⟨BitVec.extractLsb'_append_eq_left, BitVec.extractLsb'_append_eq_right⟩

theorem decodeC_lda (d a : BitVec 5) (s : Scope) : decodeC (encCR 0x1C d a 0 (0#8 ++ s.bits)) = .ok (.lda d a s) := by
  simp [decodeC, scopeFn_bits]

theorem decodeC_stl (a b : BitVec 5) (s : Scope) : decodeC (encCR 0x1D 0 a b (0#8 ++ s.bits)) = .ok (.stl a b s) := by
  simp [decodeC, scopeFn_bits]

theorem decodeC_fence (k : FenceKind) (s : Scope) (w : BitVec 64) (he : encode (.fence k s) = some w) :
    decodeC (w.setWidth 32) = .ok (.fence k s) := by
  cases k <;> cases s <;> (obtain rfl := Option.some.inj he; rfl)

theorem decodeC_clkrd (p : BitVec 4) : decodeC (encCR 0x30 (p ++ 0#1) 0 0 0) = .ok (.clkrd p) := by
  have hp : (p ++ 0#1).extractLsb' 0 1 = 0 ∧ (p ++ 0#1).extractLsb' 1 4 = p :=
    ⟨BitVec.extractLsb'_append_eq_right, BitVec.extractLsb'_append_eq_left⟩
  simp [decodeC, hp]

/-- WAITS and FLOOR: scope in fn<6:4>, the rest of fn fixed. -/
theorem waitsFn_bits (sys : Bool) (x : BitVec 4) :
    (0#4 ++ stampBits sys ++ x).extractLsb' 7 4 = 0 ∧ (0#4 ++ stampBits sys ++ x).extractLsb' 0 4 = x := by
  cases sys <;> revert x <;> decide

theorem decodeC_waits (a : BitVec 5) (sys : Bool) :
    decodeC (encCR 0x30 0 a 0 (0#4 ++ stampBits sys ++ 3#4)) = .ok (.waits a sys) := by
  simp [decodeC, waitsFn_bits]

theorem decodeC_floor (d : BitVec 5) (sys : Bool) :
    decodeC (encCR 0x30 d 0 0 (0#4 ++ stampBits sys ++ 4#4)) = .ok (.floor d sys) := by
  simp [decodeC, waitsFn_bits]

theorem decodeC_sts (d a b : BitVec 5) (sys p : Bool) :
    decodeC (encCR 0x31 d a b (0#4 ++ stampBits sys ++ 0#3 ++ BitVec.ofBool p)) = .ok (.sts d a b sys p) := by
  have h : (0#4 ++ stampBits sys ++ 0#3 ++ BitVec.ofBool p).extractLsb' 1 3 = 0 ∧
      (0#4 ++ stampBits sys ++ 0#3 ++ BitVec.ofBool p).extractLsb' 7 4 = 0 ∧
      (0#4 ++ stampBits sys ++ 0#3 ++ BitVec.ofBool p).extractLsb' 4 3 = stampBits sys ∧
      (0#4 ++ stampBits sys ++ 0#3 ++ BitVec.ofBool p)[0] = p := by
    cases sys <;> cases p <;> decide
  simp [decodeC, pkgSys, h]

theorem decodeC_coreLdas (d a b : BitVec 5) (sys : Bool) :
    decodeC (encCR 0x32 d a b (0#4 ++ stampBits sys ++ 0#4)) = .ok (.coreLdas d a b sys) := by
  simp [decodeC, waitsFn_bits]

theorem decodeC_sbind (d a b : BitVec 5) (h : BitVec 8) (w f : Bool) :
    decodeC (encCR 0x34 d a b (0#1 ++ BitVec.ofBool f ++ BitVec.ofBool w ++ h)) = .ok (.sbind d a b h w f) := by
  have hh (h : BitVec 8) : (0#1 ++ BitVec.ofBool f ++ BitVec.ofBool w ++ h).extractLsb' 10 1 = 0 ∧
      (0#1 ++ BitVec.ofBool f ++ BitVec.ofBool w ++ h).extractLsb' 0 8 = h ∧
      (0#1 ++ BitVec.ofBool f ++ BitVec.ofBool w ++ h)[8] = w ∧ (0#1 ++ BitVec.ofBool f ++ BitVec.ofBool w ++ h)[9] = f := by
    revert h; cases w <;> cases f <;> decide
  simp [decodeC, hh]

/-- Handle instructions: the handle in fn<7:0>, the function above it. -/
theorem handleFn_bits (k : BitVec 3) (h : BitVec 8) : (k ++ h).extractLsb' 8 3 = k ∧ (k ++ h).extractLsb' 0 8 = h :=
  ⟨BitVec.extractLsb'_append_eq_left, BitVec.extractLsb'_append_eq_right⟩

theorem launchFn_bits (p : BitVec 2) : (0#9 ++ p).extractLsb' 2 9 = 0 ∧ (0#9 ++ p).extractLsb' 0 2 = p :=
  ⟨BitVec.extractLsb'_append_eq_left, BitVec.extractLsb'_append_eq_right⟩

theorem phaseFn_bits (m : BitVec 4) : (0#7 ++ m).extractLsb' 4 7 = 0 ∧ (0#7 ++ m).extractLsb' 0 4 = m :=
  ⟨BitVec.extractLsb'_append_eq_left, BitVec.extractLsb'_append_eq_right⟩

theorem messageFn_bits (n : Bool) : (0#10 ++ BitVec.ofBool n).extractLsb' 1 10 = 0 ∧ (0#10 ++ BitVec.ofBool n)[0] = n := by
  cases n <;> decide

theorem shiftImm_bits (c : BitVec 6) : (0#10 ++ c).extractLsb' 6 10 = 0 ∧ (0#10 ++ c).extractLsb' 0 6 = c :=
  ⟨BitVec.extractLsb'_append_eq_left, BitVec.extractLsb'_append_eq_right⟩

/-- The words of the register form, with and without operands that must be 0. -/
theorem decodeC_encode_cr {i : Instr} {op : BitVec 6} {d a b : BitVec 5} {fn : BitVec 11}
    (he : encode i = some ((encCR op d a b fn).setWidth 64)) (h : decodeC (encCR op d a b fn) = .ok i) {w : BitVec 64}
    (hw : encode i = some w) : decodeC (w.setWidth 32) = .ok i := by
  obtain rfl := Option.some.inj (he.symm.trans hw)
  rw [toE, h]

section
open Machine
variable {i : Instr} {w : BitVec 64}

theorem decodeC_encode_arithmetic {g x} (hc : coreWord i g = some x) (he : encode i = some w) : decodeC (w.setWidth 32) = .ok i := by
  cases i with
  | coreAdd | coreSub | coreAnd | coreOr | coreXor | coreShl | coreShr | coreSar | coreMul | coreMulhs | coreMulhu
  | divu | remu | slt | sltu | coreMin | coreMax =>
    obtain rfl := Option.some.inj he
    simp [decodeC, cr3]
  | coreAddi | coreAndi | coreOri | coreXori | slti | sltui | shi16 =>
    obtain rfl := Option.some.inj he
    simp [decodeC, ci]
  | coreShli | coreShri | coreSari =>
    obtain rfl := Option.some.inj he
    simp [decodeC, ciShift, shiftImm_bits]
  | lih =>
    obtain rfl := Option.some.inj he
    simp [decodeC]
  | _ => cases hc

theorem decodeC_encode_load {x} (hc : coreLoadOf i = some x) (he : encode i = some w) : decodeC (w.setWidth 32) = .ok i := by
  cases i with
  | ldd | ldw | ldwu | ldh | ldhu | ldb | ldbu =>
    obtain rfl := Option.some.inj he
    simp [decodeC, ci]
  | lda => exact decodeC_encode_cr rfl (decodeC_lda ..) he
  | _ => cases hc

theorem decodeC_encode_store {x} (hc : coreStoreOf i = some x) (he : encode i = some w) : decodeC (w.setWidth 32) = .ok i := by
  cases i with
  | std | coreStw | coreSth | coreStb =>
    obtain rfl := Option.some.inj he
    simp [decodeC, ci]
  | stl => exact decodeC_encode_cr rfl (decodeC_stl ..) he
  | _ => cases hc

theorem decodeC_encode_amo {x} (hc : coreAmoOf i = some x) (he : encode i = some w) : decodeC (w.setWidth 32) = .ok i := by
  cases i with
  | amoadd | amomin | amomax | amoand | amoor | amoxor | amoxchg | amocas | amoadds =>
    obtain rfl := Option.some.inj he
    simp [decodeC, amoFn_op, amo_encCR]
  | _ => cases hc

theorem decodeC_encode_branch {x} (hc : branchOf i = some x) (he : encode i = some w) : decodeC (w.setWidth 32) = .ok i := by
  cases i with
  | beq | bne | blt | bge | bltu | bgeu =>
    obtain rfl := Option.some.inj he
    simp [decodeC, cb]
  | _ => cases hc

theorem decodeC_encode (hc : isCoreWord i = true) (he : encode i = some w) : decodeC (w.setWidth 32) = .ok i := by
  cases i with
  | coreAdd | coreSub | coreAnd | coreOr | coreXor | coreShl | coreShr | coreSar | coreMul | coreMulhs | coreMulhu
  | divu | remu | slt | sltu | coreMin | coreMax | coreAddi | coreAndi | coreOri | coreXori | slti | sltui | shi16
  | coreShli | coreShri | coreSari | lih => exact decodeC_encode_arithmetic (g := fun _ => 0) rfl he
  | ldd | ldw | ldwu | ldh | ldhu | ldb | ldbu | lda => exact decodeC_encode_load rfl he
  | std | coreStw | coreSth | coreStb | stl => exact decodeC_encode_store rfl he
  | beq | bne | blt | bge | bltu | bgeu => exact decodeC_encode_branch rfl he
  | amoadd | amomin | amomax | amoand | amoor | amoxor | amoxchg | amocas | amoadds => exact decodeC_encode_amo rfl he
  | fence => exact decodeC_fence _ _ _ he
  | clkrd => exact decodeC_encode_cr rfl (decodeC_clkrd ..) he
  | waits => exact decodeC_encode_cr rfl (decodeC_waits ..) he
  | floor => exact decodeC_encode_cr rfl (decodeC_floor ..) he
  | sts => exact decodeC_encode_cr rfl (decodeC_sts ..) he
  | coreLdas => exact decodeC_encode_cr rfl (decodeC_coreLdas ..) he
  | sbind => exact decodeC_encode_cr rfl (decodeC_sbind ..) he
  | hwait | hqry | hdrain | hfree | hcancel =>
    obtain rfl := Option.some.inj he
    simp [decodeC, handleFn_bits]
  | launch | phase | msend | mrecv =>
    obtain rfl := Option.some.inj he
    simp [decodeC, launchFn_bits, phaseFn_bits, messageFn_bits]
  | jmp | jr | call | callr | ret | cyc | sleepu | tlook | tfill | tevict | sqrd | sqset | sqadmit | sqretire
  | cntrd | cntcfg | cntclr | csrrd | csrwr | trap | eret | halt | freeze | thaw | resume | brk =>
    obtain rfl := Option.some.inj he
    simp [decodeC]
  | _ => cases hc

end
end Sys2Proof

namespace Sys2Proof.Machine
set_option Elab.async false

/-! ## Classes (R73) -/

theorem encode_isSome (i : Instr) : (encode i).isSome = hasWord i := by
  cases i with
  | fence k => cases k <;> rfl
  | _ => rfl

theorem eview_of_class {i : Instr} (h : i.class? = some .e) : ∃ v, i.eview = some v := by
  rw [← Option.isSome_iff_exists]
  unfold Instr.class? at h
  grind

theorem vtrig_of_class {i : Instr} (h : i.class? = some .v) : ∃ t, i.vtrig = some t := by
  rw [← Option.isSome_iff_exists]
  unfold Instr.class? at h
  grind

theorem isM_of_class {i : Instr} (h : i.class? = some .m) : i.isM = true := by
  unfold Instr.class? at h
  grind

theorem isCoreWord_of_class {i : Instr} (h : i.class? = some .c) : isCoreWord i = true := by
  unfold Instr.class? at h
  rw [encode_isSome, hasWord] at h
  grind

/-- Settles O54: each layout's fields read back where they were written, each selector reads back its operand, and a well-formed
instruction passes the decoder's checks. -/
theorem decodingInvertsEncoding : Obligations.DecodingInvertsEncoding := by
  refine ⟨encode_isSome, fun i w hwf he => ⟨fun hc => ?_, fun hc => ?_, fun hc => ?_, fun hc => ?_⟩⟩
  · obtain ⟨v, hv⟩ := eview_of_class hc
    exact decodeE_encode hv hwf he
  · obtain ⟨t, ht⟩ := vtrig_of_class hc
    exact decodeV_encode ht hwf he
  · exact decodeM_encode (isM_of_class hc) hwf he
  · exact decodeC_encode (isCoreWord_of_class hc) he

end Sys2Proof.Machine

namespace Sys2Proof
set_option Elab.async false

/-! ## What the decoders accept -/

/-- Every result that a decoder accepts has a property. -/
def Yields {α : Type} (P : α → Prop) (r : Except Reject α) : Prop := ∀ i, r = .ok i → P i

section
variable {α β : Type} {P : α → Prop}

theorem Yields.error (e : Reject) : Yields P (.error e) := by rintro i ⟨⟩
theorem Yields.ok {x : α} (h : P x) : Yields P (.ok x) := by rintro i ⟨⟩; exact h

/-- A step of a decoder: whatever it reads, the rest has the property. -/
theorem Yields.bind {r : Except Reject β} {f : β → Except Reject α} (h : ∀ x, Yields P (f x)) : Yields P (r >>= f) := by
  cases r with
  | error => exact .error _
  | ok x => exact h x

end

/-- A well-formed instruction of a class. -/
def Fits (k : WordClass) (i : Instr) : Prop := i.wf = true ∧ i.class? = some k

theorem checked_fits {k : WordClass} {i : Instr} (h : i.class? = some k) : Yields (Fits k) (checked i) := by
  unfold checked
  split
  · next hwf => exact .ok ⟨hwf, h⟩
  · exact .error _

theorem class_of_eview {i : Instr} {v : EView} (h : i.eview = some v) : i.class? = some .e := by
  simp [Instr.class?, h]

theorem decodeV_fits (w : BitVec 32) : Yields (Fits .v) (decodeV w) := by
  unfold decodeV
  dsimp only
  split
  rotate_right
  · exact .error _
  all_goals
    repeat' refine .bind fun _ => ?_
    exact checked_fits rfl

theorem decodeE_fits (w : BitVec 32) : Yields (Fits .e) (decodeE w) := by
  unfold decodeE
  dsimp only
  split
  rotate_right
  · exact .error _
  all_goals
    repeat' refine .bind fun _ => ?_
    exact checked_fits (class_of_eview rfl)

theorem decodeM_fits (w : Word) : Yields (fun o => ∀ i, o = some i → Fits .m i) (decodeM w) := by
  have key {i : Instr} (h : i.class? = some .m) : Yields (fun o => ∀ j, o = some j → Fits .m j) ((checked i).map some) := by
    intro o ho
    have hi := checked_fits h
    cases hc : checked i with
    | error => rw [hc] at ho; cases ho
    | ok j =>
      rw [hc] at ho
      cases ho
      rintro k ⟨⟩
      exact hi _ hc
  unfold decodeM
  split
  · exact .ok (by rintro i ⟨⟩)
  · split
    rotate_right
    · exact .error _
    all_goals exact .bind fun _ => key rfl

theorem decodeC_class (w : BitVec 32) : Yields (fun i => i.class? = some .c) (decodeC w) := by
  unfold decodeC cr3 ci ciShift cb amo
  dsimp only
  split
  all_goals repeat' refine .bind fun _ => ?_
  any_goals split
  all_goals repeat' refine .bind fun _ => ?_
  all_goals rintro i ⟨⟩ <;> rfl

end Sys2Proof

namespace Sys2Proof.Machine
set_option Elab.async false

/-- Settles O55: every decoder ends in a check of well-formedness, or builds an instruction of its class. -/
theorem decodedWordsAreWellFormed : Obligations.DecodedWordsAreWellFormed :=
  ⟨fun w i h => decodeE_fits w i h, fun w i h => decodeV_fits w i h, fun w i h => decodeM_fits w _ h i rfl,
    fun w i h => decodeC_class w i h⟩

/-- Settles O56: `decodeFor` asks for the opcode first, then for the kind, then for the fields. -/
theorem kindsAcceptTheirWords : Obligations.KindsAcceptTheirWords := by
  have accepts (k w i) : decodeFor k w = .ok i ↔
      decodeE w = .ok i ∧ k.acceptsOp (opE w) = true ∧ i.chansExist k = true ∧ i.cvtPlaceOk = true := by
    unfold decodeFor
    grind
  refine ⟨fun k w h => ?_, fun k w h hk => ?_, accepts, fun k w i h => (decodeE_fits w i ((accepts k w i).1 h).1).1⟩
  · simp [decodeFor, h]
  · unfold decodeFor
    split
    · next h' => exact absurd h' h
    · simp [hk]

/-- Settles O53: each of these words is decoded by evaluation. -/
theorem sampleWordsDecode : Obligations.SampleWordsDecode := by
  unfold Obligations.SampleWordsDecode
  refine ⟨?_, ?_, ?_, ?_, ?_⟩ <;> decide


/-! PROOFS. The issue gate both ways: what an open gate says, and what a word does whose conditions do not hold. -/

/-! ## The gate opens exactly when a word is clear (R94, R456) -/

theorem State.clear_of_gate {s : State} {v : EView} {pols : List Pol} {ops : List Opnd} (h : s.gate v pols = .go ops) :
    s.Clear v pols ops := by
  unfold State.gate at h
  cases hready : s.ready v with
  | false => simp [hready] at h
  | true =>
    cases hsrcs : s.readSrcs s.site.unit v.trig.ctx v.ins with
    | none => simp [hready, hsrcs] at h
    | some os =>
      cases hcheck : checkOpnds os pols with
      | some f => simp [hready, hsrcs, hcheck] at h
      | none =>
        simp only [hready, hsrcs, hcheck, Bool.not_true, Bool.false_eq_true, if_false] at h
        split at h
        · cases h
        · next hclean =>
          cases h
          exact ⟨State.ready_iff_able.1 hready, hsrcs, checkOpnds_eq_none_iff.1 hcheck, by simpa using hclean⟩

/-- Settles O1: an open gate has passed each of its tests, and a word that is clear passes them all. -/
theorem gateOpensExactlyWhenClear : Obligations.GateOpensExactlyWhenClear :=
  fun _ _ _ _ => ⟨State.clear_of_gate, State.gate_of_clear⟩

/-- Settles O59: reset leaves memory empty and no agent in the agenda. -/
theorem resetMeetsTheInvariant : Obligations.ResetMeetsTheInvariant :=
  ⟨reset_memory_wf, fun _ h => absurd h List.not_mem_nil⟩

/-! ## A word that is not able to issue (R94) -/

section
variable {s : State} {v : EView} {pols : List Pol} (h : ¬ s.Able s.site.unit s.site.slot v)
include h

theorem State.not_ready_of_not_able : s.ready v = false := by
  rwa [← State.ready_iff_able, Bool.not_eq_true] at h

theorem State.gate_of_not_able : s.gate v pols = .wait := by
  rw [State.gate, State.not_ready_of_not_able h]; rfl

theorem State.gateMem_of_not_able {k : Nat} : s.gateMem v pols k = .wait := by
  rw [State.gateMem, State.gate_of_not_able h, ite_self]

theorem State.gateStamped_of_not_able {sys : Bool} : s.gateStamped sys v pols = .wait := by
  rw [State.gateStamped, State.gateMem_of_not_able h]

theorem State.gateLdas_of_not_able {sys : Bool} : s.gateLdas sys v = .wait := by
  rw [State.gateLdas, State.gateStamped_of_not_able h]

theorem execPlain_of_not_able {lat : Nat} {f : List Word → ERes} : execPlain v lat f s = .next s := by
  rw [execPlain, State.gate_of_not_able h]

end

/-- A word that needs no output is able where it is able with some. -/
theorem State.Able.without_outs {s : State} {u : UnitId} {slot : Nat} {v : EView} (h : s.Able u slot v) :
    s.Able u slot { v with outs := [] } :=
  ⟨h.runs, h.srcs, h.dst, h.pred, fun _ ho => absurd ho List.not_mem_nil⟩

theorem State.gateSteer_of_not_able {s : State} {t : Trig} {o : BitVec 2} {a b : Src}
    (h : ¬ s.Able s.site.unit s.site.slot { trig := t, ins := [a, b] }) : s.gateSteer t o a b = .wait := by
  unfold State.gateSteer
  split
  · rfl
  · exact State.gate_of_not_able fun hv => h hv.without_outs

theorem State.gateXrecv_of_not_able {s : State} {t : Trig} {o : BitVec 2} {i : BitVec 3}
    (h : ¬ s.Able s.site.unit s.site.slot (xrecvView t o)) : s.gateXrecv t o i = .wait := by
  unfold State.gateXrecv
  split
  · rfl
  · exact State.gate_of_not_able h

theorem execCvt_of_not_able {s : State} {mode : BitVec 2} {t : Trig} {d : Dst} {a : Src} {src dst : BitVec 4} {sat : Bool}
    (h : ¬ s.Able s.site.unit s.site.slot (.std t d [a] .none)) : execCvt mode t d a src dst sat s = .next s := by
  have hg : s.gateCvt t d a = .wait := State.gate_of_not_able h
  rw [execCvt, hg]

/-- Settles O2: each word asks its gate first, and every gate waits where the word is not able to issue; STEER's asks for room
at the output its control selects besides. -/
theorem wordsWaitUntilAble : Obligations.WordsWaitUntilAble := by
  intro i v s hv hmerge h
  cases i with
  | mergec t d x y z => exact absurd rfl (hmerge t d x y z)
  | mov =>
    cases hv; show execMov .. = _
    rw [execMov]; simp only [State.gate_of_not_able h]
  | kind =>
    cases hv; show execKind .. = _
    rw [execKind]; simp only [State.gate_of_not_able h]
  | steer =>
    cases hv; show execSteer .. = _
    rw [execSteer, State.gateSteer_of_not_able h]
  | dup =>
    cases hv; show execDup .. = _
    rw [execDup, dupView, State.gate_of_not_able h]
  | gate =>
    cases hv; show execGate .. = _
    rw [execGate]; simp only [State.gate_of_not_able h]
  | join =>
    cases hv; show execJoin .. = _
    rw [execJoin]; simp only [State.gate_of_not_able h]
  | marki =>
    cases hv; show execMarki .. = _
    rw [execMarki, markiView]; simp only [State.gate_of_not_able h]
  | emitd =>
    cases hv; show execEmitd .. = _
    rw [execEmitd, emitdView]; simp only [State.gate_of_not_able h]
  | ld =>
    cases hv; show execLd .. = _
    rw [execLd]; simp only [State.gateMem_of_not_able h, memGo]
  | st | stw | sth | stb =>
    cases hv; show execStore .. = _
    rw [execStore]; simp only [State.gateMem_of_not_able h, memGo]
  | aadd | amin | amax | aand | aor | axor | axchg | aadds =>
    cases hv; show execAmoWord .. = _
    rw [execAmoWord]; simp only [State.gateMem_of_not_able h, memGo]
  | acas =>
    cases hv; show execAcas .. = _
    rw [execAcas]; simp only [State.gateMem_of_not_able h, memGo]
  | stsc | stsp =>
    cases hv; show execStampWord .. = _
    rw [execStampWord]; simp only [State.gateStamped_of_not_able h, memGo]
  | ldas =>
    cases hv; show execLdas .. = _
    rw [execLdas]; simp only [State.gateLdas_of_not_able h, memGo]
  | xgrant =>
    cases hv; show execXgrant .. = _
    rw [execXgrant, State.gateXgrant, xgrantView, State.gate_of_not_able h]
  | xsend =>
    cases hv; show execXsend .. = _
    rw [execXsend, State.gateXsend, xsendView]; simp only [State.not_ready_of_not_able h]; rfl
  | xrecv =>
    cases hv; show execXrecv .. = _
    rw [execXrecv, State.gateXrecv_of_not_able h]
  | agen =>
    cases hv; show execAgen .. = _
    rw [execAgen, agenView]; simp only [State.gate_of_not_able h]
  | agset =>
    cases hv; show execAgset .. = _
    rw [execAgset]; simp only [State.gate_of_not_able h]
  | agrst =>
    cases hv; show execAgrst .. = _
    rw [execAgrst]; simp only [State.gate_of_not_able h]
  | cvtRne | cvtRtz | cvtRdn | cvtRup => cases hv; exact execCvt_of_not_able h
  | add | sub | mul | mulhs | mulhu | and | or | xor | andn | shl | shr | sar | min | max | minu | maxu | adds | subs | clz
  | popc | sext | zext | ceq | cne | clt | cle | cltu | cleu | ctst | addi | andi | ori | xori | shli | shri | sari | ceqi
  | clti | cltui | faddS | fsubS | fmulS | fmacS | fminS | fmaxS | frsqeS | frcpeS | fceqS | fcltS | fcleS | fcunS
  | faddD | fsubD | fmulD | fmacD | fminD | fmaxD | fceqD | fcltD | fcleD | fcunD =>
    cases hv; exact execPlain_of_not_able h
  | movi =>
    cases hv; show execMovi .. = _
    rw [execMovi, execPlain_of_not_able h]
  | shin =>
    cases hv; show execShin .. = _
    rw [execShin, execRmw, execPlain_of_not_able h]
  | _ => cases hv


/-! PROOFS. What the floating-point words deliver. -/

/-- A floating-point result as it is delivered `n` cycles after issue: FP32 results leave bits 63:32 zero (R185). -/
def Res.delivered (n : Nat) (r : Res) : ERes := .whole (BitVec.ofNat 64 (r.bits % 2 ^ floatBits n)) r.flags

theorem ERes.single_eq_delivered (r : Res) : ERes.single r = r.delivered 4 := by
  have hmod : r.bits % 2 ^ 64 % 2 ^ 32 = r.bits % 2 ^ 32 := Nat.mod_mod_of_dvd _ (Nat.pow_dvd_pow 2 (by decide))
  have htest : testBits 32 (BitVec.ofNat 64 r.bits) = decide (BitVec.ofNat 64 (r.bits % 2 ^ 32) ≠ 0) := by
    rw [testBits, decide_eq_decide, ← BitVec.toNat_ne_iff_ne, BitVec.toNat_ofNat, BitVec.toNat_ofNat, hmod]
    rw [Nat.mod_eq_of_lt (Nat.lt_trans (Nat.mod_lt _ (by decide)) (by decide))]
    rfl
  rw [ERes.single, htest]; rfl

theorem ERes.double_eq_delivered (r : Res) : ERes.double r = r.delivered 8 := by
  have h : BitVec.ofNat 64 (r.bits % 2 ^ floatBits 8) = BitVec.ofNat 64 r.bits :=
    BitVec.eq_of_toNat_eq (by simp [floatBits])
  rw [Res.delivered, ERes.whole, h, ERes.double, testBits_64]

theorem ERes.bool_eq_delivered (n : Nat) (b : Bool) : ERes.bool b = Res.delivered n ⟨b.toNat, 0⟩ := by
  by_cases hn : n = 4 <;> cases b <;> simp [ERes.bool, Res.delivered, ERes.whole, bool64, floatBits, hn]

section
variable {s : State} {w v : EView} {ops : List Opnd} {n lat : Nat} {r : Res}

theorem execPlain_delivers_on1 {g : Word → ERes} {R : Word → Res} (hw : some w = some v) (hc : s.Clear v [] ops)
    (h : on1 (ops.map Opnd.val) (fun a => (n, R a)) = some (lat, r)) (hg : ∀ a, g a = (R a).delivered n) :
    execPlain w n (fn1 g) s = .next (s.issued v lat
      (resultLanding v s.boundTag ops (BitVec.ofNat 64 (r.bits % 2 ^ floatBits lat)) r.flags)) := by
  obtain ⟨a, hops, hR⟩ := on1_eq_some_iff.1 h
  cases hR
  exact execPlain_of_clear hw hc (by rw [hops, fn1, hg, Res.delivered])

theorem execPlain_delivers_on2 {g : Word → Word → ERes} {R : Word → Word → Res} (hw : some w = some v)
    (hc : s.Clear v [] ops) (h : on2 (ops.map Opnd.val) (fun a b => (n, R a b)) = some (lat, r))
    (hg : ∀ a b, g a b = (R a b).delivered n) :
    execPlain w n (fn2 g) s = .next (s.issued v lat
      (resultLanding v s.boundTag ops (BitVec.ofNat 64 (r.bits % 2 ^ floatBits lat)) r.flags)) := by
  obtain ⟨a, b, hops, hR⟩ := on2_eq_some_iff.1 h
  cases hR
  exact execPlain_of_clear hw hc (by rw [hops, fn2, hg, Res.delivered])

end

/-- Settles O6: each floating-point word is an `execPlain` of 4 or 8 cycles over one or two operands, whose result the width of
its format cuts; a compare's is 0 or 1 at either width. -/
theorem floatWordsDeliver : Obligations.FloatWordsDeliver := by
  intro i v s ops lat r hv hc h
  cases i with
  | faddS | fsubS | fmulS | fminS | fmaxS => exact execPlain_delivers_on2 hv hc h fun _ _ => ERes.single_eq_delivered _
  | frsqeS | frcpeS => exact execPlain_delivers_on1 hv hc h fun _ => ERes.single_eq_delivered _
  | faddD | fsubD | fmulD | fminD | fmaxD => exact execPlain_delivers_on2 hv hc h fun _ _ => ERes.double_eq_delivered _
  | fceqS | fcltS | fcleS | fcunS | fceqD | fcltD | fcleD | fcunD =>
    exact execPlain_delivers_on2 hv hc h fun _ _ => ERes.bool_eq_delivered _ _
  | fmacS =>
    obtain rfl := Option.some.inj hv
    exact execPlain_delivers_on2 rfl hc h fun _ _ => ERes.single_eq_delivered _
  | fmacD =>
    obtain rfl := Option.some.inj hv
    exact execPlain_delivers_on2 rfl hc h fun _ _ => ERes.double_eq_delivered _
  | _ => cases h


/-! PROOFS. What the routing words pass. -/

theorem passTok_eq_passedTok (tag : Byte) (o : Opnd) : passTok tag o = passedTok tag o := by
  unfold passTok passedTok
  cases o.tok <;> rfl

/-- A passed operand lands as R320 says wherever its predicate, if the word writes one, tests its value. -/
theorem passLanding_eq_passedLanding {v : EView} {tag : Byte} {o : Opnd} {p : Bool}
    (h : v.predDst = none ∨ p = decide (o.val ≠ 0)) : passLanding v tag o p = passedLanding v tag o := by
  have hp : v.predDst.map (fun j => (j, p)) = v.predDst.map (fun j => (j, decide (o.val ≠ 0))) := by
    rcases h with h | h <;> rw [h]; rfl
  rw [passLanding, landingOf, passedLanding, passTok_eq_passedTok, hp]

theorem passLanding_of_no_pred {t : Trig} {d : Dst} {ins : List Src} {tag : Byte} {o : Opnd} :
    passLanding (.std t d ins .none) tag o false = passedLanding (.std t d ins .none) tag o :=
  passLanding_eq_passedLanding (.inl rfl)

section
variable {s : State} {u : UnitId} {c : BitVec 2}

theorem State.readSrcs_cons {a : Src} {as : List Src} {l : List Opnd} :
    s.readSrcs u c (a :: as) = some l ↔ ∃ o os, s.readSrc u c a = some o ∧ s.readSrcs u c as = some os ∧ l = o :: os := by
  rw [State.readSrcs]
  cases s.readSrc u c a with
  | none => simp
  | some o =>
    cases s.readSrcs u c as with
    | none => simp
    | some os => simp [eq_comm]

theorem State.readSrcs_nil {l : List Opnd} : s.readSrcs u c [] = some l ↔ l = [] := by
  simp [State.readSrcs, eq_comm]

theorem State.readSrcs_pair {a b : Src} {x y : Opnd} :
    s.readSrcs u c [a, b] = some [x, y] ↔ s.readSrc u c a = some x ∧ s.readSrc u c b = some y := by
  simp [State.readSrcs_cons, State.readSrcs_nil]

end

theorem State.gateSteer_of_clear {s : State} {t : Trig} {o : BitVec 2} {a b : Src} {x c : Opnd}
    (h : s.Clear (steerView t o a b c.val) [polValue, {}] [x, c]) : s.gateSteer t o a b = .go [x, c] := by
  have hc : s.readSrc s.site.unit t.ctx b = some c := (State.readSrcs_pair.1 h.2.1).2
  rw [State.gateSteer, hc]
  exact State.gate_of_clear h

theorem State.gateMergec_of_clear {s : State} {t : Trig} {d : Dst} {iT iF iC : BitVec 3} {x c : Opnd}
    (h : s.Clear (mergeView t d (mergeSide iT iF c.val) iC) [{}, polValue] [c, x]) :
    s.gateMergec t d iT iF iC = .go [c, x] := by
  obtain ⟨hc, -⟩ := State.readSrcs_pair.1 h.2.1
  obtain ⟨halive, hbank, hguard⟩ := State.runs_iff.1 h.1.runs
  have hguard : ((s.unit s.site.unit).context t.ctx.toNat).guardMet t = true := hguard
  have hcheck : c.check {} = none := h.2.2.1 0 c rfl
  have hc : s.readSrc s.site.unit t.ctx (.take iC) = some c := hc
  have hgate := State.gate_of_clear h
  simp only [State.gateMergec, halive, hbank, hguard, hc, hcheck, hgate]
  rfl

theorem kindWord_eq_toWord {o : Opnd} {k : Tok} (h : o.tok = some k) :
    kindWord o = toWord (k.kind.toNat + 4 * k.last.toNat + 8 * k.utag.toNat + 32 * k.poison.toNat) := by
  have hcast : toWord (k.kind.toNat + 4 * k.last.toNat + 8 * k.utag.toNat + 32 * k.poison.toNat)
      = BitVec.ofNat 64 (k.kind.toNat + 4 * k.last.toNat + 8 * k.utag.toNat + 32 * k.poison.toNat) := by
    rw [← toWord_natCast]; norm_cast
  have hword : kindWord o = 0#58 ++ BitVec.ofBool k.poison ++ k.utag ++ BitVec.ofBool k.last ++ k.kind := by
    rw [kindWord, h]
  rw [hword, hcast]
  generalize k.kind = kind
  generalize k.utag = utag
  cases k.last <;> cases k.poison <;> revert kind utag <;> decide

/-- Settles O7: the gate of each routing word opens on its operands, and what it puts in flight is the passed operand, or the
MARK, DONE token or empty landing of its rule. -/
theorem routingWordsPass : Obligations.RoutingWordsPass := by
  unfold Obligations.RoutingWordsPass
  refine ⟨?_, ?_, ?_, ?_, ?_, ?_, ?_, ?_⟩
  · intro t d a p s o h
    show execMov t d a p s = _
    have hl := passLanding_eq_passedLanding (v := .std t d [a] p) (tag := s.boundTag) (.inr (testBits_64 o.val))
    simp only [execMov, State.gate_of_clear h, ← hl]; rfl
  · intro t d c kept p s o k h hk
    show execKind t d c kept p s = _
    have hw : ERes.int (kindWord o) = .whole (kindWord o) 0 := ERes.int_eq_whole _
    simp only [execKind, State.gate_of_clear h, List.headD_cons, hw, ← kindWord_eq_toWord hk]
    simp only [ERes.whole, landingOf, dataTok, sideOf_eq_firstSide]
    rfl
  · intro t o a b s x c h
    show execSteer t o a b s = _
    rw [execSteer, State.gateSteer_of_clear h, ← passTok_eq_passedTok]; rfl
  · intro t d iT iF iC s x c h
    show execMergec t d iT iF iC s = _
    rw [execMergec, State.gateMergec_of_clear h, ← passLanding_of_no_pred]; rfl
  · intro t d a b s x c h
    show execGate t d a b s = _
    simp only [execGate, State.gate_of_clear (pols := [polValue, {}]) h, ← passLanding_of_no_pred]; rfl
  · intro t d a b s x c h
    show execJoin t d a b s = _
    simp only [execJoin, State.gate_of_clear (pols := [polValue, polValue]) h, ← passLanding_of_no_pred]; rfl
  · intro t o code s h
    show execMarki t o code s = _
    simp only [execMarki, markiView, State.gate_of_clear h]; rfl
  · intro t o a s x h
    show execEmitd t o a s = _
    rw [execEmitd, State.gate_of_clear (v := emitdView t o a) (pols := [polValue]) h, ← passTok_eq_passedTok]; rfl


/-! PROOFS. What an issue changes: channels, counts, the ticket, and its own element (R96). -/

/-! ## Counting alone (R375, R396) -/

/-- A state that differs from another in counts and in which regions are busy, and in nothing else. -/
structure State.OnlyCounts (s t : State) : Prop where
  rest : t = { s with regions := t.regions }
  regions : ∀ r, t.region r =
    { s.region r with ctr := (t.region r).ctr, ctrNow := (t.region r).ctrNow, busy := (t.region r).busy }

theorem State.OnlyCounts.refl (s : State) : s.OnlyCounts s := ⟨rfl, fun _ => rfl⟩

theorem State.OnlyCounts.trans {s t w : State} (h : s.OnlyCounts t) (h' : t.OnlyCounts w) : s.OnlyCounts w := by
  refine ⟨?_, fun r => ?_⟩
  · rw [h'.rest, h.rest]
  · have hw := h'.regions r
    rw [h.regions r] at hw
    exact hw

theorem State.OnlyCounts.foldl {α : Type} {f : State → α → State} (hf : ∀ (s : State) x, s.OnlyCounts (f s x)) (l : List α) (s : State) :
    s.OnlyCounts (l.foldl f s) := by
  induction l generalizing s with
  | nil => exact .refl s
  | cons x l ih => exact (hf s x).trans (ih _)

theorem State.onlyCounts_modRegion (s : State) (q : Nat) (f : Region → Region)
    (hf : ∀ R : Region, f R = { R with ctr := (f R).ctr, ctrNow := (f R).ctrNow, busy := (f R).busy }) :
    s.OnlyCounts (s.modRegion q f) := by
  refine ⟨rfl, fun r => ?_⟩
  rw [State.region_modRegion]
  split
  · next h => rw [h]; exact hf _
  · rfl

theorem State.count_onlyCounts (s : State) (r num n : Nat) : s.OnlyCounts (s.count r num n) :=
  s.onlyCounts_modRegion r _ fun _ => rfl

theorem State.countPort_onlyCounts (s : State) (r p k n : Nat) : s.OnlyCounts (s.countPort r p k n) :=
  s.count_onlyCounts ..

theorem State.stir_onlyCounts (s : State) (r : Nat) : s.OnlyCounts (s.stir r) := s.onlyCounts_modRegion r _ fun _ => rfl

theorem State.countEvent_onlyCounts (s : State) (r ev : Nat) (tag : Byte) (n : Nat) :
    s.OnlyCounts (s.countEvent r ev tag n) := by
  refine .foldl (fun s x => ?_) _ s
  dsimp only
  split
  · exact s.count_onlyCounts ..
  · exact .refl s

theorem State.countIssue_onlyCounts (s : State) (u : UnitId) (slot num : Nat) : s.OnlyCounts (s.countIssue u slot num) := by
  refine (s.count_onlyCounts u.region num 1).trans (.foldl (fun s x => ?_) _ _)
  dsimp only
  split
  · exact s.count_onlyCounts ..
  · exact .refl s

theorem State.OnlyCounts.unit {s t : State} (h : s.OnlyCounts t) (u : UnitId) : t.unit u = s.unit u := by rw [h.rest]; rfl

theorem State.OnlyCounts.chan {s t : State} (h : s.OnlyCounts t) (k : Sink) : t.chan k = s.chan k := by rw [h.rest]; rfl

/-! ## Channels alone -/

/-- A state that differs from another in its channels and in nothing else. -/
def State.OnlyChans (s t : State) : Prop := t = { s with chans := t.chans }

theorem State.OnlyChans.refl (s : State) : s.OnlyChans s := rfl

theorem State.OnlyChans.trans {s t w : State} (h : s.OnlyChans t) (h' : t.OnlyChans w) : s.OnlyChans w := by
  rw [State.OnlyChans, h', h]

theorem State.OnlyChans.foldl {α : Type} {f : State → α → State} (hf : ∀ (s : State) x, s.OnlyChans (f s x)) (l : List α)
    (s : State) : s.OnlyChans (l.foldl f s) := by
  induction l generalizing s with
  | nil => exact .refl s
  | cons x l ih => exact (hf s x).trans (ih _)

theorem State.dequeue_onlyChans (s : State) (u : UnitId) (i : Nat) : s.OnlyChans (s.dequeue u i) := rfl

theorem State.consume_onlyChans (s : State) (u : UnitId) (as : List Src) : s.OnlyChans (s.consume u as) := by
  induction as generalizing s with
  | nil => exact .refl s
  | cons a as ih =>
    cases a with
    | take i => exact (s.dequeue_onlyChans u i.toNat).trans (ih _)
    | x | keep | zero | one | ones | elid => exact ih s

theorem State.reserve_onlyChans (s : State) (u : UnitId) (o tick : Nat) : s.OnlyChans (s.reserve u o tick) :=
  .foldl (fun s k => (rfl : s.OnlyChans (s.modChan k _))) _ s

theorem State.reserveAll_onlyChans (s : State) (u : UnitId) (tick : Nat) (os : List Nat) :
    s.OnlyChans (s.reserveAll u tick os) := by
  induction os generalizing s with
  | nil => exact .refl s
  | cons o os ih => exact (s.reserve_onlyChans u o tick).trans (ih _)

/-! ## An issue (R96) -/

/-- The channels as an issue leaves them. -/
def State.issueChans (s : State) (v : EView) : State :=
  (({ s with ticket := s.ticket + 1 } : State).consume s.site.unit v.ins).reserveAll s.site.unit s.ticket (v.outs.map BitVec.toNat)

/-- The element as an issue leaves it. -/
def EUnit.issue (x : EUnit) (v : EView) : EUnit :=
  { x.modCtx v.trig.ctx.toNat (fun c => c.pend v) with issued := true, lastCtx := v.trig.ctx.toNat }

theorem State.issueChans_eq (s : State) (v : EView) :
    s.issueChans v = { s with ticket := s.ticket + 1, chans := (s.issueChans v).chans } := by
  exact (State.consume_onlyChans _ _ _).trans (State.reserveAll_onlyChans _ _ _ _)

/-- An issue is the change of its channels and its element, and counts. -/
theorem State.issue_onlyCounts (s : State) (v : EView) :
    ((s.issueChans v).modUnit s.site.unit (fun x => x.issue v)).OnlyCounts (s.issue v) :=
  (State.countIssue_onlyCounts ..).trans (State.stir_onlyCounts ..)

/-- An issue leaves everything but the ticket, its channels, its element and counts. -/
theorem State.issue_eq (s : State) (v : EView) : s.issue v = { s with
    ticket := s.ticket + 1, chans := (s.issueChans v).chans,
    units := s.units.set s.site.unit ((s.unit s.site.unit).issue v), regions := (s.issue v).regions } := by
  have h := (s.issue_onlyCounts v).rest
  rw [s.issueChans_eq v] at h
  exact h

section
variable (s : State) (v : EView)

@[simp] theorem State.issue_cyc : (s.issue v).cyc = s.cyc := by rw [State.issue_eq]
@[simp] theorem State.issue_site : (s.issue v).site = s.site := by rw [State.issue_eq]
@[simp] theorem State.issue_pairs : (s.issue v).pairs = s.pairs := by rw [State.issue_eq]
@[simp] theorem State.issue_dies : (s.issue v).dies = s.dies := by rw [State.issue_eq]
@[simp] theorem State.issue_wires : (s.issue v).wires = s.wires := by rw [State.issue_eq]

@[simp] theorem State.issue_unit : (s.issue v).unit s.site.unit = (s.unit s.site.unit).issue v := by
  rw [(s.issue_onlyCounts v).unit, State.unit_modUnit_same, s.issueChans_eq v]
  rfl

theorem State.issue_unit_other {u : UnitId} (h : u ≠ s.site.unit) : (s.issue v).unit u = s.unit u := by
  rw [(s.issue_onlyCounts v).unit, State.unit_modUnit_other _ h, s.issueChans_eq v]
  rfl

theorem State.issue_chan (k : Sink) : (s.issue v).chan k = (s.issueChans v).chan k := by
  rw [(s.issue_onlyCounts v).chan]
  rfl

theorem State.issue_region (r : Nat) : (s.issue v).region r = { s.region r with
    ctr := ((s.issue v).region r).ctr, ctrNow := ((s.issue v).region r).ctrNow, busy := ((s.issue v).region r).busy } := by
  have h := (s.issue_onlyCounts v).regions r
  rw [s.issueChans_eq v] at h
  exact h

end


/-! PROOFS. What an issue takes from its inputs and asks of its outputs. -/

@[simp] theorem Chan.pop_inq (c : Chan) : c.pop.inq = c.inq.tail := by
  unfold Chan.pop
  split
  · next h => rw [h]; rfl
  · next h => rw [h]; rfl

@[simp] theorem Chan.pop_places (c : Chan) : c.pop.places = c.places := by
  unfold Chan.pop
  split <;> rfl

theorem State.chan_modChan (s : State) (k j : Sink) (f : Chan → Chan) :
    (s.modChan k f).chan j = if j = k then f (s.chan k) else s.chan j := Map.get_set ..

theorem State.dequeue_places (s : State) (u : UnitId) (i : Nat) (k : Sink) :
    ((s.dequeue u i).chan k).places = (s.chan k).places := by
  rw [State.dequeue, State.chan_modChan]
  split
  · next h => rw [h, Chan.pop_places]
  · rfl

theorem State.dequeue_inq (s : State) (u : UnitId) (i j : Nat) : ((s.dequeue u i).chan (.inp u j)).inq =
    if j = i then (s.chan (.inp u j)).inq.tail else (s.chan (.inp u j)).inq := by
  rw [State.dequeue, State.chan_modChan]
  by_cases h : j = i <;> simp [h]

theorem State.consume_places (s : State) (u : UnitId) (as : List Src) (k : Sink) :
    ((s.consume u as).chan k).places = (s.chan k).places := by
  induction as generalizing s with
  | nil => rfl
  | cons a as ih =>
    cases a with
    | take i => exact (ih _).trans (s.dequeue_places u i.toNat k)
    | x | keep | zero | one | ones | elid => exact ih s

/-- Each consumed input loses as many tokens as the word names it. -/
theorem State.consume_inq (s : State) (u : UnitId) (as : List Src) (c : BitVec 3) :
    ((s.consume u as).chan (.inp u c.toNat)).inq = (s.chan (.inp u c.toNat)).inq.drop (as.count (.take c)) := by
  induction as generalizing s with
  | nil => rfl
  | cons a as ih =>
    cases a with
    | take i =>
      refine (ih _).trans ?_
      simp only [State.dequeue_inq, BitVec.toNat_inj, List.count_cons]
      by_cases h : c = i
      · simp [h]
      · have hne : ¬ Src.take i = Src.take c := fun e => h (by cases e; rfl)
        simp [h, hne]
    | x | keep | zero | one | ones | elid =>
      refine (ih s).trans ?_
      rw [List.count_cons_of_ne (by simp)]

/-- Reserving touches places alone. -/
theorem State.reserve_inq (s : State) (u : UnitId) (o tick : Nat) (k : Sink) :
    ((s.reserve u o tick).chan k).inq = (s.chan k).inq := by
  unfold State.reserve
  generalize s.branches u o = l
  induction l generalizing s with
  | nil => rfl
  | cons j l ih =>
    refine (ih _).trans ?_
    rw [State.chan_modChan]
    split
    · next h => rw [h]
    · rfl

theorem State.reserveAll_inq (s : State) (u : UnitId) (tick : Nat) (os : List Nat) (k : Sink) :
    ((s.reserveAll u tick os).chan k).inq = (s.chan k).inq := by
  induction os generalizing s with
  | nil => rfl
  | cons o os ih => exact (ih _).trans (s.reserve_inq u o tick k)

/-- A branch that stands once among an output's takes one place. -/
theorem State.reserve_places (s : State) (u : UnitId) (o tick : Nat) {k : Sink} (hnodup : (s.branches u o).Nodup)
    (hk : k ∈ s.branches u o) : ((s.reserve u o tick).chan k).places = (s.chan k).places ++ [(tick, none)] := by
  unfold State.reserve
  generalize s.branches u o = l at hnodup hk
  have hother : ∀ (l : List Sink) (s : State), k ∉ l → (l.foldl (fun s k => s.modChan k (fun c =>
      { c with places := c.places ++ [(tick, none)] })) s).chan k = s.chan k := by
    intro l
    induction l with
    | nil => exact fun _ _ => rfl
    | cons j l ih =>
      intro s hk
      rw [List.mem_cons, not_or] at hk
      exact (ih _ hk.2).trans (State.chan_modChan_other _ hk.1 _)
  induction l generalizing s with
  | nil => cases hk
  | cons j l ih =>
    obtain ⟨hj, hl⟩ := List.nodup_cons.1 hnodup
    rw [List.foldl_cons]
    by_cases h : k = j
    · subst h
      rw [hother _ _ hj, State.chan_modChan_same]
    · rw [ih _ hl ((List.mem_cons.1 hk).resolve_left h), State.chan_modChan_other _ h]

theorem Dst.outs_length (d : Dst) : d.outs.length ≤ 1 := by cases d <;> simp [Dst.outs]

theorem RegDst.outs_length (d : RegDst) : d.outs.length ≤ 1 := by
  unfold RegDst.outs
  split <;> simp

/-- An element word has at most two operands and one output. -/
theorem Instr.eview_shape {i : Instr} {v : EView} (h : i.eview = some v) : v.ins.length ≤ 2 ∧ v.outs.length ≤ 1 := by
  cases i with
  | shin | fmacS | fmacD | acas =>
    cases h
    exact ⟨by simp [EView.rmw], RegDst.outs_length _⟩
  | ceqi | clti | cltui =>
    cases h
    exact ⟨by simp [EView.std], by simp [EView.std, Dst.outs]⟩
  | steer | dup | marki | emitd | xgrant | xsend | xrecv | agen | agset | agrst =>
    cases h
    exact ⟨by simp, by simp⟩
  | mov | add | sub | mul | mulhs | mulhu | and | or | xor | andn | shl | shr | sar | min | max | minu | maxu | adds | subs | clz
  | popc | sext | zext | ceq | cne | clt | cle | cltu | cleu | ctst | addi | andi | ori | xori | shli | shri | sari 
  | movi | faddS | fsubS | fmulS | fminS | fmaxS | frsqeS | frcpeS | fceqS | fcltS | fcleS | fcunS
  | faddD | fsubD | fmulD | fminD | fmaxD | fceqD | fcltD | fcleD | fcunD | mergec | gate | join | kind | ld | ldas | st | stw
  | sth | stb | stsc | stsp | aadd | amin | amax | aand | aor | axor | axchg | aadds | cvtRne | cvtRtz | cvtRdn | cvtRup =>
    cases h
    exact ⟨by simp [EView.std], by simpa [EView.std] using Dst.outs_length _⟩
  | _ => cases h

/-- A word that names no channel twice takes at most one token of an input. -/
theorem count_take_of_distinct {ins : List Src} (hlen : ins.length ≤ 2) (h : chansDistinct ins = true) (c : BitVec 3) :
    ins.count (.take c) = if Src.take c ∈ ins then 1 else 0 := by
  match ins, hlen with
  | [], _ => rfl
  | [a], _ => by_cases hc : a = .take c <;> simp [hc, eq_comm]
  | [a, b], _ =>
    by_cases ha : a = .take c <;> by_cases hb : b = .take c
    · subst ha hb
      have hnone : (Src.take c).chan? = none := by simpa [chansDistinct] using h
      cases hnone
    all_goals simp [ha, hb, eq_comm]

theorem Instr.distinct_of_wf {i : Instr} {v : EView} (hv : i.eview = some v) (hwf : i.wf = true) :
    chansDistinct v.ins = true := by
  rw [Instr.wf, hv, Bool.and_eq_true, Bool.and_eq_true] at hwf
  exact hwf.2.1

theorem getLsbD_setBit_self {n : Nat} (x : BitVec n) {k : Nat} (hk : k < n) : (setBit x k true).getLsbD k = true := by
  rw [getLsbD_setBit x true hk, if_pos rfl]

theorem State.issue_context (s : State) (v : EView) : (((s.issue v).unit s.site.unit).context v.trig.ctx.toNat) =
    ((s.unit s.site.unit).context v.trig.ctx.toNat).pend v := by
  rw [State.issue_unit]
  exact (EUnit.context_modCtx _ _ (fun c => c.pend v) _).trans (if_pos rfl)

/-- Settles O4: the inputs consumed lose their head, each branch of an output takes one place of the word's ticket, and the
scoreboard bits of its destinations are set. -/
theorem issueTakesInputsAndReserves : Obligations.IssueTakesInputsAndReserves := by
  intro i v s hv hwf
  obtain ⟨hins, houts⟩ := Instr.eview_shape hv
  refine ⟨fun c => ?_, fun o ho hnodup k hk => ?_, fun r hr => ?_, fun j hj => ?_⟩
  · rw [State.issue_chan, State.issueChans, State.reserveAll_inq, State.consume_inq,
      count_take_of_distinct hins (Instr.distinct_of_wf hv hwf)]
    split
    · exact List.drop_one
    · rfl
  · obtain ⟨o', hone⟩ : ∃ o', v.outs = [o'] := List.length_eq_one_iff.1 (le_antisymm houts (List.length_pos_of_mem ho))
    obtain rfl : o = o' := by simpa [hone] using ho
    have hbranches : (({ s with ticket := s.ticket + 1 } : State).consume s.site.unit v.ins).branches s.site.unit o.toNat =
        s.branches s.site.unit o.toNat := by
      rw [State.consume_onlyChans]; rfl
    rw [State.issue_chan, State.issueChans, hone]
    refine (State.reserve_places _ _ _ _ (hbranches ▸ hnodup) (hbranches ▸ hk)).trans ?_
    rw [State.consume_places]
    rfl
  · rw [State.issue_context, Ctx.pend, hr]
    exact getLsbD_setBit_self _ r.isLt
  · rw [State.issue_context, Ctx.pend, hj]
    exact getLsbD_setBit_self _ j.isLt


/-! PROOFS. Words that place several tokens, and the address generator's registers (R318, R328). -/

theorem pairOut_toNat (o : BitVec 2) (odd : Bool) : (pairOut o odd).toNat = 2 * o.toNat + odd.toNat := by
  cases odd <;> revert o <;> decide

section
variable (s : State) (v : EView) (tick : Nat) (ctx : BitVec 2) (slot lat : Nat)

/-- A firing of several tokens stands at its element as it was started. -/
theorem State.startMulti_multi (u : UnitId) (src : MultiSrc) (fin : Landing) :
    ((s.startMulti u tick ctx slot lat src fin).unit u).multi = some ⟨tick, s.cyc + lat, ctx.toNat, slot, src, true, fin, none⟩ := by
  rw [State.startMulti, State.unit_modUnit_same]

theorem State.issue_startMulti_multi (src : MultiSrc) (fin : Landing) :
    (((s.issue v).startMulti s.site.unit tick ctx slot lat src fin).unit s.site.unit).multi =
      some ⟨tick, s.cyc + lat, ctx.toNat, slot, src, true, fin, none⟩ := by
  rw [State.startMulti_multi, State.issue_cyc]

/-- A landing without tokens ends no pass. -/
theorem State.fly_flights_of_no_toks (u : UnitId) (l : Landing) (htoks : l.toks = []) (hrot : l.rot = none) :
    ((s.fly u tick ctx slot lat l).unit u).flights = (s.unit u).flights ++ [⟨tick, s.cyc + lat, ctx.toNat, slot, l⟩] := by
  have hl : ({ l with rot := s.rotOf u l.dataOuts } : Landing) = l := by
    cases l
    cases htoks
    cases hrot
    rfl
  rw [State.fly, State.unit_modUnit_same, hl]

end

/-- Checks at issue that say nothing of an operand are the usual ones. -/
theorem State.Clear.with_plain_checks {s : State} {v : EView} {ops : List Opnd} (h : s.Clear v [] ops) (n : Nat) :
    s.Clear v (List.replicate n {}) ops := by
  obtain ⟨able, srcs, checks, clean⟩ := h
  refine ⟨able, srcs, fun k o hk => ?_, clean⟩
  have hpol : (List.replicate n ({} : Pol)).getD k {} = {} := by
    rw [List.getD, List.getElem?_replicate]
    split <;> rfl
  rw [hpol]
  exact checks k o hk

/-- What AGSET and AGRST leave: a stride of the issuing context, and a register in flight. -/
theorem State.issue_setStride_fly (s : State) (v : EView) (t : Trig) (g : BitVec 3) (st x : Word) :
    let w := ((s.issue v).modUnit s.site.unit (fun y => { y with stride := y.stride.set (t.ctx.toNat, g) st })).fly s.site.unit
      s.ticket t.ctx s.site.slot 1 { reg := some (g, x, false), regPend := some g }
    (w.unit s.site.unit).stride.get (t.ctx.toNat, g) 0 = st ∧ (w.unit s.site.unit).flights = (s.unit s.site.unit).flights ++
      [⟨s.ticket, s.cyc + 1, t.ctx.toNat, s.site.slot, { reg := some (g, x, false), regPend := some g }⟩] := by
  refine ⟨?_, ?_⟩
  · rw [State.fly, State.unit_modUnit_same, State.unit_modUnit_same]
    exact Map.get_set_same ..
  · rw [State.fly_flights_of_no_toks _ _ _ _ _ _ _ rfl rfl, State.unit_modUnit_same, State.issue_unit, State.modUnit_cyc,
      State.issue_cyc]
    rfl

/-- Settles O8: past their gates, DUP and AGEN start the firing the rule says, AGEN of no or one address a flight; AGSET and AGRST
write a stride and put the register in flight. -/
theorem multiTokenWordsFire : Obligations.MultiTokenWordsFire := by
  unfold Obligations.MultiTokenWordsFire
  refine ⟨fun t o a s x h => ?_, fun t g b s x c h => ?_, fun t g a m s x h => ?_, fun t g s h => ?_⟩
  · have hexec : exec (.dup t o a) s = .next ((s.issue (dupView t o a)).startMulti s.site.unit s.ticket t.ctx s.site.slot 1
        (.toks [((pairOut o false).toNat, passTok s.boundTag x), ((pairOut o true).toNat, passTok s.boundTag x)]) {}) := by
      show execDup t o a s = _
      rw [execDup, State.gate_of_clear (v := dupView t o a) (pols := [polValue]) h]; rfl
    refine ⟨_, hexec, ?_⟩
    rw [State.issue_startMulti_multi, pairOut_toNat, pairOut_toNat, passTok_eq_passedTok]; rfl
  · have hgate : s.gate (agenView t g b) [{}, {}] = .go [x, c] := State.gate_of_clear (h.with_plain_checks 2)
    refine ⟨fun hn => ?_, fun hn => ?_, fun hn => ?_⟩
    · show execAgen t g b s = _
      simp only [execAgen, hgate, lo32, hn]; rfl
    · show execAgen t g b s = _
      have hbase : x.val + BitVec.ofNat 64 0 * (s.unit s.site.unit).stride.get (t.ctx.toNat, g) 0 = x.val := by simp
      simp only [execAgen, hgate, lo32, hn, agenTok, hbase]; rfl
    · have h0 : ¬ c.val.toNat % 2 ^ 32 = 0 := by omega
      have h1 : ¬ c.val.toNat % 2 ^ 32 = 1 := by omega
      refine ⟨_, show execAgen t g b s = _ by simp only [execAgen, hgate, lo32, h0, h1, if_false]; rfl, ?_⟩
      rw [State.issue_startMulti_multi]
  · have hgate : s.gate { trig := t, ins := [a], regDst := some g } [{}] = .go [x] :=
      State.gate_of_clear (h.with_plain_checks 1)
    refine ⟨_, show execAgset t g a m s = _ by simp only [execAgset, hgate]; rfl, ?_⟩
    exact s.issue_setStride_fly { trig := t, ins := [a], regDst := some g } t g (imm9 m) x.val
  · have hgate := State.gate_of_clear h
    refine ⟨_, show execAgrst t g s = _ by simp only [execAgrst, hgate]; rfl, ?_⟩
    exact s.issue_setStride_fly { trig := t, ins := [], regDst := some g } t g 0 0


/-! PROOFS. Memory words and the ports that accept their requests (R302-R308). -/

/-! ## The gates of memory words -/

section
variable {s : State} {v : EView} {pols : List Pol} {ops : List Opnd}

theorem EUnit.portBlocked_of_open {op : MemOp} (h : s.PortOpen op) :
    (s.unit s.site.unit).portBlocked op.bankClass = false := by
  rw [EUnit.portBlocked, List.any_eq_false]
  intro q hq
  obtain ⟨hheld, hwalk⟩ := h q hq
  by_cases hw : q.stage = .walking
  · simp [hw, hwalk hw]
  · simp [hw, hheld]

theorem State.gateMem_of_clear {op : MemOp} (ho : s.PortOpen op) (hc : s.Clear v pols ops) :
    s.gateMem v pols op.bankClass = .go ops := by
  rw [State.gateMem, EUnit.portBlocked_of_open ho, State.gate_of_clear hc]; rfl

theorem State.gateStamped_of_clear {op : MemOp} {sys : Bool} {rest : List Opnd} (hop : op.stampScope? = some sys)
    (ho : s.PortOpen op) (hs : s.StampsOk op rest) (hc : s.Clear v pols ops) : s.gateStamped sys v pols = .go ops := by
  have hclass : op.bankClass = 7 := by simp [MemOp.bankClass, hop]
  have hgate := State.gateMem_of_clear ho hc
  rw [hclass] at hgate
  simp only [State.gateStamped, hgate, hs.1 sys hop]; rfl

end

/-- A word past its gate leaves the request that R302 says. -/
theorem memGo_go {s : State} {v : EView} {op : MemOp} {ord : MemOrder} {exp : Word} {a : Opnd} {rest : List Opnd}
    (hexp : exp = if op = .amo 7 then ((s.unit s.site.unit).context v.trig.ctx.toNat).x.get (v.reads.headD 0).toFin else 0) :
    memGo s v op ord exp (.go (a :: rest)) = (s.issue v).accept s.site.unit (s.request v op ord a rest) := by
  subst hexp
  have hdata : (rest.headD { val := 0 }).val = (rest.map Opnd.val).headD 0 := by cases rest <;> rfl
  have hpoison : (rest.headD { val := 0 }).poison = (rest.map Opnd.poison).headD false := by cases rest <;> rfl
  simp only [memGo, memReq, State.request, List.headD_cons, List.drop_one, List.tail_cons, hdata, hpoison, sideOf_eq_firstSide]

section
variable {s : State} {t : Trig} {d : Dst} {x y : Src} {a : Opnd} {rest : List Opnd} {o : MemOrder}

theorem execStore_of_clear {n : Nat} (ho : s.PortOpen (.store n))
    (hc : s.Clear (.std t d [x, y] .none) [{ align := n }, { use := false }] (a :: rest)) :
    execStore n t d x y o s = .next ((s.issue (.std t d [x, y] .none)).accept s.site.unit
      (s.request (.std t d [x, y] .none) (.store n) o a rest)) := by
  have hgate : s.gateMem (.std t d [x, y] .none) [{ align := n }, { use := false }] = .go (a :: rest) :=
    State.gateMem_of_clear ho hc
  simp only [execStore, hgate]
  rw [memGo_go (by rw [if_neg nofun])]

theorem execAmoWord_of_clear {k : Nat} (ho : s.PortOpen (.amo k)) (hk : k ≠ 7)
    (hc : s.Clear (.std t d [x, y] .none) [{ align := 8 }, { use := amoUses k }] (a :: rest)) :
    execAmoWord k t d x y o s = .next ((s.issue (.std t d [x, y] .none)).accept s.site.unit
      (s.request (.std t d [x, y] .none) (.amo k) o a rest)) := by
  have hgate : s.gateMem (.std t d [x, y] .none) [{ align := 8 }, { use := amoUses k }] = .go (a :: rest) :=
    State.gateMem_of_clear ho hc
  have hop : ¬ MemOp.amo k = .amo 7 := fun h => hk (by cases h; rfl)
  simp only [execAmoWord, hgate]
  rw [memGo_go (by rw [if_neg hop])]

theorem execStampWord_of_clear {op : MemOp} {sys : Bool} (hscope : op.stampScope? = some sys) (hop : ¬ op = .amo 7)
    (ho : s.PortOpen op) (hs : s.StampsOk op rest)
    (hc : s.Clear (.std t d [x, y] .none) [{ align := 8 }, { use := false }] (a :: rest)) :
    execStampWord op t d x y sys s = .next ((s.issue (.std t d [x, y] .none)).accept s.site.unit
      (s.request (.std t d [x, y] .none) op .plain a rest)) := by
  simp only [execStampWord, State.gateStamped_of_clear hscope ho hs hc]
  rw [memGo_go (by rw [if_neg hop])]

theorem State.Clear.two_operands {v : EView} {pols : List Pol} {ops : List Opnd} (h : s.Clear v pols ops)
    (hins : v.ins = [x, y]) : ∃ p q, ops = [p, q] := by
  have hr := h.2.1
  rw [hins, State.readSrcs_cons] at hr
  obtain ⟨p, os, -, hr, rfl⟩ := hr
  rw [State.readSrcs_cons] at hr
  obtain ⟨q, os, -, hr, rfl⟩ := hr
  exact ⟨p, q, by rw [State.readSrcs_nil.1 hr]⟩

theorem execLdas_of_clear {sys : Bool} (ho : s.PortOpen (.ldas sys)) (hs : s.StampsOk (.ldas sys) rest)
    (hc : s.Clear (.std t d [x, y] .none) [{ align := 8 }, {}] (a :: rest)) :
    execLdas t d x y sys s = .next ((s.issue (.std t d [x, y] .none)).accept s.site.unit
      (s.request (.std t d [x, y] .none) (.ldas sys) .plain a rest)) := by
  obtain ⟨_, b, hab⟩ := hc.two_operands rfl
  obtain ⟨rfl, rfl⟩ := List.cons.inj hab
  have hl : ¬ (s.die (unitDie s.site.unit)).l < b.val.toNat := Nat.not_lt.2 (hs.2 sys rfl)
  have hgate : s.gateLdas sys (.std t d [x, y] .none) = .go [a, b] := by
    simp only [State.gateLdas, State.gateStamped_of_clear rfl ho hs hc, if_neg hl]
  simp only [execLdas, hgate]
  rw [memGo_go (by rw [if_neg nofun])]

end

/-- Each memory word that is clear leaves its request. -/
theorem memoryWordsLeaveRequests : Says.MemoryWordsLeaveRequests := by
  intro i v s op o pols a rest hv hw ho hc hs
  cases i with
  | ld t d x n =>
    cases hv; cases hw
    have hgate := State.gateMem_of_clear ho hc
    show execLd .. = _
    simp only [execLd]
    exact congrArg _ ((congrArg _ hgate).trans (memGo_go (by rw [if_neg nofun])))
  | st | stw | sth | stb => cases hv; cases hw; exact execStore_of_clear ho hc
  | aadd | amin | amax | aand | aor | axor | axchg | aadds => cases hv; cases hw; exact execAmoWord_of_clear ho (by decide) hc
  | acas =>
    cases hv; cases hw
    have hgate := State.gateMem_of_clear ho hc
    show execAcas .. = _
    simp only [execAcas]
    exact congrArg _ ((congrArg _ hgate).trans (memGo_go (by rw [if_pos rfl]; rfl)))
  | stsc | stsp => cases hv; cases hw; exact execStampWord_of_clear rfl nofun ho hs hc
  | ldas => cases hv; cases hw; exact execLdas_of_clear ho hs hc
  | _ => cases hw

/-! ## Acceptance (R115, R134, R145, R382) -/

/-- Counts are no part of a translation. -/
theorem State.OnlyCounts.xlatWord {s t : State} (h : s.OnlyCounts t) (u : UnitId) (va : Word) (acc : Access) :
    t.xlatWord u va acc = s.xlatWord u va acc := by
  obtain ⟨c, n, b, hr⟩ : ∃ c n b, t.region u.region = { s.region u.region with ctr := c, ctrNow := n, busy := b } :=
    ⟨_, _, _, h.regions _⟩
  have hmem : t.mem = s.mem := by rw [h.rest]
  unfold State.xlatWord State.xlatPort State.pagedEntry State.translatePort State.translateBy State.scap
  rw [hr, hmem]
  rfl

/-- Counts are no part of what stamps a stamped access takes. -/
theorem State.OnlyCounts.die {s t : State} (h : s.OnlyCounts t) (d : Nat) : t.die d = s.die d := by rw [h.rest]; rfl

theorem State.OnlyCounts.stamped {s t : State} (h : s.OnlyCounts t) : t.stamped = s.stamped := by rw [h.rest]

/-- A request as its port notes it at acceptance (R382). -/
def State.notedReq (s : State) (u : UnitId) (q : PortReq) : PortReq :=
  { q with rot := if q.op.givesData = true then s.rotOf u q.outs else none }

/-- A request that joins the end of its port's queue. -/
def State.queueReq (s : State) (u : UnitId) (q : PortReq) : State := s.modUnit u (fun x => { x with reqs := x.reqs ++ [q] })

theorem State.queueReq_reqs (s : State) (u : UnitId) (q : PortReq) :
    ((s.queueReq u q).unit u).reqs = (s.unit u).reqs ++ [q] := by
  rw [State.queueReq, State.unit_modUnit_same]

section
variable {s : State} {u : UnitId} {q : PortReq}

theorem State.accept_of_spad (h : u.sub ≠ 19) : s.accept u q = s.queueReq u (s.notedReq u q) := by
  have hmpe : isMpe u = false := decide_eq_false h
  simp only [State.accept, hmpe]; rfl

theorem State.accept_of_mpe (h : u.sub = 19) : s.accept u q = (s.countPort u.region (unitPort u) 9 1).enqueue u (s.notedReq u q) := by
  have hmpe : isMpe u = true := decide_eq_true h
  simp only [State.accept, hmpe]; rfl

theorem State.enqueue_of_walk (h : s.xlatWord u q.addr q.op.access = .walk) :
    s.enqueue u q = (s.countPort u.region (unitPort u) 10 1).queueReq u { q with stage := .walking } := by
  simp only [State.enqueue, h]; rfl

theorem State.enqueue_of_done {t : Target} (h : s.xlatWord u q.addr q.op.access = .done (.ok t)) :
    s.enqueue u q = (s.admitNear u q t).1.queueReq u (s.admitNear u q t).2 := by
  simp only [State.enqueue, h]; rfl

/-- A request that is not stamped, or that crosses links, joins its port as it is (R134). -/
theorem State.admitNear_of_plain {t : Target} (h : q.op.stampScope? = none ∨ remoteRoute (unitDie u) t.addr ≠ []) :
    s.admitNear u q t = (s, q) := by
  rw [State.admitNear]
  split
  · next hnear =>
    have hscope := h.resolve_right (by simpa using hnear)
    rw [State.admitStamped]
    cases hop : q.op with
    | load | store | amo => rfl
    | stsc | stsp | ldas => simp [hop, MemOp.stampScope?] at hscope
  · rfl

theorem State.assignStamp_fst (d : Nat) : (s.assignStamp d).1 = max (s.die d).l ((s.die d).last + 1) := by
  simp only [State.assignStamp]
  split <;> omega

theorem State.assignStamp_snd (d : Nat) :
    (s.assignStamp d).2 = s.modDie d (fun D => { D with last := max (s.die d).l ((s.die d).last + 1) }) := by
  rw [← State.assignStamp_fst]; rfl

/-- A stamped store that stays on its die takes its stamp at acceptance (R145, R307). -/
theorem State.admitNear_stamps {t : Target} {sys : Bool} (hop : q.op = .stsc sys ∨ q.op = .stsp sys)
    (hnear : remoteRoute (unitDie u) t.addr = []) :
    let w := (s.admitNear u q t).1
    let stamp := max (s.die (unitDie u)).l ((s.die (unitDie u)).last + 1)
    (w.die (unitDie u)).last = stamp ∧ w.stamped.length = s.stamped.length + 1 ∧
      ∃ x, w.stamped.getLast? = some x ∧ x.stamp = stamp ∧ x.phys = t.addr ∧ x.data = q.data ∧ x.sys = sys := by
  have hempty : (remoteRoute (unitDie u) t.addr).isEmpty = true := by rw [hnear]; rfl
  have hlast : ((s.assignStamp (unitDie u)).2.die (unitDie u)).last = max (s.die (unitDie u)).l ((s.die (unitDie u)).last + 1) := by
    rw [State.assignStamp_snd, State.die_modDie_same]
  have hlen : (s.assignStamp (unitDie u)).2.stamped = s.stamped := by rw [State.assignStamp_snd]; rfl
  rcases hop with hop | hop
  all_goals
    simp only [State.admitNear, hempty, State.admitStamped, hop, if_true]
    refine ⟨hlast, by rw [hlen, List.length_append]; rfl, _, List.getLast?_concat, ?_, rfl, rfl, rfl⟩
    exact State.assignStamp_fst _

end

/-- What an accepted request leaves at its port. -/
theorem acceptedRequestsQueue : Says.AcceptedRequestsQueue := by
  intro s u q q'
  have hcount := s.countPort_onlyCounts u.region (unitPort u) 9 1
  refine ⟨fun h => ?_, fun h hx => ?_, fun h t hx hfar => ?_, fun h t sys hx hop hnear => ?_⟩
  · rw [State.accept_of_spad h, State.queueReq_reqs]; rfl
  · rw [State.accept_of_mpe h, State.enqueue_of_walk (q := s.notedReq u q) ((hcount.xlatWord ..).trans hx), State.queueReq_reqs]
    rw [(State.countPort_onlyCounts ..).unit, hcount.unit]; rfl
  · rw [State.accept_of_mpe h, State.enqueue_of_done (q := s.notedReq u q) ((hcount.xlatWord ..).trans hx), State.admitNear_of_plain (q := s.notedReq u q) hfar,
      State.queueReq_reqs, hcount.unit]
    rfl
  · rw [State.accept_of_mpe h, State.enqueue_of_done (q := s.notedReq u q) ((hcount.xlatWord ..).trans hx)]
    have hstamps := State.admitNear_stamps (s := s.countPort u.region (unitPort u) 9 1) (q := s.notedReq u q) hop hnear
    rw [hcount.die, hcount.stamped] at hstamps
    exact hstamps

/-- Settles O9: a clear memory word passes its gate and leaves its request; acceptance is a queue's end, a walk or a stamp. -/
theorem memoryWordsRequest : Obligations.MemoryWordsRequest := ⟨memoryWordsLeaveRequests, acceptedRequestsQueue⟩


/-! PROOFS. The words of the exchange (R330, R331, R333). -/

/-! ## Pairs and the note of a pass -/

@[simp] theorem Pair.buf_setBuf_same (p : Pair) (par : Bool) (b : XBuf) : (p.setBuf par b).buf par = b := by
  cases par <;> rfl

@[simp] theorem Pair.order_setBuf (p : Pair) (par : Bool) (b : XBuf) : (p.setBuf par b).order = p.order := by
  cases par <;> rfl

theorem Pair.buf_with_order (p : Pair) (par : Bool) (l : List Bool) : ({ p with order := l } : Pair).buf par = p.buf par := rfl

@[simp] theorem State.pair?_setPair_same (s : State) (k : Nat) (p : Pair) : (s.setPair k p).pair? k = some p :=
  Map.get?_set_same ..

/-- Where a pass ends depends on the rotation counter and the element's firings alone. -/
theorem State.rotOf_congr {s t : State} {u : UnitId} {c n : Map Nat Nat} {b : Bool}
    (hregion : t.region u.region = { s.region u.region with ctr := c, ctrNow := n, busy := b })
    (hflights : (t.unit u).flights = (s.unit u).flights) (hreqs : (t.unit u).reqs = (s.unit u).reqs) (os : List Nat) :
    t.rotOf u os = s.rotOf u os := by
  have hends : t.passEnds u = s.passEnds u := by
    funext o
    unfold State.passEnds EUnit.pendingData
    rw [hregion, hflights, hreqs]
    rfl
  rw [State.rotOf, hends, State.rotOf]

theorem State.rotOf_issue (s : State) (v : EView) (os : List Nat) :
    (s.issue v).rotOf s.site.unit os = s.rotOf s.site.unit os :=
  State.rotOf_congr (s.issue_region v _) (by rw [State.issue_unit]; rfl) (by rw [State.issue_unit]; rfl) os

/-- A flight that leaves its element otherwise as an issue left it. -/
theorem State.fly_flights_noted {s w : State} (hcyc : w.cyc = s.cyc) (hrot : ∀ os, w.rotOf s.site.unit os = s.rotOf s.site.unit os)
    (hflights : (w.unit s.site.unit).flights = (s.unit s.site.unit).flights) (tick : Nat) (ctx : BitVec 2) (slot lat : Nat)
    (l : Landing) : ((w.fly s.site.unit tick ctx slot lat l).unit s.site.unit).flights =
      (s.unit s.site.unit).flights ++ [⟨tick, s.cyc + lat, ctx.toNat, slot, s.noted l⟩] := by
  rw [State.fly, State.unit_modUnit_same, hcyc, hrot, hflights]
  rfl

/-! ## XGRANT (R330) -/

theorem bool64_eq_truth (b : Bool) : bool64 b = truth (b = true) := by cases b <;> rfl

theorem State.gateXgrant_of_clear {s : State} {t : Trig} {o : BitVec 2} {a : Src} {x : Opnd} {k : Nat} {p : Pair}
    (h : s.Clear (xgrantView t o a) [] [x]) (hp : s.permitPair s.site.unit o.toNat = some (k, p))
    (hfree : (p.buf (x.val.getLsbD 0)).st = .free) : s.gateXgrant t o a = .go [x] := by
  have hgate : s.gate (xgrantView t o a) [{}] = .go [x] := State.gate_of_clear (h.with_plain_checks 1)
  simp only [State.gateXgrant, hgate, hp, hfree, if_true]

/-! ## XSEND (R331) -/

theorem State.gateXsend_of_able {s : State} {t : Trig} {o iS iP : BitVec 3} {x q : Opnd} {h : Tok} {k : Nat} {p : Pair}
    (hable : s.Able s.site.unit s.site.slot (xsendView t iS iP))
    (hsrcs : s.readSrcs s.site.unit t.ctx [.take iS, .take iP] = some [x, q]) (hx : x.tok = some h) (hkind : h.kind = 0)
    (hutag : h.utag = 1 ∨ h.utag = 2) (hq : q.check { use := false } = none)
    (hp : s.sendPair s.site.unit o.toNat = some (k, p)) (hpar : x.val.getLsbD 2 = q.val.getLsbD 0) :
    s.gateXsend t o iS iP = .go [x, q] := by
  have hready : s.ready (xsendView t iS iP) = true := State.ready_iff_able.2 hable
  have hsrcs : s.readSrcs s.site.unit t.ctx (xsendView t iS iP).ins = some [x, q] := hsrcs
  have hheader : (decide (h.kind ≠ 0) || (decide (h.utag ≠ 1) && decide (h.utag ≠ 2))) = false := by
    rcases hutag with hu | hu <;> simp [hkind, hu]
  simp only [State.gateXsend, hready, hsrcs, hx, hheader, hq, hp, hpar, if_true]
  rfl

theorem State.unit_setPair (s : State) (k : Nat) (p : Pair) (u : UnitId) : (s.setPair k p).unit u = s.unit u := rfl

/-- A word that takes one input alone leaves the others' queues. -/
theorem State.issue_take_inq (s : State) (t : Trig) (i c : BitVec 3) :
    ((s.issue { trig := t, ins := [.take i] }).chan (.inp s.site.unit c.toNat)).inq =
      if i = c then (s.chan (.inp s.site.unit c.toNat)).inq.tail else (s.chan (.inp s.site.unit c.toNat)).inq := by
  rw [State.issue_chan, State.issueChans, State.reserveAll_inq, State.consume_inq]
  by_cases h : i = c <;> simp [h, State.chan]

/-! ## XRECV (R333) -/

theorem State.recvReady_of_closed {s : State} {u : UnitId} {i k : Nat} {p : Pair} {par : Bool}
    (hp : s.recvPair u i = some (k, p)) (ho : p.order.head? = some par) (hc : (p.buf par).closed = true) :
    s.recvReady u i = some (k, p, par) := by
  obtain ⟨l, hl⟩ := List.head?_eq_some_iff.1 ho
  simp only [State.recvReady, hp, hl, hc, if_true]

theorem xrecvWord_eq_toWord (n : Nat) (par : Bool) : xrecvWord n par = toWord (n % 2 ^ 32 + 2 ^ 32 * par.toNat) := by
  have hcast : toWord (n % 2 ^ 32 + 2 ^ 32 * par.toNat) = BitVec.ofNat 64 (n % 2 ^ 32 + 2 ^ 32 * par.toNat) := by
    rw [← toWord_natCast]; norm_cast
  have hword : xrecvWord n par = BitVec.ofNat 32 par.toNat ++ BitVec.ofNat 32 n := by cases par <;> rfl
  have hpar : par.toNat < 2 := by cases par <;> decide
  rw [hcast, hword]
  apply BitVec.eq_of_toNat_eq
  rw [BitVec.toNat_append, ← Nat.shiftLeft_add_eq_or_of_lt (BitVec.isLt _), Nat.shiftLeft_eq]
  simp only [BitVec.toNat_ofNat]
  omega

/-- A word that writes its pair at issue puts its results in flight as any other. -/
theorem State.issue_setPair_fly_flights (s : State) (v : EView) (k : Nat) (p : Pair) (tick : Nat) (ctx : BitVec 2)
    (slot lat : Nat) (l : Landing) :
    ((((s.issue v).setPair k p).fly s.site.unit tick ctx slot lat l).unit s.site.unit).flights =
      (s.unit s.site.unit).flights ++ [⟨tick, s.cyc + lat, ctx.toNat, slot, s.noted l⟩] := by
  refine State.fly_flights_noted (w := (s.issue v).setPair k p) (s.issue_cyc v) (s.rotOf_issue v) ?_ tick ctx slot lat l
  rw [State.unit_setPair, State.issue_unit]
  rfl

/-- Settles O10: past its gate each exchange word writes its pair once, and its tokens and queues are those of its issue. -/
theorem exchangeWordsAct : Obligations.ExchangeWordsAct := by
  unfold Obligations.ExchangeWordsAct
  refine ⟨fun t o a s x k p h hp hfree => ?_, fun w k p par hp => ?_, fun t o iS iP s x q h k p hable hsrcs hx hkind hutag hq hp hpar => ?_,
    fun t o i s k p par h hp ho hc => ?_⟩
  · show execXgrant t o a s = _
    simp only [execXgrant, State.gateXgrant_of_clear h hp hfree, hp, bool64_eq_truth]
    rfl
  · rw [State.landGrant, hp]
  · refine ⟨_, show execXsend t o iS iP s = _ by
      simp only [execXsend, State.gateXsend_of_able hable hsrcs hx hkind hutag hq hp hpar, hp]; rfl, ?_, ?_, ?_⟩
    · exact ⟨_, State.pair?_setPair_same .., by simp [Pair.buf_with_order], by simp [Pair.buf_with_order], rfl⟩
    · rw [State.unit_modUnit_same, State.unit_setPair, State.issue_unit]
      rfl
    · refine (State.issue_take_inq s t iP iS).trans ?_
      simp only [eq_comm]
  · have hexec : exec (.xrecv t o i) s = .next (((s.issue (xrecvView t o)).setPair k
        { p.setBuf par { p.buf par with st := .full } with order := p.order.tail }).fly s.site.unit s.ticket t.ctx s.site.slot 1
        { toks := [(o.toNat, some { data := toWord ((p.buf par).n % 2 ^ 32 + 2 ^ 32 * par.toNat), tag := s.boundTag })] }) := by
      have hgate : s.gate (xrecvView t o) [] = .go [] := State.gate_of_clear h
      show execXrecv t o i s = _
      simp only [execXrecv, State.gateXrecv, State.recvReady_of_closed hp ho hc, hgate, xrecvWord_eq_toWord]
      rfl
    refine ⟨_, hexec, ⟨_, State.pair?_setPair_same .., by simp [Pair.buf_with_order], rfl⟩, ?_⟩
    exact s.issue_setPair_fly_flights ..


/-! PROOFS. The control core's arithmetic and immediate instructions (R257, R258, R277, R278). -/

/-! ## Registers read without a cause (R257) -/

theorem Core.badReg_eq_find? (k : Core) (l : List (BitVec 5)) : k.badReg l = l.find? (fun a => (k.read a).bad) := by
  induction l with
  | nil => rfl
  | cons a as ih => cases h : (k.read a).bad <;> simp [Core.badReg, h, ih]

theorem State.CleanRegs.badReg {s : State} {r : Nat} {l : List (BitVec 5)} (h : s.CleanRegs r l) : (s.core r).badReg l = none := by
  rw [Core.badReg_eq_find?, List.find?_eq_none]
  exact fun a ha => by rw [h a ha]; decide

theorem execAlu_of_clean {reads : List (BitVec 5)} {d : BitVec 5} {f : (BitVec 5 → Word) → Word} {s : State} {val : Word}
    (h : s.CleanRegs s.site.region reads) (hv : f (s.greg s.site.region) = val) :
    execAlu reads d f s = .next (s.retire s.site.region d val) := by
  rw [execAlu]
  simp only [h.badReg, hv]

theorem execAlu_of_bad {reads : List (BitVec 5)} {d a : BitVec 5} {f : (BitVec 5 → Word) → Word} {s : State}
    (h : reads.find? (fun a => ((s.core s.site.region).read a).bad) = some a) :
    execAlu reads d f s = .next (s.trapSync s.site.region 0x06 0 (a.setWidth 64) (s.core s.site.region).pc) := by
  rw [execAlu]
  simp only [Core.badReg_eq_find?, h]
  rfl

/-! ## The table's values (R277, R278) -/

theorem bool64_decide (p : Prop) [Decidable p] : bool64 (decide p) = truth p := by
  by_cases h : p <;> simp [bool64, truth, h]

theorem divU_eq_toWord (a b : Word) :
    (if b = 0 then allOnes else a / b) = if b = 0 then toWord (-1) else toWord (a.toNat / b.toNat) := by
  split
  · rfl
  · have h : toWord (a.toNat / b.toNat : Nat) = a / b := by
      rw [← toWord_toNat (a / b), BitVec.toNat_udiv]
    exact_mod_cast h.symm

theorem remU_eq_toWord (a b : Word) :
    (if b = 0 then a else a % b) = if b = 0 then a else toWord (a.toNat % b.toNat) := by
  split
  · rfl
  · have h : toWord (a.toNat % b.toNat : Nat) = a % b := by
      rw [← toWord_toNat (a % b), BitVec.toNat_umod]
    exact_mod_cast h.symm

theorem toInt_sx16 (m : BitVec 16) : (sx16 m).toInt = m.toInt := BitVec.toInt_signExtend_of_le (by decide)

theorem sx16_eq_toWord (m : BitVec 16) : sx16 m = toWord m.toInt := by
  rw [← toInt_sx16, toWord_toInt]

theorem zx16_eq_toWord (m : BitVec 16) : zx16 m = toWord m.toNat := by
  rw [toWord_natCast, BitVec.ofNat_toNat]; rfl

theorem add_sx16_eq_toWord (a : Word) (m : BitVec 16) : a + sx16 m = toWord (a.toInt + m.toInt) := by
  rw [add_eq_toWord, toInt_sx16]

theorem shi16_eq_toWord (a : Word) (m : BitVec 16) : (a <<< 16) ||| zx16 m = toWord (a.toNat * 2 ^ 16 + m.toNat) := by
  have h : toWord (a.toNat * 2 ^ 16 + m.toNat : Nat) = (a <<< 16) ||| zx16 m := by
    rw [toWord_natCast, ← Nat.shiftLeft_eq, Nat.shiftLeft_add_eq_or_of_lt m.isLt, BitVec.ofNat_or, zx16, BitVec.ofNat_toNat]; rfl
  exact_mod_cast h.symm

theorem slt_eq_decide (a b : Word) : a.slt b = decide (a.toInt < b.toInt) := rfl

/-! ## The instructions -/

/-- What an instruction of the table is: an `execAlu` of its reads with its value. -/
def IsAlu (i : Instr) (s : State) (reads : List (BitVec 5)) (d : BitVec 5) (val : Word) : Prop :=
  ∃ f : (BitVec 5 → Word) → Word, exec i s = execAlu reads d f s ∧ f (s.greg s.site.region) = val

section
variable {i : Instr} {s : State} {d a b : BitVec 5} {val : Word}

theorem IsAlu.of_two {f : Word → Word → Word} (he : exec i s = execCR d a b f s)
    (hv : f (s.greg s.site.region a) (s.greg s.site.region b) = val) : IsAlu i s [a, b] d val :=
  ⟨fun g => f (g a) (g b), he, hv⟩

theorem IsAlu.of_one {f : Word → Word} (he : exec i s = execCI d a f s) (hv : f (s.greg s.site.region a) = val) :
    IsAlu i s [a] d val :=
  ⟨fun g => f (g a), he, hv⟩

end

section
variable {i : Instr} {s : State} {d a b : BitVec 5} {reads : List (BitVec 5)} {val : Word}

theorem isAlu_of_two_reads (h : coreWord i (s.greg s.site.region) = some ([a, b], d, val)) : IsAlu i s [a, b] d val := by
  cases i with
  | coreAdd => cases h; exact .of_two (f := fun x y => x + y) rfl (add_eq_toWord _ _)
  | coreSub => cases h; exact .of_two (f := fun x y => x - y) rfl (sub_eq_toWord _ _)
  | coreAnd => cases h; exact .of_two (f := fun x y => x &&& y) rfl rfl
  | coreOr => cases h; exact .of_two (f := fun x y => x ||| y) rfl rfl
  | coreXor => cases h; exact .of_two (f := fun x y => x ^^^ y) rfl rfl
  | coreShl => cases h; exact .of_two (f := fun x y => shiftL x y) rfl (shiftLeft_eq_toWord _ _)
  | coreShr => cases h; exact .of_two (f := fun x y => shiftR x y) rfl (ushiftRight_eq_toWord _ _)
  | coreSar => cases h; exact .of_two (f := fun x y => shiftA x y) rfl (sshiftRight_eq_toWord _ _)
  | coreMul => cases h; exact .of_two (f := fun x y => x * y) rfl (mul_eq_toWord _ _)
  | coreMulhs => cases h; exact .of_two (f := fun x y => mulHighS x y) rfl rfl
  | coreMulhu => cases h; exact .of_two (f := fun x y => mulHighU x y) rfl (mulHighU_eq_toWord _ _)
  | divu => cases h; exact .of_two (f := fun x y => if y = 0 then allOnes else x / y) rfl (divU_eq_toWord _ _)
  | remu => cases h; exact .of_two (f := fun x y => if y = 0 then x else x % y) rfl (remU_eq_toWord _ _)
  | slt => cases h; exact .of_two (f := fun x y => bool64 (x.slt y)) rfl (bool64_decide _)
  | sltu => cases h; exact .of_two (f := fun x y => bool64 (x.ult y)) rfl (bool64_decide _)
  | coreMin => cases h; exact .of_two (f := fun x y => minS x y) rfl (minS_eq_toWord _ _)
  | coreMax => cases h; exact .of_two (f := fun x y => maxS x y) rfl (maxS_eq_toWord _ _)
  | _ => cases h

theorem isAlu_of_one_read (h : coreWord i (s.greg s.site.region) = some ([a], d, val)) : IsAlu i s [a] d val := by
  cases i with
  | coreAddi d a m => cases h; exact .of_one (f := fun x => x + sx16 m) rfl (add_sx16_eq_toWord _ _)
  | coreAndi d a m => cases h; exact .of_one (f := fun x => x &&& zx16 m) rfl (by rw [← zx16_eq_toWord])
  | coreOri d a m => cases h; exact .of_one (f := fun x => x ||| zx16 m) rfl (by rw [← zx16_eq_toWord])
  | coreXori d a m => cases h; exact .of_one (f := fun x => x ^^^ zx16 m) rfl (by rw [← zx16_eq_toWord])
  | slti d a m => cases h; exact .of_one (f := fun x => bool64 (x.slt (sx16 m))) rfl (by rw [← toInt_sx16]; exact bool64_decide _)
  | sltui d a m => cases h; exact .of_one (f := fun x => bool64 (x.ult (sx16 m))) rfl (by rw [← sx16_eq_toWord]; exact bool64_decide _)
  | coreShli d a c => cases h; exact .of_one (f := fun x => shiftL x (c.setWidth 64)) rfl (shiftL_imm_eq_toWord _ _)
  | coreShri d a c => cases h; exact .of_one (f := fun x => shiftR x (c.setWidth 64)) rfl (shiftR_imm_eq_toWord _ _)
  | coreSari d a c => cases h; exact .of_one (f := fun x => shiftA x (c.setWidth 64)) rfl (shiftA_imm_eq_toWord _ _)
  | shi16 d a m => cases h; exact .of_one (f := fun x => (x <<< 16) ||| zx16 m) rfl (shi16_eq_toWord _ _)
  | _ => cases h

/-- LIH alone reads nothing. -/
theorem isAlu_of_no_read (h : coreWord i (s.greg s.site.region) = some ([], d, val)) : IsAlu i s [] d val := by
  cases i with
  | lih d m => cases h; exact ⟨fun _ => sx16 m, rfl, sx16_eq_toWord m⟩
  | _ => cases h

theorem coreWord_reads_length (h : coreWord i (s.greg s.site.region) = some (reads, d, val)) : reads.length ≤ 2 := by
  cases i <;> cases h <;> simp

end

/-- Each arithmetic and immediate instruction is one `execAlu`, whose value is the table's. -/
theorem isAlu_of_coreWord {i : Instr} {s : State} {reads : List (BitVec 5)} {d : BitVec 5} {val : Word}
    (h : coreWord i (s.greg s.site.region) = some (reads, d, val)) : IsAlu i s reads d val := by
  match reads, h, coreWord_reads_length h with
  | [], h, _ => exact isAlu_of_no_read h
  | [_], h, _ => exact isAlu_of_one_read h
  | [_, _], h, _ => exact isAlu_of_two_reads h

/-- Settles O23: the table's instruction is an `execAlu` with the table's value, and clean sources leave its retirement. -/
theorem coreArithmeticDelivers : Obligations.CoreArithmeticDelivers := by
  intro i s reads d val h hclean
  obtain ⟨f, hexec, hval⟩ := isAlu_of_coreWord h
  rw [hexec, execAlu_of_clean hclean hval]

theorem corePoisonIsPrecise : Says.CorePoisonIsPrecise := by
  intro i s reads d val a h hbad
  obtain ⟨f, hexec, -⟩ := isAlu_of_coreWord h
  rw [hexec, execAlu_of_bad hbad]

/-! ## What a write of a register leaves (R256, R257) -/

theorem Reg.of_bad (v : Word) (p : Bool) : (Reg.of v p).bad = p := by simp [Reg.bad, Reg.of]

theorem physReg_inj {w : Nat} {a b : BitVec 5} (ha : ¬ a.toNat < 8) (hb : ¬ b.toNat < 8) (h : physReg w a = physReg w b) : a = b := by
  have hv := congrArg Fin.val h
  simp only [physReg] at hv
  have := a.isLt
  have := b.isLt
  apply BitVec.eq_of_toNat_eq
  omega

section
variable (k : Core) {d a : BitVec 5} (v : Word) (p : Bool)

theorem Core.write_of_global (hd : d ≠ 0) (hg : d.toNat < 8) :
    k.write d v p = { k with g := k.g.set (Fin.ofNat 8 d.toNat) (Reg.of v p) } := by
  rw [Core.write, if_neg hd, if_pos hg]

theorem Core.write_of_windowed (hd : d ≠ 0) (hg : ¬ d.toNat < 8) :
    k.write d v p = { k with p := k.p.set (physReg k.wptr d) (Reg.of v p) } := by
  rw [Core.write, if_neg hd, if_neg hg]

theorem Core.read_g0 : k.read 0 = {} := if_pos rfl

theorem Core.read_of_global (hd : d ≠ 0) (hg : d.toNat < 8) : k.read d = k.g.get (Fin.ofNat 8 d.toNat) := by
  rw [Core.read, if_neg hd, if_pos hg]

theorem Core.read_of_windowed (hd : d ≠ 0) (hg : ¬ d.toNat < 8) : k.read d = k.p.get (physReg k.wptr d) := by
  rw [Core.read, if_neg hd, if_neg hg]

theorem Vector.get_set_of_ne {α : Type} {n : Nat} (x : Vector α n) {i j : Fin n} (h : j ≠ i) (y : α) :
    (x.set i y).get j = x.get j := by
  have hne : (i : Nat) ≠ j := fun e => h (Fin.ext e.symm)
  simp [Vector.get_eq_getElem, Vector.getElem_set_ne, hne]

theorem Vector.get_set_same {α : Type} {n : Nat} (x : Vector α n) (i : Fin n) (y : α) : (x.set i y).get i = y := by
  simp [Vector.get_eq_getElem]

/-- A write changes registers alone. -/
theorem Core.write_eq : k.write d v p = { k with g := (k.write d v p).g, p := (k.write d v p).p } := by
  unfold Core.write
  split
  · rfl
  · split <;> rfl

theorem Core.read_write_same (hd : d ≠ 0) : (k.write d v p).read d = Reg.of v p := by
  by_cases hg : d.toNat < 8
  · rw [k.write_of_global v p hd hg, Core.read_of_global _ hd hg, Vector.get_set_same]
  · rw [k.write_of_windowed v p hd hg, Core.read_of_windowed _ hd hg, Vector.get_set_same]

theorem Core.read_write_other (h : a ≠ d) : (k.write d v p).read a = k.read a := by
  by_cases hd : d = 0
  · rw [hd, Core.write_zero]
  · by_cases ha : a = 0
    · rw [ha, Core.read_g0, Core.read_g0]
    · by_cases hg : d.toNat < 8
      · rw [k.write_of_global v p hd hg]
        by_cases hga : a.toNat < 8
        · have hne : Fin.ofNat 8 a.toNat ≠ Fin.ofNat 8 d.toNat := fun e => h (BitVec.eq_of_toNat_eq (by
            have hv := congrArg Fin.val e
            simp only [Fin.val_ofNat] at hv
            omega))
          rw [Core.read_of_global _ ha hga, Core.read_of_global _ ha hga, Vector.get_set_of_ne _ hne]
        · rw [Core.read_of_windowed _ ha hga, Core.read_of_windowed _ ha hga]
      · rw [k.write_of_windowed v p hd hg]
        by_cases hga : a.toNat < 8
        · rw [Core.read_of_global _ ha hga, Core.read_of_global _ ha hga]
        · have hne : physReg k.wptr a ≠ physReg k.wptr d := fun e => h (physReg_inj hga hg e)
          rw [Core.read_of_windowed _ ha hga, Core.read_of_windowed _ ha hga, Vector.get_set_of_ne _ hne]

/-- Stepping reads as before. -/
@[simp] theorem Core.read_step4 : k.step4.read a = k.read a := rfl

end

/-- A change of a core leaves the machine outside it. -/
theorem sameButCore_modCore (s : State) (r : Nat) (f : Core → Core) : sameButCore r s (s.modCore r f) := by
  refine ⟨rfl, rfl, rfl, rfl, rfl, rfl, rfl, rfl, ⟨rfl, rfl, rfl, rfl, rfl, rfl, rfl, rfl, rfl, rfl, rfl, rfl⟩, fun q hq => ?_, ?_⟩
  · exact State.region_modRegion_other _ hq _
  · rw [State.modCore, State.region_modRegion_same]

/-- A core that writes a register and goes on keeps the rest of itself. -/
theorem stepsOn_modCore_write (s : State) (r : Nat) (d : BitVec 5) (v : Word) (p : Bool) :
    s.StepsOn (s.modCore r (fun k => (k.write d v p).step4)) r := by
  unfold State.StepsOn
  rw [State.core_modCore_same, Core.write_eq]
  exact ⟨rfl, rfl, rfl, rfl, rfl, rfl, rfl, rfl, rfl, rfl, rfl, rfl⟩

theorem read_modCore_write_same (s : State) (r : Nat) {d : BitVec 5} (hd : d ≠ 0) (v : Word) (p : Bool) :
    ((s.modCore r (fun k => (k.write d v p).step4)).core r).read d = Reg.of v p := by
  rw [State.core_modCore_same, Core.read_step4, Core.read_write_same _ _ _ hd]

theorem sameRegs_modCore_write (s : State) (r : Nat) (d : BitVec 5) (v : Word) (p : Bool) :
    sameRegs r d s (s.modCore r (fun k => (k.write d v p).step4)) := by
  intro a ha
  rw [State.core_modCore_same, Core.read_step4, Core.read_write_other _ _ _ ha]

/-- Settles O24: retirement is one write of a register and a step of the PC. -/
theorem retiringWritesOneRegister : Obligations.RetiringWritesOneRegister := by
  intro s r d v t
  refine ⟨fun hd => ?_, ?_, sameRegs_modCore_write s r d v false, stepsOn_modCore_write s r d v false, sameButCore_modCore s r _⟩
  · have hread : (t.core r).read d = Reg.of v false := read_modCore_write_same s r hd v false
    exact ⟨by rw [State.greg, hread]; rfl, by rw [hread, Reg.of_bad]⟩
  · rw [State.greg, Core.read_zero]


/-! PROOFS. The control core's loads and stores (R292, R295, R309-R311). -/

/-! ## The machine outside a core -/

theorem samePackage.refl (s : State) : samePackage s s := ⟨rfl, rfl, rfl, rfl, rfl, rfl, rfl, rfl, rfl, rfl, rfl, rfl⟩

theorem samePackage.trans {s t w : State} (h : samePackage s t) (h' : samePackage t w) : samePackage s w := by
  obtain ⟨hub, dev, enc, images, links, kv, pages, wires, cyc, now, agenda, inputs⟩ := h
  obtain ⟨hub', dev', enc', images', links', kv', pages', wires', cyc', now', agenda', inputs'⟩ := h'
  exact ⟨hub'.trans hub, dev'.trans dev, enc'.trans enc, images'.trans images, links'.trans links, kv'.trans kv,
    pages'.trans pages, wires'.trans wires, cyc'.trans cyc, now'.trans now, agenda'.trans agenda, inputs'.trans inputs⟩

theorem sameButCore.trans {r : Nat} {s t w : State} (h : sameButCore r s t) (h' : sameButCore r t w) : sameButCore r s w := by
  obtain ⟨mem, units, chans, rings, pairs, dies, stamped, ldas, package, others, own⟩ := h
  obtain ⟨mem', units', chans', rings', pairs', dies', stamped', ldas', package', others', own'⟩ := h'
  refine ⟨mem'.trans mem, units'.trans units, chans'.trans chans, rings'.trans rings, pairs'.trans pairs, dies'.trans dies,
    stamped'.trans stamped, ldas'.trans ldas, package.trans package', fun q hq => (others' q hq).trans (others q hq), ?_⟩
  calc { w.region r with core := (s.region r).core }
      = { ({ w.region r with core := (t.region r).core } : Region) with core := (s.region r).core } := rfl
    _ = { t.region r with core := (s.region r).core } := by rw [own']
    _ = s.region r := own

/-- A bank taken is no part of what a core leaves. -/
theorem sameButCore_takeBank (s : State) (r a who : Nat) : sameButCore r s (s.takeBank a who) := by
  unfold State.takeBank
  split <;> exact ⟨rfl, rfl, rfl, rfl, rfl, rfl, rfl, rfl, samePackage.refl s, fun _ _ => rfl, rfl⟩

theorem State.core_takeBank (s : State) (a who q : Nat) : (s.takeBank a who).core q = s.core q := by
  rw [State.core, State.region, (State.takeBank_spec s a who).2]
  rfl

/-! ## Addresses (R309, R456) -/

section
variable {s : State} {r : Nat} {reads : List (BitVec 5)} {va : Word} {n : Nat} {acc : Access}

theorem State.coreAddr_of_bad {a : BitVec 5} (h : (s.core r).badReg reads = some a) :
    s.coreAddr r reads va n acc = .error (cPOISON, a.setWidth 64) := by
  rw [State.coreAddr, h]

theorem State.coreAddr_of_misaligned (hc : s.CleanRegs r reads) (h : va.toNat % n ≠ 0) :
    s.coreAddr r reads va n acc = .error (cMISALIGNED, va) := by
  rw [State.coreAddr, hc.badReg]
  exact if_pos h

theorem State.coreAddr_of_aligned (hc : s.CleanRegs r reads) (h : va.toNat % n = 0) :
    s.coreAddr r reads va n acc = match s.translateCore r va acc with
      | .ok t => .ok t
      | .prot => .error (cPROT, va)
      | .absent => .error (cPAGE, va) := by
  rw [State.coreAddr, hc.badReg]
  exact if_neg (not_not.2 h)

end

theorem Core.badReg_singleton {k : Core} {a : BitVec 5} (h : (k.read a).bad = true) : k.badReg [a] = some a := by
  rw [Core.badReg_eq_find?]
  exact List.find?_cons_of_pos h

/-- LDA and STL have no offset. -/
theorem State.coreEa_zero (s : State) (r : Nat) (a : BitVec 5) : s.coreEa r a 0 = s.greg r a := by
  exact BitVec.add_zero _

theorem State.coreEa_eq_toWord (s : State) (r : Nat) (a : BitVec 5) (off : BitVec 16) :
    s.coreEa r a off = toWord ((s.greg r a).toInt + off.toInt) := add_sx16_eq_toWord _ _

/-- Every load of the core is one of the table's sizes (R310, R311). -/
theorem exec_coreLoad {i : Instr} {s : State} {d a : BitVec 5} {off : BitVec 16} {n : Nat} {sx : Bool}
    (h : coreLoadOf i = some (d, a, off, n, sx)) : exec i s = execLoadCI n sx d a off s ∧ 0 < n ∧ n ≤ 8 := by
  cases i with
  | ldd | ldw | ldwu | ldh | ldhu | ldb | ldbu => cases h; exact ⟨rfl, by decide⟩
  | lda d a scope =>
    cases h
    refine ⟨?_, by decide⟩
    show execLda d a scope s = _
    rw [execLda, execLoadCI, State.coreEa_zero]
  | _ => cases h

/-- A store of the core past its checks. -/
def execStoreAs (n : Nat) (rel : Option Scope) (d a : BitVec 5) (off : BitVec 16) (s : State) : Host.Outcome State Fault Refusal :=
  match s.coreAddr s.site.region [a] (s.coreEa s.site.region a off) n .store with
  | .error (c, v) => .next (s.trapHere s.site.region c v)
  | .ok t => .next (s.coreStore s.site.region t.addr n ((s.core s.site.region).read d) rel)

theorem exec_coreStore {i : Instr} {s : State} {d a : BitVec 5} {off : BitVec 16} {n : Nat} {rel : Option Scope}
    (h : coreStoreOf i = some (d, a, off, n, rel)) : exec i s = execStoreAs n rel d a off s := by
  cases i with
  | std | coreStw | coreSth | coreStb => cases h; rfl
  | stl =>
    cases h
    show execStl .. = _
    rw [execStl, execStoreAs, State.coreEa_zero] <;> rfl
  | _ => cases h

/-! ## Loads -/

theorem loadValue_eq {n : Nat} (hpos : 0 < n) (hn : n ≤ 8) (sx : Bool) (v : Nat) :
    loadValue n sx v = if sx then toWord (Int.bmod v (2 ^ (8 * n))) else toWord v := by
  cases sx
  · exact (toWord_natCast v).symm
  · have hdvd : ((2 ^ (8 * n) : Nat) : Int) ∣ ((2 ^ 64 : Nat) : Int) :=
      Int.natCast_dvd_natCast.2 (Nat.pow_dvd_pow 2 (by omega))
    have hmod : Int.bmod ((v % 2 ^ 64 : Nat) : Int) (2 ^ (8 * n)) = Int.bmod v (2 ^ (8 * n)) := by
      rw [Int.natCast_emod]
      rw [← Int.emod_bmod ((v : Int) % _), Int.emod_emod_of_dvd _ hdvd, Int.emod_bmod]
    have hword : (BitVec.ofNat 64 v).toNat = v % 2 ^ 64 := BitVec.toNat_ofNat ..
    simp only [loadValue, signExt, hword, intVal_eq_bmod (Nat.mul_pos (by decide : 0 < 8) hpos), hmod, if_true]
    rfl

section
variable {s : State} {d a : BitVec 5} {off : BitVec 16} {n : Nat} {sx : Bool} {g : Target} {v : Nat} {p : Bool}

theorem execLoadCI_of_ok (hc : s.CleanRegs s.site.region [a]) (ha : (s.coreEa s.site.region a off).toNat % n = 0)
    (hg : s.translateCore s.site.region (s.coreEa s.site.region a off) .load = .ok g) :
    execLoadCI n sx d a off s = .next (s.coreLoad s.site.region d g n sx) := by
  simp only [execLoadCI, State.coreAddr_of_aligned hc ha, hg]

/-- A load that nothing holds back asks its bank. -/
theorem State.coreLoad_of_free {r : Nat} (hdown : s.routeDown (regionDie r) g.addr = false)
    (hov : (s.core r).overlaps g.addr n = false) (hposted : s.postedBlocks g.addr s.ticket = false)
    (hv : s.readTarget g n = some (v, p)) :
    s.coreLoad r d g n sx = s.atBank r g.addr (fun s => s.modCore r (fun k => (k.write d (loadValue n sx v) p).step4)) := by
  simp only [State.coreLoad, hdown, hov, hposted, hv]
  rfl

theorem State.atBank_of_served {r b : Nat} {go : State → State} (h : s.bankServes b 4 = true) :
    s.atBank r b go = go (s.takeBank b 4) := if_pos h

theorem State.atBank_of_lost {r b : Nat} {go : State → State} (h : s.bankServes b 4 = false) :
    s.atBank r b go = ((s.bankLost b 4).modCore r (fun k => { k with ask := some b })).tryAgain r :=
  if_neg (by rw [h]; decide)

end

/-- An access that its bank does not serve leaves the core where it was. -/
theorem State.atBank_lost_keeps {s : State} {r b : Nat} {go : State → State} (h : s.bankServes b 4 = false) :
    ((s.atBank r b go).core r).pc = (s.core r).pc ∧ ((s.atBank r b go).core r).stall = some .retry ∧
      (∀ x, ((s.atBank r b go).core r).read x = (s.core r).read x) ∧ sameBytes s (s.atBank r b go) := by
  obtain ⟨hstill, hcore⟩ := State.bankLost_spec s b 4
  have hmem : (s.atBank r b go).mem = s.mem := by rw [State.atBank_of_lost h]; exact hstill.2
  rw [State.atBank_of_lost h] at hmem ⊢
  refine ⟨?_, ?_, fun x => ?_, fun c => ⟨by rw [hmem], by rw [hmem]⟩⟩
  · rw [State.tryAgain, State.core_modCore_same, State.core_modCore_same, hcore]
  · rw [State.tryAgain, State.core_modCore_same]
  · rw [State.tryAgain, State.core_modCore_same, State.core_modCore_same, hcore]
    rfl

theorem State.StepsOn.of_core_eq {s s' t : State} {r : Nat} (h : s'.StepsOn t r) (hcore : s'.core r = s.core r) :
    s.StepsOn t r := by
  unfold State.StepsOn at *
  rwa [hcore] at h

/-- Settles O25: past its checks a load asks its bank; served, it is one write of d, and lost, it is tried again. -/
theorem coreLoadsDeliver : Obligations.CoreLoadsDeliver := by
  intro i s d a off n sx g v p hi r va hclean halign hg hdown hov hposted hv
  obtain ⟨hexec, hpos, hsize⟩ := exec_coreLoad hi
  have hea : s.coreEa r a off = va := State.coreEa_eq_toWord ..
  rw [hexec, execLoadCI_of_ok hclean (by rw [hea]; exact halign) (by rw [hea]; exact hg),
    State.coreLoad_of_free hdown hov hposted hv]
  refine ⟨fun hbank => ⟨_, rfl, ?_⟩, fun hbank => ⟨_, rfl, State.atBank_lost_keeps hbank⟩⟩
  rw [State.atBank_of_served hbank]
  have hcore := s.core_takeBank g.addr 4 r
  refine ⟨fun hd => ?_, fun b hb => ?_, (stepsOn_modCore_write ..).of_core_eq hcore,
    (sameButCore_takeBank s r g.addr 4).trans (sameButCore_modCore ..)⟩
  · rw [read_modCore_write_same _ _ hd, loadValue_eq hpos hsize]
  · rw [sameRegs_modCore_write _ r d _ p b hb, hcore]

/-! ## Stores -/

theorem execStoreAs_of_ok {s : State} {d a : BitVec 5} {off : BitVec 16} {n : Nat} {rel : Option Scope} {g : Target}
    (hc : s.CleanRegs s.site.region [a]) (ha : (s.coreEa s.site.region a off).toNat % n = 0)
    (hg : s.translateCore s.site.region (s.coreEa s.site.region a off) .store = .ok g) :
    execStoreAs n rel d a off s = .next (s.coreStore s.site.region g.addr n ((s.core s.site.region).read d) rel) := by
  simp only [execStoreAs, State.coreAddr_of_aligned hc ha, hg]

theorem State.core_coreStore (s : State) (r a n : Nat) (x : Reg) (rel : Option Scope) : (s.coreStore r a n x rel).core r =
    Core.step4 { s.core r with stores := (s.core r).stores ++ [⟨s.ticket, a, n, x.val, x.bad, rel⟩] } :=
  State.core_modCore_same { s with ticket := s.ticket + 1 } r _

/-- Settles O26: past its checks a store joins the core's queue, and the core goes on. -/
theorem coreStoresAreAccepted : Obligations.CoreStoresAreAccepted := by
  intro i s d a off n rel g hi r va hclean halign hg
  have hea : s.coreEa r a off = va := State.coreEa_eq_toWord ..
  rw [exec_coreStore hi, execStoreAs_of_ok hclean (by rw [hea]; exact halign) (by rw [hea]; exact hg)]
  refine ⟨_, rfl, fun _ => ⟨rfl, rfl⟩, ?_, fun b => ?_, ?_, sameButCore_modCore { s with ticket := s.ticket + 1 } r _⟩
  · rw [State.core_coreStore]; rfl
  · rw [State.core_coreStore]; rfl
  · rw [State.core_coreStore]; rfl

/-! ## Faults of accesses, in their order (R268, R290, R309, R456) -/

section
variable {s : State} {d a : BitVec 5} {off : BitVec 16} {n : Nat} {sx : Bool} {rel : Option Scope} {acc : Access} {c : Byte} {v : Word}

theorem execLoadCI_of_error (h : s.coreAddr s.site.region [a] (s.coreEa s.site.region a off) n .load = .error (c, v)) :
    execLoadCI n sx d a off s = .next (s.trapHere s.site.region c v) := by
  simp only [execLoadCI, h]

theorem execStoreAs_of_error (h : s.coreAddr s.site.region [a] (s.coreEa s.site.region a off) n .store = .error (c, v)) :
    execStoreAs n rel d a off s = .next (s.trapHere s.site.region c v) := by
  simp only [execStoreAs, h]

end

/-- The four causes of an access, whatever raises them. -/
theorem accessFaults {i : Instr} {s : State} {a : BitVec 5} {off : BitVec 16} {n : Nat} {acc : Access}
    (h : ∀ c v, s.coreAddr s.site.region [a] (s.coreEa s.site.region a off) n acc = .error (c, v) →
      exec i s = .next (s.trapHere s.site.region c v)) :
    let r := s.site.region
    let va := toWord ((s.greg r a).toInt + off.toInt)
    (((s.core r).read a).bad = true → exec i s = .next (s.trapSync r 0x06 0 (a.setWidth 64) (s.core r).pc)) ∧
    (s.CleanRegs r [a] → va.toNat % n ≠ 0 → exec i s = .next (s.trapSync r 0x02 0 va (s.core r).pc)) ∧
    (s.CleanRegs r [a] → va.toNat % n = 0 → s.translateCore r va acc = .prot → exec i s = .next (s.trapSync r 0x04 0 va (s.core r).pc)) ∧
    (s.CleanRegs r [a] → va.toNat % n = 0 → s.translateCore r va acc = .absent → exec i s = .next (s.trapSync r 0x03 0 va (s.core r).pc)) := by
  simp only [State.coreEa_eq_toWord] at h
  refine ⟨fun hb => h _ _ (State.coreAddr_of_bad (Core.badReg_singleton hb)), fun hc ha => h _ _ (State.coreAddr_of_misaligned hc ha),
    fun hc ha ht => h _ _ ?_, fun hc ha ht => h _ _ ?_⟩
  · rw [State.coreAddr_of_aligned hc ha, ht]; rfl
  · rw [State.coreAddr_of_aligned hc ha, ht]; rfl

theorem coreAccessFaultsInOrder : Says.CoreAccessFaultsInOrder := by
  intro i s d a off n isLoad hi
  rcases hi with ⟨⟨sx, hi⟩, rfl⟩ | ⟨⟨rel, hi⟩, rfl⟩
  · exact accessFaults fun c v h => by rw [(exec_coreLoad hi).1, execLoadCI_of_error h]
  · exact accessFaults fun c v h => by rw [exec_coreStore hi, execStoreAs_of_error h]

/-- Settles O27: a bad source and the checks of an address come before anything else an instruction does. -/
theorem coreFaultsArePrecise : Obligations.CoreFaultsArePrecise := ⟨corePoisonIsPrecise, coreAccessFaultsInOrder⟩


/-! PROOFS. Stores to memory, byte by byte, and the core's atomics (R300, R305, R312). -/

/-! ## A store's bytes and poison (R300, R304) -/

section
variable {m : Memory} (hw : m.wf = true) (a n : Nat) (v : Word) (p : Bool)
include hw

theorem Memory.byte_store (c : Nat) :
    (m.store a n v p).byte c = if a ≤ c ∧ c < a + n then BitVec.ofNat 8 (v.toNat / 256 ^ (c - a)) else m.byte c := by
  rw [← Memory.byte_writeNat hw]
  unfold Memory.store
  cases p
  · by_cases hn : n = 8
    · simp only [hn, if_true]; rfl
    · simp only [hn, if_false]; rfl
  · rfl

theorem Memory.poisoned_store (c : Nat) : (m.store a n v p).poisoned c =
    if c / 8 = a / 8 then (if p then true else if n = 8 then false else m.poisoned c) else m.poisoned c := by
  have hm := Memory.wf_writeNat hw a n v.toNat
  unfold Memory.store
  cases p
  · by_cases hn : n = 8
    · simp only [hn, if_true, Bool.false_eq_true, if_false]
      rw [Memory.poisoned_setPoison (hn ▸ hm), Memory.poisoned_writeNat]
    · simp [hn]
  · simp only [if_true]
    rw [Memory.poisoned_setPoison hm, Memory.poisoned_writeNat]

theorem Memory.readNat_store : (m.store a n v p).readNat a n = v.toNat % 2 ^ (8 * n) := by
  have hbytes : (m.store a n v p).readNat a n = (m.writeNat a n v.toNat).readNat a n :=
    Memory.readNat_congr fun c _ _ => by rw [Memory.byte_store hw, Memory.byte_writeNat hw]
  rw [hbytes, Memory.readNat_writeNat hw, Nat.pow_mul]

end

/-- A store of one byte or more leaves every other byte, and the poison of every other word. -/
theorem sameBytesBut_store {s t : State} {a n : Nat} {v : Word} {p : Bool} (hw : s.mem.wf = true) (hn : 0 < n)
    (ht : t.mem = s.mem.store a n v p) : sameBytesBut a n s t := by
  intro b
  rw [ht]
  refine ⟨fun hb => ?_, fun hb => ?_⟩
  · rw [Memory.byte_store hw, if_neg (by omega)]
  · rw [Memory.poisoned_store hw, if_neg (by omega)]

theorem sameBytesBut_of_mem_eq {s t : State} {a n : Nat} (ht : t.mem = s.mem) : sameBytesBut a n s t :=
  fun _ => ⟨fun _ => by rw [ht], fun _ => by rw [ht]⟩

/-! ## The atomic event (R301, R305, R312) -/

/-- Memory after an atomic: a poisoned word, and one that the operation keeps, stand. -/
def amoMem (m : Memory) (k a : Nat) (b : Word) (bp : Bool) (exp : Word) : Memory :=
  if m.poisoned a then m
  else match (amoResult k (m.word a) b exp).1 with
    | some v => m.store a 8 v (bp && !amoUses k)
    | none => m

section
variable {m : Memory} {k a : Nat} {b : Word} {bp : Bool} {exp : Word}

theorem amoApply_of_poisoned (h : m.poisoned a = true) : amoApply m k a b bp exp = (m.word a, true, m, 0) := if_pos h

theorem amoApply_of_clean (h : m.poisoned a = false) : amoApply m k a b bp exp =
    (m.word a, false, amoMem m k a b bp exp, (amoResult k (m.word a) b exp).2) := by
  unfold amoApply amoMem
  simp only [h, Bool.false_eq_true, if_false]
  rcases amoResult k (m.word a) b exp with ⟨_ | v, f⟩ <;> rfl

theorem amoMem_of_poisoned (h : m.poisoned a = true) : amoMem m k a b bp exp = m := if_pos h

theorem amoApply_old : (amoApply m k a b bp exp).1 = m.word a ∧ (amoApply m k a b bp exp).2.1 = m.poisoned a ∧
    (amoApply m k a b bp exp).2.2.1 = amoMem m k a b bp exp := by
  cases h : m.poisoned a with
  | true => rw [amoApply_of_poisoned h, amoMem_of_poisoned h]; exact ⟨rfl, rfl, rfl⟩
  | false => rw [amoApply_of_clean h]; exact ⟨rfl, rfl, rfl⟩

end

/-- SAT is the one flag that an atomic sets. -/
theorem amoResult_flags (k : Nat) (old b exp : Word) : (amoResult k old b exp).2 = 0 ∨ (amoResult k old b exp).2 = flagSAT := by
  unfold amoResult
  split
  case h_9 =>
    show (clamp64 _).2 = 0 ∨ (clamp64 _).2 = flagSAT
    rw [clamp64_eq, satFlag]
    split
    · exact .inr rfl
    · exact .inl rfl
  all_goals exact .inl rfl

theorem amoApply_flags (m : Memory) (k a : Nat) (b : Word) (bp : Bool) (exp : Word) :
    (amoApply m k a b bp exp).2.2.2 = 0 ∨ (amoApply m k a b bp exp).2.2.2 = flagSAT := by
  cases h : m.poisoned a with
  | true => rw [amoApply_of_poisoned h]; exact .inl rfl
  | false => rw [amoApply_of_clean h]; exact amoResult_flags ..

theorem amoMem_word {m : Memory} (hw : m.wf = true) (k a : Nat) (b : Word) (bp : Bool) (exp : Word) :
    (amoMem m k a b bp exp).word a =
      if m.poisoned a then m.word a else ((amoResult k (m.word a) b exp).1).getD (m.word a) := by
  unfold amoMem
  split
  · rfl
  · cases (amoResult k (m.word a) b exp).1 with
    | none => rfl
    | some v => exact Memory.word_store hw a v _

theorem sameBytesBut_amoMem {s t : State} {k a : Nat} {b : Word} {bp : Bool} {exp : Word} (hw : s.mem.wf = true)
    (ht : t.mem = amoMem s.mem k a b bp exp) : sameBytesBut a 8 s t := by
  unfold amoMem at ht
  split at ht
  · exact sameBytesBut_of_mem_eq ht
  · split at ht
    · exact sameBytesBut_store hw (by decide) ht
    · exact sameBytesBut_of_mem_eq ht

/-! ## The core's atomics -/

/-- The number of an AMO, and what the table says of it. -/
structure AmoIs (i : Instr) (s : State) (d a b : BitVec 5) (o : MemOrder) (f : Word → Word → Word → Option Word)
    (uses : Bool) (k : Nat) : Prop where
  exec : exec i s = execAmo k d a b o s
  uses : amoUses k = uses
  result : ∀ old x e, (amoResult k old x e).1 = f old x e
  cas : k = 7 → ∃ d a b o, i = .amocas d a b o

theorem amoIs_of_coreAmo {i : Instr} {s : State} {d a b : BitVec 5} {o : MemOrder} {f : Word → Word → Word → Option Word}
    {uses : Bool} (h : coreAmoOf i = some (d, a, b, o, f, uses)) : ∃ k, AmoIs i s d a b o f uses k := by
  cases i with
  | amoadd => cases h; exact ⟨0, rfl, rfl, fun _ _ _ => congrArg some (add_eq_toWord _ _), nofun⟩
  | amomin => cases h; exact ⟨1, rfl, rfl, fun _ _ _ => congrArg some (minS_eq_toWord _ _), nofun⟩
  | amomax => cases h; exact ⟨2, rfl, rfl, fun _ _ _ => congrArg some (maxS_eq_toWord _ _), nofun⟩
  | amoand => cases h; exact ⟨3, rfl, rfl, fun _ _ _ => rfl, nofun⟩
  | amoor => cases h; exact ⟨4, rfl, rfl, fun _ _ _ => rfl, nofun⟩
  | amoxor => cases h; exact ⟨5, rfl, rfl, fun _ _ _ => rfl, nofun⟩
  | amoxchg => cases h; exact ⟨6, rfl, rfl, fun _ _ _ => rfl, nofun⟩
  | amocas => cases h; exact ⟨7, rfl, rfl, fun _ _ _ => rfl, fun _ => ⟨_, _, _, _, rfl⟩⟩
  | amoadds =>
    cases h
    refine ⟨8, rfl, rfl, fun old x _ => ?_, nofun⟩
    show some (clamp64 (old.toInt + x.toInt)).1 = _
    rw [clamp64_eq]
  | _ => cases h

theorem State.core_orFlags (s : State) (r q : Nat) (f : Flags) : (s.orFlags r f).core q = s.core q := by
  rw [State.core, State.orFlags, State.region_modRegion]
  split
  · next h => rw [h]; rfl
  · rfl

/-- What an atomic that its bank serves leaves, where SAT raises nothing. -/
def State.amoDone (s : State) (r k : Nat) (d b : BitVec 5) (g : Nat) : State :=
  let K := s.core r
  let x := amoApply s.mem k g (K.read b).val (K.read b).bad (K.read d).val
  (State.modCore { s.takeBank g 4 with mem := x.2.2.1 } r (fun c => (c.write d x.1 x.2.1).step4)).orFlags r x.2.2.2

theorem execAmo_of_free {s : State} {k : Nat} {d a b : BitVec 5} {o : MemOrder} {g : Nat}
    (hclean : s.CleanRegs s.site.region (amoReads k d a b)) (halign : (s.greg s.site.region a).toNat % 8 = 0)
    (hg : s.translateCore s.site.region (s.greg s.site.region a) .atomic = .ok (.plain g))
    (hdown : s.routeDown (regionDie s.site.region) g = false) (hord : o ≠ .plain → s.coreOwes s.site.region = false)
    (hov : (s.core s.site.region).overlaps g 8 = false) (hposted : s.postedBlocks g s.ticket = false)
    (hbank : s.bankServes g 4 = true) (hsat : s.trapsOn s.site.region flagSAT = false) :
    execAmo k d a b o s = .next (s.amoDone s.site.region k d b g) := by
  have hwait : ((decide (o ≠ .plain) && s.coreOwes s.site.region) || (s.core s.site.region).overlaps g 8 ||
      s.postedBlocks g s.ticket) = false := by
    rw [hov, hposted]
    by_cases ho : o = .plain
    · simp [ho]
    · simp [hord ho]
  have hmem : (s.takeBank g 4).mem = s.mem := (State.takeBank_spec s g 4).1.2
  have htraps : ∀ f : Flags, f = 0 ∨ f = flagSAT → (s.takeBank g 4).trapsOn s.site.region f = false := by
    rintro f (rfl | rfl)
    · simp [State.trapsOn]
    · rw [State.trapsOn, State.region, (State.takeBank_spec s g 4).2]
      exact hsat
  have hquiet := htraps _ (amoApply_flags s.mem k g ((s.core s.site.region).read b).val ((s.core s.site.region).read b).bad
    ((s.core s.site.region).read d).val)
  simp only [execAmo, State.coreAddr_of_aligned hclean halign, hg, Target.addr, hwait, hdown, State.atBank_of_served hbank,
    hmem, hquiet, Bool.false_eq_true, if_false]
  rfl

/-- Settles O28: a free, served atomic reads and writes its word once; SAT, not enabled, raises nothing. -/
theorem coreAtomicsAct : Obligations.CoreAtomicsAct := by
  intro i s d a b o f uses g hi hw r va hclean hcas halign hg hdown hord hov hposted hbank hsat
  obtain ⟨k, hk⟩ := amoIs_of_coreAmo (s := s) hi
  have hreads : s.CleanRegs s.site.region (amoReads k d a b) := by
    intro c hc
    rw [amoReads, hk.uses, List.mem_append] at hc
    rcases hc with hc | hc
    · exact hclean c hc
    · by_cases h7 : k = 7
      · exact hcas (hk.cas h7) c (by simpa [h7] using hc)
      · simp [h7] at hc
  obtain ⟨hold, hpoison, hmem⟩ := amoApply_old (m := s.mem) (k := k) (a := g) (b := s.greg r b)
    (bp := ((s.core r).read b).bad) (exp := s.greg r d)
  have hcore : ((s.amoDone r k d b g).core r) = ((s.core r).write d (s.mem.word g) (s.mem.poisoned g)).step4 := by
    rw [State.amoDone, State.core_orFlags, State.core_modCore_same, ← hold, ← hpoison]
    exact congrArg (fun k => (Core.write k d _ _).step4) (s.core_takeBank g 4 r)
  have htmem : (s.amoDone r k d b g).mem = amoMem s.mem k g (s.greg r b) ((s.core r).read b).bad (s.greg r d) := hmem
  rw [hk.exec, execAmo_of_free hreads halign hg hdown hord hov hposted hbank hsat]
  refine ⟨_, rfl, sameBytesBut_amoMem hw htmem, ?_, fun c hc => ?_, fun hd => ?_, ?_⟩
  · rw [hcore, Core.write_eq]; rfl
  · rw [hcore, Core.read_step4, Core.read_write_other _ _ _ hc]
  · rw [hcore, Core.read_step4, Core.read_write_same _ _ _ hd]
  · rw [htmem, amoMem_word hw, hk.result]


/-! ## Traps of the core: entry, double fault, return (R268-R276, R283-R285) -/

theorem State.modCore_modCore (s : State) (r : Nat) (f g : Core → Core) :
    (s.modCore r f).modCore r g = s.modCore r (fun k => g (f k)) := by
  have hset : ∀ (m : Map Nat Region) (R R' : Region), (m.set r R).set r R' = m.set r R' := by
    intro m R R'
    induction m with
    | nil => simp [Map.set]
    | cons e m ih => obtain ⟨k, v⟩ := e; by_cases h : k = r <;> simp [Map.set, h, ih]
  simp only [State.modCore, State.modRegion, State.setRegion, State.region, Map.get_set_same, hset]

/-- A core with a free frame opens its window in place (R261). -/
theorem State.openWindow_of_roomy {s : State} {r : Nat} (h : (s.core r).roomy) (entry : Bool) :
    s.openWindow r entry = .ok (s.modCore r (fun k => { k with wptr := k.wptr + 16 })) := if_pos h

/-- A core as trap entry with a free frame leaves it (R274). -/
def Core.entered (k : Core) (cause sub : Byte) (eval epc : Word) (wcut async : Bool) : Core :=
  { k.trapped cause sub eval epc wcut async with
    wptr := k.wptr + 16, pc := k.evec, run := .running, wait := none, stall := none }

theorem State.enterTrap_of_roomy {s : State} {r : Nat} (h : (s.core r).roomy) (cause sub : Byte) (eval epc : Word) (wcut async : Bool) :
    s.enterTrap r cause sub eval epc wcut async = s.modCore r (fun k => k.entered cause sub eval epc wcut async) := by
  have hroomy : ((s.modCore r (fun k => k.trapped cause sub eval epc wcut async)).core r).roomy := by
    rw [State.core_modCore_same]; exact h
  simp only [State.enterTrap, State.openWindow_of_roomy hroomy, State.modCore_modCore]
  rfl

theorem causeWord_eq_toWord (cause sub : Byte) : (0#48 ++ sub ++ cause : Word) = toWord (cause.toNat + 256 * sub.toNat) := by
  have hc := cause.isLt
  have hs := sub.isLt
  apply BitVec.eq_of_toNat_eq
  rw [toWord, show ((cause.toNat : Int) + 256 * sub.toNat) = ((cause.toNat + 256 * sub.toNat : Nat) : Int) from rfl,
    BitVec.ofInt_natCast, BitVec.toNat_ofNat, BitVec.toNat_append, BitVec.toNat_append, ← Nat.shiftLeft_add_eq_or_of_lt hc,
    ← Nat.shiftLeft_add_eq_or_of_lt hs]
  simp [Nat.shiftLeft_eq]
  omega

/-- A cause without a subcode stands alone in ECAUSE. -/
theorem causeWord_zero (cause : Byte) : (0#48 ++ (0 : Byte) ++ cause : Word) = cause.setWidth 64 := by
  rw [causeWord_eq_toWord, toWord, show ((cause.toNat : Int) + 256 * ((0 : Byte).toNat : Int)) = (cause.toNat : Nat) from rfl,
    BitVec.ofInt_natCast]
  exact (BitVec.ofNat_toNat 64 cause)

/-- Settles O30: with a free frame trap entry is one change of the core. -/
theorem trapEntrySaves : Obligations.TrapEntrySaves := by
  intro s r cause sub eval epc hmode hroom t
  have ht : t = s.modCore r (fun k => k.entered cause sub eval epc false false) := by
    rw [← State.enterTrap_of_roomy hroom]
    exact if_neg (by rw [hmode]; decide)
  have hcore : t.core r = (s.core r).entered cause sub eval epc false false := by rw [ht, State.core_modCore_same]
  rw [hcore]
  refine ⟨causeWord_eq_toWord cause sub, rfl, rfl, ?_, rfl, rfl, rfl, rfl, rfl, rfl, rfl, ht ▸ sameButCore_modCore s r _⟩
  show estatWord false false (s.core r).handler = 0
  rw [hmode]
  rfl

/-! ### DOUBLE_FAULT (R276) -/

/-- A core that a double fault stops. -/
def Core.doubleFaulted (k : Core) : Core := { k with run := .doubleFault, wait := none, stall := none }

theorem State.beginFreeze_region (s : State) (r area kind : Nat) :
    ((s.beginFreeze r area kind).region r).core = (s.region r).core ∧ ((s.beginFreeze r area kind).region r).frozen.isSome = true := by
  rw [State.beginFreeze, State.region_modRegion_same]
  exact ⟨rfl, rfl⟩

/-- The core that a double fault stops, and the freeze of its region. -/
theorem State.doubleFault_region (s : State) (r : Nat) :
    (s.doubleFault r).core r = (s.core r).doubleFaulted ∧ ((s.doubleFault r).region r).frozen.isSome = true := by
  have hcore : ((s.modCore r Core.doubleFaulted).notify [1, BitVec.ofNat 64 r]).core r = (s.core r).doubleFaulted :=
    State.core_modCore_same s r _
  unfold State.doubleFault
  dsimp only
  split
  · next a _ =>
    obtain ⟨hkeep, hfrozen⟩ := State.beginFreeze_region ((s.modCore r Core.doubleFaulted).notify [1, BitVec.ofNat 64 r]) r a 1
    exact ⟨hkeep.trans hcore, hfrozen⟩
  · rw [State.core, State.region_modRegion_same]
    exact ⟨hcore, rfl⟩

theorem State.doubleFault_events (s : State) (r : Nat) :
    (s.doubleFault r).hub.events = [1, BitVec.ofNat 64 r] :: s.hub.events := by
  unfold State.doubleFault
  dsimp only
  split <;> rfl

/-- A double fault of a core that differs from another state's by its trap registers. -/
theorem stopped_doubleFault {s t : State} {r : Nat} (hmem : t.mem = s.mem) (hev : t.hub.events = s.hub.events)
    (hpc : (t.core r).pc = (s.core r).pc) (hmode : (t.core r).handler = true) : Says.stopped r s (t.doubleFault r) := by
  obtain ⟨hcore, hfrozen⟩ := t.doubleFault_region r
  have hm : (t.doubleFault r).mem = s.mem := (State.doubleFault_still t r).2.trans hmem
  rw [Says.stopped, hcore]
  refine ⟨rfl, hpc, hmode, hfrozen, by rw [t.doubleFault_events, hev], fun a => ?_⟩
  rw [hm]
  exact ⟨rfl, rfl⟩

/-- A full window file without a spill slot (R274). -/
def Core.full (k : Core) : Prop := k.wbot + 128 < k.wptr + 40 ∧ k.slots ≤ k.wbot / 16

theorem State.openWindow_of_full {s : State} {r : Nat} (h : (s.core r).full) : s.openWindow r true = .error .noSlot := by
  obtain ⟨hroom, hslots⟩ := h
  simp only [State.openWindow, if_neg (Nat.not_le.mpr hroom), Bool.not_true, Bool.and_false, Bool.false_eq_true, if_false,
    if_pos hslots]

theorem State.enterTrap_of_full {s : State} {r : Nat} (h : (s.core r).full) (cause sub : Byte) (eval epc : Word) (wcut async : Bool) :
    s.enterTrap r cause sub eval epc wcut async =
      (s.modCore r (fun k => k.trapped cause sub eval epc wcut async)).doubleFault r := by
  have hfull : ((s.modCore r (fun k => k.trapped cause sub eval epc wcut async)).core r).full := by
    rw [State.core_modCore_same]; exact h
  simp only [State.enterTrap, State.openWindow_of_full hfull]

/-- A trap entry that finds no slot stops the core with its trap registers written. -/
theorem State.enterTrap_full_stops {s : State} {r : Nat} (h : (s.core r).full) (cause sub : Byte) (eval epc : Word) (wcut async : Bool) :
    Says.stopped r s (s.enterTrap r cause sub eval epc wcut async) ∧
    (s.enterTrap r cause sub eval epc wcut async).core r = ((s.core r).trapped cause sub eval epc wcut async).doubleFaulted := by
  rw [State.enterTrap_of_full h]
  refine ⟨stopped_doubleFault rfl rfl ?_ ?_, ?_⟩
  · rw [State.core_modCore_same]; rfl
  · rw [State.core_modCore_same]; rfl
  · rw [(State.doubleFault_region _ r).1, State.core_modCore_same]

/-! ### Pending causes (R273) -/

theorem exec_trapEntry {s : State} {r : Nat} (hfrozen : (s.region r).coreFrozen = false) (hstall : (s.core r).stall = none) :
    exec (.trapEntry r) s = .next (s.takeAsync r) := by
  show execTrapEntry r s = _
  rw [execTrapEntry, hfrozen, hstall]
  rfl

/-- The pending cause taken, where the window does not make it wait. -/
theorem State.takeAsync_of_pending {s : State} {r : Nat} {c : Async} {v : Word} {rest : Pend} (hmode : (s.core r).handler = false)
    (hrun : (s.core r).run ≠ .doubleFault) (hwaits : s.entryWaits r = false) (hpend : (s.core r).pend.take? = some (c, v, rest)) :
    s.takeAsync r = (s.modCore r (fun k => { k with pend := rest })).enterTrap r c.code 0 v (s.core r).pc (s.core r).wait.isSome true := by
  simp only [State.takeAsync, hmode, hwaits, hpend, decide_eq_false hrun, Bool.or_false, Bool.false_eq_true, if_false]

theorem State.entryWaits_of_roomy {s : State} {r : Nat} (h : (s.core r).roomy) : s.entryWaits r = false := by
  rw [State.entryWaits, State.openWindow_of_roomy h]

theorem State.entryWaits_of_full {s : State} {r : Nat} (h : (s.core r).full) : s.entryWaits r = false := by
  rw [State.entryWaits, State.openWindow_of_full h]

theorem State.takeAsync_of_handler {s : State} {r : Nat} (h : (s.core r).handler = true) : s.takeAsync r = s := by
  simp only [State.takeAsync, h, Bool.true_or, if_true]

/-- In a stopped core, or in handler mode, nothing pending is taken. -/
theorem exec_trapEntry_quiet {s : State} {r : Nat} (h : s.takeAsync r = s) : exec (.trapEntry r) s = .next s := by
  show execTrapEntry r s = _
  rw [execTrapEntry, h, ite_self]

/-! ### A stopped core's turn -/

theorem State.settleInput_agenda (s : State) : s.settleInput.agenda = s.agenda := by
  unfold State.settleInput
  split <;> rfl

theorem State.settleInput_region (s : State) (r : Nat) : s.settleInput.region r = s.region r := by
  unfold State.settleInput
  split <;> rfl

/-- The turn of an agent at the head of the agenda. -/
theorem State.turn_core {s : State} {r : Nat} {ts : List Turn} (h : s.agenda = .core r :: ts) :
    s.turn = State.coreTurn { s.settleInput with agenda := ts } r := by
  have ha : s.settleInput.agenda = .core r :: ts := s.settleInput_agenda.trans h
  simp only [State.turn, ha]

theorem State.coreTurn_of_doubleFault {s : State} {r : Nat} (hr : r < 80) (h : (s.core r).run = .doubleFault) :
    s.coreTurn r = .quiet s := by
  have hrun : (s.region r).core.run = .doubleFault := h
  simp only [State.coreTurn, if_neg (Nat.not_le.mpr hr), hrun, decide_true, Bool.or_true, if_true]

theorem step_of_doubleFault {s : State} {r : Nat} {ts : List Turn} (hr : r < 80) (h : (s.core r).run = .doubleFault)
    (ha : s.agenda = .core r :: ts) : step s = .next { s.settleInput with agenda := ts } := by
  have hrun : (State.core { s.settleInput with agenda := ts } r).run = .doubleFault :=
    (congrArg (fun R => R.core.run) (s.settleInput_region r)).trans h
  rw [step, State.turn_core ha, State.coreTurn_of_doubleFault hr hrun]

/-- Settles O31: both ways into DOUBLE_FAULT pass `doubleFault`, and the turn of a stopped core is quiet. -/
theorem doubleFaultStopsTheCore : Obligations.DoubleFaultStopsTheCore := by
  refine ⟨fun s r cause sub eval epc hmode => ?_, fun s r cause sub eval epc hmode hfull => ?_,
    fun s r c v rest hfrozen hstall hmode hrun hfull hpend => ?_, fun s r ts hrun => ⟨exec_trapEntry_quiet ?_, fun ha hr => ?_⟩⟩
  · have htrap : s.trapSync r cause sub eval epc = s.doubleFault r := if_pos hmode
    dsimp only
    rw [htrap, (s.doubleFault_region r).1]
    exact ⟨stopped_doubleFault rfl rfl rfl hmode, rfl, rfl, rfl, rfl⟩
  · have htrap : s.trapSync r cause sub eval epc = s.enterTrap r cause sub eval epc false false := if_neg (by rw [hmode]; decide)
    obtain ⟨hstop, hcore⟩ := State.enterTrap_full_stops hfull cause sub eval epc false false
    dsimp only
    rw [htrap, hcore]
    refine ⟨hstop, causeWord_eq_toWord cause sub, rfl, rfl, ?_⟩
    show estatWord false false (s.core r).handler = 0
    rw [hmode]
    rfl
  · have hfull' : ((s.modCore r (fun k => { k with pend := rest })).core r).full := by rw [State.core_modCore_same]; exact hfull
    obtain ⟨⟨hdf, hpc, hhandler, hfrz, hev, hmem⟩, hcore⟩ :=
      State.enterTrap_full_stops hfull' c.code 0 v (s.core r).pc (s.core r).wait.isSome true
    refine ⟨_, (exec_trapEntry hfrozen hstall).trans
      (congrArg _ (State.takeAsync_of_pending hmode hrun (State.entryWaits_of_full hfull) hpend)),
      ⟨hdf, by rw [hpc, State.core_modCore_same], hhandler, hfrz, hev, hmem⟩, ?_, ?_, ?_⟩
    · rw [hcore]; exact causeWord_zero _
    · rw [hcore]; rfl
    · rw [hcore]; rfl
  · simp only [State.takeAsync, hrun, decide_true, Bool.or_true, Bool.true_or, if_true]
  · exact step_of_doubleFault hr hrun ha

theorem estatWord_async (wcut : Bool) : estatWord wcut true false = toWord (4 * wcut.toNat + 2) := by
  cases wcut <;> decide

/-- The order of the causes that may be pending (R273). -/
theorem Pend.take?_priority (p : Pend) (v : Word) :
    (p.watchdog = some v → ∃ q, p.take? = some (.watchdog, v, q)) ∧
    (p.watchdog = none → p.link = some v → ∃ q, p.take? = some (.link, v, q)) ∧
    (p.watchdog = none → p.link = none → p.fabric = some v → ∃ q, p.take? = some (.fabric, v, q)) ∧
    (p.watchdog = none → p.link = none → p.fabric = none → p.page = some v → ∃ q, p.take? = some (.page, v, q)) ∧
    (p.watchdog = none → p.link = none → p.fabric = none → p.page = none → p.wide = some v → ∃ q, p.take? = some (.wide, v, q)) ∧
    (p.watchdog = none → p.link = none → p.fabric = none → p.page = none → p.wide = none → p.preempt = some v →
      ∃ q, p.take? = some (.preempt, v, q)) ∧
    (∀ h hs, p.watchdog = none → p.link = none → p.fabric = none → p.page = none → p.wide = none → p.preempt = none →
      p.promises = h :: hs → ∃ q, p.take? = some (.promise, BitVec.ofNat 64 h, q)) := by
  unfold Pend.take?
  refine ⟨fun w => ?_, fun w l => ?_, fun w l f => ?_, fun w l f g => ?_, fun w l f g d => ?_, fun w l f g d e => ?_,
    fun h hs w l f g d e ps => ?_⟩ <;> simp [*]

/-- Settles O33: a pending cause is taken by one change of the core. -/
theorem asynchronousCausesAreTaken : Obligations.AsynchronousCausesAreTaken := by
  refine ⟨fun s r c v rest hfrozen hstall hmode hrun hroom hpend => ?_,
    fun s r hmode => exec_trapEntry_quiet (State.takeAsync_of_handler hmode), Pend.take?_priority⟩
  have hroom' : ((s.modCore r (fun k => { k with pend := rest })).core r).roomy := by rw [State.core_modCore_same]; exact hroom
  refine ⟨_, (exec_trapEntry hfrozen hstall).trans
    (congrArg _ (State.takeAsync_of_pending hmode hrun (State.entryWaits_of_roomy hroom) hpend)), ?_⟩
  rw [State.enterTrap_of_roomy hroom', State.modCore_modCore, State.core_modCore_same]
  refine ⟨causeWord_zero _, rfl, rfl, ?_, rfl, rfl, rfl, rfl, sameButCore_modCore s r _⟩
  show estatWord (s.core r).wait.isSome true (s.core r).handler = _
  rw [hmode]
  exact estatWord_async _


/-! ## TRAP, ERET, HALT and transfers of the core (R258, R279-R285) -/

theorem State.using_of_clean {s : State} {r : Nat} {reads : List (BitVec 5)} (h : s.CleanRegs r reads) (t : State) :
    s.using r reads t = t := by
  rw [State.using, h.badReg]

/-- A window with a free frame below closes in place (R261). -/
theorem State.closeWindow_in_place {s : State} {r : Nat} (hw : 16 ≤ (s.core r).wptr) (hb : (s.core r).wbot ≠ (s.core r).wptr) :
    s.closeWindow r = .ok (s.modCore r (fun k => { k with wptr := k.wptr - 16 })) := by
  rw [State.closeWindow]
  simp only [if_neg (show ¬ (s.core r).wptr = 0 by omega), if_neg hb]

/-- Where nothing is pending, or traps stay masked, no cause is taken. -/
theorem State.takeAsync_of_masked {s : State} {r : Nat} (h : (s.core r).handler = true ∨ (s.core r).pend = {}) :
    s.takeAsync r = s := by
  rcases h with h | h
  · exact State.takeAsync_of_handler h
  · have hp : (s.core r).pend.take? = none := by rw [h]; rfl
    simp only [State.takeAsync, hp, ite_self]

/-- The core that ERET leaves (R284). -/
def Core.returned (k : Core) : Core :=
  { k with wptr := k.wptr - 16, handler := k.estat.getLsbD 0, pc := k.epc, stall := none }

theorem State.exitTrap_in_place {s : State} {r : Nat} (hw : 16 ≤ (s.core r).wptr) (hb : (s.core r).wbot ≠ (s.core r).wptr)
    (hin : (s.core r).inCode (s.core r).epc = true) (hmask : (s.core r).estat.getLsbD 0 = true ∨ (s.core r).pend = {}) :
    s.exitTrap r = s.modCore r Core.returned := by
  have hcore : ((s.modCore r Core.returned).core r) = (s.core r).returned := State.core_modCore_same s r _
  have hquiet : (s.modCore r Core.returned).takeAsync r = s.modCore r Core.returned :=
    State.takeAsync_of_masked (by rw [hcore]; exact hmask)
  have hstep : (s.modCore r (fun k => { k with wptr := k.wptr - 16 })).modCore r
      (fun k => { k with handler := k.estat.getLsbD 0, pc := k.epc, stall := none }) =
      s.modCore r Core.returned := by
    rw [State.modCore_modCore]; rfl
  rw [State.exitTrap, State.closeWindow_in_place hw hb]
  simp only [hin, if_true]
  exact (congrArg (fun t => State.takeAsync t r) hstep).trans hquiet

/-- Settles O32: each goes through trap entry or one change of the core. -/
theorem trapsAndReturnsAct : Obligations.TrapsAndReturnsAct := by
  refine ⟨fun a s hclean => congrArg _ (State.using_of_clean hclean _), ?_, fun w s => rfl, fun s => rfl, ?_, ?_⟩
  · intro s hroute
    show execBrk s = _
    rw [execBrk, hroute]
    rfl
  · intro s r hmode hw hb hin hmask
    have hexec : exec .eret s = .next (s.modCore r Core.returned) := by
      show execEret s = _
      rw [execEret, State.handlerOnly, hmode, if_pos rfl, State.using_of_clean (List.forall_mem_nil _),
        State.exitTrap_in_place hw hb hin hmask]
    refine ⟨_, hexec, ?_⟩
    rw [State.core_modCore_same]
    exact ⟨rfl, rfl, rfl, rfl, rfl, sameButCore_modCore s r _⟩
  · intro s r
    refine ⟨_, rfl, ?_⟩
    rw [State.core_modCore_same]
    exact ⟨rfl, rfl, rfl, fun _ => rfl, sameButCore_modCore s r _⟩

/-! ### Branches and jumps (R258, R279) -/

theorem branchTo_eq {n : Nat} (pc : Word) (off : BitVec n) (hn : n ≤ 64) :
    branchTo pc (off.signExtend 64) = pc + toWord (4 * off.toInt) := by
  rw [branchTo, toWord, BitVec.ofInt_mul]
  rw [← BitVec.toInt_signExtend_of_le hn, BitVec.ofInt_toInt]
  rfl

theorem State.transfer_in {old new : State} {r : Nat} {target : Word} (h : (old.core r).inCode target = true) :
    State.transfer old new r target = new.modCore r (fun k => { k with pc := target, stall := none }) := if_pos h

theorem State.transfer_out {old new : State} {r : Nat} {target : Word} (h : (old.core r).inCode target = false) :
    State.transfer old new r target = old.trapSync r 0x04 0 target (old.core r).pc := if_neg (by rw [h]; decide)

/-- A branch instruction is `execBranch` on a Boolean form of its condition. -/
theorem exec_of_branchOf {i : Instr} {a b : BitVec 5} {off : BitVec 16} {cond : Word → Word → Prop}
    (h : branchOf i = some (a, b, off, cond)) :
    ∃ f : Word → Word → Bool, (∀ s, exec i s = execBranch a b off f s) ∧ ∀ x y, f x y = true ↔ cond x y := by
  cases i with
  | beq => cases h; exact ⟨fun x y => x == y, fun _ => rfl, fun x y => by simp⟩
  | bne => cases h; exact ⟨fun x y => x != y, fun _ => rfl, fun x y => by simp⟩
  | blt => cases h; exact ⟨fun x y => x.slt y, fun _ => rfl, fun x y => by simp [BitVec.slt]⟩
  | bge => cases h; exact ⟨fun x y => !x.slt y, fun _ => rfl, fun x y => by simp [BitVec.slt]⟩
  | bltu => cases h; exact ⟨fun x y => x.ult y, fun _ => rfl, fun x y => by simp [BitVec.ult]⟩
  | bgeu => cases h; exact ⟨fun x y => !x.ult y, fun _ => rfl, fun x y => by simp [BitVec.ult]⟩
  | _ => cases h

theorem execBranch_of_clean {s : State} {a b : BitVec 5} {off : BitVec 16} {f : Word → Word → Bool}
    (h : s.CleanRegs s.site.region [a, b]) :
    execBranch a b off f s =
      if f (s.greg s.site.region a) (s.greg s.site.region b) then
        .next (s.transfer s s.site.region ((s.core s.site.region).pc + toWord (4 * off.toInt)))
      else .next (s.advance s.site.region) := by
  have hto := branchTo_eq (s.core s.site.region).pc off (by decide)
  rw [← hto]
  simp only [execBranch, h.badReg]
  rfl

theorem State.targetFault_of_aligned {s : State} {r : Nat} {a : BitVec 5} (hc : s.CleanRegs r [a])
    (h : (s.greg r a).toNat % 4 = 0) : s.targetFault r a = none := by
  have hbad := hc a (by simp)
  have hv : ((s.core r).read a).val.toNat % 4 = 0 := h
  simp [State.targetFault, hbad, hv]

theorem State.targetFault_of_misaligned {s : State} {r : Nat} {a : BitVec 5} (hc : s.CleanRegs r [a])
    (h : (s.greg r a).toNat % 4 ≠ 0) : s.targetFault r a = some (cMISALIGNED, s.greg r a) := by
  have hbad := hc a (by simp)
  have hv : ((s.core r).read a).val.toNat % 4 ≠ 0 := h
  rw [State.targetFault]
  simp only [hbad, Bool.false_eq_true, if_false, if_pos hv]
  rfl

theorem branchesAndJumpsGo : Says.BranchesAndJumpsGo := by
  refine ⟨?_, ?_, ?_, ?_⟩
  · intro i s a b off cond hi r target hclean
    obtain ⟨f, hexec, hf⟩ := exec_of_branchOf hi
    rw [hexec, execBranch_of_clean hclean]
    refine ⟨fun hn => if_neg (fun h => hn ((hf _ _).mp h)), fun hc hin => ?_, fun hc hout => ?_⟩
    · rw [if_pos ((hf _ _).mpr hc)]
      exact congrArg _ (State.transfer_in hin)
    · rw [if_pos ((hf _ _).mpr hc)]
      exact congrArg _ (State.transfer_out hout)
  · intro off s r target hin
    have hto : branchTo (s.core r).pc (off.signExtend 64) = target := branchTo_eq _ off (by decide)
    show Host.Outcome.next (State.transfer s s r (branchTo (s.core r).pc (off.signExtend 64))) = _
    rw [hto, State.transfer_in hin]
  · intro a s r hclean halign hin
    have hf : s.targetFault s.site.region a = none := State.targetFault_of_aligned hclean halign
    show execJr a s = _
    simp only [execJr, hf]
    exact congrArg _ (State.transfer_in hin)
  · intro a s r hclean halign
    have hf : s.targetFault s.site.region a = some (cMISALIGNED, s.greg r a) := State.targetFault_of_misaligned hclean halign
    show execJr a s = _
    simp only [execJr, hf]
    rfl

/-! ### FENCE and PHASE (R280, R313) -/

theorem State.coreOwes_eq_false_iff (s : State) (r : Nat) : s.coreOwes r = false ↔
    (s.core r).stores = [] ∧ ∀ x ∈ s.stamped, x.byCore = true → x.region = r → x.installed = true := by
  simp only [State.coreOwes, State.stampedAny, Bool.or_eq_false_iff, Bool.not_eq_false', List.isEmpty_iff, List.any_eq_false]
  grind

theorem getLsbD_phaseWrite (rp mask : BitVec 4) (a : Word) {k : Nat} (hk : k < 4) :
    (phaseWrite rp mask a).getLsbD k = if mask.getLsbD k then a.getLsbD k else rp.getLsbD k := by
  have ha : (a.setWidth 4).getLsbD k = a.getLsbD k := by simp [hk]
  simp only [phaseWrite, BitVec.getLsbD_or, BitVec.getLsbD_and, BitVec.getLsbD_not, ha, hk, decide_true, Bool.true_and]
  cases mask.getLsbD k <;> simp

theorem stepsOn_advance (s : State) (r : Nat) : s.StepsOn (s.advance r) r := by
  unfold State.StepsOn
  rw [State.advance, State.core_modCore_same]
  exact ⟨rfl, rfl, rfl, rfl, rfl, rfl, rfl, rfl, rfl, rfl, rfl, rfl⟩

theorem fenceAndPhaseAct : Says.FenceAndPhaseAct := by
  refine ⟨?_, ?_, ?_⟩
  · intro k c s r h
    show execFence k c s = _
    by_cases hk : k = .acq
    · rw [hk]; rfl
    · have howes : s.coreOwes r = false := (s.coreOwes_eq_false_iff r).mpr (h.resolve_left hk)
      cases k with
      | acq => exact absurd rfl hk
      | _ => exact if_neg (by rw [howes]; decide)
  · intro k c s r hk h
    show execFence k c s = _
    have howes : s.coreOwes r = true := by
      rw [← Bool.not_eq_false, State.coreOwes_eq_false_iff]
      rintro ⟨hnone, hall⟩
      rcases h with hs | ⟨x, hx, hcore, hr, hi⟩
      · exact hs hnone
      · rw [hall x hx hcore hr] at hi; cases hi
    cases k with
    | acq => exact absurd rfl hk
    | _ => exact if_pos howes
  · intro a mask s r hclean
    have hexec : exec (.phase a mask) s = .next
        ((s.modRegion r (fun R => { R with rp := phaseWrite R.rp mask (s.greg r a), wr := R.wr ||| mask })).advance r) := by
      have hbad : (s.core s.site.region).badReg [a] = none := hclean.badReg
      show execPhase a mask s = _
      simp only [execPhase, hbad]
      rfl
    have hcore : (s.modRegion r (fun R => { R with rp := phaseWrite R.rp mask (s.greg r a), wr := R.wr ||| mask })).core r =
        s.core r := by
      rw [State.core, State.region_modRegion_same]; rfl
    refine ⟨_, hexec, fun _ => ⟨rfl, rfl⟩, fun b => ?_, (stepsOn_advance _ r).of_core_eq hcore, fun k hk => ?_⟩
    · rw [State.advance, State.core_modCore_same, Core.read_step4, hcore]
    · rw [State.advance, State.modCore, State.region_modRegion_same, State.region_modRegion_same]
      exact ⟨getLsbD_phaseWrite _ _ _ hk, BitVec.getLsbD_or⟩

/-- Settles O34. -/
theorem branchFencePhaseAct : Obligations.BranchFencePhaseAct := ⟨branchesAndJumpsGo, fenceAndPhaseAct⟩

/-! ### Calls and returns (R256, R259, R261, R279) -/

/-- The core that a call from a roomy core leaves. -/
def Core.called (k : Core) (target : Word) : Core :=
  { Core.write { k with wptr := k.wptr + 16 } selL7 (k.pc + 4) false with pc := target, stall := none }

theorem State.callTo_of_roomy {s : State} {r : Nat} {target : Word} (h : (s.core r).roomy) (hin : (s.core r).inCode target = true) :
    s.callTo r target = s.modCore r (fun k => { Core.write { k with wptr := k.wptr + 16 } selL7 ((s.core r).pc + 4) false with
      pc := target, stall := none }) := by
  simp only [State.callTo, State.openWindow_of_roomy h, State.transfer_in hin, State.modCore_modCore]

/-- What a call from a roomy core leaves. -/
theorem call_leaves {s t : State} {r : Nat} {target : Word} (h : (s.core r).roomy) (hin : (s.core r).inCode target = true)
    (ht : t = s.callTo r target) : (t.core r).pc = target ∧ (t.core r).wptr = (s.core r).wptr + 16 ∧
      (t.core r).wbot = (s.core r).wbot ∧ t.greg r 23 = (s.core r).pc + 4 ∧ (t.core r).g = (s.core r).g ∧ sameButCore r s t := by
  rw [State.callTo_of_roomy h hin] at ht
  have hcore : t.core r = (s.core r).called target := by rw [ht, State.core_modCore_same]; rfl
  have hread : (t.core r).read selL7 = Reg.of ((s.core r).pc + 4) false := by
    rw [hcore]
    exact Core.read_write_same { s.core r with wptr := (s.core r).wptr + 16 } _ _ (by decide)
  refine ⟨by rw [hcore]; rfl, by rw [hcore, Core.called, Core.write_eq], by rw [hcore, Core.called, Core.write_eq], ?_, ?_,
    ht ▸ sameButCore_modCore s r _⟩
  · exact congrArg Reg.val hread
  · rw [hcore, Core.called, Core.write_of_windowed _ _ _ (by decide) (by decide)]

/-- The core that RET leaves. -/
theorem State.execRet_in_place {s : State} (hclean : s.CleanRegs s.site.region [23])
    (halign : (s.greg s.site.region 23).toNat % 4 = 0) (hin : (s.core s.site.region).inCode (s.greg s.site.region 23) = true)
    (hw : 16 ≤ (s.core s.site.region).wptr) (hb : (s.core s.site.region).wbot ≠ (s.core s.site.region).wptr) :
    exec .ret s = .next (s.modCore s.site.region (fun k =>
      { k with wptr := k.wptr - 16, pc := s.greg s.site.region 23, stall := none })) := by
  show execRet s = _
  have hf : s.targetFault s.site.region selL7 = none := State.targetFault_of_aligned hclean halign
  simp only [execRet, hf, State.closeWindow_in_place hw hb]
  exact congrArg _ ((State.transfer_in hin).trans (State.modCore_modCore _ _ _ _))

theorem callsAndReturnsMoveWindows : Says.CallsAndReturnsMoveWindows := by
  refine ⟨?_, ?_, ?_, ?_⟩
  · intro off s r target hroom hin
    have hto : branchTo (s.core r).pc (off.signExtend 64) = target := branchTo_eq _ off (by decide)
    exact ⟨s.callTo r target, by rw [← hto]; rfl, call_leaves hroom hin rfl⟩
  · intro a s r hroom hclean halign hin
    have hexec : exec (.callr a) s = .next (s.callTo r (s.greg r a)) := by
      have hf : s.targetFault s.site.region a = none := State.targetFault_of_aligned hclean halign
      show execCallr a s = _
      simp only [execCallr, hf]
      rfl
    obtain ⟨hpc, hwptr, _, hl7, _, hrest⟩ := call_leaves hroom hin rfl
    exact ⟨_, hexec, hpc, hwptr, hl7, hrest⟩
  · intro s r hclean halign hin hw hb
    refine ⟨_, State.execRet_in_place hclean halign hin hw hb, ?_⟩
    rw [State.core_modCore_same]
    exact ⟨rfl, rfl, rfl, rfl, sameButCore_modCore s r _⟩
  · intro s r hclean halign hw
    show execRet s = _
    have hf : s.targetFault s.site.region selL7 = none := State.targetFault_of_aligned hclean halign
    have hclose : s.closeWindow s.site.region = .error (.window 1) := if_pos hw
    simp only [execRet, hf, hclose]
    show Host.Outcome.next (s.trapSync r 0x0A 1 (BitVec.ofNat 64 (s.core r).wptr) (s.core r).pc) = _
    rw [hw]
    rfl

/-! ### A spilled frame comes back (R260-R262) -/

/-- Words stored one after another, each a register of a frame with its poison. -/
def Memory.storeAll (m : Memory) (xs : List (Nat × Reg)) : Memory := xs.foldl (fun m x => m.store x.1 8 x.2.val x.2.bad) m

theorem Memory.wf_storeAll {m : Memory} (h : m.wf = true) (xs : List (Nat × Reg)) : (m.storeAll xs).wf = true :=
  Memory.wf_foldl (fun _ _ hm => Memory.wf_store hm _ _ _ _) xs h

/-- Stores to other aligned words keep a word and its poison. -/
theorem Memory.storeAll_apart {m : Memory} (hw : m.wf = true) {a : Nat} (ha : a % 8 = 0) {xs : List (Nat × Reg)}
    (hxs : ∀ x ∈ xs, x.1 % 8 = 0 ∧ (a + 8 ≤ x.1 ∨ x.1 + 8 ≤ a)) :
    (m.storeAll xs).readNat a 8 = m.readNat a 8 ∧ (m.storeAll xs).poisoned a = m.poisoned a := by
  induction xs generalizing m with
  | nil => exact ⟨rfl, rfl⟩
  | cons x xs ih =>
    obtain ⟨halign, hapart⟩ := hxs x (by simp)
    obtain ⟨hread, hpoison⟩ := ih (Memory.wf_store hw x.1 8 x.2.val x.2.bad) (fun y hy => hxs y (by simp [hy]))
    refine ⟨hread.trans (Memory.readNat_congr fun c hc hc' => ?_), hpoison.trans ?_⟩
    · rw [Memory.byte_store hw, if_neg (by omega)]
    · rw [Memory.poisoned_store hw, if_neg (by omega)]

/-- Each word stored reads back, with its poison. -/
theorem Memory.storeAll_reads {m : Memory} (hw : m.wf = true) {xs : List (Nat × Reg)} (halign : ∀ x ∈ xs, x.1 % 8 = 0)
    (hapart : xs.Pairwise (fun x y => x.1 + 8 ≤ y.1 ∨ y.1 + 8 ≤ x.1)) {x : Nat × Reg} (hx : x ∈ xs) :
    (m.storeAll xs).readNat x.1 8 = x.2.val.toNat ∧ (m.storeAll xs).poisoned x.1 = x.2.bad := by
  induction xs generalizing m with
  | nil => cases hx
  | cons y ys ih =>
    have hwf := Memory.wf_store hw y.1 8 y.2.val y.2.bad
    obtain ⟨hy, hys⟩ := List.pairwise_cons.mp hapart
    rcases List.mem_cons.mp hx with rfl | hx'
    · obtain ⟨hread, hpoison⟩ := Memory.storeAll_apart hwf (halign x (by simp)) (xs := ys)
        (fun z hz => ⟨halign z (by simp [hz]), hy z hz⟩)
      refine ⟨hread.trans ?_, hpoison.trans ?_⟩
      · rw [Memory.readNat_store hw]
        exact Nat.mod_eq_of_lt x.2.val.isLt
      · rw [Memory.poisoned_store hw, if_pos rfl]
        cases x.2.bad <;> rfl
    · exact ih hwf (fun z hz => halign z (by simp [hz])) hys hx'

/-- A core's store to a word of its own die is a plain store. -/
theorem State.coreWrite_home {r a : Nat} (h : remoteRoute (regionDie r) a = []) (s : State) (v : Word) (p : Bool) :
    s.coreWrite r (.plain a) v p = { s with mem := s.mem.store a 8 v p } := by
  have hdown : s.routeDown (regionDie r) (Target.plain a).addr = false := by
    simp [State.routeDown, Target.addr, h]
  have hcarried := State.carried_home s (die := regionDie r) (a := (Target.plain a).addr) h p
  simp only [State.coreWrite, hdown, hcarried, Bool.false_eq_true, if_false]
  rfl

/-- The words of a frame, with where each goes. -/
def Core.frameAt (k : Core) (w : Nat) (as : List Nat) (n : Nat) : List (Nat × Reg) :=
  (as.zipIdx n).map (fun x => (x.1, k.p.get (frameReg w x.2)))

theorem State.spillFrame_mem {r : Nat} {as : List Nat} (h : ∀ a ∈ as, remoteRoute (regionDie r) a = []) (s : State) (w : Nat) :
    (s.spillFrame r w (as.map Target.plain)).mem = s.mem.storeAll ((s.core r).frameAt w as 0) := by
  have key : ∀ (as : List Nat) (n : Nat) (k : Core) (t : State), (∀ a ∈ as, remoteRoute (regionDie r) a = []) →
      (((as.map Target.plain).zipIdx n).foldl (fun s x =>
        s.coreWrite r x.1 (k.p.get (frameReg w x.2)).val (k.p.get (frameReg w x.2)).bad) t).mem =
      t.mem.storeAll (k.frameAt w as n) := by
    intro as
    induction as with
    | nil => intro n k t _; rfl
    | cons a as ih =>
      intro n k t h
      rw [List.map_cons, List.zipIdx_cons, List.foldl_cons, ih _ _ _ (fun b hb => h b (by simp [hb])),
        State.coreWrite_home (h a (by simp))]
      rfl
  have hbanks : (s.spillBanks (as.map Target.plain)).mem = s.mem := (s.spillBanks_spec _).1.2
  exact (key as 0 (s.core r) _ h).trans (by rw [hbanks])

/-- A frame at home reads as its words. -/
theorem State.frameWords_home {r : Nat} {as : List Nat} (h : ∀ a ∈ as, remoteRoute (regionDie r) a = []) (s : State) :
    s.frameWords r (as.map Target.plain) = some (as.map (fun a => (BitVec.ofNat 64 (s.mem.readNat a 8), s.mem.poisoned a))) := by
  induction as with
  | nil => rfl
  | cons a as ih =>
    have hdown : s.routeDown (regionDie r) (Target.plain a).addr = false := by
      simp [State.routeDown, Target.addr, h a]
    have hread : s.coreRead r (.plain a) = some (BitVec.ofNat 64 (s.mem.readNat a 8), s.mem.poisoned a) := by
      rw [State.coreRead, hdown]
      rfl
    rw [List.map_cons, State.frameWords, hread, ih (fun b hb => h b (by simp [hb]))]
    rfl

theorem frameReg_inj {w i j : Nat} (hi : i < 128) (hj : j < 128) (h : frameReg w i = frameReg w j) : i = j := by
  have := congrArg Fin.val h
  simp only [frameReg] at this
  omega

/-- Registers of a frame as they are after a fill. -/
theorem Core.fillFrame_get (k : Core) (w : Nat) {xs : List (Word × Bool)} (hlen : xs.length ≤ 128) {i : Nat} (hi : i < xs.length) :
    (k.fillFrame w xs).p.get (frameReg w i) = Reg.of xs[i].1 xs[i].2 := by
  have key : ∀ (xs : List (Word × Bool)) (n : Nat) (k : Core), n + xs.length ≤ 128 → ∀ i, i < n + xs.length →
      ((xs.zipIdx n).foldl (fun k x => { k with p := k.p.set (frameReg w x.2) (Reg.of x.1.1 x.1.2) }) k).p.get (frameReg w i) =
        if h : i - n < xs.length ∧ n ≤ i then Reg.of xs[i - n].1 xs[i - n].2 else k.p.get (frameReg w i) := by
    intro xs
    induction xs with
    | nil => intro n k _ i _; rw [dif_neg (by simp)]; rfl
    | cons x xs ih =>
      intro n k hlen i hi
      rw [List.length_cons] at hlen hi
      rw [List.zipIdx_cons, List.foldl_cons, ih (n + 1) _ (by omega) i (by omega)]
      by_cases hn : i = n
      · subst hn
        rw [dif_neg (by omega), dif_pos (by simp)]
        simp only [Nat.sub_self, List.getElem_cons_zero]
        exact Vector.get_set_same _ _ _
      · by_cases hlt : i < n
        · rw [dif_neg (by omega), dif_neg (by omega)]
          exact Vector.get_set_of_ne _ (fun e => hn (frameReg_inj (by omega) (by omega) e)) _
        · obtain ⟨j, rfl⟩ : ∃ j, i = n + 1 + j := ⟨i - (n + 1), by omega⟩
          have hj : n + 1 + j - n = j + 1 := by omega
          rw [dif_pos (by omega), dif_pos (by rw [List.length_cons]; omega)]
          simp only [hj, List.getElem_cons_succ, Nat.add_sub_cancel_left]
  have := key xs 0 k (by omega) i (by omega)
  rw [dif_pos (by omega)] at this
  exact this

theorem spilledFramesComeBack : Says.SpilledFramesComeBack := by
  intro s r w k' as i hw hlen hi hapart hhome
  have hroute : ∀ a ∈ as, remoteRoute (regionDie r) a = [] := fun a ha => (hhome a ha).2
  have hi' : i < as.length := hlen ▸ hi
  refine ⟨_, State.frameWords_home hroute _, ?_⟩
  rw [Core.fillFrame_get _ _ (by rw [List.length_map, hlen]; decide) (by rw [List.length_map]; exact hi'),
    State.spillFrame_mem hroute]
  have hmem : (as[i], (s.core r).p.get (frameReg w i)) ∈ (s.core r).frameAt w as 0 := by
    rw [Core.frameAt, List.mem_map]
    exact ⟨(as[i], i), by rw [List.mem_zipIdx_iff_getElem?]; exact List.getElem?_eq_getElem hi', rfl⟩
  have hfst : ((s.core r).frameAt w as 0).map Prod.fst = as := by
    rw [Core.frameAt, List.map_map]
    exact List.zipIdx_map_fst 0 as
  obtain ⟨hread, hpoison⟩ := Memory.storeAll_reads hw (xs := (s.core r).frameAt w as 0)
    (fun x hx => (hhome x.1 (by rw [← hfst]; exact List.mem_map_of_mem hx)).1)
    (by rw [← hfst, List.pairwise_map] at hapart; exact hapart) hmem
  simp only [List.getElem_map, hread, hpoison, Reg.of_bad]
  exact ⟨BitVec.eq_of_toNat_eq (by simp [Reg.of]), trivial⟩

/-- Settles O29. -/
theorem windowsMoveAndSpill : Obligations.WindowsMoveAndSpill := ⟨callsAndReturnsMoveWindows, spilledFramesComeBack⟩


/-! ## Time, stamps, tags, counters and system registers of the core (R264-R267, R282, R355-R385) -/

/-! ### Time instructions (R368-R374) -/

theorem evenReg_ne_odd (p : BitVec 4) : (p ++ 0#1 : BitVec 5) ≠ p ++ 1#1 := by
  revert p; decide

theorem evenReg_eq_zero_iff (p : BitVec 4) : (p ++ 0#1 : BitVec 5) = 0 ↔ p = 0 := by
  revert p; decide

theorem oddReg_ne_zero (p : BitVec 4) : (p ++ 1#1 : BitVec 5) ≠ 0 := by
  revert p; decide

/-- The core that CLKRD leaves: both ends of the interval in a pair of registers. -/
def Core.clocked (k : Core) (p : BitVec 4) (e l : Word) : Core :=
  ((k.write (p ++ 0#1) e false).write (p ++ 1#1) l false).step4

theorem Core.clocked_read_even (k : Core) (p : BitVec 4) (e l : Word) :
    ((k.clocked p e l).read (p ++ 0#1)).val = if p = 0 then 0 else e := by
  rw [Core.clocked, Core.read_step4, Core.read_write_other _ _ _ (evenReg_ne_odd p)]
  split
  · next h => rw [(evenReg_eq_zero_iff p).mpr h, Core.read_g0]
  · next h => rw [Core.read_write_same _ _ _ (fun hz => h ((evenReg_eq_zero_iff p).mp hz))]; rfl

theorem Core.clocked_read_odd (k : Core) (p : BitVec 4) (e l : Word) : ((k.clocked p e l).read (p ++ 1#1)).val = l := by
  rw [Core.clocked, Core.read_step4, Core.read_write_same _ _ _ (oddReg_ne_zero p)]; rfl

theorem stepsOn_clocked (s : State) (r : Nat) (p : BitVec 4) (e l : Word) :
    s.StepsOn (s.modCore r (fun k => k.clocked p e l)) r := by
  unfold State.StepsOn
  rw [State.core_modCore_same, Core.clocked, Core.write_eq, Core.write_eq (k := s.core r)]
  exact ⟨rfl, rfl, rfl, rfl, rfl, rfl, rfl, rfl, rfl, rfl, rfl, rfl⟩

/-- Settles O35. -/
theorem timeInstructionsRead : Obligations.TimeInstructionsRead := by
  refine ⟨?_, fun d s => rfl, ?_, ?_, ?_, ?_⟩
  · intro p s r
    refine ⟨s.modCore r (fun k => k.clocked p _ _), rfl, ?_, ?_, stepsOn_clocked s r p _ _, sameButCore_modCore s r _⟩
    · rw [State.greg, State.core_modCore_same, Core.clocked_read_even]
    · rw [State.greg, State.core_modCore_same, Core.clocked_read_odd]
  · intro d sys s
    cases sys <;> rfl
  · intro a s r hclean
    refine ⟨fun h => ?_, fun h => ?_⟩
    · exact congrArg _ ((State.using_of_clean hclean _).trans (if_pos h))
    · exact congrArg _ ((State.using_of_clean hclean _).trans (if_neg (Nat.not_le.mpr h)))
  · intro a sys s r hclean hstall
    have hexec : exec (.waits a sys) s = .next (s.using r [a] (if (s.greg r a).toNat < s.floorAt sys (regionDie r)
        then s.advance r else s.wait r (.waits (s.greg r a) sys))) := by
      show execWaits a sys s = _
      exact if_neg (by rwa [Bool.and_eq_true])
    rw [hexec, State.using_of_clean hclean]
    exact ⟨fun h => congrArg _ (if_pos h), fun h => congrArg _ (if_neg (Nat.not_lt.mpr h))⟩
  · intro a s hstall
    show execWaits a true s = _
    exact if_pos (by rw [hstall]; rfl)

/-! ### Stamped stores and loads of the core (R148, R308, R314, R315) -/

section
variable {s : State} {r : Nat} {a b : BitVec 5} {va : Word} {sys : Bool} {g : Target} {acc : Access}

theorem State.stampedAddr_of_blocked {reads : List (BitVec 5)} {limit : Option Word} (h : s.stampBlocked (regionDie r) sys = true) :
    s.stampedAddr r reads va sys limit acc = .error (cWIDE, s.width (regionDie r)) := if_pos h

/-- Without a limit on the stamp, the address is checked and translated. -/
theorem State.stampedAddr_of_aligned {reads : List (BitVec 5)} (hb : s.stampBlocked (regionDie r) sys = false)
    (hc : s.CleanRegs r reads) (ha : va.toNat % 8 = 0) (hg : s.translateCore r va acc = .ok g) :
    s.stampedAddr r reads va sys none acc = .ok g := by
  have haddr := State.coreAddr_of_aligned (acc := acc) (show s.CleanRegs r [] from List.forall_mem_nil _) ha
  simp only [State.stampedAddr, hb, hc.badReg, ha, haddr, hg, ne_eq, not_true_eq_false, if_false, Bool.false_eq_true]

theorem State.stampedAddr_of_stamp {reads : List (BitVec 5)} {lim : Word} (hb : s.stampBlocked (regionDie r) sys = false)
    (hc : s.CleanRegs r reads) (ha : va.toNat % 8 = 0) (hl : lim.toNat ≤ (s.die (regionDie r)).l)
    (hg : s.translateCore r va acc = .ok g) : s.stampedAddr r reads va sys (some lim) acc = .ok g := by
  have haddr := State.coreAddr_of_aligned (acc := acc) (show s.CleanRegs r [] from List.forall_mem_nil _) ha
  simp only [State.stampedAddr, hb, hc.badReg, ha, haddr, hg, if_neg (Nat.not_lt.mpr hl), ne_eq, not_true_eq_false, if_false,
    Bool.false_eq_true]

theorem State.stampedAddr_of_late {reads : List (BitVec 5)} {lim : Word} (hb : s.stampBlocked (regionDie r) sys = false)
    (hc : s.CleanRegs r reads) (ha : va.toNat % 8 = 0) (hl : (s.die (regionDie r)).l < lim.toNat) :
    s.stampedAddr r reads va sys (some lim) acc = .error (cPROT, lim) := by
  simp only [State.stampedAddr, hb, hc.badReg, ha, if_pos hl, ne_eq, not_true_eq_false, if_false, Bool.false_eq_true]

end

/-- What STS has done once its store is accepted, before its core goes on or waits. -/
def State.stsAccepted (s : State) (r : Nat) (g : Target) (x : Reg) (sys posted : Bool) : State :=
  let t := (s.takeTicket.2.assignStamp (regionDie r)).2
  let stamp := (s.takeTicket.2.assignStamp (regionDie r)).1
  { t with stamped := t.stamped ++ [⟨g.addr, x.val, x.bad, sys, stamp, regionDie r, false,
      if posted then .nobody else .core r, r, s.ticket, true, none, 0⟩] }

theorem State.stsAccepted_stamp (s : State) (r : Nat) (g : Target) (x : Reg) (sys posted : Bool) :
    ((s.stsAccepted r g x sys posted).die (regionDie r)).last = max (s.die (regionDie r)).l ((s.die (regionDie r)).last + 1) ∧
    (s.stsAccepted r g x sys posted).stamped = s.stamped ++ [⟨g.addr, x.val, x.bad, sys,
      max (s.die (regionDie r)).l ((s.die (regionDie r)).last + 1), regionDie r, false,
      if posted then .nobody else .core r, r, s.ticket, true, none, 0⟩] := by
  rw [State.stsAccepted, State.assignStamp_snd, State.assignStamp_fst]
  have hdie := s.takeTicket.2.die_modDie_same (regionDie r)
    (fun D => { D with last := max (s.die (regionDie r)).l ((s.die (regionDie r)).last + 1) })
  exact ⟨congrArg DieTime.last hdie, rfl⟩

theorem State.stsAccepted_rest (s : State) (r : Nat) (g : Target) (x : Reg) (sys posted : Bool) :
    (s.stsAccepted r g x sys posted).core r = s.core r ∧ (s.stsAccepted r g x sys posted).mem = s.mem := by
  rw [State.stsAccepted, State.assignStamp_snd]
  exact ⟨rfl, rfl⟩

section
variable {s : State} {d a b : BitVec 5} {sys : Bool} {g : Target}

theorem exec_sts_posted (h : s.stampedAddr s.site.region [a] (s.greg s.site.region a) sys none .stampedStore = .ok g) :
    exec (.sts d a b sys true) s = .next ((s.stsAccepted s.site.region g ((s.core s.site.region).read b) sys true).retire
      s.site.region d (BitVec.ofNat 64 (s.takeTicket.2.assignStamp (regionDie s.site.region)).1)) := by
  show execSts d a b sys true s = _
  simp only [execSts, h]
  rfl

theorem exec_sts_waiting (h : s.stampedAddr s.site.region [a] (s.greg s.site.region a) sys none .stampedStore = .ok g) :
    exec (.sts d a b sys false) s = .next ((s.stsAccepted s.site.region g ((s.core s.site.region).read b) sys false).modCore
      s.site.region (fun k => { k with
        stall := some (.sts (s.takeTicket.2.assignStamp (regionDie s.site.region)).1 d) })) := by
  show execSts d a b sys false s = _
  simp only [execSts, h]
  rfl

theorem exec_coreLdas_ok
    (h : s.stampedAddr s.site.region [a, b] (s.greg s.site.region a) sys (some (s.greg s.site.region b)) .stampedLoad = .ok g) :
    exec (.coreLdas d a b sys) s = .next (State.modCore { s with ldas := s.ldas ++
      [⟨g.addr, (s.greg s.site.region b).toNat, sys, .core s.site.region, s.greg s.site.region a⟩] } s.site.region
      (fun k => { k with stall := some (.ldas 0 d) })) := by
  show execCoreLdas d a b sys s = _
  simp only [execCoreLdas, h]

theorem exec_coreLdas_error {c : Byte} {v : Word}
    (h : s.stampedAddr s.site.region [a, b] (s.greg s.site.region a) sys (some (s.greg s.site.region b)) .stampedLoad =
      .error (c, v)) : exec (.coreLdas d a b sys) s = .next (s.trapHere s.site.region c v) := by
  show execCoreLdas d a b sys s = _
  simp only [execCoreLdas, h]

theorem exec_sts_error {posted : Bool} {c : Byte} {v : Word}
    (h : s.stampedAddr s.site.region [a] (s.greg s.site.region a) sys none .stampedStore = .error (c, v)) :
    exec (.sts d a b sys posted) s = .next (s.trapHere s.site.region c v) := by
  show execSts d a b sys posted s = _
  simp only [execSts, h]

end

/-- Settles O36. -/
theorem stampedCoreInstructionsAct : Obligations.StampedCoreInstructionsAct := by
  refine ⟨?_, ?_, ?_, ?_⟩
  · intro d a b sys posted s g r die stamp hb hclean halign hg
    have haddr := State.stampedAddr_of_aligned hb hclean halign hg
    obtain ⟨hlast, hst⟩ := s.stsAccepted_stamp r g ((s.core r).read b) sys posted
    obtain ⟨hcore, hmem⟩ := s.stsAccepted_rest r g ((s.core r).read b) sys posted
    cases posted with
    | true =>
      refine ⟨_, exec_sts_posted haddr, fun c => ?_, hlast, hst, fun _ => ⟨?_, fun hd => ?_⟩, nofun⟩
      · exact ⟨congrArg (Memory.byte · c) hmem, congrArg (Memory.poisoned · c) hmem⟩
      · rw [State.retire, State.core_modCore_same, Core.write_eq, hcore]; rfl
      · rw [State.retire, State.greg, read_modCore_write_same _ _ hd, State.assignStamp_fst]; rfl
    | false =>
      refine ⟨_, exec_sts_waiting haddr, fun c => ?_, hlast, hst, nofun, fun _ => ?_⟩
      · exact ⟨congrArg (Memory.byte · c) hmem, congrArg (Memory.poisoned · c) hmem⟩
      · rw [State.core_modCore_same, hcore, State.assignStamp_fst]; exact ⟨rfl, rfl⟩
  · intro d a b sys s g r hb hclean halign hl hg
    refine ⟨_, exec_coreLdas_ok (State.stampedAddr_of_stamp hb hclean halign hl hg), fun _ => ⟨rfl, rfl⟩, ?_⟩
    rw [State.core_modCore_same]
    exact ⟨rfl, rfl, rfl⟩
  · intro d a b sys s r hb
    exact ⟨fun posted => exec_sts_error (State.stampedAddr_of_blocked hb), exec_coreLdas_error (State.stampedAddr_of_blocked hb)⟩
  · intro d a b sys s r hb hclean halign hl
    exact exec_coreLdas_error (State.stampedAddr_of_late hb hclean halign hl)

/-! ### The tag table (R355, R356) -/

theorem tagOf_eq (va : Word) : tagOf va = toWord (va.toNat / 8192 % 2 ^ 43) := by
  apply BitVec.eq_of_toNat_eq
  rw [tagOf, toWord, show ((va.toNat : Int) / 8192 % 2 ^ 43) = ((va.toNat / 8192 % 2 ^ 43 : Nat) : Int) by simp,
    BitVec.ofInt_natCast, BitVec.toNat_setWidth, BitVec.extractLsb'_toNat, BitVec.toNat_ofNat, Nat.shiftRight_eq_div_pow]

/-- A region changed outside its core, and its core advanced. -/
theorem State.region_advance (s : State) (r : Nat) :
    (s.advance r).region r = { s.region r with core := (s.core r).step4 } := State.region_modRegion_same _ _ _

theorem State.core_modRegion_keeping {s : State} {r : Nat} {f : Region → Region} (h : (f (s.region r)).core = (s.region r).core) :
    (s.modRegion r f).core r = s.core r := by
  rw [State.core, State.region_modRegion_same, h]; rfl

/-- What a change of a region that keeps its core leaves, once the core advances. -/
theorem advance_modRegion {s : State} {r : Nat} {f : Region → Region} (h : (f (s.region r)).core = (s.region r).core) :
    (∀ c, (((s.modRegion r f).advance r).core r).read c = (s.core r).read c) ∧ s.StepsOn ((s.modRegion r f).advance r) r ∧
      sameBytes s ((s.modRegion r f).advance r) := by
  have hcore := State.core_modRegion_keeping h
  refine ⟨fun c => ?_, (stepsOn_advance _ r).of_core_eq hcore, fun _ => ⟨rfl, rfl⟩⟩
  rw [State.advance, State.core_modCore_same, Core.read_step4, hcore]

theorem exec_tfill_free {s : State} {a b : BitVec 5} (hclean : s.CleanRegs s.site.region [a, b])
    (hcan : canonical (s.greg s.site.region a) = true)
    (hcap : (s.greg s.site.region b).toNat < (s.region s.site.region).tagSlots s.site.region)
    (halign : (s.greg s.site.region a).toNat % 8192 = 0)
    (hfree : (s.region s.site.region).tagSlot? (tagOf (s.greg s.site.region a)) = none) :
    exec (.tfill a b) s = .next ((s.modRegion s.site.region (fun R =>
      { R with tags := R.tags.set (s.greg s.site.region b).toNat (tagOf (s.greg s.site.region a)) })).advance s.site.region) := by
  refine congrArg _ ((State.using_of_clean hclean _).trans ((if_neg (not_not.mpr halign)).trans
    ((if_neg (by rw [hcan]; decide)).trans ((if_neg (Nat.not_le.mpr hcap)).trans ?_))))
  simp only [hfree]

theorem tagTableActs : Says.TagTableActs := by
  refine ⟨?_, ?_, ?_⟩
  · intro d a s r hclean hcan
    have hexec : exec (.tlook d a) s = .next (s.retire r d (match (s.region r).tagSlot? (tagOf (s.greg r a)) with
        | some i => BitVec.ofNat 64 i
        | none => allOnes)) := congrArg _ ((State.using_of_clean hclean _).trans (if_pos hcan))
    rw [hexec, Region.tagSlot?, tagOf_eq]
    cases (s.region r).tags.find? _ <;> rfl
  · intro a b s r tag hclean hcan hcap halign hnone
    have htag : tagOf (s.greg r a) = tag := tagOf_eq _
    have hfree : (s.region r).tagSlot? tag = none := by
      rw [Region.tagSlot?, Option.map_eq_none_iff, List.find?_eq_none]
      exact fun e he => by simpa using hnone e he
    refine ⟨_, exec_tfill_free hclean hcan hcap halign (htag ▸ hfree), ?_, fun n hn => ?_, advance_modRegion rfl⟩
    · rw [State.region_advance, State.region_modRegion_same, ← htag]; exact Map.get?_set_same _ _ _
    · rw [State.region_advance, State.region_modRegion_same]; exact Map.get?_set_other _ hn _
  · intro a s r hclean hcap
    have hexec : exec (.tevict a) s =
        .next ((s.modRegion r (fun R => { R with tags := R.tags.del (s.greg r a).toNat })).advance r) :=
      congrArg _ ((State.using_of_clean hclean _).trans (if_neg (Nat.not_le.mpr hcap)))
    refine ⟨_, hexec, ?_, fun n hn => ?_, advance_modRegion rfl⟩
    · rw [State.region_advance, State.region_modRegion_same]; exact Map.get?_del_same _ _
    · rw [State.region_advance, State.region_modRegion_same]; exact Map.get?_del_other _ hn

/-! ### Counters (R376, R381, R385) -/

theorem counterDefined_of_le {n : Nat} (h : n ≤ 0x13) : counterDefined n = true := by
  simp [counterDefined, h]

theorem counterClearable_of_le {n : Nat} (h : n ≤ 0x13) : counterClearable n = true := by
  rw [counterClearable, counterDefined_of_le h, Bool.true_and, Bool.and_eq_true, decide_eq_true_iff, decide_eq_true_iff]
  omega

/-- A counter of the region itself. -/
theorem State.counter_of_le (s : State) (r : Nat) {n : Nat} (h : n ≤ 0x13) :
    s.counter r n = BitVec.ofNat 64 ((s.region r).ctr.get n 0) := by
  simp only [State.counter, if_neg (show ¬ n = 0x1E by omega), if_neg (show ¬ n = 0x1F by omega), if_pos (show n < 0x400 by omega)]

theorem State.reRot_other (s : State) (r : Nat) {n : Nat} (h : n ≠ 0x1F) : s.reRot r n = s := if_neg h

/-- A programmable counter takes its configuration, and its count clears. -/
theorem Region.setCounterCfg_prog (R : Region) {n : Nat} (h : 0x20 ≤ n) (b : Word) :
    R.setCounterCfg n b = { R with prog := R.prog.set (n - 0x20) b, ctr := R.ctr.set n 0 } := by
  simp only [Region.setCounterCfg, if_neg (show ¬ n = 0x1E by omega), if_neg (show ¬ n = 0x1F by omega)]

theorem Region.counterCfg_prog (R : Region) {n : Nat} (h : 0x20 ≤ n) : R.counterCfg n = R.prog.get (n - 0x20) 0 := by
  simp only [Region.counterCfg, if_neg (show ¬ n = 0x1E by omega), if_neg (show ¬ n = 0x1F by omega)]

theorem Region.clearCounter_of_le (R : Region) {n : Nat} (h : n ≤ 0x13) :
    R.clearCounter n = { R with ctr := R.ctr.set n (R.ctrNow.get n 0) } := by
  simp only [Region.clearCounter, if_neg (show ¬ n = 0x1F by omega), if_pos (show n < 0x400 by omega)]

theorem exec_cntcfg_prog {s : State} {d a b : BitVec 5} (hclean : s.CleanRegs s.site.region [a, b])
    (hlo : 0x20 ≤ (s.greg s.site.region a).toNat) (hhi : (s.greg s.site.region a).toNat ≤ 0x27)
    (hcfg : s.counterCfgBad s.site.region (s.greg s.site.region a).toNat (s.greg s.site.region b) = false) :
    exec (.cntcfg d a b) s = .next ((s.modRegion s.site.region (fun R => R.setCounterCfg (s.greg s.site.region a).toNat
      (s.greg s.site.region b))).retire s.site.region d
      ((s.region s.site.region).prog.get ((s.greg s.site.region a).toNat - 0x20) 0)) := by
  refine congrArg _ ((State.using_of_clean hclean _).trans ((if_neg ?_).trans ((if_neg (by rw [hcfg]; decide)).trans ?_)))
  · simp [hlo, hhi]
  · rw [State.reRot_other _ _ (show (s.greg s.site.region a).toNat ≠ 0x1F by omega), Region.counterCfg_prog _ hlo]

/-- What a change of a region that keeps its core leaves, once a register is written. -/
theorem retire_modRegion {s : State} {r : Nat} {f : Region → Region} (h : (f (s.region r)).core = (s.region r).core)
    (d : BitVec 5) (v : Word) : s.StepsOn ((s.modRegion r f).retire r d v) r ∧ sameRegs r d s ((s.modRegion r f).retire r d v) ∧
      sameBytes s ((s.modRegion r f).retire r d v) := by
  have hcore := State.core_modRegion_keeping h
  refine ⟨(stepsOn_modCore_write _ r d v false).of_core_eq hcore, fun a ha => ?_, fun _ => ⟨rfl, rfl⟩⟩
  rw [State.retire, State.core_modCore_same, Core.read_step4, Core.read_write_other _ _ _ ha, hcore]

theorem State.region_retire (s : State) (r : Nat) (d : BitVec 5) (v : Word) :
    (s.retire r d v).region r = { s.region r with core := ((s.core r).write d v false).step4 } := State.region_modRegion_same _ _ _

theorem counterInstructionsAct : Says.CounterInstructionsAct := by
  refine ⟨?_, ?_, ?_, ?_⟩
  · intro d a s r hclean hn
    rw [← s.counter_of_le r hn]
    exact congrArg _ ((State.using_of_clean hclean _).trans (if_pos (counterDefined_of_le hn)))
  · intro d a s r hclean hn
    exact congrArg _ ((State.using_of_clean hclean _).trans (if_neg (by rw [hn]; decide)))
  · intro d a b s r n hclean hlo hhi hcfg
    have hset := Region.setCounterCfg_prog (s.region r) hlo (s.greg r b)
    obtain ⟨hsteps, hregs, hbytes⟩ := retire_modRegion (f := fun R => R.setCounterCfg n (s.greg r b))
      (by rw [hset]) d ((s.region r).prog.get (n - 0x20) 0)
    refine ⟨_, exec_cntcfg_prog hclean hlo hhi hcfg, fun hd => ?_, ?_, ?_, hsteps, hregs, hbytes⟩
    · rw [State.retire, State.greg, read_modCore_write_same _ _ hd]; rfl
    · rw [State.region_retire, State.region_modRegion_same, hset]; exact Map.get_set_same _ _ _ _
    · rw [State.region_retire, State.region_modRegion_same, hset]; exact Map.get_set_same _ _ _ _
  · intro a s r n hclean hn
    have hclear := Region.clearCounter_of_le (s.region r) hn
    have hexec : exec (.cntclr a) s = .next ((s.modRegion r (fun R => R.clearCounter n)).advance r) := by
      refine congrArg _ ((State.using_of_clean hclean _).trans ((if_pos (counterClearable_of_le hn)).trans ?_))
      rw [State.reRot_other _ _ (show n ≠ 0x1F by omega)]
    obtain ⟨_, hsteps, hbytes⟩ := advance_modRegion (f := fun R => R.clearCounter n) (by rw [hclear])
    refine ⟨_, hexec, ?_, fun m hm => ?_, hsteps, hbytes⟩
    · rw [State.region_advance, State.region_modRegion_same, hclear]; exact Map.get_set_same _ _ _ _
    · rw [State.region_advance, State.region_modRegion_same, hclear]; exact Map.get_set_other _ hm _ _

/-- Settles O37. -/
theorem tagTableAndCounters : Obligations.TagTableAndCounters := ⟨tagTableActs, counterInstructionsAct⟩

/-! ### System registers (R264-R267, R282) -/

/-- A write of a listed register goes on once its effect is made. -/
theorem exec_csrwr_ok {s t : State} {a b : BitVec 5} (hclean : s.CleanRegs s.site.region [a, b])
    (hlt : (s.greg s.site.region b).toNat < 4096)
    (h : s.csrWrite s.site.region (s.greg s.site.region b).toNat (s.greg s.site.region a) = .ok t) :
    exec (.csrwr a b) s = .next (t.advance s.site.region) := by
  refine congrArg _ ((State.using_of_clean hclean _).trans ((if_neg (Nat.not_le.mpr hlt)).trans ?_))
  simp only [h]

theorem State.csrWrite_evec (s : State) (r : Nat) (v : Word) : s.csrWrite r 0x010 v =
    .ok (if (s.core r).handler then s.modCore r (fun k => { k with evec := v &&& ~~~3 }) else s) := rfl

theorem State.csrWrite_astat (s : State) (r : Nat) (v : Word) : s.csrWrite r 0x030 v =
    .ok (s.modRegion r (fun R => { R with astat := (R.astat &&& ~~~(v.setWidth 6)) ||| R.astatSet })) := rfl

theorem State.csrWrite_amode (s : State) (r : Nat) (v : Word) : s.csrWrite r 0x031 v =
    .ok (s.modRegion r (fun R => { R with amodeNext := some (v &&& 0x13F) })) := rfl

theorem State.csrWrite_efault (s : State) (r : Nat) {n : Nat} (hlo : 0x400 ≤ n) (hhi : n < 0x600) (v : Word) :
    s.csrWrite r n v = .ok (s.csrEfault (efaultUnit r n) v) := by
  unfold State.csrWrite
  exact if_pos (by simp [hlo, hhi])

theorem unitExists_bounds {u : UnitId} (h : unitExists u = true) : u.cell < 16 ∧ u.sub < 32 := by
  simp only [unitExists, Bool.and_eq_true, decide_eq_true_eq] at h
  obtain ⟨⟨_, hcell⟩, hsub⟩ := h
  refine ⟨hcell, ?_⟩
  by_contra hge
  have hkind : u.kind? = none := by
    unfold UnitId.kind?
    rw [if_neg (by omega)]
    split <;> first | omega | rfl
  rw [if_neg (by omega), hkind] at hsub
  cases hsub

/-- The number of an element's EFAULT names that element. -/
theorem efaultUnit_efaultNum {u : UnitId} {r : Nat} (h : unitExists u = true) (hr : u.region = r) :
    0x400 ≤ (efaultNum u).toNat ∧ (efaultNum u).toNat < 0x600 ∧ efaultUnit r (efaultNum u).toNat = u := by
  obtain ⟨hcell, hsub⟩ := unitExists_bounds h
  have hnum : (efaultNum u).toNat = 0x400 + 32 * u.cell + u.sub := by
    rw [efaultNum, BitVec.toNat_ofNat, Nat.mod_eq_of_lt (by omega)]
  obtain ⟨ur, uc, us⟩ := u
  dsimp only at *
  refine ⟨by omega, by omega, ?_⟩
  rw [hnum, efaultUnit, hr, show (0x400 + 32 * uc + us - 0x400) / 32 = uc by omega,
    show (0x400 + 32 * uc + us - 0x400) % 32 = us by omega]

/-- The W1C write of an EFAULT's valid bit changes that element alone. -/
theorem State.csrEfault_leaves (s : State) {u : UnitId} {v : Word} (h : unitExists u = true) (hv : v.getLsbD 63 = true) :
    (s.csrEfault u v).regions = s.regions ∧ (s.csrEfault u v).mem = s.mem ∧
      ((s.csrEfault u v).unit u).efault.getLsbD 63 = false := by
  rw [State.csrEfault, if_pos h, State.unit_modUnit_same]
  have hbit : ((3 : Word) <<< 62).getLsbD 63 = true := by decide
  exact ⟨rfl, rfl, by simp only [BitVec.getLsbD_and, BitVec.getLsbD_not, hv, hbit, Bool.and_self, Bool.not_true, Bool.and_false]⟩

/-- Settles O38. -/
theorem systemRegistersReadAndWrite : Obligations.SystemRegistersReadAndWrite := by
  refine ⟨?_, ?_, ?_, ?_, ?_⟩
  · intro d b s r n hclean hlt
    have hexec : exec (.csrrd d b) s = .next (match s.csr r n with
        | some v => s.retire r d v
        | none => s.trapHere r cPROT (s.greg r b)) :=
      congrArg _ ((State.using_of_clean hclean _).trans (if_neg (Nat.not_le.mpr hlt)))
    refine ⟨fun v h => ?_, fun h => ?_⟩
    · rw [hexec, h]
    · rw [hexec, h]; rfl
  · intro a b s r hclean hb
    have hn : (s.greg r b).toNat = 0x010 := by rw [hb]; rfl
    have hexec := exec_csrwr_ok hclean (by rw [hn]; decide) (by rw [hn]; exact State.csrWrite_evec s r (s.greg r a))
    refine ⟨_, hexec, ?_⟩
    by_cases hmode : (s.core r).handler = true
    · rw [if_pos hmode, if_pos hmode, State.advance, State.modCore_modCore, State.core_modCore_same]
      exact ⟨fun _ => rfl, fun _ => ⟨rfl, rfl⟩, rfl, rfl⟩
    · rw [if_neg hmode, if_neg hmode, State.advance, State.core_modCore_same]
      exact ⟨fun _ => rfl, fun _ => ⟨rfl, rfl⟩, rfl, rfl⟩
  · intro a b s r hclean hb
    have hn : (s.greg r b).toNat = 0x030 := by rw [hb]; rfl
    have hexec := exec_csrwr_ok hclean (by rw [hn]; decide) (by rw [hn]; exact State.csrWrite_astat s r (s.greg r a))
    refine ⟨_, hexec, (advance_modRegion rfl).2.1, fun k hk => ?_⟩
    rw [State.region_advance, State.region_modRegion_same]
    simp [hk]
  · intro a b s r hclean hb
    have hn : (s.greg r b).toNat = 0x031 := by rw [hb]; rfl
    have hexec := exec_csrwr_ok hclean (by rw [hn]; decide) (by rw [hn]; exact State.csrWrite_amode s r (s.greg r a))
    refine ⟨_, hexec, (advance_modRegion rfl).2.1, ?_⟩
    rw [State.region_advance, State.region_modRegion_same]
  · intro a b u s r hclean hex hur hb hvalid
    obtain ⟨hlo, hhi, hu⟩ := efaultUnit_efaultNum hex hur
    have hn : (s.greg r b).toNat = (efaultNum u).toNat := by rw [hb]
    have hexec := exec_csrwr_ok hclean (by rw [hn]; omega) (State.csrWrite_efault s r (hn ▸ hlo) (hn ▸ hhi) (s.greg r a))
    rw [hn, hu] at hexec
    obtain ⟨hregions, hmem, hcleared⟩ := s.csrEfault_leaves hex hvalid
    refine ⟨_, hexec, (stepsOn_advance _ r).of_core_eq (congrArg (fun m => (Map.get m r {}).core) hregions), hcleared, fun c => ?_⟩
    exact ⟨congrArg (Memory.byte · c) hmem, congrArg (Memory.poisoned · c) hmem⟩


/-! ## Which word an element issues (R95, R106) -/

theorem ctxOf_lt (i : Instr) : ctxOf i < 4 := by
  unfold ctxOf
  split
  · next v _ => exact v.trig.ctx.isLt
  · split
    · next t _ => exact t.ctx.isLt
    · decide

/-- The words of an element stand in slot order. -/
theorem State.wordsOf_pairwise (s : State) (u : UnitId) : (s.wordsOf u).Pairwise (fun a b => a.1 < b.1) := by
  rw [State.wordsOf, List.pairwise_filterMap]
  refine List.Pairwise.imp (fun {m n} h a ha b hb => ?_) List.pairwise_lt_range
  obtain ⟨i, _, rfl⟩ := Option.map_eq_some_iff.mp ha
  obtain ⟨j, _, rfl⟩ := Option.map_eq_some_iff.mp hb
  exact h

/-- How far a context stands after the one that issued last, in cyclic order. -/
def turnRank (last c : Nat) : Nat := (c + 3 - last % 4) % 4

theorem turnRank_after {last k : Nat} (h1 : 1 ≤ k) (h4 : k ≤ 4) : turnRank last ((last + k) % 4) = k - 1 := by
  unfold turnRank
  omega

theorem after_turnRank {last c : Nat} (h : c < 4) : c = (last + (turnRank last c + 1)) % 4 ∧ turnRank last c < 4 := by
  unfold turnRank
  omega

/-- A word stands before another: its context is earlier in cyclic order, or the same and its slot lower. -/
def standsBefore (last : Nat) (a b : Nat × Instr) : Prop :=
  turnRank last (ctxOf a.2) ≤ turnRank last (ctxOf b.2) ∧ (ctxOf a.2 = ctxOf b.2 → a.1 ≤ b.1)

/-- The words of an element in the order in which they are asked. -/
def askOrder (last : Nat) (ws : List (Nat × Instr)) : List (Nat × Instr) :=
  [1, 2, 3, 4].flatMap (fun k => ws.filter (fun e => ctxOf e.2 = (last + k) % 4))

theorem mem_askOrder {last : Nat} {ws : List (Nat × Instr)} {e : Nat × Instr} : e ∈ askOrder last ws ↔ e ∈ ws := by
  simp only [askOrder, List.mem_flatMap, List.mem_filter, decide_eq_true_eq]
  refine ⟨fun ⟨_, _, h, _⟩ => h, fun h => ?_⟩
  obtain ⟨hctx, hlt⟩ := after_turnRank (last := last) (ctxOf_lt e.2)
  refine ⟨turnRank last (ctxOf e.2) + 1, ?_, h, hctx⟩
  simp only [List.mem_cons, List.not_mem_nil, or_false]
  omega

theorem askOrder_pairwise (last : Nat) {ws : List (Nat × Instr)} (h : ws.Pairwise (fun a b => a.1 < b.1)) :
    (askOrder last ws).Pairwise (standsBefore last) := by
  rw [askOrder, List.pairwise_flatMap]
  refine ⟨fun k _ => ?_, ?_⟩
  · rw [List.pairwise_filter]
    refine h.imp (fun {a b} hlt ha hb => ?_)
    rw [decide_eq_true_iff] at ha hb
    exact ⟨by rw [ha, hb], fun _ => hlt.le⟩
  · have hk : ([1, 2, 3, 4] : List Nat).Pairwise (fun k l => 1 ≤ k ∧ k < l ∧ l ≤ 4) := by decide
    refine hk.imp (fun {k l} hkl a ha b hb => ?_)
    obtain ⟨h1, hlt, h4⟩ := hkl
    simp only [List.mem_filter, decide_eq_true_eq] at ha hb
    have hra : turnRank last (ctxOf a.2) = k - 1 := by rw [ha.2]; exact turnRank_after h1 (by omega)
    have hrb : turnRank last (ctxOf b.2) = l - 1 := by rw [hb.2]; exact turnRank_after (by omega) h4
    refine ⟨by omega, fun heq => ?_⟩
    rw [heq] at hra
    omega

/-- The first entry with a property stands before every other entry that has it. -/
theorem find?_before {α : Type} {R : α → α → Prop} {l : List α} (hl : l.Pairwise R) {p : α → Bool} {x y : α}
    (hx : l.find? p = some x) (hy : y ∈ l) (hp : p y = true) : x = y ∨ R x y := by
  obtain ⟨_, as, bs, rfl, has⟩ := List.find?_eq_some_iff_append.mp hx
  rcases List.mem_append.mp hy with h | h
  · have := has y h
    rw [hp] at this
    cases this
  · rcases List.mem_cons.mp h with h | h
    · exact .inl h.symm
    · exact .inr (List.rel_of_pairwise_cons (List.pairwise_append.mp hl).2.1 h)

/-- Settles O52: `find?` over the words in the order in which contexts and slots are asked. -/
theorem theLowestReadyWordIssues : Obligations.TheLowestReadyWordIssues := by
  intro s u n i h
  have hfind : (askOrder (s.unit u).lastCtx (s.wordsOf u)).find? (s.moves u) = some (n, i) := h
  have hfirst : ∀ m j, (m, j) ∈ s.wordsOf u → s.moves u (m, j) = true →
      (n, i) = (m, j) ∨ standsBefore (s.unit u).lastCtx (n, i) (m, j) := fun m j hm hmoves =>
    find?_before (askOrder_pairwise _ (s.wordsOf_pairwise u)) hfind (mem_askOrder.mpr hm) hmoves
  refine ⟨mem_askOrder.mp (List.mem_of_find?_eq_some hfind), List.find?_some hfind, fun m j hm hmoves => ?_,
    fun m j hm hctx hmoves => ?_⟩
  · rcases hfirst m j hm hmoves with heq | ⟨hrank, _⟩
    · cases heq; exact Nat.le_refl _
    · exact hrank
  · rcases hfirst m j hm hmoves with heq | ⟨_, hslot⟩
    · cases heq; exact Nat.le_refl _
    · exact hslot hctx.symm

/-! ## A step runs the instruction in hand (R258, R268, R272) -/

/-- The meaning of one of the hardware's own steps is that of the instruction of that name. -/
theorem Own.run_eq_exec {o : Own} {i : Instr} (h : o.Means i) (s : State) : o.run s = exec i s := by
  cases o <;> (cases h; rfl)

section
variable {s : State} {r : Nat} {ts : List Turn}

theorem step_of_core (ha : s.agenda = .core r :: ts) :
    step s = match State.coreTurn { s.settleInput with agenda := ts } r with
      | .quiet t => .next t
      | .run i t => exec i t
      | .own o t => o.run t
      | .bad => .fault .noSuchAgent := by
  rw [step, State.turn_core ha] <;> rfl

/-- A core that is asked past its pending causes and waits: it fetches, unless a stamped access or an HWAIT holds it. -/
theorem State.coreTurn_fetch (hr : r < 80) (hl : (s.region r).launch.isSome = true)
    (hf : (s.region r).coreFrozen = false ∨ (s.core r).binding = true) (hd : (s.core r).run ≠ .doubleFault)
    (hp : (s.core r).stall ≠ none ∨ (s.core r).handler = true ∨ (s.core r).pend.take? = none) (hw : (s.core r).wait = none)
    (hs : (s.core r).stall = none ∨ (s.core r).stall = some .retry ∨ (s.core r).stall = some .record ∨
      ∃ x y, (s.core r).stall = some (.sbind x y)) :
    s.coreTurn r = (
      let s1 : State := { s with site := { s.site with region := r } }
      if !(s.core r).inCode (s.core r).pc then .own .fetchOutsideCodeArea s1
      else match decodeC (s.coreWord r) with
        | .error _ => .own (.illegalWord (s.coreWord r)) s1
        | .ok i => .run i (if (s.core r).stall.isNone then s1.traceIssue r (issuePort i) else s1)) := by
  have hstop : ((s.region r).launch.isNone || ((s.region r).coreFrozen && !(s.core r).binding) ||
      decide ((s.core r).run = .doubleFault)) = false := by
    rw [Option.isNone_eq_false_iff.mpr hl, decide_eq_false hd]
    rcases hf with h | h <;> simp [h]
  have hpend : ((s.core r).stall.isNone && !(s.core r).handler && (s.core r).pend.take?.isSome) = false := by
    rcases hp with h | h | h
    · rw [Option.isNone_eq_false_iff.mpr (Option.isSome_iff_ne_none.mpr h)]; rfl
    · simp [h]
    · simp [h]
  unfold State.coreTurn
  unfold State.core at hstop hpend hw hs ⊢
  dsimp only
  rw [if_neg (Nat.not_le.mpr hr), hstop, hpend, hw]
  rcases hs with h | h | h | ⟨x, y, h⟩ <;> rw [h] <;> rfl

end

/-- An element's turn, once it may issue. -/
theorem State.unitTurn_pick {s : State} {u : UnitId} {n : Nat} {i : Instr} (hex : unitExists u = true) (halive : s.alive u = true)
    (hi : (s.unit u).issued = false) (hp : s.pickWord u = some (n, i)) :
    s.unitTurn u = .run i ((s.traceFiring u n (ctxOf i)).at_ u n) := by
  simp only [State.unitTurn, hex, halive, hi, hp, Bool.not_true, Bool.false_eq_true, if_false]

/-- What is held back arrives again (R434). -/
theorem State.settleInput_again {s : State} {i : Instr} (hi : s.inHand = some i) (ha : s.again = true) :
    s.settleInput.inputs = (s.delay i).inputs := by
  rw [State.settleInput, hi, ha]

/-- Settles O51. -/
theorem aStepRunsTheInstructionInHand : Obligations.AStepRunsTheInstructionInHand := by
  refine ⟨?_, ?_, ?_, ?_, ?_, ?_, ?_, ?_, ?_, ?_⟩
  · intro s ha
    have ha' : s.settleInput.agenda = [] := s.settleInput_agenda.trans ha
    simp only [step, State.turn, ha']
  · intro s r ts i s0 s1 ha hr hl hf hd hw hs hp hin
    have hturn := State.coreTurn_fetch hr hl (.inl hf) hd (.inr hp) hw (.inl hs)
    simp only [hin, hs, Bool.not_true, Bool.false_eq_true, if_false, Option.isNone_none, if_true] at hturn
    refine ⟨fun hdec => ?_, fun e hdec => ?_⟩
    · rw [hdec] at hturn
      rw [step_of_core ha, hturn]
    · rw [hdec] at hturn
      rw [step_of_core ha, hturn]
      rfl
  · intro s r ts i st s0 s1 ha hr hl hd hw hs hst hin hdec
    have hbind : (s0.region r).coreFrozen = false ∨ (s0.core r).binding = true := by
      rcases hst with ⟨_, hf⟩ | rfl | ⟨x, y, rfl⟩
      · exact .inl hf
      · exact .inr (by rw [Core.binding, hs])
      · exact .inr (by rw [Core.binding, hs])
    have hkind : (s0.core r).stall = none ∨ (s0.core r).stall = some .retry ∨ (s0.core r).stall = some .record ∨
        ∃ x y, (s0.core r).stall = some (.sbind x y) := by
      rcases hst with ⟨rfl, _⟩ | rfl | ⟨x, y, rfl⟩
      · exact .inr (.inl hs)
      · exact .inr (.inr (.inl hs))
      · exact .inr (.inr (.inr ⟨x, y, hs⟩))
    have hturn := State.coreTurn_fetch hr hl hbind hd (.inl (by rw [hs]; nofun)) hw hkind
    simp only [hin, hs, hdec, Bool.not_true, Bool.false_eq_true, if_false, Option.isNone_some] at hturn
    rw [step_of_core ha, hturn]
  · intro s r ts s0 ha hr hl hf hd hs hm hp
    have hturn : s0.coreTurn r = .own (.trapEntry r) s0 := by
      have hnone : (s0.region r).launch.isNone = false := Option.isNone_eq_false_iff.mpr hl
      unfold State.core at hd hs hm hp
      simp only [State.coreTurn, if_neg (Nat.not_le.mpr hr), hnone, hf, hs, hm, hp, decide_eq_false hd, Bool.false_and,
        Bool.or_false, Bool.false_eq_true, if_false, Option.isNone_none, Bool.not_false, Bool.and_self, if_true]
    rw [step_of_core ha, hturn]
    rfl
  · intro s r ts s0 s1 ha hr hl hf hd hw hs hp hin
    have hturn := State.coreTurn_fetch hr hl (.inl hf) hd (.inr hp) hw (.inl hs)
    simp only [hin, Bool.not_false, if_true] at hturn
    rw [step_of_core ha, hturn]
    rfl
  · intro s u ts n i s0 ha hex halive hi hp
    have ha' : s.settleInput.agenda = .unit u :: ts := s.settleInput_agenda.trans ha
    have hturn : s0.unitTurn u = _ := State.unitTurn_pick hex halive hi hp
    simp only [step, State.turn, ha']
    rw [hturn]
  · intro s o i ts ha hmeans
    have ha' : s.settleInput.agenda = .own o :: ts := s.settleInput_agenda.trans ha
    simp only [step, State.turn, ha', Own.run_eq_exec hmeans]
  · intro s i ts ha hclass hbehind
    have ha' : s.settleInput.agenda = .event i :: ts := s.settleInput_agenda.trans ha
    have hb : State.behind { s.settleInput with agenda := ts } i = false := hbehind
    simp only [step, State.turn, ha', hclass, hb, Option.isSome_none, Bool.false_eq_true, if_false]
  · intro s i ts s0 ha hclass hbehind
    have ha' : s.settleInput.agenda = .event i :: ts := s.settleInput_agenda.trans ha
    have hb : State.behind { s.settleInput with agenda := ts } i = true := hbehind
    simp only [step, State.turn, ha', hclass, hb, Option.isSome_none, Bool.false_eq_true, if_false, if_true]
    rfl
  · intro s i hi hagain
    exact State.settleInput_again hi hagain


/-! PROOFS. What every operation of the machine keeps: the agenda, and memory in canonical form. Each operation has one lemma,
stated by `Keeps`, which `simp` reads as two rewriting rules. -/

/-- The agenda is as before, and memory that was in canonical form stays in it. -/
abbrev Keeps (s t : State) : Prop := t.agenda = s.agenda ∧ (s.mem.wf = true → t.mem.wf = true)

/-- Memory and the agenda are as before. -/
abbrev Calm (s t : State) : Prop := t.agenda = s.agenda ∧ t.mem = s.mem

/-- An outcome that goes on, and keeps the agenda and memory's form. -/
def Goes (s : State) (o : Host.Outcome State Fault Refusal) : Prop := ∃ t, o = .next t ∧ Keeps s t

@[simp] theorem goes_next (s t : State) : Goes s (.next t) ↔ Keeps s t := by simp [Goes]

theorem keeps_of_tame {s t : State} (h : Tame s t) : Keeps s t := h
theorem calm_of_still {s t : State} (h : Still s t) : Calm s t := h
theorem Calm.keeps {s t : State} (h : Calm s t) : Keeps s t := Still.tame h
theorem Keeps.trans {s t u : State} (h : Keeps s t) (k : Keeps t u) : Keeps s u := Tame.trans h k
theorem Calm.trans {s t u : State} (h : Calm s t) (k : Calm t u) : Calm s u := Still.trans h k

@[simp] theorem foldl_agenda {α : Type} {f : State → α → State} (h : ∀ s x, (f s x).agenda = s.agenda) (l : List α) (s : State) :
    (l.foldl f s).agenda = s.agenda := by
  induction l generalizing s with
  | nil => rfl
  | cons x l ih => rw [List.foldl_cons, ih, h]

@[simp] theorem foldl_wf {α : Type} {f : State → α → State} (h : ∀ s x, s.mem.wf = true → (f s x).mem.wf = true) (l : List α) {s : State}
    (hs : s.mem.wf = true) : (l.foldl f s).mem.wf = true := by
  induction l generalizing s with
  | nil => exact hs
  | cons x l ih => exact ih (h s x hs)

@[simp] theorem foldl_mem {α : Type} {f : State → α → State} (h : ∀ s x, (f s x).mem = s.mem) (l : List α) (s : State) :
    (l.foldl f s).mem = s.mem := by
  induction l generalizing s with
  | nil => rfl
  | cons x l ih => rw [List.foldl_cons, ih, h]

theorem foldl_calm {α : Type} {f : State → α → State} (h : ∀ s x, Calm s (f s x)) (l : List α) (s : State) :
    Calm s (l.foldl f s) := Still.foldl h l s

theorem foldl_keeps {α : Type} {f : State → α → State} (h : ∀ s x, Keeps s (f s x)) (l : List α) (s : State) :
    Keeps s (l.foldl f s) := ⟨foldl_agenda (fun s x => (h s x).1) l s, foldl_wf (fun s x => (h s x).2) l⟩

/-- The stores of a region taken from another memory (R155). -/
theorem Memory.wf_withStores {m : Memory} (h : m.wf = true) (r : Nat) (src : Memory) : (m.withStores r src).wf = true := by
  unfold Memory.withStores
  dsimp only
  refine Memory.wf_foldl (fun _ _ hm => Memory.wf_setPoison hm _ _) _ ?_
  exact Memory.wf_foldl (fun _ _ hm => Memory.wf_setByte hm _ _) _ (Memory.wf_filter h _ _)

section
variable (c : Prop) [Decidable c]

@[simp] theorem agenda_ite (a b : State) : (if c then a else b).agenda = if c then a.agenda else b.agenda := apply_ite _ _ _ _
@[simp] theorem mem_ite (a b : State) : (if c then a else b).mem = if c then a.mem else b.mem := apply_ite _ _ _ _
@[simp] theorem wf_ite (a b : Memory) : (if c then a else b).wf = if c then a.wf else b.wf := apply_ite _ _ _ _

end


/-! PROOFS. What the operations of the state keep of the agenda and of memory's form. -/

@[simp] theorem State.setRegion_calm (s : State) (r : Nat) (R : Region) : Calm s (s.setRegion r R) := by
  unfold State.setRegion
  simp [Calm]
@[simp] theorem State.modRegion_calm (s : State) (r : Nat) (f : Region → Region) : Calm s (s.modRegion r f) := by
  unfold State.modRegion
  simp [Calm]
@[simp] theorem State.modCore_calm (s : State) (r : Nat) (f : Core → Core) : Calm s (s.modCore r f) := by
  unfold State.modCore
  simp [Calm]
@[simp] theorem State.setUnit_calm (s : State) (u : UnitId) (x : EUnit) : Calm s (s.setUnit u x) := by
  unfold State.setUnit
  simp [Calm]
@[simp] theorem State.modUnit_calm (s : State) (u : UnitId) (f : EUnit → EUnit) : Calm s (s.modUnit u f) := by
  unfold State.modUnit
  simp [Calm]
@[simp] theorem State.modChan_calm (s : State) (k : Sink) (f : Chan → Chan) : Calm s (s.modChan k f) := by
  unfold State.modChan
  simp [Calm]
@[simp] theorem State.modDie_calm (s : State) (d : Nat) (f : DieTime → DieTime) : Calm s (s.modDie d f) := by
  unfold State.modDie
  simp [Calm]
@[simp] theorem State.modLink_calm (s : State) (l : Nat) (f : Link → Link) : Calm s (s.modLink l f) := by
  unfold State.modLink
  simp [Calm]
@[simp] theorem State.countFlit_calm (s : State) (l : Nat) (dir : Bool) (c : Nat) : Calm s (s.countFlit l dir c) := by
  unfold State.countFlit
  simp [Calm]
@[simp] theorem State.countFlits_calm (s : State) (cs : List CtxRef) : Calm s (s.countFlits cs) := by
  unfold State.countFlits
  simp [Calm]
@[simp] theorem State.closeCtxs_calm (s : State) (cs : List CtxRef) : Calm s (s.closeCtxs cs) := by
  unfold State.closeCtxs
  refine foldl_calm (fun s x => ?_) _ _
  exact ⟨rfl, rfl⟩
@[simp] theorem State.setPair_calm (s : State) (p : Nat) (x : Pair) : Calm s (s.setPair p x) := by
  unfold State.setPair
  simp [Calm]
@[simp] theorem State.setRing_calm (s : State) (c : CellId) (n : Nat) (x : Ring) : Calm s (s.setRing c n x) := by
  unfold State.setRing
  simp [Calm]
@[simp] theorem State.setHandle_calm (s : State) (r h : Nat) (x : Handle) : Calm s (s.setHandle r h x) := by
  unfold State.setHandle
  simp [Calm]
@[simp] theorem State.modHub_calm (s : State) (f : Hub → Hub) : Calm s (s.modHub f) := by
  unfold State.modHub
  simp [Calm]
@[simp] theorem State.setSlot_calm (s : State) (n : Nat) (x : Slot) : Calm s (s.setSlot n x) := by
  unfold State.setSlot
  simp [Calm]
@[simp] theorem State.setPlacement_calm (s : State) (id : Nat) (x : Placement) : Calm s (s.setPlacement id x) := by
  unfold State.setPlacement
  simp [Calm]
@[simp] theorem State.setLaunch_calm (s : State) (id : Nat) (x : Launch) : Calm s (s.setLaunch id x) := by
  unfold State.setLaunch
  simp [Calm]
@[simp] theorem State.modDev_calm (s : State) (f : Device → Device) : Calm s (s.modDev f) := by
  unfold State.modDev
  simp [Calm]
@[simp] theorem State.modEnc_calm (s : State) (f : Enclave → Enclave) : Calm s (s.modEnc f) := by
  unfold State.modEnc
  simp [Calm]
@[simp] theorem State.takeTicket_calm (s : State) : Calm s s.takeTicket.2 := by
  unfold State.takeTicket
  simp [Calm]
@[simp] theorem State.takeFree_calm (s : State) : Calm s s.takeFree.2 := by
  unfold State.takeFree
  simp [Calm]
@[simp] theorem State.count_calm (s : State) (r num n : Nat) : Calm s (s.count r num n) := by
  unfold State.count
  simp [Calm]
@[simp] theorem State.countEvent_calm (s : State) (r ev : Nat) (tag : Byte) (n : Nat) : Calm s (s.countEvent r ev tag n) := by
  unfold State.countEvent
  simp [Calm]
@[simp] theorem State.countPort_calm (s : State) (r p k n : Nat) : Calm s (s.countPort r p k n) := by
  unfold State.countPort
  simp [Calm]
@[simp] theorem State.countPkg_calm (s : State) (num n : Nat) : Calm s (s.countPkg num n) := by
  unfold State.countPkg
  simp [Calm]
@[simp] theorem State.stir_calm (s : State) (r : Nat) : Calm s (s.stir r) := by
  unfold State.stir
  simp [Calm]
@[simp] theorem State.orFlags_calm (s : State) (r : Nat) (f : BitVec 6) : Calm s (s.orFlags r f) := by
  unfold State.orFlags
  simp [Calm]
@[simp] theorem State.raise_calm (s : State) (r : Nat) (c : Async) (v : Word) : Calm s (s.raise r c v) := by
  unfold State.raise
  simp [Calm]
@[simp] theorem State.raiseDie_calm (s : State) (d : Nat) (c : Async) (v : Word) : Calm s (s.raiseDie d c v) := by
  unfold State.raiseDie
  simp [Calm]
@[simp] theorem State.recordFaultOf_calm (s : State) (u : UnitId) (tick : Nat) (cause : Byte) (word ctx : Nat) (chan : Option Nat) (sb : BitVec 14) (flags : BitVec 6) :
    Calm s (s.recordFaultOf u tick cause word ctx chan sb flags) := by
  unfold State.recordFaultOf
  simp [Calm]
@[simp] theorem State.recordFault_calm (s : State) (u : UnitId) (cause : Byte) (word ctx : Nat) (chan : Option Nat) (sb : BitVec 14) (flags : BitVec 6) :
    Calm s (s.recordFault u cause word ctx chan sb flags) := by
  unfold State.recordFault
  simp [Calm]
@[simp] theorem State.reserve_calm (s : State) (u : UnitId) (o tick : Nat) : Calm s (s.reserve u o tick) :=
  calm_of_still (s.reserve_still u o tick)
@[simp] theorem State.countKill_calm (s : State) (r : Nat) (w : Word) : Calm s (s.countKill r w) := by
  unfold State.countKill
  simp [Calm]
@[simp] theorem State.checkHeader_calm (s : State) (r : Nat) (t : Tok) : Calm s (s.checkHeader r t).1 := by
  unfold State.checkHeader
  repeat' split
  all_goals simp [Calm]
@[simp] theorem State.leaves_calm (s : State) (u : UnitId) (k : Sink) (t : Tok) : Calm s (s.leaves u k t) := by
  unfold State.leaves
  split <;> simp [Calm]
@[simp] theorem State.placeRaw_calm (s : State) (u : UnitId) (o tick : Nat) (t : Tok) : Calm s (s.placeRaw u o tick t) := by
  unfold State.placeRaw
  simp [Calm]
@[simp] theorem State.place_calm (s : State) (u : UnitId) (o tick : Nat) (t : Tok) : Calm s (s.place u o tick t) := by
  unfold State.place
  simp [Calm]
@[simp] theorem State.placeMark_calm (s : State) (u : UnitId) (o tick : Nat) : Calm s (s.placeMark u o tick) := by
  unfold State.placeMark
  simp [Calm]
@[simp] theorem State.release_calm (s : State) (u : UnitId) (o tick : Nat) : Calm s (s.release u o tick) :=
  calm_of_still (s.release_still u o tick)
@[simp] theorem State.dequeue_calm (s : State) (u : UnitId) (i : Nat) : Calm s (s.dequeue u i) := by
  unfold State.dequeue
  simp [Calm]
@[simp] theorem State.arrive_calm (s : State) (u : UnitId) (i : Nat) (t : Tok) : Calm s (s.arrive u i t) := by
  unfold State.arrive
  dsimp only
  repeat' split
  all_goals simp [Calm]
@[simp] theorem State.retire_calm (s : State) (r : Nat) (d : BitVec 5) (v : Word) : Calm s (s.retire r d v) := by
  unfold State.retire
  simp [Calm]
@[simp] theorem State.advance_calm (s : State) (r : Nat) : Calm s (s.advance r) := by
  unfold State.advance
  simp [Calm]
@[simp] theorem State.tryAgain_calm (s : State) (r : Nat) : Calm s (s.tryAgain r) := by
  unfold State.tryAgain
  simp [Calm]
@[simp] theorem State.awaitRecord_calm (s : State) (r : Nat) : Calm s (s.awaitRecord r) := by
  unfold State.awaitRecord
  simp [Calm]
@[simp] theorem State.carried_calm (s : State) (die a : Nat) (p : Bool) : Calm s (s.carried die a p).2 := by
  unfold State.carried
  split <;> simp [Calm]
@[simp] theorem State.writeTarget_keeps (s : State) (t : Target) (n : Nat) (v : Word) (p : Bool) : Keeps s (s.writeTarget t n v p) :=
  keeps_of_tame (s.writeTarget_tame t n v p)
@[simp] theorem State.assignStamp_calm (s : State) (d : Nat) : Calm s (s.assignStamp d).2 := by
  unfold State.assignStamp
  simp [Calm]
@[simp] theorem State.takeBank_calm (s : State) (a who : Nat) : Calm s (s.takeBank a who) := by
  unfold State.takeBank
  split <;> simp [Calm]
@[simp] theorem State.takeBanks_calm (s : State) (as : List Nat) (who : Nat) : Calm s (s.takeBanks as who) := by
  unfold State.takeBanks
  simp [Calm]
@[simp] theorem State.bankLost_calm (s : State) (a who : Nat) : Calm s (s.bankLost a who) := by
  unfold State.bankLost
  split <;> simp [Calm]
@[simp] theorem State.banksLost_calm (s : State) (as : List Nat) (who : Nat) : Calm s (s.banksLost as who) := by
  unfold State.banksLost
  simp [Calm]
@[simp] theorem State.coreWrite_keeps (s : State) (r : Nat) (t : Target) (v : Word) (p : Bool) : Keeps s (s.coreWrite r t v p) := by
  unfold State.coreWrite
  simp +contextual [Keeps]
@[simp] theorem State.spillBanks_calm (s : State) (ts : List Target) : Calm s (s.spillBanks ts) := by
  unfold State.spillBanks
  simp [Calm]
@[simp] theorem State.spillFrame_keeps (s : State) (r w : Nat) (ts : List Target) : Keeps s (s.spillFrame r w ts) := by
  unfold State.spillFrame
  simp +contextual [Keeps]
@[simp] theorem State.performStore_keeps (s : State) (r : Nat) (c : CoreStore) : Keeps s (s.performStore r c) := by
  unfold State.performStore
  simp +contextual [Keeps, Memory.wf_store]
@[simp] theorem State.notify_calm (s : State) (e : List Word) : Calm s (s.notify e) := by
  unfold State.notify
  simp [Calm]
@[simp] theorem State.beginFreeze_calm (s : State) (r area kind : Nat) : Calm s (s.beginFreeze r area kind) := by
  unfold State.beginFreeze
  simp [Calm]
@[simp] theorem State.doubleFault_calm (s : State) (r : Nat) : Calm s (s.doubleFault r) := by
  unfold State.doubleFault
  dsimp only
  split <;> simp [Calm]
@[simp] theorem State.windowLater_keeps (s : State) (r : Nat) (lost : List Nat) : Keeps s (s.windowLater r lost) :=
  keeps_of_tame (s.windowLater_tame r lost)
@[simp] theorem State.enterTrap_keeps (s : State) (r : Nat) (cause sub : Byte) (eval epc : Word) (wcut async : Bool) :
    Keeps s (s.enterTrap r cause sub eval epc wcut async) := keeps_of_tame (s.enterTrap_tame r cause sub eval epc wcut async)
@[simp] theorem State.trapSync_keeps (s : State) (r : Nat) (cause sub : Byte) (eval epc : Word) :
    Keeps s (s.trapSync r cause sub eval epc) := by
  unfold State.trapSync
  simp +contextual [Keeps]
@[simp] theorem State.trapHere_keeps (s : State) (r : Nat) (cause : Byte) (eval : Word) : Keeps s (s.trapHere r cause eval) := by
  unfold State.trapHere
  simp +contextual [Keeps]
@[simp] theorem State.windowTrap_keeps (s : State) (r : Nat) (f : WinFail) : Keeps s (s.windowTrap r f) := by
  unfold State.windowTrap
  split <;> simp +contextual [Keeps]
@[simp] theorem State.takeAsync_keeps (s : State) (r : Nat) : Keeps s (s.takeAsync r) := by
  unfold State.takeAsync
  dsimp only
  repeat' split
  all_goals simp +contextual [Keeps]
@[simp] theorem State.transfer_keeps {s new : State} (h : Keeps s new) (r : Nat) (target : Word) : Keeps s (s.transfer new r target) :=
  keeps_of_tame (State.transfer_tame h r target)
@[simp] theorem State.exitTrap_keeps (s : State) (r : Nat) : Keeps s (s.exitTrap r) := keeps_of_tame (s.exitTrap_tame r)


/-! PROOFS. What flags, rings and operands keep of the agenda and of memory's form. -/

@[simp] theorem State.fillSlot_calm (s : State) (c : CellId) (n slot : Nat) (tag : Byte) : Calm s (s.fillSlot c n slot tag) := by
  unfold State.fillSlot
  split <;> simp [Calm]
@[simp] theorem State.writeRingRow_keeps (s : State) (c : CellId) (n slot row : Nat) (r : Row) (p : Bool) :
    Keeps s (s.writeRingRow c n slot row r p) := by
  unfold State.writeRingRow
  split <;> simp +contextual [Keeps, Memory.wf_writeRow]
@[simp] theorem State.landRows_keeps (s : State) (c : CellId) (ws : List RowWrite) : Keeps s (s.landRows c ws) := by
  induction ws generalizing s with
  | nil => exact ⟨rfl, id⟩
  | cons w ws ih => simp +contextual [State.landRows, ih, Keeps]
@[simp] theorem State.countProg_calm (s : State) (u : UnitId) (slot ev n : Nat) : Calm s (s.countProg u slot ev n) := by
  unfold State.countProg
  simp [Calm]
@[simp] theorem State.countIssue_calm (s : State) (u : UnitId) (slot num : Nat) : Calm s (s.countIssue u slot num) := by
  unfold State.countIssue
  simp [Calm]
@[simp] theorem State.issueFault_calm (s : State) (ctx : BitVec 2) (f : IssueFault) : Calm s (s.issueFault ctx f) := by
  unfold State.issueFault
  simp [Calm]
@[simp] theorem State.consume_calm (s : State) (u : UnitId) (ins : List Src) : Calm s (s.consume u ins) := by
  induction ins generalizing s with
  | nil => exact ⟨rfl, rfl⟩
  | cons a ins ih => cases a <;> simp +contextual [State.consume, ih, Calm]
@[simp] theorem State.reserveAll_calm (s : State) (u : UnitId) (tick : Nat) (os : List Nat) : Calm s (s.reserveAll u tick os) := by
  induction os generalizing s with
  | nil => exact ⟨rfl, rfl⟩
  | cons o os ih => simp +contextual [State.reserveAll, ih, Calm]
@[simp] theorem State.issue_calm (s : State) (v : EView) : Calm s (s.issue v) := by
  unfold State.issue
  simp [Calm]
@[simp] theorem State.fly_calm (s : State) (u : UnitId) (tick : Nat) (ctx : BitVec 2) (slot lat : Nat) (l : Landing) :
    Calm s (s.fly u tick ctx slot lat l) := by
  unfold State.fly
  simp [Calm]
@[simp] theorem execPlain_goes (v : EView) (lat : Nat) (f : List Word → ERes) (s : State) : Goes s (execPlain v lat f s) := by
  unfold execPlain
  split <;> simp +contextual [Keeps]
@[simp] theorem State.landToks_calm (s : State) (u : UnitId) (tick : Nat) (l : List (Nat × Option Tok)) :
    Calm s (s.landToks u tick l) := by
  induction l generalizing s with
  | nil => exact ⟨rfl, rfl⟩
  | cons e l ih => obtain ⟨o, _ | t⟩ := e <;> simp +contextual [State.landToks, ih, Calm]
@[simp] theorem State.landGrant_calm (s : State) (g : Option (Nat × Bool)) : Calm s (s.landGrant g) := by
  unfold State.landGrant
  repeat' split
  all_goals simp [Calm]
@[simp] theorem State.arithTrap_calm (s : State) (u : UnitId) (tick slot ctx : Nat) (f : Flags) :
    Calm s (s.arithTrap u tick slot ctx f) := by
  unfold State.arithTrap
  simp [Calm]
@[simp] theorem State.oweMark_calm (s : State) (u : UnitId) (tick : Nat) (o : Option Nat) : Calm s (s.oweMark u tick o) := by
  cases o <;> simp [State.oweMark, Calm]
@[simp] theorem State.land_keeps (s : State) (u : UnitId) (f : Flight) : Keeps s (s.land u f) := by
  unfold State.land
  simp +contextual [Keeps]
@[simp] theorem execAlu_goes (reads : List (BitVec 5)) (d : BitVec 5) (f : (BitVec 5 → Word) → Word) (s : State) :
    Goes s (execAlu reads d f s) := by
  unfold execAlu
  dsimp only
  split <;> simp +contextual [Keeps]


/-! PROOFS. What the matrix node and the engine keep of the agenda and of memory's form. -/

@[simp] theorem State.modMat_calm (s : State) (u : UnitId) (f : Mat → Mat) : Calm s (s.modMat u f) := by
  unfold State.modMat
  simp [Calm]
@[simp] theorem State.fireM_calm (s : State) (q : Seq) : Calm s (s.fireM q) := by
  unfold State.fireM
  simp [Calm]
@[simp] theorem execMac_goes (i : Instr) (s : State) : Goes s (execMac i s) := by
  unfold execMac
  dsimp only
  repeat' split
  all_goals simp +contextual [Keeps]
@[simp] theorem execTmma_goes (f : MacFields) (s : State) : Goes s (execTmma f s) := by
  unfold execTmma
  simp +contextual [Keeps]
@[simp] theorem execTmmag_goes (f : MacFields) (a b : BitVec 4) (s : State) : Goes s (execTmmag f a b s) := by
  unfold execTmmag
  simp +contextual [Keeps]
@[simp] theorem execTmmax_goes (f : MacFields) (a b : BitVec 4) (s : State) : Goes s (execTmmax f a b s) := by
  unfold execTmmax
  simp +contextual [Keeps]
@[simp] theorem execTzero_goes (n : BitVec 3) (s : State) : Goes s (execTzero n s) := by
  unfold execTzero
  split <;> simp +contextual [Keeps]
@[simp] theorem execTdrain_goes (n : BitVec 3) (clr : Bool) (outRing outFmt : BitVec 4) (rounding : BitVec 2) (shift : BitVec 5) (s : State) :
    Goes s (execTdrain n clr outRing outFmt rounding shift s) := by
  unfold execTdrain
  dsimp only
  repeat' split
  all_goals simp +contextual [Keeps]
@[simp] theorem execTload_goes (n : BitVec 3) (ring : BitVec 4) (pop : Bool) (s : State) : Goes s (execTload n ring pop s) := by
  unfold execTload
  dsimp only
  repeat' split
  all_goals simp +contextual [Keeps]
@[simp] theorem execTaddr_goes (n : BitVec 3) (ring : BitVec 4) (pop : Bool) (s : State) : Goes s (execTaddr n ring pop s) := by
  unfold execTaddr
  dsimp only
  repeat' split
  all_goals simp +contextual [Keeps]
@[simp] theorem execTtrans_goes (ring : BitVec 4) (pop : Bool) (outRing : BitVec 4) (s : State) :
    Goes s (execTtrans ring pop outRing s) := by
  unfold execTtrans
  dsimp only
  repeat' split
  all_goals simp +contextual [Keeps]
@[simp] theorem State.readOperands_calm (s : State) (u : UnitId) (q : Seq) : Calm s (s.readOperands u q) := by
  unfold State.readOperands
  simp [Calm]
@[simp] theorem State.writeOut_keeps (s : State) (u : UnitId) (q : Seq) : Keeps s (s.writeOut u q) := by
  unfold State.writeOut
  refine ⟨by simp, fun h => ?_⟩
  simp only [State.modMat_calm, State.takeBanks_calm, State.banksLost_calm]
  exact Memory.wf_foldl (fun _ _ hm => Memory.wf_writeRow hm _ _ _) _ h
@[simp] theorem execTilePairStart_goes (u : UnitId) (s : State) : Goes s (execTilePairStart u s) := by
  unfold execTilePairStart
  dsimp only
  repeat' split
  all_goals simp +contextual [Keeps]
@[simp] theorem State.popRing_calm (s : State) (c : CellId) (n : Nat) (yes : Bool) : Calm s (s.popRing c n yes) := by
  unfold State.popRing
  repeat' split
  all_goals simp [Calm]
@[simp] theorem State.nodeFlags_calm (s : State) (u : UnitId) (slot : Nat) (f : Flags) : Calm s (s.nodeFlags u slot f) := by
  unfold State.nodeFlags
  simp [Calm]
@[simp] theorem execTilePairRetire_goes (u : UnitId) (s : State) : Goes s (execTilePairRetire u s) := by
  unfold execTilePairRetire
  dsimp only
  repeat' split
  all_goals simp +contextual [Keeps]
@[simp] theorem State.freeSeq_calm (s : State) (u : UnitId) : Calm s (s.freeSeq u) := by
  unfold State.freeSeq
  simp [Calm]
@[simp] theorem State.endTdrain_calm (s : State) (u : UnitId) (q : Seq) (n : BitVec 3) (clr : Bool) (outRing outFmt : BitVec 4) (rounding : BitVec 2) (shift : BitVec 5) :
    Calm s (s.endTdrain u q n clr outRing outFmt rounding shift) := by
  unfold State.endTdrain
  simp [Calm]
@[simp] theorem State.endTtrans_calm (s : State) (u : UnitId) (q : Seq) (ring : BitVec 4) (pop : Bool) (outRing : BitVec 4) :
    Calm s (s.endTtrans u q ring pop outRing) := by
  unfold State.endTtrans
  dsimp only
  repeat' split
  all_goals simp [Calm]
@[simp] theorem State.endTload_calm (s : State) (u : UnitId) (q : Seq) (n : BitVec 3) (ring : BitVec 4) (pop : Bool) :
    Calm s (s.endTload u q n ring pop) := by
  unfold State.endTload
  dsimp only
  split <;> simp [Calm]
@[simp] theorem State.endTaddr_calm (s : State) (u : UnitId) (q : Seq) (n : BitVec 3) (ring : BitVec 4) (pop : Bool) :
    Calm s (s.endTaddr u q n ring pop) := by
  unfold State.endTaddr
  dsimp only
  split <;> simp [Calm]
@[simp] theorem execMWordRetire_goes (u : UnitId) (s : State) : Goes s (execMWordRetire u s) := by
  unfold execMWordRetire
  dsimp only
  repeat' split
  all_goals simp +contextual [Keeps]
@[simp] theorem State.modHeld_calm (s : State) (r : Nat) (g : FImage → FImage) : Calm s (s.modHeld r g) := by
  unfold State.modHeld
  simp [Calm]
@[simp] theorem State.onStores_keeps (s : State) (r : Nat) {g : Memory → Memory} (hg : ∀ m, m.wf = true → (g m).wf = true) :
    Keeps s (s.onStores r g) := by
  unfold State.onStores
  simp +contextual [Keeps, hg]
@[simp] theorem State.echoWords_calm (s : State) (r : Nat) (as : List Nat) : Calm s (s.echoWords r as) := by
  unfold State.echoWords
  simp [Calm]
@[simp] theorem State.echo_calm (s : State) (r : Nat) : Calm s (s.echo r) := by
  unfold State.echo
  simp [Calm]
@[simp] theorem State.echoSend_calm (s : State) (u : UnitId) (i : Nat) : Calm s (s.echoSend u i) := by
  unfold State.echoSend
  simp [Calm]
@[simp] theorem State.putRegion_keeps (s : State) (r : Nat) (R : Region) (rings : Map (CellId × Nat) Ring) (m : Memory) :
    Keeps s (s.putRegion r R rings m) := by
  unfold State.putRegion
  simp +contextual [Keeps, Memory.wf_withStores]
@[simp] theorem State.viewOf_keeps (s : State) (r : Nat) (f : FImage) : Keeps s (s.viewOf r f) := by
  unfold State.viewOf
  simp +contextual [Keeps]
@[simp] theorem State.unview_keeps (t : State) (s : State) (r a : Nat) (f : FImage) : Keeps t (State.unview t s r a f) := by
  unfold State.unview
  simp +contextual [Keeps]
@[simp] theorem State.forCmd_keeps (s : State) (r : Nat) (c : Cmd) {go : State → State}
    (ha : ∀ s, (go s).agenda = s.agenda) (hw : ∀ s, s.mem.wf = true → (go s).mem.wf = true) : Keeps s (s.forCmd r c go) := by
  unfold State.forCmd
  split
  · simp +contextual [Keeps, ha, hw]
  · next f _ =>
    have hview := State.viewOf_keeps s r f
    exact (hview.trans ⟨ha _, hw _⟩).trans (State.unview_keeps _ _ _ _ _)
@[simp] theorem State.atPort_keeps (s : State) (r p : Nat) {go : State → Cmd → State}
    (ha : ∀ s c, (go s c).agenda = s.agenda) (hw : ∀ s c, s.mem.wf = true → (go s c).mem.wf = true) : Keeps s (s.atPort r p go) := by
  unfold State.atPort
  exact foldl_keeps (fun s c => State.forCmd_keeps s r c (fun t => ha t c) (fun t => hw t c)) _ _
@[simp] theorem State.modCmd_calm (s : State) (r tick : Nat) (f : Cmd → Cmd) : Calm s (s.modCmd r tick f) := by
  unfold State.modCmd
  simp [Calm]
@[simp] theorem State.modHandleOf_calm (s : State) (r : Nat) (c : Cmd) (f : Handle → Handle) : Calm s (s.modHandleOf r c f) := by
  unfold State.modHandleOf
  simp [Calm]


/-! PROOFS. What the core keeps of the agenda and of memory's form. -/

@[simp] theorem execCR_goes (d a b : BitVec 5) (f : Word → Word → Word) (s : State) : Goes s (execCR d a b f s) := by
  unfold execCR
  simp +contextual [Keeps]
@[simp] theorem execCI_goes (d a : BitVec 5) (f : Word → Word) (s : State) : Goes s (execCI d a f s) := by
  unfold execCI
  simp +contextual [Keeps]
@[simp] theorem execCoreAdd_goes (d a b : BitVec 5) (s : State) : Goes s (execCoreAdd d a b s) := by
  unfold execCoreAdd
  simp +contextual [Keeps]
@[simp] theorem execCoreSub_goes (d a b : BitVec 5) (s : State) : Goes s (execCoreSub d a b s) := by
  unfold execCoreSub
  simp +contextual [Keeps]
@[simp] theorem execCoreAnd_goes (d a b : BitVec 5) (s : State) : Goes s (execCoreAnd d a b s) := by
  unfold execCoreAnd
  simp +contextual [Keeps]
@[simp] theorem execCoreOr_goes (d a b : BitVec 5) (s : State) : Goes s (execCoreOr d a b s) := by
  unfold execCoreOr
  simp +contextual [Keeps]
@[simp] theorem execCoreXor_goes (d a b : BitVec 5) (s : State) : Goes s (execCoreXor d a b s) := by
  unfold execCoreXor
  simp +contextual [Keeps]
@[simp] theorem execCoreShl_goes (d a b : BitVec 5) (s : State) : Goes s (execCoreShl d a b s) := by
  unfold execCoreShl
  simp +contextual [Keeps]
@[simp] theorem execCoreShr_goes (d a b : BitVec 5) (s : State) : Goes s (execCoreShr d a b s) := by
  unfold execCoreShr
  simp +contextual [Keeps]
@[simp] theorem execCoreSar_goes (d a b : BitVec 5) (s : State) : Goes s (execCoreSar d a b s) := by
  unfold execCoreSar
  simp +contextual [Keeps]
@[simp] theorem execCoreMul_goes (d a b : BitVec 5) (s : State) : Goes s (execCoreMul d a b s) := by
  unfold execCoreMul
  simp +contextual [Keeps]
@[simp] theorem execCoreMulhs_goes (d a b : BitVec 5) (s : State) : Goes s (execCoreMulhs d a b s) := by
  unfold execCoreMulhs
  simp +contextual [Keeps]
@[simp] theorem execCoreMulhu_goes (d a b : BitVec 5) (s : State) : Goes s (execCoreMulhu d a b s) := by
  unfold execCoreMulhu
  simp +contextual [Keeps]
@[simp] theorem execDivu_goes (d a b : BitVec 5) (s : State) : Goes s (execDivu d a b s) := by
  unfold execDivu
  simp +contextual [Keeps]
@[simp] theorem execRemu_goes (d a b : BitVec 5) (s : State) : Goes s (execRemu d a b s) := by
  unfold execRemu
  simp +contextual [Keeps]
@[simp] theorem execSlt_goes (d a b : BitVec 5) (s : State) : Goes s (execSlt d a b s) := by
  unfold execSlt
  simp +contextual [Keeps]
@[simp] theorem execSltu_goes (d a b : BitVec 5) (s : State) : Goes s (execSltu d a b s) := by
  unfold execSltu
  simp +contextual [Keeps]
@[simp] theorem execCoreMin_goes (d a b : BitVec 5) (s : State) : Goes s (execCoreMin d a b s) := by
  unfold execCoreMin
  simp +contextual [Keeps]
@[simp] theorem execCoreMax_goes (d a b : BitVec 5) (s : State) : Goes s (execCoreMax d a b s) := by
  unfold execCoreMax
  simp +contextual [Keeps]
@[simp] theorem execCoreAddi_goes (d a : BitVec 5) (imm : BitVec 16) (s : State) : Goes s (execCoreAddi d a imm s) := by
  unfold execCoreAddi
  simp +contextual [Keeps]
@[simp] theorem execCoreAndi_goes (d a : BitVec 5) (imm : BitVec 16) (s : State) : Goes s (execCoreAndi d a imm s) := by
  unfold execCoreAndi
  simp +contextual [Keeps]
@[simp] theorem execCoreOri_goes (d a : BitVec 5) (imm : BitVec 16) (s : State) : Goes s (execCoreOri d a imm s) := by
  unfold execCoreOri
  simp +contextual [Keeps]
@[simp] theorem execCoreXori_goes (d a : BitVec 5) (imm : BitVec 16) (s : State) : Goes s (execCoreXori d a imm s) := by
  unfold execCoreXori
  simp +contextual [Keeps]
@[simp] theorem execSlti_goes (d a : BitVec 5) (imm : BitVec 16) (s : State) : Goes s (execSlti d a imm s) := by
  unfold execSlti
  simp +contextual [Keeps]
@[simp] theorem execSltui_goes (d a : BitVec 5) (imm : BitVec 16) (s : State) : Goes s (execSltui d a imm s) := by
  unfold execSltui
  simp +contextual [Keeps]
@[simp] theorem execShi16_goes (d a : BitVec 5) (imm : BitVec 16) (s : State) : Goes s (execShi16 d a imm s) := by
  unfold execShi16
  simp +contextual [Keeps]
@[simp] theorem execCoreShli_goes (d a : BitVec 5) (c : BitVec 6) (s : State) : Goes s (execCoreShli d a c s) := by
  unfold execCoreShli
  simp +contextual [Keeps]
@[simp] theorem execCoreShri_goes (d a : BitVec 5) (c : BitVec 6) (s : State) : Goes s (execCoreShri d a c s) := by
  unfold execCoreShri
  simp +contextual [Keeps]
@[simp] theorem execCoreSari_goes (d a : BitVec 5) (c : BitVec 6) (s : State) : Goes s (execCoreSari d a c s) := by
  unfold execCoreSari
  simp +contextual [Keeps]
@[simp] theorem execLih_goes (d : BitVec 5) (imm : BitVec 16) (s : State) : Goes s (execLih d imm s) := by
  unfold execLih
  simp +contextual [Keeps]
@[simp] theorem execBranch_goes (a b : BitVec 5) (off : BitVec 16) (cond : Word → Word → Bool) (s : State) :
    Goes s (execBranch a b off cond s) := by
  unfold execBranch
  dsimp only
  repeat' split
  all_goals simp +contextual [Keeps]
@[simp] theorem execBeq_goes (a b : BitVec 5) (off : BitVec 16) (s : State) : Goes s (execBeq a b off s) := by
  unfold execBeq
  simp +contextual [Keeps]
@[simp] theorem execBne_goes (a b : BitVec 5) (off : BitVec 16) (s : State) : Goes s (execBne a b off s) := by
  unfold execBne
  simp +contextual [Keeps]
@[simp] theorem execBlt_goes (a b : BitVec 5) (off : BitVec 16) (s : State) : Goes s (execBlt a b off s) := by
  unfold execBlt
  simp +contextual [Keeps]
@[simp] theorem execBge_goes (a b : BitVec 5) (off : BitVec 16) (s : State) : Goes s (execBge a b off s) := by
  unfold execBge
  simp +contextual [Keeps]
@[simp] theorem execBltu_goes (a b : BitVec 5) (off : BitVec 16) (s : State) : Goes s (execBltu a b off s) := by
  unfold execBltu
  simp +contextual [Keeps]
@[simp] theorem execBgeu_goes (a b : BitVec 5) (off : BitVec 16) (s : State) : Goes s (execBgeu a b off s) := by
  unfold execBgeu
  simp +contextual [Keeps]
@[simp] theorem execJmp_goes (off : BitVec 26) (s : State) : Goes s (execJmp off s) := by
  unfold execJmp
  simp +contextual [Keeps]
@[simp] theorem execJr_goes (a : BitVec 5) (s : State) : Goes s (execJr a s) := by
  unfold execJr
  dsimp only
  split <;> simp +contextual [Keeps]
theorem State.openWindow_keeps {s t : State} {r : Nat} {e : Bool} (h : s.openWindow r e = .ok t) : Keeps s t :=
  keeps_of_tame (State.openWindow_ok h).1

theorem State.closeWindow_keeps {s t : State} {r : Nat} (h : s.closeWindow r = .ok t) : Keeps s t :=
  keeps_of_tame (State.closeWindow_tame h)

@[simp] theorem State.callTo_keeps (s : State) (r : Nat) (target : Word) : Keeps s (s.callTo r target) := by
  unfold State.callTo
  split
  · simp +contextual [Keeps]
  · next t h => exact State.transfer_keeps ((State.openWindow_keeps h).trans (Calm.keeps (State.modCore_calm _ _ _))) _ _
@[simp] theorem execCall_goes (off : BitVec 26) (s : State) : Goes s (execCall off s) := by
  unfold execCall
  simp +contextual [Keeps]
@[simp] theorem execCallr_goes (a : BitVec 5) (s : State) : Goes s (execCallr a s) := by
  unfold execCallr
  dsimp only
  split <;> simp +contextual [Keeps]
@[simp] theorem execRet_goes (s : State) : Goes s (execRet s) := by
  unfold execRet
  dsimp only
  split
  · simp +contextual [Keeps]
  · split
    · simp +contextual [Keeps]
    · next t h => exact (goes_next _ _).mpr (State.transfer_keeps (State.closeWindow_keeps h) _ _)
@[simp] theorem execPhase_goes (a : BitVec 5) (mask : BitVec 4) (s : State) : Goes s (execPhase a mask s) := by
  unfold execPhase
  dsimp only
  split <;> simp +contextual [Keeps]
@[simp] theorem State.atBank_keeps (s : State) (r a : Nat) {go : State → State}
    (ha : ∀ s, (go s).agenda = s.agenda) (hw : ∀ s, s.mem.wf = true → (go s).mem.wf = true) : Keeps s (s.atBank r a go) := by
  unfold State.atBank
  simp +contextual [Keeps, ha, hw]
@[simp] theorem State.coreLoad_keeps (s : State) (r : Nat) (d : BitVec 5) (t : Target) (n : Nat) (sx : Bool) :
    Keeps s (s.coreLoad r d t n sx) := by
  unfold State.coreLoad
  split
  · simp [Keeps]
  · split
    · simp [Keeps]
    · split
      · simp [Keeps]
      · exact State.atBank_keeps s r _ (fun _ => rfl) (fun _ h => h)
@[simp] theorem execLoadCI_goes (n : Nat) (sx : Bool) (d a : BitVec 5) (off : BitVec 16) (s : State) :
    Goes s (execLoadCI n sx d a off s) := by
  unfold execLoadCI
  dsimp only
  split <;> simp +contextual [Keeps]
@[simp] theorem State.coreStore_calm (s : State) (r : Nat) (a n : Nat) (x : Reg) (rel : Option Scope) :
    Calm s (s.coreStore r a n x rel) := by
  unfold State.coreStore
  simp [Calm]
@[simp] theorem execStoreCI_goes (n : Nat) (d a : BitVec 5) (off : BitVec 16) (s : State) : Goes s (execStoreCI n d a off s) := by
  unfold execStoreCI
  dsimp only
  split <;> simp +contextual [Keeps]
@[simp] theorem execLdd_goes (d a : BitVec 5) (off : BitVec 16) (s : State) : Goes s (execLdd d a off s) := by
  unfold execLdd
  simp +contextual [Keeps]
@[simp] theorem execLdw_goes (d a : BitVec 5) (off : BitVec 16) (s : State) : Goes s (execLdw d a off s) := by
  unfold execLdw
  simp +contextual [Keeps]
@[simp] theorem execLdwu_goes (d a : BitVec 5) (off : BitVec 16) (s : State) : Goes s (execLdwu d a off s) := by
  unfold execLdwu
  simp +contextual [Keeps]
@[simp] theorem execLdh_goes (d a : BitVec 5) (off : BitVec 16) (s : State) : Goes s (execLdh d a off s) := by
  unfold execLdh
  simp +contextual [Keeps]
@[simp] theorem execLdhu_goes (d a : BitVec 5) (off : BitVec 16) (s : State) : Goes s (execLdhu d a off s) := by
  unfold execLdhu
  simp +contextual [Keeps]
@[simp] theorem execLdb_goes (d a : BitVec 5) (off : BitVec 16) (s : State) : Goes s (execLdb d a off s) := by
  unfold execLdb
  simp +contextual [Keeps]
@[simp] theorem execLdbu_goes (d a : BitVec 5) (off : BitVec 16) (s : State) : Goes s (execLdbu d a off s) := by
  unfold execLdbu
  simp +contextual [Keeps]
@[simp] theorem execStd_goes (d a : BitVec 5) (off : BitVec 16) (s : State) : Goes s (execStd d a off s) := by
  unfold execStd
  simp +contextual [Keeps]
@[simp] theorem execCoreStw_goes (d a : BitVec 5) (off : BitVec 16) (s : State) : Goes s (execCoreStw d a off s) := by
  unfold execCoreStw
  simp +contextual [Keeps]
@[simp] theorem execCoreSth_goes (d a : BitVec 5) (off : BitVec 16) (s : State) : Goes s (execCoreSth d a off s) := by
  unfold execCoreSth
  simp +contextual [Keeps]
@[simp] theorem execCoreStb_goes (d a : BitVec 5) (off : BitVec 16) (s : State) : Goes s (execCoreStb d a off s) := by
  unfold execCoreStb
  simp +contextual [Keeps]
@[simp] theorem execLda_goes (d a : BitVec 5) (_scope : Scope) (s : State) : Goes s (execLda d a _scope s) := by
  unfold execLda
  dsimp only
  split <;> simp +contextual [Keeps]
@[simp] theorem execStl_goes (a b : BitVec 5) (scope : Scope) (s : State) : Goes s (execStl a b scope s) := by
  unfold execStl
  dsimp only
  split <;> simp +contextual [Keeps]
theorem amoApply_wf {m : Memory} (h : m.wf = true) (k a : Nat) (b : Word) (bp : Bool) (exp : Word) :
    (amoApply m k a b bp exp).2.2.1.wf = true := by
  unfold amoApply
  split
  · exact h
  · dsimp only
    split
    · exact Memory.wf_store h _ _ _ _
    · exact h

@[simp] theorem State.amoLost_keeps (s : State) (r k : Nat) (d b : BitVec 5) (a : Nat) : Keeps s (s.amoLost r k d b a) := by
  unfold State.amoLost
  simp +contextual [Keeps, amoApply_wf]
@[simp] theorem execAmo_goes (k : Nat) (d a b : BitVec 5) (o : MemOrder) (s : State) : Goes s (execAmo k d a b o s) := by
  unfold execAmo
  dsimp only
  split
  · simp +contextual [Keeps]
  · split
    · simp [Keeps]
    · split
      · simp +contextual [Keeps]
      · refine (goes_next _ _).mpr (State.atBank_keeps s _ _ (fun t => ?_) (fun t h => ?_))
        · simp
        · have hm := amoApply_wf h
          split <;> simp [hm]
@[simp] theorem execAmoadd_goes (d a b : BitVec 5) (o : MemOrder) (s : State) : Goes s (execAmoadd d a b o s) := by
  unfold execAmoadd
  simp +contextual [Keeps]
@[simp] theorem execAmomin_goes (d a b : BitVec 5) (o : MemOrder) (s : State) : Goes s (execAmomin d a b o s) := by
  unfold execAmomin
  simp +contextual [Keeps]
@[simp] theorem execAmomax_goes (d a b : BitVec 5) (o : MemOrder) (s : State) : Goes s (execAmomax d a b o s) := by
  unfold execAmomax
  simp +contextual [Keeps]
@[simp] theorem execAmoand_goes (d a b : BitVec 5) (o : MemOrder) (s : State) : Goes s (execAmoand d a b o s) := by
  unfold execAmoand
  simp +contextual [Keeps]
@[simp] theorem execAmoor_goes (d a b : BitVec 5) (o : MemOrder) (s : State) : Goes s (execAmoor d a b o s) := by
  unfold execAmoor
  simp +contextual [Keeps]
@[simp] theorem execAmoxor_goes (d a b : BitVec 5) (o : MemOrder) (s : State) : Goes s (execAmoxor d a b o s) := by
  unfold execAmoxor
  simp +contextual [Keeps]
@[simp] theorem execAmoxchg_goes (d a b : BitVec 5) (o : MemOrder) (s : State) : Goes s (execAmoxchg d a b o s) := by
  unfold execAmoxchg
  simp +contextual [Keeps]
@[simp] theorem execAmocas_goes (d a b : BitVec 5) (o : MemOrder) (s : State) : Goes s (execAmocas d a b o s) := by
  unfold execAmocas
  simp +contextual [Keeps]
@[simp] theorem execAmoadds_goes (d a b : BitVec 5) (o : MemOrder) (s : State) : Goes s (execAmoadds d a b o s) := by
  unfold execAmoadds
  simp +contextual [Keeps]
@[simp] theorem execFence_goes (k : FenceKind) (_scope : Scope) (s : State) : Goes s (execFence k _scope s) := by
  unfold execFence
  dsimp only
  repeat' split
  all_goals simp +contextual [Keeps]
@[simp] theorem execSts_goes (d a b : BitVec 5) (sys posted : Bool) (s : State) : Goes s (execSts d a b sys posted s) := by
  unfold execSts
  dsimp only
  repeat' split
  all_goals simp +contextual [Keeps]
@[simp] theorem execCoreLdas_goes (d a b : BitVec 5) (sys : Bool) (s : State) : Goes s (execCoreLdas d a b sys s) := by
  unfold execCoreLdas
  dsimp only
  split <;> simp +contextual [Keeps]
@[simp] theorem State.using_keeps {s t : State} (r : Nat) (reads : List (BitVec 5)) (ha : t.agenda = s.agenda)
    (hw : s.mem.wf = true → t.mem.wf = true) : Keeps s (s.using r reads t) := by
  unfold State.using
  split
  · simp +contextual [Keeps]
  · exact ⟨ha, hw⟩
@[simp] theorem State.handlerOnly_keeps {s t : State} (r : Nat) (i : Instr) (reads : List (BitVec 5)) (ha : t.agenda = s.agenda)
    (hw : s.mem.wf = true → t.mem.wf = true) : Keeps s (s.handlerOnly r i reads t) := by
  unfold State.handlerOnly
  split
  · exact State.using_keeps r reads ha hw
  · simp +contextual [Keeps]
@[simp] theorem State.csrEfault_calm (s : State) (u : UnitId) (v : Word) : Calm s (s.csrEfault u v) := by
  unfold State.csrEfault
  simp [Calm]
@[simp] theorem execCsrrd_goes (d b : BitVec 5) (s : State) : Goes s (execCsrrd d b s) := by
  unfold execCsrrd
  dsimp only
  repeat' split
  all_goals simp +contextual [Keeps]
theorem State.csrSpill_keeps {s t : State} {r n : Nat} {v : Word} {f : Core → Core} (h : s.csrSpill r n v f = .ok t) : Keeps s t := by
  unfold State.csrSpill at h
  split at h
  · cases h
  · cases h
    exact Calm.keeps (State.modCore_calm _ _ _)

theorem State.csrWrite_keeps {s t : State} {r n : Nat} {v : Word} (h : s.csrWrite r n v = .ok t) : Keeps s t := by
  have hspill : ∀ f : Core → Core, (if (s.core r).handler then s.csrSpill r n v f else .ok s) = .ok t → Keeps s t := by
    intro f h
    split at h
    · exact State.csrSpill_keeps h
    · cases h
      exact ⟨rfl, id⟩
  unfold State.csrWrite at h
  dsimp only at h
  split at h
  · cases h
    exact Calm.keeps (State.csrEfault_calm _ _ _)
  · split at h
    · cases h; simp [Keeps]
    · cases h; simp [Keeps]
    · exact hspill _ h
    · exact hspill _ h
    · exact hspill _ h
    · exact hspill _ h
    · cases h; simp [Keeps]
    · cases h; simp [Keeps]
    · cases h; simp [Keeps]
    · split at h
      · cases h; exact ⟨rfl, id⟩
      · cases h

@[simp] theorem execCsrwr_goes (a b : BitVec 5) (s : State) : Goes s (execCsrwr a b s) := by
  unfold execCsrwr
  rw [goes_next]
  refine State.using_keeps _ _ ?_ ?_ <;> split
  · simp
  · split
    · next h => exact (State.csrWrite_keeps h).1
    · simp
  · simp +contextual
  · split
    · next h => exact (State.csrWrite_keeps h).2
    · simp +contextual
@[simp] theorem execTrap_goes (a : BitVec 5) (s : State) : Goes s (execTrap a s) := by
  unfold execTrap
  simp +contextual [Keeps]
@[simp] theorem execEret_goes (s : State) : Goes s (execEret s) := by
  unfold execEret
  simp +contextual [Keeps]
@[simp] theorem execHalt_goes (s : State) : Goes s (execHalt s) := by
  unfold execHalt
  simp +contextual [Keeps]
@[simp] theorem State.faultFreeze_calm (s : State) (r : Nat) : Calm s (s.faultFreeze r) := by
  unfold State.faultFreeze
  split <;> simp [Calm]
@[simp] theorem execBrk_goes (s : State) : Goes s (execBrk s) := by
  unfold execBrk
  split <;> simp +contextual [Keeps]
@[simp] theorem execIllegalWord_goes (w : BitVec 32) (s : State) : Goes s (execIllegalWord w s) := by
  unfold execIllegalWord
  simp +contextual [Keeps]
@[simp] theorem execFetchOutsideCodeArea_goes (s : State) : Goes s (execFetchOutsideCodeArea s) := by
  unfold execFetchOutsideCodeArea
  simp +contextual [Keeps]
@[simp] theorem execTrapEntry_goes (r : Nat) (s : State) : Goes s (execTrapEntry r s) := by
  unfold execTrapEntry
  split <;> simp +contextual [Keeps]
@[simp] theorem State.wait_calm (s : State) (r : Nat) (w : Wait) : Calm s (s.wait r w) := by
  unfold State.wait
  simp [Calm]
@[simp] theorem State.endWait_calm (s : State) (r : Nat) : Calm s (s.endWait r) := by
  unfold State.endWait
  simp [Calm]
@[simp] theorem execClkrd_goes (p : BitVec 4) (s : State) : Goes s (execClkrd p s) := by
  unfold execClkrd
  simp +contextual [Keeps]
@[simp] theorem execCyc_goes (d : BitVec 5) (s : State) : Goes s (execCyc d s) := by
  unfold execCyc
  simp +contextual [Keeps]
@[simp] theorem execSleepu_goes (a : BitVec 5) (s : State) : Goes s (execSleepu a s) := by
  unfold execSleepu
  simp +contextual [Keeps]
@[simp] theorem execWaits_goes (a : BitVec 5) (sys : Bool) (s : State) : Goes s (execWaits a sys s) := by
  unfold execWaits
  split <;> simp +contextual [Keeps]
@[simp] theorem execFloor_goes (d : BitVec 5) (sys : Bool) (s : State) : Goes s (execFloor d sys s) := by
  unfold execFloor
  simp +contextual [Keeps]
@[simp] theorem State.reRot_calm (s : State) (r n : Nat) : Calm s (s.reRot r n) := by
  unfold State.reRot
  simp [Calm]
@[simp] theorem execCntrd_goes (d a : BitVec 5) (s : State) : Goes s (execCntrd d a s) := by
  unfold execCntrd
  simp +contextual [Keeps]
@[simp] theorem execCntcfg_goes (d a b : BitVec 5) (s : State) : Goes s (execCntcfg d a b s) := by
  unfold execCntcfg
  simp +contextual [Keeps]
@[simp] theorem execCntclr_goes (a : BitVec 5) (s : State) : Goes s (execCntclr a s) := by
  unfold execCntclr
  simp +contextual [Keeps]
@[simp] theorem execTlook_goes (d a : BitVec 5) (s : State) : Goes s (execTlook d a s) := by
  unfold execTlook
  simp +contextual [Keeps]
@[simp] theorem execTfill_goes (a b : BitVec 5) (s : State) : Goes s (execTfill a b s) := by
  unfold execTfill
  dsimp only
  repeat' split
  all_goals simp +contextual [Keeps]
@[simp] theorem execTevict_goes (a : BitVec 5) (s : State) : Goes s (execTevict a s) := by
  unfold execTevict
  simp +contextual [Keeps]


/-! PROOFS. What the element words keep of the agenda and of memory's form. -/

@[simp] theorem execRmw_goes (t : Trig) (d : RegDst) (ins : List Src) (p : PredW) (lat : Nat) (f : List Word → Word → ERes) (s : State) :
    Goes s (execRmw t d ins p lat f s) := by
  unfold execRmw
  simp +contextual [Keeps]
@[simp] theorem execCmpImm_goes (t : Trig) (j : BitVec 3) (a : Src) (f : Word → Bool) (s : State) : Goes s (execCmpImm t j a f s) := by
  unfold execCmpImm
  simp +contextual [Keeps]
@[simp] theorem execMov_goes (t : Trig) (d : Dst) (a : Src) (p : PredW) (s : State) : Goes s (execMov t d a p s) := by
  unfold execMov
  dsimp only
  split <;> simp +contextual [Keeps]
@[simp] theorem execKind_goes (t : Trig) (d : Dst) (i : BitVec 3) (kept : Bool) (p : PredW) (s : State) :
    Goes s (execKind t d i kept p s) := by
  unfold execKind
  dsimp only
  split <;> simp +contextual [Keeps]
@[simp] theorem execAdd_goes (t : Trig) (d : Dst) (a b : Src) (p : PredW) (s : State) : Goes s (execAdd t d a b p s) := by
  unfold execAdd
  simp +contextual [Keeps]
@[simp] theorem execSub_goes (t : Trig) (d : Dst) (a b : Src) (p : PredW) (s : State) : Goes s (execSub t d a b p s) := by
  unfold execSub
  simp +contextual [Keeps]
@[simp] theorem execMul_goes (t : Trig) (d : Dst) (a b : Src) (p : PredW) (s : State) : Goes s (execMul t d a b p s) := by
  unfold execMul
  simp +contextual [Keeps]
@[simp] theorem execMulhs_goes (t : Trig) (d : Dst) (a b : Src) (p : PredW) (s : State) : Goes s (execMulhs t d a b p s) := by
  unfold execMulhs
  simp +contextual [Keeps]
@[simp] theorem execMulhu_goes (t : Trig) (d : Dst) (a b : Src) (p : PredW) (s : State) : Goes s (execMulhu t d a b p s) := by
  unfold execMulhu
  simp +contextual [Keeps]
@[simp] theorem execAnd_goes (t : Trig) (d : Dst) (a b : Src) (p : PredW) (s : State) : Goes s (execAnd t d a b p s) := by
  unfold execAnd
  simp +contextual [Keeps]
@[simp] theorem execOr_goes (t : Trig) (d : Dst) (a b : Src) (p : PredW) (s : State) : Goes s (execOr t d a b p s) := by
  unfold execOr
  simp +contextual [Keeps]
@[simp] theorem execXor_goes (t : Trig) (d : Dst) (a b : Src) (p : PredW) (s : State) : Goes s (execXor t d a b p s) := by
  unfold execXor
  simp +contextual [Keeps]
@[simp] theorem execAndn_goes (t : Trig) (d : Dst) (a b : Src) (p : PredW) (s : State) : Goes s (execAndn t d a b p s) := by
  unfold execAndn
  simp +contextual [Keeps]
@[simp] theorem execShl_goes (t : Trig) (d : Dst) (a b : Src) (p : PredW) (s : State) : Goes s (execShl t d a b p s) := by
  unfold execShl
  simp +contextual [Keeps]
@[simp] theorem execShr_goes (t : Trig) (d : Dst) (a b : Src) (p : PredW) (s : State) : Goes s (execShr t d a b p s) := by
  unfold execShr
  simp +contextual [Keeps]
@[simp] theorem execSar_goes (t : Trig) (d : Dst) (a b : Src) (p : PredW) (s : State) : Goes s (execSar t d a b p s) := by
  unfold execSar
  simp +contextual [Keeps]
@[simp] theorem execMin_goes (t : Trig) (d : Dst) (a b : Src) (p : PredW) (s : State) : Goes s (execMin t d a b p s) := by
  unfold execMin
  simp +contextual [Keeps]
@[simp] theorem execMax_goes (t : Trig) (d : Dst) (a b : Src) (p : PredW) (s : State) : Goes s (execMax t d a b p s) := by
  unfold execMax
  simp +contextual [Keeps]
@[simp] theorem execMinu_goes (t : Trig) (d : Dst) (a b : Src) (p : PredW) (s : State) : Goes s (execMinu t d a b p s) := by
  unfold execMinu
  simp +contextual [Keeps]
@[simp] theorem execMaxu_goes (t : Trig) (d : Dst) (a b : Src) (p : PredW) (s : State) : Goes s (execMaxu t d a b p s) := by
  unfold execMaxu
  simp +contextual [Keeps]
@[simp] theorem execAdds_goes (t : Trig) (d : Dst) (a b : Src) (p : PredW) (s : State) : Goes s (execAdds t d a b p s) := by
  unfold execAdds
  simp +contextual [Keeps]
@[simp] theorem execSubs_goes (t : Trig) (d : Dst) (a b : Src) (p : PredW) (s : State) : Goes s (execSubs t d a b p s) := by
  unfold execSubs
  simp +contextual [Keeps]
@[simp] theorem execClz_goes (t : Trig) (d : Dst) (a : Src) (p : PredW) (s : State) : Goes s (execClz t d a p s) := by
  unfold execClz
  simp +contextual [Keeps]
@[simp] theorem execPopc_goes (t : Trig) (d : Dst) (a : Src) (p : PredW) (s : State) : Goes s (execPopc t d a p s) := by
  unfold execPopc
  simp +contextual [Keeps]
@[simp] theorem execSext_goes (t : Trig) (d : Dst) (a : Src) (n : ExtWidth) (p : PredW) (s : State) : Goes s (execSext t d a n p s) := by
  unfold execSext
  simp +contextual [Keeps]
@[simp] theorem execZext_goes (t : Trig) (d : Dst) (a : Src) (n : ExtWidth) (p : PredW) (s : State) : Goes s (execZext t d a n p s) := by
  unfold execZext
  simp +contextual [Keeps]
@[simp] theorem execCeq_goes (t : Trig) (d : Dst) (a b : Src) (p : PredW) (s : State) : Goes s (execCeq t d a b p s) := by
  unfold execCeq
  simp +contextual [Keeps]
@[simp] theorem execCne_goes (t : Trig) (d : Dst) (a b : Src) (p : PredW) (s : State) : Goes s (execCne t d a b p s) := by
  unfold execCne
  simp +contextual [Keeps]
@[simp] theorem execClt_goes (t : Trig) (d : Dst) (a b : Src) (p : PredW) (s : State) : Goes s (execClt t d a b p s) := by
  unfold execClt
  simp +contextual [Keeps]
@[simp] theorem execCle_goes (t : Trig) (d : Dst) (a b : Src) (p : PredW) (s : State) : Goes s (execCle t d a b p s) := by
  unfold execCle
  simp +contextual [Keeps]
@[simp] theorem execCltu_goes (t : Trig) (d : Dst) (a b : Src) (p : PredW) (s : State) : Goes s (execCltu t d a b p s) := by
  unfold execCltu
  simp +contextual [Keeps]
@[simp] theorem execCleu_goes (t : Trig) (d : Dst) (a b : Src) (p : PredW) (s : State) : Goes s (execCleu t d a b p s) := by
  unfold execCleu
  simp +contextual [Keeps]
@[simp] theorem execCtst_goes (t : Trig) (d : Dst) (a b : Src) (p : PredW) (s : State) : Goes s (execCtst t d a b p s) := by
  unfold execCtst
  simp +contextual [Keeps]
@[simp] theorem execAddi_goes (t : Trig) (d : Dst) (a : Src) (imm : BitVec 9) (s : State) : Goes s (execAddi t d a imm s) := by
  unfold execAddi
  simp +contextual [Keeps]
@[simp] theorem execAndi_goes (t : Trig) (d : Dst) (a : Src) (imm : BitVec 9) (s : State) : Goes s (execAndi t d a imm s) := by
  unfold execAndi
  simp +contextual [Keeps]
@[simp] theorem execOri_goes (t : Trig) (d : Dst) (a : Src) (imm : BitVec 9) (s : State) : Goes s (execOri t d a imm s) := by
  unfold execOri
  simp +contextual [Keeps]
@[simp] theorem execXori_goes (t : Trig) (d : Dst) (a : Src) (imm : BitVec 9) (s : State) : Goes s (execXori t d a imm s) := by
  unfold execXori
  simp +contextual [Keeps]
@[simp] theorem execShli_goes (t : Trig) (d : Dst) (a : Src) (c : BitVec 6) (s : State) : Goes s (execShli t d a c s) := by
  unfold execShli
  simp +contextual [Keeps]
@[simp] theorem execShri_goes (t : Trig) (d : Dst) (a : Src) (c : BitVec 6) (s : State) : Goes s (execShri t d a c s) := by
  unfold execShri
  simp +contextual [Keeps]
@[simp] theorem execSari_goes (t : Trig) (d : Dst) (a : Src) (c : BitVec 6) (s : State) : Goes s (execSari t d a c s) := by
  unfold execSari
  simp +contextual [Keeps]
@[simp] theorem execCeqi_goes (t : Trig) (j : BitVec 3) (a : Src) (imm : BitVec 9) (s : State) : Goes s (execCeqi t j a imm s) := by
  unfold execCeqi
  simp +contextual [Keeps]
@[simp] theorem execClti_goes (t : Trig) (j : BitVec 3) (a : Src) (imm : BitVec 9) (s : State) : Goes s (execClti t j a imm s) := by
  unfold execClti
  simp +contextual [Keeps]
@[simp] theorem execCltui_goes (t : Trig) (j : BitVec 3) (a : Src) (imm : BitVec 9) (s : State) : Goes s (execCltui t j a imm s) := by
  unfold execCltui
  simp +contextual [Keeps]
@[simp] theorem execMovi_goes (t : Trig) (d : Dst) (imm : BitVec 14) (s : State) : Goes s (execMovi t d imm s) := by
  unfold execMovi
  simp +contextual [Keeps]
@[simp] theorem execShin_goes (t : Trig) (d : RegDst) (imm : BitVec 14) (s : State) : Goes s (execShin t d imm s) := by
  unfold execShin
  simp +contextual [Keeps]
@[simp] theorem execFaddS_goes (t : Trig) (d : Dst) (a b : Src) (p : PredW) (s : State) : Goes s (execFaddS t d a b p s) := by
  unfold execFaddS
  simp +contextual [Keeps]
@[simp] theorem execFsubS_goes (t : Trig) (d : Dst) (a b : Src) (p : PredW) (s : State) : Goes s (execFsubS t d a b p s) := by
  unfold execFsubS
  simp +contextual [Keeps]
@[simp] theorem execFmulS_goes (t : Trig) (d : Dst) (a b : Src) (p : PredW) (s : State) : Goes s (execFmulS t d a b p s) := by
  unfold execFmulS
  simp +contextual [Keeps]
@[simp] theorem execFmacS_goes (t : Trig) (d : RegDst) (a b : Src) (p : PredW) (s : State) : Goes s (execFmacS t d a b p s) := by
  unfold execFmacS
  simp +contextual [Keeps]
@[simp] theorem execFminS_goes (t : Trig) (d : Dst) (a b : Src) (p : PredW) (s : State) : Goes s (execFminS t d a b p s) := by
  unfold execFminS
  simp +contextual [Keeps]
@[simp] theorem execFmaxS_goes (t : Trig) (d : Dst) (a b : Src) (p : PredW) (s : State) : Goes s (execFmaxS t d a b p s) := by
  unfold execFmaxS
  simp +contextual [Keeps]
@[simp] theorem execFrsqeS_goes (t : Trig) (d : Dst) (a : Src) (p : PredW) (s : State) : Goes s (execFrsqeS t d a p s) := by
  unfold execFrsqeS
  simp +contextual [Keeps]
@[simp] theorem execFrcpeS_goes (t : Trig) (d : Dst) (a : Src) (p : PredW) (s : State) : Goes s (execFrcpeS t d a p s) := by
  unfold execFrcpeS
  simp +contextual [Keeps]
@[simp] theorem execFceqS_goes (t : Trig) (d : Dst) (a b : Src) (p : PredW) (s : State) : Goes s (execFceqS t d a b p s) := by
  unfold execFceqS
  simp +contextual [Keeps]
@[simp] theorem execFcltS_goes (t : Trig) (d : Dst) (a b : Src) (p : PredW) (s : State) : Goes s (execFcltS t d a b p s) := by
  unfold execFcltS
  simp +contextual [Keeps]
@[simp] theorem execFcleS_goes (t : Trig) (d : Dst) (a b : Src) (p : PredW) (s : State) : Goes s (execFcleS t d a b p s) := by
  unfold execFcleS
  simp +contextual [Keeps]
@[simp] theorem execFcunS_goes (t : Trig) (d : Dst) (a b : Src) (p : PredW) (s : State) : Goes s (execFcunS t d a b p s) := by
  unfold execFcunS
  simp +contextual [Keeps]
@[simp] theorem execFaddD_goes (t : Trig) (d : Dst) (a b : Src) (p : PredW) (s : State) : Goes s (execFaddD t d a b p s) := by
  unfold execFaddD
  simp +contextual [Keeps]
@[simp] theorem execFsubD_goes (t : Trig) (d : Dst) (a b : Src) (p : PredW) (s : State) : Goes s (execFsubD t d a b p s) := by
  unfold execFsubD
  simp +contextual [Keeps]
@[simp] theorem execFmulD_goes (t : Trig) (d : Dst) (a b : Src) (p : PredW) (s : State) : Goes s (execFmulD t d a b p s) := by
  unfold execFmulD
  simp +contextual [Keeps]
@[simp] theorem execFmacD_goes (t : Trig) (d : RegDst) (a b : Src) (p : PredW) (s : State) : Goes s (execFmacD t d a b p s) := by
  unfold execFmacD
  simp +contextual [Keeps]
@[simp] theorem execFminD_goes (t : Trig) (d : Dst) (a b : Src) (p : PredW) (s : State) : Goes s (execFminD t d a b p s) := by
  unfold execFminD
  simp +contextual [Keeps]
@[simp] theorem execFmaxD_goes (t : Trig) (d : Dst) (a b : Src) (p : PredW) (s : State) : Goes s (execFmaxD t d a b p s) := by
  unfold execFmaxD
  simp +contextual [Keeps]
@[simp] theorem execFceqD_goes (t : Trig) (d : Dst) (a b : Src) (p : PredW) (s : State) : Goes s (execFceqD t d a b p s) := by
  unfold execFceqD
  simp +contextual [Keeps]
@[simp] theorem execFcltD_goes (t : Trig) (d : Dst) (a b : Src) (p : PredW) (s : State) : Goes s (execFcltD t d a b p s) := by
  unfold execFcltD
  simp +contextual [Keeps]
@[simp] theorem execFcleD_goes (t : Trig) (d : Dst) (a b : Src) (p : PredW) (s : State) : Goes s (execFcleD t d a b p s) := by
  unfold execFcleD
  simp +contextual [Keeps]
@[simp] theorem execFcunD_goes (t : Trig) (d : Dst) (a b : Src) (p : PredW) (s : State) : Goes s (execFcunD t d a b p s) := by
  unfold execFcunD
  simp +contextual [Keeps]
@[simp] theorem State.startMulti_calm (s : State) (u : UnitId) (tick : Nat) (ctx : BitVec 2) (slot lat : Nat) (src : MultiSrc) (finish : Landing) :
    Calm s (s.startMulti u tick ctx slot lat src finish) := by
  unfold State.startMulti
  simp [Calm]
@[simp] theorem execSteer_goes (t : Trig) (o : BitVec 2) (a b : Src) (s : State) : Goes s (execSteer t o a b s) := by
  unfold execSteer
  split <;> simp +contextual [Keeps]
@[simp] theorem execMergec_goes (t : Trig) (d : Dst) (iT iF iC : BitVec 3) (s : State) : Goes s (execMergec t d iT iF iC s) := by
  unfold execMergec
  split <;> simp +contextual [Keeps]
@[simp] theorem execDup_goes (t : Trig) (o : BitVec 2) (a : Src) (s : State) : Goes s (execDup t o a s) := by
  unfold execDup
  split <;> simp +contextual [Keeps]
@[simp] theorem execGate_goes (t : Trig) (d : Dst) (a b : Src) (s : State) : Goes s (execGate t d a b s) := by
  unfold execGate
  dsimp only
  split <;> simp +contextual [Keeps]
@[simp] theorem execJoin_goes (t : Trig) (d : Dst) (a b : Src) (s : State) : Goes s (execJoin t d a b s) := by
  unfold execJoin
  dsimp only
  split <;> simp +contextual [Keeps]
@[simp] theorem execMarki_goes (t : Trig) (o : BitVec 3) (code : BitVec 14) (s : State) : Goes s (execMarki t o code s) := by
  unfold execMarki
  dsimp only
  split <;> simp +contextual [Keeps]
@[simp] theorem execEmitd_goes (t : Trig) (o : BitVec 3) (a : Src) (s : State) : Goes s (execEmitd t o a s) := by
  unfold execEmitd
  dsimp only
  split <;> simp +contextual [Keeps]
@[simp] theorem State.admitStamped_calm (s : State) (u : UnitId) (q : PortReq) (t : Target) : Calm s (s.admitStamped u q t).1 := by
  unfold State.admitStamped
  split <;> simp [Calm]
@[simp] theorem State.admitNear_calm (s : State) (u : UnitId) (q : PortReq) (t : Target) : Calm s (s.admitNear u q t).1 := by
  unfold State.admitNear
  split <;> simp [Calm]
@[simp] theorem State.enqueue_calm (s : State) (u : UnitId) (q : PortReq) : Calm s (s.enqueue u q) := by
  unfold State.enqueue
  dsimp only
  split <;> simp [Calm]
@[simp] theorem State.accept_calm (s : State) (u : UnitId) (q : PortReq) : Calm s (s.accept u q) := by
  unfold State.accept
  simp [Calm]
@[simp] theorem memGo_keeps (s : State) (v : EView) (op : MemOp) (ord : MemOrder) (exp : Word) (g : Gate) :
    Keeps s (memGo s v op ord exp g) := by
  unfold memGo
  split <;> simp +contextual [Keeps]
@[simp] theorem execStore_goes (n : Nat) (t : Trig) (d : Dst) (a b : Src) (o : MemOrder) (s : State) :
    Goes s (execStore n t d a b o s) := by
  unfold execStore
  simp +contextual [Keeps]
@[simp] theorem execAmoWord_goes (k : Nat) (t : Trig) (d : Dst) (a b : Src) (o : MemOrder) (s : State) :
    Goes s (execAmoWord k t d a b o s) := by
  unfold execAmoWord
  simp +contextual [Keeps]
@[simp] theorem execStampWord_goes (op : MemOp) (t : Trig) (d : Dst) (a b : Src) (sys : Bool) (s : State) :
    Goes s (execStampWord op t d a b sys s) := by
  unfold execStampWord
  simp +contextual [Keeps]
@[simp] theorem execLd_goes (t : Trig) (d : Dst) (a : Src) (n : Width) (sx : Bool) (o : MemOrder) (s : State) :
    Goes s (execLd t d a n sx o s) := by
  unfold execLd
  simp +contextual [Keeps]
@[simp] theorem execLdas_goes (t : Trig) (d : Dst) (a b : Src) (sys : Bool) (s : State) : Goes s (execLdas t d a b sys s) := by
  unfold execLdas
  simp +contextual [Keeps]
@[simp] theorem execSt_goes (t : Trig) (d : Dst) (a b : Src) (o : MemOrder) (s : State) : Goes s (execSt t d a b o s) := by
  unfold execSt
  simp +contextual [Keeps]
@[simp] theorem execStw_goes (t : Trig) (d : Dst) (a b : Src) (o : MemOrder) (s : State) : Goes s (execStw t d a b o s) := by
  unfold execStw
  simp +contextual [Keeps]
@[simp] theorem execSth_goes (t : Trig) (d : Dst) (a b : Src) (o : MemOrder) (s : State) : Goes s (execSth t d a b o s) := by
  unfold execSth
  simp +contextual [Keeps]
@[simp] theorem execStb_goes (t : Trig) (d : Dst) (a b : Src) (o : MemOrder) (s : State) : Goes s (execStb t d a b o s) := by
  unfold execStb
  simp +contextual [Keeps]
@[simp] theorem execStsc_goes (t : Trig) (d : Dst) (a b : Src) (sys : Bool) (s : State) : Goes s (execStsc t d a b sys s) := by
  unfold execStsc
  simp +contextual [Keeps]
@[simp] theorem execStsp_goes (t : Trig) (d : Dst) (a b : Src) (sys : Bool) (s : State) : Goes s (execStsp t d a b sys s) := by
  unfold execStsp
  simp +contextual [Keeps]
@[simp] theorem execAadd_goes (t : Trig) (d : Dst) (a b : Src) (o : MemOrder) (s : State) : Goes s (execAadd t d a b o s) := by
  unfold execAadd
  simp +contextual [Keeps]
@[simp] theorem execAmin_goes (t : Trig) (d : Dst) (a b : Src) (o : MemOrder) (s : State) : Goes s (execAmin t d a b o s) := by
  unfold execAmin
  simp +contextual [Keeps]
@[simp] theorem execAmax_goes (t : Trig) (d : Dst) (a b : Src) (o : MemOrder) (s : State) : Goes s (execAmax t d a b o s) := by
  unfold execAmax
  simp +contextual [Keeps]
@[simp] theorem execAand_goes (t : Trig) (d : Dst) (a b : Src) (o : MemOrder) (s : State) : Goes s (execAand t d a b o s) := by
  unfold execAand
  simp +contextual [Keeps]
@[simp] theorem execAor_goes (t : Trig) (d : Dst) (a b : Src) (o : MemOrder) (s : State) : Goes s (execAor t d a b o s) := by
  unfold execAor
  simp +contextual [Keeps]
@[simp] theorem execAxor_goes (t : Trig) (d : Dst) (a b : Src) (o : MemOrder) (s : State) : Goes s (execAxor t d a b o s) := by
  unfold execAxor
  simp +contextual [Keeps]
@[simp] theorem execAxchg_goes (t : Trig) (d : Dst) (a b : Src) (o : MemOrder) (s : State) : Goes s (execAxchg t d a b o s) := by
  unfold execAxchg
  simp +contextual [Keeps]
@[simp] theorem execAcas_goes (t : Trig) (d : RegDst) (a b : Src) (o : MemOrder) (s : State) : Goes s (execAcas t d a b o s) := by
  unfold execAcas
  simp +contextual [Keeps]
@[simp] theorem execAadds_goes (t : Trig) (d : Dst) (a b : Src) (o : MemOrder) (s : State) : Goes s (execAadds t d a b o s) := by
  unfold execAadds
  simp +contextual [Keeps]


/-! PROOFS. What the trace keeps of the agenda and of memory's form. -/

@[simp] theorem State.traceIssue_calm (s : State) (r port : Nat) : Calm s (s.traceIssue r port) := by
  unfold State.traceIssue
  simp [Calm]
@[simp] theorem State.traceAppend_keeps (s : State) (ws : List Word) : Keeps s (s.traceAppend ws) := by
  induction ws generalizing s with
  | nil => exact ⟨rfl, id⟩
  | cons w ws ih =>
    refine ⟨by simp [State.traceAppend, ih], fun h => ?_⟩
    rw [State.traceAppend]
    exact (ih _).2 (by simp [h, Memory.wf_store])
@[simp] theorem State.traceWrite_keeps (s : State) (r : Nat) : Keeps s (s.traceWrite r) := by
  unfold State.traceWrite
  split <;> simp +contextual [Keeps]
@[simp] theorem execTraceRecordWrite_goes (s : State) : Goes s (execTraceRecordWrite s) := by
  unfold execTraceRecordWrite
  split <;> simp +contextual [Keeps]
@[simp] theorem execTraceAnchor_goes (s : State) : Goes s (execTraceAnchor s) := by
  unfold execTraceAnchor
  split <;> simp +contextual [Keeps]


/-! PROOFS. What the vector words keep of the agenda and of memory's form. -/

@[simp] theorem State.issueV_calm (s : State) (v : VUse) : Calm s (s.issueV v) := by
  unfold State.issueV
  simp [Calm]
@[simp] theorem execV_goes (v : VUse) (lat : Nat) (l : Landing) (s : State) : Goes s (execV v lat l s) := by
  unfold execV
  split <;> simp +contextual [Keeps]
@[simp] theorem execArith_goes (ff : FloatFmt → Nat → Nat → Nat → Res) (fi : Nat → Bool → Int → Int → Int → Res) (t : Trig) (vd va vb : BitVec 4) (m : BitVec 3) (s : State) :
    Goes s (execArith ff fi t vd va vb m s) := by
  unfold execArith
  simp +contextual [Keeps]
@[simp] theorem execBits_goes (reads : List VOpnd) (f : Vec → BitVec 4 → List Res) (t : Trig) (vd va : BitVec 4) (m : BitVec 3) (poison : Bool) (s : State) :
    Goes s (execBits reads f t vd va m poison s) := by
  unfold execBits
  simp +contextual [Keeps]
@[simp] theorem execVmov_goes (t : Trig) (vd va : BitVec 4) (m : BitVec 3) (s : State) : Goes s (execVmov t vd va m s) := by
  unfold execVmov
  simp +contextual [Keeps]
@[simp] theorem execVadd_goes (t : Trig) (vd va vb : BitVec 4) (m : BitVec 3) (s : State) : Goes s (execVadd t vd va vb m s) := by
  unfold execVadd
  simp +contextual [Keeps]
@[simp] theorem execVsub_goes (t : Trig) (vd va vb : BitVec 4) (m : BitVec 3) (s : State) : Goes s (execVsub t vd va vb m s) := by
  unfold execVsub
  simp +contextual [Keeps]
@[simp] theorem execVmul_goes (t : Trig) (vd va vb : BitVec 4) (m : BitVec 3) (s : State) : Goes s (execVmul t vd va vb m s) := by
  unfold execVmul
  simp +contextual [Keeps]
@[simp] theorem execVmin_goes (t : Trig) (vd va vb : BitVec 4) (m : BitVec 3) (s : State) : Goes s (execVmin t vd va vb m s) := by
  unfold execVmin
  simp +contextual [Keeps]
@[simp] theorem execVmax_goes (t : Trig) (vd va vb : BitVec 4) (m : BitVec 3) (s : State) : Goes s (execVmax t vd va vb m s) := by
  unfold execVmax
  simp +contextual [Keeps]
@[simp] theorem execVfma_goes (t : Trig) (vd va vb : BitVec 4) (m : BitVec 3) (s : State) : Goes s (execVfma t vd va vb m s) := by
  unfold execVfma
  simp +contextual [Keeps]
@[simp] theorem execUnary_goes (ok : BitVec 4 → Bool) (lat : BitVec 4 → Nat) (g : BitVec 4 → Nat → Res) (t : Trig) (vd va : BitVec 4) (m : BitVec 3) (s : State) :
    Goes s (execUnary ok lat g t vd va m s) := by
  unfold execUnary
  simp +contextual [Keeps]
@[simp] theorem execVabs_goes (t : Trig) (vd va : BitVec 4) (m : BitVec 3) (s : State) : Goes s (execVabs t vd va m s) := by
  unfold execVabs
  simp +contextual [Keeps]
@[simp] theorem execVand_goes (t : Trig) (vd va vb : BitVec 4) (m : BitVec 3) (s : State) : Goes s (execVand t vd va vb m s) := by
  unfold execVand
  simp +contextual [Keeps]
@[simp] theorem execVor_goes (t : Trig) (vd va vb : BitVec 4) (m : BitVec 3) (s : State) : Goes s (execVor t vd va vb m s) := by
  unfold execVor
  simp +contextual [Keeps]
@[simp] theorem execVxor_goes (t : Trig) (vd va vb : BitVec 4) (m : BitVec 3) (s : State) : Goes s (execVxor t vd va vb m s) := by
  unfold execVxor
  simp +contextual [Keeps]
@[simp] theorem execShiftV_goes (g : Nat → Bool → Nat → Nat → Nat) (t : Trig) (vd va vb : BitVec 4) (m : BitVec 3) (s : State) :
    Goes s (execShiftV g t vd va vb m s) := by
  unfold execShiftV
  simp +contextual [Keeps]
@[simp] theorem execVshl_goes (t : Trig) (vd va vb : BitVec 4) (m : BitVec 3) (s : State) : Goes s (execVshl t vd va vb m s) := by
  unfold execVshl
  simp +contextual [Keeps]
@[simp] theorem execVshr_goes (t : Trig) (vd va vb : BitVec 4) (m : BitVec 3) (s : State) : Goes s (execVshr t vd va vb m s) := by
  unfold execVshr
  simp +contextual [Keeps]
@[simp] theorem execVqshr_goes (t : Trig) (vd va : BitVec 4) (m : BitVec 3) (sh : BitVec 5) (s : State) :
    Goes s (execVqshr t vd va m sh s) := by
  unfold execVqshr
  simp +contextual [Keeps]
@[simp] theorem execVnarrow_goes (t : Trig) (vd va : BitVec 4) (round : BitVec 2) (m : BitVec 3) (fmt : BitVec 4) (sat : Bool) (s : State) :
    Goes s (execVnarrow t vd va round m fmt sat s) := by
  unfold execVnarrow
  simp +contextual [Keeps]
@[simp] theorem execVwiden_goes (t : Trig) (vp : BitVec 3) (va : BitVec 4) (m : BitVec 3) (fmt : BitVec 4) (s : State) :
    Goes s (execVwiden t vp va m fmt s) := by
  unfold execVwiden
  simp +contextual [Keeps]
@[simp] theorem execVwmac_goes (t : Trig) (vp : BitVec 3) (va vb : BitVec 4) (m : BitVec 3) (s : State) :
    Goes s (execVwmac t vp va vb m s) := by
  unfold execVwmac
  simp +contextual [Keeps]
@[simp] theorem execVcmp_goes (ff : FloatFmt → Nat → Nat → Bool) (fi : Int → Int → Bool) (t : Trig) (mk : BitVec 3) (va vb : BitVec 4) (m : BitVec 3) (s : State) :
    Goes s (execVcmp ff fi t mk va vb m s) := by
  unfold execVcmp
  simp +contextual [Keeps]
@[simp] theorem execVcmpeq_goes (t : Trig) (mk : BitVec 3) (va vb : BitVec 4) (m : BitVec 3) (s : State) :
    Goes s (execVcmpeq t mk va vb m s) := by
  unfold execVcmpeq
  simp +contextual [Keeps]
@[simp] theorem execVcmplt_goes (t : Trig) (mk : BitVec 3) (va vb : BitVec 4) (m : BitVec 3) (s : State) :
    Goes s (execVcmplt t mk va vb m s) := by
  unfold execVcmplt
  simp +contextual [Keeps]
@[simp] theorem execVcmple_goes (t : Trig) (mk : BitVec 3) (va vb : BitVec 4) (m : BitVec 3) (s : State) :
    Goes s (execVcmple t mk va vb m s) := by
  unfold execVcmple
  simp +contextual [Keeps]
@[simp] theorem execVsel_goes (t : Trig) (vd va vb : BitVec 4) (m : BitVec 3) (s : State) : Goes s (execVsel t vd va vb m s) := by
  unfold execVsel
  simp +contextual [Keeps]
@[simp] theorem execReduce_goes (ok : BitVec 4 → Bool) (ident : BitVec 4 → Nat) (ff : FloatFmt → Nat → Nat → Nat → Res) (fi : Nat → Bool → Int → Int → Int → Res) (t : Trig) (vd va : BitVec 4) (m : BitVec 3) (s : State) :
    Goes s (execReduce ok ident ff fi t vd va m s) := by
  unfold execReduce
  simp +contextual [Keeps]
@[simp] theorem execVredadd_goes (t : Trig) (vd va : BitVec 4) (m : BitVec 3) (s : State) : Goes s (execVredadd t vd va m s) := by
  unfold execVredadd
  simp +contextual [Keeps]
@[simp] theorem execVredmax_goes (t : Trig) (vd va : BitVec 4) (m : BitVec 3) (s : State) : Goes s (execVredmax t vd va m s) := by
  unfold execVredmax
  simp +contextual [Keeps]
@[simp] theorem execVbcast_goes (t : Trig) (vd va : BitVec 4) (m : BitVec 3) (i : BitVec 5) (s : State) :
    Goes s (execVbcast t vd va m i s) := by
  unfold execVbcast
  simp +contextual [Keeps]
@[simp] theorem execVshuf_goes (t : Trig) (vd va vb : BitVec 4) (m : BitVec 3) (s : State) : Goes s (execVshuf t vd va vb m s) := by
  unfold execVshuf
  simp +contextual [Keeps]
@[simp] theorem execVslide_goes (t : Trig) (vd va vb : BitVec 4) (m : BitVec 3) (sh : BitVec 5) (s : State) :
    Goes s (execVslide t vd va vb m sh s) := by
  unfold execVslide
  simp +contextual [Keeps]
@[simp] theorem execVexp2_goes (t : Trig) (vd va : BitVec 4) (m : BitVec 3) (s : State) : Goes s (execVexp2 t vd va m s) := by
  unfold execVexp2
  simp +contextual [Keeps]
@[simp] theorem execVrcp_goes (t : Trig) (vd va : BitVec 4) (m : BitVec 3) (s : State) : Goes s (execVrcp t vd va m s) := by
  unfold execVrcp
  simp +contextual [Keeps]
@[simp] theorem execVrsq_goes (t : Trig) (vd va : BitVec 4) (m : BitVec 3) (s : State) : Goes s (execVrsq t vd va m s) := by
  unfold execVrsq
  simp +contextual [Keeps]
@[simp] theorem execVtag_goes (t : Trig) (vd fmt : BitVec 4) (grp : BitVec 2) (_bit1 : Bool) (side : Bool) (s : State) :
    Goes s (execVtag t vd fmt grp _bit1 side s) := by
  unfold execVtag
  split <;> simp +contextual [Keeps]
@[simp] theorem execVsetp_goes (t : Trig) (j : BitVec 3) (s : State) : Goes s (execVsetp t j s) := by
  unfold execVsetp
  split <;> simp +contextual [Keeps]
@[simp] theorem execVldr_goes (t : Trig) (vd ring : BitVec 4) (pop : Bool) (s : State) : Goes s (execVldr t vd ring pop s) := by
  unfold execVldr
  dsimp only
  repeat' split
  all_goals simp +contextual [Keeps]
@[simp] theorem execVstr_goes (t : Trig) (va ring : BitVec 4) (commit : Bool) (s : State) : Goes s (execVstr t va ring commit s) := by
  unfold execVstr
  dsimp only
  repeat' split
  all_goals simp +contextual [Keeps]
@[simp] theorem execVlds_goes (t : Trig) (vd : BitVec 4) (i : BitVec 2) (s : State) : Goes s (execVlds t vd i s) := by
  unfold execVlds
  split <;> simp +contextual [Keeps]
@[simp] theorem execVsts_goes (t : Trig) (va : BitVec 4) (o : BitVec 2) (s : State) : Goes s (execVsts t va o s) := by
  unfold execVsts
  split <;> simp +contextual [Keeps]


/-! PROOFS. What a landing keeps of the agenda and of memory's form. -/

@[simp] theorem execWriteBack_goes (u : UnitId) (s : State) : Goes s (execWriteBack u s) := by
  unfold execWriteBack
  dsimp only
  repeat' split
  all_goals simp +contextual [Keeps]
@[simp] theorem State.multiAfter_keeps (s : State) (u : UnitId) (m : Multi) (src : MultiSrc) (mark : Option Nat) :
    Keeps s (s.multiAfter u m src mark) := by
  unfold State.multiAfter
  repeat' split
  all_goals simp +contextual [Keeps]
@[simp] theorem State.multiPlace_keeps (s : State) (u : UnitId) (m : Multi) (o : Nat) (t : Tok) (src : MultiSrc) :
    Keeps s (s.multiPlace u m o t src) := by
  unfold State.multiPlace
  simp +contextual [Keeps]
@[simp] theorem State.placeOwed_calm (s : State) (u : UnitId) : Calm s (s.placeOwed u) := by
  unfold State.placeOwed
  split <;> simp [Calm]
@[simp] theorem execMultiTokenPlace_goes (u : UnitId) (s : State) : Goes s (execMultiTokenPlace u s) := by
  unfold execMultiTokenPlace
  dsimp only
  repeat' split
  all_goals simp +contextual [Keeps]
@[simp] theorem execVldsTokenTake_goes (u : UnitId) (i : Nat) (s : State) : Goes s (execVldsTokenTake u i s) := by
  unfold execVldsTokenTake
  dsimp only
  repeat' split
  all_goals simp +contextual [Keeps]
@[simp] theorem execVstsTokenPlace_goes (u : UnitId) (o : Nat) (s : State) : Goes s (execVstsTokenPlace u o s) := by
  unfold execVstsTokenPlace
  dsimp only
  repeat' split
  all_goals simp +contextual [Keeps]
@[simp] theorem execTokenArrival_goes (u : UnitId) (i : Nat) (s : State) : Goes s (execTokenArrival u i s) := by
  unfold execTokenArrival
  dsimp only
  repeat' split
  all_goals simp +contextual [Keeps]
@[simp] theorem State.arriveAll_calm (s : State) (u : UnitId) (i : Nat) (ts : List Tok) : Calm s (s.arriveAll u i ts) := by
  induction ts generalizing s with
  | nil => exact ⟨rfl, rfl⟩
  | cons t ts ih => simp [State.arriveAll, ih, Calm]
@[simp] theorem execFlitArrival_goes (l : Nat) (dir : Bool) (c : Nat) (s : State) : Goes s (execFlitArrival l dir c s) := by
  unfold execFlitArrival
  repeat' split
  all_goals simp +contextual [Keeps]
@[simp] theorem execCreditReturn_goes (l : Nat) (dir : Bool) (c : Nat) (s : State) : Goes s (execCreditReturn l dir c s) := by
  unfold execCreditReturn
  dsimp only
  split
  · split
    · simp [Keeps]
    · exact (goes_next _ _).mpr (Calm.keeps ((State.modChan_calm _ _ _).trans
        (foldl_calm (fun _ _ => State.modLink_calm _ _ _) _ _)))
  · simp [Keeps]
@[simp] theorem execContextSetup_goes (l : Nat) (dir : Bool) (c cls : Nat) (phys : Bool) (target : CtxShape) (s : State) :
    Goes s (execContextSetup l dir c cls phys target s) := by
  unfold execContextSetup
  split <;> simp +contextual [Keeps]
@[simp] theorem execContextTeardown_goes (l : Nat) (dir : Bool) (c : Nat) (s : State) : Goes s (execContextTeardown l dir c s) := by
  unfold execContextTeardown
  repeat' split
  all_goals simp +contextual [Keeps]


/-! PROOFS. What the ports keep of the agenda and of memory's form. -/

theorem kvWrite_wf {m : Memory} (h : m.wf = true) (g : KvSeg) (w : Nat) (v : Word) : (kvWrite m g w v).wf = true :=
  Memory.wf_store h _ _ _ _

theorem kvSwitch_wf {m : Memory} (h : m.wf = true) (g : KvSeg) : (kvSwitch m g).wf = true := by
  unfold kvSwitch
  dsimp only
  split
  · exact kvWrite_wf (kvWrite_wf (kvWrite_wf h _ _ _) _ _ _) _ _ _
  · exact h

@[simp] theorem State.spadStore_keeps (s : State) (c : CellId) (off n : Nat) (v : Word) (p : Bool) : Keeps s (s.spadStore c off n v p) := by
  unfold State.spadStore
  dsimp only
  repeat' split
  all_goals simp +contextual [Keeps, kvSwitch_wf, Memory.wf_store]
@[simp] theorem State.landReq_keeps (s : State) (u : UnitId) (q : PortReq) (l : Landing) : Keeps s (s.landReq u q l) := by
  unfold State.landReq
  simp +contextual [Keeps]
@[simp] theorem State.leavePort_calm (s : State) (u : UnitId) (q : PortReq) : Calm s (s.leavePort u q) := by
  unfold State.leavePort
  simp [Calm]
@[simp] theorem State.finishReq_keeps (s : State) (u : UnitId) (q : PortReq) (kind : BitVec 2) (v : Word) (p : Bool) (f : BitVec 6) :
    Keeps s (s.finishReq u q kind v p f) := by
  unfold State.finishReq
  simp +contextual [Keeps]
@[simp] theorem State.countBytes_calm (s : State) (u : UnitId) (a n : Nat) : Calm s (s.countBytes u a n) := by
  unfold State.countBytes
  simp [Calm]
@[simp] theorem State.portFault_keeps (s : State) (u : UnitId) (q : PortReq) (cause : Byte) : Keeps s (s.portFault u q cause) := by
  unfold State.portFault
  simp +contextual [Keeps]
@[simp] theorem State.withhold_calm (s : State) (u : UnitId) (q : PortReq) : Calm s (s.withhold u q) := by
  unfold State.withhold
  simp [Calm]
@[simp] theorem State.portWrite_keeps (s : State) (u : UnitId) (a n : Nat) (v : Word) (p : Bool) : Keeps s (s.portWrite u a n v p) := by
  unfold State.portWrite
  simp +contextual [Keeps, Memory.wf_store]
@[simp] theorem State.postReq_keeps (s : State) (u : UnitId) (q : PortReq) (a n : Nat) : Keeps s (s.postReq u q a n) := by
  unfold State.postReq
  simp +contextual [Keeps]
@[simp] theorem State.performReq_keeps (s : State) (u : UnitId) (k : Nat) (q : PortReq) (t : Target) :
    Keeps s (s.performReq u k q t) := by
  unfold State.performReq
  dsimp only
  repeat' split
  all_goals simp +contextual [Keeps]
@[simp] theorem State.lostReq_keeps (s : State) (u : UnitId) (q : PortReq) (a : Nat) : Keeps s (s.lostReq u q a) := by
  unfold State.lostReq
  dsimp only
  repeat' split
  all_goals simp +contextual [Keeps, amoApply_wf]
theorem State.openOn_calm {s t : State} {x : Context} {lo n : Nat} {ls : List (Nat × Bool)} {cs : List CtxRef}
    (h : s.openOn x lo n ls = some (cs, t)) : Calm s t := by
  induction ls generalizing s cs with
  | nil => cases h; exact ⟨rfl, rfl⟩
  | cons l ls ih =>
    unfold State.openOn at h
    split at h
    · cases h
    · split at h
      · next heq =>
        cases h
        exact (State.modLink_calm s _ _).trans (ih heq)
      · cases h

@[simp] theorem State.openReq_calm (s : State) (u : UnitId) (q : PortReq) (a : Nat) : Calm s (s.openReq u q a) := by
  unfold State.openReq
  dsimp only
  split
  · next h => exact (State.openOn_calm h).trans (State.modUnit_calm _ _ _)
  · exact ⟨rfl, rfl⟩
@[simp] theorem State.serveAt_keeps (s : State) (u : UnitId) (k : Nat) (q : PortReq) (t : Target) : Keeps s (s.serveAt u k q t) := by
  unfold State.serveAt
  simp +contextual [Keeps]
@[simp] theorem State.serve_keeps (s : State) (u : UnitId) (k : Nat) : Keeps s (s.serve u k) := by
  unfold State.serve
  dsimp only
  repeat' split
  all_goals simp +contextual [Keeps]
@[simp] theorem State.serveCore_keeps (s : State) (r k : Nat) : Keeps s (s.serveCore r k) := by
  unfold State.serveCore
  dsimp only
  split <;> simp +contextual [Keeps]
@[simp] theorem execMemoryAccessComplete_goes (d : Door) (k : Nat) (s : State) : Goes s (execMemoryAccessComplete d k s) := by
  unfold execMemoryAccessComplete
  split <;> simp +contextual [Keeps]
@[simp] theorem State.keep_calm (s : State) (r port : Nat) (va : Word) (t : Target) : Calm s (s.keep r port va t) := by
  unfold State.keep
  simp [Calm]
@[simp] theorem State.walkMpe_keeps (s : State) (r port : Nat) : Keeps s (s.walkMpe r port) := by
  unfold State.walkMpe
  dsimp only
  repeat' split
  all_goals simp +contextual [Keeps]
@[simp] theorem State.resumeKv_calm (s : State) (r p : Nat) : Calm s (s.resumeKv r p) := by
  unfold State.resumeKv
  simp [Calm]
@[simp] theorem State.resumePort_keeps (s : State) (r n : Nat) : Keeps s (s.resumePort r n) := by
  unfold State.resumePort
  repeat' split
  all_goals simp +contextual [Keeps]
@[simp] theorem State.stampDone_keeps (s : State) (x : Stamped) (lost : Bool) : Keeps s (s.stampDone x lost) := by
  unfold State.stampDone
  repeat' split
  all_goals simp +contextual [Keeps]
@[simp] theorem State.installNow_keeps (s : State) (x : Stamped) : Keeps s (s.installNow x) := by
  unfold State.installNow
  simp +contextual [Keeps, install_wf]
@[simp] theorem execStampedInstall_goes (k : Nat) (s : State) : Goes s (execStampedInstall k s) := by
  unfold execStampedInstall
  dsimp only
  repeat' split
  all_goals simp +contextual [Keeps]
@[simp] theorem execStampedVisible_goes (k : Nat) (s : State) : Goes s (execStampedVisible k s) := by
  unfold execStampedVisible
  repeat' split
  all_goals simp +contextual [Keeps]
@[simp] theorem State.ldasDone_keeps (s : State) (x : LdasReq) : Keeps s (s.ldasDone x) := by
  unfold State.ldasDone
  repeat' split
  all_goals simp +contextual [Keeps]
@[simp] theorem execLdasReturn_goes (k : Nat) (s : State) : Goes s (execLdasReturn k s) := by
  unfold execLdasReturn
  repeat' split
  all_goals simp +contextual [Keeps]
@[simp] theorem execDramUncorrectableError_goes (a : Nat) (s : State) : Goes s (execDramUncorrectableError a s) := by
  unfold execDramUncorrectableError
  repeat' split
  all_goals simp +contextual [Keeps, Memory.wf_strike]
@[simp] theorem execScrub_goes (_a : Nat) (s : State) : Goes s (execScrub _a s) := by
  unfold execScrub
  simp +contextual [Keeps]


/-! PROOFS. What time and key/value segments keep of the agenda and of memory's form. -/

@[simp] theorem State.eachDie_calm (s : State) (f : DieTime → DieTime) : Calm s (s.eachDie f) := by
  unfold State.eachDie
  exact foldl_calm (fun s d => State.modDie_calm s d f) _ _
@[simp] theorem State.sysAdvance_calm (s : State) (f : Nat) : Calm s (s.sysAdvance f) := by
  unfold State.sysAdvance
  simp [Calm]
@[simp] theorem execFloorBroadcast_goes (s : State) : Goes s (execFloorBroadcast s) := by
  unfold execFloorBroadcast
  simp +contextual [Keeps]
@[simp] theorem execSystemFloorUpdate_goes (f : Nat) (s : State) : Goes s (execSystemFloorUpdate f s) := by
  unfold execSystemFloorUpdate
  split <;> simp +contextual [Keeps]
@[simp] theorem State.raiseWide_calm (s : State) (d : Nat) : Calm s (s.raiseWide d) := by
  unfold State.raiseWide
  simp [Calm]
@[simp] theorem State.tellWide_calm (s : State) (d : Nat) : Calm s (s.tellWide d) := by
  unfold State.tellWide
  simp [Calm]
@[simp] theorem execWidenedStateEntry_goes (d : Nat) (s : State) : Goes s (execWidenedStateEntry d s) := by
  unfold execWidenedStateEntry
  split <;> simp +contextual [Keeps]
@[simp] theorem execWidenedStateExit_goes (d : Nat) (s : State) : Goes s (execWidenedStateExit d s) := by
  unfold execWidenedStateExit
  split <;> simp +contextual [Keeps]
@[simp] theorem execSystemFloorStall_goes (s : State) : Goes s (execSystemFloorStall s) := by
  unfold execSystemFloorStall
  split <;> simp +contextual [Keeps]
@[simp] theorem execClockSync_goes (d e l : Nat) (s : State) : Goes s (execClockSync d e l s) := by
  unfold execClockSync
  split <;> simp +contextual [Keeps]
@[simp] theorem execKvSegmentSwitch_goes (c : CellId) (n : Nat) (s : State) : Goes s (execKvSegmentSwitch c n s) := by
  unfold execKvSegmentSwitch
  split <;> simp +contextual [Keeps, kvSwitch_wf]
@[simp] theorem State.kvResume_calm (s : State) (g : KvSeg) : Calm s (s.kvResume g) := by
  unfold State.kvResume
  simp [Calm]
@[simp] theorem execKvSegmentResume_goes (c : CellId) (n : Nat) (s : State) : Goes s (execKvSegmentResume c n s) := by
  unfold execKvSegmentResume
  simp +contextual [Keeps]
@[simp] theorem State.stopPipe_calm (s : State) (id k : Nat) (onData : Bool) (cause : Byte) :
    Calm s (s.stopPipe id k onData cause) := by
  unfold State.stopPipe
  dsimp only
  repeat' split
  all_goals simp [Calm]
@[simp] theorem State.heatAt_calm (s : State) (r p : Nat) (va : Word) : Calm s (s.heatAt r p va) := by
  unfold State.heatAt
  simp [Calm]
@[simp] theorem State.modHeat_calm (s : State) (r p : Nat) (va : Word) (f : Heat → Heat) : Calm s (s.modHeat r p va f) := by
  unfold State.modHeat
  simp [Calm]
@[simp] theorem State.heatTouch_calm (s : State) (r p : Nat) (va : Word) : Calm s (s.heatTouch r p va) := by
  unfold State.heatTouch
  simp [Calm]
@[simp] theorem State.heatRun_calm (s : State) (r : Nat) (c : Cmd) (i n : Nat) : Calm s (s.heatRun r c i n) := by
  unfold State.heatRun
  simp [Calm]
@[simp] theorem State.kvCmdEnd_calm (s : State) (r : Nat) (c : Cmd) (n : Nat) (cause : Option Byte) :
    Calm s (s.kvCmdEnd r c n cause) := by
  unfold State.kvCmdEnd
  simp [Calm]
@[simp] theorem State.kvEnd_keeps (s : State) (h : KvHalf) (cause : Option Byte) : Keeps s (s.kvEnd h cause) := by
  unfold State.kvEnd
  dsimp only
  repeat' split
  all_goals simp +contextual [Keeps]
@[simp] theorem State.kvWithhold_keeps (s : State) (k : Nat) (h : KvHalf) (g : KvSeg) : Keeps s (s.kvWithhold k h g) := by
  unfold State.kvWithhold
  dsimp only
  split <;> simp +contextual [Keeps]
@[simp] theorem State.countLate_calm (s : State) (slot r : Nat) : Calm s (s.countLate slot r) := by
  unfold State.countLate
  simp [Calm]
theorem storeWords_wf {m : Memory} (h : m.wf = true) (a : Nat) (ws : List (Word × Bool)) : (storeWords m a ws).wf = true := by
  induction ws generalizing m a with
  | nil => exact h
  | cons w ws ih => exact ih (Memory.wf_store h _ _ _ _) _

theorem kvSetTC_wf {m : Memory} (h : m.wf = true) (g : KvSeg) (t c : Nat) : (kvSetTC m g t c).wf = true := kvWrite_wf h _ _ _

theorem kvAccept_wf {m : Memory} (h : m.wf = true) (g : KvSeg) (x : KvHalf) : (kvAccept m g x).wf = true := by
  have hput : (kvPut m g x).wf = true := by
    unfold kvPut
    dsimp only
    split
    · exact Memory.wf_store (storeWords_wf h _ _) _ _ _ _
    · exact h
  exact kvSetTC_wf hput _ _ _

theorem kvClear_wf {m : Memory} (h : m.wf = true) (g : KvSeg) (f n q : Nat) : (kvClear m g f n q).wf = true := by
  induction n generalizing m q with
  | zero => exact h
  | succ n ih =>
    rw [kvClear]
    refine ih ?_ _
    split
    · exact Memory.wf_store h _ _ _ _
    · exact h

theorem kvNotice_wf {m : Memory} (h : m.wf = true) (g : KvSeg) (f gen : Nat) : (kvNotice m g f gen).wf = true :=
  kvWrite_wf (kvClear_wf (kvSetTC_wf h _ _ _) _ _ _ _) _ _ _

theorem kvEstablish_wf {m : Memory} (h : m.wf = true) (g : KvSeg) (q : Nat) : (kvEstablish m g q).wf = true := kvSetTC_wf h _ _ _

@[simp] theorem State.kvReaches_keeps (s : State) (h : KvHalf) (g : KvSeg) : Keeps s (s.kvReaches h g) := by
  unfold State.kvReaches
  split <;> simp +contextual [Keeps, kvAccept_wf]
@[simp] theorem State.kvCut_keeps (s : State) (h : KvHalf) : Keeps s (s.kvCut h) := by
  unfold State.kvCut
  dsimp only
  repeat' split
  all_goals simp +contextual [Keeps]
@[simp] theorem State.kvPerform_keeps (s : State) (k : Nat) : Keeps s (s.kvPerform k) := by
  unfold State.kvPerform
  repeat' split
  all_goals simp +contextual [Keeps]
@[simp] theorem execKvHalfWrite_goes (k : Nat) (s : State) : Goes s (execKvHalfWrite k s) := by
  unfold execKvHalfWrite
  simp +contextual [Keeps]


/-! PROOFS. What streams keep of the agenda and of memory's form. -/

@[simp] theorem State.bind_calm (s : State) (r : Nat) (d : BitVec 5) (h p : Nat) (x : Shape) (y : Option Shape) (watch fenced : Bool) :
    Calm s (s.bind r d h p x y watch fenced) := by
  unfold State.bind
  simp [Calm]
@[simp] theorem State.bindWhenRoom_calm (s : State) (r : Nat) (d : BitVec 5) (h p : Nat) (x : Shape) (y : Option Shape) (watch fenced : Bool) :
    Calm s (s.bindWhenRoom r d h p x y watch fenced) := by
  unfold State.bindWhenRoom
  simp [Calm]
@[simp] theorem execSbind_goes (d a b : BitVec 5) (h : BitVec 8) (watch fenced : Bool) (s : State) :
    Goes s (execSbind d a b h watch fenced s) := by
  unfold execSbind
  dsimp only
  repeat' split
  all_goals simp +contextual [Keeps]
@[simp] theorem State.startCmd_calm (s : State) (r : Nat) (c : Cmd) : Calm s (s.startCmd r c) := by
  unfold State.startCmd
  simp [Calm]
@[simp] theorem execStreamCommandStart_goes (r port : Nat) (s : State) : Goes s (execStreamCommandStart r port s) := by
  unfold execStreamCommandStart
  simp +contextual [Keeps]
@[simp] theorem State.streamRow_keeps (s : State) (c : CellId) (n slot row : Nat) (x : Row) (p : Bool) :
    Keeps s (s.streamRow c n slot row x p) := by
  unfold State.streamRow
  split
  · exact ⟨rfl, id⟩
  · exact State.onStores_keeps s _ (fun _ h => Memory.wf_writeRow h _ _ _)
@[simp] theorem State.closeSlot_keeps (s : State) (c : CellId) (n slot row : Nat) (tag : Byte) :
    Keeps s (s.closeSlot c n slot row tag) := by
  unfold State.closeSlot
  exact (foldl_keeps (fun s k => State.streamRow_keeps s c n slot _ 0 false) _ s).trans (State.fillSlot_calm _ _ _ _ _).keeps
@[simp] theorem State.closeClaims_keeps (s : State) (c : Cmd) : Keeps s (s.closeClaims c) := by
  unfold State.closeClaims
  exact foldl_keeps (fun s (x : CellId × Nat) => State.closeSlot_keeps s x.1 _ x.2 _ _) _ s
@[simp] theorem State.dropCmd_calm (s : State) (r : Nat) (c : Cmd) : Calm s (s.dropCmd r c) := by
  unfold State.dropCmd
  simp [Calm]
@[simp] theorem State.missOf_calm (s : State) (r h : Nat) : Calm s (s.missOf r h) := by
  unfold State.missOf
  simp [Calm]
@[simp] theorem State.completeCmd_keeps (s : State) (r : Nat) (c : Cmd) (cause : Byte) : Keeps s (s.completeCmd r c cause) := by
  unfold State.completeCmd
  simp +contextual [Keeps]
@[simp] theorem State.endCmd_keeps (s : State) (r : Nat) (c : Cmd) : Keeps s (s.endCmd r c) := by
  unfold State.endCmd
  repeat' split
  all_goals simp +contextual [Keeps]
@[simp] theorem execStreamCommandComplete_goes (r port : Nat) (s : State) : Goes s (execStreamCommandComplete r port s) := by
  unfold execStreamCommandComplete
  simp +contextual [Keeps]
@[simp] theorem State.carried_fold_calm (s : State) (die : Nat) (ts : List (Target × Nat)) (p : Bool) :
    Calm s (ts.foldl (fun (x : Bool × State) t => x.2.carried die t.1.addr x.1) (p, s)).2 := by
  induction ts generalizing s p with
  | nil => exact ⟨rfl, rfl⟩
  | cons t ts ih => exact (State.carried_calm s die t.1.addr p).trans (ih _ _)

@[simp] theorem State.carriedAll_calm (s : State) (die : Nat) (tss : List (List (Target × Nat))) (vs : List (Nat × Bool)) :
    Calm s (s.carriedAll die tss vs).2 := by
  induction tss generalizing s vs with
  | nil => exact ⟨rfl, rfl⟩
  | cons ts tss ih =>
    cases vs with
    | nil => exact ⟨rfl, rfl⟩
    | cons v vs => exact (State.carried_fold_calm s die ts v.2).trans (ih _ _)
@[simp] theorem State.farWrite_keeps (s : State) (die : Nat) (ts : List (Target × Nat)) (v : Nat) (p : Bool) :
    Keeps s (s.farWrite die ts v p) := by
  induction ts generalizing s v with
  | nil => exact ⟨rfl, id⟩
  | cons t ts ih =>
    exact ((State.carried_calm s die t.1.addr p).keeps.trans (State.writeTarget_keeps _ _ _ _ _)).trans (ih _ _)
@[simp] theorem State.nearWrite_keeps (s : State) (r : Nat) (x : Shape) (a v : Nat) (p : Bool) :
    Keeps s (s.nearWrite r x a v p) := by
  have hput : ∀ w q, Keeps s (s.onStores r (fun m => m.nearStore a x.esz w q)) := fun w q =>
    State.onStores_keeps s r (fun _ h => Memory.wf_nearStore h _ _ _ _)
  unfold State.nearWrite
  dsimp only
  split
  · exact hput _ _
  · exact (hput _ _).trans (Calm.keeps ⟨rfl, rfl⟩)
@[simp] theorem State.countStream_calm (s : State) (r p : Nat) (ts : List (Target × Nat)) : Calm s (s.countStream r p ts) := by
  unfold State.countStream
  simp [Calm]
@[simp] theorem State.moved_calm (s : State) (r : Nat) (c : Cmd) (tss : List (List (Target × Nat))) (f : Cmd → Cmd) :
    Calm s (s.moved r c tss f) := by
  unfold State.moved
  simp [Calm]
@[simp] theorem State.holdCmd_calm (s : State) (r : Nat) (c : Cmd) (va : Word) : Calm s (s.holdCmd r c va) := by
  unfold State.holdCmd
  simp [Calm]
@[simp] theorem State.stopCmd_calm (s : State) (r : Nat) (c : Cmd) (cause : Byte) : Calm s (s.stopCmd r c cause) := by
  unfold State.stopCmd
  simp [Calm]
@[simp] theorem State.nearBanks_keeps (s : State) (r : Nat) (c : Cmd) (as : List Nat) {t : State → State}
    (ha : ∀ s, (t s).agenda = s.agenda) (hw : ∀ s, s.mem.wf = true → (t s).mem.wf = true) : Keeps s (s.nearBanks r c as t) := by
  unfold State.nearBanks
  dsimp only
  split <;> simp +contextual [Keeps, ha, hw]
@[simp] theorem State.elemIn_keeps (s : State) (r : Nat) (c : Cmd) (o : Nat) (tss : List (List (Target × Nat))) :
    Keeps s (s.elemIn r c o tss) := by
  unfold State.elemIn
  split
  · exact ⟨rfl, id⟩
  · next vs held _ =>
    have hput : ∀ (s : State) (a : Nat) (us : List (Nat × Bool)), Keeps s
        (if 1 < tss.length && a % 64 = 0 then s.onStores r (fun m => m.writeRow a (packElems64 c.rec_.esz us) (us.any Prod.snd))
          else us.zipIdx.foldl (fun s e => s.nearWrite r c.rec_ (a + c.rec_.esz * e.2) e.1.1 e.1.2) s) := by
      intro s a us
      split
      · exact State.onStores_keeps s r (fun _ h => Memory.wf_writeRow h _ _ _)
      · exact foldl_keeps (fun s (e : (Nat × Bool) × Nat) => State.nearWrite_keeps s r c.rec_ _ _ _) _ s
    have hgo : ∀ s : State, Keeps s (State.moved ((c.rec_.nearAddrs r o).foldl
        (fun t a => if 1 < tss.length && a % 64 = 0 then t.onStores r (fun m => m.writeRow a
          (packElems64 c.rec_.esz (s.carriedAll (regionDie r) tss vs).1) ((s.carriedAll (regionDie r) tss vs).1.any Prod.snd))
          else (s.carriedAll (regionDie r) tss vs).1.zipIdx.foldl
            (fun s e => s.nearWrite r c.rec_ (a + c.rec_.esz * e.2) e.1.1 e.1.2) t)
        (s.carriedAll (regionDie r) tss vs).2) r c tss (Cmd.step tss.length held)) := fun s =>
      ((State.carriedAll_calm s _ tss vs).keeps.trans (foldl_keeps (fun t a => hput t a _) _ _)).trans
        (State.moved_calm _ _ _ _ _).keeps
    exact State.nearBanks_keeps s r c _ (fun t => (hgo t).1) (fun t => (hgo t).2)
@[simp] theorem State.farWrites_keeps (s : State) (r n : Nat) (tss : List (List (Target × Nat))) (vs : List (Nat × Bool)) :
    Keeps s (s.farWrites r n tss vs) := by
  unfold State.farWrites
  split
  · simp +contextual [Keeps, Memory.wf_writeRow]
  · exact foldl_keeps (fun s (e : List (Target × Nat) × Nat × Bool) => State.farWrite_keeps s _ e.1 e.2.1 e.2.2) _ s
@[simp] theorem State.elemOut_keeps (s : State) (r : Nat) (c : Cmd) (o : Nat) (tss : List (List (Target × Nat))) :
    Keeps s (s.elemOut r c o tss) := by
  unfold State.elemOut
  simp +contextual [Keeps]
@[simp] theorem State.elemRingIn_keeps (s : State) (r : Nat) (c : Cmd) (tss : List (List (Target × Nat))) :
    Keeps s (s.elemRingIn r c tss) := by
  unfold State.elemRingIn
  dsimp only
  split
  · split
    · exact Calm.keeps ((foldl_calm (fun s (e : CellId × Ring) => State.setRing_calm s _ _ _) _ s).trans (State.modCmd_calm _ _ _ _))
    · exact ⟨rfl, id⟩
  · split
    · exact ⟨rfl, id⟩
    · next vs held _ =>
      have hcarried := (State.carriedAll_calm s (regionDie r) tss vs).keeps
      split
      · exact hcarried.trans (State.moved_calm _ _ _ _ _).keeps
      · have hrow : ∀ (places : List (CellId × Nat × Nat)) (k : Nat) (row : Row) (p : Bool) (t : State), Keeps t
            (places.foldl (fun s x => if k = 31 then (s.streamRow x.1 c.rec_.ring x.2.1 k row p).fillSlot x.1 c.rec_.ring x.2.1 c.rec_.fmt
              else s.streamRow x.1 c.rec_.ring x.2.1 k row p) t) := by
          intro places k row p t
          refine foldl_keeps (fun s x => ?_) _ t
          split
          · exact (State.streamRow_keeps _ _ _ _ _ _ _).trans (State.fillSlot_calm _ _ _ _ _).keeps
          · exact State.streamRow_keeps _ _ _ _ _ _ _
        refine hcarried.trans (State.nearBanks_keeps _ r c _ (fun t => ?_) (fun t => ?_))
        · exact ((hrow _ _ _ _ t).trans (State.moved_calm _ _ _ _ _).keeps).1
        · exact ((hrow _ _ _ _ t).trans (State.moved_calm _ _ _ _ _).keeps).2
@[simp] theorem State.elemRingOut_keeps (s : State) (r : Nat) (c : Cmd) (tss : List (List (Target × Nat))) :
    Keeps s (s.elemRingOut r c tss) := by
  unfold State.elemRingOut
  dsimp only
  repeat' split
  all_goals simp +contextual [Keeps]
@[simp] theorem State.elemKv_calm (s : State) (r : Nat) (c : Cmd) (ts : List (Target × Nat)) : Calm s (s.elemKv r c ts) := by
  unfold State.elemKv
  dsimp only
  repeat' split
  all_goals simp [Calm]
@[simp] theorem State.elemRemote_calm (s : State) (r : Nat) (c : Cmd) (a : Nat) (ts : List (Target × Nat)) :
    Calm s (s.elemRemote r c a ts) := by
  unfold State.elemRemote
  split <;> simp [Calm]
@[simp] theorem State.elemAt_keeps (s : State) (r : Nat) (c : Cmd) (tss : List (List (Target × Nat))) : Keeps s (s.elemAt r c tss) := by
  unfold State.elemAt
  simp +contextual [Keeps]
@[simp] theorem State.openCmd_calm (s : State) (r : Nat) (c : Cmd) (ts : List (Target × Nat)) : Calm s (s.openCmd r c ts) := by
  unfold State.openCmd
  dsimp only
  split
  · next h => exact (State.openOn_calm h).trans (State.modCmd_calm _ _ _ _)
  · exact ⟨rfl, rfl⟩
@[simp] theorem State.askElem_calm (s : State) (r : Nat) (c : Cmd) (n : Nat) : Calm s (s.askElem r c n) := by
  unfold State.askElem
  simp [Calm]
@[simp] theorem State.walkCmd_calm (s : State) (r : Nat) (c : Cmd) : Calm s (s.walkCmd r c) := by
  unfold State.walkCmd
  simp [Calm]
@[simp] theorem State.streamStep_keeps (s : State) (r : Nat) (c : Cmd) : Keeps s (s.streamStep r c) := by
  unfold State.streamStep
  dsimp only
  repeat' split
  all_goals simp +contextual [Keeps]
@[simp] theorem execStreamElementPerform_goes (r port : Nat) (s : State) : Goes s (execStreamElementPerform r port s) := by
  unfold execStreamElementPerform
  simp +contextual [Keeps]
@[simp] theorem State.walkStream_calm (s : State) (r : Nat) (c : Cmd) : Calm s (s.walkStream r c) := by
  unfold State.walkStream
  dsimp only
  repeat' split
  all_goals simp [Calm]
@[simp] theorem execPageWalkComplete_goes (r port : Nat) (s : State) : Goes s (execPageWalkComplete r port s) := by
  unfold execPageWalkComplete
  split <;> simp +contextual [Keeps]
@[simp] theorem execPromiseMissed_goes (r h : Nat) (s : State) : Goes s (execPromiseMissed r h s) := by
  unfold execPromiseMissed
  dsimp only
  split <;> simp +contextual [Keeps]
@[simp] theorem State.handleTrap_keeps (s : State) (r h : Nat) : Keeps s (s.handleTrap r h) := by
  unfold State.handleTrap
  simp +contextual [Keeps]
@[simp] theorem State.hwaitFull_keeps (s : State) (r h : Nat) : Keeps s (s.hwaitFull r h) := by
  unfold State.hwaitFull
  simp +contextual [Keeps]
@[simp] theorem execHwait_goes (h : BitVec 8) (s : State) : Goes s (execHwait h s) := by
  unfold execHwait
  dsimp only
  split <;> simp +contextual [Keeps]
@[simp] theorem execHqry_goes (d : BitVec 5) (h : BitVec 8) (s : State) : Goes s (execHqry d h s) := by
  unfold execHqry
  simp +contextual [Keeps]
@[simp] theorem execHdrain_goes (h : BitVec 8) (s : State) : Goes s (execHdrain h s) := by
  unfold execHdrain
  dsimp only
  split <;> simp +contextual [Keeps]
@[simp] theorem execHfree_goes (h : BitVec 8) (s : State) : Goes s (execHfree h s) := by
  unfold execHfree
  dsimp only
  split <;> simp +contextual [Keeps]
@[simp] theorem execHcancel_goes (h : BitVec 8) (s : State) : Goes s (execHcancel h s) := by
  unfold execHcancel
  dsimp only
  repeat' split
  all_goals simp +contextual [Keeps]


/-! PROOFS. What image checks and loading keep of the agenda and of memory's form. -/

@[simp] theorem State.unfused_calm (s : State) : Calm s s.unfused := by
  unfold State.unfused
  simp [Calm]
@[simp] theorem State.dropContexts_calm (s : State) (id : Nat) : Calm s (s.dropContexts id) := by
  unfold State.dropContexts
  simp [Calm]
@[simp] theorem State.vacate_calm (s : State) (id : Nat) (rs : List Nat) : Calm s (s.vacate id rs) := by
  unfold State.vacate
  refine Calm.trans ?_ (foldl_calm (fun s r => State.modRegion_calm s r _) _ _)
  simp [Calm]
@[simp] theorem State.openCtx_calm (s : State) (id l : Nat) (dir : Bool) (lo n target : Nat) :
    Calm s (s.openCtx id l dir lo n target).2 := by
  unfold State.openCtx
  split <;> simp [Calm]
@[simp] theorem State.openHops_calm (s : State) (id : Nat) (u : UnitId) (i : Nat) (ls : List (Nat × Bool)) :
    Calm s (s.openHops id u i ls).2 := by
  induction ls generalizing s with
  | nil => exact ⟨rfl, rfl⟩
  | cons l ls ih => exact (State.openCtx_calm s id l.1 l.2 0 128 _).trans (ih _)
@[simp] theorem State.addRoute_calm (s : State) (id : Nat) (b : Branch) : Calm s (s.addRoute id b).2 := by
  unfold State.addRoute
  simp [Calm]
@[simp] theorem State.layBranch_calm (s : State) (id : Nat) (b : Branch) : Calm s (s.layBranch id b) := by
  unfold State.layBranch
  simp [Calm]
@[simp] theorem State.bindPhase_calm (s : State) (id r n : Nat) : Calm s (s.bindPhase id r n) := by
  unfold State.bindPhase
  split
  · exact ⟨rfl, rfl⟩
  · refine Calm.trans (t := { s with wires := _ }) ⟨rfl, rfl⟩ (foldl_calm (fun s t => ?_) _ _)
    exact ⟨rfl, rfl⟩
@[simp] theorem State.layPipe_calm (s : State) (id o : Nat) (p : ImgEnd × Nat × Bool) : Calm s (s.layPipe id o p) := by
  unfold State.layPipe
  simp [Calm]
@[simp] theorem State.layStart_calm (s : State) (o : Nat) (e : ImgEnd) : Calm s (s.layStart o e) := by
  unfold State.layStart
  simp [Calm]
@[simp] theorem State.layRings_keeps (s : State) (c : CellId) (dataP off : Nat) (gs : List ImgRing) :
    Keeps s (s.layRings c dataP off gs) := by
  induction gs generalizing s off with
  | nil => exact ⟨rfl, id⟩
  | cons g gs ih =>
    unfold State.layRings
    dsimp only
    split
    · exact (State.setRing_calm _ _ _ _).keeps.trans (ih _ _)
    · refine Keeps.trans ?_ (ih _ _)
      exact ⟨rfl, fun h => Memory.wf_foldl (fun _ _ hm => Memory.wf_writeRow hm _ _ _) _ h⟩
@[simp] theorem State.layCells_keeps (s : State) (m : Image) (o r : Nat) : Keeps s (s.layCells m o r) := by
  unfold State.layCells
  exact foldl_keeps (fun s c => State.layRings_keeps s _ _ _ _) _ s
@[simp] theorem State.layPair_calm (s : State) (id o : Nat) (p : ImgPair) : Calm s (s.layPair id o p) := by
  unfold State.layPair
  split <;> simp [Calm]
@[simp] theorem State.zeroStores_keeps (s : State) (r : Nat) : Keeps s (s.zeroStores r) :=
  ⟨rfl, fun h => Memory.wf_filter h _ _⟩
@[simp] theorem State.ungate_keeps (s : State) (r : Nat) : Keeps s (s.ungate r) := by
  unfold State.ungate
  simp +contextual [Keeps]
@[simp] theorem State.primeInput_calm (s : State) (u : UnitId) (tag : Byte) (params : List Word) (p : Nat × List PrimeVal) :
    Calm s (s.primeInput u tag params p) := by
  unfold State.primeInput
  simp [Calm]
@[simp] theorem State.enterUnit_calm (s : State) (k : UnitId) (tag : Byte) (params : List Word) (u : ImgUnit) :
    Calm s (s.enterUnit k tag params u) := by
  unfold State.enterUnit
  simp [Calm]
@[simp] theorem State.discardTag_calm (s : State) (r : Nat) (t : Byte) : Calm s (s.discardTag r t) := by
  unfold State.discardTag
  simp [Calm]
@[simp] theorem State.enterPhase_keeps (s : State) (p : Placement) (r n : Nat) : Keeps s (s.enterPhase p r n) := by
  unfold State.enterPhase
  refine Keeps.trans ?_ (foldl_keeps (fun s u => ?_) _ _)
  · dsimp only
    split <;> simp +contextual [Keeps]
  · split <;> simp +contextual [Keeps]
/-- Memory rewritten by something that keeps its form. -/
theorem Keeps.setMem {s t : State} (f : Memory → Memory) (h : Keeps s t) (hf : ∀ m, m.wf = true → (f m).wf = true) :
    Keeps s { t with mem := f t.mem } := ⟨h.1, fun w => hf _ (h.2 w)⟩

@[simp] theorem State.placeAt_keeps (s : State) (id o : Nat) (m : Image) (base : Byte) (params : List Word) (rs : List Nat) :
    Keeps s (s.placeAt id o m base params rs) := by
  unfold State.placeAt
  refine Keeps.trans ?_ (foldl_keeps (fun s r => State.enterPhase_keeps s _ r 0) _ _)
  refine Keeps.trans ?_ (foldl_keeps (fun s q => (State.layPair_calm s id o q).keeps) _ _)
  refine Keeps.trans ?_ (foldl_keeps (fun s e => (State.layStart_calm s o e).keeps) _ _)
  refine Keeps.trans ?_ (foldl_keeps (fun s e => (State.layPipe_calm s id o e).keeps) _ _)
  refine Keeps.trans ?_ (foldl_keeps (fun s b => (State.layBranch_calm s id b).keeps) _ _)
  refine Keeps.trans ?_ (foldl_keeps (fun s r => State.layCells_keeps s m o r) _ _)
  refine Keeps.setMem (fun mm => (List.range m.shapes.length).foldl (fun mm k =>
    (mm.writeBytes (rstoreBase o + 64 * k) (m.shapeBytes params k)).poisonWords (rstoreBase o + 64 * k) false 8) mm) ?_
    (fun mm h => Memory.wf_foldl (fun _ _ hm => Memory.wf_poisonWords (Memory.wf_writeBytes hm _ _) _ _ _) _ h)
  refine Keeps.trans ?_ (State.setPlacement_calm _ _ _).keeps
  refine Keeps.trans ?_ (foldl_keeps (fun s (e : Nat × Region) => (State.setRegion_calm s e.1 _).keeps) _ _)
  refine Keeps.trans ?_ (State.vacate_calm _ _ _).keeps
  refine Keeps.trans ?_ (foldl_keeps (fun s r => State.ungate_keeps s r) _ _)
  split <;> exact ⟨rfl, fun h => h⟩
@[simp] theorem execPhaseEnd_goes (r : Nat) (s : State) : Goes s (execPhaseEnd r s) := by
  unfold execPhaseEnd
  dsimp only
  repeat' split
  all_goals simp +contextual [Keeps]
@[simp] theorem execBankFetch_goes (u : UnitId) (b : Nat) (s : State) : Goes s (execBankFetch u b s) := by
  unfold execBankFetch
  split <;> simp +contextual [Keeps]
@[simp] theorem execBankFill_goes (u : UnitId) (b : Nat) (s : State) : Goes s (execBankFill u b s) := by
  unfold execBankFill
  dsimp only
  repeat' split
  all_goals simp +contextual [Keeps]


/-! PROOFS. What freezes and drains keep of the agenda and of memory's form. -/

@[simp] theorem State.unseat_calm (s : State) (id : Nat) : Calm s (s.unseat id) := by
  unfold State.unseat
  simp [Calm]
@[simp] theorem execFreezeWave_goes (r : Nat) (s : State) : Goes s (execFreezeWave r s) := by
  unfold execFreezeWave
  repeat' split
  all_goals simp +contextual [Keeps]
@[simp] theorem State.swapOut_calm (s : State) (id : Nat) (p : Placement) : Calm s (s.swapOut id p) := by
  unfold State.swapOut
  have hback : ∀ t : State, Calm s t → Calm s
      ((p.regions.map (fun r => (r, s.region r))).foldl (fun s x => s.setRegion x.1 (x.2.swapped id)) t) := fun t h =>
    h.trans (foldl_calm (fun s (x : Nat × Region) => State.setRegion_calm s x.1 _) _ t)
  dsimp only
  split
  · exact hback _ (by simp [Calm])
  · refine Calm.trans (hback _ ?_) ⟨rfl, rfl⟩
    simp [Calm]
@[simp] theorem State.finishPreempt_calm (s : State) : Calm s s.finishPreempt := by
  unfold State.finishPreempt
  repeat' split
  all_goals simp [Calm]
theorem writeHeader_wf {m : Memory} (h : m.wf = true) (a n : Nat) (may : Nat → Bool) (ws : List (Nat × Nat × Nat)) :
    (writeHeader m a n may ws).wf = true := by
  unfold writeHeader
  refine Memory.wf_poisonWords (Memory.wf_foldl (fun _ _ hm => Memory.wf_writeNat hm _ _ _) _
    (Memory.wf_foldl (fun m i hm => ?_) _ h)) _ _ _
  split
  · exact Memory.wf_setByte hm _ _
  · exact hm

@[simp] theorem State.release401_keeps (s : State) (r : Nat) (f : FreezeSt) : Keeps s (s.release401 r f) := by
  unfold State.release401
  dsimp only
  refine Keeps.trans ?_ (State.modRegion_calm _ _ _).keeps
  split
  · split <;> simp +contextual [Keeps, writeHeader_wf]
  · simp [Keeps]
@[simp] theorem execFreezeReadoutComplete_goes (r : Nat) (s : State) : Goes s (execFreezeReadoutComplete r s) := by
  unfold execFreezeReadoutComplete
  repeat' split
  all_goals simp +contextual [Keeps]
@[simp] theorem State.putStores_keeps (s : State) (f : FImage) (r : Nat) (cells : List Host.Cell) : Keeps s (s.putStores f r cells) :=
  ⟨rfl, fun h => Memory.wf_foldl (fun _ _ hm => Memory.wf_setPoison hm _ _) _
    (Memory.wf_foldl (fun _ _ hm => Memory.wf_setByte hm _ _) _ (Memory.wf_filter h _ _))⟩
@[simp] theorem State.holdAgain_calm (s : State) (r : Nat) : Calm s (s.holdAgain r) := by
  unfold State.holdAgain
  refine foldl_calm (fun s x => ?_) _ _
  split <;> simp [Calm]
@[simp] theorem State.putUnits_calm (s : State) (f : FImage) (r : Nat) : Calm s (s.putUnits f r) := by
  unfold State.putUnits
  simp [Calm]
@[simp] theorem State.putChanHere_calm (s : State) (r : Nat) (e : Sink × Chan) : Calm s (s.putChanHere r e) := by
  unfold State.putChanHere
  simp [Calm]
@[simp] theorem State.moveRoutes_calm (s : State) (src id a b : Nat) : Calm s (s.moveRoutes src id a b) := by
  unfold State.moveRoutes
  dsimp only
  split
  · refine Calm.trans ((foldl_calm (fun s (t : Route) => State.closeCtxs_calm s t.hops) _ s).trans (State.setPlacement_calm _ _ _))
      (foldl_calm (fun s t => ?_) _ _)
    split <;> simp [Calm]
  · exact ⟨rfl, rfl⟩
@[simp] theorem State.onRoute_calm (s : State) (id : Nat) (k : Sink) : Calm s (s.onRoute id k) := by
  unfold State.onRoute
  repeat' split
  all_goals simp [Calm]
@[simp] theorem State.putChanMoved_calm (s : State) (id a b : Nat) (e : Sink × Chan) : Calm s (s.putChanMoved id a b e) := by
  unfold State.putChanMoved
  dsimp only
  repeat' split
  all_goals simp [Calm]
@[simp] theorem State.reopenPair_calm (s : State) (id k : Nat) : Calm s (s.reopenPair id k) := by
  unfold State.reopenPair
  dsimp only
  repeat' split
  all_goals simp [Calm]
@[simp] theorem State.closePair_calm (s : State) (x : Pair) : Calm s (s.closePair x) := by
  unfold State.closePair
  simp [Calm]
@[simp] theorem State.putPairs_calm (s : State) (f : FImage) (r : Nat) : Calm s (s.putPairs f r) := by
  unfold State.putPairs
  refine foldl_calm (fun s x => ?_) _ _
  dsimp only
  split <;> simp [Calm]
@[simp] theorem State.carryHandles_calm (s : State) (f : FImage) (r : Nat) : Calm s (s.carryHandles f r).2 := by
  unfold State.carryHandles
  dsimp only
  split <;> simp [Calm]
@[simp] theorem State.restoreHere_keeps (s : State) (f : FImage) (r : Nat) (core : Bool) : Keeps s (s.restoreHere f r core) := by
  unfold State.restoreHere
  simp +contextual [Keeps]
@[simp] theorem State.moveAcks_calm (s : State) (f : FImage) (r : Nat) : Calm s (s.moveAcks f r) := by
  unfold State.moveAcks
  split
  · exact ⟨rfl, rfl⟩
  · refine foldl_calm (fun s n => ?_) _ _
    split <;> simp [Calm]
@[simp] theorem State.restoreMoved_keeps (s : State) (f : FImage) (r : Nat) (core : Bool) : Keeps s (s.restoreMoved f r core) := by
  unfold State.restoreMoved
  simp +contextual [Keeps]
@[simp] theorem State.restoreDrain_keeps (s : State) (p : Placement) (f : FImage) (r : Nat) (launch : Option Nat) (core : Bool) (hs : Map Nat Handle) (notices : List Notice) :
    Keeps s (s.restoreDrain p f r launch core hs notices) := by
  unfold State.restoreDrain
  simp +contextual [Keeps]
@[simp] theorem State.emptied_calm (s : State) (r : Nat) : Calm s (s.emptied r) := by
  unfold State.emptied
  simp [Calm]
@[simp] theorem State.thawDrain_keeps (s : State) (f : FImage) (r : Nat) (core : Bool) : Keeps s (s.thawDrain f r core) := by
  unfold State.thawDrain
  split <;> simp +contextual [Keeps]
@[simp] theorem State.restore_keeps (s : State) (f : FImage) (r : Nat) (core : Bool) : Keeps s (s.restore f r core) := by
  unfold State.restore
  simp +contextual [Keeps]
@[simp] theorem execFreeze_goes (a : BitVec 5) (s : State) : Goes s (execFreeze a s) := by
  unfold execFreeze
  dsimp only
  repeat' split
  all_goals simp +contextual [Keeps]
@[simp] theorem execThaw_goes (a : BitVec 5) (s : State) : Goes s (execThaw a s) := by
  unfold execThaw
  dsimp only
  repeat' split
  all_goals simp +contextual [Keeps]
@[simp] theorem execResume_goes (a : BitVec 5) (s : State) : Goes s (execResume a s) := by
  unfold execResume
  simp +contextual [Keeps]
@[simp] theorem execHubRestore_goes (addr r : Nat) (s : State) : Goes s (execHubRestore addr r s) := by
  unfold execHubRestore
  repeat' split
  all_goals simp +contextual [Keeps]
@[simp] theorem execDrainStart_goes (r : Nat) (s : State) : Goes s (execDrainStart r s) := by
  unfold execDrainStart
  dsimp only
  repeat' split
  all_goals simp +contextual [Keeps]
@[simp] theorem execDrainComplete_goes (r : Nat) (s : State) : Goes s (execDrainComplete r s) := by
  unfold execDrainComplete
  dsimp only
  repeat' split
  all_goals simp +contextual [Keeps]
@[simp] theorem execDrainTimeout_goes (r : Nat) (s : State) : Goes s (execDrainTimeout r s) := by
  unfold execDrainTimeout
  dsimp only
  repeat' split
  all_goals simp +contextual [Keeps]
@[simp] theorem State.backWhole_keeps (s : State) (id r : Nat) (f : FImage) (old : Region) : Keeps s (s.backWhole id r f old) := by
  unfold State.backWhole
  dsimp only
  refine Keeps.trans ?_ (State.holdAgain_calm _ _).keeps
  refine Keeps.trans ?_ (foldl_keeps (fun s x => ?_) _ _)
  · simp +contextual [Keeps]
  · repeat' split
    all_goals simp [Keeps]
@[simp] theorem State.backDrained_keeps (s : State) (id r : Nat) (p : Placement) (f : FImage) (old : Region) :
    Keeps s (s.backDrained id r p f old) := by
  unfold State.backDrained
  simp +contextual [Keeps]
@[simp] theorem State.restoreLaunch_keeps (s : State) (id : Nat) (p : Placement) : Keeps s (s.restoreLaunch id p) := by
  unfold State.restoreLaunch
  refine Keeps.trans ?_ (Calm.keeps ⟨rfl, rfl⟩)
  refine Keeps.trans ?_ (foldl_keeps (fun s (x : Nat × Region × Nat × FImage) => foldl_keeps (fun s (e : Nat × Pair) => ?_) _ s) _ _)
  refine Keeps.trans ?_ (foldl_keeps (fun s (x : Nat × Region × Nat × FImage) => foldl_keeps (fun s (e : Nat × Pair) => ?_) _ s) _ _)
  refine Keeps.trans ?_ (foldl_keeps (fun s (x : Nat × Region × Nat × FImage) => ?_) _ _)
  refine Keeps.trans ?_ (foldl_keeps (fun s (x : Nat × Region × Nat × FImage) => (State.bindPhase_calm s id x.1 _).keeps) _ _)
  refine Keeps.trans ?_ (foldl_keeps (fun s e => (State.layStart_calm s p.origin e).keeps) _ _)
  refine Keeps.trans ?_ (foldl_keeps (fun s e => (State.layPipe_calm s id p.origin e).keeps) _ _)
  refine Keeps.trans ?_ (foldl_keeps (fun s b => (State.layBranch_calm s id b).keeps) _ _)
  refine Keeps.trans ?_ (State.setPlacement_calm _ _ _).keeps
  refine Keeps.trans ?_ (foldl_keeps (fun s r => (State.modRegion_calm s r _).keeps) _ _)
  refine Keeps.trans ?_ (State.vacate_calm _ _ _).keeps
  · exact foldl_keeps (fun s r => State.ungate_keeps s r) _ _
  · split <;> simp +contextual [Keeps]
  · split <;> simp [Keeps]
  · split <;> simp [Keeps]


/-! PROOFS. What the scheduler keeps of the agenda and of memory's form. -/

@[simp] theorem State.enqueueLaunch_calm (s : State) (prio : Nat) (c : LaunchRec) (region : Option Nat) :
    Calm s (s.enqueueLaunch prio c region).2 := by
  unfold State.enqueueLaunch
  simp [Calm]
@[simp] theorem State.refreshLaunches_calm (s : State) : Calm s s.refreshLaunches := by
  unfold State.refreshLaunches
  simp [Calm]
@[simp] theorem execLaunch_goes (d a : BitVec 5) (prio : BitVec 2) (s : State) : Goes s (execLaunch d a prio s) := by
  unfold execLaunch
  dsimp only
  repeat' split
  all_goals simp +contextual [Keeps]
@[simp] theorem State.dropParked_calm (s : State) (id : Nat) : Calm s (s.dropParked id) := by
  unfold State.dropParked
  simp [Calm]
@[simp] theorem State.finish_calm (s : State) (id : Nat) (l : Launch) (cause sub : Byte) (place dropped cycles : Nat) :
    Calm s (s.finish id l cause sub place dropped cycles) := by
  unfold State.finish
  simp [Calm]
@[simp] theorem execCompletionRecordWrite_goes (id : Nat) (s : State) : Goes s (execCompletionRecordWrite id s) := by
  unfold execCompletionRecordWrite
  dsimp only
  repeat' split
  all_goals simp +contextual [Keeps, Memory.wf_poisonWords, Memory.wf_putWords]
@[simp] theorem execPlacementComplete_goes (id : Nat) (s : State) : Goes s (execPlacementComplete id s) := by
  unfold execPlacementComplete
  dsimp only
  repeat' split
  all_goals simp +contextual [Keeps]
@[simp] theorem State.dropLaunch_calm (s : State) (id : Nat) : Calm s (s.dropLaunch id) := by
  unfold State.dropLaunch
  simp [Calm]
@[simp] theorem State.consider_calm (s : State) (id : Nat) : Calm s (s.consider id) := by
  unfold State.consider
  repeat' split
  all_goals simp [Calm]
@[simp] theorem State.placeLaunch_keeps (s : State) (id : Nat) (l : Launch) (o : Nat) : Keeps s (s.placeLaunch id l o) := by
  unfold State.placeLaunch
  repeat' split
  all_goals simp +contextual [Keeps]
@[simp] theorem State.placeFirst_keeps (s : State) (ids : List Nat) : Keeps s (s.placeFirst ids) := by
  induction ids generalizing s with
  | nil => exact ⟨rfl, id⟩
  | cons id ids ih =>
    unfold State.placeFirst
    repeat' split
    all_goals simp +contextual [Keeps, ih]
@[simp] theorem execScheduleDecision_goes (s : State) : Goes s (execScheduleDecision s) := by
  unfold execScheduleDecision
  dsimp only
  split <;> simp +contextual [Keeps]
@[simp] theorem execAgelimPromotion_goes (id : Nat) (s : State) : Goes s (execAgelimPromotion id s) := by
  unfold execAgelimPromotion
  dsimp only
  repeat' split
  all_goals simp +contextual [Keeps]
@[simp] theorem execPreemption_goes (s : State) : Goes s (execPreemption s) := by
  unfold execPreemption
  split <;> simp +contextual [Keeps]
@[simp] theorem execWatchdogExpiry_goes (r : Nat) (s : State) : Goes s (execWatchdogExpiry r s) := by
  unfold execWatchdogExpiry
  dsimp only
  split <;> simp +contextual [Keeps]
@[simp] theorem execPflimitFreeze_goes (r port : Nat) (s : State) : Goes s (execPflimitFreeze r port s) := by
  unfold execPflimitFreeze
  dsimp only
  repeat' split
  all_goals simp +contextual [Keeps]
@[simp] theorem execMsend_goes (d a b : BitVec 5) (nak : Bool) (s : State) : Goes s (execMsend d a b nak s) := by
  unfold execMsend
  rw [goes_next]
  have hand : ∀ {t : State}, Keeps s t → Keeps s (s.using s.site.region [a, b] t) := fun h =>
    State.using_keeps _ _ h.1 h.2
  refine hand ?_
  dsimp only
  repeat' split
  all_goals simp +contextual [Keeps]
@[simp] theorem State.deliver_calm (s : State) (id : Nat) (p : Placement) (m : Msg) : Calm s (s.deliver id p m) := by
  unfold State.deliver
  simp [Calm]
@[simp] theorem State.toHost_calm (s : State) (m : Msg) : Calm s (s.toHost m).2 := by
  unfold State.toHost
  dsimp only
  split <;> simp [Calm]
@[simp] theorem State.route_calm (s : State) (m : Msg) (g : Nat) : Calm s (s.route m g).2 := by
  unfold State.route
  dsimp only
  repeat' split
  all_goals simp [Calm]
@[simp] theorem execMessageRoute_goes (s : State) : Goes s (execMessageRoute s) := by
  unfold execMessageRoute
  dsimp only
  repeat' split
  all_goals simp +contextual [Keeps]
@[simp] theorem execParkedMessageDeliver_goes (id : Nat) (s : State) : Goes s (execParkedMessageDeliver id s) := by
  unfold execParkedMessageDeliver
  repeat' split
  all_goals simp +contextual [Keeps]
@[simp] theorem State.takeMsg_keeps (s : State) (r : Nat) (d : BitVec 5) (t : Target) : Keeps s (s.takeMsg r d t) := by
  unfold State.takeMsg
  dsimp only
  repeat' split
  all_goals simp +contextual [Keeps, Memory.wf_poisonWords, Memory.wf_writeBytes]
@[simp] theorem State.mrecvNow_keeps (s : State) (r : Nat) (d : BitVec 5) (A : Word) : Keeps s (s.mrecvNow r d A) := by
  unfold State.mrecvNow
  split <;> simp +contextual [Keeps]
@[simp] theorem execMrecv_goes (d a : BitVec 5) (wait : Bool) (s : State) : Goes s (execMrecv d a wait s) := by
  unfold execMrecv
  dsimp only
  repeat' split
  all_goals simp +contextual [Keeps]
@[simp] theorem execWaitComplete_goes (r : Nat) (s : State) : Goes s (execWaitComplete r s) := by
  unfold execWaitComplete
  dsimp only
  repeat' split
  all_goals simp +contextual [Keeps]


/-! PROOFS. What the host's accesses and ingest keep of the agenda and of memory's form. -/

@[simp] theorem State.hostError_calm (s : State) : Calm s s.hostError := by
  unfold State.hostError
  simp [Calm]
@[simp] theorem State.hostRetry_calm (s : State) : Calm s s.hostRetry := by
  unfold State.hostRetry
  simp [Calm]
@[simp] theorem State.toHostMem_calm (s : State) (a : Nat) (bs : List Byte) : Calm s (s.toHostMem a bs) := by
  unfold State.toHostMem
  simp [Calm]
@[simp] theorem execHostLaunchWrite_goes (prio : Via Nat) (wellFormed : Bool) (record idAddr : Nat) (s : State) :
    Goes s (execHostLaunchWrite prio wellFormed record idAddr s) := by
  unfold execHostLaunchWrite
  dsimp only
  repeat' split
  all_goals simp +contextual [Keeps]
@[simp] theorem execLaunchCancel_goes (wellFormed : Bool) (id : Via Nat) (s : State) : Goes s (execLaunchCancel wellFormed id s) := by
  unfold execLaunchCancel
  repeat' split
  all_goals simp +contextual [Keeps]
@[simp] theorem execHostMessageWrite_goes (msg : List Word) (dest : Via Nat) (status : Nat) (s : State) :
    Goes s (execHostMessageWrite msg dest status s) := by
  unfold execHostMessageWrite
  repeat' split
  all_goals simp +contextual [Keeps]
@[simp] theorem State.hubStore_keeps (s : State) (a : Nat) (bs : List Byte) : Keeps s (s.hubStore a bs) := by
  unfold State.hubStore
  dsimp only
  split <;> simp +contextual [Keeps, Memory.wf_poisonWords, Memory.wf_hostStore]
@[simp] theorem State.hostWrite_keeps (s : State) (a : Nat) (bs : List Byte) : Keeps s (s.hostWrite a bs) := by
  unfold State.hostWrite
  simp +contextual [Keeps]
@[simp] theorem execHostBar2Access_goes (write : Bool) (off : Via Nat) (size : Nat) (data : List Byte) (s : State) :
    Goes s (execHostBar2Access write off size data s) := by
  unfold execHostBar2Access
  dsimp only
  repeat' split
  all_goals simp +contextual [Keeps]
@[simp] theorem execPortResumeWrite_goes (r : Via Nat) (n : Nat) (s : State) : Goes s (execPortResumeWrite r n s) := by
  unfold execPortResumeWrite
  split <;> simp +contextual [Keeps]
@[simp] theorem execTranslationInvalidate_goes (r : Via Nat) (s : State) : Goes s (execTranslationInvalidate r s) := by
  unfold execTranslationInvalidate
  split <;> simp +contextual [Keeps]
@[simp] theorem State.writeLimits_calm (s : State) (k : Nat) (v : Word) : Calm s (s.writeLimits k v) := by
  unfold State.writeLimits
  split
  case h_2 => exact foldl_calm (fun s r => State.modRegion_calm s r _) _ s
  all_goals simp [Calm]
@[simp] theorem State.writeRegionReg_keeps (s : State) (r k : Nat) (v : Word) : Keeps s (s.writeRegionReg r k v) := by
  unfold State.writeRegionReg
  split <;> simp +contextual [Keeps]
@[simp] theorem State.writeReg_keeps (s : State) (off : Nat) (v : Word) : Keeps s (s.writeReg off v) := by
  unfold State.writeReg
  repeat' split
  all_goals simp +contextual [Keeps]
@[simp] theorem State.writeHalf_keeps (s : State) (fn off : Nat) (v : Word) : Keeps s (s.writeHalf fn off v) := by
  unfold State.writeHalf
  simp +contextual [Keeps]
@[simp] theorem execRegisterWrite_goes (off : Via BarPlace) (v : Word) (s : State) : Goes s (execRegisterWrite off v s) := by
  unfold execRegisterWrite
  dsimp only
  repeat' split
  all_goals simp +contextual [Keeps]
@[simp] theorem execIngestDescriptor_goes (d : Via IngestDesc) (s : State) : Goes s (execIngestDescriptor d s) := by
  unfold execIngestDescriptor
  repeat' split
  all_goals simp +contextual [Keeps]
@[simp] theorem execIngestComplete_goes (s : State) : Goes s (execIngestComplete s) := by
  unfold execIngestComplete
  repeat' split
  all_goals simp +contextual [Keeps]
@[simp] theorem execCheckpointDescriptor_goes (d : Via CheckpointDesc) (s : State) : Goes s (execCheckpointDescriptor d s) := by
  unfold execCheckpointDescriptor
  split <;> simp +contextual [Keeps]
@[simp] theorem State.copyLine_calm (s : State) (d : CheckpointDesc) (k a : Nat) : Calm s (s.copyLine d k a) := by
  unfold State.copyLine
  simp [Calm]
@[simp] theorem execCheckpointCopy_goes (s : State) : Goes s (execCheckpointCopy s) := by
  unfold execCheckpointCopy
  dsimp only
  repeat' split
  all_goals simp +contextual [Keeps]


/-! PROOFS. What the enclave keeps of the agenda and of memory's form. -/

@[simp] theorem State.extend_calm (s : State) (k : Fin 8) (d : List Byte) : Calm s (s.extend k d) := by
  unfold State.extend
  simp [Calm]
theorem State.fused_agenda (s : State) : s.fused.agenda = [] := rfl
theorem State.fused_wf (s : State) : s.fused.mem.wf = true := reset_memory_wf
/-- An outcome that goes on with the agenda as before or, where the module starts anew, empty. -/
def Runs (s : State) (o : Host.Outcome State Fault Refusal) : Prop :=
  ∃ t, o = .next t ∧ (t.agenda = s.agenda ∨ t.agenda = []) ∧ (s.mem.wf = true → t.mem.wf = true)

theorem Goes.runs {s : State} {o : Host.Outcome State Fault Refusal} (h : Goes s o) : Runs s o :=
  let ⟨t, ht, ha, hw⟩ := h
  ⟨t, ht, .inl ha, hw⟩

theorem execFunctionLevelReset_runs (s : State) : Runs s (execFunctionLevelReset s) := by
  unfold execFunctionLevelReset
  split
  · exact ⟨s, rfl, .inl rfl, id⟩
  · exact ⟨_, rfl, .inr s.fused_agenda, fun _ => s.fused_wf⟩
theorem execPowerRemoval_runs (s : State) : Runs s (execPowerRemoval s) :=
  ⟨_, rfl, .inr s.fused_agenda, fun _ => s.fused_wf⟩
@[simp] theorem execPowerOn_goes (s : State) : Goes s (execPowerOn s) := by
  unfold execPowerOn
  simp +contextual [Keeps]
@[simp] theorem State.bringupFails_calm (s : State) (cause : Byte) : Calm s (s.bringupFails cause) := by
  unfold State.bringupFails
  simp [Calm]
@[simp] theorem State.verifyFirmware_calm (s : State) : Calm s s.verifyFirmware := by
  unfold State.verifyFirmware
  simp [Calm]
@[simp] theorem State.bringupDone_keeps (s : State) : Keeps s (s.bringupDone) := by
  unfold State.bringupDone
  dsimp only
  split <;> simp +contextual [Keeps, Memory.wf_zeroDram]
@[simp] theorem execBringupPhaseComplete_goes (s : State) : Goes s (execBringupPhaseComplete s) := by
  unfold execBringupPhaseComplete
  dsimp only
  repeat' split
  all_goals simp +contextual [Keeps]
@[simp] theorem execEnclaveUncorrectableError_goes (s : State) : Goes s (execEnclaveUncorrectableError s) := by
  unfold execEnclaveUncorrectableError
  split <;> simp +contextual [Keeps]
@[simp] theorem State.dropKeys_calm (s : State) : Calm s s.dropKeys := by
  unfold State.dropKeys
  simp [Calm]
@[simp] theorem State.levelNone_calm (s : State) : Calm s s.levelNone := by
  unfold State.levelNone
  simp [Calm]
@[simp] theorem State.gate1_calm (s : State) (rs : List Nat) : Calm s (s.gate1 rs) := by
  unfold State.gate1
  exact (foldl_calm (fun s r => State.modRegion_calm s r _) rs s).trans (State.modEnc_calm _ _)
@[simp] theorem State.sleep_calm (s : State) : Calm s s.sleep := by
  unfold State.sleep
  simp [Calm]
@[simp] theorem State.ungateAll_keeps (s : State) : Keeps s s.ungateAll := by
  unfold State.ungateAll
  simp +contextual [Keeps]
@[simp] theorem State.wake_keeps (s : State) : Keeps s (s.wake) := by
  unfold State.wake
  simp +contextual [Keeps, Memory.wf_onlyDram]
@[simp] theorem execPowerStateRequest_goes (target : PowerTarget) (s : State) : Goes s (execPowerStateRequest target s) := by
  unfold execPowerStateRequest
  repeat' split
  all_goals simp +contextual [Keeps]
@[simp] theorem execDebugToken_goes (t : DebugTok) (s : State) : Goes s (execDebugToken t s) := by
  unfold execDebugToken
  repeat' split
  all_goals simp +contextual [Keeps]
@[simp] theorem execDebugLevelLower_goes (s : State) : Goes s (execDebugLevelLower s) := by
  unfold execDebugLevelLower
  split <;> simp +contextual [Keeps]
@[simp] theorem execLifecycleTransfer_goes (digest : BitVec 256) (sig : List Byte) (s : State) :
    Goes s (execLifecycleTransfer digest sig s) := by
  unfold execLifecycleTransfer
  split <;> simp +contextual [Keeps]
@[simp] theorem State.zeroAll_keeps (s : State) : Keeps s s.zeroAll := by
  unfold State.zeroAll
  simp +contextual [Keeps]
@[simp] theorem execLifecycleRelease_goes (ownerSig vendorSig : List Byte) (s : State) :
    Goes s (execLifecycleRelease ownerSig vendorSig s) := by
  unfold execLifecycleRelease
  dsimp only
  repeat' split
  all_goals simp +contextual [Keeps]
@[simp] theorem execGetMeasurements_goes (nonce : BitVec 256) (s : State) : Goes s (execGetMeasurements nonce s) := by
  unfold execGetMeasurements
  split <;> simp +contextual [Keeps]
@[simp] theorem execGetCertificate_goes (s : State) : Goes s (execGetCertificate s) := by
  unfold execGetCertificate
  split <;> simp +contextual [Keeps]
@[simp] theorem execSpdmSession_goes (fn : Nat) (s : State) : Goes s (execSpdmSession fn s) := by
  unfold execSpdmSession
  split <;> simp +contextual [Keeps]
@[simp] theorem execIdeKm_goes (fn : Nat) (key : BitVec 256) (s : State) : Goes s (execIdeKm fn key s) := by
  unfold execIdeKm
  split <;> simp +contextual [Keeps]
@[simp] theorem State.remoteReduce_keeps (s : State) (loc op : Nat) (fmt : BitVec 4) (x : Word) : Keeps s (s.remoteReduce loc op fmt x) := by
  unfold State.remoteReduce
  dsimp only
  split
  · have hput : ∀ (t : State) (r a n w : Nat) (p : Bool), Keeps t (t.onStores r (fun m => m.nearStore a n w p)) :=
      fun t r a n w p => State.onStores_keeps t r (fun _ h => Memory.wf_nearStore h _ _ _ _)
    refine Keeps.trans ?_ (State.echo_calm _ _).keeps
    refine Keeps.trans ?_ (State.orFlags_calm _ _ _).keeps
    exact Keeps.trans (t := s.takeFree.2) ⟨rfl, fun h => h⟩ (hput _ _ _ _ _ _)
  · exact ⟨rfl, id⟩
@[simp] theorem execRemoteWrite_goes (addr : Nat) (p : RemotePayload) (s : State) : Goes s (execRemoteWrite addr p s) := by
  unfold execRemoteWrite
  repeat' split
  all_goals simp +contextual [Keeps]


/-! PROOFS. What the links and the port words of elements keep of the agenda and of memory's form. -/

@[simp] theorem State.retransmit_calm (s : State) (l : Nat) : Calm s (s.retransmit l) := by
  unfold State.retransmit
  simp [Calm]
@[simp] theorem execFlitCheckFail_goes (l : Nat) (_dir : Bool) (s : State) : Goes s (execFlitCheckFail l _dir s) := by
  unfold execFlitCheckFail
  split <;> simp +contextual [Keeps]
@[simp] theorem execLinkDown_goes (l : Nat) (s : State) : Goes s (execLinkDown l s) := by
  unfold execLinkDown
  split <;> simp +contextual [Keeps]
@[simp] theorem execDvoriPortStateChange_goes (p : Nat) (st : DvoriState) (lanes : BitVec 4) (s : State) :
    Goes s (execDvoriPortStateChange p st lanes s) := by
  unfold execDvoriPortStateChange
  dsimp only
  repeat' split
  all_goals simp +contextual [Keeps]
@[simp] theorem execXgrant_goes (t : Trig) (o : BitVec 2) (a : Src) (s : State) : Goes s (execXgrant t o a s) := by
  unfold execXgrant
  repeat' split
  all_goals simp +contextual [Keeps]
@[simp] theorem execXsend_goes (t : Trig) (o : BitVec 3) (iS iP : BitVec 3) (s : State) : Goes s (execXsend t o iS iP s) := by
  unfold execXsend
  repeat' split
  all_goals simp +contextual [Keeps]
@[simp] theorem execXrecv_goes (t : Trig) (o : BitVec 2) (i : BitVec 3) (s : State) : Goes s (execXrecv t o i s) := by
  unfold execXrecv
  repeat' split
  all_goals simp +contextual [Keeps]
@[simp] theorem execAgen_goes (t : Trig) (g : BitVec 3) (b : Src) (s : State) : Goes s (execAgen t g b s) := by
  unfold execAgen
  dsimp only
  repeat' split
  all_goals simp +contextual [Keeps]
@[simp] theorem execAgset_goes (t : Trig) (g : BitVec 3) (a : Src) (imm : BitVec 9) (s : State) : Goes s (execAgset t g a imm s) := by
  unfold execAgset
  dsimp only
  split <;> simp +contextual [Keeps]
@[simp] theorem execAgrst_goes (t : Trig) (g : BitVec 3) (s : State) : Goes s (execAgrst t g s) := by
  unfold execAgrst
  dsimp only
  split <;> simp +contextual [Keeps]
@[simp] theorem execCvt_goes (mode : BitVec 2) (t : Trig) (d : Dst) (a : Src) (src dst : BitVec 4) (sat : Bool) (s : State) :
    Goes s (execCvt mode t d a src dst sat s) := by
  unfold execCvt
  dsimp only
  repeat' split
  all_goals simp +contextual [Keeps]
@[simp] theorem execCvtRne_goes (t : Trig) (d : Dst) (a : Src) (src dst : BitVec 4) (sat : Bool) (s : State) :
    Goes s (execCvtRne t d a src dst sat s) := by
  unfold execCvtRne
  simp +contextual [Keeps]
@[simp] theorem execCvtRtz_goes (t : Trig) (d : Dst) (a : Src) (src dst : BitVec 4) (sat : Bool) (s : State) :
    Goes s (execCvtRtz t d a src dst sat s) := by
  unfold execCvtRtz
  simp +contextual [Keeps]
@[simp] theorem execCvtRdn_goes (t : Trig) (d : Dst) (a : Src) (src dst : BitVec 4) (sat : Bool) (s : State) :
    Goes s (execCvtRdn t d a src dst sat s) := by
  unfold execCvtRdn
  simp +contextual [Keeps]
@[simp] theorem execCvtRup_goes (t : Trig) (d : Dst) (a : Src) (src dst : BitVec 4) (sat : Bool) (s : State) :
    Goes s (execCvtRup t d a src dst sat s) := by
  unfold execCvtRup
  simp +contextual [Keeps]


/-! PROOFS. What sequences and exchange keep of the agenda and of memory's form. -/

@[simp] theorem execSqrd_goes (d a : BitVec 5) (s : State) : Goes s (execSqrd d a s) := by
  unfold execSqrd
  simp +contextual [Keeps]
@[simp] theorem execSqset_goes (d a b : BitVec 5) (s : State) : Goes s (execSqset d a b s) := by
  unfold execSqset
  dsimp only
  repeat' split
  all_goals simp +contextual [Keeps]
@[simp] theorem State.postNotice_calm (s : State) (r : Nat) (n : Notice) : Calm s (s.postNotice r n) := by
  unfold State.postNotice
  simp [Calm]
@[simp] theorem State.popNotice_calm (s : State) (r : Nat) : Calm s (s.popNotice r) := by
  unfold State.popNotice
  dsimp only
  split <;> simp [Calm]
@[simp] theorem State.imageNotice_calm (s : State) (a : Nat) (n : Notice) : Calm s (s.imageNotice a n) := by
  unfold State.imageNotice
  simp [Calm]
theorem postNotices_calm (s : State) (n : Notice) (rs : List Nat) : Calm s (rs.foldl (fun s r => s.postNotice r n) s) :=
  foldl_calm (fun s r => State.postNotice_calm s r n) rs s
theorem imageNotices_calm {α : Type} (s : State) (n : Notice) (es : List (Nat × α)) :
    Calm s (es.foldl (fun s e => s.imageNotice e.1 n) s) :=
  foldl_calm (fun s e => State.imageNotice_calm s e.1 n) es s
@[simp] theorem State.establish_calm (s : State) (slot q : Nat) : Calm s (s.establish slot q) :=
  (State.setSlot_calm ..).trans ((postNotices_calm ..).trans (imageNotices_calm ..))
@[simp] theorem State.launchPulse_calm (s : State) (slot q sym basis : Nat) : Calm s (s.launchPulse slot q sym basis) := by
  unfold State.launchPulse
  simp [Calm]
@[simp] theorem State.killBatch_calm (s : State) (slot f g : Nat) : Calm s (s.killBatch slot f g) := by
  unfold State.killBatch
  simp [Calm]
@[simp] theorem State.squash_calm (s : State) (slot f : Nat) (again : Option PStart) : Calm s (s.squash slot f again) := by
  unfold State.squash
  simp [Calm]
@[simp] theorem State.markRegion_calm (s : State) (id r : Nat) (p : Placement) : Calm s (s.markRegion id r p) := by
  unfold State.markRegion
  simp [Calm]
@[simp] theorem State.noticeDone_calm (s : State) (r : Nat) (n : Notice) : Calm s (s.noticeDone r n) := by
  unfold State.noticeDone
  split <;> simp [Calm]
@[simp] theorem execNoticeApplyStage_goes (r : Nat) (s : State) : Goes s (execNoticeApplyStage r s) := by
  unfold execNoticeApplyStage
  dsimp only
  repeat' split
  all_goals simp +contextual [Keeps]
@[simp] theorem execNoticeApplySegment_goes (r : Nat) (s : State) : Goes s (execNoticeApplySegment r s) := by
  have hput : ∀ (l : List KvSeg) (f g : Nat) (m : Memory), m.wf = true → (l.foldl (fun m e => kvNotice m e f g) m).wf = true :=
    fun l f g m h => Memory.wf_foldl (fun _ _ hm => kvNotice_wf hm _ _ _) l h
  unfold execNoticeApplySegment
  dsimp only
  repeat' split
  all_goals simp +contextual [Keeps, hput]
@[simp] theorem execEstablishNoticeApply_goes (r : Nat) (s : State) : Goes s (execEstablishNoticeApply r s) := by
  have hput : ∀ (l : List KvSeg) (q : Nat) (m : Memory), m.wf = true → (l.foldl (fun m e => kvEstablish m e q) m).wf = true :=
    fun l q m h => Memory.wf_foldl (fun _ _ hm => kvEstablish_wf hm _ _) l h
  unfold execEstablishNoticeApply
  dsimp only
  repeat' split
  all_goals simp +contextual [Keeps, hput]
@[simp] theorem execStageAcknowledge_goes (id slot : Nat) (s : State) : Goes s (execStageAcknowledge id slot s) := by
  unfold execStageAcknowledge
  dsimp only
  repeat' split
  all_goals simp +contextual [Keeps]
@[simp] theorem execSettle_goes (slot : Nat) (s : State) : Goes s (execSettle slot s) := by
  unfold execSettle
  dsimp only
  repeat' split
  all_goals simp +contextual [Keeps]
theorem kvSetNotice_wf {m : Memory} (h : m.wf = true) (g : KvSeg) (f a : Nat) : (kvSetNotice m g f a).wf = true := kvWrite_wf h _ _ _

theorem zeroSegs_wf {m : Memory} (h : m.wf = true) (gs : List KvSeg) :
    (gs.foldl (fun m g => kvSetNotice (kvSetTC m g 0 0) g 0 0) m).wf = true :=
  Memory.wf_foldl (fun _ g hm => kvSetNotice_wf (kvSetTC_wf hm g 0 0) g 0 0) gs h

theorem zeroHorizonsIn_wf {m : Memory} (h : m.wf = true) (slot : Nat) (rs : List Nat) :
    (rs.foldl (fun m r => (slotSegs m r slot).foldl (fun m g => kvSetNotice (kvSetTC m g 0 0) g 0 0) m) m).wf = true := by
  induction rs generalizing m with
  | nil => exact h
  | cons r rs ih => exact ih (zeroSegs_wf h _)

@[simp] theorem State.zeroHorizons_keeps (s : State) (slot : Nat) : Keeps s (s.zeroHorizons slot) := by
  unfold State.zeroHorizons
  refine ⟨by dsimp only, fun h => ?_⟩
  dsimp only
  exact zeroHorizonsIn_wf h slot (s.segRegions slot)
@[simp] theorem execSqadmit_goes (d a b : BitVec 5) (s : State) : Goes s (execSqadmit d a b s) := by
  unfold execSqadmit
  dsimp only
  repeat' split
  all_goals simp +contextual [Keeps]
@[simp] theorem State.retireSlot_calm (s : State) (n : Nat) : Calm s (s.retireSlot n) := by
  unfold State.retireSlot
  dsimp only
  split <;> simp [Calm]
@[simp] theorem execSqretire_goes (d a : BitVec 5) (s : State) : Goes s (execSqretire d a s) := by
  unfold execSqretire
  simp +contextual [Keeps]
@[simp] theorem execSlotActivate_goes (slot : Nat) (s : State) : Goes s (execSlotActivate slot s) := by
  unfold execSlotActivate
  dsimp only
  repeat' split
  all_goals simp +contextual [Keeps]
@[simp] theorem execSlotFree_goes (slot : Nat) (s : State) : Goes s (execSlotFree slot s) := by
  unfold execSlotFree
  dsimp only
  split <;> simp +contextual [Keeps]
@[simp] theorem State.rejectReport_calm (s : State) (slot : Nat) : Calm s (s.rejectReport slot) := by
  unfold State.rejectReport
  simp [Calm]
@[simp] theorem State.guess_calm (s : State) (slot : Nat) (x : Slot) (k q sym : Nat) : Calm s (s.guess slot x k q sym) := by
  unfold State.guess
  repeat' split
  all_goals simp [Calm]
@[simp] theorem State.final_calm (s : State) (slot : Nat) (x : Slot) (q sym : Nat) : Calm s (s.final slot x q sym) := by
  unfold State.final
  dsimp only
  repeat' split
  all_goals simp [Calm]
@[simp] theorem State.judge_calm (s : State) (t : Report) : Calm s (s.judge t) := by
  unfold State.judge
  split <;> simp [Calm]
@[simp] theorem execSquashReport_goes (s : State) : Goes s (execSquashReport s) := by
  unfold execSquashReport
  repeat' split
  all_goals simp +contextual [Keeps]
@[simp] theorem State.formBatch_calm (s : State) : Calm s s.formBatch := by
  unfold State.formBatch
  simp [Calm]
@[simp] theorem State.startTok_calm (s : State) (e : UnitId × Nat) (t : Tok) : Calm s (s.startTok e t) := by
  unfold State.startTok
  simp [Calm]
@[simp] theorem State.givePolicy_calm (s : State) (slot pos gen : Nat) : Calm s (s.givePolicy slot pos gen) := by
  unfold State.givePolicy
  simp [Calm]
@[simp] theorem State.promptStart_calm (s : State) (slot q : Nat) : Calm s (s.promptStart slot q) := by
  unfold State.promptStart
  exact (State.establish_calm s slot q).trans (State.setSlot_calm ..)
@[simp] theorem State.startPulse_calm (s : State) (p : Placement) (d : Draw) : Calm s (s.startPulse p d) := by
  have hprompt : ∀ (t : State) (b : Bool) (n m : Nat), Calm t (if b then t.promptStart n m else t) := fun t b n m => by
    split
    · exact State.promptStart_calm t n m
    · exact ⟨rfl, rfl⟩
  have hhead : ∀ (b : Bool) (r : Nat) (w : Word) (x y : Tok), Calm s (if b then (s.countKill r w, x) else s.checkHeader r y).1 := by
    intro b r w x y
    split
    · exact State.countKill_calm s r w
    · exact State.checkHeader_calm s r y
  unfold State.startPulse
  split
  · exact ⟨rfl, rfl⟩
  · refine Calm.trans ?_ (hprompt _ _ _ _)
    refine Calm.trans ?_ (State.givePolicy_calm _ _ _ _)
    refine Calm.trans ?_ (State.setSlot_calm _ _ _)
    refine Calm.trans ?_ (foldl_calm (fun s k => State.startTok_calm s _ _) _ _)
    refine Calm.trans ?_ (State.startTok_calm _ _ _)
    refine Calm.trans ?_ (State.startTok_calm _ _ _)
    exact hhead _ _ _ _ _
@[simp] theorem State.startNext_calm (s : State) (p : Placement) : Calm s (s.startNext p) := by
  unfold State.startNext
  split <;> simp [Calm]
@[simp] theorem execStepBuilderMicrobatch_goes (s : State) : Goes s (execStepBuilderMicrobatch s) := by
  unfold execStepBuilderMicrobatch
  dsimp only
  repeat' split
  all_goals simp +contextual [Keeps]
@[simp] theorem State.takePipe_calm (s : State) (id k : Nat) (isData : Bool) : Calm s (s.takePipe id k isData) := by
  unfold State.takePipe
  simp [Calm]
@[simp] theorem State.modPipe_calm (s : State) (id k : Nat) (f : PipePort → PipePort) : Calm s (s.modPipe id k f) := by
  unfold State.modPipe
  split <;> simp [Calm]
@[simp] theorem State.passed_calm (s : State) (w : Word) : Calm s (s.passed w) := by
  unfold State.passed
  simp [Calm]
@[simp] theorem State.markLeft_calm (s : State) : Calm s s.markLeft := by
  unfold State.markLeft
  split <;> simp [Calm]
@[simp] theorem State.reportHeader_calm (s : State) (id k : Nat) (pt : Point) (t : Tok) : Calm s (s.reportHeader id k pt t) := by
  unfold State.reportHeader
  simp [Calm]
@[simp] theorem State.reportData_calm (s : State) (id k : Nat) (pt : Point) (h : Nat × Nat × Nat) (t : Tok) :
    Calm s (s.reportData id k pt h t) := by
  unfold State.reportData
  simp [Calm]
@[simp] theorem State.dataDrop_calm (s : State) (id k n : Nat) (report : Bool) (t : Tok) : Calm s (s.dataDrop id k n report t) := by
  unfold State.dataDrop
  simp [Calm]
@[simp] theorem State.reportSent_calm (s t : State) (r : Nat) : Calm t (s.reportSent t r) := by
  unfold State.reportSent
  split <;> simp [Calm]
@[simp] theorem execReportPortTake_goes (id k : Nat) (s : State) : Goes s (execReportPortTake id k s) := by
  unfold execReportPortTake
  dsimp only
  repeat' split
  all_goals simp +contextual [Keeps]
@[simp] theorem State.kvHeaderTake_calm (s : State) (id k r layer : Nat) (t : Tok) : Calm s (s.kvHeaderTake id k r layer t) := by
  unfold State.kvHeaderTake
  dsimp only
  repeat' split
  all_goals simp [Calm]
@[simp] theorem State.kvDataTake_keeps (s : State) (id k i : Nat) (t : Tok) : Keeps s (s.kvDataTake id k i t) := by
  unfold State.kvDataTake
  repeat' split
  all_goals simp +contextual [Keeps]
@[simp] theorem execKvPortTake_goes (id k : Nat) (s : State) : Goes s (execKvPortTake id k s) := by
  unfold execKvPortTake
  dsimp only
  repeat' split
  all_goals simp +contextual [Keeps]
@[simp] theorem execExchangeSendToken_goes (p : Nat) (s : State) : Goes s (execExchangeSendToken p s) := by
  unfold execExchangeSendToken
  repeat' split
  all_goals simp +contextual [Keeps]
@[simp] theorem State.bufferToken_keeps (s : State) (k : Nat) (x : Pair) (par : Bool) (t : Tok) : Keeps s (s.bufferToken k x par t) := by
  unfold State.bufferToken
  simp +contextual [Keeps, Memory.wf_store]
@[simp] theorem execExchangeReceiveToken_goes (p : Nat) (s : State) : Goes s (execExchangeReceiveToken p s) := by
  unfold execExchangeReceiveToken
  repeat' split
  all_goals simp +contextual [Keeps]
@[simp] theorem execExchangeRelease_goes (p : Nat) (s : State) : Goes s (execExchangeRelease p s) := by
  unfold execExchangeRelease
  dsimp only
  repeat' split
  all_goals simp +contextual [Keeps]


/-! PROOFS. What issue and firing keep of the agenda and of memory's form. -/

@[simp] theorem State.at__calm (s : State) (u : UnitId) (slot : Nat) : Calm s (s.at_ u slot) := by
  unfold State.at_
  simp [Calm]
@[simp] theorem State.countStalls_calm (s : State) (u : UnitId) : Calm s (s.countStalls u) := by
  unfold State.countStalls
  dsimp only
  repeat' split
  all_goals simp [Calm]
@[simp] theorem State.grantTail_calm (s : State) (u : UnitId) (i : Instr) : Calm s (s.grantTail u i) := by
  unfold State.grantTail
  repeat' split
  all_goals simp [Calm]
@[simp] theorem State.noteUnmet_calm (s : State) : Calm s s.noteUnmet := by
  unfold State.noteUnmet
  simp [Calm]
@[simp] theorem State.startWalk_calm (s : State) (u : UnitId) (n : FNote) : Calm s (s.startWalk u n) := by
  unfold State.startWalk
  simp [Calm]
@[simp] theorem State.traceFiring_calm (s : State) (u : UnitId) (slot ctx : Nat) : Calm s (s.traceFiring u slot ctx) := by
  unfold State.traceFiring
  repeat' split
  all_goals simp [Calm]


/-! PROOFS. What the end of a cycle keeps of the agenda and of memory's form. -/

@[simp] theorem State.countHeld_calm (s : State) (r : Nat) : Calm s (s.countHeld r) := by
  unfold State.countHeld
  simp [Calm]
@[simp] theorem State.countCommit_calm (s : State) (u : UnitId) : Calm s (s.countCommit u) := by
  unfold State.countCommit
  simp [Calm]
@[simp] theorem State.countStarved_keeps (s : State) (r : Nat) (c : Cmd) : Keeps s (s.countStarved r c) := by
  unfold State.countStarved
  simp +contextual [Keeps]
@[simp] theorem State.countHeat_keeps (s : State) (r : Nat) : Keeps s (s.countHeat r) := by
  unfold State.countHeat
  exact foldl_keeps (fun s _ => foldl_keeps (fun s c => State.countStarved_keeps s r c) _ s) _ s
@[simp] theorem State.countRegion_keeps (s : State) (r : Nat) : Keeps s (s.countRegion r) := by
  unfold State.countRegion
  dsimp only
  split
  · exact State.countHeat_keeps s r
  · have hheld : Keeps s ((s.count r 0x00 1).countHeld r) := by simp [Keeps]
    refine Keeps.trans ?_ (State.countHeat_keeps _ _)
    refine Keeps.trans ?_ (foldl_keeps (fun s _ => by simp [Keeps]) _ _)
    split
    · refine Keeps.trans ?_ (State.count_calm _ _ _ _).keeps
      exact hheld.trans (foldl_keeps (fun s _ => by simp [Keeps]) _ _)
    · exact hheld.trans (foldl_keeps (fun s _ => by simp [Keeps]) _ _)
@[simp] theorem State.creditsSent_calm (s : State) (c c' : Chan) : Calm s (s.creditsSent c c') := by
  unfold State.creditsSent
  simp [Calm]
@[simp] theorem State.tickClocks_calm (s : State) : Calm s s.tickClocks := by
  unfold State.tickClocks
  simp [Calm]
@[simp] theorem State.endP1_calm (s : State) : Calm s s.endP1 := by
  unfold State.endP1
  simp [Calm]
@[simp] theorem State.delay_calm (s : State) (i : Instr) : Calm s (s.delay i) := by
  unfold State.delay
  simp [Calm]
@[simp] theorem State.settleInput_calm (s : State) : Calm s s.settleInput := by
  unfold State.settleInput
  split <;> simp [Calm]


/-! PROOFS. Every step keeps the invariant, and no run stops: every meaning goes on, the turns of a new cycle name agents that
exist, and a turn of an agent that exists is never bad. -/

/-! ## Every meaning goes on -/

/-- Every instruction goes on, and keeps memory's form and the agenda; a reset and the end of power empty the agenda. -/
theorem exec_runs (i : Instr) (s : State) : Runs s (exec i s) := by
  cases i with
  | functionLevelReset => exact execFunctionLevelReset_runs s
  | powerRemoval => exact execPowerRemoval_runs s
  | _ =>
    unfold exec
    exact Goes.runs (by simp)

/-- The hardware's own steps are instructions of their own names. -/
theorem Own.means_exists (o : Own) : ∃ i, o.Means i := by
  cases o <;> exact ⟨_, rfl⟩

theorem Own.run_runs (o : Own) (s : State) : Runs s (o.run s) := by
  obtain ⟨i, hi⟩ := o.means_exists
  rw [Own.run_eq_exec hi]
  exact exec_runs i s

/-! ## The agenda of a new cycle -/

theorem mem_insRank {α : Type} {e y : Nat × α} {l : List (Nat × α)} (h : y ∈ insRank e l) : y = e ∨ y ∈ l := by
  induction l with
  | nil => simpa [insRank] using h
  | cons f fs ih =>
    unfold insRank at h
    split at h
    · simpa using h
    · rcases List.mem_cons.mp h with rfl | hy
      · simp
      · rcases ih hy with rfl | hy <;> simp [*]

/-- Mixing a list adds nothing to it. -/
theorem State.mem_of_mem_mixed {α : Type} {s : State} {l : List α} {x : α} (h : x ∈ s.mixed l) : x ∈ l := by
  have hall : ∀ (zs : List (α × Nat)) (y : Nat × α),
      y ∈ zs.foldr (fun (x, k) acc => insRank (Config.order s.cyc k, x) acc) [] → ∃ k, (y.2, k) ∈ zs := by
    intro zs
    induction zs with
    | nil => simp
    | cons z zs ih =>
      intro y hy
      rcases mem_insRank hy with rfl | hy
      · exact ⟨z.2, by simp⟩
      · obtain ⟨k, hk⟩ := ih y hy
        exact ⟨k, List.mem_cons_of_mem _ hk⟩
  obtain ⟨y, hy, rfl⟩ := List.mem_map.mp h
  obtain ⟨k, hk⟩ := hall _ y hy
  exact (List.mem_zipIdx' hk).2 ▸ List.getElem_mem _

/-- Every turn of a list names an agent that exists. -/
def Named (l : List Turn) : Prop := ∀ t ∈ l, t.names = true

theorem named_append {k l : List Turn} (hk : Named k) (hl : Named l) : Named (k ++ l) := fun t ht =>
  (List.mem_append.mp ht).elim (hk t) (hl t)

theorem named_own (l : List Own) : Named (l.map Turn.own) := fun t ht => by
  obtain ⟨o, -, rfl⟩ := List.mem_map.mp ht
  rfl

theorem named_event (l : List Instr) : Named (l.map Turn.event) := fun t ht => by
  obtain ⟨i, -, rfl⟩ := List.mem_map.mp ht
  rfl

/-- The agents of a cycle exist: cores are of the package's regions, elements those that a cell has. -/
theorem State.agents_named (s : State) {a : List Turn} (h : a ∈ s.agents) : Named a := by
  have hown : ∀ (l : List (List Own)), a ∈ l.map (fun b => b.map Turn.own) → Named a := by
    intro l ha
    obtain ⟨b, -, rfl⟩ := List.mem_map.mp ha
    exact named_own b
  unfold State.agents at h
  simp only [List.mem_append] at h
  rcases h with ((((((h | h) | h) | h) | h) | h) | h) | h
  · obtain ⟨e, he, rfl⟩ := List.mem_map.mp h
    have hr := (List.mem_filter.mp he).2
    simp only [Bool.and_eq_true] at hr
    simpa [Named, Turn.names] using hr.1
  · exact hown _ h
  · exact hown _ h
  · exact hown _ h
  · exact hown _ h
  · exact hown _ h
  · exact hown _ h
  · obtain ⟨e, he, rfl⟩ := List.mem_map.mp h
    have hu := (List.mem_filter.mp he).2
    simp only [Bool.and_eq_true] at hu
    simpa [Named, Turn.names] using hu.1

theorem State.turnsOf_named (s : State) : Named s.turnsOf := by
  have hagents : Named (s.mixed s.agents).flatten := fun t ht => by
    obtain ⟨a, ha, hta⟩ := List.mem_flatten.mp ht
    exact s.agents_named (State.mem_of_mem_mixed ha) t hta
  have hturns : Named s.ownTurns := by
    unfold State.ownTurns
    dsimp only
    repeat' refine named_append ?_ ?_
    exacts [named_own _, named_own _, named_own _, named_own _, named_own _, named_own _, named_own _, hagents]
  unfold State.turnsOf
  dsimp only
  refine named_append (named_event _) ?_
  split
  · simp [Named]
  · exact hturns

theorem State.openCycle_agendaOk (s : State) : s.openCycle.agendaOk := s.turnsOf_named

theorem State.endCycle_agendaOk (s : State) : s.endCycle.agendaOk := by
  unfold State.endCycle
  split <;> exact State.openCycle_agendaOk _

theorem State.endCycle_wf {s : State} (h : s.mem.wf = true) : s.endCycle.mem.wf = true := by
  have hcount : ((s.regions.map Prod.fst).foldl State.countRegion s.noteUnmet).mem.wf = true :=
    (foldl_keeps State.countRegion_keeps _ _).2 (by simpa using h)
  unfold State.endCycle
  split
  · exact h
  · simpa [State.openCycle] using hcount

/-! ## A turn, a step, a run -/

/-- What a turn comes to, other than a bad turn, keeps what `Calm` says. -/
def TurnOut.Calm (s : State) : TurnOut → Prop
  | .quiet t => Machine.Calm s t
  | .run _ t => Machine.Calm s t
  | .own _ t => Machine.Calm s t
  | .bad => False

theorem State.coreTurn_calm (s : State) {r : Nat} (hr : r < 80) : (s.coreTurn r).Calm s := by
  unfold State.coreTurn
  dsimp only
  rw [if_neg (Nat.not_le.mpr hr)]
  repeat' split
  all_goals simp [TurnOut.Calm, Calm]

theorem State.unitTurn_calm (s : State) {u : UnitId} (hu : unitExists u = true) : (s.unitTurn u).Calm s := by
  unfold State.unitTurn
  rw [if_neg (by simp [hu])]
  repeat' split
  all_goals simp [TurnOut.Calm, Calm]

/-- The next turn starts a cycle, or takes the first agent off the agenda. -/
theorem State.turn_cases (s : State) :
    s.agenda = [] ∧ s.turn = .quiet s.settleInput.endCycle ∨
    ∃ t ts, s.agenda = t :: ts ∧ (t.names = true → s.turn.Calm { s with agenda := ts }) := by
  have hset : Calm s s.settleInput := s.settleInput_calm
  unfold State.turn
  dsimp only
  rw [hset.1]
  cases hagenda : s.agenda with
  | nil => exact .inl ⟨rfl, rfl⟩
  | cons t ts =>
    refine .inr ⟨t, ts, rfl, fun hname => ?_⟩
    have hset' : ∀ o : TurnOut, o.Calm { s.settleInput with agenda := ts } → o.Calm { s with agenda := ts } := by
      intro o ho
      cases o <;> simp_all [TurnOut.Calm, Calm]
    refine hset' _ ?_
    cases t with
    | core r => exact State.coreTurn_calm _ (by simpa [Turn.names] using hname)
    | unit u => exact State.unitTurn_calm _ hname
    | own o => exact ⟨rfl, rfl⟩
    | event i =>
      dsimp only
      repeat' split
      all_goals simp [TurnOut.Calm, Calm]

/-- A step goes on from an agenda of agents that exist, to such an agenda, and keeps memory's form. -/
theorem step_goes {s : State} (hs : s.agendaOk) :
    ∃ t, step s = .next t ∧ t.agendaOk ∧ (s.mem.wf = true → t.mem.wf = true) := by
  have hset : Calm s s.settleInput := s.settleInput_calm
  rcases s.turn_cases with ⟨-, hturn⟩ | ⟨t, ts, hagenda, hcalm⟩
  · exact ⟨s.settleInput.endCycle, by rw [step, hturn], s.settleInput.endCycle_agendaOk,
      fun h => State.endCycle_wf (hset.2 ▸ h)⟩
  · have hts : Named ts := fun x hx => hs x (hagenda ▸ List.mem_cons_of_mem _ hx)
    have hruns : ∀ {u : State} {o : Host.Outcome State Fault Refusal}, Calm { s with agenda := ts } u → Runs u o →
        ∃ v, o = .next v ∧ v.agendaOk ∧ (s.mem.wf = true → v.mem.wf = true) := by
      rintro u o ⟨hag, hmem⟩ ⟨v, hv, hag', hwf⟩
      refine ⟨v, hv, ?_, fun h => hwf (hmem ▸ h)⟩
      rcases hag' with h | h
      · exact fun x hx => hts x (by rwa [h, hag] at hx)
      · exact fun x hx => by simp [h] at hx
    have hok := hcalm (hs t (hagenda ▸ List.mem_cons_self))
    unfold step
    cases hturn : s.turn <;> rw [hturn] at hok
    case quiet u => exact hruns hok ⟨u, rfl, .inl rfl, id⟩
    case run i u => exact hruns hok (exec_runs i u)
    case own o u => exact hruns hok (o.run_runs u)
    case bad => exact hok.elim

/-- Settles O58: every meaning keeps memory's form and the agenda's tail; a new cycle's turns name agents that exist. -/
theorem everyStepKeepsTheInvariant : Obligations.EveryStepKeepsTheInvariant := by
  rintro s t ⟨hwf, hagenda⟩ hstep
  obtain ⟨t', ht', hagenda', hwf'⟩ := step_goes hagenda
  cases ht'.symm.trans hstep
  exact ⟨hwf' hwf, hagenda'⟩

/-- Settles O60, by induction on the number of steps: a step goes on to an agenda of agents that exist. -/
theorem runsNeverStop : Obligations.RunsNeverStop := by
  intro s hs k
  induction k generalizing s with
  | zero => exact ⟨s, rfl⟩
  | succ k ih =>
    obtain ⟨t, ht, hagenda, -⟩ := step_goes hs
    have hcore : Sys2Proof.core.step s = .next t := ht
    simp only [Host.Core.run, hcore]
    exact ih t hagenda


/-! PROOFS. The frames of element and vector words: what an issue, a cause, a flight and an accepted request leave as it was. -/

/-! ## What every word of an element leaves alone -/

/-- Memory, the regions but for counts and pending causes, the package, and every element but one are as before. -/
structure Around (u : UnitId) (s t : State) : Prop where
  mem : t.mem = s.mem
  regions : sameRegions s t
  package : samePackage s t
  others : ∀ v, v ≠ u → t.unit v = s.unit v

section
variable {u : UnitId} {s t w : State}

theorem Around.refl (u : UnitId) (s : State) : Around u s s := ⟨rfl, fun _ => rfl, samePackage.refl s, fun _ _ => rfl⟩

theorem Around.trans (h : Around u s t) (k : Around u t w) : Around u s w :=
  ⟨k.mem.trans h.mem, fun r => (k.regions r).trans (h.regions r), h.package.trans k.package,
    fun v hv => (k.others v hv).trans (h.others v hv)⟩

theorem State.OnlyCounts.around (u : UnitId) (h : s.OnlyCounts t) : Around u s t := by
  refine ⟨?_, fun r => ?_, ?_, fun v _ => h.unit v⟩
  · rw [h.rest]
  · rw [h.regions r]
    rfl
  · rw [h.rest]
    exact samePackage.refl s

theorem State.around_modUnit (s : State) (u : UnitId) (f : EUnit → EUnit) : Around u s (s.modUnit u f) :=
  ⟨rfl, fun _ => rfl, samePackage.refl s, fun _ hv => State.unit_modUnit_other s hv f⟩

/-- A cause held at a core leaves its region as it was but for the pending causes. -/
theorem State.around_raise (s : State) (u : UnitId) (r : Nat) (c : Async) (v : Word) : Around u s (s.raise r c v) := by
  unfold State.raise
  split
  · refine ⟨rfl, fun q => ?_, samePackage.refl s, fun _ _ => rfl⟩
    rw [State.modCore, State.region_modRegion]
    split
    · next h =>
      subst h
      unfold Core.hold
      split <;> rfl
    · rfl
  · exact .refl u s

/-- A cause recorded at an element changes that element's fault registers, and pends at its core. -/
theorem State.around_recordFaultOf (s : State) (u : UnitId) (tick : Nat) (cause : Byte) (word ctx : Nat) (chan : Option Nat)
    (sb : BitVec 14) (flags : BitVec 6) : Around u s (s.recordFaultOf u tick cause word ctx chan sb flags) := by
  unfold State.recordFaultOf
  dsimp only
  split
  · split <;> exact ⟨rfl, fun _ => rfl, samePackage.refl s, fun _ hv => State.unit_setUnit_other s hv _⟩
  · refine Around.trans (t := { s.setUnit u _ with ticket := _ }) ?_ (State.around_raise _ _ _ _ _)
    exact ⟨rfl, fun _ => rfl, samePackage.refl s, fun _ hv => State.unit_setUnit_other s hv _⟩

end

/-! ## What an element word leaves alone (R96) -/

/-- The registers, poison bits and predicates of every context are as before. -/
def EUnit.SameRegs (x y : EUnit) : Prop :=
  ∀ c, (y.context c).x = (x.context c).x ∧ (y.context c).px = (x.context c).px ∧ (y.context c).p = (x.context c).p

/-- The frame of a word of an element; `st` tells that it may take a stamp, `ex` that it may change a pair. -/
structure EFrame (st ex : Bool) (u : UnitId) (s t : State) : Prop extends Around u s t where
  regs : (s.unit u).SameRegs (t.unit u)
  rings : t.rings = s.rings
  clocks : ∀ d, { t.die d with last := 0 } = { s.die d with last := 0 }
  stamps : st = false → t.dies = s.dies ∧ t.stamped = s.stamped ∧ t.ldas = s.ldas
  pairs : ex = false → t.pairs = s.pairs

section
variable {st ex : Bool} {u : UnitId} {s t w : State}

theorem EUnit.SameRegs.of_ctx_eq {x y : EUnit} (h : y.ctx = x.ctx) : x.SameRegs y := fun c => by
  rw [EUnit.context_of_ctx_eq h c]
  exact ⟨rfl, rfl, rfl⟩

theorem EFrame.refl (st ex : Bool) (u : UnitId) (s : State) : EFrame st ex u s s :=
  ⟨.refl u s, .of_ctx_eq rfl, rfl, fun _ => rfl, fun _ => ⟨rfl, rfl, rfl⟩, fun _ => rfl⟩

theorem EFrame.trans (h : EFrame st ex u s t) (k : EFrame st ex u t w) : EFrame st ex u s w where
  toAround := h.toAround.trans k.toAround
  regs c := by
    obtain ⟨hx, hpx, hp⟩ := h.regs c
    obtain ⟨kx, kpx, kp⟩ := k.regs c
    exact ⟨kx.trans hx, kpx.trans hpx, kp.trans hp⟩
  rings := k.rings.trans h.rings
  clocks d := (k.clocks d).trans (h.clocks d)
  stamps hst := by
    obtain ⟨hd, hs, hl⟩ := h.stamps hst
    obtain ⟨kd, ks, kl⟩ := k.stamps hst
    exact ⟨kd.trans hd, ks.trans hs, kl.trans hl⟩
  pairs hex := (k.pairs hex).trans (h.pairs hex)

/-- A state that differs in its regions' counts and pending causes and in its elements alone. -/
theorem EFrame.of_around (h : Around u s t) (hregs : (s.unit u).SameRegs (t.unit u)) (hrings : t.rings = s.rings) (hdies : t.dies = s.dies)
    (hstamped : t.stamped = s.stamped) (hldas : t.ldas = s.ldas) (hpairs : t.pairs = s.pairs) : EFrame st ex u s t :=
  ⟨h, hregs, hrings, fun d => by simp only [State.die, hdies], fun _ => ⟨hdies, hstamped, hldas⟩, fun _ => hpairs⟩

theorem State.OnlyCounts.eframe (h : s.OnlyCounts t) : EFrame st ex u s t := by
  refine .of_around (h.around u) (.of_ctx_eq (by rw [h.unit])) ?_ ?_ ?_ ?_ ?_ <;> rw [h.rest]

theorem State.eframe_modUnit (s : State) {f : EUnit → EUnit} (hf : (s.unit u).SameRegs (f (s.unit u))) :
    EFrame st ex u s (s.modUnit u f) :=
  .of_around (s.around_modUnit u f) (by rwa [State.unit_modUnit_same]) rfl rfl rfl rfl rfl

theorem State.eframe_fly (s : State) (u : UnitId) (tick : Nat) (ctx : BitVec 2) (slot lat : Nat) (l : Landing) :
    EFrame st ex u s (s.fly u tick ctx slot lat l) := by
  rw [State.fly]
  exact s.eframe_modUnit (.of_ctx_eq rfl)

theorem State.eframe_startMulti (s : State) (u : UnitId) (tick : Nat) (ctx : BitVec 2) (slot lat : Nat) (src : MultiSrc) (l : Landing) :
    EFrame st ex u s (s.startMulti u tick ctx slot lat src l) := by
  rw [State.startMulti]
  exact s.eframe_modUnit (.of_ctx_eq rfl)

section
variable (s : State) (r : Nat) (c : Async) (v : Word)

theorem State.raise_rings : (s.raise r c v).rings = s.rings := by
  rw [State.raise]
  split <;> rfl

theorem State.raise_dies : (s.raise r c v).dies = s.dies := by
  rw [State.raise]
  split <;> rfl

theorem State.raise_stamped : (s.raise r c v).stamped = s.stamped := by
  rw [State.raise]
  split <;> rfl

theorem State.raise_ldas : (s.raise r c v).ldas = s.ldas := by
  rw [State.raise]
  split <;> rfl

theorem State.raise_pairs : (s.raise r c v).pairs = s.pairs := by
  rw [State.raise]
  split <;> rfl

theorem State.raise_chans : (s.raise r c v).chans = s.chans := by
  rw [State.raise]
  split <;> rfl

end

/-- A cause recorded at an element keeps its contexts, its vector state and what flies, and every channel, ring and pair. -/
theorem State.recordFaultOf_fields (s : State) (u : UnitId) (tick : Nat) (cause : Byte) (word ctx : Nat) (chan : Option Nat)
    (sb : BitVec 14) (flags : BitVec 6) :
    let t := s.recordFaultOf u tick cause word ctx chan sb flags
    (t.unit u).ctx = (s.unit u).ctx ∧ (t.unit u).vec = (s.unit u).vec ∧ (t.unit u).flights = (s.unit u).flights ∧ t.rings = s.rings ∧
      t.dies = s.dies ∧ t.stamped = s.stamped ∧ t.ldas = s.ldas ∧ t.pairs = s.pairs ∧ t.chans = s.chans := by
  unfold State.recordFaultOf
  dsimp only
  split
  · split <;> (rw [State.unit_setUnit_same]; exact ⟨rfl, rfl, rfl, rfl, rfl, rfl, rfl, rfl, rfl⟩)
  · rw [State.unit_raise_setUnit]
    rw [State.raise_rings, State.raise_dies, State.raise_stamped, State.raise_ldas, State.raise_pairs, State.raise_chans]
    exact ⟨rfl, rfl, rfl, rfl, rfl, rfl, rfl, rfl, rfl⟩

theorem State.eframe_issueFault (s : State) (ctx : BitVec 2) (f : IssueFault) : EFrame st ex s.site.unit s (s.issueFault ctx f) := by
  obtain ⟨hctx, -, -, hrings, hdies, hstamped, hldas, hpairs, -⟩ :=
    s.recordFaultOf_fields s.site.unit s.ticket f.cause s.site.slot ctx.toNat f.chan f.sb 0
  exact .of_around (s.around_recordFaultOf ..) (.of_ctx_eq hctx) hrings hdies hstamped hldas hpairs

theorem Ctx.pend_regs (c : Ctx) (v : EView) : (c.pend v).x = c.x ∧ (c.pend v).px = c.px ∧ (c.pend v).p = c.p := by
  unfold Ctx.pend
  exact ⟨rfl, rfl, rfl⟩

theorem EUnit.issue_sameRegs (x : EUnit) (v : EView) : x.SameRegs (x.issue v) := fun c => by
  have h : (x.issue v).context c = (x.modCtx v.trig.ctx.toNat (·.pend v)).context c := rfl
  rw [h, EUnit.context_modCtx]
  split
  · next hc => subst hc; exact Ctx.pend_regs _ v
  · exact ⟨rfl, rfl, rfl⟩

theorem State.issue_eframe (s : State) (v : EView) : EFrame st ex s.site.unit s (s.issue v) := by
  refine .of_around ⟨?_, fun r => ?_, ?_, fun _ h => s.issue_unit_other v h⟩ ?_ ?_ ?_ ?_ ?_ ?_
  · rw [State.issue_eq]
  · rw [State.issue_region]; rfl
  · rw [State.issue_eq]; exact samePackage.refl s
  · rw [State.issue_unit]; exact EUnit.issue_sameRegs _ v
  all_goals rw [State.issue_eq]

/-! ## Accepted requests (R307, R308) -/

theorem State.eframe_assignStamp (s : State) (d : Nat) : EFrame true ex u s (s.assignStamp d).2 := by
  rw [State.assignStamp_snd]
  refine ⟨⟨rfl, fun _ => rfl, samePackage.refl s, fun _ _ => rfl⟩, .of_ctx_eq rfl, rfl, fun e => ?_, nofun, fun _ => rfl⟩
  by_cases h : e = d
  · subst h
    rw [State.die_modDie_same]
  · rw [State.die_modDie_other _ h]

theorem State.eframe_admitStamped (s : State) (u : UnitId) (q : PortReq) (t : Target) (hst : q.op.stampScope?.isSome = true → st = true) :
    EFrame st ex u s (s.admitStamped u q t).1 := by
  unfold State.admitStamped
  cases hop : q.op with
  | stsc sys =>
    obtain rfl := hst (by rw [hop]; rfl)
    exact (s.eframe_assignStamp (unitDie u)).trans
      ⟨⟨rfl, fun _ => rfl, samePackage.refl _, fun _ _ => rfl⟩, .of_ctx_eq rfl, rfl, fun _ => rfl, nofun, fun _ => rfl⟩
  | stsp sys =>
    obtain rfl := hst (by rw [hop]; rfl)
    exact (s.eframe_assignStamp (unitDie u)).trans
      ⟨⟨rfl, fun _ => rfl, samePackage.refl _, fun _ _ => rfl⟩, .of_ctx_eq rfl, rfl, fun _ => rfl, nofun, fun _ => rfl⟩
  | ldas sys =>
    obtain rfl := hst (by rw [hop]; rfl)
    exact ⟨⟨rfl, fun _ => rfl, samePackage.refl _, fun _ _ => rfl⟩, .of_ctx_eq rfl, rfl, fun _ => rfl, nofun, fun _ => rfl⟩
  | load | store | amo => exact .refl _ _ u s

theorem State.eframe_admitNear (s : State) (u : UnitId) (q : PortReq) (t : Target) (hst : q.op.stampScope?.isSome = true → st = true) :
    EFrame st ex u s (s.admitNear u q t).1 := by
  unfold State.admitNear
  split
  · exact s.eframe_admitStamped u q t hst
  · exact .refl _ _ u s

theorem State.eframe_enqueue (s : State) (u : UnitId) (q : PortReq) (hst : q.op.stampScope?.isSome = true → st = true) :
    EFrame st ex u s (s.enqueue u q) := by
  unfold State.enqueue
  split
  next s1 q1 heq =>
  refine EFrame.trans (t := s1) ?_ (s1.eframe_modUnit (.of_ctx_eq rfl))
  split at heq
  · cases heq
    exact (s.countPort_onlyCounts ..).eframe
  · next t _ =>
    have hadmit : (s.admitNear u q t).1 = s1 := congrArg Prod.fst heq
    rw [← hadmit]
    exact s.eframe_admitNear u q t hst
  · cases heq
    exact .refl _ _ u s

theorem State.eframe_accept (s : State) (u : UnitId) (q : PortReq) (hst : q.op.stampScope?.isSome = true → st = true) :
    EFrame st ex u s (s.accept u q) := by
  unfold State.accept
  dsimp only
  split
  · exact (s.countPort_onlyCounts ..).eframe.trans (State.eframe_enqueue _ _ _ hst)
  · exact s.eframe_modUnit (.of_ctx_eq rfl)

theorem State.eframe_setPair (s : State) (u : UnitId) (k : Nat) (p : Pair) : EFrame st true u s (s.setPair k p) :=
  ⟨⟨rfl, fun _ => rfl, samePackage.refl _, fun _ _ => rfl⟩, .of_ctx_eq rfl, rfl, fun _ => rfl, fun _ => ⟨rfl, rfl, rfl⟩, nofun⟩

end

/-! ## The element words -/

/-- Every next state of an outcome is in the frame of the word at the site. -/
structure EFrames (st ex : Bool) (s : State) (o : Host.Outcome State Fault Refusal) : Prop where
  frame : ∀ t, o = .next t → EFrame st ex s.site.unit s t

section
variable {st ex : Bool} {s : State}

theorem EFrames.next {t : State} (h : EFrame st ex s.site.unit s t) : EFrames st ex s (.next t) := by
  constructor
  rintro _ ⟨⟩
  exact h

theorem EFrames.waits : EFrames st ex s (.next s) := .next (.refl ..)

theorem EFrames.raises {ctx : BitVec 2} {f : IssueFault} : EFrames st ex s (.next (s.issueFault ctx f)) :=
  .next (s.eframe_issueFault ctx f)

/-- An issue, and then what keeps the frame. -/
theorem EFrames.issues (v : EView) {t : State} (h : EFrame st ex s.site.unit (s.issue v) t) : EFrames st ex s (.next t) :=
  .next ((s.issue_eframe v).trans h)

theorem execPlain_eframes (v : EView) (lat : Nat) (f : List Word → ERes) : EFrames st ex s (execPlain v lat f s) := by
  unfold execPlain
  split
  · exact .waits
  · exact .raises
  · exact .issues v (State.eframe_fly ..)

theorem memGo_eframes (v : EView) (op : MemOp) (ord : MemOrder) (x : Word) (g : Gate) (hst : op.stampScope?.isSome = true → st = true) :
    EFrames st ex s (.next (memGo s v op ord x g)) := by
  unfold memGo
  split
  · exact .waits
  · exact .raises
  · exact .issues v (State.eframe_accept _ _ _ hst)

theorem execMov_eframes (t : Trig) (d : Dst) (a : Src) (p : PredW) : EFrames st ex s (execMov t d a p s) := by
  unfold execMov
  dsimp only
  split
  · exact .waits
  · exact .raises
  · exact .issues _ (State.eframe_fly ..)
  · exact .waits

theorem execKind_eframes (t : Trig) (d : Dst) (i : BitVec 3) (kept : Bool) (p : PredW) : EFrames st ex s (execKind t d i kept p s) := by
  unfold execKind
  dsimp only
  split
  · exact .waits
  · exact .raises
  · exact .issues _ (State.eframe_fly ..)

theorem execSteer_eframes (t : Trig) (o : BitVec 2) (a b : Src) : EFrames st ex s (execSteer t o a b s) := by
  unfold execSteer
  dsimp only
  split
  · exact .waits
  · exact .raises
  · exact .issues _ (State.eframe_fly ..)
  · exact .waits

theorem execMergec_eframes (t : Trig) (d : Dst) (iT iF iC : BitVec 3) : EFrames st ex s (execMergec t d iT iF iC s) := by
  unfold execMergec
  dsimp only
  split
  · exact .waits
  · exact .raises
  · exact .issues _ (State.eframe_fly ..)
  · exact .waits

theorem execDup_eframes (t : Trig) (o : BitVec 2) (a : Src) : EFrames st ex s (execDup t o a s) := by
  unfold execDup
  dsimp only
  split
  · exact .waits
  · exact .raises
  · exact .issues _ (State.eframe_startMulti ..)
  · exact .waits

theorem execGate_eframes (t : Trig) (d : Dst) (a b : Src) : EFrames st ex s (execGate t d a b s) := by
  unfold execGate
  dsimp only
  split
  · exact .waits
  · exact .raises
  · exact .issues _ (State.eframe_fly ..)
  · exact .waits

theorem execJoin_eframes (t : Trig) (d : Dst) (a b : Src) : EFrames st ex s (execJoin t d a b s) := by
  unfold execJoin
  dsimp only
  split
  · exact .waits
  · exact .raises
  · exact .issues _ (State.eframe_fly ..)
  · exact .waits

theorem execMarki_eframes (t : Trig) (o : BitVec 3) (code : BitVec 14) : EFrames st ex s (execMarki t o code s) := by
  unfold execMarki
  dsimp only
  split
  · exact .waits
  · exact .raises
  · exact .issues _ (State.eframe_fly ..)

theorem execEmitd_eframes (t : Trig) (o : BitVec 3) (a : Src) : EFrames st ex s (execEmitd t o a s) := by
  unfold execEmitd
  dsimp only
  split
  · exact .waits
  · exact .raises
  · exact .issues _ (State.eframe_fly ..)
  · exact .waits

theorem execXgrant_eframes (t : Trig) (o : BitVec 2) (a : Src) : EFrames st ex s (execXgrant t o a s) := by
  unfold execXgrant
  dsimp only
  split
  · exact .waits
  · exact .raises
  · split
    · exact .waits
    · exact .issues _ (State.eframe_fly ..)
  · exact .waits

theorem execXsend_eframes (t : Trig) (o : BitVec 3) (iS iP : BitVec 3) : EFrames st true s (execXsend t o iS iP s) := by
  unfold execXsend
  dsimp only
  split
  · exact .waits
  · exact .raises
  · split
    · exact .waits
    · exact .issues _ ((State.eframe_setPair ..).trans (State.eframe_modUnit _ (.of_ctx_eq rfl)))
  · exact .waits

theorem execXrecv_eframes (t : Trig) (o : BitVec 2) (i : BitVec 3) : EFrames st true s (execXrecv t o i s) := by
  unfold execXrecv
  dsimp only
  split
  · exact .waits
  · exact .raises
  · split
    · exact .waits
    · exact .issues _ ((State.eframe_setPair ..).trans (State.eframe_fly ..))

theorem execAgen_eframes (t : Trig) (g : BitVec 3) (b : Src) : EFrames st ex s (execAgen t g b s) := by
  unfold execAgen
  dsimp only
  split
  · exact .waits
  · exact .raises
  · split
    · exact .issues _ (State.eframe_fly ..)
    · split
      · exact .issues _ (State.eframe_fly ..)
      · exact .issues _ (State.eframe_startMulti ..)
  · exact .waits

theorem execAgset_eframes (t : Trig) (g : BitVec 3) (a : Src) (imm : BitVec 9) : EFrames st ex s (execAgset t g a imm s) := by
  unfold execAgset
  dsimp only
  split
  · exact .waits
  · exact .raises
  · exact .issues _ ((State.eframe_modUnit _ (.of_ctx_eq rfl)).trans (State.eframe_fly ..))
  · exact .waits

theorem execAgrst_eframes (t : Trig) (g : BitVec 3) : EFrames st ex s (execAgrst t g s) := by
  unfold execAgrst
  dsimp only
  split
  · exact .waits
  · exact .raises
  · exact .issues _ ((State.eframe_modUnit _ (.of_ctx_eq rfl)).trans (State.eframe_fly ..))

theorem execCvt_eframes (mode : BitVec 2) (t : Trig) (d : Dst) (a : Src) (src dst : BitVec 4) (sat : Bool) :
    EFrames st ex s (execCvt mode t d a src dst sat s) := by
  unfold execCvt
  dsimp only
  split
  · exact .waits
  · exact .raises
  · split
    · exact .issues _ ((State.eframe_modUnit _ (.of_ctx_eq rfl)).trans (State.eframe_fly ..))
    · exact .issues _ ((State.eframe_modUnit _ (.of_ctx_eq rfl)).trans (State.eframe_fly ..))
    · exact .issues _ ((State.eframe_modUnit _ (.of_ctx_eq rfl)).trans (State.eframe_startMulti ..))
  · exact .waits

end

/-- Every element word keeps its frame. -/
theorem exec_eframes {i : Instr} {v : EView} (hv : i.eview = some v) (s : State) :
    EFrames (isStampedWord i) (isExchangeWord i) s (exec i s) := by
  cases i with
  | mov => exact execMov_eframes ..
  | kind => exact execKind_eframes ..
  | steer => exact execSteer_eframes ..
  | mergec => exact execMergec_eframes ..
  | dup => exact execDup_eframes ..
  | gate => exact execGate_eframes ..
  | join => exact execJoin_eframes ..
  | marki => exact execMarki_eframes ..
  | emitd => exact execEmitd_eframes ..
  | xgrant => exact execXgrant_eframes ..
  | xsend => exact execXsend_eframes ..
  | xrecv => exact execXrecv_eframes ..
  | agen => exact execAgen_eframes ..
  | agset => exact execAgset_eframes ..
  | agrst => exact execAgrst_eframes ..
  | cvtRne | cvtRtz | cvtRdn | cvtRup => exact execCvt_eframes ..
  | ld | st | stw | sth | stb | aadd | amin | amax | aand | aor | axor | axchg | acas | aadds => exact memGo_eframes _ _ _ _ _ nofun
  | stsc | stsp | ldas => exact memGo_eframes _ _ _ _ _ fun _ => rfl
  | add | sub | mul | mulhs | mulhu | and | or | xor | andn | shl | shr | sar | min | max | minu | maxu | adds | subs | clz | popc | sext | zext
  | ceq | cne | clt | cle | cltu | cleu | ctst | addi | andi | ori | xori | shli | shri | sari | ceqi | clti | cltui
  | faddS | fsubS | fmulS | fmacS | fminS | fmaxS | frsqeS | frcpeS | fceqS | fcltS | fcleS | fcunS
  | faddD | fsubD | fmulD | fmacD | fminD | fmaxD | fceqD | fcltD | fcleD | fcunD => exact execPlain_eframes ..
  | movi t d imm => exact execPlain_eframes _ _ fun _ => .int (imm.setWidth 64)
  | shin t d imm => exact execPlain_eframes _ _ fun _ => .int ((s.dValue t.ctx d <<< 14) ||| imm.setWidth 64)
  | _ => cases hv

/-- Settles O3: a word waits, raises a cause, or issues and leaves a flight or a request; each keeps the frame. -/
theorem elementWordsLeaveTheRest : Obligations.ElementWordsLeaveTheRest := by
  intro i v s t hv h
  have hframe := (exec_eframes hv s).frame t h
  exact ⟨fun a => by rw [hframe.mem]; exact ⟨rfl, rfl⟩, hframe.regions, hframe.package, ⟨hframe.others, hframe.regs⟩, hframe.rings,
    hframe.clocks, hframe.stamps, hframe.pairs⟩


/-! PROOFS. The frame of the vector words: what an issue, a cause and a flight of the vector node leave as it was. -/

/-- The frame of a word of the vector node: what `Around` says, stamps, pairs, the node's registers, tags, poison and masks, other
cells' rings and other elements' inputs. -/
structure VFrame (u : UnitId) (s t : State) : Prop extends Around u s t where
  stamps : t.dies = s.dies ∧ t.stamped = s.stamped ∧ t.ldas = s.ldas
  pairs : t.pairs = s.pairs
  vec : (t.unit u).vec.v = (s.unit u).vec.v ∧ (t.unit u).vec.tag = (s.unit u).vec.tag ∧ (t.unit u).vec.pv = (s.unit u).vec.pv ∧
    (t.unit u).vec.m = (s.unit u).vec.m
  rings : ∀ c n, c ≠ u.cellId → t.ring? c n = s.ring? c n
  chans : ∀ v k, v ≠ u → t.chan (.inp v k) = s.chan (.inp v k)

section
variable {u : UnitId} {s t w : State}

theorem VFrame.refl (u : UnitId) (s : State) : VFrame u s s :=
  ⟨.refl u s, ⟨rfl, rfl, rfl⟩, rfl, ⟨rfl, rfl, rfl, rfl⟩, fun _ _ _ => rfl, fun _ _ _ => rfl⟩

theorem VFrame.trans (h : VFrame u s t) (k : VFrame u t w) : VFrame u s w := by
  obtain ⟨hd, hs, hl⟩ := h.stamps
  obtain ⟨kd, ks, kl⟩ := k.stamps
  obtain ⟨hv, htag, hpv, hm⟩ := h.vec
  obtain ⟨kv, ktag, kpv, km⟩ := k.vec
  exact ⟨h.toAround.trans k.toAround, ⟨kd.trans hd, ks.trans hs, kl.trans hl⟩, k.pairs.trans h.pairs,
    ⟨kv.trans hv, ktag.trans htag, kpv.trans hpv, km.trans hm⟩, fun c n hc => (k.rings c n hc).trans (h.rings c n hc),
    fun v i hv => (k.chans v i hv).trans (h.chans v i hv)⟩

theorem State.OnlyCounts.vframe (h : s.OnlyCounts t) : VFrame u s t := by
  refine ⟨h.around u, ?_, ?_, ?_, fun c n _ => ?_, fun v k _ => h.chan _⟩
  · rw [h.rest]; exact ⟨rfl, rfl, rfl⟩
  · rw [h.rest]
  · rw [h.unit]; exact ⟨rfl, rfl, rfl, rfl⟩
  · rw [h.rest]; rfl

/-- A change of the element that keeps its registers, tags, poison and masks. -/
theorem State.vframe_modUnit (s : State) {f : EUnit → EUnit} (hf : (f (s.unit u)).vec.v = (s.unit u).vec.v ∧
    (f (s.unit u)).vec.tag = (s.unit u).vec.tag ∧ (f (s.unit u)).vec.pv = (s.unit u).vec.pv ∧ (f (s.unit u)).vec.m = (s.unit u).vec.m) :
    VFrame u s (s.modUnit u f) :=
  ⟨s.around_modUnit u f, ⟨rfl, rfl, rfl⟩, rfl, by rwa [State.unit_modUnit_same], fun _ _ _ => rfl, fun _ _ _ => rfl⟩

theorem State.vframe_fly (s : State) (u : UnitId) (tick : Nat) (ctx : BitVec 2) (slot lat : Nat) (l : Landing) :
    VFrame u s (s.fly u tick ctx slot lat l) := by
  rw [State.fly]
  exact s.vframe_modUnit ⟨rfl, rfl, rfl, rfl⟩

theorem State.vframe_issueFault (s : State) (ctx : BitVec 2) (f : IssueFault) : VFrame s.site.unit s (s.issueFault ctx f) := by
  obtain ⟨-, hvec, -, hrings, hdies, hstamped, hldas, hpairs, hchans⟩ :=
    s.recordFaultOf_fields s.site.unit s.ticket f.cause s.site.slot ctx.toNat f.chan f.sb 0
  refine ⟨s.around_recordFaultOf .., ⟨hdies, hstamped, hldas⟩, hpairs, ?_, fun c n _ => ?_, fun v k _ => ?_⟩
  · rw [State.issueFault, State.recordFault, hvec]; exact ⟨rfl, rfl, rfl, rfl⟩
  · exact congrArg (fun r => Map.get? r (c, n)) hrings
  · exact congrArg (fun m => Map.get m (Sink.inp v k) {}) hchans

theorem State.vframe_issueV (s : State) (v : VUse) : VFrame s.site.unit s (s.issueV v) := by
  have hunit : VFrame s.site.unit s (({ s with ticket := s.ticket + 1 } : State).modUnit s.site.unit (fun x =>
      { x.modCtx v.trig.ctx.toNat (fun c => c.stepGuard v.trig) with
        vec := x.vec.pend v, issued := true, lastCtx := v.trig.ctx.toNat })) :=
    .trans (t := { s with ticket := s.ticket + 1 }) ⟨⟨rfl, fun _ => rfl, samePackage.refl s, fun _ _ => rfl⟩, ⟨rfl, rfl, rfl⟩, rfl,
      ⟨rfl, rfl, rfl, rfl⟩, fun _ _ _ => rfl, fun _ _ _ => rfl⟩ (State.vframe_modUnit _ ⟨rfl, rfl, rfl, rfl⟩)
  rw [State.issueV]
  exact hunit.trans ((State.countIssue_onlyCounts ..).trans (State.stir_onlyCounts ..)).vframe

theorem State.vframe_setRing (s : State) (u : UnitId) (n : Nat) (g : Ring) : VFrame u s (s.setRing u.cellId n g) :=
  ⟨⟨rfl, fun _ => rfl, samePackage.refl s, fun _ _ => rfl⟩, ⟨rfl, rfl, rfl⟩, rfl, ⟨rfl, rfl, rfl, rfl⟩,
    fun _ _ hc => Map.get?_set_other _ (fun h => hc (congrArg Prod.fst h)) _, fun _ _ _ => rfl⟩

theorem State.vframe_dequeue (s : State) (u : UnitId) (i : Nat) : VFrame u s (s.dequeue u i) :=
  ⟨⟨rfl, fun _ => rfl, samePackage.refl s, fun _ _ => rfl⟩, ⟨rfl, rfl, rfl⟩, rfl, ⟨rfl, rfl, rfl, rfl⟩, fun _ _ _ => rfl,
    fun v k hv => State.chan_modChan_other s (fun h => hv (by injection h)) _⟩

end

/-! ## The vector words -/

/-- Every next state of an outcome is in the frame of the vector word at the site. -/
structure VFrames (s : State) (o : Host.Outcome State Fault Refusal) : Prop where
  frame : ∀ t, o = .next t → VFrame s.site.unit s t

section
variable {s : State}

theorem VFrames.next {t : State} (h : VFrame s.site.unit s t) : VFrames s (.next t) := by
  constructor
  rintro _ ⟨⟩
  exact h

theorem VFrames.waits : VFrames s (.next s) := .next (.refl ..)

theorem VFrames.raises {ctx : BitVec 2} {f : IssueFault} : VFrames s (.next (s.issueFault ctx f)) := .next (s.vframe_issueFault ctx f)

/-- An issue, and then what keeps the frame. -/
theorem VFrames.issues (v : VUse) {t : State} (h : VFrame s.site.unit (s.issueV v) t) : VFrames s (.next t) :=
  .next ((s.vframe_issueV v).trans h)

theorem execV_vframes (v : VUse) (lat : Nat) (l : Landing) : VFrames s (execV v lat l s) := by
  unfold execV
  split
  · exact .waits
  · exact .raises
  · exact .issues v (State.vframe_fly ..)

theorem execVtag_vframes (t : Trig) (vd fmt : BitVec 4) (grp : BitVec 2) (b side : Bool) : VFrames s (execVtag t vd fmt grp b side s) := by
  unfold execVtag
  dsimp only
  split
  · exact .waits
  · exact .raises
  · exact .issues _ (State.vframe_fly ..)

theorem execVsetp_vframes (t : Trig) (j : BitVec 3) : VFrames s (execVsetp t j s) := by
  unfold execVsetp
  split
  · exact .waits
  · exact .raises
  · exact .issues _ ((State.vframe_modUnit _ ⟨rfl, rfl, rfl, rfl⟩).trans (State.vframe_fly ..))

theorem execVldr_vframes (t : Trig) (vd ring : BitVec 4) (pop : Bool) : VFrames s (execVldr t vd ring pop s) := by
  unfold execVldr
  dsimp only
  split
  · exact .waits
  · exact .raises
  · split
    · exact .waits
    · exact .issues _ ((State.vframe_setRing ..).trans (State.vframe_fly ..))

theorem execVstr_vframes (t : Trig) (va ring : BitVec 4) (commit : Bool) : VFrames s (execVstr t va ring commit s) := by
  unfold execVstr
  dsimp only
  split
  · exact .waits
  · exact .raises
  · split
    · exact .waits
    · exact .issues _ ((State.vframe_setRing ..).trans (State.vframe_fly ..))

theorem execVlds_vframes (t : Trig) (vd : BitVec 4) (i : BitVec 2) : VFrames s (execVlds t vd i s) := by
  unfold execVlds
  dsimp only
  split
  · exact .waits
  · exact .raises
  · exact .issues _ ((State.vframe_dequeue ..).trans (State.vframe_modUnit _ ⟨rfl, rfl, rfl, rfl⟩))
  · exact .waits

theorem execVsts_vframes (t : Trig) (va : BitVec 4) (o : BitVec 2) : VFrames s (execVsts t va o s) := by
  unfold execVsts
  dsimp only
  split
  · exact .waits
  · exact .raises
  · exact .issues _ (State.vframe_modUnit _ ⟨rfl, rfl, rfl, rfl⟩)

end

/-- Every vector word keeps its frame. -/
theorem exec_vframes {i : Instr} {g : Trig} (hi : i.vtrig = some g) (s : State) : VFrames s (exec i s) := by
  cases i with
  | vtag t vd fmt grp b side => exact execVtag_vframes t vd fmt grp b side
  | vsetp => exact execVsetp_vframes ..
  | vldr => exact execVldr_vframes ..
  | vstr => exact execVstr_vframes ..
  | vlds => exact execVlds_vframes ..
  | vsts => exact execVsts_vframes ..
  | vmov | vadd | vsub | vmul | vmin | vmax | vfma | vabs | vand | vor | vxor | vshl | vshr | vqshr | vnarrow | vwiden | vwmac
  | vcmpeq | vcmplt | vcmple | vsel | vredadd | vredmax | vbcast | vshuf | vslide | vexp2 | vrcp | vrsq => exact execV_vframes ..
  | _ => cases hi

/-- Settles O12: a vector word waits, raises a cause, or issues and leaves a flight, a load or a send; each keeps the frame. -/
theorem vectorWordsLeaveTheRest : Obligations.VectorWordsLeaveTheRest := by
  intro i g s t hi h
  have hframe := (exec_vframes hi s).frame t h
  obtain ⟨hdies, hstamped, hldas⟩ := hframe.stamps
  obtain ⟨hv, htag, hpv, hm⟩ := hframe.vec
  exact ⟨fun a => by rw [hframe.mem]; exact ⟨rfl, rfl⟩, hframe.regions, hframe.package, hdies, hstamped, hldas, hframe.pairs, hframe.others,
    hv, htag, hpv, hm, hframe.rings, hframe.chans⟩


/-! PROOFS. Causes at issue: each word asks its gate first, and performs nothing where the gate raises (R103, R190, R456). -/

/-! ## Gates that raise -/

section
variable {s : State} {v : EView} {pols : List Pol} {f : IssueFault}

theorem State.gateMem_of_open {op : MemOp} (ho : s.PortOpen op) : s.gateMem v pols op.bankClass = s.gate v pols := by
  rw [State.gateMem, EUnit.portBlocked_of_open ho]
  rfl

theorem MemOp.bankClass_of_stamped {op : MemOp} {sys : Bool} (hop : op.stampScope? = some sys) : op.bankClass = 7 := by
  simp [MemOp.bankClass, hop]

/-- On a die that is not widened a stamped word's gate raises what its operands raise. -/
theorem State.gateStamped_of_raises {op : MemOp} {sys : Bool} (hop : op.stampScope? = some sys) (ho : s.PortOpen op)
    (hs : s.stampBlocked (unitDie s.site.unit) sys = false) (h : s.gate v pols = .raises f) : s.gateStamped sys v pols = .raises f := by
  have hgate := State.gateMem_of_open (v := v) (pols := pols) ho
  rw [MemOp.bankClass_of_stamped hop, h] at hgate
  simp only [State.gateStamped, hgate, hs]
  rfl

/-- On a widened die a stamped word that does not wait raises INTERVAL_WIDE (R151, R152). -/
theorem State.gateStamped_of_wide {op : MemOp} {sys : Bool} (hop : op.stampScope? = some sys) (ho : s.PortOpen op)
    (hs : s.stampBlocked (unitDie s.site.unit) sys = true) (h : s.gate v pols ≠ .wait) :
    s.gateStamped sys v pols = .raises ⟨cWIDE, none, 0⟩ := by
  have hgate := State.gateMem_of_open (v := v) (pols := pols) ho
  rw [MemOp.bankClass_of_stamped hop] at hgate
  unfold State.gateStamped
  rw [hgate]
  split
  · next hwait => exact absurd hwait h
  · rw [hs]; rfl

theorem checkOpnds_replicate (ops : List Opnd) (n : Nat) : checkOpnds ops (List.replicate n {}) = checkOpnds ops [] := by
  induction ops generalizing n with
  | nil => rfl
  | cons o ops ih =>
    cases n with
    | zero => rfl
    | succ n =>
      rw [List.replicate_succ, checkOpnds, checkOpnds]
      cases o.check {} with
      | none => exact ih n
      | some f => rfl

/-- Checks that say nothing of an operand are the usual ones. -/
theorem State.gate_replicate (n : Nat) : s.gate v (List.replicate n {}) = s.gate v [] := by
  simp only [State.gate, checkOpnds_replicate]

/-- A word without operands raises nothing. -/
theorem State.gate_ne_raises (hins : v.ins = []) (hreads : v.reads = []) : s.gate v [] ≠ .raises f := by
  unfold State.gate
  simp only [hins, hreads]
  split
  · exact nofun
  · simp [State.readSrcs, checkOpnds]

end

section
variable {s : State} {f : IssueFault}

theorem execPlain_of_raises {v : EView} {lat : Nat} {g : List Word → ERes} (h : s.gate v [] = .raises f) :
    execPlain v lat g s = .next (s.issueFault v.trig.ctx f) := by
  rw [execPlain, h]

theorem memGo_raises {v : EView} {op : MemOp} {ord : MemOrder} {x : Word} {g : Gate} (h : g = .raises f) :
    (.next (memGo s v op ord x g) : Host.Outcome State Fault Refusal) = .next (s.issueFault v.trig.ctx f) := by
  rw [h]
  rfl

theorem State.gateLdas_of_raises {v : EView} {sys : Bool} (h : s.gateStamped sys v [{ align := 8 }, {}] = .raises f) :
    s.gateLdas sys v = .raises f := by
  rw [State.gateLdas, h]

/-- What the gate of CVT checks is what the statement reads off its operand. -/
theorem State.gateCvt_of_pols {mode : BitVec 2} {t : Trig} {d : Dst} {a : Src} {src dst : BitVec 4} {sat : Bool} {pols : List Pol}
    (hp : some [(⟨true, (s.readSrc s.site.unit t.ctx a).all (fun o => o.tok.all (fun k => decide (k.kind = 0))), 1⟩ : Pol)] = some pols)
    (h : s.gate (.std t d [a] .none) pols = .raises f) :
    execCvt mode t d a src dst sat s = .next (s.issueFault t.ctx f) := by
  obtain rfl := Option.some.inj hp
  have hgate : s.gateCvt t d a = .raises f := by
    rw [← h, State.gateCvt]
    cases s.readSrc s.site.unit t.ctx a with
    | none => rfl
    | some o => cases o with
      | mk val poison tok chan => cases tok <;> rfl
  rw [execCvt, hgate]

/-- An element word whose operands fail a check raises that cause. -/
theorem exec_of_raises {i : Instr} {v : EView} {pols : List Pol} (hv : i.eview = some v) (hp : issuePols s i = some pols)
    (hm : ∀ op o ps, memWord i = some (op, o, ps) →
      s.PortOpen op ∧ ∀ sys, op.stampScope? = some sys → s.stampBlocked (unitDie s.site.unit) sys = false)
    (h : s.gate v pols = .raises f) : exec i s = .next (s.issueFault v.trig.ctx f) := by
  cases i with
  | mov t d a p =>
    cases hv; cases hp
    show execMov .. = _
    simp only [execMov, h]
    rfl
  | kind t d x kept p =>
    cases hv; cases hp
    show execKind .. = _
    simp only [execKind, h]
    rfl
  | dup t o a =>
    cases hv; cases hp
    have hgate : s.gate (dupView t o a) [polValue] = .raises f := h
    show execDup .. = _
    rw [execDup, hgate]
  | gate t d a b =>
    cases hv; cases hp
    have hgate : s.gate (.std t d [a, b] .none) [polValue, {}] = .raises f := h
    show execGate .. = _
    simp only [execGate, hgate]
    rfl
  | join t d a b =>
    cases hv; cases hp
    have hgate : s.gate (.std t d [a, b] .none) [polValue, polValue] = .raises f := h
    show execJoin .. = _
    simp only [execJoin, hgate]
    rfl
  | marki t o code =>
    cases hv; cases hp
    have hgate : s.gate (markiView t o) [] = .raises f := h
    show execMarki .. = _
    simp only [execMarki, hgate]
  | emitd t o a =>
    cases hv; cases hp
    have hgate : s.gate (emitdView t o a) [polValue] = .raises f := h
    show execEmitd .. = _
    simp only [execEmitd, hgate]
  | xgrant t o a =>
    cases hv; cases hp
    have hgate : s.gate (xgrantView t o a) [{}] = .raises f := (State.gate_replicate 1).trans h
    have hx : s.gateXgrant t o a = .raises f := by simp only [State.gateXgrant, hgate]
    show execXgrant .. = _
    rw [execXgrant, hx]
  | xrecv t o x => cases hv; cases hp; exact absurd h (State.gate_ne_raises rfl rfl)
  | agen t g b =>
    cases hv; cases hp
    have hgate : s.gate (agenView t g b) [{}, {}] = .raises f := (State.gate_replicate 2).trans h
    show execAgen .. = _
    simp only [execAgen, hgate]
  | agset t g a m =>
    cases hv; cases hp
    have hgate : s.gate { trig := t, ins := [a], regDst := some g } [{}] = .raises f := (State.gate_replicate 1).trans h
    show execAgset .. = _
    simp only [execAgset, hgate]
  | agrst t g => cases hv; cases hp; exact absurd h (State.gate_ne_raises rfl rfl)
  | cvtRne | cvtRtz | cvtRdn | cvtRup => cases hv; exact State.gateCvt_of_pols hp h
  | ld | st | stw | sth | stb | aadd | amin | amax | aand | aor | axor | axchg | acas | aadds =>
    cases hv; cases hp
    exact memGo_raises ((State.gateMem_of_open (hm _ _ _ rfl).1).trans h)
  | stsc t d a b sys | stsp t d a b sys =>
    cases hv; cases hp
    obtain ⟨hopen, hscope⟩ := hm _ _ _ rfl
    exact memGo_raises (State.gateStamped_of_raises rfl hopen (hscope sys rfl) h)
  | ldas t d a b sys =>
    cases hv; cases hp
    obtain ⟨hopen, hscope⟩ := hm _ _ _ rfl
    exact memGo_raises (State.gateLdas_of_raises (State.gateStamped_of_raises rfl hopen (hscope sys rfl) h))
  | add | sub | mul | mulhs | mulhu | and | or | xor | andn | shl | shr | sar | min | max | minu | maxu | adds | subs | clz | popc | sext | zext
  | ceq | cne | clt | cle | cltu | cleu | ctst | addi | andi | ori | xori | shli | shri | sari | ceqi | clti | cltui
  | faddS | fsubS | fmulS | fmacS | fminS | fmaxS | frsqeS | frcpeS | fceqS | fcltS | fcleS | fcunS
  | faddD | fsubD | fmulD | fmacD | fminD | fmaxD | fceqD | fcltD | fcleD | fcunD =>
    cases hv; cases hp; exact execPlain_of_raises h
  | movi => cases hv; cases hp; exact absurd h (State.gate_ne_raises rfl rfl)
  | shin t d imm =>
    cases hv; cases hp
    exact execPlain_of_raises (g := fun _ => .int ((s.dValue t.ctx d <<< 14) ||| imm.setWidth 64)) h
  | steer | mergec | xsend => cases hp
  | _ => cases hv

/-- A stamped word on a widened die raises INTERVAL_WIDE. -/
theorem exec_of_wide {i : Instr} {v : EView} {pols : List Pol} {op : MemOp} {o : MemOrder} {sys : Bool} (hv : i.eview = some v)
    (hw : memWord i = some (op, o, pols)) (hop : op.stampScope? = some sys) (ho : s.PortOpen op)
    (hs : s.stampBlocked (unitDie s.site.unit) sys = true) (h : s.gate v pols ≠ .wait) :
    exec i s = .next (s.issueFault v.trig.ctx ⟨0x08, none, 0⟩) := by
  have hgate := State.gateStamped_of_wide hop ho hs h
  cases i with
  | stsc | stsp =>
    cases hv; cases hw; cases hop
    exact memGo_raises hgate
  | ldas =>
    cases hv; cases hw; cases hop
    exact memGo_raises (State.gateLdas_of_raises hgate)
  | ld | st | stw | sth | stb | aadd | amin | amax | aand | aor | axor | axchg | acas | aadds => cases hw; cases hop
  | _ => cases hw

end

/-! ## The exchange words' own causes (R330, R331) -/

section
variable {s : State} {t : Trig} {o iS iP : BitVec 3} {x q : Opnd}

theorem execXgrant_of_no_buffer {o : BitVec 2} {a : Src} (hc : s.Clear (xgrantView t o a) [] [x])
    (hp : ∀ k p, s.permitPair s.site.unit o.toNat = some (k, p) → (p.buf (x.val.getLsbD 0)).st ≠ .free) :
    execXgrant t o a s = .next (s.issueFault t.ctx ⟨0x14, none, 0⟩) := by
  have hgate : s.gate (xgrantView t o a) [{}] = .go [x] := State.gate_of_clear (hc.with_plain_checks 1)
  have hx : s.gateXgrant t o a = .raises ⟨cPERMIT, none, 0⟩ := by
    simp only [State.gateXgrant, hgate]
    cases hpair : s.permitPair s.site.unit o.toNat with
    | none => rfl
    | some e => exact if_neg (hp e.1 e.2 hpair)
  rw [execXgrant, hx]
  rfl

section
variable (hable : s.Able s.site.unit s.site.slot (xsendView t iS iP))
  (hsrcs : s.readSrcs s.site.unit t.ctx [.take iS, .take iP] = some [x, q])
include hable hsrcs

theorem State.gateXsend_of_bad_header {h : Tok} (hx : x.tok = some h) (hbad : h.kind ≠ 0 ∨ (h.utag ≠ 1 ∧ h.utag ≠ 2)) :
    s.gateXsend t o iS iP = .raises ⟨cCHANNEL, x.chan, h.sideband⟩ := by
  have hready : s.ready (xsendView t iS iP) = true := State.ready_iff_able.2 hable
  have hsrcs : s.readSrcs s.site.unit t.ctx (xsendView t iS iP).ins = some [x, q] := hsrcs
  have hheader : (decide (h.kind ≠ 0) || (decide (h.utag ≠ 1) && decide (h.utag ≠ 2))) = true := by simpa using hbad
  simp only [State.gateXsend, hready, hsrcs, hx, hheader, if_true]
  rfl

variable {h : Tok} (hx : x.tok = some h) (hkind : h.kind = 0) (hutag : h.utag = 1 ∨ h.utag = 2)
include hx hkind hutag

theorem State.gateXsend_of_bad_permit {f : IssueFault} (hq : q.check { use := false } = some f) :
    s.gateXsend t o iS iP = .raises f := by
  have hready : s.ready (xsendView t iS iP) = true := State.ready_iff_able.2 hable
  have hsrcs : s.readSrcs s.site.unit t.ctx (xsendView t iS iP).ins = some [x, q] := hsrcs
  have hheader : (decide (h.kind ≠ 0) || (decide (h.utag ≠ 1) && decide (h.utag ≠ 2))) = false := by
    rcases hutag with hu | hu <;> simp [hkind, hu]
  simp only [State.gateXsend, hready, hsrcs, hx, hheader, hq]
  rfl

theorem State.gateXsend_of_no_pair (hq : q.check { use := false } = none)
    (hp : s.sendPair s.site.unit o.toNat = none ∨ x.val.getLsbD 2 ≠ q.val.getLsbD 0) :
    s.gateXsend t o iS iP = .raises ⟨cPERMIT, none, 0⟩ := by
  have hready : s.ready (xsendView t iS iP) = true := State.ready_iff_able.2 hable
  have hsrcs : s.readSrcs s.site.unit t.ctx (xsendView t iS iP).ins = some [x, q] := hsrcs
  have hheader : (decide (h.kind ≠ 0) || (decide (h.utag ≠ 1) && decide (h.utag ≠ 2))) = false := by
    rcases hutag with hu | hu <;> simp [hkind, hu]
  simp only [State.gateXsend, hready, hsrcs, hx, hheader, hq]
  cases hpair : s.sendPair s.site.unit o.toNat with
  | none => rfl
  | some e =>
    have hpar : ¬ x.val.getLsbD 2 = q.val.getLsbD 0 := by simpa [hpair] using hp
    simp only [hpar, if_false]
    rfl

end

theorem execXsend_of_raises {f : IssueFault} (h : s.gateXsend t o iS iP = .raises f) :
    execXsend t o iS iP s = .next (s.issueFault t.ctx f) := by
  rw [execXsend, h]

end

/-! ## MERGEC's control (R322) -/

section
variable {s : State} {t : Trig} {d : Dst} {iT iF iC : BitVec 3} {c : Opnd} (hruns : s.Runs s.site.unit s.site.slot t)
  (hc : s.readSrc s.site.unit t.ctx (.take iC) = some c) {f : IssueFault}
include hruns hc

theorem State.gateMergec_eq : s.gateMergec t d iT iF iC = match c.check {} with
    | some f => .raises f
    | none => s.gate (mergeView t d (mergeSide iT iF c.val) iC) [{}, polValue] := by
  obtain ⟨alive, bank, guard⟩ := State.runs_iff.1 hruns
  simp only [State.gateMergec, alive, bank, guard, hc]
  rfl

theorem execMergec_of_bad_control (h : c.check {} = some f) : execMergec t d iT iF iC s = .next (s.issueFault t.ctx f) := by
  rw [execMergec, State.gateMergec_eq hruns hc, h]

theorem execMergec_of_raises (h : c.check {} = none)
    (hg : s.gate (mergeView t d (mergeSide iT iF c.val) iC) [{}, polValue] = .raises f) :
    execMergec t d iT iF iC s = .next (s.issueFault t.ctx f) := by
  rw [execMergec, State.gateMergec_eq hruns hc, h]
  simp only [hg]

end

/-! ## What EFAULT records (R189, R190, R393) -/

theorem efaultWord_valid (cause : Byte) (word ctx : Nat) (tag : Byte) (chan : Option Nat) (sb : BitVec 14) (flags : BitVec 6) :
    (efaultWord cause word ctx tag chan sb flags).getLsbD 63 = true := by
  simp only [efaultWord, BitVec.getLsbD_append]
  simp

theorem setBit_true {n : Nat} (v : BitVec n) (k : Nat) : setBit v k true = v ||| (1 : BitVec n) <<< k := by
  rw [setBit, if_pos rfl, BitVec.twoPow]
  rfl

section
variable (s : State) (u : UnitId) (tick : Nat) (cause : Byte) (word ctx : Nat) (chan : Option Nat) (sb : BitVec 14) (flags : BitVec 6)

/-- The first cause writes every field. -/
theorem State.recordFaultOf_first (h : (s.unit u).efault.getLsbD 63 = false) :
    ((s.recordFaultOf u tick cause word ctx chan sb flags).unit u).efault =
      efaultWord cause word ctx (s.region u.region).tag chan sb flags := by
  have hs : (s.unit u).stopped = false := h
  simp only [State.recordFaultOf, hs]
  exact congrArg EUnit.efault (State.unit_raise_setUnit ..)

/-- A later cause sets `more`; of an earlier word in the same cycle it takes the fields. -/
theorem State.recordFaultOf_later (h : (s.unit u).efault.getLsbD 63 = true) :
    ((s.recordFaultOf u tick cause word ctx chan sb flags).unit u).efault =
      if (s.unit u).faultCyc = s.cyc ∧ tick < (s.unit u).faultTick
      then efaultWord cause word ctx (s.region u.region).tag chan sb flags ||| (1 : Word) <<< 62
      else (s.unit u).efault ||| (1 : Word) <<< 62 := by
  have hs : (s.unit u).stopped = true := h
  simp only [State.recordFaultOf, hs, Bool.and_eq_true, decide_eq_true_eq, if_true]
  split <;> rw [State.unit_setUnit_same, setBit_true]

/-- The first cause holds FABRIC_FAULT at the region's core. -/
theorem State.recordFaultOf_core (h : (s.unit u).efault.getLsbD 63 = false) :
    (s.recordFaultOf u tick cause word ctx chan sb flags).core u.region =
      if (s.region u.region).launch.isSome then (s.core u.region).hold .fabric (efaultNum u) else s.core u.region := by
  have hs : (s.unit u).stopped = false := h
  simp only [State.recordFaultOf, hs, Bool.false_eq_true, if_false]
  by_cases hl : (s.region u.region).launch.isSome = true
  · rw [if_pos hl]
    refine (congrArg (fun w : State => w.core u.region) (if_pos hl)).trans ?_
    exact congrArg Region.core (State.region_modRegion_same ..)
  · rw [if_neg hl]
    refine (congrArg (fun w : State => w.core u.region) (if_neg hl)).trans ?_
    rfl

end

theorem Core.hold_fabric_of_handled {k : Core} (v : Word) (h : k.handlesFabric = true) : k.hold .fabric v = k := by
  simp [Core.hold, h]

theorem Core.hold_fabric_pends {k : Core} (v : Word) (h : k.handlesFabric = false) : (k.hold .fabric v).pend.fabric.isSome = true := by
  simp [Core.hold, h, Pend.add]

/-- A cause at issue: what it leaves, and what it records. -/
theorem State.issueFault_records (s : State) (c : BitVec 2) (f : IssueFault) :
    let u := s.site.unit
    let t := s.issueFault c f
    ((s.unit u).efault.getLsbD 63 = false →
      (t.unit u).efault = efaultWord f.cause s.site.slot c.toNat (s.region u.region).tag f.chan f.sb 0 ∧
      (t.unit u).efault.getLsbD 63 = true ∧
      ((s.region u.region).launch.isSome = true → (s.core u.region).handlesFabric = false →
        (t.core u.region).pend.fabric.isSome = true) ∧
      ((s.core u.region).handlesFabric = true → (t.core u.region).pend = (s.core u.region).pend)) ∧
    ((s.unit u).efault.getLsbD 63 = true → (s.unit u).faultTick ≤ s.ticket →
      (t.unit u).efault = (s.unit u).efault ||| (1 : Word) <<< 62) := by
  refine ⟨fun h => ?_, fun h htick => ?_⟩
  · have hword := s.recordFaultOf_first s.site.unit s.ticket f.cause s.site.slot c.toNat f.chan f.sb 0 h
    have hcore := s.recordFaultOf_core s.site.unit s.ticket f.cause s.site.slot c.toNat f.chan f.sb 0 h
    refine ⟨hword, (congrArg (fun w => BitVec.getLsbD w 63) hword).trans (efaultWord_valid ..), fun hl hf => ?_, fun hf => ?_⟩
    · rw [State.issueFault, State.recordFault, hcore, if_pos hl]
      exact Core.hold_fabric_pends _ hf
    · rw [State.issueFault, State.recordFault, hcore, Core.hold_fabric_of_handled _ hf, ite_self]
  · rw [State.issueFault, State.recordFault, s.recordFaultOf_later _ _ _ _ _ _ _ _ h, if_neg (fun hc => absurd hc.2 (Nat.not_lt.2 htick))]

theorem State.Clear.of_align {s : State} {v : EView} {n : Nat} {ops : List Opnd} (h : s.Clear v [{ align := n }] ops) :
    s.Clear v [{ align := n }, {}] ops := by
  obtain ⟨able, srcs, checks, clean⟩ := h
  refine ⟨able, srcs, fun k o hk => ?_, clean⟩
  have hsame : ([{ align := n }, {}] : List Pol).getD k {} = ([{ align := n }] : List Pol).getD k {} := by
    rcases k with _ | _ | k <;> rfl
  rw [hsame]
  exact checks k o hk

/-- Settles O20: every word's gate raises what its operands, its die or its pair raise; a recorded cause writes EFAULT. -/
theorem issueFaultsStopTheElement : Obligations.IssueFaultsStopTheElement := by
  refine ⟨fun i v pols f s hv hp hm h => exec_of_raises hv hp hm h, fun i v pols op o sys s hv hw hop ho hs h => exec_of_wide hv hw hop ho hs h,
    ?_, ?_, ?_, fun t o a x s hc hp => execXgrant_of_no_buffer hc hp, ?_, ?_, ?_⟩
  · intro t d a b sys x y s ho hs hc hl
    have hgate : s.gateStamped sys (.std t d [a, b] .none) [{ align := 8 }, {}] = .go [x, y] := by
      have hmem := State.gateMem_of_clear ho hc.of_align
      rw [MemOp.bankClass_of_stamped rfl] at hmem
      simp only [State.gateStamped, hmem, hs]
      rfl
    have hldas : s.gateLdas sys (.std t d [a, b] .none) = .raises ⟨cPROT, none, 0⟩ := by
      simp only [State.gateLdas, hgate, if_pos hl]
    exact memGo_raises hldas
  · intro t o a b c f s hc h
    have hgate : s.gateSteer t o a b = .raises f := by
      simp only [State.gateSteer, hc]
      exact h
    show execSteer .. = _
    rw [execSteer, hgate]
  · intro t d iT iF iC c s hruns hc
    exact ⟨fun f h => execMergec_of_bad_control hruns hc h, fun f h hg => execMergec_of_raises hruns hc h hg⟩
  · intro t o iS iP x q s hable hsrcs
    exact ⟨fun h hx hbad => execXsend_of_raises (State.gateXsend_of_bad_header hable hsrcs hx hbad), fun h hx hkind hutag =>
      ⟨fun f hq => execXsend_of_raises (State.gateXsend_of_bad_permit hable hsrcs hx hkind hutag hq), fun hq hp =>
        execXsend_of_raises (State.gateXsend_of_no_pair hable hsrcs hx hkind hutag hq hp)⟩⟩
  · intro c f s
    have hrecords := s.issueFault_records c f
    obtain ⟨hctx, hvec, hflights, hrings, -, -, -, hpairs, hchans⟩ :=
      s.recordFaultOf_fields s.site.unit s.ticket f.cause s.site.slot c.toNat f.chan f.sb 0
    have hmem : (s.issueFault c f).mem = s.mem := (s.around_recordFaultOf ..).mem
    exact ⟨fun a => by rw [hmem]; exact ⟨rfl, rfl⟩, hchans, hrings, hpairs, hctx, hvec, hflights, hrecords.1, hrecords.2⟩
  · intro u tick cause w ctx ch sb fl s h hcyc
    rw [s.recordFaultOf_later _ _ _ _ _ _ _ _ h]
    simp only [hcyc, true_and]


/-! PROOFS. The pairwise tree of the reductions (R226): rounds of the list are levels of the tree. -/

/-! ## One round -/

section
variable (g : Nat → Nat → Res) (t : Nat → Nat)

/-- The tree over the results of a first round is the tree over the lanes. -/
theorem redTree_round (n k : Nat) : redTree g (fun j => (g (t (2 * j)) (t (2 * j + 1))).bits) n k = redTree g t (n + 1) k := by
  induction n generalizing k with
  | zero => rfl
  | succ n ih => rw [redTree, redTree, ih, ih]

theorem or_shuffle (a b c d e : Prop) : ((a ∨ b) ∨ c ∨ d) ∨ e ↔ ((a ∨ c) ∨ e) ∨ b ∨ d := by tauto

/-- The flags of the tree are those of its first round and of the tree over its results. -/
theorem getLsbD_redFlags_succ (n k b : Nat) : (redFlags g t (n + 1) k).getLsbD b = true ↔
    (redFlags g (fun j => (g (t (2 * j)) (t (2 * j + 1))).bits) n k).getLsbD b = true ∨
      ∃ j, j < 2 ^ n ∧ (g (t (2 * (2 ^ n * k + j))) (t (2 * (2 ^ n * k + j) + 1))).flags.getLsbD b = true := by
  induction n generalizing k with
  | zero => simp [redFlags, redTree]
  | succ n ih =>
    have hhalf : ∀ P : Nat → Prop, (∃ j, j < 2 ^ (n + 1) ∧ P (2 ^ (n + 1) * k + j)) ↔
        (∃ j, j < 2 ^ n ∧ P (2 ^ n * (2 * k) + j)) ∨ ∃ j, j < 2 ^ n ∧ P (2 ^ n * (2 * k + 1) + j) := by
      intro P
      have hlow : 2 ^ n * (2 * k) = 2 ^ (n + 1) * k := by ring
      have hhigh : 2 ^ n * (2 * k + 1) = 2 ^ (n + 1) * k + 2 ^ n := by ring
      rw [hlow, hhigh]
      constructor
      · rintro ⟨j, hj, h⟩
        by_cases hjn : j < 2 ^ n
        · exact .inl ⟨j, hjn, h⟩
        · refine .inr ⟨j - 2 ^ n, by rw [Nat.pow_succ] at hj; omega, ?_⟩
          rwa [Nat.add_assoc, Nat.add_sub_cancel' (Nat.le_of_not_lt hjn)]
      · rintro (⟨j, hj, h⟩ | ⟨j, hj, h⟩)
        · exact ⟨j, by rw [Nat.pow_succ]; omega, h⟩
        · exact ⟨2 ^ n + j, by rw [Nat.pow_succ]; omega, by rwa [← Nat.add_assoc]⟩
    have hnode : ∀ (t : Nat → Nat) (n : Nat), (redFlags g t (n + 1) k).getLsbD b = true ↔
        ((redFlags g t n (2 * k)).getLsbD b = true ∨ (redFlags g t n (2 * k + 1)).getLsbD b = true) ∨
          (g (redTree g t n (2 * k)) (redTree g t n (2 * k + 1))).flags.getLsbD b = true := fun t n => by
      rw [redFlags]
      simp only [BitVec.getLsbD_or, Bool.or_eq_true]
    rw [hhalf (fun j => (g (t (2 * j)) (t (2 * j + 1))).flags.getLsbD b = true), hnode, hnode, ih, ih, redTree_round, redTree_round]
    exact or_shuffle ..

theorem pairUp_range (n : Nat) : pairUp g ((List.range (2 * n)).map t) = (List.range n).map (fun k => g (t (2 * k)) (t (2 * k + 1))) := by
  induction n generalizing t with
  | zero => rfl
  | succ n ih =>
    have hsplit : (List.range (2 * (n + 1))).map t = t 0 :: t 1 :: (List.range (2 * n)).map (fun k => t (k + 2)) := by
      rw [Nat.mul_succ, List.range_succ_eq_map, List.range_succ_eq_map]
      simp [List.map_map, Function.comp_def]
    rw [hsplit, pairUp, ih, List.range_succ_eq_map, List.map_cons, List.map_map]
    rfl

theorem getLsbD_foldl_flags (l : List Res) (f : Flags) (b : Nat) :
    (l.foldl (fun f r => f ||| r.flags) f).getLsbD b = true ↔ f.getLsbD b = true ∨ ∃ r ∈ l, r.flags.getLsbD b = true := by
  induction l generalizing f with
  | nil => simp
  | cons r l ih => simp [ih, or_assoc]

/-! ## The tree -/

theorem reduceTree_pair (m : Nat) (l : List Nat) (f : Flags) (h : 2 ≤ l.length) : reduceTree g (m + 1) l f =
    reduceTree g m ((pairUp g l).map Res.bits) ((pairUp g l).foldl (fun f r => f ||| r.flags) f) := by
  match l, h with
  | a :: b :: l, _ => rfl

/-- On 2^n lanes the rounds give the tree's value, and set its flags besides those there are. -/
theorem reduceTree_range (n m : Nat) (hm : n ≤ m) (f : Flags) :
    (reduceTree g m ((List.range (2 ^ n)).map t) f).1 = redTree g t n 0 ∧
      ∀ b, (reduceTree g m ((List.range (2 ^ n)).map t) f).2.getLsbD b = true ↔
        f.getLsbD b = true ∨ (redFlags g t n 0).getLsbD b = true := by
  induction n generalizing m t f with
  | zero => cases m <;> simp [reduceTree, redTree, redFlags]
  | succ n ih =>
    obtain ⟨m, rfl⟩ : ∃ k, m = k + 1 := ⟨m - 1, by omega⟩
    have hlen : 2 ≤ ((List.range (2 ^ (n + 1))).map t).length := by
      have := Nat.one_le_two_pow (n := n)
      simp only [List.length_map, List.length_range, Nat.pow_succ]
      omega
    have hpair : pairUp g ((List.range (2 ^ (n + 1))).map t) = (List.range (2 ^ n)).map (fun k => g (t (2 * k)) (t (2 * k + 1))) := by
      rw [Nat.pow_succ, Nat.mul_comm, pairUp_range]
    rw [reduceTree_pair g m _ f hlen, hpair, List.map_map]
    obtain ⟨hval, hflags⟩ := ih (fun j => (g (t (2 * j)) (t (2 * j + 1))).bits) m (by omega)
      (((List.range (2 ^ n)).map (fun k => g (t (2 * k)) (t (2 * k + 1)))).foldl (fun f r => f ||| r.flags) f)
    refine ⟨hval.trans (redTree_round g t n 0), fun b => (hflags b).trans ?_⟩
    rw [getLsbD_redFlags_succ, getLsbD_foldl_flags]
    simp only [List.mem_map, List.mem_range, exists_exists_and_eq_and, Nat.mul_zero, Nat.zero_add]
    simp only [or_left_comm, or_comm]

theorem reduceTree_of_lanes {n m : Nat} (hm : n ≤ m) {l : List Nat} (hl : l = (List.range (2 ^ n)).map t) :
    reduceTree g m l 0 = (redTree g t n 0, redFlags g t n 0) := by
  subst hl
  obtain ⟨hval, hflags⟩ := reduceTree_range g t n m hm 0
  refine Prod.ext hval (BitVec.eq_of_getLsbD_eq fun b _ => ?_)
  rw [Bool.eq_iff_iff, hflags]
  simp

end

/-! ## Sums and maxima (R226 on integers) -/

/-- A tree of sums modulo 2^w is the sum of its lanes modulo 2^w. -/
theorem redTree_sum_modEq {w : Nat} {sg : Bool} {g : Nat → Nat → Res} (hg : ∀ a b, (g a b).bits = intBits w (intVal w sg a + intVal w sg b))
    (t : Nat → Nat) (n k : Nat) :
    (redTree g t n k : Int) ≡ ((List.range (2 ^ n)).map (fun j => intVal w sg (t (2 ^ n * k + j)))).sum [ZMOD 2 ^ w] := by
  induction n generalizing k with
  | zero => simpa [redTree] using (intVal_modEq w sg (t k)).symm
  | succ n ih =>
    have hbits : ((g (redTree g t n (2 * k)) (redTree g t n (2 * k + 1))).bits : Int) ≡
        redTree g t n (2 * k) + redTree g t n (2 * k + 1) [ZMOD 2 ^ w] := by
      rw [hg, intBits, Int.toNat_of_nonneg (Int.emod_nonneg _ (by positivity))]
      push_cast
      exact (Int.mod_modEq _ _).trans ((intVal_modEq ..).add (intVal_modEq ..))
    have hsplit : ((List.range (2 ^ (n + 1))).map (fun j => intVal w sg (t (2 ^ (n + 1) * k + j)))).sum =
        ((List.range (2 ^ n)).map (fun j => intVal w sg (t (2 ^ n * (2 * k) + j)))).sum +
          ((List.range (2 ^ n)).map (fun j => intVal w sg (t (2 ^ n * (2 * k + 1) + j)))).sum := by
      have hlow : 2 ^ (n + 1) * k = 2 ^ n * (2 * k) := by ring
      have hhigh : ∀ j, 2 ^ n * (2 * k + 1) + j = 2 ^ n * (2 * k) + (2 ^ n + j) := fun j => by ring
      simp only [hhigh]
      rw [hlow, Nat.pow_succ, Nat.mul_two, List.range_add, List.map_append, List.sum_append, List.map_map]
      rfl
    rw [redTree, hsplit]
    exact hbits.trans ((ih _).add (ih _))

theorem intVal_intBits_intVal (w : Nat) (sg : Bool) (a : Nat) : intVal w true (intBits w (intVal w sg a)) = intVal w true a := by
  have hbits : intBits w (intVal w sg a) = a % 2 ^ w := by
    have h := intVal_modEq w sg a
    rw [intBits]
    push_cast
    rw [h]
    exact_mod_cast Int.toNat_natCast (a % 2 ^ w)
  rw [hbits, intVal, intVal, Nat.mod_mod]

/-- The pattern that a maximum delivers, read signed, is the greater of the two, read signed. -/
theorem intVal_signedMax (w : Nat) (sg : Bool) (a b : Nat) :
    intVal w true (intBits w (signedMax w (intVal w sg a) (intVal w sg b))) = max (intVal w true a) (intVal w true b) := by
  unfold signedMax
  rw [intVal_intBits_intVal, intVal_intBits_intVal]
  split
  · next h => rw [intVal_intBits_intVal, max_eq_right h.le]
  · next h => rw [intVal_intBits_intVal, max_eq_left (Int.not_lt.1 h)]

theorem foldl_max_append_range (f : Nat → Int) (z : Int) (n : Nat) : ((List.range (n + n)).map f).foldl max z =
    max (((List.range n).map f).foldl max z) (((List.range n).map (fun j => f (n + j))).foldl max z) := by
  have hmax : ∀ (l : List Int) (x y : Int), l.foldl max (max x y) = max x (l.foldl max y) := by
    intro l
    induction l with
    | nil => exact fun x y => rfl
    | cons e l ih => intro x y; rw [List.foldl_cons, List.foldl_cons, max_assoc, ih]
  have hz : ∀ (l : List Int) (x : Int), z ≤ x → l.foldl max x = max x (l.foldl max z) := fun l x hx => by
    rw [← hmax, max_eq_left hx]
  have hle : ∀ (l : List Int), z ≤ l.foldl max z := by
    intro l
    have : l.foldl max z = max z (l.foldl max z) := by rw [← hmax, max_self]
    rw [this]
    exact le_max_left _ _
  rw [List.range_add, List.map_append, List.foldl_append, List.map_map, hz _ _ (hle _)]
  rfl

/-- A tree of signed maxima delivers the greatest of its lanes, read signed. -/
theorem redTree_max {w : Nat} {sg : Bool} {g : Nat → Nat → Res} (hw : 0 < w)
    (hg : ∀ a b, (g a b).bits = intBits w (signedMax w (intVal w sg a) (intVal w sg b))) (t : Nat → Nat) (n k : Nat) :
    intVal w true (redTree g t n k) =
      ((List.range (2 ^ n)).map (fun j => intVal w true (t (2 ^ n * k + j)))).foldl max (-2 ^ (w - 1)) := by
  induction n generalizing k with
  | zero =>
    have hlow : -2 ^ (w - 1) ≤ intVal w true (t k) := by
      have hpow : (2 : Int) ^ w = 2 * 2 ^ (w - 1) := by rw [← pow_succ', Nat.sub_add_cancel hw]
      have hpos : (0 : Int) < 2 ^ (w - 1) := by positivity
      unfold intVal
      split
      · next h =>
        simp only [Bool.true_and, decide_eq_true_eq] at h
        have : (2 ^ (w - 1) : Int) ≤ (t k % 2 ^ w : Nat) := by exact_mod_cast h
        omega
      · omega
    simpa [redTree] using hlow
  | succ n ih =>
    have hlow : 2 ^ (n + 1) * k = 2 ^ n * (2 * k) := by ring
    have hhigh : ∀ j, 2 ^ n * (2 * k + 1) + j = 2 ^ n * (2 * k) + (2 ^ n + j) := fun j => by ring
    rw [redTree, hg, intVal_signedMax, ih, ih, hlow, Nat.pow_succ, Nat.mul_two, foldl_max_append_range]
    simp only [hhigh]

/-- A pattern of w bits is that of the integer it is read as. -/
theorem mod_eq_intVal_mod (w : Nat) (sg : Bool) (a : Nat) : a % 2 ^ w = (intVal w sg a % 2 ^ w).toNat := by
  rw [intVal_modEq w sg a]
  exact_mod_cast (Int.toNat_natCast (a % 2 ^ w)).symm


/-! PROOFS. Widening words, compares and reductions of the vector node (R222-R224, R226). -/

/-! ## Widening (R222) -/

theorem laneOn_zero_shift (mask : Word) (w j : Nat) (k : Nat) (hw : w ≠ 4) : laneOn (mask >>> k) w j = laneOn mask w (k + j) := by
  simp [laneOn, hw]

/-- The upper half of the lanes sees the mask bits of its source lanes. -/
theorem laneOn_upper (mask : Word) {w h : Nat} (hh : w = 4 → h % 2 = 0) (j : Nat) :
    laneOn (if w = 4 then mask >>> (h / 2) else mask >>> h) w j = laneOn mask w (h + j) := by
  by_cases hw : w = 4
  · have hhalf : h / 2 + j / 2 = (h + j) / 2 := by have := hh hw; omega
    simp [laneOn, hw, hhalf]
  · rw [if_neg hw, laneOn_zero_shift _ _ _ _ hw]

/-- A format whose double has a width too has an even number of lanes, of the doubled width a row holds half. -/
theorem widening_fits {c fmt : BitVec 4} (h : fmtWidth fmt = 2 * fmtWidth c) :
    512 / fmtWidth c / 2 + 512 / fmtWidth c / 2 = 512 / fmtWidth c ∧ fmtWidth fmt * (512 / fmtWidth c / 2) ≤ 512 ∧
      (fmtWidth c = 4 → 512 / fmtWidth c / 2 % 2 = 0) := by
  have hall : ∀ c : BitVec 4, 512 / fmtWidth c / 2 + 512 / fmtWidth c / 2 = 512 / fmtWidth c ∧
      2 * fmtWidth c * (512 / fmtWidth c / 2) ≤ 512 ∧ (fmtWidth c = 4 → 512 / fmtWidth c / 2 % 2 = 0) := by decide
  rw [h]
  exact hall c

section

/-- The two halves of a list of lanes. -/
theorem take_map_range {α : Type} (f : Nat → α) (h n : Nat) (hn : h + h = n) : ((List.range n).map f).take h = (List.range h).map f := by
  rw [← List.map_take, List.take_range, Nat.min_eq_left (by omega)]

theorem drop_map_range {α : Type} (f : Nat → α) (h n : Nat) (hn : h + h = n) :
    ((List.range n).map f).drop h = (List.range h).map (fun j => f (h + j)) := by
  subst hn
  rw [List.range_add, List.map_append, List.drop_left' (by simp), List.map_map]
  rfl

end

/-- Lane j of va converted to a wider format. -/
def Vec.widen (x : Vec) (va fmt : BitVec 4) (j : Nat) : Res := convert (x.fmt va) fmt 0 false (x.lane (fmtWidth (x.fmt va)) va j)

/-- Half the lanes of va. -/
def Vec.half (x : Vec) (va : BitVec 4) : Nat := 512 / fmtWidth (x.fmt va) / 2

/-- What VWIDEN delivers to vd, and to vd + 1. -/
def Vec.widenLow (x : Vec) (vp : BitVec 3) (va : BitVec 4) (m : BitVec 3) (fmt : BitVec 4) : Row × Flags :=
  maskLanes (x.mask m) (fmtWidth (x.fmt va)) (fmtWidth fmt) (x.reg (vp ++ 0#1)) ((List.range (x.half va)).map (x.widen va fmt))

def Vec.widenHigh (x : Vec) (vp : BitVec 3) (va : BitVec 4) (m : BitVec 3) (fmt : BitVec 4) : Row × Flags :=
  maskLanes (if fmtWidth (x.fmt va) = 4 then x.mask m >>> (x.half va / 2) else x.mask m >>> x.half va) (fmtWidth (x.fmt va)) (fmtWidth fmt)
    (x.reg (vp ++ 1#1)) ((List.range (x.half va)).map (fun j => x.widen va fmt (x.half va + j)))

section
variable {s : State} {t : Trig} {vp : BitVec 3} {va vb : BitVec 4} {m : BitVec 3} {fmt : BitVec 4}

theorem execVwiden_of_vclear (hfmt : fmtWidth fmt = 2 * fmtWidth (s.vec.fmt va)) {use : VUse}
    (huse : use = { trig := t, mask := m, writes := [vp ++ 0#1, vp ++ 1#1], reads := [⟨va, tagPlain (s.vec.tagOf va) &&
      decide (s.vec.fmt va ≠ 0) && decide (fmtWidth fmt = 2 * fmtWidth (s.vec.fmt va)), true⟩] }) (hc : s.VClear use) :
    execVwiden t vp va m fmt s = .next (s.vissued use 3
      { vregs := [(vp ++ 0#1, (s.vec.widenLow vp va m fmt).1, refin (fmtTag fmt) [(s.vec.widenLow vp va m fmt).1], false),
          (vp ++ 1#1, (s.vec.widenHigh vp va m fmt).1, refin (fmtTag fmt) [(s.vec.widenHigh vp va m fmt).1], false)],
        flags := (s.vec.widenLow vp va m fmt).2 ||| (s.vec.widenHigh vp va m fmt).2 }) := by
  subst huse
  obtain ⟨htwice, -, -⟩ := widening_fits hfmt
  have hlen : ((List.range (512 / fmtWidth (s.vec.fmt va))).map (s.vec.widen va fmt)).length / 2 = s.vec.half va := by
    rw [List.length_map, List.length_range, Vec.half]
  have hlanes : (lanes (s.vec.fmt va) (s.vec.reg va)).map (convert (s.vec.fmt va) fmt 0 false) =
      (List.range (512 / fmtWidth (s.vec.fmt va))).map (s.vec.widen va fmt) := map_lanes ..
  unfold execVwiden
  simp only [hlanes, hlen, take_map_range _ (s.vec.half va) _ htwice, drop_map_range _ (s.vec.half va) _ htwice]
  exact execV_of_vclear hc ..

/-- R222: the lanes that VWIDEN delivers. -/
theorem Vec.elem_widen (x : Vec) (hfmt : fmtWidth fmt = 2 * fmtWidth (x.fmt va)) {j : Nat} (hj : j < x.half va) :
    elem (fmtWidth fmt) (x.widenLow vp va m fmt).1.toNat j = (if laneOn (x.mask m) (fmtWidth (x.fmt va)) j
      then (x.widen va fmt j).bits % 2 ^ fmtWidth fmt else x.lane (fmtWidth fmt) (vp ++ 0#1) j) ∧
    elem (fmtWidth fmt) (x.widenHigh vp va m fmt).1.toNat j = (if laneOn (x.mask m) (fmtWidth (x.fmt va)) (x.half va + j)
      then (x.widen va fmt (x.half va + j)).bits % 2 ^ fmtWidth fmt else x.lane (fmtWidth fmt) (vp ++ 1#1) j) := by
  obtain ⟨-, hfit, heven⟩ := widening_fits hfmt
  have hfit : fmtWidth fmt * x.half va ≤ 512 := hfit
  have heven : fmtWidth (x.fmt va) = 4 → x.half va % 2 = 0 := heven
  constructor
  · rw [Vec.widenLow, elem_maskLanes _ _ _ _ hfit, if_pos hj]
    rfl
  · rw [Vec.widenHigh, elem_maskLanes _ _ _ _ hfit, if_pos hj, laneOn_upper _ heven]
    rfl

end

/-! ## Multiply-accumulate (R223) -/

/-- An issue of the vector node depends on trigger and destinations alone. -/
theorem State.vissued_congr (s : State) {v v' : VUse} (htrig : v.trig = v'.trig) (hwrites : v.writes = v'.writes)
    (hwmask : v.wmask = v'.wmask) (lat : Nat) (l : Landing) : s.vissued v lat l = s.vissued v' lat l := by
  have hpend : ∀ x : Vec, x.pend v = x.pend v' := fun x => by rw [Vec.pend, Vec.pend, hwrites, hwmask]
  simp only [State.vissued, State.issueV, hpend, htrig]

/-- A list of k accumulator registers from vd on: those below 16 are all of them, where the group fits. -/
theorem wmac_regs {vd : BitVec 4} {k : Nat} (h : vd.toNat + k ≤ 16) :
    ((List.range k).filter (fun i => vd.toNat + i < 16)).map (fun i => vd + BitVec.ofNat 4 i) =
      (List.range k).map (fun q => vd + BitVec.ofNat 4 q) := by
  rw [List.filter_eq_self.2]
  intro i hi
  have := List.mem_range.1 hi
  simp only [decide_eq_true_eq]
  omega

/-- Part q of the sixteen-lane groups that VWMAC accumulates, into a register. -/
def Vec.wmacPart (x : Vec) (isat : Bool) (va vb : BitVec 4) (m : BitVec 3) (q : Nat) (r : BitVec 4) : Row × Flags :=
  maskLanes (x.mask m >>> (16 * q)) 32 32 (x.reg r) ((List.range 16).map (fun l =>
    wmacLane isat (x.fmt va) (x.fmt vb) (x.lane (fmtWidth (x.fmt va)) va (16 * q + l)) (x.lane (fmtWidth (x.fmt vb)) vb (16 * q + l))
      (x.lane 32 r l)))

/-- The sixteen-lane group q of the pairs of lanes of two registers. -/
theorem wmac_pairs (x : Vec) {ca cb va vb : BitVec 4} {q : Nat} (hw : fmtWidth cb = fmtWidth ca) (hq : 16 * q + 16 ≤ 512 / fmtWidth ca) :
    (((lanes ca (x.reg va)).zip (lanes cb (x.reg vb))).drop (16 * q)).take 16 =
      (List.range 16).map (fun l => (x.lane (fmtWidth ca) va (16 * q + l), x.lane (fmtWidth cb) vb (16 * q + l))) := by
  apply List.ext_getElem
  · simp [lanes, hw]
    omega
  · intro l h1 h2
    simp [lanes, Vec.lane]

theorem Vec.elem_wmacPart (x : Vec) {isat : Bool} {va vb : BitVec 4} {m : BitVec 3} {q l : Nat} {r : BitVec 4}
    (hw : fmtWidth (x.fmt va) ≠ 4) (hl : l < 16) : elem 32 (x.wmacPart isat va vb m q r).1.toNat l =
      if laneOn (x.mask m) (fmtWidth (x.fmt va)) (16 * q + l) then
        (wmacLane isat (x.fmt va) (x.fmt vb) (x.lane (fmtWidth (x.fmt va)) va (16 * q + l)) (x.lane (fmtWidth (x.fmt vb)) vb (16 * q + l))
          (x.lane 32 r l)).bits % 2 ^ 32
      else x.lane 32 r l := by
  have hon : laneOn (x.mask m >>> (16 * q)) 32 l = laneOn (x.mask m) (fmtWidth (x.fmt va)) (16 * q + l) := by
    rw [laneOn_zero_shift _ _ _ _ (by decide)]
    simp [laneOn, hw]
  rw [Vec.wmacPart, elem_maskLanes _ _ _ _ (by decide), if_pos hl, hon]
  rfl

/-- The formats that VWMAC takes: the accumulators' format and number, and widths (R223). -/
theorem wmac_formats {ca cb : BitVec 4} (h : wmacPair ca cb = true) :
    wmacShape ca = some (if ca = 3 ∨ ca = 4 then 2 else 8, if ca = 10 ∨ ca = 11 then 4 else 2) ∧ fmtWidth cb = fmtWidth ca ∧
      fmtWidth ca ≠ 4 ∧ 16 * (if ca = 10 ∨ ca = 11 then 4 else 2) = 512 / fmtWidth ca := by
  have hall : ∀ ca cb : BitVec 4, wmacPair ca cb = true →
      wmacShape ca = some (if ca = 3 ∨ ca = 4 then 2 else 8, if ca = 10 ∨ ca = 11 then 4 else 2) ∧ fmtWidth cb = fmtWidth ca ∧
        fmtWidth ca ≠ 4 ∧ 16 * (if ca = 10 ∨ ca = 11 then 4 else 2) = 512 / fmtWidth ca := by decide
  exact hall ca cb h

section
variable {s : State} {t : Trig} {vp : BitVec 3} {va vb : BitVec 4} {m : BitVec 3}

/-- What VWMAC reads and writes where the first format is one that it takes. -/
def wmacUse (s : State) (t : Trig) (va vb : BitVec 4) (m : BitVec 3) (cacc : BitVec 4) (aligned : Bool) (regs : List (BitVec 4)) : VUse :=
  { trig := t, mask := m, writes := regs,
    reads := [⟨va, tagPlain (s.vec.tagOf va), true⟩,
              ⟨vb, tagPlain (s.vec.tagOf vb) && wmacPair (s.vec.fmt va) (s.vec.fmt vb), true⟩] ++
      regs.map (fun r => ⟨r, tagPlain (s.vec.tagOf r) && (s.vec.fmt r = 0 || s.vec.fmt r = cacc) && aligned, true⟩) }

/-- The registers that VWMAC delivers, with their flags. -/
def Vec.wmacOuts (x : Vec) (isat : Bool) (vp : BitVec 3) (va vb : BitVec 4) (m : BitVec 3) (k : Nat) : List (BitVec 4 × Row × Flags) :=
  (List.range k).map (fun q => (vp ++ 0#1 + BitVec.ofNat 4 q, x.wmacPart isat va vb m q (vp ++ 0#1 + BitVec.ofNat 4 q)))

theorem execVwmac_of_vclear {k : Nat} {cacc : BitVec 4} {use : VUse} (hshape : wmacShape (s.vec.fmt va) = some (cacc, k))
    (hw : fmtWidth (s.vec.fmt vb) = fmtWidth (s.vec.fmt va)) (hk : 16 * k ≤ 512 / fmtWidth (s.vec.fmt va))
    (hfit : (vp ++ 0#1 : BitVec 4).toNat + k ≤ 16)
    (huse : use = wmacUse s t va vb m cacc (k = 2 || (vp ++ 0#1 : BitVec 4).toNat % 4 = 0)
      ((List.range k).map (fun q => vp ++ 0#1 + BitVec.ofNat 4 q))) (hc : s.VClear use) :
    execVwmac t vp va vb m s = .next (s.vissued use 4
      { vregs := (s.vec.wmacOuts (s.isat s.site.unit.region) vp va vb m k).map (fun (r, y, _) => (r, y, refin (fmtTag cacc) [y], false)),
        flags := (s.vec.wmacOuts (s.isat s.site.unit.region) vp va vb m k).foldl (fun f (_, _, g) => f ||| g) 0 }) := by
  have houts : ((List.range k).map (fun q => vp ++ 0#1 + BitVec.ofNat 4 q)).zipIdx.map (fun (r, i) => (r,
      maskLanes (s.vec.mask m >>> (16 * i)) 32 32 (s.vec.reg r) ((((((lanes (s.vec.fmt va) (s.vec.reg va)).zip
        (lanes (s.vec.fmt vb) (s.vec.reg vb))).drop (16 * i)).take 16).zipIdx.map (fun ((a, b), j) =>
          wmacLane (s.isat s.site.unit.region) (s.vec.fmt va) (s.vec.fmt vb) a b (elem 32 (s.vec.reg r).toNat j)))))) =
      s.vec.wmacOuts (s.isat s.site.unit.region) vp va vb m k := by
    rw [zipIdx_map_range, List.map_map]
    refine List.map_congr_left fun q hq => ?_
    have hq := List.mem_range.1 hq
    dsimp only [Function.comp]
    rw [wmac_pairs s.vec hw (by omega), zipIdx_map_range, List.map_map]
    rfl
  subst huse
  unfold execVwmac
  dsimp only
  rw [hshape]
  dsimp only [Option.getD_some]
  rw [wmac_regs hfit, Option.isSome_some, Bool.and_true]
  refine (congrArg (fun outs : List (BitVec 4 × Row × Flags) => execV (wmacUse s t va vb m cacc
    (k = 2 || (vp ++ 0#1 : BitVec 4).toNat % 4 = 0) ((List.range k).map (fun q => vp ++ 0#1 + BitVec.ofNat 4 q))) 4
    { vregs := outs.map (fun (r, y, _) => (r, y, refin (fmtTag cacc) [y], false)), flags := outs.foldl (fun f (_, _, g) => f ||| g) 0 } s)
    houts).trans ?_
  exact execV_of_vclear hc ..

end

/-- R222, R223. -/
theorem wideningWordsDeliver : Says.WideningWordsDeliver := by
  refine ⟨?_, ?_⟩
  · intro t vp va m fmt s c vd ve h use lane hc
    obtain ⟨-, hok, -⟩ := hc.reads _ List.mem_cons_self
    have hfmt : fmtWidth fmt = 2 * fmtWidth c := of_decide_eq_true (Bool.and_eq_true_iff.1 hok).2
    exact ⟨_, _, _, execVwiden_of_vclear hfmt rfl hc, fun j hj => s.vec.elem_widen hfmt hj⟩
  · intro t vp va vb m s ca cb vd k cacc regs pairOk use hc haligned
    obtain ⟨-, hok, -⟩ := hc.reads ⟨vb, tagPlain (s.vec.tagOf vb) && pairOk, true⟩ (by simp [use])
    obtain ⟨hshape, hw, hw4, hk⟩ := wmac_formats (show wmacPair ca cb = true from (Bool.and_eq_true_iff.1 hok).2)
    have hall : ∀ vp : BitVec 3, (vp ++ 0#1 : BitVec 4).toNat % 2 = 0 := by decide
    have heven : vd.toNat % 2 = 0 := hall vp
    have hk24 : k = 2 ∨ k = 4 := by simp only [k]; split <;> simp
    have hfit : vd.toNat + k ≤ 16 := by
      have hlt := vd.isLt
      rcases hk24 with h | h
      · omega
      · have := haligned h; omega
    have halign : (decide (k = 2) || decide (vd.toNat % 4 = 0)) = true := by
      rcases hk24 with h | h
      · simp [h]
      · simp [haligned h]
    have huse : s.VClear (wmacUse s t va vb m cacc (k = 2 || vd.toNat % 4 = 0) regs) := by
      obtain ⟨hruns, hreads, hwrites, hmask, hwmask⟩ := hc
      refine ⟨hruns, fun o ho => ?_, hwrites, hmask, hwmask⟩
      simp only [wmacUse, halign, Bool.and_true] at ho
      exact hreads o ho
    refine ⟨(s.vec.wmacOuts (s.isat s.site.unit.region) vp va vb m k).map (fun (r, y, _) => (r, y, refin (fmtTag cacc) [y], false)), _,
      (execVwmac_of_vclear hshape hw hk.le hfit rfl huse).trans (congrArg _ (s.vissued_congr (v := wmacUse ..) (v' := use) rfl rfl rfl 4 _)),
      by simp [Vec.wmacOuts], fun q hq => ?_⟩
    refine ⟨(s.vec.wmacPart (s.isat s.site.unit.region) va vb m q (vd + BitVec.ofNat 4 q)).1, ?_, fun l hl => ?_⟩
    · simp [Vec.wmacOuts, hq, vd]
    · exact s.vec.elem_wmacPart hw4 hl


/-! PROOFS. Compares and reductions of the vector node (R224, R226). -/

/-! ## Compares (R224) -/

theorem testBit_bitsWord (bs : List Bool) (j : Nat) : (bitsWord bs).testBit j = bs.getD j false := by
  induction bs generalizing j with
  | nil => simp [bitsWord]
  | cons b bs ih =>
    cases j with
    | zero => cases b <;> simp [bitsWord, Nat.testBit_zero]
    | succ j =>
      have hdiv : (b.toNat + 2 * bitsWord bs) / 2 = bitsWord bs := by have := Bool.toNat_lt b; omega
      rw [bitsWord, Nat.testBit_succ, hdiv, ih, List.getD_cons_succ]

/-- The pairs of lanes of two registers, with their numbers. -/
theorem zip_lanes_zipIdx (x : Vec) (c va vb : BitVec 4) : ((lanes c (x.reg va)).zip (lanes c (x.reg vb))).zipIdx =
    (List.range (512 / fmtWidth c)).map (fun j => ((x.lane (fmtWidth c) va j, x.lane (fmtWidth c) vb j), j)) := by
  rw [lanes, lanes, List.zip_map', zipIdx_map_range]
  rfl

/-- The test of a compare by its format. -/
def vcmpTest (ff : FloatFmt → Nat → Nat → Bool) (fi : Int → Int → Bool) (c : BitVec 4) (a b : Nat) : Bool :=
  match floatOf? c with
  | some f => ff f a b
  | none => match intOf? c with
    | some (w, sg) => fi (intVal w sg a) (intVal w sg b)
    | none => false

section
variable {s : State} {t : Trig} {mk : BitVec 3} {va vb : BitVec 4} {m : BitVec 3} {use : VUse}
  {ff : FloatFmt → Nat → Nat → Bool} {fi : Int → Int → Bool}

theorem execVcmp_of_vclear (huse : use = { useArith s.vec t 0 va vb m with writes := [], wmask := some mk }) (hc : s.VClear use) :
    execVcmp ff fi t mk va vb m s = .next (s.vissued use (vlat (s.vec.fmt va))
      { vmask := some (mk, BitVec.ofNat 64 (bitsWord ((List.range (512 / fmtWidth (s.vec.fmt va))).map (fun j =>
          laneOn (s.vec.mask m) (fmtWidth (s.vec.fmt va)) j && vcmpTest ff fi (s.vec.fmt va)
            (s.vec.lane (fmtWidth (s.vec.fmt va)) va j) (s.vec.lane (fmtWidth (s.vec.fmt va)) vb j))))) }) := by
  subst huse
  unfold execVcmp
  dsimp only
  rw [zip_lanes_zipIdx, List.map_map]
  exact execV_of_vclear hc ..

theorem vcmp_bit {n : Nat} {p : Nat → Bool} {j : Nat} (hj : j < 64) :
    (BitVec.ofNat 64 (bitsWord ((List.range n).map p))).getLsbD j = true ↔ j < n ∧ p j = true := by
  rw [BitVec.getLsbD_ofNat, testBit_bitsWord, getD_map_range]
  by_cases h : j < n <;> simp [h, hj]

theorem execVcmp_delivers {i : Instr} (hexec : exec i s = execVcmp ff fi t mk va vb m s)
    (htest : ∀ a b, compareTest i (s.vec.fmt va) a b = vcmpTest ff fi (s.vec.fmt va) a b)
    (huse : use = { useArith s.vec t 0 va vb m with writes := [], wmask := some mk }) (hc : s.VClear use) :
    ∃ k : Word, exec i s = .next (s.vissued use (vlat (s.vec.fmt va)) { vmask := some (mk, k) }) ∧
      ∀ j, j < 64 → (k.getLsbD j = true ↔ j < 512 / fmtWidth (s.vec.fmt va) ∧
        laneOn (s.vec.mask m) (fmtWidth (s.vec.fmt va)) j = true ∧ compareTest i (s.vec.fmt va)
          (s.vec.lane (fmtWidth (s.vec.fmt va)) va j) (s.vec.lane (fmtWidth (s.vec.fmt va)) vb j) = true) :=
  ⟨_, hexec.trans (execVcmp_of_vclear huse hc), fun j hj => by rw [vcmp_bit hj, Bool.and_eq_true, htest]⟩

end


/-! ## Reductions (R226) -/

theorem lane_count_pow (c : BitVec 4) : 512 / fmtWidth c = 2 ^ (512 / fmtWidth c).log2 ∧ (512 / fmtWidth c).log2 ≤ 7 := by
  have hall : ∀ c : BitVec 4, 512 / fmtWidth c = 2 ^ (512 / fmtWidth c).log2 ∧ (512 / fmtWidth c).log2 ≤ 7 := by decide
  exact hall c

theorem intOf?_width {c : BitVec 4} {n : Nat} {sg : Bool} (h : intOf? c = some (n, sg)) : n = fmtWidth c := by
  have hall : ∀ c : BitVec 4, (intOf? c).all (fun p => p.1 = fmtWidth c) = true := by decide
  simpa [h] using hall c

theorem fmtWidth_pos (c : BitVec 4) : 0 < fmtWidth c ∧ fmtWidth c ≤ 64 := by
  revert c
  decide

/-- A row that holds one lane, the others zero. -/
theorem elem_single_lane {w : Nat} (hw' : w ≤ 512) (r j : Nat) :
    elem w (BitVec.ofNat 512 (r % 2 ^ w)).toNat j = if j = 0 then r % 2 ^ w else 0 := by
  have hlt : r % 2 ^ w < 2 ^ w := Nat.mod_lt _ (Nat.two_pow_pos w)
  rw [BitVec.toNat_ofNat, Nat.mod_eq_of_lt (hlt.trans_le (Nat.pow_le_pow_right (by decide : 0 < 2) hw')), elem]
  split
  · next h => rw [h, Nat.mul_zero, Nat.pow_zero, Nat.div_one, Nat.mod_mod]
  · next h =>
    have hle : 2 ^ w ≤ 2 ^ (w * j) := Nat.pow_le_pow_right two_pos (Nat.le_mul_of_pos_right w (Nat.pos_of_ne_zero h))
    rw [Nat.div_eq_of_lt (hlt.trans_le hle), Nat.zero_mod]

/-- What a reduction reads and writes. -/
def redUse (x : Vec) (t : Trig) (vd va : BitVec 4) (m : BitVec 3) (ok : Bool) : VUse :=
  { trig := t, mask := m, writes := [vd], reads := [⟨va, tagPlain (x.tagOf va) && ok, true⟩] }

/-- Lane j of a reduction's operand; a masked one counts as the identity. -/
def Vec.redLane (x : Vec) (m : BitVec 3) (va : BitVec 4) (ident j : Nat) : Nat :=
  if laneOn (x.mask m) (fmtWidth (x.fmt va)) j then x.lane (fmtWidth (x.fmt va)) va j else ident

section
variable {s : State} {t : Trig} {vd va : BitVec 4} {m : BitVec 3} {use : VUse} {ok : BitVec 4 → Bool} {ident : BitVec 4 → Nat}
  {ff : FloatFmt → Nat → Nat → Nat → Res} {fi : Nat → Bool → Int → Int → Int → Res}

theorem execReduce_of_vclear (huse : use = redUse s.vec t vd va m (ok (s.vec.fmt va))) (hc : s.VClear use) :
    let w := fmtWidth (s.vec.fmt va)
    let g := fun a b => arith (s.vec.fmt va) ff fi a b 0
    let lane := s.vec.redLane m va (ident (s.vec.fmt va))
    execReduce ok ident ff fi t vd va m s = .next (s.vissued use 8 (vLanding vd
      (BitVec.ofNat 512 (redTree g lane (512 / w).log2 0 % 2 ^ w)) (fmtTag (s.vec.fmt va)) false (redFlags g lane (512 / w).log2 0))) := by
  subst huse
  intro w g lane
  obtain ⟨hpow, hseven⟩ := lane_count_pow (s.vec.fmt va)
  have hlanes : (lanes (s.vec.fmt va) (s.vec.reg va)).zipIdx.map (fun (a, j) =>
      if laneOn (s.vec.mask m) w j then a else ident (s.vec.fmt va)) = (List.range (2 ^ (512 / w).log2)).map lane := by
    rw [← hpow, lanes, zipIdx_map_range, List.map_map]
    rfl
  have htree := reduceTree_of_lanes g lane hseven hlanes
  unfold execReduce
  dsimp only
  rw [htree]
  exact execV_of_vclear hc ..

/-- A masked lane adds nothing to a sum. -/
theorem Vec.redLane_sum (x : Vec) (n : Nat) (sg : Bool) (k : Nat) :
    ((List.range k).map (fun j => intVal n sg (x.redLane m va 0 j))).sum =
      (((List.range k).filter (fun j => laneOn (x.mask m) (fmtWidth (x.fmt va)) j)).map (fun j =>
        intVal n sg (x.lane (fmtWidth (x.fmt va)) va j))).sum := by
  have hzero : intVal n sg 0 = 0 := by simp [intVal]
  induction k with
  | zero => rfl
  | succ k ih =>
    rw [List.range_succ, List.map_append, List.filter_append, List.map_append, List.sum_append, List.sum_append, ih]
    by_cases h : laneOn (x.mask m) (fmtWidth (x.fmt va)) k = true
    · simp [Vec.redLane, h]
    · simp [Vec.redLane, h, hzero]

end

/-- R226 on integers: the wrapped sum. -/
theorem redTree_add_of_int {c : BitVec 4} {n : Nat} {sg : Bool} (hn : intOf? c = some (n, sg)) (t : Nat → Nat) (k : Nat) :
    redTree (fun a b => arith c (fun f a b _ => fAdd f a b) (fun w _ a b _ => intRes w (a + b)) a b 0) t k 0 % 2 ^ n =
      (((List.range (2 ^ k)).map (fun j => intVal n sg (t j))).sum % 2 ^ n).toNat := by
  have hfloat : floatOf? c = none := Option.eq_none_iff_forall_ne_some.2 fun g hg => by simp [intOf?_eq_none_of_float hg] at hn
  have hsum := redTree_sum_modEq (w := n) (sg := sg)
    (g := fun a b => arith c (fun f a b _ => fAdd f a b) (fun w _ a b _ => intRes w (a + b)) a b 0)
    (fun a b => by simp only [arith, hfloat, hn, intRes]) t k 0
  simp only [Nat.mul_zero, Nat.zero_add] at hsum
  rw [← hsum]
  exact_mod_cast (Int.toNat_natCast _).symm

/-- R226 on integers: the signed maximum. -/
theorem redTree_max_of_int {c : BitVec 4} {n : Nat} {sg : Bool} (hn : intOf? c = some (n, sg)) (t : Nat → Nat) (k : Nat) :
    redTree (fun a b => arith c (fun f a b _ => fMax f a b) (fun w _ a b _ => intRes w (signedMax w a b)) a b 0) t k 0 % 2 ^ n =
      (((List.range (2 ^ k)).map (fun j => intVal n true (t j))).foldl max (-2 ^ (n - 1) : Int) % 2 ^ n).toNat := by
  have hfloat : floatOf? c = none := Option.eq_none_iff_forall_ne_some.2 fun g hg => by simp [intOf?_eq_none_of_float hg] at hn
  have hpos : 0 < n := intOf?_width hn ▸ (fmtWidth_pos c).1
  have hmax := redTree_max (w := n) (sg := sg) hpos
    (g := fun a b => arith c (fun f a b _ => fMax f a b) (fun w _ a b _ => intRes w (signedMax w a b)) a b 0)
    (fun a b => by simp only [arith, hfloat, hn, intRes]) t k 0
  simp only [Nat.mul_zero, Nat.zero_add] at hmax
  rw [← hmax]
  exact mod_eq_intVal_mod ..

section
variable {c : BitVec 4} {ff : FloatFmt → Nat → Nat → Nat → Res} {fi : Nat → Bool → Int → Int → Int → Res}

theorem arith_of_float {g : FloatFmt} (h : floatOf? c = some g) (a b d : Nat) : arith c ff fi a b d = ff g a b d := by
  rw [arith, h]

end

theorem maxIdent_of_float {c : BitVec 4} {g : FloatFmt} (h : floatOf? c = some g) : maxIdent c = g.infBits true := by
  rw [maxIdent, h]

theorem maxIdent_of_int {c : BitVec 4} {n : Nat} {sg : Bool} (h : intOf? c = some (n, sg)) : maxIdent c = (intMin n sg % 2 ^ n).toNat := by
  have hfloat : floatOf? c = none := Option.eq_none_iff_forall_ne_some.2 fun g hg => by simp [intOf?_eq_none_of_float hg] at h
  rw [maxIdent, hfloat, h]
  simp [intBits]

/-- R224, R226. -/
theorem compareAndReduceDeliver : Says.CompareAndReduceDeliver := by
  refine ⟨?_, ?_⟩
  · intro i t mk va vb m s hi c use hc
    have huse : use = { useArith s.vec t 0 va vb m with writes := [], wmask := some mk } := rfl
    rcases hi with rfl | rfl | rfl
    · refine execVcmp_delivers (ff := fCeq) (fi := fun a b => a = b) rfl (fun a b => ?_) huse hc
      unfold compareTest vcmpTest
      cases floatOf? (s.vec.fmt va) <;> cases intOf? (s.vec.fmt va) <;> rfl
    · refine execVcmp_delivers (ff := fClt) (fi := fun a b => a < b) rfl (fun a b => ?_) huse hc
      unfold compareTest vcmpTest
      cases floatOf? (s.vec.fmt va) <;> cases intOf? (s.vec.fmt va) <;> rfl
    · refine execVcmp_delivers (ff := fCle) (fi := fun a b => a ≤ b) rfl (fun a b => ?_) huse hc
      unfold compareTest vcmpTest
      cases floatOf? (s.vec.fmt va) <;> cases intOf? (s.vec.fmt va) <;> rfl
  · intro isMax t vd va m s c w ok use on hc
    obtain ⟨hpos, hle⟩ := fmtWidth_pos c
    obtain ⟨hpow, -⟩ := lane_count_pow c
    have hfit : w ≤ 512 := by omega
    cases isMax with
    | false =>
      have huse : use = redUse s.vec t vd va m (isF c || c = 8 || c = 9) := by simp [use, ok, redUse, Bool.or_assoc]
      refine ⟨_, _, execReduce_of_vclear (ok := fun c => isF c || c = 8 || c = 9) (ident := fun _ => 0) huse hc, fun j hj => ?_,
        fun fm hfm => ?_, fun n sg hn => ⟨fun _ => ?_, nofun⟩⟩
      · rw [elem_single_lane hfit, if_neg (by omega)]
      · rw [elem_single_lane hfit, if_pos rfl]
        rw [show (fun a b => arith (s.vec.fmt va) (fun f a b _ => fAdd f a b) (fun w _ a b _ => intRes w (a + b)) a b 0) =
          fAdd fm from funext fun a => funext fun b => arith_of_float hfm a b 0]
        exact ⟨rfl, rfl⟩
      · rw [elem_single_lane hfit, if_pos rfl]
        obtain rfl := intOf?_width hn
        rw [redTree_add_of_int hn, ← hpow, s.vec.redLane_sum]
    | true =>
      have huse : use = redUse s.vec t vd va m (isF c || isI c) := rfl
      refine ⟨_, _, execReduce_of_vclear (ok := fun c => isF c || isI c) (ident := maxIdent) huse hc, fun j hj => ?_,
        fun fm hfm => ?_, fun n sg hn => ⟨nofun, fun _ => ?_⟩⟩
      · rw [elem_single_lane hfit, if_neg (by omega)]
      · rw [elem_single_lane hfit, if_pos rfl, maxIdent_of_float hfm]
        rw [show (fun a b => arith (s.vec.fmt va) (fun f a b _ => fMax f a b) (fun w _ a b _ => intRes w (signedMax w a b)) a b 0) =
          fMax fm from funext fun a => funext fun b => arith_of_float hfm a b 0]
        exact ⟨rfl, rfl⟩
      · rw [elem_single_lane hfit, if_pos rfl]
        obtain rfl := intOf?_width hn
        rw [redTree_max_of_int hn, ← hpow, maxIdent_of_int hn]
        rfl

/-- Settles O14: lanes under the mask for the widening words, and for reductions the rounds of the list as a tree. -/
theorem wideningCompareReduceDeliver : Obligations.WideningCompareReduceDeliver := ⟨wideningWordsDeliver, compareAndReduceDeliver⟩


/-! PROOFS. Tag, predicate, ring and stream words of the vector node (R229-R235). -/

section
variable {s : State} {t : Trig}

@[simp] theorem State.issueV_cyc (s : State) (v : VUse) : (s.issueV v).cyc = s.cyc := by
  rw [State.issueV, ((State.countIssue_onlyCounts ..).trans (State.stir_onlyCounts ..)).rest]
  rfl

theorem State.issueV_chan (s : State) (v : VUse) (k : Sink) : (s.issueV v).chan k = s.chan k := by
  rw [State.issueV, ((State.countIssue_onlyCounts ..).trans (State.stir_onlyCounts ..)).chan]
  rfl

@[simp] theorem State.unit_dequeue (s : State) (u w : UnitId) (i : Nat) : (s.dequeue u i).unit w = s.unit w := rfl

/-! ## Tags and predicates -/

theorem State.gateVtag_of_vclear {vd fmt : BitVec 4} {grp : BitVec 2} {side : Bool} (hc : s.VClear { trig := t, writes := [vd] })
    (hlegal : tagLegal fmt grp side = true) : s.gateVtag t vd fmt grp side = .go [] := by
  simp only [State.gateVtag, State.gateV_of_vclear hc, hlegal, if_true]

theorem exec_vtag_of_vclear {vd fmt : BitVec 4} {grp : BitVec 2} {b1 side : Bool} (hc : s.VClear { trig := t, writes := [vd] })
    (hlegal : tagLegal fmt grp side = true) : exec (.vtag t vd fmt grp b1 side) s = .next (s.vissued { trig := t, writes := [vd] } 2
      { vregs := [(vd, s.vec.reg vd, refin (mkTag fmt grp side false) [s.vec.reg vd], s.vec.bad vd)] }) := by
  change execVtag t vd fmt grp b1 side s = _
  simp only [execVtag, State.gateVtag_of_vclear hc hlegal]
  rfl

/-- The state after VSETP issues. -/
def State.setsPred (s : State) (t : Trig) (j : BitVec 3) : State :=
  ((s.issueV { trig := t }).modUnit s.site.unit (fun x =>
    x.modCtx t.ctx.toNat (fun c => { c with p := setBit c.p j.toNat true }))).fly s.site.unit s.ticket t.ctx s.site.slot 1 {}

theorem exec_vsetp_of_vclear {j : BitVec 3} (hc : s.VClear { trig := t }) : exec (.vsetp t j) s = .next (s.setsPred t j) := by
  change execVsetp t j s = _
  simp only [execVsetp, State.gateV_of_vclear hc]
  rfl

theorem State.setsPred_context (s : State) (t : Trig) (j : BitVec 3) : ((s.setsPred t j).unit s.site.unit).context t.ctx.toNat =
    Ctx.setp t j ((s.unit s.site.unit).context t.ctx.toNat) := by
  obtain ⟨hctx, -⟩ := State.fly_sameIssue ((s.issueV { trig := t }).modUnit s.site.unit (fun x =>
    x.modCtx t.ctx.toNat (fun c => { c with p := setBit c.p j.toNat true }))) s.site.unit s.ticket t.ctx s.site.slot 1 {}
  rw [State.unit_modUnit_same] at hctx
  refine (EUnit.context_of_ctx_eq hctx _).trans ?_
  simp only [EUnit.context_modCtx, State.issueV_context, if_true]
  rfl

theorem getLsbD_stepGuard_nat (c : Ctx) (t : Trig) {k : Nat} (hk : k < 8) : (c.stepGuard t).p.getLsbD k =
    if t.req = true ∧ t.pred ≠ 7 ∧ k = t.pred.toNat then false
    else if t.req = true ∧ t.pred.toNat < 6 ∧ k = t.pred.toNat + 1 then true
    else c.p.getLsbD k := by
  by_cases hgo : t.req = true ∧ t.pred ≠ 7
  · obtain ⟨hreq, h7⟩ := hgo
    by_cases h6 : t.pred = 6
    · have hlast : ¬t.pred.toNat < 6 := by rw [h6]; decide
      simp only [c.stepGuard_p_of_last hreq h6, getLsbD_setBit _ _ hk, hreq, h7, hlast, ne_eq, not_false_eq_true, true_and,
        false_and, and_false, if_false]
    · have hlt : t.pred.toNat < 6 := by bv_omega
      simp only [c.stepGuard_p_of_next hreq h7 h6, getLsbD_setBit _ _ hk, hreq, h7, hlt, ne_eq, not_false_eq_true, true_and]
      by_cases h : k = t.pred.toNat
      · simp [h]
      · simp [h]
  · have hno : ¬(t.req = true ∧ t.pred ≠ 7 ∧ k = t.pred.toNat) := fun ⟨hreq, h7, _⟩ => hgo ⟨hreq, h7⟩
    have hno' : ¬(t.req = true ∧ t.pred.toNat < 6 ∧ k = t.pred.toNat + 1) := fun ⟨hreq, h6, _⟩ =>
      hgo ⟨hreq, fun h7 => by rw [h7] at h6; exact absurd h6 (by decide)⟩
    rw [c.stepGuard_of_idle hgo, if_neg hno, if_neg hno']

theorem tagAndPredicateWordsAct : Says.TagAndPredicateWordsAct := by
  unfold Says.TagAndPredicateWordsAct
  refine ⟨fun t vd fmt grp b1 side s hc hlegal => exec_vtag_of_vclear hc hlegal,
    fun t j s hc => ⟨_, exec_vsetp_of_vclear hc, fun k hk => ?_⟩⟩
  rw [State.setsPred_context, Ctx.setp, getLsbD_setBit _ _ hk, getLsbD_stepGuard_nat _ _ hk]

/-! ## Ring words -/

theorem Ring.slotOf_setSlot_same (g : Ring) {i : Nat} (hi : i < g.slots.length) (x : RSlot) : (g.setSlot i x).slotOf i = x := by
  simp [Ring.slotOf, Ring.setSlot, hi]

theorem Ring.readRow_rd (g : Ring) (pop : Bool) : (g.readRow pop).rd = if g.rd = 31 then 0 else g.rd + 1 := by
  unfold Ring.readRow
  split <;> rfl

theorem Ring.readRow_of_pop {g : Ring} (h : g.rd = 31) : g.readRow true = { g.pop with rd := 0 } := by
  rw [Ring.readRow, if_pos h, if_pos rfl]

theorem Ring.readRow_head (g : Ring) (pop : Bool) :
    (g.readRow pop).head = if g.rd = 31 ∧ pop = true then (g.head + 1) % g.slots.length else g.head := by
  by_cases h : g.rd = 31
  · cases pop with
    | false => simp [Ring.readRow, h]
    | true => rw [Ring.readRow_of_pop h, if_pos ⟨h, rfl⟩]; rfl
  · simp [Ring.readRow, h]

theorem Ring.readRow_slots {g : Ring} {pop : Bool} (h : ¬(g.rd = 31 ∧ pop = true)) : (g.readRow pop).slots = g.slots := by
  unfold Ring.readRow
  split
  · next h31 => rw [if_neg fun hp => h ⟨h31, hp⟩]
  · rfl

theorem Ring.pop_slot {g : Ring} (hlt : g.head < g.slots.length) : (g.pop.slotOf g.head).st = .empty :=
  congrArg RSlot.st (g.slotOf_setSlot_same hlt { g.headSlot with st := .empty, by_ := .nobody })

theorem Ring.claimed_slot {g : Ring} {b : ClaimBy} {i : Nat} (h : g.claimed b = some i) : (g.slotOf i).st = .claimed := by
  have := List.find?_some h
  simp only [Bool.and_eq_true, decide_eq_true_eq] at this
  exact this.1

/-- The slot that VSTR writes, and the ring with it claimed. -/
def Ring.held (g : Ring) : Nat × Ring :=
  match g.claimed .vector with
  | some i => (i, g)
  | none => (g.tail, g.claim .vector)

theorem Ring.held_fst (g : Ring) : g.held.1 = (g.claimed .vector).getD g.tail := by
  unfold Ring.held
  split
  · next h => rw [h]; rfl
  · next h => rw [h]; rfl

theorem Ring.held_tail (g : Ring) :
    g.held.2.tail = if (g.claimed .vector).isSome then g.tail else (g.tail + 1) % g.slots.length := by
  unfold Ring.held
  split
  · next h => rw [h]; rfl
  · next h => rw [h]; rfl

theorem Ring.held_length (g : Ring) : g.held.2.slots.length = g.slots.length := by
  unfold Ring.held
  split
  · rfl
  · exact List.length_set ..

theorem Ring.held_slot (g : Ring) (hlt : g.held.1 < g.slots.length) : (g.held.2.slotOf g.held.1).st = .claimed := by
  unfold Ring.held at hlt ⊢
  split at hlt
  · next i hi => exact Ring.claimed_slot hi
  · next hi => exact congrArg RSlot.st (g.slotOf_setSlot_same hlt { g.tailSlot with st := .claimed, by_ := .vector })

theorem Ring.writeRow_eq (g : Ring) (commit : Bool) : g.writeRow commit = (g.held.1,
    { (if commit then g.held.2.setSlot g.held.1 { g.held.2.slotOf g.held.1 with by_ := .nobody } else g.held.2) with
      wr := if g.wr = 31 then 0 else g.wr + 1 }) := by
  cases h : g.claimed .vector with
  | none => simp only [Ring.writeRow, Ring.held, h]
  | some i => simp only [Ring.writeRow, Ring.held, h]

theorem Ring.writeRow_tail (g : Ring) (commit : Bool) : (g.writeRow commit).2.tail = g.held.2.tail := by
  rw [Ring.writeRow_eq]
  cases commit <;> rfl

theorem Ring.writeRow_slot (g : Ring) (commit : Bool) (hlt : g.held.1 < g.slots.length) :
    ((g.writeRow commit).2.slotOf g.held.1).st = .claimed := by
  rw [Ring.writeRow_eq]
  cases commit with
  | false => exact g.held_slot hlt
  | true =>
    exact (congrArg RSlot.st (g.held.2.slotOf_setSlot_same (g.held_length ▸ hlt) _)).trans (g.held_slot hlt)

/-- The state after VLDR issues. -/
def State.readsRing (s : State) (t : Trig) (vd ring : BitVec 4) (pop : Bool) (g : Ring) : State :=
  let a := ringAddr s.site.unit.cellId g g.head g.rd
  ((s.issueV { trig := t, writes := [vd] }).setRing s.site.unit.cellId ring.toNat (g.readRow pop)).fly s.site.unit s.ticket t.ctx
    s.site.slot 3 { vregs := [(vd, s.mem.row a, refin g.headSlot.tag [s.mem.row a], s.mem.rowPoisoned a)], reads := [a] }

theorem exec_vldr_of_vclear {vd ring : BitVec 4} {pop : Bool} {g : Ring} (hc : s.VClear { trig := t, writes := [vd] })
    (hring : s.ring? s.site.unit.cellId ring.toNat = some g) (hfull : g.headSlot.st = .full) :
    exec (.vldr t vd ring pop) s = .next (s.readsRing t vd ring pop g) := by
  have hgate : s.gateVldr t vd ring = .go [] := by
    simp only [State.gateVldr, hring, hfull, if_true, State.gateV_of_vclear hc]
  change execVldr t vd ring pop s = _
  simp only [execVldr, hgate, hring]
  rfl

/-- The state after VSTR issues. -/
def State.writesRing (s : State) (t : Trig) (va ring : BitVec 4) (commit : Bool) (g : Ring) : State :=
  let last := commit && decide (g.wr = 31)
  ((s.issueV { trig := t, reads := [⟨va, true, false⟩] }).setRing s.site.unit.cellId ring.toNat (g.writeRow last).2).fly
    s.site.unit s.ticket t.ctx s.site.slot 1
    { rows := [⟨ring.toNat, (g.writeRow last).1, g.wr, s.vec.reg va, s.vec.bad va, last⟩] }

theorem exec_vstr_of_vclear {va ring : BitVec 4} {commit : Bool} {g : Ring}
    (hc : s.VClear { trig := t, reads := [⟨va, tagSame (s.vec.tagOf va) g.decl, false⟩] })
    (hring : s.ring? s.site.unit.cellId ring.toNat = some g) (hslot : (g.claimed .vector).isSome ∨ g.tailSlot.st = .empty) :
    exec (.vstr t va ring commit) s = .next (s.writesRing t va ring commit g) := by
  have hopen : ((g.claimed .vector).isSome || decide (g.tailSlot.st = .empty)) = true := by simpa using hslot
  have hgate : s.gateVstr t va ring = .go [] := by
    simp only [State.gateVstr, hring, hopen, if_true, State.gateV_of_vclear hc]
  change execVstr t va ring commit s = _
  simp only [execVstr, hgate, hring]
  rfl

theorem State.flights_issueV_setRing_fly (s : State) (v : VUse) (ring lat : Nat) (g : Ring) (l : Landing) (htoks : l.toks = [])
    (hrot : l.rot = none) :
    ((((s.issueV v).setRing s.site.unit.cellId ring g).fly s.site.unit s.ticket v.trig.ctx s.site.slot lat l).unit
      s.site.unit).flights = (s.unit s.site.unit).flights ++ [⟨s.ticket, s.cyc + lat, v.trig.ctx.toNat, s.site.slot, l⟩] := by
  have hflights : (((s.issueV v).setRing s.site.unit.cellId ring g).unit s.site.unit).flights = (s.unit s.site.unit).flights := by
    change ((s.issueV v).unit s.site.unit).flights = _
    rw [State.unit_issueV]
    rfl
  rw [State.fly_flights_of_no_toks _ _ _ _ _ _ _ htoks hrot, hflights, State.setRing_cyc, State.issueV_cyc]

theorem ringWordsMoveRows : Says.RingWordsMoveRows := by
  unfold Says.RingWordsMoveRows
  refine ⟨fun t vd ring pop s g hc hring hfull => ?_, fun t va ring commit s g hc hring hslot => ?_⟩
  · refine ⟨_, g.readRow pop, exec_vldr_of_vclear hc hring hfull, State.ring_setRing_same .., ?_, g.readRow_rd pop,
      g.readRow_head pop, fun h31 hpop hlt => ?_, Ring.readRow_slots⟩
    · exact s.flights_issueV_setRing_fly { trig := t, writes := [vd] } _ _ _ _ rfl rfl
    · subst hpop
      rw [Ring.readRow_of_pop h31]
      exact Ring.pop_slot hlt
  · refine ⟨_, _, exec_vstr_of_vclear hc hring hslot, State.ring_setRing_same .., ?_, ?_, ?_, fun hlt => ?_⟩
    · rw [← g.held_fst, State.writesRing]
      exact (s.flights_issueV_setRing_fly { trig := t, reads := [⟨va, true, false⟩] } _ _ _ _ rfl rfl).trans (by rw [g.writeRow_eq])
    · rw [g.writeRow_eq]
    · rw [g.writeRow_tail, g.held_tail]
    · rw [← g.held_fst] at hlt ⊢
      exact g.writeRow_slot _ hlt

/-! ## Stream words -/

/-- The state after VLDS takes its first token. -/
def State.startsLoad (s : State) (t : Trig) (vd : BitVec 4) (c : BitVec 2) (k : Tok) : State :=
  ((s.issueV { trig := t, writes := [vd] }).dequeue s.site.unit c.toNat).modUnit s.site.unit (fun x =>
    { x with vec := { x.vec with
      loads := x.vec.loads ++ [⟨t.ctx.toNat, s.site.slot, c.toNat, vd, [k.data], k.poison, s.ticket⟩] } })

theorem State.readSrc_take {u : UnitId} {ctx : BitVec 2} {i : BitVec 3} {k : Tok}
    (hsends : ∀ x ∈ (s.unit u).sends, x.inp ≠ i.toNat) (hhead : s.head? u i.toNat = some k)
    (htag : k.tag = (s.region u.region).tag) : s.readSrc u ctx (.take i) = some ⟨k.data, k.poison, some k, some i.toNat⟩ := by
  have hfree : (s.unit u).sends.any (fun x => decide (x.inp = i.toNat)) = false := by simpa using hsends
  simp [State.readSrc, State.ownHead, hfree, hhead, htag]

theorem exec_vlds_of_vclear {vd : BitVec 4} {c : BitVec 2} {k : Tok} (hc : s.VClear { trig := t, writes := [vd] })
    (hloads : ∀ l ∈ s.vec.loads, l.inp ≠ c.toNat) (hsends : ∀ x ∈ (s.unit s.site.unit).sends, x.inp ≠ c.toNat)
    (hhead : s.head? s.site.unit c.toNat = some k) (htag : k.tag = s.boundTag) (hkind : k.kind = 0 ∨ k.kind = 1) :
    exec (.vlds t vd c) s = .next (s.startsLoad t vd c k) := by
  have hidle : (s.unit s.site.unit).vec.loads.any (fun l => decide (l.inp = c.toNat)) = false := by
    simpa [State.vec] using hloads
  have hi : (c.setWidth 3).toNat = c.toNat := by bv_omega
  have hsrc : s.readSrc s.site.unit t.ctx (.take (c.setWidth 3)) = some ⟨k.data, k.poison, some k, some (c.setWidth 3).toNat⟩ :=
    State.readSrc_take (by rwa [hi]) (by rwa [hi]) htag
  have hcheck : Opnd.check ⟨k.data, k.poison, some k, some (c.setWidth 3).toNat⟩ { use := false } = none := by
    rcases hkind with hk | hk <;> simp [Opnd.check, hk, Nat.mod_one]
  have hgate : s.gateVlds t vd c = .go [⟨k.data, k.poison, some k, some (c.setWidth 3).toNat⟩] := by
    simp only [State.gateVlds, hidle, State.gateV_of_vclear hc, hsrc, hcheck, Bool.false_eq_true, if_false]
  change execVlds t vd c s = _
  simp only [execVlds, hgate]
  rfl

/-- The state after VSTS reads its register. -/
def State.startsSend (s : State) (t : Trig) (va : BitVec 4) (o : BitVec 2) : State :=
  (s.issueV { trig := t, reads := [⟨va, true, false⟩] }).modUnit s.site.unit (fun x => { x with vec := { x.vec with
    sends := x.vec.sends ++ [⟨t.ctx.toNat, o.toNat, rowWords (s.vec.reg va), s.vec.bad va, s.cyc + 1, s.ticket⟩] } })

theorem exec_vsts_of_vclear {va : BitVec 4} {o : BitVec 2} (hc : s.VClear { trig := t, reads := [⟨va, true, false⟩] })
    (hsends : ∀ l ∈ s.vec.sends, l.out ≠ o.toNat) (hroom : s.outRoom s.site.unit o.toNat = true) :
    exec (.vsts t va o) s = .next (s.startsSend t va o) := by
  have hidle : (s.unit s.site.unit).vec.sends.any (fun l => decide (l.out = o.toNat)) = false := by
    simpa [State.vec] using hsends
  have hgate : s.gateVsts t va o = .go [] := by
    simp only [State.gateVsts, hidle, hroom, State.gateV_of_vclear hc, Bool.not_true, Bool.or_false, Bool.false_eq_true, if_false]
  change execVsts t va o s = _
  simp only [execVsts, hgate]
  rfl

theorem rowWords_eq (r : Row) : rowWords r = (List.range 8).map (fun k => toWord (elem 64 r.toNat k)) := by
  refine List.map_congr_left fun k _ => BitVec.eq_of_toNat_eq ?_
  rw [BitVec.extractLsb'_toNat, toWord, elem, Nat.shiftRight_eq_div_pow, BitVec.ofInt_natCast, BitVec.toNat_ofNat, Nat.mod_mod]

theorem streamWordsStart : Says.StreamWordsStart := by
  unfold Says.StreamWordsStart
  refine ⟨fun t vd c s k hc hloads hsends hhead htag hkind =>
      ⟨_, exec_vlds_of_vclear hc hloads hsends hhead htag hkind, ?_, ?_, ?_⟩,
    fun t va o s hc hsends hroom => ⟨_, exec_vsts_of_vclear hc hsends hroom, ?_⟩⟩
  · change (((s.issueV _).dequeue s.site.unit c.toNat).chan _).inq = _
    rw [State.dequeue_inq, if_pos rfl, State.issueV_chan]
  · rw [State.startsLoad, State.unit_modUnit_same, State.unit_dequeue, State.unit_issueV]
    rfl
  · rw [State.startsLoad, State.unit_modUnit_same, State.unit_dequeue, State.unit_issueV]
    change (setBit s.vec.pendV vd.toNat true).getLsbD vd.toNat = true
    rw [getLsbD_setBit _ _ vd.isLt, if_pos rfl]
  · rw [State.startsSend, State.unit_modUnit_same, State.unit_issueV, rowWords_eq]
    rfl

end

/-- Settles O16: each word is clear to issue, so the state it leaves is known, and the ring's and the element's fields are read off
it. -/
theorem vectorMovesAct : Obligations.VectorMovesAct := by
  unfold Obligations.VectorMovesAct
  exact ⟨tagAndPredicateWordsAct, ringWordsMoveRows, streamWordsStart⟩


/-! PROOFS. Tile pairs and retirement of matrix words: fin of a transposed slot is recomputed (R61), so its tag may differ from
the ring's declared one. -/

/-- The node whose refutation of O19 is written out. -/
def transposer : UnitId := ⟨0, 0, 0⟩

/-- A TTRANS of INT16 from ring 3 to ring 4, every row written, ready to retire. -/
def transposed : Seq := { slot := 0, word := .ttrans 3 false 4, started := true, claims := [0] }

def sourceRing : Ring := { base := 0, decl := fmtTag 9, slots := [⟨.full, fmtTag 9, .nobody⟩] }

/-- Its slot is claimed; the tag that it declares says fin 0. -/
def outRing : Ring := { base := 2048, decl := fmtTag 9, slots := [⟨.claimed, fmtTag 9, .matrix⟩] }

def retiringTtrans : State :=
  { regions := [(0, { launch := some 1 })], units := [(transposer, { mat := { seq := some transposed } })],
    rings := [((⟨0, 0⟩, 3), sourceRing), ((⟨0, 0⟩, 4), outRing)] }

/-- The tag of slot 0 of ring 4 after an outcome. -/
def tagAfter : Host.Outcome State Fault Refusal → Option Byte
  | .next t => (t.ring? transposer.cellId 4).map (fun g => (g.slotOf 0).tag)
  | _ => none

theorem tagAfter_retiringTtrans : tagAfter (exec (.mWordRetire transposer) retiringTtrans) ≠ some outRing.decl := by
  decide +kernel

/-- Refutes O19: a TTRANS of INT16 tags its out slot with fin 1, as R61 computes it over the rows, while the ring declares the tag
with fin 0. -/
theorem not_matrixPairsAndRetirement : ¬ Obligations.MatrixPairsAndRetirement := by
  unfold Obligations.MatrixPairsAndRetirement Says.MatrixWordsRetire
  rintro ⟨-, -, -, -, -, -, -, -, -, httrans⟩
  obtain ⟨t, k', hexec, -, -, hring, hslot, -⟩ := httrans transposer retiringTtrans transposed 3 4 false sourceRing outRing
    (by decide +kernel) rfl (by decide +kernel) rfl (by decide) rfl (by decide +kernel) (by decide +kernel)
  have htag : (k'.slotOf 0).tag = outRing.decl := (hslot 0 (by decide) (by decide)).2
  have hsome : tagAfter (exec (.mWordRetire transposer) retiringTtrans) = some (k'.slotOf 0).tag := by
    rw [hexec]
    exact congrArg (Option.map fun g : Ring => (g.slotOf 0).tag) hring
  exact tagAfter_retiringTtrans (hsome.trans (congrArg some htag))


/-! PROOFS. Matrix words fire (R239, R240, R249, R251-R255). -/

/-! ## Accumulators and firing -/

theorem Mat.accOf_setAcc_same (x : Mat) (n : BitVec 3) (a : Acc) : (x.setAcc n a).accOf n = a := Map.get_set_same ..

theorem Mat.accOf_setAcc_other (x : Mat) {n m : BitVec 3} (h : m ≠ n) (a : Acc) : (x.setAcc n a).accOf m = x.accOf m :=
  Map.get_set_other _ h _ _

theorem State.unit_modMat_same (s : State) (u : UnitId) (f : Mat → Mat) :
    (s.modMat u f).unit u = { s.unit u with mat := f (s.unit u).mat } := State.unit_modUnit_same ..

theorem State.fireM_eq (s : State) (q : Seq) : (s.modUnit s.site.unit (fun x =>
    { x with mat := { x.mat with seq := some q }, issued := true })).OnlyCounts (s.fireM q) :=
  (State.countIssue_onlyCounts ..).trans (State.stir_onlyCounts ..)

theorem State.fireM_unit (s : State) (q : Seq) : (s.fireM q).unit s.site.unit =
    { s.unit s.site.unit with mat := { (s.unit s.site.unit).mat with seq := some q }, issued := true } := by
  rw [(s.fireM_eq q).unit, State.unit_modUnit_same]

@[simp] theorem State.fireM_mem (s : State) (q : Seq) : (s.fireM q).mem = s.mem := by
  rw [(s.fireM_eq q).rest]
  rfl

@[simp] theorem State.fireM_rings (s : State) (q : Seq) : (s.fireM q).rings = s.rings := by
  rw [(s.fireM_eq q).rest]
  rfl

/-- Firing a word on an accumulator, from a state that differs from s in rings alone. -/
theorem State.fired_fireM {s w : State} (n : BitVec 3) (f : Mat → Acc) (q : Seq) (hsite : w.site = s.site) (hmem : w.mem = s.mem)
    (hunit : w.unit s.site.unit = s.unit s.site.unit) :
    s.Fired ((w.modMat s.site.unit (fun m => m.setAcc n (f m))).fireM q) q n (f (s.unit s.site.unit).mat) := by
  have hw : ((w.modMat s.site.unit (fun m => m.setAcc n (f m))).fireM q).unit s.site.unit =
      { s.unit s.site.unit with
        mat := { (s.unit s.site.unit).mat.setAcc n (f (s.unit s.site.unit).mat) with seq := some q }, issued := true } := by
    have := (w.modMat s.site.unit (fun m => m.setAcc n (f m))).fireM_unit q
    rw [State.modMat, State.modUnit_site, hsite, State.unit_modUnit_same, hunit] at this
    exact this
  refine ⟨by rw [hw], by rw [hw]; exact Mat.accOf_setAcc_same .., fun m hm => ?_, fun a => ?_⟩
  · rw [hw]
    exact Mat.accOf_setAcc_other _ hm _
  · rw [State.fireM_mem]
    change w.mem.byte a = _ ∧ w.mem.poisoned a = _
    rw [hmem]
    exact ⟨rfl, rfl⟩

/-! ## Gates -/

theorem State.mready_of_idle {s : State} (h : s.MIdle) : s.mready = true := by
  obtain ⟨runs, idle, fresh⟩ := h
  obtain ⟨alive, bank, -⟩ := State.runs_iff.1 runs
  simp [State.mready, State.mat, alive, bank, idle, fresh]

theorem fmtOk_iff {have_ want : AccFmt} : fmtOk have_ want = true ↔ have_ = .none ∨ have_ = want := by
  simp [fmtOk]

theorem firstCause_of_none {l : List (Option Byte)} (h : ∀ c ∈ l, c = none) : firstCause l = none := by
  induction l with
  | nil => rfl
  | cons c l ih =>
    rw [h c (List.mem_cons_self ..)]
    exact ih fun d hd => h d (List.mem_cons_of_mem _ hd)

theorem State.slotCheck_of_clean {s : State} {c : CellId} {g : Ring} {h k : Nat} {ok : Bool} (hok : ok = true)
    (hclean : slotPoisoned s.mem c g (g.at_ h k) = false) : s.slotCheck c g h k ok = none := by
  simp [State.slotCheck, hok, hclean]

theorem Ring.fullRun_of {g : Ring} {w : Nat} (h : ∀ k, k < w → g.fullAt g.head k = true) : g.fullRun w = true :=
  List.all_eq_true.2 fun k hk => h k (List.mem_range.1 hk)

theorem State.runCheck_of_clean {s : State} {c : CellId} {g : Ring} {w : Nat} {ok : Byte → Bool}
    (h : ∀ k, k < w → ok (g.tagAt g.head k) = true ∧ tagSame (g.tagAt g.head k) (g.tagAt g.head 0) = true ∧
      slotPoisoned s.mem c g (g.at_ g.head k) = false) : s.runCheck c g w ok = none := by
  refine firstCause_of_none fun x hx => ?_
  obtain ⟨k, hk, rfl⟩ := List.mem_map.1 hx
  obtain ⟨hok, hsame, hclean⟩ := h k (List.mem_range.1 hk)
  exact State.slotCheck_of_clean (by rw [hok, hsame]; rfl) hclean

theorem tagFmt_of_same {a b : Byte} (h : tagSame a b = true) : tagFmt a = tagFmt b := by
  simp only [tagSame, Bool.and_eq_true, decide_eq_true_eq] at h
  exact h.1.1

@[simp] theorem tagSame_refl (a : Byte) : tagSame a a = true := by simp [tagSame]

/-! ## Multiplying words -/

/-- The state after a multiplying word fires. -/
def State.firesMac (s : State) (i : Instr) (f : MacFields) (a b : Ring) (hSA hSB : Nat) : State :=
  let af := macAccFmt i (a.tagAt a.head 0) (b.tagAt b.head 0)
  let acc (m : Mat) : Acc := { st := .active, fmt := af, ents := if f.clr then [] else (m.accOf f.acc).ents }
  (s.modMat s.site.unit (fun m => m.setAcc f.acc (acc m))).fireM
    { slot := s.site.slot, word := i, hA := a.head, hB := b.head, hSA := hSA, hSB := hSB }

/-- The conditions under which a multiplying word fires (R239, R240, R245, R249). -/
structure State.MacClear (s : State) (i : Instr) (f : MacFields) (a b : Ring) (sa sb : Option Ring) : Prop where
  full : macFull i a b sa sb a.head b.head ((sa.map Ring.head).getD 0) ((sb.map Ring.head).getD 0) 0 = true
  clean : s.macCheck s.site.unit.cellId i a b sa sb a.head b.head ((sa.map Ring.head).getD 0) ((sb.map Ring.head).getD 0) 0 = none
  state : ((s.unit s.site.unit).mat.accOf f.acc).st = .empty ∨ (f.clr = false ∧ ((s.unit s.site.unit).mat.accOf f.acc).st = .full)
  fmt : f.clr = true ∨ ((s.unit s.site.unit).mat.accOf f.acc).fmt = .none ∨
    ((s.unit s.site.unit).mat.accOf f.acc).fmt = macAccFmt i (a.tagAt a.head 0) (b.tagAt b.head 0)

section
variable {s : State} (hidle : s.MIdle)
include hidle

theorem execMac_of_clear {i : Instr} {f : MacFields} {a b : Ring} {sa sb : Option Ring}
    (hrings : s.macRings s.site.unit.cellId i = some (f, a, b, sa, sb)) (hc : s.MacClear i f a b sa sb) :
    execMac i s = .next (s.firesMac i f a b ((sa.map Ring.head).getD 0) ((sb.map Ring.head).getD 0)) := by
  obtain ⟨hfull, hclean, hst, hfmt⟩ := hc
  have hst' : ¬(!(decide (((s.unit s.site.unit).mat.accOf f.acc).st = .empty) ||
      (!f.clr && decide (((s.unit s.site.unit).mat.accOf f.acc).st = .full)))) = true := by
    rcases hst with h | ⟨h, h'⟩
    · simp [h]
    · simp [h, h']
  have hfmt' : (f.clr || fmtOk ((s.unit s.site.unit).mat.accOf f.acc).fmt (macAccFmt i (a.tagAt a.head 0) (b.tagAt b.head 0))) = true := by
    rw [Bool.or_eq_true, fmtOk_iff]
    exact hfmt
  have hgate : s.gateMac i = .fires := by
    rw [State.gateMac, hrings]
    cases sa <;> cases sb <;>
      simp only [Option.map_some, Option.map_none, Option.getD_some, Option.getD_none] at hfull hclean <;>
      simp only [State.mat, State.mready_of_idle hidle, hfull, hclean, hfmt', Bool.not_true, Bool.false_or, Bool.or_false,
        if_true] <;>
      exact if_neg hst'
  simp only [execMac, hgate, hrings, State.firesMac]
  cases hclr : f.clr <;> cases sa <;> cases sb <;> rfl

omit hidle in
theorem exec_of_mac {i : Instr} {f : MacFields} {na nb : Nat} (hi : macOf i = some (f, na, nb)) : exec i s = execMac i s := by
  cases i <;> first | rfl | cases hi


/-! ## TZERO and TDRAIN -/

theorem exec_tzero_of_idle {n : BitVec 3} (hst : ((s.unit s.site.unit).mat.accOf n).st ≠ .active) : exec (.tzero n) s =
    .next ((s.modMat s.site.unit (fun m => m.setAcc n { m.accOf n with st := .active })).fireM
      { slot := s.site.slot, word := .tzero n }) := by
  have hgate : s.gateTzero n = .fires := by
    rw [State.gateTzero, State.mready_of_idle hidle]
    exact if_pos (by simp [State.mat, hst])
  change execTzero n s = _
  simp only [execTzero, hgate]

/-- The state after TDRAIN claims its slot. -/
def State.firesTdrain (s : State) (n : BitVec 3) (clr : Bool) (out fmt : BitVec 4) (r : BitVec 2) (sh : BitVec 5) (g : Ring) : State :=
  ((s.setRing s.site.unit.cellId out.toNat (g.claim .matrix)).modMat s.site.unit
    (fun m => m.setAcc n { m.accOf n with st := .active })).fireM
      { slot := s.site.slot, word := .tdrain n clr out fmt r sh, claims := [g.tail] }

omit hidle in
theorem drainOk_of {af : AccFmt} {fmt : BitVec 4} {decl : Byte} (hplain : tagPlain decl = true) (hdecl : tagFmt decl = fmt)
    (hpair : fmt = 10 ∧ af = .int32 ∨ (fmt = 3 ∨ fmt = 4) ∧ (af = .fp32 ∨ af = .fp64)) : drainOk af fmt decl = true := by
  rw [drainOk, hplain, hdecl]
  rcases hpair with ⟨rfl, rfl⟩ | ⟨rfl | rfl, rfl | rfl⟩ <;> rfl

theorem exec_tdrain_of_idle {n : BitVec 3} {clr : Bool} {out fmt : BitVec 4} {r : BitVec 2} {sh : BitVec 5} {g : Ring}
    (hring : s.ring? s.site.unit.cellId out.toNat = some g) (hfull : ((s.unit s.site.unit).mat.accOf n).st = .full)
    (hempty : g.tailSlot.st = .empty) (hok : drainOk ((s.unit s.site.unit).mat.accOf n).fmt fmt g.decl = true) :
    exec (.tdrain n clr out fmt r sh) s = .next (s.firesTdrain n clr out fmt r sh g) := by
  have hgate : s.gateTdrain n out fmt = .fires := by
    simp [State.gateTdrain, State.mat, hring, State.mready_of_idle hidle, hfull, hempty, hok]
  change execTdrain n clr out fmt r sh s = _
  simp only [execTdrain, hgate, hring]
  rfl

omit hidle in
theorem Ring.claim_slot {g : Ring} (b : ClaimBy) (hlt : g.tail < g.slots.length) : ((g.claim b).slotOf g.tail).st = .claimed :=
  congrArg RSlot.st (g.slotOf_setSlot_same hlt { g.tailSlot with st := .claimed, by_ := b })

/-! ## Words that load -/

/-- The state after TLOAD fires. -/
def State.firesTload (s : State) (n : BitVec 3) (ring : BitVec 4) (pop : Bool) (g : Ring) (w : Nat) : State :=
  (s.modMat s.site.unit (fun m => m.setAcc n { m.accOf n with st := .active })).fireM
    { slot := s.site.slot, word := .tload n ring pop, hA := g.head, left := runAddrs s.site.unit.cellId g g.head w }

theorem exec_tload_of_idle {n : BitVec 3} {ring : BitVec 4} {pop : Bool} {g : Ring} {c : BitVec 4}
    (hring : s.ring? s.site.unit.cellId ring.toNat = some g) (hfmt : tagFmt (g.tagAt g.head 0) = c)
    (hc : c = 1 ∨ c = 2 ∨ c = 3 ∨ c = 4 ∨ c = 8 ∨ c = 10) (hempty : ((s.unit s.site.unit).mat.accOf n).st = .empty)
    (hslots : ∀ k, k < loadSlots c → g.fullAt g.head k = true ∧ tagPlain (g.tagAt g.head k) = true ∧
      tagSame (g.tagAt g.head k) (g.tagAt g.head 0) = true ∧ slotPoisoned s.mem s.site.unit.cellId g (g.at_ g.head k) = false) :
    exec (.tload n ring pop) s = .next (s.firesTload n ring pop g (loadSlots c)) := by
  have hrun : g.fullRun (loadSlots c) = true := Ring.fullRun_of fun k hk => (hslots k hk).1
  have hload : (loadFmt c).isSome = true := by rcases hc with rfl | rfl | rfl | rfl | rfl | rfl <;> rfl
  have hcheck : s.runCheck s.site.unit.cellId g (loadSlots c) (fun t => tagPlain t && (loadFmt (tagFmt t)).isSome) = none :=
    State.runCheck_of_clean fun k hk => by
      obtain ⟨-, hplain, hsame, hclean⟩ := hslots k hk
      exact ⟨by rw [tagFmt_of_same hsame, hfmt, hplain, hload]; rfl, hsame, hclean⟩
  have hgate : s.gateTload n ring = .fires := by
    simp [State.gateTload, State.mat, hring, State.mready_of_idle hidle, hempty, hfmt, hrun, hcheck, mgateOf]
  change execTload n ring pop s = _
  simp only [execTload, hgate, hring, hfmt]
  rfl

/-- The state after TADDR fires. -/
def State.firesTaddr (s : State) (n : BitVec 3) (ring : BitVec 4) (pop : Bool) (g : Ring) (af : AccFmt) : State :=
  (s.modMat s.site.unit (fun m => m.setAcc n { m.accOf n with st := .active, fmt := af })).fireM
    { slot := s.site.slot, word := .taddr n ring pop, hA := g.head, left := slotAddrs s.site.unit.cellId g g.head }

theorem exec_taddr_of_idle {n : BitVec 3} {ring : BitVec 4} {pop : Bool} {g : Ring} {af : AccFmt}
    (hring : s.ring? s.site.unit.cellId ring.toNat = some g) (hload : loadFmt (tagFmt (g.tagAt g.head 0)) = some af)
    (hst : ((s.unit s.site.unit).mat.accOf n).st ≠ .active)
    (hfmt : ((s.unit s.site.unit).mat.accOf n).fmt = .none ∨ ((s.unit s.site.unit).mat.accOf n).fmt = af)
    (hfull : g.fullAt g.head 0 = true) (hplain : tagPlain (g.tagAt g.head 0) = true)
    (hclean : slotPoisoned s.mem s.site.unit.cellId g (g.at_ g.head 0) = false) :
    exec (.taddr n ring pop) s = .next (s.firesTaddr n ring pop g af) := by
  have hok : fmtOk ((s.unit s.site.unit).mat.accOf n).fmt af = true := fmtOk_iff.2 hfmt
  have hcheck := State.slotCheck_of_clean (ok := tagPlain (g.tagAt g.head 0) && fmtOk ((s.unit s.site.unit).mat.accOf n).fmt af)
    (by rw [hplain, hok]; rfl) hclean
  have hgate : s.gateTaddr n ring = .fires := by
    simp only [State.gateTaddr, State.mat, hring, State.mready_of_idle hidle, hst, hfull, hload, hcheck, mgateOf, Bool.not_true,
      decide_false, Bool.or_self, Bool.false_eq_true, if_false]
  change execTaddr n ring pop s = _
  simp only [execTaddr, hgate, hring, hload, Option.getD_some]
  rfl

/-- The state after TTRANS of one slot fires from a ring to another. -/
def State.firesTtrans (s : State) (ring out : BitVec 4) (pop : Bool) (g k : Ring) : State :=
  (s.setRing s.site.unit.cellId out.toNat (k.claim .matrix)).fireM
    { slot := s.site.slot, word := .ttrans ring pop out, hA := g.head, claims := [k.tail], left := runAddrs s.site.unit.cellId g g.head 1 }

theorem exec_ttrans_of_idle {ring out : BitVec 4} {pop : Bool} {g k : Ring} (hne : ring ≠ out)
    (hring : s.ring? s.site.unit.cellId ring.toNat = some g) (hout : s.ring? s.site.unit.cellId out.toNat = some k)
    (hwidth : fmtWidth (tagFmt (g.tagAt g.head 0)) = 16) (hfull : g.fullAt g.head 0 = true)
    (hplain : tagPlain (g.tagAt g.head 0) = true) (hsame : tagSame (g.tagAt g.head 0) k.decl = true)
    (hclean : slotPoisoned s.mem s.site.unit.cellId g (g.at_ g.head 0) = false) (hempty : k.tailSlot.st = .empty) :
    exec (.ttrans ring pop out) s = .next (s.firesTtrans ring out pop g k) := by
  have hslots : transSlots (tagFmt (g.tagAt g.head 0)) = 1 := by simp [transSlots, hwidth]
  have hother : transSame ring out pop = false := by simp [transSame, hne]
  have hclaim : k.claimN .matrix 1 = some ([k.tail], k.claim .matrix) := by simp [Ring.claimN, hempty]
  have hrun : g.fullRun 1 = true := Ring.fullRun_of fun i hi => by rwa [Nat.lt_one_iff.1 hi]
  have hcheck : s.runCheck s.site.unit.cellId g 1 (fun t => tagPlain t && decide (16 ≤ fmtWidth (tagFmt t)) && tagSame t k.decl) = none :=
    State.runCheck_of_clean fun i hi => by
      rw [Nat.lt_one_iff.1 hi]
      exact ⟨by simp [hplain, hwidth, hsame], tagSame_refl _, hclean⟩
  have hgate : s.gateTtrans ring pop out = .fires := by
    simp [State.gateTtrans, hring, hout, State.mready_of_idle hidle, hslots, hother, hrun, hclaim, hcheck, mgateOf]
  change execTtrans ring pop out s = _
  simp only [execTtrans, hgate, hring, hout, hslots, hother, Bool.false_eq_true, if_false, hclaim]
  rfl

end

/-- Settles O17: each word's gate is open, so its firing is known; the sequencer, the accumulators and the rings are read off it. -/
theorem matrixWordsFire : Obligations.MatrixWordsFire := by
  unfold Obligations.MatrixWordsFire
  refine ⟨?_, ?_, ?_, ?_, ?_, ?_⟩
  · intro i f na nb s a b hidle hi ha hb sa sb hA hB x af hfull hclean hst hfmt
    have hrings : s.macRings s.site.unit.cellId i = some (f, a, b, sa, sb) := by simp [State.macRings, hi, ha, hb, sa, sb]
    refine ⟨_, (exec_of_mac hi).trans (execMac_of_clear hidle hrings ⟨hfull, hclean, hst, hfmt⟩), ?_, State.fireM_rings ..⟩
    exact s.fired_fireM (w := s) f.acc (fun m => { st := .active, fmt := af, ents := if f.clr then [] else (m.accOf f.acc).ents })
      _ rfl rfl rfl
  · intro n s hidle hst
    exact ⟨_, exec_tzero_of_idle hidle hst, s.fired_fireM (w := s) n (fun m => { m.accOf n with st := .active }) _ rfl rfl rfl,
      State.fireM_rings ..⟩
  · intro n clr out fmt r sh s g hidle hring x hfull hempty hplain hdecl hpair
    refine ⟨_, g.claim .matrix, exec_tdrain_of_idle hidle hring hfull hempty (drainOk_of hplain hdecl hpair), ?_, ?_, rfl,
      g.claim_slot .matrix⟩
    · exact s.fired_fireM n (fun m => { m.accOf n with st := .active }) _ rfl rfl rfl
    · rw [State.ring?, State.firesTdrain, State.fireM_rings]
      exact State.ring_setRing_same ..
  · intro n ring pop s g hidle hring c w hc hempty hslots
    have hw : loadSlots c = w := by simp only [loadSlots, Bool.or_eq_true, decide_eq_true_eq, w]
    refine ⟨_, exec_tload_of_idle hidle hring rfl hc hempty (by rwa [hw]), ?_, State.fireM_rings ..⟩
    rw [hw]
    exact s.fired_fireM (w := s) n (fun m => { m.accOf n with st := .active }) _ rfl rfl rfl
  · intro n ring pop s g af hidle hring x hload hst hfmt hfull hplain hclean
    exact ⟨_, exec_taddr_of_idle hidle hring hload hst hfmt hfull hplain hclean,
      s.fired_fireM (w := s) n (fun m => { m.accOf n with st := .active, fmt := af }) _ rfl rfl rfl, State.fireM_rings ..⟩
  · intro ring out pop s g k hidle hne hring hout hlt c hwidth hfull hplain hsame hclean hempty
    refine ⟨_, k.claim .matrix, exec_ttrans_of_idle hidle hne hring hout hwidth hfull hplain hsame hclean hempty, fun a => ?_, ?_,
      fun m => ?_, ?_, k.claim_slot .matrix hlt⟩
    · rw [State.firesTtrans, State.fireM_mem]
      exact ⟨rfl, rfl⟩
    · exact congrArg (fun x => x.mat.seq) (State.fireM_unit (s.setRing ..) _)
    · exact congrArg (fun x => x.mat.accOf m) (State.fireM_unit (s.setRing ..) _)
    · rw [State.ring?, State.firesTtrans, State.fireM_rings]
      exact State.ring_setRing_same ..


/-! PROOFS. An integer tile pair (R65, R68). -/

/-! ## Sums -/

theorem intDot_split (n : Nat) (a b : List Int) : intDot a b = intDot (a.take n) (b.take n) + intDot (a.drop n) (b.drop n) := by
  unfold intDot
  rw [List.zip_eq_zipWith, List.zip_eq_zipWith, List.zip_eq_zipWith, ← List.take_zipWith, ← List.drop_zipWith, ← List.sum_append, ← List.map_append, List.take_append_drop]

/-- The dot products of the pieces of two lists add up to theirs. -/
theorem sum_intDot_pieces {n : Nat} (hn : 0 < n) (fuel : Nat) (a b : List Int) (hlen : a.length = b.length) (hfuel : a.length ≤ fuel) :
    (((piecesOf n fuel a).zip (piecesOf n fuel b)).map (fun p => intDot p.1 p.2)).sum = intDot a b := by
  induction fuel generalizing a b with
  | zero =>
    rw [List.length_eq_zero_iff.1 (Nat.le_zero.1 hfuel)]
    rfl
  | succ fuel ih =>
    by_cases ha : a = []
    · subst ha
      rw [List.length_eq_zero_iff.1 hlen.symm]
      rfl
    · have hb : b ≠ [] := fun hb => ha (List.length_eq_zero_iff.1 (by rw [hlen, hb]; rfl))
      rw [piecesOf, piecesOf, if_neg (by simpa using ha), if_neg (by simpa using hb), List.zip_cons_cons, List.map_cons, List.sum_cons,
        ih _ _ (by simp [hlen]) (by rw [List.length_drop]; omega), ← intDot_split]

theorem intDot_range (n : Nat) (f g : Nat → Int) :
    intDot ((List.range n).map f) ((List.range n).map g) = ((List.range n).map (fun k => f k * g k)).sum := by
  rw [intDot, List.zip_map', List.map_map]
  rfl

theorem intBits_congr {w : Nat} {x y : Int} (h : x ≡ y [ZMOD 2 ^ w]) : intBits w x = intBits w y := by
  have : x % ((2 ^ w : Nat) : Int) = y % ((2 ^ w : Nat) : Int) := by push_cast; exact h
  rw [intBits, intBits, this]

theorem intBits_lt (w : Nat) (x : Int) : intBits w x < 2 ^ w := by
  have hpos : (0 : Int) < ((2 ^ w : Nat) : Int) := by exact_mod_cast Nat.two_pow_pos w
  exact (Int.toNat_lt (Int.emod_nonneg _ hpos.ne')).2 (Int.emod_lt_of_pos _ hpos)

theorem intBits_modEq (w : Nat) (x : Int) : (intBits w x : Int) ≡ x [ZMOD 2 ^ w] := by
  have hpos : (0 : Int) < ((2 ^ w : Nat) : Int) := by exact_mod_cast Nat.two_pow_pos w
  rw [intBits, Int.toNat_of_nonneg (Int.emod_nonneg _ hpos.ne')]
  push_cast
  exact Int.mod_modEq ..

/-- One step of the wrapping sum of an entry (R65, R68). -/
def addDot (x : Nat × Flags) (p : List Int × List Int) : Nat × Flags :=
  ((intAcc false x.1 (intDot p.1 p.2)).1, x.2 ||| (intAcc false x.1 (intDot p.1 p.2)).2)

theorem foldl_addDot (l : List (List Int × List Int)) (x : Nat × Flags) (hl : l ≠ []) :
    (l.foldl addDot x).1 = intBits 32 (intVal 32 true x.1 + (l.map (fun p => intDot p.1 p.2)).sum) := by
  induction l generalizing x with
  | nil => exact absurd rfl hl
  | cons p l ih =>
    by_cases hnil : l = []
    · subst hnil
      simp [addDot, intAcc]
    · rw [List.foldl_cons, ih _ hnil, List.map_cons, List.sum_cons, ← add_assoc]
      refine intBits_congr (Int.ModEq.add_right _ ?_)
      exact (intVal_modEq 32 true _).trans (intBits_modEq 32 _)

/-! ## Entries -/

theorem entryTmma_int (ca cb : BitVec 4) (n : Nat) (a b : Row) (acc : Nat) :
    (entryTmma .int32 false ca cb n a b acc) =
      ((piecesOf n 512 (rowInts ca a)).zip (piecesOf n 512 (rowInts cb b))).foldl addDot (acc, 0) := rfl

/-- One tile pair of bytes on one entry, modulo 2^32. -/
theorem entryTmma_bytes {ca cb : BitVec 4} {sa sb : Bool} (ha : intOf? ca = some (8, sa)) (hb : intOf? cb = some (8, sb))
    (hwa : fmtWidth ca = 8) (hwb : fmtWidth cb = 8) (a b : Row) (acc : Nat) :
    (entryTmma .int32 false ca cb 16 a b acc).1 = intBits 32 (intVal 32 true acc +
      ((List.range 64).map (fun k => intVal 8 sa (elem 8 a.toNat k) * intVal 8 sb (elem 8 b.toNat k))).sum) := by
  have hra : rowInts ca a = (List.range 64).map (fun k => intVal 8 sa (elem 8 a.toNat k)) := by
    simp only [rowInts, ha, lanes, hwa, List.map_map]
    rfl
  have hrb : rowInts cb b = (List.range 64).map (fun k => intVal 8 sb (elem 8 b.toNat k)) := by
    simp only [rowInts, hb, lanes, hwb, List.map_map]
    rfl
  have hpieces : (piecesOf 16 512 (rowInts ca a)).zip (piecesOf 16 512 (rowInts cb b)) ≠ [] := by
    rw [hra, hrb]
    exact List.cons_ne_nil _ _
  rw [entryTmma_int, foldl_addDot _ _ hpieces, sum_intDot_pieces (by decide) 512 _ _ (by simp [hra, hrb]) (by simp [hra]), hra, hrb,
    intDot_range]

theorem mapEntries_getD (es : List Word) (f : Nat → Nat → Nat → Nat × Flags) {k : Nat} (hk : k < es.length) :
    (mapEntries es f).1.getD k 0 = BitVec.ofNat 64 (f (k / 32) (k % 32) (es.getD k 0).toNat).1 := by
  simp [mapEntries, List.getD_eq_getElem?_getD, hk]

theorem mapEntries_ne_nil {es : List Word} (f : Nat → Nat → Nat → Nat × Flags) (h : es ≠ []) : (mapEntries es f).1 ≠ [] := by
  simpa [mapEntries] using h

theorem Acc.entries_of_ne_nil {a : Acc} (h : a.ents ≠ []) : a.entries = a.ents := by
  simp [Acc.entries, h]

theorem getD_slotRows (m : Memory) (c : CellId) (g : Ring) (slot : Nat) {i : Nat} (hi : i < 32) :
    (slotRows m c g slot).getD i 0 = m.row (ringAddr c g slot i) := by
  simp [slotRows, List.getD_eq_getElem?_getD, hi]

/-! ## What a tile pair's retirement leaves in the node -/

theorem State.recordFaultOf_mat (s : State) (u : UnitId) (tick : Nat) (cause : Byte) (word ctx : Nat) (chan : Option Nat)
    (sb : BitVec 14) (flags : BitVec 6) : ((s.recordFaultOf u tick cause word ctx chan sb flags).unit u).mat = (s.unit u).mat := by
  unfold State.recordFaultOf
  dsimp only
  split
  · split <;> (rw [State.unit_setUnit_same])
  · rw [State.unit_raise_setUnit]

theorem State.nodeFlags_mat (s : State) (u : UnitId) (slot : Nat) (f : Flags) : ((s.nodeFlags u slot f).unit u).mat = (s.unit u).mat := by
  unfold State.nodeFlags State.arithTrap
  split
  · exact State.recordFaultOf_mat ..
  · rfl

@[simp] theorem State.unit_popRing (s : State) (c : CellId) (n : Nat) (yes : Bool) (u : UnitId) : (s.popRing c n yes).unit u = s.unit u := by
  unfold State.popRing
  split
  · split <;> rfl
  · rfl

/-- The state after a tile pair retires: its sums, its pops, its flags. -/
def State.retiresPair (s : State) (u : UnitId) (q : Seq) (f : MacFields) (a b : Ring) (sa sb : Option Ring) (na nb : Nat) : State :=
  let x := (s.unit u).mat.accOf f.acc
  let r := s.tileSums u q f a b sa sb x
  let ta := a.tagAt q.hA q.k
  let tb := b.tagAt q.hB q.k
  let fin := sideDone q.word ta tb q.k || decide (q.k + 1 = tileCount f)
  let sideA := f.popA && usesSide q.word ta && fin
  let w := s.modMat u (fun m => { (m.setAcc f.acc { x with ents := r.1 }) with
    seq := some { q with k := q.k + 1, started := false, part := r.2.2 } })
  ((((w.popRing u.cellId f.ringA.toNat f.popA).popRing u.cellId f.ringB.toNat (f.popB && !(f.popA && decide (f.ringA = f.ringB)))).popRing
    u.cellId na sideA).popRing u.cellId nb (f.popB && usesSide q.word tb && fin && !(sideA && decide (na = nb)))).nodeFlags u q.slot r.2.1

theorem State.retiresPair_acc (s : State) (u : UnitId) (q : Seq) (f : MacFields) (a b : Ring) (sa sb : Option Ring) (na nb : Nat) :
    ((s.retiresPair u q f a b sa sb na nb).unit u).mat.accOf f.acc = { (s.unit u).mat.accOf f.acc with
      ents := (s.tileSums u q f a b sa sb ((s.unit u).mat.accOf f.acc)).1 } := by
  rw [State.retiresPair, State.nodeFlags_mat, State.unit_popRing, State.unit_popRing, State.unit_popRing, State.unit_popRing,
    State.unit_modMat_same]
  exact Mat.accOf_setAcc_same ..

theorem exec_tilePairRetire {s : State} {u : UnitId} {q : Seq} {f : MacFields} {a b : Ring} {sa sb : Option Ring} {na nb : Nat}
    (hq : (s.unit u).mat.seq = some q) (hmac : macOf q.word = some (f, na, nb))
    (hrings : s.macRings u.cellId q.word = some (f, a, b, sa, sb)) (hstarted : q.started = true) (hfree : s.seqFree u = true) :
    exec (.tilePairRetire u) s = .next (s.retiresPair u q f a b sa sb na nb) := by
  change execTilePairRetire u s = _
  simp only [execTilePairRetire, State.mat, hq, hrings, hstarted, hfree, hmac, Bool.not_true, Bool.false_eq_true, if_false]
  rfl

theorem State.tileSums_tmma {s : State} {u : UnitId} {q : Seq} {f : MacFields} (hq : q.word = .tmma f) (a b : Ring) (sa sb : Option Ring)
    (acc : Acc) : (s.tileSums u q f a b sa sb acc).1 = (mapEntries acc.entries (fun i j w =>
      entryTmma acc.fmt (s.isat u.region) (tagFmt (a.tagAt q.hA q.k)) (tagFmt (b.tagAt q.hB q.k))
        (chunkOf (fmtWidth (tagFmt (a.tagAt q.hA q.k)))) ((slotRows s.mem u.cellId a (a.at_ q.hA q.k)).getD i 0)
        ((slotRows s.mem u.cellId b (b.at_ q.hB q.k)).getD j 0) w)).1 := by
  simp only [State.tileSums, hq]

/-- The bytes' formats. -/
theorem byte_fmt {c : BitVec 4} (h : c = 10 ∨ c = 11) : ∃ sg, intOf? c = some (8, sg) ∧ fmtWidth c = 8 := by
  rcases h with rfl | rfl
  · exact ⟨true, rfl, rfl⟩
  · exact ⟨false, rfl, rfl⟩

theorem slotInts_of_fmt {c : BitVec 4} {sg : Bool} (h : intOf? c = some (8, sg)) (s : State) (cell : CellId) (g : Ring) (slot i k : Nat) :
    slotInts s cell g slot c i k = intVal 8 sg (elem 8 (s.mem.row (ringAddr cell g slot i)).toNat k) := by
  rw [slotInts, h]

/-- Settles O18: the pieces' dot products wrap one after another, and their sum is the whole row's. -/
theorem integerTilePairAccumulates : Obligations.IntegerTilePairAccumulates := by
  unfold Obligations.IntegerTilePairAccumulates
  intro u s q f a b hq hword hstarted hfree ha hb hisat ca cb hca hcb hfmt hlen
  have hmac : macOf q.word = some (f, 0, 0) := by rw [hword]; rfl
  have hrings : s.macRings u.cellId q.word = some (f, a, b, s.ring? u.cellId 0, s.ring? u.cellId 0) := by
    simp [State.macRings, hmac, ha, hb]
  obtain ⟨sga, hia, hwa⟩ := byte_fmt hca
  obtain ⟨sgb, hib, hwb⟩ := byte_fmt hcb
  refine ⟨_, exec_tilePairRetire hq hmac hrings hstarted hfree, fun i j hi hj => ?_⟩
  have hne : ((s.unit u).mat.accOf f.acc).entries ≠ [] := fun h => by simp [h] at hlen
  have hk : 32 * i + j < ((s.unit u).mat.accOf f.acc).entries.length := by omega
  have hrow : (32 * i + j) / 32 = i := by omega
  have hcol : (32 * i + j) % 32 = j := by omega
  have hents := State.tileSums_tmma (s := s) (u := u) hword a b (s.ring? u.cellId 0) (s.ring? u.cellId 0) ((s.unit u).mat.accOf f.acc)
  rw [State.retiresPair_acc, Acc.entries_of_ne_nil (hents.trans_ne (mapEntries_ne_nil _ hne)), hents, mapEntries_getD _ _ hk, hrow, hcol, hfmt, hisat, getD_slotRows _ _ _ _ hi, getD_slotRows _ _ _ _ hj]
  have hchunk : chunkOf (fmtWidth (tagFmt (a.tagAt q.hA q.k))) = 16 := by rw [hwa]; rfl
  rw [hchunk, entryTmma_bytes hia hib hwa hwb]
  simp only [slotInts_of_fmt hia, slotInts_of_fmt hib, BitVec.toNat_ofNat]
  exact Nat.mod_eq_of_lt ((intBits_lt 32 _).trans_le (by decide))


/-! PROOFS. Rows of memory, and what placing tokens and taking banks leaves as it was. -/

/-! ## Rows (R115) -/

section
variable {m : Memory} (hw : m.wf = true)

@[simp] theorem Memory.byte_poisonWords (m : Memory) (a : Nat) (p : Bool) (n c : Nat) : (m.poisonWords a p n).byte c = m.byte c := by
  induction n generalizing m a with
  | zero => rfl
  | succ n ih => rw [Memory.poisonWords, ih, Memory.byte_setPoison]

include hw

theorem Memory.poisoned_poisonWords (a : Nat) (p : Bool) (n c : Nat) : (m.poisonWords a p n).poisoned c =
    if a / 8 ≤ c / 8 ∧ c / 8 < a / 8 + n then p else m.poisoned c := by
  induction n generalizing m a with
  | zero => rw [if_neg (by omega)]; rfl
  | succ n ih =>
    rw [Memory.poisonWords, ih (Memory.wf_setPoison hw _ _), Memory.poisoned_setPoison hw]
    grind

theorem Memory.byte_writeRow (a : Nat) (r : Row) (p : Bool) (c : Nat) : (m.writeRow a r p).byte c =
    if a ≤ c ∧ c < a + 64 then BitVec.ofNat 8 (r.toNat / 256 ^ (c - a)) else m.byte c := by
  rw [Memory.writeRow, Memory.byte_poisonWords, Memory.byte_writeNat hw]

theorem Memory.poisoned_writeRow (a : Nat) (r : Row) (p : Bool) (c : Nat) : (m.writeRow a r p).poisoned c =
    if a / 8 ≤ c / 8 ∧ c / 8 < a / 8 + 8 then p else m.poisoned c := by
  rw [Memory.writeRow, Memory.poisoned_poisonWords (Memory.wf_writeNat hw _ _ _), Memory.poisoned_writeNat]

theorem Memory.row_writeRow (a : Nat) (r : Row) (p : Bool) : (m.writeRow a r p).row a = r := by
  have hread : (m.writeRow a r p).readNat a 64 = (m.writeNat a 64 r.toNat).readNat a 64 :=
    Memory.readNat_congr fun c _ _ => Memory.byte_poisonWords ..
  rw [Memory.row, hread, Memory.readNat_writeNat hw]
  refine BitVec.eq_of_toNat_eq ?_
  have hpow : (256 : Nat) ^ 64 = 2 ^ (8 * 64) := (Nat.pow_mul 2 8 64).symm
  have hlt : r.toNat < 2 ^ (8 * 64) := r.isLt
  rw [BitVec.toNat_ofNat, hpow, Nat.mod_eq_of_lt hlt, Nat.mod_eq_of_lt r.isLt]

theorem Memory.rowPoisoned_writeRow (a : Nat) (r : Row) (p : Bool) : (m.writeRow a r p).rowPoisoned a = p := by
  have hword : ∀ k ∈ List.range 8, (m.writeRow a r p).poisoned (a + 8 * k) = p := fun k hk => by
    have := List.mem_range.1 hk
    rw [Memory.poisoned_writeRow hw, if_pos (by omega)]
  rw [Memory.rowPoisoned]
  cases p with
  | false => exact List.any_eq_false.2 fun k hk => by rw [hword k hk]; exact Bool.false_ne_true
  | true => exact List.any_eq_true.2 ⟨0, by decide, hword 0 (by decide)⟩

end

theorem sameBytesBut_writeRow {s t : State} (hw : s.mem.wf = true) {a : Nat} (ha : a % 8 = 0) {r : Row} {p : Bool}
    (ht : t.mem = s.mem.writeRow a r p) : sameBytesBut a 64 s t := by
  refine fun b => ⟨fun hb => ?_, fun hb => ?_⟩
  · rw [ht, Memory.byte_writeRow hw, if_neg (by omega)]
  · rw [ht, Memory.poisoned_writeRow hw, if_neg (by omega)]

/-! ## What placing tokens leaves -/

/-- Elements, rings, memory, the cycle and the regions' flags and modes are as before. -/
structure State.KeepsUnits (s t : State) : Prop where
  units : t.units = s.units
  rings : t.rings = s.rings
  mem : t.mem = s.mem
  cyc : t.cyc = s.cyc
  region : ∀ r, (t.region r).astat = (s.region r).astat ∧ (t.region r).amode = (s.region r).amode ∧ (t.region r).tag = (s.region r).tag

section
variable {s t w : State}

theorem State.KeepsUnits.refl (s : State) : s.KeepsUnits s := ⟨rfl, rfl, rfl, rfl, fun _ => ⟨rfl, rfl, rfl⟩⟩

theorem State.KeepsUnits.trans (h : s.KeepsUnits t) (k : t.KeepsUnits w) : s.KeepsUnits w := by
  refine ⟨k.units.trans h.units, k.rings.trans h.rings, k.mem.trans h.mem, k.cyc.trans h.cyc, fun r => ?_⟩
  obtain ⟨ha, hm, ht⟩ := h.region r
  obtain ⟨ka, km, kt⟩ := k.region r
  exact ⟨ka.trans ha, km.trans hm, kt.trans ht⟩

theorem State.KeepsUnits.foldl {α : Type} {f : State → α → State} (hf : ∀ s x, State.KeepsUnits s (f s x)) (l : List α) (s : State) :
    s.KeepsUnits (l.foldl f s) := by
  induction l generalizing s with
  | nil => exact .refl s
  | cons x l ih => exact (hf s x).trans (ih _)

theorem State.KeepsUnits.of_fields (hu : t.units = s.units) (hr : t.rings = s.rings) (hm : t.mem = s.mem) (hc : t.cyc = s.cyc)
    (hreg : t.regions = s.regions) : s.KeepsUnits t :=
  ⟨hu, hr, hm, hc, fun r => by rw [State.region, hreg]; exact ⟨rfl, rfl, rfl⟩⟩

theorem State.KeepsUnits.unit (h : s.KeepsUnits t) (u : UnitId) : t.unit u = s.unit u := by rw [State.unit, h.units]; rfl

theorem State.KeepsUnits.sameBytes (h : s.KeepsUnits t) : sameBytes s t := fun a => by rw [h.mem]; exact ⟨rfl, rfl⟩

theorem State.OnlyCounts.keepsUnits (h : s.OnlyCounts t) : s.KeepsUnits t := by
  refine ⟨?_, ?_, ?_, ?_, fun r => ?_⟩
  · rw [h.rest]
  · rw [h.rest]
  · rw [h.rest]
  · rw [h.rest]
  · rw [h.regions r]
    exact ⟨rfl, rfl, rfl⟩

theorem State.keepsUnits_modRegion (s : State) (q : Nat) {f : Region → Region}
    (hf : ∀ R : Region, (f R).astat = R.astat ∧ (f R).amode = R.amode ∧ (f R).tag = R.tag) : s.KeepsUnits (s.modRegion q f) := by
  refine ⟨rfl, rfl, rfl, rfl, fun r => ?_⟩
  rw [State.region_modRegion]
  split
  · next h => rw [h]; exact hf _
  · exact ⟨rfl, rfl, rfl⟩

theorem State.keepsUnits_modChan (s : State) (k : Sink) (f : Chan → Chan) : s.KeepsUnits (s.modChan k f) :=
  .of_fields rfl rfl rfl rfl rfl

theorem State.keepsUnits_countKill (s : State) (r : Nat) (x : Word) : s.KeepsUnits (s.countKill r x) := by
  unfold State.countKill
  dsimp only
  split
  · exact .refl s
  · refine .trans (t := State.countPkg (s.setSlot ..) ..) ?_ (State.count_onlyCounts ..).keepsUnits
    exact .of_fields rfl rfl rfl rfl rfl

theorem State.keepsUnits_checkHeader (s : State) (r : Nat) (t : Tok) : s.KeepsUnits (s.checkHeader r t).1 := by
  unfold State.checkHeader
  split
  · exact .refl s
  · split
    · exact .refl s
    · split
      · dsimp only
        split
        · exact s.keepsUnits_countKill ..
        · exact .refl s
      · exact .refl s

theorem State.keepsUnits_leaves (s : State) (u : UnitId) (k : Sink) (t : Tok) : s.KeepsUnits (s.leaves u k t) := by
  unfold State.leaves
  split
  · exact (s.stir_onlyCounts _).keepsUnits
  · split
    · exact .refl s
    · split
      · exact (s.stir_onlyCounts _).keepsUnits
      · exact ((s.stir_onlyCounts _).trans (State.countEvent_onlyCounts ..)).keepsUnits

theorem State.keepsUnits_placeRaw (s : State) (u : UnitId) (o tick : Nat) (t : Tok) : s.KeepsUnits (s.placeRaw u o tick t) :=
  .foldl (fun s k => (s.keepsUnits_modChan k _).trans (State.keepsUnits_leaves ..)) _ s

theorem Region.countRot_fields (R : Region) : R.countRot.astat = R.astat ∧ R.countRot.amode = R.amode ∧ R.countRot.tag = R.tag := by
  unfold Region.countRot
  split <;> exact ⟨rfl, rfl, rfl⟩

theorem State.keepsUnits_place (s : State) (u : UnitId) (o tick : Nat) (t : Tok) : s.KeepsUnits (s.place u o tick t) := by
  unfold State.place
  dsimp only
  have hraw := (s.keepsUnits_checkHeader u.region (t.madeBy u tick)).trans
    (State.keepsUnits_placeRaw (s.checkHeader u.region (t.madeBy u tick)).1 u o tick (s.checkHeader u.region (t.madeBy u tick)).2)
  split
  · exact hraw.trans (State.keepsUnits_modRegion _ _ Region.countRot_fields)
  · exact hraw

theorem State.keepsUnits_release (s : State) (u : UnitId) (o tick : Nat) : s.KeepsUnits (s.release u o tick) :=
  .foldl (fun s k => s.keepsUnits_modChan k _) _ s

theorem State.keepsUnits_reserve (s : State) (u : UnitId) (o tick : Nat) : s.KeepsUnits (s.reserve u o tick) :=
  .foldl (fun s k => s.keepsUnits_modChan k _) _ s

theorem State.keepsUnits_landToks (s : State) (u : UnitId) (tick : Nat) (l : List (Nat × Option Tok)) : s.KeepsUnits (s.landToks u tick l) := by
  induction l generalizing s with
  | nil => exact .refl s
  | cons e l ih =>
    obtain ⟨o, t⟩ := e
    cases t with
    | some t => exact (s.keepsUnits_place u o tick t).trans (ih _)
    | none => exact (s.keepsUnits_release u o tick).trans (ih _)

theorem State.keepsUnits_landGrant (s : State) (g : Option (Nat × Bool)) : s.KeepsUnits (s.landGrant g) := by
  unfold State.landGrant
  split
  · split
    · exact .of_fields rfl rfl rfl rfl rfl
    · exact .refl s
  · exact .refl s

/-! ## What taking and losing banks leaves -/

theorem State.keepsUnits_takeBank (s : State) (a who : Nat) : s.KeepsUnits (s.takeBank a who) := by
  unfold State.takeBank
  split
  · exact .of_fields rfl rfl rfl rfl rfl
  · exact .refl s

theorem State.keepsUnits_takeBanks (s : State) (as : List Nat) (who : Nat) : s.KeepsUnits (s.takeBanks as who) :=
  .foldl (fun s a => s.keepsUnits_takeBank a who) _ s

theorem State.keepsUnits_bankLost (s : State) (a who : Nat) : s.KeepsUnits (s.bankLost a who) := by
  have htried : s.KeepsUnits (match bankOf a with
      | some b => { s with bankTried := (b, who) :: s.bankTried }
      | none => s) := by
    split
    · exact .of_fields rfl rfl rfl rfl rfl
    · exact .refl s
  unfold State.bankLost
  dsimp only
  split
  · exact htried.trans (State.count_onlyCounts ..).keepsUnits
  · split
    · exact htried.trans (State.count_onlyCounts ..).keepsUnits
    · exact htried

theorem State.keepsUnits_banksLost (s : State) (as : List Nat) (who : Nat) : s.KeepsUnits (s.banksLost as who) :=
  .foldl (fun s a => s.keepsUnits_bankLost a who) _ s

end

/-! PROOFS. Write-back (R96, R98, R103, R192, R232, R292). -/

/-! ## A context after a landing -/

section
variable (c : Ctx) (l : Landing)

theorem Ctx.land_reg {r : BitVec 3} {v : Word} {p : Bool} (h : l.reg = some (r, v, p)) :
    (c.land l).x.get r.toFin = v ∧ (c.land l).px.getLsbD r.toNat = p := by
  have hx : (c.land l).x = c.x.set r.toFin v ∧ (c.land l).px = setBit c.px r.toNat p := by
    unfold Ctx.land
    rw [h]
    dsimp only
    split <;> split <;> exact ⟨rfl, rfl⟩
  rw [hx.1, hx.2]
  exact ⟨Vector.getElem_set_self .., (getLsbD_setBit _ _ r.isLt).trans (if_pos rfl)⟩

theorem Ctx.land_x (h : l.reg = none) : (c.land l).x = c.x := by
  unfold Ctx.land
  rw [h]
  dsimp only
  split <;> split <;> rfl

theorem Ctx.land_regPend {r : BitVec 3} (h : l.regPend = some r) : (c.land l).pendX.getLsbD r.toNat = false := by
  have hx : (c.land l).pendX = setBit c.pendX r.toNat false := by
    unfold Ctx.land
    rw [h]
    dsimp only
    split <;> split <;> rfl
  rw [hx]
  exact (getLsbD_setBit _ _ r.isLt).trans (if_pos rfl)

theorem Ctx.land_pred {j : BitVec 3} {b : Bool} (h : l.pred = some (j, b)) :
    (c.land l).p.getLsbD j.toNat = b ∧ (c.land l).pendP.getLsbD j.toNat = false := by
  have hp : (c.land l).p = setBit c.p j.toNat b ∧ (c.land l).pendP = setBit c.pendP j.toNat false := by
    unfold Ctx.land
    rw [h]
    dsimp only
    split <;> split <;> exact ⟨rfl, rfl⟩
  rw [hp.1, hp.2]
  exact ⟨(getLsbD_setBit _ _ j.isLt).trans (if_pos rfl), (getLsbD_setBit _ _ j.isLt).trans (if_pos rfl)⟩

end

/-! ## The state after a landing -/

section
variable (s : State) (u : UnitId) (f : Flight)

/-- The element with a landing's registers, predicate, vector registers and mask. -/
def EUnit.landed (x : EUnit) (f : Flight) : EUnit := { x.modCtx f.ctx (fun c => c.land f.land) with vec := x.vec.land f.land }

/-- The state with a landing's registers, rows and tokens, before its flags. -/
def State.landRest : State :=
  (((s.modUnit u (fun x => x.landed f)).landRows u.cellId f.land.rows).landToks u f.tick f.land.toks).landGrant f.land.grant

/-- The state with a landing's flags, before the trap. -/
def State.landFlags : State := ((s.landRest u f).orFlags u.region f.land.flags).oweMark u f.tick f.land.rot

theorem State.land_eq : s.land u f = (s.landFlags u f).arithTrap u f.tick f.slot f.ctx f.land.flags := rfl

theorem State.writeRingRow_units (c : CellId) (n slot row : Nat) (r : Row) (p : Bool) :
    (s.writeRingRow c n slot row r p).units = s.units ∧ (s.writeRingRow c n slot row r p).regions = s.regions := by
  unfold State.writeRingRow
  split <;> exact ⟨rfl, rfl⟩

theorem State.fillSlot_units (c : CellId) (n slot : Nat) (tag : Byte) :
    (s.fillSlot c n slot tag).units = s.units ∧ (s.fillSlot c n slot tag).regions = s.regions := by
  unfold State.fillSlot
  split <;> exact ⟨rfl, rfl⟩

theorem State.landRows_units (c : CellId) (ws : List RowWrite) :
    (s.landRows c ws).units = s.units ∧ (s.landRows c ws).regions = s.regions := by
  induction ws generalizing s with
  | nil => exact ⟨rfl, rfl⟩
  | cons w ws ih =>
    rw [State.landRows]
    obtain ⟨hu, hr⟩ := s.writeRingRow_units c w.ring w.slot w.row w.data w.poison
    split
    · obtain ⟨fu, fr⟩ := State.fillSlot_units (s.writeRingRow c w.ring w.slot w.row w.data w.poison) c w.ring w.slot
        (match (s.writeRingRow c w.ring w.slot w.row w.data w.poison).ring? c w.ring with | some g => g.decl | none => 0)
      obtain ⟨iu, ir⟩ := ih (State.fillSlot (s.writeRingRow c w.ring w.slot w.row w.data w.poison) c w.ring w.slot
        (match (s.writeRingRow c w.ring w.slot w.row w.data w.poison).ring? c w.ring with | some g => g.decl | none => 0))
      exact ⟨iu.trans (fu.trans hu), ir.trans (fr.trans hr)⟩
    · obtain ⟨iu, ir⟩ := ih (s.writeRingRow c w.ring w.slot w.row w.data w.poison)
      exact ⟨iu.trans hu, ir.trans hr⟩

theorem State.keepsUnits_landRest : ((s.modUnit u (fun x => x.landed f)).landRows u.cellId f.land.rows).KeepsUnits (s.landRest u f) :=
  (State.keepsUnits_landToks ..).trans (State.keepsUnits_landGrant ..)

theorem State.landRest_unit : (s.landRest u f).unit u = (s.unit u).landed f := by
  rw [(s.keepsUnits_landRest u f).unit, State.unit, (State.landRows_units _ _ _).1]
  exact State.unit_modUnit_same ..

theorem State.landRest_unit_fields : ((s.landRest u f).unit u).flights = (s.unit u).flights ∧
    ((s.landRest u f).unit u).efault = (s.unit u).efault := by
  rw [State.landRest_unit]
  exact ⟨rfl, rfl⟩

theorem State.landRest_other {v : UnitId} (hv : v ≠ u) : (s.landRest u f).unit v = s.unit v := by
  rw [(s.keepsUnits_landRest u f).unit, State.unit, (State.landRows_units _ _ _).1]
  exact State.unit_modUnit_other s hv _

theorem State.landRest_region (r : Nat) : ((s.landRest u f).region r).astat = (s.region r).astat ∧
    ((s.landRest u f).region r).amode = (s.region r).amode ∧ ((s.landRest u f).region r).tag = (s.region r).tag := by
  have hregion : ((s.modUnit u (fun x => x.landed f)).landRows u.cellId f.land.rows).region r = s.region r :=
    congrArg (fun m => Map.get m r ({} : Region)) (State.landRows_units _ _ _).2
  have := (s.keepsUnits_landRest u f).region r
  rwa [hregion] at this

/-- Owing a MARK changes the element's marks alone. -/
theorem State.oweMark_spec (tick : Nat) (o : Option Nat) :
    ((s.oweMark u tick o).unit u).ctx = (s.unit u).ctx ∧ ((s.oweMark u tick o).unit u).vec = (s.unit u).vec ∧
    ((s.oweMark u tick o).unit u).flights = (s.unit u).flights ∧ ((s.oweMark u tick o).unit u).efault = (s.unit u).efault ∧
    (∀ v, v ≠ u → (s.oweMark u tick o).unit v = s.unit v) ∧ (s.oweMark u tick o).regions = s.regions ∧
    (s.oweMark u tick o).mem = s.mem ∧ (s.oweMark u tick o).rings = s.rings := by
  cases o with
  | none => exact ⟨rfl, rfl, rfl, rfl, fun _ _ => rfl, rfl, rfl, rfl⟩
  | some o =>
    have h : s.oweMark u tick (some o) = s.modUnit u (fun x => { x with marks := x.marks ++ [(s.cyc + 1, tick, o)] }) := rfl
    rw [h, State.unit_modUnit_same]
    exact ⟨rfl, rfl, rfl, rfl, fun v hv => State.unit_modUnit_other s hv _, rfl, rfl, rfl⟩

/-- What a trap of arithmetic leaves of the state. -/
theorem State.arithTrap_spec (tick slot ctx : Nat) (fl : Flags) :
    ((s.arithTrap u tick slot ctx fl).unit u).ctx = (s.unit u).ctx ∧ ((s.arithTrap u tick slot ctx fl).unit u).vec = (s.unit u).vec ∧
    ((s.arithTrap u tick slot ctx fl).unit u).flights = (s.unit u).flights ∧
    (∀ v, v ≠ u → (s.arithTrap u tick slot ctx fl).unit v = s.unit v) ∧
    (∀ r, ((s.arithTrap u tick slot ctx fl).region r).astat = (s.region r).astat) ∧
    (s.arithTrap u tick slot ctx fl).mem = s.mem ∧ (s.arithTrap u tick slot ctx fl).rings = s.rings := by
  unfold State.arithTrap
  split
  · obtain ⟨hctx, hvec, hflights, hrings, -⟩ := s.recordFaultOf_fields u tick cARITH slot ctx none 0 fl
    obtain ⟨hmem, hregions, -, hothers⟩ := s.around_recordFaultOf u tick cARITH slot ctx none 0 fl
    exact ⟨hctx, hvec, hflights, hothers, fun r => by have := congrArg Region.astat (hregions r); exact this, hmem, hrings⟩
  · exact ⟨rfl, rfl, rfl, fun _ _ => rfl, fun _ => rfl, rfl, rfl⟩

theorem State.landFlags_region : ((s.landFlags u f).region u.region).astat = (s.region u.region).astat ||| f.land.flags ∧
    ((s.landFlags u f).region u.region).amode = (s.region u.region).amode ∧
    ((s.landFlags u f).region u.region).tag = (s.region u.region).tag := by
  obtain ⟨-, -, -, -, -, hregions, -⟩ := ((s.landRest u f).orFlags u.region f.land.flags).oweMark_spec u f.tick f.land.rot
  obtain ⟨ha, hm, ht⟩ := s.landRest_region u f u.region
  have hregion : (s.landFlags u f).region u.region = ((s.landRest u f).orFlags u.region f.land.flags).region u.region :=
    congrArg (fun m => Map.get m u.region ({} : Region)) hregions
  rw [hregion, State.orFlags, State.region_modRegion_same]
  exact ⟨by rw [← ha], hm, ht⟩

theorem State.land_context (c : Nat) : ((s.land u f).unit u).context c = ((s.unit u).landed f).context c := by
  rw [State.land_eq]
  obtain ⟨hctx, -⟩ := (s.landFlags u f).arithTrap_spec u f.tick f.slot f.ctx f.land.flags
  obtain ⟨octx, -⟩ := ((s.landRest u f).orFlags u.region f.land.flags).oweMark_spec u f.tick f.land.rot
  refine EUnit.context_of_ctx_eq ((hctx.trans octx).trans ?_) c
  exact congrArg EUnit.ctx (s.landRest_unit u f)

theorem State.land_flights : ((s.land u f).unit u).flights = (s.unit u).flights := by
  rw [State.land_eq]
  obtain ⟨-, -, hflights, -⟩ := (s.landFlags u f).arithTrap_spec u f.tick f.slot f.ctx f.land.flags
  obtain ⟨-, -, oflights, -⟩ := ((s.landRest u f).orFlags u.region f.land.flags).oweMark_spec u f.tick f.land.rot
  exact (hflights.trans oflights).trans ((s.landRest_unit_fields u f).1)

theorem State.land_other {v : UnitId} (hv : v ≠ u) : (s.land u f).unit v = s.unit v := by
  rw [State.land_eq]
  obtain ⟨-, -, -, hothers, -⟩ := (s.landFlags u f).arithTrap_spec u f.tick f.slot f.ctx f.land.flags
  obtain ⟨-, -, -, -, oothers, -⟩ := ((s.landRest u f).orFlags u.region f.land.flags).oweMark_spec u f.tick f.land.rot
  exact ((hothers v hv).trans (oothers v hv)).trans (s.landRest_other u f hv)

theorem State.land_astat : ((s.land u f).region u.region).astat = (s.region u.region).astat ||| f.land.flags := by
  rw [State.land_eq]
  obtain ⟨-, -, -, -, hastat, -⟩ := (s.landFlags u f).arithTrap_spec u f.tick f.slot f.ctx f.land.flags
  exact (hastat _).trans (s.landFlags_region u f).1

theorem State.land_stores : (s.land u f).mem = ((s.modUnit u (fun x => x.landed f)).landRows u.cellId f.land.rows).mem ∧
    (s.land u f).rings = ((s.modUnit u (fun x => x.landed f)).landRows u.cellId f.land.rows).rings := by
  rw [State.land_eq]
  obtain ⟨-, -, -, -, -, hmem, hrings⟩ := (s.landFlags u f).arithTrap_spec u f.tick f.slot f.ctx f.land.flags
  obtain ⟨-, -, -, -, -, -, omem, orings⟩ := ((s.landRest u f).orFlags u.region f.land.flags).oweMark_spec u f.tick f.land.rot
  have hrest := s.keepsUnits_landRest u f
  exact ⟨(hmem.trans omem).trans hrest.mem, (hrings.trans orings).trans hrest.rings⟩

theorem State.landFlags_efault : ((s.landFlags u f).unit u).efault = (s.unit u).efault := by
  obtain ⟨-, -, -, oefault, -⟩ := ((s.landRest u f).orFlags u.region f.land.flags).oweMark_spec u f.tick f.land.rot
  exact oefault.trans ((s.landRest_unit_fields u f).2)

theorem State.land_efault_of_quiet (h : (s.region u.region).amode.extractLsb' 0 6 &&& f.land.flags = 0) :
    ((s.land u f).unit u).efault = (s.unit u).efault := by
  obtain ⟨-, hamode, -⟩ := s.landFlags_region u f
  rw [State.land_eq, State.arithTrap, State.trapsOn, hamode, h, if_neg (by simp), State.landFlags_efault]

theorem State.land_efault_of_trap (h : (s.region u.region).amode.extractLsb' 0 6 &&& f.land.flags ≠ 0)
    (hclean : (s.unit u).efault.getLsbD 63 = false) : ((s.land u f).unit u).efault =
      efaultWord 0x0F f.slot f.ctx (s.region u.region).tag none 0 f.land.flags := by
  obtain ⟨-, hamode, htag⟩ := s.landFlags_region u f
  rw [State.land_eq, State.arithTrap, State.trapsOn, hamode, if_pos (by simpa using h),
    State.recordFaultOf_first _ _ _ _ _ _ _ _ _ (by rwa [State.landFlags_efault]), htag]
  rfl

end

/-! PROOFS. O21: the earliest due word lands, or its bank puts it off. -/

section
variable {s : State} {u : UnitId} {f : Flight} (hdue : (s.unit u).flights.find? (fun g => g.due ≤ s.cyc) = some f)

/-- The state in which a due word lands: its banks taken, the word no longer in flight. -/
def State.takesOff (s : State) (u : UnitId) (f : Flight) (rows : List Nat) : State :=
  ((s.takeBanks f.land.reads 1).takeBanks rows 2).modUnit u (fun x => { x with flights := x.flights.filter (fun g => g.tick ≠ f.tick) })

/-- The state in which a due word is put off. -/
def State.putsOff (s : State) (u : UnitId) (f : Flight) (rows : List Nat) : State :=
  ((s.banksLost f.land.reads 1).banksLost rows 2).modUnit u (fun x => x.postpone f.tick)

include hdue

theorem exec_writeBack_of_served (hfree : (s.unit u).rowsBehind f = false) (hreads : ∀ a ∈ f.land.reads, s.bankServes a 1 = true)
    (hrows : ∀ a ∈ s.landAddrs u.cellId f.land, s.bankServes a 2 = true) :
    exec (.writeBack u) s = .next ((s.takesOff u f (s.landAddrs u.cellId f.land)).land u f) := by
  have hd : (s.unit u).dueFlight s.cyc = some f := hdue
  have hok : (f.land.reads.all (fun a => s.bankServes a 1) && (s.landAddrs u.cellId f.land).all (fun a => s.bankServes a 2)) = true := by
    rw [Bool.and_eq_true, List.all_eq_true, List.all_eq_true]
    exact ⟨hreads, hrows⟩
  change execWriteBack u s = _
  simp only [execWriteBack, hd, hfree, hok, Bool.false_eq_true, if_false, if_true]
  rfl

theorem exec_writeBack_of_lost (hfree : (s.unit u).rowsBehind f = false)
    (hlost : (∃ a ∈ f.land.reads, s.bankServes a 1 = false) ∨ ∃ a ∈ s.landAddrs u.cellId f.land, s.bankServes a 2 = false) :
    exec (.writeBack u) s = .next (s.putsOff u f (s.landAddrs u.cellId f.land)) := by
  have hd : (s.unit u).dueFlight s.cyc = some f := hdue
  have hno : ¬(f.land.reads.all (fun a => s.bankServes a 1) && (s.landAddrs u.cellId f.land).all (fun a => s.bankServes a 2)) = true := by
    rw [Bool.and_eq_true, List.all_eq_true, List.all_eq_true]
    rintro ⟨hreads, hrows⟩
    rcases hlost with ⟨a, ha, hl⟩ | ⟨a, ha, hl⟩
    · exact Bool.false_ne_true (hl.symm.trans (hreads a ha))
    · exact Bool.false_ne_true (hl.symm.trans (hrows a ha))
  change execWriteBack u s = _
  simp only [execWriteBack, hd, hfree, Bool.false_eq_true, if_false, if_neg hno]
  rfl

end

section
variable (s : State) (u : UnitId) (f : Flight) (rows : List Nat)

theorem State.keepsUnits_takesOff : s.KeepsUnits ((s.takeBanks f.land.reads 1).takeBanks rows 2) :=
  (State.keepsUnits_takeBanks ..).trans (State.keepsUnits_takeBanks ..)

theorem State.takesOff_unit : (s.takesOff u f rows).unit u =
    { s.unit u with flights := (s.unit u).flights.filter (fun g => g.tick ≠ f.tick) } := by
  rw [State.takesOff, State.unit_modUnit_same, (s.keepsUnits_takesOff f rows).unit]

theorem State.takesOff_unit_fields : (s.takesOff u f rows).unit u = (s.takesOff u f rows).unit u ∧
    ((s.takesOff u f rows).unit u).flights = (s.unit u).flights.filter (fun g => g.tick ≠ f.tick) ∧
    ((s.takesOff u f rows).unit u).efault = (s.unit u).efault := by
  rw [State.takesOff_unit]
  exact ⟨rfl, rfl, rfl⟩

omit s u rows in
theorem EUnit.landed_context (x : EUnit) : (x.landed f).context f.ctx = (x.context f.ctx).land f.land := by
  have h : (x.landed f).context f.ctx = (x.modCtx f.ctx (·.land f.land)).context f.ctx := rfl
  rw [h, EUnit.context_modCtx, if_pos rfl]

theorem State.takesOff_landed_context : (((s.takesOff u f rows).unit u).landed f).context f.ctx =
    ((s.unit u).context f.ctx).land f.land := by
  rw [EUnit.landed_context, State.takesOff_unit]
  rfl

/-- The ring and memory with a landing's element. -/
theorem State.takesOff_landed_stores (c : CellId) (n : Nat) :
    ((s.takesOff u f rows).modUnit u (fun x => x.landed f)).ring? c n = s.ring? c n ∧
    ((s.takesOff u f rows).modUnit u (fun x => x.landed f)).mem = s.mem :=
  ⟨congrArg (fun m => Map.get? m (c, n)) (s.keepsUnits_takesOff f rows).rings, (s.keepsUnits_takesOff f rows).mem⟩

theorem State.takesOff_region (r : Nat) : ((s.takesOff u f rows).region r).astat = (s.region r).astat ∧
    ((s.takesOff u f rows).region r).amode = (s.region r).amode ∧ ((s.takesOff u f rows).region r).tag = (s.region r).tag :=
  (s.keepsUnits_takesOff f rows).region r

theorem State.keepsUnits_putsOff : s.KeepsUnits ((s.banksLost f.land.reads 1).banksLost rows 2) :=
  (State.keepsUnits_banksLost ..).trans (State.keepsUnits_banksLost ..)

theorem State.putsOff_spec : sameBytes s (s.putsOff u f rows) ∧ ((s.putsOff u f rows).unit u).ctx = (s.unit u).ctx ∧
    ((s.putsOff u f rows).unit u).vec = (s.unit u).vec ∧ ((s.putsOff u f rows).unit u).flights =
      (s.unit u).flights.map (fun g => if g.tick = f.tick then { g with due := g.due + 1 } else g) ∧
    (s.putsOff u f rows).rings = s.rings := by
  have hkeep := s.keepsUnits_putsOff f rows
  refine ⟨hkeep.sameBytes, ?_, ?_, ?_, hkeep.rings⟩
  all_goals
    rw [State.putsOff, State.unit_modUnit_same, hkeep.unit]
    rfl

end

/-- The effects of a landing that writes no ring row. -/
theorem writeBack_without_rows {s : State} {u : UnitId} {f : Flight}
    (hdue : (s.unit u).flights.find? (fun g => g.due ≤ s.cyc) = some f) (hrows : f.land.rows = []) :
    ((∀ a ∈ f.land.reads, s.bankServes a 1 = true) → ∃ t, exec (.writeBack u) s = .next t ∧ sameBytes s t ∧
      (t.unit u).flights = (s.unit u).flights.filter (fun g => g.tick ≠ f.tick) ∧
      (∀ r v p, f.land.reg = some (r, v, p) → ((t.unit u).context f.ctx).x.get r.toFin = v ∧
        ((t.unit u).context f.ctx).px.getLsbD r.toNat = p) ∧
      (∀ r, f.land.regPend = some r → ((t.unit u).context f.ctx).pendX.getLsbD r.toNat = false) ∧
      (∀ j b, f.land.pred = some (j, b) → ((t.unit u).context f.ctx).p.getLsbD j.toNat = b ∧
        ((t.unit u).context f.ctx).pendP.getLsbD j.toNat = false) ∧
      (f.land.reg = none → ((t.unit u).context f.ctx).x = ((s.unit u).context f.ctx).x) ∧
      (t.region u.region).astat = (s.region u.region).astat ||| f.land.flags ∧
      ((s.region u.region).amode.extractLsb' 0 6 &&& f.land.flags = 0 → (t.unit u).efault = (s.unit u).efault) ∧
      ((s.region u.region).amode.extractLsb' 0 6 &&& f.land.flags ≠ 0 → (s.unit u).efault.getLsbD 63 = false →
        (t.unit u).efault = efaultWord 0x0F f.slot f.ctx (s.region u.region).tag none 0 f.land.flags) ∧
      (∀ v, v ≠ u → t.unit v = s.unit v)) ∧
    (∀ a ∈ f.land.reads, s.bankServes a 1 = false → ∃ t, exec (.writeBack u) s = .next t ∧ sameBytes s t ∧
      (t.unit u).ctx = (s.unit u).ctx ∧ (t.unit u).vec = (s.unit u).vec ∧
      (t.unit u).flights = (s.unit u).flights.map (fun g => if g.tick = f.tick then { g with due := g.due + 1 } else g)) := by
  have hfree : (s.unit u).rowsBehind f = false := by simp [EUnit.rowsBehind, hrows]
  have haddrs : s.landAddrs u.cellId f.land = [] := by simp [State.landAddrs, hrows]
  refine ⟨fun hreads => ?_, fun a ha hl => ?_⟩
  · have hexec := exec_writeBack_of_served hdue hfree hreads (by simp [haddrs])
    rw [haddrs] at hexec
    obtain ⟨-, hflights, hefault⟩ := s.takesOff_unit_fields u f []
    obtain ⟨hastat, hamode, htag⟩ := s.takesOff_region u f [] u.region
    have hctx := ((s.takesOff u f []).land_context u f f.ctx).trans (s.takesOff_landed_context u f [])
    have hmem : ((s.takesOff u f []).land u f).mem = s.mem := by
      rw [(State.land_stores ..).1, hrows]
      exact (s.keepsUnits_takesOff f []).mem
    refine ⟨_, hexec, fun a => by rw [hmem]; exact ⟨rfl, rfl⟩, ?_, ?_, ?_, ?_, ?_, ?_, ?_, ?_, ?_⟩
    · rw [State.land_flights, hflights]
    · intro r v p hreg
      rw [hctx]
      exact Ctx.land_reg _ _ hreg
    · intro r hreg
      rw [hctx]
      exact Ctx.land_regPend _ _ hreg
    · intro j b hpred
      rw [hctx]
      exact Ctx.land_pred _ _ hpred
    · intro hreg
      rw [hctx]
      exact Ctx.land_x _ _ hreg
    · rw [State.land_astat, hastat]
    · intro hquiet
      rw [State.land_efault_of_quiet _ _ _ (by rwa [hamode]), hefault]
    · intro htrap hclean
      rw [State.land_efault_of_trap _ _ _ (by rwa [hamode]) (by rwa [hefault]), htag]
    · intro v hv
      rw [State.land_other _ _ _ hv, State.takesOff, State.unit_modUnit_other _ hv, (s.keepsUnits_takesOff f []).unit]
  · obtain ⟨hbytes, hctx, hvec, hflights, -⟩ := s.putsOff_spec u f (s.landAddrs u.cellId f.land)
    exact ⟨_, exec_writeBack_of_lost hdue hfree (.inl ⟨a, ha, hl⟩), hbytes, hctx, hvec, hflights⟩

theorem ringAddr_aligned {g : Ring} (h : g.base % 64 = 0) (c : CellId) (slot row : Nat) : ringAddr c g slot row % 8 = 0 := by
  unfold ringAddr spadBase
  omega

section
variable {s : State} {c : CellId} {w : RowWrite} {g : Ring} (hring : s.ring? c w.ring = some g)
include hring

/-- A landing of one row stores it, and a commit tags its slot FULL. -/
theorem State.landRows_single : (s.landRows c [w]).mem = s.mem.writeRow (ringAddr c g w.slot w.row) w.data w.poison ∧
    (w.commit = true → w.slot < g.slots.length → ∃ g', (s.landRows c [w]).ring? c w.ring = some g' ∧ (g'.slotOf w.slot).st = .full) := by
  have hwrite : s.writeRingRow c w.ring w.slot w.row w.data w.poison =
      { s with mem := s.mem.writeRow (ringAddr c g w.slot w.row) w.data w.poison } := by rw [State.writeRingRow, hring]
  have hring' : ({ s with mem := s.mem.writeRow (ringAddr c g w.slot w.row) w.data w.poison } : State).ring? c w.ring = some g := hring
  cases hcommit : w.commit with
  | false =>
    rw [State.landRows, hwrite, hcommit]
    exact ⟨rfl, nofun⟩
  | true =>
    have hfill : s.landRows c [w] = State.setRing { s with mem := s.mem.writeRow (ringAddr c g w.slot w.row) w.data w.poison } c w.ring
        (g.setSlot w.slot ⟨.full, refin g.decl (slotRows (s.mem.writeRow (ringAddr c g w.slot w.row) w.data w.poison) c g w.slot), .nobody⟩) := by
      rw [State.landRows, hwrite, hcommit]
      simp only [if_true, hring', State.fillSlot]
      rfl
    rw [hfill]
    refine ⟨rfl, fun _ hlt => ⟨_, State.ring_setRing_same .., ?_⟩⟩
    rw [Ring.slotOf_setSlot_same g hlt]

end

/-- The effects of a landing of one ring row. -/
theorem writeBack_row {s : State} {u : UnitId} {f : Flight} {w : RowWrite} {g : Ring}
    (hdue : (s.unit u).flights.find? (fun g => g.due ≤ s.cyc) = some f) (hrows : f.land.rows = [w]) (hreads : f.land.reads = [])
    (hring : s.ring? u.cellId w.ring = some g) (hw : s.mem.wf = true) (hbase : g.base % 64 = 0)
    (hfirst : ∀ e ∈ (s.unit u).flights, e.tick < f.tick → ∀ v ∈ e.land.rows, v.ring ≠ w.ring) :
    (s.bankServes (ringAddr u.cellId g w.slot w.row) 2 = true → ∃ t, exec (.writeBack u) s = .next t ∧
      t.mem.row (ringAddr u.cellId g w.slot w.row) = w.data ∧ t.mem.rowPoisoned (ringAddr u.cellId g w.slot w.row) = w.poison ∧
      sameBytesBut (ringAddr u.cellId g w.slot w.row) 64 s t ∧
      (w.commit = true → w.slot < g.slots.length → ∃ g', t.ring? u.cellId w.ring = some g' ∧ (g'.slotOf w.slot).st = .full)) ∧
    (s.bankServes (ringAddr u.cellId g w.slot w.row) 2 = false → ∃ t, exec (.writeBack u) s = .next t ∧ sameBytes s t ∧
      t.rings = s.rings ∧
      (t.unit u).flights = (s.unit u).flights.map (fun e => if e.tick = f.tick then { e with due := e.due + 1 } else e)) := by
  have hfree : (s.unit u).rowsBehind f = false := by
    simp only [EUnit.rowsBehind, hrows, List.any_eq_false, Bool.and_eq_true, decide_eq_true_eq, List.any_cons, List.any_nil, Bool.or_false,
      List.any_eq_true, not_and, not_exists]
    exact fun e he htick v hv heq => hfirst e he htick v hv heq.symm
  have haddrs : s.landAddrs u.cellId f.land = [ringAddr u.cellId g w.slot w.row] := by simp [State.landAddrs, hrows, hring]
  refine ⟨fun hserves => ?_, fun hlost => ?_⟩
  · have hexec := exec_writeBack_of_served hdue hfree (by simp [hreads]) (by simpa [haddrs] using hserves)
    rw [haddrs] at hexec
    obtain ⟨hmem, hrings⟩ := (s.takesOff u f [ringAddr u.cellId g w.slot w.row]).land_stores u f
    obtain ⟨hring', hbefore⟩ := s.takesOff_landed_stores u f [ringAddr u.cellId g w.slot w.row] u.cellId w.ring
    obtain ⟨hstore, hcommit⟩ := State.landRows_single (hring'.trans hring)
    have hmem' : ((s.takesOff u f [ringAddr u.cellId g w.slot w.row]).land u f).mem =
        s.mem.writeRow (ringAddr u.cellId g w.slot w.row) w.data w.poison := by
      rw [hmem, hrows, hstore, hbefore]
    refine ⟨_, hexec, ?_, ?_, sameBytesBut_writeRow hw (ringAddr_aligned hbase ..) hmem', fun hc hlt => ?_⟩
    · rw [hmem', Memory.row_writeRow hw]
    · rw [hmem', Memory.rowPoisoned_writeRow hw]
    · rw [State.ring?, hrings, hrows]
      exact hcommit hc hlt
  · obtain ⟨hbytes, -, -, hflights, hrings⟩ := s.putsOff_spec u f (s.landAddrs u.cellId f.land)
    exact ⟨_, exec_writeBack_of_lost hdue hfree (.inr ⟨_, by simp [haddrs], hlost⟩), hbytes, hrings, hflights⟩

/-- Settles O21: a due word that its banks serve lands; a landing is its registers and rows, then tokens, flags and the trap. -/
theorem writeBackLands : Obligations.WriteBackLands := by
  unfold Obligations.WriteBackLands
  exact ⟨fun u s f hdue hrows => writeBack_without_rows hdue hrows,
    fun u s f w g hdue hrows hreads hring hw hbase hfirst => writeBack_row hdue hrows hreads hring hw hbase hfirst⟩


/-! PROOFS. Tokens move (R109, R123, R234, R235, R318, R382). -/

/-! ## Arrival -/

section
variable {s : State} {u : UnitId} {k : Nat} {x : Tok}

/-- Whether the token comes from outside decides only whether the region's cycle is quiet. -/
theorem State.arrive_stir_onlyCounts (s : State) (u : UnitId) (k : Nat) :
    s.OnlyCounts (if (s.chan (.inp u k)).src.any (fun p => p.1.region = u.region) then s else s.stir u.region) := by
  split
  · exact .refl s
  · exact s.stir_onlyCounts _

theorem State.arrive_chan_of_known (h : (s.region u.region).knowsTag x.tag = true) : (s.arrive u k x).chan (.inp u k) =
    { s.chan (.inp u k) with inq := (s.chan (.inp u k)).inq ++ [x] } := by
  rw [State.arrive]
  dsimp only
  rw [if_pos h, State.chan_modChan, if_pos rfl, (s.arrive_stir_onlyCounts u k).chan]

theorem State.arrive_chan_of_unknown (h : (s.region u.region).knowsTag x.tag = false) : (s.arrive u k x).chan (.inp u k) =
    { s.chan (.inp u k) with owed := (s.chan (.inp u k)).owed + 1 } := by
  have hchan : ((if (s.chan (.inp u k)).src.any (fun p => p.1.region = u.region) then s else s.stir u.region).modChan (.inp u k)
      (fun c => { c with owed := c.owed + 1 })).chan (.inp u k) = { s.chan (.inp u k) with owed := (s.chan (.inp u k)).owed + 1 } := by
    rw [State.chan_modChan, if_pos rfl, (s.arrive_stir_onlyCounts u k).chan]
  rw [State.arrive]
  dsimp only
  rw [if_neg (by simp [h])]
  split
  · split <;> exact hchan
  · exact hchan

theorem exec_tokenArrival_of_open {n : Nat} {ps : List (Nat × Option Tok)} (hp : (s.chan (.inp u k)).places = (n, some x) :: ps)
    (hh : (s.chan (.inp u k)).hops = []) (hopen : s.inputOpen u k = true) :
    exec (.tokenArrival u k) s = .next ((s.modChan (.inp u k) Chan.unplace).arrive u k x) := by
  change execTokenArrival u k s = _
  simp only [execTokenArrival, hp, hh, hopen, if_true]

theorem State.chan_unplace (s : State) (u : UnitId) (k : Nat) : (s.modChan (.inp u k) Chan.unplace).chan (.inp u k) =
    { s.chan (.inp u k) with places := (s.chan (.inp u k)).places.tail } := by
  rw [State.chan_modChan, if_pos rfl, Chan.unplace]

end

theorem sameBytes_of_calm {s t : State} (h : Calm s t) : sameBytes s t := fun a => by rw [h.2]; exact ⟨rfl, rfl⟩

/-! ## Firings of several tokens -/

section
variable {s : State} {u : UnitId} {m : Multi} {base st : Word} {k n : Nat}

/-- The k-th generated address of a firing, as a token. -/
def genTok (s : State) (u : UnitId) (base st : Word) (k n : Nat) : Tok :=
  { data := base + BitVec.ofNat 64 k * st, tag := (s.region u.region).tag, last := decide (k + 1 = n) }

/-- A generated address that is not the last leaves the firing with the next one to place, where no pass ends. -/
theorem exec_multiTokenPlace_gen (hm : (s.unit u).multi = some m) (hdue : m.due ≤ s.cyc) (hmark : m.mark = none)
    (hres : m.reserved = true) (hsrc : m.src = .gen base st k n) (hk : k + 1 < n) (hrot : (s.region u.region).rotates u 0 = false) :
    exec (.multiTokenPlace u) s = .next ((s.place u 0 m.tick (genTok s u base st k n)).multiAfter u m (.gen base st (k + 1) n) none) := by
  have hpass : s.passEnds u 0 = false := by simp [State.passEnds, hrot]
  have hnext : m.src.next? (s.region u.region).tag = some ((0, genTok s u base st k n), .gen base st (k + 1) n) := by
    rw [hsrc, MultiSrc.next?, if_pos (by omega)]
    rfl
  change execMultiTokenPlace u s = _
  simp only [execMultiTokenPlace, hm, if_neg (Nat.not_lt.2 hdue), hmark, hnext, hres, if_true, State.multiPlace, hpass, Bool.and_false,
    Bool.false_eq_true, if_false]

theorem State.multiAfter_of_more {src : MultiSrc} (hmore : src.done = false) (mark : Option Nat) : s.multiAfter u m src mark =
    s.modUnit u (fun x => { x with multi := some { m with due := s.cyc + 1, src := src, reserved := false, mark := mark } }) := by
  simp only [State.multiAfter, hmore, Bool.false_eq_true, if_false]

theorem exec_multiTokenPlace_owed {due tick o : Nat} {ms : List (Nat × Nat × Nat)} (hm : (s.unit u).multi = none)
    (hmarks : (s.unit u).marks = (due, tick, o) :: ms) (hdue : due ≤ s.cyc) (hroom : s.outRoom u o = true) :
    exec (.multiTokenPlace u) s = .next ((s.placeMark u o tick).modUnit u (fun x => { x with marks := ms })) := by
  change execMultiTokenPlace u s = _
  simp only [execMultiTokenPlace, hm, State.placeOwed, hmarks, hroom, Bool.not_true, Bool.or_false, decide_eq_true_eq,
    if_neg (Nat.not_lt.2 hdue)]

end

/-! ## Vector streams -/

theorem elem_words (ws : List Word) (j : Nat) :
    elem 64 (ws.foldr (fun w n => w.toNat + 2 ^ 64 * n) 0) j = (ws.getD j 0).toNat := by
  induction ws generalizing j with
  | nil => simp [elem]
  | cons w ws ih =>
    have hw := w.isLt
    cases j with
    | zero =>
      simp only [elem, List.foldr_cons, List.getD_cons_zero, Nat.mul_zero, Nat.pow_zero, Nat.div_one, Nat.add_mul_mod_self_left]
      exact Nat.mod_eq_of_lt hw
    | succ j =>
      rw [List.getD_cons_succ, ← ih j, List.foldr_cons]
      simp only [elem]
      rw [Nat.mul_add, Nat.mul_one, Nat.add_comm (64 * j), Nat.pow_add, ← Nat.div_div_eq_div_mul,
        Nat.add_mul_div_left _ _ (Nat.two_pow_pos 64), Nat.div_eq_of_lt hw, Nat.zero_add]

theorem words_lt (ws : List Word) : ws.foldr (fun w n => w.toNat + 2 ^ 64 * n) 0 < (2 ^ 64) ^ ws.length := by
  induction ws with
  | nil => simp
  | cons w ws ih =>
    have hw := w.isLt
    rw [List.foldr_cons, List.length_cons, Nat.pow_succ]
    calc w.toNat + 2 ^ 64 * ws.foldr (fun w n => w.toNat + 2 ^ 64 * n) 0
        < 2 ^ 64 * (ws.foldr (fun w n => w.toNat + 2 ^ 64 * n) 0 + 1) := by rw [Nat.mul_add]; omega
      _ ≤ 2 ^ 64 * (2 ^ 64) ^ ws.length := Nat.mul_le_mul_left _ ih
      _ = (2 ^ 64) ^ ws.length * 2 ^ 64 := Nat.mul_comm ..

theorem elem_wordsRow {ws : List Word} (h : ws.length = 8) (j : Nat) : elem 64 (wordsRow ws).toNat j = (ws.getD j 0).toNat := by
  have hlt := words_lt ws
  rw [h, ← Nat.pow_mul] at hlt
  rw [wordsRow, BitVec.toNat_ofNat, Nat.mod_eq_of_lt hlt, elem_words]

section
variable {s : State} {u : UnitId} {k : Nat} {l : VLoad} {x : Tok}

/-- The state after a VLDS takes a token that is not its last. -/
def State.takesMore (s : State) (u : UnitId) (k : Nat) (l : VLoad) (x : Tok) : State :=
  (s.dequeue u k).modUnit u (fun y => { y with vec := { y.vec with
    loads := y.vec.loads.map (fun m => if m.inp = k then { m with got := l.got ++ [x.data], poison := l.poison || x.poison } else m) } })

/-- The state after a VLDS takes its eighth token. -/
def State.takesLast (s : State) (u : UnitId) (k : Nat) (l : VLoad) (x : Tok) : State :=
  State.modUnit { s.dequeue u k with ticket := s.ticket + 1 } u (fun y => { y with
    vec := { y.vec with loads := y.vec.loads.filter (fun m => m.inp ≠ k) },
    flights := y.flights ++ [⟨s.ticket, s.cyc + 1, l.ctx, l.slot, vldsLanding y.vec l (l.got ++ [x.data]) (l.poison || x.poison)⟩] })

theorem exec_vldsTokenTake_of_data (hl : (s.unit u).vec.loads.find? (fun m => m.inp = k) = some l) (hx : s.head? u k = some x)
    (hrun : (s.region u.region).frozen = none) (htag : x.tag = (s.region u.region).tag) (hkind : x.kind = 0 ∨ x.kind = 1) :
    exec (.vldsTokenTake u k) s = .next (if l.got.length = 7 then s.takesLast u k l x else s.takesMore u k l x) := by
  have hdata : (decide (x.kind = 2) || decide (x.kind = 3)) = false := by
    rcases hkind with h | h <;> rw [h] <;> rfl
  have hlen : (l.got ++ [x.data]).length = 8 ↔ l.got.length = 7 := by simp
  change execVldsTokenTake u k s = _
  simp only [execVldsTokenTake, hl, hx, hrun, htag, Option.isSome_none, ne_eq, not_true_eq_false, decide_false, Bool.or_self,
    Bool.false_eq_true, if_false, hdata, hlen]
  by_cases h7 : l.got.length = 7
  · rw [if_pos h7, if_pos h7]
    rfl
  · rw [if_neg h7, if_neg h7]
    rfl

theorem find?_map_found {ms : List VLoad} (h : ms.find? (fun m => m.inp = k) = some l) (got : List Word) (p : Bool) :
    (ms.map (fun m => if m.inp = k then { m with got := got, poison := p } else m)).find? (fun m => m.inp = k) =
      some { l with got := got, poison := p } := by
  induction ms with
  | nil => cases h
  | cons m ms ih =>
    by_cases hm : m.inp = k
    · have hml : m = l := by simpa [hm] using h
      rw [List.map_cons, if_pos hm, List.find?_cons_of_pos (by simpa using hm), hml]
    · have hms : ms.find? (fun m => m.inp = k) = some l := by simpa [hm] using h
      rw [List.map_cons, if_neg hm, List.find?_cons_of_neg (by simpa using hm)]
      exact ih hms

/-- The state after a VSTS places a word. -/
def State.sendsWord (s : State) (u : UnitId) (o : Nat) (l : VSend) (w : Word) (ws : List Word) : State :=
  ((((State.reserve { s with ticket := s.ticket + 1 } u o s.ticket).place u o s.ticket
    { data := w, poison := l.poison, tag := (s.region u.region).tag, origin := .firing u l.tick }).oweMark u s.ticket
      (if s.passEnds u o then some o else none))).modUnit u (fun x => { x with vec := { x.vec with
        sends := (s.unit u).vec.sends.filter (fun m => m.out ≠ o) ++ (if ws.isEmpty then [] else [{ l with left := ws, due := s.cyc + 1 }]) } })

theorem exec_vstsTokenPlace_of_room {o : Nat} {l : VSend} {w : Word} {ws : List Word}
    (hl : (s.unit u).vec.sends.find? (fun m => m.out = o) = some l) (hleft : l.left = w :: ws) (hdue : l.due ≤ s.cyc)
    (hrun : (s.region u.region).frozen = none) (hmarks : ∀ m ∈ (s.unit u).marks, m.2.2 ≠ o) (hroom : s.outRoom u o = true) :
    exec (.vstsTokenPlace u o) s = .next (s.sendsWord u o l w ws) := by
  have hnone : (s.unit u).marks.any (fun m => decide (m.2.2 = o)) = false := by simpa using hmarks
  change execVstsTokenPlace u o s = _
  simp only [execVstsTokenPlace, hl, hleft, hrun, hnone, hroom, Option.isSome_none, Bool.or_false, Bool.not_true, decide_eq_true_eq,
    if_neg (Nat.not_lt.2 hdue)]
  rfl

theorem State.sendsWord_bytes (s : State) (u : UnitId) (o : Nat) (l : VSend) (w : Word) (ws : List Word) :
    sameBytes s (s.sendsWord u o l w ws) := by
  have hplace := (State.keepsUnits_reserve { s with ticket := s.ticket + 1 } u o s.ticket).trans (State.keepsUnits_place _ u o s.ticket
    { data := w, poison := l.poison, tag := (s.region u.region).tag, origin := .firing u l.tick })
  obtain ⟨-, -, -, -, -, -, hmem, -⟩ := State.oweMark_spec ((State.reserve { s with ticket := s.ticket + 1 } u o s.ticket).place u o s.ticket
    { data := w, poison := l.poison, tag := (s.region u.region).tag, origin := .firing u l.tick }) u s.ticket
      (if s.passEnds u o then some o else none)
  have hall : (s.sendsWord u o l w ws).mem = s.mem := hmem.trans hplace.mem
  exact fun a => by rw [hall]; exact ⟨rfl, rfl⟩

end

/-- Settles O22: each step's next state is known under its conditions, and its channels and elements are read off it. -/
theorem tokensMove : Obligations.TokensMove := by
  unfold Obligations.TokensMove
  refine ⟨?_, ?_, ?_, ?_, ?_, ?_⟩
  · intro u k s n x ps hp hh hopen hknown
    refine ⟨_, exec_tokenArrival_of_open hp hh hopen, sameBytes_of_calm ((State.modChan_calm ..).trans (State.arrive_calm ..)), ?_, ?_⟩
    · rw [State.arrive_chan_of_known (s := s.modChan ..) hknown, State.chan_unplace]
    · rw [State.arrive_chan_of_known (s := s.modChan ..) hknown, State.chan_unplace, hp]
      rfl
  · intro u k s n x ps hp hh hopen hunknown
    refine ⟨_, exec_tokenArrival_of_open hp hh hopen, ?_, ?_, ?_⟩
    all_goals rw [State.arrive_chan_of_unknown (s := s.modChan ..) hunknown, State.chan_unplace]
    rw [hp]
    rfl
  · intro u s m base st k n hm hdue hmark hres hsrc hk hrot
    have hmore : (MultiSrc.gen base st (k + 1) n).done = false := by simp [MultiSrc.done, hk]
    have hplace := s.keepsUnits_place u 0 m.tick (genTok s u base st k n)
    refine ⟨_, exec_multiTokenPlace_gen hm hdue hmark hres hsrc hk hrot, ?_, ?_⟩
    · rw [State.multiAfter_of_more hmore]
      exact hplace.sameBytes
    · rw [State.multiAfter_of_more hmore, State.unit_modUnit_same, hplace.cyc, hmark]
  · intro u k s l x hl hx hrun htag hkind
    have hexec := exec_vldsTokenTake_of_data hl hx hrun htag hkind
    by_cases h7 : l.got.length = 7
    · rw [if_pos h7] at hexec
      refine ⟨_, hexec, ?_, fun _ => ⟨s.ticket, wordsRow (l.got ++ [x.data]), ?_, fun j _ => elem_wordsRow (by simp [h7]) j⟩,
        fun hlt => by omega⟩
      · exact (s.dequeue_inq u k k).trans (if_pos rfl)
      · rw [State.takesLast, State.unit_modUnit_same]
        rfl
    · rw [if_neg h7] at hexec
      refine ⟨_, hexec, ?_, fun h => absurd h h7, fun _ => ?_⟩
      · exact (s.dequeue_inq u k k).trans (if_pos rfl)
      · rw [State.takesMore, State.unit_modUnit_same]
        exact find?_map_found hl _ _
  · intro u o s l w ws hl hleft hdue hrun hmarks hroom
    refine ⟨_, exec_vstsTokenPlace_of_room hl hleft hdue hrun hmarks hroom, s.sendsWord_bytes u o l w ws, ?_⟩
    rw [State.sendsWord, State.unit_modUnit_same]
    cases ws <;> rfl
  · intro u s due tick o ms hm hmarks hdue hroom
    exact exec_multiTokenPlace_owed hm hmarks hdue hroom


/-! PROOFS. How accesses complete: a stream command of 128-byte elements ends a page walk without keeping its translation. -/

/-- A shape of one element at address 0; its size field, which R335 does not define for 7, gives 128 bytes. -/
def wideShape : Shape := ⟨0, [1], [0], 7⟩

/-- A command of that shape at stream port 0, its page being walked. -/
def wideCmd : Cmd := { tick := 0, h := 0, port := 0, rec_ := wideShape, peer := none, needStores := [], needCmds := [], walked := true,
                       owner := some 1 }

/-- A paged entry whose descriptor, at address 0, maps its first 2 MiB to physical address 0. -/
def pagedEnt : RangeEnt := ⟨0, 0x200000, 0, 0x85⟩

def walkingWide : State :=
  { regions := [(0, { launch := some 1, cmds := [wideCmd], ranges := [((4, 0), pagedEnt)] })], mem := ⟨[(0, 1)], []⟩ }

/-- Does an outcome keep a translation of address 0 at stream port 0 of region 0? -/
def keepsZero : Host.Outcome State Fault Refusal → Bool
  | .next w => ((w.region 0).keptFor 4 0).isSome
  | _ => false

theorem walkingWide_keeps_nothing : keepsZero (exec (.pageWalkComplete 0 4) walkingWide) = false := by decide +kernel

theorem walkingWide_sole : walkingWide.Sole 0 0 wideCmd := ⟨by decide +kernel, by decide +kernel, by decide +kernel⟩

/-- Refutes O39: the next event of a command of 128-byte elements moves 64 / 128 = 0 elements, so that the end of its page walk looks
at no page and keeps no translation. -/
theorem not_accessesComplete : ¬ Obligations.AccessesComplete := by
  unfold Obligations.AccessesComplete Says.PortTranslationsEnd
  rintro ⟨-, ⟨-, -, -, hstream⟩, -⟩
  obtain ⟨w, hexec, -, hkept, -⟩ := hstream 0 0 walkingWide wideCmd 0 pagedEnt (.plain 0) walkingWide_sole rfl rfl
    (by decide +kernel) (by decide +kernel) (by decide +kernel)
  have hkeeps : keepsZero (exec (.pageWalkComplete 0 4) walkingWide) = true := by
    rw [hexec]
    exact Option.isSome_iff_exists.2 ⟨_, hkept⟩
  exact Bool.false_ne_true (walkingWide_keeps_nothing.symm.trans hkeeps)


/-! PROOFS. Runs of bytes that the hub writes, words that an error strikes, and stores that are zeroed. -/

/-! ## Runs of bytes -/

section
variable {m : Memory} (hw : m.wf = true)

@[simp] theorem Memory.poisoned_writeBytes (m : Memory) (a : Nat) (bs : List Byte) (c : Nat) :
    (m.writeBytes a bs).poisoned c = m.poisoned c := by
  induction bs generalizing m a with
  | nil => rfl
  | cons b bs ih => rw [Memory.writeBytes, ih, Memory.poisoned_setByte]

include hw

theorem Memory.byte_writeBytes (a : Nat) (bs : List Byte) (c : Nat) : (m.writeBytes a bs).byte c =
    if a ≤ c ∧ c < a + bs.length then bs.getD (c - a) 0 else m.byte c := by
  induction bs generalizing m a with
  | nil => rw [if_neg (by simp only [List.length_nil]; omega)]; rfl
  | cons b bs ih =>
    rw [Memory.writeBytes, ih (Memory.wf_setByte hw _ _), Memory.byte_setByte hw, List.length_cons]
    by_cases h1 : c = a
    · subst h1; rw [if_neg (by omega), if_pos rfl, if_pos (by omega), Nat.sub_self, List.getD_cons_zero]
    · by_cases h2 : a + 1 ≤ c ∧ c < a + 1 + bs.length
      · have h4 : c - a = (c - (a + 1)) + 1 := by omega
        rw [if_pos h2, if_pos (by omega), h4, List.getD_cons_succ]
      · rw [if_neg h2, if_neg h1, if_neg (by omega)]

theorem Memory.byte_writeBytes_at (a : Nat) {bs : List Byte} {k : Nat} {b : Byte} (h : bs[k]? = some b) :
    (m.writeBytes a bs).byte (a + k) = b := by
  have hk : k < bs.length := (List.getElem?_eq_some_iff.mp h).1
  rw [Memory.byte_writeBytes hw, if_pos (by omega), Nat.add_sub_cancel_left, List.getD_eq_getElem?_getD, h, Option.getD_some]

theorem Memory.readBytes_writeBytes (a : Nat) (bs : List Byte) : (m.writeBytes a bs).readBytes a bs.length = bs := by
  induction bs generalizing m a with
  | nil => rfl
  | cons b bs ih =>
    have hfirst : (m.writeBytes a (b :: bs)).byte a = b := Memory.byte_writeBytes_at hw a (bs := b :: bs) (k := 0) rfl
    rw [List.length_cons, Memory.readBytes, hfirst, Memory.writeBytes, ih (Memory.wf_setByte hw _ _)]

end

theorem Memory.readBytes_congr {m m' : Memory} {a n : Nat} (h : ∀ c, a ≤ c → c < a + n → m.byte c = m'.byte c) :
    m.readBytes a n = m'.readBytes a n := by
  induction n generalizing a with
  | zero => rfl
  | succ n ih =>
    rw [Memory.readBytes, Memory.readBytes, h a (by omega) (by omega), ih fun c h1 h2 => h c (by omega) (by omega)]

/-! ## What the host and the hub store (R137, R432) -/

/-- Words from an index on that lose their poison. -/
def Memory.cleanWords (m : Memory) (w n : Nat) : Memory := (List.range n).foldl (fun m k => m.setPoison (8 * (w + k)) false) m

@[simp] theorem Memory.byte_cleanWords (m : Memory) (w n c : Nat) : (m.cleanWords w n).byte c = m.byte c := by
  induction n with
  | zero => rfl
  | succ n ih => rw [Memory.cleanWords, List.range_succ, List.foldl_concat, Memory.byte_setPoison]; exact ih

theorem Memory.wf_cleanWords {m : Memory} (hw : m.wf = true) (w n : Nat) : (m.cleanWords w n).wf = true :=
  Memory.wf_foldl (fun _ _ h => Memory.wf_setPoison h _ _) _ hw

theorem Memory.poisoned_cleanWords {m : Memory} (hw : m.wf = true) (w n c : Nat) : (m.cleanWords w n).poisoned c =
    if w ≤ c / 8 ∧ c / 8 < w + n then false else m.poisoned c := by
  induction n with
  | zero => rw [if_neg (by omega)]; rfl
  | succ n ih =>
    have hstep : m.cleanWords w (n + 1) = (m.cleanWords w n).setPoison (8 * (w + n)) false := by
      rw [Memory.cleanWords, List.range_succ, List.foldl_concat]; rfl
    rw [hstep, Memory.poisoned_setPoison (Memory.wf_cleanWords hw _ _), ih]
    grind

theorem Memory.hostStore_eq (m : Memory) (a : Nat) (bs : List Byte) :
    m.hostStore a bs = (m.writeBytes a bs).cleanWords ((a + 7) / 8) ((a + bs.length) / 8 - (a + 7) / 8) := rfl

@[simp] theorem Memory.byte_hostStore (m : Memory) (a : Nat) (bs : List Byte) (c : Nat) :
    (m.hostStore a bs).byte c = (m.writeBytes a bs).byte c := by
  rw [Memory.hostStore_eq, Memory.byte_cleanWords]

theorem Memory.poisoned_hostStore {m : Memory} (hw : m.wf = true) (a : Nat) (bs : List Byte) (w : Nat) :
    (m.hostStore a bs).poisoned (8 * w) =
      (m.poisoned (8 * w) && !(decide (a ≤ 8 * w) && decide (8 * w + 8 ≤ a + bs.length))) := by
  rw [Memory.hostStore_eq, Memory.poisoned_cleanWords (Memory.wf_writeBytes hw _ _), Memory.poisoned_writeBytes,
    Nat.mul_div_cancel_left w (by omega)]
  by_cases h : a ≤ 8 * w ∧ 8 * w + 8 ≤ a + bs.length
  · rw [if_pos (by omega), decide_eq_true h.1, decide_eq_true h.2]; simp
  · rw [if_neg (by omega), ← Bool.decide_and, decide_eq_false h]; simp

/-- The memory that a store of the hub leaves, its payload spoiled or not. -/
def Memory.hubStored (m : Memory) (p : Bool) (a : Nat) (bs : List Byte) : Memory :=
  if p then (m.hostStore a bs).poisonWords (a / 8 * 8) true ((a % 8 + bs.length + 7) / 8) else m.hostStore a bs

@[simp] theorem Memory.byte_hubStored (m : Memory) (p : Bool) (a : Nat) (bs : List Byte) (c : Nat) :
    (m.hubStored p a bs).byte c = (m.writeBytes a bs).byte c := by
  cases p <;> simp [Memory.hubStored]

theorem Memory.poisoned_hubStored {m : Memory} (hw : m.wf = true) (p : Bool) (a : Nat) (bs : List Byte) (w : Nat) :
    (m.hubStored p a bs).poisoned (8 * w) =
      ((m.poisoned (8 * w) && !(decide (a ≤ 8 * w) && decide (8 * w + 8 ≤ a + bs.length))) ||
        (p && decide (a < 8 * w + 8) && decide (8 * w < a + bs.length))) := by
  have hhost := Memory.poisoned_hostStore hw a bs w
  cases p
  · simp [Memory.hubStored, hhost]
  · rw [Memory.hubStored, if_pos rfl, Memory.poisoned_poisonWords (Memory.wf_hostStore hw _ _), hhost, Bool.true_and]
    by_cases h : a < 8 * w + 8 ∧ 8 * w < a + bs.length
    · rw [if_pos (by omega), decide_eq_true h.1, decide_eq_true h.2]; simp
    · have hno : (decide (a < 8 * w + 8) && decide (8 * w < a + bs.length)) = false := by rw [← Bool.decide_and, decide_eq_false h]
      rw [if_neg (by omega), hno, Bool.or_false]

/-- A payload that crosses a link takes one free value. -/
def State.freeAfter (s : State) (die a : Nat) : Nat := if (remoteRoute die a).isEmpty then s.freeCtr else s.freeCtr + 1

theorem State.carried_eq (s : State) (die a : Nat) (p : Bool) : s.carried die a p =
    (p || (!(remoteRoute die a).isEmpty && Config.payloadBad s.freeCtr), { s with freeCtr := s.freeAfter die a }) := by
  rw [State.carried, State.freeAfter]
  cases h : (remoteRoute die a).isEmpty
  · rfl
  · cases p <;> rfl

/-- A store of the hub changes memory, and counts free values. -/
theorem State.hubStore_eq (s : State) (a : Nat) (bs : List Byte) : s.hubStore a bs =
    { s with mem := s.mem.hubStored (s.carried 8 a false).1 a bs, freeCtr := s.freeAfter 8 a } := by
  rw [State.hubStore, State.carried_eq]; rfl

/-! ## Words that an error strikes (R300) -/

theorem Memory.byte_strike {m : Memory} (hw : m.wf = true) (a n c : Nat) : (m.strike a n).byte c =
    if a ≤ c ∧ c < a + 8 * n then 0 else m.byte c := by
  induction n generalizing m a with
  | zero => rw [if_neg (by omega)]; rfl
  | succ n ih =>
    rw [Memory.strike, ih (Memory.wf_setPoison (Memory.wf_writeNat hw _ _ _) _ _), Memory.byte_setPoison, Memory.byte_writeNat hw,
      Nat.zero_div]
    grind

theorem Memory.poisoned_strike {m : Memory} (hw : m.wf = true) (a n c : Nat) : (m.strike a n).poisoned c =
    if a / 8 ≤ c / 8 ∧ c / 8 < a / 8 + n then true else m.poisoned c := by
  induction n generalizing m a with
  | zero => rw [if_neg (by omega)]; rfl
  | succ n ih =>
    rw [Memory.strike, ih (Memory.wf_setPoison (Memory.wf_writeNat hw _ _ _) _ _), Memory.poisoned_setPoison (Memory.wf_writeNat hw _ _ _),
      Memory.poisoned_writeNat]
    grind

/-! ## Stores that are zeroed (R441, R443, R446) -/

theorem cellAt_filter (p : Nat → Bool) (cs : List Host.Cell) (a : Nat) :
    cellAt (cs.filter (fun c => p c.1)) a = if p a = true then cellAt cs a else blank := by
  induction cs with
  | nil => simp [cellAt]
  | cons c cs ih =>
    obtain ⟨k, b⟩ := c
    by_cases hk : k = a
    · subst hk; cases hp : p k <;> simp [hp, cellAt, ih]
    · cases hp : p k <;> simp [hp, cellAt, ih, hk]

theorem contains_filter_eq (q : Nat → Bool) (l : List Nat) (x : Nat) : (l.filter q).contains x = (q x && l.contains x) := by
  rw [Bool.eq_iff_iff]
  simp [and_comm]

/-- Memory of the addresses that a property takes. -/
theorem Memory.byte_only (m : Memory) (p q : Nat → Bool) (a : Nat) :
    (Memory.byte ⟨m.cells.filter (fun c => p c.1), m.poison.filter q⟩ a) = if p a = true then m.byte a else 0 :=
  cellAt_filter p m.cells a

theorem isDram_word (a : Nat) : isDram (8 * (a / 8)) = isDram a := by
  have h40 : 8 * (a / 8) / 2 ^ 40 = a / 2 ^ 40 := by omega
  have hcap : ∀ d, dramCap d % 8 = 0 := fun d => by unfold dramCap; split <;> decide
  have := hcap (a / 2 ^ 40)
  rw [Bool.eq_iff_iff]
  simp only [isDram, h40, Bool.and_eq_true, decide_eq_true_eq]
  omega

theorem Memory.byte_zeroDram (m : Memory) (a : Nat) : m.zeroDram.byte a = if isDram a then 0 else m.byte a := by
  rw [Memory.zeroDram, Memory.byte_only m (fun a => !isDram a)]
  cases isDram a <;> rfl

theorem Memory.poisoned_zeroDram (m : Memory) (a : Nat) : m.zeroDram.poisoned a = (!isDram a && m.poisoned a) := by
  rw [Memory.poisoned, Memory.zeroDram, contains_filter_eq (fun w => !isDram (8 * w)), isDram_word]; rfl

theorem Memory.byte_onlyDram (m : Memory) (a : Nat) : m.onlyDram.byte a = if isDram a then m.byte a else 0 :=
  Memory.byte_only m isDram _ a

theorem Memory.poisoned_onlyDram (m : Memory) (a : Nat) : m.onlyDram.poisoned a = (isDram a && m.poisoned a) := by
  rw [Memory.poisoned, Memory.onlyDram, contains_filter_eq (fun w => isDram (8 * w)), isDram_word]; rfl

theorem State.byte_zeroStores (s : State) (r a : Nat) : (s.zeroStores r).mem.byte a = if inStores r a then 0 else s.mem.byte a := by
  have hmem : (s.zeroStores r).mem = ⟨s.mem.cells.filter (fun c => !inStores r c.1), s.mem.poison.filter (fun w => !inStores r (8 * w))⟩ := rfl
  rw [hmem, Memory.byte_only s.mem (fun a => !inStores r a)]
  cases inStores r a <;> rfl


/-! PROOFS. Bring-up, power states, the debug level, the lifecycle, attestation (O50). -/

/-! ## Bring-up (R431, R441, R449, R450) -/

theorem State.reset_region (r : Nat) (regions : Map Nat Region) : ∀ (f : Region → Region), f {} = {} →
    Map.get (regions.map (fun e => (e.1, f e.2))) r {} = f (Map.get regions r {}) := by
  intro f hf
  induction regions with
  | nil => exact hf.symm
  | cons e m ih =>
    obtain ⟨k, R⟩ := e
    rw [List.map_cons, Map.get, Map.get]
    by_cases h : k = r
    · rw [if_pos h, if_pos h]
    · rw [if_neg h, if_neg h, ih]

/-- What loss of power leaves of a region. -/
def Region.fused (R : Region) : Region := { present := R.present, half := R.half }

theorem State.region_fused (s : State) (r : Nat) : s.fused.region r = (s.region r).fused :=
  State.reset_region r s.regions Region.fused rfl

theorem functionLevelReset_acts (s : State) (hon : s.dev.off = false) :
    ∃ t, exec .functionLevelReset s = .next t ∧ t.dev.phase = 0 ∧ t.hub.launches = [] ∧ t.hub.queues = [] ∧ t.hub.completions = [] ∧
      t.enc.keys = [] ∧ t.enc.spdm = [] ∧ t.enc.life = s.enc.life ∧ t.enc.ownerDigest = s.enc.ownerDigest ∧
      t.enc.rollback = s.enc.rollback ∧ t.enc.spent = s.enc.spent ∧ ∀ r, (t.region r).present = (s.region r).present ∧ (t.region r).launch = none := by
  have hexec : exec .functionLevelReset s =
      .next (State.modEnc { s.fused with now := s.now, dies := s.dies } (fun e => { e with spent := s.enc.spent })) := by
    show execFunctionLevelReset s = _
    rw [execFunctionLevelReset, if_neg (by simp [hon])]
  refine ⟨_, hexec, rfl, rfl, rfl, rfl, rfl, rfl, rfl, rfl, rfl, rfl, fun r => ?_⟩
  have hregion := State.region_fused s r
  have hpresent : (s.fused.region r).present = (s.region r).present := by rw [hregion]; rfl
  have hlaunch : (s.fused.region r).launch = none := by rw [hregion]; rfl
  exact ⟨hpresent, hlaunch⟩

theorem powerRemoval_acts (s : State) : ∃ t, exec .powerRemoval s = .next t ∧ t.dev.off = true ∧ t.dev.phase = 0 ∧ t.enc.power = .p3 ∧
    t.enc.m = Vector.replicate 8 0 ∧ t.enc.keys = [] ∧ t.enc.life = s.enc.life ∧ t.enc.ownerDigest = s.enc.ownerDigest ∧
    t.enc.rollback = s.enc.rollback ∧ t.hub.launches = [] :=
  ⟨_, rfl, rfl, rfl, rfl, rfl, rfl, rfl, rfl, rfl, rfl⟩

/-- The extended measurement, and the others. -/
theorem State.extend_get (s : State) (k j : Fin 8) (d : List Byte) :
    (s.extend k d).enc.m.get j = if j = k then shake512 (bytes64 (s.enc.m.get k) ++ d) else s.enc.m.get j := by
  show (Vector.set s.enc.m k (shake512 (bytes64 (s.enc.m.get k) ++ d)) k.isLt)[j.val] = _
  rw [Vector.getElem_set]
  by_cases h : j = k
  · rw [if_pos h, if_pos (by rw [h])]
  · rw [if_neg h, if_neg (fun hv => h (Fin.ext hv.symm))]; rfl

/-- Measurement 1 takes the other images one after another. -/
theorem State.extendAll_get (s : State) (k j : Fin 8) (ds : List (List Byte)) :
    (ds.foldl (fun s d => s.extend k d) s).enc.m.get j =
      if j = k then ds.foldl (fun m d => shake512 (bytes64 m ++ d)) (s.enc.m.get k) else s.enc.m.get j := by
  induction ds generalizing s with
  | nil => by_cases h : j = k <;> simp [h]
  | cons d ds ih =>
    rw [List.foldl_cons, ih, State.extend_get, State.extend_get, if_pos rfl, List.foldl_cons]
    split <;> rfl

/-- An extension changes the measurements alone. -/
structure SameButM (s t : State) : Prop where
  rest : t = { s with enc := t.enc }
  enc : t.enc = { s.enc with m := t.enc.m, mOld := t.enc.mOld, mAt := t.enc.mAt }

theorem State.sameButM_extend (s : State) (k : Fin 8) (d : List Byte) : SameButM s (s.extend k d) := ⟨rfl, rfl⟩

theorem SameButM.trans {s t u : State} (h1 : SameButM s t) (h2 : SameButM t u) : SameButM s u := by
  obtain ⟨r1, e1⟩ := h1
  obtain ⟨r2, e2⟩ := h2
  refine ⟨?_, ?_⟩
  · rw [r2]; rw [r1]
  · rw [e2]; rw [e1]

theorem State.sameButM_extendAll (s : State) (k : Fin 8) (ds : List (List Byte)) :
    SameButM s (ds.foldl (fun s d => s.extend k d) s) := by
  induction ds generalizing s with
  | nil => exact ⟨rfl, rfl⟩
  | cons d ds ih => exact (s.sameButM_extend k d).trans (ih _)

theorem checkImages_ok_iff (c : Nat) (xs : List (List Byte × List Byte)) : (checkImages c xs).2 = 0 ↔
    (∀ x ∈ xs, x.2.length = 29792 ∧ Config.slhVerify Config.vendorDigest x.1 x.2 = true) ∧
      (c :: xs.map (fun x => Config.imageVersion x.1)).Pairwise (· ≤ ·) := by
  induction xs generalizing c with
  | nil => simp [checkImages]
  | cons x xs ih =>
    obtain ⟨b, sig⟩ := x
    rw [checkImages]
    by_cases hs : slhSigned Config.vendorDigest b sig = true
    · rw [if_neg (by simp [hs])]
      have hsig : sig.length = 29792 ∧ Config.slhVerify Config.vendorDigest b sig = true := by
        simpa only [slhSigned, Bool.and_eq_true, decide_eq_true_eq] using hs
      by_cases hv : Config.imageVersion b < c
      · rw [if_pos hv]
        simp only [List.map_cons, List.pairwise_cons, List.mem_cons]
        constructor
        · intro h; exact absurd (show (0x02 : Byte) = 0 from h) (by decide)
        · rintro ⟨_, hle, _⟩; exact absurd (hle _ (Or.inl rfl)) (by omega)
      · rw [if_neg hv, ih]
        simp only [List.map_cons, List.pairwise_cons, List.mem_cons, forall_eq_or_imp]
        constructor
        · rintro ⟨hall, hle, hpair⟩
          exact ⟨⟨hsig, hall⟩, ⟨by omega, fun y hy => Nat.le_trans (by omega) (hle y hy)⟩, hle, hpair⟩
        · rintro ⟨⟨_, hall⟩, _, hle, hpair⟩
          exact ⟨hall, hle, hpair⟩
    · rw [if_pos (by simpa using hs)]
      constructor
      · intro h; exact absurd (show (0x01 : Byte) = 0 from h) (by decide)
      · rintro ⟨hall, _⟩
        obtain ⟨hlen, hver⟩ := hall (b, sig) (List.mem_cons_self ..)
        exact absurd (by simp [slhSigned, hlen, hver]) hs

theorem checkImages_counter (c : Nat) (xs : List (List Byte × List Byte)) (h : (checkImages c xs).2 = 0) :
    (checkImages c xs).1 = (xs.map (fun x => Config.imageVersion x.1)).getLast?.getD c := by
  induction xs generalizing c with
  | nil => rfl
  | cons x xs ih =>
    obtain ⟨b, sig⟩ := x
    rw [checkImages] at h ⊢
    split at h
    · exact absurd (show (0x01 : Byte) = 0 from h) (by decide)
    · split at h
      · exact absurd (show (0x02 : Byte) = 0 from h) (by decide)
      · rename_i h1 h2
        rw [if_neg h1, if_neg h2, ih _ h, List.map_cons, List.getLast?_cons]; rfl

theorem checkImages_cause (c : Nat) (xs : List (List Byte × List Byte)) : (checkImages c xs).2 ∈ [(0x00 : Byte), 0x01, 0x02] := by
  induction xs generalizing c with
  | nil => exact List.mem_cons_self ..
  | cons x xs ih =>
    obtain ⟨b, sig⟩ := x
    rw [checkImages]
    split
    · exact List.mem_cons_of_mem _ (List.mem_cons_self ..)
    · split
      · exact List.mem_cons_of_mem _ (List.mem_cons_of_mem _ (List.mem_cons_self ..))
      · exact ih _

theorem firmwareImages_fst (n : Nat) : (firmwareImages n).map Prod.fst = Config.hubFirmware n :: Config.otherFirmware n := by
  rw [firmwareImages, List.map_map]
  exact List.zipIdx_map_fst 0 _


/-! PROOFS. The phases of bring-up, and the power states (O50). -/

/-! ## FIRMWARE (R449-R451) -/

/-- M0 to M2 as FIRMWARE extends them. -/
def State.measureFirmware (s : State) (i : Nat) : State :=
  let s1 := (Config.otherFirmware i).foldl (fun s d => s.extend 1 d) (s.extend 0 (Config.hubFirmware i))
  s1.extend 2 s1.enc.fuseBytes

theorem State.sameButM_measureFirmware (s : State) (i : Nat) : SameButM s (s.measureFirmware i) :=
  ((s.sameButM_extend 0 _).trans (State.sameButM_extendAll _ 1 _)).trans (State.sameButM_extend _ 2 _)

theorem SameButM.fuseBytes {s t : State} (h : SameButM s t) : t.enc.fuseBytes = s.enc.fuseBytes := by rw [h.enc]; rfl

theorem State.measureFirmware_get (s : State) (i : Nat) :
    (s.measureFirmware i).enc.m.get 0 = shake512 (bytes64 (s.enc.m.get 0) ++ Config.hubFirmware i) ∧
    (s.measureFirmware i).enc.m.get 1 = (Config.otherFirmware i).foldl (fun m d => shake512 (bytes64 m ++ d)) (s.enc.m.get 1) ∧
    (s.measureFirmware i).enc.m.get 2 = shake512 (bytes64 (s.enc.m.get 2) ++ s.enc.fuseBytes) ∧
    ∀ k, 3 ≤ k → (s.measureFirmware i).enc.m.get k = s.enc.m.get k := by
  have hfuse := ((s.sameButM_extend 0 (Config.hubFirmware i)).trans (State.sameButM_extendAll _ 1 (Config.otherFirmware i))).fuseBytes
  have hget : ∀ j, (s.measureFirmware i).enc.m.get j =
      if j = 2 then shake512 (bytes64 (s.enc.m.get 2) ++ s.enc.fuseBytes)
      else if j = 1 then (Config.otherFirmware i).foldl (fun m d => shake512 (bytes64 m ++ d)) (s.enc.m.get 1)
      else if j = 0 then shake512 (bytes64 (s.enc.m.get 0) ++ Config.hubFirmware i) else s.enc.m.get j := fun j => by
    rw [State.measureFirmware, State.extend_get, hfuse, State.extendAll_get, State.extendAll_get, State.extend_get, State.extend_get,
      State.extend_get]
    simp
  refine ⟨by rw [hget]; simp, by rw [hget]; simp, by rw [hget]; simp, fun k hk => ?_⟩
  rw [hget, if_neg (by omega), if_neg (by omega), if_neg (by omega)]

/-- The state in which FIRMWARE measures: the counter raised, the level at its lowest. -/
def State.firmwareChecked (s : State) (c : Nat) : State :=
  { s with freeCtr := s.freeCtr + 1, enc := { s.enc with rollback := some c, level := s.enc.life.lowest } }

/-- The state after FIRMWARE. -/
def State.firmwareDone (s : State) : State :=
  { s with
    enc := { s.enc with attest := Config.attestKey (s.enc.m.get 0) (s.enc.m.get 2) }
    dev := { s.dev with phase := 2 } }

theorem State.verifyFirmware_of_ok (s : State)
    (hok : (checkImages (s.enc.rollback.getD Config.rollbackFuse) (firmwareImages s.freeCtr)).2 = 0) :
    s.verifyFirmware = ((s.firmwareChecked (checkImages (s.enc.rollback.getD Config.rollbackFuse) (firmwareImages s.freeCtr)).1).measureFirmware
      s.freeCtr).firmwareDone := by
  show (if (checkImages (s.enc.rollback.getD Config.rollbackFuse) (firmwareImages s.freeCtr)).2 ≠ 0 then _ else _) = _
  rw [if_neg (by simp [hok])]; rfl

theorem State.verifyFirmware_of_bad (s : State)
    (hbad : (checkImages (s.enc.rollback.getD Config.rollbackFuse) (firmwareImages s.freeCtr)).2 ≠ 0) :
    s.verifyFirmware = { s with
      freeCtr := s.freeCtr + 1
      enc := { s.enc with rollback := some (checkImages (s.enc.rollback.getD Config.rollbackFuse) (firmwareImages s.freeCtr)).1 }
      dev := { s.dev with phase := 15, cause := (checkImages (s.enc.rollback.getD Config.rollbackFuse) (firmwareImages s.freeCtr)).2 } } := by
  show (if (checkImages (s.enc.rollback.getD Config.rollbackFuse) (firmwareImages s.freeCtr)).2 ≠ 0 then _ else _) = _
  rw [if_pos hbad]; rfl

theorem firmware_measures (s : State) (hon : s.dev.off = false) (hphase : s.dev.phase = 1) :
    ∃ t, exec .bringupPhaseComplete s = .next t ∧ t.mem = s.mem ∧
    let r := checkImages (s.enc.rollback.getD Config.rollbackFuse) (firmwareImages s.freeCtr)
    t.enc.rollback = some r.1 ∧
    if r.2 = 0 then
      t.dev.phase = 2 ∧ t.enc.level = s.enc.life.lowest ∧
      t.enc.m.get 0 = shake512 (bytes64 (s.enc.m.get 0) ++ Config.hubFirmware s.freeCtr) ∧
      t.enc.m.get 1 = (Config.otherFirmware s.freeCtr).foldl (fun m d => shake512 (bytes64 m ++ d)) (s.enc.m.get 1) ∧
      t.enc.m.get 2 = shake512 (bytes64 (s.enc.m.get 2) ++
        (Config.fuses ++ bytes8 r.1 ++ bytes32 (s.enc.ownerDigest.getD 0) ++ [BitVec.ofNat 8 s.enc.life.code])) ∧
      t.enc.attest = Config.attestKey (t.enc.m.get 0) (t.enc.m.get 2) ∧ ∀ k, 3 ≤ k → t.enc.m.get k = s.enc.m.get k
    else t.dev.phase = 15 ∧ t.enc.m = s.enc.m ∧ t.dev.cause = r.2 := by
  have hexec : exec .bringupPhaseComplete s = .next s.verifyFirmware := by
    show execBringupPhaseComplete s = _
    rw [execBringupPhaseComplete, if_neg (by simp [hon]), hphase]; rfl
  refine ⟨_, hexec, ?_⟩
  generalize hr : checkImages (s.enc.rollback.getD Config.rollbackFuse) (firmwareImages s.freeCtr) = r
  by_cases hok : r.2 = 0
  · rw [State.verifyFirmware_of_ok s (hr ▸ hok), hr]
    obtain ⟨h0, h1, h2, h3⟩ := State.measureFirmware_get (s.firmwareChecked r.1) s.freeCtr
    obtain ⟨hrest, henc⟩ := State.sameButM_measureFirmware (s.firmwareChecked r.1) s.freeCtr
    have hmem : ((s.firmwareChecked r.1).measureFirmware s.freeCtr).mem = s.mem := by rw [hrest]; rfl
    have hroll : ((s.firmwareChecked r.1).measureFirmware s.freeCtr).enc.rollback = some r.1 := by rw [henc]; rfl
    have hlevel : ((s.firmwareChecked r.1).measureFirmware s.freeCtr).enc.level = s.enc.life.lowest := by rw [henc]; rfl
    refine ⟨hmem, hroll, ?_⟩
    rw [if_pos hok]
    exact ⟨rfl, hlevel, h0, h1, h2, rfl, h3⟩
  · rw [State.verifyFirmware_of_bad s (hr ▸ hok), hr]
    refine ⟨rfl, rfl, ?_⟩
    rw [if_neg hok]
    exact ⟨rfl, rfl, rfl⟩

/-! ## LINKS, MEMORY and what follows (R441) -/

theorem links_train (s : State) (hon : s.dev.off = false) (hphase : s.dev.phase = 2) :
    ∃ t, exec .bringupPhaseComplete s = .next t ∧ t.mem = s.mem ∧ t.enc = s.enc ∧
    if Config.bringupCause 2 s.freeCtr = 0 then t.dev.phase = 3 else t.dev.phase = 15 ∧ t.dev.cause = Config.bringupCause 2 s.freeCtr := by
  have hexec : exec .bringupPhaseComplete s = .next (if Config.bringupCause 2 s.freeCtr ≠ 0
      then s.takeFree.2.bringupFails (Config.bringupCause 2 s.freeCtr) else s.takeFree.2.modDev (fun d => { d with phase := 3 })) := by
    show execBringupPhaseComplete s = _
    rw [execBringupPhaseComplete, if_neg (by simp [hon]), hphase]; rfl
  refine ⟨_, hexec, ?_⟩
  by_cases hc : Config.bringupCause 2 s.freeCtr = 0
  · rw [if_neg (by simp [hc]), if_pos hc]; exact ⟨rfl, rfl, rfl⟩
  · rw [if_pos hc, if_neg hc]; exact ⟨rfl, rfl, rfl, rfl⟩

theorem State.eachDie_rest (s : State) (f : DieTime → DieTime) : s.eachDie f = { s with dies := (s.eachDie f).dies } := by
  suffices h : ∀ (l : List Nat) (s : State), l.foldl (fun s d => s.modDie d f) s =
      { s with dies := (l.foldl (fun s d => s.modDie d f) s).dies } from h _ s
  intro l
  induction l with
  | nil => exact fun _ => rfl
  | cons d l ih => intro s; rw [List.foldl_cons, ih]; rfl

theorem memory_zeroed (s : State) (hon : s.dev.off = false) (hphase : s.dev.phase = 3) :
    ∃ t, exec .bringupPhaseComplete s = .next t ∧ t.enc.m = s.enc.m ∧
    if Config.bringupCause 3 s.freeCtr = 0 then t.dev.phase = 4 ∧ t.enc.power = .p0 ∧
      ∀ a, t.mem.byte a = (if isDram a then 0 else s.mem.byte a) ∧ t.mem.poisoned a = (!isDram a && s.mem.poisoned a)
    else t.dev.phase = 15 ∧ t.dev.cause = Config.bringupCause 3 s.freeCtr ∧ t.mem = s.mem := by
  have hexec : exec .bringupPhaseComplete s = .next (if Config.bringupCause 3 s.freeCtr ≠ 0
      then s.takeFree.2.bringupFails (Config.bringupCause 3 s.freeCtr) else s.takeFree.2.bringupDone) := by
    show execBringupPhaseComplete s = _
    rw [execBringupPhaseComplete, if_neg (by simp [hon]), hphase]; rfl
  refine ⟨_, hexec, ?_⟩
  by_cases hc : Config.bringupCause 3 s.freeCtr = 0
  · rw [if_neg (by simp [hc]), if_pos hc]
    have hdone : s.takeFree.2.bringupDone.enc.m = s.enc.m ∧ s.takeFree.2.bringupDone.mem = s.mem.zeroDram := by
      rw [State.bringupDone]
      constructor <;> rw [State.eachDie_rest] <;> rfl
    refine ⟨hdone.1, rfl, rfl, fun a => ?_⟩
    rw [hdone.2]
    exact ⟨Memory.byte_zeroDram s.mem a, Memory.poisoned_zeroDram s.mem a⟩
  · rw [if_pos hc, if_neg hc]; exact ⟨rfl, rfl, rfl, rfl⟩

theorem bringupRuns : Says.BringupRuns := by
  refine ⟨functionLevelReset_acts, powerRemoval_acts, fun s hoff => ?_, fun s hon hphase => ?_, fun s => firmware_measures s,
    fun c xs => ⟨checkImages_ok_iff c xs, checkImages_counter c xs, checkImages_cause c xs⟩, firmwareImages_fst, links_train,
    memory_zeroed, fun s hon hphase => ?_, fun s hon => ?_⟩
  · show execPowerOn s = _
    rw [execPowerOn, if_pos hoff]; rfl
  · show execBringupPhaseComplete s = _
    rw [execBringupPhaseComplete, if_neg (by simp [hon]), hphase]; rfl
  · show execBringupPhaseComplete s = _
    rw [execBringupPhaseComplete, if_neg (by simp [hon])]
    rcases hphase with h | h <;> rw [h] <;> rfl
  · show execEnclaveUncorrectableError s = _
    rw [execEnclaveUncorrectableError, if_neg (by simp [hon])]; rfl

/-! ## Power states (R446, R447) -/

theorem State.region_modRegions (s : State) (r : Nat) (f : Region → Region) (rs : List Nat) (hf : ∀ R, f (f R) = f R) :
    (rs.foldl (fun s r => s.modRegion r f) s).region r = if r ∈ rs then f (s.region r) else s.region r := by
  induction rs generalizing s with
  | nil => rfl
  | cons q rs ih =>
    rw [List.foldl_cons, ih]
    by_cases hq : q = r
    · subst hq
      rw [State.region_modRegion_same, hf]; simp
    · rw [State.region_modRegion_other _ (Ne.symm hq)]
      simp [Ne.symm hq]

theorem State.modRegions_rest (s : State) (f : Region → Region) (rs : List Nat) :
    rs.foldl (fun s r => s.modRegion r f) s = { s with regions := (rs.foldl (fun s r => s.modRegion r f) s).regions } := by
  induction rs generalizing s with
  | nil => rfl
  | cons q rs ih => rw [List.foldl_cons, ih]; rfl


/-! PROOFS. Power states, tokens, the lifecycle, reports and keys (O50). -/

/-! ## P0, P1, P2 (R446, R447) -/

theorem State.levelNone_mem (s : State) : s.levelNone.mem = s.mem := by simp only [State.levelNone, State.modEnc]
theorem State.levelNone_hub (s : State) : s.levelNone.hub = s.hub := by simp only [State.levelNone, State.modEnc]
theorem State.levelNone_images (s : State) : s.levelNone.images = s.images := by simp only [State.levelNone, State.modEnc]
theorem State.levelNone_enc (s : State) :
    s.levelNone.enc = { s.enc with level := .none, routeBrk := false, openTrace := false } := by
  simp only [State.levelNone, State.modEnc]
theorem State.levelNone_regions (s : State) : s.levelNone.regions = s.regions.map (fun e =>
    (e.1, { e.2 with tracePend := [], traceSync := e.2.traceSync || e.2.tracePend.any TraceEv.isCore })) := by
  simp only [State.levelNone, State.modEnc]

theorem State.zero_ungate (s : State) (r a : Nat) (h : s.mem.byte a = 0) : (s.ungate r).mem.byte a = 0 := by
  rw [State.ungate]
  split
  · rw [State.modRegion_mem, State.byte_zeroStores, h, ite_self]
  · exact h

theorem State.zero_ungate_of_gated (s : State) {r a : Nat} (hg : (s.region r).gated = true) (hin : inStores r a = true) :
    (s.ungate r).mem.byte a = 0 := by
  rw [State.ungate, if_pos hg, State.modRegion_mem, State.byte_zeroStores, if_pos hin]

theorem State.gated_ungate (s : State) (r : Nat) : ((s.ungate r).region r).gated = false := by
  rw [State.ungate]
  split
  · rw [State.region_modRegion_same]
  · rename_i h; exact Bool.eq_false_iff.mpr h

theorem State.region_ungate_other (s : State) {r q : Nat} (h : q ≠ r) : (s.ungate r).region q = s.region q := by
  rw [State.ungate]
  split
  · rw [State.region_modRegion_other _ h]; rfl
  · rfl

theorem State.zero_ungateList (l : List Nat) (s : State) (a : Nat) (h : s.mem.byte a = 0) : (l.foldl State.ungate s).mem.byte a = 0 := by
  induction l generalizing s with
  | nil => exact h
  | cons q l ih => exact ih _ (State.zero_ungate s q a h)

theorem State.gated_ungateList_of_not_mem (l : List Nat) (s : State) (r : Nat) (h : (s.region r).gated = false) :
    ((l.foldl State.ungate s).region r).gated = false := by
  induction l generalizing s with
  | nil => exact h
  | cons q l ih =>
    refine ih _ ?_
    by_cases hq : r = q
    · subst hq; exact State.gated_ungate s r
    · rw [State.region_ungate_other s hq]; exact h

theorem State.ungateList_spec (l : List Nat) (s : State) (r : Nat) (hr : r ∈ l) :
    ((l.foldl State.ungate s).region r).gated = false ∧
      ((s.region r).gated = true → ∀ a, inStores r a = true → (l.foldl State.ungate s).mem.byte a = 0) := by
  induction l generalizing s with
  | nil => cases hr
  | cons q l ih =>
    rw [List.foldl_cons]
    by_cases hq : r = q
    · subst hq
      exact ⟨State.gated_ungateList_of_not_mem l _ r (State.gated_ungate s r),
        fun hg a hin => State.zero_ungateList l _ a (State.zero_ungate_of_gated s hg hin)⟩
    · have h := ih (s.ungate q) ((List.mem_cons.mp hr).resolve_left hq)
      rw [State.region_ungate_other s hq] at h
      exact h

theorem State.ungateAll_region (s : State) (r : Nat) : s.ungateAll.region r = ((List.range 80).foldl State.ungate s).region r := by
  simp only [State.ungateAll, State.modEnc, State.region]
theorem State.ungateAll_mem (s : State) : s.ungateAll.mem = ((List.range 80).foldl State.ungate s).mem := by
  simp only [State.ungateAll, State.modEnc]

theorem inStores_rstore {r o : Nat} (ho : o < 2 ^ 23) : inStores r (rstoreBase r + o) = true := by
  refine Bool.or_eq_true_iff.mpr (Or.inr (Bool.and_eq_true_iff.mpr ⟨decide_eq_true ?_, decide_eq_true ?_⟩))
  · exact Nat.le_add_right _ _
  · rw [rstoreBase, rstoreBase]; omega

theorem inStores_spad {r c o : Nat} (hc : c < 16) (ho : o < 2 ^ 20) : inStores r (spadBase ⟨r, c⟩ + o) = true := by
  refine Bool.or_eq_true_iff.mpr (Or.inl (Bool.and_eq_true_iff.mpr ⟨decide_eq_true ?_, decide_eq_true ?_⟩)) <;> simp only [spadBase] <;> omega

theorem gate_gates (rs : List Nat) (s : State) (hphase : s.dev.phase = 4) (hon : s.dev.off = false)
    (hpower : s.enc.power = .p0 ∨ s.enc.power = .p1) (hne : rs ≠ []) (hfree : ∀ r ∈ rs, r < 80 ∧ (s.region r).launch = none) :
    ∃ t, exec (.powerStateRequest (.p1 rs)) s = .next t ∧ t.enc.power = .p1 ∧ (∀ r ∈ rs, (t.region r).gated = true) ∧
      (∀ r, r ∉ rs → t.region r = s.region r) ∧ t.mem = s.mem := by
  have hcond : (!rs.isEmpty && rs.all (fun r => decide (r < 80) && (s.region r).launch.isNone)) = true := by
    simp only [Bool.and_eq_true, Bool.not_eq_true', List.isEmpty_eq_false_iff, List.all_eq_true, decide_eq_true_eq]
    exact ⟨hne, fun r hr => ⟨(hfree r hr).1, by rw [(hfree r hr).2]; rfl⟩⟩
  have hexec : exec (.powerStateRequest (.p1 rs)) s = .next (s.gate1 rs) := by
    show execPowerStateRequest (.p1 rs) s = _
    unfold execPowerStateRequest
    rw [if_neg (by simp [hphase, hon])]
    rcases hpower with h | h <;> rw [h] <;> exact if_pos hcond
  have hregion : ∀ r, (s.gate1 rs).region r = if r ∈ rs then { s.region r with gated := true } else s.region r :=
    fun r => State.region_modRegions s r _ rs fun _ => rfl
  refine ⟨_, hexec, rfl, fun r hr => ?_, fun r hr => ?_, ?_⟩
  · rw [hregion, if_pos hr]
  · rw [hregion, if_neg hr]
  · have hrest := State.modRegions_rest s (fun R => { R with gated := true }) rs
    show (rs.foldl (fun s r => s.modRegion r (fun R => { R with gated := true })) s).mem = s.mem
    rw [hrest]

theorem gate_refused (rs : List Nat) (s : State) (r : Nat) (hr : r ∈ rs) (hl : (s.region r).launch.isSome = true) :
    exec (.powerStateRequest (.p1 rs)) s = .next s := by
  have hcond : (!rs.isEmpty && rs.all (fun r => decide (r < 80) && (s.region r).launch.isNone)) = false := by
    refine Bool.and_eq_false_iff.mpr (Or.inr (List.all_eq_false.mpr ⟨r, hr, ?_⟩))
    cases hlaunch : (s.region r).launch
    · rw [hlaunch] at hl; cases hl
    · simp
  show execPowerStateRequest (.p1 rs) s = _
  unfold execPowerStateRequest
  split
  · rfl
  · cases s.enc.power with
    | p0 => exact if_neg (by rw [hcond]; decide)
    | p1 => exact if_neg (by rw [hcond]; decide)
    | p2 => rfl
    | p3 => rfl

theorem sleep_enters (s : State) (hphase : s.dev.phase = 4) (hon : s.dev.off = false) (hpower : s.enc.power = .p0 ∨ s.enc.power = .p1)
    (hno : s.noLaunch = true) (hhandles : s.regions.all (fun e => e.2.handles.all (fun h => h.2.st ≠ .filling)) = true) :
    ∃ t, exec (.powerStateRequest .p2) s = .next t ∧ t.enc.power = .p2 ∧ t.enc.keys = [] ∧ t.enc.spdm = [] ∧ t.mem = s.mem ∧
      t.enc.m = s.enc.m ∧ t.enc.level = (if s.enc.level = .owner then .none else s.enc.level) := by
  have hexec : exec (.powerStateRequest .p2) s = .next s.sleep := by
    show execPowerStateRequest .p2 s = _
    unfold execPowerStateRequest
    rw [if_neg (by simp [hphase, hon])]
    rcases hpower with h | h <;> rw [h] <;> exact if_pos (by rw [hno, hhandles]; rfl)
  refine ⟨_, hexec, ?_⟩
  by_cases hlevel : s.enc.level = .owner
  · have hsleep : s.sleep = (s.dropKeys.modEnc (fun e => { e with power := .p2 })).levelNone := if_pos hlevel
    rw [hsleep, if_pos hlevel, State.levelNone_enc, State.levelNone_mem]; exact ⟨rfl, rfl, rfl, rfl, rfl, rfl⟩
  · have hsleep : s.sleep = s.dropKeys.modEnc (fun e => { e with power := .p2 }) := if_neg hlevel
    rw [hsleep, if_neg hlevel]; exact ⟨rfl, rfl, rfl, rfl, rfl, rfl⟩

theorem sleep_refused (s : State) (hno : s.noLaunch = false) : exec (.powerStateRequest .p2) s = .next s := by
  show execPowerStateRequest .p2 s = _
  unfold execPowerStateRequest
  split
  · rfl
  · cases s.enc.power with
    | p0 => exact if_neg (by rw [hno]; exact Bool.false_ne_true)
    | p1 => exact if_neg (by rw [hno]; exact Bool.false_ne_true)
    | p2 => rfl
    | p3 => rfl

theorem State.wake_mem (s : State) : s.wake.mem = s.mem.onlyDram := by simp only [State.wake, State.dropKeys, State.modEnc]
theorem State.wake_enc (s : State) : s.wake.enc = { s.enc with keys := [], spdm := [], power := .p0 } := by
  simp only [State.wake, State.dropKeys, State.modEnc]

theorem powerStatesChange : Says.PowerStatesChange := by
  refine ⟨gate_gates, gate_refused, sleep_enters, sleep_refused, fun s hphase hon hpower => ?_, fun s hphase hon hpower => ?_⟩
  · have hexec : exec (.powerStateRequest .p0) s = .next s.ungateAll := by
      show execPowerStateRequest .p0 s = _
      unfold execPowerStateRequest
      rw [if_neg (by simp [hphase, hon]), hpower]
    have hpower0 : s.ungateAll.enc.power = .p0 := by simp only [State.ungateAll, State.modEnc]
    refine ⟨_, hexec, hpower0, fun r hr => ?_⟩
    obtain ⟨hopen, hzero⟩ := State.ungateList_spec (List.range 80) s r (List.mem_range.mpr hr)
    rw [State.ungateAll_region, State.ungateAll_mem]
    exact ⟨hopen, fun hg o ho => ⟨hzero hg _ (inStores_rstore ho), fun c hc ho' => hzero hg _ (inStores_spad hc ho')⟩⟩
  · have hexec : exec (.powerStateRequest .p0) s = .next s.wake := by
      show execPowerStateRequest .p0 s = _
      unfold execPowerStateRequest
      rw [if_neg (by simp [hphase, hon]), hpower]
    refine ⟨_, hexec, ?_⟩
    rw [State.wake_enc, State.wake_mem]
    exact ⟨rfl, rfl, Memory.byte_onlyDram s.mem, Memory.poisoned_onlyDram s.mem⟩

/-! ## Debug level and lifecycle (R443-R445) -/

theorem State.tokenOk_iff (s : State) (k : DebugTok) : s.tokenOk k = true ↔
    s.tokenSigned k = true ∧ k.rest = true ∧ tokenFields k = true ∧ k.devid = s.dev.devid ∧ s.enc.nonce = some k.nonce ∧
      k.nonce ∉ s.enc.spent ∧ s.enc.life.allows k.level.toNat = true ∧ s.enc.power = .p0 ∧ s.noLaunch = true := by
  simp only [State.tokenOk, State.nonceMatches, Bool.and_eq_true, decide_eq_true_eq, Bool.not_eq_true', List.contains_eq_mem,
    decide_eq_false_iff_not]
  tauto

/-- The state in which a token is judged: a nonce that it presented is spent. -/
def State.nonceSpent (s : State) (k : DebugTok) : State :=
  if s.nonceMatches k then s.modEnc (fun e => { e with nonce := none, spent := k.nonce :: e.spent }) else s

theorem State.nonceSpent_rest (s : State) (k : DebugTok) : s.nonceSpent k =
    { s with enc := { s.enc with nonce := (s.nonceSpent k).enc.nonce, spent := (s.nonceSpent k).enc.spent } } := by
  rw [State.nonceSpent]
  split <;> rfl

theorem debugToken_judged (k : DebugTok) (s : State) (hphase : s.dev.phase = 4) (hon : s.dev.off = false) :
    ∃ t, exec (.debugToken k) s = .next t ∧ t.mem = s.mem ∧ t.hub = s.hub ∧
    if s.tokenSigned k = true ∧ k.rest = true ∧ tokenFields k = true ∧ k.devid = s.dev.devid ∧ s.enc.nonce = some k.nonce ∧ k.nonce ∉ s.enc.spent ∧
      s.enc.life.allows k.level.toNat = true ∧ s.enc.power = .p0 ∧ s.noLaunch = true then
      t.enc.level = (if k.level = 1 then .owner else .vendor) ∧ t.enc.routeBrk = k.flags.getLsbD 0 ∧
      t.enc.openTrace = k.flags.getLsbD 1 ∧ k.nonce ∈ t.enc.spent ∧
      t.enc.m.get 7 = shake512 (bytes64 (s.enc.m.get 7) ++ (k.body ++ k.sig)) ∧ ∀ j, j ≠ 7 → t.enc.m.get j = s.enc.m.get j
    else t.enc = { s.enc with nonce := t.enc.nonce, spent := t.enc.spent } := by
  have hexec : exec (.debugToken k) s = .next (if s.tokenOk k then
      ((s.nonceSpent k).modEnc (fun e => { e with
        level := if k.level = 1 then .owner else .vendor, routeBrk := k.flags.getLsbD 0, openTrace := k.flags.getLsbD 1 })).extend 7
          (k.body ++ k.sig)
      else s.nonceSpent k) := by
    show execDebugToken k s = _
    rw [execDebugToken, if_neg (by simp [hphase, hon])]
    show (if s.tokenOk k then _ else _) = _
    split <;> rfl
  have hrest := s.nonceSpent_rest k
  refine ⟨_, hexec, ?_⟩
  by_cases hok : s.tokenOk k = true
  · have hall := (State.tokenOk_iff s k).mp hok
    rw [if_pos hok, if_pos hall]
    have hnonce : s.nonceMatches k = true := by
      simp only [State.nonceMatches, Bool.and_eq_true, decide_eq_true_eq, Bool.not_eq_true', List.contains_eq_mem, decide_eq_false_iff_not]
      exact ⟨hall.2.2.2.2.1, hall.2.2.2.2.2.1⟩
    have hspent : (s.nonceSpent k) = s.modEnc (fun e => { e with nonce := none, spent := k.nonce :: e.spent }) := if_pos hnonce
    rw [hspent]
    exact ⟨rfl, rfl, rfl, rfl, rfl, List.mem_cons_self .., State.extend_get _ 7 7 _,
      fun j hj => (State.extend_get _ 7 j _).trans (if_neg hj)⟩
  · rw [if_neg hok, if_neg (fun h => hok ((State.tokenOk_iff s k).mpr h))]
    exact ⟨by rw [hrest], by rw [hrest], by rw [hrest]⟩

theorem State.levelNone_tracePend (s : State) (r : Nat) : (s.levelNone.region r).tracePend = [] :=
  congrArg Region.tracePend (State.reset_region r s.regions
    (fun R => { R with tracePend := [], traceSync := R.traceSync || R.tracePend.any TraceEv.isCore }) rfl)

theorem slhSigned_iff (d : BitVec 256) (msg sig : List Byte) :
    slhSigned d msg sig = true ↔ sig.length = 29792 ∧ Config.slhVerify d msg sig = true := by
  rw [slhSigned, Bool.and_eq_true, decide_eq_true_eq]

theorem lifecycleTransfer_acts (digest : BitVec 256) (sig : List Byte) (s : State) (hphase : s.dev.phase = 4) (hon : s.dev.off = false)
    (hlife : s.enc.life = .manufacture) : ∃ t, exec (.lifecycleTransfer digest sig) s = .next t ∧ t.mem = s.mem ∧
    if sig.length = 29792 ∧ Config.slhVerify Config.vendorDigest (bytes32 digest) sig = true then
      t.enc.life = .owned ∧ t.enc.ownerDigest = some digest ∧
      t.enc.m.get 2 = shake512 (bytes64 (s.enc.m.get 2) ++
        (Config.fuses ++ bytes8 (s.enc.rollback.getD Config.rollbackFuse) ++ bytes32 digest ++ [1]))
    else t = s := by
  by_cases hsig : slhSigned Config.vendorDigest (bytes32 digest) sig = true
  · have hexec : exec (.lifecycleTransfer digest sig) s = .next ((s.levelNone.modEnc (fun e =>
        { e with life := .owned, ownerDigest := some digest })).extend 2 (s.levelNone.modEnc (fun e =>
        { e with life := .owned, ownerDigest := some digest })).enc.fuseBytes) := by
      show execLifecycleTransfer digest sig s = _
      rw [execLifecycleTransfer, if_pos (by simp [hphase, hon, hlife, hsig])]
    refine ⟨_, hexec, rfl, ?_⟩
    rw [if_pos ((slhSigned_iff _ _ _).mp hsig)]
    exact ⟨rfl, rfl, State.extend_get _ 2 2 _⟩
  · have hexec : exec (.lifecycleTransfer digest sig) s = .next s := by
      show execLifecycleTransfer digest sig s = _
      rw [execLifecycleTransfer, if_neg (by simp [hsig])]
    refine ⟨_, hexec, rfl, ?_⟩
    rw [if_neg (fun h => hsig ((slhSigned_iff _ _ _).mpr h))]

/-- What a release leaves before the fuses are measured: everything zeroed, keys and level gone, RETURNED. -/
def State.released (s : State) : State :=
  s.zeroAll.dropKeys.levelNone.modEnc (fun e => { e with
    m := Vector.replicate 8 0, life := .returned, ownerDigest := some (BitVec.allOnes 256) })

theorem State.released_mem (s : State) : s.released.mem = Memory.empty := by
  rw [State.released, State.modEnc, State.levelNone_mem]; rfl
theorem State.released_images (s : State) : s.released.images = [] := by
  rw [State.released, State.modEnc, State.levelNone_images]; rfl
theorem State.released_enc (s : State) : s.released.enc = { s.enc with
    keys := [], spdm := [], level := .none, routeBrk := false, openTrace := false, m := Vector.replicate 8 0, life := .returned,
    ownerDigest := some (BitVec.allOnes 256) } := by
  rw [State.released, State.modEnc, State.levelNone_enc]; rfl
theorem State.released_cache (s : State) (r : Nat) : (s.released.region r).cache = [] := by
  have h1 := State.reset_region r (s.regions.map (fun e => (e.1, { e.2 with cache := [] })))
    (fun R => { R with tracePend := [], traceSync := R.traceSync || R.tracePend.any TraceEv.isCore }) rfl
  have h2 := State.reset_region r s.regions (fun R => { R with cache := [] }) rfl
  have hregions : s.released.regions = s.zeroAll.dropKeys.levelNone.regions := rfl
  rw [h2] at h1
  rw [State.region, hregions, State.levelNone_regions]
  exact congrArg Region.cache h1

theorem State.region_extend (s : State) (k : Fin 8) (d : List Byte) (r : Nat) : (s.extend k d).region r = s.region r := rfl

theorem replicate_get (k : Fin 8) : (Vector.replicate 8 (0 : BitVec 512)).get k = 0 := Vector.getElem_replicate ..

theorem lifecycleRelease_acts (o v : List Byte) (d : BitVec 256) (s : State) (hphase : s.dev.phase = 4) (hon : s.dev.off = false)
    (hlife : s.enc.life = .owned) (hd : s.enc.ownerDigest = some d) : ∃ t, exec (.lifecycleRelease o v) s = .next t ∧
    if slhSigned d [] o = true ∧ slhSigned Config.vendorDigest [] v = true then
      t.enc.life = .returned ∧ t.enc.ownerDigest = some (BitVec.allOnes 256) ∧
      t.enc.keys = [] ∧ (∀ a, t.mem.byte a = 0) ∧ t.images = [] ∧ (∀ r, (t.region r).cache = []) ∧ (∀ k, k ≠ 2 → t.enc.m.get k = 0) ∧
      t.enc.m.get 2 = shake512 (bytes64 0 ++
        (Config.fuses ++ bytes8 (s.enc.rollback.getD Config.rollbackFuse) ++ bytes32 (BitVec.allOnes 256) ++ [2]))
    else t = s := by
  by_cases hsig : slhSigned d [] o = true ∧ slhSigned Config.vendorDigest [] v = true
  · have hexec : exec (.lifecycleRelease o v) s = .next (s.released.extend 2 s.released.enc.fuseBytes) := by
      show execLifecycleRelease o v s = _
      rw [execLifecycleRelease, hd, if_pos (by simp [hphase, hon, hlife, hsig.1, hsig.2])]; rfl
    have hget : ∀ k, s.released.enc.m.get k = 0 := fun k => by rw [State.released_enc]; exact replicate_get k
    have hext := (s.released.sameButM_extend 2 s.released.enc.fuseBytes)
    have henc : (s.released.extend 2 s.released.enc.fuseBytes).enc.life = .returned ∧
        (s.released.extend 2 s.released.enc.fuseBytes).enc.ownerDigest = some (BitVec.allOnes 256) ∧
        (s.released.extend 2 s.released.enc.fuseBytes).enc.keys = [] := by
      rw [hext.enc, State.released_enc]; exact ⟨rfl, rfl, rfl⟩
    have hmem : (s.released.extend 2 s.released.enc.fuseBytes).mem = Memory.empty := by rw [hext.rest, State.released_mem]
    have himages : (s.released.extend 2 s.released.enc.fuseBytes).images = [] := by rw [hext.rest, State.released_images]
    have hregion : ∀ r, (s.released.extend 2 s.released.enc.fuseBytes).region r = s.released.region r := State.region_extend _ 2 _
    have hfuse : s.released.enc.fuseBytes =
        Config.fuses ++ bytes8 (s.enc.rollback.getD Config.rollbackFuse) ++ bytes32 (BitVec.allOnes 256) ++ [2] := by
      rw [State.released_enc]; rfl
    obtain ⟨hreturned, hdigest, hkeys⟩ := henc
    refine ⟨_, hexec, ?_⟩
    rw [if_pos hsig]
    refine ⟨hreturned, hdigest, hkeys, fun a => by rw [hmem]; rfl, himages, fun r => ?_, fun k hk => ?_, ?_⟩
    · rw [hregion, State.released_cache]
    · rw [State.extend_get, if_neg hk, hget]
    · rw [State.extend_get, if_pos rfl, hget, hfuse]
  · have hexec : exec (.lifecycleRelease o v) s = .next s := by
      show execLifecycleRelease o v s = _
      rw [execLifecycleRelease, hd, if_neg]
      simp only [Bool.and_eq_true]
      exact fun h => hsig h.2
    exact ⟨_, hexec, by rw [if_neg hsig]⟩

theorem debugAndLifecycleMove : Says.DebugAndLifecycleMove := by
  refine ⟨debugToken_judged, fun s hon hlife => ?_, lifecycleTransfer_acts, fun digest sig s hlife => ?_, lifecycleRelease_acts,
    fun o v s hlife => ?_⟩
  · have hexec : exec .debugLevelLower s = .next s.levelNone := by
      show execDebugLevelLower s = _
      rw [execDebugLevelLower, if_neg (by simp [hon, hlife])]
    exact ⟨_, hexec, rfl, rfl, rfl, State.levelNone_tracePend s, rfl, rfl, rfl⟩
  · show execLifecycleTransfer digest sig s = _
    rw [execLifecycleTransfer, if_neg (by simp [hlife])]
  · show execLifecycleRelease o v s = _
    rw [execLifecycleRelease, if_neg]
    simp only [Bool.and_eq_true, decide_eq_true_eq]
    exact fun h => hlife h.1.2


/-! PROOFS. Reports and keys, remote writes (O50), and lists made of pieces of one length. -/

/-! ## Pieces of one length -/

section
variable {α β : Type} {f : α → List β} {n : Nat} (hf : ∀ x, (f x).length = n)
include hf

theorem length_flatMap_pieces (l : List α) : (l.flatMap f).length = n * l.length := by
  induction l with
  | nil => rfl
  | cons x l ih => rw [List.flatMap_cons, List.length_append, hf, ih, List.length_cons, Nat.mul_succ, Nat.add_comm]

theorem flatMap_piece {l : List α} {k : Nat} {x : α} (h : l[k]? = some x) : ((l.flatMap f).drop (n * k)).take n = f x := by
  induction l generalizing k with
  | nil => cases h
  | cons y l ih =>
    rw [List.flatMap_cons]
    cases k with
    | zero =>
      have hy : y = x := by simpa using h
      rw [Nat.mul_zero, List.drop_zero, List.take_left' (hf y), hy]
    | succ k =>
      rw [List.drop_append, List.drop_eq_nil_of_le (by rw [hf, Nat.mul_succ]; omega), List.nil_append, hf,
        show n * (k + 1) - n = n * k by rw [Nat.mul_succ]; omega]
      exact ih (by simpa using h)

theorem flatMap_getElem? {l : List α} {k j : Nat} {x : α} (h : l[k]? = some x) (hj : j < n) :
    (l.flatMap f)[n * k + j]? = (f x)[j]? := by
  rw [← flatMap_piece hf h, List.getElem?_take_of_lt hj, List.getElem?_drop]

end

theorem length_bytes8 (x : Nat) : (bytes8 x).length = 8 := by simp [bytes8]
theorem length_bytes32 (x : BitVec 256) : (bytes32 x).length = 32 := by simp [bytes32]
theorem length_bytes64 (x : BitVec 512) : (bytes64 x).length = 64 := by simp [bytes64]

/-! ## Reports and keys (R449, R451, R452) -/

theorem State.reportBytes_slices (s : State) (nonce : BitVec 256) :
    (s.reportBytes nonce).length = 560 ∧
    (s.reportBytes nonce).take 8 =
      bytes8 (s.enc.life.code + 256 * s.enc.level.code + 2 ^ 16 * s.enc.power.code + 2 ^ 46 * s.dev.devid.toNat) ∧
    ((s.reportBytes nonce).drop 8).take 32 = bytes32 nonce ∧ (s.reportBytes nonce).drop 552 = bytes8 (s.die 8).l ∧
    ∀ k : Fin 8, ((s.reportBytes nonce).drop (40 + 64 * k.val)).take 64 = bytes64 (s.measured.get k) := by
  have hm : (s.measured.toList.flatMap bytes64).length = 512 := by
    rw [length_flatMap_pieces length_bytes64, Vector.length_toList]
  have hpiece : ∀ k : Fin 8, ((s.measured.toList.flatMap bytes64).drop (64 * k.val)).take 64 = bytes64 (s.measured.get k) := fun k => by
    refine flatMap_piece length_bytes64 ?_
    rw [Vector.getElem?_toList, Vector.getElem?_eq_getElem k.isLt]; rfl
  generalize hmid : s.measured.toList.flatMap bytes64 = mid at hm hpiece
  generalize hhead : bytes8 (s.enc.life.code + 256 * s.enc.level.code + 2 ^ 16 * s.enc.power.code + 2 ^ 46 * s.dev.devid.toNat) = head
  have hlen : head.length = 8 := hhead ▸ length_bytes8 _
  have hb : s.reportBytes nonce = head ++ (bytes32 nonce ++ (mid ++ bytes8 (s.die 8).l)) := by
    rw [← hhead, ← hmid, State.reportBytes, List.append_assoc, List.append_assoc]
  have h32 := length_bytes32 nonce
  have h8 := length_bytes8 (s.die 8).l
  have hdrop : ∀ n, (head ++ (bytes32 nonce ++ (mid ++ bytes8 (s.die 8).l))).drop (40 + n) = (mid ++ bytes8 (s.die 8).l).drop n := fun n => by
    rw [← List.append_assoc, ← List.drop_drop, List.drop_left' (by rw [List.length_append, hlen, h32])]
  refine ⟨?_, ?_, ?_, ?_, fun k => ?_⟩
  · rw [hb]; simp only [List.length_append, hlen, h32, hm, h8]
  · rw [hb, List.take_left' hlen]
  · rw [hb, List.drop_left' hlen, List.take_left' h32]
  · rw [hb, hdrop 512, List.drop_left' hm]
  · have hk := k.isLt
    rw [hb, hdrop, List.drop_append_of_le_length (by omega), List.take_append_of_le_length (by rw [List.length_drop]; omega), hpiece]

theorem enclaveRequestsAnswered : Says.EnclaveAnswers := by
  refine ⟨fun nonce s h => ?_, fun s h => ?_, fun fn s h hfn => ?_, fun fn key s h hpower hfn hspdm => ?_, fun fn key s hspdm => ?_⟩
  · have hexec : exec (.getMeasurements nonce) s = .next (s.modEnc (fun e => { e with
        nonce := some nonce, reports := (s.reportBytes nonce ++ (Config.attestSign e.attest (s.reportBytes nonce)).toList) :: e.reports })) := by
      show execGetMeasurements nonce s = _
      rw [execGetMeasurements, if_pos h]
    obtain ⟨hlen, hhead, hnonce, hl, hm⟩ := s.reportBytes_slices nonce
    refine ⟨_, s.reportBytes nonce, hexec, rfl, hlen, rfl, hhead, hnonce, hl, fun k => ?_, rfl, rfl⟩
    rw [hm, State.measured]
    split <;> rfl
  · show execGetCertificate s = _
    rw [execGetCertificate, if_pos h]; rfl
  · have hexec : exec (.spdmSession fn) s = .next (s.modEnc (fun e => { e with spdm := e.spdm.set fn true })) := by
      show execSpdmSession fn s = _
      rw [execSpdmSession, if_pos (by simp [h, hfn])]
    exact ⟨_, hexec, Map.get_set_same .., rfl, rfl⟩
  · have hexec : exec (.ideKm fn key) s = .next (s.modEnc (fun e => { e with keys := e.keys.set fn key })) := by
      show execIdeKm fn key s = _
      rw [execIdeKm, if_pos (by simp [h, hpower, hfn, hspdm])]
    exact ⟨_, hexec, Map.get?_set_same .., rfl, rfl⟩
  · show execIdeKm fn key s = _
    rw [execIdeKm, if_neg (by simp [hspdm])]

/-! ## Remote writes (R161, R436) -/

section
variable {m : Memory} (hw : m.wf = true) {a n : Nat} (v : Nat) (p : Bool)
include hw

theorem Memory.readNat_nearStore (hn : n ≤ 8) : (m.nearStore a n v p).readNat a n = v % 2 ^ (8 * n) := by
  rw [Memory.nearStore]
  split
  · rw [Memory.readNat_store hw, BitVec.toNat_ofNat, Nat.mod_mod_of_dvd _ (Nat.pow_dvd_pow 2 (by omega))]
  · have hbytes : (m.writeNat a n v).readNat a n = v % 2 ^ (8 * n) := by rw [Memory.readNat_writeNat hw, Nat.pow_mul]
    rw [← hbytes]
    exact Memory.readNat_congr fun c _ _ => by cases p <;> rfl

theorem Memory.byte_nearStore_other {c : Nat} (hc : c < a ∨ a + n ≤ c) : (m.nearStore a n v p).byte c = m.byte c := by
  rw [Memory.nearStore]
  split
  · rw [Memory.byte_store hw, if_neg (by omega)]
  · have hbyte : (m.writeNat a n v).byte c = m.byte c := by rw [Memory.byte_writeNat hw, if_neg (by omega)]
    cases p <;> exact hbyte

theorem Memory.poisoned_nearStore_other (hn : 0 < n) {c : Nat} (hc : c / 8 < a / 8 ∨ (a + n + 7) / 8 ≤ c / 8) :
    (m.nearStore a n v p).poisoned c = m.poisoned c := by
  rw [Memory.nearStore]
  split
  · rw [Memory.poisoned_store hw, if_neg (by omega)]
  · have hwn := Memory.wf_writeNat hw a n v
    cases p
    · exact Memory.poisoned_writeNat m a n v c
    · rw [if_pos rfl, Memory.poisoned_setPoison (Memory.wf_setPoison hwn _ _), Memory.poisoned_setPoison hwn, if_neg (by omega),
        if_neg (by omega), Memory.poisoned_writeNat]

end

theorem sameBytesBut_nearStore {s t : State} {a n : Nat} (v : Nat) (p : Bool) (hw : s.mem.wf = true) (hn : 0 < n)
    (ht : t.mem = s.mem.nearStore a n v p) : sameBytesBut a n s t := fun b => by
  rw [ht]
  exact ⟨Memory.byte_nearStore_other hw v p, Memory.poisoned_nearStore_other hw v p hn⟩

theorem remoteBytes_land (addr : Nat) (bs : List Byte) (s : State) (hw : s.mem.wf = true) (hphase : s.dev.phase = 4) (hon : s.dev.off = false)
    (hpower : s.enc.power ≠ .p2) (hne : bs ≠ []) (htakes : s.dev.takes addr bs.length = true) (hfirst : isDram addr = true)
    (hlast : isDram (addr + bs.length - 1) = true) :
    ∃ t, exec (.remoteWrite addr (.bytes bs)) s = .next t ∧ t.regions = s.regions ∧ t.hub = s.hub ∧
      (∀ b, b < addr ∨ addr + bs.length ≤ b → t.mem.byte b = s.mem.byte b) ∧
      if s.stampedAt addr = none ∧ s.stampedAt (addr + bs.length - 1) = none then ∀ k b, bs[k]? = some b → t.mem.byte (addr + k) = b
      else t = s := by
  have hexec : exec (.remoteWrite addr (.bytes bs)) s =
      .next (if s.stampedAt addr = none ∧ s.stampedAt (addr + bs.length - 1) = none then s.hubStore addr bs else s) := by
    show execRemoteWrite addr (.bytes bs) s = _
    unfold execRemoteWrite
    rw [if_neg (by simp [hphase, hon, hpower])]
    by_cases h : s.stampedAt addr = none ∧ s.stampedAt (addr + bs.length - 1) = none
    · rw [if_pos h]; exact if_neg (by simp [hne, htakes, hfirst, hlast, h.1, h.2])
    · rw [if_neg h]
      refine if_pos ?_
      rw [not_and_or] at h
      simpa [hne, htakes, hfirst, hlast, Option.ne_none_iff_isSome] using h
  refine ⟨_, hexec, ?_⟩
  split
  · rw [State.hubStore_eq]
    refine ⟨rfl, rfl, fun b hb => ?_, fun k b hk => ?_⟩
    · show (s.mem.hubStored _ addr bs).byte b = _
      rw [Memory.byte_hubStored, Memory.byte_writeBytes hw, if_neg (by omega)]
    · show (s.mem.hubStored _ addr bs).byte (addr + k) = _
      rw [Memory.byte_hubStored, Memory.byte_writeBytes_at hw addr hk]
  · exact ⟨rfl, rfl, fun _ _ => rfl, rfl⟩

theorem Region.scap_le (R : Region) (r : Nat) : R.scap r ≤ 2 ^ 20 := by
  unfold Region.scap
  split <;> decide

theorem State.remoteReduce_mem (s : State) (loc op : Nat) (fmt : BitVec 4) (x : Word)
    (hcond : (decide (loc / 2 ^ 24 % 2 ^ 7 < 80) && decide (0 < fmtWidth fmt / 8) && [1, 2, 3, 4, 8, 9, 10, 11].contains fmt.toNat &&
      decide (loc % 2 ^ 20 + fmtWidth fmt / 8 ≤ s.scap (loc / 2 ^ 24 % 2 ^ 7))) = true) :
    ∃ p, (s.remoteReduce loc op fmt x).mem =
        s.mem.nearStore (spadBase ⟨loc / 2 ^ 24 % 2 ^ 7, loc / 2 ^ 20 % 2 ^ 4⟩ + loc % 2 ^ 20) (fmtWidth fmt / 8)
          (reduceElem op fmt (s.mem.readNat (spadBase ⟨loc / 2 ^ 24 % 2 ^ 7, loc / 2 ^ 20 % 2 ^ 4⟩ + loc % 2 ^ 20) (fmtWidth fmt / 8)) x.toNat).1 p ∧
      (s.remoteReduce loc op fmt x).hub = s.hub := by
  unfold State.remoteReduce
  rw [if_pos hcond]
  generalize spadBase ⟨loc / 2 ^ 24 % 2 ^ 7, loc / 2 ^ 20 % 2 ^ 4⟩ + loc % 2 ^ 20 = a
  exact ⟨_, rfl, rfl⟩

theorem State.remoteReduce_merges (s : State) (r c o op : Nat) (fmt : BitVec 4) (x : Word) (hr : r < 80) (hc : c < 16)
    (hfmt : fmt.toNat ∈ [1, 2, 3, 4, 8, 9, 10, 11]) (hsize : 0 < fmtWidth fmt / 8) (hcap : o + fmtWidth fmt / 8 ≤ s.scap r) :
    ∃ p, (s.remoteReduce (r * 2 ^ 24 + c * 2 ^ 20 + o) op fmt x).mem = s.mem.nearStore (spadBase ⟨r, c⟩ + o) (fmtWidth fmt / 8)
        (reduceElem op fmt (s.mem.readNat (spadBase ⟨r, c⟩ + o) (fmtWidth fmt / 8)) x.toNat).1 p ∧
      (s.remoteReduce (r * 2 ^ 24 + c * 2 ^ 20 + o) op fmt x).hub = s.hub := by
  have ho : o < 2 ^ 20 := Nat.lt_of_lt_of_le (Nat.lt_add_of_pos_right hsize) (Nat.le_trans hcap ((s.region r).scap_le r))
  have hregion : (r * 2 ^ 24 + c * 2 ^ 20 + o) / 2 ^ 24 % 2 ^ 7 = r := by omega
  have hcell : (r * 2 ^ 24 + c * 2 ^ 20 + o) / 2 ^ 20 % 2 ^ 4 = c := by omega
  have hoff : (r * 2 ^ 24 + c * 2 ^ 20 + o) % 2 ^ 20 = o := by omega
  have hmerge := s.remoteReduce_mem (r * 2 ^ 24 + c * 2 ^ 20 + o) op fmt x
  rw [hregion, hcell, hoff] at hmerge
  refine hmerge ?_
  simp only [Bool.and_eq_true, decide_eq_true_eq, List.contains_eq_mem]
  exact ⟨⟨⟨hr, hsize⟩, hfmt⟩, hcap⟩

theorem remoteReduce_lands (r c o : Nat) (op : BitVec 3) (fmt : BitVec 4) (x : Word) (s : State) (hw : s.mem.wf = true)
    (hphase : s.dev.phase = 4) (hon : s.dev.off = false) (hpower : s.enc.power ≠ .p2) (hr : r < 80) (hc : c < 16)
    (hfmt : fmt.toNat ∈ [1, 2, 3, 4, 8, 9, 10, 11]) (hcap : o + fmtWidth fmt / 8 ≤ s.scap r)
    (htakes : s.dev.takes (r * 2 ^ 24 + c * 2 ^ 20 + o) (fmtWidth fmt / 8) = true) :
    ∃ t, exec (.remoteWrite (r * 2 ^ 24 + c * 2 ^ 20 + o) (.reduce op fmt x)) s = .next t ∧
      t.mem.readNat (spadBase ⟨r, c⟩ + o) (fmtWidth fmt / 8) =
        (reduceElem op.toNat fmt (s.mem.readNat (spadBase ⟨r, c⟩ + o) (fmtWidth fmt / 8)) x.toNat).1 % 2 ^ (8 * (fmtWidth fmt / 8)) ∧
      sameBytesBut (spadBase ⟨r, c⟩ + o) (fmtWidth fmt / 8) s t ∧ t.hub = s.hub := by
  have hsize : 0 < fmtWidth fmt / 8 ∧ fmtWidth fmt / 8 ≤ 8 := by
    simp only [List.mem_cons, List.not_mem_nil, or_false] at hfmt
    rcases hfmt with h | h | h | h | h | h | h | h <;> simp [fmtWidth, h]
  have hexec : exec (.remoteWrite (r * 2 ^ 24 + c * 2 ^ 20 + o) (.reduce op fmt x)) s =
      .next (s.remoteReduce (r * 2 ^ 24 + c * 2 ^ 20 + o) op.toNat fmt x) := by
    show execRemoteWrite _ (.reduce op fmt x) s = _
    unfold execRemoteWrite
    rw [if_neg (by simp [hphase, hon, hpower])]
    exact if_pos htakes
  obtain ⟨p, hmem, hhub⟩ := s.remoteReduce_merges r c o op.toNat fmt x hr hc hfmt hsize.1 hcap
  refine ⟨_, hexec, ?_, sameBytesBut_nearStore _ p hw hsize.1 hmem, hhub⟩
  rw [hmem, Memory.readNat_nearStore hw _ _ hsize.2]

theorem remoteWritesLand : Says.RemoteWritesLand := by
  refine ⟨remoteBytes_land, fun addr bs s h => ?_, remoteReduce_lands⟩
  show execRemoteWrite addr (.bytes bs) s = _
  unfold execRemoteWrite
  split
  · rfl
  · exact if_pos (by simp [h])

/-- Settles O50: each of its five parts by the meaning of its steps, the phases of bring-up one by one, the measurements through what an
extension leaves. -/
theorem resetPowerAndSecurity : Obligations.ResetPowerAndSecurity :=
  ⟨bringupRuns, powerStatesChange, debugAndLifecycleMove, enclaveRequestsAnswered, remoteWritesLand⟩


/-! PROOFS. Ingest and checkpoints (O49). -/

/-! ## Where ingest puts an element (R438) -/

/-- A row of the target in a plain format: every element converted. -/
def plainRow (d : IngestDesc) (x : Source) (r : Nat) : List Nat :=
  (List.range d.k).map (fun j => (convert d.srcFmt d.dstFmt 0 false (x.elem (fmtWidth d.srcFmt / 8) (r * d.k + j))).bits)

/-- The rows of a row-block. -/
def plainRows (d : IngestDesc) (x : Source) (rb : Nat) : List (List Nat) := (List.range 32).map (fun i => plainRow d x (32 * rb + i))

theorem quantRow_plain (d : IngestDesc) (hd : d.dstFmt = 3 ∨ d.dstFmt = 4) (row : List Nat) (free : Nat → Nat → Nat) :
    quantRow d row free = (row.map (fun x => (convert d.srcFmt d.dstFmt 0 false x).bits), []) := by
  rcases hd with h | h <;> rw [quantRow, h] <;> rfl

theorem ingestBytes_plain (d : IngestDesc) (hd : d.dstFmt = 3 ∨ d.dstFmt = 4) (x : Source) :
    ingestBytes d x = (List.range (d.rows / 32)).flatMap (fun rb =>
      blockTiles 16 (plainRows d x rb) (fun i => Config.ingestFree (x.read + 1) i)) := by
  have hwidth : fmtWidth d.dstFmt = 16 := by rcases hd with h | h <;> rw [h] <;> rfl
  have hside : (isGrouped d.dstFmt || isMx d.dstFmt) = false := by rcases hd with h | h <;> rw [h] <;> rfl
  simp only [ingestBytes, quantRow_plain d hd, hwidth, hside, Bool.false_eq_true, if_false, List.append_nil, List.map_map]
  refine List.flatMap_congr fun rb _ => ?_
  congr 1

theorem length_packRow (w n : Nat) (l : List Nat) (free : Nat → Nat) : (packRow w n l free).length = n := by simp [packRow]

theorem packRow_getElem? (l : List Nat) (free : Nat → Nat) {q : Nat} (hq : q < 64) : (packRow 16 64 l free)[q]? =
    some (BitVec.ofNat 8 (pack 16 ((List.range 32).map (fun i => l.getD i (free i))) / 2 ^ (8 * q))) := by
  rw [packRow, List.getElem?_map, List.getElem?_range hq]; rfl

/-- Two bytes of a packed row are its element. -/
theorem packRow_pair (l : List Nat) (free : Nat → Nat) {j : Nat} (hj : j < 32) :
    (BitVec.ofNat 8 (pack 16 ((List.range 32).map (fun i => l.getD i (free i))) / 2 ^ (8 * (2 * j)))).toNat +
      256 * (BitVec.ofNat 8 (pack 16 ((List.range 32).map (fun i => l.getD i (free i))) / 2 ^ (8 * (2 * j + 1)))).toNat =
    l.getD j (free j) % 2 ^ 16 := by
  have helem := elem_pack 16 ((List.range 32).map (fun i => l.getD i (free i))) j
  have hget : ((List.range 32).map (fun i => l.getD i (free i))).getD j 0 = l.getD j (free j) := by
    rw [List.getD_eq_getElem?_getD, List.getElem?_map, List.getElem?_range hj]; rfl
  rw [hget] at helem
  rw [← helem, elem]
  generalize pack 16 ((List.range 32).map (fun i => l.getD i (free i))) = v
  have hnext : v / 2 ^ (8 * (2 * j + 1)) = v / 2 ^ (8 * (2 * j)) / 256 := by
    rw [Nat.div_div_eq_div_mul, show 256 = 2 ^ 8 from rfl, ← Nat.pow_add, Nat.mul_add]
  rw [hnext, show 16 * j = 8 * (2 * j) by omega]
  simp only [BitVec.toNat_ofNat]
  omega

theorem length_plainRow (d : IngestDesc) (x : Source) (r : Nat) : (plainRow d x r).length = d.k := by simp [plainRow]

theorem plainRow_getD (d : IngestDesc) (x : Source) (r : Nat) {j : Nat} (hj : j < d.k) (v : Nat) : (plainRow d x r).getD j v =
    (convert d.srcFmt d.dstFmt 0 false (x.elem (fmtWidth d.srcFmt / 8) (r * d.k + j))).bits := by
  rw [List.getD_eq_getElem?_getD, plainRow, List.getElem?_map, List.getElem?_range hj]; rfl

theorem length_plainRows (d : IngestDesc) (x : Source) (rb : Nat) : (plainRows d x rb).length = 32 := by simp [plainRows]

/-- A row's part of tile t. -/
def tileRow (free : Nat → Nat) (t : Nat) (row : List Nat) : List Byte := packRow 16 64 (row.drop (32 * t)) free

theorem length_tileRow (free : Nat → Nat) (t : Nat) (row : List Nat) : (tileRow free t row).length = 64 := length_packRow ..

/-- Tile t of a row-block. -/
def plainTile (d : IngestDesc) (x : Source) (free : Nat → Nat) (rb t : Nat) : List Byte := (plainRows d x rb).flatMap (tileRow free t)

theorem length_plainTile (d : IngestDesc) (x : Source) (free : Nat → Nat) (rb t : Nat) : (plainTile d x free rb t).length = 2048 := by
  rw [plainTile, length_flatMap_pieces (length_tileRow free t), length_plainRows]

theorem blockTiles_plain (d : IngestDesc) (x : Source) (hk : d.k % 32 = 0) (rb : Nat) (free : Nat → Nat) :
    blockTiles 16 (plainRows d x rb) free =
      (List.range (d.k / 32)).flatMap (plainTile d x free rb) := by
  have hfirst : ((plainRows d x rb).headD []).length = d.k := length_plainRow d x (32 * rb + 0)
  rw [blockTiles, hfirst, show (d.k + 512 / 16 - 1) / (512 / 16) = d.k / 32 by omega]; rfl

theorem length_blockTiles (d : IngestDesc) (x : Source) (hk : d.k % 32 = 0) (rb : Nat) (free : Nat → Nat) :
    (blockTiles 16 (plainRows d x rb) free).length = 64 * d.k := by
  rw [blockTiles_plain d x hk, length_flatMap_pieces (length_plainTile d x free rb), List.length_range]
  omega

theorem length_ingestBytes (d : IngestDesc) (hd : d.dstFmt = 3 ∨ d.dstFmt = 4) (x : Source) (hrows : d.rows % 32 = 0) (hk : d.k % 32 = 0) :
    (ingestBytes d x).length = 2 * d.rows * d.k := by
  rw [ingestBytes_plain d hd, length_flatMap_pieces (fun rb => length_blockTiles d x hk rb _), List.length_range]
  obtain ⟨n, hn⟩ := Nat.dvd_of_mod_eq_zero hrows
  rw [hn, Nat.mul_div_cancel_left n (by omega)]
  ring

/-- The place of element (i, j) of the target among the bytes written. -/
def ingestPlace (d : IngestDesc) (i j : Nat) : Nat := i / 32 * (64 * d.k) + j / 32 * 2048 + i % 32 * 64 + j % 32 * 2

theorem ingestBytes_getElem? (d : IngestDesc) (hd : d.dstFmt = 3 ∨ d.dstFmt = 4) (x : Source) (hrows : d.rows % 32 = 0) (hk : d.k % 32 = 0)
    {i j b : Nat} (hi : i < d.rows) (hj : j < d.k) (hb : b < 2) :
    (ingestBytes d x)[ingestPlace d i j + b]? =
      (packRow 16 64 ((plainRow d x i).drop (32 * (j / 32))) (fun i => Config.ingestFree (x.read + 1) i))[2 * (j % 32) + b]? := by
  have hrow : (plainRows d x (i / 32))[i % 32]? = some (plainRow d x i) := by
    rw [plainRows, List.getElem?_map, List.getElem?_range (by omega), Option.map_some, Nat.div_add_mod]
  have hplace : ingestPlace d i j + b = 64 * d.k * (i / 32) + (2048 * (j / 32) + (64 * (i % 32) + (2 * (j % 32) + b))) := by
    rw [ingestPlace, Nat.mul_comm (i / 32), Nat.mul_comm (j / 32), Nat.mul_comm (i % 32), Nat.mul_comm (j % 32)]
    simp only [Nat.add_assoc]
  have hin : 2048 * (j / 32) + (64 * (i % 32) + (2 * (j % 32) + b)) < 64 * d.k := by omega
  have hblock : (List.range (d.rows / 32))[i / 32]? = some (i / 32) := List.getElem?_range (by omega)
  have htile : (List.range (d.k / 32))[j / 32]? = some (j / 32) := List.getElem?_range (by omega)
  rw [hplace, ingestBytes_plain d hd, flatMap_getElem? (fun rb => length_blockTiles d x hk rb _) hblock hin, blockTiles_plain d x hk,
    flatMap_getElem? (length_plainTile d x _ (i / 32)) htile (by omega), plainTile, flatMap_getElem? (length_tileRow _ _) hrow (by omega)]
  rfl

theorem readNat_two (m : Memory) (a : Nat) : m.readNat a 2 = (m.byte a).toNat + 256 * (m.byte (a + 1)).toNat := by
  simp [Memory.readNat]

theorem ingestBytes_element {m : Memory} (hw : m.wf = true) (d : IngestDesc) (hd : d.dstFmt = 3 ∨ d.dstFmt = 4) (x : Source)
    (hrows : d.rows % 32 = 0) (hk : d.k % 32 = 0) {i j : Nat} (hi : i < d.rows) (hj : j < d.k) (a : Nat) :
    (m.writeBytes a (ingestBytes d x)).readNat (a + ingestPlace d i j) 2 =
      (convert d.srcFmt d.dstFmt 0 false (x.elem (fmtWidth d.srcFmt / 8) (i * d.k + j))).bits % 2 ^ 16 := by
  have hbyte : ∀ b, b < 2 → (m.writeBytes a (ingestBytes d x)).byte (a + (ingestPlace d i j + b)) =
      BitVec.ofNat 8 (pack 16 ((List.range 32).map (fun q => ((plainRow d x i).drop (32 * (j / 32))).getD q
        (Config.ingestFree (x.read + 1) q))) / 2 ^ (8 * (2 * (j % 32) + b))) := fun b hb =>
    Memory.byte_writeBytes_at hw a (by rw [ingestBytes_getElem? d hd x hrows hk hi hj hb, packRow_getElem? _ _ (by omega)])
  have hpair := packRow_pair ((plainRow d x i).drop (32 * (j / 32))) (fun i => Config.ingestFree (x.read + 1) i) (j := j % 32) (by omega)
  have hvalue : ((plainRow d x i).drop (32 * (j / 32))).getD (j % 32) (Config.ingestFree (x.read + 1) (j % 32)) =
      (convert d.srcFmt d.dstFmt 0 false (x.elem (fmtWidth d.srcFmt / 8) (i * d.k + j))).bits := by
    rw [List.getD_eq_getElem?_getD, List.getElem?_drop, Nat.div_add_mod, ← List.getD_eq_getElem?_getD, plainRow_getD d x i hj]
  rw [readNat_two, Nat.add_assoc a, hbyte 1 (by omega), ← Nat.add_zero (ingestPlace d i j), hbyte 0 (by omega), ← hvalue]
  exact hpair

/-- The source of a descriptor without zero elision has no lines that it leaves out. -/
theorem Source.elem_lines (read base n i : Nat) (l1 l2 : Nat) : Source.elem ⟨read, base, false, l1⟩ n i = Source.elem ⟨read, base, false, l2⟩ n i := rfl


/-! PROOFS. The ingest queue and checkpoints (O49). -/

/-! ## The ingest queue (R438, R439) -/

/-- The head descriptor leaves the queue with a status. -/
def State.ingestEnded (s : State) (d : IngestDesc) (ds : List IngestDesc) (cause sub : Byte) : State :=
  { s with dev := { s.dev with
    io := { s.dev.io with ingest := ds }
    out := (d.status, bytes8 (2 ^ 63 + 256 * sub.toNat + cause.toNat)) :: s.dev.out } }

theorem exec_ingestComplete_refused {d : IngestDesc} {ds : List IngestDesc} {s : State} {c sub : Byte} (hq : s.dev.io.ingest = d :: ds)
    (href : ingestRefused d = some (c, sub)) : exec .ingestComplete s = .next (s.ingestEnded d ds c sub) := by
  show execIngestComplete s = _
  simp only [execIngestComplete, hq, href]
  rfl

/-- The bytes that a descriptor gives. -/
def State.ingestOut (s : State) (d : IngestDesc) : List Byte :=
  ingestBytes d ⟨s.freeCtr, d.src, d.elide, (d.rows * d.k * fmtWidth d.srcFmt / 8 + 63) / 64⟩

/-- The head descriptor is taken, with two free values. -/
def State.ingestTaken (s : State) (ds : List IngestDesc) : State :=
  { s with freeCtr := s.freeCtr + 2, dev := { s.dev with io := { s.dev.io with ingest := ds } } }

/-- Is the payload of an ingest spoiled on its way? -/
def State.ingestSpoiled (s : State) (d : IngestDesc) (ds : List IngestDesc) : Bool := ((s.ingestTaken ds).carried 8 d.dst false).1

theorem exec_ingestComplete_written {d : IngestDesc} {ds : List IngestDesc} {s : State} (hq : s.dev.io.ingest = d :: ds)
    (href : ingestRefused d = none) (hne : s.ingestOut d ≠ []) (hfirst : isDram d.dst = true)
    (hlast : isDram (d.dst + (s.ingestOut d).length - 1) = true) : exec .ingestComplete s = .next { s.ingestEnded d ds 0 0 with
      mem := s.mem.hubStored (s.ingestSpoiled d ds) d.dst (s.ingestOut d), freeCtr := (s.ingestTaken ds).freeAfter 8 d.dst } := by
  have hdram : (isDram d.dst && isDram (d.dst + (s.ingestOut d).length - 1)) = true := by rw [hfirst, hlast]; rfl
  have hwritten : execIngestComplete s = .next (((s.ingestTaken ds).hubStore d.dst (s.ingestOut d)).toHostMem d.status
      (bytes8 (2 ^ 63 + 256 * (0 : Byte).toNat + (0 : Byte).toNat))) := by
    simp only [execIngestComplete, hq, href]
    exact congrArg Host.Outcome.next ((if_neg (fun h => hne (List.isEmpty_iff.mp h))).trans (if_pos hdram))
  show execIngestComplete s = _
  rw [hwritten, State.hubStore_eq]; rfl

theorem ingestRefused_of_code {d : IngestDesc} (h : d.srcFmt = 0 ∨ d.srcFmt = 15 ∨ d.dstFmt = 0 ∨ d.dstFmt = 15) :
    ingestRefused d = some (cREJECT, 0x03) := by
  rw [ingestRefused, if_pos]
  rcases h with h | h | h | h <;> simp [h]

theorem ingestRefused_none {d : IngestDesc} (h : ingestRefused d = none) : d.rows % 32 = 0 ∧ d.k % 32 = 0 := by
  rw [ingestRefused] at h
  split at h
  · cases h
  · split at h
    · cases h
    · rename_i hshape
      simp only [Bool.or_eq_true, decide_eq_true_eq, not_or, ne_eq, not_not] at hshape
      exact ⟨hshape.1.2, hshape.2⟩

theorem ingest_elements (d : IngestDesc) (ds : List IngestDesc) (s : State) (hw : s.mem.wf = true) (hq : s.dev.io.ingest = d :: ds)
    (href : ingestRefused d = none) (hd : d.dstFmt = 3 ∨ d.dstFmt = 4) (hrows : 0 < d.rows) (hk : 0 < d.k) (hfirst : isDram d.dst = true)
    (hlast : isDram (d.dst + 2 * d.rows * d.k - 1) = true) (helide : d.elide = false) :
    ∃ t, exec .ingestComplete s = .next t ∧ t.dev.io.ingest = ds ∧ t.dev.out = (d.status, bytes8 (2 ^ 63)) :: s.dev.out ∧
      (∀ i j, i < d.rows → j < d.k →
        t.mem.readNat (d.dst + i / 32 * (64 * d.k) + j / 32 * 2048 + i % 32 * 64 + j % 32 * 2) 2 =
          (convert d.srcFmt d.dstFmt 0 false (Source.elem ⟨s.freeCtr, d.src, false, 0⟩ (fmtWidth d.srcFmt / 8) (i * d.k + j))).bits % 2 ^ 16) ∧
      ∀ b, b < d.dst ∨ d.dst + 2 * d.rows * d.k ≤ b → t.mem.byte b = s.mem.byte b := by
  obtain ⟨hr32, hk32⟩ := ingestRefused_none href
  have hlen : (s.ingestOut d).length = 2 * d.rows * d.k := length_ingestBytes d hd _ hr32 hk32
  have hpos : 0 < (s.ingestOut d).length := by rw [hlen]; exact Nat.mul_pos (by omega) hk
  have hexec := exec_ingestComplete_written hq href (List.ne_nil_of_length_pos hpos) hfirst (by rw [hlen]; exact hlast)
  refine ⟨_, hexec, rfl, rfl, fun i j hi hj => ?_, fun b hb => ?_⟩
  · have hplace : d.dst + i / 32 * (64 * d.k) + j / 32 * 2048 + i % 32 * 64 + j % 32 * 2 = d.dst + ingestPlace d i j := by
      rw [ingestPlace]; simp only [Nat.add_assoc]
    have hread : (s.mem.hubStored (s.ingestSpoiled d ds) d.dst (s.ingestOut d)).readNat (d.dst + ingestPlace d i j) 2 =
        (s.mem.writeBytes d.dst (s.ingestOut d)).readNat (d.dst + ingestPlace d i j) 2 :=
      Memory.readNat_congr fun c _ _ => Memory.byte_hubStored ..
    rw [hplace]
    refine hread.trans ((ingestBytes_element hw d hd _ hr32 hk32 hi hj d.dst).trans ?_)
    rw [helide]; rfl
  · show (s.mem.hubStored _ d.dst (s.ingestOut d)).byte b = _
    rw [Memory.byte_hubStored, Memory.byte_writeBytes hw, hlen, if_neg (by omega)]

theorem ingestActs : Says.IngestActs := by
  refine ⟨fun fn d s hopen hroom => ?_, fun fn d s hopen hfull => ?_, fun d ds s hq hcode => ?_, ingest_elements,
    fun d ds s hq href hd => ?_⟩
  · have hexec : exec (.ingestDescriptor ⟨fn, d⟩) s = .next (s.modDev (fun v => { v with io := { v.io with ingest := v.io.ingest ++ [d] } })) := by
      show execIngestDescriptor ⟨fn, d⟩ s = _
      rw [execIngestDescriptor, if_neg (by simp [hopen]), if_neg (by omega)]
    exact ⟨_, hexec, rfl, rfl, rfl⟩
  · show execIngestDescriptor ⟨fn, d⟩ s = _
    rw [execIngestDescriptor, if_neg (by simp [hopen]), if_pos hfull]; rfl
  · exact ⟨_, exec_ingestComplete_refused hq (ingestRefused_of_code hcode), rfl, rfl, rfl⟩
  · intro bs hne hfirst hlast
    have hexec := exec_ingestComplete_written hq href hne hfirst hlast
    exact ⟨_, hexec, rfl, fun b => (Memory.byte_hubStored ..).trans (Memory.byte_hostStore ..).symm, rfl⟩

/-! ## Checkpoints (R150, R440) -/

theorem State.copyLine_dev (s : State) (d : CheckpointDesc) (k a : Nat) :
    (s.copyLine d k a).mem = s.mem ∧ (s.copyLine d k a).regions = s.regions ∧ (s.copyLine d k a).hub = s.hub ∧
    (s.copyLine d k a).dev.io = s.dev.io ∧
    (d.toHost = true → (s.copyLine d k a).dev.out = (d.target + 64 * k, s.checkpointLine d.cut a) :: s.dev.out ∧
      (s.copyLine d k a).dev.remote = s.dev.remote) ∧
    (d.toHost = false → (s.copyLine d k a).dev.out = s.dev.out ∧ (s.copyLine d k a).dev.remote =
      ((d.target + 64 * k) / 2 ^ 52 % 2 ^ 18, (d.target + 64 * k) % 2 ^ 52, .bytes (s.checkpointLine d.cut a)) :: s.dev.remote) := by
  rw [State.copyLine]
  cases d.toHost
  · exact ⟨rfl, rfl, rfl, rfl, fun h => absurd h (by decide), fun _ => ⟨rfl, rfl⟩⟩
  · exact ⟨rfl, rfl, rfl, rfl, fun _ => ⟨rfl, rfl⟩, fun h => absurd h (by decide)⟩

/-- A descriptor whose line was copied: it ends, or its count goes up. -/
def Device.lineCopied (v : Device) (d : CheckpointDesc) (ds : List CheckpointDesc) (k : Nat) : Device :=
  if (linesOf d).length ≤ k + 1 then { v with io := { v.io with checkpoint := ds, copied := 0 } }
  else { v with io := { v.io with copied := k + 1 } }

theorem Device.lineCopied_out (v : Device) (d : CheckpointDesc) (ds : List CheckpointDesc) (k : Nat) :
    (v.lineCopied d ds k).out = v.out ∧ (v.lineCopied d ds k).remote = v.remote := by
  rw [Device.lineCopied]
  split <;> exact ⟨rfl, rfl⟩

theorem State.checkpointLine_plain {s : State} {a : Nat} (cut : Nat) (h : s.stampedAt a = none) :
    s.checkpointLine cut a = s.mem.readBytes a 64 := by rw [State.checkpointLine, h]

theorem State.checkpointLine_stamped {s : State} {a base line cut k : Nat} (h : s.stampedAt a = some base) (ha : a = base + 320 * line)
    (hline : line < 1024) (hslot : ldasSlot s.mem base line cut = some k) :
    s.checkpointLine cut a = s.mem.readBytes (lineSlot base line k) 64 := by
  have hnum : (a - base) / 320 = line := by omega
  have hoff : (a - base) % 320 = 0 := by omega
  simp only [State.checkpointLine, h, hnum, hoff, hline, decide_true, Bool.and_self, if_true, hslot]

theorem checkpoint_copies (d : CheckpointDesc) (ds : List CheckpointDesc) (s : State) (a : Nat) (hq : s.dev.io.checkpoint = d :: ds)
    (hfloor : d.cut < s.floorAt (d.scope = .sys) 8) (hline : (linesOf d)[s.dev.io.copied]? = some a) :
    exec .checkpointCopy s = .next ((s.copyLine d s.dev.io.copied a).modDev (fun v => v.lineCopied d ds s.dev.io.copied)) := by
  show execCheckpointCopy s = _
  simp only [execCheckpointCopy, hq, hline, if_neg (Nat.not_le.mpr hfloor)]
  rfl

theorem checkpointActs : Says.CheckpointActs := by
  refine ⟨fun fn d s hopen hn => ?_, fun d ds s hq hfloor => ?_, fun d ds s a hq hfloor hline => ?_⟩
  · have hexec : exec (.checkpointDescriptor ⟨fn, d⟩) s =
        .next (s.modDev (fun v => { v with io := { v.io with checkpoint := v.io.checkpoint ++ [d] } })) := by
      show execCheckpointDescriptor ⟨fn, d⟩ s = _
      rw [execCheckpointDescriptor, if_neg (by simp [hopen, hn])]
    exact ⟨_, hexec, rfl, rfl⟩
  · show execCheckpointCopy s = _
    simp only [execCheckpointCopy, hq, if_pos hfloor]
  · obtain ⟨hmem, hregions, hhub, hio, hhost, hremote⟩ := s.copyLine_dev d s.dev.io.copied a
    obtain ⟨hout, hrem⟩ := (s.copyLine d s.dev.io.copied a).dev.lineCopied_out d ds s.dev.io.copied
    have hlt : s.dev.io.copied < (linesOf d).length := (List.getElem?_eq_some_iff.mp hline).1
    refine ⟨_, s.checkpointLine d.cut a, checkpoint_copies d ds s a hq hfloor hline, hmem, hregions, hhub, State.checkpointLine_plain d.cut,
      fun base line k h ha hl hs => State.checkpointLine_stamped h ha hl hs, fun hto => ?_, fun hto => ?_, fun hdone => ?_, fun hmore => ?_⟩
    · exact ⟨hout.trans (hhost hto).1, hrem.trans (hhost hto).2⟩
    · exact ⟨hout.trans (hremote hto).1, hrem.trans (hremote hto).2⟩
    · have hended : (s.copyLine d s.dev.io.copied a).dev.lineCopied d ds s.dev.io.copied = _ := if_pos (Nat.le_of_eq hdone)
      simp only [State.modDev, hended, and_self]
    · have hnext : (s.copyLine d s.dev.io.copied a).dev.lineCopied d ds s.dev.io.copied = _ := if_neg (by omega)
      simp only [State.modDev, hnext, hio, hq, and_self]

/-- Settles O49: ingest by where the tiles put each element's bytes, checkpoints by what one line's copy leaves. -/
theorem ingestAndCheckpointsAct : Obligations.IngestAndCheckpointsAct := ⟨ingestActs, checkpointActs⟩


/-! PROOFS. The host's launches, messages and memory accesses (O48). -/

/-! ## Launches and messages (R434, R435) -/

theorem hostLaunch_enqueues (fn prio record idAddr : Nat) (s : State) (hopen : s.hostOpen fn = true) (hprio : prio < 4)
    (hrecord : record % 64 = 0) (haddr : idAddr % 8 = 0) (hfirst : isDram record = true) (hlast : isDram (record + 255) = true)
    (hroom : (s.hub.queues.get prio []).length < 64) :
    ∃ t l, exec (.hostLaunchWrite ⟨fn, prio⟩ true record idAddr) s = .next t ∧ t.mem = s.mem ∧ t.regions = s.regions ∧
      t.hub.nextId = nextLaunchId s.hub.nextId ∧ t.hub.queues.get prio [] = s.hub.queues.get prio [] ++ [s.hub.nextId] ∧
      t.launch? s.hub.nextId = some l ∧ l.st = .queued ∧ l.prio = prio ∧
      l.rec_ = recordOf (if s.routeDown 8 record then List.replicate 32 0 else recordWords s.mem record) ∧
      t.dev.out = (if idAddr = 0 then s.dev.out else (idAddr, bytes8 s.hub.nextId) :: s.dev.out) := by
  have hexec : exec (.hostLaunchWrite ⟨fn, prio⟩ true record idAddr) s =
      .next (if idAddr = 0 then (s.enqueueLaunch prio (recordOf (s.hubRecord record)) none).2
        else (s.enqueueLaunch prio (recordOf (s.hubRecord record)) none).2.toHostMem idAddr (bytes8 s.hub.nextId)) := by
    show execHostLaunchWrite ⟨fn, prio⟩ true record idAddr s = _
    rw [execHostLaunchWrite, if_neg (by simp [hopen, hprio]), if_neg (by simp [hrecord, haddr, hfirst, hlast]), if_neg (by simpa using hroom)]
    rfl
  by_cases hid : idAddr = 0
  · rw [if_pos hid] at hexec ⊢
    exact ⟨_, _, hexec, rfl, rfl, rfl, Map.get_set_same .., Map.get?_set_same .., rfl, rfl, rfl, rfl⟩
  · rw [if_neg hid] at hexec ⊢
    exact ⟨_, _, hexec, rfl, rfl, rfl, Map.get_set_same .., Map.get?_set_same .., rfl, rfl, rfl, rfl⟩

theorem not_mem_unqueue (h : Hub) (id p : Nat) : id ∉ (h.unqueue id).queues.get p [] := by
  show id ∉ Map.get (h.queues.map (fun e => (e.1, e.2.filter (fun x => x ≠ id)))) p []
  induction h.queues with
  | nil => exact List.not_mem_nil
  | cons e m ih =>
    obtain ⟨k, q⟩ := e
    rw [List.map_cons, Map.get]
    split
    · exact fun hmem => absurd rfl (of_decide_eq_true (List.mem_filter.mp hmem).2)
    · exact ih

/-- A launch that ends: what of the state a completion record and the queues show. -/
theorem State.finish_spec (s : State) (id : Nat) (l : Launch) (cause sub : Byte) (place dropped cycles : Nat) :
    (s.finish id l cause sub place dropped cycles).mem = s.mem ∧ (s.finish id l cause sub place dropped cycles).regions = s.regions ∧
    (s.finish id l cause sub place dropped cycles).launch? id = some { l with st := .done } ∧
    (∀ p, id ∉ (s.finish id l cause sub place dropped cycles).hub.queues.get p []) ∧
    (s.finish id l cause sub place dropped cycles).hub.completions = s.hub.completions ++
      [⟨id, l.rec_.record.toNat, cause, sub, place, dropped, cycles, (s.die 8).l⟩] := by
  unfold State.finish State.unseat State.dropParked State.countPkg State.setLaunch State.modHub State.launch?
  exact ⟨rfl, rfl, Map.get?_set_same .., not_mem_unqueue _ id, rfl⟩

theorem hostLaunchesAct : Says.HostLaunchesAct := by
  refine ⟨hostLaunch_enqueues, fun fn prio ok record idAddr s hopen hprio hbad => ?_,
    fun fn prio record idAddr s hopen hprio hrecord haddr hfirst hlast hfull => ?_, fun fn id s l hopen hl hqueued => ?_,
    fun fn ok id s hopen hbad => ?_, fun fn msg dest status s hopen hroom => ?_⟩
  · show execHostLaunchWrite ⟨fn, prio⟩ ok record idAddr s = _
    rw [execHostLaunchWrite, if_neg (by simp [hopen, hprio]), if_pos]
    · rfl
    · rcases hbad with h | h | h | h | h <;> simp [h]
  · show execHostLaunchWrite ⟨fn, prio⟩ true record idAddr s = _
    rw [execHostLaunchWrite, if_neg (by simp [hopen, hprio]), if_neg (by simp [hrecord, haddr, hfirst, hlast]), if_pos (by simpa using hfull)]
    rfl
  · have hexec : exec (.launchCancel true ⟨fn, id⟩) s = .next (s.finish id l cPREEMPT 0x01 0 0 0) := by
      show execLaunchCancel true ⟨fn, id⟩ s = _
      simp [execLaunchCancel, hopen, hl, hqueued]
    obtain ⟨hmem, hregions, hlaunch, hqueues, hcompletions⟩ := s.finish_spec id l cPREEMPT 0x01 0 0 0
    exact ⟨_, _, hexec, hmem, hregions, hlaunch, rfl, hqueues, hcompletions⟩
  · show execLaunchCancel ok ⟨fn, id⟩ s = _
    rw [execLaunchCancel, if_neg (by simp [hopen])]
    cases hl : s.launch? id with
    | none => rfl
    | some l =>
      have hno : (ok && decide (l.st = .queued)) = false := by
        rcases hbad with h | h
        · rw [h]; rfl
        · rw [decide_eq_false (h l hl), Bool.and_false]
      simp only [hno, Bool.false_eq_true, if_false]; rfl
  · have hexec : exec (.hostMessageWrite msg ⟨fn, dest⟩ status) s = .next (s.modHub (fun h => { h with outbox := h.outbox ++
        [⟨⟨0, (List.range 8).flatMap (fun k => bytes8 (msg.getD k 0).toNat)⟩, dest % 2 ^ 32, none, status⟩] })) := by
      show execHostMessageWrite msg ⟨fn, dest⟩ status s = _
      rw [execHostMessageWrite, if_neg (by simp [hopen]), if_neg (by omega)]
    have hpieces : ∀ k, (bytes8 (msg.getD k 0).toNat).length = 8 := fun k => length_bytes8 _
    refine ⟨_, _, hexec, rfl, rfl, rfl, rfl, rfl, rfl, ?_, fun k hk => ?_⟩
    · exact length_flatMap_pieces hpieces (List.range 8)
    · exact flatMap_piece hpieces (List.getElem?_range hk)

/-! ## BAR2 (R431, R432) -/

theorem exec_hostWrite {fn off size : Nat} {data : List Byte} {s : State} (hopen : s.hostOpen fn = true) (hsize : 0 < size)
    (hlen : data.length = size) (hbar : off + size ≤ 2 ^ s.dev.barBits) (hfirst : isDram (s.dev.winbase.toNat + off) = true)
    (hlast : isDram (s.dev.winbase.toNat + off + size - 1) = true) :
    exec (.hostBar2Access true ⟨fn, off⟩ size data) s = .next (s.hostWrite (s.dev.winbase.toNat + off) data) := by
  have htake : data.take size = data := by rw [← hlen, List.take_length]
  have hne : data.isEmpty = false := List.isEmpty_eq_false_iff.mpr (List.ne_nil_of_length_pos (by omega))
  show execHostBar2Access true ⟨fn, off⟩ size data s = _
  rw [execHostBar2Access, if_neg (by simp [hopen]), if_neg, if_pos rfl, htake, if_neg (by rw [hne]; decide)]
  simp only [hfirst, hlast, Bool.not_true, Bool.or_false, Bool.or_eq_true, decide_eq_true_eq, not_or]
  exact ⟨by omega, by omega⟩

theorem hostWrite_lands (fn off size : Nat) (data : List Byte) (s : State) (hw : s.mem.wf = true) (hopen : s.hostOpen fn = true) (hsize : 0 < size)
    (hlen : data.length = size) (hbar : off + size ≤ 2 ^ s.dev.barBits) (hfirst : isDram (s.dev.winbase.toNat + off) = true)
    (hlast : isDram (s.dev.winbase.toNat + off + size - 1) = true) (hup : s.routeDown 8 (s.dev.winbase.toNat + off) = false) :
    ∃ t, exec (.hostBar2Access true ⟨fn, off⟩ size data) s = .next t ∧ t.regions = s.regions ∧ t.hub = s.hub ∧
      if s.stampedAt (s.dev.winbase.toNat + off) = none ∧ s.stampedAt (s.dev.winbase.toNat + off + size - 1) = none then
        t.dev = s.dev ∧
        (∀ k b, data[k]? = some b → t.mem.byte (s.dev.winbase.toNat + off + k) = b) ∧
        (∀ b, b < s.dev.winbase.toNat + off ∨ s.dev.winbase.toNat + off + size ≤ b → t.mem.byte b = s.mem.byte b) ∧
        (∀ w, t.mem.poisoned (8 * w) = ((s.mem.poisoned (8 * w) && !(decide (s.dev.winbase.toNat + off ≤ 8 * w) &&
            decide (8 * w + 8 ≤ s.dev.winbase.toNat + off + size))) ||
          ((s.carried 8 (s.dev.winbase.toNat + off) false).1 && decide (s.dev.winbase.toNat + off < 8 * w + 8) &&
            decide (8 * w < s.dev.winbase.toNat + off + size))))
      else t = { s with dev := { s.dev with hosterr := s.dev.hosterr + 1 } } := by
  have hexec := exec_hostWrite (data := data) hopen hsize hlen hbar hfirst hlast
  generalize s.dev.winbase.toNat + off = a at hexec hfirst hlast hup ⊢
  by_cases hplain : s.stampedAt a = none ∧ s.stampedAt (a + size - 1) = none
  · have hwrite : s.hostWrite a data = s.hubStore a data := by
      rw [State.hostWrite, if_neg (by simp [hlen, hplain.1, hplain.2]), if_neg (by simp [hup])]
    rw [hwrite, State.hubStore_eq] at hexec
    refine ⟨_, hexec, rfl, rfl, ?_⟩
    rw [if_pos hplain]
    refine ⟨rfl, fun k b hk => ?_, fun b hb => ?_, fun w => ?_⟩
    · show (s.mem.hubStored _ a data).byte _ = b
      rw [Memory.byte_hubStored, Memory.byte_writeBytes_at hw a hk]
    · show (s.mem.hubStored _ a data).byte b = _
      rw [Memory.byte_hubStored, Memory.byte_writeBytes hw, if_neg (by omega)]
    · show (s.mem.hubStored _ a data).poisoned _ = _
      rw [Memory.poisoned_hubStored hw, hlen]
  · have hwrite : s.hostWrite a data = s.hostError := by
      rw [not_and_or] at hplain
      rw [State.hostWrite, if_pos]
      simpa [hlen, Option.ne_none_iff_isSome] using hplain
    rw [hwrite] at hexec
    refine ⟨_, hexec, rfl, rfl, ?_⟩
    rw [if_neg hplain]; rfl

theorem State.stampedAt_of_backing {s : State} {a : Nat} (h : (s.backing? a).isSome = true) : (s.stampedAt a).isSome = true := by
  obtain ⟨b, hb⟩ := Option.isSome_iff_exists.mp h
  rw [State.stampedAt, hb]; rfl

theorem State.hostRead_plain (s : State) (a n : Nat) (h : ∀ k, k < n → s.stampedAt (a + k) = none) :
    s.hostRead a n = some ((List.range n).map (fun k => s.mem.byte (a + k))) := by
  induction n generalizing a with
  | zero => rfl
  | succ n ih =>
    have hfirst := h 0 (Nat.succ_pos n)
    rw [Nat.add_zero] at hfirst
    rw [State.hostRead, hfirst, ih (a + 1) (fun k hk => by rw [Nat.add_right_comm, Nat.add_assoc]; exact h (k + 1) (by omega)),
      List.range_succ_eq_map, List.map_cons, List.map_map]
    refine congrArg some (congrArg₂ List.cons rfl (List.map_congr_left fun k _ => ?_))
    show s.mem.byte (a + 1 + k) = s.mem.byte (a + (k + 1))
    rw [Nat.add_right_comm, Nat.add_assoc]

theorem exec_hostRead {fn off size : Nat} {data : List Byte} {s : State} (hopen : s.hostOpen fn = true) (hsize : 0 < size)
    (hbar : off + size ≤ 2 ^ s.dev.barBits) (hfirst : isDram (s.dev.winbase.toNat + off) = true)
    (hlast : isDram (s.dev.winbase.toNat + off + size - 1) = true) (hup : s.routeDown 8 (s.dev.winbase.toNat + off) = false) :
    exec (.hostBar2Access false ⟨fn, off⟩ size data) s = .next ((s.hostRead (s.dev.winbase.toNat + off) size).elim s.hostRetry (fun bs =>
      s.modDev (fun d => { d with reads := (s.dev.winbase.toNat + off, bs) :: d.reads }))) := by
  show execHostBar2Access false ⟨fn, off⟩ size data s = _
  rw [execHostBar2Access, if_neg (by simp [hopen]), if_neg, if_neg (by decide), if_neg (by simp [hup])]
  · cases s.hostRead (s.dev.winbase.toNat + off) size <;> rfl
  · simp only [hfirst, hlast, Bool.not_true, Bool.or_false, Bool.or_eq_true, decide_eq_true_eq, not_or]
    exact ⟨by omega, by omega⟩

theorem hostMemoryAccesses : Says.HostMemoryAccesses := by
  refine ⟨hostWrite_lands, fun s die a => ?_, fun fn off size data s => ?_, fun fn off size data s => ?_⟩
  · rw [State.carried_eq, Bool.false_or]
  · intro a hopen hsize hlen hbar hfirst hlast hbacking
    rw [exec_hostWrite hopen hsize hlen hbar hfirst hlast, State.hostWrite, if_pos]
    · rfl
    · rw [State.stampedAt_of_backing hbacking]; rfl
  · intro a hopen hsize hbar hfirst hlast hup
    have hexec := exec_hostRead (data := data) hopen hsize hbar hfirst hlast hup
    cases hread : s.hostRead a size with
    | none =>
      rw [show s.hostRead (s.dev.winbase.toNat + off) size = none from hread] at hexec
      refine ⟨_, hexec, rfl, rfl, rfl, fun hplain => ?_⟩
      rw [s.hostRead_plain a size hplain] at hread
      cases hread
    | some bs =>
      rw [show s.hostRead (s.dev.winbase.toNat + off) size = some bs from hread] at hexec
      refine ⟨_, hexec, rfl, rfl, rfl, fun hplain => ?_⟩
      rw [s.hostRead_plain a size hplain] at hread
      cases hread; rfl


/-! PROOFS. A region's stores put in place, and commands that act on the region as an image holds it (R156). -/

/-! ## The stores of a region -/

theorem Memory.wf_setBytes {m : Memory} (hw : m.wf = true) (cs : List Host.Cell) :
    (cs.foldl (fun (m : Memory) c => m.setByte c.1 c.2) m).wf = true :=
  Memory.wf_foldl (fun _ _ h => Memory.wf_setByte h _ _) _ hw

theorem Memory.byte_setBytes_other {m : Memory} (hw : m.wf = true) {cs : List Host.Cell} {a : Nat} (h : ∀ c ∈ cs, c.1 ≠ a) :
    (cs.foldl (fun (m : Memory) c => m.setByte c.1 c.2) m).byte a = m.byte a := by
  induction cs generalizing m with
  | nil => rfl
  | cons c cs ih =>
    rw [List.foldl_cons, ih (Memory.wf_setByte hw _ _) (fun d hd => h d (List.mem_cons_of_mem _ hd)), Memory.byte_setByte hw,
      if_neg (h c (List.mem_cons_self ..)).symm]

theorem Memory.byte_setBytes {m : Memory} (hw : m.wf = true) {cs : List Host.Cell} {lo : Nat} (hcs : cellsWf lo cs = true) (a : Nat) :
    (cs.foldl (fun (m : Memory) c => m.setByte c.1 c.2) m).byte a = if cellAt cs a = blank then m.byte a else cellAt cs a := by
  induction cs generalizing m lo with
  | nil => rw [cellAt, if_pos rfl]; rfl
  | cons c cs ih =>
    obtain ⟨k, b⟩ := c
    simp only [cellsWf, Bool.and_eq_true, decide_eq_true_eq, bne_iff_ne] at hcs
    obtain ⟨⟨_, hb⟩, hrest⟩ := hcs
    rw [List.foldl_cons, ih (Memory.wf_setByte hw _ _) hrest, Memory.byte_setByte hw, cellAt]
    by_cases hk : k = a
    · subst hk
      rw [cellAt_low hrest (Nat.lt_succ_self k), if_pos rfl, if_pos rfl, if_pos rfl, if_neg hb]
    · rw [if_neg hk, if_neg (Ne.symm hk)]

@[simp] theorem Memory.byte_poisons (m : Memory) (ws : List Nat) (a : Nat) :
    (ws.foldl (fun (m : Memory) w => m.setPoison (8 * w) true) m).byte a = m.byte a := by
  induction ws generalizing m with
  | nil => rfl
  | cons w ws ih => rw [List.foldl_cons, ih, Memory.byte_setPoison]

theorem Memory.poisoned_poisons {m : Memory} (hw : m.wf = true) (ws : List Nat) (a : Nat) :
    (ws.foldl (fun (m : Memory) w => m.setPoison (8 * w) true) m).poisoned a = (ws.contains (a / 8) || m.poisoned a) := by
  induction ws generalizing m with
  | nil => rfl
  | cons w ws ih =>
    rw [List.foldl_cons, ih (Memory.wf_setPoison hw _ _), Memory.poisoned_setPoison hw, Nat.mul_div_cancel_left w (by omega), List.contains_cons]
    by_cases h : a / 8 = w
    · rw [if_pos h, h]; simp
    · have hne : (a / 8 == w) = false := beq_eq_false_iff_ne.mpr h
      rw [if_neg h, hne, Bool.false_or]

theorem Memory.poisoned_setBytes (m : Memory) (cs : List Host.Cell) (a : Nat) :
    (cs.foldl (fun (m : Memory) c => m.setByte c.1 c.2) m).poisoned a = m.poisoned a := by
  induction cs generalizing m with
  | nil => rfl
  | cons c cs ih => rw [List.foldl_cons, ih, Memory.poisoned_setByte]

theorem inStores_word (r a : Nat) : inStores r (8 * (a / 8)) = inStores r a := by
  have h1 : ∀ b, 8 * b ≤ 8 * (a / 8) ↔ 8 * b ≤ a := fun b => by omega
  have h2 : ∀ b, 8 * (a / 8) < 8 * b ↔ a < 8 * b := fun b => by omega
  have hs : ∀ q, 2 ^ 52 + q * 2 ^ 24 = 8 * (2 ^ 49 + q * 2 ^ 21) := fun q => by omega
  have hr : ∀ q, rstoreBase q = 8 * (2 ^ 50 + q * 2 ^ 20) := fun q => by rw [rstoreBase]; omega
  unfold inStores
  rw [hs, hs, hr, hr, decide_eq_decide.mpr (h1 _), decide_eq_decide.mpr (h2 _), decide_eq_decide.mpr (h1 _), decide_eq_decide.mpr (h2 _)]

/-- Memory without the stores of a region. -/
def Memory.without (m : Memory) (r : Nat) : Memory :=
  ⟨m.cells.filter (fun c => !inStores r c.1), m.poison.filter (fun w => !inStores r (8 * w))⟩

theorem Memory.wf_without {m : Memory} (hw : m.wf = true) (r : Nat) : (m.without r).wf = true := Memory.wf_filter hw _ _

theorem Memory.withStores_eq (m : Memory) (r : Nat) (src : Memory) : m.withStores r src =
    (src.poison.filter (fun w => inStores r (8 * w))).foldl (fun (m : Memory) w => m.setPoison (8 * w) true)
      ((src.cells.filter (fun c => inStores r c.1)).foldl (fun (m : Memory) c => m.setByte c.1 c.2) (m.without r)) := rfl

theorem Memory.byte_without (m : Memory) (r a : Nat) : (m.without r).byte a = if inStores r a = true then 0 else m.byte a := by
  rw [Memory.without, Memory.byte_only m (fun a => !inStores r a)]
  cases inStores r a <;> rfl

theorem Memory.byte_withStores_out {m : Memory} (hw : m.wf = true) {r a : Nat} (src : Memory) (h : inStores r a = false) :
    (m.withStores r src).byte a = m.byte a := by
  rw [Memory.withStores_eq, Memory.byte_poisons, Memory.byte_setBytes_other (Memory.wf_without hw r), Memory.byte_without, if_neg (by simp [h])]
  intro c hc hca
  have hin := (List.mem_filter.mp hc).2
  rw [hca, h] at hin
  cases hin

theorem Memory.byte_withStores_in {m src : Memory} (hw : m.wf = true) (hs : src.wf = true) {r a : Nat} (h : inStores r a = true) :
    (m.withStores r src).byte a = src.byte a := by
  have hcell : cellAt (src.cells.filter (fun c => inStores r c.1)) a = cellAt src.cells a := by
    rw [cellAt_filter (inStores r), if_pos h]
  have hcs := cellsWf_filter (fun c => inStores r c.1) (Memory.wf_iff.mp hs).1
  rw [Memory.withStores_eq, Memory.byte_poisons, Memory.byte_setBytes (Memory.wf_without hw r) hcs, hcell, Memory.byte_without, if_pos h]
  by_cases hb : cellAt src.cells a = blank
  · rw [if_pos hb, Memory.byte, hb]; rfl
  · rw [if_neg hb]; rfl

theorem Memory.poisoned_withStores {m : Memory} (hw : m.wf = true) (r : Nat) (src : Memory) (a : Nat) :
    (m.withStores r src).poisoned a = if inStores r a = true then src.poisoned a else m.poisoned a := by
  rw [Memory.withStores_eq, Memory.poisoned_poisons (Memory.wf_setBytes (Memory.wf_without hw r) _), Memory.poisoned_setBytes,
    contains_filter_eq (fun w => inStores r (8 * w)), inStores_word, Memory.poisoned, Memory.without,
    contains_filter_eq (fun w => !inStores r (8 * w)), inStores_word]
  cases inStores r a <;> simp [Memory.poisoned]

/-! ## Commands of a launch that was swapped out -/

theorem State.viewOf_mem (s : State) (r : Nat) (f : FImage) : (s.viewOf r f).mem = s.mem.withStores r f.mem := rfl
theorem State.unview_mem (t s : State) (r a : Nat) (f : FImage) : (t.unview s r a f).mem = t.mem.withStores r s.mem := rfl

/-- A step on a view that leaves other addresses leaves them, and the region's stores stand as before. -/
theorem sameBytes_unview {s t : State} {r a : Nat} {f : FImage} (hs : s.mem.wf = true) (ht : t.mem.wf = true)
    (h : ∀ b, inStores r b = false → t.mem.byte b = (s.viewOf r f).mem.byte b ∧ t.mem.poisoned b = (s.viewOf r f).mem.poisoned b) :
    sameBytes s (t.unview s r a f) := fun b => by
  rw [State.unview_mem, Memory.poisoned_withStores ht]
  by_cases hin : inStores r b = true
  · rw [Memory.byte_withStores_in ht hs hin, if_pos hin]; exact ⟨rfl, rfl⟩
  · have hout : inStores r b = false := Bool.eq_false_iff.mpr hin
    rw [Memory.byte_withStores_out ht _ hout, if_neg hin, (h b hout).1, (h b hout).2, State.viewOf_mem, Memory.byte_withStores_out hs _ hout,
      Memory.poisoned_withStores hs, if_neg hin]
    exact ⟨rfl, rfl⟩

@[simp] theorem State.echo_mem (s : State) (r : Nat) : (s.echo r).mem = s.mem := rfl

/-- A step of a command that touches no memory. -/
theorem sameBytes_forCmd {s : State} (r : Nat) (c : Cmd) {go : State → State} (hw : s.mem.wf = true) (hgo : ∀ t, (go t).mem = t.mem) :
    sameBytes s (s.forCmd r c go) := by
  rw [State.forCmd]
  split
  · intro b
    rw [State.echo_mem, hgo]; exact ⟨rfl, rfl⟩
  · refine sameBytes_unview hw ?_ fun b _ => ?_
    · rw [hgo]; exact Memory.wf_withStores hw _ _
    · rw [hgo]; exact ⟨rfl, rfl⟩


/-! PROOFS. The registers of BAR0, and what a closed module does (O48). -/

/-! ## Resumes (R398, R400) -/

theorem exec_portResume {fn r n : Nat} {s : State} (hopen : s.hostOpen fn = true) (hr : r < 80) (hn : n < 20) :
    exec (.portResumeWrite ⟨fn, r⟩ n) s = .next (s.resumePort r n) := by
  show execPortResumeWrite ⟨fn, r⟩ n s = _
  rw [execPortResumeWrite, if_pos (by simp [hopen, hr, hn])]

/-- A withheld request of a port walks again. -/
def EUnit.walkAgain (x : EUnit) : EUnit :=
  { x with reqs := x.reqs.map (fun q => if q.stage = .withheld then { q with stage := .walking } else q) }

theorem EUnit.walkAgain_stage (x : EUnit) : ∀ q ∈ x.walkAgain.reqs, q.stage ≠ .withheld := fun q hq => by
  obtain ⟨p, -, rfl⟩ := List.mem_map.mp hq
  split <;> simp_all

theorem portResume_memory (fn r n : Nat) (s : State) (hopen : s.hostOpen fn = true) (hr : r < 80) (hn : n < 4) (hthaw : (s.region r).frozen = none)
    (hheld : (s.unit ⟨r, 4 * n, 19⟩).reqs.any (fun q => q.stage = .withheld) = true) :
    ∃ t, exec (.portResumeWrite ⟨fn, r⟩ n) s = .next t ∧ sameBytes s t ∧ (∀ q ∈ (t.unit ⟨r, 4 * n, 19⟩).reqs, q.stage ≠ .withheld) ∧
      (t.region r).heldSince.get? n = none ∧ ∀ v, v ≠ (⟨r, 4 * n, 19⟩ : UnitId) → t.unit v = s.unit v := by
  have hresume : s.resumePort r n = ((s.modUnit ⟨r, 4 * n, 19⟩ EUnit.walkAgain).countPort r n 10 1).modRegion r (fun R =>
        { R with heldSince := R.heldSince.del n }) := by
    rw [State.resumePort, if_neg (by simp [hthaw]), if_pos hn]
    exact if_pos hheld
  have hcount := State.countPort_onlyCounts (s.modUnit ⟨r, 4 * n, 19⟩ EUnit.walkAgain) r n 10 1
  have hunit : ∀ v, (((s.modUnit ⟨r, 4 * n, 19⟩ EUnit.walkAgain).countPort r n 10 1).modRegion r (fun R =>
      { R with heldSince := R.heldSince.del n })).unit v = (s.modUnit ⟨r, 4 * n, 19⟩ EUnit.walkAgain).unit v := fun v => by
    exact hcount.unit v
  refine ⟨_, (exec_portResume hopen hr (by omega)).trans (congrArg _ hresume), fun a => ?_, ?_, ?_, fun v hv => ?_⟩
  · rw [State.modRegion_mem, hcount.rest]; exact ⟨rfl, rfl⟩
  · rw [hunit, State.unit_modUnit_same]; exact EUnit.walkAgain_stage _
  · rw [State.region_modRegion_same]; exact Map.get?_del_same _ _
  · rw [hunit, State.unit_modUnit_other _ hv]

/-- The command of a resumed stream port, its region and its handle. -/
def State.resumeCmd (s : State) (r n : Nat) (c : Cmd) : State :=
  ((s.modRegion r (fun R => { R with heldSince := R.heldSince.del n })).modCmd r c.tick (fun d =>
    { d with held := false, walked := false })).modHandleOf r c (fun x => { x with held := false })

@[simp] theorem State.resumeCmd_mem (s : State) (r n : Nat) (c : Cmd) : (s.resumeCmd r n c).mem = s.mem := rfl
@[simp] theorem State.resumeCmd_units (s : State) (r n : Nat) (c : Cmd) : (s.resumeCmd r n c).units = s.units := rfl

theorem State.modHandleOf_cmds (s : State) (r q : Nat) (c : Cmd) (f : Handle → Handle) :
    ((s.modHandleOf r c f).region q).cmds = (s.region q).cmds := by
  rw [State.modHandleOf, State.setHandle, State.region_modRegion]
  split
  · next h => rw [h]
  · rfl

theorem State.resumeCmd_cmds {s : State} {r : Nat} (n : Nat) {c : Cmd} (hc : c ∈ (s.region r).cmds) :
    ∃ d ∈ ((s.resumeCmd r n c).region r).cmds, d.tick = c.tick ∧ d.held = false ∧ d.done = c.done := by
  refine ⟨{ c with held := false, walked := false }, ?_, rfl, rfl, rfl⟩
  rw [State.resumeCmd, State.modHandleOf_cmds, State.modCmd, State.region_modRegion_same, State.region_modRegion_same]
  exact List.mem_map.mpr ⟨c, hc, if_pos rfl⟩

theorem State.forCmd_units {s : State} (r : Nat) (c : Cmd) {go : State → State} (h : ∀ t, (go t).units = t.units) :
    (s.forCmd r c go).units = s.units := by
  rw [State.forCmd]
  split
  · exact h s
  · exact h _

/-- The commands of a region after a step for one of them, as the step left them. -/
theorem State.forCmd_cmds (s : State) (r : Nat) (c : Cmd) (go : State → State) :
    ∃ v, (v.region r).cmds = (s.region r).cmds ∧ ((s.forCmd r c go).region r).cmds = ((go v).region r).cmds := by
  rw [State.forCmd]
  split
  · exact ⟨s, rfl, rfl⟩
  · next a f _ =>
    refine ⟨s.viewOf r f, ?_, ?_⟩
    · show (Region.cmds (Map.get (s.regions.set r _) r _)) = _
      rw [Map.get_set_same]
    · show (Region.cmds (Map.get (Map.set _ r _) r _)) = _
      rw [Map.get_set_same]

theorem portResume_stream (fn r n : Nat) (s : State) (c : Cmd) (hw : s.mem.wf = true) (hopen : s.hostOpen fn = true) (hr : r < 80) (h4 : 4 ≤ n)
    (hn : n < 20) (hc : (s.region r).cmds.find? (fun c => c.port = n - 4 && c.held) = some c) :
    ∃ t, exec (.portResumeWrite ⟨fn, r⟩ n) s = .next t ∧ sameBytes s t ∧ t.units = s.units ∧
      ∃ d ∈ (t.region r).cmds, d.tick = c.tick ∧ d.held = false ∧ d.done = c.done := by
  have hresume : s.resumePort r n = s.forCmd r c (fun s => s.resumeCmd r n c) := by
    rw [State.resumePort, if_neg (by simp; omega), if_neg (by omega), hc]; rfl
  refine ⟨_, (exec_portResume hopen hr hn).trans (congrArg _ hresume), sameBytes_forCmd r c hw fun t => rfl,
    State.forCmd_units r c fun t => rfl, ?_⟩
  obtain ⟨v, hv, ht⟩ := State.forCmd_cmds s r c (fun s => s.resumeCmd r n c)
  rw [ht]
  exact State.resumeCmd_cmds n (hv ▸ List.mem_of_find?_eq_some hc)

theorem portResume_frozen (fn r n : Nat) (s : State) (hn : n < 4) (hfrozen : (s.region r).frozen.isSome = true) :
    exec (.portResumeWrite ⟨fn, r⟩ n) s = .next s := by
  show execPortResumeWrite ⟨fn, r⟩ n s = _
  rw [execPortResumeWrite]
  split
  · rw [State.resumePort, if_pos (by simp [hn, hfrozen])]
  · rfl


/-! PROOFS. Register writes of BAR0 and their read-back (O48). -/

/-! ## Halves and alignment of a register -/

theorem lowMask_getLsbD (i : Nat) : (0xFFFFFFFF : Word).getLsbD i = decide (i < 32) := by
  rw [show (0xFFFFFFFF : Word) = (BitVec.allOnes 32).setWidth 64 from rfl, BitVec.getLsbD_setWidth, BitVec.getLsbD_allOnes]
  by_cases h : i < 64 <;> simp [h]
  omega

theorem withLowHalf (w v : Word) : (w &&& ~~~((0xFFFFFFFF <<< 0 : Nat) : Word)) ||| ((v &&& 0xFFFFFFFF) <<< 0) =
    w.extractLsb' 32 32 ++ v.setWidth 32 := by
  rw [show ((0xFFFFFFFF <<< 0 : Nat) : Word) = 0xFFFFFFFF from rfl]
  refine BitVec.eq_of_getLsbD_eq fun i hi => ?_
  simp only [BitVec.shiftLeft_zero, BitVec.getLsbD_or, BitVec.getLsbD_and, BitVec.getLsbD_not, lowMask_getLsbD, BitVec.getLsbD_append,
    BitVec.getLsbD_extractLsb', BitVec.getLsbD_setWidth, hi]
  by_cases h : i < 32
  · simp [h]
  · simp [h, show 32 + (i - 32) = i by omega, show i - 32 < 32 by omega]

theorem withHighHalf (w v : Word) : (w &&& ~~~((0xFFFFFFFF <<< 32 : Nat) : Word)) ||| ((v &&& 0xFFFFFFFF) <<< 32) =
    v.setWidth 32 ++ w.setWidth 32 := by
  rw [show ((0xFFFFFFFF <<< 32 : Nat) : Word) = (0xFFFFFFFF : Word) <<< 32 from rfl]
  refine BitVec.eq_of_getLsbD_eq fun i hi => ?_
  simp only [BitVec.getLsbD_shiftLeft, BitVec.getLsbD_or, BitVec.getLsbD_and, BitVec.getLsbD_not, lowMask_getLsbD, BitVec.getLsbD_append,
    BitVec.getLsbD_setWidth, hi]
  by_cases h : i < 32
  · simp [h]
  · simp [h, show i - 32 < 32 by omega]

theorem toNat_andNot_mask (v : Word) (b : Nat) :
    (v &&& ~~~(BitVec.ofNat 64 (2 ^ b - 1))).toNat = v.toNat / 2 ^ b * 2 ^ b := by
  have hshift : v &&& ~~~(BitVec.ofNat 64 (2 ^ b - 1)) = (v >>> b) <<< b := by
    refine BitVec.eq_of_getLsbD_eq fun i hi => ?_
    simp only [BitVec.getLsbD_shiftLeft, BitVec.getLsbD_and, BitVec.getLsbD_not, BitVec.getLsbD_ofNat, BitVec.getLsbD_ushiftRight,
      Nat.testBit_two_pow_sub_one, hi]
    by_cases h : i < b
    · simp [h]
    · simp [h, show b + (i - b) = i by omega]
  have hle : v.toNat / 2 ^ b * 2 ^ b ≤ v.toNat := Nat.div_mul_le_self _ _
  rw [hshift, BitVec.toNat_shiftLeft, BitVec.toNat_ushiftRight, Nat.shiftRight_eq_div_pow, Nat.shiftLeft_eq,
    Nat.mod_eq_of_lt (lt_of_le_of_lt hle v.isLt)]

/-! ## Register writes -/

theorem exec_registerWrite8 {fn : Nat} {s : State} (hopen : s.hostOpen fn = true) (off : Nat) (v : Word) :
    exec (.registerWrite ⟨fn, off, 8, false⟩ v) s = .next (s.writeReg off v) := by
  show execRegisterWrite ⟨fn, off, 8, false⟩ v s = _
  rw [execRegisterWrite, if_neg (by simp [hopen])]; rfl

theorem exec_registerWrite4 {fn : Nat} {s : State} (hopen : s.hostOpen fn = true) {off : Nat} (hoff : off % 4 = 0) (v : Word) :
    exec (.registerWrite ⟨fn, off, 4, false⟩ v) s = .next (s.writeHalf fn off v) := by
  show execRegisterWrite ⟨fn, off, 4, false⟩ v s = _
  rw [execRegisterWrite, if_neg (by simp [hopen])]
  exact (if_neg (by simp)).trans ((if_neg (by show ¬ (4 = 8); omega)).trans (if_pos (by simp [hoff])))

theorem exec_registerWrite_closed {fn : Nat} {s : State} (hopen : s.hostOpen fn = false) (p : BarPlace) (v : Word) :
    exec (.registerWrite ⟨fn, p⟩ v) s = .next s := by
  show execRegisterWrite ⟨fn, p⟩ v s = _
  rw [execRegisterWrite, if_pos (by simp [hopen])]

/-- A 4-byte write of a register that is no action writes the register with one half replaced. -/
theorem State.writeHalf_low {off : Nat} (s : State) (fn : Nat) (v : Word) (hoff : off % 8 = 0) (haction : isActionReg off = false) :
    s.writeHalf fn off v = s.writeReg off ((s.bar0Word fn off).extractLsb' 32 32 ++ v.setWidth 32) := by
  have hbase : off / 8 * 8 = off := by omega
  have hshift : halfShift off = 0 := by unfold halfShift; omega
  rw [State.writeHalf]
  simp only [hbase, hshift]
  rw [if_neg (by simp [haction]), withLowHalf]

theorem State.writeHalf_high {off : Nat} (s : State) (fn : Nat) (v : Word) (hoff : off % 8 = 0) (haction : isActionReg off = false) :
    s.writeHalf fn (off + 4) v = s.writeReg off (v.setWidth 32 ++ (s.bar0Word fn off).setWidth 32) := by
  have hbase : (off + 4) / 8 * 8 = off := by omega
  have hshift : halfShift (off + 4) = 32 := by unfold halfShift; omega
  rw [State.writeHalf]
  simp only [hbase, hshift]
  rw [if_neg (by simp [haction]), withHighHalf]

theorem evec_write (fn r : Nat) (v : Word) (s : State) (hopen : s.hostOpen fn = true) (hr : r < 80) :
    ∃ t, exec (.registerWrite ⟨fn, 0x100000 + 0x1000 * r, 8, false⟩ v) s = .next t ∧ (t.core r).evec = v &&& ~~~3 ∧ t.mem = s.mem ∧
      t.hub = s.hub ∧ t.dev = s.dev ∧ (∀ q, q ≠ r → t.region q = s.region q) ∧ ∀ a, (t.core r).read a = (s.core r).read a := by
  have hwrite : s.writeReg (0x100000 + 0x1000 * r) v = s.modCore r (fun c => { c with evec := v &&& ~~~3 }) := by
    rw [State.writeReg, if_neg (by omega), if_neg (by omega), if_neg (by omega), if_neg (by omega), if_neg (by simp; omega),
      if_pos (by simp; omega), show (0x100000 + 0x1000 * r - 0x100000) / 0x1000 = r by omega,
      show (0x100000 + 0x1000 * r) % 0x1000 / 8 = 0 by omega]
    rfl
  refine ⟨_, (exec_registerWrite8 hopen _ v).trans (congrArg _ hwrite), ?_, rfl, rfl, rfl, fun q hq => State.region_modRegion_other _ hq _, ?_⟩
  · rw [State.core_modCore_same]
  · intro a; rw [State.core_modCore_same]; rfl

theorem winbase_write (fn : Nat) (v : Word) (s : State) (hopen : s.hostOpen fn = true) (hb : s.dev.barBits ≤ 39) :
    ∃ t, exec (.registerWrite ⟨fn, 0x40, 8, false⟩ v) s = .next t ∧ t.dev.winbase.toNat = v.toNat / 2 ^ s.dev.barBits * 2 ^ s.dev.barBits ∧
      t.mem = s.mem ∧ t.regions = s.regions ∧ t.hub = s.hub :=
  ⟨_, exec_registerWrite8 hopen _ v, toNat_andNot_mask v _, rfl, rfl, rfl⟩

theorem bar_resize (fn off n k : Nat) (s : State) (hopen : s.hostOpen fn = true) (h28 : 28 ≤ k) (h39 : k ≤ 39) :
    ∃ t, exec (.registerWrite ⟨fn, off, n, true⟩ (BitVec.ofNat 64 k)) s = .next t ∧ t.dev.barBits = k ∧
      t.dev.winbase.toNat = s.dev.winbase.toNat / 2 ^ k * 2 ^ k ∧ t.mem = s.mem ∧ t.regions = s.regions ∧ t.hub = s.hub := by
  have hk : (BitVec.ofNat 64 k).toNat = k := by rw [BitVec.toNat_ofNat]; omega
  have hresize : s.dev.resizeBar k = { s.dev with barBits := k, winbase := s.dev.winbase &&& ~~~(BitVec.ofNat 64 (2 ^ k - 1)) } := by
    rw [Device.resizeBar, if_pos (by simp [h28, h39])]
  have hexec : exec (.registerWrite ⟨fn, off, n, true⟩ (BitVec.ofNat 64 k)) s = .next { s with dev := s.dev.resizeBar k } := by
    show execRegisterWrite ⟨fn, off, n, true⟩ (BitVec.ofNat 64 k) s = _
    rw [execRegisterWrite, if_neg (by simp [hopen]), hk]; rfl
  refine ⟨_, hexec, ?_, ?_, rfl, rfl, rfl⟩
  · show (s.dev.resizeBar k).barBits = k
    rw [hresize]
  · show (s.dev.resizeBar k).winbase.toNat = _
    rw [hresize]; exact toNat_andNot_mask _ k

/-! ## What BAR0 reads -/

theorem State.hostOpen_on {s : State} {fn : Nat} (hopen : s.hostOpen fn = true) : s.dev.off = false := by
  simp only [State.hostOpen, Bool.and_eq_true, Bool.not_eq_true'] at hopen
  exact hopen.1.1.1.2

/-- Word k of the block of limits, trace and events at 0x30000. -/
theorem State.bar0Word_limits {s : State} {fn off : Nat} (hopen : s.hostOpen fn = true) (h8 : off % 8 = 0) (hlo : 0x30000 ≤ off) (hhi : off < 0x31000) :
    s.bar0Word fn off = match (off - 0x30000) / 8 with
      | 0 => s.dev.iwlim
      | 1 => (s.region 0).pflimit
      | 2 => s.hub.agelim
      | 3 => s.hub.preemptWait
      | 4 => s.dev.traceBase
      | 5 => s.dev.traceSize
      | 6 => s.dev.traceRead
      | 7 => BitVec.ofNat 64 s.hub.events.length
      | k => if 64 ≤ k then s.hub.eventWord ((k - 64) / 8) (k % 8) else 0 := by
  rw [State.bar0Word, if_neg (by simp [State.hostOpen_on hopen, h8]), if_neg (by omega), if_neg (by simp [hopen]),
    if_neg (by simp; omega), if_pos (by simp; omega)] <;> rfl

theorem events_read (fn : Nat) (s : State) (e : List Word) (es : List (List Word)) (k : Nat) (hopen : s.hostOpen fn = true)
    (he : s.hub.events = e :: es) (hk : k < 8) :
    s.bar0Read fn 0x30038 8 = BitVec.ofNat 64 (es.length + 1) ∧
    s.bar0Read fn (0x30200 + 64 * (es.length % 56) + 8 * k) 8 = e.getD k 0 := by
  constructor
  · rw [State.bar0Read, if_pos rfl, State.bar0Word_limits hopen (by omega) (by omega) (by omega)]
    show BitVec.ofNat 64 s.hub.events.length = _
    rw [he]; rfl
  · have hword : (0x30200 + 64 * (es.length % 56) + 8 * k - 0x30000) / 8 = 8 * (es.length % 56) + k + 64 := by omega
    rw [State.bar0Read, if_pos rfl, State.bar0Word_limits hopen (by omega) (by omega) (by omega), hword]
    show (if 64 ≤ 8 * (es.length % 56) + k + 64 then
      s.hub.eventWord ((8 * (es.length % 56) + k + 64 - 64) / 8) ((8 * (es.length % 56) + k + 64) % 8) else 0) = _
    rw [if_pos (by omega), show (8 * (es.length % 56) + k + 64 - 64) / 8 = es.length % 56 by omega,
      show (8 * (es.length % 56) + k + 64) % 8 = k by omega, Hub.eventWord]
    simp only [he, List.length_cons]
    rw [if_pos (by simp; omega), show (es.length + 1 - 1 - es.length % 56) % 56 = 0 by omega]
    rfl

/-- The registers that keep what the host writes. -/
def keepingRegs : List Nat := [0x20080, 0x20088, 0x30000, 0x30008, 0x30010, 0x30018, 0x30020, 0x30028, 0x30030]

/-- A region that took a limit. -/
def Region.withLimit (v : Word) (R : Region) : Region := { R with pflimit := v }

theorem State.writeLimits_pflimit (s : State) (v : Word) :
    s.writeLimits 1 v = (List.range 80).foldl (fun s r => s.modRegion r (Region.withLimit v)) s := rfl

theorem pflimit_written (s : State) (v : Word) {r : Nat} (hr : r < 80) : ((s.writeLimits 1 v).region r).pflimit = v := by
  rw [State.writeLimits_pflimit, State.region_modRegions s r (Region.withLimit v) _ (fun _ => rfl), if_pos (List.mem_range.mpr hr)]; rfl

/-- What a write of pflimit leaves of the state. -/
theorem pflimit_rest (s : State) (v : Word) : ∃ R, s.writeLimits 1 v = { s with regions := R } := by
  rw [State.writeLimits_pflimit]; exact ⟨_, State.modRegions_rest s _ _⟩

theorem State.hostOpen_congr {s t : State} (hdev : t.dev = s.dev) (henc : t.enc = s.enc) (fn : Nat) : t.hostOpen fn = s.hostOpen fn := by
  rw [State.hostOpen, State.hostOpen, hdev, henc]

theorem State.writeReg_limits (s : State) (v : Word) {k : Nat} (hk : k < 512) : s.writeReg (0x30000 + 8 * k) v = s.writeLimits k v := by
  rw [State.writeReg, if_neg (by omega), if_neg (by omega), if_neg (by omega), if_neg (by omega), if_pos (by simp; omega),
    show (0x30000 + 8 * k - 0x30000) / 8 = k by omega]

theorem State.writeLimits_kept {s : State} {fn : Nat} (hopen : s.hostOpen fn = true) (v : Word) {k : Nat} (hk : k < 7) :
    (s.writeLimits k v).bar0Word fn (0x30000 + 8 * k) = v ∧ (s.writeLimits k v).mem = s.mem ∧ (s.writeLimits k v).units = s.units := by
  have hread : ∀ t : State, t.dev.off = s.dev.off → t.hostOpen fn = s.hostOpen fn → t.bar0Word fn (0x30000 + 8 * k) = (match k with
      | 0 => t.dev.iwlim
      | 1 => (t.region 0).pflimit
      | 2 => t.hub.agelim
      | 3 => t.hub.preemptWait
      | 4 => t.dev.traceBase
      | 5 => t.dev.traceSize
      | _ => t.dev.traceRead) := fun t _ ht => by
    rw [State.bar0Word_limits (ht.trans hopen) (by omega) (by omega) (by omega), show (0x30000 + 8 * k - 0x30000) / 8 = k by omega]
    interval_cases k <;> rfl
  match k, hk with
  | 0, _ => exact ⟨hread (s.writeLimits 0 v) rfl rfl, rfl, rfl⟩
  | 1, _ =>
    obtain ⟨R, hR⟩ := pflimit_rest s v
    have hlimit := pflimit_written s v (r := 0) (by omega)
    generalize s.writeLimits 1 v = t at hR hlimit ⊢
    subst hR
    exact ⟨(hread { s with regions := R } rfl rfl).trans hlimit, rfl, rfl⟩
  | 2, _ => exact ⟨hread (s.writeLimits 2 v) rfl rfl, rfl, rfl⟩
  | 3, _ => exact ⟨hread (s.writeLimits 3 v) rfl rfl, rfl, rfl⟩
  | 4, _ => exact ⟨hread (s.writeLimits 4 v) rfl rfl, rfl, rfl⟩
  | 5, _ => exact ⟨hread (s.writeLimits 5 v) rfl rfl, rfl, rfl⟩
  | 6, _ => exact ⟨hread (s.writeLimits 6 v) rfl rfl, rfl, rfl⟩

theorem State.writeRing_kept {s : State} {fn : Nat} (hopen : s.hostOpen fn = true) (v : Word) :
    (s.writeReg 0x20080 v).bar0Word fn 0x20080 = v ∧ (s.writeReg 0x20088 v).bar0Word fn 0x20088 = v := by
  have hring : ∀ t : State, t.hostOpen fn = true → t.bar0Word fn 0x20080 = t.dev.hostRingBase ∧ t.bar0Word fn 0x20088 = t.dev.hostRingSize :=
    fun t ht => by
      constructor <;> rw [State.bar0Word, if_neg (by simp [State.hostOpen_on ht]), if_neg (by omega), if_neg (by simp [ht]), if_pos (by simp)]
      · exact if_pos rfl
      · exact if_neg (by omega)
  exact ⟨(hring (s.modDev (fun d => { d with hostRingBase := v })) hopen).1, (hring (s.modDev (fun d => { d with hostRingSize := v })) hopen).2⟩

theorem keepingRegs_read {fn : Nat} {s : State} (hopen : s.hostOpen fn = true) (v : Word) {off : Nat} (hoff : off ∈ keepingRegs) :
    (s.writeReg off v).bar0Word fn off = v ∧ (s.writeReg off v).mem = s.mem ∧ (s.writeReg off v).units = s.units := by
  have hcases : off = 0x20080 ∨ off = 0x20088 ∨ ∃ k, k < 7 ∧ off = 0x30000 + 8 * k := by
    revert off; decide
  rcases hcases with rfl | rfl | ⟨k, hk, rfl⟩
  · exact ⟨(State.writeRing_kept hopen v).1, rfl, rfl⟩
  · exact ⟨(State.writeRing_kept hopen v).2, rfl, rfl⟩
  · rw [State.writeReg_limits s v (by omega)]
    exact State.writeLimits_kept hopen v hk

theorem keepingRegs_write (fn off : Nat) (v : Word) (s : State) (hopen : s.hostOpen fn = true) (hoff : off ∈ keepingRegs) :
    (∃ t, exec (.registerWrite ⟨fn, off, 8, false⟩ v) s = .next t ∧ t.bar0Read fn off 8 = v ∧ t.mem = s.mem ∧ t.units = s.units) ∧
    (∃ t, exec (.registerWrite ⟨fn, off, 4, false⟩ v) s = .next t ∧ t.bar0Read fn off 8 = (s.bar0Read fn off 8).extractLsb' 32 32 ++ v.setWidth 32 ∧
      t.mem = s.mem ∧ t.units = s.units) ∧
    ∃ t, exec (.registerWrite ⟨fn, off + 4, 4, false⟩ v) s = .next t ∧ t.bar0Read fn off 8 = v.setWidth 32 ++ (s.bar0Read fn off 8).setWidth 32 ∧
      t.mem = s.mem ∧ t.units = s.units := by
  have h8 : ∀ o ∈ keepingRegs, o % 8 = 0 ∧ isActionReg o = false := by decide
  obtain ⟨h8, haction⟩ := h8 off hoff
  refine ⟨⟨_, exec_registerWrite8 hopen off v, keepingRegs_read hopen v hoff⟩, ⟨_, exec_registerWrite4 hopen (by omega) v, ?_⟩,
    ⟨_, exec_registerWrite4 hopen (by omega) v, ?_⟩⟩
  · rw [State.writeHalf_low s fn v h8 haction]; exact keepingRegs_read hopen _ hoff
  · rw [State.writeHalf_high s fn v h8 haction]; exact keepingRegs_read hopen _ hoff

/-- The registers that ignore what the host writes. -/
def readOnlyRegs : List Nat := [0x00, 0x08, 0x18, 0x20, 0x28, 0x30, 0x38, 0x48, 0x30038]

theorem readOnlyRegs_writeReg (s : State) (v : Word) {off : Nat} (hoff : off ∈ readOnlyRegs) : s.writeReg off v = s := by
  simp only [readOnlyRegs, List.mem_cons, List.not_mem_nil, or_false] at hoff
  rcases hoff with rfl | rfl | rfl | rfl | rfl | rfl | rfl | rfl | rfl <;> rfl

theorem readOnlyRegs_write (fn off : Nat) (v : Word) (s : State) (hoff : off ∈ readOnlyRegs) :
    exec (.registerWrite ⟨fn, off, 8, false⟩ v) s = .next s ∧ exec (.registerWrite ⟨fn, off, 4, false⟩ v) s = .next s ∧
    exec (.registerWrite ⟨fn, off + 4, 4, false⟩ v) s = .next s := by
  have h8 : ∀ o ∈ readOnlyRegs, o % 8 = 0 ∧ isActionReg o = false := by decide
  obtain ⟨h8, haction⟩ := h8 off hoff
  cases hopen : s.hostOpen fn with
  | false => exact ⟨exec_registerWrite_closed hopen _ v, exec_registerWrite_closed hopen _ v, exec_registerWrite_closed hopen _ v⟩
  | true =>
    rw [exec_registerWrite8 hopen, exec_registerWrite4 hopen (by omega), exec_registerWrite4 hopen (by omega),
      State.writeHalf_low s fn v h8 haction, State.writeHalf_high s fn v h8 haction, readOnlyRegs_writeReg s _ hoff,
      readOnlyRegs_writeReg s _ hoff, readOnlyRegs_writeReg s _ hoff]
    exact ⟨rfl, rfl, rfl⟩

theorem translation_invalidate (fn r : Nat) (s : State) (hopen : s.hostOpen fn = true) (hr : r < 80) :
    ∃ t, exec (.translationInvalidate ⟨fn, r⟩) s = .next t ∧ (t.region r).kept = [] ∧ (∀ q, q ≠ r → t.region q = s.region q) ∧
      t.core r = s.core r ∧ t.mem = s.mem ∧ t.units = s.units ∧ t.hub = s.hub := by
  have hexec : exec (.translationInvalidate ⟨fn, r⟩) s = .next (s.modRegion r (fun R => { R with kept := [] })) := by
    show execTranslationInvalidate ⟨fn, r⟩ s = _
    rw [execTranslationInvalidate, if_pos (by simp [hopen, hr])]
  refine ⟨_, hexec, ?_, fun q hq => State.region_modRegion_other _ hq _, ?_, rfl, rfl, rfl⟩
  · rw [State.region_modRegion_same]
  · rw [State.core, State.region_modRegion_same]; rfl

theorem hostRegistersWrite : Says.HostRegistersWrite := by
  refine ⟨portResume_memory, portResume_frozen, portResume_stream, translation_invalidate, evec_write, winbase_write, bar_resize, events_read,
    fun fn v s hopen => ⟨_, (exec_registerWrite8 hopen _ v).trans (congrArg _ (State.writeReg_limits s v (k := 1) (by omega))), ?_,
      fun r hr => pflimit_written s v hr⟩, keepingRegs_write, readOnlyRegs_write⟩
  obtain ⟨R, hR⟩ := pflimit_rest s v
  rw [hR]

/-! ## Until READY, in P2, and without keys (R442, R446, R452) -/

theorem State.bar0Word_closed {s : State} {fn off : Nat} (hopen : s.hostOpen fn = false)
    (hoff : off / 8 * 8 ∉ [0x00, 0x08, 0x18, 0x20, 0x28, 0x30, 0x38] ∨ s.hostSleeps = false) : s.bar0Word fn off = 0 := by
  rw [State.bar0Word]
  by_cases hoff8 : (s.dev.off || off % 8 ≠ 0) = true
  · rw [if_pos hoff8]
  rw [if_neg hoff8]
  by_cases hlow : off < 0x1000
  · rw [if_pos hlow]
    refine if_neg ?_
    rcases hoff with hnot | hsleep
    · rw [hopen, Bool.false_or, Bool.and_eq_true, Bool.and_eq_true, decide_eq_true_eq, decide_eq_true_eq]
      rintro ⟨⟨-, hk⟩, h2⟩
      simp only [List.mem_cons, List.not_mem_nil, or_false] at hnot
      omega
    · simp [hopen, hsleep]
  · rw [if_neg hlow, if_pos (by simp [hopen])]

theorem State.bar0Read_closed {s : State} {fn off : Nat} (n : Nat) (hopen : s.hostOpen fn = false)
    (hoff : off / 8 * 8 ∉ [0x00, 0x08, 0x18, 0x20, 0x28, 0x30, 0x38] ∨ s.hostSleeps = false) : s.bar0Read fn off n = 0 := by
  rw [State.bar0Read, State.bar0Word_closed hopen hoff, State.bar0Word_closed hopen (by rwa [Nat.mul_div_cancel _ (by omega : 0 < 8)])]
  split
  · rfl
  split
  · simp
  · rfl

theorem hostWaitsForBringup : Says.HostWaitsForBringup := by
  intro s fn hopen
  refine ⟨fun p ok a b => ?_, fun ok id => ?_, fun m d a => ?_, fun o n d => ?_, fun o n d => ?_, fun r n => ?_, fun r => ?_,
    fun o v => exec_registerWrite_closed hopen o v, fun d => ?_, fun d => ?_, fun off n => State.bar0Read_closed n hopen⟩
  · show execHostLaunchWrite ⟨fn, p⟩ ok a b s = _
    rw [execHostLaunchWrite, if_pos (by simp [hopen])]
  · show execLaunchCancel ok ⟨fn, id⟩ s = _
    rw [execLaunchCancel, if_pos (by simp [hopen])]
  · show execHostMessageWrite m ⟨fn, d⟩ a s = _
    rw [execHostMessageWrite, if_pos (by simp [hopen])]
  · show execHostBar2Access true ⟨fn, o⟩ n d s = _
    rw [execHostBar2Access]
    simp only [hopen]; rfl
  · show execHostBar2Access false ⟨fn, o⟩ n d s = _
    rw [execHostBar2Access]
    simp only [hopen]
    cases s.hostSleeps <;> rfl
  · show execPortResumeWrite ⟨fn, r⟩ n s = _
    rw [execPortResumeWrite, if_neg (by simp [hopen])]
  · show execTranslationInvalidate ⟨fn, r⟩ s = _
    rw [execTranslationInvalidate, if_neg (by simp [hopen])]
  · show execIngestDescriptor ⟨fn, d⟩ s = _
    rw [execIngestDescriptor, if_pos (by simp [hopen])]
  · show execCheckpointDescriptor ⟨fn, d⟩ s = _
    rw [execCheckpointDescriptor, if_pos (by simp [hopen])]

/-- Settles O48: what each access of the host makes of the state, class by class: launches and messages, memory, registers, and the module
that is not open. -/
theorem hostAccessesAct : Obligations.HostAccessesAct :=
  ⟨hostLaunchesAct, hostMemoryAccesses, hostRegistersWrite, hostWaitsForBringup⟩


/-! PROOFS. The exchange's own steps, and uncorrectable errors (O42). -/

theorem stored_of_store {s w : State} {a n : Nat} {v : Word} {p : Bool} (hw : s.mem.wf = true) (hn : 0 < n)
    (h : w.mem = s.mem.store a n v p) : stored s w a n v p := by
  refine ⟨?_, ?_, sameBytesBut_store hw hn h⟩
  · rw [h, Memory.readNat_store hw]
  · rw [h, Memory.poisoned_store hw, if_pos rfl]

@[simp] theorem Pair.lane_setBuf (p : Pair) (par : Bool) (b : XBuf) : (p.setBuf par b).lane = p.lane := by cases par <;> rfl

@[simp] theorem Pair.buf_setBuf_other (p : Pair) (par : Bool) (b : XBuf) : (p.setBuf par b).buf (!par) = p.buf (!par) := by
  cases par <;> rfl

/-! ## The send engine (R331) -/

/-- What the send engine puts on the lane with a token. -/
def Pair.sent (x : Pair) (par : Bool) (t : Tok) : Pair :=
  { x with lane := x.lane ++ [(par, t)] ++ (if t.last then [(par, closingMark t.tag)] else []) }

/-- The state after a token is put on the lane, before what a frozen sender's image shows of it. -/
def State.sentToken (s : State) (p : Nat) (x : Pair) (q : XSend) (t : Tok) : State :=
  if t.last then (((s.dequeue x.tx q.inp).setPair p (x.sent q.parity t)).stir x.tx.region).modUnit x.tx (fun e => e.endSend p)
  else ((s.dequeue x.tx q.inp).setPair p (x.sent q.parity t)).stir x.tx.region

theorem State.echoSend_rest (s : State) (u : UnitId) (i : Nat) : ∃ im, s.echoSend u i = { s with images := im } := ⟨_, rfl⟩

theorem State.sentToken_lane (s : State) (p : Nat) (x : Pair) (q : XSend) (t : Tok) :
    (s.sentToken p x q t).mem = s.mem ∧ (s.sentToken p x q t).pair? p = some (x.sent q.parity t) ∧
    ((s.sentToken p x q t).chan (.inp x.tx q.inp)).inq = (s.chan (.inp x.tx q.inp)).inq.tail := by
  have hchan := (s.dequeue_inq x.tx q.inp q.inp).trans (if_pos rfl)
  rw [State.sentToken]
  split
  · exact ⟨rfl, State.pair?_setPair_same .., hchan⟩
  · exact ⟨rfl, State.pair?_setPair_same .., hchan⟩

theorem exchange_sends (p : Nat) (s : State) (x : Pair) (q : XSend) (t : Tok) (hp : s.pair? p = some x) (hq : s.sendOf p x = some q)
    (hup : s.linkUp x.link = true) (hhead : s.head? x.tx q.inp = some t) (htag : t.tag = s.boundTagOf x.tx) (hkind : t.kind = 0 ∨ t.kind = 1)
    (hroom : x.lane.length < laneRoom) :
    ∃ w y, exec (.exchangeSendToken p) s = .next w ∧ sameBytes s w ∧ w.pair? p = some y ∧
      y.lane = x.lane ++ [(q.parity, t)] ++ (if t.last then [(q.parity, { data := 4, kind := 2, tag := t.tag, last := true })] else []) ∧
      (w.chan (.inp x.tx q.inp)).inq = (s.chan (.inp x.tx q.inp)).inq.tail ∧
      (t.last = false → w.sendOf p y = some q) := by
  have hexec : exec (.exchangeSendToken p) s = .next ((s.sentToken p x q t).echoSend x.tx q.inp) := by
    have htag' : t.tag = (s.region x.tx.region).tag := htag
    show execExchangeSendToken p s = _
    simp only [execExchangeSendToken, hp, hq, hup, hhead]
    rw [if_neg (by simp [htag', hroom]), if_neg (by rcases hkind with h | h <;> simp [h])]
    rfl
  obtain ⟨im, him⟩ := (s.sentToken p x q t).echoSend_rest x.tx q.inp
  obtain ⟨hmem, hpair, hinq⟩ := s.sentToken_lane p x q t
  rw [him] at hexec
  refine ⟨_, _, hexec, fun a => ?_, hpair, rfl, hinq, fun hlast => ?_⟩
  · rw [hmem]; exact ⟨rfl, rfl⟩
  · show (s.sentToken p x q t).sendOf p (x.sent q.parity t) = some q
    rw [State.sentToken, if_neg (by simp [hlast])]; exact hq

theorem exchange_waits (p : Nat) (s : State) (x : Pair) (q : XSend) (t : Tok) (hp : s.pair? p = some x) (hq : s.sendOf p x = some q)
    (hup : s.linkUp x.link = true) (hhead : s.head? x.tx q.inp = some t) (hfull : laneRoom ≤ x.lane.length) :
    exec (.exchangeSendToken p) s = .next s := by
  show execExchangeSendToken p s = _
  simp only [execExchangeSendToken, hp, hq, hup, hhead]
  rw [if_pos (by simp [hfull])]

/-! ## The receiver (R166, R332, R333) -/

/-- The pair whose lane's head has arrived. -/
def Pair.arrived (x : Pair) (l : List (Bool × Tok)) : Pair := { x with lane := l }

/-- A pair with a buffer that its closing MARK has reached. -/
def Pair.close (x : Pair) (par : Bool) : Pair := x.setBuf par { x.buf par with closed := !(x.buf par).overrun }

/-- The end of a transfer: the closing MARK has arrived. -/
def State.closeBuffer (s : State) (p : Nat) (x : Pair) (par : Bool) : State :=
  if (x.buf par).overrun then (s.setPair p (x.close par)).recordFault x.rx cPERMIT 0 0 none 0 0 else s.setPair p (x.close par)

theorem exec_exchangeReceiveToken {p : Nat} {s : State} {x : Pair} {par : Bool} {t : Tok} {l : List (Bool × Tok)} (hp : s.pair? p = some x)
    (hlane : x.lane = (par, t) :: l) (hup : s.linkUp x.link = true) (hthaw : (s.region x.rx.region).frozen = none) :
    exec (.exchangeReceiveToken p) s = .next (
      if t.kind = 2 then (s.stir x.rx.region).closeBuffer p (x.arrived l) par
      else (s.stir x.rx.region).bufferToken p (x.arrived l) par t) := by
  show execExchangeReceiveToken p s = _
  simp only [execExchangeReceiveToken, hp, hlane, hup, hthaw]
  by_cases hk : t.kind = 2
  · simp only [Option.isNone_none, Bool.and_self, if_pos hk]; rfl
  · simp only [Option.isNone_none, Bool.and_self, if_neg hk]; rfl

theorem exchange_receives (p : Nat) (s : State) (x : Pair) (par : Bool) (t : Tok) (l : List (Bool × Tok)) (hw : s.mem.wf = true)
    (hp : s.pair? p = some x) (hlane : x.lane = (par, t) :: l) (hup : s.linkUp x.link = true) (hthaw : (s.region x.rx.region).frozen = none)
    (hkind : t.kind ≠ 2) (hroom : (x.buf par).n < x.size / 8) :
    ∃ w y, exec (.exchangeReceiveToken p) s = .next w ∧ w.pair? p = some y ∧ y.lane = l ∧ (y.buf par).n = (x.buf par).n + 1 ∧
      stored s w ((x.buf par).addr + 8 * (x.buf par).n) 8 t.data t.poison := by
  have hexec := exec_exchangeReceiveToken hp hlane hup hthaw
  rw [if_neg hkind, State.bufferToken] at hexec
  have hroom' : ((x.arrived l).buf par).n < (x.arrived l).size / 8 := hroom
  simp only [if_pos hroom'] at hexec
  refine ⟨_, _, hexec, State.pair?_setPair_same .., Pair.lane_setBuf .., ?_, stored_of_store hw (by omega) ?_⟩
  · rw [Pair.buf_setBuf_same]; rfl
  · by_cases hflit : ((x.arrived l).buf par).n % 8 = 0
    · rw [if_pos hflit]; rfl
    · rw [if_neg hflit]; rfl

theorem exchange_overruns (p : Nat) (s : State) (x : Pair) (par : Bool) (t : Tok) (l : List (Bool × Tok))
    (hp : s.pair? p = some x) (hlane : x.lane = (par, t) :: l) (hup : s.linkUp x.link = true) (hthaw : (s.region x.rx.region).frozen = none)
    (hkind : t.kind ≠ 2) (hfull : x.size / 8 ≤ (x.buf par).n) :
    ∃ w y, exec (.exchangeReceiveToken p) s = .next w ∧ sameBytes s w ∧ w.pair? p = some y ∧ y.lane = l ∧
      (y.buf par).overrun = true ∧ (y.buf par).n = (x.buf par).n := by
  have hexec := exec_exchangeReceiveToken hp hlane hup hthaw
  rw [if_neg hkind, State.bufferToken] at hexec
  have hfull' : ¬ ((x.arrived l).buf par).n < (x.arrived l).size / 8 := not_lt.mpr hfull
  simp only [if_neg hfull'] at hexec
  refine ⟨_, _, hexec, fun a => ⟨rfl, rfl⟩, State.pair?_setPair_same .., Pair.lane_setBuf .., ?_, ?_⟩ <;> rw [Pair.buf_setBuf_same] <;> rfl

theorem State.pair?_recordFault (s : State) (u : UnitId) (cause : Byte) (word ctx : Nat) (chan : Option Nat) (sb : BitVec 14)
    (flags : BitVec 6) (p : Nat) : (s.recordFault u cause word ctx chan sb flags).pair? p = s.pair? p := by
  obtain ⟨-, -, -, -, -, -, -, hpairs, -⟩ := s.recordFaultOf_fields u s.ticket cause word ctx chan sb flags
  exact congrArg (·.get? p) hpairs

theorem exchange_closes (p : Nat) (s : State) (x : Pair) (par : Bool) (t : Tok) (l : List (Bool × Tok))
    (hp : s.pair? p = some x) (hlane : x.lane = (par, t) :: l) (hup : s.linkUp x.link = true) (hthaw : (s.region x.rx.region).frozen = none)
    (hkind : t.kind = 2) :
    ∃ w y, exec (.exchangeReceiveToken p) s = .next w ∧ sameBytes s w ∧ w.pair? p = some y ∧ y.lane = l ∧
      (y.buf par).closed = !(x.buf par).overrun := by
  have hexec := exec_exchangeReceiveToken hp hlane hup hthaw
  rw [if_pos hkind, State.closeBuffer] at hexec
  refine ⟨_, (x.arrived l).close par, hexec, ?_, ?_, Pair.lane_setBuf .., congrArg XBuf.closed (Pair.buf_setBuf_same ..)⟩
  · split
    · exact sameBytes_of_calm (((s.stir_calm _).trans (State.setPair_calm ..)).trans (State.recordFault_calm ..))
    · exact fun a => ⟨rfl, rfl⟩
  · split
    · rw [State.pair?_recordFault]; exact State.pair?_setPair_same ..
    · exact State.pair?_setPair_same ..

theorem exchange_releases (p : Nat) (s : State) (x : Pair) (t : Tok) (hp : s.pair? p = some x) (hhead : s.head? x.rx x.rel = some t)
    (hthaw : (s.region x.rx.region).frozen = none) (htag : t.tag = s.boundTagOf x.rx) (hfull : (x.buf (t.data.getLsbD 0)).st = .full) :
    ∃ w y, exec (.exchangeRelease p) s = .next w ∧ sameBytes s w ∧ w.pair? p = some y ∧
      y.buf (t.data.getLsbD 0) = { addr := (x.buf (t.data.getLsbD 0)).addr } ∧ y.buf (!t.data.getLsbD 0) = x.buf (!t.data.getLsbD 0) ∧
      (w.chan (.inp x.rx x.rel)).inq = (s.chan (.inp x.rx x.rel)).inq.tail := by
  have hexec : exec (.exchangeRelease p) s =
      .next ((s.dequeue x.rx x.rel).setPair p (x.setBuf (t.data.getLsbD 0) { addr := (x.buf (t.data.getLsbD 0)).addr })) := by
    have htag' : t.tag = (s.region x.rx.region).tag := htag
    show execExchangeRelease p s = _
    simp only [execExchangeRelease, hp, hhead]
    rw [if_neg (by simp [hthaw, htag']), if_pos hfull]
  refine ⟨_, _, hexec, fun a => ⟨rfl, rfl⟩, State.pair?_setPair_same .., Pair.buf_setBuf_same .., Pair.buf_setBuf_other .., ?_⟩
  exact (s.dequeue_inq x.rx x.rel x.rel).trans (if_pos rfl)

theorem exchangeRuns : Says.ExchangeRuns :=
  ⟨exchange_sends, exchange_waits, exchange_receives, exchange_overruns, exchange_closes, exchange_releases⟩

/-! ## Errors (R300, R390) -/

theorem exec_dramError {a : Nat} (s : State) (h : isDram a = true) :
    exec (.dramUncorrectableError a) s = .next { s with mem := s.mem.strike (a / 64 * 64) 8 } := by
  show execDramUncorrectableError a s = _
  rw [execDramUncorrectableError, if_pos h]

theorem exec_chipError {a : Nat} (s : State) (h : isDram a = false) (hlo : 2 ^ 52 ≤ a) :
    exec (.dramUncorrectableError a) s = .next { s with mem := s.mem.strike (a / 8 * 8) 1 } := by
  show execDramUncorrectableError a s = _
  rw [execDramUncorrectableError, if_neg (by simp [h]), if_pos hlo]

theorem errorsPoison : Says.ErrorsPoison := by
  refine ⟨fun a s hw ha => ⟨_, exec_dramError s ha, fun k hk => ?_, fun b hb => ?_, fun b hb => ⟨?_, ?_⟩, rfl⟩,
    fun a s hw ha hlo => ⟨_, exec_chipError s ha hlo, ?_, fun b hb => ?_, fun b hb => ⟨?_, ?_⟩⟩, fun a s => rfl⟩
  · rw [Memory.poisoned_strike hw, if_pos (by omega)]
  · rw [Memory.byte_strike hw, if_pos (by omega)]
  · rw [Memory.byte_strike hw, if_neg (by omega)]
  · rw [Memory.poisoned_strike hw, if_neg (by omega)]
  · rw [Memory.poisoned_strike hw, if_pos (by omega)]
  · rw [Memory.byte_strike hw, if_pos (by omega)]
  · rw [Memory.byte_strike hw, if_neg (by omega)]
  · rw [Memory.poisoned_strike hw, if_neg (by omega)]


/-! PROOFS. Causes raised at many cores, and links (O42). -/

/-! ## Causes raised at many cores (R273) -/

/-- Is a cause of a kind pending? -/
def Pend.holds (p : Pend) : Async → Bool
  | .watchdog => p.watchdog.isSome
  | .link => p.link.isSome
  | .fabric => p.fabric.isSome
  | .page => p.page.isSome
  | .wide => p.wide.isSome
  | .preempt => p.preempt.isSome
  | .promise => !p.promises.isEmpty

theorem Pend.holds_add_mono {p : Pend} {d : Async} (c : Async) (v : Word) (hd : d ≠ .promise) (h : p.holds d = true) :
    (p.add c v).holds d = true := by
  cases d with
  | promise => exact absurd rfl hd
  | watchdog | link | fabric | page | wide | preempt =>
    cases c with
    | promise => rw [Pend.add]; split <;> exact h
    | watchdog | link | fabric | page | wide | preempt => first | exact h | rfl

theorem Pend.holds_add (p : Pend) {c : Async} (v : Word) (hc : c ≠ .promise) : (p.add c v).holds c = true := by
  cases c with
  | promise => exact absurd rfl hc
  | watchdog | link | fabric | page | wide | preempt => rfl

theorem Core.hold_holds_mono {k : Core} {d : Async} (c : Async) (v : Word) (hd : d ≠ .promise) (h : k.pend.holds d = true) :
    (k.hold c v).pend.holds d = true := by
  rw [Core.hold]
  split
  · exact h
  · exact Pend.holds_add_mono c v hd h

/-- A state that differs from another in what cores and regions hold, launches apart, every pending cause staying pending. -/
structure State.Raised (s t : State) : Prop where
  rest : ∃ rs, t = { s with regions := rs }
  launch : ∀ r, (t.region r).launch = (s.region r).launch
  pend : ∀ r d, d ≠ Async.promise → (s.core r).pend.holds d = true → (t.core r).pend.holds d = true

theorem State.Raised.refl (s : State) : s.Raised s := ⟨⟨_, rfl⟩, fun _ => rfl, fun _ _ _ h => h⟩

theorem State.Raised.trans {s t w : State} (h : s.Raised t) (k : t.Raised w) : s.Raised w := by
  obtain ⟨rs, rfl⟩ := h.rest
  obtain ⟨qs, rfl⟩ := k.rest
  exact ⟨⟨qs, rfl⟩, fun r => (k.launch r).trans (h.launch r), fun r d hd hp => k.pend r d hd (h.pend r d hd hp)⟩

theorem State.raised_raise (s : State) (r : Nat) (c : Async) (v : Word) : s.Raised (s.raise r c v) := by
  rw [State.raise]
  split
  · refine ⟨⟨_, rfl⟩, fun q => ?_, fun q d hd hp => ?_⟩
    · rw [State.modCore, State.region_modRegion]
      split
      · next h => rw [h]
      · rfl
    · by_cases hq : q = r
      · subst hq
        rw [State.core_modCore_same]; exact Core.hold_holds_mono c v hd hp
      · rw [State.core, State.modCore, State.region_modRegion_other _ hq]; exact hp
  · exact .refl s

theorem State.raise_holds {s : State} {r : Nat} (c : Async) (v : Word) (hc : c ≠ .promise) (hf : c ≠ .fabric)
    (hl : (s.region r).launch.isSome = true) : ((s.raise r c v).core r).pend.holds c = true := by
  rw [State.raise, if_pos hl, State.core_modCore_same, Core.hold, if_neg (by simp [hf])]
  exact Pend.holds_add _ v hc

theorem State.raised_foldl {α : Type} {g : State → α → State} (hg : ∀ (s : State) x, s.Raised (g s x)) (l : List α) (s : State) :
    s.Raised (l.foldl g s) := by
  induction l generalizing s with
  | nil => exact .refl s
  | cons x l ih => exact (hg s x).trans (ih _)

/-- A fold that raises a cause at a region of its list leaves it pending there. -/
theorem State.foldl_raise_holds {g : State → Nat → State} {c : Async} {r : Nat} (hc : c ≠ .promise) (hf : c ≠ .fabric)
    (hg : ∀ (s : State) x, s.Raised (g s x)) (hr : ∀ t, ∃ v, g t r = t.raise r c v) {l : List Nat} (hmem : r ∈ l) {s : State}
    (hl : (s.region r).launch.isSome = true) : ((l.foldl g s).core r).pend.holds c = true := by
  induction l generalizing s with
  | nil => cases hmem
  | cons x l ih =>
    rw [List.foldl_cons]
    rcases List.mem_cons.mp hmem with rfl | htail
    · obtain ⟨v, hv⟩ := hr s
      refine (State.raised_foldl hg l _).pend r c hc ?_
      rw [hv]; exact State.raise_holds c v hc hf hl
    · exact ih htail (by rw [(hg s x).launch]; exact hl)

theorem State.raises_holds {c : Async} {v : Word} {r : Nat} (hc : c ≠ .promise) (hf : c ≠ .fabric) {l : List Nat} (hmem : r ∈ l) {s : State}
    (hl : (s.region r).launch.isSome = true) : ((l.foldl (fun s r => s.raise r c v) s).core r).pend.holds c = true :=
  State.foldl_raise_holds hc hf (fun s x => s.raised_raise x c v) (fun _ => ⟨v, rfl⟩) hmem hl

theorem State.Raised.sameBytes {s t : State} (h : s.Raised t) : sameBytes s t := by
  obtain ⟨rs, rfl⟩ := h.rest
  exact fun a => ⟨rfl, rfl⟩

/-! ## Flits (R133-R137) -/

theorem State.region_arrive_knows (s : State) (u : UnitId) (i : Nat) {t : Tok} (ht : (s.region u.region).knowsTag t.tag = true) (b : Byte) :
    ((s.arrive u i t).region u.region).knowsTag b = (s.region u.region).knowsTag b := by
  have hstir := (s.arrive_stir_onlyCounts u i).regions u.region
  have harrive : (s.arrive u i t).region u.region =
      (if (s.chan (.inp u i)).src.any (fun p => p.1.region = u.region) then s else s.stir u.region).region u.region := by
    rw [State.arrive]
    dsimp only
    rw [if_pos ht]; rfl
  rw [harrive, hstir]; rfl

theorem State.arrive_known_links (s : State) (u : UnitId) (i : Nat) {t : Tok} (ht : (s.region u.region).knowsTag t.tag = true) :
    (s.arrive u i t).links = s.links := by
  rw [State.arrive]
  dsimp only
  rw [if_pos ht, State.modChan_links, (s.arrive_stir_onlyCounts u i).rest]

theorem State.arriveAll_known {u : UnitId} {i : Nat} {ts : List Tok} {s : State} (h : ∀ t ∈ ts, (s.region u.region).knowsTag t.tag = true) :
    (s.arriveAll u i ts).chan (.inp u i) = { s.chan (.inp u i) with inq := (s.chan (.inp u i)).inq ++ ts } ∧
    (s.arriveAll u i ts).links = s.links := by
  induction ts generalizing s with
  | nil => exact ⟨by rw [List.append_nil]; rfl, rfl⟩
  | cons t ts ih =>
    have ht := h t (List.mem_cons_self ..)
    obtain ⟨hchan, hlinks⟩ := ih (s := s.arrive u i t) fun x hx => by
      rw [State.region_arrive_knows s u i ht]; exact h x (List.mem_cons_of_mem _ hx)
    refine ⟨hchan.trans ?_, hlinks.trans (s.arrive_known_links u i ht)⟩
    rw [State.arrive_chan_of_known ht]
    simp only [List.append_assoc, List.singleton_append]

theorem passHop_last {l : Nat} {dir : Bool} {c : Nat} {h : Hop} (hl : h.link = l) (hd : h.dir = dir) (hc : h.ctx = c) :
    passHop l dir c [h] = ([{ h with wire := [] }], h.wire) := by
  rw [passHop, if_pos (by simp [hl, hd, hc])]

theorem passHop_next {l : Nat} {dir : Bool} {c : Nat} {h g : Hop} {gs : List Hop} (hl : h.link = l) (hd : h.dir = dir) (hc : h.ctx = c) :
    passHop l dir c (h :: g :: gs) = ({ h with wire := [] } :: { g with waiting := g.waiting ++ h.wire } :: gs, []) := by
  rw [passHop, if_pos (by simp [hl, hd, hc])]

/-- A flit is delivered where its link is up, it is the oldest, and the input is not shut. -/
theorem exec_flitArrival {l : Nat} {dir : Bool} {c : Nat} {s : State} {u : UnitId} {i : Nat} {h : Hop} {hs hops : List Hop} {ts : List Tok}
    (hchan : s.chanOf? l dir c = some (.inp u i)) (hhops : (s.chan (.inp u i)).hops = h :: hs) (hl : h.link = l) (hd : h.dir = dir)
    (hc : h.ctx = c) (hwire : h.wire ≠ []) (hup : s.linkUp l = true) (hfirst : s.flitFirst l dir c = true)
    (hopen : (s.chan (.inp u i)).shut = false) (hpass : passHop l dir c (h :: hs) = (hops, ts)) :
    exec (.flitArrival l dir c) s = .next (((s.countFlit l dir c).modChan (.inp u i) (fun k => { k with hops := hops })).arriveAll u i ts) := by
  have hempty : h.wire.isEmpty = false := by cases hwr : h.wire with
    | nil => exact absurd hwr hwire
    | cons => rfl
  show execFlitArrival l dir c s = _
  simp only [execFlitArrival, hchan, hhops, hpass]
  rw [if_neg (by simp [hup, hfirst, hl, hd, hc, hopen, hwire])]

theorem Link.modCtx_get (L : Link) (dir : Bool) (c : Nat) (f : Context → Context) (k : Bool × Nat) :
    (L.modCtx dir c f).ctxs.get k {} = if k = (dir, c) then f (L.ctxs.get (dir, c) {}) else L.ctxs.get k {} :=
  Map.get_set ..

theorem State.link_countFlit (s : State) (l : Nat) (dir : Bool) (c : Nat) :
    (((s.countFlit l dir c).link l).ctxs.get (dir, c) {}).flits = ((s.link l).ctxs.get (dir, c) {}).flits + 1 := by
  rw [State.countFlit, State.link_modLink_same, Link.modCtx_get, if_pos rfl]

theorem flit_arrives (l : Nat) (dir : Bool) (c : Nat) (s : State) (u : UnitId) (i : Nat) (h : Hop)
    (hchan : s.chanOf? l dir c = some (.inp u i)) (hhops : (s.chan (.inp u i)).hops = [h]) (hl : h.link = l) (hd : h.dir = dir)
    (hc : h.ctx = c) (hwire : h.wire ≠ []) (hup : s.linkUp l = true) (hfirst : s.flitFirst l dir c = true)
    (hopen : (s.chan (.inp u i)).shut = false) (hknown : ∀ t ∈ h.wire, (s.region u.region).knowsTag t.tag = true) :
    ∃ w, exec (.flitArrival l dir c) s = .next w ∧ sameBytes s w ∧ (w.chan (.inp u i)).inq = (s.chan (.inp u i)).inq ++ h.wire ∧
      (w.chan (.inp u i)).hops = [{ h with wire := [] }] ∧
      ((w.link l).ctxs.get (dir, c) {}).flits = ((s.link l).ctxs.get (dir, c) {}).flits + 1 := by
  refine ⟨_, exec_flitArrival hchan hhops hl hd hc hwire hup hfirst hopen (passHop_last hl hd hc), ?_, ?_⟩
  · exact sameBytes_of_calm (((s.countFlit_calm l dir c).trans (State.modChan_calm ..)).trans (State.arriveAll_calm ..))
  · obtain ⟨hq, hlinks⟩ := State.arriveAll_known (u := u) (i := i) (ts := h.wire)
      (s := (s.countFlit l dir c).modChan (.inp u i) (fun k => { k with hops := [{ h with wire := [] }] })) hknown
    rw [hq, State.chan_modChan_same]
    refine ⟨rfl, rfl, ?_⟩
    rw [State.link, hlinks]
    exact s.link_countFlit l dir c

theorem flit_passes (l : Nat) (dir : Bool) (c : Nat) (s : State) (u : UnitId) (i : Nat) (h g : Hop) (gs : List Hop)
    (hchan : s.chanOf? l dir c = some (.inp u i)) (hhops : (s.chan (.inp u i)).hops = h :: g :: gs) (hl : h.link = l) (hd : h.dir = dir)
    (hc : h.ctx = c) (hwire : h.wire ≠ []) (hup : s.linkUp l = true) (hfirst : s.flitFirst l dir c = true)
    (hopen : (s.chan (.inp u i)).shut = false) :
    ∃ w, exec (.flitArrival l dir c) s = .next w ∧ sameBytes s w ∧ (w.chan (.inp u i)).inq = (s.chan (.inp u i)).inq ∧
      (w.chan (.inp u i)).hops = { h with wire := [] } :: { g with waiting := g.waiting ++ h.wire } :: gs := by
  refine ⟨_, exec_flitArrival hchan hhops hl hd hc hwire hup hfirst hopen (passHop_next hl hd hc), fun a => ⟨rfl, rfl⟩, ?_⟩
  rw [State.arriveAll, State.chan_modChan_same]
  exact ⟨rfl, rfl⟩

theorem flit_waits_outside (l : Nat) (dir : Bool) (c : Nat) (s : State) (u : UnitId) (i : Nat) (h : Hop)
    (hchan : s.chanOf? l dir c = some (.inp u i)) (hhops : (s.chan (.inp u i)).hops = [h]) (hl : h.link = l) (hd : h.dir = dir)
    (hc : h.ctx = c) (hshut : (s.chan (.inp u i)).shut = true) : exec (.flitArrival l dir c) s = .next s := by
  show execFlitArrival l dir c s = _
  simp only [execFlitArrival, hchan, hhops, passHop_last hl hd hc]
  refine if_pos ?_
  cases hw : h.wire <;> simp [hshut, hw, hl, hd, hc]

/-! ## Credits (R133, R135) -/

/-- Credits returned on the contexts of a channel's hops. -/
def State.returnCredits (s : State) (n : Nat) (hs : List Hop) : State :=
  hs.foldl (fun s h => s.modLink h.link (fun L => L.modCtx h.dir h.ctx (fun x => { x with credits := x.credits - n }))) s

theorem State.returnCredits_rest (s : State) (n : Nat) (hs : List Hop) : ∃ ls, s.returnCredits n hs = { s with links := ls } := by
  induction hs generalizing s with
  | nil => exact ⟨_, rfl⟩
  | cons h hs ih =>
    obtain ⟨ls, hls⟩ := ih (s.modLink h.link (fun L => L.modCtx h.dir h.ctx (fun x => { x with credits := x.credits - n })))
    exact ⟨ls, hls⟩

theorem State.link_modLink_other {k l : Nat} (s : State) (h : k ≠ l) (f : Link → Link) : (s.modLink l f).link k = s.link k :=
  Map.get_set_other _ h _ _

theorem State.ctx_modLink (s : State) (k l : Nat) (d dir : Bool) (e c : Nat) (f : Context → Context) :
    ((s.modLink k (fun L => L.modCtx d e f)).link l).ctxs.get (dir, c) {} =
      if (l, dir, c) = (k, d, e) then f (((s.link l).ctxs).get (dir, c) {}) else ((s.link l).ctxs).get (dir, c) {} := by
  by_cases hl : l = k
  · subst hl
    rw [State.link_modLink_same, Link.modCtx_get]
    by_cases hk : (dir, c) = (d, e)
    · rw [if_pos hk, if_pos (by rw [hk]), ← hk]
    · rw [if_neg hk, if_neg fun h => hk (Prod.ext_iff.mp h).2]
  · rw [State.link_modLink_other _ hl, if_neg fun h => hl (Prod.ext_iff.mp h).1]

theorem State.returnCredits_credits {n l : Nat} {dir : Bool} {c : Nat} {hs : List Hop}
    (hnodup : (hs.map (fun h => (h.link, h.dir, h.ctx))).Nodup) (s : State) :
    (((s.returnCredits n hs).link l).ctxs.get (dir, c) {}).credits =
      if (l, dir, c) ∈ hs.map (fun h => (h.link, h.dir, h.ctx)) then (((s.link l).ctxs).get (dir, c) {}).credits - n
      else (((s.link l).ctxs).get (dir, c) {}).credits := by
  induction hs generalizing s with
  | nil => rfl
  | cons h hs ih =>
    obtain ⟨hnot, hrest⟩ := List.nodup_cons.mp hnodup
    rw [State.returnCredits, List.foldl_cons, ← State.returnCredits, ih hrest, State.ctx_modLink]
    by_cases hk : (l, dir, c) = (h.link, h.dir, h.ctx)
    · rw [if_pos hk, if_neg (by rw [hk]; exact hnot), if_pos (by rw [hk]; exact List.mem_cons_self ..)]
    · rw [if_neg hk]
      exact if_congr (by rw [List.map_cons, List.mem_cons]; exact (or_iff_right hk).symm) rfl rfl

theorem credits_return (l : Nat) (dir : Bool) (c : Nat) (s : State) (u : UnitId) (i : Nat) (hchan : s.chanOf? l dir c = some (.inp u i))
    (hup : s.linkUp l = true) (hthaw : (s.region u.region).frozen = none) (hopen : (s.chan (.inp u i)).shut = false)
    (howed : 0 < (s.chan (.inp u i)).owed) (hhop : ∃ h ∈ (s.chan (.inp u i)).hops, h.link = l ∧ h.dir = dir ∧ h.ctx = c)
    (hnodup : ((s.chan (.inp u i)).hops.map (fun h => (h.link, h.dir, h.ctx))).Nodup) :
    ∃ w, exec (.creditReturn l dir c) s = .next w ∧ sameBytes s w ∧ (w.chan (.inp u i)).owed = 0 ∧
      (w.chan (.inp u i)).inq = (s.chan (.inp u i)).inq ∧ ((w.link l).ctxs.get (dir, c) {}).credits =
        ((s.link l).ctxs.get (dir, c) {}).credits - (s.chan (.inp u i)).owed := by
  have hexec : exec (.creditReturn l dir c) s = .next ((s.modChan (.inp u i) (fun k => { k with owed := 0 })).returnCredits
      (s.chan (.inp u i)).owed (s.chan (.inp u i)).hops) := by
    show execCreditReturn l dir c s = _
    simp only [execCreditReturn, hchan]
    rw [if_neg (by simp [hup, hthaw, hopen]; omega)]; rfl
  have hcredits := State.returnCredits_credits (n := (s.chan (.inp u i)).owed) (l := l) (dir := dir) (c := c) hnodup
    (s.modChan (.inp u i) (fun k => { k with owed := 0 }))
  obtain ⟨ls, hls⟩ := (s.modChan (.inp u i) (fun k => { k with owed := 0 })).returnCredits_rest (s.chan (.inp u i)).owed (s.chan (.inp u i)).hops
  rw [if_pos (by obtain ⟨h, hmem, rfl, rfl, rfl⟩ := hhop; exact List.mem_map.mpr ⟨h, hmem, rfl⟩)] at hcredits
  rw [hls] at hexec hcredits
  refine ⟨_, hexec, fun a => ⟨rfl, rfl⟩, ?_, ?_, hcredits⟩
  · show ((s.modChan (.inp u i) (fun k => { k with owed := 0 })).chan (.inp u i)).owed = 0
    rw [State.chan_modChan_same]
  · show ((s.modChan (.inp u i) (fun k => { k with owed := 0 })).chan (.inp u i)).inq = _
    rw [State.chan_modChan_same]

/-! ## Retransmissions and contexts on demand (R134, R137, R364) -/

theorem flit_check_fails (l : Nat) (dir : Bool) (s : State) (hl : l < 16) : ∃ w, exec (.flitCheckFail l dir) s = .next w ∧
    w = { s with links := w.links } ∧ (w.link l).retries = min ((s.link l).retries + 1) (2 ^ 64 - 1) ∧ (w.link l).down = (s.link l).down ∧
    (w.link l).ctxs = (s.link l).ctxs ∧ ∀ k, k ≠ l → w.link k = s.link k := by
  have hexec : exec (.flitCheckFail l dir) s = .next (s.modLink l (fun L => { L with retries := min (L.retries + 1) (2 ^ 64 - 1) })) := by
    show execFlitCheckFail l dir s = _
    rw [execFlitCheckFail, if_pos (by omega), State.retransmit, if_pos hl]
  refine ⟨_, hexec, rfl, ?_, ?_, ?_, fun k hk => State.link_modLink_other s hk _⟩ <;> rw [State.link_modLink_same]

/-- A context of a link written: the other contexts of the link stand. -/
theorem ctx_written (s : State) (l : Nat) (dir : Bool) (c : Nat) (x : Context) :
    ((s.modLink l (fun L => L.modCtx dir c (fun _ => x))).link l).ctxs.get (dir, c) {} = x ∧
    ∀ k, k ≠ (dir, c) → ((s.modLink l (fun L => L.modCtx dir c (fun _ => x))).link l).ctxs.get k {} = (s.link l).ctxs.get k {} := by
  rw [State.link_modLink_same]
  refine ⟨?_, fun k hk => ?_⟩
  · rw [Link.modCtx_get, if_pos rfl]
  · rw [Link.modCtx_get, if_neg hk]

theorem context_opens (l : Nat) (dir : Bool) (c cls : Nat) (phys : Bool) (target : CtxShape) (s : State)
    (hfree : ((s.link l).ctxs.get (dir, c) {}).st = 0) (hup : s.linkUp l = true) (hl : l < 16) (hlo : 128 ≤ c) (hhi : c < 240) (hcls : cls < 5) :
    ∃ w, exec (.contextSetup l dir c cls phys target) s = .next w ∧ w = { s with links := w.links } ∧
      (w.link l).ctxs.get (dir, c) {} =
        { st := 2, cls := cls, phys := phys, target := target.target, ext := target.ext, str := target.str, esz := target.esz } ∧
      ∀ k, k ≠ (dir, c) → (w.link l).ctxs.get k {} = (s.link l).ctxs.get k {} := by
  have hexec : exec (.contextSetup l dir c cls phys target) s = .next (s.modLink l (fun L => L.modCtx dir c (fun _ =>
      { st := 2, cls := cls, phys := phys, target := target.target, ext := target.ext, str := target.str, esz := target.esz }))) := by
    show execContextSetup l dir c cls phys target s = _
    rw [execContextSetup, if_pos (by simp [hfree, hup, demandCtx, hl, hlo, hhi, hcls])]
  exact ⟨_, hexec, rfl, ctx_written s l dir c _⟩

theorem context_held (l : Nat) (dir : Bool) (c : Nat) (s : State) (h : s.ctxHeld (l, dir, c) = true) :
    exec (.contextTeardown l dir c) s = .next s := by
  show execContextTeardown l dir c s = _
  rw [execContextTeardown, if_pos h]

theorem context_closes (l : Nat) (dir : Bool) (c : Nat) (s : State) (hjoined : s.ctxHeld (l, dir, c) = false)
    (hgone : ∀ id, ((s.link l).ctxs.get (dir, c) {}).launch = some id → s.placement? id = none) :
    ∃ w, exec (.contextTeardown l dir c) s = .next w ∧ w = { s with links := w.links } ∧
      (w.link l).ctxs.get (dir, c) {} = {} ∧ ∀ k, k ≠ (dir, c) → (w.link l).ctxs.get k {} = (s.link l).ctxs.get k {} := by
  have hexec : exec (.contextTeardown l dir c) s = .next (s.modLink l (fun L => L.modCtx dir c (fun _ => {}))) := by
    show execContextTeardown l dir c s = _
    rw [execContextTeardown, if_neg (by simp [hjoined])]
    cases hlaunch : ((s.link l).ctxs.get (dir, c) {}).launch with
    | none => rfl
    | some id => exact if_neg (by simp [hgone id hlaunch])
  exact ⟨_, hexec, rfl, ctx_written s l dir c _⟩

/-! ## Links and ports that go down (R137, R410, R436) -/

/-- The state of a link that went down, before its causes are raised. -/
def State.cutLink (s : State) (l : Nat) : State :=
  { s.modLink l (fun L => { L with down := true }) with
    chans := (s.modLink l (fun L => { L with down := true })).chans.map (fun (k, c) => (k, c.cut l)) }

theorem link_goes_down (l : Nat) (s : State) (hl : l < 16) (hup : (s.link l).down = false) (hretry : Config.retryLimit < (s.link l).retries) :
    ∃ w, exec (.linkDown l) s = .next w ∧ sameBytes s w ∧ (w.link l).down = true ∧
      ∀ r, r < 80 → (s.hasContext r l = true ∨ s.hasRemote r l = true) → (s.region r).launch.isSome = true →
        (w.core r).pend.link.isSome = true := by
  have hexec : exec (.linkDown l) s = .next (((List.range 80).filter (fun r => s.hasContext r l || s.hasRemote r l)).foldl
      (fun s r => s.raise r .link (BitVec.ofNat 64 l)) (s.cutLink l)) := by
    show execLinkDown l s = _
    rw [execLinkDown, if_pos (by simp [hl, hup, hretry])]; rfl
  have hdown : ((s.cutLink l).link l).down = true := by
    show ((s.modLink l (fun L => { L with down := true })).link l).down = true
    rw [State.link_modLink_same]
  have hraised := State.raised_foldl (g := fun s r => s.raise r .link (BitVec.ofNat 64 l)) (fun s r => s.raised_raise r _ _)
    ((List.range 80).filter (fun r => s.hasContext r l || s.hasRemote r l)) (s.cutLink l)
  refine ⟨_, hexec, hraised.sameBytes, ?_, fun r hr hhas hlaunch => ?_⟩
  · obtain ⟨rs, hrs⟩ := hraised.rest
    rw [hrs]; exact hdown
  · have hmem : r ∈ (List.range 80).filter (fun r => s.hasContext r l || s.hasRemote r l) :=
      List.mem_filter.mpr ⟨List.mem_range.mpr hr, by rcases hhas with h | h <;> simp [h]⟩
    exact State.raises_holds (c := .link) (by decide) (by decide) hmem (s := s.cutLink l) hlaunch

theorem dvori_changes (p : Nat) (st : DvoriState) (lanes : BitVec 4) (s : State) (hp : p < 16) :
    ∃ w, exec (.dvoriPortStateChange p st lanes) s = .next w ∧ sameBytes s w ∧
    w.dev.dvori.get p {} = { s.dev.dvori.get p {} with st := st, lanes := lanes } ∧
    ((s.dev.dvori.get p {}).st = .up → st ≠ .up → ∀ r ∈ s.remoteRegions p, (s.region r).launch.isSome = true →
      (w.core r).pend.link.isSome = true) := by
  let s1 := s.modDev (fun d => { d with dvori := d.dvori.set p { s.dev.dvori.get p {} with st := st, lanes := lanes } })
  have hget : s1.dev.dvori.get p {} = { s.dev.dvori.get p {} with st := st, lanes := lanes } := Map.get_set_same ..
  have hexec : exec (.dvoriPortStateChange p st lanes) s = (if (s.dev.dvori.get p {}).st = .up && st ≠ .up then
      .next ((s.remoteRegions p).foldl (fun s r => s.raise r .link (BitVec.ofNat 64 (16 + p))) s1) else .next s1) := by
    show execDvoriPortStateChange p st lanes s = _
    rw [execDvoriPortStateChange]; exact if_neg (by omega)
  by_cases hdown : ((s.dev.dvori.get p {}).st = .up && st ≠ .up) = true
  · rw [if_pos hdown] at hexec
    have hraised := State.raised_foldl (g := fun s r => s.raise r .link (BitVec.ofNat 64 (16 + p))) (fun s r => s.raised_raise r _ _)
      (s.remoteRegions p) s1
    refine ⟨_, hexec, hraised.sameBytes, ?_, fun _ _ r hr hl => State.raises_holds (c := .link) (by decide) (by decide) hr (s := s1) hl⟩
    obtain ⟨rs, hrs⟩ := hraised.rest
    rw [hrs]; exact hget
  · rw [if_neg hdown] at hexec
    exact ⟨_, hexec, fun a => ⟨rfl, rfl⟩, hget, fun hwas hst => (hdown (Bool.and_eq_true_iff.mpr ⟨decide_eq_true hwas, decide_eq_true hst⟩)).elim⟩

theorem linksRun : Says.LinksRun :=
  ⟨flit_arrives, flit_passes, flit_waits_outside, credits_return, flit_check_fails, context_opens, context_held, context_closes,
    link_goes_down, dvori_changes⟩

/-- Settles O42: the exchange's steps, the links' and the errors', each by what its own step answers. -/
theorem exchangeLinksAndErrors : Obligations.ExchangeLinksAndErrors := ⟨exchangeRuns, linksRun, errorsPoison⟩


/-! PROOFS. Requests that end at their port: what the completion leaves, and where its value and token stand (O40). -/

/-! ## What placing and landing touch -/

/-- A state that differs in elements, regions, the hub, channels, links and tickets alone. -/
def State.Spares (s t : State) : Prop :=
  ∃ us rs h cs ls k, t = { s with units := us, regions := rs, hub := h, chans := cs, links := ls, ticket := k }

theorem State.Spares.refl (s : State) : s.Spares s := ⟨_, _, _, _, _, _, rfl⟩

theorem State.Spares.trans {s t w : State} (h : s.Spares t) (k : t.Spares w) : s.Spares w := by
  obtain ⟨_, _, _, _, _, _, rfl⟩ := h
  obtain ⟨_, _, _, _, _, _, rfl⟩ := k
  exact ⟨_, _, _, _, _, _, rfl⟩

theorem State.Spares.foldl {α : Type} {f : State → α → State} (hf : ∀ (s : State) x, s.Spares (f s x)) (l : List α) (s : State) :
    s.Spares (l.foldl f s) := by
  induction l generalizing s with
  | nil => exact .refl s
  | cons x l ih => exact (hf s x).trans (ih _)

theorem State.OnlyCounts.spares {s t : State} (h : s.OnlyCounts t) : s.Spares t := ⟨_, _, _, _, _, _, h.rest⟩

theorem State.Raised.spares {s t : State} (h : s.Raised t) : s.Spares t := by
  obtain ⟨rs, rfl⟩ := h.rest
  exact ⟨_, _, _, _, _, _, rfl⟩

section
variable (s : State) (u : UnitId)

theorem State.spares_modUnit (f : EUnit → EUnit) : s.Spares (s.modUnit u f) := ⟨_, _, _, _, _, _, rfl⟩
theorem State.spares_setUnit (x : EUnit) : s.Spares (s.setUnit u x) := ⟨_, _, _, _, _, _, rfl⟩
theorem State.spares_modRegion (r : Nat) (f : Region → Region) : s.Spares (s.modRegion r f) := ⟨_, _, _, _, _, _, rfl⟩
theorem State.spares_modChan (k : Sink) (f : Chan → Chan) : s.Spares (s.modChan k f) := ⟨_, _, _, _, _, _, rfl⟩
theorem State.spares_modHub (f : Hub → Hub) : s.Spares (s.modHub f) := ⟨_, _, _, _, _, _, rfl⟩
theorem State.spares_modLink (l : Nat) (f : Link → Link) : s.Spares (s.modLink l f) := ⟨_, _, _, _, _, _, rfl⟩

/-- A killed pulse is counted in the slot, the package's counter and a region's. -/
theorem State.countKill_rest (r : Nat) (w : Word) : ∃ h rs, s.countKill r w = { s with hub := h, regions := rs } := by
  rw [State.countKill]
  split
  · exact ⟨_, _, rfl⟩
  · rw [(State.count_onlyCounts ..).rest]
    exact ⟨_, _, rfl⟩

theorem State.checkHeader_rest (r : Nat) (x : Tok) : ∃ h rs, (s.checkHeader r x).1 = { s with hub := h, regions := rs } := by
  rw [State.checkHeader]
  split
  · exact ⟨_, _, rfl⟩
  split
  · exact ⟨_, _, rfl⟩
  split
  · dsimp only
    split
    · exact s.countKill_rest ..
    · exact ⟨_, _, rfl⟩
  · exact ⟨_, _, rfl⟩

theorem State.spares_checkHeader (r : Nat) (x : Tok) : s.Spares (s.checkHeader r x).1 := by
  obtain ⟨h, rs, heq⟩ := s.checkHeader_rest r x
  rw [heq]; exact ⟨_, _, _, _, _, _, rfl⟩

theorem State.leaves_onlyCounts (k : Sink) (x : Tok) : s.OnlyCounts (s.leaves u k x) := by
  unfold State.leaves
  split
  · exact s.stir_onlyCounts _
  split
  · exact .refl s
  split
  · exact s.stir_onlyCounts _
  · exact (s.stir_onlyCounts _).trans (State.countEvent_onlyCounts ..)

theorem State.spares_placeRaw (o tick : Nat) (x : Tok) : s.Spares (s.placeRaw u o tick x) :=
  .foldl (fun s k => (s.spares_modChan k _).trans (State.leaves_onlyCounts _ u k x).spares) _ s

theorem State.spares_place (o tick : Nat) (x : Tok) : s.Spares (s.place u o tick x) := by
  rw [State.place]
  dsimp only
  have hraw := (s.spares_checkHeader u.region (x.madeBy u tick)).trans (State.spares_placeRaw _ u o tick (s.checkHeader u.region (x.madeBy u tick)).2)
  split
  · exact hraw.trans (State.spares_modRegion ..)
  · exact hraw

theorem State.spares_release (o tick : Nat) : s.Spares (s.release u o tick) :=
  .foldl (fun s k => s.spares_modChan k _) _ s

theorem State.spares_landToks (tick : Nat) (l : List (Nat × Option Tok)) : s.Spares (s.landToks u tick l) := by
  induction l generalizing s with
  | nil => exact .refl s
  | cons e l ih =>
    obtain ⟨o, x⟩ := e
    cases x with
    | some x => exact (s.spares_place u o tick x).trans (ih _)
    | none => exact (s.spares_release u o tick).trans (ih _)

theorem State.spares_oweMark (tick : Nat) (o : Option Nat) : s.Spares (s.oweMark u tick o) := by
  cases o with
  | none => exact .refl s
  | some o => exact ⟨_, _, _, _, _, _, rfl⟩

theorem State.spares_recordFaultOf (tick : Nat) (cause : Byte) (word ctx : Nat) (chan : Option Nat) (sb : BitVec 14) (flags : BitVec 6) :
    s.Spares (s.recordFaultOf u tick cause word ctx chan sb flags) := by
  rw [State.recordFaultOf]
  dsimp only
  split
  · split <;> exact s.spares_setUnit ..
  · exact .trans (t := { s.setUnit u _ with ticket := _ }) ⟨_, _, _, _, _, _, rfl⟩ (State.raised_raise ..).spares

theorem State.spares_leavePort (q : PortReq) : s.Spares (s.leavePort u q) :=
  ((s.spares_modUnit u _).trans (.foldl (fun s _ => s.spares_modLink _ _) _ _)).trans (.foldl (fun s _ => s.spares_modLink _ _) _ _)

end

/-! ## A landing that writes no ring row and grants nothing -/

section
variable (s : State) (u : UnitId) (f : Flight) (hrows : f.land.rows = []) (hgrant : f.land.grant = none)

include hrows hgrant in
theorem State.landRest_plain : s.landRest u f = (s.modUnit u (fun x => x.landed f)).landToks u f.tick f.land.toks := by
  rw [State.landRest, hrows, hgrant]; rfl

include hrows hgrant in
theorem State.spares_land : s.Spares (s.land u f) := by
  have hflags : s.Spares (s.landFlags u f) := by
    rw [State.landFlags, s.landRest_plain u f hrows hgrant]
    exact (((s.spares_modUnit u _).trans (State.spares_landToks ..)).trans (State.spares_modRegion ..)).trans (State.spares_oweMark ..)
  rw [State.land_eq, State.arithTrap]
  split
  · exact hflags.trans (State.spares_recordFaultOf ..)
  · exact hflags

theorem State.recordFaultOf_reqs (tick : Nat) (cause : Byte) (word ctx : Nat) (chan : Option Nat) (sb : BitVec 14) (flags : BitVec 6) :
    ((s.recordFaultOf u tick cause word ctx chan sb flags).unit u).reqs = (s.unit u).reqs := by
  rw [State.recordFaultOf]
  dsimp only
  split
  · split <;> rw [State.unit_setUnit_same]
  · rw [State.unit_raise_setUnit]

theorem State.land_reqs : ((s.land u f).unit u).reqs = (s.unit u).reqs := by
  have howe : ∀ (t : State) tick o, ((t.oweMark u tick o).unit u).reqs = (t.unit u).reqs := fun t tick o => by
    cases o with
    | none => rfl
    | some o => rw [State.oweMark, State.unit_modUnit_same]
  have hflags : ((s.landFlags u f).unit u).reqs = (s.unit u).reqs := by
    rw [State.landFlags, howe]
    show ((s.landRest u f).unit u).reqs = _
    rw [State.landRest_unit]; rfl
  rw [State.land_eq, State.arithTrap]
  split
  · rw [State.recordFaultOf_reqs, hflags]
  · exact hflags

theorem State.land_chans_plain (hflags : f.land.flags = 0) : (s.land u f).chans = (s.landRest u f).chans := by
  have howe : ∀ (t : State) tick o, (t.oweMark u tick o).chans = t.chans := fun t tick o => by cases o <;> rfl
  rw [State.land_eq, State.arithTrap, hflags, if_neg (by simp [State.trapsOn]), State.landFlags, howe]
  rfl

end

/-! ## A token placed on every branch of an output (R96, R110) -/

theorem State.placeAll_places (u : UnitId) (tick : Nat) (x : Tok) {ks : List Sink} (hnodup : ks.Nodup) (k : Sink) (s : State) :
    ((ks.foldl (fun s k => (s.modChan k (fun c => { c with
      places := fillPlace c.places tick x, drained := c.drained || (x.kind = 2 && x.data = 1) })).leaves u k x) s).chan k).places =
      if k ∈ ks then fillPlace (s.chan k).places tick x else (s.chan k).places := by
  induction ks generalizing s with
  | nil => rfl
  | cons j ks ih =>
    obtain ⟨hnot, hrest⟩ := List.nodup_cons.mp hnodup
    rw [List.foldl_cons, ih hrest, (State.leaves_onlyCounts _ u j x).chan, State.chan_modChan]
    by_cases hk : k = j
    · subst hk
      rw [if_neg hnot, if_pos rfl, if_pos (List.mem_cons_self ..)]
    · rw [if_neg hk]
      exact if_congr (by rw [List.mem_cons]; exact (or_iff_right hk).symm) rfl rfl

theorem State.place_places {s : State} {u : UnitId} {o : Nat} (hnodup : (s.branches u o).Nodup) {k : Sink} (hk : k ∈ s.branches u o) (tick : Nat)
    (x : Tok) : ((s.place u o tick x).chan k).places = fillPlace (s.chan k).places tick (s.checkHeader u.region (x.madeBy u tick)).2 := by
  obtain ⟨h, rs, heq⟩ := s.checkHeader_rest u.region (x.madeBy u tick)
  have hraw : (((s.checkHeader u.region (x.madeBy u tick)).1.placeRaw u o tick (s.checkHeader u.region (x.madeBy u tick)).2).chan k).places =
      fillPlace (s.chan k).places tick (s.checkHeader u.region (x.madeBy u tick)).2 := by
    rw [heq]
    refine (State.placeAll_places u tick _ (ks := s.branches u o) hnodup k _).trans ?_
    rw [if_pos hk]; rfl
  rw [State.place]
  dsimp only
  split
  · exact hraw
  · exact hraw

theorem State.checkHeader_congr {s t : State} {r : Nat} (hl : (t.region r).launch = (s.region r).launch) (hh : t.hub = s.hub) (x : Tok) :
    (t.checkHeader r x).2 = (s.checkHeader r x).2 := by
  have hp : ∀ id, t.placement? id = s.placement? id := fun id => by rw [State.placement?, hh]; rfl
  unfold State.checkHeader
  rw [hl]
  cases (s.region r).launch with
  | none => rfl
  | some id =>
    dsimp only
    rw [hp]
    cases s.placement? id with
    | none => rfl
    | some p =>
      dsimp only
      split <;> rfl

/-! ## A request's end (R291, R302) -/

/-- A request that leaves its port is dropped, and the links' contexts are counted and closed. -/
theorem State.leavePort_links (s : State) (u : UnitId) (q : PortReq) :
    ∃ ls, s.leavePort u q = { s.modUnit u (fun x => x.dropReq q.tick) with links := ls } := by
  have hlinks : ∀ (g : State → CtxRef → State) (_ : ∀ t k, ∃ ls, g t k = { t with links := ls }) (cs : List CtxRef) (t : State),
      ∃ ls, cs.foldl g t = { t with links := ls } := fun g hg cs => by
    induction cs with
    | nil => exact fun t => ⟨_, rfl⟩
    | cons c cs ih =>
      intro t
      obtain ⟨ls, h⟩ := hg t c
      obtain ⟨ks, hk⟩ := ih (g t c)
      exact ⟨ks, by rw [List.foldl_cons, hk, h]⟩
  obtain ⟨ls, h1⟩ := hlinks (fun s k => s.countFlit k.1 k.2.1 k.2.2) (fun t k => ⟨_, rfl⟩) q.ctxs (s.modUnit u (fun x => x.dropReq q.tick))
  obtain ⟨ks, h2⟩ := hlinks (fun s k => s.modLink k.1 (fun L => { L with ctxs := L.ctxs.del (k.2.1, k.2.2) })) (fun t k => ⟨_, rfl⟩) q.ctxs
    ((s.modUnit u (fun x => x.dropReq q.tick)).countFlits q.ctxs)
  exact ⟨ks, by rw [State.leavePort, State.closeCtxs, h2, State.countFlits, h1]⟩

theorem State.leavePort_unit (s : State) (u : UnitId) (q : PortReq) : (s.leavePort u q).unit u = (s.unit u).dropReq q.tick := by
  obtain ⟨ls, h⟩ := s.leavePort_links u q
  rw [h]
  show (s.modUnit u (fun x => x.dropReq q.tick)).unit u = _
  rw [State.unit_modUnit_same]


/-! PROOFS. Stamped accesses: their installation, their visibility, and the returns of LDAS (O40). -/

/-! ## The end of a request -/

section
variable (t : State) (u : UnitId) (q : PortReq)

theorem State.spares_landReq {l : Landing} (hrows : l.rows = []) (hgrant : l.grant = none) : t.Spares (t.landReq u q l) :=
  t.spares_land u ⟨q.tick, t.cyc, q.ctx, q.slot, l⟩ hrows hgrant

theorem State.spares_finishReq (kind : BitVec 2) (v : Word) (p : Bool) (f : BitVec 6) : t.Spares (t.finishReq u q kind v p f) := by
  rw [State.finishReq]
  exact ((t.spares_leavePort u q).trans (State.spares_landReq _ u q rfl rfl)).trans (State.stir_onlyCounts ..).spares

theorem State.spares_portFault (cause : Byte) : t.Spares (t.portFault u q cause) :=
  ((t.spares_leavePort u q).trans (State.spares_landReq _ u q rfl rfl)).trans (State.spares_recordFaultOf ..)

theorem State.landReq_gone (l : Landing) : ((t.leavePort u q).landReq u q l).gone u q := by
  intro p hp
  rw [State.landReq, State.land_reqs, State.leavePort_unit] at hp
  simpa using (List.mem_filter.mp hp).2

theorem State.finishReq_gone (kind : BitVec 2) (v : Word) (p : Bool) (f : BitVec 6) : (t.finishReq u q kind v p f).gone u q :=
  t.landReq_gone u q _

theorem State.portFault_gone (cause : Byte) : (t.portFault u q cause).gone u q := by
  intro p hp
  rw [State.portFault, State.recordFaultOf_reqs] at hp
  exact t.landReq_gone u q _ p hp

theorem State.portFault_efault (cause : Byte) (hclean : (t.unit u).efault.getLsbD 63 = false) :
    ((t.portFault u q cause).unit u).efault = efaultWord cause q.slot q.ctx (t.boundTagOf u) none 0 0 := by
  have hregion : (t.leavePort u q).region u.region = t.region u.region := by
    obtain ⟨ls, h⟩ := t.leavePort_links u q
    rw [h]; rfl
  let f : Flight := ⟨q.tick, (t.leavePort u q).cyc, q.ctx, q.slot, q.failed⟩
  have hquiet : (((t.leavePort u q).land u f).unit u).efault = (t.unit u).efault := by
    rw [State.land_efault_of_quiet _ u f (BitVec.and_zero ..), State.leavePort_unit]; rfl
  have htag : (((t.leavePort u q).land u f).region u.region).tag = t.boundTagOf u := by
    obtain ⟨-, -, htag⟩ := (t.leavePort u q).landFlags_region u f
    rw [State.land_eq, State.arithTrap, if_neg (by simp [State.trapsOn, f, PortReq.failed]), htag, hregion]; rfl
  rw [State.portFault, State.landReq, State.recordFaultOf_first _ _ _ _ _ _ _ _ _ (by rw [hquiet]; exact hclean), htag]

/-- The token of a request's completion. -/
def PortReq.token (q : PortReq) (tag : Byte) (kind : BitVec 2) (v : Word) (p : Bool) : Tok := ⟨v, kind, p, tag, q.utag, q.last, false, .memory⟩

theorem State.finishReq_completed (kind : BitVec 2) (v : Word) (p : Bool) : t.completed (t.finishReq u q kind v p 0) u q kind v p := by
  obtain ⟨ls, hleave⟩ := t.leavePort_links u q
  let f : Flight := ⟨q.tick, (t.leavePort u q).cyc, q.ctx, q.slot, q.landing (t.region u.region).tag kind v p 0⟩
  have hctx : ((t.finishReq u q kind v p 0).unit u).context q.ctx =
      (((t.leavePort u q).unit u).context q.ctx).land (q.landing (t.region u.region).tag kind v p 0) := by
    refine ((t.leavePort u q).land_context u f q.ctx).trans ?_
    exact EUnit.landed_context ..
  refine ⟨fun r hr => ?_, fun o ho hnodup w i hmem => ?_⟩
  · have hreg : (q.landing (t.region u.region).tag kind v p 0).reg = some (r, v, p) := by rw [PortReq.landing, hr]; rfl
    obtain ⟨hx, hpx⟩ := Ctx.land_reg (((t.leavePort u q).unit u).context q.ctx) _ hreg
    rw [hctx]
    exact ⟨hx, hpx, Ctx.land_regPend _ _ hr⟩
  · have htoks : f.land.toks = [(o, some (q.token (t.region u.region).tag kind v p))] := by
      show q.outs.map _ = _
      rw [ho]; rfl
    have hchans : (t.finishReq u q kind v p 0).chans = (((t.leavePort u q).modUnit u (fun x => x.landed f)).place u o q.tick
        (q.token (t.region u.region).tag kind v p)).chans := by
      have h := (t.leavePort u q).land_chans_plain u f rfl
      rw [State.landRest_plain _ u f rfl rfl, htoks] at h
      exact h
    have hbranches : ((t.leavePort u q).modUnit u (fun x => x.landed f)).branches u o = t.branches u o := by rw [hleave]; rfl
    have hplaces := State.place_places (hbranches ▸ hnodup) (hbranches ▸ hmem) q.tick (q.token (t.region u.region).tag kind v p)
    have hhead := State.checkHeader_congr (s := t) (t := (t.leavePort u q).modUnit u (fun x => x.landed f)) (r := u.region) (by rw [hleave]; rfl)
      (by rw [hleave]; rfl) (q.token (t.region u.region).tag kind v p)
    rw [State.chan, hchans, ← State.chan, hplaces]
    refine congrArg₂ (fun ps x => fillPlace ps q.tick x) ?_ hhead
    rw [hleave]; rfl

end

/-- What a completion says of the state before depends on the channels, the wires, the hub, and the region's launch and tag. -/
theorem State.completed_congr {s t w : State} {u : UnitId} {q : PortReq} {kind : BitVec 2} {v : Word} {p : Bool} (hwires : t.wires = s.wires)
    (hchan : ∀ k, t.chan k = s.chan k) (hhub : t.hub = s.hub) (hlaunch : (t.region u.region).launch = (s.region u.region).launch)
    (htag : t.boundTagOf u = s.boundTagOf u) (hc : t.completed w u q kind v p) : s.completed w u q kind v p := by
  have hbranches : ∀ o, t.branches u o = s.branches u o := fun o => by rw [State.branches, hwires]; rfl
  have hhead := State.checkHeader_congr (s := s) (t := t) (r := u.region) hlaunch hhub
    ⟨v, kind, p, s.boundTagOf u, q.utag, q.last, false, .memory⟩
  obtain ⟨hreg, hout⟩ := hc
  refine ⟨hreg, fun o ho hnodup w' i hmem => ?_⟩
  rw [hout o ho (by rw [hbranches]; exact hnodup) w' i (by rw [hbranches]; exact hmem), hchan, htag, hhead]

/-- Accesses are counted before they end: what a completion says does not depend on the counts. -/
theorem State.completed_of_onlyCounts {s t w : State} {u : UnitId} {q : PortReq} {kind : BitVec 2} {v : Word} {p : Bool} (h : s.OnlyCounts t)
    (hc : t.completed w u q kind v p) : s.completed w u q kind v p := by
  have hregion := h.regions u.region
  exact State.completed_congr (by rw [h.rest]) h.chan (by rw [h.rest]) (by rw [hregion]) (by rw [State.boundTagOf, hregion]; rfl) hc

theorem State.countBytes_onlyCounts (s : State) (u : UnitId) (a n : Nat) : s.OnlyCounts (s.countBytes u a n) := by
  rw [State.countBytes]
  split
  · exact s.countPort_onlyCounts ..
  · exact .refl s


/-! PROOFS. Stamped stores and loads (R148, R150, R298; O40). -/

theorem State.Spares.sameBytes {s t : State} (h : s.Spares t) : sameBytes s t := by
  obtain ⟨_, _, _, _, _, _, rfl⟩ := h
  exact fun a => ⟨rfl, rfl⟩

theorem State.Spares.stamped {s t : State} (h : s.Spares t) : t.stamped = s.stamped ∧ t.ldas = s.ldas := by
  obtain ⟨_, _, _, _, _, _, rfl⟩ := h
  exact ⟨rfl, rfl⟩

/-- The end of a request after its bytes are counted. -/
def State.endReq (s : State) (u : UnitId) (q : PortReq) (a : Nat) (kind : BitVec 2) (v : Word) (p : Bool) : State :=
  (s.countBytes u a 8).finishReq u q kind v p 0

section
variable (s : State) (u : UnitId) (q : PortReq) (a : Nat) (kind : BitVec 2) (v : Word) (p : Bool)

theorem State.spares_endReq : s.Spares (s.endReq u q a kind v p) :=
  (s.countBytes_onlyCounts u a 8).spares.trans (State.spares_finishReq ..)

theorem State.endReq_completed : s.completed (s.endReq u q a kind v p) u q kind v p :=
  State.completed_of_onlyCounts (s.countBytes_onlyCounts u a 8) (State.finishReq_completed ..)

end

/-! ## Stamped stores (R148, R298) -/

/-- The stamped store of a ticket leaves the list. -/
def State.dropStamped (s : State) (k : Nat) : State := { s with stamped := s.stamped.eraseIdx k }

theorem stamped_installs (k : Nat) (s : State) (x : Stamped) (hk : s.stamped[k]? = some x) (hnew : x.installed = false)
    (hup : s.routeDown x.die x.phys = false) (horder : s.installWaits x = false) :
    ∃ w, exec (.stampedInstall k) s = .next w ∧ w.stamped = (s.passedStores x).set k { x with installed := true } ∧
      w.mem = install s.mem (x.phys / 65536 * 65536) (x.phys % 65536 / 64) (x.phys % 64 / 8) x.data (s.carried x.die x.phys x.poison).1 x.stamp x.sys x.die
        s.dev.devid.toNat ∧ w.regions = s.regions ∧ w.units = s.units := by
  have hexec : exec (.stampedInstall k) s = .next { s.installNow x with stamped := (s.passedStores x).set k { x with installed := true } } := by
    show execStampedInstall k s = _
    simp only [execStampedInstall, hk]
    rw [if_neg (by simp [hnew]), if_neg (by simp [hup]), if_neg (by simp [horder])]
  have hword : x.phys % 65536 % 64 / 8 = x.phys % 64 / 8 := by omega
  refine ⟨_, hexec, rfl, ?_, ?_, ?_⟩ <;> simp only [State.installNow, State.carried_eq, hword]

theorem exec_stampedVisible {k : Nat} {s : State} {x : Stamped} (hk : s.stamped[k]? = some x) (hdone : x.installed = true)
    (hfloor : x.stamp < s.floorAt x.sys (homeDie x.phys)) : exec (.stampedVisible k) s = .next ((s.dropStamped k).stampDone x false) := by
  show execStampedVisible k s = _
  simp only [execStampedVisible, hk]
  rw [if_pos (by simp [hdone, hfloor])]; rfl

theorem stamped_completes_port (k : Nat) (s : State) (x : Stamped) (u : UnitId) (q : PortReq) (hk : s.stamped[k]? = some x)
    (hdone : x.installed = true) (hfloor : x.stamp < s.floorAt x.sys (homeDie x.phys)) (hwait : x.wait = .port u q.tick)
    (hq : (s.unit u).reqs.find? (fun p => p.tick = q.tick) = some q) :
    ∃ w, exec (.stampedVisible k) s = .next w ∧ sameBytes s w ∧ w.stamped = s.stamped.eraseIdx k ∧ w.gone u q ∧
      s.completed w u q 1 (BitVec.ofNat 64 x.stamp) false := by
  have hexec : exec (.stampedVisible k) s = .next ((s.dropStamped k).endReq u q x.phys 1 (BitVec.ofNat 64 x.stamp) false) := by
    have hq' : ((s.dropStamped k).unit u).reqs.find? (fun p => p.tick = q.tick) = some q := hq
    rw [exec_stampedVisible hk hdone hfloor]
    unfold State.stampDone
    simp only [hwait, hq']; rfl
  have hspare := (s.dropStamped k).spares_endReq u q x.phys 1 (BitVec.ofNat 64 x.stamp) false
  exact ⟨_, hexec, hspare.sameBytes, hspare.stamped.1, State.finishReq_gone _ u q _ _ _ _, 
    State.completed_congr (t := s.dropStamped k) rfl (fun _ => rfl) rfl rfl rfl (State.endReq_completed ..)⟩

theorem stamped_completes_core (k : Nat) (s : State) (x : Stamped) (r : Nat) (d : BitVec 5) (hk : s.stamped[k]? = some x)
    (hdone : x.installed = true) (hfloor : x.stamp < s.floorAt x.sys (homeDie x.phys)) (hwait : x.wait = .core r)
    (hstall : (s.core r).stall = some (.sts x.stamp d)) :
    ∃ w, exec (.stampedVisible k) s = .next w ∧ sameBytes s w ∧ w.stamped = s.stamped.eraseIdx k ∧
      (w.core r).pc = (s.core r).pc + 4 ∧ (w.core r).stall = none ∧ sameRegs r d s w ∧
      (d ≠ 0 → w.greg r d = BitVec.ofNat 64 x.stamp) := by
  have hexec : exec (.stampedVisible k) s = .next ((s.dropStamped k).modCore r (fun k => (k.write d (BitVec.ofNat 64 x.stamp) false).step4)) := by
    have hstall' : ((s.dropStamped k).core r).stall = some (.sts x.stamp d) := hstall
    rw [exec_stampedVisible hk hdone hfloor]
    unfold State.stampDone
    simp only [hwait, hstall', if_pos]
  have hpc := (stepsOn_modCore_write (s.dropStamped k) r d (BitVec.ofNat 64 x.stamp) false).1
  refine ⟨_, hexec, fun a => ⟨rfl, rfl⟩, rfl, hpc, ?_, sameRegs_modCore_write (s.dropStamped k) r d _ _, fun hd => ?_⟩
  · rw [State.core_modCore_same]; rfl
  · rw [State.greg, read_modCore_write_same _ r hd]; rfl

theorem stsp_completes (k : Nat) (u : UnitId) (s : State) (q : PortReq) (t : Target) (sys : Bool) (hk : (s.unit u).reqs[k]? = some q)
    (hstage : q.stage = .stamped) (hop : q.op = .stsp sys) (hx : s.xlatWord u q.addr .stampedStore = .done (.ok t))
    (hup : s.routeDown (unitDie u) t.addr = false) :
    ∃ w, exec (.memoryAccessComplete (.port u) k) s = .next w ∧ sameBytes s w ∧ w.gone u q ∧ s.completed w u q 1 q.exp false := by
  have hexec : exec (.memoryAccessComplete (.port u) k) s = .next (s.endReq u q t.addr 1 q.exp false) := by
    have hx' : s.xlatWord u q.addr q.op.access = .done (.ok t) := by rw [hop]; exact hx
    show Host.Outcome.next (s.serve u k) = _
    rw [State.serve]
    simp only [hk, hstage]
    split
    · rw [hx']; simp only [hup]; rfl
    · next hno => exact absurd hop (hno sys)
  exact ⟨_, hexec, (s.spares_endReq ..).sameBytes, State.finishReq_gone _ u q _ _ _ _, s.endReq_completed ..⟩

/-! ## LDAS (R150) -/

/-- The LDAS of a place leaves the list. -/
def State.dropLdas (s : State) (k : Nat) : State := { s with ldas := s.ldas.eraseIdx k }

theorem exec_ldasReturn {k : Nat} {s : State} {x : LdasReq} (hk : s.ldas[k]? = some x) (hfloor : x.t < s.floorAt x.sys (homeDie x.phys)) :
    exec (.ldasReturn k) s = .next ((s.dropLdas k).ldasDone x) := by
  show execLdasReturn k s = _
  simp only [execLdasReturn, hk]
  rw [if_pos (by simp [hfloor])]; rfl

/-- The address that an LDAS reads in a slot of its line. -/
def LdasReq.reads (x : LdasReq) (slot : Nat) : Nat := lineSlot (x.phys / 65536 * 65536) (x.phys % 65536 / 64) slot + x.phys % 64

theorem State.ldasValue_of_slot {s : State} {x : LdasReq} {slot : Nat}
    (h : ldasSlot s.mem (x.phys / 65536 * 65536) (x.phys % 65536 / 64) x.t = some slot) :
    s.ldasValue x = some (s.mem.word (x.reads slot), s.mem.poisoned (x.reads slot)) := by
  have hoff : x.phys % 65536 % 64 = x.phys % 64 := by omega
  simp only [State.ldasValue, h, hoff, Option.map_some, LdasReq.reads]

theorem ldas_returns_port (k : Nat) (s : State) (x : LdasReq) (u : UnitId) (q : PortReq) (slot : Nat) (hk : s.ldas[k]? = some x)
    (hfloor : x.t < s.floorAt x.sys (homeDie x.phys)) (hup : s.routeDown x.die x.phys = false)
    (hslot : ldasSlot s.mem (x.phys / 65536 * 65536) (x.phys % 65536 / 64) x.t = some slot) (hwait : x.wait = .port u q.tick)
    (hq : (s.unit u).reqs.find? (fun p => p.tick = q.tick) = some q) :
    ∃ w, exec (.ldasReturn k) s = .next w ∧ sameBytes s w ∧ w.ldas = s.ldas.eraseIdx k ∧ w.gone u q ∧
      s.completed w u q 0 (s.mem.word (x.reads slot)) (s.mem.poisoned (x.reads slot)) := by
  have hexec : exec (.ldasReturn k) s =
      .next ((s.dropLdas k).endReq u q x.phys 0 (s.mem.word (x.reads slot)) (s.mem.poisoned (x.reads slot))) := by
    have hq' : ((s.dropLdas k).unit u).req? q.tick = some q := hq
    have hup' : (s.dropLdas k).routeDown x.die x.phys = false := hup
    have hvalue : (s.dropLdas k).ldasValue x = some (s.mem.word (x.reads slot), s.mem.poisoned (x.reads slot)) :=
      State.ldasValue_of_slot (s := s.dropLdas k) hslot
    rw [exec_ldasReturn hk hfloor]
    unfold State.ldasDone
    simp only [hwait, hup', hvalue, hq', Bool.false_eq_true, if_false]; rfl
  have hspare := (s.dropLdas k).spares_endReq u q x.phys 0 (s.mem.word (x.reads slot)) (s.mem.poisoned (x.reads slot))
  exact ⟨_, hexec, hspare.sameBytes, hspare.stamped.2, State.finishReq_gone _ u q _ _ _ _, 
    State.completed_congr (t := s.dropLdas k) rfl (fun _ => rfl) rfl rfl rfl (State.endReq_completed ..)⟩

theorem ldas_returns_core (k : Nat) (s : State) (x : LdasReq) (r i : Nat) (d : BitVec 5) (slot : Nat) (hk : s.ldas[k]? = some x)
    (hfloor : x.t < s.floorAt x.sys (homeDie x.phys)) (hup : s.routeDown x.die x.phys = false)
    (hslot : ldasSlot s.mem (x.phys / 65536 * 65536) (x.phys % 65536 / 64) x.t = some slot) (hwait : x.wait = .core r)
    (hstall : (s.core r).stall = some (.ldas i d)) :
    ∃ w, exec (.ldasReturn k) s = .next w ∧ sameBytes s w ∧ w.ldas = s.ldas.eraseIdx k ∧ (w.core r).pc = (s.core r).pc + 4 ∧
      (d ≠ 0 → (w.core r).read d = Reg.of (s.mem.word (x.reads slot)) (s.mem.poisoned (x.reads slot))) ∧ sameRegs r d s w := by
  have hexec : exec (.ldasReturn k) s = .next ((s.dropLdas k).modCore r (fun k =>
      (k.write d (s.mem.word (x.reads slot)) (s.mem.poisoned (x.reads slot))).step4)) := by
    have hstall' : ((s.dropLdas k).core r).stall = some (.ldas i d) := hstall
    have hup' : (s.dropLdas k).routeDown x.die x.phys = false := hup
    have hvalue : (s.dropLdas k).ldasValue x = some (s.mem.word (x.reads slot), s.mem.poisoned (x.reads slot)) :=
      State.ldasValue_of_slot (s := s.dropLdas k) hslot
    rw [exec_ldasReturn hk hfloor]
    unfold State.ldasDone
    simp only [hwait, hup', hvalue, hstall', Bool.false_eq_true, if_false]
  exact ⟨_, hexec, fun a => ⟨rfl, rfl⟩, rfl, (stepsOn_modCore_write (s.dropLdas k) ..).1, fun hd => read_modCore_write_same _ r hd .., 
    sameRegs_modCore_write (s.dropLdas k) r d _ _⟩

theorem ldas_too_old (k : Nat) (s : State) (x : LdasReq) (u : UnitId) (q : PortReq) (hk : s.ldas[k]? = some x)
    (hfloor : x.t < s.floorAt x.sys (homeDie x.phys)) (hup : s.routeDown x.die x.phys = false)
    (hslot : ldasSlot s.mem (x.phys / 65536 * 65536) (x.phys % 65536 / 64) x.t = none) (hwait : x.wait = .port u q.tick)
    (hq : (s.unit u).reqs.find? (fun p => p.tick = q.tick) = some q) (hclean : (s.unit u).efault.getLsbD 63 = false) :
    ∃ w, exec (.ldasReturn k) s = .next w ∧ sameBytes s w ∧ w.gone u q ∧
      (w.unit u).efault = efaultWord 0x09 q.slot q.ctx (s.boundTagOf u) none 0 0 := by
  have hexec : exec (.ldasReturn k) s = .next ((s.dropLdas k).portFault u q cTOOOLD) := by
    have hq' : ((s.dropLdas k).unit u).req? q.tick = some q := hq
    have hup' : (s.dropLdas k).routeDown x.die x.phys = false := hup
    have hvalue : (s.dropLdas k).ldasValue x = none := by
      have hslot' : ldasSlot (s.dropLdas k).mem (x.phys / 65536 * 65536) (x.phys % 65536 / 64) x.t = none := hslot
      simp only [State.ldasValue, hslot', Option.map_none]
    rw [exec_ldasReturn hk hfloor]
    unfold State.ldasDone
    simp only [hwait, hup', hvalue, hq', Bool.false_eq_true, if_false]
  exact ⟨_, hexec, ((s.dropLdas k).spares_portFault u q cTOOOLD).sameBytes, State.portFault_gone _ u q _, 
    (s.dropLdas k).portFault_efault u q cTOOOLD hclean⟩

theorem stampedAccessesComplete : Says.StampedAccessesComplete :=
  ⟨stamped_installs, stamped_completes_port, stamped_completes_core, stsp_completes, ldas_returns_port, ldas_returns_core, ldas_too_old⟩

/-! ## Floors (R146, R437) -/

theorem State.die_modDie (s : State) (d e : Nat) (f : DieTime → DieTime) : (s.modDie d f).die e = if e = d then f (s.die d) else s.die e :=
  Map.get_set ..

theorem State.eachDie_die (s : State) (f : DieTime → DieTime) (d : Nat) : (s.eachDie f).die d = if d < 9 then f (s.die d) else s.die d := by
  suffices h : ∀ (l : List Nat) (_ : l.Nodup) (s : State), (l.foldl (fun s d => s.modDie d f) s).die d = if d ∈ l then f (s.die d) else s.die d by
    rw [State.eachDie, h _ List.nodup_range]
    exact if_congr List.mem_range rfl rfl
  intro l
  induction l with
  | nil => exact fun _ _ => rfl
  | cons e l ih =>
    intro hnodup s
    obtain ⟨hnot, hrest⟩ := List.nodup_cons.mp hnodup
    rw [List.foldl_cons, ih hrest, State.die_modDie]
    by_cases hd : d = e
    · subst hd
      rw [if_neg hnot, if_pos rfl, if_pos (List.mem_cons_self ..)]
    · rw [if_neg hd]
      exact if_congr (by rw [List.mem_cons]; exact (or_iff_right hd).symm) rfl rfl

theorem State.sysAdvance_of_lt {s : State} {f : Nat} (h : (s.die 8).sysFloor < f) : s.sysAdvance f =
    (s.eachDie (fun D => D.raiseSys f)).modHub (fun h => { h with stall152 := false, hubEAt := (s.die 8).e }) := by
  rw [State.sysAdvance, if_pos h]

/-- What an advance of the system floor leaves of the state, and of each die. -/
theorem State.sysAdvance_spec (s : State) (f : Nat) : (s.sysAdvance f).mem = s.mem ∧ (s.sysAdvance f).regions = s.regions ∧
    (s.sysAdvance f).stamped = s.stamped ∧ ∀ d, ((s.sysAdvance f).die d).floor = (s.die d).floor := by
  rw [State.sysAdvance]
  split
  · have hdie : ∀ d, ((s.eachDie (fun D => D.raiseSys f)).die d).floor = (s.die d).floor := fun d => by
      rw [State.eachDie_die]; split <;> rfl
    obtain ⟨ds, hds⟩ : ∃ ds, s.eachDie (fun D => D.raiseSys f) = { s with dies := ds } := ⟨_, s.eachDie_rest _⟩
    rw [hds] at hdie ⊢
    exact ⟨rfl, rfl, rfl, hdie⟩
  · exact ⟨rfl, rfl, rfl, fun _ => rfl⟩

theorem State.sysAdvance_raises {s : State} {f : Nat} (h : (s.die 8).sysFloor < f) : (s.sysAdvance f).hub.stall152 = false ∧
    ∀ d, d < 9 → ((s.sysAdvance f).die d).sysFloor = max (s.die d).sysFloor f := by
  rw [State.sysAdvance_of_lt h]
  refine ⟨rfl, fun d hd => ?_⟩
  show ((s.eachDie (fun D => D.raiseSys f)).die d).sysFloor = _
  rw [State.eachDie_die, if_pos hd]; rfl

theorem floor_broadcast (s : State) : ∃ w, exec .floorBroadcast s = .next w ∧ w.mem = s.mem ∧ w.regions = s.regions ∧ w.stamped = s.stamped ∧
    (∀ d, d < 9 → (w.die d).floor = max (s.die d).floor s.packageFloor) ∧
    (s.alone = true → (s.die 8).sysFloor < s.packageFloor → w.hub.stall152 = false ∧
      ∀ d, d < 9 → (w.die d).sysFloor = max (s.die d).sysFloor s.packageFloor) ∧
    (s.alone = false → ∀ d, (w.die d).sysFloor = (s.die d).sysFloor) := by
  have hexec : exec .floorBroadcast s = .next (if s.alone then (s.eachDie (fun D => D.raiseFloor s.packageFloor)).sysAdvance s.packageFloor
      else s.eachDie (fun D => D.raiseFloor s.packageFloor)) := rfl
  have hfloor : ∀ d, d < 9 → ((s.eachDie (fun D => D.raiseFloor s.packageFloor)).die d).floor = max (s.die d).floor s.packageFloor := fun d hd => by
    rw [State.eachDie_die, if_pos hd]; rfl
  have hsys : ∀ d, ((s.eachDie (fun D => D.raiseFloor s.packageFloor)).die d).sysFloor = (s.die d).sysFloor := fun d => by
    rw [State.eachDie_die]; split <;> rfl
  obtain ⟨ds, hds⟩ : ∃ ds, s.eachDie (fun D => D.raiseFloor s.packageFloor) = { s with dies := ds } := ⟨_, s.eachDie_rest _⟩
  rw [hds] at hexec hfloor hsys
  refine ⟨_, hexec, ?_⟩
  cases halone : s.alone with
  | false =>
    rw [if_neg (by simp)]
    exact ⟨rfl, rfl, rfl, hfloor, fun h => absurd h (by simp), fun _ => hsys⟩
  | true =>
    rw [if_pos rfl]
    obtain ⟨hmem, hregions, hstamped, hdie⟩ := ({ s with dies := ds } : State).sysAdvance_spec s.packageFloor
    refine ⟨hmem, hregions, hstamped, fun d hd => (hdie d).trans (hfloor d hd), fun _ hlt => ?_, fun h => absurd h (by simp)⟩
    obtain ⟨hstall, hraise⟩ := State.sysAdvance_raises (s := { s with dies := ds }) (f := s.packageFloor) (by rw [hsys]; exact hlt)
    exact ⟨hstall, fun d hd => (hraise d hd).trans (by rw [hsys])⟩

/-- The least value of a function over a list, no greater than a start. -/
theorem foldl_min_le {α : Type} (f : α → Nat) (l : List α) (m : Nat) : l.foldl (fun m x => min m (f x)) m ≤ m ∧
    (∀ x ∈ l, l.foldl (fun m x => min m (f x)) m ≤ f x) ∧
    (l.foldl (fun m x => min m (f x)) m = m ∨ ∃ x ∈ l, l.foldl (fun m x => min m (f x)) m = f x) := by
  induction l generalizing m with
  | nil => exact ⟨le_refl _, fun x hx => (by cases hx), .inl rfl⟩
  | cons y l ih =>
    obtain ⟨hle, hall, hex⟩ := ih (min m (f y))
    rw [List.foldl_cons]
    refine ⟨hle.trans (min_le_left ..), fun x hx => ?_, ?_⟩
    · rcases List.mem_cons.mp hx with rfl | hx
      · exact hle.trans (min_le_right ..)
      · exact hall x hx
    · rcases hex with hex | ⟨x, hx, hex⟩
      · rcases min_choice m (f y) with h | h
        · exact .inl (hex.trans h)
        · exact .inr ⟨y, List.mem_cons_self .., hex.trans h⟩
      · exact .inr ⟨x, List.mem_cons_of_mem _ hx, hex⟩

theorem packageFloor_least (s : State) :
    (∀ d, d < 9 → s.packageFloor ≤ s.closedMark d) ∧ ∃ d, d < 9 ∧ s.packageFloor = s.closedMark d := by
  obtain ⟨-, hall, hex⟩ := foldl_min_le s.closedMark (List.range 9) (s.closedMark 0)
  refine ⟨fun d hd => hall d (List.mem_range.mpr hd), ?_⟩
  rcases hex with hex | ⟨d, hd, hex⟩
  · exact ⟨0, by omega, hex⟩
  · exact ⟨d, List.mem_range.mp hd, hex⟩

theorem closedMark_least (s : State) (d : Nat) : let e := if (s.die d).wide then (s.die 8).e else (s.die d).e
    s.closedMark d ≤ e ∧ (∀ x ∈ s.stamped, x.die = d → x.installed = false → s.closedMark d ≤ x.stamp) ∧
    (s.closedMark d = e ∨ ∃ x ∈ s.stamped, x.die = d ∧ x.installed = false ∧ s.closedMark d = x.stamp) := by
  obtain ⟨hle, hall, hex⟩ := foldl_min_le Stamped.stamp (s.stamped.filter (fun x => x.die = d && !x.installed))
    (if (s.die d).wide then (s.die 8).e else (s.die d).e)
  refine ⟨hle, fun x hx hd hi => hall x (List.mem_filter.mpr ⟨hx, by simp [hd, hi]⟩), ?_⟩
  rcases hex with hex | ⟨x, hx, hex⟩
  · exact .inl hex
  · obtain ⟨hx, hcond⟩ := List.mem_filter.mp hx
    simp only [Bool.and_eq_true, decide_eq_true_eq, Bool.not_eq_true'] at hcond
    exact .inr ⟨x, hx, hcond.1, hcond.2, hex⟩

theorem floorsRise : Says.FloorsRise := by
  refine ⟨floor_broadcast, packageFloor_least, closedMark_least, fun f s hpeer hlt => ?_⟩
  have hexec : exec (.systemFloorUpdate f) s = .next (s.sysAdvance (min f s.packageFloor)) := by
    show execSystemFloorUpdate f s = _
    rw [execSystemFloorUpdate, if_pos hpeer]
  obtain ⟨hmem, hregions, -, hdie⟩ := s.sysAdvance_spec (min f s.packageFloor)
  obtain ⟨hstall, hraise⟩ := State.sysAdvance_raises hlt
  exact ⟨_, hexec, hmem, hregions, hstall, hraise, hdie⟩

/-! ## Clocks and widening (R144, R151, R152) -/

theorem clock_syncs (d e l : Nat) (s : State) (hpeer : s.peered = true) : ∃ w, exec (.clockSync d e l) s = .next w ∧ w.mem = s.mem ∧
    w.regions = s.regions ∧ (s.die d).e ≤ (w.die d).e ∧ (s.die d).l ≤ (w.die d).l ∧ s.now ≤ (w.die d).l ∧
    ((s.die d).e ≤ s.now → (w.die d).e ≤ s.now) ∧ (∀ c, c ≠ d → w.die c = s.die c) := by
  have hexec : exec (.clockSync d e l) s = .next (s.modDie d (fun D => D.sync s.now e l)) := by
    show execClockSync d e l s = _
    rw [execClockSync, if_pos hpeer]
  have hd : (s.modDie d (fun D => D.sync s.now e l)).die d = (s.die d).sync s.now e l := by rw [State.die_modDie, if_pos rfl]
  refine ⟨_, hexec, rfl, rfl, ?_, ?_, ?_, fun h => ?_, fun c hc => by rw [State.die_modDie, if_neg hc]⟩
  · rw [hd]; exact le_max_left ..
  · rw [hd]; exact le_max_left ..
  · rw [hd]; exact le_max_of_le_right (le_max_right ..)
  · rw [hd]; exact max_le h (min_le_right ..)

/-- INTERVAL_WIDE at a core of the die, or at any core for the hub. -/
def State.raiseWideAt (s : State) (d r : Nat) : State :=
  if d = 8 || regionDie r = d then s.raise r .wide (s.width (regionDie r)) else s

theorem State.raised_raiseWide (s : State) (d : Nat) : s.Raised (s.raiseWide d) :=
  State.raised_foldl (g := fun s r => s.raiseWideAt d r) (fun s r => by
    rw [State.raiseWideAt]
    split
    · exact s.raised_raise ..
    · exact .refl s) (List.range 80) s

theorem State.raiseWide_holds {s : State} {d r : Nat} (hr : r < 80) (hd : d = 8 ∨ regionDie r = d) (hl : (s.region r).launch.isSome = true) :
    ((s.raiseWide d).core r).pend.wide.isSome = true :=
  State.foldl_raise_holds (g := fun s r => s.raiseWideAt d r) (c := .wide) (by decide) (by decide) (fun s r => by
    rw [State.raiseWideAt]
    split
    · exact s.raised_raise ..
    · exact .refl s) (fun t => ⟨t.width (regionDie r), if_pos (by rcases hd with h | h <;> simp [h])⟩) (List.mem_range.mpr hr) hl

theorem State.tellWide_rest (s : State) (d : Nat) : ∃ h, s.tellWide d = { s with hub := h } := by
  rw [State.tellWide]
  split
  · exact ⟨_, rfl⟩
  · exact ⟨_, rfl⟩

theorem clock_widens (d : Nat) (s : State) (hnarrow : (s.die d).wide = false) (hwide : s.dev.iwlim.toNat < (s.width d).toNat ∨ s.cutOff = true) :
    ∃ w, exec (.widenedStateEntry d) s = .next w ∧ w.mem = s.mem ∧ (w.die d).wide = true ∧ (∀ c, c ≠ d → w.die c = s.die c) ∧
      ∀ r, r < 80 → (d = 8 ∨ regionDie r = d) → (s.region r).launch.isSome = true → (w.core r).pend.wide.isSome = true := by
  let s1 := s.modDie d (fun D => { D with wide := true, narrow := 0 })
  have hexec : exec (.widenedStateEntry d) s = .next ((s1.raiseWide d).tellWide d) := by
    show execWidenedStateEntry d s = _
    rw [execWidenedStateEntry, if_pos (by rcases hwide with h | h <;> simp [hnarrow, h])]
  obtain ⟨rs, hrs⟩ := (s1.raised_raiseWide d).rest
  obtain ⟨h, hh⟩ := (s1.raiseWide d).tellWide_rest d
  have hdie : ∀ c, (((s1.raiseWide d).tellWide d).die c) = s1.die c := fun c => by rw [hh, hrs]; rfl
  refine ⟨_, hexec, by rw [hh, hrs]; rfl, ?_, fun c hc => ?_, fun r hr hd hl => ?_⟩
  · rw [hdie, State.die_modDie, if_pos rfl]
  · rw [hdie, State.die_modDie, if_neg hc]
  · have hpend := State.raiseWide_holds (s := s1) hr hd hl
    rw [hh]; exact hpend

theorem clock_narrows (d : Nat) (s : State) (hwide : (s.die d).wide = true) (hnarrow : 2 ^ 16 ≤ (s.die d).narrow) (hlinked : s.cutOff = false) :
    ∃ w, exec (.widenedStateExit d) s = .next w ∧ w.mem = s.mem ∧ w.regions = s.regions ∧ (w.die d).wide = false := by
  have hexec : exec (.widenedStateExit d) s = .next (s.modDie d (fun D => { D with wide := false, narrow := 0 })) := by
    show execWidenedStateExit d s = _
    rw [execWidenedStateExit, if_pos (by rw [hwide, hlinked, decide_eq_true hnarrow]; rfl)]
  refine ⟨_, hexec, rfl, rfl, ?_⟩
  rw [State.die_modDie, if_pos rfl]

theorem system_floor_stalls (s : State) (hgoes : s.hub.stall152 = false) (hpeer : s.alone = false)
    (hstood : s.hub.hubEAt + s.dev.iwlim.toNat ≤ (s.die 8).e) :
    ∃ w, exec .systemFloorStall s = .next w ∧ w.mem = s.mem ∧ w.hub.stall152 = true ∧ w.dies = s.dies ∧
      ∀ r, r < 80 → (s.region r).launch.isSome = true → (w.core r).pend.wide.isSome = true := by
  let s1 := s.modHub (fun h => { h with stall152 := true })
  have hexec : exec .systemFloorStall s = .next (s1.raiseWide 8) := by
    show execSystemFloorStall s = _
    rw [execSystemFloorStall, if_pos (by simp [hgoes, hpeer, hstood])]
  obtain ⟨rs, hrs⟩ := (s1.raised_raiseWide 8).rest
  refine ⟨_, hexec, by rw [hrs]; rfl, by rw [hrs]; rfl, by rw [hrs]; rfl, fun r hr hl => State.raiseWide_holds (s := s1) hr (.inl rfl) hl⟩

theorem clocksWidenAndStall : Says.ClocksWidenAndStall := ⟨clock_syncs, clock_widens, clock_narrows, system_floor_stalls⟩


/-! PROOFS. A store installed in a line that keeps no version (R149, R297, R298; O40). -/

theorem Memory.word_congr {m m' : Memory} {a : Nat} (h : ∀ c, a ≤ c → c < a + 8 → m.byte c = m'.byte c) : m.word a = m'.word a := by
  rw [Memory.word, Memory.word, Memory.readNat_congr h]

theorem Memory.byte_store_other {m : Memory} (hw : m.wf = true) {a n c : Nat} (v : Word) (p : Bool) (h : c < a ∨ a + n ≤ c) :
    (m.store a n v p).byte c = m.byte c := by
  rw [Memory.byte_store hw, if_neg (by omega)]

/-! ## The copy of a slot -/

/-- The first n words of a slot copied. -/
def copyWords (m : Memory) (src dst n : Nat) : Memory :=
  (List.range n).foldl (fun m' k => m'.store (dst + 8 * k) 8 (m.word (src + 8 * k)) (m.poisoned (src + 8 * k))) m

theorem copySlot_eq (m : Memory) (src dst : Nat) : copySlot m src dst = copyWords m src dst 8 := rfl

theorem copyWords_succ (m : Memory) (src dst n : Nat) : copyWords m src dst (n + 1) =
    (copyWords m src dst n).store (dst + 8 * n) 8 (m.word (src + 8 * n)) (m.poisoned (src + 8 * n)) := by
  rw [copyWords, List.range_succ, List.foldl_append]; rfl

theorem wf_copyWords {m : Memory} (hw : m.wf = true) (src dst n : Nat) : (copyWords m src dst n).wf = true := by
  induction n with
  | zero => exact hw
  | succ n ih => rw [copyWords_succ]; exact Memory.wf_store ih _ _ _ _

theorem byte_copyWords {m : Memory} (hw : m.wf = true) (src dst n : Nat) {c : Nat} (h : c < dst ∨ dst + 8 * n ≤ c) :
    (copyWords m src dst n).byte c = m.byte c := by
  induction n with
  | zero => rfl
  | succ n ih => rw [copyWords_succ, Memory.byte_store_other (wf_copyWords hw _ _ _) _ _ (by omega), ih (by omega)]

theorem word_copyWords {m : Memory} (hw : m.wf = true) (src dst : Nat) {n j : Nat} (hj : j < n) :
    (copyWords m src dst n).word (dst + 8 * j) = m.word (src + 8 * j) := by
  induction n with
  | zero => cases hj
  | succ n ih =>
    rw [copyWords_succ]
    by_cases h : j = n
    · rw [h, Memory.word_store (wf_copyWords hw _ _ _)]
    · rw [← ih (by omega)]
      exact Memory.word_congr fun c h1 h2 => Memory.byte_store_other (wf_copyWords hw _ _ _) _ _ (by omega)

/-! ## A version's stamp and key -/

/-- The key word of a version. -/
def Ver.key (v : Ver) : Nat := 2 ^ 31 + (if v.sys then 2 ^ 30 else 0) + v.mask * 2 ^ 22 + v.die * 2 ^ 18 + v.devid

section
variable {m : Memory} (hw : m.wf = true) (base line : Nat) (v : Ver)

theorem putVer_eq : putVer m base line v = (m.writeNat (lineMeta base line + 8 * (v.slot - 1)) 8 v.stamp).writeNat
    (lineMeta base line + 32 + 4 * (v.slot - 1)) 4 v.key := rfl

include hw

theorem byte_putVer {c : Nat} (h1 : c < lineMeta base line + 8 * (v.slot - 1) ∨ lineMeta base line + 8 * (v.slot - 1) + 8 ≤ c)
    (h2 : c < lineMeta base line + 32 + 4 * (v.slot - 1) ∨ lineMeta base line + 32 + 4 * (v.slot - 1) + 4 ≤ c) :
    (putVer m base line v).byte c = m.byte c := by
  rw [putVer_eq, Memory.byte_writeNat (Memory.wf_writeNat hw _ _ _), if_neg (by omega), Memory.byte_writeNat hw, if_neg (by omega)]

theorem readNat_putVer (hslot : v.slot ≤ 4) (hpos : 1 ≤ v.slot) (hstamp : v.stamp < 2 ^ 64) (hkey : v.key < 2 ^ 32) :
    (putVer m base line v).readNat (lineMeta base line + 8 * (v.slot - 1)) 8 = v.stamp ∧
    (putVer m base line v).readNat (lineMeta base line + 32 + 4 * (v.slot - 1)) 4 = v.key := by
  rw [putVer_eq]
  constructor
  · have hsame : ((m.writeNat (lineMeta base line + 8 * (v.slot - 1)) 8 v.stamp).writeNat (lineMeta base line + 32 + 4 * (v.slot - 1)) 4
        v.key).readNat (lineMeta base line + 8 * (v.slot - 1)) 8 =
        (m.writeNat (lineMeta base line + 8 * (v.slot - 1)) 8 v.stamp).readNat (lineMeta base line + 8 * (v.slot - 1)) 8 :=
      Memory.readNat_congr fun c h1 h2 => by rw [Memory.byte_writeNat (Memory.wf_writeNat hw _ _ _), if_neg (by omega)]
    rw [hsame, Memory.readNat_writeNat hw, Nat.mod_eq_of_lt (lt_of_lt_of_le hstamp (by norm_num))]
  · rw [Memory.readNat_writeNat (Memory.wf_writeNat hw _ _ _), Nat.mod_eq_of_lt (lt_of_lt_of_le hkey (by norm_num))]

end

/-- The fields of a key word read back. -/
theorem Ver.key_fields {v : Ver} (hmask : v.mask < 256) (hdie : v.die < 16) (hdevid : v.devid < 2 ^ 18) : v.key < 2 ^ 32 ∧
    v.key / 2 ^ 31 % 2 = 1 ∧ decide (v.key / 2 ^ 30 % 2 = 1) = v.sys ∧ v.key / 2 ^ 22 % 256 = v.mask ∧ v.key / 2 ^ 18 % 16 = v.die ∧
    v.key % 2 ^ 18 = v.devid := by
  unfold Ver.key
  cases v.sys
  · simp only [Bool.false_eq_true, if_false, decide_eq_false_iff_not]
    refine ⟨?_, ?_, ?_, ?_, ?_, ?_⟩ <;> omega
  · simp only [if_true, decide_eq_true_eq]
    refine ⟨?_, ?_, ?_, ?_, ?_, ?_⟩ <;> omega

theorem verOf_putVer {m : Memory} (hw : m.wf = true) (base line : Nat) {v : Ver} (hslot : v.slot ≤ 4) (hpos : 1 ≤ v.slot) (hstamp : v.stamp < 2 ^ 64)
    (hmask : v.mask < 256) (hdie : v.die < 16) (hdevid : v.devid < 2 ^ 18) : verOf (putVer m base line v) base line v.slot = some v := by
  obtain ⟨hlt, hvalid, hsys, hm, hd, hdev⟩ := Ver.key_fields hmask hdie hdevid
  obtain ⟨hs, hk⟩ := readNat_putVer hw base line v hslot hpos hstamp hlt
  rw [verOf, hk, hs, if_pos hvalid, hsys, hm, hd, hdev]

/-- What a slot's version is depends on the bytes of its stamp and its key. -/
theorem verOf_congr {m m' : Memory} {base line slot : Nat} (h : ∀ c, (lineMeta base line + 8 * (slot - 1) ≤ c → c < lineMeta base line + 8 * (slot - 1) + 8 →
      m.byte c = m'.byte c) ∧ (lineMeta base line + 32 + 4 * (slot - 1) ≤ c → c < lineMeta base line + 32 + 4 * (slot - 1) + 4 → m.byte c = m'.byte c)) :
    verOf m base line slot = verOf m' base line slot := by
  rw [verOf, verOf, Memory.readNat_congr fun c h1 h2 => (h c).2 h1 h2, Memory.readNat_congr fun c h1 h2 => (h c).1 h1 h2]

/-! ## The install -/

/-- A line without versions takes slot 1: a copy of the initial value with the stored word. -/
theorem install_empty {m : Memory} {base line : Nat} (k : Nat) (x : Word) (p : Bool) (stamp : Nat) (sys : Bool) (die devid : Nat)
    (h : versions m base line = []) : install m base line k x p stamp sys die devid =
      putVer ((copySlot m (lineSlot base line 0) (lineSlot base line 1)).store (lineSlot base line 1 + 8 * k) 8 x p) base line
        ⟨1, stamp, sys, 2 ^ k, die, devid⟩ := by
  rw [install, h]; rfl

theorem versions_eq (m : Memory) (base line : Nat) : versions m base line =
    (verOf m base line 1).toList ++ ((verOf m base line 2).toList ++ ((verOf m base line 3).toList ++ (verOf m base line 4).toList)) := by
  unfold versions
  cases h1 : verOf m base line 1 <;> cases h2 : verOf m base line 2 <;> cases h3 : verOf m base line 3 <;> cases h4 : verOf m base line 4 <;>
    simp [h1, h2, h3, h4]

theorem installIntoAnEmptyLine : Says.InstallIntoAnEmptyLine := by
  intro m base line k x p sys stamp die devid hw hline hk hstamp hdie hdevid hempty
  have hmeta : ∀ slot, lineSlot base line slot = base + 320 * line + 64 * slot := fun _ => rfl
  have hline' : lineMeta base line = base + 327680 + 64 * line := rfl
  have hcopy := wf_copyWords hw (lineSlot base line 0) (lineSlot base line 1) 8
  have hstore := Memory.wf_store hcopy (lineSlot base line 1 + 8 * k) 8 x p
  dsimp only
  rw [install_empty k x p stamp sys die devid hempty, copySlot_eq]
  generalize hm2 : (copyWords m (lineSlot base line 0) (lineSlot base line 1) 8).store (lineSlot base line 1 + 8 * k) 8 x p = m2 at hstore ⊢
  have hnew : verOf (putVer m2 base line ⟨1, stamp, sys, 2 ^ k, die, devid⟩) base line 1 = some ⟨1, stamp, sys, 2 ^ k, die, devid⟩ :=
    verOf_putVer (v := ⟨1, stamp, sys, 2 ^ k, die, devid⟩) hstore base line (show 1 ≤ 4 by omega) (le_refl 1) hstamp
      (lt_of_lt_of_le (Nat.pow_lt_pow_right (by omega) hk) (by norm_num)) hdie hdevid
  have hslots : ∀ c, c < lineSlot base line 1 ∨ lineSlot base line 2 ≤ c → m2.byte c = m.byte c := fun c hc => by
    rw [hmeta, hmeta] at hc
    rw [← hm2, Memory.byte_store_other hcopy _ _ (by rw [hmeta]; omega), byte_copyWords hw _ _ _ (by rw [hmeta]; omega)]
  have hout : ∀ c, c < lineSlot base line 1 ∨ lineSlot base line 2 ≤ c → c < lineMeta base line ∨ lineMeta base line + 8 ≤ c →
      c < lineMeta base line + 32 ∨ lineMeta base line + 36 ≤ c → (putVer m2 base line ⟨1, stamp, sys, 2 ^ k, die, devid⟩).byte c = m.byte c :=
    fun c h1 h2 h3 => (byte_putVer hstore base line _ h2 h3).trans (hslots c h1)
  have hold : ∀ slot, 2 ≤ slot → slot ≤ 4 → verOf (putVer m2 base line ⟨1, stamp, sys, 2 ^ k, die, devid⟩) base line slot = verOf m base line slot :=
    fun slot h2 h4 => verOf_congr fun c =>
      ⟨fun h1 h3 => hout c (by rw [hmeta, hmeta]; omega) (by omega) (by omega), fun h1 h3 => hout c (by rw [hmeta, hmeta]; omega) (by omega) (by omega)⟩
  have hword : ∀ a, lineSlot base line 1 ≤ a → a + 8 ≤ lineSlot base line 2 →
      (putVer m2 base line ⟨1, stamp, sys, 2 ^ k, die, devid⟩).word a = m2.word a := fun a h1 h2 => Memory.word_congr fun c hc1 hc2 => by
    rw [hmeta] at h1 h2
    exact byte_putVer hstore base line _ (.inl (by rw [hline']; omega)) (.inl (by rw [hline']; omega))
  have hversions : versions (putVer m2 base line ⟨1, stamp, sys, 2 ^ k, die, devid⟩) base line = [⟨1, stamp, sys, 2 ^ k, die, devid⟩] := by
    rw [versions_eq] at hempty ⊢
    simp only [List.append_eq_nil_iff] at hempty
    obtain ⟨-, h2, h3, h4⟩ := hempty
    rw [hnew, hold 2 (by omega) (by omega), hold 3 (by omega) (by omega), hold 4 (by omega) (by omega), h2, h3, h4]; rfl
  refine ⟨hversions, ?_, ?_, fun j hj hjk => ?_, fun a h1 h2 => hout a h1 (by omega) (by omega), fun t ht => ?_⟩
  · exact Memory.readNat_congr fun c h1 h2 => hout c (by rw [hmeta, hmeta]; omega) (by omega) (by omega)
  · rw [hword _ (by omega) (by rw [hmeta, hmeta]; omega), ← hm2, Memory.word_store hcopy]
  · rw [hword _ (by omega) (by rw [hmeta, hmeta]; omega), ← hm2, ← word_copyWords hw (lineSlot base line 0) (lineSlot base line 1) hj]
    exact Memory.word_congr fun c h1 h2 => Memory.byte_store_other hcopy _ _ (by omega)
  · rw [ldasSlot, hversions, List.filter_cons_of_pos (by simpa using ht)]; rfl

/-- Settles O40: floors, clocks, the completions of stamped accesses, and the install, each in turn. -/
theorem stampsAndTime : Obligations.StampsAndTime := ⟨floorsRise, clocksWidenAndStall, stampedAccessesComplete, installIntoAnEmptyLine⟩


/-! PROOFS. The sequence table: slots, notices and squashes (O43, O44). -/

/-! ## Slots -/

theorem State.slot_setSlot (s : State) (n m : Nat) (x : Slot) : (s.setSlot n x).slot m = if m = n then x else s.slot m := Map.get_set ..

theorem State.slot_setSlot_other {n m : Nat} (s : State) (h : m ≠ n) (x : Slot) : (s.setSlot n x).slot m = s.slot m := Map.get_set_other _ h _ _

theorem State.slot_modHub {s : State} {f : Hub → Hub} (h : (f s.hub).slots = s.hub.slots) (n : Nat) : (s.modHub f).slot n = s.slot n :=
  congrArg (fun m => Map.get m n ({} : Slot)) h

/-! ## Notices posted (R173, R178) -/

/-- A state that differs in notices alone: those of regions, those that the hub holds, and those in images. -/
structure State.Noticed (s t : State) : Prop where
  rest : ∃ rs ns im, t = { s with regions := rs, hub := { s.hub with heldNotices := ns }, images := im }
  region : ∀ r, ∃ ns, t.region r = { s.region r with notices := ns }

theorem State.Noticed.refl (s : State) : s.Noticed s := ⟨⟨_, _, _, rfl⟩, fun _ => ⟨_, rfl⟩⟩

theorem State.Noticed.trans {s t w : State} (h : s.Noticed t) (k : t.Noticed w) : s.Noticed w := by
  obtain ⟨⟨_, _, _, rfl⟩, hr⟩ := h
  obtain ⟨⟨_, _, _, rfl⟩, kr⟩ := k
  refine ⟨⟨_, _, _, rfl⟩, fun r => ?_⟩
  obtain ⟨ns, hns⟩ := hr r
  obtain ⟨ms, hms⟩ := kr r
  exact ⟨ms, by rw [hms, hns]⟩

theorem State.Noticed.foldl {α : Type} {f : State → α → State} (hf : ∀ (s : State) x, s.Noticed (f s x)) (l : List α) (s : State) :
    s.Noticed (l.foldl f s) := by
  induction l generalizing s with
  | nil => exact .refl s
  | cons x l ih => exact (hf s x).trans (ih _)

theorem State.Noticed.ite {s t : State} {c : Prop} [Decidable c] (h : s.Noticed t) : s.Noticed (if c then t else s) := by
  split
  · exact h
  · exact .refl s

theorem State.noticed_modRegion (s : State) (r : Nat) (f : List Notice → List Notice) :
    s.Noticed (s.modRegion r (fun R => { R with notices := f R.notices })) := by
  refine ⟨⟨_, _, _, rfl⟩, fun q => ?_⟩
  rw [State.region_modRegion]
  split
  · next h => exact ⟨_, by rw [h]⟩
  · exact ⟨_, rfl⟩

theorem State.noticed_held (s : State) (ns : List (Nat × Notice)) : s.Noticed (s.modHub (fun h => { h with heldNotices := ns })) :=
  ⟨⟨_, _, _, rfl⟩, fun _ => ⟨_, rfl⟩⟩

theorem State.noticed_postNotice (s : State) (r : Nat) (n : Notice) : s.Noticed (s.postNotice r n) := by
  rw [State.postNotice]
  split
  · exact s.noticed_held _
  · exact s.noticed_modRegion r (· ++ [n])

theorem State.noticed_imageNotice (s : State) (a : Nat) (n : Notice) : s.Noticed (s.imageNotice a n) :=
  ⟨⟨_, _, _, rfl⟩, fun _ => ⟨_, rfl⟩⟩

theorem State.noticed_popNotice (s : State) (r : Nat) : s.Noticed (s.popNotice r) := by
  rw [State.popNotice]
  split
  · next n _ => exact ((s.noticed_modRegion r List.tail).trans (State.noticed_held ..)).trans (State.noticed_modRegion _ r (· ++ [n]))
  · exact s.noticed_modRegion r List.tail

theorem State.noticed_noticeDone (s : State) (r : Nat) (n : Notice) : s.Noticed (s.noticeDone r n) := by
  unfold State.noticeDone
  split
  · exact s.noticed_popNotice r
  · exact s.noticed_modRegion r (n :: ·.tail)

section
variable {s t : State} (h : s.Noticed t)
include h

theorem State.Noticed.slot (n : Nat) : t.slot n = s.slot n := by
  obtain ⟨_, _, _, rfl⟩ := h.rest
  rfl

theorem State.Noticed.mem : t.mem = s.mem := by
  obtain ⟨_, _, _, rfl⟩ := h.rest
  rfl

theorem State.Noticed.sameBytes : sameBytes s t := fun a => by rw [h.mem]; exact ⟨rfl, rfl⟩

theorem State.Noticed.chans : t.chans = s.chans := by
  obtain ⟨_, _, _, rfl⟩ := h.rest
  rfl

theorem State.Noticed.hub : t.hub = { s.hub with heldNotices := t.hub.heldNotices } := by
  obtain ⟨_, _, _, rfl⟩ := h.rest
  rfl

theorem State.Noticed.core (r : Nat) : t.core r = s.core r := by
  obtain ⟨ns, hns⟩ := h.region r
  rw [State.core, hns]; rfl

theorem State.Noticed.tag (r : Nat) : (t.region r).tag = (s.region r).tag := by
  obtain ⟨ns, hns⟩ := h.region r
  rw [hns]

end

/-! ## Establishment and squashes (R168, R173, R178) -/

theorem State.noticed_establish (s : State) (n q : Nat) :
    (s.setSlot n { s.slot n with commit := max (s.slot n).commit (q + 1) }).Noticed (s.establish n q) := by
  rw [State.establish]
  exact (State.Noticed.foldl (fun s r => s.noticed_postNotice r _) _ _).trans (State.Noticed.foldl (fun s e => s.noticed_imageNotice _ _) _ _)

/-- A slot after an establishment. -/
theorem State.establish_slot (s : State) (n q m : Nat) : (s.establish n q).slot m =
    if m = n then { s.slot n with commit := max (s.slot n).commit (q + 1) } else s.slot m := by
  rw [(s.noticed_establish n q).slot, State.slot_setSlot]

/-- The slot of a pulse launched, before its establishment. -/
def Slot.launched (x : Slot) (q sym basis : Nat) : Slot :=
  { x with window := x.window ++ [⟨q, sym, basis, x.gen⟩], starts := x.starts ++ [⟨q, sym, basis, x.gen, false⟩] }

theorem State.launchPulse_spec (s : State) (n q sym basis : Nat) : sameBytes s (s.launchPulse n q sym basis) ∧
    (s.launchPulse n q sym basis).slot n =
      { (s.slot n).launched q sym basis with commit := if basis = 0 then max (s.slot n).commit (q + 1) else (s.slot n).commit } ∧
    (s.launchPulse n q sym basis).hub.reports = s.hub.reports := by
  have hlaunch : s.launchPulse n q sym basis = if basis = 0 then (s.setSlot n ((s.slot n).launched q sym basis)).establish n q
      else s.setSlot n ((s.slot n).launched q sym basis) := rfl
  rw [hlaunch]
  split
  · have h := (s.setSlot n ((s.slot n).launched q sym basis)).noticed_establish n q
    refine ⟨h.sameBytes, ?_, by rw [h.hub]; rfl⟩
    rw [State.establish_slot, if_pos rfl, State.slot_setSlot_same]; rfl
  · exact ⟨fun a => ⟨rfl, rfl⟩, by rw [State.slot_setSlot_same]; rfl, rfl⟩

/-- The position from which a notice goes: the last generation's goes from the lowest of the window (R168). -/
def Slot.squashFrom (x : Slot) (f : Nat) : Nat :=
  if x.gen + 1 = 0xFFFF then max x.commit (match x.lowest with | some q => min q f | none => f) else f

theorem Slot.squashFrom_eq {x : Slot} {f : Nat} (h : x.gen < 0xFFFE) : x.squashFrom f = f := by
  rw [Slot.squashFrom, if_neg (by omega)]

/-- The slot that a squash notice leaves, the acknowledgements that it asks apart. -/
def Slot.squashed (x : Slot) (f : Nat) (again : Option PStart) (rs : List (Nat × Nat)) (ids segs : List Nat) : Slot :=
  { x.cutFrom f (x.gen + 1) with
    gen := x.gen + 1
    notice := some (f, x.gen + 1)
    unsettled := true
    relaunch := again
    ackRegions := rs
    ackStages := ids
    ackSegs := segs }

theorem State.squash_of_last {s : State} {n f : Nat} {again : Option PStart} (h : 0xFFFF ≤ (s.slot n).gen) : s.squash n f again = s := by
  rw [State.squash]
  exact if_pos h

theorem State.noticed_squash {s : State} {n f : Nat} (again : Option PStart) (h : (s.slot n).gen < 0xFFFF) :
    ∃ rs ids segs, ((s.killBatch n ((s.slot n).squashFrom f) ((s.slot n).gen + 1)).setSlot n
      ((s.slot n).squashed ((s.slot n).squashFrom f) again rs ids segs)).Noticed (s.squash n f again) := by
  rw [State.squash]
  dsimp only
  rw [if_neg (by omega)]
  refine ⟨_, _, _, (State.Noticed.foldl (fun s r => s.noticed_postNotice r _) _ _).trans (State.Noticed.foldl (fun s e => ?_) _ _)⟩
  exact (s.noticed_imageNotice _ _).ite

/-- What a squash leaves: the slot with its notice, if a generation is left; nothing else but notices and the batch in hand. -/
theorem State.squash_spec (s : State) (n f : Nat) (again : Option PStart) :
    sameBytes s (s.squash n f again) ∧ (s.squash n f again).hub.marks = s.hub.marks ∧ (s.squash n f again).hub.reports = s.hub.reports ∧
    (∀ r, (s.squash n f again).core r = s.core r) ∧
    ((s.squash n f again).slot n = s.slot n ∨ ∃ rs ids segs, (s.squash n f again).slot n =
      (s.slot n).squashed ((s.slot n).squashFrom f) again rs ids segs) := by
  by_cases h : 0xFFFF ≤ (s.slot n).gen
  · rw [State.squash_of_last h]
    exact ⟨fun a => ⟨rfl, rfl⟩, rfl, rfl, fun r => rfl, .inl rfl⟩
  · obtain ⟨rs, ids, segs, hn⟩ := s.noticed_squash (n := n) (f := f) again (by omega)
    refine ⟨hn.sameBytes, by rw [hn.hub]; rfl, by rw [hn.hub]; rfl, fun r => (hn.core r).trans rfl, .inr ⟨rs, ids, segs, ?_⟩⟩
    rw [hn.slot, State.slot_setSlot_same]

theorem State.squash_slot {s : State} {n f : Nat} {again : Option PStart} (h : (s.slot n).gen < 0xFFFE) :
    ∃ rs ids segs, (s.squash n f again).slot n = (s.slot n).squashed f again rs ids segs := by
  obtain ⟨rs, ids, segs, hn⟩ := s.noticed_squash (n := n) (f := f) again (by omega)
  refine ⟨rs, ids, segs, ?_⟩
  rw [hn.slot, State.slot_setSlot_same, Slot.squashFrom_eq h]

/-! ## Retirement (R183) -/

/-- A slot that retires. -/
def Slot.retiring (x : Slot) (l : Nat) : Slot := { x with st := .draining, retire := l, cut := x.unsettled, left := false }

/-- What a retirement leaves of the state and of the slot; a squash of what its window holds follows. -/
theorem State.retireSlot_spec (s : State) (n : Nat) :
    sameBytes s (s.retireSlot n) ∧ (s.retireSlot n).hub.marks = s.hub.marks ++ [n] ∧ (s.retireSlot n).hub.reports = s.hub.reports ∧
    (∀ r, (s.retireSlot n).core r = s.core r) ∧ ((s.retireSlot n).slot n).st = .draining ∧
    ((s.retireSlot n).slot n).retire = (s.die 8).l ∧ ((s.retireSlot n).slot n).exhausted = (s.slot n).exhausted ∧
    ∀ u ∈ ((s.retireSlot n).slot n).starts, u ∈ (s.slot n).starts := by
  let s1 := (s.setSlot n ((s.slot n).retiring (s.die 8).l)).modHub (fun h => { h with marks := h.marks ++ [n] })
  have hslot : s1.slot n = (s.slot n).retiring (s.die 8).l := State.slot_setSlot_same ..
  have hcases : s.retireSlot n = s1 ∨ ∃ f, s.retireSlot n = s1.squash n f none := by
    unfold State.retireSlot
    dsimp only
    split
    · exact .inr ⟨_, rfl⟩
    · exact .inl rfl
  rcases hcases with h | ⟨f, h⟩
  · rw [h, hslot]
    exact ⟨fun a => ⟨rfl, rfl⟩, rfl, rfl, fun r => rfl, rfl, rfl, rfl, fun u hu => hu⟩
  · obtain ⟨hbytes, hmarks, hreports, hcore, hs⟩ := s1.squash_spec n f none
    rw [h]
    refine ⟨hbytes, hmarks, hreports, hcore, ?_⟩
    rcases hs with hs | ⟨rs, ids, segs, hs⟩
    · rw [hs, hslot]; exact ⟨rfl, rfl, rfl, fun u hu => hu⟩
    · rw [hs, hslot]; exact ⟨rfl, rfl, rfl, fun u hu => (List.mem_filter.mp hu).1⟩


/-! PROOFS. The core's instructions on the sequence table (R357-R360, R175, R183; O43, O44). -/

/-! ## Fields (R357, R358) -/

theorem Slot.setField_table (x : Slot) (v : Word) : x.setField 15 v = some { x with endsym := v } ∧
    (v.toNat < 2 ^ 32 → x.setField 9 v = some { x with limit := v.toNat }) ∧
    (∀ n, n ∉ [0, 5, 6, 9, 15] → n < 16 → x.setField n v = none) ∧
    (x.st = .decode → x.setField 0 4 = some { x with st := .paused, resume := .decode }) ∧
    (x.st = .prefill → x.setField 0 4 = some { x with st := .paused, resume := .prefill }) ∧
    (x.st = .paused → x.resume = .decode → x.setField 0 3 = some { x with st := .decode }) ∧
    (x.st = .paused → x.inflight = 0 → x.setField 0 5 = some { x with st := .swapped }) ∧
    ((x.st = .free ∨ x.st = .waiting ∨ x.st = .draining) → x.setField 0 v = none) := by
  have hstate : ∀ w, x.setField 0 w = x.setState w := fun _ => rfl
  have hgood : ∀ w ∈ [(3 : Word), 4, 5], ¬ (w &&& ~~~(0x77 : Word) ≠ 0 || bitsOf w 0 3 = 7) = true := by simp [bitsOf]
  refine ⟨rfl, fun h => if_pos h, fun n hn hlt => ?_, fun h => ?_, fun h => ?_, fun h hr => ?_, fun h hi => ?_, fun h => ?_⟩
  · simp only [List.mem_cons, List.not_mem_nil, or_false, not_or] at hn
    have hlist : n = 1 ∨ n = 2 ∨ n = 3 ∨ n = 4 ∨ n = 7 ∨ n = 8 ∨ n = 10 ∨ n = 11 ∨ n = 12 ∨ n = 13 ∨ n = 14 := by omega
    rcases hlist with rfl | rfl | rfl | rfl | rfl | rfl | rfl | rfl | rfl | rfl | rfl <;> rfl
  · rw [hstate, Slot.setState, if_neg (hgood 4 (by decide)), h]; rfl
  · rw [hstate, Slot.setState, if_neg (hgood 4 (by decide)), h]; rfl
  · rw [hstate, Slot.setState, if_neg (hgood 3 (by decide)), h]
    exact if_pos hr
  · rw [hstate, Slot.setState, if_neg (hgood 5 (by decide)), h]
    exact if_pos hi
  · rw [hstate, Slot.setState]
    split
    · rfl
    · rcases h with h | h | h <;> rw [h]

/-! ## SQRD and SQSET (R359) -/

section
variable {d a b : BitVec 5} {s : State}

theorem exec_sqrd (hclean : s.CleanRegs s.site.region [a]) : exec (.sqrd d a) s = .next (
    if seqOpnd (s.greg s.site.region a) true then s.retire s.site.region d
      ((s.slot (bitsOf (s.greg s.site.region a) 0 13)).field (bitsOf (s.greg s.site.region a) 16 4))
    else s.trapSync s.site.region 0x04 0 (s.greg s.site.region a) (s.core s.site.region).pc) :=
  congrArg _ (State.using_of_clean hclean _)

theorem exec_sqset_bad (hclean : s.CleanRegs s.site.region [a, b]) (hbad : seqOpnd (s.greg s.site.region a) true = false) :
    exec (.sqset d a b) s = .next (s.trapSync s.site.region 0x04 0 (s.greg s.site.region a) (s.core s.site.region).pc) :=
  congrArg _ ((State.using_of_clean hclean _).trans (if_pos (by simp [hbad])))

theorem exec_sqset {x : Slot} (hclean : s.CleanRegs s.site.region [a, b]) (hok : seqOpnd (s.greg s.site.region a) true = true)
    (hx : (s.slot (bitsOf (s.greg s.site.region a) 0 13)).setField (bitsOf (s.greg s.site.region a) 16 4) (s.greg s.site.region b) = some x) :
    exec (.sqset d a b) s = .next ((s.setSlot (bitsOf (s.greg s.site.region a) 0 13) x).retire s.site.region d
      ((s.slot (bitsOf (s.greg s.site.region a) 0 13)).field (bitsOf (s.greg s.site.region a) 16 4))) := by
  refine congrArg _ ((State.using_of_clean hclean _).trans ((if_neg (by simp [hok])).trans ?_))
  rw [hx]

theorem exec_sqset_refused (hclean : s.CleanRegs s.site.region [a, b]) (hok : seqOpnd (s.greg s.site.region a) true = true)
    (hx : (s.slot (bitsOf (s.greg s.site.region a) 0 13)).setField (bitsOf (s.greg s.site.region a) 16 4) (s.greg s.site.region b) = none) :
    exec (.sqset d a b) s = .next (s.trapSync s.site.region 0x04 0 (s.greg s.site.region a) (s.core s.site.region).pc) := by
  refine congrArg _ ((State.using_of_clean hclean _).trans ((if_neg (by simp [hok])).trans ?_))
  rw [hx]; rfl

/-! ## SQADMIT (R360) -/

theorem exec_sqadmit_misaligned (hclean : s.CleanRegs s.site.region [a, b]) (h : (s.greg s.site.region b).toNat % 64 ≠ 0) :
    exec (.sqadmit d a b) s = .next (s.trapSync s.site.region 0x02 0 (s.greg s.site.region b) (s.core s.site.region).pc) :=
  congrArg _ ((State.using_of_clean hclean _).trans (if_pos h))

theorem exec_sqadmit_bad (hclean : s.CleanRegs s.site.region [a, b]) (halign : (s.greg s.site.region b).toNat % 64 = 0)
    (hbad : seqOpnd (s.greg s.site.region a) false = false) :
    exec (.sqadmit d a b) s = .next (s.trapSync s.site.region 0x04 0 (s.greg s.site.region a) (s.core s.site.region).pc) :=
  congrArg _ ((State.using_of_clean hclean _).trans ((if_neg (not_not.mpr halign)).trans (if_pos (by simp [hbad]))))

theorem exec_sqadmit_waits {ts : List Target} (hclean : s.CleanRegs s.site.region [a, b]) (hok : seqOpnd (s.greg s.site.region a) false = true)
    (halign : (s.greg s.site.region b).toNat % 64 = 0) (hts : s.coreLines s.site.region (s.greg s.site.region b) 1 .load = .ok ts)
    (howes : s.coreOwes s.site.region = true ∨ s.cmdsOf s.site.region ≠ []) :
    exec (.sqadmit d a b) s = .next (s.tryAgain s.site.region) := by
  refine congrArg _ ((State.using_of_clean hclean _).trans ((if_neg (not_not.mpr halign)).trans ((if_neg (by simp [hok])).trans ?_)))
  rw [hts]
  refine if_pos ?_
  rcases howes with h | h
  · simp [h]
  · simp [h]

/-- A record that is read: the slot is admitted, or refused where it is not FREE. -/
theorem exec_sqadmit_read {ts : List Target} {ws : List Word} (hclean : s.CleanRegs s.site.region [a, b])
    (hok : seqOpnd (s.greg s.site.region a) false = true) (halign : (s.greg s.site.region b).toNat % 64 = 0)
    (hts : s.coreLines s.site.region (s.greg s.site.region b) 1 .load = .ok ts) (howes : s.coreOwes s.site.region = false)
    (hcmds : s.cmdsOf s.site.region = []) (hws : s.readLines ts = some ws) : exec (.sqadmit d a b) s = .next (
      if (s.slot (bitsOf (s.greg s.site.region a) 0 13)).st ≠ .free then
        s.trapSync s.site.region 0x04 0 (s.greg s.site.region a) (s.core s.site.region).pc
      else ((s.setSlot (bitsOf (s.greg s.site.region a) 0 13) (admitted ws (s.die 8).l s.mem)).zeroHorizons
        (bitsOf (s.greg s.site.region a) 0 13)).retire s.site.region d (BitVec.ofNat 64 (s.die 8).l)) := by
  refine congrArg _ ((State.using_of_clean hclean _).trans ((if_neg (not_not.mpr halign)).trans ((if_neg (by simp [hok])).trans ?_)))
  rw [hts]
  refine (if_neg (by simp [howes, hcmds])).trans ?_
  rw [hws]; rfl

end

/-! ## Horizons of a slot that is admitted (R175) -/

theorem kvWord_word (g : KvSeg) (w : Nat) : kvWord g.1 g.2 w % 64 = 8 * (w % 8) := by
  have hb : spadBase g.1 = 64 * (2 ^ 46 + (g.1.region * 16 + g.1.cell) * 2 ^ 14) := by unfold spadBase; omega
  rw [kvWord, hb]; omega

/-- A whole word at an aligned address after a store at another, or at the same, aligned address. -/
theorem Memory.word_store_aligned {m : Memory} (hw : m.wf = true) {a c : Nat} (ha : a % 8 = 0) (hc : c % 8 = 0) (v : Word) (p : Bool) :
    (m.store a 8 v p).word c = if c = a then v else m.word c := by
  split
  · next h => rw [h, Memory.word_store hw]
  · exact Memory.word_congr fun b h1 h2 => Memory.byte_store_other hw _ _ (by omega)

theorem kvRead_kvWrite {m : Memory} (hw : m.wf = true) (g e : KvSeg) (w k : Nat) (v : Word) :
    kvRead (kvWrite m g w v) e k = if kvWord e.1 e.2 k = kvWord g.1 g.2 w then v else kvRead m e k := by
  have h1 := kvWord_word g w
  have h2 := kvWord_word e k
  exact Memory.word_store_aligned hw (by omega) (by omega) v false

/-- A write of another word of an entry leaves a word of every entry. -/
theorem kvRead_kvWrite_other {m : Memory} (hw : m.wf = true) (g e : KvSeg) {w k : Nat} (hne : w % 8 ≠ k % 8) (v : Word) :
    kvRead (kvWrite m g w v) e k = kvRead m e k := by
  have h1 := kvWord_word g w
  have h2 := kvWord_word e k
  rw [kvRead_kvWrite hw, if_neg (by omega)]

theorem kvRead_kvWrite_same {m : Memory} (hw : m.wf = true) (g : KvSeg) (w : Nat) (v : Word) : kvRead (kvWrite m g w v) g w = v := by
  rw [kvRead_kvWrite hw, if_pos rfl]

theorem wf_kvWrite {m : Memory} (hw : m.wf = true) (g : KvSeg) (w : Nat) (v : Word) : (kvWrite m g w v).wf = true := Memory.wf_store hw _ _ _ _

/-- A segment with its horizons and its latest notice zero. -/
def kvZero (m : Memory) (g : KvSeg) : Memory := kvSetNotice (kvSetTC m g 0 0) g 0 0

/-- Words 4 and 5 of a segment are zero. -/
def kvClean (m : Memory) (g : KvSeg) : Prop := kvRead m g 4 = 0 ∧ kvRead m g 5 = 0

theorem kvZero_eq (m : Memory) (g : KvSeg) : kvZero m g = kvWrite (kvWrite m g 4 0) g 5 0 := rfl

theorem wf_kvZero {m : Memory} (hw : m.wf = true) (g : KvSeg) : (kvZero m g).wf = true := wf_kvWrite (wf_kvWrite hw _ _ _) _ _ _

theorem kvRead_kvZero {m : Memory} (hw : m.wf = true) (g e : KvSeg) : kvRead (kvZero m g) e 0 = kvRead m e 0 := by
  rw [kvZero_eq, kvRead_kvWrite_other (wf_kvWrite hw _ _ _) g e (by decide), kvRead_kvWrite_other hw g e (by decide)]

theorem kvClean_kvZero {m : Memory} (hw : m.wf = true) (g e : KvSeg) (h : e = g ∨ kvClean m e) : kvClean (kvZero m g) e := by
  have hw' := wf_kvWrite hw g 4 0
  rw [kvZero_eq]
  constructor
  · rw [kvRead_kvWrite_other hw' g e (by decide), kvRead_kvWrite hw]
    rcases h with rfl | ⟨h4, -⟩
    · rw [if_pos rfl]
    · rw [h4, ite_self]
  · rw [kvRead_kvWrite hw', kvRead_kvWrite_other hw g e (by decide)]
    rcases h with rfl | ⟨-, h5⟩
    · rw [if_pos rfl]
    · rw [h5, ite_self]

theorem slotSegs_congr {m m' : Memory} (h : ∀ e, kvRead m' e 0 = kvRead m e 0) (r slot : Nat) : slotSegs m' r slot = slotSegs m r slot := by
  unfold slotSegs
  refine List.filter_congr fun g _ => ?_
  rw [h]

/-- Segments zeroed in turn: first words stand, and what is named or was clean is clean. -/
theorem kvZeros_spec {m : Memory} (hw : m.wf = true) (gs : List KvSeg) : (gs.foldl kvZero m).wf = true ∧
    (∀ e, kvRead (gs.foldl kvZero m) e 0 = kvRead m e 0) ∧ ∀ e, (e ∈ gs ∨ kvClean m e) → kvClean (gs.foldl kvZero m) e := by
  induction gs generalizing m with
  | nil => exact ⟨hw, fun _ => rfl, fun e h => h.resolve_left (by simp)⟩
  | cons g gs ih =>
    obtain ⟨hwf, hread, hclean⟩ := ih (wf_kvZero hw g)
    rw [List.foldl_cons]
    refine ⟨hwf, fun e => (hread e).trans (kvRead_kvZero hw g e), fun e h => hclean e ?_⟩
    rcases h with h | h
    · rcases List.mem_cons.mp h with rfl | h
      · exact .inr (kvClean_kvZero hw e e (.inl rfl))
      · exact .inl h
    · exact .inr (kvClean_kvZero hw g e (.inr h))

/-- The memory of zeroed horizons, region by region. -/
def zeroRegions (m : Memory) (slot : Nat) (rs : List Nat) : Memory := rs.foldl (fun m r => (slotSegs m r slot).foldl kvZero m) m

theorem zeroRegions_spec {m : Memory} (hw : m.wf = true) (slot : Nat) (rs : List Nat) :
    (∀ e, kvRead (zeroRegions m slot rs) e 0 = kvRead m e 0) ∧
    ∀ e, ((∃ r ∈ rs, e ∈ slotSegs m r slot) ∨ kvClean m e) → kvClean (zeroRegions m slot rs) e := by
  induction rs generalizing m with
  | nil => exact ⟨fun _ => rfl, fun e h => h.resolve_left (by simp)⟩
  | cons r rs ih =>
    obtain ⟨hwf, hread, hclean⟩ := kvZeros_spec hw (slotSegs m r slot)
    obtain ⟨iread, iclean⟩ := ih hwf
    refine ⟨fun e => (iread e).trans (hread e), fun e h => iclean e ?_⟩
    rcases h with ⟨q, hq, he⟩ | h
    · rcases List.mem_cons.mp hq with rfl | hq
      · exact .inr (hclean e (.inl he))
      · exact .inl ⟨q, hq, by rw [slotSegs_congr hread]; exact he⟩
    · exact .inr (hclean e (.inr h))

theorem kvClean.horizons {m : Memory} {g : KvSeg} (h : kvClean m g) : kvT m g = 0 ∧ kvC m g = 0 ∧ kvF m g = 0 ∧ kvA m g = 0 := by
  obtain ⟨h4, h5⟩ := h
  unfold kvT kvC kvF kvA
  rw [h4, h5]
  exact ⟨rfl, rfl, rfl, rfl⟩

theorem State.zeroHorizons_mem (s : State) (slot : Nat) : (s.zeroHorizons slot).mem = zeroRegions s.mem slot (s.segRegions slot) := by
  simp only [State.zeroHorizons, zeroRegions]
  rfl

theorem State.zeroHorizons_rest (s : State) (slot : Nat) : ∃ m, s.zeroHorizons slot = { s with mem := m } := ⟨_, by rw [State.zeroHorizons]⟩

theorem State.zeroHorizons_hub (s : State) (slot : Nat) : (s.zeroHorizons slot).hub = s.hub := by
  obtain ⟨m, h⟩ := s.zeroHorizons_rest slot
  rw [h]

theorem State.zeroHorizons_core (s : State) (slot r : Nat) : (s.zeroHorizons slot).core r = s.core r := by
  obtain ⟨m, h⟩ := s.zeroHorizons_rest slot
  rw [h]; rfl

theorem State.retire_slot (s : State) (r : Nat) (d : BitVec 5) (v : Word) (n : Nat) : (s.retire r d v).slot n = s.slot n := rfl

theorem State.zeroHorizons_clean {s : State} (hw : s.mem.wf = true) {slot q : Nat} (hq : q < 80) {g : KvSeg} (hg : g ∈ slotSegs s.mem q slot) :
    kvClean (s.zeroHorizons slot).mem g := by
  have hmem : q ∈ s.segRegions slot := by
    rw [State.segRegions, List.mem_filter, List.mem_range, List.isEmpty_eq_false_iff_exists_mem.mpr ⟨g, hg⟩]
    exact ⟨hq, rfl⟩
  rw [State.zeroHorizons_mem]
  exact (zeroRegions_spec hw slot (s.segRegions slot)).2 g (.inl ⟨q, hmem, hg⟩)

theorem sqadmit_admits (d a b : BitVec 5) (s : State) (ts : List Target) (ws : List Word) : let r := s.site.region
    let A := s.greg r a
    let B := s.greg r b
    let n := bitsOf A 0 13
    s.CleanRegs r [a, b] → seqOpnd A false = true → B.toNat % 64 = 0 → s.coreLines r B 1 .load = .ok ts →
    s.coreOwes r = false → s.cmdsOf r = [] → s.readLines ts = some ws → (s.slot n).st = .free →
    ∃ t, exec (.sqadmit d a b) s = .next t ∧ s.StepsOn t r ∧ sameRegs r d s t ∧
      (d ≠ 0 → t.greg r d = BitVec.ofNat 64 (s.die 8).l) ∧ (t.slot n).st = .waiting ∧ (t.slot n).admitted = (s.die 8).l ∧
      (t.slot n).gen = 0 ∧ (t.slot n).commit = 0 ∧ (t.slot n).window = [] ∧ (t.slot n).notice = none ∧
      (t.slot n).kvhead = ws.getD 0 0 ∧ (t.slot n).prompt = bitsOf (ws.getD 1 0) 0 32 ∧ (t.slot n).limit = bitsOf (ws.getD 2 0) 0 32 ∧
      (t.slot n).wdir = ws.getD 3 0 ∧ (t.slot n).policy.toNat = bitsOf (ws.getD 4 0) 0 3 ∧
      (t.slot n).grammar.toNat = bitsOf (ws.getD 4 0) 12 4 ∧ (t.slot n).sys = (ws.getD 4 0).getLsbD 16 ∧
      (t.slot n).endsym = ws.getD 5 0 ∧ (∀ m, m ≠ n → t.slot m = s.slot m) ∧
      (s.mem.wf = true → ∀ q g, q < 80 → g ∈ slotSegs s.mem q n →
        kvT t.mem g = 0 ∧ kvC t.mem g = 0 ∧ kvF t.mem g = 0 ∧ kvA t.mem g = 0) := by
  intro r A B n hclean hok halign hts howes hcmds hws hfree
  have hexec := exec_sqadmit_read (d := d) hclean hok halign hts howes hcmds hws
  rw [if_neg (by simpa using hfree)] at hexec
  have hcore : ∀ q, ((s.setSlot n (admitted ws (s.die 8).l s.mem)).zeroHorizons n).core q = s.core q := fun q => by
    rw [State.zeroHorizons_core]; rfl
  have hslot : ∀ m, ((s.setSlot n (admitted ws (s.die 8).l s.mem)).zeroHorizons n).slot m =
      if m = n then admitted ws (s.die 8).l s.mem else s.slot m := fun m => by
    rw [State.slot, State.zeroHorizons_hub]; exact State.slot_setSlot ..
  have hzero : s.mem.wf = true → ∀ q g, q < 80 → g ∈ slotSegs s.mem q n →
      kvClean ((s.setSlot n (admitted ws (s.die 8).l s.mem)).zeroHorizons n).mem g := fun hw q g hq hg =>
    State.zeroHorizons_clean (s := s.setSlot n (admitted ws (s.die 8).l s.mem)) hw hq hg
  generalize (s.setSlot n (admitted ws (s.die 8).l s.mem)).zeroHorizons n = t0 at hexec hcore hslot hzero
  have hn := (hslot n).trans (if_pos rfl)
  refine ⟨_, hexec, ?_, fun c hc => ?_, fun hd => ?_, ?_⟩
  · have h := stepsOn_modCore_write t0 r d (BitVec.ofNat 64 (s.die 8).l) false
    unfold State.StepsOn at h ⊢
    rw [hcore] at h; exact h
  · have h := sameRegs_modCore_write t0 r d (BitVec.ofNat 64 (s.die 8).l) false c hc
    rw [hcore] at h; exact h
  · rw [State.greg, State.retire, read_modCore_write_same _ r hd]; rfl
  · rw [State.retire_slot, hn]
    unfold admitted
    refine ⟨rfl, rfl, rfl, rfl, rfl, rfl, rfl, rfl, rfl, rfl, ?_, ?_, rfl, rfl, fun m hm => ?_, fun hw q g hq hg => (hzero hw q g hq hg).horizons⟩
    · show ((ws.getD 4 0).extractLsb' 0 3).toNat = _
      rw [BitVec.extractLsb'_toNat, Nat.shiftRight_eq_div_pow]; rfl
    · show ((ws.getD 4 0).extractLsb' 12 4).toNat = _
      rw [BitVec.extractLsb'_toNat, Nat.shiftRight_eq_div_pow]; rfl
    · rw [State.retire_slot, hslot, if_neg hm]

/-! ## SQRETIRE (R359, R183) -/

theorem exec_sqretire {d a : BitVec 5} {s : State} (hclean : s.CleanRegs s.site.region [a]) : exec (.sqretire d a) s = .next (
    if !seqOpnd (s.greg s.site.region a) false || (s.slot (bitsOf (s.greg s.site.region a) 0 13)).st = .free ||
      (s.slot (bitsOf (s.greg s.site.region a) 0 13)).st = .draining then
      s.trapSync s.site.region 0x04 0 (s.greg s.site.region a) (s.core s.site.region).pc
    else (s.retireSlot (bitsOf (s.greg s.site.region a) 0 13)).retire s.site.region d (BitVec.ofNat 64 (s.die 8).l)) :=
  congrArg _ (State.using_of_clean hclean _)

theorem sqretire_retires (d a : BitVec 5) (s : State) : let r := s.site.region
    let A := s.greg r a
    let n := bitsOf A 0 13
    s.CleanRegs r [a] → seqOpnd A false = true → (s.slot n).st ≠ .free → (s.slot n).st ≠ .draining →
    ∃ t, exec (.sqretire d a) s = .next t ∧ sameBytes s t ∧ (t.core r).pc = (s.core r).pc + 4 ∧ sameRegs r d s t ∧
      (d ≠ 0 → t.greg r d = BitVec.ofNat 64 (s.die 8).l) ∧ (t.slot n).st = .draining ∧ (t.slot n).retire = (s.die 8).l ∧
      n ∈ t.hub.marks := by
  intro r A n hclean hok hfree hdraining
  have hexec := exec_sqretire (d := d) hclean
  have hgoes : ¬ (!seqOpnd A false || decide ((s.slot n).st = .free) || decide ((s.slot n).st = .draining)) = true := by
    rw [hok, decide_eq_false hfree, decide_eq_false hdraining]; decide
  rw [if_neg hgoes] at hexec
  obtain ⟨hbytes, hmarks, -, hcore, hst, hret, -, -⟩ := s.retireSlot_spec n
  refine ⟨_, hexec, hbytes, ?_, fun c hc => ?_, fun hd => ?_, hst, hret, ?_⟩
  · have hpc := (stepsOn_modCore_write (s.retireSlot n) r d (BitVec.ofNat 64 (s.die 8).l) false).1
    rw [hcore] at hpc; exact hpc
  · have hreg := sameRegs_modCore_write (s.retireSlot n) r d (BitVec.ofNat 64 (s.die 8).l) false c hc
    rw [hcore] at hreg; exact hreg
  · rw [State.greg, State.retire, read_modCore_write_same _ r hd]; rfl
  · show n ∈ (s.retireSlot n).hub.marks
    rw [hmarks]; exact List.mem_append_right _ (List.mem_singleton_self n)

theorem sequenceInstructionsAct : Says.SequenceInstructionsAct := by
  refine ⟨fun d a s => ?_, fun d a b s => ?_, fun d a b s => exec_sqset_bad, Slot.setField_table, sqadmit_admits,
    fun d a b s => fun hclean => ⟨exec_sqadmit_misaligned hclean, exec_sqadmit_bad hclean⟩, fun d a b s ts => ?_, fun d a b s ts ws => ?_,
    sqretire_retires, fun d a s => ?_⟩
  · intro r A hclean
    refine ⟨fun hok => ?_, fun hbad => ?_⟩
    · rw [exec_sqrd hclean, if_pos hok]
    · rw [exec_sqrd hclean]
      exact congrArg _ (if_neg (by rw [hbad]; decide))
  · intro r A n hclean hok
    exact ⟨fun x hx => exec_sqset hclean hok hx, exec_sqset_refused hclean hok⟩
  · intro r A B hclean hok halign hts howes
    refine ⟨_, exec_sqadmit_waits hclean hok halign hts howes, fun _ => ⟨rfl, rfl⟩, rfl, ?_, fun c => ?_⟩
    · rw [State.tryAgain, State.core_modCore_same]
    · rw [State.tryAgain, State.core_modCore_same]; rfl
  · intro r A B hclean hok halign hts howes hcmds hws hst
    rw [exec_sqadmit_read hclean hok halign hts howes hcmds hws]
    exact congrArg _ (if_pos hst)
  · intro r A hclean hbad
    rw [exec_sqretire hclean]
    refine congrArg _ (if_pos ?_)
    rcases hbad with h | h | h
    · rw [decide_eq_true h, Bool.or_true]; rfl
    · rw [decide_eq_true h, Bool.or_true]
    · rw [h]; rfl


/-! PROOFS. The arbiter (R168-R172, R182, R423; O43, O44). -/

/-! ## Reports taken and judged -/

/-- The state without its oldest report. -/
def State.takeReport (s : State) (rest : List Report) : State := s.modHub (fun h => { h with reports := rest })

theorem exec_squashReport {s : State} {t : Report} {rest : List Report} (hr : s.hub.reports = t :: rest)
    (hsettled : (s.slot t.slot).unsettled = false) : exec .squashReport s = .next ((s.takeReport rest).judge t) := by
  have hfind : s.hub.reports.findIdx? (fun t => !(s.slot t.slot).unsettled) = some 0 := by
    rw [hr, List.findIdx?_cons, if_pos (by simp [hsettled])]
  have hget : s.hub.reports[0]? = some t := by rw [hr]; exact List.getElem?_cons_zero
  have hrest : s.hub.reports.eraseIdx 0 = rest := by rw [hr]; exact List.eraseIdx_cons_zero ..
  have hmod : (s.modHub (fun h => { h with reports := h.reports.eraseIdx 0 })) = s.takeReport rest :=
    congrArg (fun l => { s with hub := { s.hub with reports := l } }) hrest
  show execSquashReport s = _
  rw [execSquashReport, hfind]
  dsimp only
  rw [hget, ← hmod]

theorem State.judge_rejects {s : State} {t : Report} (hp : (s.slot t.slot).prompt ≤ t.pos)
    (h : (s.slot t.slot).st = .free ∨ (s.slot t.slot).st = .waiting ∨ (s.slot t.slot).st = .draining ∨
      (s.slot t.slot).dead t.pos t.gen = true ∨ t.pos + 1 < (s.slot t.slot).commit) : s.judge t = s.rejectReport t.slot := by
  have hearly : ¬ (decide (t.pos < (s.slot t.slot).prompt) && !(decide (t.point = .final) && decide (t.pos + 1 = (s.slot t.slot).prompt))) = true := by
    rw [decide_eq_false (not_lt.mpr hp), Bool.false_and]; decide
  rw [State.judge]
  refine (if_neg hearly).trans (if_pos ?_)
  rcases h with h | h | h | h | h <;> simp [h]

/-- A report of a slot that is served, alive and not below the committed horizon, is judged by its point. -/
theorem State.judge_accepts {s : State} {t : Report} (hp : (s.slot t.slot).prompt ≤ t.pos)
    (hst : (s.slot t.slot).st = .prefill ∨ (s.slot t.slot).st = .decode ∨ (s.slot t.slot).st = .paused ∨ (s.slot t.slot).st = .swapped)
    (halive : (s.slot t.slot).dead t.pos t.gen = false) (hcommit : (s.slot t.slot).commit ≤ t.pos + 1) :
    (∀ k, t.point = .guess k → s.judge t = s.guess t.slot (s.slot t.slot) k (t.pos + 1) t.sym) ∧
    (t.point = .final → s.judge t = s.final t.slot (s.slot t.slot) (t.pos + 1) t.sym) := by
  have hearly : ¬ (decide (t.pos < (s.slot t.slot).prompt) && !(decide (t.point = .final) && decide (t.pos + 1 = (s.slot t.slot).prompt))) = true := by
    rw [decide_eq_false (not_lt.mpr hp), Bool.false_and]; decide
  have hserved : ¬ (decide ((s.slot t.slot).st = .free) || decide ((s.slot t.slot).st = .waiting) || decide ((s.slot t.slot).st = .draining) ||
      (s.slot t.slot).dead t.pos t.gen || decide (t.pos + 1 < (s.slot t.slot).commit)) = true := by
    rw [halive, decide_eq_false (not_lt.mpr hcommit)]
    rcases hst with h | h | h | h <;> rw [h] <;> decide
  constructor
  · intro k hk
    rw [State.judge]
    refine (if_neg hearly).trans ((if_neg hserved).trans ?_)
    rw [hk]
  · intro hk
    rw [State.judge]
    refine (if_neg hearly).trans ((if_neg hserved).trans ?_)
    rw [hk]

/-! ## What a judgement leaves -/

theorem State.rejectReport_spec (s : State) (n : Nat) : sameBytes s (s.rejectReport n) ∧ (s.rejectReport n).hub.reports = s.hub.reports ∧
    (s.rejectReport n).slot n = { s.slot n with reject := min ((s.slot n).reject + 1) (2 ^ 64 - 1) } ∧
    ∀ m, m ≠ n → (s.rejectReport n).slot m = s.slot m := by
  have hslot : ∀ m, (s.rejectReport n).slot m = (s.setSlot n { s.slot n with reject := min ((s.slot n).reject + 1) (2 ^ 64 - 1) }).slot m := fun _ => rfl
  refine ⟨fun a => ⟨rfl, rfl⟩, rfl, ?_, fun m hm => ?_⟩
  · rw [hslot, State.slot_setSlot_same]
  · rw [hslot, State.slot_setSlot_other _ hm]

theorem State.establish_keeps (s : State) (n q : Nat) : sameBytes s (s.establish n q) ∧ (s.establish n q).hub.reports = s.hub.reports := by
  have h := s.noticed_establish n q
  exact ⟨h.sameBytes, by rw [h.hub]; rfl⟩

theorem State.squash_keeps (s : State) (n f : Nat) (again : Option PStart) :
    sameBytes s (s.squash n f again) ∧ (s.squash n f again).hub.reports = s.hub.reports := by
  obtain ⟨hbytes, -, hreports, -⟩ := s.squash_spec n f again
  exact ⟨hbytes, hreports⟩

theorem State.launchPulse_keeps (s : State) (n q sym basis : Nat) :
    sameBytes s (s.launchPulse n q sym basis) ∧ (s.launchPulse n q sym basis).hub.reports = s.hub.reports := by
  obtain ⟨hbytes, -, hreports⟩ := s.launchPulse_spec n q sym basis
  exact ⟨hbytes, hreports⟩

theorem State.retireSlot_keeps (s : State) (n : Nat) : sameBytes s (s.retireSlot n) ∧ (s.retireSlot n).hub.reports = s.hub.reports := by
  obtain ⟨hbytes, -, hreports, -⟩ := s.retireSlot_spec n
  exact ⟨hbytes, hreports⟩

theorem State.guess_keeps (s : State) (n : Nat) (x : Slot) (k q sym : Nat) :
    sameBytes s (s.guess n x k q sym) ∧ (s.guess n x k q sym).hub.reports = s.hub.reports := by
  rw [State.guess]
  split
  · exact ⟨fun a => ⟨rfl, rfl⟩, rfl⟩
  split
  · split
    · exact s.launchPulse_keeps ..
    · exact ⟨fun a => ⟨rfl, rfl⟩, rfl⟩
  split
  · exact ⟨fun a => ⟨rfl, rfl⟩, rfl⟩
  split
  · exact ⟨fun a => ⟨rfl, rfl⟩, rfl⟩
  · exact s.squash_keeps ..

/-- The slot of a final report, before what the report decides. -/
def Slot.finalized (x : Slot) (m : Memory) (q sym : Nat) : Slot :=
  { x.advance m (x.sampled m sym) with window := (x.advance m (x.sampled m sym)).window.filter (fun e => e.pos + 1 ≠ q) }

theorem Slot.advance_window (x : Slot) (m : Memory) (y : Nat) : (x.advance m y).window = x.window := by
  rw [Slot.advance]
  split <;> rfl

theorem State.final_eq (s : State) (n : Nat) (x : Slot) (q sym : Nat) : s.final n x q sym =
    if (x.finalized s.mem q sym).endsym = BitVec.ofNat 64 (x.sampled s.mem sym) ∨ (x.finalized s.mem q sym).limit ≤ q then
      (s.setSlot n (x.finalized s.mem q sym)).retireSlot n
    else match (x.finalized s.mem q sym).window.find? (fun e => e.pos = q) with
      | none => (s.setSlot n (x.finalized s.mem q sym)).launchPulse n q (x.sampled s.mem sym) 0
      | some e => if e.sym = x.sampled s.mem sym then (s.setSlot n (x.finalized s.mem q sym)).establish n q
          else (s.setSlot n (x.finalized s.mem q sym)).squash n q (some ⟨q, x.sampled s.mem sym, 0, 0, false⟩) := by
  have hwindow : (x.finalized s.mem q sym) = { x.advance s.mem (x.sampled s.mem sym) with window := x.window.filter (fun e => e.pos + 1 ≠ q) } := by
    rw [Slot.finalized, Slot.advance_window]
  rw [State.final, hwindow]
  simp only [Bool.or_eq_true, decide_eq_true_eq] <;> rfl

theorem State.final_keeps (s : State) (n : Nat) (x : Slot) (q sym : Nat) :
    sameBytes s (s.final n x q sym) ∧ (s.final n x q sym).hub.reports = s.hub.reports := by
  rw [State.final_eq]
  split
  · exact (s.setSlot n (x.finalized s.mem q sym)).retireSlot_keeps n
  split
  · exact (s.setSlot n (x.finalized s.mem q sym)).launchPulse_keeps n q _ 0
  split
  · exact (s.setSlot n (x.finalized s.mem q sym)).establish_keeps n q
  · exact (s.setSlot n (x.finalized s.mem q sym)).squash_keeps n q _

theorem State.judge_keeps (s : State) (t : Report) : sameBytes s (s.judge t) ∧ (s.judge t).hub.reports = s.hub.reports := by
  rw [State.judge]
  split
  · exact ⟨fun a => ⟨rfl, rfl⟩, rfl⟩
  split
  · obtain ⟨hbytes, hreports, -⟩ := s.rejectReport_spec t.slot
    exact ⟨hbytes, hreports⟩
  split
  · exact s.guess_keeps ..
  · exact s.final_keeps ..

theorem squashReport_keeps (s : State) (t : Report) (rest : List Report) (hr : s.hub.reports = t :: rest)
    (hsettled : (s.slot t.slot).unsettled = false) : ∃ w, exec .squashReport s = .next w ∧ w.hub.reports = rest ∧ sameBytes s w := by
  obtain ⟨hbytes, hreports⟩ := (s.takeReport rest).judge_keeps t
  exact ⟨_, exec_squashReport hr hsettled, hreports, hbytes⟩

/-! ## Guesses (R168, R171, R423) -/

section
variable {s : State} {n : Nat} {k q sym : Nat}

theorem State.guess_ignored {x : Slot} (h : x.limit ≤ q ∨ ∃ e, x.window.find? (fun e => e.pos = q) = some e ∧ k ≤ e.basis) :
    s.guess n x k q sym = s := by
  rw [State.guess]
  by_cases hlimit : x.limit ≤ q
  · rw [if_pos hlimit]
  · obtain ⟨e, he, hk⟩ := h.resolve_left hlimit
    rw [if_neg hlimit, he]
    exact if_pos hk

theorem State.guess_fresh {x : Slot} (hlimit : q < x.limit) (hnone : x.window.find? (fun e => e.pos = q) = none) : s.guess n x k q sym =
    if x.gen ≠ 0xFFFF ∧ x.inflight < 64 ∧ x.st = .decode then s.launchPulse n q sym k else s := by
  rw [State.guess, if_neg (not_le.mpr hlimit), hnone]
  simp only [Bool.and_eq_true, decide_eq_true_eq, and_assoc]

theorem State.guess_known {x : Slot} {e : WinEnt} (hlimit : q < x.limit) (he : x.window.find? (fun e => e.pos = q) = some e) (hk : e.basis < k) :
    s.guess n x k q sym = if e.sym = sym then
      s.setSlot n { x with window := x.window.map (fun e => if e.pos = q then { e with basis := k } else e) }
    else s.squash n q (some ⟨q, sym, k, 0, false⟩) := by
  rw [State.guess, if_neg (not_le.mpr hlimit), he]
  exact if_neg (not_le.mpr hk)

end

/-! ## Final reports (R171, R182) -/

theorem Slot.sampled_of_free {x : Slot} (h : x.grammar = 15) (m : Memory) (y : Nat) : x.sampled m y = y := by
  rw [Slot.sampled, Slot.grammarEnds, if_neg (by simp [h])]

theorem Slot.advance_of_free {x : Slot} (h : x.grammar = 15) (m : Memory) (y : Nat) : x.advance m y = x := by
  rw [Slot.advance, if_pos h]

theorem Slot.finalized_of_free {x : Slot} (h : x.grammar = 15) (m : Memory) (q y : Nat) :
    x.finalized m q y = { x with window := x.window.filter (fun e => e.pos + 1 ≠ q) } := by
  rw [Slot.finalized, Slot.advance_of_free h]

/-- No entry stands just below the position: the final report takes none away. -/
theorem Slot.finalized_eq {x : Slot} (h : x.grammar = 15) {q : Nat} (hbelow : ∀ e ∈ x.window, e.pos + 1 ≠ q) (m : Memory) (y : Nat) :
    x.finalized m q y = x := by
  rw [Slot.finalized_of_free h, List.filter_eq_self.mpr (fun e he => by simpa using hbelow e he)]

/-- A final report that the grammar lets end: it gives the end symbol, and the slot is exhausted. -/
theorem Slot.finalized_of_end {x : Slot} {m : Memory} (h : x.grammarEnds m = true) (q y : Nat) :
    (x.finalized m q y).endsym = BitVec.ofNat 64 (x.sampled m y) ∧ (x.finalized m q y).exhausted = true := by
  have hgrammar : x.grammar ≠ 15 := fun h15 => by rw [Slot.grammarEnds, h15] at h; simp at h
  rw [Slot.finalized, Slot.advance, if_neg hgrammar, Slot.sampled, if_pos h, h]
  exact ⟨by simp, Bool.or_true _⟩


/-! PROOFS. What the arbiter does with each report (O43, O44). -/

section
variable {s : State} {n q sym : Nat} {x : Slot}

/-- A final report that the grammar leaves free, and that does not retire the slot. -/
theorem State.final_goes_on (hfree : x.grammar = 15) (hend : x.endsym ≠ BitVec.ofNat 64 sym) (hlimit : q < x.limit)
    (hbelow : ∀ e ∈ x.window, e.pos + 1 ≠ q) : s.final n x q sym =
    match x.window.find? (fun e => e.pos = q) with
      | none => (s.setSlot n x).launchPulse n q sym 0
      | some e => if e.sym = sym then (s.setSlot n x).establish n q else (s.setSlot n x).squash n q (some ⟨q, sym, 0, 0, false⟩) := by
  rw [State.final_eq, Slot.finalized_eq hfree hbelow, Slot.sampled_of_free hfree, if_neg (not_or.mpr ⟨hend, not_le.mpr hlimit⟩)] <;> rfl

/-- A final report of the end symbol, or at the slot's limit. -/
theorem State.final_retires (h : (x.finalized s.mem q sym).endsym = BitVec.ofNat 64 (x.sampled s.mem sym) ∨
    (x.finalized s.mem q sym).limit ≤ q) : s.final n x q sym = (s.setSlot n (x.finalized s.mem q sym)).retireSlot n := by
  rw [State.final_eq, if_pos h]

end

/-- The arbiter runs a report to the state that judging it gives, of the slots and the memory that the report finds. -/
theorem exec_squashReport_of_judge {s w : State} {t : Report} {rest : List Report} (hr : s.hub.reports = t :: rest)
    (hsettled : (s.slot t.slot).unsettled = false) (hj : (s.takeReport rest).judge t = w) : exec .squashReport s = .next w :=
  hj ▸ exec_squashReport hr hsettled

theorem reportsAreJudged : Says.ReportsAreJudged := by
  intro s t rest hr x q hsettled
  have hrun : ∀ {w}, (s.takeReport rest).judge t = w → exec .squashReport s = .next w := exec_squashReport_of_judge hr hsettled
  have hkeeps := (s.takeReport rest).judge_keeps t
  refine ⟨fun hp h => ?_, fun hp hst halive hcommit => ?_⟩
  · obtain ⟨hbytes, hreports, hsame, hother⟩ := (s.takeReport rest).rejectReport_spec t.slot
    exact ⟨_, hrun ((s.takeReport rest).judge_rejects hp h), hbytes, hreports, hsame, hother⟩
  have haccepts := State.judge_accepts (s := s.takeReport rest) hp hst halive hcommit
  obtain ⟨hguess, hfinal⟩ := haccepts
  refine ⟨fun k hk h => ?_, fun k hk hlimit hnone hgen hroom hdecode hk0 => ?_, fun k hk hlimit hnone h => ?_,
    fun k e hk hlimit he hbasis hsym => ?_, fun k e hk hlimit he hbasis hsym hgen => ?_, fun hk hfree hend hlimit hnone hbelow => ?_,
    fun e hk hfree hend hlimit he hbelow hsym => ?_, fun e hk hfree hend hlimit he hbelow hsym hgen => ?_, fun hk hfree h => ?_,
    fun hk hends => ?_⟩
  · exact hrun ((hguess k hk).trans (State.guess_ignored h))
  · have hj := ((hguess k hk).trans (State.guess_fresh hlimit hnone)).trans (if_pos ⟨hgen, hroom, hdecode⟩)
    obtain ⟨hbytes, hslot, -⟩ := (s.takeReport rest).launchPulse_spec t.slot q t.sym k
    refine ⟨_, hrun hj, hbytes, ?_⟩
    rw [hslot, if_neg hk0] <;> rfl
  · refine hrun (((hguess k hk).trans (State.guess_fresh hlimit hnone)).trans (if_neg ?_))
    rintro ⟨hgen, hroom, hdecode⟩
    rcases h with h | h | h
    · exact hgen h
    · exact absurd hroom (not_lt.mpr h)
    · exact h hdecode
  · have hj := ((hguess k hk).trans (State.guess_known hlimit he hbasis)).trans (if_pos hsym)
    exact ⟨_, hrun hj, fun a => ⟨rfl, rfl⟩, State.slot_setSlot_same ..⟩
  · have hj := ((hguess k hk).trans (State.guess_known hlimit he hbasis)).trans (if_neg hsym)
    obtain ⟨rs, ids, segs, hslot⟩ := State.squash_slot (s := s.takeReport rest) (n := t.slot) (f := q) (again := some ⟨q, t.sym, k, 0, false⟩) hgen
    obtain ⟨hbytes, -⟩ := (s.takeReport rest).squash_keeps t.slot q (some ⟨q, t.sym, k, 0, false⟩)
    refine ⟨_, hrun hj, hbytes, ?_⟩
    rw [hslot]
    exact ⟨rfl, rfl, rfl, rfl, rfl, rfl, rfl⟩
  · have hj := (hfinal hk).trans (State.final_goes_on hfree hend hlimit hbelow)
    rw [show ((s.takeReport rest).slot t.slot).window.find? _ = none from hnone] at hj
    obtain ⟨hbytes, hslot, -⟩ := ((s.takeReport rest).setSlot t.slot x).launchPulse_spec t.slot q t.sym 0
    refine ⟨_, hrun hj, hbytes, ?_⟩
    rw [State.slot_setSlot_same] at hslot
    rw [show ((s.takeReport rest).slot t.slot) = x from rfl, hslot, if_pos rfl]
    exact ⟨rfl, rfl, rfl⟩
  · have hj := (hfinal hk).trans (State.final_goes_on hfree hend hlimit hbelow)
    rw [show ((s.takeReport rest).slot t.slot).window.find? _ = some e from he] at hj
    obtain ⟨hbytes, -⟩ := ((s.takeReport rest).setSlot t.slot x).establish_keeps t.slot q
    refine ⟨_, hrun (hj.trans (if_pos hsym)), hbytes, ?_⟩
    rw [State.establish_slot, if_pos rfl, State.slot_setSlot_same]
    exact ⟨rfl, rfl, rfl⟩
  · have hj := (hfinal hk).trans (State.final_goes_on hfree hend hlimit hbelow)
    rw [show ((s.takeReport rest).slot t.slot).window.find? _ = some e from he] at hj
    have hsame : ((s.takeReport rest).setSlot t.slot x).slot t.slot = x := State.slot_setSlot_same ..
    obtain ⟨rs, ids, segs, hslot⟩ := State.squash_slot (s := (s.takeReport rest).setSlot t.slot x) (n := t.slot) (f := q)
      (again := some ⟨q, t.sym, 0, 0, false⟩) (by rw [hsame]; exact hgen)
    obtain ⟨hbytes, -⟩ := ((s.takeReport rest).setSlot t.slot x).squash_keeps t.slot q (some ⟨q, t.sym, 0, 0, false⟩)
    refine ⟨_, hrun (hj.trans (if_neg hsym)), hbytes, ?_⟩
    rw [show ((s.takeReport rest).slot t.slot) = x from rfl, hslot, hsame]
    exact ⟨rfl, rfl, rfl⟩
  · have hx : x.finalized s.mem q t.sym = { x with window := x.window.filter (fun e => e.pos + 1 ≠ q) } := Slot.finalized_of_free hfree ..
    have hj := (hfinal hk).trans (State.final_retires (n := t.slot) (by
      show (x.finalized s.mem q t.sym).endsym = BitVec.ofNat 64 (x.sampled s.mem t.sym) ∨ (x.finalized s.mem q t.sym).limit ≤ q
      rw [hx, Slot.sampled_of_free hfree]; exact h))
    obtain ⟨hbytes, hmarks, -, -, hst, hretire, -, hstarts⟩ :=
      ((s.takeReport rest).setSlot t.slot (x.finalized s.mem q t.sym)).retireSlot_spec t.slot
    refine ⟨_, hrun hj, hbytes, hst, hretire, hmarks ▸ List.mem_append_right _ (List.mem_singleton_self _), fun u hu => ?_⟩
    have := hstarts u hu
    rw [State.slot_setSlot_same, hx] at this
    exact this
  · obtain ⟨hend, hexhausted⟩ := Slot.finalized_of_end hends q t.sym
    have hj := (hfinal hk).trans (State.final_retires (n := t.slot) (.inl hend))
    obtain ⟨hbytes, -, -, -, hst, hretire, hex, -⟩ :=
      ((s.takeReport rest).setSlot t.slot (x.finalized s.mem q t.sym)).retireSlot_spec t.slot
    refine ⟨_, hrun hj, hbytes, hst, hretire, ?_⟩
    rw [show ((s.takeReport rest).slot t.slot) = x from rfl, show (s.takeReport rest).mem = s.mem from rfl]
    rw [hex, State.slot_setSlot_same]
    exact hexhausted


/-! PROOFS. Notices at segments (R175-R178; O43, O44). -/

/-! ## Horizons written (R176, R178) -/

theorem toNat_horizons (t c : Nat) : (BitVec.ofNat 32 t ++ BitVec.ofNat 32 c : Word).toNat = t % 2 ^ 32 * 2 ^ 32 + c % 2 ^ 32 := by
  rw [BitVec.toNat_append, BitVec.toNat_ofNat, BitVec.toNat_ofNat, ← Nat.shiftLeft_add_eq_or_of_lt (Nat.mod_lt _ (Nat.two_pow_pos 32)),
    Nat.shiftLeft_eq]

theorem toNat_notice (f a : Nat) : (0#16 ++ BitVec.ofNat 16 a ++ BitVec.ofNat 32 f : Word).toNat = a % 2 ^ 16 * 2 ^ 32 + f % 2 ^ 32 := by
  rw [BitVec.toNat_append, BitVec.toNat_append, BitVec.toNat_ofNat, BitVec.toNat_ofNat, BitVec.toNat_ofNat,
    ← Nat.shiftLeft_add_eq_or_of_lt (Nat.mod_lt _ (Nat.two_pow_pos 32)), Nat.shiftLeft_eq]
  simp

section
variable {m : Memory} (hw : m.wf = true) (g : KvSeg)
include hw

theorem kvSetTC_horizons (t c : Nat) : kvT (kvSetTC m g t c) g = t % 2 ^ 32 ∧ kvC (kvSetTC m g t c) g = c % 2 ^ 32 := by
  unfold kvT kvC kvSetTC
  rw [kvRead_kvWrite_same hw, bitsOf, bitsOf, toNat_horizons]
  constructor <;> omega

theorem kvSetTC_other (e : KvSeg) {k : Nat} (hk : 4 ≠ k % 8) (t c : Nat) : kvRead (kvSetTC m g t c) e k = kvRead m e k :=
  kvRead_kvWrite_other hw g e (by omega) _

theorem kvSetNotice_latest (f a : Nat) : kvF (kvSetNotice m g f a) g = f % 2 ^ 32 ∧ kvA (kvSetNotice m g f a) g = a % 2 ^ 16 := by
  unfold kvF kvA kvSetNotice
  rw [kvRead_kvWrite_same hw, bitsOf, bitsOf, toNat_notice]
  constructor <;> omega

theorem kvSetNotice_other (e : KvSeg) {k : Nat} (hk : 5 ≠ k % 8) (f a : Nat) : kvRead (kvSetNotice m g f a) e k = kvRead m e k :=
  kvRead_kvWrite_other hw g e (by omega) _

end

theorem kvT_lt (m : Memory) (g : KvSeg) : kvT m g < 2 ^ 32 := Nat.mod_lt _ (Nat.two_pow_pos 32)
theorem kvC_lt (m : Memory) (g : KvSeg) : kvC m g < 2 ^ 32 := Nat.mod_lt _ (Nat.two_pow_pos 32)

theorem kvEstablish_horizons (m : Memory) (e : KvSeg) (q : Nat) (hw : m.wf = true) (hq : q + 1 < 2 ^ 32) :
    kvC (kvEstablish m e q) e = max (kvC m e) (q + 1) ∧ kvT (kvEstablish m e q) e = kvT m e := by
  obtain ⟨ht, hc⟩ := kvSetTC_horizons hw e (kvT m e) (max (kvC m e) (q + 1))
  have h1 := kvT_lt m e
  have h2 := kvC_lt m e
  rw [kvEstablish, ht, hc, Nat.mod_eq_of_lt h1, Nat.mod_eq_of_lt (by omega)]
  exact ⟨rfl, rfl⟩

/-! ## Entries cleared (R176) -/

theorem lt_of_isDram {a : Nat} (h : isDram a = true) : a < 2 ^ 43 := by
  rw [isDram, Bool.and_eq_true, decide_eq_true_eq] at h
  omega

theorem le_kvWord (g : KvSeg) (w : Nat) : 2 ^ 52 ≤ kvWord g.1 g.2 w := by unfold kvWord spadBase; omega

theorem kvReach_spec {m : Memory} {g : KvSeg} {a : Nat} (h : kvReach m g a = true) : a % 64 = 0 ∧ isDram a = true := by
  rw [kvReach] at h
  simp only [Bool.and_eq_true, decide_eq_true_eq] at h
  exact ⟨h.1.1.1, h.1.1.2⟩

/-- One step of a clearing: the entry at a position. -/
def kvClearOne (m : Memory) (g : KvSeg) (f q : Nat) : Memory :=
  if kvReach m g (kvEntry m g q) && f ≤ bitsOf (m.word (kvEntry m g q)) 0 32 && bitsOf (m.word (kvEntry m g q)) 48 2 ≠ 0 then
    m.store (kvEntry m g q) 8 (m.word (kvEntry m g q) &&& ~~~((3 : Word) <<< 48)) false
  else m

theorem kvClear_succ (m : Memory) (g : KvSeg) (f n q : Nat) : kvClear m g f (n + 1) q = kvClear (kvClearOne m g f q) g f n (q + 1) := rfl

theorem kvClearOne_keeps {m : Memory} (hw : m.wf = true) (g : KvSeg) (f q : Nat) : (kvClearOne m g f q).wf = true ∧
    ∀ e k, kvRead (kvClearOne m g f q) e k = kvRead m e k := by
  rw [kvClearOne]
  split
  · next h =>
    rw [Bool.and_eq_true, Bool.and_eq_true] at h
    obtain ⟨⟨hreach, -⟩, -⟩ := h
    obtain ⟨halign, hdram⟩ := kvReach_spec hreach
    refine ⟨Memory.wf_store hw _ _ _ _, fun e k => ?_⟩
    have h1 := kvWord_word e k
    have h2 := le_kvWord e k
    have h3 := lt_of_isDram hdram
    rw [kvRead, Memory.word_store_aligned hw (by omega) (by omega), if_neg (by omega)]; rfl
  · exact ⟨hw, fun _ _ => rfl⟩

theorem kvClear_keeps (g : KvSeg) (f n : Nat) {m : Memory} (hw : m.wf = true) (q : Nat) : (kvClear m g f n q).wf = true ∧
    ∀ e k, kvRead (kvClear m g f n q) e k = kvRead m e k := by
  induction n generalizing m q with
  | zero => exact ⟨hw, fun _ _ => rfl⟩
  | succ n ih =>
    obtain ⟨hwf, hread⟩ := kvClearOne_keeps hw g f q
    obtain ⟨iwf, iread⟩ := ih hwf (q + 1)
    rw [kvClear_succ]
    exact ⟨iwf, fun e k => (iread e k).trans (hread e k)⟩

theorem kvNotice_horizons (m : Memory) (e : KvSeg) (f g : Nat) (hw : m.wf = true) (hf : f < 2 ^ 32) (hg : g < 2 ^ 16) :
    kvF (kvNotice m e f g) e = f ∧ kvA (kvNotice m e f g) e = g ∧
    kvT (kvNotice m e f g) e = min (kvT m e) f ∧ kvC (kvNotice m e f g) e = kvC m e := by
  let m1 := kvSetTC m e (min (kvT m e) f) (kvC m e)
  have hw1 : m1.wf = true := wf_kvWrite hw _ _ _
  obtain ⟨hw2, hread⟩ := kvClear_keeps e f (kvLimit m1 e - kvLo m1 e) hw1 (kvLo m1 e)
  obtain ⟨hF, hA⟩ := kvSetNotice_latest hw2 e f g
  have h4 : kvRead (kvNotice m e f g) e 4 = kvRead m1 e 4 := (kvSetNotice_other hw2 e e (by decide) f g).trans (hread e 4)
  obtain ⟨hT, hC⟩ := kvSetTC_horizons hw e (min (kvT m e) f) (kvC m e)
  have hT' : kvT (kvNotice m e f g) e = min (kvT m e) f % 2 ^ 32 := (congrArg (bitsOf · 32 32) h4).trans hT
  have hC' : kvC (kvNotice m e f g) e = kvC m e % 2 ^ 32 := (congrArg (bitsOf · 0 32) h4).trans hC
  have h1 := kvT_lt m e
  exact ⟨hF.trans (Nat.mod_eq_of_lt hf), hA.trans (Nat.mod_eq_of_lt hg), hT'.trans (Nat.mod_eq_of_lt (by omega)),
    hC'.trans (Nat.mod_eq_of_lt (kvC_lt m e))⟩

theorem getLsbD_halves (i : Nat) : (((3 : Word) <<< 48).getLsbD i) = (decide (i = 48) || decide (i = 49)) := by
  rw [BitVec.getLsbD_shiftLeft]
  by_cases h : i < 48
  · rw [decide_eq_true h, decide_eq_false (show i ≠ 48 by omega), decide_eq_false (show i ≠ 49 by omega)]; simp
  · by_cases h50 : i < 50
    · obtain rfl | rfl : i = 48 ∨ i = 49 := by omega
      · decide
      · decide
    · rw [decide_eq_false (show i ≠ 48 by omega), decide_eq_false (show i ≠ 49 by omega),
        show (3 : Word).getLsbD (i - 48) = false from ?_]
      · simp
      · rw [BitVec.getLsbD]
        exact Nat.testBit_lt_two_pow (lt_of_lt_of_le (by decide : (3 : Word).toNat < 2 ^ 2) (Nat.pow_le_pow_right (by decide) (by omega)))

theorem bitsOf_two_zero {v : Word} (h : bitsOf v 48 2 = 0) : v.getLsbD 48 = false ∧ v.getLsbD 49 = false := by
  rw [bitsOf] at h
  rw [BitVec.getLsbD, BitVec.getLsbD, Nat.testBit_eq_decide_div_mod_eq, Nat.testBit_eq_decide_div_mod_eq]
  constructor <;> rw [decide_eq_false_iff_not] <;> omega

/-- The halves withdrawn from a header leave its position and generation. -/
theorem withdrawn_header (w : Word) : let v := w &&& ~~~((3 : Word) <<< 48)
    bitsOf v 0 48 = bitsOf w 0 48 ∧ v.getLsbD 48 = false ∧ v.getLsbD 49 = false := by
  intro v
  have hbit : ∀ i, v.getLsbD i = (w.getLsbD i && (decide (i < 64) && !(decide (i = 48) || decide (i = 49)))) := fun i => by
    rw [BitVec.getLsbD_and, BitVec.getLsbD_not, getLsbD_halves]
  refine ⟨?_, ?_, ?_⟩
  · rw [bitsOf, bitsOf, Nat.pow_zero, Nat.div_one, Nat.div_one]
    refine Nat.eq_of_testBit_eq fun i => ?_
    rw [Nat.testBit_mod_two_pow, Nat.testBit_mod_two_pow]
    by_cases h : i < 48
    · have := hbit i
      rw [decide_eq_true (show i < 64 by omega), decide_eq_false (show i ≠ 48 by omega), decide_eq_false (show i ≠ 49 by omega)] at this
      rw [← BitVec.getLsbD, ← BitVec.getLsbD, this]; simp
    · rw [decide_eq_false h, Bool.false_and, Bool.false_and]
  · rw [hbit]; simp
  · rw [hbit]; simp

theorem kvClear_entry (m : Memory) (e : KvSeg) (f q : Nat) (hw : m.wf = true) (hreach : kvReach m e (kvEntry m e q) = true) :
    let a := kvEntry m e q
    let v := (kvClear m e f 1 q).word a
    bitsOf v 0 48 = bitsOf (m.word a) 0 48 ∧ (f ≤ bitsOf (m.word a) 0 32 → v.getLsbD 48 = false ∧ v.getLsbD 49 = false) ∧
    (bitsOf (m.word a) 0 32 < f → v = m.word a) := by
  intro a v
  have hv : v = if f ≤ bitsOf (m.word a) 0 32 ∧ bitsOf (m.word a) 48 2 ≠ 0 then m.word a &&& ~~~((3 : Word) <<< 48) else m.word a := by
    show (kvClearOne m e f q).word a = _
    rw [kvClearOne, hreach, Bool.true_and]
    simp only [Bool.and_eq_true, decide_eq_true_eq]
    split
    · exact Memory.word_store hw _ _ _
    · rfl
  obtain ⟨hlow, h48, h49⟩ := withdrawn_header (m.word a)
  rw [hv]
  refine ⟨?_, fun h => ?_, fun h => if_neg fun hc => absurd hc.1 (not_le.mpr h)⟩
  · split
    · exact hlow
    · rfl
  · by_cases h0 : bitsOf (m.word a) 48 2 = 0
    · rw [if_neg fun hc => hc.2 h0]
      exact bitsOf_two_zero h0
    · rw [if_pos ⟨h, h0⟩]
      exact ⟨h48, h49⟩


/-! PROOFS. Notices applied by regions, acknowledged and settled (R173, R174, R178; O43, O44). -/

/-! ## Killed pulses counted (R184, R383) -/

/-- A state that differs in its counts of killed pulses alone: those of slots, of regions and of the package. -/
structure State.Killed (s t : State) : Prop where
  rest : ∃ rs sl pk, t = { s with regions := rs, hub := { s.hub with slots := sl, pkg := pk } }
  slot : ∀ n, ∃ ks c, t.slot n = { s.slot n with killed := ks, kills := c }
  region : ∀ r, ∃ a b c, t.region r = { s.region r with ctr := a, ctrNow := b, busy := c }

theorem State.Killed.refl (s : State) : s.Killed s := ⟨⟨_, _, _, rfl⟩, fun _ => ⟨_, _, rfl⟩, fun _ => ⟨_, _, _, rfl⟩⟩

theorem State.Killed.trans {s t w : State} (h : s.Killed t) (k : t.Killed w) : s.Killed w := by
  obtain ⟨⟨_, _, _, rfl⟩, hslot, hregion⟩ := h
  obtain ⟨⟨_, _, _, rfl⟩, kslot, kregion⟩ := k
  refine ⟨⟨_, _, _, rfl⟩, fun n => ?_, fun r => ?_⟩
  · obtain ⟨a, b, hn⟩ := hslot n
    obtain ⟨c, d, kn⟩ := kslot n
    exact ⟨c, d, by rw [kn, hn]⟩
  · obtain ⟨a, b, c, hn⟩ := hregion r
    obtain ⟨d, e, f, kn⟩ := kregion r
    exact ⟨d, e, f, by rw [kn, hn]⟩

theorem State.Killed.foldl {α : Type} {f : State → α → State} (hf : ∀ (s : State) x, s.Killed (f s x)) (l : List α) (s : State) :
    s.Killed (l.foldl f s) := by
  induction l generalizing s with
  | nil => exact .refl s
  | cons x l ih => exact (hf s x).trans (ih _)

/-- A slot with one more killed pulse. -/
def Slot.killing (x : Slot) (w : Word) : Slot :=
  { x with killed := (headerPos w, headerGen w) :: x.killed, kills := min (x.kills + 1) (2 ^ 64 - 1) }

theorem State.killed_countKill (s : State) (r : Nat) (w : Word) : s.Killed (s.countKill r w) := by
  have hkill : s.countKill r w = if (s.slot (headerSlot w)).killed.contains (headerPos w, headerGen w) then s else
      ((s.setSlot (headerSlot w) ((s.slot (headerSlot w)).killing w)).countPkg 0xC01 1).count r 0x0F 1 := rfl
  rw [hkill]
  split
  · exact .refl s
  have hcount := State.count_onlyCounts ((s.setSlot (headerSlot w) ((s.slot (headerSlot w)).killing w)).countPkg 0xC01 1) r 0x0F 1
  have hslot : ∀ n, (((s.setSlot (headerSlot w) ((s.slot (headerSlot w)).killing w)).countPkg 0xC01 1).count r 0x0F 1).slot n =
      if n = headerSlot w then (s.slot (headerSlot w)).killing w else s.slot n := fun n => by
    rw [State.slot, hcount.rest]
    exact State.slot_setSlot ..
  refine ⟨⟨_, _, _, hcount.rest⟩, fun n => ?_, fun q => ⟨_, _, _, hcount.regions q⟩⟩
  rw [hslot]
  split
  · next h => exact ⟨_, _, by rw [h]; rfl⟩
  · exact ⟨_, _, rfl⟩

theorem State.killed_checkHeader (s : State) (r : Nat) (x : Tok) : s.Killed (s.checkHeader r x).1 := by
  rw [State.checkHeader]
  split
  · exact .refl s
  split
  · exact .refl s
  split
  · dsimp only
    split
    · exact s.killed_countKill ..
    · exact .refl s
  · exact .refl s

section
variable {s t : State} (h : s.Killed t)
include h

theorem State.Killed.mem : t.mem = s.mem := by
  obtain ⟨_, _, _, rfl⟩ := h.rest
  rfl

theorem State.Killed.chans : t.chans = s.chans := by
  obtain ⟨_, _, _, rfl⟩ := h.rest
  rfl

theorem State.Killed.chan (k : Sink) : t.chan k = s.chan k := by rw [State.chan, h.chans]; rfl

theorem State.Killed.hub : ∃ sl pk, t.hub = { s.hub with slots := sl, pkg := pk } := by
  obtain ⟨_, _, _, rfl⟩ := h.rest
  exact ⟨_, _, rfl⟩

theorem State.Killed.placements : t.hub.placements = s.hub.placements := by
  obtain ⟨_, _, hh⟩ := h.hub
  rw [hh]

theorem State.Killed.tag (r : Nat) : (t.region r).tag = (s.region r).tag := by
  obtain ⟨_, _, _, hr⟩ := h.region r
  rw [hr]

end

/-! ## Headers marked by a region (R173, R419) -/

/-- The channels of a region of a stage, with the headers that the notice kills marked. -/
def State.markedChans (s : State) (id r : Nat) (p : Placement) : State :=
  { s with chans := s.chans.map (fun e => if stageChan id r e then (e.1, (e.2.marked p).1) else e) }

theorem Chan.marked_empty (p : Placement) : (({} : Chan).marked p).1 = {} := rfl

theorem State.markedChans_chan (s : State) (id r : Nat) (p : Placement) (u : UnitId) (i : Nat) :
    (s.markedChans id r p).chan (.inp u i) = if u.region = r then ((s.chan (.inp u i)).marked p).1 else s.chan (.inp u i) := by
  have hmap : (s.markedChans id r p).chans =
      s.chans.map (fun e => (e.1, if stageChan id r (e.1, e.2) then (e.2.marked p).1 else e.2)) := by
    refine List.map_congr_left fun e _ => ?_
    split <;> rfl
  have hstage : ∀ c : Chan, stageChan id r (.inp u i, c) = decide (u.region = r) := fun c => rfl
  rw [State.chan, State.chan, hmap, Map.get_eq_get?, Map.get?_map s.chans (fun k c => if stageChan id r (k, c) then (c.marked p).1 else c),
    Map.get_eq_get? s.chans]
  simp only [hstage, decide_eq_true_eq]
  cases Map.get? s.chans (.inp u i) with
  | some c => rfl
  | none =>
    split
    · exact (Chan.marked_empty p).symm
    · rfl

theorem State.killed_markRegion (s : State) (id r : Nat) (p : Placement) : (s.markedChans id r p).Killed (s.markRegion id r p) :=
  State.Killed.foldl (fun s w => s.killed_countKill r w) _ _

theorem Chan.marked_inq (c : Chan) (p : Placement) : (c.marked p).1.inq = c.inq.map (fun t => (markHeader p t).1) := rfl

/-- A header is marked by its notice alone. -/
theorem markHeader_congr {p p' : Placement} (h : p'.notice = p.notice) (t : Tok) : markHeader p' t = markHeader p t := by
  unfold markHeader
  rw [h]

theorem markHeader_spec (p : Placement) (t : Tok) (f g : Nat) (h : p.notice.get? (headerSlot t.data) = some (f, g)) : markHeader p t =
    if t.kind = 0 ∧ t.utag = 1 ∧ f ≤ headerPos t.data ∧ headerGen t.data < g then ({ t with utag := 2 }, true) else (t, false) := by
  rw [markHeader, h]
  simp only [killedBy, Bool.and_eq_true, decide_eq_true_eq, and_assoc]

/-! ## NOTICE_APPLY_STAGE (R173, R419) -/

/-- The slot without a region of a stage among those that are still to apply its notice. -/
def Slot.acked (x : Slot) (id r : Nat) : Slot := { x with ackRegions := x.ackRegions.filter (fun e => !(e.1 = id && e.2 = r)) }

/-- The placement with a notice applied at a tick. -/
def Placement.noticed (p : Placement) (slot f g tick : Nat) : Placement :=
  { p with notice := p.notice.set slot (f, g), ackAt := p.ackAt.set slot tick }

/-- The state of a stage whose slot's notice a region applies. -/
def State.noticing (s : State) (id r slot f g : Nat) (p : Placement) : State :=
  State.setPlacement { s.setSlot slot ((s.slot slot).acked id r) with ticket := s.ticket + 1 } id (p.noticed slot f g s.ticket)

section
variable {s : State} {r slot f g id : Nat} {segs : Bool} {rest : List Notice}

theorem exec_noticeApplyStage (h : (s.region r).notices = .squash slot f g (some id) segs :: rest) (hf : (s.region r).frozen = none) :
    exec (.noticeApplyStage r) s = .next (State.noticeDone (match s.placement? id with
      | some p => if (s.region r).launch = some id then (s.noticing id r slot f g p).markRegion id r (p.noticed slot f g s.ticket)
          else s.setSlot slot ((s.slot slot).acked id r)
      | none => s.setSlot slot ((s.slot slot).acked id r)) r (.squash slot f g none segs)) := by
  show execNoticeApplyStage r s = _
  unfold execNoticeApplyStage
  dsimp only
  rw [h]
  dsimp only
  rw [if_neg (by rw [hf]; decide)]
  rfl

/-- A region's part of a notice touches no memory and no other slot field. -/
theorem noticeApplyStage_keeps (h : (s.region r).notices = .squash slot f g (some id) segs :: rest) (hf : (s.region r).frozen = none) :
    ∃ w, exec (.noticeApplyStage r) s = .next w ∧ sameBytes s w ∧
      (w.slot slot).ackRegions = (s.slot slot).ackRegions.filter (fun e => !(e.1 = id && e.2 = r)) := by
  have hslot : (s.setSlot slot ((s.slot slot).acked id r)).slot slot = (s.slot slot).acked id r := State.slot_setSlot_same ..
  refine ⟨_, exec_noticeApplyStage h hf, ?_⟩
  have hdone := fun t : State => t.noticed_noticeDone r (.squash slot f g none segs)
  split
  · next p _ =>
    split
    · have hk := (s.noticing id r slot f g p).killed_markRegion id r (p.noticed slot f g s.ticket)
      refine ⟨fun a => ?_, ?_⟩
      · rw [(hdone _).mem, hk.mem]; exact ⟨rfl, rfl⟩
      · obtain ⟨ks, c, hs⟩ := hk.slot slot
        rw [(hdone _).slot, hs]
        exact congrArg Slot.ackRegions hslot
    · exact ⟨(hdone _).sameBytes, by rw [(hdone _).slot, hslot]; rfl⟩
  · exact ⟨(hdone _).sameBytes, by rw [(hdone _).slot, hslot]; rfl⟩

theorem noticeApplyStage_marks {p : Placement} (h : (s.region r).notices = .squash slot f g (some id) segs :: rest)
    (hf : (s.region r).frozen = none) (hp : s.placement? id = some p) (hl : (s.region r).launch = some id) :
    ∃ w, exec (.noticeApplyStage r) s = .next w ∧ sameBytes s w ∧
      (∀ u i, u.region = r → (w.chan (.inp u i)).inq = (s.chan (.inp u i)).inq.map (fun t =>
        (markHeader { p with notice := p.notice.set slot (f, g) } t).1)) ∧
      (∀ u i, u.region ≠ r → w.chan (.inp u i) = s.chan (.inp u i)) ∧
      (id, r) ∉ (w.slot slot).ackRegions ∧ (∃ p', w.placement? id = some p' ∧ p'.notice.get? slot = some (f, g)) := by
  obtain ⟨w, hexec, hbytes, hack⟩ := noticeApplyStage_keeps h hf
  have hrun := exec_noticeApplyStage h hf
  rw [hp] at hrun
  replace hrun := hrun.trans (congrArg (fun t => Host.Outcome.next (State.noticeDone t r (.squash slot f g none segs))) (if_pos hl))
  have hn := State.noticed_noticeDone ((s.noticing id r slot f g p).markRegion id r (p.noticed slot f g s.ticket)) r (.squash slot f g none segs)
  have hk := (s.noticing id r slot f g p).killed_markRegion id r (p.noticed slot f g s.ticket)
  have hw : w = State.noticeDone ((s.noticing id r slot f g p).markRegion id r (p.noticed slot f g s.ticket)) r (.squash slot f g none segs) := by
    rw [hexec] at hrun; injection hrun
  have hchan : ∀ u i, w.chan (.inp u i) =
      if u.region = r then ((s.chan (.inp u i)).marked (p.noticed slot f g s.ticket)).1 else s.chan (.inp u i) := fun u i => by
    rw [hw, State.chan, hn.chans]
    exact (hk.chan _).trans (State.markedChans_chan ..)
  refine ⟨w, hexec, hbytes, fun u i hu => ?_, fun u i hu => ?_, ?_, ?_⟩
  · rw [hchan, if_pos hu, Chan.marked_inq]
    exact List.map_congr_left fun t _ => congrArg Prod.fst (markHeader_congr rfl t)
  · rw [hchan, if_neg hu]
  · rw [hack]
    simp
  · refine ⟨p.noticed slot f g s.ticket, ?_, Map.get?_set_same ..⟩
    rw [hw, State.placement?, hn.hub]
    show Map.get? ((s.noticing id r slot f g p).markRegion id r (p.noticed slot f g s.ticket)).hub.placements id = _
    rw [hk.placements]
    exact Map.get?_set_same ..

end

/-! ## NOTICE_APPLY_SEGMENT and ESTABLISH_NOTICE_APPLY (R176, R178) -/

section
variable {s : State} {r slot f g q : Nat} {st : Option Nat} {rest : List Notice}

theorem noticeApplySegment_applies (h : (s.region r).notices = .squash slot f g st true :: rest) (hf : (s.region r).frozen = none) :
    ∃ w, exec (.noticeApplySegment r) s = .next w ∧ w.mem = (slotSegs s.mem r slot).foldl (fun m e => kvNotice m e f g) s.mem ∧
      (w.slot slot).ackSegs = (s.slot slot).ackSegs.erase r ∧ w.chans = s.chans := by
  have hexec : exec (.noticeApplySegment r) s = .next (State.noticeDone
      { s.setSlot slot { s.slot slot with ackSegs := (s.slot slot).ackSegs.erase r } with
        mem := (slotSegs s.mem r slot).foldl (fun m e => kvNotice m e f g) s.mem } r (.squash slot f g st false)) := by
    show execNoticeApplySegment r s = _
    unfold execNoticeApplySegment
    dsimp only
    rw [h]
    exact if_neg (by rw [hf]; decide)
  have hn := fun t : State => t.noticed_noticeDone r (.squash slot f g st false)
  refine ⟨_, hexec, (hn _).mem, ?_, (hn _).chans⟩
  rw [(hn _).slot]
  exact congrArg Slot.ackSegs (State.slot_setSlot_same s slot { s.slot slot with ackSegs := (s.slot slot).ackSegs.erase r })

theorem establishNoticeApply_applies (h : (s.region r).notices = .establish slot q :: rest) (hf : (s.region r).frozen = none) :
    ∃ w, exec (.establishNoticeApply r) s = .next w ∧ w.mem = (slotSegs s.mem r slot).foldl (fun m e => kvEstablish m e q) s.mem ∧
      w.chans = s.chans ∧ w.hub.slots = s.hub.slots := by
  have hexec : exec (.establishNoticeApply r) s = .next
      (State.popNotice { s with mem := (slotSegs s.mem r slot).foldl (fun m e => kvEstablish m e q) s.mem } r) := by
    show execEstablishNoticeApply r s = _
    unfold execEstablishNoticeApply
    dsimp only
    rw [h]
    exact if_neg (by rw [hf]; decide)
  have hn := fun t : State => t.noticed_popNotice r
  exact ⟨_, hexec, (hn _).mem, (hn _).chans, by rw [(hn _).hub]⟩

end

/-! ## STAGE_ACKNOWLEDGE and SETTLE (R174, R168, R171) -/

section
variable {id slot : Nat} {s : State}

theorem stageAcknowledge_acknowledges (hu : (s.slot slot).unsettled = true) (hin : id ∈ (s.slot slot).ackStages)
    (hregions : ∀ e ∈ (s.slot slot).ackRegions, e.1 ≠ id)
    (hkv : ∀ h ∈ s.kv, h.slot = slot → s.issuedBy id h = true → ∀ p, s.placement? id = some p → p.ackAt.get slot 0 ≤ h.tick) :
    exec (.stageAcknowledge id slot) s =
      .next (s.setSlot slot { s.slot slot with ackStages := (s.slot slot).ackStages.filter (fun k => k ≠ id) }) := by
  show execStageAcknowledge id slot s = _
  unfold execStageAcknowledge
  refine if_pos ?_
  rw [hu, List.contains_iff_mem.mpr hin, Bool.true_and, Bool.true_and, Bool.and_eq_true, List.all_eq_true, List.all_eq_true]
  refine ⟨fun e he => by simpa using hregions e he, fun h hh => ?_⟩
  by_cases hs : h.slot = slot
  · cases hi : s.issuedBy id h with
    | false => simp
    | true =>
      have := hkv h hh hs hi
      cases hp : s.placement? id with
      | none => simp
      | some p => simp [this p hp]
  · simp [hs]

theorem stageAcknowledge_waits {h : KvHalf} (hh : h ∈ s.kv) (hs : h.slot = slot) (hi : s.issuedBy id h = true)
    (htick : ∀ p, s.placement? id = some p → h.tick < p.ackAt.get slot 0) (hp : (s.placement? id).isSome = true) :
    exec (.stageAcknowledge id slot) s = .next s := by
  obtain ⟨p, hp⟩ := Option.isSome_iff_exists.mp hp
  show execStageAcknowledge id slot s = _
  unfold execStageAcknowledge
  refine if_neg fun hc => ?_
  rw [Bool.and_eq_true, List.all_eq_true] at hc
  have := hc.2 h hh
  rw [hp, hs, hi] at this
  simp only [ne_eq, not_true_eq_false, decide_false, Bool.not_true, Bool.or_self, Bool.false_or, decide_eq_true_eq] at this
  exact absurd (htick p hp) (not_lt.mpr this)

/-- The slot that a settled notice leaves. -/
def Slot.settled (x : Slot) : Slot := { x with unsettled := false, relaunch := none, cut := false, ackStages := [], ackRegions := [] }

theorem exec_settle (hu : (s.slot slot).unsettled = true) (hsegs : (s.slot slot).ackSegs = []) (hstages : (s.slot slot).ackStages = [])
    (hcut : (s.slot slot).cut = false) : exec (.settle slot) s = .next (match (s.slot slot).relaunch with
      | some q => if (s.slot slot).st = .free ∨ (s.slot slot).st = .draining ∨ (q.basis ≠ 0 ∧ (s.slot slot).gen = 0xFFFF) then
          s.setSlot slot (s.slot slot).settled
        else (s.setSlot slot (s.slot slot).settled).launchPulse slot q.pos q.sym q.basis
      | none => s.setSlot slot (s.slot slot).settled) := by
  show execSettle slot s = _
  unfold execSettle
  refine (if_pos (by rw [hu, hsegs, hstages]; rfl)).trans ((if_neg (by rw [hcut]; decide)).trans ?_)
  cases (s.slot slot).relaunch with
  | none => rfl
  | some q =>
    simp only [Bool.or_eq_true, Bool.and_eq_true, decide_eq_true_eq, or_assoc]
    split <;> rfl

theorem settle_waits (h : (s.slot slot).ackSegs ≠ []) : exec (.settle slot) s = .next s := by
  show execSettle slot s = _
  unfold execSettle
  refine if_neg fun hc => h ?_
  rw [Bool.and_eq_true, Bool.and_eq_true] at hc
  exact List.isEmpty_iff.mp hc.1.2

theorem settle_relaunches {q : PStart} (hu : (s.slot slot).unsettled = true) (hsegs : (s.slot slot).ackSegs = [])
    (hstages : (s.slot slot).ackStages = []) (hcut : (s.slot slot).cut = false) (hq : (s.slot slot).relaunch = some q)
    (hst : (s.slot slot).st = .prefill ∨ (s.slot slot).st = .decode ∨ (s.slot slot).st = .paused ∨ (s.slot slot).st = .swapped)
    (hgen : q.basis = 0 ∨ (s.slot slot).gen ≠ 0xFFFF) :
    ∃ w, exec (.settle slot) s = .next w ∧ sameBytes s w ∧ (w.slot slot).unsettled = false ∧ (w.slot slot).relaunch = none ∧
      (w.slot slot).starts = (s.slot slot).starts ++ [⟨q.pos, q.sym, q.basis, (s.slot slot).gen, false⟩] ∧
      (w.slot slot).commit = if q.basis = 0 then max (s.slot slot).commit (q.pos + 1) else (s.slot slot).commit := by
  have hexec := exec_settle hu hsegs hstages hcut
  rw [hq] at hexec
  have hgo : ¬ ((s.slot slot).st = .free ∨ (s.slot slot).st = .draining ∨ (q.basis ≠ 0 ∧ (s.slot slot).gen = 0xFFFF)) := by
    rintro (h | h | ⟨h0, h⟩)
    · rcases hst with k | k | k | k <;> rw [k] at h <;> exact QState.noConfusion h
    · rcases hst with k | k | k | k <;> rw [k] at h <;> exact QState.noConfusion h
    · exact hgen.elim h0 (fun k => k h)
  obtain ⟨hbytes, hslot, -⟩ := (s.setSlot slot (s.slot slot).settled).launchPulse_spec slot q.pos q.sym q.basis
  refine ⟨_, hexec.trans (congrArg _ (if_neg hgo)), hbytes, ?_⟩
  rw [hslot, State.slot_setSlot_same]
  exact ⟨rfl, rfl, rfl, rfl⟩

theorem settle_ends (hu : (s.slot slot).unsettled = true) (hsegs : (s.slot slot).ackSegs = []) (hstages : (s.slot slot).ackStages = [])
    (hcut : (s.slot slot).cut = false) (hq : (s.slot slot).relaunch = none) :
    exec (.settle slot) s = .next (s.setSlot slot (s.slot slot).settled) := by
  have hexec := exec_settle hu hsegs hstages hcut
  rw [hq] at hexec
  exact hexec

end

theorem noticesAreApplied : Says.NoticesAreApplied := by
  refine ⟨fun r s slot f g id segs rest p h hf hp hl => noticeApplyStage_marks h hf hp hl, markHeader_spec,
    fun r s slot f g st rest h hf => noticeApplySegment_applies h hf, kvNotice_horizons, kvClear_entry,
    fun r s slot q rest h hf => establishNoticeApply_applies h hf, kvEstablish_horizons,
    fun id slot s p hu hin hregions hp hkv => stageAcknowledge_acknowledges hu hin hregions fun h hh hs hi p' hp' => ?_,
    fun id slot s h hh hs hi htick hp hu => stageAcknowledge_waits hh hs hi htick hp,
    fun slot s q hu hsegs hstages hcut hq hst hgen => settle_relaunches hu hsegs hstages hcut hq hst hgen,
    fun slot s hu hsegs hstages hcut hq => ⟨_, settle_ends hu hsegs hstages hcut hq, fun a => ⟨rfl, rfl⟩, ?_⟩,
    fun slot s h => settle_waits h⟩
  · rw [hp] at hp'
    injection hp' with hpp
    exact hpp ▸ hkv h hh hs hi
  · rw [State.slot_setSlot_same]
    exact ⟨rfl, rfl⟩


/-! PROOFS. The step builder (R180, R183, R358, R366, R420, R424; O43, O44). -/

/-! ## Tokens that the start port places -/

section
variable (s : State) (e : UnitId × Nat) (x : Tok)

theorem State.startTok_onlyChans : s.OnlyChans (s.startTok e x) := rfl

theorem State.startTok_places : ((s.startTok e x).chan (.inp e.1 e.2)).places =
    (s.chan (.inp e.1 e.2)).places ++ [(0, some { x with tag := (s.region e.1.region).tag })] := by
  rw [State.startTok, State.chan_modChan_same]

theorem State.startTok_other {e' : UnitId × Nat} (h : e' ≠ e) : (s.startTok e x).chan (.inp e'.1 e'.2) = s.chan (.inp e'.1 e'.2) := by
  refine State.chan_modChan_other _ (fun hk => h ?_) _
  injection hk with h1 h2
  exact Prod.ext h1 h2

end

/-- The words of a row from an address, placed one after another. -/
def State.rowToks (s : State) (w : UnitId × Nat) (a : Nat) (ks : List Nat) : State :=
  ks.foldl (fun s k => s.startTok w { data := s.mem.word (a + 8 * k), poison := s.mem.poisoned (a + 8 * k), tag := 0 }) s

/-- Word k of a row at an address, as a token of an input. -/
def State.rowTok (s : State) (w : UnitId × Nat) (a k : Nat) : Nat × Option Tok :=
  (0, some { data := s.mem.word (a + 8 * k), poison := s.mem.poisoned (a + 8 * k), tag := (s.region w.1.region).tag })

theorem State.rowToks_spec (w : UnitId × Nat) (a : Nat) (ks : List Nat) (s : State) : s.OnlyChans (s.rowToks w a ks) ∧
    ((s.rowToks w a ks).chan (.inp w.1 w.2)).places = (s.chan (.inp w.1 w.2)).places ++ ks.map (s.rowTok w a) ∧
    ∀ e : UnitId × Nat, e ≠ w → (s.rowToks w a ks).chan (.inp e.1 e.2) = s.chan (.inp e.1 e.2) := by
  induction ks generalizing s with
  | nil => exact ⟨rfl, (List.append_nil _).symm, fun e _ => rfl⟩
  | cons k ks ih =>
    obtain ⟨ionly, iplaces, iother⟩ := ih (s.startTok w { data := s.mem.word (a + 8 * k), poison := s.mem.poisoned (a + 8 * k), tag := 0 })
    refine ⟨(s.startTok_onlyChans w _).trans ionly, iplaces.trans ?_, fun e he => (iother e he).trans (s.startTok_other w _ he)⟩
    rw [State.startTok_places, List.append_assoc]
    rfl

/-- Header, symbol and row of a pulse, placed at the three inputs. -/
def State.pulseToks (s : State) (h y w : UnitId × Nat) (hd : Tok) (sym a : Nat) : State :=
  ((s.startTok h hd).startTok y { data := BitVec.ofNat 64 sym, tag := 0 }).rowToks w a (List.range 8)

theorem State.pulseToks_onlyChans (s : State) (h y w : UnitId × Nat) (hd : Tok) (sym a : Nat) : s.OnlyChans (s.pulseToks h y w hd sym a) := by
  obtain ⟨hrow, -⟩ := State.rowToks_spec w a (List.range 8) ((s.startTok h hd).startTok y { data := BitVec.ofNat 64 sym, tag := 0 })
  exact ((s.startTok_onlyChans h hd).trans (State.startTok_onlyChans _ y _)).trans hrow

theorem State.pulseToks_places (s : State) {h y w : UnitId × Nat} (hd : Tok) (sym a : Nat) (hy : h ≠ y) (hw : h ≠ w) (yw : y ≠ w) :
    ((s.pulseToks h y w hd sym a).chan (.inp h.1 h.2)).places =
      (s.chan (.inp h.1 h.2)).places ++ [(0, some { hd with tag := (s.region h.1.region).tag })] ∧
    ((s.pulseToks h y w hd sym a).chan (.inp y.1 y.2)).places =
      (s.chan (.inp y.1 y.2)).places ++ [(0, some { data := BitVec.ofNat 64 sym, tag := (s.region y.1.region).tag })] ∧
    ((s.pulseToks h y w hd sym a).chan (.inp w.1 w.2)).places = (s.chan (.inp w.1 w.2)).places ++ (List.range 8).map (s.rowTok w a) := by
  obtain ⟨-, hplaces, hother⟩ := State.rowToks_spec w a (List.range 8) ((s.startTok h hd).startTok y { data := BitVec.ofNat 64 sym, tag := 0 })
  refine ⟨?_, ?_, hplaces.trans ?_⟩
  · rw [State.pulseToks, hother h hw, State.startTok_other _ _ _ hy, State.startTok_places]
  · rw [State.pulseToks, hother y yw, State.startTok_places, State.startTok_other _ _ _ hy.symm]; rfl
  · rw [State.startTok_other _ _ _ yw.symm, State.startTok_other _ _ _ hw.symm]; rfl

/-! ## The slot of a pulse that starts (R358, R366, R420) -/

theorem State.policyFor_congr {s t : State} (hp : t.hub.placements = s.hub.placements) (hs : t.hub.samplers = s.hub.samplers)
    {x y : Slot} (h : y.policy = x.policy) : t.policyFor y = s.policyFor x := by
  unfold State.policyFor State.policed Hub.resident
  rw [hp, hs, h]

/-- A state that differs in the hub's slots and package counters alone. -/
def State.SlotsOnly (s t : State) : Prop := ∃ sl pk, t = { s with hub := { s.hub with slots := sl, pkg := pk } }

theorem State.SlotsOnly.trans {s t w : State} (h : s.SlotsOnly t) (k : t.SlotsOnly w) : s.SlotsOnly w := by
  obtain ⟨_, _, rfl⟩ := h
  obtain ⟨_, _, rfl⟩ := k
  exact ⟨_, _, rfl⟩

theorem State.slotsOnly_setSlot (s : State) (n : Nat) (x : Slot) : s.SlotsOnly (s.setSlot n x) := ⟨_, _, rfl⟩

theorem State.slotsOnly_countPkg (s : State) (num n : Nat) : s.SlotsOnly (s.countPkg num n) := ⟨_, _, rfl⟩

/-- A slot whose pulse is given a policy, with its count of pulses that found none resident. -/
def Slot.given (x : Slot) (e : Nat × Nat × BitVec 3) (miss : Nat) : Slot := { x with policies := x.policies ++ [e], miss := miss }

theorem State.givePolicy_spec (s : State) (slot pos gen : Nat) : s.SlotsOnly (s.givePolicy slot pos gen) ∧
    ∃ m, (s.givePolicy slot pos gen).slot slot =
      { s.slot slot with policies := (s.slot slot).policies ++ [(pos, gen, s.policyFor (s.slot slot))], miss := m } := by
  have hgive : s.givePolicy slot pos gen = if s.policed && !s.hub.resident (s.slot slot).policy.toNat then
      (s.setSlot slot ((s.slot slot).given (pos, gen, s.policyFor (s.slot slot)) (min ((s.slot slot).miss + 1) (2 ^ 64 - 1)))).countPkg 0xC03 1
    else s.setSlot slot ((s.slot slot).given (pos, gen, s.policyFor (s.slot slot)) (s.slot slot).miss) := rfl
  have hcount : ∀ x, ((s.setSlot slot x).countPkg 0xC03 1).slot slot = x := State.slot_setSlot_same s slot
  rw [hgive]
  split
  · exact ⟨(s.slotsOnly_setSlot slot _).trans (State.slotsOnly_countPkg _ 0xC03 1), _, hcount _⟩
  · exact ⟨s.slotsOnly_setSlot slot _, _, State.slot_setSlot_same s slot _⟩

theorem Slot.prompted_keeps (x : Slot) : x.prompted.inflight = x.inflight ∧ x.prompted.position = x.position ∧ x.prompted.policies = x.policies := by
  rw [Slot.prompted]
  split <;> exact ⟨rfl, rfl, rfl⟩

theorem State.promptStart_spec (s : State) (slot q : Nat) : (s.promptStart slot q).mem = s.mem ∧ (s.promptStart slot q).chans = s.chans ∧
    (s.promptStart slot q).hub.batch = s.hub.batch ∧
    ∃ c, (s.promptStart slot q).slot slot = ({ s.slot slot with commit := c } : Slot).prompted := by
  have hstart : s.promptStart slot q = (s.establish slot q).setSlot slot ((s.establish slot q).slot slot).prompted := rfl
  have hn := s.noticed_establish slot q
  have hslot := s.establish_slot slot q slot
  rw [hstart]
  generalize s.establish slot q = t at hn hslot ⊢
  have hbatch : t.hub.batch = s.hub.batch := by rw [hn.hub]; rfl
  refine ⟨hn.mem, hn.chans, hbatch, max (s.slot slot).commit (q + 1), ?_⟩
  rw [State.slot_setSlot_same, hslot, if_pos rfl]

/-- The slot of a pulse in flight. -/
def Slot.flying (x : Slot) (t : PStart) : Slot := { x with inflight := x.inflight + 1, position := if t.dead then x.position else t.pos + 1 }

/-- The slot's part of a pulse start. -/
def State.fly1 (s : State) (slot : Nat) (t : PStart) (prompt : Bool) : State :=
  let s1 := (s.setSlot slot ((s.slot slot).flying t)).givePolicy slot t.pos t.gen
  if prompt then s1.promptStart slot t.pos else s1

theorem State.fly1_spec (s : State) (slot : Nat) (t : PStart) (prompt : Bool) : (s.fly1 slot t prompt).mem = s.mem ∧
    (s.fly1 slot t prompt).chans = s.chans ∧ (s.fly1 slot t prompt).hub.batch = s.hub.batch ∧
    ((s.fly1 slot t prompt).slot slot).inflight = (s.slot slot).inflight + 1 ∧
    ((s.fly1 slot t prompt).slot slot).position = (if t.dead then (s.slot slot).position else t.pos + 1) ∧
    ((s.fly1 slot t prompt).slot slot).policies = (s.slot slot).policies ++ [(t.pos, t.gen, s.policyFor (s.slot slot))] := by
  obtain ⟨⟨sl, pk, hrest⟩, m, hslot⟩ := (s.setSlot slot ((s.slot slot).flying t)).givePolicy_spec slot t.pos t.gen
  rw [State.slot_setSlot_same] at hslot
  unfold State.fly1
  dsimp only
  split
  · obtain ⟨hmem, hchans, hbatch, c, hprompted⟩ :=
      ((s.setSlot slot ((s.slot slot).flying t)).givePolicy slot t.pos t.gen).promptStart_spec slot t.pos
    obtain ⟨hin, hpos, hpol⟩ := Slot.prompted_keeps { ((s.setSlot slot ((s.slot slot).flying t)).givePolicy slot t.pos t.gen).slot slot with commit := c }
    rw [hprompted, hin, hpos, hpol, hslot, hmem, hchans, hbatch, hrest]
    exact ⟨rfl, rfl, rfl, rfl, rfl, rfl⟩
  · rw [hslot, hrest]
    exact ⟨rfl, rfl, rfl, rfl, rfl, rfl⟩

/-! ## A pulse starts (R420) -/

/-- The header of a pulse that starts, checked against its stage's notice, and the state that counts it where it is killed. -/
def State.startHead (s : State) (r : Nat) (t : PStart) (word : Word) : State × Tok :=
  if t.dead then (s.countKill r word, { data := word, utag := 2, tag := 0 }) else s.checkHeader r { data := word, utag := 1, tag := 0 }

theorem State.startHead_killed (s : State) (r : Nat) (t : PStart) (word : Word) : s.Killed (s.startHead r t word).1 := by
  rw [State.startHead]
  split
  · exact s.killed_countKill ..
  · exact s.killed_checkHeader ..

/-- The state without the first start of the batch in hand. -/
def State.takeStart (s : State) (ds : List Draw) : State := s.modHub (fun h => { h with batch := ds })

section
variable {s : State} {id : Nat} {p : Placement} {h y w : UnitId × Nat} {emb slot : Nat} {t : PStart} {prompt : Bool} {ds : List Draw}

theorem State.startNext_eq (hp : p.startInputs = some (h, y, w, emb)) (hb : s.hub.batch = (slot, t, prompt) :: ds) : s.startNext p =
    (((s.takeStart ds).startHead h.1.region t (headerWord slot t.pos t.gen s.hub.batchParity t.basis)).1.pulseToks h y w
      ((s.takeStart ds).startHead h.1.region t (headerWord slot t.pos t.gen s.hub.batchParity t.basis)).2 t.sym
      (p.img.dataP + emb + 64 * t.sym)).fly1 slot t prompt := by
  rw [State.startNext, hb]
  dsimp only
  rw [State.startPulse, hp]
  rfl

theorem exec_stepBuilderMicrobatch (hstage : s.startStage = some (id, p)) (hp : p.startInputs = some (h, y, w, emb))
    (hb : s.hub.batch = (slot, t, prompt) :: ds) (hh : s.startRoom h 1 = true) (hy : s.startRoom y 1 = true) (hw : s.startRoom w 8 = true) :
    exec .stepBuilderMicrobatch s = .next (s.startNext p) := by
  show execStepBuilderMicrobatch s = _
  rw [execStepBuilderMicrobatch, hstage]
  dsimp only
  rw [hp]
  dsimp only
  rw [hb, hh, hy, hw]
  rfl

theorem pulse_starts (hstage : s.startStage = some (id, p)) (hp : p.startInputs = some (h, y, w, emb))
    (hb : s.hub.batch = (slot, t, prompt) :: ds) (hh : s.startRoom h 1 = true) (hy : s.startRoom y 1 = true) (hw : s.startRoom w 8 = true) :
    ∃ v, exec .stepBuilderMicrobatch s = .next v ∧ sameBytes s v ∧ v.hub.batch = ds ∧
      v.chans = (((s.takeStart ds).startHead h.1.region t (headerWord slot t.pos t.gen s.hub.batchParity t.basis)).1.pulseToks h y w
        ((s.takeStart ds).startHead h.1.region t (headerWord slot t.pos t.gen s.hub.batchParity t.basis)).2 t.sym
        (p.img.dataP + emb + 64 * t.sym)).chans ∧
      (v.slot slot).inflight = (s.slot slot).inflight + 1 ∧
      (v.slot slot).position = (if t.dead then (s.slot slot).position else t.pos + 1) ∧
      (v.slot slot).policies = (s.slot slot).policies ++ [(t.pos, t.gen, s.policyFor (s.slot slot))] := by
  have hexec := exec_stepBuilderMicrobatch hstage hp hb hh hy hw
  rw [State.startNext_eq hp hb] at hexec
  have hk := (s.takeStart ds).startHead_killed h.1.region t (headerWord slot t.pos t.gen s.hub.batchParity t.basis)
  generalize (s.takeStart ds).startHead h.1.region t (headerWord slot t.pos t.gen s.hub.batchParity t.basis) = sh at hexec hk ⊢
  obtain ⟨s1, hd⟩ := sh
  have hc := s1.pulseToks_onlyChans h y w hd t.sym (p.img.dataP + emb + 64 * t.sym)
  obtain ⟨hmem, hchans, hbatch, hin, hpos, hpol⟩ := (s1.pulseToks h y w hd t.sym (p.img.dataP + emb + 64 * t.sym)).fly1_spec slot t prompt
  obtain ⟨sl, pk, hhub⟩ := hk.hub
  obtain ⟨ks, c, hslot⟩ := hk.slot slot
  have hub2 : (s1.pulseToks h y w hd t.sym (p.img.dataP + emb + 64 * t.sym)).hub = s1.hub := by rw [hc]
  have hslot2 : (s1.pulseToks h y w hd t.sym (p.img.dataP + emb + 64 * t.sym)).slot slot = { s.slot slot with killed := ks, kills := c } := by
    rw [State.slot, hub2]; exact hslot
  have hmem2 : (s1.pulseToks h y w hd t.sym (p.img.dataP + emb + 64 * t.sym)).mem = s1.mem := by rw [hc]
  refine ⟨_, hexec, fun a => ?_, ?_, hchans, ?_, ?_, ?_⟩
  · rw [hmem, hmem2, hk.mem]; exact ⟨rfl, rfl⟩
  · rw [hbatch, hub2, hhub]; rfl
  · rw [hin, hslot2]
  · rw [hpos, hslot2]
  · rw [hpol, hslot2, State.policyFor_congr (t := s1.pulseToks h y w hd t.sym (p.img.dataP + emb + 64 * t.sym)) (s := s) (x := s.slot slot)
      (y := { s.slot slot with killed := ks, kills := c }) (by rw [hub2, hhub]; rfl) (by rw [hub2, hhub]; rfl) rfl]

end

/-- The checked header of a pulse does not depend on the batch in hand. -/
theorem State.startHead_tok (s : State) (ds : List Draw) (r : Nat) (t : PStart) (word : Word) : ((s.takeStart ds).startHead r t word).2 =
    if t.dead then { data := word, utag := 2, tag := 0 } else (s.checkHeader r { data := word, utag := 1, tag := 0 }).2 := by
  rw [State.startHead]
  split
  · rfl
  · unfold State.checkHeader
    show Prod.snd (match (s.region r).launch with | none => _ | some id => match s.placement? id with | none => _ | some p => _) = _
    cases (s.region r).launch with
    | none => rfl
    | some id =>
      dsimp only
      cases s.placement? id with
      | none => rfl
      | some p =>
        dsimp only
        split <;> rfl


/-! PROOFS. Drain MARKs, micro-batches, activation and freeing (R180, R183, R358, R424; O43, O44). -/

theorem mark_goes_between {s : State} {id : Nat} {p : Placement} {h y w : UnitId × Nat} {emb n : Nat} {ns : List Nat}
    (hstage : s.startStage = some (id, p)) (hp : p.startInputs = some (h, y, w, emb)) (hb : s.hub.batch = []) (hm : s.hub.marks = n :: ns)
    (hroom : s.startRoom h 1 = true) : ∃ v, exec .stepBuilderMicrobatch s = .next v ∧ sameBytes s v ∧ v.hub.marks = ns ∧
      (v.chan (.inp h.1 h.2)).places = (s.chan (.inp h.1 h.2)).places ++ [(0, some { data := 1, kind := 2, tag := s.boundTagOf h.1 })] := by
  have hexec : exec .stepBuilderMicrobatch s = .next ((s.modHub (fun b => { b with marks := ns, marksOut := b.marksOut ++ [n] })).startTok h
      { data := 1, kind := 2, tag := 0 }) := by
    show execStepBuilderMicrobatch s = _
    rw [execStepBuilderMicrobatch, hstage]
    dsimp only
    rw [hp]
    dsimp only
    rw [hb, hm]
    exact if_pos hroom
  exact ⟨_, hexec, fun a => ⟨rfl, rfl⟩, rfl, State.startTok_places ..⟩

/-! ## Batches (R180) -/

theorem State.pick_length (s : State) (es : List (Nat × Nat × List Draw)) (ver : Option (BitVec 16)) (got : List Draw) (h : got.length ≤ 64) :
    (s.pick ver got es).length ≤ 64 := by
  induction es generalizing ver got with
  | nil => exact h
  | cons e es ih =>
    obtain ⟨a, slot, ds⟩ := e
    rw [State.pick]
    split
    · exact ih ver got h
    · next hc =>
      refine ih _ _ ?_
      rw [List.length_append]
      simp only [Bool.or_eq_true, decide_eq_true_eq, not_or, not_lt] at hc
      exact hc.2

/-- The starts taken are all of one weight version, that of the first one. -/
def State.oneVersion (s : State) (ver : Option (BitVec 16)) (got : List Draw) : Prop :=
  (ver = none → got = []) ∧ ∀ v, ver = some v → v ≠ 0xFFFF ∧ ∀ d ∈ got, (s.slot d.1).wver = v

theorem State.pick_oneVersion (s : State) (es : List (Nat × Nat × List Draw)) (hes : ∀ e ∈ es, ∀ d ∈ e.2.2, d.1 = e.2.1)
    (ver : Option (BitVec 16)) (got : List Draw) (h : s.oneVersion ver got) : ∃ ver', s.oneVersion ver' (s.pick ver got es) := by
  induction es generalizing ver got with
  | nil => exact ⟨ver, h⟩
  | cons e es ih =>
    obtain ⟨a, slot, ds⟩ := e
    have hrest : ∀ e ∈ es, ∀ d ∈ e.2.2, d.1 = e.2.1 := fun e he => hes e (List.mem_cons_of_mem _ he)
    have hds : ∀ d ∈ ds, d.1 = slot := hes _ List.mem_cons_self
    rw [State.pick]
    split
    · exact ih hrest ver got h
    · next hc =>
      simp only [Bool.or_eq_true, decide_eq_true_eq, not_or] at hc
      obtain ⟨⟨hlast, hver⟩, -⟩ := hc
      refine ih hrest _ _ ⟨fun hn => (nomatch hn), fun v hv => ?_⟩
      injection hv with hv
      subst hv
      refine ⟨hlast, fun d hd => ?_⟩
      rcases List.mem_append.mp hd with hd | hd
      · cases ver with
        | none => rw [h.1 rfl] at hd; exact absurd hd (List.not_mem_nil)
        | some v =>
          have hv : v = (s.slot slot).wver := by simpa using hver
          rw [(h.2 v rfl).2 d hd, hv]
      · rw [hds d hd]

theorem State.pick_spec (s : State) (es : List (Nat × Nat × List Draw)) : (s.pick none [] es).length ≤ 64 ∧
    ((∀ e ∈ es, ∀ d ∈ e.2.2, d.1 = e.2.1) → ∀ d ∈ s.pick none [] es, ∀ e ∈ s.pick none [] es,
      (s.slot d.1).wver = (s.slot e.1).wver ∧ (s.slot d.1).wver ≠ 0xFFFF) := by
  refine ⟨s.pick_length es none [] (by decide), fun hes d hd e he => ?_⟩
  obtain ⟨ver, hnone, hsome⟩ := s.pick_oneVersion es hes none [] ⟨fun _ => rfl, fun v hv => nomatch hv⟩
  cases ver with
  | none => rw [hnone rfl] at hd; exact absurd hd (List.not_mem_nil)
  | some v =>
    obtain ⟨hlast, hall⟩ := hsome v rfl
    rw [hall d hd, hall e he]
    exact ⟨rfl, hlast⟩

/-- The draws of a batch leave their slots' queues. -/
def State.drawn (s : State) (got : List Draw) : State := got.foldl (fun s (slot, t, prompt) =>
  if prompt then s else s.setSlot slot { s.slot slot with starts := (s.slot slot).starts.erase t }) s

theorem State.drawn_hub (s : State) (got : List Draw) : ∃ sl, (s.drawn got).hub = { s.hub with slots := sl } := by
  induction got generalizing s with
  | nil => exact ⟨_, rfl⟩
  | cons d got ih =>
    obtain ⟨slot, t, prompt⟩ := d
    cases prompt with
    | true => exact ih s
    | false =>
      obtain ⟨sl, hsl⟩ := ih (s.setSlot slot { s.slot slot with starts := (s.slot slot).starts.erase t })
      exact ⟨sl, hsl⟩

theorem State.formBatch_parity (s : State) (h : s.formBatch.hub.batch ≠ s.hub.batch) : s.formBatch.hub.batchParity = s.hub.parity ∧
    s.formBatch.hub.parity = !s.hub.parity := by
  let s1 := s.modHub (fun h => { h with slots := h.slots.map (fun e => (e.1, e.2.prompted)) })
  let got := s1.pick none [] (s1.offers.1 ++ s1.offers.2)
  have hform : s.formBatch = if got.isEmpty then s1.drawn got
      else (s1.drawn got).modHub (fun h => { h with batch := got, batchParity := h.parity, parity := !h.parity }) := rfl
  obtain ⟨sl, hsl⟩ := s1.drawn_hub got
  rw [hform] at h ⊢
  generalize s1.drawn got = t at h hsl ⊢
  by_cases he : got.isEmpty = true
  · rw [if_pos he, hsl] at h
    exact absurd rfl h
  · rw [if_neg he]
    show t.hub.parity = _ ∧ (!t.hub.parity) = _
    rw [hsl]
    exact ⟨rfl, rfl⟩

/-! ## SLOT_ACTIVATE and SLOT_FREE (R183, R358, R424) -/

section
variable {s : State} {slot : Nat}

theorem slotActivate_activates (hst : (s.slot slot).st = .waiting) (hfloor : (s.slot slot).admitted < s.floorAt (s.slot slot).sys 8) :
    exec (.slotActivate slot) s = .next (match s.readDirectory (s.slot slot) with
      | some v => s.setSlot slot { s.slot slot with wver := v, st := if (s.slot slot).prompt = 0 then .decode else .prefill }
      | none => s.setSlot slot { s.slot slot with wver := 0xFFFF, st := .paused, resume := .decode }) := by
  show execSlotActivate slot s = _
  rw [execSlotActivate]
  refine (if_pos (by rw [decide_eq_true hst, decide_eq_true hfloor]; rfl)).trans ?_
  cases s.readDirectory (s.slot slot) <;> rfl

theorem slotActivate_waits (h : s.floorAt (s.slot slot).sys 8 ≤ (s.slot slot).admitted) : exec (.slotActivate slot) s = .next s := by
  show execSlotActivate slot s = _
  rw [execSlotActivate]
  exact if_neg (by rw [decide_eq_false (not_lt.mpr h), Bool.and_false]; decide)

theorem slotFree_frees (hst : (s.slot slot).st = .draining) (hleft : (s.slot slot).left = true) (hu : (s.slot slot).unsettled = false)
    (hr : (s.slot slot).retire < s.floorAt false 8) :
    ∃ v, exec (.slotFree slot) s = .next v ∧ sameBytes s v ∧ (v.slot slot).st = .free ∧ slot ∉ v.hub.marks := by
  have hexec : exec (.slotFree slot) s = .next ((s.setSlot slot { s.slot slot with st := .free }).modHub (fun h =>
      { h with marks := h.marks.filter (fun k => k ≠ slot), marksOut := h.marksOut.filter (fun k => k ≠ slot) })) := by
    show execSlotFree slot s = _
    rw [execSlotFree]
    refine if_pos ?_
    rw [decide_eq_true hst, hleft, hu, decide_eq_true hr, Bool.true_or]; rfl
  refine ⟨_, hexec, fun a => ⟨rfl, rfl⟩, ?_, ?_⟩
  · exact congrArg Slot.st (State.slot_setSlot_same s slot { s.slot slot with st := .free })
  · show slot ∉ s.hub.marks.filter (fun k => k ≠ slot)
    simp

theorem slotFree_waits (h : s.floorAt false 8 ≤ (s.slot slot).retire) : exec (.slotFree slot) s = .next s := by
  show execSlotFree slot s = _
  rw [execSlotFree]
  exact if_neg (by rw [decide_eq_false (not_lt.mpr h), Bool.and_false]; decide)

end

theorem State.policyFor_eq (s : State) (x : Slot) :
    s.policyFor x = if s.policed = true ∧ s.hub.resident x.policy.toNat = false then 0 else x.policy := by
  rw [State.policyFor]
  simp only [Bool.and_eq_true, Bool.not_eq_true']

theorem stepBuilderStarts : Says.StepBuilderStarts := by
  refine ⟨fun s id p h y w emb slot t prompt ds hstage hp hb hh hy hw hne hnw hyw => ?_, State.policyFor_eq,
    fun s id p h y w emb n ns hstage hp hb hm hroom => mark_goes_between hstage hp hb hm hroom, State.pick_spec, State.formBatch_parity,
    fun slot s v hst hfloor hv => ?_, fun slot s hst hfloor hv => ?_, fun slot s h => slotActivate_waits h,
    fun slot s hst hleft hu hr => slotFree_frees hst hleft hu hr, fun slot s h => slotFree_waits h⟩
  · intro word tok
    obtain ⟨v, hexec, hbytes, hbatch, hchans, hin, hpos, hpol⟩ := pulse_starts hstage hp hb hh hy hw
    have hk := (s.takeStart ds).startHead_killed h.1.region t word
    have htok : ((s.takeStart ds).startHead h.1.region t word).2 = tok := s.startHead_tok ds h.1.region t word
    generalize (s.takeStart ds).startHead h.1.region t word = sh at hchans hk htok
    obtain ⟨s1, hd⟩ := sh
    obtain rfl : hd = tok := htok
    obtain ⟨h1, h2, h3⟩ := s1.pulseToks_places tok t.sym (p.img.dataP + emb + 64 * t.sym) hne hnw hyw
    have hrow : s1.rowTok w (p.img.dataP + emb + 64 * t.sym) = s.rowTok w (p.img.dataP + emb + 64 * t.sym) := by
      funext k
      rw [State.rowTok, hk.mem, hk.tag]; rfl
    have hchan : ∀ k, v.chan k = (s1.pulseToks h y w tok t.sym (p.img.dataP + emb + 64 * t.sym)).chan k := fun k => by
      rw [State.chan, hchans]; rfl
    rw [hk.chan, hk.tag] at h1 h2
    rw [hk.chan, hrow] at h3
    exact ⟨v, hexec, hbytes, hbatch, (congrArg Chan.places (hchan _)).trans h1, (congrArg Chan.places (hchan _)).trans h2,
      (congrArg Chan.places (hchan _)).trans h3, hin, hpos, hpol⟩
  · have h := slotActivate_activates hst hfloor
    rw [hv] at h
    exact h
  · have h := slotActivate_activates hst hfloor
    rw [hv] at h
    exact h


/-! PROOFS. Report ports and kv ports of stages (R343, R421, R422; O43, O44). -/

/-! ## Heads of branches -/

theorem State.takePipe_inq {s : State} {id k : Nat} {b : Bool} {t : Tok} {ts : List Tok} (h : (s.chan (.pipe id k b)).inq = t :: ts) :
    ((s.takePipe id k b).chan (.pipe id k b)).inq = ts := by
  rw [State.takePipe, State.chan_modChan_same, Chan.pop_inq, h, List.tail_cons]

theorem State.takePipe_onlyChans (s : State) (id k : Nat) (b : Bool) : s.OnlyChans (s.takePipe id k b) := rfl

/-- A port of a placement, rewritten. -/
def Placement.modPipe (p : Placement) (k : Nat) (f : PipePort → PipePort) : Placement := { p with pipes := p.pipes.set k (f (p.pipes.get k {})) }

theorem State.modPipe_eq {s : State} {id : Nat} {p : Placement} (h : s.placement? id = some p) (k : Nat) (f : PipePort → PipePort) :
    s.modPipe id k f = s.setPlacement id (p.modPipe k f) := by
  rw [State.modPipe, h]; rfl

theorem State.placement_setPlacement (s : State) (id : Nat) (p : Placement) : (s.setPlacement id p).placement? id = some p := Map.get?_set_same ..

theorem Placement.modPipe_pipe (p : Placement) (k : Nat) (f : PipePort → PipePort) : (p.modPipe k f).pipes.get k {} = f (p.pipes.get k {}) :=
  Map.get_set_same ..

/-! ## Report ports (R343, R421) -/

section
variable {s : State} {id k : Nat} {p : Placement} {pt : Point} {hdr dat : ImgEnd} {t : Tok} {ts : List Tok}

theorem exec_reportPortTake_header (hp : s.placement? id = some p) (hc : p.img.pipes.reports[k]? = some (pt, hdr, dat))
    (hstop : (p.pipes.get k {}).stopped = false) (hruns : s.portRuns p hdr = true) (hd : (p.pipes.get k {}).drop = 0)
    (hr : (p.pipes.get k {}).report = none) (hq : (s.chan (.pipe id k false)).inq = t :: ts) (hroom : t.utag = 1 → s.reportsDue < 1024) :
    exec (.reportPortTake id k) s = .next (s.reportHeader id k pt t) := by
  have hwaits : s.reportWaits (p.pipes.get k {}) (some t) = false := by
    by_cases hu : t.utag = 1
    · rw [State.reportWaits, decide_eq_false (not_le.mpr (hroom hu)), Bool.and_false, Bool.false_and]
    · rw [State.reportWaits, Option.any_some, decide_eq_false hu, Bool.and_false, Bool.and_false]
  show execReportPortTake id k s = _
  rw [execReportPortTake, hp]
  dsimp only
  rw [hc]
  dsimp only
  rw [hq, List.head?_cons, hstop, hruns, hwaits, if_neg (by decide), hd, hr]

theorem exec_reportPortTake_waits (hp : s.placement? id = some p) (hc : p.img.pipes.reports[k]? = some (pt, hdr, dat))
    (hd : (p.pipes.get k {}).drop = 0) (hr : (p.pipes.get k {}).report = none) (hq : (s.chan (.pipe id k false)).inq = t :: ts)
    (hk : t.kind = 0) (hu : t.utag = 1) (hfull : 1024 ≤ s.reportsDue) : exec (.reportPortTake id k) s = .next s := by
  have hwaits : s.reportWaits (p.pipes.get k {}) (some t) = true := by
    rw [State.reportWaits, hd, hr, decide_eq_true hfull, Option.any_some, hk, hu]; rfl
  show execReportPortTake id k s = _
  rw [execReportPortTake, hp]
  dsimp only
  rw [hc]
  dsimp only
  rw [hq, List.head?_cons, hwaits, if_pos (Bool.or_true _)]

theorem exec_reportPortTake_data {h : Nat × Nat × Nat} (hp : s.placement? id = some p) (hc : p.img.pipes.reports[k]? = some (pt, hdr, dat))
    (hstop : (p.pipes.get k {}).stopped = false) (hruns : s.portRuns p hdr = true) (hd : (p.pipes.get k {}).drop = 0)
    (hr : (p.pipes.get k {}).report = some h) (hq : (s.chan (.pipe id k true)).inq = t :: ts) :
    exec (.reportPortTake id k) s = .next (s.reportSent (s.reportData id k pt h t) (p.endUnit hdr).region) := by
  have hwaits : ∀ o, s.reportWaits (p.pipes.get k {}) o = false := fun o => by
    rw [State.reportWaits, hr, Option.isNone_some, Bool.and_false, Bool.false_and, Bool.false_and]
  show execReportPortTake id k s = _
  rw [execReportPortTake, hp]
  dsimp only
  rw [hc]
  dsimp only
  rw [hq, List.head?_cons, hstop, hruns, hwaits, if_neg (by decide), hd, hr]

/-- What a live or killed header leaves of its port. -/
def PipePort.headed (q : PipePort) (t : Tok) : PipePort :=
  if t.utag = 2 then { q with drop := 1 } else { q with report := some (headerSlot t.data, headerPos t.data, headerGen t.data) }

/-- The state whose report port takes a header. -/
def State.headerTaken (s : State) (id k : Nat) (pt : Point) (t : Tok) : State :=
  if pt = .final then (s.takePipe id k false).passed t.data else s.takePipe id k false

theorem State.headerTaken_keeps (s : State) (id k : Nat) (pt : Point) (t : Tok) :
    (s.headerTaken id k pt t).mem = s.mem ∧ (s.headerTaken id k pt t).chans = (s.takePipe id k false).chans ∧
    (s.headerTaken id k pt t).hub.placements = s.hub.placements ∧ (s.headerTaken id k pt t).hub.reports = s.hub.reports := by
  rw [State.headerTaken]
  split <;> exact ⟨rfl, rfl, rfl, rfl⟩

theorem State.reportHeader_eq (hp : s.placement? id = some p) (hk : t.kind = 0) (hu : t.utag = 1 ∨ t.utag = 2) :
    s.reportHeader id k pt t = (s.headerTaken id k pt t).setPlacement id (p.modPipe k (PipePort.headed · t)) := by
  have hheader : isHeader t = true := by
    rw [isHeader, hk]
    rcases hu with hu | hu <;> rw [hu] <;> rfl
  have hp' : (s.headerTaken id k pt t).placement? id = some p := by
    rw [State.placement?, (s.headerTaken_keeps id k pt t).2.2.1]; exact hp
  have hhead : s.reportHeader id k pt t = if t.utag = 2 then (s.headerTaken id k pt t).modPipe id k (fun q => { q with drop := 1 })
      else (s.headerTaken id k pt t).modPipe id k (fun q => { q with report := some (headerSlot t.data, headerPos t.data, headerGen t.data) }) := by
    rw [State.reportHeader, if_neg (by rw [hk]; decide), hheader]
    rfl
  rw [hhead, State.modPipe_eq hp', State.modPipe_eq hp']
  unfold PipePort.headed
  split <;> rfl

theorem reportPortTake_header (hp : s.placement? id = some p) (hc : p.img.pipes.reports[k]? = some (pt, hdr, dat))
    (hstop : (p.pipes.get k {}).stopped = false) (hruns : s.portRuns p hdr = true) (hd : (p.pipes.get k {}).drop = 0)
    (hr : (p.pipes.get k {}).report = none) (hq : (s.chan (.pipe id k false)).inq = t :: ts) (hk : t.kind = 0)
    (hu : t.utag = 1 ∨ t.utag = 2) (hroom : t.utag = 1 → s.reportsDue < 1024) :
    ∃ w p', exec (.reportPortTake id k) s = .next w ∧ sameBytes s w ∧ w.placement? id = some p' ∧
      (w.chan (.pipe id k false)).inq = ts ∧ w.hub.reports = s.hub.reports ∧
      (p'.pipes.get k {}).report = (if t.utag = 1 then some (headerSlot t.data, headerPos t.data, headerGen t.data) else none) ∧
      (p'.pipes.get k {}).drop = (if t.utag = 1 then 0 else 1) := by
  have hexec := exec_reportPortTake_header hp hc hstop hruns hd hr hq hroom
  rw [State.reportHeader_eq hp hk hu] at hexec
  obtain ⟨hmem, hchans, -, hreports⟩ := s.headerTaken_keeps id k pt t
  refine ⟨_, _, hexec, fun a => ?_, State.placement_setPlacement .., ?_, hreports, ?_⟩
  · show (s.headerTaken id k pt t).mem.byte a = _ ∧ (s.headerTaken id k pt t).mem.poisoned a = _
    rw [hmem]; exact ⟨rfl, rfl⟩
  · show (Map.get (s.headerTaken id k pt t).chans _ _ : Chan).inq = ts
    rw [hchans]
    exact State.takePipe_inq hq
  · rw [Placement.modPipe_pipe, PipePort.headed]
    rcases hu with hu | hu
    · rw [if_neg (by rw [hu]; decide), if_pos hu, if_pos hu]
      exact ⟨rfl, hd⟩
    · rw [if_pos hu, if_neg (by rw [hu]; decide), if_neg (by rw [hu]; decide)]
      exact ⟨hr, rfl⟩

theorem reportPortTake_data {h : Nat × Nat × Nat} (hp : s.placement? id = some p) (hc : p.img.pipes.reports[k]? = some (pt, hdr, dat))
    (hstop : (p.pipes.get k {}).stopped = false) (hruns : s.portRuns p hdr = true) (hd : (p.pipes.get k {}).drop = 0)
    (hr : (p.pipes.get k {}).report = some h) (hq : (s.chan (.pipe id k true)).inq = t :: ts) (hk : t.kind = 0) (hpoison : t.poison = false)
    (hroom : s.hub.reports.length < 1024) :
    ∃ w p', exec (.reportPortTake id k) s = .next w ∧ sameBytes s w ∧ w.placement? id = some p' ∧ (p'.pipes.get k {}).report = none ∧
      (w.chan (.pipe id k true)).inq = ts ∧
      w.hub.reports = s.hub.reports ++ [⟨h.1, h.2.1, h.2.2, pt, t.data.toNat % 2 ^ 18⟩] := by
  have hexec := exec_reportPortTake_data hp hc hstop hruns hd hr hq
  have hdata : s.reportData id k pt h t = ((s.takePipe id k true).setPlacement id (p.modPipe k (fun q => { q with report := none }))).modHub
      (fun b => { b with reports := b.reports ++ [⟨h.1, h.2.1, h.2.2, pt, bitsOf t.data 0 18⟩] }) := by
    rw [State.reportData, if_neg (by rw [hk]; decide), if_neg (by rw [hpoison]; decide), if_neg (not_le.mpr hroom),
      State.modPipe_eq (s := s.takePipe id k true) hp]
  rw [hdata] at hexec
  have hsent : ∀ (w : State) (r : Nat), w.OnlyCounts (s.reportSent w r) := fun w r => by
    rw [State.reportSent]
    split
    · exact w.stir_onlyCounts r
    · exact .refl w
  have hrest := (hsent (((s.takePipe id k true).setPlacement id (p.modPipe k (fun q => { q with report := none }))).modHub
      (fun b => { b with reports := b.reports ++ [⟨h.1, h.2.1, h.2.2, pt, bitsOf t.data 0 18⟩] })) (p.endUnit hdr).region).rest
  rw [hrest] at hexec
  refine ⟨_, p.modPipe k (fun q => { q with report := none }), hexec, fun a => ⟨rfl, rfl⟩, State.placement_setPlacement .., ?_,
    State.takePipe_inq hq, ?_⟩
  · rw [Placement.modPipe_pipe]
  · show s.hub.reports ++ [⟨h.1, h.2.1, h.2.2, pt, t.data.toNat / 2 ^ 0 % 2 ^ 18⟩] = _
    rw [Nat.pow_zero, Nat.div_one]

end


/-! PROOFS. kv ports: half-writes gathered and performed (R176, R345, R422; O43, O44). -/

/-! ## What a step for a command leaves -/

/-- A state that differs in its regions alone. -/
def State.RegionsOnly (s t : State) : Prop := ∃ rs, t = { s with regions := rs }

theorem State.RegionsOnly.refl (s : State) : s.RegionsOnly s := ⟨_, rfl⟩

theorem State.RegionsOnly.trans {s t w : State} (h : s.RegionsOnly t) (k : t.RegionsOnly w) : s.RegionsOnly w := by
  obtain ⟨_, rfl⟩ := h
  obtain ⟨_, rfl⟩ := k
  exact ⟨_, rfl⟩

theorem State.RegionsOnly.foldl {α : Type} {f : State → α → State} (hf : ∀ (s : State) x, s.RegionsOnly (f s x)) (l : List α) (s : State) :
    s.RegionsOnly (l.foldl f s) := by
  induction l generalizing s with
  | nil => exact .refl s
  | cons x l ih => exact (hf s x).trans (ih _)

theorem State.OnlyCounts.regionsOnly {s t : State} (h : s.OnlyCounts t) : s.RegionsOnly t := ⟨_, h.rest⟩

section
variable (s : State) (r : Nat)

theorem State.regionsOnly_modRegion (f : Region → Region) : s.RegionsOnly (s.modRegion r f) := ⟨_, rfl⟩
theorem State.regionsOnly_modCmd (tick : Nat) (f : Cmd → Cmd) : s.RegionsOnly (s.modCmd r tick f) := ⟨_, rfl⟩
theorem State.regionsOnly_modHandleOf (c : Cmd) (f : Handle → Handle) : s.RegionsOnly (s.modHandleOf r c f) := ⟨_, rfl⟩

theorem State.regionsOnly_heatAt (p : Nat) (va : Word) : s.RegionsOnly (s.heatAt r p va) := by
  rw [State.heatAt]
  split
  · exact .refl s
  · exact (s.regionsOnly_modRegion r _).trans (State.countPort_onlyCounts ..).regionsOnly

theorem State.regionsOnly_heatTouch (p : Nat) (va : Word) : s.RegionsOnly (s.heatTouch r p va) := by
  rw [State.heatTouch, State.modHeat]
  exact (s.regionsOnly_heatAt r p va).trans (State.regionsOnly_modRegion ..)

theorem State.regionsOnly_heatRun (c : Cmd) (i n : Nat) : s.RegionsOnly (s.heatRun r c i n) :=
  .foldl (fun s _ => s.regionsOnly_heatTouch r c.port _) _ s

theorem State.regionsOnly_kvCmdEnd (c : Cmd) (n : Nat) (cause : Option Byte) : s.RegionsOnly (s.kvCmdEnd r c n cause) := by
  rw [State.kvCmdEnd]
  exact ((s.regionsOnly_heatRun r c _ _).trans (State.regionsOnly_modCmd _ r c.tick _)).trans (State.regionsOnly_modHandleOf _ r c _)

end

theorem State.modHeld_rest (s : State) (r : Nat) (g : FImage → FImage) : ∃ im, s.modHeld r g = { s with images := im } := ⟨_, rfl⟩

/-- A step for a command that touches regions alone leaves channels and half-writes, and every byte. -/
theorem State.forCmd_regionsOnly {s : State} (r : Nat) (c : Cmd) {go : State → State} (hw : s.mem.wf = true) (hgo : ∀ t : State, t.RegionsOnly (go t)) :
    sameBytes s (s.forCmd r c go) ∧ (s.forCmd r c go).kv = s.kv ∧ (s.forCmd r c go).chans = s.chans := by
  refine ⟨sameBytes_forCmd r c hw fun t => ?_, ?_⟩
  · obtain ⟨rs, h⟩ := hgo t
    rw [h]
  rw [State.forCmd]
  split
  · obtain ⟨rs, h⟩ := hgo s
    obtain ⟨im, him⟩ := (go s).modHeld_rest r (fun f => { f with
      rings := (go s).rings.filter (fun e => e.1.1.region = r)
      rec_ := if f.kind = 0 then f.rec_ else { f.rec_ with astat := ((go s).region r).astat, ctr := ((go s).region r).ctr, heat := ((go s).region r).heat } })
    rw [State.echo, him, h]
    exact ⟨rfl, rfl⟩
  · next a f _ =>
    obtain ⟨rs, h⟩ := hgo (s.viewOf r f)
    rw [h]
    exact ⟨rfl, rfl⟩

/-- A half-write that ends well leaves channels and the other half-writes, and every byte. -/
theorem State.kvEnd_keeps_done (s : State) (h : KvHalf) (hw : s.mem.wf = true) :
    sameBytes s (s.kvEnd h none) ∧ (s.kvEnd h none).kv = s.kv ∧ (s.kvEnd h none).chans = s.chans := by
  obtain ⟨rs, hstir⟩ := (s.stir_onlyCounts h.region).regionsOnly
  rw [State.kvEnd, hstir]
  split
  · split
    · next c _ => exact State.forCmd_regionsOnly (s := { s with regions := rs }) h.region c hw fun t => t.regionsOnly_kvCmdEnd h.region c _ none
    · exact ⟨fun a => ⟨rfl, rfl⟩, rfl, rfl⟩
  · exact ⟨fun a => ⟨rfl, rfl⟩, rfl, rfl⟩
  · exact ⟨fun a => ⟨rfl, rfl⟩, rfl, rfl⟩

theorem State.countLate_keeps (s : State) (slot r : Nat) :
    (s.countLate slot r).mem = s.mem ∧ (s.countLate slot r).kv = s.kv ∧ (s.countLate slot r).chans = s.chans := by
  rw [State.countLate, (State.count_onlyCounts ..).rest]
  exact ⟨rfl, rfl, rfl⟩

/-- A half-write that reaches its segment: its bytes as accepted, or as before where it is dropped (R176). -/
theorem State.kvReaches_spec (s : State) (h : KvHalf) (g : KvSeg) (hw : s.mem.wf = true) :
    ((kvF s.mem g ≤ h.pos ∧ h.gen < kvA s.mem g) → sameBytes s (s.kvReaches h g)) ∧
    (¬ (kvF s.mem g ≤ h.pos ∧ h.gen < kvA s.mem g) → sameBytes { s with mem := kvAccept s.mem g h } (s.kvReaches h g)) ∧
    (s.kvReaches h g).kv = s.kv ∧ (s.kvReaches h g).chans = s.chans := by
  have hdrop : kvDropped s.mem g h = true ↔ kvF s.mem g ≤ h.pos ∧ h.gen < kvA s.mem g := by
    rw [kvDropped, Bool.and_eq_true, decide_eq_true_eq, decide_eq_true_eq]
  rw [State.kvReaches, ← hdrop]
  split
  · next hd =>
    obtain ⟨hmem, hkv, hchans⟩ := s.countLate_keeps h.slot g.1.region
    obtain ⟨hbytes, ekv, echans⟩ := (s.countLate h.slot g.1.region).kvEnd_keeps_done h (by rw [hmem]; exact hw)
    refine ⟨fun _ a => ?_, fun hn => absurd hd hn, ekv.trans hkv, echans.trans hchans⟩
    have := hbytes a
    rw [hmem] at this
    exact this
  · next hd =>
    obtain ⟨im, him⟩ := ({ s with mem := kvAccept s.mem g h } : State).modHeld_rest g.1.region (fun f =>
      f.withMem ([kvWord g.1 g.2 4].foldl (fun (m : Memory) w => m.store w 8 ((kvAccept s.mem g h).word w) ((kvAccept s.mem g h).poisoned w)) f.mem))
    rw [State.echoWords, him]
    obtain ⟨hbytes, hkv, hchans⟩ := State.kvEnd_keeps_done { s with mem := kvAccept s.mem g h, images := im } h (kvAccept_wf hw g h)
    exact ⟨fun hy => absurd hy hd, fun _ => hbytes, hkv, hchans⟩

/-! ## A kv port takes a header (R422) -/

section
variable {s : State} {id k layer i : Nat} {p : Placement} {hdr dat : ImgEnd} {t : Tok} {ts : List Tok}

theorem exec_kvPortTake (hp : s.placement? id = some p) (hlen : p.img.pipes.reports.length ≤ k)
    (hc : p.img.pipes.kvs[k - p.img.pipes.reports.length]? = some (layer, hdr, dat)) (hstop : (p.pipes.get k {}).stopped = false)
    (hruns : s.portRuns p hdr = true) (hbusy : s.kvBusy id k = false) (hd : (p.pipes.get k {}).drop = 0) :
    exec (.kvPortTake id k) s = match s.gathering id k, (s.chan (.pipe id k true)).inq.head?, (s.chan (.pipe id k false)).inq.head? with
      | some i, some t, _ => .next (s.kvDataTake id k i t)
      | none, _, some t => .next (s.kvHeaderTake id k (p.endUnit hdr).region layer t)
      | _, _, _ => .next s := by
  show execKvPortTake id k s = _
  rw [execKvPortTake, hp]
  dsimp only
  rw [if_neg (not_lt.mpr hlen), hc]
  dsimp only
  rw [hstop, hruns, hbusy, if_neg (by decide), hd]
  cases s.gathering id k <;> cases (s.chan (.pipe id k true)).inq.head? <;> cases (s.chan (.pipe id k false)).inq.head? <;> rfl

/-- A half-write that a kv port gathers for a header. -/
def kvGathered (s : State) (id k r layer : Nat) (g : KvSeg) (t : Tok) (v : Bool) : KvHalf :=
  { layer := layer, slot := headerSlot t.data, pos := headerPos t.data, gen := headerGen t.data, isV := v, words := [],
    need := kvHeadDim s.mem g / 4, at_ := none, held := false, region := r, cmd := none, stage := some (id, k), tick := s.ticket }

theorem kvPortTake_header {g : KvSeg} (hp : s.placement? id = some p) (hlen : p.img.pipes.reports.length ≤ k)
    (hc : p.img.pipes.kvs[k - p.img.pipes.reports.length]? = some (layer, hdr, dat)) (hstop : (p.pipes.get k {}).stopped = false)
    (hruns : s.portRuns p hdr = true) (hbusy : s.kvBusy id k = false) (hd : (p.pipes.get k {}).drop = 0) (hg : s.gathering id k = none)
    (hq : (s.chan (.pipe id k false)).inq = t :: ts) (hk : t.kind = 0) (hu : t.utag = 1) (hfirst : s.kvFirst (headerSlot t.data) layer = some g) :
    ∃ w a b, exec (.kvPortTake id k) s = .next w ∧ w.mem = s.mem ∧ w.kv = s.kv ++ [a, b] ∧ (w.chan (.pipe id k false)).inq = ts ∧
      a.isV = false ∧ b.isV = true ∧ ∀ h ∈ [a, b], h.layer = layer ∧ h.slot = headerSlot t.data ∧ h.pos = headerPos t.data ∧
        h.gen = headerGen t.data ∧ h.words = [] ∧ h.need = kvHeadDim s.mem g / 4 ∧ h.stage = some (id, k) := by
  have hexec := exec_kvPortTake hp hlen hc hstop hruns hbusy hd
  rw [hg, hq, List.head?_cons] at hexec
  replace hexec : exec (.kvPortTake id k) s = .next (s.kvHeaderTake id k (p.endUnit hdr).region layer t) :=
    hexec.trans (by cases (s.chan (.pipe id k true)).inq.head? <;> rfl)
  have htake : s.kvHeaderTake id k (p.endUnit hdr).region layer t = { s.takePipe id k false with
      ticket := s.ticket + 1
      kv := s.kv ++ [kvGathered s id k (p.endUnit hdr).region layer g t false, kvGathered s id k (p.endUnit hdr).region layer g t true] } := by
    have hheader : isHeader t = true := by rw [isHeader, hk, hu]; rfl
    rw [State.kvHeaderTake, if_neg (by rw [hk]; decide), hheader, if_neg (by decide)]
    dsimp only
    rw [hfirst]
    refine (if_neg (by rw [hu]; decide)).trans ?_
    rfl
  rw [htake] at hexec
  refine ⟨_, _, _, hexec, rfl, rfl, State.takePipe_inq hq, rfl, rfl, fun h hh => ?_⟩
  rcases List.mem_cons.mp hh with rfl | hh
  · exact ⟨rfl, rfl, rfl, rfl, rfl, rfl, rfl⟩
  · obtain rfl := List.mem_singleton.mp hh
    exact ⟨rfl, rfl, rfl, rfl, rfl, rfl, rfl⟩

/-! ## A kv port takes data (R422) -/

/-- A half-write with one more word. -/
def KvHalf.grown (h : KvHalf) (t : Tok) : KvHalf := { h with words := h.words ++ [(t.data, t.poison)] }

/-- The state whose kv port has taken a data token into a half-write. -/
def State.kvGrown (s : State) (id k i : Nat) (h : KvHalf) (t : Tok) : State := { s.takePipe id k true with kv := s.kv.set i (h.grown t) }

theorem exec_kvPortTake_data {h : KvHalf} (hp : s.placement? id = some p) (hlen : p.img.pipes.reports.length ≤ k)
    (hc : p.img.pipes.kvs[k - p.img.pipes.reports.length]? = some (layer, hdr, dat)) (hstop : (p.pipes.get k {}).stopped = false)
    (hruns : s.portRuns p hdr = true) (hbusy : s.kvBusy id k = false) (hd : (p.pipes.get k {}).drop = 0) (hg : s.gathering id k = some i)
    (hh : s.kv[i]? = some h) (hq : (s.chan (.pipe id k true)).inq = t :: ts) (hk : t.kind = 0) :
    exec (.kvPortTake id k) s = .next (if h.words.length + 1 = h.need then (s.kvGrown id k i h t).kvPerform i else s.kvGrown id k i h t) := by
  have hexec := exec_kvPortTake hp hlen hc hstop hruns hbusy hd
  rw [hg, hq, List.head?_cons] at hexec
  rw [hexec]
  show Host.Outcome.next (s.kvDataTake id k i t) = _
  rw [State.kvDataTake, if_neg (by rw [hk]; decide), hh]
  rfl

theorem kvPortTake_data {h : KvHalf} (hp : s.placement? id = some p) (hlen : p.img.pipes.reports.length ≤ k)
    (hc : p.img.pipes.kvs[k - p.img.pipes.reports.length]? = some (layer, hdr, dat)) (hstop : (p.pipes.get k {}).stopped = false)
    (hruns : s.portRuns p hdr = true) (hbusy : s.kvBusy id k = false) (hd : (p.pipes.get k {}).drop = 0) (hg : s.gathering id k = some i)
    (hh : s.kv[i]? = some h) (hq : (s.chan (.pipe id k true)).inq = t :: ts) (hk : t.kind = 0) (hmore : h.words.length + 1 ≠ h.need) :
    ∃ w, exec (.kvPortTake id k) s = .next w ∧ w.mem = s.mem ∧ w.kv = s.kv.set i { h with words := h.words ++ [(t.data, t.poison)] } ∧
      (w.chan (.pipe id k true)).inq = ts :=
  ⟨_, (exec_kvPortTake_data hp hlen hc hstop hruns hbusy hd hg hh hq hk).trans (congrArg _ (if_neg hmore)), rfl, rfl, State.takePipe_inq hq⟩

theorem getElem?_gathering (hg : s.gathering id k = some i) : i < s.kv.length := by
  obtain ⟨h, -⟩ := List.findIdx?_eq_some_iff_getElem.mp hg
  exact h

theorem kvPortTake_performs {h : KvHalf} {g : KvSeg} (hw : s.mem.wf = true) (hp : s.placement? id = some p) (hlen : p.img.pipes.reports.length ≤ k)
    (hc : p.img.pipes.kvs[k - p.img.pipes.reports.length]? = some (layer, hdr, dat)) (hstop : (p.pipes.get k {}).stopped = false)
    (hruns : s.portRuns p hdr = true) (hbusy : s.kvBusy id k = false) (hd : (p.pipes.get k {}).drop = 0) (hg : s.gathering id k = some i)
    (hh : s.kv[i]? = some h) (hq : (s.chan (.pipe id k true)).inq = t :: ts) (hk : t.kind = 0) (hlast : h.words.length + 1 = h.need)
    (hheld : h.held = false) (hplace : s.kvPlaceOf h.slot h.layer h.pos = .here g) (hbehind : s.kvBehind i h (some g) = false)
    (hdown : s.kvDown h = false) :
    ∃ w, exec (.kvPortTake id k) s = .next w ∧ w.kv = s.kv.eraseIdx i ∧ (w.chan (.pipe id k true)).inq = ts ∧
      sameBytes (if kvF s.mem g ≤ h.pos ∧ h.gen < kvA s.mem g then s else { s with mem := kvAccept s.mem g (h.grown t) }) w := by
  have hi := getElem?_gathering hg
  have hget : (s.kvGrown id k i h t).kv[i]? = some (h.grown t) := List.getElem?_set_self hi
  have hseg : (s.kvGrown id k i h t).kvSegOf (h.grown t) = some g := by
    show (match s.kvPlaceOf h.slot h.layer h.pos with | .here g | .below g | .past g => some g | .broken => none) = some g
    rw [hplace]
  have hbehind' : (s.kvGrown id k i h t).kvBehind i (h.grown t) (some g) = false := by
    refine Eq.trans ?_ hbehind
    show List.any ((s.kv.set i (h.grown t)).take i) _ = List.any (s.kv.take i) _
    rw [List.take_set_of_le (Nat.le_refl i)]
    rfl
  have hperform : (s.kvGrown id k i h t).kvPerform i = State.kvReaches { s.takePipe id k true with kv := s.kv.eraseIdx i } (h.grown t) g := by
    rw [State.kvPerform, hget]
    dsimp only
    rw [hseg, hbehind']
    have hdone : ((h.grown t).held || decide ((h.grown t).words.length ≠ (h.grown t).need)) = false := by
      show (h.held || decide ((h.words ++ [(t.data, t.poison)]).length ≠ h.need)) = false
      rw [hheld, List.length_append, List.length_singleton, hlast]
      simp
    have herase : (s.kvGrown id k i h t).kv.eraseIdx i = s.kv.eraseIdx i := List.eraseIdx_set_eq
    have hdown' : (s.kvGrown id k i h t).kvDown (h.grown t) = false := hdown
    have hplace' : (s.kvGrown id k i h t).kvPlaceOf (h.grown t).slot (h.grown t).layer (h.grown t).pos = .here g := hplace
    rw [hdone, hdown', hplace', herase]
    rfl
  obtain ⟨hdropped, haccepted, hkv, hchans⟩ := State.kvReaches_spec { s.takePipe id k true with kv := s.kv.eraseIdx i } (h.grown t) g hw
  refine ⟨_, (exec_kvPortTake_data hp hlen hc hstop hruns hbusy hd hg hh hq hk).trans (congrArg _ ((if_pos hlast).trans hperform)), hkv, ?_, ?_⟩
  · rw [State.chan, hchans]
    exact State.takePipe_inq hq
  · split
    · next hd => exact fun a => hdropped hd a
    · next hd => exact fun a => haccepted hd a

end

theorem pipePortsTake : Says.PipePortsTake := by
  refine ⟨fun id k s p pt hdr dat t ts hp hc hstop hruns hd hr hq hk hu hroom => reportPortTake_header hp hc hstop hruns hd hr hq hk hu hroom,
    fun id k s p pt hdr dat t ts hp hc hd hr hq hk hu hfull => exec_reportPortTake_waits hp hc hd hr hq hk hu hfull,
    fun id k s p pt hdr dat t ts h hp hc hstop hruns hd hr hq hk hpoison hroom =>
      reportPortTake_data hp hc hstop hruns hd hr hq hk hpoison hroom,
    fun id k s p layer hdr dat t ts g hp hlen hc hstop hruns hbusy hd hg hq hk hu hfirst =>
      kvPortTake_header hp hlen hc hstop hruns hbusy hd hg hq hk hu hfirst,
    fun id k s p layer hdr dat t ts i h hp hlen hc hstop hruns hbusy hd hg hh hq hk hmore =>
      kvPortTake_data hp hlen hc hstop hruns hbusy hd hg hh hq hk hmore,
    fun id k s p layer hdr dat t ts i h g hw hp hlen hc hstop hruns hbusy hd hg hh hq hk hlast hheld hplace hbehind hdown =>
      kvPortTake_performs hw hp hlen hc hstop hruns hbusy hd hg hh hq hk hlast hheld hplace hbehind hdown⟩

/-- Settles O44, part by part: instructions, arbiter, notices, step builder, ports. -/
theorem sequencesAndSpeculation : Obligations.SequencesAndSpeculation :=
  ⟨sequenceInstructionsAct, reportsAreJudged, noticesAreApplied, stepBuilderStarts, pipePortsTake⟩


/-! PROOFS. Every form on sequences and pipeline ports completes (O43). -/

theorem sqset_endsym (d a b : BitVec 5) (s : State) (hclean : s.CleanRegs s.site.region [a, b])
    (hok : seqOpnd (s.greg s.site.region a) true = true) (h15 : bitsOf (s.greg s.site.region a) 16 4 = 15) :
    ∃ t, exec (.sqset d a b) s = .next t ∧ (t.slot (bitsOf (s.greg s.site.region a) 0 13)).endsym = s.greg s.site.region b := by
  obtain ⟨hfield, -⟩ := Slot.setField_table (s.slot (bitsOf (s.greg s.site.region a) 0 13)) (s.greg s.site.region b)
  refine ⟨_, exec_sqset hclean hok (h15 ▸ hfield), ?_⟩
  rw [State.retire_slot, State.slot_setSlot_same]

/-- Settles O43, each form by the lemma that says what it does. -/
theorem sequenceFormsComplete : Obligations.SequenceFormsComplete := by
  refine ⟨fun d a s hclean hok => (exec_sqrd hclean).trans (congrArg _ (if_pos hok)), sqset_endsym,
    fun d a b s ts ws hclean halign hok hts howes hcmds hws hfree => ?_, fun d a s hclean hok hfree hdraining => ?_,
    fun s id p h y w emb slot t prompt ds hstage hp hb hh hy hw => ?_, squashReport_keeps,
    fun r s slot f g id segs rest h hf => noticeApplyStage_keeps h hf, fun r s slot f g st rest h hf => ?_,
    fun id slot s hu hin hregions hkv => ?_, fun slot s hu hsegs hstages hcut hq => ?_, fun r s slot q rest h hf => ?_,
    fun slot s v hst hfloor hv => ?_, fun slot s hst hleft hu hr => ?_,
    fun id k s p pt hdr dat h t ts hp hc hstop hruns hd hr hq hk hpoison hroom => ?_,
    fun id k s p layer hdr dat i h t ts hp hlen hc hstop hruns hbusy hd hg hh hq hk hmore => ?_⟩
  · obtain ⟨t, hexec, -, -, -, hst, hadmitted, -⟩ := sqadmit_admits d a b s ts ws hclean hok halign hts howes hcmds hws hfree
    exact ⟨t, hexec, hst, hadmitted⟩
  · obtain ⟨t, hexec, -, -, -, -, hst, hretire, -⟩ := sqretire_retires d a s hclean hok hfree hdraining
    exact ⟨t, hexec, hst, hretire⟩
  · obtain ⟨v, hexec, -, hbatch, -, hin, -⟩ := pulse_starts hstage hp hb hh hy hw
    exact ⟨v, hexec, hbatch, hin⟩
  · obtain ⟨w, hexec, hmem, hack, -⟩ := noticeApplySegment_applies h hf
    exact ⟨w, hexec, hmem, hack⟩
  · refine ⟨_, stageAcknowledge_acknowledges hu hin hregions fun h hh hs => absurd hs (hkv h hh), ?_⟩
    rw [State.slot_setSlot_same]
  · refine ⟨_, settle_ends hu hsegs hstages hcut hq, ?_⟩
    rw [State.slot_setSlot_same]
    exact ⟨rfl, rfl⟩
  · obtain ⟨w, hexec, hmem, -⟩ := establishNoticeApply_applies h hf
    exact ⟨w, hexec, hmem⟩
  · have h := slotActivate_activates hst hfloor
    rw [hv] at h
    refine ⟨_, h, ?_⟩
    rw [State.slot_setSlot_same]
    refine ⟨rfl, ?_⟩
    show (if _ then QState.decode else QState.prefill) ≠ _
    split <;> decide
  · obtain ⟨v, hexec, -, hfree, -⟩ := slotFree_frees hst hleft hu hr
    exact ⟨v, hexec, hfree⟩
  · obtain ⟨w, p', hexec, -, -, -, hinq, hreports⟩ := reportPortTake_data hp hc hstop hruns hd hr hq hk hpoison hroom
    exact ⟨w, hexec, hinq, hreports⟩
  · obtain ⟨w, hexec, -, hkv, hinq⟩ := kvPortTake_data hp hlen hc hstop hruns hbusy hd hg hh hq hk hmore
    exact ⟨w, hexec, hinq, hkv⟩


/-! PROOFS. Launches and messages of the core (R154, R338-R342, R435; O45). -/

/-! ## LAUNCH (R338) -/

/-- The launch that a core's LAUNCH enqueues. -/
def State.coreLaunch (s : State) (prio : Nat) (c : LaunchRec) (r : Nat) : Launch :=
  { rec_ := c, prio := prio, since := s.cyc, deps := c.deps.map s.bindDep, region := some r,
    needStores := s.owedTicks r, needCmds := s.cmdTicks r }

/-- The hub with a launch enqueued under the next id. -/
def Hub.enqueued (h : Hub) (prio : Nat) (l : Launch) : Hub :=
  { h with launches := h.launches.set h.nextId l, nextId := nextLaunchId h.nextId, idsAround := h.idsAround || nextLaunchId h.nextId = 1,
           queues := h.queues.set prio (h.queues.get prio [] ++ [h.nextId]) }

theorem State.enqueueLaunch_core (s : State) (prio : Nat) (c : LaunchRec) (r : Nat) : s.enqueueLaunch prio c (some r) =
    (s.hub.nextId, { s with hub := s.hub.enqueued prio (s.coreLaunch prio c r) }) := rfl

section
variable {s : State} {d a : BitVec 5} {prio : BitVec 2} {ts : List Target} {ws : List Word}

theorem exec_launch_read (hclean : s.CleanRegs s.site.region [a]) (halign : (s.greg s.site.region a).toNat % 64 = 0)
    (hts : s.coreLines s.site.region (s.greg s.site.region a) 4 .load = .ok ts)
    (hws : State.readLines { s with mem := s.ownMem s.site.region } ts = some ws) : exec (.launch d a prio) s = .next (
      if 64 ≤ (s.hub.queues.get prio.toNat []).length then s.retire s.site.region d allOnes
      else State.retire { s with hub := s.hub.enqueued prio.toNat (s.coreLaunch prio.toNat (recordOf ws) s.site.region) } s.site.region d
        (BitVec.ofNat 64 s.hub.nextId)) := by
  refine congrArg _ ((State.using_of_clean hclean _).trans ((if_neg (not_not.mpr halign)).trans ?_))
  rw [hts]
  dsimp only
  rw [hws]
  rfl

theorem launch_misaligned (hclean : s.CleanRegs s.site.region [a]) (halign : (s.greg s.site.region a).toNat % 64 ≠ 0) :
    exec (.launch d a prio) s = .next (s.trapSync s.site.region 0x02 0 (s.greg s.site.region a) (s.core s.site.region).pc) :=
  congrArg _ ((State.using_of_clean hclean _).trans (if_pos halign))

theorem launch_enqueues (hclean : s.CleanRegs s.site.region [a]) (halign : (s.greg s.site.region a).toNat % 64 = 0)
    (hts : s.coreLines s.site.region (s.greg s.site.region a) 4 .load = .ok ts)
    (hws : State.readLines { s with mem := s.ownMem s.site.region } ts = some ws)
    (hroom : (s.hub.queues.get prio.toNat []).length < 64) : let r := s.site.region
    ∃ t l, exec (.launch d a prio) s = .next t ∧ sameBytes s t ∧ s.StepsOn t r ∧
      sameRegs r d s t ∧ (d ≠ 0 → t.greg r d = BitVec.ofNat 64 s.hub.nextId) ∧ t.launch? s.hub.nextId = some l ∧
      l.rec_ = recordOf ws ∧ l.prio = prio.toNat ∧ l.st = .queued ∧ l.deps.map Dep.word = (recordOf ws).deps ∧
      l.region = some r ∧ l.needStores = s.owedTicks r ∧ l.needCmds = s.cmdTicks r ∧
      t.hub.queues.get prio.toNat [] = s.hub.queues.get prio.toNat [] ++ [s.hub.nextId] ∧
      t.hub.nextId = nextLaunchId s.hub.nextId := by
  intro r
  have hexec := (exec_launch_read (d := d) hclean halign hts hws).trans (congrArg _ (if_neg (not_le.mpr hroom)))
  generalize hh : s.hub.enqueued prio.toNat (s.coreLaunch prio.toNat (recordOf ws) s.site.region) = h' at hexec
  refine ⟨_, s.coreLaunch prio.toNat (recordOf ws) r, hexec, fun _ => ⟨rfl, rfl⟩,
    stepsOn_modCore_write { s with hub := h' } r d (BitVec.ofNat 64 s.hub.nextId) false,
    sameRegs_modCore_write { s with hub := h' } r d (BitVec.ofNat 64 s.hub.nextId) false, fun hd => ?_, ?_, rfl, rfl, rfl, ?_, rfl, rfl, rfl, ?_, ?_⟩
  · rw [State.greg, State.retire, read_modCore_write_same _ r hd]; rfl
  · show h'.launches.get? s.hub.nextId = _
    rw [← hh]; exact Map.get?_set_same ..
  · show ((recordOf ws).deps.map s.bindDep).map Dep.word = _
    rw [List.map_map]
    exact List.map_id _
  · show h'.queues.get prio.toNat [] = _
    rw [← hh]; exact Map.get_set_same ..
  · show h'.nextId = _
    rw [← hh]; rfl

end

/-! ## MSEND (R341) -/

/-- The message of a core's MSEND. -/
def State.coreMsg (s : State) (r : Nat) (A : Word) (ws : List Word) (nak : Option (Nat × BitVec 5)) : OutMsg :=
  ⟨⟨(s.region r).launch.getD 0, ws.flatMap (fun w => (List.range 8).map (fun k => w.extractLsb' (8 * k) 8))⟩, A.toNat, nak, 0⟩

/-- The state with a message handed to the hub. -/
def State.outboxed (s : State) (o : OutMsg) : State := s.modHub (fun h => { h with outbox := h.outbox ++ [o] })

section
variable {s : State} {d a b : BitVec 5} {nak : Bool} {ts : List Target} {ws : List Word}

theorem msend_misaligned (hclean : s.CleanRegs s.site.region [a, b]) (halign : (s.greg s.site.region b).toNat % 64 ≠ 0) :
    exec (.msend d a b nak) s = .next (s.trapSync s.site.region 0x02 0 (s.greg s.site.region b) (s.core s.site.region).pc) :=
  congrArg _ ((State.using_of_clean hclean _).trans (if_pos halign))

theorem msend_protection (hclean : s.CleanRegs s.site.region [a, b]) (halign : (s.greg s.site.region b).toNat % 64 = 0)
    (hA : 2 ^ 32 ≤ (s.greg s.site.region a).toNat) :
    exec (.msend d a b nak) s = .next (s.trapSync s.site.region 0x04 0 (s.greg s.site.region a) (s.core s.site.region).pc) :=
  congrArg _ ((State.using_of_clean hclean _).trans ((if_neg (not_not.mpr halign)).trans
    (if_pos (Nat.pos_iff_ne_zero.mp (Nat.div_pos hA (Nat.two_pow_pos 32))))))

theorem exec_msend (hclean : s.CleanRegs s.site.region [a, b]) (hA : (s.greg s.site.region a).toNat < 2 ^ 32)
    (halign : (s.greg s.site.region b).toNat % 64 = 0) (hts : s.coreLines s.site.region (s.greg s.site.region b) 1 .load = .ok ts) :
    exec (.msend d a b nak) s = .next (
      if s.coreOwes s.site.region = true ∨ s.cmdsOf s.site.region ≠ [] ∨ 256 ≤ s.hub.parked.length + s.hub.outbox.length then
        s.tryAgain s.site.region
      else match s.readLines ts with
        | none => s.tryAgain s.site.region
        | some ws => if nak then (s.outboxed (s.coreMsg s.site.region (s.greg s.site.region a) ws (some (s.site.region, d)))).modCore s.site.region
              (fun k => { k with stall := some (.nak d) })
            else (s.outboxed (s.coreMsg s.site.region (s.greg s.site.region a) ws none)).retire s.site.region d 0) := by
  have hcond : (s.coreOwes s.site.region || !(s.cmdsOf s.site.region).isEmpty || decide (256 ≤ s.hub.parked.length + s.hub.outbox.length)) = true ↔
      (s.coreOwes s.site.region = true ∨ s.cmdsOf s.site.region ≠ [] ∨ 256 ≤ s.hub.parked.length + s.hub.outbox.length) := by
    rw [Bool.or_eq_true, Bool.or_eq_true, decide_eq_true_eq, Bool.not_eq_true', List.isEmpty_eq_false_iff, or_assoc]
  refine congrArg _ ((State.using_of_clean hclean _).trans ((if_neg (not_not.mpr halign)).trans
    ((if_neg (not_not.mpr (Nat.div_eq_of_lt hA))).trans ?_)))
  rw [hts]
  dsimp only
  rw [if_congr hcond rfl rfl]
  refine ite_congr rfl (fun _ => rfl) fun _ => ?_
  cases s.readLines ts with
  | none => rfl
  | some ws => cases nak <;> rfl

theorem msend_waits (hclean : s.CleanRegs s.site.region [a, b]) (hA : (s.greg s.site.region a).toNat < 2 ^ 32)
    (halign : (s.greg s.site.region b).toNat % 64 = 0) (hts : s.coreLines s.site.region (s.greg s.site.region b) 1 .load = .ok ts)
    (h : s.coreOwes s.site.region = true ∨ s.cmdsOf s.site.region ≠ [] ∨ 256 ≤ s.hub.parked.length + s.hub.outbox.length) :
    ∃ t, exec (.msend d a b nak) s = .next t ∧ sameBytes s t ∧ t.hub = s.hub ∧ (t.core s.site.region).pc = (s.core s.site.region).pc ∧
      ∀ c, (t.core s.site.region).read c = (s.core s.site.region).read c := by
  refine ⟨_, (exec_msend hclean hA halign hts).trans (congrArg _ (if_pos h)), fun _ => ⟨rfl, rfl⟩, rfl, ?_, fun c => ?_⟩
  · rw [State.tryAgain, State.core_modCore_same]
  · rw [State.tryAgain, State.core_modCore_same]; rfl

theorem extract_byte (w : Word) (k : Nat) : w.extractLsb' (8 * k) 8 = BitVec.ofNat 8 (w.toNat / 2 ^ (8 * k)) :=
  BitVec.eq_of_toNat_eq (by rw [BitVec.extractLsb'_toNat, Nat.shiftRight_eq_div_pow, BitVec.toNat_ofNat])

theorem State.coreMsg_body (s : State) (r : Nat) (A : Word) (ws : List Word) (nak : Option (Nat × BitVec 5)) :
    (s.coreMsg r A ws nak).msg.body = ws.flatMap (fun w => (List.range 8).map (fun k => BitVec.ofNat 8 (w.toNat / 2 ^ (8 * k)))) := by
  unfold State.coreMsg
  simp only [extract_byte]

theorem msend_sends (hclean : s.CleanRegs s.site.region [a, b]) (hA : (s.greg s.site.region a).toNat < 2 ^ 32)
    (halign : (s.greg s.site.region b).toNat % 64 = 0) (hts : s.coreLines s.site.region (s.greg s.site.region b) 1 .load = .ok ts)
    (howes : s.coreOwes s.site.region = false) (hcmds : s.cmdsOf s.site.region = []) (hroom : s.hub.parked.length + s.hub.outbox.length < 256)
    (hws : s.readLines ts = some ws) : let r := s.site.region
    let A := s.greg r a
    (∃ t m, exec (.msend d a b false) s = .next t ∧ sameBytes s t ∧ s.StepsOn t r ∧ sameRegs r d s t ∧ (d ≠ 0 → t.greg r d = 0) ∧
      t.hub.outbox = s.hub.outbox ++ [m] ∧ m.dest = A.toNat ∧ m.msg.sender = (s.region r).launch.getD 0 ∧
      m.msg.body = ws.flatMap (fun w => (List.range 8).map (fun k => BitVec.ofNat 8 (w.toNat / 2 ^ (8 * k)))) ∧ m.nak = none) ∧
    (∃ t m, exec (.msend d a b true) s = .next t ∧ sameBytes s t ∧ (t.core r).pc = (s.core r).pc ∧
      (t.core r).stall = some (.nak d) ∧ t.hub.outbox = s.hub.outbox ++ [m] ∧ m.dest = A.toNat ∧ m.nak = some (r, d)) := by
  intro r A
  have hgo : ¬ (s.coreOwes r = true ∨ s.cmdsOf r ≠ [] ∨ 256 ≤ s.hub.parked.length + s.hub.outbox.length) := by
    rintro (h | h | h)
    · rw [howes] at h; exact absurd h (by decide)
    · exact h hcmds
    · omega
  have hexec : ∀ nak, exec (.msend d a b nak) s = .next (
      if nak then (s.outboxed (s.coreMsg r A ws (some (r, d)))).modCore r (fun k => { k with stall := some (.nak d) })
      else (s.outboxed (s.coreMsg r A ws none)).retire r d 0) := fun nak => by
    rw [exec_msend hclean hA halign hts, if_neg hgo, hws]
  refine ⟨⟨_, _, (hexec false).trans (congrArg _ (if_neg (by decide))), fun _ => ⟨rfl, rfl⟩,
    stepsOn_modCore_write (s.outboxed (s.coreMsg r A ws none)) r d 0 false, sameRegs_modCore_write (s.outboxed (s.coreMsg r A ws none)) r d 0 false,
    fun hd => ?_, rfl, rfl, rfl, s.coreMsg_body r A ws none, rfl⟩,
    ⟨_, _, (hexec true).trans (congrArg _ (if_pos rfl)), fun _ => ⟨rfl, rfl⟩, ?_, ?_, rfl, rfl, rfl⟩⟩
  · rw [State.greg, State.retire, read_modCore_write_same _ r hd]; rfl
  · rw [State.core_modCore_same]; rfl
  · rw [State.core_modCore_same]

end

/-! ## MRECV (R342) -/

section
variable {s : State} {d a : BitVec 5} {w : Bool} {ts : List Target}

theorem mrecv_empty (hclean : s.CleanRegs s.site.region [a]) (halign : (s.greg s.site.region a).toNat % 64 = 0)
    (hts : s.coreLines s.site.region (s.greg s.site.region a) 1 .store = .ok ts) (hempty : s.inboxOf s.site.region = []) :
    exec (.mrecv d a w) s = .next (if w then s.wait s.site.region (.mrecv d (s.greg s.site.region a)) else s.retire s.site.region d 0) := by
  refine congrArg _ ((State.using_of_clean hclean _).trans ((if_neg (not_not.mpr halign)).trans ?_))
  rw [hts]
  exact if_pos (by rw [hempty]; rfl)

theorem State.coreLines_one {r : Nat} {A : Word} {acc : Access} {g : Target} (h : s.translateCore r A acc = .ok g) :
    s.coreLines r A 1 acc = .ok [g] := by
  have h0 : A + BitVec.ofNat 64 (64 * 0) = A := BitVec.add_zero A
  show (match s.translateCore r (A + BitVec.ofNat 64 (64 * 0)) acc with | .ok t => Except.ok [t] | .prot => .error cPROT | .absent => .error cPAGE) = _
  rw [h0, h]

/-- The core that has taken a message. -/
def Core.received (k : Core) (d : BitVec 5) (m : Msg) : Core :=
  Core.step4 { (k.write d (0x8000000000000000 ||| BitVec.ofNat 64 m.sender) false) with wait := none, run := .running }

theorem State.takeMsg_eq {r id : Nat} {p : Placement} {m : Msg} {ms : List Msg} {g : Target} (hl : (s.region r).launch = some id)
    (hp : s.placement? id = some p) (hin : p.inbox = m :: ms) : s.takeMsg r d g =
    (State.setPlacement { s with mem := (s.mem.writeBytes g.addr m.body).poisonWords g.addr false 8 } id { p with inbox := ms }).modCore r
      (fun k => k.received d m) := by
  have hinbox : s.inboxOf r = m :: ms := by
    rw [State.inboxOf, hl]
    dsimp only
    rw [hp]
    exact hin
  rw [State.takeMsg, hl, hinbox]
  dsimp only
  rw [hp]
  rfl

theorem exec_mrecv {id : Nat} {p : Placement} {m : Msg} {ms : List Msg} {g : Nat} (hclean : s.CleanRegs s.site.region [a])
    (halign : (s.greg s.site.region a).toNat % 64 = 0) (hg : s.translateCore s.site.region (s.greg s.site.region a) .store = .ok (.plain g))
    (hl : (s.region s.site.region).launch = some id) (hp : s.placement? id = some p) (hin : p.inbox = m :: ms)
    (hover : (s.core s.site.region).overlaps g 64 = false) : exec (.mrecv d a w) s = .next (
      (State.setPlacement { s with mem := (s.mem.writeBytes g m.body).poisonWords g false 8 } id { p with inbox := ms }).modCore s.site.region
        (fun k => k.received d m)) := by
  have hts := State.coreLines_one hg
  have hinbox : s.inboxOf s.site.region = m :: ms := by
    rw [State.inboxOf, hl]
    dsimp only
    rw [hp]
    exact hin
  refine congrArg _ ((State.using_of_clean hclean _).trans ((if_neg (not_not.mpr halign)).trans ?_))
  rw [hts]
  refine (if_neg (by rw [hinbox]; exact Bool.false_ne_true)).trans ?_
  rw [State.mrecvNow, hts]
  exact (if_neg (by show ¬ (s.core s.site.region).overlaps g 64 = true; rw [hover]; decide)).trans (State.takeMsg_eq hl hp hin)

theorem mrecv_takes {id : Nat} {p : Placement} {m : Msg} {ms : List Msg} {g : Nat} (hw : s.mem.wf = true) (hclean : s.CleanRegs s.site.region [a])
    (halign : (s.greg s.site.region a).toNat % 64 = 0) (hg : s.translateCore s.site.region (s.greg s.site.region a) .store = .ok (.plain g))
    (hl : (s.region s.site.region).launch = some id) (hp : s.placement? id = some p) (hin : p.inbox = m :: ms) (hlen : m.body.length = 64)
    (hover : (s.core s.site.region).overlaps g 64 = false) : let r := s.site.region
    ∃ t p', exec (.mrecv d a w) s = .next t ∧ t.mem.readBytes g 64 = m.body ∧
      (∀ b, b < g ∨ g + 64 ≤ b → t.mem.byte b = s.mem.byte b) ∧ t.placement? id = some p' ∧ p'.inbox = ms ∧
      (t.core r).pc = (s.core r).pc + 4 ∧ (d ≠ 0 → t.greg r d = 0x8000000000000000 ||| BitVec.ofNat 64 m.sender) ∧ sameRegs r d s t := by
  intro r
  have hcore : ∀ t : State, ((t.modCore r (fun k => k.received d m)).core r) = (t.core r).received d m := fun t => State.core_modCore_same ..
  have hbyte : ∀ b, ((s.mem.writeBytes g m.body).poisonWords g false 8).byte b = (s.mem.writeBytes g m.body).byte b := fun b =>
    Memory.byte_poisonWords ..
  refine ⟨_, { p with inbox := ms }, exec_mrecv hclean halign hg hl hp hin hover, ?_, fun b hb => ?_, State.placement_setPlacement .., rfl, ?_,
    fun hd => ?_, fun c hc => ?_⟩
  · show ((s.mem.writeBytes g m.body).poisonWords g false 8).readBytes g 64 = m.body
    rw [Memory.readBytes_congr (m' := s.mem.writeBytes g m.body) (fun b _ _ => hbyte b), ← hlen, Memory.readBytes_writeBytes hw]
  · refine (hbyte b).trans ?_
    rw [Memory.byte_writeBytes hw, if_neg (by omega)]
  · rw [hcore, Core.received, Core.write_eq]; rfl
  · rw [State.greg, hcore]
    show (((s.core r).write d _ false).read d).val = _
    rw [Core.read_write_same _ _ _ hd]; rfl
  · rw [hcore]
    show ((s.core r).write d _ false).read c = _
    rw [Core.read_write_other _ _ _ hc]

end


/-! PROOFS. Messages routed by the hub, and the ends of a core's waits (R273, R275, R340, R341, R346, R373, R374, R435; O45). -/

/-! ## MESSAGE_ROUTE (R340, R435) -/

/-- The state without the oldest message handed to the hub. -/
def State.unboxed (s : State) (os : List OutMsg) : State := s.modHub (fun h => { h with outbox := os })

section
variable {s : State} {o : OutMsg} {os : List OutMsg}

theorem exec_messageRoute (ho : s.hub.outbox = o :: os) (haddr : o.hostAddr = 0) (hnak : o.nak = none) :
    exec .messageRoute s = .next ((s.unboxed os).route o.msg o.dest).2 := by
  show execMessageRoute s = _
  rw [execMessageRoute, ho]
  dsimp only
  rw [hnak, haddr]
  rfl

theorem State.route_known {m : Msg} {g : Nat} {l : Launch} {p : Placement} (hg : g ≠ 0) (hl : s.launch? g = some l)
    (hp : s.placement? g = some p) (hst : l.st ≠ .done) (hroom : p.inbox.length < 16) (hbehind : ∀ q ∈ s.hub.parked, q.1 ≠ g) :
    (s.route m g).2 = s.deliver g p m := by
  have hany : s.hub.parked.any (fun p => p.1 = g) = false := List.any_eq_false.mpr fun q hq => by simpa using hbehind q hq
  rw [State.route, if_neg hg]
  dsimp only
  rw [hl, hp]
  dsimp only
  rw [if_neg hst, hany, decide_eq_true hroom]
  rfl

theorem State.route_parks {m : Msg} {g : Nat} {l : Launch} (hg : g ≠ 0) (hl : s.launch? g = some l) (hp : s.placement? g = none)
    (hst : l.st = .queued) : (s.route m g).2 = s.modHub (fun h => { h with parked := h.parked ++ [(g, m)] }) := by
  rw [State.route, if_neg hg]
  dsimp only
  rw [hl, hp]
  dsimp only
  rw [if_pos hst]

theorem State.route_unknown {m : Msg} {g : Nat} (hg : g ≠ 0) (hl : s.launch? g = none) : s.route m g = (4, s.countPkg 0xC04 1) := by
  rw [State.route, if_neg hg]
  dsimp only
  rw [hl]

theorem State.toHost_room {m : Msg} (hbase : s.dev.hostRingBase ≠ 0) (hroom : 64 * (s.hub.hostRing.length + 1) ≤ s.dev.hostRingSize.toNat) :
    s.toHost m = (1, { s.modHub (fun h => { h with hostRing := h.hostRing ++ [m.body] }) with
      dev := { s.dev with out := (s.dev.hostRingBase.toNat + 64 * s.hub.hostRing.length, m.body) :: s.dev.out } }) := by
  rw [State.toHost]
  exact if_pos (by rw [decide_eq_true hbase, decide_eq_true hroom]; rfl)

theorem messageRoute_routes (s : State) (o : OutMsg) (os : List OutMsg) (ho : s.hub.outbox = o :: os) (hnak : o.nak = none)
    (haddr : o.hostAddr = 0) :
    (∀ l p, o.dest ≠ 0 → s.launch? o.dest = some l → s.placement? o.dest = some p → l.st ≠ .done → p.inbox.length < 16 →
      (∀ q ∈ s.hub.parked, q.1 ≠ o.dest) →
      ∃ t p', exec .messageRoute s = .next t ∧ sameBytes s t ∧ t.hub.outbox = os ∧ t.placement? o.dest = some p' ∧
        p'.inbox = p.inbox ++ [o.msg]) ∧
    (∀ l, o.dest ≠ 0 → s.launch? o.dest = some l → l.st = .queued → s.placement? o.dest = none →
      ∃ t, exec .messageRoute s = .next t ∧ sameBytes s t ∧ t.hub.outbox = os ∧ t.hub.parked = s.hub.parked ++ [(o.dest, o.msg)]) ∧
    (o.dest ≠ 0 → s.launch? o.dest = none → ∃ t, exec .messageRoute s = .next t ∧ sameBytes s t ∧ t.hub.outbox = os ∧
      t.hub.pkg.get 0xC04 0 = min (s.hub.pkg.get 0xC04 0 + 1) (2 ^ 64 - 1)) ∧
    (o.dest = 0 → s.dev.hostRingBase ≠ 0 → 64 * (s.hub.hostRing.length + 1) ≤ s.dev.hostRingSize.toNat →
      ∃ t, exec .messageRoute s = .next t ∧ sameBytes s t ∧ t.hub.outbox = os ∧
        t.hub.hostRing = s.hub.hostRing ++ [o.msg.body]) := by
  have hexec := exec_messageRoute ho haddr hnak
  refine ⟨fun l p hg hl hp hst hroom hbehind => ?_, fun l hg hl hst hp => ?_, fun hg hl => ?_, fun hg hbase hroom => ?_⟩
  · rw [State.route_known (s := s.unboxed os) hg hl hp hst hroom hbehind] at hexec
    exact ⟨_, _, hexec, fun a => ⟨rfl, rfl⟩, rfl, State.placement_setPlacement .., rfl⟩
  · rw [State.route_parks (s := s.unboxed os) hg hl hp hst] at hexec
    exact ⟨_, hexec, fun a => ⟨rfl, rfl⟩, rfl, rfl⟩
  · rw [State.route_unknown (s := s.unboxed os) hg hl] at hexec
    exact ⟨_, hexec, fun a => ⟨rfl, rfl⟩, rfl, Map.get_set_same ..⟩
  · rw [hg, State.route, if_pos rfl, State.toHost_room (s := s.unboxed os) hbase hroom] at hexec
    exact ⟨_, hexec, fun a => ⟨rfl, rfl⟩, rfl, rfl⟩

/-- The status of a message that a core awaits goes into its register (R341). -/
theorem messageRoute_answers (s : State) (o : OutMsg) (os : List OutMsg) (r : Nat) (d : BitVec 5) (ho : s.hub.outbox = o :: os)
    (hnak : o.nak = some (r, d)) (hstall : (s.core r).stall = some (.nak d)) (hl : (s.region r).launch = some o.msg.sender)
    (hg : o.dest ≠ 0) (hunknown : s.launch? o.dest = none) :
    ∃ t, exec .messageRoute s = .next t ∧ (d ≠ 0 → t.greg r d = 4) ∧ (t.core r).pc = (s.core r).pc + 4 ∧ (t.core r).stall = none := by
  obtain ⟨t, ht, hcore⟩ : ∃ t : State, exec .messageRoute s = .next (t.retire r d 4) ∧ t.core r = s.core r := by
    refine ⟨if o.hostAddr ≠ 0 then ((s.unboxed os).countPkg 0xC04 1).modDev (fun d => { d with out := (o.hostAddr, bytes8 4) :: d.out })
      else (s.unboxed os).countPkg 0xC04 1, ?_, by split <;> rfl⟩
    have hroute := State.route_unknown (s := s.unboxed os) (m := o.msg) hg hunknown
    show execMessageRoute s = _
    rw [execMessageRoute, ho]
    dsimp only
    rw [show (s.modHub (fun h => { h with outbox := os })).route o.msg o.dest = (4, (s.unboxed os).countPkg 0xC04 1) from hroute, hnak]
    exact if_pos (by rw [decide_eq_true hstall, decide_eq_true hl]; rfl)
  refine ⟨_, ht, fun hd => ?_, ?_, ?_⟩
  · rw [State.greg, State.retire, read_modCore_write_same _ r hd]; rfl
  · rw [← hcore]; exact (stepsOn_modCore_write t r d 4 false).1
  · rw [State.retire, State.core_modCore_same]; rfl

theorem parkedMessage_delivered {id : Nat} {m : Msg} {p : Placement} (hq : s.hub.parked.find? (fun q => q.1 = id) = some (id, m))
    (hp : s.placement? id = some p) (hroom : p.inbox.length < 16) :
    ∃ t p', exec (.parkedMessageDeliver id) s = .next t ∧ sameBytes s t ∧ t.placement? id = some p' ∧ p'.inbox = p.inbox ++ [m] ∧
      t.hub.parked = s.hub.parked.eraseP (fun q => q.1 = id) := by
  have hexec : exec (.parkedMessageDeliver id) s =
      .next ((s.modHub (fun h => { h with parked := h.parked.eraseP (fun p => p.1 = id) })).deliver id p m) := by
    show execParkedMessageDeliver id s = _
    rw [execParkedMessageDeliver, hq, hp]
    exact if_pos hroom
  exact ⟨_, _, hexec, fun a => ⟨rfl, rfl⟩, State.placement_setPlacement .., rfl, rfl⟩

end

theorem State.coreOwes_iff (s : State) (r : Nat) : s.coreOwes r = true ↔
    (s.core r).stores ≠ [] ∨ ∃ x ∈ s.stamped, x.installed = false ∧ x.byCore = true ∧ x.region = r := by
  rw [State.coreOwes, Bool.or_eq_true, Bool.not_eq_true', List.isEmpty_eq_false_iff, State.stampedAny, List.any_eq_true]
  simp only [Bool.and_eq_true, Bool.not_eq_true', decide_eq_true_eq]

theorem launchesAndMessagesAct : Says.LaunchesAndMessagesAct := by
  refine ⟨fun d a prio s ts ws hclean halign hts hws => ⟨launch_enqueues hclean halign hts hws, fun hfull => ?_⟩,
    fun d a prio s hclean halign => launch_misaligned hclean halign,
    fun d a b s ts ws hclean hA halign hts howes hcmds hroom hws => msend_sends hclean hA halign hts howes hcmds hroom hws,
    fun d a b nak s hclean => ⟨msend_misaligned hclean, msend_protection hclean⟩,
    fun d a b nak s ts hclean hA halign hts h => msend_waits hclean hA halign hts h, State.coreOwes_iff,
    fun d a w s ts hclean halign hts hempty => mrecv_empty hclean halign hts hempty,
    fun d a w s g id p m ms hw hclean halign hg hl hp hin hlen hover => mrecv_takes hw hclean halign hg hl hp hin hlen hover,
    messageRoute_routes, messageRoute_answers, fun id s m p hq hp hroom => parkedMessage_delivered hq hp hroom⟩
  exact (exec_launch_read hclean halign hts hws).trans (congrArg _ (if_pos hfull))

/-! ## WAIT_COMPLETE (R275, R346, R373, R374) -/

theorem exec_waitComplete {s : State} {r : Nat} {w : Wait} (hf : (s.region r).coreFrozen = false) (hw : (s.core r).wait = some w) :
    exec (.waitComplete r) s = .next (match w with
      | .sleepu a => if a.toNat ≤ s.cyc then s.endWait r else s
      | .waits a sys => if a.toNat < s.floorAt sys (regionDie r) then s.endWait r else s
      | .hwait h => if (s.handle r h).st = .filling then s else s.hwaitFull r h
      | .mrecv d a => if (s.inboxOf r).isEmpty then s else s.mrecvNow r d a
      | .freeze => if (s.region r).frozen.all (fun f => f.read) then s.endWait r else s
      | .halt => s) := by
  have hwait : (s.region r).core.wait = some w := hw
  show execWaitComplete r s = _
  rw [execWaitComplete]
  refine (if_neg (by rw [hf]; decide)).trans ?_
  rw [hwait]
  cases w <;> rfl

theorem State.hwaitFull_of_clean {s : State} {r h : Nat} (hc : (s.handle r h).cause = 0) : s.hwaitFull r h = s.endWait r := if_pos hc

theorem State.endWait_core (s : State) (r : Nat) : ((s.endWait r).core r).pc = (s.core r).pc + 4 ∧ ((s.endWait r).core r).wait = none ∧
    ((s.endWait r).core r).run = .running ∧ ∀ a, ((s.endWait r).core r).read a = (s.core r).read a := by
  rw [State.endWait, State.core_modCore_same]
  exact ⟨rfl, rfl, rfl, fun a => rfl⟩

theorem waitsEnd : Says.WaitsEnd := by
  intro r s hf
  refine ⟨fun a hw => exec_waitComplete hf hw, fun a sys hw => exec_waitComplete hf hw, fun h hw => ⟨fun hst => ?_, fun hst hc => ?_⟩,
    fun hw => exec_waitComplete hf hw, fun hw => exec_waitComplete hf hw, s.endWait_core r⟩
  · exact (exec_waitComplete hf hw).trans (congrArg _ (if_pos hst))
  · exact (exec_waitComplete hf hw).trans (congrArg _ ((if_neg hst).trans (State.hwaitFull_of_clean hc)))

/-- Settles O45, from what each instruction, the hub's routing and the end of each wait leave. -/
theorem launchesMessagesWaits : Obligations.LaunchesMessagesWaits := ⟨launchesAndMessagesAct, waitsEnd⟩


/-! PROOFS. Limits and banks (R76, R120, R396, R399; O46). -/

/-! ## Limits (R396, R399) -/

section
variable {s : State} {r port n : Nat}

theorem exec_watchdogExpiry (h : (s.region r).wdlim ≠ 0) (hq : (s.region r).wdlim.toNat ≤ (s.region r).quiet) : exec (.watchdogExpiry r) s =
    .next ((s.modRegion r (fun R => { R with quiet := 0 })).raise r .watchdog (BitVec.ofNat 64 (s.region r).phase)) := by
  show execWatchdogExpiry r s = _
  rw [execWatchdogExpiry]
  exact if_pos (by rw [decide_eq_true h, decide_eq_true hq]; rfl)

theorem watchdog_raises (h : (s.region r).wdlim ≠ 0) (hq : (s.region r).wdlim.toNat ≤ (s.region r).quiet) (hl : (s.region r).launch.isSome = true)
    (hp : (s.core r).pend.watchdog = none) : ∃ t, exec (.watchdogExpiry r) s = .next t ∧ sameBytes s t ∧
      (t.core r).pend.watchdog = some (BitVec.ofNat 64 (s.region r).phase) ∧ (t.region r).quiet = 0 := by
  have hregion : (s.modRegion r (fun R => { R with quiet := 0 })).region r = { s.region r with quiet := 0 } := State.region_modRegion_same ..
  have hraise : (s.modRegion r (fun R => { R with quiet := 0 })).raise r .watchdog (BitVec.ofNat 64 (s.region r).phase) =
      (s.modRegion r (fun R => { R with quiet := 0 })).modCore r (fun k => k.hold .watchdog (BitVec.ofNat 64 (s.region r).phase)) := by
    rw [State.raise]
    exact if_pos (by rw [hregion]; exact hl)
  refine ⟨_, (exec_watchdogExpiry h hq).trans (congrArg _ hraise), fun a => ⟨rfl, rfl⟩, ?_, ?_⟩
  · rw [State.core_modCore_same, State.core, hregion]
    show some ((s.core r).pend.watchdog.getD (BitVec.ofNat 64 (s.region r).phase)) = _
    rw [hp]; rfl
  · rw [State.modCore, State.region_modRegion_same, hregion]

theorem watchdog_waits (h : (s.region r).wdlim = 0 ∨ (s.region r).quiet < (s.region r).wdlim.toNat) : exec (.watchdogExpiry r) s = .next s := by
  show execWatchdogExpiry r s = _
  rw [execWatchdogExpiry]
  refine if_neg fun hc => ?_
  rw [Bool.and_eq_true, decide_eq_true_eq, decide_eq_true_eq] at hc
  rcases h with h | h
  · exact hc.1 h
  · exact absurd hc.2 (not_le.mpr h)

theorem exec_pflimitFreeze (hn : (s.region r).heldSince.get? port = some n) : exec (.pflimitFreeze r port) s = .next (
    if 0 < n ∧ (s.region r).pflimit.toNat ≤ n ∧ port ∉ (s.region r).pfTold then
      ((s.modRegion r (fun R => { R with pfTold := port :: R.pfTold })).faultFreeze r).notify
        [4, BitVec.ofNat 64 r, BitVec.ofNat 64 port, s.heldAddr r port]
    else s) := by
  have hcond : (decide (0 < n) && decide ((s.region r).pflimit.toNat ≤ n) && !(s.region r).pfTold.contains port) = true ↔
      0 < n ∧ (s.region r).pflimit.toNat ≤ n ∧ port ∉ (s.region r).pfTold := by
    simp [and_assoc]
  show execPflimitFreeze r port s = _
  rw [execPflimitFreeze]
  dsimp only
  rw [hn]
  dsimp only
  rw [if_congr hcond rfl rfl]
  split <;> rfl

theorem State.faultFreeze_region (s : State) (r : Nat) : (s.faultFreeze r).hub = s.hub ∧ (s.faultFreeze r).mem = s.mem ∧
    ((s.faultFreeze r).region r).pfTold = (s.region r).pfTold ∧
    ((s.region r).faultArea.isSome = true → ((s.faultFreeze r).region r).frozen.isSome = true) := by
  rw [State.faultFreeze]
  cases hf : (s.region r).faultArea with
  | none => exact ⟨rfl, rfl, rfl, fun h => Bool.noConfusion h⟩
  | some a =>
    dsimp only
    rw [State.beginFreeze, State.region_modRegion_same]
    exact ⟨rfl, rfl, rfl, fun _ => rfl⟩

theorem pflimit_freezes (hn : (s.region r).heldSince.get? port = some n) (h0 : 0 < n) (hle : (s.region r).pflimit.toNat ≤ n)
    (hnew : port ∉ (s.region r).pfTold) : ∃ t e, exec (.pflimitFreeze r port) s = .next t ∧ sameBytes s t ∧ t.hub.events = e :: s.hub.events ∧
      e.getD 1 0 = BitVec.ofNat 64 r ∧ e.getD 2 0 = BitVec.ofNat 64 port ∧ e.getD 3 0 = s.heldAddr r port ∧
      port ∈ (t.region r).pfTold ∧ ((s.region r).faultArea.isSome = true → (t.region r).frozen.isSome = true) := by
  have hexec := (exec_pflimitFreeze hn).trans (congrArg _ (if_pos ⟨h0, hle, hnew⟩))
  have hregion : (s.modRegion r (fun R => { R with pfTold := port :: R.pfTold })).region r = { s.region r with pfTold := port :: (s.region r).pfTold } :=
    State.region_modRegion_same ..
  obtain ⟨hhub, hmem, htold, hfrozen⟩ := (s.modRegion r (fun R => { R with pfTold := port :: R.pfTold })).faultFreeze_region r
  generalize (s.modRegion r (fun R => { R with pfTold := port :: R.pfTold })).faultFreeze r = t at hexec hhub hmem htold hfrozen
  rw [hregion] at htold hfrozen
  refine ⟨_, [4, BitVec.ofNat 64 r, BitVec.ofNat 64 port, s.heldAddr r port], hexec, fun a => ?_, ?_, rfl, rfl, rfl, ?_, hfrozen⟩
  · show t.mem.byte a = _ ∧ t.mem.poisoned a = _
    rw [hmem]; exact ⟨rfl, rfl⟩
  · show _ :: t.hub.events = _
    rw [hhub]; rfl
  · show port ∈ (t.region r).pfTold
    rw [htold]; exact List.mem_cons_self

theorem pflimit_waits (h : port ∈ (s.region r).pfTold ∨ ∀ n, (s.region r).heldSince.get? port = some n → n < (s.region r).pflimit.toNat) :
    exec (.pflimitFreeze r port) s = .next s := by
  cases hn : (s.region r).heldSince.get? port with
  | none =>
    show execPflimitFreeze r port s = _
    rw [execPflimitFreeze]
    dsimp only
    rw [hn]
  | some n =>
    refine (exec_pflimitFreeze hn).trans (congrArg _ (if_neg ?_))
    rintro ⟨-, hle, hnew⟩
    rcases h with h | h
    · exact hnew h
    · exact absurd hle (not_le.mpr (h n hn))

end

theorem limitsExpire : Says.LimitsExpire :=
  ⟨fun r s h hq hl hp => watchdog_raises h hq hl hp, fun r s h => watchdog_waits h,
    fun r port n s hn h0 hle hnew => pflimit_freezes hn h0 hle hnew, fun r port s h => pflimit_waits h⟩

/-! ## Banks (R76, R120) -/

section
variable {s : State} {u : UnitId} {b id : Nat} {f : Fetch} {p : Placement} {ws : List (Nat × Word)}

theorem bankFetch_begins (h : s.bankWanted u b = true) : ∃ t f, exec (.bankFetch u b) s = .next t ∧ sameBytes s t ∧
    (t.region u.region).fetches = (s.region u.region).fetches ++ [f] ∧ f.u = u ∧ f.bank = b ∧ t.units = s.units := by
  let miss := ((s.region u.region).cache.get? (u, (s.region u.region).phase, b)).isNone
  let s0 := s.modRegion u.region (fun R => { R with fetches := R.fetches ++ [⟨u, b, miss⟩] })
  have hexec : exec (.bankFetch u b) s = .next (if miss then (s0.count u.region 0x0A 1).count u.region 0x0B 1 else s0.count u.region 0x0A 1) := by
    show execBankFetch u b s = _
    rw [execBankFetch]
    exact if_pos h
  have hcount : s0.OnlyCounts (if miss then (s0.count u.region 0x0A 1).count u.region 0x0B 1 else s0.count u.region 0x0A 1) := by
    split
    · exact (s0.count_onlyCounts ..).trans (State.count_onlyCounts ..)
    · exact s0.count_onlyCounts ..
  generalize (if miss then (s0.count u.region 0x0A 1).count u.region 0x0B 1 else s0.count u.region 0x0A 1) = t at hexec hcount
  refine ⟨t, ⟨u, b, miss⟩, hexec, fun a => ?_, ?_, rfl, rfl, ?_⟩
  · rw [hcount.rest]; exact ⟨rfl, rfl⟩
  · rw [hcount.regions, State.region_modRegion_same]
  · rw [hcount.rest]; rfl

/-- The state whose region has no such fetch in hand. -/
def State.unfetched (s : State) (u : UnitId) (b : Nat) : State :=
  s.modRegion u.region (fun R => { R with fetches := R.fetches.filter (fun g => !(g.u = u && g.bank = b)) })

theorem exec_bankFill (hf : (s.region u.region).fetches.find? (fun f => f.u = u && f.bank = b) = some f)
    (hl : (s.region u.region).launch = some id) (hp : s.placement? id = some p) (hstop : (s.region u.region).stop = false) :
    exec (.bankFill u b) s = .next (match (s.fetched id p f).2 with
      | some sub => (s.unfetched u b).recordFault u cREJECT sub.toNat 0 none 0 0
      | none => ((s.unfetched u b).modRegion u.region (fun R => R.cacheUse (u, R.phase, b) (s.fetched id p f).1)).modUnit u
          (fun x => { x with banks := x.banks.set b ⟨(s.region u.region).tag, (s.fetched id p f).1⟩ })) := by
  show execBankFill u b s = _
  rw [execBankFill]
  dsimp only
  rw [hf, hl]
  dsimp only
  rw [hp]
  dsimp only
  generalize s.fetched id p f = got
  obtain ⟨ws, bad⟩ := got
  refine (if_neg (by rw [hstop]; decide)).trans ?_
  cases bad <;> rfl

theorem bankFill_fills (hf : (s.region u.region).fetches.find? (fun f => f.u = u && f.bank = b) = some f)
    (hl : (s.region u.region).launch = some id) (hp : s.placement? id = some p) (hstop : (s.region u.region).stop = false)
    (hws : s.fetched id p f = (ws, none)) : ∃ t, exec (.bankFill u b) s = .next t ∧ sameBytes s t ∧
      (t.unit u).banks.get b {} = ⟨(s.region u.region).tag, ws⟩ ∧ (∀ c, c ≠ b → (t.unit u).banks.get c {} = (s.unit u).banks.get c {}) ∧
      (t.unit u).ctx = (s.unit u).ctx := by
  have hexec := exec_bankFill hf hl hp hstop
  rw [hws] at hexec
  refine ⟨_, hexec, fun a => ⟨rfl, rfl⟩, ?_, fun c hc => ?_, ?_⟩
  · rw [State.unit_modUnit_same]; exact Map.get_set_same ..
  · rw [State.unit_modUnit_same]; exact Map.get_set_other _ hc _ _
  · rw [State.unit_modUnit_same]; rfl

theorem State.recordFaultOf_banks (s : State) (u : UnitId) (tick : Nat) (cause : Byte) (word ctx : Nat) (chan : Option Nat)
    (sb : BitVec 14) (flags : BitVec 6) : ((s.recordFaultOf u tick cause word ctx chan sb flags).unit u).banks = (s.unit u).banks := by
  unfold State.recordFaultOf
  dsimp only
  split
  · split <;> (rw [State.unit_setUnit_same])
  · rw [State.unit_raise_setUnit]

theorem bankFill_stops {sub : Byte} (hf : (s.region u.region).fetches.find? (fun f => f.u = u && f.bank = b) = some f)
    (hl : (s.region u.region).launch = some id) (hp : s.placement? id = some p) (hstop : (s.region u.region).stop = false)
    (hws : s.fetched id p f = (ws, some sub)) (he : (s.unit u).efault.getLsbD 63 = false) :
    ∃ t, exec (.bankFill u b) s = .next t ∧ sameBytes s t ∧
      (t.unit u).banks = (s.unit u).banks ∧ (t.unit u).efault = efaultWord 0x0C sub.toNat 0 (s.boundTagOf u) none 0 0 := by
  have hexec := exec_bankFill hf hl hp hstop
  rw [hws] at hexec
  have hunit : (s.unfetched u b).unit u = s.unit u := rfl
  have htag : ((s.unfetched u b).region u.region).tag = s.boundTagOf u := by
    rw [State.unfetched, State.region_modRegion_same]; rfl
  have hfirst := State.recordFaultOf_first (s.unfetched u b) u (s.unfetched u b).ticket cREJECT sub.toNat 0 none 0 0 (by rw [hunit]; exact he)
  rw [htag] at hfirst
  have hmem : sameBytes s ((s.unfetched u b).recordFault u cREJECT sub.toNat 0 none 0 0) := fun a => by
    have hrest := (s.unfetched u b).spares_recordFaultOf u (s.unfetched u b).ticket cREJECT sub.toNat 0 none 0 0
    obtain ⟨_, _, _, _, _, _, heq⟩ := hrest
    rw [State.recordFault, heq]
    exact ⟨rfl, rfl⟩
  exact ⟨_, hexec, hmem, (State.recordFaultOf_banks ..).trans (congrArg EUnit.banks hunit), hfirst⟩

end

theorem banksAreFetched : Says.BanksAreFetched :=
  ⟨fun u b s h => bankFetch_begins h, fun u b s f id p ws hf hl hp hstop hws => bankFill_fills hf hl hp hstop hws,
    fun u b s f id p ws sub hf hl hp hstop hws he => bankFill_stops hf hl hp hstop hws he⟩


/-! PROOFS. Phases end and placements complete (R122-R124, R163, R350, R395; O46). -/

/-! ## Entering a phase (R93, R123) -/

/-- A state that differs in elements, channels and outputs' branches alone. -/
def State.Feeds (s t : State) : Prop := ∃ us cs ws, t = { s with units := us, chans := cs, wires := ws }

theorem State.Feeds.refl (s : State) : s.Feeds s := ⟨_, _, _, rfl⟩

theorem State.Feeds.trans {s t w : State} (h : s.Feeds t) (k : t.Feeds w) : s.Feeds w := by
  obtain ⟨_, _, _, rfl⟩ := h
  obtain ⟨_, _, _, rfl⟩ := k
  exact ⟨_, _, _, rfl⟩

theorem State.Feeds.foldl {α : Type} {f : State → α → State} (hf : ∀ (s : State) x, s.Feeds (f s x)) (l : List α) (s : State) :
    s.Feeds (l.foldl f s) := by
  induction l generalizing s with
  | nil => exact .refl s
  | cons x l ih => exact (hf s x).trans (ih _)

theorem State.Feeds.region {s t : State} (h : s.Feeds t) (r : Nat) : t.region r = s.region r := by
  obtain ⟨_, _, _, rfl⟩ := h
  rfl

theorem State.Feeds.mem {s t : State} (h : s.Feeds t) : t.mem = s.mem := by
  obtain ⟨_, _, _, rfl⟩ := h
  rfl

theorem State.Feeds.hub {s t : State} (h : s.Feeds t) : t.hub = s.hub := by
  obtain ⟨_, _, _, rfl⟩ := h
  rfl

/-- A branch of a phase becomes its output's, and its input takes it as feeder. -/
def State.bindRoute (s : State) (t : Route) : State :=
  State.modChan { s with wires := s.wires.set t.src (s.branches t.src.1 t.src.2 ++ [.inp t.dst.1 t.dst.2]) } (.inp t.dst.1 t.dst.2)
    (fun c => c.rebind t)

theorem State.bindPhase_units (s : State) (id r n : Nat) : (s.bindPhase id r n).units = s.units ∧ s.Feeds (s.bindPhase id r n) := by
  have hfold : ∀ (l : List Route) (s : State), (l.foldl State.bindRoute s).units = s.units ∧ s.Feeds (l.foldl State.bindRoute s) := by
    intro l
    induction l with
    | nil => exact fun s => ⟨rfl, .refl s⟩
    | cons t l ih =>
      intro s
      obtain ⟨hu, hf⟩ := ih (s.bindRoute t)
      exact ⟨hu, .trans ⟨_, _, _, rfl⟩ hf⟩
  rw [State.bindPhase]
  split
  · exact ⟨rfl, .refl s⟩
  · obtain ⟨hu, hf⟩ := hfold _ _
    exact ⟨hu, .trans ⟨_, _, _, rfl⟩ hf⟩

theorem State.primes_units (k : UnitId) (tag : Byte) (params : List Word) (ps : List (Nat × List PrimeVal)) (s : State) :
    (ps.foldl (fun s p => s.primeInput k tag params p) s).units = s.units ∧ s.Feeds (ps.foldl (fun s p => s.primeInput k tag params p) s) := by
  induction ps generalizing s with
  | nil => exact ⟨rfl, .refl s⟩
  | cons p ps ih =>
    obtain ⟨hu, hf⟩ := ih (s.primeInput k tag params p)
    exact ⟨hu, .trans ⟨_, _, _, rfl⟩ hf⟩

theorem State.feeds_enterUnit (s : State) (k : UnitId) (tag : Byte) (params : List Word) (v : ImgUnit) : s.Feeds (s.enterUnit k tag params v) :=
  .trans ⟨_, _, _, rfl⟩ (State.primes_units k tag params v.primes _).2

/-- The contexts of an element that no section of a vector node sets stay as they are. -/
theorem State.enterUnit_context (s : State) {k u : UnitId} (tag : Byte) (params : List Word) (v : ImgUnit) (h : k = u → v.sub ≠ 17) :
    ((s.enterUnit k tag params v).unit u).ctx = (s.unit u).ctx := by
  rw [State.unit, State.enterUnit, (State.primes_units ..).1]
  show ((s.modUnit k _).unit u).ctx = _
  by_cases hk : u = k
  · subst hk
    rw [State.unit_modUnit_same]
    exact if_neg (h rfl)
  · rw [State.unit_modUnit_other _ hk]

theorem atOffset_vector {o dx dy sub : Nat} {k : UnitId} (h : atOffset o dx dy sub = some k) (hsub : sub = 17) : k.sub = 17 := by
  unfold atOffset at h
  dsimp only at h
  obtain ⟨c, -, rfl⟩ := Option.map_eq_some_iff.mp h
  subst hsub
  rfl

theorem State.sectionUnit_vector {s : State} {r : Nat} {v : ImgUnit} {k : UnitId} (h : s.sectionUnit r v = some k) (hsub : v.sub = 17) : k.sub = 17 := by
  unfold State.sectionUnit at h
  dsimp only at h
  split at h
  · exact atOffset_vector h hsub
  · exact nomatch h

/-- The sections of a phase, entered one after another. -/
def State.enterSections (s : State) (r : Nat) (tag : Byte) (params : List Word) (vs : List ImgUnit) : State :=
  vs.foldl (fun s v => match s.sectionUnit r v with
    | some k => s.enterUnit k tag params v
    | none => s) s

theorem State.enterSections_spec (r : Nat) (tag : Byte) (params : List Word) (vs : List ImgUnit) (s : State) :
    s.Feeds (s.enterSections r tag params vs) ∧
    ∀ u : UnitId, u.sub ≠ 17 → ((s.enterSections r tag params vs).unit u).ctx = (s.unit u).ctx := by
  induction vs generalizing s with
  | nil => exact ⟨.refl s, fun u _ => rfl⟩
  | cons v vs ih =>
    have hstep : s.Feeds (match s.sectionUnit r v with | some k => s.enterUnit k tag params v | none => s) ∧
        ∀ u : UnitId, u.sub ≠ 17 → ((match s.sectionUnit r v with | some k => s.enterUnit k tag params v | none => s).unit u).ctx = (s.unit u).ctx := by
      cases hk : s.sectionUnit r v with
      | none => exact ⟨.refl s, fun u _ => rfl⟩
      | some k =>
        exact ⟨s.feeds_enterUnit k tag params v, fun u hu => s.enterUnit_context tag params v fun hku hsub =>
          hu (hku ▸ State.sectionUnit_vector hk hsub)⟩
    obtain ⟨hf, hctx⟩ := hstep
    obtain ⟨if_, ictx⟩ := ih (match s.sectionUnit r v with | some k => s.enterUnit k tag params v | none => s)
    exact ⟨hf.trans if_, fun u hu => (ictx u hu).trans (hctx u hu)⟩

/-- A region whose phase begins. -/
def Region.entered (R : Region) (n : Nat) (tag : Byte) : Region := { R with phase := n, tag := tag, wr := 0, idle := 0 }

/-- The elements of a region at their load values, the region in its phase. -/
def State.reloaded (s : State) (r n : Nat) (tag : Byte) : State :=
  { s.modRegion r (fun R => R.entered n tag) with units := s.units.map (fun (u, x) => if u.region = r then (u, x.enter) else (u, x)) }

theorem State.enterPhase_eq (s : State) (p : Placement) (r n : Nat) : s.enterPhase p r n =
    (match ((s.reloaded r n (p.img.placedTag p.base n)).region r).launch with
      | some id => (s.reloaded r n (p.img.placedTag p.base n)).bindPhase id r n
      | none => s.reloaded r n (p.img.placedTag p.base n)).enterSections r (p.img.placedTag p.base n) p.params
        (p.img.units.filter (fun u => u.phase = n)) := rfl

theorem State.reloaded_context (s : State) (r n : Nat) (tag : Byte) {u : UnitId} (hu : u.region = r) (c : Nat) :
    ((s.reloaded r n tag).unit u).context c = {} := by
  have hmap : (s.reloaded r n tag).units = s.units.map (fun e => (e.1, if e.1.region = r then e.2.enter else e.2)) := by
    refine List.map_congr_left fun e _ => ?_
    obtain ⟨v, x⟩ := e
    dsimp only
    split <;> rfl
  rw [State.unit, hmap, Map.get_eq_get?, Map.get?_map s.units (fun v x => if v.region = r then x.enter else x)]
  cases Map.get? s.units u with
  | none => rfl
  | some x =>
    show EUnit.context (if u.region = r then x.enter else x) c = {}
    rw [if_pos hu]; rfl

/-- What entering a phase leaves: the region in it, every other one as before, and the contexts of its elements at their load values. -/
theorem State.enterPhase_spec (s : State) (p : Placement) (r n : Nat) :
    (s.modRegion r (fun R => R.entered n (p.img.placedTag p.base n))).Feeds (s.enterPhase p r n) ∧
    ∀ u c, u.region = r → u.sub ≠ 17 → ((s.enterPhase p r n).unit u).context c = {} := by
  have hbind : (s.reloaded r n (p.img.placedTag p.base n)).Feeds (match ((s.reloaded r n (p.img.placedTag p.base n)).region r).launch with
      | some id => (s.reloaded r n (p.img.placedTag p.base n)).bindPhase id r n
      | none => s.reloaded r n (p.img.placedTag p.base n)) ∧
      (match ((s.reloaded r n (p.img.placedTag p.base n)).region r).launch with
      | some id => (s.reloaded r n (p.img.placedTag p.base n)).bindPhase id r n
      | none => s.reloaded r n (p.img.placedTag p.base n)).units = (s.reloaded r n (p.img.placedTag p.base n)).units := by
    split
    · exact ⟨(State.bindPhase_units ..).2, (State.bindPhase_units ..).1⟩
    · exact ⟨.refl _, rfl⟩
  rw [State.enterPhase_eq]
  obtain ⟨hfeeds, hunits⟩ := hbind
  generalize (match ((s.reloaded r n (p.img.placedTag p.base n)).region r).launch with
      | some id => (s.reloaded r n (p.img.placedTag p.base n)).bindPhase id r n
      | none => s.reloaded r n (p.img.placedTag p.base n)) = t at hfeeds hunits ⊢
  obtain ⟨hsec, hctx⟩ := State.enterSections_spec r (p.img.placedTag p.base n) p.params (p.img.units.filter (fun u => u.phase = n)) t
  have hreload : (s.modRegion r (fun R => R.entered n (p.img.placedTag p.base n))).Feeds (s.reloaded r n (p.img.placedTag p.base n)) := ⟨_, _, _, rfl⟩
  refine ⟨(hreload.trans hfeeds).trans hsec, fun u c hu hsub => ?_⟩
  rw [EUnit.context, hctx u hsub, State.unit, hunits]
  exact s.reloaded_context r n _ hu c

/-! ## PHASE_END (R122-R124) -/

/-- The state of a region whose predicates the end of a phase has updated. -/
def State.phaseEnding (s : State) (r : Nat) : State := (s.modRegion r (fun R => { R with rp := s.updatedRp r, idle := 0 })).count r 0x12 1

section
variable {s : State} {r id : Nat} {p : Placement}

theorem exec_phaseEnd (hl : (s.region r).launch = some id) (hp : s.placement? id = some p) (hstop : (s.region r).stop = false)
    (hf : (s.region r).frozen = none) (hidle : 16 ≤ (s.region r).idle) : exec (.phaseEnd r) s = .next (
      match nextPhase (p.img.rule (s.region r).phase) (s.updatedRp r) with
      | none => (s.phaseEnding r).modRegion r (fun R => { R with stop := true, tag := 0 })
      | some n => ((s.phaseEnding r).discardTag r (s.region r).tag).enterPhase p r n) := by
  show execPhaseEnd r s = _
  rw [execPhaseEnd]
  dsimp only
  rw [hl]
  dsimp only
  rw [hp]
  refine (if_neg ?_).trans ?_
  · rw [hstop, hf, decide_eq_false (not_lt.mpr hidle)]; decide
  · cases nextPhase (p.img.rule (s.region r).phase) (s.updatedRp r) <;> rfl

theorem State.phaseEnding_rest (s : State) (r : Nat) : (∃ rs, s.phaseEnding r = { s with regions := rs }) ∧
    ((s.phaseEnding r).region r).rp = s.updatedRp r := by
  have hcount := (s.modRegion r (fun R => { R with rp := s.updatedRp r, idle := 0 })).count_onlyCounts r 0x12 1
  refine ⟨⟨_, hcount.rest⟩, ?_⟩
  rw [State.phaseEnding, hcount.regions, State.region_modRegion_same]

theorem phaseEnd_ends (hl : (s.region r).launch = some id) (hp : s.placement? id = some p) (hstop : (s.region r).stop = false)
    (hf : (s.region r).frozen = none) (hidle : 16 ≤ (s.region r).idle) : let rp := s.updatedRp r
    (nextPhase (p.img.rule (s.region r).phase) rp = none → ∃ t, exec (.phaseEnd r) s = .next t ∧ sameBytes s t ∧
      (t.region r).stop = true ∧ (t.region r).tag = 0 ∧ (t.region r).rp = rp ∧ t.units = s.units) ∧
    (∀ n, nextPhase (p.img.rule (s.region r).phase) rp = some n → ∃ t, exec (.phaseEnd r) s = .next t ∧ sameBytes s t ∧
      (t.region r).phase = n ∧ (t.region r).tag = p.img.placedTag p.base n ∧ (t.region r).rp = rp ∧ (t.region r).wr = 0 ∧
      (t.region r).idle = 0 ∧ (∀ u c, u.region = r → u.sub ≠ 17 → (t.unit u).context c = {})) := by
  intro rp
  have hexec := exec_phaseEnd hl hp hstop hf hidle
  obtain ⟨⟨rs, hrest⟩, hrp⟩ := s.phaseEnding_rest r
  generalize s.phaseEnding r = s1 at hexec hrest hrp
  refine ⟨fun hnone => ?_, fun n hn => ?_⟩
  · rw [show nextPhase (p.img.rule (s.region r).phase) (s.updatedRp r) = none from hnone] at hexec
    refine ⟨_, hexec, fun a => ?_, ?_⟩
    · rw [hrest]; exact ⟨rfl, rfl⟩
    · rw [State.region_modRegion_same]
      exact ⟨rfl, rfl, hrp, by rw [hrest]; rfl⟩
  · rw [show nextPhase (p.img.rule (s.region r).phase) (s.updatedRp r) = some n from hn] at hexec
    obtain ⟨hfeeds, hctx⟩ := (s1.discardTag r (s.region r).tag).enterPhase_spec p r n
    refine ⟨_, hexec, fun a => ?_, ?_⟩
    · rw [hfeeds.mem, hrest]; exact ⟨rfl, rfl⟩
    · rw [hfeeds.region, State.region_modRegion_same]
      exact ⟨rfl, rfl, hrp, rfl, rfl, hctx⟩

theorem updatedRp_bit (r : Nat) (s : State) (k : Nat) (hk : k < 4) : (s.updatedRp r).getLsbD k =
    if (s.region r).wr.getLsbD k then (s.region r).rp.getLsbD k else ((s.unit ⟨r, 0, 0⟩).context 0).p.getLsbD k := by
  show (((s.region r).rp &&& (s.region r).wr) ||| ((((s.unit ⟨r, 0, 0⟩).context 0).p.extractLsb' 0 4) &&& ~~~(s.region r).wr)).getLsbD k = _
  rw [BitVec.getLsbD_or, BitVec.getLsbD_and, BitVec.getLsbD_and, BitVec.getLsbD_not, BitVec.getLsbD_extractLsb', decide_eq_true hk, Nat.zero_add]
  cases (s.region r).wr.getLsbD k <;> simp

end

/-! ## PLACEMENT_COMPLETE (R124, R163) -/

theorem Region.vacated_vacated (R : Region) (id : Nat) : (R.vacated id).vacated id = R.vacated id := by
  have hcmds : (R.vacated id).cmds.filter (fun c => c.owner ≠ some id) = R.cmds.filter (fun c => c.owner ≠ some id) :=
    List.filter_eq_self.mpr fun c hc => (List.mem_filter.mp hc).2
  show { R.vacated id with cmds := (R.vacated id).cmds.filter (fun c => c.owner ≠ some id) } = _
  rw [hcmds]; rfl

/-- What vacating leaves: hub, memory and dies as before, the regions as their launch leaves them. -/
theorem State.vacate_spec (s : State) (id : Nat) (rs : List Nat) : (s.vacate id rs).hub = s.hub ∧ (s.vacate id rs).mem = s.mem ∧
    (s.vacate id rs).dies = s.dies ∧ (∀ r, (s.vacate id rs).region r = if r ∈ rs then (s.region r).vacated id else s.region r) := by
  unfold State.vacate
  refine ⟨?_, ?_, ?_, fun r => ?_⟩
  · rw [State.modRegions_rest]; rfl
  · rw [State.modRegions_rest]; rfl
  · rw [State.modRegions_rest]; rfl
  · exact State.region_modRegions _ r (fun R => R.vacated id) rs fun R => R.vacated_vacated id

theorem State.finish_placement (s : State) (id : Nat) (l : Launch) (cause sub : Byte) (place dropped cycles : Nat) :
    (s.finish id l cause sub place dropped cycles).placement? id = none := Map.get?_del_same ..

section
variable {s : State} {id : Nat} {p : Placement} {l : Launch}

theorem placementComplete_completes (hp : s.placement? id = some p) (hl : s.launch? id = some l) (hst : l.st = .placed)
    (hstop : ∀ r ∈ p.regions, (s.region r).stop = true) (hhalt : (s.core p.origin).halted = true) (hjoin : s.joined id p.regions = true)
    (hfaulty : s.faulty p.regions = []) (hcut : s.cutFrom p.regions = false) :
    ∃ t c, exec (.placementComplete id) s = .next t ∧ t.mem = s.mem ∧ t.placement? id = none ∧
      (∀ r ∈ p.regions, (t.region r).launch = none) ∧ t.hub.completions = s.hub.completions ++ [c] ∧ c.id = id ∧ c.cause = 0 ∧ c.sub = 0 ∧
      c.addr = l.rec_.record.toNat ∧ c.cycles = s.cyc - p.start ∧ c.l = (s.die 8).l := by
  have hended : p.regions.all (fun r => (s.region r).stop || !(s.faulty [r]).isEmpty || s.cutFrom [r]) = true :=
    List.all_eq_true.mpr fun r hr => by rw [hstop r hr]; rfl
  have hcause : s.endCause p.regions = (0, 0) := by
    rw [State.endCause, hfaulty, hcut]; rfl
  let left := ((s.chans.filter (fun e => sinkIn p.regions id e.1)).map (fun e => e.2.held)).sum
  let s1 : State := { s with kv := s.kv.filter (fun h => h.stage.all (fun (p : Nat × Nat) => p.1 ≠ id)) }
  have hexec : exec (.placementComplete id) s = .next ((s1.vacate id p.regions).finish id l 0 0 0 (left + p.dropped) (s.cyc - p.start)) := by
    show execPlacementComplete id s = _
    rw [execPlacementComplete, hp, hl]
    dsimp only
    rw [hended, hhalt, hjoin, hcause, decide_eq_true hst]
    rfl
  obtain ⟨hhub, hmem, hdies, hregion⟩ := s1.vacate_spec id p.regions
  have hplacement := (s1.vacate id p.regions).finish_placement id l 0 0 0 (left + p.dropped) (s.cyc - p.start)
  obtain ⟨fmem, fregions, -, -, fcompletions⟩ := (s1.vacate id p.regions).finish_spec id l 0 0 0 (left + p.dropped) (s.cyc - p.start)
  refine ⟨_, _, hexec, fmem.trans hmem, hplacement, fun r hr => ?_, fcompletions.trans (by rw [hhub]), rfl, rfl, rfl, rfl, rfl, ?_⟩
  · rw [State.region, fregions]
    show ((s1.vacate id p.regions).region r).launch = none
    rw [hregion, if_pos hr]; rfl
  · show ((s1.vacate id p.regions).die 8).l = _
    rw [State.die, hdies]; rfl

end

/-! ## COMPLETION_RECORD_WRITE (R163, R350) -/

section
variable {m : Memory} (hw : m.wf = true)
include hw

theorem Memory.byte_putWords_other (a : Nat) (ws : List Word) {b : Nat} (h : b < a ∨ a + 8 * ws.length ≤ b) :
    (m.putWords a ws).byte b = m.byte b := by
  induction ws generalizing m a with
  | nil => rfl
  | cons w ws ih =>
    rw [List.length_cons] at h
    exact (ih (Memory.wf_store hw _ _ _ _) (a + 8) (by omega)).trans (Memory.byte_store_other hw _ _ (by omega))

/-- Successive words stored at an aligned address are read back. -/
theorem Memory.word_putWords {a : Nat} (ha : a % 8 = 0) (ws : List Word) {k : Nat} (hk : k < ws.length) :
    (m.putWords a ws).word (a + 8 * k) = ws[k] := by
  induction ws generalizing m a k with
  | nil => exact absurd hk (Nat.not_lt_zero k)
  | cons w ws ih =>
    have hwf := Memory.wf_store hw a 8 w false
    cases k with
    | zero =>
      show ((m.store a 8 w false).putWords (a + 8) ws).word a = w
      rw [Memory.word_congr (m' := m.store a 8 w false) fun b h1 h2 => Memory.byte_putWords_other hwf _ _ (by omega), Memory.word_store hw]
    | succ k =>
      have h := ih hwf (a := a + 8) (by omega) (k := k) (by simpa using hk)
      rw [show a + 8 * (k + 1) = a + 8 + 8 * k by omega]
      exact h

end

theorem Memory.word_poisonWords (m : Memory) (a : Nat) (p : Bool) (n c : Nat) : (m.poisonWords a p n).word c = m.word c :=
  Memory.word_congr fun _ _ _ => Memory.byte_poisonWords ..


/-! PROOFS. The completion record is written (R163, R350, R383; O46). -/

theorem Memory.poisoned_putWords_other {m : Memory} (hw : m.wf = true) (a : Nat) (ws : List Word) {b : Nat}
    (h : b / 8 < a / 8 ∨ a / 8 + ws.length ≤ b / 8) : (m.putWords a ws).poisoned b = m.poisoned b := by
  induction ws generalizing m a with
  | nil => rfl
  | cons w ws ih =>
    rw [List.length_cons] at h
    refine (ih (Memory.wf_store hw _ _ _ _) (a + 8) (by omega)).trans ?_
    rw [Memory.poisoned_store hw, if_neg (by omega)]

/-- The first word of a record: valid, with subcode and cause. -/
theorem record_head (sub cause : Byte) :
    (0x8000000000000000 ||| BitVec.ofNat 64 (sub.toNat * 256 + cause.toNat) : Word) = toWord (2 ^ 63 + 256 * sub.toNat + cause.toNat) := by
  have hs := sub.isLt
  have hc := cause.isLt
  have hlt : sub.toNat * 256 + cause.toNat < 2 ^ 63 := by omega
  have hor := Nat.two_pow_add_eq_or_of_lt hlt 1
  have hint : (2 ^ 63 + 256 * sub.toNat + cause.toNat : Int) = ((2 ^ 63 + (sub.toNat * 256 + cause.toNat) : Nat) : Int) := by push_cast; ring
  rw [toWord, hint, BitVec.ofInt_natCast]
  apply BitVec.eq_of_toNat_eq
  rw [BitVec.toNat_or, BitVec.toNat_ofNat, BitVec.toNat_ofNat, Nat.mod_eq_of_lt (by omega), Nat.mod_eq_of_lt (by omega)]
  rw [Nat.mul_one] at hor
  exact hor.symm

section
variable {s : State} {id : Nat} {c : Completion}

/-- The record as it stands in memory, its payload poisoned where a link spoiled it. -/
def State.recordMem (s : State) (c : Completion) : Memory :=
  (s.mem.putWords c.addr c.words).poisonWords c.addr (s.carried 8 c.addr false).1 8

/-- The hub that remembers a launch and drops its completion. -/
def Hub.recorded (h : Hub) (id : Nat) : Hub := { (h.remember id) with completions := h.completions.filter (fun c => c.id ≠ id) }

theorem exec_completionRecordWrite (hc : s.hub.completions.find? (fun c => c.id = id) = some c)
    (hok : recordAddrOk (BitVec.ofNat 64 c.addr) = true) : exec (.completionRecordWrite id) s = .next (
      let t := State.countPkg { s with freeCtr := s.freeAfter 8 c.addr, mem := s.recordMem c, hub := s.hub.recorded id } 0xC05 1
      if c.cause = cREJECT then t.countPkg 0xC06 1 else t) := by
  have hcarried : s.carried 8 c.addr false = ((s.carried 8 c.addr false).1, { s with freeCtr := s.freeAfter 8 c.addr }) := by
    rw [State.carried_eq]
  show execCompletionRecordWrite id s = _
  rw [execCompletionRecordWrite, hc]
  dsimp only
  rw [hcarried, if_pos hok]
  rfl

theorem Hub.recorded_id (h : Hub) (id : Nat) : id ∈ (h.recorded id).doneIds ∧ (h.recorded id).launches.get? id = none :=
  ⟨List.mem_cons_self, Map.get?_del_same ..⟩

theorem completionRecordWrite_writes (hw : s.mem.wf = true) (hc : s.hub.completions.find? (fun c => c.id = id) = some c)
    (hok : recordAddrOk (BitVec.ofNat 64 c.addr) = true) (hlt : c.addr < 2 ^ 64) :
    ∃ t, exec (.completionRecordWrite id) s = .next t ∧ sameBytesBut c.addr 64 s t ∧
      t.mem.word c.addr = toWord (2 ^ 63 + 256 * c.sub.toNat + c.cause.toNat) ∧ t.mem.word (c.addr + 8) = BitVec.ofNat 64 c.id ∧
      t.mem.word (c.addr + 16) = BitVec.ofNat 64 c.place ∧ t.mem.word (c.addr + 24) = BitVec.ofNat 64 c.dropped ∧
      t.mem.word (c.addr + 32) = BitVec.ofNat 64 c.l ∧ t.mem.word (c.addr + 40) = BitVec.ofNat 64 c.cycles ∧
      t.mem.word (c.addr + 48) = 0 ∧ id ∈ t.hub.doneIds ∧ t.launch? id = none := by
  have halign : c.addr % 64 = 0 := by
    rw [recordAddrOk, BitVec.toNat_ofNat, Nat.mod_eq_of_lt hlt, Bool.and_eq_true, decide_eq_true_eq] at hok
    exact hok.1
  obtain ⟨t, hexec, hmem, hdone, hlaunch⟩ : ∃ t : State, exec (.completionRecordWrite id) s = .next t ∧ t.mem = s.recordMem c ∧
      id ∈ t.hub.doneIds ∧ t.launch? id = none := by
    obtain ⟨hdone, hlaunch⟩ := s.hub.recorded_id id
    refine ⟨_, exec_completionRecordWrite hc hok, ?_⟩
    dsimp only
    split <;> exact ⟨rfl, hdone, hlaunch⟩
  have hlen : c.words.length = 8 := rfl
  have hword : ∀ k (hk : k < 8), t.mem.word (c.addr + 8 * k) = c.words[k] := fun k hk => by
    rw [hmem, State.recordMem, Memory.word_poisonWords, Memory.word_putWords hw (by omega) c.words hk]
  refine ⟨t, hexec, fun b => ⟨fun hb => ?_, fun hb => ?_⟩, (hword 0 (by decide)).trans (record_head ..), hword 1 (by decide),
    hword 2 (by decide), hword 3 (by decide), hword 4 (by decide), hword 5 (by decide), hword 6 (by decide),
    hdone, hlaunch⟩
  · rw [hmem, State.recordMem, Memory.byte_poisonWords, Memory.byte_putWords_other hw _ _ (by rw [hlen]; omega)]
  · rw [hmem, State.recordMem, Memory.poisoned_poisonWords (Memory.wf_putWords hw _ _), if_neg (by omega),
      Memory.poisoned_putWords_other hw _ _ (by rw [hlen]; omega)]

end

theorem placementsEnd : Says.PlacementsEnd :=
  ⟨fun r s id p hl hp hstop hf hidle => phaseEnd_ends hl hp hstop hf hidle, updatedRp_bit,
    fun id s p l hp hl hst hstop hhalt hjoin hfaulty hcut => placementComplete_completes hp hl hst hstop hhalt hjoin hfaulty hcut,
    fun id s c hw hc hok hlt => completionRecordWrite_writes hw hc hok hlt⟩


/-! PROOFS. The scheduler's decisions about queued launches (R130-R132; O46). -/

/-! ## Queues -/

theorem Hub.unqueue_queue (h : Hub) (id p : Nat) : (h.unqueue id).queues.get p [] = (h.queues.get p []).filter (fun x => x ≠ id) := by
  show Map.get (h.queues.map (fun e => (e.1, e.2.filter (fun x => x ≠ id)))) p [] = _
  rw [Map.get_eq_get?, Map.get?_map h.queues (fun _ q => q.filter (fun x => x ≠ id)), Map.get_eq_get? h.queues]
  cases Map.get? h.queues p <;> rfl

theorem Hub.waiting_congr {h k : Hub} (hq : k.queues = h.queues) : k.waiting = h.waiting := by
  unfold Hub.waiting
  rw [hq]

theorem Hub.unqueue_waiting (h : Hub) (id : Nat) : (h.unqueue id).waiting = h.waiting.filter (fun x => x ≠ id) := by
  unfold Hub.waiting
  rw [List.filter_flatMap]
  exact List.flatMap_congr fun p _ => h.unqueue_queue id p

theorem not_mem_waiting_unqueue (h : Hub) (id : Nat) : id ∉ (h.unqueue id).waiting := by
  rw [Hub.unqueue_waiting]
  exact fun hmem => absurd rfl (of_decide_eq_true (List.mem_filter.mp hmem).2)

theorem State.finish_hub (s : State) (id : Nat) (l : Launch) (cause sub : Byte) (place dropped cycles : Nat) :
    (s.finish id l cause sub place dropped cycles).hub.waiting = s.hub.waiting.filter (fun x => x ≠ id) ∧
    (s.hub.preempting = none → (s.finish id l cause sub place dropped cycles).hub.preempting = none) ∧
    (s.finish id l cause sub place dropped cycles).dies = s.dies := by
  have hqueues : (s.finish id l cause sub place dropped cycles).hub.queues = (s.hub.unqueue id).queues := by
    unfold State.finish State.unseat State.dropParked State.countPkg State.setLaunch State.modHub
    rfl
  have hdies : (s.finish id l cause sub place dropped cycles).dies = s.dies := by
    unfold State.finish State.unseat State.dropParked State.countPkg State.setLaunch State.modHub
    rfl
  refine ⟨?_, fun h => ?_, hdies⟩
  · rw [Hub.waiting_congr hqueues, Hub.unqueue_waiting]
  · unfold State.finish State.unseat State.dropParked State.countPkg State.setLaunch State.modHub
    show (if s.hub.preempting.any (fun p => p.1 = id) then none else s.hub.preempting) = none
    rw [h, ite_self]

/-! ## Launches refreshed (R130, R132) -/

/-- A state that differs in what the scheduler knows of its launches alone. -/
def State.LaunchesOnly (s t : State) : Prop := ∃ ls, t = { s with hub := { s.hub with launches := ls } }

/-- A launch with its dependences and its readiness as the scheduler sees them now. -/
def State.refreshed (s : State) (l : Launch) : Launch :=
  { l with
    deps := l.deps.map s.refreshDep
    readySince := if l.prio = 0 && s.launchReady { l with deps := l.deps.map s.refreshDep } then some (l.readySince.getD s.cyc) else none }

theorem State.launchesOnly_refresh (s : State) : s.LaunchesOnly s.refreshLaunches := ⟨_, rfl⟩

theorem State.launch_refreshLaunches {s : State} {id : Nat} {l : Launch} (hl : s.launch? id = some l) (hst : l.st = .queued) :
    s.refreshLaunches.launch? id = some (s.refreshed l) := by
  have hmap : s.refreshLaunches.hub.launches =
      s.hub.launches.map (fun e => (e.1, if e.2.st = .queued || e.2.st = .swapped then s.refreshed e.2 else e.2)) := by
    refine List.map_congr_left fun e _ => ?_
    obtain ⟨i, l⟩ := e
    dsimp only
    split <;> rfl
  rw [State.launch?, hmap, Map.get?_map s.hub.launches (fun _ l => if l.st = .queued || l.st = .swapped then s.refreshed l else l)]
  rw [State.launch?] at hl
  rw [hl, Option.map_some, if_pos (by rw [hst]; rfl)]

/-- A launch with its dependences seen anew: what of it a decision rests on. -/
structure Launch.Like (l l' : Launch) : Prop where
  rec_ : l'.rec_ = l.rec_
  st : l'.st = l.st
  checked : l'.checked = l.checked
  owed : l'.region = l.region ∧ l'.needStores = l.needStores ∧ l'.needCmds = l.needCmds
  broken : l'.broken = l.broken
  met : (∀ d ∈ l.deps, d.met = true) → ∀ d ∈ l'.deps, d.met = true

theorem Launch.Like.trans {l l' l'' : Launch} (h : l.Like l') (k : l'.Like l'') : l.Like l'' := by
  obtain ⟨h1, h2, h3⟩ := h.owed
  obtain ⟨k1, k2, k3⟩ := k.owed
  exact ⟨k.rec_.trans h.rec_, k.st.trans h.st, k.checked.trans h.checked, ⟨k1.trans h1, k2.trans h2, k3.trans h3⟩, k.broken.trans h.broken,
    fun hm => k.met (h.met hm)⟩

theorem State.refreshed_like (s : State) (l : Launch) : l.Like (s.refreshed l) := by
  refine ⟨rfl, rfl, rfl, ⟨rfl, rfl, rfl⟩, ?_, fun hm d hd => ?_⟩
  · have hdeps : (l.deps.map s.refreshDep).any (fun d => depKind d.word = 3 || (depKind d.word = 2 && d.bound.isNone)) =
        l.deps.any (fun d => depKind d.word = 3 || (depKind d.word = 2 && d.bound.isNone)) := by
      rw [List.any_map]; rfl
    rw [Launch.broken, Launch.broken]
    exact congrArg (fun b => (_ || b)) hdeps
  · obtain ⟨e, he, rfl⟩ := List.mem_map.mp hd
    show (e.met || _) = true
    rw [hm e he, Bool.true_or]

section
variable {s t : State} (h : s.LaunchesOnly t)
include h

theorem State.LaunchesOnly.trans {w : State} (k : t.LaunchesOnly w) : s.LaunchesOnly w := by
  obtain ⟨_, rfl⟩ := h
  obtain ⟨_, rfl⟩ := k
  exact ⟨_, rfl⟩

theorem State.LaunchesOnly.hub : t.hub.waiting = s.hub.waiting ∧ t.hub.preempting = s.hub.preempting ∧
    t.hub.completions = s.hub.completions := by
  obtain ⟨_, rfl⟩ := h
  exact ⟨rfl, rfl, rfl⟩

theorem State.LaunchesOnly.mem : t.mem = s.mem := by
  obtain ⟨_, rfl⟩ := h
  rfl

theorem State.LaunchesOnly.dies : t.dies = s.dies := by
  obtain ⟨_, rfl⟩ := h
  rfl

theorem State.LaunchesOnly.canRecord (a : Word) : t.canRecord a = s.canRecord a := by
  obtain ⟨_, rfl⟩ := h
  rfl

theorem State.LaunchesOnly.imageFor {l l' : Launch} (k : l.Like l') : t.imageFor l' = s.imageFor l := by
  obtain ⟨_, rfl⟩ := h
  unfold State.imageFor
  rw [k.rec_]
  rfl

theorem State.LaunchesOnly.ready {l l' : Launch} (k : l.Like l') (hm : ∀ d ∈ l.deps, d.met = true) (hf : s.launchFree l = true) :
    t.launchReady l' = true := by
  have hfree : t.launchFree l' = s.launchFree l := by
    obtain ⟨_, rfl⟩ := h
    obtain ⟨h1, h2, h3⟩ := k.owed
    unfold State.launchFree
    rw [h1, h2, h3]
    rfl
  rw [State.launchReady, hfree, hf, Bool.and_true, List.all_eq_true]
  exact k.met hm

end

theorem exec_scheduleDecision (s : State) : exec .scheduleDecision s = .next (
    match ((s.hub.waiting.foldl State.consider s.refreshLaunches).refreshLaunches).afterPreempt with
    | some w => State.modHub (((s.hub.waiting.foldl State.consider s.refreshLaunches).refreshLaunches).placeFirst
        (w :: ((s.hub.waiting.foldl State.consider s.refreshLaunches).refreshLaunches).hub.waiting)) (fun h => { h with preempting := none })
    | none => ((s.hub.waiting.foldl State.consider s.refreshLaunches).refreshLaunches).placeFirst
        ((s.hub.waiting.foldl State.consider s.refreshLaunches).refreshLaunches).hub.waiting) := by
  show execScheduleDecision s = _
  rw [execScheduleDecision]
  cases ((s.hub.waiting.foldl State.consider s.refreshLaunches).refreshLaunches).afterPreempt <;> rfl

theorem State.afterPreempt_none {s : State} (h : s.hub.preempting = none) : s.afterPreempt = none := by
  rw [State.afterPreempt, h]

/-- With one launch in the queues and no pre-emption in hand, a decision considers it and then places what waits. -/
theorem exec_scheduleDecision_one {s : State} {id : Nat} (hw : s.hub.waiting = [id])
    (hp : ((s.refreshLaunches.consider id).refreshLaunches).hub.preempting = none) : exec .scheduleDecision s = .next (
      ((s.refreshLaunches.consider id).refreshLaunches).placeFirst ((s.refreshLaunches.consider id).refreshLaunches).hub.waiting) := by
  rw [exec_scheduleDecision, hw]
  show Host.Outcome.next (match ((s.refreshLaunches.consider id).refreshLaunches).afterPreempt with | some w => _ | none => _) = _
  rw [State.afterPreempt_none hp]
  rfl

/-- A decision that completes the only launch in the queues: its completion record, and nothing more. -/
theorem scheduleDecision_finishes {s : State} {id : Nat} {l l' : Launch} {sub : Byte} (hw : s.hub.waiting = [id])
    (hp : s.hub.preempting = none) (hlike : l.Like l')
    (hc : s.refreshLaunches.consider id = s.refreshLaunches.finish id l' cREJECT sub 0 0 0) :
    ∃ t c, exec .scheduleDecision s = .next t ∧ sameBytes s t ∧ t.hub.completions = s.hub.completions ++ [c] ∧ c.id = id ∧
      c.cause = 0x0C ∧ c.sub = sub ∧ c.place = 0 ∧ c.addr = l.rec_.record.toNat ∧ c.l = (s.die 8).l ∧ id ∉ t.hub.waiting := by
  have hrefresh := s.launchesOnly_refresh
  obtain ⟨rwaiting, rpreempting, rcompletions⟩ := hrefresh.hub
  obtain ⟨fwaiting, fpreempting, fdies⟩ := s.refreshLaunches.finish_hub id l' cREJECT sub 0 0 0
  obtain ⟨fmem, -, -, -, fcompletions⟩ := s.refreshLaunches.finish_spec id l' cREJECT sub 0 0 0
  rw [rwaiting, hw] at fwaiting
  have hempty : [id].filter (fun x => decide (x ≠ id)) = [] := by simp
  rw [hempty] at fwaiting
  have fnone := fpreempting (rpreempting.trans hp)
  generalize hf : s.refreshLaunches.finish id l' cREJECT sub 0 0 0 = f at hc fwaiting fnone fdies fmem fcompletions
  obtain ⟨twaiting, tpreempting, tcompletions⟩ := f.launchesOnly_refresh.hub
  have hexec := exec_scheduleDecision_one hw (by rw [hc, tpreempting]; exact fnone)
  rw [hc, twaiting, fwaiting] at hexec
  refine ⟨f.refreshLaunches, _, hexec, fun a => ?_, tcompletions.trans (fcompletions.trans (by rw [rcompletions])), rfl, rfl, rfl, rfl, ?_, ?_, ?_⟩
  · rw [f.launchesOnly_refresh.mem, fmem, hrefresh.mem]; exact ⟨rfl, rfl⟩
  · rw [hlike.rec_]
  · show (s.refreshLaunches.die 8).l = _
    rw [State.die, hrefresh.dies]; rfl
  · rw [twaiting, fwaiting]; exact List.not_mem_nil

section
variable {s : State} {id : Nat} {l : Launch} (hw : s.hub.waiting = [id]) (hp : s.hub.preempting = none) (hl : s.launch? id = some l)
  (hst : l.st = .queued) (hchecked : l.checked = false) (hrec : s.canRecord l.rec_.record = true)
include hw hp hl hst hchecked hrec

/-- A broken record completes at once (R130). -/
theorem broken_completes (hbroken : l.broken = true) : ∃ t c, exec .scheduleDecision s = .next t ∧ sameBytes s t ∧
    t.hub.completions = s.hub.completions ++ [c] ∧ c.id = id ∧
    c.cause = 0x0C ∧ c.sub = 0x06 ∧ c.place = 0 ∧ c.addr = l.rec_.record.toNat ∧ c.l = (s.die 8).l ∧ id ∉ t.hub.waiting := by
  have hlike := s.refreshed_like l
  refine scheduleDecision_finishes hw hp hlike ?_
  have hcan : s.refreshLaunches.canRecord (s.refreshed l).rec_.record = true := by
    rw [s.launchesOnly_refresh.canRecord, hlike.rec_]; exact hrec
  rw [State.consider, State.launch_refreshLaunches hl hst]
  dsimp only
  rw [hlike.checked, hlike.st, hlike.broken, hchecked, hst, hbroken, hcan]
  rfl

/-- A ready launch whose image cannot be read completes with subcode 0x07 (R75). -/
theorem unreadable_completes (hbroken : l.broken = false) (hmet : ∀ d ∈ l.deps, d.met = true) (hfree : s.launchFree l = true)
    (himage : s.imageFor l = none) : ∃ t c, exec .scheduleDecision s = .next t ∧ sameBytes s t ∧
    t.hub.completions = s.hub.completions ++ [c] ∧ c.id = id ∧
    c.cause = 0x0C ∧ c.sub = 0x07 ∧ c.place = 0 ∧ c.addr = l.rec_.record.toNat ∧ c.l = (s.die 8).l ∧ id ∉ t.hub.waiting := by
  have hlike := s.refreshed_like l
  refine scheduleDecision_finishes hw hp hlike ?_
  have hcan : s.refreshLaunches.canRecord (s.refreshed l).rec_.record = true := by
    rw [s.launchesOnly_refresh.canRecord, hlike.rec_]; exact hrec
  have hready := s.launchesOnly_refresh.ready hlike hmet hfree
  have hnone := (s.launchesOnly_refresh.imageFor hlike).trans himage
  rw [State.consider, State.launch_refreshLaunches hl hst]
  dsimp only
  rw [hlike.checked, hlike.st, hlike.broken, hchecked, hst, hbroken, hcan, hready, hnone]
  rfl

end

theorem State.imageFor_readable (s : State) (l : Launch) (h : s.imageFor l ≠ none) : l.rec_.image.toNat % 64 = 0 ∧
    isDram l.rec_.image.toNat = true ∧ s.routeDown 8 l.rec_.image.toNat = false := by
  by_contra hno
  refine h ?_
  rw [State.imageFor]
  refine if_neg fun hc => hno ?_
  rw [Bool.and_eq_true, Bool.and_eq_true, Bool.and_eq_true, decide_eq_true_eq, State.hubReaches, Bool.not_eq_true'] at hc
  exact hc.1.imp_left And.left |>.elim fun hab hr => ⟨hab, (hc.1.1.2), hr⟩

theorem State.canRecord_iff (s : State) (a : Word) : s.canRecord a = true ↔
    a.toNat % 64 = 0 ∧ isDram a.toNat = true ∧ s.routeDown 8 a.toNat = false := by
  rw [State.canRecord, recordAddrOk, State.hubReaches, Bool.and_eq_true, Bool.and_eq_true, decide_eq_true_eq, Bool.not_eq_true', and_assoc]

/-! ## AGELIM_PROMOTION (R132) -/

/-- A launch promoted by one priority at a cycle. -/
def Launch.promoted (l : Launch) (cyc : Nat) : Launch := { l with prio := l.prio - 1, since := cyc }

theorem agelim_promotes {s : State} {id : Nat} {l : Launch} (hl : s.launch? id = some l) (hst : l.st = .queued ∨ l.st = .swapped)
    (h0 : 0 < l.prio) (hage : l.since + s.hub.agelim.toNat ≤ s.cyc) (hroom : (s.hub.queues.get (l.prio - 1) []).length < 64) :
    ∃ t, exec (.agelimPromotion id) s = .next t ∧ sameBytes s t ∧ t.launch? id = some { l with prio := l.prio - 1, since := s.cyc } ∧
      (t.hub.queues.get (l.prio - 1) []).getLast? = some id ∧ (∀ n, n ≠ l.prio - 1 → id ∉ t.hub.queues.get n []) := by
  have hexec : exec (.agelimPromotion id) s = .next ((s.setLaunch id (l.promoted s.cyc)).modHub (fun h =>
      { (h.unqueue id) with queues := (h.unqueue id).queues.set (l.prio - 1) ((h.unqueue id).queues.get (l.prio - 1) [] ++ [id]) })) := by
    show execAgelimPromotion id s = _
    rw [execAgelimPromotion, hl]
    refine if_pos ?_
    rw [decide_eq_true h0, decide_eq_true hage, decide_eq_true hroom]
    rcases hst with h | h <;> rw [h] <;> rfl
  refine ⟨_, hexec, fun a => ⟨rfl, rfl⟩, Map.get?_set_same .., ?_, fun n hn => ?_⟩
  · show (Map.get (Map.set ((s.setLaunch id (l.promoted s.cyc)).hub.unqueue id).queues _ _) _ _).getLast? = _
    rw [Map.get_set_same]
    exact List.getLast?_concat ..
  · show id ∉ Map.get (Map.set ((s.setLaunch id (l.promoted s.cyc)).hub.unqueue id).queues _ _) _ _
    rw [Map.get_set_other _ hn]
    exact not_mem_unqueue _ id n

/-! ## PREEMPTION (R132) -/

theorem State.victim_mem {s : State} {es : List (Nat × Placement)} {v : Nat × Placement} (h : s.victim es = some v) : v ∈ es := by
  induction es generalizing v with
  | nil => exact nomatch h
  | cons e es ih =>
    rw [State.victim] at h
    cases hv : s.victim es with
    | none =>
      rw [hv] at h
      injection h with h
      exact h ▸ List.mem_cons_self
    | some f =>
      rw [hv] at h
      injection h with h
      rw [← h, State.betterVictim]
      dsimp only
      split
      · exact List.mem_cons_of_mem _ (ih hv)
      · exact List.mem_cons_self

theorem State.victim_isSome {s : State} {es : List (Nat × Placement)} (h : es ≠ []) : s.victim es ≠ none := by
  cases es with
  | nil => exact absurd rfl h
  | cons e es =>
    rw [State.victim]
    cases s.victim es <;> exact Option.some_ne_none _

theorem State.preemptChoice_serves {s : State} {w v : Nat} {p : Placement} (h : s.preemptChoice = some (w, v, p)) :
    ∃ lw, (w, lw) ∈ s.impatient ∧ (v, p) ∈ s.hub.placements ∧ s.mayFall w lw (v, p) = true := by
  obtain ⟨e, he, hf⟩ := List.exists_of_findSome?_eq_some h
  obtain ⟨w', lw⟩ := e
  obtain ⟨e, hv, heq⟩ := Option.map_eq_some_iff.mp hf
  injection heq with hw hvp
  subst hw hvp
  have hmem := List.mem_filter.mp (State.victim_mem hv)
  exact ⟨lw, he, hmem.1, hmem.2⟩

theorem State.preemptChoice_found {s : State} {w : Nat} {lw : Launch} {e : Nat × Placement} (hw : (w, lw) ∈ s.impatient)
    (he : e ∈ s.hub.placements) (hfall : s.mayFall w lw e = true) : s.preemptChoice ≠ none := fun hnone => by
  have h := List.findSome?_eq_none_iff.mp hnone (w, lw) hw
  exact State.victim_isSome (List.ne_nil_of_mem (List.mem_filter.mpr ⟨he, hfall⟩)) (Option.map_eq_none_iff.mp h)

/-- The regions of a victim frozen by the hub, one after another. -/
def State.freezeVictim (s : State) (rs : List Nat) : State := rs.foldl (fun s r => s.beginFreeze r ((s.region r).faultArea.getD (hubArea r)) 1) s

/-- A region's freeze that has only begun. -/
def Region.freezing (R : Region) : Prop := ∃ f, R.frozen = some f ∧ f.read = false

theorem Region.freezing_begin {R : Region} (h : R.frozen = none ∨ R.freezing) (a : Nat) (held : Bool) :
    (FreezeSt.begin_ R.frozen a 1 held).read = false := by
  rcases h with h | ⟨f, h, hread⟩
  · rw [h]; rfl
  · rw [h, FreezeSt.begin_, if_neg (by decide)]
    split
    · rfl
    · rw [hread, Bool.false_and, if_neg (by decide)]
      exact hread

theorem State.freezeVictim_spec (rs : List Nat) (s : State) : (s.freezeVictim rs).hub = s.hub ∧ (s.freezeVictim rs).mem = s.mem ∧
    ∀ r, ((s.region r).frozen = none ∨ (s.region r).freezing) → (r ∈ rs ∨ (s.region r).freezing) → ((s.freezeVictim rs).region r).freezing := by
  induction rs generalizing s with
  | nil => exact ⟨rfl, rfl, fun r _ h => h.resolve_left List.not_mem_nil⟩
  | cons q rs ih =>
    obtain ⟨hhub, hmem, hfreeze⟩ := ih (s.beginFreeze q ((s.region q).faultArea.getD (hubArea q)) 1)
    refine ⟨hhub, hmem, fun r h0 hr => ?_⟩
    by_cases hq : r = q
    · subst hq
      have hnow : ((s.beginFreeze r ((s.region r).faultArea.getD (hubArea r)) 1).region r).freezing := by
        rw [State.beginFreeze, State.region_modRegion_same]
        exact ⟨_, rfl, Region.freezing_begin h0 _ _⟩
      exact hfreeze r (.inr hnow) (.inr hnow)
    · have hsame : (s.beginFreeze q ((s.region q).faultArea.getD (hubArea q)) 1).region r = s.region r :=
        State.region_modRegion_other _ hq _
      refine hfreeze r (by rw [hsame]; exact h0) ?_
      rw [hsame]
      exact hr.imp_left fun h => (List.mem_cons.mp h).resolve_left hq

theorem preemption_chooses {s : State} {w v : Nat} {p : Placement} {l : Launch} (hp : s.hub.preempting = none)
    (hc : s.preemptChoice = some (w, v, p)) (hv : s.placement? v = some p) (hl : s.launch? v = some l)
    (hf : ∀ r ∈ p.regions, (s.region r).frozen = none) (hne : p.regions ≠ []) :
    ∃ t, exec .preemption s = .next t ∧ sameBytes s t ∧ t.hub.preempting = some (v, w) ∧
      (l.rec_.flags.getLsbD 1 = true → ∀ r ∈ p.regions, (t.region r).frozen.isSome = true) := by
  let s1 := s.modHub (fun h => { h with preempting := some (v, w) })
  have hexec : exec .preemption s = .next (if l.rec_.flags.getLsbD 1 then (s1.freezeVictim p.regions).finishPreempt else s1) := by
    show execPreemption s = _
    rw [execPreemption, hp, hc]
    dsimp only
    rw [hl]
    rfl
  obtain ⟨hhub, hmem, hfreeze⟩ := State.freezeVictim_spec p.regions s1
  have hfrozen : ∀ r ∈ p.regions, ((s1.freezeVictim p.regions).region r).freezing := fun r hr => hfreeze r (.inl (hf r hr)) (.inl hr)
  have hfinish : (s1.freezeVictim p.regions).finishPreempt = s1.freezeVictim p.regions := by
    have hplacement : (s1.freezeVictim p.regions).placement? v = some p := by rw [State.placement?, hhub]; exact hv
    have hpreempting : (s1.freezeVictim p.regions).hub.preempting = some (v, w) := congrArg Hub.preempting hhub
    rw [State.finishPreempt, hpreempting]
    dsimp only
    rw [hplacement]
    refine if_neg fun hall => ?_
    obtain ⟨r, hr⟩ := List.exists_mem_of_ne_nil _ hne
    obtain ⟨f, hsome, hread⟩ := hfrozen r hr
    have h := List.all_eq_true.mp hall r hr
    rw [hsome, Option.any_some, hread] at h
    exact Bool.noConfusion h
  rw [hfinish] at hexec
  by_cases hflag : l.rec_.flags.getLsbD 1 = true
  · refine ⟨_, hexec.trans (congrArg _ (if_pos hflag)), fun a => ?_, congrArg Hub.preempting hhub, fun _ r hr => ?_⟩
    · rw [hmem]; exact ⟨rfl, rfl⟩
    · obtain ⟨f, hsome, -⟩ := hfrozen r hr
      rw [hsome]; rfl
  · exact ⟨s1, hexec.trans (congrArg _ (if_neg hflag)), fun a => ⟨rfl, rfl⟩, rfl, fun h => absurd h hflag⟩


/-! PROOFS. A launch takes its place (R118, R124, R125, R130; O46). -/

/-! ## What laying a configuration out leaves -/

/-- A state with the same regions, and the same placements but for their routes. -/
structure State.Lays (s t : State) : Prop where
  regions : t.regions = s.regions
  placement : ∀ id p, s.placement? id = some p → ∃ rs, t.placement? id = some { p with routes := rs }

theorem State.Lays.refl (s : State) : s.Lays s := ⟨rfl, fun _ p h => ⟨p.routes, h⟩⟩

theorem State.Lays.trans {s t w : State} (h : s.Lays t) (k : t.Lays w) : s.Lays w := by
  refine ⟨k.regions.trans h.regions, fun id p hp => ?_⟩
  obtain ⟨rs, hr⟩ := h.placement id p hp
  obtain ⟨qs, hq⟩ := k.placement id _ hr
  exact ⟨qs, hq⟩

theorem State.Lays.foldl {α : Type} {f : State → α → State} (hf : ∀ (s : State) x, s.Lays (f s x)) (l : List α) (s : State) :
    s.Lays (l.foldl f s) := by
  induction l generalizing s with
  | nil => exact .refl s
  | cons x l ih => exact (hf s x).trans (ih _)

theorem State.Lays.of_eq {s t : State} (hr : t.regions = s.regions) (hh : t.hub = s.hub) : s.Lays t :=
  ⟨hr, fun id p hp => ⟨p.routes, by rw [State.placement?, hh]; exact hp⟩⟩

theorem State.lays_openCtx (s : State) (id l : Nat) (dir : Bool) (lo n target : Nat) : s.Lays (s.openCtx id l dir lo n target).2 := by
  rw [State.openCtx]
  split
  · exact .of_eq rfl rfl
  · exact .refl s

theorem State.lays_openHops (id : Nat) (u : UnitId) (i : Nat) (ls : List (Nat × Bool)) (s : State) : s.Lays (s.openHops id u i ls).2 := by
  induction ls generalizing s with
  | nil => exact .refl s
  | cons e ls ih => exact (s.lays_openCtx id e.1 e.2 0 128 (ctxTarget u i)).trans (ih _)

/-- A route added to a launch's placement. -/
def State.routed (s : State) (id : Nat) (t : Route) : State :=
  s.modHub (fun h => { h with placements := h.placements.map (fun e =>
    if e.1 = id then (e.1, { e.2 with routes := e.2.routes ++ [t] }) else e) })

theorem State.lays_routed (s : State) (id : Nat) (t : Route) : s.Lays (s.routed id t) := by
  refine ⟨rfl, fun n p hp => ?_⟩
  have hmap : (s.routed id t).hub.placements =
      s.hub.placements.map (fun e => (e.1, if e.1 = id then { e.2 with routes := e.2.routes ++ [t] } else e.2)) := by
    refine List.map_congr_left fun e _ => ?_
    split <;> rfl
  rw [State.placement?, hmap, Map.get?_map s.hub.placements (fun n p => if n = id then { p with routes := p.routes ++ [t] } else p)]
  rw [State.placement?] at hp
  rw [hp, Option.map_some]
  split
  · exact ⟨_, rfl⟩
  · exact ⟨p.routes, rfl⟩

theorem State.lays_addRoute (s : State) (id : Nat) (b : Branch) : s.Lays (s.addRoute id b).2 :=
  (State.lays_openHops id b.2.1 b.2.2 (branchLinks b.1.1 b.2.1) s).trans (State.lays_routed _ id _)

theorem State.lays_layBranch (s : State) (id : Nat) (b : Branch) : s.Lays (s.layBranch id b) := by
  rw [State.layBranch]
  have h := s.lays_addRoute id b
  split
  next t s1 heq =>
    rw [heq] at h
    split
    · exact h
    · exact h.trans (.of_eq rfl rfl)

theorem State.lays_layRings (c : CellId) (dataP : Nat) (gs : List ImgRing) (off : Nat) (s : State) : s.Lays (s.layRings c dataP off gs) := by
  induction gs generalizing off s with
  | nil => exact .refl s
  | cons g gs ih =>
    rw [State.layRings]
    refine .trans ?_ (ih _ _)
    split
    · exact .of_eq rfl rfl
    · exact .of_eq rfl rfl

theorem State.lays_layCells (s : State) (m : Image) (o r : Nat) : s.Lays (s.layCells m o r) :=
  .foldl (fun s _ => State.lays_layRings _ _ _ _ s) _ s

theorem State.lays_layPipe (s : State) (id o : Nat) (e : ImgEnd × Nat × Bool) : s.Lays (s.layPipe id o e) := .of_eq rfl rfl

theorem State.lays_layStart (s : State) (o : Nat) (e : ImgEnd) : s.Lays (s.layStart o e) := .of_eq rfl rfl

theorem State.lays_layPair (s : State) (id o : Nat) (q : ImgPair) : s.Lays (s.layPair id o q) := by
  rw [State.layPair]
  split
  · exact .refl s
  · exact (s.lays_openCtx ..).trans (.of_eq rfl rfl)

/-! ## Regions loaded -/

/-- A region as its placement wants it: bound to its launch, in phase 0, and at the origin with the core at the entry. -/
def Region.placedAs (R : Region) (id : Nat) (tag : Byte) (entry : Word) (o r : Nat) : Prop :=
  R.launch = some id ∧ R.phase = 0 ∧ R.tag = tag ∧ R.stop = false ∧ R.rp = 0 ∧ (r = o → R.core.pc = entry ∧ R.core.handler = false)

theorem Core.foldl_write_pc (ks : List Nat) (f : Nat → BitVec 5) (g : Nat → Word) (k : Core) :
    (ks.foldl (fun k i => k.write (f i) (g i) false) k).pc = k.pc ∧ (ks.foldl (fun k i => k.write (f i) (g i) false) k).handler = k.handler := by
  induction ks generalizing k with
  | nil => exact ⟨rfl, rfl⟩
  | cons i ks ih =>
    obtain ⟨hpc, hh⟩ := ih (k.write (f i) (g i) false)
    exact ⟨hpc.trans (by rw [Core.write_eq]), hh.trans (by rw [Core.write_eq])⟩

theorem loadCore_origin (m : Image) (R : Region) (r : Nat) (params : List Word) :
    (loadCore m R r true params).pc = m.entry ∧ (loadCore m R r true params).handler = false := by
  rw [loadCore, if_pos rfl]
  exact Core.foldl_write_pc ..

theorem loadRegion_placedAs (m : Image) (R : Region) (id o r : Nat) (base : Byte) (params : List Word) (devid : BitVec 18) :
    ({ loadRegion m R id o r base params with devid := devid } : Region).placedAs id (m.placedTag base 0) m.entry o r := by
  refine ⟨rfl, rfl, rfl, rfl, rfl, fun h => ?_⟩
  have hcore : ({ loadRegion m R id o r base params with devid := devid } : Region).core = loadCore m R r (decide (r = o)) params := rfl
  rw [hcore, decide_eq_true h]
  exact loadCore_origin m R r params

/-- Regions set one after another, each by its state of the moment. -/
def State.setRegions (f : State → Nat → Region → Region) (olds : List (Nat × Region)) (s : State) : State :=
  olds.foldl (fun t (e : Nat × Region) => t.setRegion e.1 (f t e.1 e.2)) s

/-- Each region set is one of those that were set for it. -/
theorem State.setRegions_region (f : State → Nat → Region → Region) (olds : List (Nat × Region)) (s : State) {r : Nat}
    (hr : (∃ R, (r, R) ∈ olds) ∨ ∃ t R, s.region r = f t r R) : ∃ t R, (s.setRegions f olds).region r = f t r R := by
  induction olds generalizing s with
  | nil => exact hr.elim (fun ⟨_, hR⟩ => absurd hR List.not_mem_nil) id
  | cons e olds ih =>
    refine ih (s.setRegion e.1 (f s e.1 e.2)) ?_
    by_cases he : r = e.1
    · exact .inr ⟨s, e.2, by rw [he]; exact Map.get_set_same ..⟩
    · rcases hr with ⟨R, hR⟩ | ⟨t, R, hR⟩
      · rcases List.mem_cons.mp hR with h | h
        · exact absurd (congrArg Prod.fst h) he
        · exact .inl ⟨R, h⟩
      · exact .inr ⟨t, R, (Map.get_set_other _ he _ _).trans hR⟩

/-! ## Placing (R118-R125) -/

/-- The placement of a launch that takes its place. -/
def placementOf (m : Image) (o : Nat) (base : Byte) (params : List Word) (rs : List Nat) (cyc : Nat) : Placement :=
  { img := m, origin := o, regions := rs, base := base, params := params, start := cyc }

theorem State.foldl_enterPhase (p : Placement) (o : Nat) (id : Nat) (rs qs : List Nat) (s : State)
    (h : ∀ r ∈ qs, (s.region r).placedAs id (p.img.placedTag p.base 0) p.img.entry o r) :
    (∀ r ∈ qs, ((rs.foldl (fun s r => s.enterPhase p r 0) s).region r).placedAs id (p.img.placedTag p.base 0) p.img.entry o r) ∧
    (rs.foldl (fun s r => s.enterPhase p r 0) s).hub = s.hub := by
  induction rs generalizing s with
  | nil => exact ⟨h, rfl⟩
  | cons q rs ih =>
    obtain ⟨hfeeds, -⟩ := s.enterPhase_spec p q 0
    obtain ⟨hregion, hhub⟩ := ih (s.enterPhase p q 0) fun r hr => by
      rw [hfeeds.region, State.region_modRegion]
      split
      · next hq =>
        obtain ⟨h1, -, -, h4, h5, h6⟩ := h r hr
        rw [hq] at h1 h4 h5 h6
        rw [hq]
        exact ⟨h1, rfl, rfl, h4, h5, h6⟩
      · exact h r hr
    exact ⟨hregion, hhub.trans hfeeds.hub⟩

/-- The launch's shapes as the loader leaves them at the start of the origin's region store. -/
def Memory.withShapes (mem : Memory) (m : Image) (o : Nat) (params : List Word) : Memory :=
  (List.range m.shapes.length).foldl (fun mm k =>
    (mm.writeBytes (rstoreBase o + 64 * k) (m.shapeBytes params k)).poisonWords (rstoreBase o + 64 * k) false 8) mem

/-- Everything of a configuration laid out, phases not yet entered. -/
def State.laidOut (s : State) (id o : Nat) (m : Image) (params : List Word) (rs : List Nat) : State :=
  let s := { s with mem := s.mem.withShapes m o params }
  let s := rs.foldl (fun s r => s.layCells m o r) s
  let s := (branchesAt m o).foldl (fun s b => s.layBranch id b) s
  let s := m.pipeEnds.foldl (fun s e => s.layPipe id o e) s
  let s := m.startEnds.foldl (fun s e => s.layStart o e) s
  m.pairs.foldl (fun s q => s.layPair id o q) s

theorem State.lays_laidOut (s : State) (id o : Nat) (m : Image) (params : List Word) (rs : List Nat) : s.Lays (s.laidOut id o m params rs) := by
  unfold State.laidOut
  dsimp only
  refine .trans ?_ (.foldl (fun s q => s.lays_layPair id o q) _ _)
  refine .trans ?_ (.foldl (fun s e => s.lays_layStart o e) _ _)
  refine .trans ?_ (.foldl (fun s e => s.lays_layPipe id o e) _ _)
  refine .trans ?_ (.foldl (fun s b => s.lays_layBranch id b) _ _)
  refine .trans ?_ (.foldl (fun s r => s.lays_layCells m o r) _ _)
  exact .of_eq rfl rfl

/-- The regions of a launch, ungated, before it takes its place. -/
def State.readied (s : State) (m : Image) (rs : List Nat) : State :=
  rs.foldl State.ungate (if m.pipes.start.isSome && s.hub.placements.all (fun e => e.2.img.pipes.start.isNone) then
    s.modHub (fun h => { h with parity := false }) else s)

/-- A region loaded under the device's DEVID of the moment. -/
def loadedRegion (m : Image) (id o : Nat) (base : Byte) (params : List Word) (t : State) (r : Nat) (R : Region) : Region :=
  { loadRegion m R id o r base params with devid := t.dev.devid }

/-- The regions of a launch as the loader leaves them, its placement recorded. -/
def State.seated (s : State) (id o : Nat) (m : Image) (base : Byte) (params : List Word) (rs : List Nat) (p : Placement) : State :=
  ((s.vacate id rs).setRegions (loadedRegion m id o base params) (rs.map (fun r => (r, s.region r)))).setPlacement id p

theorem State.placeAt_eq (s : State) (id o : Nat) (m : Image) (base : Byte) (params : List Word) (rs : List Nat) :
    s.placeAt id o m base params rs = rs.foldl (fun s r => s.enterPhase (placementOf m o base params rs s.cyc) r 0)
      (((s.readied m rs).seated id o m base params rs (placementOf m o base params rs s.cyc)).laidOut id o m params rs) := rfl

/-- What placing leaves: the regions as the launch wants them, and its placement. -/
theorem State.placeAt_spec (s : State) (id o : Nat) (m : Image) (base : Byte) (params : List Word) (rs : List Nat) :
    (∀ r ∈ rs, ((s.placeAt id o m base params rs).region r).placedAs id (m.placedTag base 0) m.entry o r) ∧
    ∃ p, (s.placeAt id o m base params rs).placement? id = some p ∧ p.origin = o ∧ p.regions = rs ∧ p.params = params := by
  have hlays := ((s.readied m rs).seated id o m base params rs (placementOf m o base params rs s.cyc)).lays_laidOut id o m params rs
  have hseated : ∀ r ∈ rs, (((s.readied m rs).seated id o m base params rs (placementOf m o base params rs s.cyc)).region r).placedAs id
      (m.placedTag base 0) m.entry o r := fun r hr => by
    obtain ⟨t, R, hR⟩ := ((s.readied m rs).vacate id rs).setRegions_region (loadedRegion m id o base params)
      (rs.map (fun r => (r, (s.readied m rs).region r))) (r := r) (.inl ⟨_, List.mem_map.mpr ⟨r, hr, rfl⟩⟩)
    have hregion : ((s.readied m rs).seated id o m base params rs (placementOf m o base params rs s.cyc)).region r =
        loadedRegion m id o base params t r R := hR
    rw [hregion]
    exact loadRegion_placedAs m R id o r base params t.dev.devid
  obtain ⟨routes, hplacement⟩ := hlays.placement id _ (State.placement_setPlacement ..)
  obtain ⟨hregions, hhub⟩ := State.foldl_enterPhase (placementOf m o base params rs s.cyc) o id rs rs
    (((s.readied m rs).seated id o m base params rs (placementOf m o base params rs s.cyc)).laidOut id o m params rs) fun r hr => by
      rw [State.region, hlays.regions]
      exact hseated r hr
  rw [State.placeAt_eq]
  refine ⟨hregions, { placementOf m o base params rs s.cyc with routes := routes }, ?_, rfl, rfl, rfl⟩
  exact (congrArg (fun h : Hub => h.placements.get? id) hhub).trans hplacement


/-! PROOFS. A ready launch that fits is placed (R118, R130, R131; O46). -/

section
variable {s t : State} {id o : Nat} {l l' : Launch} {m : Image} {rs : List Nat}

/-- The state whose launch has taken its place. -/
def State.placedHere (s : State) (id : Nat) (l : Launch) : State := (s.setLaunch id { l with st := .placed }).modHub (fun h => h.unqueue id)

theorem State.placeLaunch_fits (hst : l.st = .queued) (hm : s.imageFor l = some m) (hreject : s.loadReject m o l.rec_.base l.rec_.params = none)
    (hrs : rectRegions o m.w m.h = some rs) (hspill : s.spillBad m rs = false) :
    s.placeLaunch id l o = (s.placeAt id o m l.rec_.base l.rec_.params rs).placedHere id l := by
  rw [State.placeLaunch]
  dsimp only
  rw [hst, hm]
  dsimp only
  rw [hreject, hrs]
  dsimp only [Option.getD]
  rw [if_neg (by rw [hspill]; exact Bool.false_ne_true)]
  rfl

theorem State.placeFirst_places (hl : s.launch? id = some l) (hready : s.launchReady l = true) (hchecked : l.checked = true)
    (ho : s.originFor id l [] = some o) (ids : List Nat) : s.placeFirst (id :: ids) = s.placeLaunch id l o := by
  have hplaceable : s.placeable id = some (l, o) := by
    rw [State.placeable, hl]
    dsimp only
    rw [hready, hchecked, ho]
    rfl
  rw [State.placeFirst, hplaceable]

theorem State.LaunchesOnly.origin (h : s.LaunchesOnly t) (k : l.Like l') (hst : l.st = .queued) :
    t.originFor id l' [] = s.originFor id l [] := by
  have himage := h.imageFor k
  obtain ⟨ls, rfl⟩ := h
  rw [State.originFor, State.originFor, k.st, hst]
  dsimp only
  rw [himage, k.rec_]
  rfl

theorem State.LaunchesOnly.loads (h : s.LaunchesOnly t) (base : Byte) (params : List Word) :
    t.loadReject m o base params = s.loadReject m o base params ∧ t.spillBad m rs = s.spillBad m rs := by
  obtain ⟨ls, rfl⟩ := h
  exact ⟨rfl, rfl⟩

/-- The scheduler places the one launch that waits, where it fits. -/
theorem scheduleDecision_places (hw : s.hub.waiting = [id]) (hp : s.hub.preempting = none) (hl : s.launch? id = some l) (hst : l.st = .queued)
    (hchecked : l.checked = true) (hmet : ∀ d ∈ l.deps, d.met = true) (hfree : s.launchFree l = true) (ho : s.originFor id l [] = some o)
    (hm : s.imageFor l = some m) (hreject : s.loadReject m o l.rec_.base l.rec_.params = none) (hrs : rectRegions o m.w m.h = some rs)
    (hspill : s.spillBad m rs = false) :
    ∃ t l' p, exec .scheduleDecision s = .next t ∧ t.launch? id = some l' ∧ l'.st = .placed ∧ t.placement? id = some p ∧ p.origin = o ∧
      p.regions = rs ∧ p.params = l.rec_.params ∧ (∀ r ∈ rs, (t.region r).launch = some id ∧ (t.region r).phase = 0 ∧
        (t.region r).tag = m.placedTag l.rec_.base 0 ∧ (t.region r).stop = false ∧ (t.region r).rp = 0) ∧
      (o ∈ rs → (t.core o).pc = m.entry ∧ (t.core o).handler = false) ∧ id ∉ t.hub.waiting := by
  have hlike1 := s.refreshed_like l
  have hl1 := State.launch_refreshLaunches hl hst
  have hconsider : s.refreshLaunches.consider id = s.refreshLaunches := by
    rw [State.consider, hl1]
    exact if_pos (by rw [hlike1.checked, hchecked]; rfl)
  have hlike := hlike1.trans (s.refreshLaunches.refreshed_like (s.refreshed l))
  have honly := s.launchesOnly_refresh.trans s.refreshLaunches.launchesOnly_refresh
  have hl2 := State.launch_refreshLaunches hl1 (hlike1.st.trans hst)
  obtain ⟨twaiting, tpreempting, -⟩ := honly.hub
  have hexec := exec_scheduleDecision_one hw (by rw [hconsider, tpreempting]; exact hp)
  rw [hconsider] at hexec
  generalize s.refreshLaunches.refreshed (s.refreshed l) = l2 at hlike hl2
  generalize s.refreshLaunches.refreshLaunches = t at honly hl2 twaiting hexec
  obtain ⟨treject, tspill⟩ := honly.loads (m := m) (o := o) (rs := rs) l.rec_.base l.rec_.params
  have hplace : t.placeFirst t.hub.waiting = (t.placeAt id o m l.rec_.base l.rec_.params rs).placedHere id l2 := by
    rw [twaiting, hw, State.placeFirst_places hl2 (honly.ready hlike hmet hfree) (hlike.checked.trans hchecked) ((honly.origin hlike hst).trans ho),
      State.placeLaunch_fits (hlike.st.trans hst) ((honly.imageFor hlike).trans hm) (by rw [hlike.rec_, treject]; exact hreject) hrs
        (tspill.trans hspill), hlike.rec_]
  rw [hplace] at hexec
  obtain ⟨hregions, p, hplacement, horigin, hpregions, hparams⟩ := t.placeAt_spec id o m l.rec_.base l.rec_.params rs
  generalize t.placeAt id o m l.rec_.base l.rec_.params rs = w at hexec hregions hplacement
  refine ⟨w.placedHere id l2, { l2 with st := .placed }, p, hexec, Map.get?_set_same .., rfl, hplacement, horigin, hpregions, hparams,
    fun r hr => ?_, fun hr => ?_, not_mem_waiting_unqueue _ id⟩
  · obtain ⟨h1, h2, h3, h4, h5, -⟩ := hregions r hr
    exact ⟨h1, h2, h3, h4, h5⟩
  · obtain ⟨-, -, -, -, -, h6⟩ := hregions o hr
    exact h6 rfl

end

theorem schedulerDecides : Says.SchedulerDecides := by
  refine ⟨fun s id l o m rs hw hp hl hst hchecked hmet hfree ho hm hreject hrs hspill =>
      scheduleDecision_places hw hp hl hst hchecked hmet hfree ho hm hreject hrs hspill,
    fun s id l hw hp hl hst hchecked hrec hbroken => broken_completes hw hp hl hst hchecked hrec hbroken,
    fun s id l hw hp hl hst hchecked hbroken hmet hfree hrec himage => ?_, State.imageFor_readable, State.canRecord_iff,
    fun s id l hl hst h0 hage hroom => agelim_promotes hl hst h0 hage hroom,
    fun s w v p l hp hc hv hl hf hne => preemption_chooses hp hc hv hl hf hne, fun s w v p h => State.preemptChoice_serves h,
    fun s w lw e hw he hfall => State.preemptChoice_found hw he hfall⟩
  obtain ⟨t, c, hexec, hbytes, hcompletions, hid, hcause, hsub, hplace, haddr, -, hwaiting⟩ :=
    unreadable_completes hw hp hl hst hchecked hrec hbroken hmet hfree himage
  exact ⟨t, c, hexec, hbytes, hcompletions, hid, hcause, hsub, hplace, haddr, hwaiting⟩

/-- Settles O46: the scheduler, the ends of phases and placements, banks, and limits, each by its own step. -/
theorem placementLifecycle : Obligations.PlacementLifecycle := ⟨schedulerDecides, placementsEnd, banksAreFetched, limitsExpire⟩


/-! PROOFS. Stream commands are bound, and their handles move (R157, R336, R345-R349; O41). -/

/-! ## SBIND (R336) -/

/-- The command that SBIND binds. -/
def State.bindCmd (s : State) (r h p : Nat) (x : Shape) (y : Option Shape) (fenced : Bool) : Cmd :=
  { tick := s.ticket, h := h, port := p, rec_ := x, peer := y, owner := (s.region r).launch,
    needStores := if fenced then s.owedTicks r else [], needCmds := if fenced then s.cmdTicks r else [] }

/-- The handle of a command that SBIND binds. -/
def State.bindHandle (s : State) (p : Nat) (x : Shape) (watch : Bool) : Handle :=
  { st := .filling, watch := watch || x.watch, port := p, promise := Config.promise s.freeCtr }

section
variable {s : State} {r h p : Nat} {d a b : BitVec 5} {x : Shape} {y : Option Shape} {watch fenced : Bool}

theorem State.bind_region : (s.bind r d h p x y watch fenced).region r =
    { s.region r with
      handles := (s.region r).handles.set h (s.bindHandle p x watch)
      cmds := (s.region r).cmds ++ [s.bindCmd r h p x y fenced]
      core := ((s.core r).write d (Config.promise s.freeCtr) false).step4 } := by
  have hthrice (t : State) (f g k : Region → Region) :
      (((t.modRegion r f).modRegion r g).modRegion r k).region r = k (g (f (t.region r))) := by
    rw [State.region_modRegion_same, State.region_modRegion_same, State.region_modRegion_same]
  exact hthrice _ _ _ _

theorem State.bind_steps : s.StepsOn (s.bind r d h p x y watch fenced) r ∧ sameRegs r d s (s.bind r d h p x y watch fenced) := by
  have hcore : (s.bind r d h p x y watch fenced).core r = (s.retire r d (Config.promise s.freeCtr)).core r := by
    calc (s.bind r d h p x y watch fenced).core r = ((s.core r).write d (Config.promise s.freeCtr) false).step4 :=
          congrArg Region.core State.bind_region
      _ = (s.retire r d (Config.promise s.freeCtr)).core r := by rw [State.retire, State.core_modCore_same]
  have hsteps := stepsOn_modCore_write s r d (Config.promise s.freeCtr) false
  have hregs := sameRegs_modCore_write s r d (Config.promise s.freeCtr) false
  refine ⟨?_, fun c hc => ?_⟩
  · unfold State.StepsOn at *
    rw [hcore]
    exact hsteps
  · rw [hcore]
    exact hregs c hc

theorem State.handle_bind (k : Nat) : (s.bind r d h p x y watch fenced).handle r k = if k = h then s.bindHandle p x watch else s.handle r k := by
  rw [State.handle, State.bind_region]
  split
  · next hk => rw [hk]; exact Map.get_set_same ..
  · next hk => exact Map.get_set_other _ hk ..

theorem State.greg_bind (hd : d ≠ 0) : (s.bind r d h p x y watch fenced).greg r d = Config.promise s.freeCtr := by
  rw [State.greg, State.core, State.bind_region, Core.read_step4, Core.read_write_same _ _ _ hd]
  rfl

theorem exec_sbind {h : BitVec 8} (hclean : s.CleanRegs s.site.region [a, b]) (hstall : ∀ x y, (s.core s.site.region).stall ≠ some (.sbind x y)) :
    exec (.sbind d a b h watch fenced) s = .next
      (if s.recordPending s.site.region (s.greg s.site.region a) then s.awaitRecord s.site.region
      else match s.sbindCheck s.site.region (s.greg s.site.region a) (s.greg s.site.region b) h.toNat with
      | .error (c, v) => s.trapHere s.site.region c v
      | .ok (x, y) => s.bindWhenRoom s.site.region d h.toNat (s.greg s.site.region b).toNat x y watch fenced) := by
  show execSbind d a b h watch fenced s = _
  refine congrArg Host.Outcome.next ?_
  split
  · next x y hs => exact absurd hs (hstall x y)
  · exact State.using_of_clean hclean _

theorem exec_sbind_checked {h : BitVec 8} (hclean : s.CleanRegs s.site.region [a, b])
    (hpend : s.recordPending s.site.region (s.greg s.site.region a) = false)
    (hstall : ∀ x y, (s.core s.site.region).stall ≠ some (.sbind x y))
    (hok : s.sbindCheck s.site.region (s.greg s.site.region a) (s.greg s.site.region b) h.toNat = .ok (x, y)) :
    exec (.sbind d a b h watch fenced) s =
      .next (s.bindWhenRoom s.site.region d h.toNat (s.greg s.site.region b).toNat x y watch fenced) := by
  rw [exec_sbind hclean hstall, if_neg (by rw [hpend]; exact Bool.false_ne_true), hok]

theorem exec_sbind_stalled {h : BitVec 8} (hstall : (s.core s.site.region).stall = some (.sbind x y)) :
    exec (.sbind d a b h watch fenced) s =
      .next (s.bindWhenRoom s.site.region d h.toNat (s.greg s.site.region b).toNat x y watch fenced) := by
  show execSbind d a b h watch fenced s = _
  rw [execSbind, hstall]

theorem State.bindWhenRoom_room (h64 : (s.cmdsOf r).length < 64) :
    s.bindWhenRoom r d h p x y watch fenced = s.bind r d h p x y watch fenced := if_neg (by omega)

theorem State.bindWhenRoom_full (h64 : 64 ≤ (s.cmdsOf r).length) :
    s.bindWhenRoom r d h p x y watch fenced = s.modCore r (fun k => { k with stall := some (.sbind x y) }) := if_pos h64

end

/-! ## The checks of a record (R336) -/

section
variable {s : State} {r h : Nat} {A B : Word} {x : Shape} {y : Option Shape}

theorem State.sbindCheck_misaligned (ha : A.toNat % 64 ≠ 0) : s.sbindCheck r A B h = .error (0x02, A) := if_pos ha

theorem State.sbindCheck_outside (ha : A.toNat % 64 = 0) (hcap : s.rcap r < A.toNat + 64) : s.sbindCheck r A B h = .error (0x04, A) := by
  rw [State.sbindCheck, if_neg (by omega)]
  exact if_pos (by
    rw [Bool.not_eq_true', Region.recIn, decide_eq_false_iff_not]
    exact Nat.not_le.mpr hcap)

theorem State.sbindCheck_accepts (hok : s.sbindCheck r A B h = .ok (x, y)) : A.toNat % 64 = 0 ∧ A.toNat + 64 ≤ s.rcap r ∧ B.toNat ≤ 15 ∧
    (s.handle r h).st = .free ∧ x = shapeAt s.mem (rstoreBase r + A.toNat) ∧ x.ok = true ∧ ∀ p, y = some p → p.count = x.count := by
  rw [State.sbindCheck] at hok
  split at hok
  · cases hok
  next hal =>
  dsimp only at hok
  split at hok
  · cases hok
  next hin =>
  split at hok
  · cases hok
  split at hok
  · cases hok
  next hport =>
  generalize (if (shapeAt s.mem (rstoreBase r + A.toNat)).usesPeer = true then
    some (shapeAt s.mem (rstoreBase r + (shapeAt s.mem (rstoreBase r + A.toNat)).peer)) else none : Option Shape) = peer at hok
  split at hok
  · cases hok
  next hshape =>
  split at hok
  · cases hok
  next hfree =>
  rw [Except.ok.injEq, Prod.mk.injEq] at hok
  obtain ⟨rfl, rfl⟩ := hok
  simp only [Bool.or_eq_true, not_or, Bool.not_eq_true', Bool.not_eq_false] at hshape
  obtain ⟨⟨hxok, -⟩, hcount⟩ := hshape
  rw [Bool.not_eq_true', Bool.not_eq_false, Region.recIn, decide_eq_true_eq] at hin
  refine ⟨by omega, hin, by omega, by simpa using hfree, rfl, hxok, fun p hp => ?_⟩
  rw [hp, Option.any_some] at hcount
  simpa using hcount

end


/-! PROOFS. Instructions on handles (R345-R349; O41). -/

/-! ## What the end of a command touches -/

section
variable (s : State) (r : Nat) (c : Cmd)

theorem State.closeCtxs_rest (cs : List CtxRef) : ∃ l, s.closeCtxs cs = { s with links := l } := by
  induction cs generalizing s with
  | nil => exact ⟨_, rfl⟩
  | cons k cs ih =>
    obtain ⟨l, h⟩ := ih (s.modLink k.1 (fun L => { L with ctxs := L.ctxs.del (k.2.1, k.2.2) }))
    exact ⟨l, h⟩

/-- A region without a command that left its port. -/
def Region.dropped (R : Region) (c : Cmd) : Region :=
  { R with cmds := R.cmds.filter (fun e => e.tick ≠ c.tick), heldSince := if c.held then R.heldSince.del (4 + c.port) else R.heldSince }

theorem State.dropCmd_rest : ∃ l, s.dropCmd r c =
    { s.modRegion r (fun R => R.dropped c) with links := l, kv := s.kv.filter (fun h => !(h.region = r && h.cmd = some c.tick)) } := by
  obtain ⟨l, h⟩ := (s.modRegion r (fun R => R.dropped c)).closeCtxs_rest c.ctxs
  exact ⟨l, congrArg (fun t : State => { t with kv := s.kv.filter (fun h => !(h.region = r && h.cmd = some c.tick)) }) h⟩

theorem State.dropCmd_mem : (s.dropCmd r c).mem = s.mem := by
  obtain ⟨l, h⟩ := s.dropCmd_rest r c
  rw [h]
  rfl

theorem State.dropCmd_region (q : Nat) : (s.dropCmd r c).region q = if q = r then (s.region r).dropped c else s.region q := by
  obtain ⟨l, h⟩ := s.dropCmd_rest r c
  rw [h]
  exact State.region_modRegion s r q (fun R => R.dropped c)

theorem State.streamRow_regions (cell : CellId) (n slot row : Nat) (x : Row) (p : Bool) :
    (s.streamRow cell n slot row x p).regions = s.regions := by
  rw [State.streamRow]
  split <;> rfl

theorem State.fillSlot_regions (cell : CellId) (n slot : Nat) (tag : Byte) : (s.fillSlot cell n slot tag).regions = s.regions := by
  rw [State.fillSlot]
  split <;> rfl

theorem State.closeSlot_regions (cell : CellId) (n slot row : Nat) (tag : Byte) : (s.closeSlot cell n slot row tag).regions = s.regions := by
  rw [State.closeSlot, State.fillSlot_regions]
  generalize List.range (32 - row) = ks
  induction ks generalizing s with
  | nil => rfl
  | cons k ks ih => rw [List.foldl_cons, ih, State.streamRow_regions]

theorem State.closeClaims_regions : (s.closeClaims c).regions = s.regions := by
  rw [State.closeClaims]
  generalize c.claimed = cs
  induction cs generalizing s with
  | nil => rfl
  | cons e cs ih => rw [List.foldl_cons, ih, State.closeSlot_regions]

theorem State.closeClaims_none (h : c.claimed = []) : s.closeClaims c = s := by
  rw [State.closeClaims, h]
  rfl

end

/-- The cores after a step for a command that touches none. -/
theorem State.forCmd_core {s : State} (r : Nat) (c : Cmd) {go : State → State} (h : ∀ (t : State) q, (go t).core q = t.core q) (q : Nat) :
    (s.forCmd r c go).core q = s.core q := by
  rw [State.forCmd]
  split
  · exact h s q
  · next a f _ =>
    by_cases hq : q = r
    · subst hq
      show (Map.get (Map.set (go (s.viewOf q f)).regions q { s.region q with cmds := ((go (s.viewOf q f)).region q).cmds }) q {}).core = _
      rw [Map.get_set_same]
      rfl
    · have hview : (s.viewOf r f).core q = s.core q := congrArg Region.core (Map.get_set_other _ hq ..)
      exact (congrArg Region.core (Map.get_set_other _ hq ..)).trans ((h _ q).trans hview)

/-! ## Handles -/

section
variable {s : State} {r h : Nat}

/-- What setting a handle leaves, once the core advances. -/
theorem advance_setHandle (s : State) (r h : Nat) (x : Handle) :
    ((s.setHandle r h x).advance r).handle r h = x ∧ s.StepsOn ((s.setHandle r h x).advance r) r ∧ sameBytes s ((s.setHandle r h x).advance r) ∧
      (∀ k, k ≠ h → ((s.setHandle r h x).advance r).handle r k = s.handle r k) ∧
      ∀ q, (((s.setHandle r h x).advance r).region q).cmds = (s.region q).cmds := by
  obtain ⟨-, hsteps, hbytes⟩ := advance_modRegion (s := s) (r := r) (f := fun R => { R with handles := R.handles.set h x }) rfl
  have hhandles : (((s.setHandle r h x).advance r).region r).handles = (s.region r).handles.set h x := by
    rw [State.region_advance, State.setHandle, State.region_modRegion_same]
  refine ⟨?_, hsteps, hbytes, fun k hk => ?_, fun q => ?_⟩
  · rw [State.handle, hhandles]; exact Map.get_set_same ..
  · rw [State.handle, hhandles]; exact Map.get_set_other _ hk ..
  · by_cases hq : q = r
    · subst hq
      rw [State.region_advance, State.setHandle, State.region_modRegion_same]
    · exact congrArg Region.cmds ((State.region_modRegion_other _ hq _).trans (State.region_modRegion_other _ hq _))

theorem handleEval_eq_toWord (h : Nat) (st : HState) : handleEval h st = toWord (h + 256 * st.code) := by
  rw [handleEval, ← toWord_natCast]
  norm_cast

theorem Handle.eval_eq_toWord (x : Handle) (h : Nat) : x.eval h = toWord (x.progress * 256 + h) := by
  rw [Handle.eval, ← toWord_natCast]
  norm_cast

theorem State.handleTrap_eq (s : State) (r h : Nat) :
    s.handleTrap r h = s.trapSync r 0x0E 0 (toWord (h + 256 * (s.handle r h).st.code)) (s.core r).pc := by
  rw [State.handleTrap, handleEval_eq_toWord]
  rfl

theorem HState.code_lt (st : HState) : st.code < 4 := by cases st <;> decide

theorem Handle.word_eq_toWord {x : Handle} (hport : x.port < 16) (hprogress : x.progress < 2 ^ 48) : x.word = toWord (2 ^ 62 * x.st.code +
    2 ^ 61 * x.watch.toNat + 2 ^ 60 * x.held.toNat + 2 ^ 56 * x.port + 2 ^ 48 * x.cause.toNat + x.progress) := by
  have hcast : toWord (2 ^ 62 * x.st.code + 2 ^ 61 * x.watch.toNat + 2 ^ 60 * x.held.toNat + 2 ^ 56 * x.port + 2 ^ 48 * x.cause.toNat + x.progress) =
      BitVec.ofNat 64 (2 ^ 62 * x.st.code + 2 ^ 61 * x.watch.toNat + 2 ^ 60 * x.held.toNat + 2 ^ 56 * x.port + 2 ^ 48 * x.cause.toNat + x.progress) := by
    rw [← toWord_natCast]
    norm_cast
  rw [hcast, Handle.word]
  have hst := x.st.code_lt
  have hw := Bool.toNat_lt x.watch
  have hh := Bool.toNat_lt x.held
  have hc := x.cause.isLt
  refine BitVec.eq_of_toNat_eq ?_
  simp only [BitVec.toNat_append, BitVec.toNat_ofNat, BitVec.toNat_ofBool]
  rw [Nat.mod_eq_of_lt hprogress, Nat.mod_eq_of_lt (show x.port < 2 ^ 4 from hport), Nat.mod_eq_of_lt (show x.st.code < 2 ^ 2 from hst),
    ← Nat.shiftLeft_add_eq_or_of_lt hprogress, ← Nat.shiftLeft_add_eq_or_of_lt hc, ← Nat.shiftLeft_add_eq_or_of_lt (show x.port < 2 ^ 4 from hport),
    ← Nat.shiftLeft_add_eq_or_of_lt (show x.held.toNat < 2 ^ 1 from hh), ← Nat.shiftLeft_add_eq_or_of_lt (show x.watch.toNat < 2 ^ 1 from hw)]
  simp only [Nat.shiftLeft_eq]
  omega

end

theorem hwait_acts (h : BitVec 8) (s : State) : let r := s.site.region
    let x := s.handle r h.toNat
    (x.st = .filling → exec (.hwait h) s = .next (s.wait r (.hwait h.toNat))) ∧
    (x.st = .full → x.cause = 0 → ∃ t, exec (.hwait h) s = .next t ∧ (t.core r).pc = (s.core r).pc + 4 ∧ (t.core r).wait = none ∧
      (t.core r).run = .running ∧ (∀ b, (t.core r).read b = (s.core r).read b) ∧ sameButCore r s t) ∧
    (x.st = .full → x.cause ≠ 0 → exec (.hwait h) s =
      .next ((s.modCore r (fun k => { k with wait := none, run := .running })).trapSync r x.cause 0
        (toWord (x.progress * 256 + h.toNat)) (s.core r).pc)) ∧
    ((x.st = .free ∨ x.st = .draining) → exec (.hwait h) s = .next (s.trapSync r 0x0E 0
      (toWord (h.toNat + 256 * x.st.code)) (s.core r).pc)) := by
  intro r x
  have hexec : exec (.hwait h) s = match x.st with
    | .filling => .next (s.wait r (.hwait h.toNat))
    | .full => .next (s.hwaitFull r h.toNat)
    | _ => .next (s.handleTrap r h.toNat) := rfl
  refine ⟨fun hst => ?_, fun hst hc => ?_, fun hst hc => ?_, fun hst => ?_⟩
  · rw [hexec, hst]
  · rw [hst] at hexec
    obtain ⟨hpc, hwait, hrun, hread⟩ := s.endWait_core r
    exact ⟨s.endWait r, hexec.trans (congrArg Host.Outcome.next (State.hwaitFull_of_clean hc)), hpc, hwait, hrun, hread, sameButCore_modCore s r _⟩
  · rw [hst] at hexec
    refine hexec.trans (congrArg Host.Outcome.next ((if_neg hc).trans ?_))
    rw [State.trapHere, Handle.eval_eq_toWord, State.core_modCore_same]
  · rw [hexec, ← State.handleTrap_eq]
    obtain hst | hst := hst <;> rw [hst]

theorem hdrain_acts (h : BitVec 8) (s : State) : let r := s.site.region
    let x := s.handle r h.toNat
    (x.st = .full → ∃ t, exec (.hdrain h) s = .next t ∧ t.handle r h.toNat = { x with st := .draining } ∧ s.StepsOn t r ∧
      sameBytes s t ∧ ∀ k, k ≠ h.toNat → t.handle r k = s.handle r k) ∧
    (x.st ≠ .full → exec (.hdrain h) s = .next (s.trapSync r 0x0E 0 (toWord (h.toNat + 256 * x.st.code)) (s.core r).pc)) := by
  intro r x
  refine ⟨fun hst => ?_, fun hst => ?_⟩
  · obtain ⟨hhandle, hsteps, hbytes, hothers, -⟩ := advance_setHandle s r h.toNat { x with st := .draining }
    exact ⟨_, if_pos hst, hhandle, hsteps, hbytes, hothers⟩
  · exact (if_neg hst).trans (congrArg _ (s.handleTrap_eq r h.toNat))

theorem hfree_acts (h : BitVec 8) (s : State) : let r := s.site.region
    let x := s.handle r h.toNat
    (x.st = .draining → ∃ t, exec (.hfree h) s = .next t ∧ t.handle r h.toNat = { port := x.port } ∧ s.StepsOn t r ∧
      sameBytes s t ∧ ∀ k, k ≠ h.toNat → t.handle r k = s.handle r k) ∧
    (x.st ≠ .draining → exec (.hfree h) s = .next (s.trapSync r 0x0E 0 (toWord (h.toNat + 256 * x.st.code)) (s.core r).pc)) := by
  intro r x
  refine ⟨fun hst => ?_, fun hst => ?_⟩
  · obtain ⟨hhandle, hsteps, hbytes, hothers, -⟩ := advance_setHandle s r h.toNat x.freed
    exact ⟨_, if_pos hst, hhandle, hsteps, hbytes, hothers⟩
  · exact (if_neg hst).trans (congrArg _ (s.handleTrap_eq r h.toNat))

/-! ## HCANCEL (R160, R348) -/

/-- The command of a cancelled handle stopped, its slots closed. -/
def State.cancelled (s : State) (r h : Nat) : State := match s.cmdOf r h with
  | some (q, c) => s.forCmd q c (fun s => (s.closeClaims c).dropCmd q c)
  | none => s

theorem State.region_closeDrop (s : State) (r : Nat) (c : Cmd) (q : Nat) : ((s.closeClaims c).dropCmd r c).region q =
    if q = r then (s.region r).dropped c else s.region q := by
  rw [State.dropCmd_region]
  simp only [State.region, s.closeClaims_regions c]

theorem State.cancelled_core (s : State) (r h q : Nat) : (s.cancelled r h).core q = s.core q := by
  rw [State.cancelled]
  split
  · next p c _ =>
    refine State.forCmd_core p c (fun t q => ?_) q
    rw [State.core, State.region_closeDrop]
    split
    · next hq => rw [hq]; rfl
    · rfl
  · rfl

theorem State.cancelled_drops {s : State} {r h q : Nat} {c : Cmd} (hc : s.cmdOf r h = some (q, c)) :
    (∀ e ∈ ((s.cancelled r h).region q).cmds, e.tick ≠ c.tick) ∧ (c.claimed = [] → s.mem.wf = true → sameBytes s (s.cancelled r h)) := by
  rw [State.cancelled, hc]
  refine ⟨fun e he => ?_, fun hclaimed hw => sameBytes_forCmd q c hw fun t => ?_⟩
  · obtain ⟨v, -, hcmds⟩ := s.forCmd_cmds q c (fun s => (s.closeClaims c).dropCmd q c)
    rw [hcmds, State.region_closeDrop, if_pos rfl] at he
    exact of_decide_eq_true (List.mem_filter.mp he).2
  · rw [State.dropCmd_mem, State.closeClaims_none _ _ hclaimed]

theorem hcancel_acts (h : BitVec 8) (s : State) : let r := s.site.region
    let x := s.handle r h.toNat
    (x.st = .filling → ∃ t, exec (.hcancel h) s = .next t ∧ t.handle r h.toNat = { port := x.port } ∧
      (t.core r).pc = (s.core r).pc + 4 ∧ ∀ q c, s.cmdOf r h.toNat = some (q, c) →
        (∀ e ∈ (t.region q).cmds, e.tick ≠ c.tick) ∧ (c.claimed = [] → s.mem.wf = true → sameBytes s t)) ∧
    (x.st ≠ .filling → exec (.hcancel h) s = .next (s.trapSync r 0x0E 0 (toWord (h.toNat + 256 * x.st.code)) (s.core r).pc)) := by
  intro r x
  refine ⟨fun hst => ?_, fun hst => (if_neg hst).trans (congrArg _ (s.handleTrap_eq r h.toNat))⟩
  obtain ⟨hhandle, ⟨hpc, -⟩, hbytes, -, hcmds⟩ := advance_setHandle (s.cancelled r h.toNat) r h.toNat x.freed
  refine ⟨_, if_pos hst, hhandle, hpc.trans (by rw [State.cancelled_core]), fun q c hc => ?_⟩
  obtain ⟨hdrop, hsame⟩ := State.cancelled_drops hc
  refine ⟨fun e he => hdrop e (hcmds q ▸ he), fun hclaimed hw a => ?_⟩
  obtain ⟨h1, h2⟩ := hsame hclaimed hw a
  obtain ⟨k1, k2⟩ := hbytes a
  exact ⟨k1.trans h1, k2.trans h2⟩

theorem handleInstructionsAct : Says.HandleInstructionsAct := by
  refine ⟨?_, ?_, ?_, ?_, ?_, fun s r A B h => ⟨State.sbindCheck_misaligned, State.sbindCheck_outside, fun x y => State.sbindCheck_accepts⟩,
    hwait_acts, fun d h s hport hprogress => ?_, hdrain_acts, hfree_acts, hcancel_acts⟩
  · intro d a b h watch fenced s x y r hclean hpend hstall hok hroom
    have hexec := exec_sbind_checked (d := d) (watch := watch) (fenced := fenced) hclean hpend hstall hok
    rw [State.bindWhenRoom_room hroom] at hexec
    obtain ⟨hsteps, hregs⟩ := State.bind_steps (s := s) (r := r) (h := h.toNat) (p := (s.greg r b).toNat) (d := d) (x := x) (y := y) (watch := watch)
      (fenced := fenced)
    have hhandle := State.handle_bind (s := s) (r := r) (h := h.toNat) (p := (s.greg r b).toNat) (d := d) (x := x) (y := y) (watch := watch)
      (fenced := fenced)
    refine ⟨_, s.bindCmd r h.toNat (s.greg r b).toNat x y fenced, hexec, fun a => ⟨rfl, rfl⟩, hsteps, hregs, ?_⟩
    rw [hhandle, if_pos rfl]
    refine ⟨rfl, rfl, rfl, rfl, rfl, fun hd => State.greg_bind hd, fun k hk => (hhandle k).trans (if_neg hk), ?_, rfl, rfl, rfl, rfl, rfl, rfl, rfl,
      rfl, rfl, rfl⟩
    exact congrArg Region.cmds State.bind_region
  · intro d a b h watch fenced s x y r hclean hpend hstall hok hfull
    rw [exec_sbind_checked hclean hpend hstall hok, State.bindWhenRoom_full hfull]
  · intro d a b h watch fenced s r hclean hpend hstall
    rw [exec_sbind hclean hstall, if_pos hpend]
    rfl
  · intro d a b h watch fenced s x y r hstall hroom
    have hexec := exec_sbind_stalled (d := d) (a := a) (b := b) (h := h) (watch := watch) (fenced := fenced) hstall
    rw [State.bindWhenRoom_room hroom] at hexec
    obtain ⟨hsteps, -⟩ := State.bind_steps (s := s) (r := r) (h := h.toNat) (p := (s.greg r b).toNat) (d := d) (x := x) (y := y) (watch := watch)
      (fenced := fenced)
    refine ⟨_, s.bindCmd r h.toNat (s.greg r b).toNat x y fenced, hexec, fun a => ⟨rfl, rfl⟩, hsteps, ?_, ?_, ?_, rfl, rfl, rfl⟩
    · exact congrArg (fun R : Region => R.core.stall) State.bind_region
    · rw [State.handle_bind, if_pos rfl]; rfl
    · exact congrArg Region.cmds State.bind_region
  · intro d a b h watch fenced s c v r hclean hpend hstall herr
    rw [exec_sbind hclean hstall, if_neg (by rw [hpend]; exact Bool.false_ne_true), herr]
    rfl
  · exact congrArg (fun w => Host.Outcome.next (s.retire s.site.region d w)) (Handle.word_eq_toWord hport hprogress)


/-! PROOFS. Half-writes at KV segments (R176, R361, R362, R398; O41). -/

/-! ## The header of an entry (R176) -/

section
variable (old : Word) (pos gen : Nat) (isV : Bool)

/-- The halves of an entry that stand after a half-write: bit 0 for K, bit 1 for V. -/
def kvHalves : Nat := (if bitsOf old 32 16 = gen then bitsOf old 48 2 else 0) ||| if isV then 2 else 1

theorem kvHalves_lt : kvHalves old gen isV < 4 := by
  have hkeep : (if bitsOf old 32 16 = gen then bitsOf old 48 2 else 0) < 2 ^ 2 := by
    split
    · exact Nat.mod_lt _ (by decide)
    · decide
  exact Nat.or_lt_two_pow hkeep (by cases isV <;> decide)

theorem kvHeader_toNat : (kvHeader old pos gen isV).toNat = 2 ^ 48 * kvHalves old gen isV + (gen % 2 ^ 16 * 2 ^ 32 + pos % 2 ^ 32) := by
  have hlt := kvHalves_lt old gen isV
  have h : kvHeader old pos gen isV = BitVec.ofNat 64 (kvHalves old gen isV * 2 ^ 48 + gen % 2 ^ 16 * 2 ^ 32 + pos % 2 ^ 32) := rfl
  rw [h, BitVec.toNat_ofNat]
  omega

theorem kvHeader_fields : bitsOf (kvHeader old pos gen isV) 32 16 = gen % 2 ^ 16 ∧ bitsOf (kvHeader old pos gen isV) 0 32 = pos % 2 ^ 32 := by
  unfold bitsOf
  rw [kvHeader_toNat]
  constructor <;> omega

theorem kvHeader_half (j : Nat) : (kvHeader old pos gen isV).getLsbD (48 + j) = (kvHalves old gen isV).testBit j := by
  rw [BitVec.getLsbD, kvHeader_toNat, Nat.testBit_two_pow_mul_add _ (by omega), if_neg (by omega), Nat.add_sub_cancel_left]

theorem kvHalves_bit {j : Nat} (hj : j < 2) : (kvHalves old gen isV).testBit j = true ↔
    (bitsOf old 32 16 = gen ∧ old.getLsbD (48 + j) = true) ∨ isV = decide (j = 1) := by
  have hold : (bitsOf old 48 2).testBit j = old.getLsbD (48 + j) := by
    rw [bitsOf, Nat.testBit_mod_two_pow, decide_eq_true hj, Bool.true_and, Nat.testBit_div_two_pow, BitVec.getLsbD, Nat.add_comm]
  have hown : (if isV then 2 else 1 : Nat).testBit j = true ↔ isV = decide (j = 1) := by
    obtain rfl | rfl : j = 0 ∨ j = 1 := by omega
    · cases isV <;> decide
    · cases isV <;> decide
  rw [kvHalves, Nat.testBit_or, Bool.or_eq_true, hown]
  refine or_congr_left ?_
  split
  · next hg => rw [hold]; exact ⟨fun h => ⟨hg, h⟩, And.right⟩
  · next hg => exact ⟨fun h => absurd h (by rw [Nat.zero_testBit]; exact Bool.false_ne_true), fun h => absurd h.1 hg⟩

end

/-! ## Words stored one after another -/

section
variable {m : Memory} (hw : m.wf = true)
include hw

theorem word_storeWords_below {a c : Nat} (ha : a % 8 = 0) (hc : c % 8 = 0) (ws : List (Word × Bool)) (h : c < a) :
    (storeWords m a ws).word c = m.word c := by
  induction ws generalizing m a with
  | nil => rfl
  | cons x ws ih =>
    obtain ⟨w, p⟩ := x
    rw [storeWords, ih (Memory.wf_store hw _ _ _ _) (by omega) (by omega), Memory.word_store_aligned hw ha hc, if_neg (by omega)]

theorem word_storeWords {a : Nat} (ha : a % 8 = 0) {ws : List (Word × Bool)} {j : Nat} {w : Word} {p : Bool} (h : ws[j]? = some (w, p)) :
    (storeWords m a ws).word (a + 8 * j) = w := by
  induction ws generalizing m a j with
  | nil => cases h
  | cons x ws ih =>
    obtain ⟨v, q⟩ := x
    cases j with
    | zero =>
      cases h
      rw [storeWords, word_storeWords_below (Memory.wf_store hw _ _ _ _) (by omega) (by omega) _ (by omega), Nat.mul_zero, Nat.add_zero,
        Memory.word_store hw]
    | succ j =>
      rw [storeWords, show a + 8 * (j + 1) = a + 8 + 8 * j by omega]
      exact ih (Memory.wf_store hw a 8 v q) (a := a + 8) (by omega) h

end

/-! ## A half-write accepted -/

theorem kvAccept_entry (m : Memory) (g : KvSeg) (h : KvHalf) (hw : m.wf = true) (hreach : kvReach m g (kvEntry m g h.pos) = true)
    (hfits : 8 * h.words.length ≤ 2 * kvHeadDim m g) (hgen : h.gen < 2 ^ 16) (hpos : h.pos < 2 ^ 32) :
    let e := kvEntry m g h.pos
    let own := if h.isV then 49 else 48
    let other := if h.isV then 48 else 49
    let m' := kvAccept m g h
    (m'.word e).getLsbD own = true ∧ bitsOf (m'.word e) 32 16 = h.gen ∧ bitsOf (m'.word e) 0 32 = h.pos ∧
    ((m'.word e).getLsbD other = true ↔ bitsOf (m.word e) 32 16 = h.gen ∧ (m.word e).getLsbD other = true) ∧
    ∀ j w p, h.words[j]? = some (w, p) → m'.word (e + 8 + (if h.isV then 2 * kvHeadDim m g else 0) + 8 * j) = w := by
  intro e own other m'
  let off := if h.isV then 2 * kvHeadDim m g else 0
  obtain ⟨halign, hdram⟩ := kvReach_spec hreach
  have hlow : e < 2 ^ 43 := lt_of_isDram hdram
  have hdim : kvHeadDim m g % 32 = 0 ∧ kvHeadDim m g ≤ 256 := by
    have := Nat.mod_lt ((kvRead m g 0).toNat / 2 ^ 0) (Nat.two_pow_pos 3)
    unfold kvHeadDim bitsOf
    omega
  obtain ⟨hdim32, hdimle⟩ := hdim
  have hoff : off % 8 = 0 ∧ off ≤ 512 := by
    show (if h.isV then 2 * kvHeadDim m g else 0) % 8 = 0 ∧ (if h.isV then 2 * kvHeadDim m g else 0) ≤ 512
    split <;> omega
  obtain ⟨hoff8, hoffle⟩ := hoff
  have hput : kvPut m g h = (storeWords m (e + 8 + off) h.words).store e 8
      (kvHeader ((storeWords m (e + 8 + off) h.words).word e) h.pos h.gen h.isV) false := if_pos hreach
  have hws : (storeWords m (e + 8 + off) h.words).wf = true := storeWords_wf hw _ _
  have hwp : (kvPut m g h).wf = true := by rw [hput]; exact Memory.wf_store hws _ _ _ _
  have hword : ∀ c, c % 8 = 0 → c < 2 ^ 44 → m'.word c = (kvPut m g h).word c := fun c hc hlt => by
    have h1 := kvWord_word g 4
    have h2 := le_kvWord g 4
    exact (Memory.word_store_aligned hwp (by omega) hc _ false).trans (if_neg (by omega))
  have hhead : m'.word e = kvHeader (m.word e) h.pos h.gen h.isV := by
    rw [hword e (by omega) (by omega), hput, Memory.word_store hws, word_storeWords_below hw (by omega) (by omega) _ (by omega)]
  obtain ⟨hgen', hpos'⟩ := kvHeader_fields (m.word e) h.pos h.gen h.isV
  rw [hhead]
  refine ⟨?_, hgen'.trans (Nat.mod_eq_of_lt hgen), hpos'.trans (Nat.mod_eq_of_lt hpos), ?_, fun j w p hj => ?_⟩
  · show (kvHeader (m.word e) h.pos h.gen h.isV).getLsbD (if h.isV then 49 else 48) = true
    cases hv : h.isV
    · exact (kvHeader_half _ _ _ _ 0).trans ((kvHalves_bit _ _ _ (by decide)).mpr (.inr rfl))
    · exact (kvHeader_half _ _ _ _ 1).trans ((kvHalves_bit _ _ _ (by decide)).mpr (.inr rfl))
  · show (kvHeader (m.word e) h.pos h.gen h.isV).getLsbD (if h.isV then 48 else 49) = true ↔
      bitsOf (m.word e) 32 16 = h.gen ∧ (m.word e).getLsbD (if h.isV then 48 else 49) = true
    cases hv : h.isV
    · rw [if_neg Bool.false_ne_true, kvHeader_half _ _ _ _ 1, kvHalves_bit _ _ _ (by decide)]
      exact or_iff_left (by decide)
    · rw [if_pos rfl, kvHeader_half _ _ _ _ 0, kvHalves_bit _ _ _ (by decide)]
      exact or_iff_left (by decide)
  · have hlen := (List.getElem?_eq_some_iff.mp hj).1
    rw [hword _ (by omega) (by omega), hput, Memory.word_store_aligned hws (by omega) (by omega), if_neg (by omega)]
    exact word_storeWords hw (by omega) hj

/-! ## AdvanceT, the switch and the resume -/

theorem kvAdvance_spec (m : Memory) (g : KvSeg) (n t : Nat) : let t' := kvAdvance m g n t
    t ≤ t' ∧ (∀ q, t ≤ q → q < t' → kvWhole m g q = true) ∧
    (kvLimit m g ≤ t + n → t' < kvLimit m g → kvWhole m g t' = false) := by
  induction n generalizing t with
  | zero => exact ⟨Nat.le_refl t, fun q h1 h2 => absurd h2 (Nat.not_lt.mpr h1), fun h1 h2 => absurd h2 (Nat.not_lt.mpr h1)⟩
  | succ n ih =>
    by_cases h : (decide (t < kvLimit m g) && kvWhole m g t) = true
    · obtain ⟨hle, hwhole, hend⟩ := ih (t + 1)
      have hstep : kvAdvance m g (n + 1) t = kvAdvance m g n (t + 1) := if_pos h
      rw [hstep]
      refine ⟨by omega, fun q h1 h2 => ?_, fun h1 h2 => hend (by omega) h2⟩
      by_cases hq : q = t
      · rw [hq]
        exact (Bool.and_eq_true _ _ ▸ h).2
      · exact hwhole q (by omega) h2
    · have hstop : kvAdvance m g (n + 1) t = t := if_neg h
      rw [hstop]
      refine ⟨Nat.le_refl t, fun q h1 h2 => absurd h2 (Nat.not_lt.mpr h1), fun _ h2 => ?_⟩
      rw [decide_eq_true h2, Bool.true_and] at h
      exact Bool.eq_false_iff.mpr h

theorem kvSegmentSwitch_acts (c : CellId) (n : Nat) (s : State) (hw : s.mem.wf = true) (hc : isKvCell c = true)
    (hbit : (kvRead s.mem (c, n) 7).getLsbD 63 = true) : ∃ t, exec (.kvSegmentSwitch c n) s = .next t ∧
      kvRead t.mem (c, n) 1 = kvRead s.mem (c, n) 6 ∧ kvRead t.mem (c, n) 2 = kvRead s.mem (c, n) 7 &&& 0xFFFFFFFFFFFC0 ∧
      (kvRead t.mem (c, n) 7).getLsbD 63 = false ∧
      (∀ w, w = 0 ∨ w = 3 ∨ w = 4 ∨ w = 5 ∨ w = 6 → kvRead t.mem (c, n) w = kvRead s.mem (c, n) w) ∧ t.regions = s.regions := by
  have hw1 := wf_kvWrite hw (c, n) 1 (kvRead s.mem (c, n) 6)
  have hw2 := wf_kvWrite hw1 (c, n) 2 (kvRead s.mem (c, n) 7 &&& 0xFFFFFFFFFFFC0)
  have hswitch : kvSwitch s.mem (c, n) = kvWrite (kvWrite (kvWrite s.mem (c, n) 1 (kvRead s.mem (c, n) 6)) (c, n) 2
      (kvRead s.mem (c, n) 7 &&& 0xFFFFFFFFFFFC0)) (c, n) 7 (kvRead s.mem (c, n) 7 &&& ~~~((1 : Word) <<< 63)) := if_pos hbit
  refine ⟨{ s with mem := kvSwitch s.mem (c, n) }, if_pos hc, ?_⟩
  rw [hswitch]
  refine ⟨?_, ?_, ?_, fun w hword => ?_, rfl⟩
  · rw [kvRead_kvWrite_other hw2 _ _ (by decide), kvRead_kvWrite_other hw1 _ _ (by decide), kvRead_kvWrite_same hw]
  · rw [kvRead_kvWrite_other hw2 _ _ (by decide), kvRead_kvWrite_same hw1]
  · rw [kvRead_kvWrite_same hw2, BitVec.getLsbD_and, BitVec.getLsbD_not]
    simp
  · rw [kvRead_kvWrite_other hw2 _ _ (by omega), kvRead_kvWrite_other hw1 _ _ (by omega), kvRead_kvWrite_other hw _ _ (by omega)]

theorem kvSegmentResume_acts (c : CellId) (n : Nat) (s : State) : ∃ t, exec (.kvSegmentResume c n) s = .next t ∧ t.mem = s.mem ∧
    (∀ h ∈ t.kv, h.at_ = some (c, n) → h.held = false) ∧ t.kv.map KvHalf.words = s.kv.map KvHalf.words := by
  refine ⟨s.kvResume (c, n), rfl, rfl, fun h hh hat => ?_, ?_⟩
  · obtain ⟨k, -, rfl⟩ := List.mem_map.mp hh
    split
    · rfl
    · next hk => exact absurd (by rwa [if_neg hk] at hat) hk
  · refine (List.map_map ..).trans (List.map_congr_left fun k _ => ?_)
    show KvHalf.words (if k.at_ = some (c, n) then { k with held := false } else k) = k.words
    split <;> rfl

/-! ## A complete half-write (R176) -/

theorem State.kvSegOf_here {s : State} {h : KvHalf} {g : KvSeg} (hplace : s.kvPlaceOf h.slot h.layer h.pos = .here g) : s.kvSegOf h = some g := by
  rw [State.kvSegOf, hplace]

theorem kvHalfWrite_reaches {k : Nat} {s : State} {h : KvHalf} {g : KvSeg} (hk : s.kv[k]? = some h) (hheld : h.held = false)
    (hneed : h.words.length = h.need) (hplace : s.kvPlaceOf h.slot h.layer h.pos = .here g) (hbehind : s.kvBehind k h (some g) = false)
    (hdown : s.kvDown h = false) : exec (.kvHalfWrite k) s = .next (State.kvReaches { s with kv := s.kv.eraseIdx k } h g) := by
  refine congrArg Host.Outcome.next ?_
  rw [State.kvPerform, hk]
  dsimp only
  rw [State.kvSegOf_here hplace, hbehind, hheld, hneed, hdown, hplace]
  exact (if_neg (by simp)).trans rfl

theorem kvSegmentsAct : Says.KvSegmentsAct := by
  refine ⟨fun k s h g hk hheld hneed hplace hbehind hdown hw => ?_, fun k s h g _ hplace => State.kvSegOf_here hplace,
    fun m g h hw hreach hfits hgen hpos => kvAccept_entry m g h hw hreach hfits hgen hpos, kvAdvance_spec, kvSegmentSwitch_acts, kvSegmentResume_acts⟩
  have hexec := kvHalfWrite_reaches hk hheld hneed hplace hbehind hdown
  obtain ⟨hdropped, haccepted, hkv, -⟩ := State.kvReaches_spec { s with kv := s.kv.eraseIdx k } h g hw
  refine ⟨fun hin => ⟨_, hexec, hkv, fun a => haccepted ?_ a⟩, fun hpos hgen => ⟨_, hexec, hkv, fun a => hdropped ⟨hpos, hgen⟩ a⟩⟩
  rintro ⟨h1, h2⟩
  obtain h3 | h3 := hin
  · exact absurd h3 (Nat.not_lt.mpr h1)
  · exact absurd h2 (Nat.not_lt.mpr h3)


/-! PROOFS. The command in hand at a stream port: what its step touches besides memory (R337, R345, R379, R380; O41). -/

/-! ## Commands in hand -/

theorem oldestEach_map {g : Cmd → Cmd} (hg : ∀ d, (g d).owner = d.owner) (l : List Cmd) : oldestEach (l.map g) = (oldestEach l).map g := by
  induction l with
  | nil => rfl
  | cons c cs ih =>
    rw [List.map_cons, oldestEach, oldestEach, ih, List.map_cons, List.filter_map]
    refine congrArg (g c :: List.map g ·) (List.filter_congr fun d _ => ?_)
    rw [Function.comp_apply, hg, hg]

section
variable {s t : State} {r p : Nat} {c : Cmd}

/-- The command in hand after the commands of its ticket were rewritten. -/
theorem State.portCmds_map {f : Cmd → Cmd} (hf : ∀ d, (f d).port = d.port ∧ (f d).owner = d.owner)
    (ht : (t.region r).cmds = (s.region r).cmds.map (fun d => if d.tick = c.tick then f d else d)) (h : s.portCmds r p = [c]) :
    t.portCmds r p = [f c] := by
  have hport : ∀ d : Cmd, (if d.tick = c.tick then f d else d).port = d.port := fun d => by
    split
    · exact (hf d).1
    · rfl
  have howner : ∀ d : Cmd, (if d.tick = c.tick then f d else d).owner = d.owner := fun d => by
    split
    · exact (hf d).2
    · rfl
  have hfilter : (t.region r).cmds.filter (fun d => d.port = p) =
      ((s.region r).cmds.filter (fun d => d.port = p)).map (fun d => if d.tick = c.tick then f d else d) := by
    rw [ht, List.filter_map]
    exact congrArg _ (List.filter_congr fun d _ => by rw [Function.comp_apply, hport])
  rw [State.portCmds] at h ⊢
  rw [hfilter, oldestEach_map howner, h, List.map_singleton, if_pos rfl]

theorem State.Sole.mem (h : s.Sole r p c) : c ∈ (s.region r).cmds ∧ c.port = p := by
  have honly : oldestEach ((s.region r).cmds.filter (fun d => d.port = p)) = [c] := h.only
  cases hl : (s.region r).cmds.filter (fun d => d.port = p) with
  | nil => rw [hl] at honly; cases honly
  | cons d ds =>
    rw [hl] at honly
    obtain ⟨rfl, -⟩ := List.cons.inj honly
    have hd : d ∈ (s.region r).cmds.filter (fun d => d.port = p) := by rw [hl]; exact List.mem_cons_self
    exact ⟨(List.mem_filter.mp hd).1, of_decide_eq_true (List.mem_filter.mp hd).2⟩

/-- No image shows a region that is not frozen. -/
theorem State.modHeld_thawed (h : (s.region r).frozen = none) (g : FImage → FImage) : s.modHeld r g = s := by
  have hnone : s.heldImages r = [] := by rw [State.heldImages, h]
  rw [State.modHeld, hnone]
  rfl

theorem State.onStores_thawed (h : (s.region r).frozen = none) (g : Memory → Memory) : s.onStores r g = { s with mem := g s.mem } :=
  State.modHeld_thawed (s := { s with mem := g s.mem }) h _

/-- A step for the one command in hand, of the launch that stands there. -/
theorem State.Sole.atPort (h : s.Sole r p c) {go : State → Cmd → State} (hthaw : ((go s c).region r).frozen = none) :
    s.atPort r p go = go s c := by
  rw [State.atPort, h.only, List.foldl_cons, List.foldl_nil, State.forCmd, State.awayOf, if_pos h.here]
  show (go s c).echo r = go s c
  rw [State.echo]
  exact State.modHeld_thawed hthaw _

end

/-! ## Counts, heat, flits and progress -/

/-- Memory, and every region's commands and freeze, are as before. -/
structure State.Books (s t : State) : Prop where
  mem : t.mem = s.mem
  regions : ∀ q, (t.region q).cmds = (s.region q).cmds ∧ (t.region q).frozen = (s.region q).frozen

theorem State.Books.refl (s : State) : s.Books s := ⟨rfl, fun _ => ⟨rfl, rfl⟩⟩

theorem State.Books.trans {s t w : State} (h : s.Books t) (k : t.Books w) : s.Books w :=
  ⟨k.mem.trans h.mem, fun q => ⟨(k.regions q).1.trans (h.regions q).1, (k.regions q).2.trans (h.regions q).2⟩⟩

theorem State.Books.foldl {α : Type} {f : State → α → State} (hf : ∀ (s : State) x, s.Books (f s x)) (l : List α) (s : State) :
    s.Books (l.foldl f s) := by
  induction l generalizing s with
  | nil => exact .refl s
  | cons x l ih => exact (hf s x).trans (ih _)

section
variable (s : State) (r : Nat) (c : Cmd)

theorem State.OnlyCounts.books {s t : State} (h : s.OnlyCounts t) : s.Books t :=
  ⟨by rw [h.rest], fun q => by rw [h.regions q]; exact ⟨rfl, rfl⟩⟩

theorem State.books_modRegion {f : Region → Region} (hf : ∀ R, (f R).cmds = R.cmds ∧ (f R).frozen = R.frozen) : s.Books (s.modRegion r f) := by
  refine ⟨rfl, fun q => ?_⟩
  rw [State.region_modRegion]
  split
  · next hq => rw [hq]; exact hf _
  · exact ⟨rfl, rfl⟩

theorem State.books_heatTouch (p : Nat) (va : Word) : s.Books (s.heatTouch r p va) := by
  have hat : s.Books (s.heatAt r p va) := by
    rw [State.heatAt]
    split
    · exact .refl s
    · refine State.Books.trans ?_ (State.countPort_onlyCounts ..).books
      exact s.books_modRegion r fun _ => ⟨rfl, rfl⟩
  rw [State.heatTouch, State.modHeat]
  exact hat.trans (State.books_modRegion _ r fun _ => ⟨rfl, rfl⟩)

theorem State.books_heatRun (i n : Nat) : s.Books (s.heatRun r c i n) := .foldl (fun s _ => s.books_heatTouch r c.port _) _ s

theorem State.books_countFlits (cs : List CtxRef) : s.Books (s.countFlits cs) := 
  .foldl (f := fun (s : State) (k : CtxRef) => s.countFlit k.1 k.2.1 k.2.2) (fun _ _ => ⟨rfl, fun _ => ⟨rfl, rfl⟩⟩) cs s

theorem State.books_countStream (p : Nat) (ts : List (Target × Nat)) : s.Books (s.countStream r p ts) :=
  .foldl (fun s _ => (State.countPort_onlyCounts s r (4 + p) _ _).books) ts s

theorem State.books_setHandle (h : Nat) (x : Handle) : s.Books (s.setHandle r h x) := s.books_modRegion r fun _ => ⟨rfl, rfl⟩

theorem State.books_modHandleOf (f : Handle → Handle) : s.Books (s.modHandleOf r c f) := s.books_setHandle _ _ _

theorem State.books_raise (a : Async) (v : Word) : s.Books (s.raise r a v) := by
  rw [State.raise]
  split
  · exact s.books_modRegion r fun _ => ⟨rfl, rfl⟩
  · exact .refl s

theorem State.modCmd_spec (tick : Nat) (f : Cmd → Cmd) : (s.modCmd r tick f).mem = s.mem ∧
    ((s.modCmd r tick f).region r).cmds = (s.region r).cmds.map (fun d => if d.tick = tick then f d else d) ∧
    ((s.modCmd r tick f).region r).frozen = (s.region r).frozen := by
  rw [State.modCmd, State.region_modRegion_same]
  exact ⟨rfl, rfl, rfl⟩

/-- What the bookkeeping of moved elements leaves. -/
theorem State.moved_spec (tss : List (List (Target × Nat))) (f : Cmd → Cmd) : (s.moved r c tss f).mem = s.mem ∧
    ((s.moved r c tss f).region r).cmds = (s.region r).cmds.map (fun d => if d.tick = c.tick then f d else d) ∧
    ((s.moved r c tss f).region r).frozen = (s.region r).frozen ∧
    ((s.moved r c tss f).handle (c.home.getD r) c.h).progress = (f c).done := by
  let s1 := s.countStream r c.port tss.flatten
  let s2 := s1.modCmd r c.tick f
  let s3 := s2.heatRun r c c.done ((f c).done - c.done)
  let s4 := (List.range (c.flitsTo (f c).done - c.flitsTo c.done)).foldl (fun s _ => s.countFlits c.ctxs) s3
  let s5 := if (f c).done = c.done then s4 else s4.stir r
  have h5 : s4.Books s5 := by
    show s4.Books (if (f c).done = c.done then s4 else s4.stir r)
    split
    · exact .refl _
    · exact (State.stir_onlyCounts s4 r).books
  have h25 : s2.Books s5 := ((s2.books_heatRun r c _ _).trans (.foldl (fun s _ => s.books_countFlits c.ctxs) _ s3)).trans h5
  have hlast : s.moved r c tss f = s5.modHandleOf r c (fun x => { x with progress := (f c).done }) := rfl
  have h2 : s2.Books (s.moved r c tss f) := by
    rw [hlast]
    exact h25.trans (s5.books_modHandleOf r c _)
  have h1 : s.Books s1 := s.books_countStream r c.port _
  obtain ⟨hmem, hcmds, hfrozen⟩ := s1.modCmd_spec r c.tick f
  refine ⟨h2.mem.trans (hmem.trans h1.mem), ?_, ?_, ?_⟩
  · rw [(h2.regions r).1, hcmds, (h1.regions r).1]
  · rw [(h2.regions r).2, hfrozen, (h1.regions r).2]
  · rw [hlast, State.modHandleOf, State.handle_setHandle_same]

end

/-! ## The port accepts (R379) -/

/-- Only the counts and the commands of regions differ. -/
structure State.Asks (s t : State) : Prop where
  rest : t = { s with regions := t.regions }
  regions : ∀ q, ∃ a b d e, t.region q = { s.region q with ctr := a, ctrNow := b, busy := d, cmds := e }

theorem State.asks_askElem (s : State) (r : Nat) (c : Cmd) (n : Nat) : s.Asks (s.askElem r c n) := by
  have hmod : s.Asks (s.modCmd r c.tick (fun c => { c with asked := c.next + n })) := by
    refine ⟨rfl, fun q => ?_⟩
    rw [State.modCmd, State.region_modRegion]
    split
    · next hq => rw [hq]; exact ⟨_, _, _, _, rfl⟩
    · exact ⟨_, _, _, _, rfl⟩
  rw [State.askElem]
  split
  · exact ⟨rfl, fun _ => ⟨_, _, _, _, rfl⟩⟩
  · have hcount := State.countPort_onlyCounts (s.modCmd r c.tick (fun c => { c with asked := c.next + n })) r (4 + c.port) 9
      (c.next + n - max c.asked c.next)
    refine ⟨hcount.rest.trans (by rw [hmod.rest]), fun q => ?_⟩
    obtain ⟨a, b, d, e, hq⟩ := hmod.regions q
    exact ⟨_, _, _, _, (hcount.regions q).trans (by rw [hq])⟩

section
variable {s t : State} (h : s.Asks t)
include h

theorem State.Asks.xlatPort (r port : Nat) (va : Word) (acc : Access) : t.xlatPort r port va acc = s.xlatPort r port va acc := by
  obtain ⟨a, b, d, e, hr⟩ := h.regions r
  have hmem : t.mem = s.mem := by rw [h.rest]
  unfold State.xlatPort State.pagedEntry State.translatePort State.translateBy
  rw [hr, hmem]
  rfl

theorem State.Asks.routeDown (die a : Nat) : t.routeDown die a = s.routeDown die a := by rw [h.rest]; rfl

theorem State.Asks.farXlat (r p : Nat) (acc : Access) (l : List (Word × Nat)) : t.farXlat r p acc l = s.farXlat r p acc l := by
  induction l with
  | nil => rfl
  | cons x l ih =>
    obtain ⟨va, n⟩ := x
    simp only [State.farXlat, h.xlatPort, h.routeDown, ih]

theorem State.Asks.nearBad (r : Nat) (x : Shape) (o : Nat) : t.nearBad r x o = s.nearBad r x o := by
  obtain ⟨a, b, d, e, hr⟩ := h.regions r
  unfold State.nearBad State.rcap State.scap
  rw [hr]
  rfl

theorem State.Asks.farReads (tick : Nat) (held : Option (Nat × List (Word × Bool))) (tss : List (List (Target × Nat))) :
    t.farReads tick held tss = s.farReads tick held tss := by
  have hone : ∀ held ts n, t.farOne tick held ts n = s.farOne tick held ts n := fun held ts n => by rw [h.rest]; rfl
  have hread : ∀ ts held, t.farRead tick held ts = s.farRead tick held ts := fun ts => by
    induction ts with
    | nil => exact fun _ => rfl
    | cons x ts ih =>
      obtain ⟨a, n⟩ := x
      intro held
      simp only [State.farRead, hone, ih]
  induction tss generalizing held with
  | nil => rfl
  | cons ts tss ih => simp only [State.farReads, hread, ih]

theorem State.Asks.mem : t.mem = s.mem := by rw [h.rest]
theorem State.Asks.bankServes (a who : Nat) : t.bankServes a who = s.bankServes a who := by rw [h.rest]; rfl
theorem State.Asks.frozen (q : Nat) : (t.region q).frozen = (s.region q).frozen := by
  obtain ⟨a, b, d, e, hq⟩ := h.regions q
  rw [hq]

end

/-- The commands once the port has accepted the next elements of one. -/
theorem State.askElem_cmds {s : State} {r p : Nat} {c : Cmd} (n : Nat) (h : s.portCmds r p = [c]) :
    (s.askElem r c n).portCmds r p = [{ c with asked := max c.asked (c.next + n) }] := by
  rw [State.askElem]
  split
  · next hle => rw [Nat.max_eq_left hle]; exact h
  · next hlt =>
    have hmax : max c.asked (c.next + n) = c.next + n := Nat.max_eq_right (by omega)
    rw [hmax]
    have hcount := State.countPort_onlyCounts (s.modCmd r c.tick (fun c => { c with asked := c.next + n })) r (4 + c.port) 9
      (c.next + n - max c.asked c.next)
    refine State.portCmds_map (f := fun d => { d with asked := d.next + n }) (fun d => ⟨rfl, rfl⟩) ?_ h
    rw [(hcount.books.regions r).1]
    exact (State.modCmd_spec _ r c.tick _).2.1


/-! PROOFS. Elements as they are read from the far side and written to the near side (R115, R137, R159, R335; O41). -/

/-! ## What the far side gives -/

theorem pow_256 (n : Nat) : 256 ^ n = 2 ^ (8 * n) := (Nat.pow_mul 2 8 n).symm

section
variable {s : State} {tick n v : Nat} {q : Bool}

theorem State.farOne_lt {held held' : Option (Nat × List (Word × Bool))} {t : Target} (h : s.farOne tick held t n = some ((v, q), held')) :
    v < 2 ^ (8 * n) := by
  cases t with
  | plain a =>
    rw [State.farOne] at h
    split at h
    · cases h
    · cases h
      rw [← pow_256]
      exact Memory.readNat_lt ..
  | stamped base off =>
    rw [State.farOne] at h
    split at h
    · cases h
      exact Nat.mod_lt _ (Nat.two_pow_pos _)
    · cases hl : s.readLine base (off / 64) with
      | none => rw [hl] at h; cases h
      | some l =>
        rw [hl] at h
        cases h
        exact Nat.mod_lt _ (Nat.two_pow_pos _)

theorem State.farRead_lt {held held' : Option (Nat × List (Word × Bool))} {ts : List (Target × Nat)}
    (h : s.farRead tick held ts = some ((v, q), held')) : v < 2 ^ (8 * (ts.map Prod.snd).sum) := by
  induction ts generalizing v q held held' with
  | nil => cases h; exact Nat.two_pow_pos _
  | cons x ts ih =>
    obtain ⟨t, n⟩ := x
    rw [State.farRead] at h
    cases h1 : s.farOne tick held t n with
    | none => rw [h1] at h; cases h
    | some e =>
      obtain ⟨⟨v1, q1⟩, held1⟩ := e
      rw [h1] at h
      cases h2 : s.farRead tick held1 ts with
      | none => simp only [h2] at h; cases h
      | some e =>
        obtain ⟨⟨w, q2⟩, held2⟩ := e
        simp only [h2] at h
        cases h
        have hv := State.farOne_lt h1
        have hw := ih h2
        rw [List.map_cons, List.sum_cons, Nat.mul_add, Nat.pow_add]
        calc v1 + 2 ^ (8 * n) * w < 2 ^ (8 * n) * (w + 1) := by rw [Nat.mul_succ]; omega
          _ ≤ 2 ^ (8 * n) * 2 ^ (8 * (ts.map Prod.snd).sum) := Nat.mul_le_mul_left _ hw

theorem State.farReads_spec {held held' : Option (Nat × List (Word × Bool))} {tss : List (List (Target × Nat))} {vs : List (Nat × Bool)}
    (h : s.farReads tick held tss = some (vs, held')) (hn : ∀ ts ∈ tss, (ts.map Prod.snd).sum = n) :
    vs.length = tss.length ∧ ∀ e ∈ vs, e.1 < 2 ^ (8 * n) := by
  induction tss generalizing vs held held' with
  | nil => cases h; exact ⟨rfl, fun e he => absurd he List.not_mem_nil⟩
  | cons ts tss ih =>
    rw [State.farReads] at h
    cases h1 : s.farRead tick held ts with
    | none => rw [h1] at h; cases h
    | some e =>
      obtain ⟨⟨v, q⟩, held1⟩ := e
      rw [h1] at h
      cases h2 : s.farReads tick held1 tss with
      | none => simp only [h2] at h; cases h
      | some e =>
        obtain ⟨ws, held2⟩ := e
        simp only [h2] at h
        cases h
        obtain ⟨hlen, hall⟩ := ih h2 fun ts hts => hn ts (List.mem_cons_of_mem _ hts)
        refine ⟨congrArg (· + 1) hlen, fun e he => ?_⟩
        obtain rfl | he := List.mem_cons.mp he
        · exact hn ts List.mem_cons_self ▸ State.farRead_lt h1
        · exact hall e he

end

theorem mapM_some {α β : Type} {f : α → Option β} {l : List α} {l' : List β} (h : l.mapM f = some l') :
    l'.length = l.length ∧ ∀ y ∈ l', ∃ x ∈ l, f x = some y := by
  induction l generalizing l' with
  | nil => cases h; exact ⟨rfl, fun y hy => absurd hy List.not_mem_nil⟩
  | cons x l ih =>
    rw [List.mapM_cons] at h
    cases hx : f x with
    | none => rw [hx] at h; cases h
    | some y =>
      cases hl : l.mapM f with
      | none => rw [hx, hl] at h; cases h
      | some ys =>
        rw [hx, hl] at h
        cases h
        obtain ⟨hlen, hall⟩ := ih hl
        refine ⟨congrArg (· + 1) hlen, fun z hz => ?_⟩
        obtain rfl | hz := List.mem_cons.mp hz
        · exact ⟨x, List.mem_cons_self, hx⟩
        · obtain ⟨w, hw, hf⟩ := hall z hz
          exact ⟨w, List.mem_cons_of_mem _ hw, hf⟩

section
variable {s : State} {r p n : Nat} {c : Cmd}

theorem State.farXlat_sizes {acc : Access} {l : List (Word × Nat)} {ts : List (Target × Nat)} (h : s.farXlat r p acc l = .ok ts) :
    ts.map Prod.snd = l.map Prod.snd := by
  induction l generalizing ts with
  | nil => cases h; rfl
  | cons x l ih =>
    obtain ⟨va, n⟩ := x
    rw [State.farXlat] at h
    split at h
    · cases h
    split at h
    · cases h
    · cases h
    · cases h
    split at h
    · cases h
    cases hl : s.farXlat r p acc l with
    | ok us => rw [hl] at h; cases h; rw [List.map_cons, List.map_cons, ih hl]
    | walk | absent | stops => rw [hl] at h; cases h

theorem farPieces_size (va : Word) (n : Nat) : ((farPieces va n).map Prod.snd).sum = n := by
  rw [farPieces]
  split
  · rw [List.map_singleton, List.sum_singleton]
  · rw [List.map_map]
    have hone : (List.range n).map (Prod.snd ∘ fun i => (va + BitVec.ofNat 64 i, 1)) = List.replicate n 1 := by
      refine List.eq_replicate_iff.mpr ⟨by rw [List.length_map, List.length_range], fun b hb => ?_⟩
      obtain ⟨i, -, rfl⟩ := List.mem_map.mp hb
      rfl
    rw [hone, List.sum_replicate, smul_eq_mul, Nat.mul_one]

theorem State.farRow_spec {tss : List (List (Target × Nat))} (h : s.farRow r c n = some tss) :
    tss.length = n ∧ ∀ ts ∈ tss, (ts.map Prod.snd).sum = c.rec_.esz := by
  rw [State.farRow] at h
  obtain ⟨hlen, hall⟩ := mapM_some h
  refine ⟨hlen.trans List.length_range, fun ts hts => ?_⟩
  obtain ⟨i, -, hi⟩ := hall ts hts
  split at hi
  · next us hus =>
    cases hi
    rw [State.farXlat_sizes hus, farPieces_size]
  · cases hi

/-! ## What a link makes of it (R137) -/

/-- Crossing links takes values as they are; only a free value is drawn. -/
theorem State.carriedAll_spec (s : State) (die : Nat) (tss : List (List (Target × Nat))) (vs : List (Nat × Bool)) (hlen : vs.length = tss.length) :
    (s.carriedAll die tss vs).1.map Prod.fst = vs.map Prod.fst ∧ ∃ k, (s.carriedAll die tss vs).2 = { s with freeCtr := k } := by
  have hcarried : ∀ (a : Nat) (q : Bool) (s : State), ∃ k, (s.carried die a q).2 = { s with freeCtr := k } := fun a q s => by
    rw [State.carried_eq]
    exact ⟨_, rfl⟩
  have hfold : ∀ (ts : List (Target × Nat)) (q : Bool) (s : State), ∃ k,
      (ts.foldl (fun (e : Bool × State) t => State.carried e.2 die t.1.addr e.1) (q, s)).2 = { s with freeCtr := k } := fun ts => by
    induction ts with
    | nil => exact fun q s => ⟨_, rfl⟩
    | cons t ts ih =>
      intro q s
      obtain ⟨k, hk⟩ := hcarried t.1.addr q s
      obtain ⟨j, hj⟩ := ih (s.carried die t.1.addr q).1 (s.carried die t.1.addr q).2
      refine ⟨j, hj.trans ?_⟩
      rw [hk]
  induction tss generalizing s vs with
  | nil =>
    obtain rfl := List.length_eq_zero_iff.mp hlen
    exact ⟨rfl, _, rfl⟩
  | cons ts tss ih =>
    cases vs with
    | nil => cases hlen
    | cons e vs =>
      obtain ⟨v, q⟩ := e
      obtain ⟨k, hk⟩ := hfold ts q s
      obtain ⟨hvs, j, hj⟩ := ih (ts.foldl (fun (e : Bool × State) t => State.carried e.2 die t.1.addr e.1) (q, s)).2 vs (Nat.succ.inj hlen)
      refine ⟨congrArg (v :: ·) hvs, j, hj.trans ?_⟩
      rw [hk]

end

/-! ## Elements written one after another, or as a row (R115) -/

section
variable {m : Memory} (hw : m.wf = true) {a n : Nat}

/-- Elements of n bytes written from an address on. -/
def Memory.putElems (m : Memory) (n a k : Nat) (vs : List (Nat × Bool)) : Memory :=
  (vs.zipIdx k).foldl (fun m e => m.nearStore (a + n * e.2) n e.1.1 e.1.2) m

/-- Elements written at a near address: an aligned row of them as one event of 64 bytes. -/
def Memory.nearPut (n : Nat) (vs : List (Nat × Bool)) (m : Memory) (a : Nat) : Memory :=
  if 1 < vs.length && a % 64 = 0 then m.writeRow a (packElems64 n vs) (vs.any Prod.snd) else m.putElems n a 0 vs

theorem Memory.putElems_cons (m : Memory) (n a k : Nat) (e : Nat × Bool) (vs : List (Nat × Bool)) :
    m.putElems n a k (e :: vs) = (m.nearStore (a + n * k) n e.1 e.2).putElems n a (k + 1) vs := rfl

include hw

theorem Memory.wf_putElems (k : Nat) (vs : List (Nat × Bool)) : (m.putElems n a k vs).wf = true :=
  Memory.wf_foldl (fun _ _ h => Memory.wf_nearStore h _ _ _ _) _ hw

theorem Memory.byte_putElems_other {k : Nat} {vs : List (Nat × Bool)} {c : Nat} (hc : c < a + n * k ∨ a + n * (k + vs.length) ≤ c) :
    (m.putElems n a k vs).byte c = m.byte c := by
  induction vs generalizing m k with
  | nil => rfl
  | cons e vs ih =>
    have hk : n * (k + 1) = n * k + n := Nat.mul_succ n k
    have hlen : n * (k + (e :: vs).length) = n * (k + 1 + vs.length) := by rw [List.length_cons]; congr 1; omega
    have hle : n * (k + 1) ≤ n * (k + 1 + vs.length) := Nat.mul_le_mul_left n (by omega)
    rw [hlen] at hc
    rw [Memory.putElems_cons, ih (Memory.wf_nearStore hw _ _ _ _) (by omega), Memory.byte_nearStore_other hw _ _ (by omega)]

theorem Memory.readNat_putElems (hn : n ≤ 8) {k i v : Nat} {q : Bool} {vs : List (Nat × Bool)} (h : vs[i]? = some (v, q)) :
    (m.putElems n a k vs).readNat (a + n * (k + i)) n = v % 2 ^ (8 * n) := by
  induction vs generalizing m k i with
  | nil => cases h
  | cons e vs ih =>
    have hwf := Memory.wf_nearStore hw (a + n * k) n e.1 e.2
    rw [Memory.putElems_cons]
    cases i with
    | zero =>
      cases h
      rw [Nat.add_zero, ← Memory.readNat_nearStore hw v q hn]
      refine Memory.readNat_congr fun c _ hc => Memory.byte_putElems_other hwf (.inl ?_)
      have hk : n * (k + 1) = n * k + n := Nat.mul_succ n k
      have hk0 : n * (k + 0) = n * k := rfl
      omega
    | succ i =>
      have hi := ih hwf (k := k + 1) (i := i) h
      rw [show k + (i + 1) = k + 1 + i by omega]
      exact hi

theorem Memory.readNat_writeRow_part (r : Row) (p : Bool) {k : Nat} (hk : k + n ≤ 64) :
    (m.writeRow a r p).readNat (a + k) n = r.toNat / 256 ^ k % 256 ^ n := by
  rw [← Memory.readNat_writeNat hw (a + k) n (r.toNat / 256 ^ k)]
  refine Memory.readNat_congr fun c h1 h2 => ?_
  rw [Memory.byte_writeRow hw, Memory.byte_writeNat hw, if_pos (by omega), if_pos (by omega), Nat.div_div_eq_div_mul, ← Nat.pow_add,
    show k + (c - (a + k)) = c - a by omega]

theorem Memory.readNat_writeRow_elem {vs : List (Nat × Bool)} (hrow : n * vs.length = 64) (p : Bool) {i v : Nat} {q : Bool}
    (h : vs[i]? = some (v, q)) : (m.writeRow a (packElems64 n vs) p).readNat (a + n * i) n = v % 2 ^ (8 * n) := by
  obtain ⟨hi, -⟩ := List.getElem?_eq_some_iff.mp h
  have hfit : n * i + n ≤ 64 := hrow ▸ Nat.mul_le_mul_left n hi
  have hlanes : 8 * n * (vs.map Prod.fst).length ≤ 512 := by
    rw [List.length_map, Nat.mul_assoc, hrow]
  have hget : (vs.map Prod.fst).getD i 0 = v := by
    rw [List.getD_eq_getElem?_getD, List.getElem?_map, h]
    rfl
  rw [Memory.readNat_writeRow_part hw _ _ hfit, packElems64, toNat_rowOf hlanes, pow_256, pow_256, ← Nat.mul_assoc]
  exact (elem_pack (8 * n) _ i).trans (by rw [hget])

theorem Memory.wf_nearPut (vs : List (Nat × Bool)) : (m.nearPut n vs a).wf = true := by
  rw [Memory.nearPut]
  split
  · exact Memory.wf_writeRow hw _ _ _
  · exact Memory.wf_putElems hw _ _

theorem Memory.byte_nearPut_other {vs : List (Nat × Bool)} (hrow : 1 < vs.length → n * vs.length = 64) {c : Nat}
    (hc : c < a ∨ a + n * vs.length ≤ c) : (m.nearPut n vs a).byte c = m.byte c := by
  rw [Memory.nearPut]
  split
  · next h =>
    have := hrow (of_decide_eq_true (Bool.and_eq_true _ _ ▸ h).1)
    rw [Memory.byte_writeRow hw, if_neg (by omega)]
  · exact Memory.byte_putElems_other hw (by rwa [Nat.mul_zero, Nat.add_zero, Nat.zero_add])

theorem Memory.readNat_nearPut (hn : n ≤ 8) {vs : List (Nat × Bool)} (hrow : 1 < vs.length → n * vs.length = 64) {i v : Nat} {q : Bool}
    (h : vs[i]? = some (v, q)) : (m.nearPut n vs a).readNat (a + n * i) n = v % 2 ^ (8 * n) := by
  rw [Memory.nearPut]
  split
  · next hr => exact Memory.readNat_writeRow_elem hw (hrow (of_decide_eq_true (Bool.and_eq_true _ _ ▸ hr).1)) _ h
  · have hput := Memory.readNat_putElems hw hn (a := a) (k := 0) h
    rwa [Nat.zero_add] at hput

/-- The same elements written at several addresses that lie apart: each holds them. -/
theorem Memory.nearPuts_read (hn : n ≤ 8) {vs : List (Nat × Bool)} (hrow : 1 < vs.length → n * vs.length = 64) {as : List Nat}
    (hapart : ∀ a ∈ as, ∀ b ∈ as, a = b ∨ a + n * vs.length ≤ b ∨ b + n * vs.length ≤ a) :
    (as.foldl (Memory.nearPut n vs) m).wf = true ∧
      (∀ c, (∀ a ∈ as, c < a ∨ a + n * vs.length ≤ c) → (as.foldl (Memory.nearPut n vs) m).byte c = m.byte c) ∧
      ∀ a ∈ as, ∀ i v q, vs[i]? = some (v, q) → (as.foldl (Memory.nearPut n vs) m).readNat (a + n * i) n = v % 2 ^ (8 * n) := by
  induction as generalizing m with
  | nil => exact ⟨hw, fun c _ => rfl, fun a ha => absurd ha List.not_mem_nil⟩
  | cons a as ih =>
    obtain ⟨hwf, hother, hread⟩ := ih (Memory.wf_nearPut hw (a := a) (n := n) vs) fun x hx y hy =>
      hapart x (List.mem_cons_of_mem _ hx) y (List.mem_cons_of_mem _ hy)
    refine ⟨hwf, fun c hc => ?_, fun x hx i v q h => ?_⟩
    · rw [List.foldl_cons, hother c fun b hb => hc b (List.mem_cons_of_mem _ hb), Memory.byte_nearPut_other hw hrow (hc a List.mem_cons_self)]
    · by_cases hin : x ∈ as
      · exact hread x hin i v q h
      · obtain rfl | hx := List.mem_cons.mp hx
        · obtain ⟨hi, -⟩ := List.getElem?_eq_some_iff.mp h
          have hfit : n * i + n ≤ n * vs.length := Nat.mul_le_mul_left n hi
          rw [List.foldl_cons, ← Memory.readNat_nearPut hw hn hrow h (a := x)]
          refine Memory.readNat_congr fun c h1 h2 => hother c fun b hb => ?_
          obtain rfl | hb' := hapart x List.mem_cons_self b (List.mem_cons_of_mem _ hb)
          · exact absurd hb hin
          · omega
        · exact absurd hx hin

end

/-- The near addresses of an offset lie apart. -/
theorem Shape.nearAddrs_apart (x : Shape) (r o : Nat) {len : Nat} (h : x.dest ≠ 2 → len ≤ 2 ^ 20) :
    ∀ a ∈ x.nearAddrs r o, ∀ b ∈ x.nearAddrs r o, a = b ∨ a + len ≤ b ∨ b + len ≤ a := by
  have hcell : ∀ c ∈ x.cells r, ∃ i, c = (⟨r, i⟩ : CellId) := fun c hc => by
    rw [Shape.cells] at hc
    split at hc
    · exact ⟨_, List.mem_singleton.mp hc⟩
    · obtain ⟨i, -, rfl⟩ := List.mem_map.mp hc
      exact ⟨i, rfl⟩
  intro a ha b hb
  rw [Shape.nearAddrs] at ha hb
  by_cases hd : x.dest = 2
  · rw [if_pos hd] at ha hb
    rw [List.mem_singleton.mp ha, List.mem_singleton.mp hb]
    exact .inl rfl
  · have hlen := h hd
    rw [if_neg hd] at ha hb
    obtain ⟨c, hc, rfl⟩ := List.mem_map.mp ha
    obtain ⟨e, he, rfl⟩ := List.mem_map.mp hb
    obtain ⟨i, rfl⟩ := hcell c hc
    obtain ⟨j, rfl⟩ := hcell e he
    obtain hij | rfl | hij := Nat.lt_trichotomy i j
    · right; left
      show 2 ^ 52 + (r * 16 + i) * 2 ^ 20 + o + len ≤ 2 ^ 52 + (r * 16 + j) * 2 ^ 20 + o
      omega
    · exact .inl rfl
    · right; right
      show 2 ^ 52 + (r * 16 + j) * 2 ^ 20 + o + len ≤ 2 ^ 52 + (r * 16 + i) * 2 ^ 20 + o
      omega


/-! PROOFS. A command moves its next elements (R115, R159, R335, R337; O41). -/

/-! ## Writes to the stores of a region that stands -/

section
variable {s : State} {r : Nat}

theorem State.foldl_onMem {α : Type} {f : State → α → State} {g : Memory → α → Memory}
    (hf : ∀ s : State, (s.region r).frozen = none → ∀ x, f s x = { s with mem := g s.mem x }) (l : List α) (h : (s.region r).frozen = none) :
    l.foldl f s = { s with mem := l.foldl g s.mem } := by
  induction l generalizing s with
  | nil => rfl
  | cons x l ih =>
    rw [List.foldl_cons, List.foldl_cons, hf s h x]
    exact ih (s := { s with mem := g s.mem x }) h

theorem State.nearWrite_thawed (h : (s.region r).frozen = none) {x : Shape} (hred : x.red = 0) (a v : Nat) (p : Bool) :
    s.nearWrite r x a v p = { s with mem := s.mem.nearStore a x.esz v p } := (if_pos hred).trans (State.onStores_thawed h _)

theorem State.takeBanks_rest (s : State) (as : List Nat) (who : Nat) :
    (s.takeBanks as who).mem = s.mem ∧ (s.takeBanks as who).regions = s.regions := by
  have hone : ∀ (s : State) a, (s.takeBank a who).mem = s.mem ∧ (s.takeBank a who).regions = s.regions := fun s a => by
    rw [State.takeBank]
    split <;> exact ⟨rfl, rfl⟩
  induction as generalizing s with
  | nil => exact ⟨rfl, rfl⟩
  | cons a as ih =>
    obtain ⟨h1, h2⟩ := hone s a
    obtain ⟨k1, k2⟩ := ih (s.takeBank a who)
    exact ⟨k1.trans h1, k2.trans h2⟩

theorem State.nearBanks_served {c : Cmd} {as : List Nat} (h : ∀ a ∈ as, s.bankServes a (streamWho c) = true) (t : State → State) :
    s.nearBanks r c as t = t (s.takeBanks as (streamWho c)) := by
  have hlost : as.filter (fun a => !s.bankServes a (streamWho c)) = [] :=
    List.filter_eq_nil_iff.mpr fun a ha => by rw [h a ha]; decide
  rw [State.nearBanks, hlost]
  exact if_pos rfl

end

/-- An aligned row of elements goes to its far side as one event. -/
theorem State.farWrites_row (s : State) (r : Nat) {n g : Nat} {tss : List (List (Target × Nat))} (hrow : farRowAt n tss = some g)
    (vs : List (Nat × Bool)) : ∃ p, (s.farWrites r n tss vs).mem = s.mem.writeRow g (packElems64 n vs) p ∧
      (s.farWrites r n tss vs).regions = s.regions := by
  rw [State.farWrites, hrow]
  dsimp only
  rw [State.carried_eq]
  exact ⟨_, rfl, rfl⟩

theorem State.farWrites_one (s : State) (r n g v : Nat) (q : Bool) : ∃ p,
    (s.farWrites r n [[(.plain g, n)]] [(v, q)]).mem = s.mem.store g n (BitVec.ofNat 64 v) p ∧
      (s.farWrites r n [[(.plain g, n)]] [(v, q)]).regions = s.regions := by
  have hone : s.farWrites r n [[(.plain g, n)]] [(v, q)] = s.farWrite (regionDie r) [(.plain g, n)] v q := rfl
  rw [hone, State.farWrite, State.carried_eq]
  exact ⟨_, rfl, rfl⟩

/-! ## Elements inward and outward -/

section
variable {s : State} {r o : Nat} {c : Cmd} {tss : List (List (Target × Nat))} (hthaw : (s.region r).frozen = none)
  (hserve : ∀ a ∈ (c.rec_.nearAddrs r o).flatMap (nearLines tss.length), s.bankServes a (streamWho c) = true)
include hthaw hserve

theorem State.elemIn_spec {vs : List (Nat × Bool)} {held : Option (Nat × List (Word × Bool))} (hred : c.rec_.red = 0)
    (hreads : s.farReads c.tick c.line tss = some (vs, held)) (hlen : vs.length = tss.length) :
    ∃ (ws : List (Nat × Bool)) (u : State), ws.map Prod.fst = vs.map Prod.fst ∧
      u.mem = (c.rec_.nearAddrs r o).foldl (Memory.nearPut c.rec_.esz ws) s.mem ∧ u.regions = s.regions ∧
      s.elemIn r c o tss = u.moved r c tss (Cmd.step tss.length held) := by
  obtain ⟨hmem, hregions⟩ := s.takeBanks_rest ((c.rec_.nearAddrs r o).flatMap (nearLines tss.length)) (streamWho c)
  rw [State.elemIn, hreads]
  dsimp only
  rw [State.nearBanks_served hserve]
  generalize s.takeBanks ((c.rec_.nearAddrs r o).flatMap (nearLines tss.length)) (streamWho c) = s1 at hmem hregions
  obtain ⟨hfst, k, hk⟩ := s1.carriedAll_spec (regionDie r) tss vs hlen
  generalize s1.carriedAll (regionDie r) tss vs = e at hfst hk
  obtain ⟨ws, s2⟩ := e
  dsimp only at hfst hk ⊢
  have hwlen : ws.length = tss.length := by rw [← hlen, ← List.length_map (f := Prod.fst), hfst, List.length_map]
  have hthaw2 : (s2.region r).frozen = none := by
    rw [hk]
    show ((Map.get s1.regions r {}).frozen) = none
    rw [hregions]
    exact hthaw
  have hput := State.foldl_onMem (s := s2) (r := r) (g := Memory.nearPut c.rec_.esz ws) (f := fun (s : State) (a : Nat) =>
      if 1 < tss.length && a % 64 = 0 then s.onStores r (fun m => m.writeRow a (packElems64 c.rec_.esz ws) (ws.any Prod.snd))
      else ws.zipIdx.foldl (fun s e => s.nearWrite r c.rec_ (a + c.rec_.esz * e.2) e.1.1 e.1.2) s) (fun s h a => ?_) (c.rec_.nearAddrs r o) hthaw2
  · refine ⟨ws, { s2 with mem := (c.rec_.nearAddrs r o).foldl (Memory.nearPut c.rec_.esz ws) s2.mem }, hfst, ?_, ?_,
      congrArg (fun u : State => u.moved r c tss (Cmd.step tss.length held)) hput⟩
    · show _ = (c.rec_.nearAddrs r o).foldl (Memory.nearPut c.rec_.esz ws) s.mem
      rw [← hmem, hk]
    · show s2.regions = s.regions
      rw [← hregions, hk]
  · rw [Memory.nearPut, hwlen]
    split
    · exact State.onStores_thawed h _
    · exact State.foldl_onMem (g := fun (m : Memory) (e : (Nat × Bool) × Nat) => m.nearStore (a + c.rec_.esz * e.2) c.rec_.esz e.1.1 e.1.2)
        (fun s h e => State.nearWrite_thawed h hred _ _ _) _ h

omit hthaw

theorem State.elemOut_row {g : Nat} (hrow : farRowAt c.rec_.esz tss = some g) :
    ∃ (u : State) (p : Bool),
      u.mem = s.mem.writeRow g (packElems64 c.rec_.esz (s.nearElems c.rec_.esz ((c.rec_.nearAddrs r o).headD 0) tss.length)) p ∧
      u.regions = s.regions ∧ s.elemOut r c o tss = u.moved r c tss (Cmd.step tss.length none) := by
  obtain ⟨hmem, hregions⟩ := s.takeBanks_rest ((c.rec_.nearAddrs r o).flatMap (nearLines tss.length)) (streamWho c)
  rw [State.elemOut, State.nearBanks_served hserve]
  generalize s.takeBanks ((c.rec_.nearAddrs r o).flatMap (nearLines tss.length)) (streamWho c) = s1 at hmem hregions
  obtain ⟨p, hwrite, hkeep⟩ := s1.farWrites_row r hrow (s1.nearElems c.rec_.esz ((c.rec_.nearAddrs r o).headD 0) tss.length)
  refine ⟨_, p, hwrite.trans ?_, hkeep.trans hregions, rfl⟩
  unfold State.nearElems
  rw [hmem]

theorem State.elemOut_one {g : Nat} (htss : tss = [[(.plain g, c.rec_.esz)]]) :
    ∃ (u : State) (p : Bool),
      u.mem = s.mem.store g c.rec_.esz (BitVec.ofNat 64 (s.mem.readNat ((c.rec_.nearAddrs r o).headD 0) c.rec_.esz)) p ∧
      u.regions = s.regions ∧ s.elemOut r c o tss = u.moved r c tss (Cmd.step 1 none) := by
  obtain ⟨hmem, hregions⟩ := s.takeBanks_rest ((c.rec_.nearAddrs r o).flatMap (nearLines tss.length)) (streamWho c)
  rw [State.elemOut, State.nearBanks_served hserve]
  generalize s.takeBanks ((c.rec_.nearAddrs r o).flatMap (nearLines tss.length)) (streamWho c) = s1 at hmem hregions
  rw [htss, ← hmem]
  obtain ⟨p, hwrite, hkeep⟩ := s1.farWrites_one r c.rec_.esz g (s1.mem.readNat ((c.rec_.nearAddrs r o).headD 0) c.rec_.esz)
    (s1.mem.poisoned ((c.rec_.nearAddrs r o).headD 0) || s1.mem.poisoned ((c.rec_.nearAddrs r o).headD 0 + c.rec_.esz - 1))
  exact ⟨_, p, hwrite, hkeep.trans hregions, rfl⟩

end

/-! ## The next step of a command between memory and a store (R335, R337) -/

/-- A started command whose next element lies in its scratchpad or region store, with nothing in its way. -/
structure State.Moves (s : State) (r : Nat) (c : Cmd) : Prop where
  started : c.started = true
  stop : c.stop = none
  held : c.held = false
  walked : c.walked = false
  waitKv : c.waitKv = false
  dest : c.rec_.dest = 0 ∨ c.rec_.dest = 2
  count : c.done < c.rec_.count
  near : s.nearBad r c.rec_ (c.rec_.addr c.done).toNat = false

theorem Cmd.next_near {c : Cmd} (h : c.rec_.dest = 0 ∨ c.rec_.dest = 2) : c.next = c.done := by
  have h3 : c.rec_.dest ≠ 3 := by omega
  have h1 : c.rec_.dest ≠ 1 := by omega
  rw [Cmd.next, Cmd.gathered, if_neg h3, if_neg (by simp [h1])]
  rfl

section
variable {s t : State} {r : Nat} {c : Cmd}

theorem State.elemAt_near (h : c.rec_.dest = 0 ∨ c.rec_.dest = 2) (tss : List (List (Target × Nat))) : s.elemAt r c tss =
    if c.rec_.out then s.elemOut r c (c.rec_.addr c.done).toNat tss else s.elemIn r c (c.rec_.addr c.done).toNat tss := by
  rw [State.elemAt]
  rw [if_neg (by omega), if_neg (by omega), if_neg (by omega), Cmd.next_near h]

/-- Nothing stands in the way of a moving command. -/
theorem State.Moves.clear (h : s.Moves r c) : (!c.started || c.stop.isSome || c.held || c.walked || c.waitKv) = false ∧
    ¬ c.rec_.count ≤ c.next ∧ s.ringWaits r c = false ∧ s.elemBad r c = false := by
  obtain ⟨hstarted, hstop, hheld, hwalked, hkv, hdest, hcount, hnear⟩ := h
  have hnext := Cmd.next_near hdest
  refine ⟨by rw [hstarted, hstop, hheld, hwalked, hkv]; rfl, by omega, ?_, by rw [State.elemBad, hnext, hnear, Bool.and_false]⟩
  rw [State.ringWaits]
  exact if_pos (by omega)

theorem State.Moves.step_one (h : s.Moves r c) (hlen : c.rowLen = 1) {tg : Target} (halign : (c.far.addr c.done).toNat % c.rec_.esz = 0)
    (hap : inAperture (c.far.addr c.done) = false) (hx : s.xlatPort r (4 + c.port) (c.far.addr c.done) c.access = .done (.ok tg))
    (hroute : s.routeDown (regionDie r) tg.addr = false) (hlacks : c.lacks r [(tg, c.rec_.esz)] = []) :
    s.streamStep r c = (s.askElem r c 1).elemAt r c [[(tg, c.rec_.esz)]] := by
  have hva : c.va = c.far.addr c.done := by rw [Cmd.va, Cmd.next_near h.dest]
  have hfar : (s.askElem r c 1).farXlat r c.port c.access (farPieces c.va c.rec_.esz) = .ok [(tg, c.rec_.esz)] := by
    rw [(s.asks_askElem r c 1).farXlat, hva, farPieces, if_pos halign, State.farXlat, hap, if_neg Bool.false_ne_true, hx]
    dsimp only
    rw [hroute, if_neg Bool.false_ne_true]
    rfl
  have hwhole : (decide (1 < c.rowLen) && !s.rowBad r c c.rowLen) = false := by rw [hlen]; rfl
  obtain ⟨hgo, hcount, hring, hbad⟩ := h.clear
  rw [State.streamStep]
  dsimp only
  rw [hgo, hring, hbad, hwhole, if_neg Bool.false_ne_true, if_neg hcount, if_neg Bool.false_ne_true, if_neg Bool.false_ne_true,
    if_neg Bool.false_ne_true]
  dsimp only
  rw [Bool.false_and, if_neg Bool.false_ne_true, hfar]
  dsimp only
  exact if_pos (by rw [List.flatten_singleton, hlacks]; rfl)

theorem State.Moves.step_row (h : s.Moves r c) (hlen : 1 < c.rowLen) {tss : List (List (Target × Nat))}
    (hlast : s.nearBad r c.rec_ ((c.rec_.addr c.done).toNat + c.rec_.esz * (c.rowLen - 1)) = false)
    (hrow : s.farRow r c c.rowLen = some tss) (hlacks : c.lacks r tss.flatten = []) :
    s.streamStep r c = (s.askElem r c c.rowLen).elemAt r c tss := by
  have hbad : s.rowBad r c c.rowLen = false := by rw [State.rowBad, Cmd.next_near h.dest, hlast, Bool.and_false]
  have hwhole : (decide (1 < c.rowLen) && !s.rowBad r c c.rowLen) = true := by rw [hbad, decide_eq_true hlen]; rfl
  obtain ⟨hgo, hcount, hring, helem⟩ := h.clear
  rw [State.streamStep]
  dsimp only
  rw [hgo, hring, helem, hwhole, if_neg Bool.false_ne_true, if_neg hcount, if_neg Bool.false_ne_true, if_neg Bool.false_ne_true, if_pos rfl, hrow]
  dsimp only
  exact if_pos (by rw [hlacks]; rfl)

/-! ## Rows -/

theorem Shape.esz_row {x : Shape} (h : x.esz ≤ 8) : 0 < x.esz ∧ x.esz * (64 / x.esz) = 64 := by
  obtain ⟨k, hk⟩ : ∃ k, x.esz = 2 ^ k := ⟨_, rfl⟩
  rw [hk] at h ⊢
  have hk3 : k ≤ 3 := (Nat.pow_le_pow_iff_right (by decide)).mp (h.trans_eq (by decide : 8 = 2 ^ 3))
  refine ⟨Nat.two_pow_pos k, Nat.mul_div_cancel' ?_⟩
  exact Nat.pow_dvd_pow 2 (by omega : k ≤ 6)

theorem Cmd.rowLen_spec (h : 1 < c.rowLen) (hdest : c.rec_.dest = 0 ∨ c.rec_.dest = 2) : c.rowLen = 64 / c.rec_.esz ∧ c.rec_.red = 0 := by
  rw [Cmd.rowLen] at h ⊢
  split at h
  · next hc =>
    rw [if_pos hc]
    refine ⟨rfl, ?_⟩
    simp only [Bool.and_eq_true, Bool.or_eq_true, decide_eq_true_eq] at hc
    obtain ⟨-, ⟨⟨-, hred⟩, -⟩ | ⟨h1, -⟩⟩ := hc
    · exact hred
    · omega
  · exact absurd h (Nat.lt_irrefl 1)

theorem farRowAt_aligned {n g : Nat} {tss : List (List (Target × Nat))} (h : farRowAt n tss = some g) : g % 64 = 0 := by
  unfold farRowAt at h
  split at h
  · split at h
    · next hc =>
      cases h
      exact of_decide_eq_true (Bool.and_eq_true _ _ ▸ hc).1
    · cases h
  · cases h

end


/-! PROOFS. Stream commands start, move elements, complete, and miss promises (R158, R337, R345-R347; O41). -/

/-! ## Elements moved -/

theorem getElem?_of_map_fst {α β : Type} {vs ws : List (α × β)} (h : ws.map Prod.fst = vs.map Prod.fst) {i : Nat} {v : α} {q : β}
    (hv : vs[i]? = some (v, q)) : ∃ p, ws[i]? = some (v, p) := by
  have hi : (ws.map Prod.fst)[i]? = (vs.map Prod.fst)[i]? := by rw [h]
  rw [List.getElem?_map, List.getElem?_map, hv] at hi
  cases hw : ws[i]? with
  | none => rw [hw] at hi; cases hi
  | some e =>
    rw [hw] at hi
    cases hi
    exact ⟨_, rfl⟩

section
variable {s : State} {r p : Nat} {c : Cmd} {tss : List (List (Target × Nat))}

/-- What a step that moved k of n accepted elements leaves. -/
theorem State.Sole.moved (h : s.Sole r p c) {u : State} {n k : Nat} {held : Option (Nat × List (Word × Bool))}
    (hu : u.regions = (s.askElem r c n).regions) (hstep : s.streamStep r c = u.moved r c tss (Cmd.step k held)) :
    ∃ w, exec (.streamElementPerform r p) s = .next w ∧ w.mem = u.mem ∧
      w.portCmds r p = [{ c with done := c.done + k, line := held, asked := max c.asked (c.next + n) }] ∧
      (w.handle (c.home.getD r) c.h).progress = c.done + k := by
  obtain ⟨hmem, hcmds, hfrozen, hprogress⟩ := u.moved_spec r c tss (Cmd.step k held)
  have hregion : ∀ q, u.region q = (s.askElem r c n).region q := fun q => congrArg (fun m : Map Nat Region => m.get q {}) hu
  have hthaw : ((s.streamStep r c).region r).frozen = none := by
    rw [hstep, hfrozen, hregion, (s.asks_askElem r c n).frozen]
    exact h.moving
  have hports : u.portCmds r p = [{ c with asked := max c.asked (c.next + n) }] := by
    rw [State.portCmds, hregion]
    exact State.askElem_cmds n h.only
  exact ⟨_, (congrArg Host.Outcome.next (h.atPort hthaw)).trans (congrArg _ hstep), hmem,
    State.portCmds_map (c := { c with asked := max c.asked (c.next + n) }) (f := Cmd.step k held) (fun _ => ⟨rfl, rfl⟩) hcmds hports, hprogress⟩

theorem State.nearElems_length (n a k : Nat) : (s.nearElems n a k).length = k := by
  rw [State.nearElems, List.length_map, List.length_range]

theorem State.nearElems_get (n a : Nat) {k i : Nat} (hi : i < k) : ∃ q, (s.nearElems n a k)[i]? = some (s.mem.readNat (a + n * i) n, q) := by
  rw [State.nearElems, List.getElem?_map, List.getElem?_range hi]
  exact ⟨_, rfl⟩

theorem State.nearElems_congr {t : State} (h : t.mem = s.mem) (n a k : Nat) : t.nearElems n a k = s.nearElems n a k := by
  unfold State.nearElems
  rw [h]

section
variable (h : s.Sole r p c) (hm : s.Moves r c) (hw : s.mem.wf = true) (hesz : c.rec_.esz ≤ 8)
include h hm hw hesz

theorem streamElement_in {t : Target} {v : Nat} {q : Bool} {line : Option (Nat × List (Word × Bool))} (hout : c.rec_.out = false)
    (hred : c.rec_.red = 0) (hlen : c.rowLen = 1) (halign : (c.far.addr c.done).toNat % c.rec_.esz = 0)
    (hap : inAperture (c.far.addr c.done) = false) (hx : s.xlatPort r (4 + p) (c.far.addr c.done) .load = .done (.ok t))
    (hroute : s.routeDown (regionDie r) t.addr = false) (hlacks : c.lacks r [(t, c.rec_.esz)] = [])
    (hread : s.farRead c.tick c.line [(t, c.rec_.esz)] = some ((v, q), line))
    (hserve : ∀ a ∈ c.rec_.nearAddrs r (c.rec_.addr c.done).toNat, s.bankServes a (5 + p) = true) :
    ∃ w, exec (.streamElementPerform r p) s = .next w ∧
      (∀ a ∈ c.rec_.nearAddrs r (c.rec_.addr c.done).toNat, w.mem.readNat a c.rec_.esz = v) ∧
      (∀ b, (∀ a ∈ c.rec_.nearAddrs r (c.rec_.addr c.done).toNat, b < a ∨ a + c.rec_.esz ≤ b) → w.mem.byte b = s.mem.byte b) ∧
      w.portCmds r p = [{ c with done := c.done + 1, line := line, asked := max c.asked (c.done + 1) }] ∧
      (w.handle (c.home.getD r) c.h).progress = c.done + 1 := by
  obtain ⟨-, rfl⟩ := h.mem
  have hask := s.asks_askElem r c 1
  have hacc : c.access = .load := by rw [Cmd.access, hout]; rfl
  have hreads : (s.askElem r c 1).farReads c.tick c.line [[(t, c.rec_.esz)]] = some ([(v, q)], line) := by
    rw [hask.farReads, State.farReads, hread]
    rfl
  obtain ⟨ws, u, hfst, humem, huregions, helem⟩ := State.elemIn_spec (s := s.askElem r c 1) (o := (c.rec_.addr c.done).toNat)
    (by rw [hask.frozen]; exact h.moving) (fun a ha => by
      obtain ⟨b, hb, hab⟩ := List.mem_flatMap.mp ha
      obtain rfl := List.mem_singleton.mp hab
      rw [hask.bankServes]
      exact hserve a hb) hred hreads rfl
  have hstep : s.streamStep r c = u.moved r c [[(t, c.rec_.esz)]] (Cmd.step 1 line) := by
    rw [hm.step_one hlen halign hap (by rw [hacc]; exact hx) hroute hlacks, State.elemAt_near hm.dest,
      if_neg (by rw [hout]; exact Bool.false_ne_true), helem]
    rfl
  obtain ⟨w, hexec, hmem, hports, hprogress⟩ := h.moved huregions hstep
  have hwlen : ws.length = 1 := by rw [← List.length_map (f := Prod.fst), hfst]; rfl
  obtain ⟨q', hget⟩ := getElem?_of_map_fst hfst (i := 0) rfl
  have hv : v < 2 ^ (8 * c.rec_.esz) := State.farRead_lt hread
  obtain ⟨-, hother, hnear⟩ := Memory.nearPuts_read hw hesz (vs := ws) (as := c.rec_.nearAddrs r (c.rec_.addr c.done).toNat)
    (fun h1 => by omega) (c.rec_.nearAddrs_apart r _ fun _ => by rw [hwlen]; omega)
  rw [hask.mem] at humem
  refine ⟨w, hexec, fun a ha => ?_, fun b hb => ?_, ?_, hprogress⟩
  · rw [hmem, humem]
    exact (hnear a ha 0 v q' hget).trans (Nat.mod_eq_of_lt hv)
  · rw [hmem, humem]
    exact hother b fun a ha => by rw [hwlen, Nat.mul_one]; exact hb a ha
  · rw [hports, Cmd.next_near hm.dest]

theorem streamRow_in {vs : List (Nat × Bool)} {line : Option (Nat × List (Word × Bool))} (hout : c.rec_.out = false)
    (hlast : s.nearBad r c.rec_ ((c.rec_.addr c.done).toNat + c.rec_.esz * (c.rowLen - 1)) = false) (hlen : 1 < c.rowLen)
    (hrow : s.farRow r c c.rowLen = some tss) (hlacks : c.lacks r tss.flatten = []) (hreads : s.farReads c.tick c.line tss = some (vs, line))
    (hserve : ∀ a ∈ c.rec_.nearAddrs r (c.rec_.addr c.done).toNat, ∀ b ∈ nearLines c.rowLen a, s.bankServes b (5 + p) = true) :
    ∃ w, exec (.streamElementPerform r p) s = .next w ∧ (w.handle (c.home.getD r) c.h).progress = c.done + 64 / c.rec_.esz ∧
      ∀ i v q, vs[i]? = some (v, q) → ∀ a ∈ c.rec_.nearAddrs r (c.rec_.addr c.done).toNat, w.mem.readNat (a + c.rec_.esz * i) c.rec_.esz = v := by
  obtain ⟨-, rfl⟩ := h.mem
  have hask := s.asks_askElem r c c.rowLen
  obtain ⟨hlen64, hred⟩ := Cmd.rowLen_spec hlen hm.dest
  obtain ⟨htlen, hsizes⟩ := State.farRow_spec hrow
  obtain ⟨hvlen, hlt⟩ := State.farReads_spec hreads hsizes
  obtain ⟨-, h64⟩ := Shape.esz_row hesz
  obtain ⟨ws, u, hfst, humem, huregions, helem⟩ := State.elemIn_spec (s := s.askElem r c c.rowLen) (o := (c.rec_.addr c.done).toNat) (tss := tss)
    (by rw [hask.frozen]; exact h.moving) (fun b hb => by
      obtain ⟨a, ha, hab⟩ := List.mem_flatMap.mp hb
      rw [hask.bankServes]
      exact hserve a ha b (htlen ▸ hab)) hred (by rw [hask.farReads]; exact hreads) hvlen
  have hstep : s.streamStep r c = u.moved r c tss (Cmd.step tss.length line) := by
    rw [hm.step_row hlen hlast hrow hlacks, State.elemAt_near hm.dest, if_neg (by rw [hout]; exact Bool.false_ne_true), helem]
  obtain ⟨w, hexec, hmem, -, hprogress⟩ := h.moved huregions hstep
  have hwlen : ws.length = 64 / c.rec_.esz := by rw [← List.length_map (f := Prod.fst), hfst, List.length_map, hvlen, htlen, hlen64]
  obtain ⟨-, -, hnear⟩ := Memory.nearPuts_read hw hesz (vs := ws) (as := c.rec_.nearAddrs r (c.rec_.addr c.done).toNat)
    (fun _ => by rw [hwlen]; exact h64) (c.rec_.nearAddrs_apart r _ fun _ => by rw [hwlen, h64]; decide)
  rw [hask.mem] at humem
  refine ⟨w, hexec, by rw [hprogress, htlen, hlen64], fun i v q hv a ha => ?_⟩
  obtain ⟨q', hget⟩ := getElem?_of_map_fst hfst hv
  rw [hmem, humem]
  exact (hnear a ha i v q' hget).trans (Nat.mod_eq_of_lt (hlt _ (List.mem_of_getElem? hv)))

theorem streamRow_out {g : Nat} (hout : c.rec_.out = true)
    (hlast : s.nearBad r c.rec_ ((c.rec_.addr c.done).toNat + c.rec_.esz * (c.rowLen - 1)) = false) (hlen : 1 < c.rowLen)
    (hrow : s.farRow r c c.rowLen = some tss) (hlacks : c.lacks r tss.flatten = [])
    (hserve : ∀ a ∈ c.rec_.nearAddrs r (c.rec_.addr c.done).toNat, ∀ b ∈ nearLines c.rowLen a, s.bankServes b (5 + p) = true)
    (hg : farRowAt c.rec_.esz tss = some g) :
    ∃ w, exec (.streamElementPerform r p) s = .next w ∧ (w.handle (c.home.getD r) c.h).progress = c.done + 64 / c.rec_.esz ∧
      sameBytesBut g 64 s w ∧ ∀ i, i < 64 / c.rec_.esz → w.mem.readNat (g + c.rec_.esz * i) c.rec_.esz =
        s.mem.readNat ((c.rec_.nearAddrs r (c.rec_.addr c.done).toNat).headD 0 + c.rec_.esz * i) c.rec_.esz := by
  obtain ⟨-, rfl⟩ := h.mem
  have hask := s.asks_askElem r c c.rowLen
  obtain ⟨hlen64, -⟩ := Cmd.rowLen_spec hlen hm.dest
  obtain ⟨htlen, -⟩ := State.farRow_spec hrow
  obtain ⟨-, h64⟩ := Shape.esz_row hesz
  obtain ⟨u, poison, humem, huregions, helem⟩ := State.elemOut_row (s := s.askElem r c c.rowLen) (r := r) (o := (c.rec_.addr c.done).toNat)
    (fun b hb => by
      obtain ⟨a, ha, hab⟩ := List.mem_flatMap.mp hb
      rw [hask.bankServes]
      exact hserve a ha b (htlen ▸ hab)) hg
  have hstep : s.streamStep r c = u.moved r c tss (Cmd.step tss.length none) := by
    rw [hm.step_row hlen hlast hrow hlacks, State.elemAt_near hm.dest, if_pos hout, helem]
  obtain ⟨w, hexec, hmem, -, hprogress⟩ := h.moved huregions hstep
  rw [State.nearElems_congr hask.mem, hask.mem, htlen, hlen64] at humem
  refine ⟨w, hexec, by rw [hprogress, htlen, hlen64], ?_, fun i hi => ?_⟩
  · have := farRowAt_aligned hg
    exact sameBytesBut_writeRow hw (by omega) (hmem.trans humem)
  · obtain ⟨q, hget⟩ := s.nearElems_get c.rec_.esz ((c.rec_.nearAddrs r (c.rec_.addr c.done).toNat).headD 0) hi
    rw [hmem, humem, Memory.readNat_writeRow_elem hw (by rw [State.nearElems_length, h64]) poison hget, ← pow_256]
    exact Nat.mod_eq_of_lt (Memory.readNat_lt ..)

theorem streamElement_out {g : Nat} (hout : c.rec_.out = true) (hlen : c.rowLen = 1) (halign : (c.far.addr c.done).toNat % c.rec_.esz = 0)
    (hap : inAperture (c.far.addr c.done) = false) (hx : s.xlatPort r (4 + p) (c.far.addr c.done) .store = .done (.ok (.plain g)))
    (hroute : s.routeDown (regionDie r) g = false) (hlacks : c.lacks r [(.plain g, c.rec_.esz)] = [])
    (hserve : ∀ a ∈ c.rec_.nearAddrs r (c.rec_.addr c.done).toNat, s.bankServes a (5 + p) = true) :
    ∃ w, exec (.streamElementPerform r p) s = .next w ∧
      w.mem.readNat g c.rec_.esz = s.mem.readNat ((c.rec_.nearAddrs r (c.rec_.addr c.done).toNat).headD 0) c.rec_.esz ∧
      sameBytesBut g c.rec_.esz s w ∧
      w.portCmds r p = [{ c with done := c.done + 1, line := none, asked := max c.asked (c.done + 1) }] ∧
      (w.handle (c.home.getD r) c.h).progress = c.done + 1 := by
  obtain ⟨-, rfl⟩ := h.mem
  have hask := s.asks_askElem r c 1
  have hacc : c.access = .store := by
    have := hm.dest
    rw [Cmd.access, hout, Bool.true_and]
    exact if_pos (decide_eq_true (by omega))
  obtain ⟨u, poison, humem, huregions, helem⟩ := State.elemOut_one (s := s.askElem r c 1) (r := r) (o := (c.rec_.addr c.done).toNat)
    (tss := [[(.plain g, c.rec_.esz)]]) (fun a ha => by
      obtain ⟨b, hb, hab⟩ := List.mem_flatMap.mp ha
      obtain rfl := List.mem_singleton.mp hab
      rw [hask.bankServes]
      exact hserve a hb) rfl
  have hstep : s.streamStep r c = u.moved r c [[(.plain g, c.rec_.esz)]] (Cmd.step 1 none) := by
    rw [hm.step_one (tg := .plain g) hlen halign hap (by rw [hacc]; exact hx) hroute hlacks, State.elemAt_near hm.dest, if_pos hout, helem]
  obtain ⟨w, hexec, hmem, hports, hprogress⟩ := h.moved huregions hstep
  rw [hask.mem] at humem
  refine ⟨w, hexec, ?_, ?_, ?_, hprogress⟩
  · rw [hmem, humem, Memory.readNat_store hw, BitVec.toNat_ofNat, Nat.mod_mod_of_dvd _ (Nat.pow_dvd_pow 2 (by omega)), ← pow_256]
    exact Nat.mod_eq_of_lt (Memory.readNat_lt ..)
  · obtain ⟨hpos, -⟩ := Shape.esz_row hesz
    intro b
    rw [hmem, humem, Memory.byte_store hw, Memory.poisoned_store hw]
    exact ⟨fun hb => if_neg (by omega), fun hb => if_neg (by omega)⟩
  · rw [hports, Cmd.next_near hm.dest]

end

/-! ## Start and completion (R337, R346, R347) -/

theorem stream_starts (h : s.Sole r p c) (hstarted : c.started = false) (hmay : s.mayStart r c = true) :
    ∃ t, exec (.streamCommandStart r p) s = .next t ∧ sameBytes s t ∧ t.portCmds r p = [{ c with started := true, stop := c.startCause }] := by
  have hstart : s.startCmd r c = s.modCmd r c.tick (fun c => { c with started := true, stop := c.startCause }) := by
    rw [State.startCmd, hstarted, hmay]
    rfl
  obtain ⟨hmem, hcmds, hfrozen⟩ := s.modCmd_spec r c.tick (fun c => { c with started := true, stop := c.startCause })
  have hport := h.atPort (go := fun s c => s.startCmd r c) (by rw [hstart, hfrozen]; exact h.moving)
  refine ⟨_, congrArg Host.Outcome.next (hport.trans hstart), fun a => ⟨rfl, rfl⟩, ?_⟩
  exact State.portCmds_map (f := fun c => { c with started := true, stop := c.startCause }) (fun _ => ⟨rfl, rfl⟩) hcmds h.only

theorem State.books_missOf (s : State) (r h : Nat) : s.Books (s.missOf r h) := by
  rw [State.missOf]
  split
  · exact ((s.books_setHandle r h _).trans (State.count_onlyCounts _ r 0x0E 1).books).trans (State.books_raise _ r .promise _)
  · exact .refl s

/-- What the end of a command without claimed slots leaves. -/
theorem State.completeCmd_spec (s : State) (r : Nat) (c : Cmd) (cause : Byte) (hclaimed : c.claimed = []) : (s.completeCmd r c cause).mem = s.mem ∧
    ((s.completeCmd r c cause).region r).cmds = (s.region r).cmds.filter (fun e => e.tick ≠ c.tick) ∧
    ((s.completeCmd r c cause).region r).frozen = (s.region r).frozen ∧
    ((s.completeCmd r c cause).handle (c.home.getD r) c.h).st = .full ∧ ((s.completeCmd r c cause).handle (c.home.getD r) c.h).cause = cause ∧
    ((s.completeCmd r c cause).handle (c.home.getD r) c.h).progress = c.done := by
  have hcomplete : s.completeCmd r c cause = ((s.missOf (c.home.getD r) c.h).dropCmd r c).modHandleOf r c
      (fun x => { x with st := .full, held := false, cause := cause, progress := c.done }) := by
    rw [← State.closeClaims_none (s.missOf (c.home.getD r) c.h) c hclaimed]
    rfl
  have hmiss := s.books_missOf (c.home.getD r) c.h
  have hmod := ((s.missOf (c.home.getD r) c.h).dropCmd r c).books_modHandleOf r c
    (fun x => { x with st := .full, held := false, cause := cause, progress := c.done })
  have hdrop := (s.missOf (c.home.getD r) c.h).dropCmd_region r c r
  rw [if_pos rfl] at hdrop
  rw [hcomplete]
  refine ⟨hmod.mem.trans ((State.dropCmd_mem ..).trans hmiss.mem), ?_, ?_, ?_⟩
  · rw [(hmod.regions r).1, hdrop, ← (hmiss.regions r).1]
    rfl
  · rw [(hmod.regions r).2, hdrop, ← (hmiss.regions r).2]
    rfl
  · rw [State.modHandleOf, State.handle_setHandle_same]
    exact ⟨rfl, rfl, rfl⟩

theorem stream_completes (h : s.Sole r p c) (hstarted : c.started = true) (hkv : c.waitKv = false) (hclaimed : c.claimed = [])
    (hend : c.stop ≠ none ∨ c.rec_.count ≤ c.done) :
    ∃ t, exec (.streamCommandComplete r p) s = .next t ∧ sameBytes s t ∧ (∀ e ∈ (t.region r).cmds, e.tick ≠ c.tick) ∧
      (t.handle (c.home.getD r) c.h).st = .full ∧ (t.handle (c.home.getD r) c.h).cause = c.stop.getD 0 ∧
      (t.handle (c.home.getD r) c.h).progress = c.done := by
  have hcomplete : s.endCmd r c = s.completeCmd r c (c.stop.getD 0) := by
    rw [State.endCmd, hstarted, hkv]
    refine (if_neg (by decide)).trans ?_
    cases hs : c.stop with
    | some x => rfl
    | none => exact if_pos (hend.resolve_left fun hne => hne hs)
  obtain ⟨hmem, hcmds, hfrozen, hst, hcause, hprogress⟩ := s.completeCmd_spec r c (c.stop.getD 0) hclaimed
  have hport := h.atPort (go := fun s c => s.endCmd r c) (by rw [hcomplete, hfrozen]; exact h.moving)
  refine ⟨_, congrArg Host.Outcome.next (hport.trans hcomplete), fun a => by rw [hmem]; exact ⟨rfl, rfl⟩, fun e he => ?_, hst, hcause, hprogress⟩
  rw [hcmds] at he
  exact of_decide_eq_true (List.mem_filter.mp he).2

/-! ## A launch that was swapped out (R156), and a promise (R158) -/

theorem Map.get?_append_of_not_mem {κ ν : Type} [DecidableEq κ] {k : κ} {l m : Map κ ν} (h : ∀ e ∈ l, e.1 ≠ k) :
    Map.get? (l ++ m) k = Map.get? m k := by
  induction l with
  | nil => rfl
  | cons e l ih =>
    obtain ⟨j, v⟩ := e
    exact (if_neg (h (j, v) List.mem_cons_self)).trans (ih fun e he => h e (List.mem_cons_of_mem _ he))

theorem Map.get?_filter_of_pos {κ ν : Type} [DecidableEq κ] {k : κ} {f : κ × ν → Bool} {l : Map κ ν} (h : ∀ e ∈ l, e.1 = k → f e = true) :
    Map.get? (l.filter f) k = Map.get? l k := by
  induction l with
  | nil => rfl
  | cons e l ih =>
    have ih := ih fun e he => h e (List.mem_cons_of_mem _ he)
    obtain ⟨j, v⟩ := e
    rw [List.filter_cons, Map.get?]
    by_cases hj : j = k
    · rw [if_pos (h (j, v) List.mem_cons_self hj), Map.get?, if_pos hj, if_pos hj]
    · rw [if_neg hj]
      split
      · rw [Map.get?, if_neg hj]; exact ih
      · exact ih

theorem stream_away {e : Nat × FImage} (hw : s.mem.wf = true) (honly : s.portCmds r p = [c]) (he : s.awayOf r c = some e) :
    ∃ t, exec (.streamElementPerform r p) s = .next t ∧ { t.region r with cmds := (s.region r).cmds } = s.region r ∧
      (∀ k n, k.region = r → t.ring? k n = s.ring? k n) ∧
      ∀ b, inStores r b = true → t.mem.byte b = s.mem.byte b ∧ t.mem.poisoned b = s.mem.poisoned b := by
  obtain ⟨a, f⟩ := e
  have hport : s.atPort r p (fun s c => s.streamStep r c) = ((s.viewOf r f).streamStep r c).unview s r a f := by
    rw [State.atPort, honly, List.foldl_cons, List.foldl_nil, State.forCmd, he]
  have hwf : ((s.viewOf r f).streamStep r c).mem.wf = true := (State.streamStep_keeps _ r c).2 (Memory.wf_withStores hw _ _)
  refine ⟨_, congrArg Host.Outcome.next hport, ?_, fun k n hk => ?_, fun b hb => ?_⟩
  · have hregion : (((s.viewOf r f).streamStep r c).unview s r a f).region r =
        { s.region r with cmds := (((s.viewOf r f).streamStep r c).region r).cmds } := Map.get_set_same ..
    rw [hregion]
  · refine (Map.get?_append_of_not_mem fun e he => ?_).trans (Map.get?_filter_of_pos fun e _ hek => ?_)
    · have := of_decide_eq_true (List.mem_filter.mp he).2
      exact fun hek => this (by rw [hek]; exact hk)
    · exact decide_eq_true (by rw [hek]; exact hk)
  · rw [State.unview_mem, Memory.byte_withStores_in hwf hw hb, Memory.poisoned_withStores hwf, if_pos hb]
    exact ⟨rfl, rfl⟩

theorem promise_missed {r h : Nat} {s : State} (hst : (s.handle r h).st = .filling) (hwatch : (s.handle r h).watch = true)
    (hmissed : (s.handle r h).missed = false) (hpast : (s.handle r h).promise.toNat ≤ s.cyc) (hl : (s.region r).launch.isSome = true)
    (hh : h < 2 ^ 64) :
    ∃ t, exec (.promiseMissed r h) s = .next t ∧ sameBytes s t ∧ t.handle r h = { s.handle r h with missed := true } ∧
      h ∈ (t.core r).pend.promises := by
  have hexec : exec (.promiseMissed r h) s = .next (((s.setHandle r h { s.handle r h with missed := true }).count r 0x0E 1).raise r .promise
      (BitVec.ofNat 64 h)) := if_pos (by simp [hst, hwatch, hmissed, hpast])
  have hcount := State.count_onlyCounts (s.setHandle r h { s.handle r h with missed := true }) r 0x0E 1
  have hregion := hcount.regions r
  have hmem : ((s.setHandle r h { s.handle r h with missed := true }).count r 0x0E 1).mem = s.mem := by rw [hcount.rest]; rfl
  have hhandle : ((s.setHandle r h { s.handle r h with missed := true }).count r 0x0E 1).handle r h = { s.handle r h with missed := true } := by
    rw [State.handle, hregion]
    exact State.handle_setHandle_same ..
  have hlaunch : (((s.setHandle r h { s.handle r h with missed := true }).count r 0x0E 1).region r).launch.isSome = true := by
    rw [hregion]
    show ((s.setHandle r h _).region r).launch.isSome = true
    rw [State.setHandle, State.region_modRegion_same]
    exact hl
  generalize (s.setHandle r h { s.handle r h with missed := true }).count r 0x0E 1 = t at hexec hmem hhandle hlaunch
  rw [State.raise, if_pos hlaunch] at hexec
  refine ⟨_, hexec, fun a => ?_, ?_, ?_⟩
  · show t.mem.byte a = s.mem.byte a ∧ t.mem.poisoned a = s.mem.poisoned a
    rw [hmem]
    exact ⟨rfl, rfl⟩
  · rw [State.handle, State.modCore, State.region_modRegion_same]
    exact hhandle
  · rw [State.core_modCore_same, Core.hold, if_neg (by simp)]
    show h ∈ Pend.promises (if _ then _ else _)
    have hto : (BitVec.ofNat 64 h).toNat = h := by rw [BitVec.toNat_ofNat, Nat.mod_eq_of_lt hh]
    rw [hto]
    split
    · next hin => exact List.contains_iff_mem.mp hin
    · exact mem_insIdx.mpr (.inl rfl)

end

theorem streamsRun : Says.StreamsRun := by
  refine ⟨fun r p s c h hstarted hmay => stream_starts h hstarted hmay, ?_, ?_, ?_, ?_, ?_, ?_,
    fun r p s c h hstarted hkv hclaimed hend => stream_completes h hstarted hkv hclaimed hend,
    fun r p s c e hw honly he => stream_away hw honly he,
    fun r h s hst hwatch hmissed hpast hl hh => promise_missed hst hwatch hmissed hpast hl hh, fun r h s hmissed => ?_⟩
  · intro r p s c t v q line x o far hw h hstarted hstop hheld hwalked hkv hdest hesz hout hred hcount hbad hlen halign hap hx hroute hlacks hread hserve
    exact streamElement_in h ⟨hstarted, hstop, hheld, hwalked, hkv, hdest, hcount, hbad⟩ hw hesz hout hred hlen halign hap hx hroute hlacks hread hserve
  · intro s tick line a n
    rw [State.farRead, State.farOne]
    cases hp : s.postedBlocks a tick
    · simp [State.readTarget, State.farRead]
    · rfl
  · intro s tick l base off n
    have hheld : (some (lineSlot base (off / 64) 0, l)).filter (fun l => l.1 = lineSlot base (off / 64) 0) =
        some (lineSlot base (off / 64) 0, l) := Option.filter_eq_some_iff.mpr ⟨rfl, decide_eq_true rfl⟩
    rw [State.farRead, State.farOne, hheld]
    simp [State.farRead]
  · intro r p s c tss vs line x o hw h hstarted hstop hheld hwalked hkv hdest hesz hout hcount hbad hlast hlen hrow hlacks hreads hserve
    exact streamRow_in h ⟨hstarted, hstop, hheld, hwalked, hkv, hdest, hcount, hbad⟩ hw hesz hout hlast hlen hrow hlacks hreads hserve
  · intro r p s c tss g x o a hw h hstarted hstop hheld hwalked hkv hdest hesz hout hcount hbad hlast hlen hrow hlacks hserve hg
    exact streamRow_out h ⟨hstarted, hstop, hheld, hwalked, hkv, hdest, hcount, hbad⟩ hw hesz hout hlast hlen hrow hlacks hserve hg
  · intro r p s c g x o far a hw h hstarted hstop hheld hwalked hkv hdest hesz hout hcount hbad hlen halign hap hx hroute hlacks hserve
    exact streamElement_out h ⟨hstarted, hstop, hheld, hwalked, hkv, hdest, hcount, hbad⟩ hw hesz hout hlen halign hap hx hroute hlacks hserve
  · exact if_neg (by simp [hmissed])

/-- Settles O41, part by part: handles, stream commands, half-writes at segments. -/
theorem streamsAndHandles : Obligations.StreamsAndHandles := ⟨handleInstructionsAct, streamsRun, kvSegmentsAct⟩

end Sys2Proof.Machine
